-- ==== Sys2Proof/Word.lean ====
section
/-! DEFINITION. The word types of the Nirura N4 (00_scope R1): bytes, 32-bit register words and 64-bit values. -/

namespace Sys2Proof

/-- One byte. -/
abbrev Byte := BitVec 8

/-- The 32 data bits of one register word (03_numbers R53). -/
abbrev Word := BitVec 32

/-- A 64-bit value: a register pair, a code word, a generic address. -/
abbrev DWord := BitVec 64

end Sys2Proof
end

