-- ==== Sys2Proof/Syntax.lean ====
section
/-! DEFINITION. The instruction set as data: one constructor of `Instr` per row of spec/opcode_table.json.
The first 135 are code words (02_instruction_word, Table 2.12); the rest are the device's own steps
(95_what_each_step_holds). Operands stand decoded: register fields are natural numbers because the effective
index of R32 is computed without truncation. -/

namespace Sys2Proof

/-- The guard of a code word (R37): predicate `p`, negated when `neg`. -/
structure Guard where
  neg : Bool
  p : Nat
deriving DecidableEq, Repr

/-- A predicate source field (R183). -/
structure PredSrc where
  neg : Bool
  p : Nat
deriving DecidableEq, Repr

/-- The format tags of Table 3.3. Codes 14 and 15 are never set by any means (R64). -/
inductive Tag where
  | raw | u32 | s32 | f32 | bf2 | h2 | q8 | q4 | w64l | w64h | refl | refh | scl | hnd
deriving DecidableEq, Repr

/-- ISETP comparisons (R195). -/
inductive Cmp where | eq | ne | lt | le | gt | ge
deriving DecidableEq, Repr

/-- ISETP combination with the second predicate (R195). -/
inductive Comb where | none | and | or | xor
deriving DecidableEq, Repr

/-- The amount of a shift: register field b, or the immediate of `.i` (R197). -/
inductive ShAmt where | reg (b : Nat) | imm (n : Nat)
deriving DecidableEq, Repr

/-- Rounding field (R204). -/
inductive Rm where | ne | rz | ru | rd | dyn
deriving DecidableEq, Repr

/-- Operand modifiers of R205. -/
structure FMods where
  na : Bool
  nb : Bool
  aa : Bool
  ab : Bool
deriving DecidableEq, Repr

/-- FSETP conditions (Table 10.3). -/
inductive FCond where | eq | ne | lt | le | gt | ge | un | ord
deriving DecidableEq, Repr

/-- LD widths (Table 2.15). -/
inductive LdWidth where | z8 | s8 | z16 | s16 | b32 | b64 | b128
deriving DecidableEq, Repr

/-- ST widths (Table 2.15). -/
inductive StWidth where | z8 | z16 | b32 | b64 | b128
deriving DecidableEq, Repr

/-- Access classes (R256). -/
inductive AccClass where | plain | shared | stream
deriving DecidableEq, Repr

/-- Atomic operations (Table 12.6). -/
inductive AtomOp where
  | add | fadd | smin | smax | zmin | zmax | and | or | xor | exch | add64 | exch64
deriving DecidableEq, Repr

/-- The order of an atomic (Table 2.15). -/
inductive Order where | relaxed | acq | rel | acqrel
deriving DecidableEq, Repr

/-- The order of FENCE (R277). -/
inductive FenceOrd where | acq | rel | acqrel | sc
deriving DecidableEq, Repr

/-- LXCH modes (R172). -/
inductive LxMode where | abs | rot | xor | low
deriving DecidableEq, Repr

/-- PAGR kinds (R173). -/
inductive PagrKind where | and | or | eq | mask | count
deriving DecidableEq, Repr

/-- REDG and SCANG operations (Table 8.7). -/
inductive RedOp where | sadd | zadd | fadd | smin | smax | fmin | fmax
deriving DecidableEq, Repr

/-- A form T operand: a register field, or a handle under a source bit (Table 2.18). -/
inductive TOpnd where | reg (i : Nat) | hnd (n : Nat)
deriving DecidableEq, Repr

/-- Lifetime classes (R232). -/
inductive LifeClass where | refreshed | lapsing | trapping
deriving DecidableEq, Repr

/-- The special registers of Table 8.1. -/
inductive Special where
  | lane | gslot | gidx | core | die | ctx | tick | cyc | lin | par | gen | rndc | cdep | rpt | swp | fst | fmode
  | lapf | tcause | tpc | tval | tmask | tvec | spb | spl | stb | grp0 | grp1 | grp2 | grp3 | escm
deriving DecidableEq, Repr

/-- A DaxLink flit (R381): the header fields of Table 18.2 and the 232 payload bytes, byte k of the payload in
bits [8k+7:8k]. -/
structure Flit where
  eseq : Nat
  dst : Nat
  src : Nat
  ctx : Nat
  ty : Nat
  vl : Nat
  lseq : Nat
  lack : Nat
  payload : Nat
deriving DecidableEq, Repr

/-- Junction temperature bands of R425: at most 105 °C, above 105 °C, above 115 °C. -/
inductive Temp where | normal | hot | veryHot
deriving DecidableEq, Repr

/-- A firmware image as R417 sees it: its bytes, and its signature over SHA-384 of header and body. -/
structure Image where
  magic : Nat
  version : Nat
  len : Nat
  body : List Byte
  sig : Nat
deriving DecidableEq, Repr, Inhabited

/-- What the record of a management frame says (R393, R418 to R420; log entry 114): a read of the register block, or of the doorbells, and
the answer under its tag; a write; an SPDM request and its answer; a firmware image, whose writing is cut off when `cut`. -/
inductive Frame where
  | read (tag : Nat) (bar2 : Bool) (off n : Nat)
  | answer (tag v : Nat)
  | write (bar2 : Bool) (off n w : Nat)
  | spdm (req v : Nat)
  | spdmAnswer (kind : Nat) (body : List Nat)
  | image (x : Image) (cut : Bool)
deriving DecidableEq, Repr, Inhabited

/-- The two SPDM transports (R419): DOE on function 0, and the management frames of a device. -/
inductive Transport where | doe | daxlink (src : Nat)
deriving DecidableEq, Repr

/-- Host AtomicOps (R393). -/
inductive HostAtomic where | fetchAdd | swap | cas
deriving DecidableEq, Repr

/-- Where a soft error strikes (Table 19.1). -/
inductive ErrSite where
  | regWord (gid row lane : Nat)
  | regMeta (gid row : Nat)
  | scratchWord (gid row word : Nat)
  | scratchMeta (gid row : Nat)
  | stackWord (gid row word : Nat)
  | windowWord (iid row word : Nat)
  | tileWord (iid row word : Nat)
  | tileMeta (iid row : Nat)
  | stackMeta (gid row : Nat)
  | windowMeta (iid row : Nat)
  | column (core sector : Nat)
  | l2 (die sector : Nat)
  | hbm (sector : Nat)
deriving DecidableEq, Repr

/-- A host access to the register block (R420): its offset and its size in bytes. -/
structure RegAccess where
  off : Nat
  n : Nat
deriving DecidableEq, Repr

/-- A place in BAR4 (R393, R394): the PCIe function and the offset in its window. -/
structure BarAt where
  fn : Nat
  off : Nat
deriving DecidableEq, Repr

/-- What a cold reset meets beside the steps that fail (R415): the alternatives that fail too, the modules of each bridge that train, and
the stacks that fail at 8 Gb/s. -/
structure BootAlt where
  altFails : Nat
  mods : List Nat
  dead : Nat
deriving DecidableEq, Repr

/-- The instruction set: one constructor per row of the opcode table. -/
inductive Instr where
  | nop (g : Guard)
  | bra (g : Guard) (off : Int)
  | jmp (g : Guard) (a : Nat)
  | call (g : Guard) (d : Nat) (off : Int)
  | calli (g : Guard) (d a : Nat)
  | ret (g : Guard) (a : Nat)
  | exit (g : Guard)
  | yield (g : Guard)
  | sleep (g : Guard) (n : Nat)
  | beat (g : Guard)
  | trap (g : Guard) (imm : Nat)
  | rtt (g : Guard) (past : Bool)
  | bkpt (g : Guard) (imm : Nat)
  | mov (g : Guard) (d a k : Nat)
  | movi (g : Guard) (d : Nat) (tag : Tag) (imm : Nat)
  | iadd (g : Guard) (d a b k : Nat) (sg sat : Bool)
  | iaddi (g : Guard) (d a : Nat) (ka sg sat : Bool) (imm : Int)
  | isub (g : Guard) (d a b k : Nat) (sg sat : Bool)
  | imul (g : Guard) (d a b k : Nat) (sg : Bool)
  | imulh (g : Guard) (d a b k : Nat) (sg : Bool)
  | imad (g : Guard) (d a b c k : Nat) (sg sat : Bool)
  | imadw (g : Guard) (d a b c k : Nat) (sg : Bool)
  | iadd64 (g : Guard) (d a b k : Nat) (sub : Bool)
  | lea (g : Guard) (d a b k sh : Nat)
  | imin (g : Guard) (d a b k : Nat) (sg : Bool)
  | imax (g : Guard) (d a b k : Nat) (sg : Bool)
  | iabs (g : Guard) (d a k : Nat) (sg : Bool)
  | isetp (g : Guard) (p a b : Nat) (q : PredSrc) (k : Nat) (cmp : Cmp) (sg : Bool) (comb : Comb)
  | sel (g : Guard) (d a b : Nat) (q : PredSrc) (k : Nat)
  | shl (g : Guard) (d a : Nat) (amt : ShAmt) (k : Nat)
  | shr (g : Guard) (d a : Nat) (amt : ShAmt) (k : Nat)
  | sar (g : Guard) (d a : Nat) (amt : ShAmt) (k : Nat)
  | rol (g : Guard) (d a : Nat) (amt : ShAmt) (k : Nat)
  | and (g : Guard) (d a b k : Nat)
  | or (g : Guard) (d a b k : Nat)
  | xor (g : Guard) (d a b k : Nat)
  | bitf (g : Guard) (d a b c k fn : Nat)
  | popc (g : Guard) (d a k : Nat)
  | clz (g : Guard) (d a k : Nat)
  | brev (g : Guard) (d a k : Nat)
  | bfe (g : Guard) (d a b k : Nat) (sg : Bool)
  | bfi (g : Guard) (d a b c k : Nat)
  | bsel (g : Guard) (d a b c k : Nat) (sx : Bool)
  | pbitf (g : Guard) (p : Nat) (q0 q1 q2 : PredSrc) (k fn : Nat)
  | p2v (g : Guard) (d k : Nat)
  | v2p (g : Guard) (a k : Nat)
  | fadd (g : Guard) (d a b k : Nat) (rm : Rm) (mods : FMods)
  | fmul (g : Guard) (d a b k : Nat) (rm : Rm) (mods : FMods)
  | ffma (g : Guard) (d a b c k : Nat) (rm : Rm) (mods : FMods) (nc : Bool)
  | fmin (g : Guard) (d a b k : Nat) (mods : FMods)
  | fmax (g : Guard) (d a b k : Nat) (mods : FMods)
  | fsetp (g : Guard) (p a b k : Nat) (mods : FMods) (cnd : FCond)
  | frnd (g : Guard) (d a k : Nat) (rm : Rm)
  | frcp (g : Guard) (d a k : Nat)
  | frsq (g : Guard) (d a k : Nat)
  | fsqrt (g : Guard) (d a k : Nat) (rm : Rm)
  | fex2 (g : Guard) (d a k : Nat)
  | flg2 (g : Guard) (d a k : Nat)
  | fsin (g : Guard) (d a k : Nat)
  | fcos (g : Guard) (d a k : Nat)
  | fclass (g : Guard) (d a k : Nat)
  | hadd2 (g : Guard) (d a b k : Nat) (rm : Rm) (h : Bool)
  | hmul2 (g : Guard) (d a b k : Nat) (rm : Rm) (h : Bool)
  | hfma2 (g : Guard) (d a b c k : Nat) (rm : Rm) (h : Bool)
  | dot2 (g : Guard) (d a b c k : Nat) (rm : Rm) (h : Bool)
  | cvt (g : Guard) (d a b k : Nat) (dt : Tag) (rm : Rm) (sat : Bool)
  | qpack (g : Guard) (d a b c k : Nat) (rm : Rm) (n4 : Bool)
  | qunpk (g : Guard) (d a b c k : Nat) (n4 : Bool)
  | tagq (g : Guard) (d a k : Nat)
  | tags (g : Guard) (d a k : Nat) (tag : Tag)
  | swadd (g : Guard) (d a b cnt sd sa sb : Nat)
  | swmul (g : Guard) (d a b cnt sd sa sb : Nat)
  | swfma (g : Guard) (d a b cnt sd sa sb : Nat)
  | swmax (g : Guard) (d a b cnt sd sa sb : Nat)
  | swcvt (g : Guard) (d a cnt sd sa : Nat)
  | swcopy (g : Guard) (d a cnt sd sa : Nat)
  | swsum (g : Guard) (d a cnt sa : Nat)
  | swex2 (g : Guard) (d a cnt sd sa : Nat)
  | ld (g : Guard) (d base idx : Nat) (off : Int) (w : LdWidth) (acq : Bool) (sc : Nat) (cls : AccClass)
  | st (g : Guard) (d base idx : Nat) (off : Int) (w : StWidth) (rel : Bool) (sc : Nat) (cls : AccClass)
  | atom (g : Guard) (d base idx : Nat) (off : Int) (op : AtomOp) (ord : Order) (sc : Nat)
  | cas (g : Guard) (d base idx : Nat) (off : Int) (w64 : Bool) (ord : Order) (sc : Nat)
  | red (g : Guard) (d base idx : Nat) (off : Int) (op : AtomOp) (rel : Bool) (sc : Nat)
  | fence (g : Guard) (ord : FenceOrd) (sc : Nat)
  | cinv (g : Guard) (all : Bool) (base idx : Nat) (off : Int)
  | cclean (g : Guard) (all : Bool) (base idx : Nat) (off : Int)
  | cpa (g : Guard) (d base idx : Nat) (off : Int) (lgw bt : Nat) (cls : AccClass)
  | waitb (g : Guard) (bt n : Nat)
  | cpb (g : Guard) (d base idx : Nat) (off : Int) (cls : AccClass)
  | objinit (g : Guard) (d a b k : Nat)
  | publish (g : Guard) (d a k sc : Nat)
  | pubst (g : Guard) (d a b k sc : Nat)
  | refmk (g : Guard) (d a k : Nat)
  | objst (g : Guard) (d a b k : Nat)
  | reclaim (g : Guard) (a k : Nat)
  | bar (g : Guard) (bn gs k : Nat)
  | bara (g : Guard) (d bn gs k : Nat)
  | barw (g : Guard) (a bn gs k : Nat)
  | xbinit (g : Guard) (a b k : Nat)
  | xbarr (g : Guard) (d a b k : Nat)
  | xbwait (g : Guard) (a b k : Nat)
  | xbtry (g : Guard) (p a b k : Nat)
  | lxch (g : Guard) (d a b k : Nat) (mode : LxMode) (kp : Bool)
  | pagr (g : Guard) (d : Nat) (q : PredSrc) (k : Nat) (kind : PagrKind)
  | redg (g : Guard) (d a k : Nat) (op : RedOp)
  | scang (g : Guard) (d a k : Nat) (op : RedOp) (excl : Bool)
  | cdsend (g : Guard) (d a cd n k : Nat)
  | cdrecv (g : Guard) (d a cd k : Nat)
  | cdpeek (g : Guard) (d a cd k : Nat)
  | cdclose (g : Guard) (d cd k : Nat)
  | launch (g : Guard) (d a b k : Nat)
  | qsig (g : Guard) (d a b k : Nat)
  | cbset (g : Guard) (a b k : Nat)
  | resample (g : Guard) (d a b c k : Nat) (opnd : Bool)
  | pkill (g : Guard) (k : Nat)
  | pcount (g : Guard) (d item k : Nat)
  | grpq (g : Guard) (d slot item : Nat)
  | thdl (g : Guard) (hn a : Nat)
  | tmma (g : Guard) (gs cv acc : Nat) (A B : TOpnd) (f16 : Bool)
  | tmmq (g : Guard) (gs cv acc : Nat) (A B : TOpnd) (n4 : Bool)
  | tzero (g : Guard) (gs acc : Nat) (src : Option TOpnd)
  | tcvt (g : Guard) (gs acc a b : Nat) (bf : Bool)
  | tstore (g : Guard) (gs acc : Nat) (H : TOpnd) (b : Nat)
  | tscale (g : Guard) (gs acc : Nat) (A B : TOpnd)
  | tflag (g : Guard) (gs acc : Nat)
  | twait (g : Guard) (gs acc : Nat)
  | mfs (g : Guard) (d : Nat) (sp : Special)
  | mts (g : Guard) (a : Nat) (ka : Bool) (sp : Special)
  | rnd (g : Guard) (d : Nat) (w64 : Bool)
  | spalloc (g : Guard) (d a k : Nat)
  | spfree (g : Guard) (d a k : Nat)
  | rtouch (g : Guard) (d a b k : Nat)
  | rclass (g : Guard) (d a : Nat) (ka : Bool) (cls : LifeClass) (life : Nat)
  | rage (g : Guard) (d a k : Nat)
  | trace (g : Guard) (a b k : Nat)
  | issueGroupFormation (core slot : Nat)
  | loadDelivery (t n : Nat)
  | resampleComplete (kern : Nat)
  | conduitRefill (cid : Nat)
  | cpaLanding (core n : Nat)
  | cpbPieceLanding (core n : Nat)
  | tileOpApply (iid acc : Nat)
  | brassWalk (core : Nat)
  | sideLogReplay (gid : Nat)
  | columnCacheEviction (core line : Nat)
  | unitAdmission (kern : Nat)
  | kernelCompletion (kern : Nat)
  | packetNop (q : Nat)
  | packetKernel (q : Nat)
  | packetSignal (q : Nat)
  | packetWait (q : Nat)
  | waitRecheck (q : Nat)
  | packetDepmap (q : Nat)
  | depmapRecheck (kern : Nat)
  | packetInval (q : Nat)
  | invalCompletion (n : Nat)
  | peerFence (n p : Nat)
  | launchFrame (port : Nat) (f : Flit)
  | define (c : Nat)
  | ready (c : Nat)
  | halt (c : Nat)
  | resume (c : Nat)
  | desched (c : Nat)
  | kill (c : Nat)
  | queueEnable (q : Nat)
  | queueDisable (q : Nat)
  | notify (q w : Nat)
  | faultRetry (c seq : Nat)
  | faultFail (c seq : Nat)
  | tagwrWrite (w : Nat)
  | warmReset (d : Nat)
  | dieFlushing (d : Nat)
  | dieResetting (d : Nat)
  | dieTesting (d : Nat)
  | dieRetraining (d : Nat)
  | dieUp (d : Nat)
  | lmbaseWrite (w : Nat)
  | debugWrite (w : Nat)
  | debugRead
  | breakpointSet (c n w : Nat)
  | mcwinWrite (n w : Nat)
  | portEnable (p pmd : Nat)
  | portDisable (p : Nat)
  | routeWrite (p w : Nat)
  | registerWrite (acc : RegAccess) (w : Nat)
  | tick (c : Nat)
  | rowExpiry (gid row : Nat)
  | sleepWake (t : Nat)
  | sliceEnd (c : Nat)
  | contextReturn (c : Nat)
  | watchdogFire (kern : Nat)
  | budgetFire (kern : Nat)
  | traceSample (d : Nat)
  | refreshPass (core : Nat)
  | heartbeat (d : Nat)
  | failsafeEntry (d : Nat)
  | powerMeasurement (watts : Nat)
  | operatingPointStable
  | thermalChange (d : Nat) (band : Temp)
  | thermalTrip
  | bridgeModuleLoss (b : Nat)
  | coldReset (fails : Nat) (alt : BootAlt)
  | firmwareUpdate (image : Image) (cut : Bool)
  | getVersion (tr : Transport)
  | getCapabilities (tr : Transport)
  | negotiateAlgorithms (tr : Transport)
  | getDigests (tr : Transport)
  | getCertificate (tr : Transport) (slot : Nat)
  | challenge (tr : Transport) (nonce : Nat)
  | getMeasurements (tr : Transport) (n : Nat)
  | unsupportedRequest (tr : Transport) (req : Nat)
  | flitTransmit (port : Nat)
  | flitRead (port : Nat) (f : Flit)
  | flitWrite (port : Nat) (f : Flit)
  | flitAtomic (port : Nat) (f : Flit)
  | flitResponse (port : Nat) (f : Flit)
  | multicastWrite (port : Nat) (f : Flit)
  | managementFrame (port : Nat) (f : Flit)
  | nak (port : Nat) (f : Flit)
  | credits (port : Nat) (f : Flit)
  | endToEndAcknowledgement (port : Nat) (f : Flit)
  | portTrained (p far : Nat)
  | portRetrain (p : Nat)
  | portTimeout (p : Nat)
  | deviceLost (p : Nat)
  | hostBar4Read (off : BarAt) (n : Nat)
  | hostBar4Write (off : BarAt) (data : List Byte)
  | flitForward (port : Nat) (f : Flit)
  | idleFlit (port lack : Nat)
  | flitCrcFailure (port : Nat)
  | phyRestored (p : Nat)
  | inboundInval (src c va n : Nat)
  | hostAtomicop (off : BarAt) (op : HostAtomic) (w64 : Bool) (v cmpv : Nat)
  | softError (site : ErrSite) (unc : Bool)
  | scrubbing (d : Nat)
deriving DecidableEq, Repr

end Sys2Proof
end

