-- ==== Sys2Proof/Config.lean ====
section
/-! DEFINITION. What the spec leaves open and an implementation fixes: constants without a body, so that no proof
can see their values. Each is named in a log entry. -/

namespace Sys2Proof.Config

/-- A fresh choice between two outcomes the spec allows. -/
opaque freeBit : Nat → Bool

/-- Which line of a full column cache is evicted (R254). -/
opaque freeVictim : Nat → Nat

/-- Whether the backing copy of a word of a saved cell page shows an uncorrectable error at its restore (R87): by backing slot, row and
word, a fresh value per restore. -/
opaque slotHolds : Nat → Nat → Nat → Nat → Bool

/-- How many core cycles of `cyc` pass before a read (R152); a fresh value per read. -/
opaque freeCycles : Nat → Nat

/-- The 5,120 bytes that a saved cell page leaves in its backing slot (R79). -/
opaque freePage : Nat → Nat

/-- `spb`: the cell row at which a gang's own window starts (R152), by core, gang slot and kernel. -/
opaque spbRow : Nat → Nat → Nat → Nat

/-- The six approximations of R212: FRCP, FRSQ, FEX2, FLG2, FSIN, FCOS by number 0 to 5, of the operand's bits. -/
opaque approx : Nat → Nat → Nat

/-- SHA-384 of a list of bytes (R417, R419). -/
opaque sha384 : List Nat → Nat

/-- Whether an ECDSA P-384 signature over a digest verifies under the fused key (R417). -/
opaque sigOk : Nat → Nat → Bool

/-- The ECDSA P-384 signature of a digest by the device identity key (R419). -/
opaque sign : Nat → Nat

/-- The device certificate chain of slot 0 (R419). -/
opaque certChain : Nat

/-- The body of an SPDM error answer other than UnsupportedRequest (R419): SPDM 1.3 fixes it, this spec does not. -/
opaque spdmBody : Nat → Nat

/-- The payload of a shoot-down request to a peer (R376), of the context, the address and the length: its layout is not given. -/
opaque invalRequest : Nat → Nat → Nat → Nat

/-- The request tag in a peer's shoot-down request (R378), of the context, the address and the length. -/
opaque invalTag : Nat → Nat → Nat → Nat

/-- The record that a management frame's payload holds, and the payload of a record (R419): the layout is device-defined. -/
opaque frame : Nat → Frame
opaque framed : Frame → Nat

/-- The credits of lanes 0 to 2 that a receiver grants when a port comes up (R384). -/
opaque firstCredits : Nat → Nat

end Sys2Proof.Config
end

