-- ==== Sys2Proof/Machine/Float.lean ====
section
/-! DEFINITION. Floating-point arithmetic (03_numbers R54 to R56, R68 to R75; 10_float R205 to R220): exact on dyadic
numbers, rounded once. -/

namespace Sys2Proof.Machine

/-- A format of Table 3.1: fraction bits and exponent bits. -/
structure Fmt where
  w : Nat
  eb : Nat
deriving DecidableEq, Repr

def Fmt.f32 : Fmt := ⟨23, 8⟩
def Fmt.bf16 : Fmt := ⟨7, 8⟩
def Fmt.f16 : Fmt := ⟨10, 5⟩

def Fmt.bias (f : Fmt) : Nat := 2 ^ (f.eb - 1) - 1
/-- The exponent of the least subnormal. -/
def Fmt.emin (f : Fmt) : Int := 1 - (f.bias : Int) - (f.w : Int)
def Fmt.emax (f : Fmt) : Nat := 2 ^ f.eb - 1
/-- The exponent field shifted into place. -/
def Fmt.infBits (f : Fmt) : Nat := f.emax * 2 ^ f.w
def Fmt.signBit (f : Fmt) : Nat := 2 ^ (f.w + f.eb)
/-- The canonical NaN (Table 3.1). -/
def Fmt.nan (f : Fmt) : Nat := f.infBits + 2 ^ (f.w - 1)
def Fmt.maxFin (f : Fmt) : Nat := f.infBits - 1

/-- A decoded value (R55): `fin neg m e` is (-1)^neg * m * 2^e. -/
inductive FP where
  | nan (sig : Bool)
  | inf (neg : Bool)
  | fin (neg : Bool) (m : Nat) (e : Int)
deriving DecidableEq, Repr

/-- Sign and magnitude bits. -/
def Fmt.isNeg (f : Fmt) (x : Nat) : Bool := bit x (f.w + f.eb)
def Fmt.expo (f : Fmt) (x : Nat) : Nat := x / 2 ^ f.w % 2 ^ f.eb
def Fmt.frac (f : Fmt) (x : Nat) : Nat := x % 2 ^ f.w
def Fmt.isSub (f : Fmt) (x : Nat) : Bool := f.expo x == 0 && f.frac x != 0

/-- R55. -/
def Fmt.decode (f : Fmt) (x : Nat) : FP :=
  let e := f.expo x
  let m := f.frac x
  let n := f.isNeg x
  if e == f.emax then (if m == 0 then .inf n else .nan (m < 2 ^ (f.w - 1)))
  else if e == 0 then .fin n m f.emin
  else .fin n (2 ^ f.w + m) (f.emin + (e : Int) - 1)

/-- A subnormal operand read as zero of its sign under ftz (R70, R205). -/
def Fmt.flush (f : Fmt) (ftz : Bool) (x : Nat) : Nat :=
  if ftz && f.isSub x then b2n (f.isNeg x) * f.signBit else x

/-- The flags of `fst` (Table 3.6). -/
def fInvalid : Nat := 1
def fDivzero : Nat := 2
def fOverflow : Nat := 4
def fUnderflow : Nat := 8
def fInexact : Nat := 16
def fFovf : Nat := 32
def fQsat : Nat := 64

/-- The OR of two flag sets. -/
def orf (a b : Nat) : Nat := a ||| b

/-- A result with its flags. -/
abbrev FRes := Nat × Nat

/-- Rounding modes: 0 to nearest even, 1 towards zero, 2 upward, 3 downward (R204). -/
abbrev Mode := Nat

/-- Whether a discarded remainder rounds the magnitude up: `odd` is the last kept bit, `cmp` compares the remainder
with one half, `rest` says it is nonzero. -/
def roundUp (mode : Mode) (neg odd : Bool) (cmp : Ordering) (rest : Bool) : Bool :=
  match mode with
  | 0 => cmp == .gt || (cmp == .eq && odd)
  | 1 => false
  | 2 => rest && !neg
  | _ => rest && neg

/-- `m * 2^(-sh)` (or a little above, when sticky) rounded to an integer. -/
def roundInt (mode : Mode) (neg : Bool) (m sh : Nat) (sticky : Bool) : Nat × Bool :=
  let n := m / 2 ^ sh
  let r := m % 2 ^ sh
  let half := if sh == 0 then 1 else 2 ^ (sh - 1)
  let rr := if sh == 0 then 0 else r
  let cmp := if rr < half then .lt else if half < rr || sticky then .gt else .eq
  let rest := rr != 0 || sticky
  ((if roundUp mode neg (n % 2 == 1) cmp rest then n + 1 else n), rest)

/-- The infinity, or the largest finite value, that an overflow gives (R70). -/
def overflowBits (f : Fmt) (mode : Mode) (neg : Bool) : Nat :=
  let s := b2n neg * f.signBit
  match mode with
  | 0 => s + f.infBits
  | 1 => s + f.maxFin
  | 2 => if neg then s + f.maxFin else s + f.infBits
  | _ => if neg then s + f.infBits else s + f.maxFin

/-- `RoundMode` (R5, R70) of (-1)^neg * m * 2^e, a nonzero magnitude; sticky says that the exact magnitude lies a little
above. -/
def roundTo (f : Fmt) (mode : Mode) (ftz neg : Bool) (m : Nat) (e : Int) (sticky : Bool) : FRes :=
  let p := f.w + 1
  let len := Nat.log2 m + 1
  let q0 : Int := e + (len : Int) - (p : Int)
  let q := max q0 f.emin
  let at_ (q : Int) : Nat × Bool :=
    if q ≤ e then (m * 2 ^ (e - q).toNat, sticky) else roundInt mode neg m (q - e).toNat sticky
  let (n, inex) := at_ q
  let s := b2n neg * f.signBit
  let tiny :=
    if f.emin ≤ q0 then false
    else
      let n0 := (at_ q0).1
      let top := if n0 == 2 ^ p then q0 + p else q0 + p - 1
      decide (top < f.emin + f.w)
  let b := (q - f.emin).toNat * 2 ^ f.w + n
  if f.infBits ≤ b then (overflowBits f mode neg, orf fOverflow fInexact)
  else if ftz && n < 2 ^ f.w && n != 0 then (s, orf fUnderflow fInexact)
  else (s + b, orf (if inex then fInexact else 0) (if tiny && inex then fUnderflow else 0))

/-- The exact sum of signed dyadic terms, as a sign and magnitude at the least exponent. -/
def sumTerms (ts : List (Bool × Nat × Int)) : Int × Int :=
  let e := ts.foldl (fun a t => min a t.2.2) (match ts with | [] => 0 | t :: _ => t.2.2)
  (ts.foldl (fun a t =>
      let v : Int := ((t.2.1 * 2 ^ (t.2.2 - e).toNat : Nat) : Int)
      if t.1 then a - v else a + v) 0, e)

/-- The sign of an exact zero sum (R70): that of the terms when all are zeros of one sign, otherwise + except
downward. -/
def zeroSign (mode : Mode) (ts : List (Bool × Nat × Int)) : Bool :=
  if ts.all fun t => t.2.1 == 0 && t.1 then true
  else if ts.all fun t => t.2.1 == 0 && !t.1 then false
  else mode == 3

/-- The sum of finite terms, rounded once. -/
def roundSum (f : Fmt) (mode : Mode) (ftz : Bool) (ts : List (Bool × Nat × Int)) : FRes :=
  let (v, e) := sumTerms ts
  if v == 0 then (b2n (zeroSign mode ts) * f.signBit, 0)
  else roundTo f mode ftz (decide (v < 0)) v.natAbs e false

/-- The finite parts of a list of values. -/
def finTerms : List FP → List (Bool × Nat × Int)
  | [] => []
  | .fin n m e :: xs => (n, m, e) :: finTerms xs
  | _ :: xs => finTerms xs

def FP.isNan : FP → Bool | .nan _ => true | _ => false
def FP.isSnan : FP → Bool | .nan s => s | _ => false
def FP.isPinf : FP → Bool | .inf false => true | _ => false
def FP.isNinf : FP → Bool | .inf true => true | _ => false

/-- An exact product; `none` is infinity times zero. -/
def mulFP : FP → FP → Option FP
  | .nan s, .nan t => some (.nan (s || t))
  | .nan s, _ => some (.nan s)
  | _, .nan s => some (.nan s)
  | .inf a, .inf b => some (.inf (a != b))
  | .inf a, .fin b m _ => if m == 0 then none else some (.inf (a != b))
  | .fin a m _, .inf b => if m == 0 then none else some (.inf (a != b))
  | .fin a m e, .fin b n g => some (.fin (a != b) (m * n) (e + g))

/-- The sum of products and values (R208, R214, R215), rounded once into `f`; an infinity times zero among the products
gives the canonical NaN and invalid even beside a quiet NaN. -/
def fsum (f : Fmt) (mode : Mode) (ftz : Bool) (ins : List FP) (terms : List (Option FP)) : FRes :=
  let sn := ins.any FP.isSnan
  let bad := terms.any (· == none)
  let ts := terms.filterMap id
  if sn || bad then (f.nan, fInvalid)
  else if ts.any FP.isNan then (f.nan, 0)
  else if ts.any FP.isPinf then (if ts.any FP.isNinf then (f.nan, fInvalid) else (f.infBits, 0))
  else if ts.any FP.isNinf then (f.signBit + f.infBits, 0)
  else roundSum f mode ftz (finTerms ts)

/-- FADD, and HADD2 per element (R208, R214). -/
def fadd (f : Fmt) (mode : Mode) (ftz : Bool) (x y : Nat) : FRes :=
  let a := f.decode (f.flush ftz x)
  let b := f.decode (f.flush ftz y)
  fsum f mode ftz [a, b] [some a, some b]

/-- FMUL, and HMUL2 per element. -/
def fmul (f : Fmt) (mode : Mode) (ftz : Bool) (x y : Nat) : FRes :=
  let a := f.decode (f.flush ftz x)
  let b := f.decode (f.flush ftz y)
  fsum f mode ftz [a, b] [mulFP a b]

/-- FFMA, and HFMA2 per element. -/
def ffma (f : Fmt) (mode : Mode) (ftz : Bool) (x y z : Nat) : FRes :=
  let a := f.decode (f.flush ftz x)
  let b := f.decode (f.flush ftz y)
  let c := f.decode (f.flush ftz z)
  fsum f mode ftz [a, b, c] [mulFP a b, some c]

/-- DOT2 (R215). -/
def dot2 (g : Fmt) (mode : Mode) (ftz : Bool) (x y z : Nat) : FRes :=
  let el (v i : Nat) : FP := g.decode (g.flush ftz (v / 2 ^ (16 * i) % 2 ^ 16))
  let c := Fmt.f32.decode (Fmt.f32.flush ftz z)
  fsum .f32 mode ftz [el x 0, el x 1, el y 0, el y 1, c] [mulFP (el x 0) (el y 0), mulFP (el x 1) (el y 1), some c]

/-- Both elements of a packed operation (R56). -/
def packed (op : Nat → Nat → FRes) (x y : Nat) : FRes :=
  let r0 := op (x % 2 ^ 16) (y % 2 ^ 16)
  let r1 := op (x / 2 ^ 16 % 2 ^ 16) (y / 2 ^ 16 % 2 ^ 16)
  (r1.1 * 2 ^ 16 + r0.1, orf r0.2 r1.2)

/-- Both elements of a packed operation of three operands. -/
def packed3 (op : Nat → Nat → Nat → FRes) (x y z : Nat) : FRes :=
  let r0 := op (x % 2 ^ 16) (y % 2 ^ 16) (z % 2 ^ 16)
  let r1 := op (x / 2 ^ 16 % 2 ^ 16) (y / 2 ^ 16 % 2 ^ 16) (z / 2 ^ 16 % 2 ^ 16)
  (r1.1 * 2 ^ 16 + r0.1, orf r0.2 r1.2)

/-- A key by which finite values and infinities of one format compare, with -0 below +0. -/
def Fmt.ordKey (f : Fmt) (x : Nat) : Int :=
  if f.isNeg x then -((x % f.signBit : Nat) : Int) - 1 else ((x % f.signBit : Nat) : Int)

/-- FMIN and FMAX on operands already modified and flushed (R209). -/
def fminmax (f : Fmt) (mx : Bool) (x y : Nat) : FRes :=
  let a := f.decode x
  let b := f.decode y
  let fl := if a.isSnan || b.isSnan then fInvalid else 0
  if a.isNan && b.isNan then (f.nan, fl)
  else if a.isNan then (y, fl)
  else if b.isNan then (x, fl)
  else if mx then ((if f.ordKey x < f.ordKey y then y else x), fl)
  else ((if f.ordKey y < f.ordKey x then y else x), fl)

/-- FSETP on operands already modified and flushed (R210, R71). -/
def fcompare (x y : Nat) (c : FCond) : Bool × Nat :=
  let f := Fmt.f32
  let a := f.decode x
  let b := f.decode y
  let un := a.isNan || b.isNan
  let sn := a.isSnan || b.isSnan
  let key (v : Nat) : Int := if v % f.signBit == 0 then 0 else f.ordKey v
  let quiet := if sn then fInvalid else 0
  let loud := if un then fInvalid else 0
  let kx : Int := if f.isNeg x && x % f.signBit != 0 then key x + 1 else key x
  let ky : Int := if f.isNeg y && y % f.signBit != 0 then key y + 1 else key y
  match c with
  | .eq => (!un && kx == ky, quiet)
  | .ne => (un || kx != ky, quiet)
  | .lt => (!un && kx < ky, loud)
  | .le => (!un && kx ≤ ky, loud)
  | .gt => (!un && ky < kx, loud)
  | .ge => (!un && ky ≤ kx, loud)
  | .un => (un, quiet)
  | .ord => (!un, quiet)

/-- A finite magnitude rounded to an integer in a mode; the flag says it was not integral. -/
def toIntegral (mode : Mode) (neg : Bool) (m : Nat) (e : Int) : Nat × Bool :=
  if 0 ≤ e then (m * 2 ^ e.toNat, false) else roundInt mode neg m (-e).toNat false

/-- FRND (R211). -/
def frnd (mode : Mode) (ftz : Bool) (x : Nat) : FRes :=
  let f := Fmt.f32
  let y := f.flush ftz x
  match f.decode y with
  | .nan s => (f.nan, if s then fInvalid else 0)
  | .inf _ => (y, 0)
  | .fin n m e =>
    if m == 0 then (y, 0)
    else
      let (k, _) := toIntegral mode n m e
      if k == 0 then (b2n n * f.signBit, 0)
      else (((roundTo f 0 false n k 0 false).1), 0)

/-- The integer square root, bit by bit. -/
def isqrt : Nat → Nat → Nat → Nat
  | 0, r, _ => r
  | k + 1, r, n => if (r + 2 ^ k) * (r + 2 ^ k) ≤ n then isqrt k (r + 2 ^ k) n else isqrt k r n

/-- FSQRT (R211): correctly rounded. -/
def fsqrt (mode : Mode) (ftz : Bool) (x : Nat) : FRes :=
  let f := Fmt.f32
  let y := f.flush ftz x
  match f.decode y with
  | .nan s => (f.nan, if s then fInvalid else 0)
  | .inf n => if n then (f.nan, fInvalid) else (y, 0)
  | .fin n m e =>
    if m == 0 then (y, 0)
    else if n then (f.nan, fInvalid)
    else
      let odd := (e % 2 == 1)
      let m2 := (if odd then 2 * m else m) * 2 ^ 60
      let e2 := (if odd then e - 1 else e) - 60
      let r := isqrt 48 0 m2
      roundTo f mode ftz false r (e2 / 2) (r * r != m2)

/-- FCLASS (Table 10.5). -/
def fclass (x : Nat) : Nat :=
  let f := Fmt.f32
  let n := f.isNeg x
  match f.decode x with
  | .nan s => if s then 1 else 2
  | .inf _ => if n then 4 else 512
  | .fin _ m _ =>
    if m == 0 then (if n then 32 else 64)
    else if f.expo x == 0 then (if n then 16 else 128)
    else (if n then 8 else 256)

/-- The operand modifiers (R205) on the FP32 bits of an operand: absolute, then negate, then flush. -/
def fmods (ab ng ftz : Bool) (x : Nat) : Nat :=
  let f := Fmt.f32
  let y := if ab then x % f.signBit else x
  let z := if ng then (if f.isNeg y then y - f.signBit else y + f.signBit) else y
  f.flush ftz z

/-- Conversion of an exact float value to an integer range (R217). -/
def floatToInt (mode : Mode) (sat : Bool) (lo hi : Int) (v : FP) : Int × Nat :=
  match v with
  | .nan s => (0, if sat then (if s then fInvalid else 0) else fInvalid)
  | .inf n => ((if n then lo else hi), if sat then 0 else fInvalid)
  | .fin n m e =>
    let (k, inex) := toIntegral mode n m e
    let i : Int := if n then -(k : Int) else k
    if i < lo then (lo, if sat then 0 else fInvalid)
    else if hi < i then (hi, if sat then 0 else fInvalid)
    else (i, if inex then fInexact else 0)

/-- Conversion of an integer to a float format (R217). -/
def intToFloat (f : Fmt) (mode : Mode) (ftz : Bool) (i : Int) : FRes :=
  if i == 0 then (0, 0) else roundTo f mode ftz (decide (i < 0)) i.natAbs 0 false

/-- Conversion between float formats (R217, R72). -/
def floatToFloat (src dst : Fmt) (mode : Mode) (ftz : Bool) (x : Nat) : FRes :=
  let sameW := src.w + src.eb == dst.w + dst.eb
  let z := ftz && !sameW
  let y := src.flush z x
  match src.decode y with
  | .nan s => (dst.nan, if s then fInvalid else 0)
  | .inf n => (b2n n * dst.signBit + dst.infBits, 0)
  | .fin n m e => if m == 0 then (b2n n * dst.signBit, 0) else roundTo dst mode z n m e false

/-- What a CVT source is taken as (R216). -/
inductive CvtClass where | unsigned | signed | float (f : Fmt)
deriving DecidableEq, Repr

/-- One conversion of Table 10.6 to U32, S32 or a float format. -/
def cvtOne (cls : CvtClass) (dst : Option Fmt) (dstSigned : Bool) (mode : Mode) (ftz sat : Bool) (x : Nat) : FRes :=
  match dst with
  | some f =>
    match cls with
    | .unsigned => intToFloat f mode ftz (x : Int)
    | .signed => intToFloat f mode ftz (sext x 32)
    | .float g => floatToFloat g f mode ftz x
  | none =>
    match cls with
    | .unsigned => if dstSigned && sat then (min x (2 ^ 31 - 1), 0) else (x, 0)
    | .signed => if !dstSigned && sat then ((if 2 ^ 31 ≤ x then 0 else x), 0) else (x, 0)
    | .float g =>
      let (lo, hi) : Int × Int := if dstSigned then (-2 ^ 31, 2 ^ 31 - 1) else (0, 2 ^ 32 - 1)
      let r := floatToInt mode sat lo hi (g.decode (g.flush ftz x))
      (trunc r.1 32, r.2)

/-- A base scale is valid when its BF16 encoding lies from 0x0080 to 0x7F7F and the low 16 bits are zero (R58, R59). -/
def validBase (x : Nat) : Bool := x % 2 ^ 16 == 0 && 0x0080 ≤ x / 2 ^ 16 && x / 2 ^ 16 ≤ 0x7F7F

/-- One element of QPACK (R219), as the integer and its flags. -/
def qpackOne (mode : Mode) (ftz : Bool) (lo hi : Int) (s e x : Nat) : Int × Nat :=
  match Fmt.f32.decode (Fmt.f32.flush ftz x) with
  | .nan _ => (0, fInvalid)
  | .inf n => ((if n then lo else hi), fInvalid)
  | .fin n m ex =>
    match Fmt.f32.decode s with
    | .fin _ ms es =>
      let d : Int := ex - (es + e)
      let (num, den) := if 0 ≤ d then (m * 2 ^ d.toNat, ms) else (m, ms * 2 ^ (-d).toNat)
      let k := num / den
      let r := num % den
      let cmp : Ordering := compare (2 * r) den
      let k' := if roundUp mode n (k % 2 == 1) cmp (r != 0) then k + 1 else k
      let i : Int := if n then -(k' : Int) else k'
      if i < lo then (lo, fInvalid) else if hi < i then (hi, fInvalid)
      else (i, if r != 0 then fInexact else 0)
    | _ => (0, fInvalid)

/-- One element of QUNPK (R220). -/
def qunpkOne (s e : Nat) (q : Int) : FRes :=
  if q == 0 then (0, 0)
  else match Fmt.f32.decode s with
    | .fin _ m es => roundTo .f32 0 false (decide (q < 0)) (m * q.natAbs) (es + e) false
    | _ => (Fmt.f32.nan, fInvalid)

end Sys2Proof.Machine
end

