-- ==== Sys2Proof/Decode.lean ====
section
/-! DEFINITION. The decoder of code words (02_instruction_word, Tables 2.1 to 2.18 and the encoding tables of the
owning chapters), total on any 64 bits, and the encoder from the same tables. What the decoder refuses raises
ILLEGAL by R42. -/

namespace Sys2Proof

/-- Why a word is no instruction (R42). -/
inductive DecodeError where
  /-- An opcode Table 2.12 does not list. -/
  | unassignedOpcode
  /-- A nonzero unassigned field, or an unassigned field value. -/
  | unassignedField
deriving DecidableEq, Repr

/-- Table 3.3. -/
def Tag.code : Tag → Nat
  | .raw => 0 | .u32 => 1 | .s32 => 2 | .f32 => 3 | .bf2 => 4 | .h2 => 5 | .q8 => 6 | .q4 => 7
  | .w64l => 8 | .w64h => 9 | .refl => 10 | .refh => 11 | .scl => 12 | .hnd => 13

/-- Table 3.3, read backwards. -/
def Tag.ofCode : Nat → Option Tag
  | 0 => some .raw | 1 => some .u32 | 2 => some .s32 | 3 => some .f32 | 4 => some .bf2 | 5 => some .h2
  | 6 => some .q8 | 7 => some .q4 | 8 => some .w64l | 9 => some .w64h | 10 => some .refl | 11 => some .refh
  | 12 => some .scl | 13 => some .hnd | _ => none

/-- The tags MOVI, CVT and TAGS may name (R187, R216, R222). -/
def Tag.ofName (n : Nat) : Option Tag :=
  match Tag.ofCode n with
  | some .refl => none
  | some .refh => none
  | t => t

/-- Table 8.1. -/
def Special.num : Special → Nat
  | .lane => 0x000 | .gslot => 0x001 | .gidx => 0x002 | .core => 0x003 | .die => 0x004 | .ctx => 0x005
  | .tick => 0x008 | .cyc => 0x009 | .lin => 0x010 | .par => 0x011 | .gen => 0x012 | .rndc => 0x013
  | .cdep => 0x018 | .rpt => 0x019 | .swp => 0x01A | .fst => 0x020 | .fmode => 0x021 | .lapf => 0x022
  | .tcause => 0x028 | .tpc => 0x029 | .tval => 0x02A | .tmask => 0x02B | .tvec => 0x02C
  | .spb => 0x030 | .spl => 0x031 | .stb => 0x032
  | .grp0 => 0x038 | .grp1 => 0x039 | .grp2 => 0x03A | .grp3 => 0x03B | .escm => 0x040

/-- Table 8.1, read backwards. -/
def Special.ofNum : Nat → Option Special
  | 0x000 => some .lane | 0x001 => some .gslot | 0x002 => some .gidx | 0x003 => some .core | 0x004 => some .die
  | 0x005 => some .ctx | 0x008 => some .tick | 0x009 => some .cyc | 0x010 => some .lin | 0x011 => some .par
  | 0x012 => some .gen | 0x013 => some .rndc | 0x018 => some .cdep | 0x019 => some .rpt | 0x01A => some .swp
  | 0x020 => some .fst | 0x021 => some .fmode | 0x022 => some .lapf | 0x028 => some .tcause | 0x029 => some .tpc
  | 0x02A => some .tval | 0x02B => some .tmask | 0x02C => some .tvec | 0x030 => some .spb | 0x031 => some .spl
  | 0x032 => some .stb | 0x038 => some .grp0 | 0x039 => some .grp1 | 0x03A => some .grp2 | 0x03B => some .grp3
  | 0x040 => some .escm | _ => none

/-- The specials Table 8.1 marks 64. -/
def Special.wide : Special → Bool
  | .tick | .cyc | .lin | .par | .tval => true
  | _ => false

def Rm.code : Rm → Nat | .ne => 0 | .rz => 1 | .ru => 2 | .rd => 3 | .dyn => 4
def Rm.ofCode : Nat → Option Rm
  | 0 => some .ne | 1 => some .rz | 2 => some .ru | 3 => some .rd | 4 => some .dyn | _ => none
def Cmp.code : Cmp → Nat | .eq => 0 | .ne => 1 | .lt => 2 | .le => 3 | .gt => 4 | .ge => 5
def Cmp.ofCode : Nat → Option Cmp
  | 0 => some .eq | 1 => some .ne | 2 => some .lt | 3 => some .le | 4 => some .gt | 5 => some .ge | _ => none
def Comb.code : Comb → Nat | .none => 0 | .and => 1 | .or => 2 | .xor => 3
def Comb.ofCode : Nat → Comb | 1 => .and | 2 => .or | 3 => .xor | _ => .none
def FCond.code : FCond → Nat
  | .eq => 0 | .ne => 1 | .lt => 2 | .le => 3 | .gt => 4 | .ge => 5 | .un => 6 | .ord => 7
def FCond.ofCode : Nat → FCond
  | 0 => .eq | 1 => .ne | 2 => .lt | 3 => .le | 4 => .gt | 5 => .ge | 6 => .un | _ => .ord
def LdWidth.code : LdWidth → Nat
  | .z8 => 0 | .s8 => 1 | .z16 => 2 | .s16 => 3 | .b32 => 4 | .b64 => 5 | .b128 => 6
def LdWidth.ofCode : Nat → Option LdWidth
  | 0 => some .z8 | 1 => some .s8 | 2 => some .z16 | 3 => some .s16 | 4 => some .b32 | 5 => some .b64
  | 6 => some .b128 | _ => none
def StWidth.code : StWidth → Nat | .z8 => 0 | .z16 => 2 | .b32 => 4 | .b64 => 5 | .b128 => 6
def StWidth.ofCode : Nat → Option StWidth
  | 0 => some .z8 | 2 => some .z16 | 4 => some .b32 | 5 => some .b64 | 6 => some .b128 | _ => none
def AccClass.code : AccClass → Nat | .plain => 0 | .shared => 1 | .stream => 2
def AccClass.ofCode : Nat → Option AccClass
  | 0 => some .plain | 1 => some .shared | 2 => some .stream | _ => none
def AtomOp.code : AtomOp → Nat
  | .add => 0 | .fadd => 1 | .smin => 2 | .smax => 3 | .zmin => 4 | .zmax => 5 | .and => 6 | .or => 7
  | .xor => 8 | .exch => 9 | .add64 => 10 | .exch64 => 11
def AtomOp.ofCode : Nat → Option AtomOp
  | 0 => some .add | 1 => some .fadd | 2 => some .smin | 3 => some .smax | 4 => some .zmin | 5 => some .zmax
  | 6 => some .and | 7 => some .or | 8 => some .xor | 9 => some .exch | 10 => some .add64 | 11 => some .exch64
  | _ => none
def Order.code : Order → Nat | .relaxed => 0 | .acq => 1 | .rel => 2 | .acqrel => 3
def Order.ofCode : Nat → Order | 0 => .relaxed | 1 => .acq | 2 => .rel | _ => .acqrel
def FenceOrd.code : FenceOrd → Nat | .acq => 0 | .rel => 1 | .acqrel => 2 | .sc => 3
def FenceOrd.ofCode : Nat → FenceOrd | 0 => .acq | 1 => .rel | 2 => .acqrel | _ => .sc
def LxMode.code : LxMode → Nat | .abs => 0 | .rot => 1 | .xor => 2 | .low => 3
def LxMode.ofCode : Nat → LxMode | 0 => .abs | 1 => .rot | 2 => .xor | _ => .low
def PagrKind.code : PagrKind → Nat | .and => 0 | .or => 1 | .eq => 2 | .mask => 3 | .count => 4
def PagrKind.ofCode : Nat → Option PagrKind
  | 0 => some .and | 1 => some .or | 2 => some .eq | 3 => some .mask | 4 => some .count | _ => none
def RedOp.code : RedOp → Nat
  | .sadd => 0 | .zadd => 1 | .fadd => 2 | .smin => 3 | .smax => 4 | .fmin => 5 | .fmax => 6
def RedOp.ofCode : Nat → Option RedOp
  | 0 => some .sadd | 1 => some .zadd | 2 => some .fadd | 3 => some .smin | 4 => some .smax | 5 => some .fmin
  | 6 => some .fmax | _ => none
def LifeClass.code : LifeClass → Nat | .refreshed => 0 | .lapsing => 1 | .trapping => 2
def LifeClass.ofCode : Nat → Option LifeClass
  | 0 => some .refreshed | 1 => some .lapsing | 2 => some .trapping | _ => none

/-- The guard field (R37). -/
def Guard.code (g : Guard) : Nat := 8 * b2n g.neg + g.p
def Guard.ofCode (n : Nat) : Guard := ⟨bit n 3, n % 8⟩

/-- A predicate source field (R183); none when bits [8:4] are nonzero. -/
def PredSrc.code (q : PredSrc) : Nat := 8 * b2n q.neg + q.p
def PredSrc.ofField (n : Nat) : Option PredSrc := if n < 16 then some ⟨bit n 3, n % 8⟩ else none

/-- The operand modifiers in m[6:3] (Table 2.16). -/
def FMods.code (x : FMods) : Nat := b2n x.na + 2 * b2n x.nb + 4 * b2n x.aa + 8 * b2n x.ab
def FMods.ofCode (n : Nat) : FMods := ⟨bit n 0, bit n 1, bit n 2, bit n 3⟩

/-- The result of decoding. -/
abbrev Decoded := Except DecodeError Instr

/-- `i` when every unassigned field is zero, otherwise the encoding is refused (R42). -/
def need (c : Bool) (i : Instr) : Decoded := if c then .ok i else .error .unassignedField

/-- The instruction built from a field that has unassigned values (R42). -/
def opt {α : Type} (o : Option α) (f : α → Decoded) : Decoded :=
  match o with
  | some x => f x
  | none => .error .unassignedField

/-- The fields of form A (Table 2.5). -/
structure FieldsA where
  d : Nat
  a : Nat
  b : Nat
  c : Nat
  k : Nat
  m : Nat

def fieldsA (w : Nat) : FieldsA :=
  ⟨bits w 47 39, bits w 38 30, bits w 29 21, bits w 20 12, bits w 11 10, bits w 9 0⟩

/-- Opcodes 0x000 to 0x00C: forms C, I and W (Tables 2.7, 2.10, 8.4). -/
def decodeControl (g : Guard) (op w : Nat) : Decoded :=
  let d := bits w 47 39
  let a := bits w 38 30
  let md := bits w 29 24
  let off := bits w 23 0
  match op with
  | 0x0 => need (d == 0 && a == 0 && md == 0 && off == 0) (.nop g)
  | 0x1 => need (d == 0 && a == 0 && md == 0) (.bra g (sext off 24))
  | 0x2 => need (d == 0 && md == 0 && off == 0) (.jmp g a)
  | 0x3 => need (a == 0 && md == 0) (.call g d (sext off 24))
  | 0x4 => need (md == 0 && off == 0) (.calli g d a)
  | 0x5 => need (d == 0 && md == 0 && off == 0) (.ret g a)
  | 0x6 => need (d == 0 && a == 0 && md == 0 && off == 0) (.exit g)
  | 0x7 => need (d == 0 && a == 0 && md == 0 && off == 0) (.yield g)
  | 0x8 => need (d == 0 && a == 0 && md == 0) (.sleep g off)
  | 0x9 => need (d == 0 && a == 0 && md == 0 && off == 0) (.beat g)
  | 0xA => need (bits w 47 32 == 0) (.trap g (bits w 31 0))
  | 0xB => need (d == 0 && a == 0 && md < 2 && off == 0) (.rtt g (bit md 0))
  | 0xC => need (bits w 47 32 == 0) (.bkpt g (bits w 31 0))
  | _ => .error .unassignedOpcode

/-- The amount of a shift (R197). -/
def decodeShift (f : FieldsA) (i : ShAmt → Instr) : Decoded :=
  if bit f.m 0 then need (f.b == 0 && f.c == 0 && f.m < 64) (i (.imm (bits f.m 5 1)))
  else need (f.c == 0 && f.m == 0) (i (.reg f.b))

/-- Opcodes 0x100 to 0x120 (Table 9.1). -/
def decodeInteger (g : Guard) (op w : Nat) : Decoded :=
  let f := fieldsA w
  let sg := bit f.m 0
  let sat := bit f.m 1
  match op with
  | 0x00 => need (f.b == 0 && f.c == 0 && f.m == 0) (.mov g f.d f.a f.k)
  | 0x01 => opt (Tag.ofName (bits w 35 32)) fun t => need (bits w 38 36 == 0) (.movi g f.d t (bits w 31 0))
  | 0x02 => need (f.c == 0 && f.m < 4) (.iadd g f.d f.a f.b f.k sg sat)
  | 0x03 =>
    let m := bits w 28 24
    need (m < 4) (.iaddi g f.d f.a (bit w 29) (bit m 0) (bit m 1) (sext (bits w 23 0) 24))
  | 0x04 => need (f.c == 0 && f.m < 4) (.isub g f.d f.a f.b f.k sg sat)
  | 0x05 => need (f.c == 0 && f.m < 2) (.imul g f.d f.a f.b f.k sg)
  | 0x06 => need (f.c == 0 && f.m < 2) (.imulh g f.d f.a f.b f.k sg)
  | 0x07 => need (f.m < 4) (.imad g f.d f.a f.b f.c f.k sg sat)
  | 0x08 => need (f.m < 2) (.imadw g f.d f.a f.b f.c f.k sg)
  | 0x09 => need (f.c == 0 && f.m < 2) (.iadd64 g f.d f.a f.b f.k sg)
  | 0x0A => need (f.c == 0 && f.m < 8) (.lea g f.d f.a f.b f.k f.m)
  | 0x0B => need (f.c == 0 && f.m < 2) (.imin g f.d f.a f.b f.k sg)
  | 0x0C => need (f.c == 0 && f.m < 2) (.imax g f.d f.a f.b f.k sg)
  | 0x0D => need (f.b == 0 && f.c == 0 && f.m < 2) (.iabs g f.d f.a f.k sg)
  | 0x0E =>
    opt (Cmp.ofCode (bits f.m 2 0)) fun cmp => opt (PredSrc.ofField f.c) fun q =>
      let comb := Comb.ofCode (bits f.m 5 4)
      need (f.d < 8 && f.m < 64 && (comb != .none || f.c == 0)) (.isetp g f.d f.a f.b q f.k cmp (bit f.m 3) comb)
  | 0x0F => opt (PredSrc.ofField f.c) fun q => need (f.m == 0) (.sel g f.d f.a f.b q f.k)
  | 0x10 => decodeShift f fun x => .shl g f.d f.a x f.k
  | 0x11 => decodeShift f fun x => .shr g f.d f.a x f.k
  | 0x12 => decodeShift f fun x => .sar g f.d f.a x f.k
  | 0x13 => decodeShift f fun x => .rol g f.d f.a x f.k
  | 0x14 => need (f.c == 0 && f.m == 0) (.and g f.d f.a f.b f.k)
  | 0x15 => need (f.c == 0 && f.m == 0) (.or g f.d f.a f.b f.k)
  | 0x16 => need (f.c == 0 && f.m == 0) (.xor g f.d f.a f.b f.k)
  | 0x17 => need (f.m < 256) (.bitf g f.d f.a f.b f.c f.k f.m)
  | 0x18 => need (f.b == 0 && f.c == 0 && f.m == 0) (.popc g f.d f.a f.k)
  | 0x19 => need (f.b == 0 && f.c == 0 && f.m == 0) (.clz g f.d f.a f.k)
  | 0x1A => need (f.b == 0 && f.c == 0 && f.m == 0) (.brev g f.d f.a f.k)
  | 0x1B => need (f.c == 0 && f.m < 2) (.bfe g f.d f.a f.b f.k sg)
  | 0x1C => need (f.m == 0) (.bfi g f.d f.a f.b f.c f.k)
  | 0x1D => need (f.m < 2) (.bsel g f.d f.a f.b f.c f.k sg)
  | 0x1E =>
    opt (PredSrc.ofField f.a) fun x => opt (PredSrc.ofField f.b) fun y => opt (PredSrc.ofField f.c) fun z =>
      need (f.d < 8 && f.m < 256) (.pbitf g f.d x y z f.k f.m)
  | 0x1F => need (f.a == 0 && f.b == 0 && f.c == 0 && f.m == 0) (.p2v g f.d f.k)
  | 0x20 => need (f.d == 0 && f.b == 0 && f.c == 0 && f.m == 0) (.v2p g f.a f.k)
  | _ => .error .unassignedOpcode

/-- Opcodes 0x200 to 0x217 (Table 10.1). -/
def decodeFloat (g : Guard) (op w : Nat) : Decoded :=
  let f := fieldsA w
  let mods := FMods.ofCode (bits f.m 6 3)
  let h := bit f.m 7
  let un (i : Instr) : Decoded := need (f.b == 0 && f.c == 0 && f.m == 0) i
  match op with
  | 0x00 => opt (Rm.ofCode (bits f.m 2 0)) fun r => need (f.c == 0 && f.m < 128) (.fadd g f.d f.a f.b f.k r mods)
  | 0x01 => opt (Rm.ofCode (bits f.m 2 0)) fun r => need (f.c == 0 && f.m < 128) (.fmul g f.d f.a f.b f.k r mods)
  | 0x02 => opt (Rm.ofCode (bits f.m 2 0)) fun r => need (f.m < 256) (.ffma g f.d f.a f.b f.c f.k r mods h)
  | 0x03 => need (f.c == 0 && f.m < 128 && bits f.m 2 0 == 0) (.fmin g f.d f.a f.b f.k mods)
  | 0x04 => need (f.c == 0 && f.m < 128 && bits f.m 2 0 == 0) (.fmax g f.d f.a f.b f.k mods)
  | 0x05 =>
    need (f.d < 8 && f.c == 0 && bits f.m 2 0 == 0) (.fsetp g f.d f.a f.b f.k mods (FCond.ofCode (bits f.m 9 7)))
  | 0x06 => opt (Rm.ofCode (bits f.m 2 0)) fun r => need (f.b == 0 && f.c == 0 && f.m < 8) (.frnd g f.d f.a f.k r)
  | 0x07 => un (.frcp g f.d f.a f.k)
  | 0x08 => un (.frsq g f.d f.a f.k)
  | 0x09 => opt (Rm.ofCode (bits f.m 2 0)) fun r => need (f.b == 0 && f.c == 0 && f.m < 8) (.fsqrt g f.d f.a f.k r)
  | 0x0A => un (.fex2 g f.d f.a f.k)
  | 0x0B => un (.flg2 g f.d f.a f.k)
  | 0x0C => un (.fsin g f.d f.a f.k)
  | 0x0D => un (.fcos g f.d f.a f.k)
  | 0x0E => un (.fclass g f.d f.a f.k)
  | 0x0F => opt (Rm.ofCode (bits f.m 2 0)) fun r =>
      need (f.c == 0 && f.m < 256 && bits f.m 6 3 == 0) (.hadd2 g f.d f.a f.b f.k r h)
  | 0x10 => opt (Rm.ofCode (bits f.m 2 0)) fun r =>
      need (f.c == 0 && f.m < 256 && bits f.m 6 3 == 0) (.hmul2 g f.d f.a f.b f.k r h)
  | 0x11 => opt (Rm.ofCode (bits f.m 2 0)) fun r =>
      need (f.m < 256 && bits f.m 6 3 == 0) (.hfma2 g f.d f.a f.b f.c f.k r h)
  | 0x12 => opt (Rm.ofCode (bits f.m 2 0)) fun r =>
      need (f.m < 256 && bits f.m 6 3 == 0) (.dot2 g f.d f.a f.b f.c f.k r h)
  | 0x13 => opt (Rm.ofCode (bits f.m 2 0)) fun r => opt (Tag.ofName (bits f.m 6 3)) fun t =>
      let copy := t == .raw || t == .q8 || t == .q4 || t == .w64l || t == .w64h || t == .scl || t == .hnd
      let int := t == .u32 || t == .s32
      need (f.c == 0 && f.m < 256 && (t == .bf2 || t == .h2 || f.b == 0) && (!copy || r == .ne) && (!h || int)) (.cvt g f.d f.a f.b f.k t r h)
  | 0x14 => opt (Rm.ofCode (bits f.m 2 0)) fun r => need (f.m < 16) (.qpack g f.d f.a f.b f.c f.k r (bit f.m 3))
  | 0x15 => need (f.m == 0 || f.m == 8) (.qunpk g f.d f.a f.b f.c f.k (bit f.m 3))
  | 0x16 => un (.tagq g f.d f.a f.k)
  | 0x17 => opt (Tag.ofName (bits f.m 3 0)) fun t => need (f.b == 0 && f.c == 0 && f.m < 16) (.tags g f.d f.a f.k t)
  | _ => .error .unassignedOpcode

/-- Opcodes 0x300 to 0x307: form V (Tables 2.9, 10.8). -/
def decodeSweep (g : Guard) (op w : Nat) : Decoded :=
  let d := bits w 47 39
  let a := bits w 38 30
  let b := bits w 29 21
  let n := bits w 20 9
  let sd := bits w 8 6
  let sa := bits w 5 3
  let sb := bits w 2 0
  match op with
  | 0x0 => .ok (.swadd g d a b n sd sa sb)
  | 0x1 => .ok (.swmul g d a b n sd sa sb)
  | 0x2 => .ok (.swfma g d a b n sd sa sb)
  | 0x3 => .ok (.swmax g d a b n sd sa sb)
  | 0x4 => need (b == 0 && sb == 0) (.swcvt g d a n sd sa)
  | 0x5 => need (b == 0 && sb == 0) (.swcopy g d a n sd sa)
  | 0x6 => need (b == 0 && sb == 0 && sd == 0) (.swsum g d a n sa)
  | 0x7 => need (b == 0 && sb == 0) (.swex2 g d a n sd sa)
  | _ => .error .unassignedOpcode

/-- Opcodes 0x400 to 0x40A: form M, WAITB form I (Tables 2.8, 2.15, 12.5). -/
def decodeMemory (g : Guard) (op w : Nat) : Decoded :=
  let d := bits w 47 39
  let base := bits w 38 30
  let idx := bits w 29 21
  let off := sext (bits w 20 9) 12
  let sc := bits w 8 6
  let cl := bits w 5 4
  let wd := bits w 3 0
  let o := bit wd 3
  match op with
  | 0x0 => opt (LdWidth.ofCode (bits wd 2 0)) fun x => opt (AccClass.ofCode cl) fun c =>
      need (sc < 5 && (o || sc == 0)) (.ld g d base idx off x o sc c)
  | 0x1 => opt (StWidth.ofCode (bits wd 2 0)) fun x => opt (AccClass.ofCode cl) fun c =>
      need (sc < 5 && (o || sc == 0)) (.st g d base idx off x o sc c)
  | 0x2 => opt (AtomOp.ofCode wd) fun x => need (0 < sc && sc < 5) (.atom g d base idx off x (Order.ofCode cl) sc)
  | 0x3 => need (wd < 2 && 0 < sc && sc < 5) (.cas g d base idx off (bit wd 0) (Order.ofCode cl) sc)
  | 0x4 => opt (AtomOp.ofCode wd) fun x =>
      need (x != .exch && x != .exch64 && (cl == 0 || cl == 2) && 0 < sc && sc < 5) (.red g d base idx off x (cl == 2) sc)
  | 0x5 =>
    need (wd < 4 && cl == 0 && sc < 5 && d == 0 && base == 0 && idx == 0 && off == 0) (.fence g (FenceOrd.ofCode wd) sc)
  | 0x6 => need (d == 0 && wd < 2 && cl == 0 && sc == 0 && (wd == 0 || (base == 0 && idx == 0 && off == 0)))
      (.cinv g (bit wd 0) base idx off)
  | 0x7 => need (d == 0 && wd < 2 && cl == 0 && sc == 0 && (wd == 0 || (base == 0 && idx == 0 && off == 0)))
      (.cclean g (bit wd 0) base idx off)
  | 0x8 => opt (AccClass.ofCode cl) fun c => need (sc == 0) (.cpa g d base idx off (bits wd 1 0) (bits wd 3 2) c)
  | 0x9 => need (d == 0 && base == 0 && bits w 29 26 == 0) (.waitb g (bits w 25 24) (bits w 23 0))
  | 0xA => opt (AccClass.ofCode cl) fun c => need (sc == 0 && wd == 0) (.cpb g d base idx off c)
  | _ => .error .unassignedOpcode

/-- Opcodes 0x500 to 0x505 (Table 13.6). -/
def decodeObject (g : Guard) (op w : Nat) : Decoded :=
  let f := fieldsA w
  match op with
  | 0x0 => need (f.c == 0 && f.m == 0) (.objinit g f.d f.a f.b f.k)
  | 0x1 => need (f.b == 0 && f.c == 0 && 0 < f.m && f.m < 5) (.publish g f.d f.a f.k f.m)
  | 0x2 => need (f.c == 0 && 0 < f.m && f.m < 5) (.pubst g f.d f.a f.b f.k f.m)
  | 0x3 => need (f.b == 0 && f.c == 0 && f.m == 0) (.refmk g f.d f.a f.k)
  | 0x4 => need (f.c == 0 && f.m == 0) (.objst g f.d f.a f.b f.k)
  | 0x5 => need (f.d == 0 && f.b == 0 && f.c == 0 && f.m == 0) (.reclaim g f.a f.k)
  | _ => .error .unassignedOpcode

/-- Opcodes 0x600 to 0x615 (Tables 14.1, 14.3, 8.6, 5.10, 16.4; R137, R150). -/
def decodeSync (g : Guard) (op w : Nat) : Decoded :=
  let f := fieldsA w
  let bn := bits f.m 1 0
  let gs := bits f.m 3 2
  match op with
  | 0x00 => need (f.d == 0 && f.a == 0 && f.b == 0 && f.c == 0 && f.m < 16) (.bar g bn gs f.k)
  | 0x01 => need (f.a == 0 && f.b == 0 && f.c == 0 && f.m < 16) (.bara g f.d bn gs f.k)
  | 0x02 => need (f.d == 0 && f.b == 0 && f.c == 0 && f.m < 16) (.barw g f.a bn gs f.k)
  | 0x03 => need (f.d == 0 && f.c == 0 && f.m == 0) (.xbinit g f.a f.b f.k)
  | 0x04 => need (f.c == 0 && f.m == 0) (.xbarr g f.d f.a f.b f.k)
  | 0x05 => need (f.d == 0 && f.c == 0 && f.m == 0) (.xbwait g f.a f.b f.k)
  | 0x06 => need (f.d < 8 && f.c == 0 && f.m == 0) (.xbtry g f.d f.a f.b f.k)
  | 0x07 =>
    let mode := LxMode.ofCode (bits f.m 1 0)
    need (f.c == 0 && f.m < 8 && (mode != .low || f.b == 0)) (.lxch g f.d f.a f.b f.k mode (bit f.m 2))
  | 0x08 => opt (PagrKind.ofCode (bits f.m 2 0)) fun kind => opt (PredSrc.ofField f.a) fun q =>
      need (f.b == 0 && f.c == 0 && f.m < 8 && (kind == .mask || kind == .count || f.d < 8)) (.pagr g f.d q f.k kind)
  | 0x09 => opt (RedOp.ofCode f.m) fun x => need (f.b == 0 && f.c == 0) (.redg g f.d f.a f.k x)
  | 0x0A => opt (RedOp.ofCode (bits f.m 2 0)) fun x =>
      need (f.b == 0 && f.c == 0 && f.m < 16) (.scang g f.d f.a f.k x (bit f.m 3))
  | 0x0B => need (f.b == 0 && f.c < 64 && f.m < 8) (.cdsend g f.d f.a f.c (f.m + 1) f.k)
  | 0x0C => need (f.b == 0 && f.c < 64 && f.m == 0) (.cdrecv g f.d f.a f.c f.k)
  | 0x0D => need (f.b == 0 && f.c < 64 && f.m == 0) (.cdpeek g f.d f.a f.c f.k)
  | 0x0E => need (f.a == 0 && f.b == 0 && f.c < 64 && f.m == 0) (.cdclose g f.d f.c f.k)
  | 0x0F => need (f.c == 0 && f.m == 0) (.launch g f.d f.a f.b f.k)
  | 0x10 => need (f.c == 0 && f.m == 0) (.qsig g f.d f.a f.b f.k)
  | 0x11 => need (f.d == 0 && f.c == 0 && f.m == 0) (.cbset g f.a f.b f.k)
  | 0x12 => need (f.m < 2 && (f.m == 1 || f.c == 0)) (.resample g f.d f.a f.b f.c f.k (bit f.m 0))
  | 0x13 => need (f.d == 0 && f.a == 0 && f.b == 0 && f.c == 0 && f.m == 0) (.pkill g f.k)
  | 0x14 => need (f.a == 0 && f.b < 7 && f.c == 0 && f.m == 0) (.pcount g f.d f.b f.k)
  | 0x15 => need (f.a < 4 && f.b < 7 && f.c == 0 && f.k == 0 && f.m == 0) (.grpq g f.d f.a f.b)
  | _ => .error .unassignedOpcode

/-- A form T operand under its source bit (Table 2.18). -/
def TOpnd.ofField (hb : Bool) (n : Nat) : Option TOpnd :=
  if hb then (if n < 8 then some (.hnd n) else none) else some (.reg n)

/-- Opcodes 0x700 to 0x708: form T (Tables 2.11, 15.5). -/
def decodeTile (g : Guard) (op w : Nat) : Decoded :=
  let gs := bits w 47 46
  let cv := bits w 45 42
  let acc := bits w 41 38
  let a := bits w 37 29
  let b := bits w 28 20
  let z := bits w 19 18
  let ha := bit w 16
  let hb := bit w 17
  let m := bits w 15 0
  match op with
  | 0x0 => need (gs == 0 && cv == 0 && acc == 0 && z == 0 && !ha && hb && b < 8 && m == 0) (.thdl g b a)
  | 0x1 => opt (TOpnd.ofField ha a) fun x => opt (TOpnd.ofField hb b) fun y =>
      need (z == 0 && m < 2) (.tmma g gs cv acc x y (bit m 0))
  | 0x2 => opt (TOpnd.ofField ha a) fun x => opt (TOpnd.ofField hb b) fun y =>
      need (z == 0 && m < 2) (.tmmq g gs cv acc x y (bit m 0))
  | 0x3 => opt (TOpnd.ofField ha a) fun x =>
      need (cv == 0 && z == 0 && !hb && b == 0 && m == 0)
        (.tzero g gs acc (if x == .reg 0 then none else some x))
  | 0x4 => need (cv == 0 && z == 0 && !ha && !hb && m < 2) (.tcvt g gs acc a b (bit m 0))
  | 0x5 => opt (TOpnd.ofField ha a) fun x => need (cv == 0 && z == 0 && !hb && m == 0) (.tstore g gs acc x b)
  | 0x6 => opt (TOpnd.ofField ha a) fun x => opt (TOpnd.ofField hb b) fun y =>
      need (cv == 0 && z == 0 && m == 0) (.tscale g gs acc x y)
  | 0x7 => need (cv == 0 && a == 0 && b == 0 && z == 0 && !ha && !hb && m == 0) (.tflag g gs acc)
  | 0x8 => need (cv == 0 && a == 0 && b == 0 && z == 0 && !ha && !hb && m == 0) (.twait g gs acc)
  | _ => .error .unassignedOpcode

/-- Opcodes 0x800 to 0x808 (R176, R177, R178, Table 11.7, R414). -/
def decodeSystem (g : Guard) (op w : Nat) : Decoded :=
  let f := fieldsA w
  let mi := bits w 28 24
  let imm := bits w 23 0
  match op with
  | 0x0 => opt (Special.ofNum imm) fun x => need (f.a == 0 && bits w 29 24 == 0) (.mfs g f.d x)
  | 0x1 => opt (Special.ofNum imm) fun x => need (f.d == 0 && mi == 0) (.mts g f.a (bit w 29) x)
  | 0x2 => need (f.a == 0 && f.b == 0 && f.c == 0 && f.k == 0 && f.m < 2) (.rnd g f.d (bit f.m 0))
  | 0x3 => need (f.b == 0 && f.c == 0 && f.m == 0) (.spalloc g f.d f.a f.k)
  | 0x4 => need (f.b == 0 && f.c == 0 && f.m == 0) (.spfree g f.d f.a f.k)
  | 0x5 => need (f.c == 0 && f.m == 0) (.rtouch g f.d f.a f.b f.k)
  | 0x6 => opt (LifeClass.ofCode (bits mi 1 0)) fun c =>
      need (mi < 4 && imm < 256 && ((c == .refreshed) == (imm == 0))) (.rclass g f.d f.a (bit w 29) c imm)
  | 0x7 => need (f.b == 0 && f.c == 0 && f.m == 0) (.rage g f.d f.a f.k)
  | 0x8 => need (f.d == 0 && f.c == 0 && f.m == 0) (.trace g f.a f.b f.k)
  | _ => .error .unassignedOpcode

/-- The decoder: R42's encoding check over Table 2.12. -/
def decodeWord (w : Nat) : Decoded :=
  let g := Guard.ofCode (bits w 51 48)
  let op := bits w 59 52
  match bits w 63 60 with
  | 0 => decodeControl g op w
  | 1 => decodeInteger g op w
  | 2 => decodeFloat g op w
  | 3 => decodeSweep g op w
  | 4 => decodeMemory g op w
  | 5 => decodeObject g op w
  | 6 => decodeSync g op w
  | 7 => decodeTile g op w
  | 8 => decodeSystem g op w
  | _ => .error .unassignedOpcode

/-- A clause header (Table 2.1). -/
structure Header where
  cls : Nat
  count : Nat
  rep : Bool
  reps : Nat
  sd : Nat
  sa : Nat
  sb : Nat
  sc : Nat
deriving DecidableEq, Repr

/-- Step 1 of R28: a header word, or none when its encoding raises ILLEGAL. -/
def decodeHeader (w : Nat) : Option Header :=
  let h : Header := ⟨bits w 63 60, bits w 59 56 + 1, bit w 55, bits w 54 43, bits w 42 39, bits w 38 35, bits w 34 31, bits w 30 27⟩
  if 7 ≤ h.cls || bits w 26 0 != 0 || (!h.rep && (h.reps != 0 || h.sd != 0 || h.sa != 0 || h.sb != 0 || h.sc != 0))
  then none else some h

/-- The word of a header (Table 2.1). -/
def encodeHeader (h : Header) : Nat :=
  h.cls * 2 ^ 60 + (h.count - 1) * 2 ^ 56 + b2n h.rep * 2 ^ 55 + h.reps * 2 ^ 43 + h.sd * 2 ^ 39 + h.sa * 2 ^ 35 +
    h.sb * 2 ^ 31 + h.sc * 2 ^ 27

/-- Opcode and guard, bits [63:48] of every form (R37). -/
def encTop (op : Nat) (g : Guard) : Nat := op * 2 ^ 52 + g.code * 2 ^ 48

/-- Form A (Table 2.5). -/
def encA (op : Nat) (g : Guard) (d a b c k m : Nat) : Nat :=
  encTop op g + d * 2 ^ 39 + a * 2 ^ 30 + b * 2 ^ 21 + c * 2 ^ 12 + k * 2 ^ 10 + m

/-- Form I (Table 2.6). -/
def encI (op : Nat) (g : Guard) (d a : Nat) (ka : Bool) (m imm : Nat) : Nat :=
  encTop op g + d * 2 ^ 39 + a * 2 ^ 30 + b2n ka * 2 ^ 29 + m * 2 ^ 24 + imm

/-- Form W (Table 2.7). -/
def encW (op : Nat) (g : Guard) (d m imm : Nat) : Nat := encTop op g + d * 2 ^ 39 + m * 2 ^ 32 + imm

/-- Form M (Table 2.8). -/
def encM (op : Nat) (g : Guard) (d base idx : Nat) (off : Int) (sc cl wd : Nat) : Nat :=
  encTop op g + d * 2 ^ 39 + base * 2 ^ 30 + idx * 2 ^ 21 + trunc off 12 * 2 ^ 9 + sc * 2 ^ 6 + cl * 2 ^ 4 + wd

/-- Form V (Table 2.9). -/
def encV (op : Nat) (g : Guard) (d a b n sd sa sb : Nat) : Nat :=
  encTop op g + d * 2 ^ 39 + a * 2 ^ 30 + b * 2 ^ 21 + n * 2 ^ 9 + sd * 2 ^ 6 + sa * 2 ^ 3 + sb

/-- Form C (Table 2.10). -/
def encC (op : Nat) (g : Guard) (d a m : Nat) (off : Int) : Nat :=
  encTop op g + d * 2 ^ 39 + a * 2 ^ 30 + m * 2 ^ 24 + trunc off 24

/-- Form T (Table 2.11). -/
def encT (op : Nat) (g : Guard) (gs cv acc a b src m : Nat) : Nat :=
  encTop op g + gs * 2 ^ 46 + cv * 2 ^ 42 + acc * 2 ^ 38 + a * 2 ^ 29 + b * 2 ^ 20 + src * 2 ^ 16 + m

def TOpnd.field : TOpnd → Nat | .reg i => i | .hnd n => n
def TOpnd.isHnd : TOpnd → Bool | .reg _ => false | .hnd _ => true
def ShAmt.field : ShAmt → Nat | .reg b => b | .imm _ => 0
def ShAmt.code : ShAmt → Nat | .reg _ => 0 | .imm n => 1 + 2 * n

/-- The word of a code instruction, from the same tables; a device step has no word. -/
def encode : Instr → Option Nat
  | .nop g => some (encC 0x000 g 0 0 0 0)
  | .bra g off => some (encC 0x001 g 0 0 0 off)
  | .jmp g a => some (encC 0x002 g 0 a 0 0)
  | .call g d off => some (encC 0x003 g d 0 0 off)
  | .calli g d a => some (encC 0x004 g d a 0 0)
  | .ret g a => some (encC 0x005 g 0 a 0 0)
  | .exit g => some (encC 0x006 g 0 0 0 0)
  | .yield g => some (encC 0x007 g 0 0 0 0)
  | .sleep g n => some (encI 0x008 g 0 0 false 0 n)
  | .beat g => some (encC 0x009 g 0 0 0 0)
  | .trap g imm => some (encW 0x00A g 0 0 imm)
  | .rtt g past => some (encC 0x00B g 0 0 (b2n past) 0)
  | .bkpt g imm => some (encW 0x00C g 0 0 imm)
  | .mov g d a k => some (encA 0x100 g d a 0 0 k 0)
  | .movi g d tag imm => some (encW 0x101 g d tag.code imm)
  | .iadd g d a b k sg sat => some (encA 0x102 g d a b 0 k (b2n sg + 2 * b2n sat))
  | .iaddi g d a ka sg sat imm => some (encI 0x103 g d a ka (b2n sg + 2 * b2n sat) (trunc imm 24))
  | .isub g d a b k sg sat => some (encA 0x104 g d a b 0 k (b2n sg + 2 * b2n sat))
  | .imul g d a b k sg => some (encA 0x105 g d a b 0 k (b2n sg))
  | .imulh g d a b k sg => some (encA 0x106 g d a b 0 k (b2n sg))
  | .imad g d a b c k sg sat => some (encA 0x107 g d a b c k (b2n sg + 2 * b2n sat))
  | .imadw g d a b c k sg => some (encA 0x108 g d a b c k (b2n sg))
  | .iadd64 g d a b k sub => some (encA 0x109 g d a b 0 k (b2n sub))
  | .lea g d a b k sh => some (encA 0x10A g d a b 0 k sh)
  | .imin g d a b k sg => some (encA 0x10B g d a b 0 k (b2n sg))
  | .imax g d a b k sg => some (encA 0x10C g d a b 0 k (b2n sg))
  | .iabs g d a k sg => some (encA 0x10D g d a 0 0 k (b2n sg))
  | .isetp g p a b q k cmp sg comb => some (encA 0x10E g p a b q.code k (cmp.code + 8 * b2n sg + 16 * comb.code))
  | .sel g d a b q k => some (encA 0x10F g d a b q.code k 0)
  | .shl g d a amt k => some (encA 0x110 g d a amt.field 0 k amt.code)
  | .shr g d a amt k => some (encA 0x111 g d a amt.field 0 k amt.code)
  | .sar g d a amt k => some (encA 0x112 g d a amt.field 0 k amt.code)
  | .rol g d a amt k => some (encA 0x113 g d a amt.field 0 k amt.code)
  | .and g d a b k => some (encA 0x114 g d a b 0 k 0)
  | .or g d a b k => some (encA 0x115 g d a b 0 k 0)
  | .xor g d a b k => some (encA 0x116 g d a b 0 k 0)
  | .bitf g d a b c k fn => some (encA 0x117 g d a b c k fn)
  | .popc g d a k => some (encA 0x118 g d a 0 0 k 0)
  | .clz g d a k => some (encA 0x119 g d a 0 0 k 0)
  | .brev g d a k => some (encA 0x11A g d a 0 0 k 0)
  | .bfe g d a b k sg => some (encA 0x11B g d a b 0 k (b2n sg))
  | .bfi g d a b c k => some (encA 0x11C g d a b c k 0)
  | .bsel g d a b c k sx => some (encA 0x11D g d a b c k (b2n sx))
  | .pbitf g p q0 q1 q2 k fn => some (encA 0x11E g p q0.code q1.code q2.code k fn)
  | .p2v g d k => some (encA 0x11F g d 0 0 0 k 0)
  | .v2p g a k => some (encA 0x120 g 0 a 0 0 k 0)
  | .fadd g d a b k rm mods => some (encA 0x200 g d a b 0 k (rm.code + 8 * mods.code))
  | .fmul g d a b k rm mods => some (encA 0x201 g d a b 0 k (rm.code + 8 * mods.code))
  | .ffma g d a b c k rm mods nc => some (encA 0x202 g d a b c k (rm.code + 8 * mods.code + 128 * b2n nc))
  | .fmin g d a b k mods => some (encA 0x203 g d a b 0 k (8 * mods.code))
  | .fmax g d a b k mods => some (encA 0x204 g d a b 0 k (8 * mods.code))
  | .fsetp g p a b k mods cnd => some (encA 0x205 g p a b 0 k (8 * mods.code + 128 * cnd.code))
  | .frnd g d a k rm => some (encA 0x206 g d a 0 0 k rm.code)
  | .frcp g d a k => some (encA 0x207 g d a 0 0 k 0)
  | .frsq g d a k => some (encA 0x208 g d a 0 0 k 0)
  | .fsqrt g d a k rm => some (encA 0x209 g d a 0 0 k rm.code)
  | .fex2 g d a k => some (encA 0x20A g d a 0 0 k 0)
  | .flg2 g d a k => some (encA 0x20B g d a 0 0 k 0)
  | .fsin g d a k => some (encA 0x20C g d a 0 0 k 0)
  | .fcos g d a k => some (encA 0x20D g d a 0 0 k 0)
  | .fclass g d a k => some (encA 0x20E g d a 0 0 k 0)
  | .hadd2 g d a b k rm h => some (encA 0x20F g d a b 0 k (rm.code + 128 * b2n h))
  | .hmul2 g d a b k rm h => some (encA 0x210 g d a b 0 k (rm.code + 128 * b2n h))
  | .hfma2 g d a b c k rm h => some (encA 0x211 g d a b c k (rm.code + 128 * b2n h))
  | .dot2 g d a b c k rm h => some (encA 0x212 g d a b c k (rm.code + 128 * b2n h))
  | .cvt g d a b k dt rm sat => some (encA 0x213 g d a b 0 k (rm.code + 8 * dt.code + 128 * b2n sat))
  | .qpack g d a b c k rm n4 => some (encA 0x214 g d a b c k (rm.code + 8 * b2n n4))
  | .qunpk g d a b c k n4 => some (encA 0x215 g d a b c k (8 * b2n n4))
  | .tagq g d a k => some (encA 0x216 g d a 0 0 k 0)
  | .tags g d a k tag => some (encA 0x217 g d a 0 0 k tag.code)
  | .swadd g d a b cnt sd sa sb => some (encV 0x300 g d a b cnt sd sa sb)
  | .swmul g d a b cnt sd sa sb => some (encV 0x301 g d a b cnt sd sa sb)
  | .swfma g d a b cnt sd sa sb => some (encV 0x302 g d a b cnt sd sa sb)
  | .swmax g d a b cnt sd sa sb => some (encV 0x303 g d a b cnt sd sa sb)
  | .swcvt g d a cnt sd sa => some (encV 0x304 g d a 0 cnt sd sa 0)
  | .swcopy g d a cnt sd sa => some (encV 0x305 g d a 0 cnt sd sa 0)
  | .swsum g d a cnt sa => some (encV 0x306 g d a 0 cnt 0 sa 0)
  | .swex2 g d a cnt sd sa => some (encV 0x307 g d a 0 cnt sd sa 0)
  | .ld g d base idx off w acq sc cls => some (encM 0x400 g d base idx off sc cls.code (w.code + 8 * b2n acq))
  | .st g d base idx off w rel sc cls => some (encM 0x401 g d base idx off sc cls.code (w.code + 8 * b2n rel))
  | .atom g d base idx off op ord sc => some (encM 0x402 g d base idx off sc ord.code op.code)
  | .cas g d base idx off w64 ord sc => some (encM 0x403 g d base idx off sc ord.code (b2n w64))
  | .red g d base idx off op rel sc => some (encM 0x404 g d base idx off sc (2 * b2n rel) op.code)
  | .fence g ord sc => some (encM 0x405 g 0 0 0 0 sc 0 ord.code)
  | .cinv g all base idx off => some (encM 0x406 g 0 base idx off 0 0 (b2n all))
  | .cclean g all base idx off => some (encM 0x407 g 0 base idx off 0 0 (b2n all))
  | .cpa g d base idx off lgw bt cls => some (encM 0x408 g d base idx off 0 cls.code (lgw + 4 * bt))
  | .waitb g bt n => some (encI 0x409 g 0 0 false bt n)
  | .cpb g d base idx off cls => some (encM 0x40A g d base idx off 0 cls.code 0)
  | .objinit g d a b k => some (encA 0x500 g d a b 0 k 0)
  | .publish g d a k sc => some (encA 0x501 g d a 0 0 k sc)
  | .pubst g d a b k sc => some (encA 0x502 g d a b 0 k sc)
  | .refmk g d a k => some (encA 0x503 g d a 0 0 k 0)
  | .objst g d a b k => some (encA 0x504 g d a b 0 k 0)
  | .reclaim g a k => some (encA 0x505 g 0 a 0 0 k 0)
  | .bar g bn gs k => some (encA 0x600 g 0 0 0 0 k (bn + 4 * gs))
  | .bara g d bn gs k => some (encA 0x601 g d 0 0 0 k (bn + 4 * gs))
  | .barw g a bn gs k => some (encA 0x602 g 0 a 0 0 k (bn + 4 * gs))
  | .xbinit g a b k => some (encA 0x603 g 0 a b 0 k 0)
  | .xbarr g d a b k => some (encA 0x604 g d a b 0 k 0)
  | .xbwait g a b k => some (encA 0x605 g 0 a b 0 k 0)
  | .xbtry g p a b k => some (encA 0x606 g p a b 0 k 0)
  | .lxch g d a b k mode kp => some (encA 0x607 g d a b 0 k (mode.code + 4 * b2n kp))
  | .pagr g d q k kind => some (encA 0x608 g d q.code 0 0 k kind.code)
  | .redg g d a k op => some (encA 0x609 g d a 0 0 k op.code)
  | .scang g d a k op excl => some (encA 0x60A g d a 0 0 k (op.code + 8 * b2n excl))
  | .cdsend g d a cd n k => some (encA 0x60B g d a 0 cd k (n - 1))
  | .cdrecv g d a cd k => some (encA 0x60C g d a 0 cd k 0)
  | .cdpeek g d a cd k => some (encA 0x60D g d a 0 cd k 0)
  | .cdclose g d cd k => some (encA 0x60E g d 0 0 cd k 0)
  | .launch g d a b k => some (encA 0x60F g d a b 0 k 0)
  | .qsig g d a b k => some (encA 0x610 g d a b 0 k 0)
  | .cbset g a b k => some (encA 0x611 g 0 a b 0 k 0)
  | .resample g d a b c k opnd => some (encA 0x612 g d a b c k (b2n opnd))
  | .pkill g k => some (encA 0x613 g 0 0 0 0 k 0)
  | .pcount g d item k => some (encA 0x614 g d 0 item 0 k 0)
  | .grpq g d slot item => some (encA 0x615 g d slot item 0 0 0)
  | .thdl g hn a => some (encT 0x700 g 0 0 0 a hn 2 0)
  | .tmma g gs cv acc A B f16 =>
    some (encT 0x701 g gs cv acc A.field B.field (b2n A.isHnd + 2 * b2n B.isHnd) (b2n f16))
  | .tmmq g gs cv acc A B n4 =>
    some (encT 0x702 g gs cv acc A.field B.field (b2n A.isHnd + 2 * b2n B.isHnd) (b2n n4))
  | .tzero g gs acc none => some (encT 0x703 g gs 0 acc 0 0 0 0)
  | .tzero g gs acc (some H) => some (encT 0x703 g gs 0 acc H.field 0 (b2n H.isHnd) 0)
  | .tcvt g gs acc a b bf => some (encT 0x704 g gs 0 acc a b 0 (b2n bf))
  | .tstore g gs acc H b => some (encT 0x705 g gs 0 acc H.field b (b2n H.isHnd) 0)
  | .tscale g gs acc A B => some (encT 0x706 g gs 0 acc A.field B.field (b2n A.isHnd + 2 * b2n B.isHnd) 0)
  | .tflag g gs acc => some (encT 0x707 g gs 0 acc 0 0 0 0)
  | .twait g gs acc => some (encT 0x708 g gs 0 acc 0 0 0 0)
  | .mfs g d sp => some (encI 0x800 g d 0 false 0 sp.num)
  | .mts g a ka sp => some (encI 0x801 g 0 a ka 0 sp.num)
  | .rnd g d w64 => some (encA 0x802 g d 0 0 0 0 (b2n w64))
  | .spalloc g d a k => some (encA 0x803 g d a 0 0 k 0)
  | .spfree g d a k => some (encA 0x804 g d a 0 0 k 0)
  | .rtouch g d a b k => some (encA 0x805 g d a b 0 k 0)
  | .rclass g d a ka cls life => some (encI 0x806 g d a ka cls.code life)
  | .rage g d a k => some (encA 0x807 g d a 0 0 k 0)
  | .trace g a b k => some (encA 0x808 g 0 a b 0 k 0)
  | .issueGroupFormation _ _ => none
  | .loadDelivery _ _ => none
  | .resampleComplete _ => none
  | .conduitRefill _ => none
  | .cpaLanding _ _ => none
  | .cpbPieceLanding _ _ => none
  | .tileOpApply _ _ => none
  | .brassWalk _ => none
  | .sideLogReplay _ => none
  | .columnCacheEviction _ _ => none
  | .unitAdmission _ => none
  | .kernelCompletion _ => none
  | .packetNop _ => none
  | .packetKernel _ => none
  | .packetSignal _ => none
  | .packetWait _ => none
  | .waitRecheck _ => none
  | .packetDepmap _ => none
  | .depmapRecheck _ => none
  | .packetInval _ => none
  | .invalCompletion _ => none
  | .peerFence _ _ => none
  | .launchFrame _ _ => none
  | .define _ => none
  | .ready _ => none
  | .halt _ => none
  | .resume _ => none
  | .desched _ => none
  | .kill _ => none
  | .queueEnable _ => none
  | .queueDisable _ => none
  | .notify _ _ => none
  | .faultRetry _ _ => none
  | .faultFail _ _ => none
  | .tagwrWrite _ => none
  | .warmReset _ => none
  | .dieFlushing _ => none
  | .dieResetting _ => none
  | .dieTesting _ => none
  | .dieRetraining _ => none
  | .dieUp _ => none
  | .lmbaseWrite _ => none
  | .debugWrite _ => none
  | .debugRead => none
  | .breakpointSet _ _ _ => none
  | .mcwinWrite _ _ => none
  | .portEnable _ _ => none
  | .portDisable _ => none
  | .routeWrite _ _ => none
  | .registerWrite _ _ => none
  | .tick _ => none
  | .rowExpiry _ _ => none
  | .sleepWake _ => none
  | .sliceEnd _ => none
  | .contextReturn _ => none
  | .watchdogFire _ => none
  | .budgetFire _ => none
  | .traceSample _ => none
  | .refreshPass _ => none
  | .heartbeat _ => none
  | .failsafeEntry _ => none
  | .powerMeasurement _ => none
  | .operatingPointStable => none
  | .thermalChange _ _ => none
  | .thermalTrip => none
  | .bridgeModuleLoss _ => none
  | .coldReset _ _ => none
  | .firmwareUpdate _ _ => none
  | .getVersion _ => none
  | .getCapabilities _ => none
  | .negotiateAlgorithms _ => none
  | .getDigests _ => none
  | .getCertificate _ _ => none
  | .challenge _ _ => none
  | .getMeasurements _ _ => none
  | .unsupportedRequest _ _ => none
  | .flitTransmit _ => none
  | .flitRead _ _ => none
  | .flitWrite _ _ => none
  | .flitAtomic _ _ => none
  | .flitResponse _ _ => none
  | .multicastWrite _ _ => none
  | .managementFrame _ _ => none
  | .nak _ _ => none
  | .credits _ _ => none
  | .endToEndAcknowledgement _ _ => none
  | .portTrained _ _ => none
  | .portRetrain _ => none
  | .portTimeout _ => none
  | .deviceLost _ => none
  | .hostBar4Read _ _ => none
  | .hostBar4Write _ _ => none
  | .flitForward _ _ => none
  | .idleFlit _ _ => none
  | .flitCrcFailure _ => none
  | .phyRestored _ => none
  | .inboundInval _ _ _ _ => none
  | .hostAtomicop _ _ _ _ _ => none
  | .softError _ _ => none
  | .scrubbing _ => none

/-- The instruction the decoder reads from an opcode-table word: a code word is 64 bits, little-endian (R24), and a
shorter row is completed by zeros above its bits. -/
def decodeTableWord (nbits w : Nat) : Option Instr :=
  if 64 < nbits then none
  else match decodeWord (leNat (leBytes 8 (w % 2 ^ nbits))) with
    | .ok i => some i
    | .error _ => none

end Sys2Proof
end

