-- ==== Sys2Proof/Machine/Maps.lean ====
section
/-! DEFINITION. Sparse data by key: lists of (key, value) pairs with strictly rising keys, and sorted sets. -/

namespace Sys2Proof

/-- A map from numbers, as a list whose keys rise strictly. -/
abbrev AMap (α : Type) := List (Nat × α)

namespace AMap

/-- The value at key `k`. -/
def find {α : Type} (k : Nat) : AMap α → Option α
  | [] => none
  | (j, v) :: m => if j = k then some v else find k m

/-- The map with `v` at key `k`. -/
def put {α : Type} (k : Nat) (v : α) : AMap α → AMap α
  | [] => [(k, v)]
  | (j, x) :: m => if k < j then (k, v) :: (j, x) :: m else if j = k then (k, v) :: m else (j, x) :: put k v m

/-- The map without key `k`. -/
def del {α : Type} (k : Nat) : AMap α → AMap α
  | [] => []
  | (j, x) :: m => if j = k then m else (j, x) :: del k m

/-- The value at `k`, changed by `f` when there is one. -/
def upd {α : Type} (k : Nat) (f : α → α) : AMap α → AMap α
  | [] => []
  | (j, x) :: m => if j = k then (j, f x) :: m else (j, x) :: upd k f m

/-- Every value changed by `f`. -/
def mapv {α : Type} (f : Nat → α → α) : AMap α → AMap α
  | [] => []
  | (j, x) :: m => (j, f j x) :: mapv f m

/-- The entries of which `p` holds. -/
def keep {α : Type} (p : Nat → α → Bool) : AMap α → AMap α
  | [] => []
  | (j, x) :: m => if p j x then (j, x) :: keep p m else keep p m

end AMap

/-- A set of numbers as a strictly rising list: membership. -/
def setHas (k : Nat) : List Nat → Bool
  | [] => false
  | j :: m => if j = k then true else setHas k m

/-- The set with `k`. -/
def setAdd (k : Nat) : List Nat → List Nat
  | [] => [k]
  | j :: m => if k < j then k :: j :: m else if j = k then j :: m else j :: setAdd k m

/-- The set without `k`. -/
def setDel (k : Nat) : List Nat → List Nat
  | [] => []
  | j :: m => if j = k then m else j :: setDel k m

/-- The set with `k` present or absent. -/
def setPut (k : Nat) (b : Bool) (m : List Nat) : List Nat := if b then setAdd k m else setDel k m

end Sys2Proof
end

