-- ==== Sys2Proof/Machine/State.lean ====
section
/-! DEFINITION. The state of the machine: every piece of state the spec gives the package, as plain data; its faults
and refusals; and the state right after a cold reset. INVENTORY.md lists each field with the rule that names it. -/

namespace Sys2Proof.Machine

open Sys2Proof

/-- What stops the model with a fault. -/
inductive Fault where
  /-- Raised by any step once the package has tripped off (R425) and no cold reset has come yet. Safe: the spec gives the
  machine no step then other than COLD_RESET, which is performed. -/
  | packageOff
deriving DecidableEq, Repr

/-- What the model refuses. -/
inductive Refusal where
  /-- Not modelled: raised by the dispatcher for an instruction without a meaning yet. Safe. -/
  | notModelled (mnemonic : String)
deriving DecidableEq, Repr

/-- The trap causes of Table 4.6. -/
inductive Cause where
  | illegal | clause | regbound | tag | expired | spbound | stkbound | addr | page | access | pubwrite | foreign
  | escape | cvmismatch | role | ret | memerr | remote | watchdog | population | barrier | soft | brk
deriving DecidableEq, Repr

/-- A register, scratch, stack or tile word: 32 data bits and the tag cell (R230). -/
structure TWord where
  bits : Word
  tag : Tag
deriving DecidableEq, Repr

/-- A cell row (R230, R236): words not listed are 0 with tag RAW. `badMeta` is an uncorrectable error of the metadata that nothing has met
yet, `dead` says that one has been met, in the instruction issue `met`: the row, or its words marked lapsed, trap whatever the class (R242). -/
structure Row where
  words : AMap TWord
  stamp : Nat
  lapsed : Nat
  expMark : Bool
  badMeta : Bool
  dead : Bool
  met : Nat
  bad : Nat
  soft : Nat
deriving DecidableEq, Repr

/-- An allocation (R230 to R232): rows not listed hold zeros, stamped `stamp0`. -/
structure Alloc where
  cls : LifeClass
  life : Nat
  pages : Nat
  stamp0 : Nat
  rows : AMap Row
deriving DecidableEq, Repr

/-- Which allocation a scratch or stack access reaches. -/
inductive Home where
  | scratch (gid : Nat)
  | stack (gid : Nat)
  | window (iid : Nat)
deriving DecidableEq, Repr

/-- The clause a thread runs (R31, R35): the header's address and its decoded fields. -/
structure Clause where
  addr : Nat
  count : Nat
  cls : Nat
  rep : Bool
  reps : Nat
  sd : Nat
  sa : Nat
  sb : Nat
  sc : Nat
deriving DecidableEq, Repr

/-- What a thread waits for (`Wait` of R5, R9). -/
inductive Wait where
  | loads (rs : List Nat)
  | sleep (t : Nat)
  | batch (bt n : Nat)
  | quiet
  | slogEmpty
  | slogRoom (line : Nat)
  | slogSeqs (ids : List Nat) (va : Nat)
  | fault (seq va : Nat)
  | ring
  | barrier (iid b phase : Nat)
  | landing (h : Home) (off phase : Nat)
  | coll
  | phase (iid cv : Nat) (ph : Bool)
  | turn (iid acc op : Nat)
  | tiles (iid acc op : Nat) (cvs : List (Nat × Bool))
  | walk (id : Nat)
  | claim (wcore wser : Nat)
  | send (cid : Nat)
  | recv (cid : Nat)
  | resample
  | remote (id : Nat)
  | posted
  | landings (gid off : Nat)
  | ffault (seq va : Nat)
deriving DecidableEq, Repr

/-- What a waiting instruction has already done or been given, for when it issues again; `drained` says that it has reported what the
side log left, and waits as a release (R374). -/
inductive Cont where
  | none
  | tok (n : Nat)
  | words (ws : List TWord) (fl : Nat)
  | skip
  | resp (status cause data tags : Nat)
  | fail (c : Cause) (v : Nat)
  | drained
  | ffail (c : Cause) (v : Nat)
deriving DecidableEq, Repr

/-- A load issued and not yet delivered (R155). -/
structure PLoad where
  dsts : List (Nat × TWord)
deriving DecidableEq, Repr

/-- How a thread that stands at its PC without a clause goes on (R35): at a clause start, at an instruction it resumes at,
or past that instruction. -/
inductive Resume where | start | here | past
deriving DecidableEq, Repr

/-- A thread (R151, Table 8.1). `wdh` says that the handler it runs was entered by a WATCHDOG trap (R405). `ranges` are the scratch ranges, by home and end, that its operation in progress has checked (R245). -/
structure Thread where
  pc : Nat
  preds : Nat
  rptAct : Bool
  rptRep : Nat
  rptInst : Nat
  swpAct : Bool
  swpIter : Nat
  cdep : Nat
  rndc : Nat
  fst : Nat
  fmode : Nat
  lapf : Bool
  inh : Bool
  wdh : Bool
  tcode : Nat
  tpc : Nat
  tval : Nat
  tmask : Nat
  tvec : Nat
  lin : Nat
  par : Nat
  gen : Nat
  bt : List Nat
  age : Nat
  bars : List Nat
  group : Option Nat
  wait : Option Wait
  held : Option Nat
  clause : Option Clause
  res : Resume
  fbuf : AMap (Nat × Bool)
  opbuf : AMap TWord
  cont : Cont
  loads : List PLoad
  copyFaults : List (Nat × Cause × Nat)
  ranges : List (Home × Nat)
  slFail : Option (Cause × Nat)
  wkCnt : Option (Nat × Nat)
  passBrk : Bool
  pendLapf : Bool
  pendFst : Nat
  pendMis : Bool
deriving DecidableEq, Repr

/-- What a gang collective leaves with a lane when it completes (R172 to R175): the operation, its destination and LXCH's lane operand. -/
inductive CollOp where
  | lxch (mode : LxMode) (kp : Bool) (d k : Nat)
  | pagr (kind : PagrKind) (d : Nat)
  | redg (op : RedOp) (d : Nat)
  | scang (op : RedOp) (excl : Bool) (d : Nat)
deriving DecidableEq, Repr

/-- A gang collective's arrival (R170). -/
structure CollArr where
  lane : Nat
  pc : Nat
  rep : Nat
  abst : Bool
  a : TWord
  op : CollOp
deriving DecidableEq, Repr

/-- The kind of access a side-log entry holds (R372). -/
inductive SlOp where
  | store (cls : AccClass) (rel : Bool) (sc : Nat)
  | red (op : AtomOp) (sc : Nat) (rel : Bool)
  | cbset
deriving DecidableEq, Repr

/-- One lane's access in a side-log entry: virtual address, bytes (little-endian), reference-tag bits of its words. -/
structure SlAcc where
  lane : Nat
  lin : Nat
  va : Nat
  n : Nat
  data : Nat
  tags : Nat
deriving DecidableEq, Repr

/-- A side-log entry (R372). `mark` names the issue of the instruction that made it, so that accesses of one issue group
share it; `seq` is the fault record it waits on (R369), `fail` the cause of a failed one and the address it names; `asked` says that
its requests to a peer have been sent, `brk` that its accesses are past their data breakpoints (R409). -/
structure SlEntry where
  id : Nat
  line : Nat
  op : SlOp
  accs : List SlAcc
  mark : Nat
  seq : Option Nat
  fail : Option (Cause × Option Nat)
  asked : Bool
  brk : Bool
deriving DecidableEq, Repr

/-- A gang (R153, R151, R372, R144, R326). -/
structure Gang where
  kern : Nat
  ctx : Nat
  gidx : Nat
  access : Bool
  nregs : Nat
  regs : Alloc
  scratch : Alloc
  stack : Alloc
  handles : AMap Nat
  slog : List SlEntry
  slNext : Nat
  grp : List (Option Nat)
  coll : List CollArr
deriving DecidableEq, Repr

/-- A group barrier (R306). -/
structure Barrier where
  phase : Nat
  arrived : List Nat
deriving DecidableEq, Repr

/-- A resolved tile operand (R319, R330): window and offset, or a 32-byte descriptor. -/
inductive TSrc where
  | scratch (h : Home) (off addr : Nat)
  | desc (d : Nat)
deriving DecidableEq, Repr

/-- The snapshot of a convergence register (R319): narrow or not, the mod bit, the slot, the source bits, the operands; and
the group slot of its signer, which is not compared. -/
structure Snap where
  q : Bool
  m : Bool
  acc : Nat
  src : Nat
  a : TSrc
  b : TSrc
  gs : Nat
deriving DecidableEq, Repr

/-- A convergence register (R318): signers with their abstention. -/
structure CvReg where
  phase : Bool
  signers : List (Nat × Bool)
  snap : Option Snap
deriving DecidableEq, Repr

/-- A base scale source of TSCALE (R342). -/
inductive TBase where
  | word (w : Nat)
  | stab (d : Nat)
deriving DecidableEq, Repr

/-- An operation issued to a slot (R331); `t` names the thread that issued it. -/
inductive TileOp where
  | mma (s : Snap) (cv : Nat) (signer : Nat)
  | clear (t : Nat)
  | load (d t : Nat)
  | scale (a b : TBase) (t : Nat)
  | conv (t : Nat) (h : Home) (hi : Nat)
  | store (t : Nat) (d : Nat)
deriving DecidableEq, Repr

/-- The tag of an accumulator slot (R324). -/
inductive TileTag where | empty | f32acc | racc
deriving DecidableEq, Repr

/-- What the operation at the head of a slot waits for: a fault record, or entries of the side log of a gang (R375), and the address it
reads. -/
inductive TileHold where
  | record (seq va : Nat)
  | log (gid : Nat) (ids : List Nat) (va : Nat)
deriving DecidableEq, Repr

/-- The control state of an accumulator slot (R324): bases are 32-bit patterns, none when invalid. -/
structure TileSlot where
  tag : TileTag
  bound : Nat
  fovf : Bool
  qsat : Bool
  lapse : Bool
  baseA : Option Nat
  baseB : Option Nat
  fault : Option (Cause × Nat)
  ops : List (Nat × TileOp)
  next : Nat
  held : Option TileHold
deriving DecidableEq, Repr

/-- A group instance (R145, R318, R324): members are gang indices, ascending. -/
structure GInst where
  kern : Nat
  ctx : Nat
  entry : Nat
  num : Nat
  span : Bool
  core : Nat
  ctl : Nat
  members : List Nat
  nbar : Nat
  ncv : Nat
  bars : AMap Barrier
  cvs : AMap CvReg
  window : Option Alloc
  tile : Option Alloc
  tileBytes : Nat
  slots : AMap TileSlot
deriving DecidableEq, Repr

/-- A column-cache line (R254, R291, R292): byte-valid and byte-dirty masks, data, tag bits, granule states and line
owner as filled, published bit and epoch, the context that last wrote it, poisoned sectors, sectors with a correctable error. -/
structure CLine where
  valid : Nat
  dirty : Nat
  data : Nat
  tags : Nat
  gran : Nat
  owner : Nat
  pub : Bool
  epoch : Nat
  ctx : Nat
  poison : Nat
  soft : Nat
deriving DecidableEq, Repr

/-- An issue group (R156): members, those that have not yet issued the current instruction, and the first lane of each gang that has met
a MEMERR in it, with whether it took the trap (R92). -/
structure Group where
  kern : Nat
  no : Nat
  members : List Nat
  todo : List Nat
  hit : List (Nat × Bool)
deriving DecidableEq, Repr

/-- An operation over an object's range that the walker performs for a thread (R299): OBJINIT of a length over pages (address, physical
address, bytes, PTE), or RECLAIM of the object whose header is at a physical address, over physical ranges. -/
inductive RangeJob where
  | init (len : Nat) (pages : List (Nat × Nat × Nat × Nat))
  | reclaim (sc pa : Nat) (rs : List (Nat × Nat))
deriving DecidableEq, Repr

/-- A Brass walk in progress (R293), or a range operation; `stack` top first. `claim` is an object being cleaned, with its body's
physical ranges; `blk` the core and the serial of the walk it waits for. -/
structure Walk where
  id : Nat
  t : Nat
  ctx : Nat
  root : Nat
  scope : Nat
  serial : Nat
  pass : Nat
  count : Nat
  disc : Bool
  stack : List (Nat × Nat)
  fresh : Bool
  log : Bool
  held : Option (Nat × Nat)
  fail : Option (Cause × Nat)
  blk : Option (Nat × Nat)
  claim : Option (Nat × List (Nat × Nat))
  job : Option RangeJob
deriving DecidableEq, Repr

/-- A copy in flight: a CPA copy (`bt`) or a CPB piece (`bar`) (R279, R282). -/
structure Landing where
  t : Nat
  lin : Nat
  ctx : Nat
  bt : Option Nat
  home : Home
  off : Nat
  len : Nat
  vb : Nat
  dst : Nat
  src : Nat
  pa : Nat
  cls : AccClass
  got : Option (Nat × Bool)
  rem : Option Nat
  no : Nat
  bar : Option (Home × Nat × Nat)
deriving DecidableEq, Repr

/-- Which allocation of a context a cell page belongs to: registers, own window or stack of gang slot `gid`, or window or tile rows
of an instance. -/
inductive PageOf where
  | regs (gid : Nat)
  | scratch (gid : Nat)
  | stack (gid : Nat)
  | window (iid : Nat)
  | tile (iid : Nat)
deriving DecidableEq, Repr

/-- A cell page saved to a backing slot of its context (R79, R87): the allocation, and the page's number in it. -/
structure SavedPage where
  ctx : Nat
  slot : Nat
  kern : Nat
  home : PageOf
  page : Nat
deriving DecidableEq, Repr

/-- A core (R15). `scale` is the scale cache (R329), `saved` the cell pages that have been saved to their context's backing
area (R87), `tagwr` the tag bits that TAGWR has written and that its copies take at the next acquire (R284). -/
structure Core where
  groups : AMap Group
  cache : AMap CLine
  ec : Nat
  serial : Nat
  walkq : List Walk
  landings : List Landing
  scale : AMap Nat
  saved : List SavedPage
  tagwr : AMap Nat
  genIssues : Nat
  accIssues : Nat
deriving DecidableEq, Repr

/-- Context states (Table 4.4). -/
inductive CtxState where | dead | defined | ready | resident | descheduled | halted | faulted
deriving DecidableEq, Repr

/-- An outstanding fault record (R369). -/
structure FaultRec where
  seq : Nat
  va : Nat
  kind : Nat
deriving DecidableEq, Repr

/-- A context (Table 4.1, R82 to R88, Table 17.5, Table 19.4). -/
structure Ctx where
  st : CtxState
  budget : Nat
  wdwin : Nat
  tvec : Nat
  bkpages : Nat
  bkbase : Nat
  asroot : Nat
  slice : Nat
  weight : Nat
  sclass : Nat
  opceil : Nat
  homemask : Nat
  diemask : Nat
  fstop : Bool
  dbg : Bool
  lenient : Bool
  escm : Bool
  ticks : Nat
  phase : Nat
  sliceCnt : Nat
  placeSince : Option Nat
  pend : Option CtxState
  peers : Nat
  fenced : Nat
  refused : Nat
  dropped : Nat
  frd : Nat
  fwr : Nat
  fbase : Nat
  flg : Nat
  fen : Bool
  faults : List FaultRec
  brks : AMap Nat
  brkNow : AMap Nat
deriving DecidableEq, Repr

/-- Queue states (Table 5.3). -/
inductive QState where | disabled | idle | busy | held
deriving DecidableEq, Repr

/-- What a started packet waits for before it completes (R103 to R107). -/
inductive PktWait where
  | kern (k : Nat)
  | wait (addr value cond ascope : Nat)
  | inval (n : Nat)
  | rem (id : Nat)
deriving DecidableEq, Repr

/-- A queue (Table 5.1, R98 to R113). -/
structure Queue where
  st : QState
  wridx : Nat
  rdidx : Nat
  ctx : Nat
  lg : Nat
  home : Nat
  priv : Bool
  mode : Nat
  bind : Bool
  port : Nat
  key : Nat
  rbase : Nat
  pend : List (Nat × PktWait)
  depmap : Option (Nat × Nat)
deriving DecidableEq, Repr

/-- A role entry (Table 6.2). -/
structure Role where
  access : Bool
  count : Nat
  first : Nat
deriving DecidableEq, Repr

/-- An allocation declaration (Table 6.3). -/
structure ADecl where
  kind : Nat
  cls : LifeClass
  life : Nat
  per : Bool
  bytes : Nat
deriving DecidableEq, Repr

/-- A kernel descriptor (Table 6.1). -/
structure Desc where
  code : Nat
  clen : Nat
  entry : Nat
  pblk : Nat
  plen : Nat
  regs : Nat
  tpg : Nat
  gangs : Nat
  block : Nat
  diemask : Nat
  pack : Bool
  persist : Bool
  wdwin : Nat
  budget : Nat
  ncd : Nat
  cdtab : Nat
  gtab : Nat
  ngrp : Nat
  pmax : Nat
  pfirst : Nat
  pcount : Nat
  pseed : Nat
  roles : List Role
  allocs : List ADecl
deriving DecidableEq, Repr

/-- A group-table entry (Tables 7.1, 7.2): ranges are (base, count, stride). -/
structure GEntry where
  ranges : List (Nat × Nat × Nat)
  span : Bool
  rep : Bool
  sdecl : Nat
  tdecl : Nat
  ncv : Nat
  nbar : Nat
  ctl : Nat
deriving DecidableEq, Repr

/-- A conduit-table entry (Table 5.7). -/
structure CEntry where
  slots : Nat
  sstride : Nat
  sbase : Nat
deriving DecidableEq, Repr

/-- Kernel states (Table 6.4). -/
inductive KState where | queued | admitting | running | draining | complete | failed
deriving DecidableEq, Repr

/-- A tile-granular dependence (R106, R135). -/
structure Dep where
  bmap : Nat
  a : Nat
  b : Int
  c : Nat
  nprod : Nat
  seen : List Nat
deriving DecidableEq, Repr

/-- An arrival at RESAMPLE (R352): the weight is an FP32 pattern. -/
structure PopArr where
  t : Nat
  pc : Nat
  rep : Nat
  abst : Bool
  w : Nat
  d : Nat
deriving DecidableEq, Repr

/-- Population states (Table 16.2). -/
inductive PopState where | active | collecting | sealed | ended
deriving DecidableEq, Repr

/-- A population (R346 to R360): the record is (N, U, `.opnd`). -/
structure Pop where
  st : PopState
  gen : Nat
  next : Nat
  arrs : List PopArr
  record : Option (Nat × Nat × Bool)
  lastN : Nat
  lastReq : Nat
  lastSan : Nat
  lastFlags : Nat
deriving DecidableEq, Repr

/-- A kernel (R131 to R140, R404). `place` maps an admitted gang index to its gang number. -/
structure Kernel where
  desc : Desc
  groups : List GEntry
  cds : List CEntry
  ctx : Nat
  q : Nat
  pidx : Nat
  prio : Nat
  hint : Option Nat
  rscope : Nat
  cpl : Nat
  done : Nat
  st : KState
  dep : Option Dep
  place : AMap Nat
  order : Nat
  admTick : Option Nat
  prog : Nat
  stage2 : Bool
  due : Option Nat
  failAt : Nat
  budFired : Bool
  lost : Bool
  ophold : Bool
  pop : Option Pop
deriving DecidableEq, Repr

/-- A conduit record (R115); `bad` is the address of its first poisoned byte (R122). -/
structure CdRec where
  ws : List TWord
  bad : Option Nat
deriving DecidableEq, Repr

/-- The refill of a conduit (R116, R121): it may go on, waits on a fault record, has failed with a cause that no receiver has
raised yet, or rests until the next CDRECV. -/
inductive CdFill where
  | ready
  | held (seq va : Nat)
  | failed (c : Cause) (va : Nat)
  | rest
deriving DecidableEq, Repr

/-- A conduit instance (R115 to R121, Table 5.8). `senders` and `recvs` wait in order; a sender brings its record, or none for
a close. `hold` is the fault of the first sender's spill write, `save` that of a save, and `noSave` says that a save has failed (R121). -/
structure Conduit where
  core : Nat
  kern : Nat
  n : Nat
  buf : List CdRec
  accepted : Nat
  spills : Nat
  refills : Nat
  peak : Nat
  left : Nat
  head : Nat
  tail : Nat
  closed : Bool
  released : Bool
  senders : List (Nat × Option CdRec)
  recvs : List Nat
  hold : Option (Nat × Nat)
  fill : CdFill
  saved : Bool
  save : Option (Nat × Nat)
  noSave : Bool
deriving DecidableEq, Repr

/-- Die states (Table 18.10). -/
inductive DieState where | up | quiescing | flushing | resetting | testing | retraining
deriving DecidableEq, Repr

/-- A cached translation (R365, R366): the context, the base and size of the page, and the PTE. -/
structure TlbEntry where
  ctx : Nat
  va : Nat
  size : Nat
  pte : Nat
  ent : Nat
deriving DecidableEq, Repr

/-- A die: DSTAT, BSTAT, ECNT, TRCTL (Tables 18.10, 11.6, 19.2, 19.5), heartbeat and temperature (R240, R425), via
repair (R243), self-refresh (R398), the packet processor's turn (R110), translation cache (R365), core cycles (R152), the cycle of
the last trace latch (R413), the modules removed from its bridges (R396). -/
structure Die where
  st : DieState
  errs : Nat
  fsent : Nat
  period : Nat
  hot : Bool
  fsafe : Bool
  ecnt : List Nat
  tdrops : Nat
  trd : Nat
  twr : Nat
  tbase : Nat
  tk : Nat
  tlg : Nat
  ten : Bool
  lastHb : Nat
  temp : Temp
  viaMap : Bool
  selfRef : Bool
  lastQ : Nat
  tlb : List TlbEntry
  cyc : Nat
  sub : Nat
  lastTrace : Option Nat
  brErr : Nat
deriving DecidableEq, Repr

/-- Port states (Table 18.8). -/
inductive PortState where | disabled | training | up | retraining | down
deriving DecidableEq, Repr

/-- A DaxLink port (Table 18.7, R383, R384): flits to send again, flits not acknowledged, link sequence numbers, a NAK outstanding,
replays of one flit, the cycle its state began, the cycles for which no acknowledgement has advanced while flits are outstanding,
credits, flits sent while a management flit waits and whose turn it is, and link-control payloads to send. -/
structure Port where
  st : PortState
  en : Bool
  pmd : Nat
  far : Nat
  nokey : Nat
  replays : Nat
  txq : List Flit
  unack : List Flit
  nextL : Nat
  expL : Nat
  nakd : Bool
  repl : AMap Nat
  since : Nat
  quiet : Nat
  cred : List Nat
  sent : Nat
  turn : Bool
  ctl : List Nat
deriving DecidableEq, Repr

/-- A remote request in flight (R270, R386): write requests are acknowledged end to end. A fetch keeps its code offset in `issue`; an
atomic keeps in `issue` and `word` what further lanes may join by; `slog` marks a RED that a side log replays (R373), `tagged` a page of
this device's tables that has tag bits (R283). -/
structure RemOp where
  dev : Nat
  t : Nat
  kern : Nat
  ctx : Nat
  posted : Bool
  eseq : Nat
  va : Nat
  fetch : Bool
  slog : Bool
  tagged : Bool
  issue : Nat
  word : Nat
  more : List Nat
deriving DecidableEq, Repr

/-- A shoot-down in progress (R376): the dies of D, the peers that have not answered with the end-to-end number of their request,
and the packet that started it: queue, completion record. -/
structure Inval where
  ctx : Nat
  va : Nat
  len : Nat
  dies : Nat
  peers : AMap Nat
  start : Nat
  q : Nat
  cpl : Nat
deriving DecidableEq, Repr

/-- An SPDM response the device has sent (R419). -/
structure SpdmMsg where
  tr : Transport
  kind : Nat
  body : List Nat
deriving DecidableEq, Repr

/-- A completion the host port has sent (R393, R394): none is Completer Abort. -/
structure HostMsg where
  data : Option (List Byte)
deriving DecidableEq, Repr

/-- Which agent moves next: a device step, an issue slot, the passing of reference cycles, or the host reading or writing `n` bytes of a
function's register block, or of its doorbells (the model's own). -/
inductive Agenda where
  | event (i : Instr)
  | issue (core slot : Nat)
  | elapse (n : Nat)
  | hostReg (fn : Nat) (bar2 : Bool) (off n : Nat) (w : Option Nat)
deriving DecidableEq, Repr

/-- The thread whose instruction is being issued, and the issue slot (the model's own). -/
structure Cur where
  core : Nat
  slot : Nat
  t : Nat
deriving DecidableEq, Repr

/-- A gang of a descheduled context whose gang slot another context has claimed (R87): it returns to the same slot. -/
structure Parked where
  gid : Nat
  gang : Gang
  threads : AMap Thread
deriving DecidableEq, Repr

/-- The whole package. `opLow` says that the management cores are lowering the power point (R424); `hbmFail` names the stacks that failed
under step 4's alternative (R422); `funcs` are the devices of the host group by function, each with the GiB of its BAR4 (R393), and `hostPend`
the register reads that the bridge has sent on, by tag: the device and the size. `ppGot` holds the 32-byte sectors of peers that a packet processor has been given: none for one it could not read. -/
structure State where
  agenda : List Agenda
  cur : Option Cur
  free : Nat
  off : Bool
  down : Bool
  recovery : Bool
  boot : Nat
  brFail : Nat
  brLast : Nat
  brBoots : Nat
  image : Image
  nextImage : Option Image
  refCycle : Nat
  cxstsCtx : Nat
  cxstsRes : Nat
  cmds : List Instr
  qctlRes : Nat
  drstRes : Nat
  dbgsel : Nat
  dbgdat : Nat
  lmbase : Nat
  badacc : Nat
  devnum : Nat
  bridge : Bool
  hostfn : Nat
  pcieOff : Bool
  hostAtomics : Bool
  ctxBase : Nat
  qBase : Nat
  dbBase : Nat
  hbm : List Nat
  hbmFail : Nat
  funcs : List (Nat × Nat)
  opReq : Nat
  opPower : Nat
  opUse : Nat
  opNext : Option Nat
  opLow : Bool
  hist : List Nat
  lastPow : Nat
  epoch : Nat
  mem : List Host.Cell
  tagBits : List Nat
  gran : AMap Nat
  lineOwner : AMap Nat
  codeOld : AMap (Nat × Bool × Nat)
  poison : List Nat
  poisonL2 : List Nat
  softErrs : List Nat
  softL2 : List Nat
  threads : AMap Thread
  gangs : AMap Gang
  insts : AMap GInst
  instNext : Nat
  cores : AMap Core
  ctxs : AMap Ctx
  queues : AMap Queue
  kernels : AMap Kernel
  kernNext : Nat
  conduits : AMap Conduit
  cdNext : Nat
  walkNext : Nat
  issueNo : Nat
  dies : AMap Die
  bridges : List Nat
  ports : AMap Port
  routes : AMap Nat
  waitDev : AMap Nat
  mcwins : AMap Nat
  outq : List Flit
  early : List Flit
  esend : AMap Nat
  erecv : AMap Nat
  eresp : AMap (List Flit)
  remops : AMap RemOp
  remNext : Nat
  ppGot : AMap (Option Nat)
  invals : AMap Inval
  invNext : Nat
  spdm : List SpdmMsg
  hostOut : List HostMsg
  hostPend : AMap (Nat × Nat)
  parked : List Parked
deriving DecidableEq, Repr

/-- A die after a cold reset (Tables 11.6, 18.10, 19.2, 19.5). -/
def Die.init : Die :=
  { st := .up, errs := 0, fsent := 0, period := 250, hot := false, fsafe := false, ecnt := [0, 0, 0, 0, 0, 0, 0, 0],
    tdrops := 0, trd := 0, twr := 0, tbase := 0, tk := 0, tlg := 0, ten := false, lastHb := 0, temp := .normal,
    viaMap := false, selfRef := false, lastQ := 1023, tlb := [], cyc := 0, sub := 0, lastTrace := none, brErr := 0 }

/-- A port after a cold reset (Table 18.7). -/
def Port.init : Port :=
  { st := .disabled, en := false, pmd := 0, far := 0, nokey := 0, replays := 0, txq := [], unack := [], nextL := 0,
    expL := 0, nakd := false, repl := [], since := 0, quiet := 0, cred := [0, 0, 0], sent := 0, turn := false, ctl := [] }

/-- A core that holds nothing. -/
def Core.init : Core :=
  { groups := [], cache := [], ec := 0, serial := 0, walkq := [], landings := [], scale := [], saved := [], tagwr := [], genIssues := 0,
    accIssues := 0 }

/-- A dead context (Tables 4.1, 17.5). -/
def Ctx.init : Ctx :=
  { st := .dead, budget := 0, wdwin := 0, tvec := 0, bkpages := 0, bkbase := 0, asroot := 0, slice := 0, weight := 0,
    sclass := 0, opceil := 0, homemask := 0, diemask := 0, fstop := false, dbg := false, lenient := false,
    escm := false, ticks := 0, phase := 0, sliceCnt := 0, placeSince := none, pend := none, peers := 0, fenced := 0,
    refused := 0, dropped := 0, frd := 0, fwr := 0, fbase := 0, flg := 0, fen := false, faults := [], brks := [], brkNow := [] }

/-- A disabled queue (Table 5.1). -/
def Queue.init : Queue :=
  { st := .disabled, wridx := 0, rdidx := 0, ctx := 0, lg := 0, home := 0, priv := false, mode := 0, bind := false,
    port := 0, key := 0, rbase := 0, pend := [], depmap := none }

/-- The package right after a cold reset, before boot step 1 (R415): the COLD_RESET step performs the boot. Cores,
contexts, queues, ports, routes and windows not listed are in their reset state. -/
def State.reset : State :=
  { agenda := [], cur := none, free := 0, off := false, down := false, recovery := false, boot := 0, brFail := 0, brLast := 0,
    brBoots := 0, image := { magic := 0, version := 0, len := 0, body := [], sig := 0 }, nextImage := none, refCycle := 0,
    cxstsCtx := 0, cxstsRes := 0, cmds := [], qctlRes := 0, drstRes := 0, dbgsel := 0, dbgdat := 0, lmbase := 0, badacc := 0,
    devnum := 0, bridge := true, hostfn := 0, pcieOff := false, hostAtomics := true,
    ctxBase := 0x2000000000, qBase := 0x2000010000, dbBase := 0x2000400000,
    hbm := List.replicate 12 48000000000, hbmFail := 0, funcs := [(0, 1)],
    opReq := 12, opPower := 15, opUse := 12, opNext := none, opLow := false, hist := [], lastPow := 0, epoch := 0, mem := [], tagBits := [], gran := [],
    lineOwner := [], codeOld := [], poison := [], poisonL2 := [], softErrs := [], softL2 := [], threads := [], gangs := [], insts := [], instNext := 0, cores := [],
    ctxs := [], queues := [], kernels := [], kernNext := 0, conduits := [], cdNext := 0, walkNext := 0, issueNo := 0,
    dies := [(0, Die.init), (1, Die.init), (2, Die.init), (3, Die.init)], bridges := [12, 12, 12, 12, 12, 12],
    ports := [], routes := [], waitDev := [], mcwins := [], outq := [], early := [], esend := [], erecv := [], eresp := [], remops := [],
    remNext := 0, ppGot := [], invals := [], invNext := 0, spdm := [], hostOut := [], hostPend := [], parked := [] }

end Sys2Proof.Machine
end

