-- ==== Sys2Proof/Machine/Memory.lean ====
section
/-! DEFINITION. Byte memory in canonical form: strictly rising addresses, no entry equal to what an unlisted address
reads as (log entry 2), and the metadata beside it (13_object R283, R287; 19_health R400). -/

namespace Sys2Proof.Machine

open Sys2Proof

/-- What an address that nothing has written reads as (log entry 2). -/
def Memory.blank : Byte := 0

/-- The byte at an address. -/
def Memory.get : List Host.Cell → Nat → Byte
  | [], _ => Memory.blank
  | (b, v) :: m, a => if b = a then v else Memory.get m a

/-- The memory with byte `v` at address `a`. -/
def Memory.set : List Host.Cell → Nat → Byte → List Host.Cell
  | [], a, v => if v = Memory.blank then [] else [(a, v)]
  | (b, x) :: m, a, v =>
    if a < b then (if v = Memory.blank then (b, x) :: m else (a, v) :: (b, x) :: m)
    else if b = a then (if v = Memory.blank then m else (a, v) :: m)
    else (b, x) :: Memory.set m a v

/-- Every address of the list lies above `lo`, they rise strictly, and no entry is blank. -/
def Memory.wfAbove (lo : Nat) : List Host.Cell → Bool
  | [] => true
  | (a, v) :: m => decide (lo ≤ a) && decide (v ≠ Memory.blank) && Memory.wfAbove (a + 1) m

/-- The canonical form. -/
def Memory.wf (m : List Host.Cell) : Bool := Memory.wfAbove 0 m

/-- The memory with the bytes `vs` from address `a` upward. -/
def Memory.setBytes : List Host.Cell → Nat → List Byte → List Host.Cell
  | m, _, [] => m
  | m, a, v :: vs => Memory.setBytes (Memory.set m a v) (a + 1) vs

/-- The `n` bytes from address `a` upward, as a little-endian number (R1). -/
def Memory.getLE (m : List Host.Cell) : Nat → Nat → Nat
  | 0, _ => 0
  | n + 1, a => (Memory.get m a).toNat + 256 * Memory.getLE m n (a + 1)

/-- Device-side read of `n` bytes of physical memory. -/
def State.phys (s : State) (n pa : Nat) : Nat := Memory.getLE s.mem n pa

/-- ROUTE p (Table 18.4). -/
def State.route (s : State) (p : Nat) : Nat := (s.routes.find p).getD 0

/-- Whether device `p` is lost (R388). -/
def State.lostDev (s : State) (p : Nat) : Bool := bit (s.route p) 32

/-- Send a request flit (R381, R386): it takes the next end-to-end number and waits for its port. -/
def State.sendReq (s : State) (dst ctx ty payload : Nat) : State :=
  let e := (s.esend.find dst).getD 0
  { s with esend := s.esend.put dst ((e + 1) % 65536),
           outq := s.outq ++ [{ eseq := e, dst := dst, src := s.devnum, ctx := ctx, ty := ty, vl := 0, lseq := 0, lack := 0,
                                payload := payload }] }

/-- The device numbers in a 64-bit mask, ascending. -/
def maskList (m : Nat) : List Nat := (List.range 64).filter (bit m)

/-- The pieces of a range that lie in one line each: (address, length), in order. -/
def lineChunks : Nat → Nat → Nat → List (Nat × Nat)
  | 0, _, _ => []
  | f + 1, pa, n =>
    if n == 0 then []
    else
      let k := min n (128 - pa % 128)
      (pa, k) :: lineChunks f (pa + k) (n - k)

/-- `n` one bits. -/
def ones (n : Nat) : Nat := 2 ^ n - 1

/-- The payload of a write to the line at `la` under a byte mask (Table 18.3). -/
def writePayload (la mask tags data tag win : Nat) : Nat :=
  la + 2 ^ 64 * mask + 2 ^ 192 * tags + 2 ^ 320 * (data % 2 ^ 1024) + 2 ^ 1344 * tag + 2 ^ 1360 * win

/-- The fields of an enabled multicast window (Table 18.5): base and length in bytes. -/
def mcBase (w : Nat) : Nat := bits w 51 21 * 2 ^ 21
def mcLen (w : Nat) : Nat := (bits w 8 0 + 1) * 2 ^ 21

/-- Send one line's write to the members of a window (R390); one that is lost or fenced is dropped and counted. -/
def State.mcSend (s : State) (c la mask data win : Nat) : List Nat → State
  | [] => s
  | p :: ps =>
    if p == s.devnum then s.mcSend c la mask data win ps
    else
      let x := (s.ctxs.find c).getD Ctx.init
      if s.lostDev p || bit x.fenced p then
        { s with ctxs := s.ctxs.put c { x with refused := satAdd x.refused 1 32 } }.mcSend c la mask data win ps
      else (s.sendReq p c 6 (writePayload la mask 0 data 0 win)).mcSend c la mask data win ps

/-- Forward a write to the line at `la` to the windows that hold it (R390). -/
def State.multicast (s : State) (c la mask data : Nat) : AMap Nat → State
  | [] => s
  | (i, w) :: ws =>
    let s := if bit w 63 && decide (mcBase w ≤ la) && decide (la < mcBase w + mcLen w) then
        s.mcSend c la mask data i (maskList (bits w 127 64))
      else s
    s.multicast c la mask data ws

/-- The same for a range of bytes, line by line. -/
def State.multicastRange (s : State) (c pa v : Nat) : List (Nat × Nat) → State
  | [] => s
  | (a, k) :: qs =>
    let o := a % 128
    (s.multicast c (a - o) (ones k * 2 ^ o) (v / 2 ^ (8 * (a - pa)) % 2 ^ (8 * k) * 2 ^ (8 * o)) s.mcwins).multicastRange c pa v qs

/-- The words (8 bytes each) from word number `w` on, and their marks, as they stand before a write, with the number of the next
kernel: a kernel that is queued by then may still fetch them (R26). One noted since the last kernel keeps what it was then. -/
def State.oldWords (s : State) (w : Nat) : Nat → AMap (Nat × Bool × Nat)
  | 0 => s.codeOld
  | k + 1 =>
    let m := s.oldWords w k
    match m.find (w + k) with
    | some x => if x.2.2 == s.kernNext then m else m.put (w + k) (s.phys 8 (8 * (w + k)), setHas (w + k) s.tagBits, s.kernNext)
    | none => m.put (w + k) (s.phys 8 (8 * (w + k)), setHas (w + k) s.tagBits, s.kernNext)

/-- What is kept of the words that hold the `n` bytes at `pa` before a write that makes the memory `m`; nothing where nothing changes
or no kernel could fetch them. -/
def State.noteCode (s : State) (n pa : Nat) (m : List Host.Cell) : AMap (Nat × Bool × Nat) :=
  if s.kernels == [] || m == s.mem then s.codeOld else s.oldWords (pa / 8) ((pa % 8 + n + 7) / 8)

/-- What is kept of word `w` before its mark becomes `b`. -/
def State.noteMark (s : State) (w : Nat) (b : Bool) : AMap (Nat × Bool × Nat) :=
  if s.kernels == [] || setHas w s.tagBits == b then s.codeOld else s.oldWords w 1

/-- Local memory replaced at the `n` bytes at `pa`, old words noted. -/
def State.withBytes (s : State) (n pa v : Nat) : State :=
  { s with mem := Memory.setBytes s.mem pa (leBytes n v), codeOld := s.noteCode n pa (Memory.setBytes s.mem pa (leBytes n v)) }

/-- A write at the home L2 of the low `n` bytes of `v` at `pa`, on behalf of context `c`; tag bits are left alone. -/
def State.physSet (s : State) (c n pa v : Nat) : State :=
  let s := s.withBytes n pa v
  if s.mcwins == [] then s else s.multicastRange c pa v (lineChunks (n / 128 + 2) pa n)

/-- The tag bit of the aligned 8-byte word that holds `pa` (R283). -/
def State.tagAt (s : State) (pa : Nat) : Bool := setHas (pa / 8) s.tagBits

/-- Set or clear that tag bit. -/
def State.setTagAt (s : State) (pa : Nat) (b : Bool) : State :=
  { s with tagBits := setPut (pa / 8) b s.tagBits, codeOld := s.noteMark (pa / 8) b }

/-- Clear the tag bits of the words that hold the `n` bytes at `pa` (R284). -/
def State.clearTags (s : State) : Nat → Nat → State
  | 0, _ => s
  | n + 1, pa => (s.setTagAt (pa + n) false).clearTags n pa

/-- The granule state at `pa` (Table 13.3). -/
def State.granAt (s : State) (pa : Nat) : Nat := (s.gran.find (pa / 16)).getD 0

def State.setGranAt (s : State) (pa v : Nat) : State :=
  { s with gran := if v == 0 then s.gran.del (pa / 16) else s.gran.put (pa / 16) v }

/-- The line owner at `pa` (R287), device and core as one number; 0 when none was ever set. -/
def State.ownerAt (s : State) (pa : Nat) : Nat := (s.lineOwner.find (pa / 128)).getD 0

/-- Whether the 32-byte sector that holds `pa` is poisoned (R400). -/
def State.poisoned (s : State) (pa : Nat) : Bool := setHas (pa / 32) s.poison

/-- The first poisoned byte among the `n` at `pa`, as an offset. -/
def State.firstPoison (s : State) (pa : Nat) : Nat → Nat → Option Nat
  | 0, _ => none
  | n + 1, i => if s.poisoned (pa + i) then some i else s.firstPoison pa n (i + 1)

/-- The bytes of HBM4E of a stack: none where it failed when it was trained in the alternative way (R422). -/
def State.stackCap (s : State) (k : Nat) : Nat := if bit s.hbmFail k then 0 else s.hbm.getD k 0

/-- The bytes of HBM4E of a die: those of its three stacks (R13). -/
def State.capOf (s : State) (d : Nat) : Nat := s.stackCap (3 * d) + s.stackCap (3 * d + 1) + s.stackCap (3 * d + 2)

/-- The bridge device of the group, which is its function 0 (R393). -/
def State.bridgeDev (s : State) : Nat := (s.funcs.getD 0 (0, 0)).1

/-- Whether the host is reached (R14, R395): the group has a bridge, and its PCIe port is enabled here, or it is not lost. -/
def State.hostUp (s : State) : Bool := s.bridge && (if s.hostfn == 0 then !s.pcieOff else !s.lostDev s.bridgeDev)

/-- What marks the address in a request flit that a device sends to its bridge, for host memory (R395), and in one that the bridge sends
on, for an offset in a function's BAR4 window (R393). DESIGN CHOICE (log entry 114): the spec gives the flit no such mark. -/
def hostMark : Nat := 2 ^ 55
def barMark : Nat := 2 ^ 54

/-- Whether `n` bytes at `pa` are backed by local HBM4E (R363). -/
def State.backed (s : State) (pa n : Nat) : Bool :=
  let d := pa / 2 ^ 38
  decide (d < 4) && decide (pa % 2 ^ 38 + n ≤ s.capOf d)

/-- The die that owns a local physical address (R363). -/
def homeDie (pa : Nat) : Nat := pa / 2 ^ 38

/-- Whether the warm reset of the home die refuses accesses (R399). -/
def State.dieRefuses (s : State) (pa : Nat) : Bool :=
  match s.dies.find (homeDie pa) with
  | some d => d.st != .up
  | none => false

/-- One more access refused by a die (R399). -/
def State.countErr (s : State) (pa : Nat) : State :=
  { s with dies := s.dies.upd (homeDie pa) fun d => { d with errs := satAdd d.errs 1 32 } }

/-- Add to one of the counters of ECNT (Table 19.2), by index from the low end. -/
def State.ecount (s : State) (d i k : Nat) : State :=
  { s with dies := s.dies.upd d fun x => { x with ecnt := x.ecnt.set i (satAdd (x.ecnt.getD i 0) k 16) } }

/-- Set the tag bits of `k` words from word number `w`, bit i of `tags` for the i-th. -/
def State.putTags (s : State) (w tags : Nat) : Nat → State
  | 0 => s
  | k + 1 => (s.setTagAt (8 * (w + k)) (bit tags k)).putTags w tags k

/-- The number of 8-byte words that hold the `n` bytes at `pa`. -/
def wordsOf (pa n : Nat) : Nat := (pa % 8 + n + 7) / 8

/-- An error in an L2 is kept with the die whose copy it is in (R253): `l2Key` numbers the sector there. -/
def l2Key (die sector : Nat) : Nat := 2 ^ 35 * die + sector
def l2Die (k : Nat) : Nat := k / 2 ^ 35
def l2Sector (k : Nat) : Nat := k % 2 ^ 35

/-- Clear the poison of the sectors that a write of `n` bytes at `pa` overwrites whole (R400). -/
def State.curePoison (s : State) (pa n : Nat) : State :=
  let part (q : Nat) : Bool := !(decide (pa ≤ 32 * q) && decide (32 * q + 32 ≤ pa + n))
  if n < 32 then s else { s with poison := s.poison.filter part, poisonL2 := s.poisonL2.filter fun k => part (l2Sector k) }

/-- A store at the home L2 (R253, R284, R400): bytes, the tag bits of the words it touches when the page is tagged, and
the poison of sectors it overwrites whole. -/
def State.homeWrite (s : State) (c pa n v tags : Nat) (tagged : Bool) : State :=
  let s := (s.physSet c n pa v).curePoison pa n
  if tagged then s.putTags (pa / 8) tags (wordsOf pa n) else s

/-- The tag bits of the words that hold `n` bytes at `pa`, bit i for the i-th. -/
def State.homeTags (s : State) (pa : Nat) : Nat → Nat
  | 0 => 0
  | k + 1 => 2 ^ k * b2n (setHas (pa / 8 + k) s.tagBits) + s.homeTags pa k

/-- The errors of L2 copies, each counted by the die of its copy in a counter of ECNT. -/
def State.ecountL2 (s : State) (i : Nat) (ks : List Nat) : State := ks.foldl (fun s k => s.ecount (l2Die k) i 1) s

/-- A read counts and repairs the correctable errors of the sectors it reads, and counts uncorrectable ones: HBM4E's in the home die, those
of an L2's copy in that L2's die (R253, R401). -/
def State.noteRead (s : State) (pa n : Nat) : State :=
  let hit (q : Nat) : Bool := decide (pa / 32 ≤ q) && decide (q ≤ (pa + n - 1) / 32)
  let k := (s.softErrs.filter hit).length
  let k2 := s.softL2.filter fun k => hit (l2Sector k)
  let u2 := s.poisonL2.filter fun k => hit (l2Sector k)
  let u := (s.poison.filter fun q => hit q && !u2.any fun k => l2Sector k == q).length
  let d := homeDie pa
  if k + u == 0 && k2 == [] && u2 == [] then s
  else ((({ s with softErrs := s.softErrs.filter (fun q => !hit q), softL2 := s.softL2.filter (fun k => !hit (l2Sector k)) }.ecount d 6 k).ecount d 7 u).ecountL2
    4 k2).ecountL2 5 u2

end Sys2Proof.Machine
end

