-- ==== Sys2Proof/Machine/OpStore.lean ====
section
/-! DEFINITION. The operand store (11_allocation R230 to R236): rows, stamps, lifetime classes, and the byte accesses to
scratch and stack rows. -/

namespace Sys2Proof.Machine

open Sys2Proof

/-- A word that nothing has written (R134). -/
def TWord.zero : TWord := ⟨0, .raw⟩

/-- A row of an allocation; one not listed is as it was created. -/
def Alloc.row (a : Alloc) (n : Nat) : Row :=
  (a.rows.find n).getD { words := [], stamp := a.stamp0, lapsed := 0, expMark := false, badMeta := false, dead := false, met := 0, bad := 0, soft := 0 }

def Alloc.setRow (a : Alloc) (n : Nat) (r : Row) : Alloc := { a with rows := a.rows.put n r }

/-- A word of a row. -/
def Row.word (r : Row) (k : Nat) : TWord := (r.words.find k).getD TWord.zero

/-- Whether a row has expired at a tick (R233), or is treated as expired because its metadata had an uncorrectable error (R242). -/
def Alloc.expired (a : Alloc) (r : Row) (tick : Nat) : Bool :=
  (r.dead && r.expMark) || (a.cls != .refreshed && (r.expMark || r.stamp + a.life + 1 ≤ tick))

/-- Whether an expired row or word reads as zero: that of a lapsing class, but for one treated as trapping (R232, R242). -/
def Alloc.lapses (a : Alloc) (r : Row) : Bool := a.cls == .lapsing && !r.dead

/-- What a read of a row or word meets (R6, R242). -/
inductive RowRead where | ok | zero | expired | memerr
deriving DecidableEq, Repr

/-- The state of a register word for a read (R6, R236, R242). -/
def Alloc.readState (a : Alloc) (r : Row) (k tick : Nat) : RowRead :=
  if r.badMeta then .memerr
  else if a.expired r tick || ((r.dead || a.cls != .refreshed) && bit r.lapsed k) then
    (if a.lapses r then .zero else .expired)
  else if bit r.bad k then .memerr
  else .ok

/-- A row whose bad metadata has been met in instruction issue `no`: it is treated as expired and trapping, whatever its class (R242). -/
def Row.meet (r : Row) (no : Nat) : Row := if r.badMeta then { r with badMeta := false, dead := true, met := no, expMark := true } else r

/-- Whether an access of word `k` in instruction issue `no` meets a row's bad metadata: the first access, and with it every lane of its
instruction whose word has not been rewritten (R242, R402, R403). -/
def Row.struck (r : Row) (no k : Nat) : Bool := r.badMeta || (r.dead && r.met == no && (r.expMark || bit r.lapsed k))

/-- A register write of one word (R236): an expired row's other words are marked lapsed; the word is unmarked; the row
is stamped. An error of the row's metadata that nothing has met stays for the next access (log entry 110). -/
def Alloc.writeWord (a : Alloc) (n k tick : Nat) (w : TWord) : Alloc :=
  let r := a.row n
  let ex := a.expired r tick
  let lap := if ex then 2 ^ 32 - 1 else if r.dead || a.cls != .refreshed then r.lapsed else 0
  a.setRow n { r with words := r.words.put k w, stamp := tick, lapsed := setBit lap k false, expMark := false,
                      dead := r.dead && (r.expMark || !ex) && setBit lap k false != 0, bad := setBit r.bad k false, soft := setBit r.soft k false }

/-- A row written with zeros and tag RAW, and stamped (R246, R247). -/
def Row.fresh (tick : Nat) : Row :=
  { words := [], stamp := tick, lapsed := 0, expMark := false, badMeta := false, dead := false, met := 0, bad := 0, soft := 0 }

/-- Byte `o` (0 to 127) of a row. -/
def Row.byte (r : Row) (o : Nat) : Byte := BitVec.ofNat 8 ((r.word (o / 4)).bits.toNat / 2 ^ (8 * (o % 4)))

/-- The row with byte `o` written; the word takes tag RAW (R273). -/
def Row.setByte (r : Row) (o : Nat) (b : Byte) : Row :=
  let w := (r.word (o / 4)).bits.toNat
  { r with words := r.words.put (o / 4) ⟨BitVec.ofNat 32 (setBits w (8 * (o % 4) + 7) (8 * (o % 4)) b.toNat), .raw⟩ }

/-- Write bytes into a row from offset `o`. -/
def Row.setBytes (r : Row) : Nat → List Byte → Row
  | _, [] => r
  | o, b :: bs => (r.setByte o b).setBytes (o + 1) bs

/-- The place of a scratch byte: row and offset in the row (Table 11.1). -/
def scratchPlace (off : Nat) : Nat × Nat := (off / 128, off % 128)

/-- The place of a stack byte of a lane (Table 11.1). -/
def stackPlace (lane off : Nat) : Nat × Nat := (off / 4, 4 * lane + off % 4)

/-- Byte places of an access, in ascending address. -/
def places (stack : Bool) (lane off n : Nat) : List (Nat × Nat) :=
  (List.range n).map fun i => if stack then stackPlace lane (off + i) else scratchPlace (off + i)

/-- What a byte access meets over its rows (R234): the offset of the first byte in an expired trapping row, or in a row or
word with an uncorrectable error; and whether a lapsing row reads as zeros. -/
structure RowScan where
  expired : Option Nat
  memerr : Option Nat
  lapse : Bool

def scanPlaces (a : Alloc) (tick : Nat) : List (Nat × Nat) → Nat → RowScan
  | [], _ => ⟨none, none, false⟩
  | (n, o) :: ps, i =>
    let rest := scanPlaces a tick ps (i + 1)
    let r := a.row n
    if r.badMeta then { rest with memerr := some i }
    else if a.expired r tick then
      (if a.lapses r then { rest with lapse := true } else { rest with expired := some i })
    else if bit r.bad (o / 4) then { rest with memerr := some i }
    else rest

/-- The rows of places whose bad metadata an access of issue `no` has met (R242). -/
def Alloc.meet (a : Alloc) (no : Nat) : List (Nat × Nat) → Alloc
  | [] => a
  | (n, _) :: ps => (if (a.row n).badMeta then a.setRow n ((a.row n).meet no) else a).meet no ps

/-- The first of some places in a row whose bad metadata an access of issue `no` meets. -/
def Alloc.struckAt (a : Alloc) (no : Nat) (ps : List (Nat × Nat)) : Option Nat := ps.findIdx? fun p => (a.row p.1).struck no (p.2 / 4)

/-- The bytes an access reads; expired lapsing rows read zeros (R232). -/
def readPlaces (a : Alloc) (tick : Nat) (ps : List (Nat × Nat)) : List Byte :=
  ps.map fun p => let r := a.row p.1; if a.expired r tick then 0 else r.byte p.2

/-- A write of bytes at places (R235): a row that all 128 bytes of are written is a full write; every other write is
partial, and one into an expired lapsing row clears the row's other bytes. Expired trapping rows are refused before
this is called, but for full writes. -/
def writePlaces (a : Alloc) (tick : Nat) : List (Nat × Nat) → List Byte → List Nat → Alloc
  | (n, o) :: ps, b :: bs, seen =>
    let r0 := a.row n
    let r := if n ∈ seen then r0 else if a.expired r0 tick || r0.badMeta then Row.fresh tick else r0
    let r1 := r.setByte o b
    let r2 := { r1 with stamp := tick, expMark := false, bad := setBit r1.bad (o / 4) false, soft := setBit r1.soft (o / 4) false }
    writePlaces (a.setRow n r2) tick ps bs (n :: seen)
  | _, _, _ => a

/-! ## Correctable errors (R401) -/

/-- The words that places lie in, as rows with masks of their words. -/
def wordsAt (ps : List (Nat × Nat)) : List (Nat × Nat) := ps.map fun p => (p.1, 2 ^ (p.2 / 4))

/-- Whether some of the words of rows, given by masks, hold a correctable error. -/
def Alloc.softAt (a : Alloc) (ms : List (Nat × Nat)) : Bool := ms.any fun m => Nat.land (a.row m.1).soft m.2 != 0

/-- The allocation with those words corrected. -/
def Alloc.cure (a : Alloc) : List (Nat × Nat) → Alloc
  | [] => a
  | (n, m) :: ms =>
    (if Nat.land (a.row n).soft m == 0 then a else a.setRow n { a.row n with soft := (a.row n).soft - Nat.land (a.row n).soft m }).cure ms

/-- The correctable and the uncorrectable words of an allocation. -/
def Alloc.softCount (a : Alloc) : Nat := a.rows.foldl (fun n e => n + popcount 33 e.2.soft) 0
def Alloc.badCount (a : Alloc) : Nat := a.rows.foldl (fun n e => n + popcount 32 e.2.bad + b2n e.2.badMeta) 0

/-- Whether a scratch write of `n` bytes at `off` is full for row `row` (R235). -/
def fullRow (off n row : Nat) : Bool := decide (off ≤ 128 * row) && decide (128 * row + 128 ≤ off + n)

/-- Cell pages of an allocation of `bytes` (R230). -/
def pagesOf (bytes : Nat) : Nat := (bytes + 4095) / 4096

/-- A new allocation, zero-filled with tag RAW and stamped (R134). -/
def Alloc.new (cls : LifeClass) (life pages tick : Nat) : Alloc := ⟨cls, life, pages, tick, []⟩

end Sys2Proof.Machine
end

