-- ==== Sys2Proof/Machine/Ops.lean ====
section
/-! DEFINITION. The shared operations on threads, gangs, contexts and kernels: names and lookups, register reads and
writes with the checks of R6, taking a trap (R92, R93) and the return from one (R96), ending a clause, waiting, exiting,
and failing a kernel (R139). -/

namespace Sys2Proof.Machine

open Sys2Proof

/-- How an instruction ends when it does not complete. -/
inductive Stop where
  /-- A trap at the instruction (R8). -/
  | trap (c : Cause) (v : Nat)
  /-- An uncorrectable error met by this lane (R402). -/
  | memerr (v : Nat)
  /-- The thread waits; the instruction issues again (R9). -/
  | wait (w : Wait)
  /-- The context halts before the instruction (R95, R409). -/
  | halt
  /-- No thread stands at an instruction to issue: nothing is done (log entry 4). -/
  | noThread
deriving DecidableEq, Repr

/-- An operation on the machine that may end early; the state at the end stands either way. -/
abbrev M (α : Type) := EStateM Stop State α

/-- How a completed instruction goes on (R30, R41). -/
inductive Flow where
  | seq
  | jump (pc : Nat)
  | endClause
  | ret (past : Bool)
  | again
  | gone
deriving DecidableEq, Repr

/-- Table 4.6. -/
def Cause.code : Cause → Nat
  | .illegal => 0x01 | .clause => 0x02 | .regbound => 0x03 | .tag => 0x04 | .expired => 0x05 | .spbound => 0x06
  | .stkbound => 0x07 | .addr => 0x08 | .page => 0x09 | .access => 0x0A | .pubwrite => 0x0B | .foreign => 0x0C
  | .escape => 0x0D | .cvmismatch => 0x0E | .role => 0x0F | .ret => 0x10 | .memerr => 0x11 | .remote => 0x12
  | .watchdog => 0x13 | .population => 0x14 | .barrier => 0x15 | .soft => 0x16 | .brk => 0x17

/-- Table 4.6, read backwards; a code that names no cause is taken as ILLEGAL. -/
def Cause.ofCode : Nat → Cause
  | 0x02 => .clause | 0x03 => .regbound | 0x04 => .tag | 0x05 => .expired | 0x06 => .spbound | 0x07 => .stkbound
  | 0x08 => .addr | 0x09 => .page | 0x0A => .access | 0x0B => .pubwrite | 0x0C => .foreign | 0x0D => .escape
  | 0x0E => .cvmismatch | 0x0F => .role | 0x10 => .ret | 0x11 => .memerr | 0x12 => .remote | 0x13 => .watchdog
  | 0x14 => .population | 0x15 => .barrier | 0x16 => .soft | 0x17 => .brk | _ => .illegal

/-- Threads are numbered core * 16384 + gslot * 32 + lane (Table 1.4). -/
def laneOf (t : Nat) : Nat := t % 32
def gidOf (t : Nat) : Nat := t / 32
def coreOf (t : Nat) : Nat := t / 16384
def gslotOf (t : Nat) : Nat := t / 32 % 512
def dieOfCore (c : Nat) : Nat := c / 96

/-- The core number of a gang number. -/
def coreOfGid (g : Nat) : Nat := g / 512

/-- Context `c`; one not listed is dead. -/
def State.ctx (s : State) (c : Nat) : Ctx := (s.ctxs.find c).getD Ctx.init
/-- Core `c`; one not listed holds nothing. -/
def State.core (s : State) (c : Nat) : Core := (s.cores.find c).getD Core.init
def State.queue (s : State) (q : Nat) : Queue := (s.queues.find q).getD Queue.init
def State.port (s : State) (p : Nat) : Port := (s.ports.find p).getD Port.init
def State.die (s : State) (d : Nat) : Die := (s.dies.find d).getD Die.init

def State.setCtx (s : State) (c : Nat) (x : Ctx) : State := { s with ctxs := s.ctxs.put c x }
def State.setCore (s : State) (c : Nat) (x : Core) : State := { s with cores := s.cores.put c x }
def State.setQueue (s : State) (q : Nat) (x : Queue) : State := { s with queues := s.queues.put q x }
def State.setPort (s : State) (p : Nat) (x : Port) : State := { s with ports := s.ports.put p x }
def State.setDie (s : State) (d : Nat) (x : Die) : State := { s with dies := s.dies.put d x }
def State.updThread (s : State) (t : Nat) (f : Thread → Thread) : State := { s with threads := s.threads.upd t f }
def State.updGang (s : State) (g : Nat) (f : Gang → Gang) : State := { s with gangs := s.gangs.upd g f }
def State.updKernel (s : State) (k : Nat) (f : Kernel → Kernel) : State := { s with kernels := s.kernels.upd k f }
def State.updInst (s : State) (i : Nat) (f : GInst → GInst) : State := { s with insts := s.insts.upd i f }
def State.updCtx (s : State) (c : Nat) (f : Ctx → Ctx) : State := s.setCtx c (f (s.ctx c))
def State.updCore (s : State) (c : Nat) (f : Core → Core) : State := s.setCore c (f (s.core c))

/-- Whether a context's time runs (R18): it is resident and not about to stop. -/
def Ctx.runs (x : Ctx) : Bool := x.st == .resident && x.pend == none

/-- Whether a tick boundary is due at the present reference edge. -/
def Ctx.tickDue (x : Ctx) : Bool := x.runs && decide (100 ≤ x.phase)

/-- The tick count with the boundary that is due at this edge (R19): every reader of a reference cycle reads one value. -/
def Ctx.tickNow (x : Ctx) : Nat := if x.tickDue then (x.ticks + 1) % 2 ^ 64 else x.ticks

/-- The boundary that is due is counted (R19, R89). -/
def Ctx.settleTick (x : Ctx) : Ctx :=
  if x.tickDue then { x with phase := 0, ticks := x.tickNow, sliceCnt := x.sliceCnt + 1 } else x

/-- The tick count of a context (R18, R19). -/
def State.tickOf (s : State) (c : Nat) : Nat := (s.ctx c).tickNow

/-- The context record's place in memory (R77). -/
def State.ctxRec (s : State) (c : Nat) : Nat := s.ctxBase + 128 * c

/-- Set bits of errst (Table 4.1). -/
def State.setErrst (s : State) (c bitNo : Nat) : State :=
  let a := s.ctxRec c + 40
  s.physSet c 4 a (setBit (s.phys 4 a) bitNo true)

/-- One more tag mismatch, saturating (R67). -/
def State.addTagmis (s : State) (c : Nat) : State :=
  let a := s.ctxRec c + 44
  s.physSet c 4 a (satAdd (s.phys 4 a) 1 32)

/-- The number of each context state in the record (Table 4.1). -/
def CtxState.code : CtxState → Nat
  | .dead => 0 | .defined => 1 | .ready => 2 | .resident => 3 | .descheduled => 4 | .halted => 5 | .faulted => 6

/-- Queue states in the record (Table 5.1). -/
def QState.code : QState → Nat | .disabled => 0 | .idle => 1 | .busy => 2 | .held => 3

/-- The queue record's place in memory (R97). -/
def State.qRec (s : State) (q : Nat) : Nat := s.qBase + 64 * q

/-- Write the device fields of a queue record: state, rdidx and wridx (Table 5.1). -/
def State.storeQ (s : State) (q : Nat) : State :=
  let x := s.queue q
  let a := s.qRec q
  ((s.physSet x.ctx 1 a (setBits (s.phys 1 a) 2 0 x.st.code)).physSet x.ctx 4 (a + 16) x.rdidx).physSet x.ctx 4 (a + 20) x.wridx

/-- Whether a queue is held because of its context's state, otherwise busy or idle (Table 5.3). -/
def qStateFor (x : Queue) (st : CtxState) : QState :=
  if x.st == .disabled then .disabled
  else if st == .defined || st == .halted || st == .faulted then .held
  else if x.rdidx == x.wridx && x.pend == [] && x.depmap.isNone then .idle else .busy

/-- Queue `q` in the state Table 5.3 gives it, its record written. -/
def State.settleQ (s : State) (q : Nat) : State :=
  let x := s.queue q
  if x.st == .disabled then s
  else (s.setQueue q { x with st := qStateFor x (s.ctx x.ctx).st }).storeQ q

/-- Every queue of a context. -/
def State.settleQueues (s : State) (c : Nat) : State :=
  s.queues.foldl (fun s e => if e.2.ctx == c then s.settleQ e.1 else s) s

/-- The command in progress is done (Table 4.3): the commands written meanwhile are applied next, in the order written (R81). -/
def State.commandDone (s : State) : State := { s with cxstsRes := 0, cmds := [], agenda := s.cmds.map Agenda.event ++ s.agenda }

/-- A context enters a state; a tick that is due is counted first (R89); the record's state and, where Table 4.1 says so, its ticks
are written (R77, R82), it waits for no residency place any more (R85), and a command that was in progress is done. -/
def State.enterCtx (s : State) (c : Nat) (st : CtxState) : State :=
  let x := (s.ctx c).settleTick
  let a := s.ctxRec c
  let s := s.setCtx c { x with st := st, pend := none, placeSince := none }
  let s := if s.cxstsCtx == c && s.cxstsRes == 15 then s.commandDone else s
  let s := s.physSet c 1 a (setBits (s.phys 1 a) 2 0 st.code)
  let s := if st == .descheduled || st == .halted || st == .faulted || st == .dead then s.physSet c 8 (a + 48) x.ticks else s
  s.settleQueues c

/-- Whether a packet waits as a WAIT. -/
def PktWait.isWait : PktWait → Bool | .wait .. => true | _ => false

/-- An update of a signal word wakes the WAIT packets (R105): each makes its comparison again before anything else moves. -/
def State.notifyWaits (s : State) : State :=
  { s with agenda := (s.queues.filter fun e => e.2.pend.any fun p => p.2.isWait).map (fun e => Agenda.event (.waitRecheck e.1)) ++ s.agenda }

/-- An update of a completion bitmap notifies the schedulers of the kernels that depend on one (R136, R137): each reads its bits again
before anything else moves. -/
def State.notifyMaps (s : State) : State :=
  { s with agenda := (s.kernels.filter fun e => e.2.dep.isSome && e.2.st == .admitting).map (fun e => Agenda.event (.depmapRecheck e.1)) ++ s.agenda }

/-! ## The current thread -/

/-- The thread that issues. -/
def curT : M Nat := do
  match (← get).cur with
  | some c => pure c.t
  | none => throw .noThread

def getThread (t : Nat) : M Thread := do
  match (← get).threads.find t with
  | some th => pure th
  | none => throw .noThread

def getGang (g : Nat) : M Gang := do
  match (← get).gangs.find g with
  | some x => pure x
  | none => throw .noThread

def getKernel (k : Nat) : M Kernel := do
  match (← get).kernels.find k with
  | some x => pure x
  | none => throw .noThread

def thread : M Thread := do getThread (← curT)
def gang : M Gang := do getGang (gidOf (← curT))
def modThread (f : Thread → Thread) : M Unit := do
  let t ← curT
  modify fun s => s.updThread t f

/-- Raise a trap (R8). -/
def trap {α : Type} (c : Cause) (v : Nat) : M α := throw (.trap c v)

/-- ILLEGAL with `tval` the instruction address (Table 4.6). -/
def illegal {α : Type} : M α := do trap .illegal (← thread).pc

/-- `Wait(cond)` when the condition does not hold yet. -/
def waitFor {α : Type} (w : Wait) : M α := throw (.wait w)

/-- Add float flags to those the instruction will set (R69). -/
def addFlags (f : Nat) : M Unit := modThread fun th => { th with pendFst := orf th.pendFst f }

/-- The lapse flag is set when the instruction completes (R6). -/
def setLapf : M Unit := modThread fun th => { th with pendLapf := true }

/-- The tick of the current thread's context. -/
def now : M Nat := do
  let g ← gang
  pure ((← get).tickOf g.ctx)

/-- The current thread's context. -/
def curCtx : M Ctx := do
  let g ← gang
  pure ((← get).ctx g.ctx)

/-! ## Registers (R6, R33, R64 to R67, R236) -/

/-- The tag sets of Table 3.4. -/
inductive TagSet where
  | int | lo64 | hi64 | loAddr | hiAddr | f32 | bf2 | h2 | q8 | q4 | scl | hnd | refLo | refHi | any
deriving DecidableEq, Repr

/-- Whether a tag set holds a tag (Table 3.4). -/
def TagSet.has : TagSet → Tag → Bool
  | .int, t => t == .raw || t == .u32 || t == .s32 || t == .w64l || t == .w64h
  | .lo64, t => t == .raw || t == .u32 || t == .s32 || t == .w64l
  | .hi64, t => t == .raw || t == .u32 || t == .s32 || t == .w64h
  | .loAddr, t => t == .raw || t == .u32 || t == .s32 || t == .w64l || t == .refl
  | .hiAddr, t => t == .raw || t == .u32 || t == .s32 || t == .w64h || t == .refh
  | .f32, t => t == .f32
  | .bf2, t => t == .bf2
  | .h2, t => t == .h2
  | .q8, t => t == .q8
  | .q4, t => t == .q4
  | .scl, t => t == .scl
  | .hnd, t => t == .hnd
  | .refLo, t => t == .refl
  | .refHi, t => t == .refh
  | .any, _ => true

/-- The number of a tag set, for the operand buffer. -/
def TagSet.code : TagSet → Nat
  | .int => 0 | .lo64 => 1 | .hi64 => 2 | .loAddr => 3 | .hiAddr => 4 | .f32 => 5 | .bf2 => 6 | .h2 => 7 | .q8 => 8 | .q4 => 9
  | .scl => 10 | .hnd => 11 | .refLo => 12 | .refHi => 13 | .any => 14

/-- What a register read yields in a state: a word, or the stop R6 gives. The first flag says that the word is the zero of
an expired lapsing row, the second that a mismatch is counted (R67). -/
def regRead (g : Gang) (lenient : Bool) (tick lane i : Nat) (ts : TagSet) : Except Stop (TWord × Bool × Bool) :=
  if i == 0 then .ok (TWord.zero, false, false)
  else if g.nregs < i || 511 < i then .error (.trap .regbound i)
  else
    let r := g.regs.row (i - 1)
    match g.regs.readState r lane tick with
    | .memerr => .error (.memerr i)
    | .expired => .error (.trap .expired i)
    | .zero => .ok (TWord.zero, true, false)
    | .ok =>
      let w := r.word lane
      if ts.has w.tag then .ok (w, false, false)
      else if lenient && ts != .refLo && ts != .refHi then .ok (w, false, true)
      else .error (.trap .tag i)

/-- Whether register `i` of a thread holds a correctable error. -/
def State.softReg (s : State) (t i : Nat) : Bool :=
  match s.gangs.find (gidOf t) with | some g => i != 0 && bit (g.regs.row (i - 1)).soft (laneOf t) | none => false

/-- R401: a read of a register word corrects and counts a correctable error in it. -/
def State.cureReg (s : State) (t i : Nat) : State :=
  if s.softReg t i then
    (s.updGang (gidOf t) fun g => { g with regs := g.regs.cure [(i - 1, 2 ^ laneOf t)] }).ecount (dieOfCore (coreOf t)) 0 1
  else s

/-- Whether register `i` of a lane lies in a row whose bad metadata the issue `no` meets (R242). -/
def Gang.struck (g : Gang) (no lane i : Nat) : Bool := i != 0 && (g.regs.row (i - 1)).struck no lane

/-- The first of some registers that does. -/
def Gang.badRow (g : Gang) (no lane : Nat) (rs : List Nat) : Option Nat := rs.find? (g.struck no lane)

/-- The number of the instruction issue under way. -/
def State.curNo (s : State) : Nat :=
  match s.cur with
  | some c => (match (s.core c.core).groups.find c.slot with | some g => g.no | none => 0)
  | none => 0

/-- `ReadReg(i, tags)` (R6). A word read before a wait is read from the operand buffer when the instruction issues again; the
buffer keeps what each register gave under each set. -/
def readReg (i : Nat) (ts : TagSet) : M TWord := do
  let t ← curT
  let th ← thread
  match th.opbuf.find (16 * i + ts.code) with
  | some w => pure w
  | none =>
    let g ← gang
    let s ← get
    match (if g.struck s.curNo (laneOf t) i then .error (.memerr i) else regRead g (s.ctx g.ctx).lenient (s.tickOf g.ctx) (laneOf t) i ts) with
    | .error e => throw e
    | .ok (w, z, mis) =>
      modThread fun th => { th with
        opbuf := if i == 0 then th.opbuf else th.opbuf.put (16 * i + ts.code) w
        pendLapf := th.pendLapf || z
        pendMis := th.pendMis || mis }
      modify fun s => s.cureReg t i
      pure w

/-- The data bits of a register read. -/
def readBits (i : Nat) (ts : TagSet) : M Nat := do
  let w ← readReg i ts
  pure w.bits.toNat

/-- A pair: the even register before the odd one; v0 reads zero in both words (R179). -/
def readPair (i : Nat) (lo hi : TagSet) : M Nat := do
  if i == 0 then pure 0
  else
    let l ← readBits i lo
    let h ← readBits (i + 1) hi
    pure (l + 2 ^ 32 * h)

/-- An address pair (AL, AH). -/
def readAddr (i : Nat) : M Nat := readPair i .loAddr .hiAddr

/-- A 64-bit integer pair (L64, H64). -/
def readL64 (i : Nat) : M Nat := readPair i .lo64 .hi64

/-- A word written to a register of a thread (R5, R236); a write to v0 is discarded. -/
def State.writeReg (s : State) (t i : Nat) (w : TWord) : State :=
  if i == 0 then s
  else
    match s.gangs.find (gidOf t) with
    | none => s
    | some g => s.updGang (gidOf t) fun x => { x with regs := x.regs.writeWord (i - 1) (laneOf t) (s.tickOf g.ctx) w }

/-- `WriteReg(i, value, tag)` (R5). -/
def writeReg (i : Nat) (v : Nat) (tag : Tag) : M Unit := do
  let t ← curT
  modify fun s => s.writeReg t i ⟨BitVec.ofNat 32 v, tag⟩

/-- A pair destination; v0 discards both words (R180). -/
def writePair (i : Nat) (v : Nat) (lo hi : Tag) : M Unit := do
  if i == 0 then pure ()
  else
    writeReg i v lo
    writeReg (i + 1) (v / 2 ^ 32) hi

/-- A 64-bit integer pair with tags W64L and W64H. -/
def writeL64 (i : Nat) (v : Nat) : M Unit := writePair i v .w64l .w64h

/-- The value of predicate `p`; p0 reads true (R151). -/
def predBit (preds p : Nat) : Bool := p == 0 || bit preds p

/-- A predicate source (R183). -/
def readPred (q : PredSrc) : M Bool := do
  let th ← thread
  pure (predBit th.preds q.p != q.neg)

/-- Write a predicate; a write to p0 is discarded (R183). -/
def writePred (p : Nat) (b : Bool) : M Unit :=
  modThread fun th => if p == 0 then th else { th with preds := setBit th.preds p b }

/-- Whether the guard holds (R37). -/
def guardHolds (th : Thread) (g : Guard) : Bool := predBit th.preds g.p != g.neg

/-! ## Issue groups and clauses (R30, R31, R156) -/

/-- The thread leaves its issue group; a group without members ends. -/
def State.leaveGroup (s : State) (t : Nat) : State :=
  match s.threads.find t with
  | none => s
  | some th =>
    match th.group with
    | none => s
    | some sl =>
      let s := s.updThread t fun th => { th with group := none }
      let c := s.core (coreOf t)
      match c.groups.find sl with
      | none => s
      | some g =>
        let ms := g.members.filter (· != t)
        let gs := if ms == [] then c.groups.del sl
                  else c.groups.put sl { g with members := ms, todo := g.todo.filter (· != t) }
        s.setCore (coreOf t) { c with groups := gs }

/-- `rpt` when a clause completes (R34): 0 after a repeated clause, else as it was (R36). -/
def Thread.endRpt (th : Thread) : Thread :=
  match th.clause with
  | some c => if c.rep then { th with rptAct := false, rptRep := 0, rptInst := 0 } else th
  | none => th

/-- The thread ends its clause and stands at `pc` (R30, R34), out of its issue group. -/
def State.endClauseAt (s : State) (t pc : Nat) : State :=
  (s.updThread t fun th => { th.endRpt with pc := pc, clause := none, res := .start }).leaveGroup t

/-- The word after a clause: the next header (R41). -/
def Clause.next (c : Clause) : Nat := c.addr + 8 * (c.count + 1)

/-- The index in its clause's body of the instruction at `pc` (R35). -/
def Clause.index (c : Clause) (pc : Nat) : Nat := (pc - c.addr) / 8 - 1

/-- The thread goes on to the next instruction in its execution order (R32, R34). -/
def State.advance (s : State) (t : Nat) : State :=
  match s.threads.find t with
  | none => s
  | some th =>
    match th.clause with
    | none => s.updThread t fun th => { th with pc := th.pc + 8 }
    | some c =>
      let i := c.index th.pc
      if i + 1 < c.count then
        s.updThread t fun th => { th with pc := th.pc + 8, rptInst := if c.rep then i + 1 else th.rptInst }
      else if c.rep && th.rptRep + 1 < c.reps then
        s.updThread t fun th => { th with pc := c.addr + 8, rptInst := 0, rptRep := th.rptRep + 1 }
      else s.endClauseAt t c.next

/-- What an instruction leaves behind when it ends, whichever way: the operand buffer, what it was given while it waited
and its unfinished flags. -/
def Thread.clean (th : Thread) : Thread :=
  { th with opbuf := [], fbuf := [], cont := .none, pendLapf := false, pendFst := 0, pendMis := false, wait := none, ranges := [] }

/-- Progress of a kernel that is not persistent: an instruction retired outside the handler of a WATCHDOG trap (R404,
R405). -/
def State.progress (s : State) (t : Nat) : State :=
  match s.gangs.find (gidOf t), s.threads.find t with
  | some g, some th =>
    match s.kernels.find g.kern with
    | some k =>
      if k.desc.persist || (th.inh && th.wdh) then s
      else s.updKernel g.kern fun k => { k with prog := s.tickOf g.ctx, stage2 := false }
    | none => s
  | _, _ => s

/-- The instruction of thread `t` retires (R69): its flags, lapse and mismatch count take effect. -/
def State.commit (s : State) (t : Nat) : State :=
  match s.threads.find t with
  | none => s
  | some th =>
    let s := if th.pendMis then (match s.gangs.find (gidOf t) with | some g => s.addTagmis g.ctx | none => s) else s
    (s.updThread t fun th => { th.clean with fst := orf th.fst th.pendFst, lapf := (th.lapf || th.pendLapf), passBrk := false }).progress t

/-- An instruction that another agent completes for a thread that waits in it (R171, R353). -/
def State.complete (s : State) (t : Nat) : State := (s.commit t).advance t

/-- `Resume` of R96 for a thread that resumes at `pc` or past it. -/
def Thread.resumeAt (th : Thread) (pc : Nat) (past : Bool) : Thread :=
  { th with pc := pc, clause := none, res := if past then .past else .here, held := none, wait := none }

/-- The threads held for the trap of `t` resume, each at its own instruction (R92, R96). -/
def State.freeHeld (s : State) (t : Nat) (past : Bool) : State :=
  { s with threads := s.threads.mapv fun _ th => if th.held == some t then th.resumeAt th.pc past else th }

/-- The return from a trap (R96). -/
def State.returnFromTrap (s : State) (t : Nat) (past : Bool) : State :=
  ((s.updThread t fun th => { th with inh := false, wdh := false }.resumeAt th.tpc past).leaveGroup t).freeHeld t past

/-- An iteration or piece of the instruction of `t` is done and more follow (R226, R282): its flags and lapse stand, the
operands stay read, and the thread issues again at the same instruction. -/
def State.again (s : State) (t : Nat) : State :=
  let s := s.updThread t fun th =>
    { th with fst := orf th.fst th.pendFst, lapf := (th.lapf || th.pendLapf), pendFst := 0, pendLapf := false, cont := .none }
  match s.cur with
  | none => s
  | some c => s.updCore c.core fun x => { x with groups := x.groups.upd c.slot fun g => { g with todo := t :: g.todo } }

/-- The thread completes an instruction and goes on as `f` says. -/
def State.retire (s : State) (t : Nat) (f : Flow) : State :=
  match f with
  | .gone => s
  | .again => s.again t
  | .ret past => (s.commit t).returnFromTrap t past
  | .seq => (s.commit t).advance t
  | .jump pc => (s.commit t).endClauseAt t pc
  | .endClause =>
    let s := s.commit t
    match s.threads.find t with
    | some th => s.endClauseAt t (match th.clause with | some c => c.next | none => th.pc + 8)
    | none => s

/-! ## Gangs that are parked, and contexts that stop (R86 to R89, R410) -/

/-- The issue groups without the threads of which `p` holds; a group without members ends. -/
def Core.unGroup (c : Core) (p : Nat → Bool) : Core :=
  let gs := c.groups.mapv fun _ g =>
    { g with members := g.members.filter (fun t => !p t), todo := g.todo.filter (fun t => !p t) }
  { c with groups := gs.keep fun _ g => g.members != [] }

/-- The gang in a slot gives it up; it waits with its threads for the slot (R87). -/
def State.parkGang (s : State) (gid : Nat) : State :=
  match s.gangs.find gid with
  | none => s
  | some g =>
    { s with parked := s.parked ++ [{ gid := gid, gang := g, threads := s.threads.filter fun e => gidOf e.1 == gid }],
             threads := s.threads.keep fun t _ => gidOf t != gid, gangs := s.gangs.del gid }

/-- A parked gang takes its slot back, from a gang that parks in turn. -/
def State.unpark (s : State) (p : Parked) : State :=
  let s := s.parkGang p.gid
  { s with parked := s.parked.filter (fun x => !(x.gid == p.gid && x.gang.kern == p.gang.kern)),
           gangs := s.gangs.put p.gid p.gang, threads := p.threads.foldl (fun m e => m.put e.1 e.2) s.threads }

/-- The parked gang of a kernel that belongs in a slot. -/
def State.parkedOf (s : State) (kern gid : Nat) : Option Parked := s.parked.find? fun p => p.gid == gid && p.gang.kern == kern

/-- Do `f` for a gang of a kernel: where it stands parked, it and the gang in its slot change places meanwhile (R87). -/
def State.withGang (s : State) (kern gid : Nat) (f : State → State) : State :=
  match (match s.gangs.find gid with | some g => (if g.kern == kern then none else s.parkedOf kern gid) | none => s.parkedOf kern gid) with
  | none => f s
  | some p =>
    let other := s.gangs.find gid
    let s := (f (s.unpark p)).parkGang gid
    match other with
    | none => s
    | some g => match s.parkedOf g.kern gid with | some q => s.unpark q | none => s

/-- Whether a thread belongs to a context. -/
def State.ofCtx (s : State) (c t : Nat) : Bool := match s.gangs.find (gidOf t) with | some g => g.ctx == c | none => false

/-- Change a thread of a kernel, in its slot or with its gang parked (R87). -/
def State.updFor (s : State) (kern t : Nat) (f : Thread → Thread) : State :=
  match s.gangs.find (gidOf t) with
  | some g =>
    if g.kern == kern then s.updThread t f
    else { s with parked := s.parked.map fun (p : Parked) =>
      if p.gid == gidOf t && p.gang.kern == kern then { p with threads := p.threads.upd t f } else p }
  | none => { s with parked := s.parked.map fun (p : Parked) =>
      if p.gid == gidOf t && p.gang.kern == kern then { p with threads := p.threads.upd t f } else p }

/-- Whether something of a context is still in flight that must complete before it stops (R86, R88, R297, R410): threads that have
not reached their precise point, loads and other requests to peers, copies, tile operations up to the turn of a waiting thread, walks
but for those held on a fault, and a sealed resample (R351). -/
def State.inFlight (s : State) (c : Nat) : Bool :=
  (s.threads.any fun e => (e.2.loads != [] || e.2.group.isSome) && s.ofCtx c e.1)
  || (s.remops.any fun e => e.2.ctx == c && !e.2.posted && !e.2.slog && decide (e.2.t < 2 ^ 30))
  || (s.cores.any fun e => (e.2.landings.any fun l => l.ctx == c) || (e.2.walkq.any fun w => w.ctx == c && w.held == none))
  || (s.insts.any fun e => e.2.ctx == c && e.2.slots.any fun x => x.2.held == none &&
      (match x.2.ops with | [] => false | (_, .conv ..) :: _ => false | (_, .store ..) :: _ => false | _ => true))
  || (s.kernels.any fun e => e.2.ctx == c && (match e.2.pop with | some p => p.st == .sealed | none => false))

/-- A thread taken off its slot (R35, R410): inside a clause it will resume at its instruction, by way of its header. -/
def Thread.park (th : Thread) : Thread :=
  match th.clause with
  | some _ => { th with group := none, res := .here }
  | none => { th with group := none }

/-- A thread steps off its slot at a precise point (R410). -/
def State.stepAside (s : State) (t : Nat) : State := (s.leaveGroup t).updThread t Thread.park

/-- Every thread of a context off its slots. -/
def State.parkAll (s : State) (c : Nat) : State :=
  { s with threads := s.threads.mapv (fun t th => if s.ofCtx c t then th.park else th),
           cores := s.cores.mapv (fun _ x => x.unGroup (s.ofCtx c)) }

/-- Where a context that is to stop in a state will stand: one that is about to become faulted does so (R93). -/
def Ctx.stopState (x : Ctx) (st : CtxState) : CtxState := if x.pend == some .faulted then .faulted else st

/-- The context stops at once, or as soon as what is in flight has completed; a tick due at this edge is counted (R89). -/
def State.stopCtx (s : State) (c : Nat) (st : CtxState) : State :=
  let st := (s.ctx c).stopState st
  if s.inFlight c then s.updCtx c fun x => { x.settleTick with pend := some st } else (s.parkAll c).enterCtx c st

/-- After something in flight has completed: a context that waits to stop does so. -/
def State.finishStop (s : State) (c : Nat) : State :=
  match (s.ctx c).pend with
  | none => s
  | some .resident => s
  | some st => if s.inFlight c then s else (s.parkAll c).enterCtx c st

/-- A context stops at this reference edge (R86, R88, R93, R95); ticks, time-outs and slicing stop. Descheduled, each thread stops
after the instruction it is issuing; else each goes on to its precise point (R410). -/
def State.haltCtx (s : State) (c : Nat) (st : CtxState) : State :=
  (if st == .descheduled then s.parkAll c else s).stopCtx c st

/-- Whether a thread of a context that is about to halt stands at a precise point inside its clause (R410): the start of a repetition,
or a sweep's or a piece's iteration (`again`). -/
def State.stopsHere (s : State) (t : Nat) (again : Bool) : Bool :=
  match s.gangs.find (gidOf t), s.threads.find t with
  | some g, some th =>
    ((s.ctx g.ctx).pend == some .halted || (s.ctx g.ctx).pend == some .faulted)
    && (again || (match th.clause with | some c => c.rep && th.rptInst == 0 | none => false))
  | _, _ => false

/-! ## Freeing and failing (R138 to R140) -/

/-- Discard the landing copies, walks and slot operations of the gangs and threads of a kernel that fails. -/
def State.dropInFlight (s : State) (gone : Nat → Bool) : State :=
  { s with cores := s.cores.mapv fun _ c =>
      { c with landings := c.landings.filter (fun l => !gone (gidOf l.t)),
               walkq := c.walkq.filter (fun w => !gone (gidOf w.t)) } }

/-- Remove the threads of which `p` holds, out of their issue groups too. -/
def State.dropThreads (s : State) (p : Nat → Bool) : State :=
  { s with threads := s.threads.keep (fun t _ => !p t), cores := s.cores.mapv (fun _ c => c.unGroup p) }

/-- Of several failure statuses the first of 3, 4, 6 and 2 stands (R139). -/
def failRank : Nat → Nat | 3 => 0 | 4 => 1 | 6 => 2 | 2 => 3 | _ => 4

/-- The context has no gang on any core. -/
def State.noGang (s : State) (c : Nat) : Bool :=
  (s.gangs.all fun e => e.2.ctx != c) && (s.parked.all fun p => p.gang.ctx != c)

/-- A resident context whose last gang has left its cores becomes ready (Table 4.4), or, when it was about to halt or to become faulted,
does so. -/
def State.settleCtx (s : State) (c : Nat) : State :=
  if (s.ctx c).st == .resident && s.noGang c then
    s.enterCtx c (match (s.ctx c).pend with | some .halted => .halted | some .faulted => .faulted | _ => .ready)
  else s

/-- The point the kernels request: the highest valid hint of the admitting and running ones (R111), else 12 (R423). -/
def State.requested (s : State) : Nat :=
  let hs := s.kernels.filterMap fun e => if e.2.st == .admitting || e.2.st == .running then e.2.hint else none
  match hs with
  | [] => 12
  | h :: t => t.foldl max h

/-- The thermal point (R425). -/
def State.thermal (s : State) : Nat := if s.dies.any fun e => e.2.temp == .veryHot then 0 else 15

/-- Recompute the point in use (R423); a change is under way until it is stable. -/
def State.repoint (s : State) : State :=
  let p := min s.requested (min s.opPower s.thermal)
  let s := { s with opReq := s.requested }
  if p == s.opUse then { s with opNext := none } else { s with opNext := some p }

/-- Conduit instances of a kernel are released (R119): undelivered records are counted in `left`. -/
def State.releaseConduits (s : State) (k : Nat) : State :=
  { s with conduits := s.conduits.mapv fun _ c => if c.kern == k && !c.released then
      { c with left := c.buf.length + (c.tail + 2 ^ 32 - c.head) % 2 ^ 32, released := true, buf := [], senders := [], recvs := [] } else c }

/-- A population ends: its record and arrivals are gone (Table 16.2). -/
def Pop.finish (p : Pop) : Pop := { p with st := PopState.ended, arrs := [], record := none }

/-- A kernel's own fields when it fails at a reference edge. -/
def Kernel.fail (k : Kernel) (status edge : Nat) : Kernel :=
  { k with st := KState.failed, due := some status, failAt := edge, pop := k.pop.map Pop.finish }

/-- What a failing kernel held is released (R139, R140): its threads, its gangs, slots and pages, its instances and its conduits. -/
def State.releaseKernel (s : State) (k : Nat) : State :=
  let mine (g : Nat) : Bool := match s.gangs.find g with | some y => y.kern == k | none => false
  let s := s.dropInFlight mine
  let s := s.dropThreads fun t => mine (gidOf t)
  let s := s.releaseConduits k
  { s with
    gangs := s.gangs.keep (fun _ y => y.kern != k),
    parked := s.parked.filter (fun p => p.gang.kern != k),
    insts := s.insts.keep (fun _ y => y.kern != k),
    remops := s.remops.keep (fun _ r => r.kern != k || decide (2 ^ 30 ≤ r.t)) }

/-- A kernel fails with a status (R139): its threads stop, nothing further is admitted, its slots, pages, instances and
conduits are released; the record is written by KERNEL_COMPLETION. Of several failures at one reference edge the first of 3, 4, 6 and 2
stands; one that is over keeps its own status. -/
def State.failKernel (s : State) (k status : Nat) : State :=
  match s.kernels.find k with
  | none => s
  | some x =>
    if x.st == KState.complete then s
    else if x.st == KState.failed then
      match x.due with
      | some d => if x.failAt == s.refCycle && decide (failRank status < failRank d) then s.updKernel k fun y => { y with due := some status } else s
      | none => s
    else ((((s.releaseKernel k).updKernel k fun y => y.fail status s.refCycle).settleCtx x.ctx).finishStop x.ctx).repoint

/-! ## Traps (R92, R93) -/

/-- The turns that a thread has taken on slots are given up (R343, R344): a TCVT or TSTORE that resumes takes a new one. -/
def State.dropTurns (s : State) (t : Nat) : State :=
  let keep (o : Nat × TileOp) : Bool := match o.2 with | .conv u .. => u != t | .store u _ => u != t | _ => true
  { s with insts := s.insts.mapv fun _ x => { x with slots := x.slots.mapv fun _ y => { y with ops := y.ops.filter keep } } }

/-- The trap entry of `TakeTrap` (R92) on a thread that can receive one: the cause, the address, the value and the lanes
are saved, and the PC goes to `tvec`; the thread leaves its issue group. -/
def State.enterHandler (s : State) (t : Nat) (c : Cause) (v lanes tpc : Nat) : State :=
  (s.dropTurns t |>.updThread t fun th => { th.clean with
    inh := true, wdh := c == .watchdog, tcode := c.code, tpc := tpc, tval := v % 2 ^ 64, tmask := lanes, pc := th.tvec, clause := none,
    res := .start, passBrk := false }).leaveGroup t

/-- An undeliverable trap other than MEMERR (R93). DESIGN CHOICE (log entry 118): RESUME after a BREAK that halted the context goes past the
BKPT or the breakpoint that raised it. -/
def State.undeliverable (s : State) (t : Nat) (c : Cause) : State :=
  match s.gangs.find (gidOf t) with
  | none => s
  | some g =>
    match c with
    | .brk =>
      ((s.updThread t fun th => { th.clean with passBrk := true }).stepAside t).haltCtx g.ctx .halted
    | .watchdog => (s.setErrst g.ctx 3).failKernel g.kern 6
    | _ =>
      let s := s.setErrst g.ctx 3
      if (s.ctx g.ctx).fstop then
        let s := (s.updThread t Thread.clean).stepAside t
        let s := s.updKernel g.kern fun k => { k with due := some 2 }
        s.haltCtx g.ctx .faulted
      else s.failKernel g.kern 2

/-- Whether a thread has a handler to enter (R92). -/
def Thread.canTrap (th : Thread) : Bool := !th.inh && th.tvec != 0xFFFFFFFF

/-- `TakeTrap` (R92), with the address that `tpc` receives. -/
def State.takeTrapAt (s : State) (t : Nat) (c : Cause) (v lanes tpc : Nat) : State :=
  match s.threads.find t with
  | none => s
  | some th => if th.canTrap then s.enterHandler t c v lanes tpc else s.undeliverable t c

/-- `TakeTrap` for the thread's own lane at its own instruction. -/
def State.takeTrap (s : State) (t : Nat) (c : Cause) (v : Nat) : State :=
  match s.threads.find t with
  | none => s
  | some th => s.takeTrapAt t c v (2 ^ laneOf t) th.pc

/-! ## Waiting, and the stops of an instruction -/

/-- The thread waits and leaves its issue group (R9, R31). -/
def State.waitOn (s : State) (t : Nat) (w : Wait) : State :=
  let parks := match w with | .fault .. => true | .ffault .. => true | .ring => true | _ => false
  (s.updThread t fun th => if parks then { th.park with wait := some w, group := th.group } else { th with wait := some w }).leaveGroup t

/-- Table 19.3. -/
def tagDefault : Tag → Nat
  | .f32 => 0x7FC00000
  | .bf2 => 0x7FC07FC0
  | .h2 => 0x7E007E00
  | _ => 0

/-- A register destination with its result tag, or a predicate (R403). -/
inductive Dest where
  | reg (i : Nat) (tag : Tag)
  | pred (p : Nat)
deriving DecidableEq, Repr

/-- The register of a destination. -/
def Dest.regs : Dest → List Nat
  | .reg i _ => [i]
  | .pred _ => []

/-- The default values of Table 19.3 in the destinations of a thread. -/
def State.writeDefaults (s : State) (t : Nat) : List Dest → State
  | [] => s
  | .reg i tag :: ds => (s.writeReg t i ⟨BitVec.ofNat 32 (tagDefault tag), tag⟩).writeDefaults t ds
  | .pred p :: ds =>
    (s.updThread t fun th => if p == 0 then th else { th with preds := setBit th.preds p false }).writeDefaults t ds

/-- Whether register `i` of a thread is a word that this issue finds uncorrectable, by its check bits or its row's metadata. -/
def State.badWord (s : State) (t i : Nat) : Bool :=
  match s.gangs.find (gidOf t) with
  | some g => i != 0 && decide (i ≤ g.nregs) && (bit (g.regs.row (i - 1)).bad (laneOf t) || (g.regs.row (i - 1)).struck s.curNo (laneOf t))
  | none => false

/-- The rows of registers whose bad metadata this issue has met (R242). -/
def State.meetRegs (s : State) (t : Nat) (is : List Nat) : State :=
  s.updGang (gidOf t) fun g => { g with regs := is.foldl (fun a i =>
    if i != 0 && (a.row (i - 1)).badMeta then a.setRow (i - 1) ((a.row (i - 1)).meet s.curNo) else a) g.regs }

/-- The rows of destinations whose metadata is found bad, each counted where it is found (R401). -/
def State.countRows (s : State) (t : Nat) (is : List Nat) : State :=
  match s.gangs.find (gidOf t) with
  | some g => s.ecount (dieOfCore (coreOf t)) 1 (is.eraseDups.filter fun i => i != 0 && (g.regs.row (i - 1)).badMeta).length
  | none => s

/-- Rewrite the thread's uncorrectable source words as 0 with tag RAW, counting each (R403). -/
def State.scrubWords (s : State) (t : Nat) : List Nat → State
  | [] => s
  | i :: is => (if s.badWord t i then (s.writeReg t i TWord.zero).ecount (dieOfCore (coreOf t)) 1 1 else s).scrubWords t is

/-- The lane of the same gang that met the error first in this issue of the instruction, and whether it took the trap (R92, R402). -/
def State.memerrLeader (s : State) (t : Nat) : Option (Nat × Bool) :=
  match s.cur with
  | none => none
  | some c =>
    match (s.core c.core).groups.find c.slot with
    | none => none
    | some g => g.hit.find? fun u => gidOf u.1 == gidOf t

/-- The lane is the first of its gang to meet the error in this issue; `took` says that it can take the trap. -/
def State.noteHit (s : State) (t : Nat) (took : Bool) : State :=
  match s.cur with
  | some c => s.updCore c.core fun x => { x with groups := x.groups.upd c.slot fun g => { g with hit := (t, took) :: g.hit } }
  | none => s

/-- A lane of an undeliverable MEMERR (R93, R403): a store whose data alone was bad is performed with the defaults; any other instruction
is left behind, its destinations holding the defaults. `swp` is 0 then where it held the instruction's progress (log entry 102). -/
def State.passMemerr (s : State) (t : Nat) (store : Bool) (dests : List Dest) (swp : Bool) : State :=
  if store then (s.updThread t Thread.clean).again t
  else
    let s := ((s.writeDefaults t dests).commit t).advance t
    if swp then s.updThread t fun x => { x with swpAct := false, swpIter := 0 } else s

/-- MEMERR for one lane (R402, R403, R93): scrubbing and defaults first. The first lane of the gang decides for all of them: it takes the
trap, and the others are held for it, or the event is undeliverable, and each goes past. `data` are a store's data registers among its
sources `srcs`. -/
def State.memerr (s : State) (t v : Nat) (srcs data : List Nat) (dests : List Dest) (swp : Bool) : State :=
  match s.threads.find t with
  | none => s
  | some th =>
    let store := data.any (s.badWord t) && !(data.foldl (fun l i => l.erase i) srcs).any (s.badWord t)
    let ds := dests.flatMap Dest.regs
    let s := (((s.countRows t (ds.filter fun i => !srcs.contains i)).meetRegs t (srcs ++ ds)).scrubWords t srcs.eraseDups).dropTurns t
    match s.memerrLeader t with
    | some (l, true) =>
      let s := s.writeDefaults t dests
      let s := s.updThread l fun x => { x with tmask := setBit x.tmask (laneOf t) true }
      (s.updThread t fun x => { x.clean with held := some l }).leaveGroup t
    | some (_, false) => s.passMemerr t store dests swp
    | none =>
      let s := s.noteHit t th.canTrap
      if th.canTrap then (s.writeDefaults t dests).enterHandler t .memerr v (2 ^ laneOf t) th.pc
      else
        let s := match s.gangs.find (gidOf t) with | some g => s.setErrst g.ctx 0 | none => s
        s.passMemerr t store dests swp

/-- How a stopped instruction leaves the machine; `swp` says that `swp` holds the progress of its kind (R228). -/
def stopped (t : Nat) (srcs data : List Nat) (dests : List Dest) (swp : Bool) (e : Stop) (s : State) : State :=
  match e with
  | .trap c v => s.takeTrap t c v
  | .memerr v => s.memerr t v srcs data dests swp
  | .wait w => s.waitOn t w
  | .halt =>
    match s.gangs.find (gidOf t) with
    | some g => ((s.updThread t fun th => { th.clean with passBrk := true }).stepAside t).haltCtx g.ctx .halted
    | none => s
  | .noThread => s

/-! ## The prologue of a code instruction (R33, R43) -/

/-- A register-naming field: one register, an even register naming a pair, a multiple of 4 naming four, or the first of a range. -/
inductive Field where
  | r (i : Nat)
  | even (i : Nat)
  | quad (i : Nat)
  | range (i n : Nat)
deriving DecidableEq, Repr

/-- R33 and R180: the first field that fails, in the order given. DESIGN CHOICE (log entry 119): a field with the range beyond it counts as one
field, so that the range comes before a later field. -/
def checkFields (nregs : Nat) : List Field → Option (Cause × Nat)
  | [] => none
  | .r i :: fs => if nregs < i || 511 < i then some (.regbound, i) else checkFields nregs fs
  | .even i :: fs =>
    if nregs < i || 511 < i then some (.regbound, i)
    else if i % 2 == 1 then some (.illegal, i)
    else if nregs < i + 1 || 511 < i + 1 then some (.regbound, i + 1)
    else checkFields nregs fs
  | .quad i :: fs =>
    if nregs < i || 511 < i then some (.regbound, i)
    else if i % 4 != 0 then some (.illegal, i)
    else if min nregs 511 < i + 3 then some (.regbound, min nregs 511 + 1)
    else checkFields nregs fs
  | .range i n :: fs =>
    if min nregs 511 < i + (n - 1) then some (.regbound, max i (min nregs 511 + 1)) else checkFields nregs fs

/-- The registers that a field names; a pair at v0 names no other (R180). -/
def Field.regs : Field → List Nat
  | .r i => [i]
  | .even i => if i == 0 then [0] else [i, i + 1]
  | .quad i => [i, i + 1, i + 2, i + 3]
  | .range i n => (List.range n).map (i + ·)

/-- Whether a load not yet delivered will write one of the registers (R155, R182). -/
def Thread.pendingOn (th : Thread) (rs : List Nat) : Bool :=
  th.loads.any fun l => l.dsts.any fun d => d.1 != 0 && rs.contains d.1

/-- A register range that only the operands' tags tell (R216): its first index above the allotment raises REGBOUND. -/
def rangeCheck (i n : Nat) : M Unit := do
  let g ← gang
  let lim := min g.nregs 511
  if lim < i + (n - 1) then trap .regbound (max i (lim + 1)) else pure ()

/-- How a body is run by its guard (R37): skipped, ending the clause, or run with the guard's value. -/
inductive OnFalse where | skip | endClause | run
deriving DecidableEq, Repr

/-- R242, R402: an instruction that would write a row whose metadata is found bad raises MEMERR, before any effect of its own and after
its own traps; a row that it reads is met at the read. -/
def rowsFirst (bad : Option Nat) (m : M Flow) : M Flow :=
  match bad with
  | none => m
  | some i => fun s =>
    match m s with
    | .error (.trap c v) s' => .error (.trap c v) s'
    | .error (.memerr v) s' => .error (.memerr v) s'
    | _ => .error (.memerr i) s

/-- Run one code instruction of the current thread: the checks of R33 for every thread whatever its guard, the guard, the
scoreboard (R155, R182), then the instruction's own operation. `extra` names registers used beyond the fields. -/
def issueWith (fs : List Field) (g : Guard) (onFalse : OnFalse) (extra : List Nat) (body : Bool → M Flow) : M Flow := do
  let t ← curT
  let th ← thread
  let gg ← gang
  let no := (← get).curNo
  match checkFields gg.nregs fs with
  | some (c, v) => trap c v
  | none =>
    if guardHolds th g || onFalse == .run then
      let rs := fs.flatMap Field.regs ++ extra
      if guardHolds th g && th.pendingOn rs then waitFor (.loads rs)
      else
        match th.cont with
        | .fail c v => if c == .memerr then throw (.memerr v) else trap c v
        | _ => rowsFirst (if guardHolds th g then gg.badRow no (laneOf t) rs else none) (body (guardHolds th g))
    else if onFalse == .endClause then pure .endClause
    else pure .seq

/-- The source registers among those named: each destination's own naming is left out. -/
def sourceRegs (regs : List Nat) (dests : List Dest) : List Nat := (dests.flatMap Dest.regs).foldl (fun r i => r.erase i) regs

/-- One code instruction as an outcome: what it completes, or the stop it ends in. With no thread at issue nothing is done (log entry
4). -/
def runWith (swp : Bool) (srcs data : List Nat) (dests : List Dest) (m : M Flow) (s : State) : Host.Outcome State Fault Refusal :=
  match s.cur with
  | none => .next s
  | some c =>
    match m s with
    | .ok f s' => .next (s'.retire c.t f)
    | .error e s' => .next (stopped c.t srcs data dests swp e s')

/-- The same for an instruction whose progress is not in `swp`, and which stores no register's data. -/
def runCode (srcs : List Nat) (dests : List Dest) (m : M Flow) (s : State) : Host.Outcome State Fault Refusal :=
  runWith false srcs [] dests m s

/-- The usual instruction: a false guard performs nothing. -/
def code (fs : List Field) (g : Guard) (dests : List Dest) (body : M Flow) (s : State) : Host.Outcome State Fault Refusal :=
  runCode (sourceRegs (fs.flatMap Field.regs) dests) dests (issueWith fs g .skip [] fun _ => body) s

/-- A store: `data` are the registers whose words it stores (R403). -/
def codeStore (fs : List Field) (data : List Nat) (g : Guard) (body : M Flow) (s : State) : Host.Outcome State Fault Refusal :=
  runWith false (fs.flatMap Field.regs) data [] (issueWith fs g .skip [] fun _ => body) s

/-- The same as `code` for an instruction whose progress `swp` holds (R228, R282, R297). -/
def codeSwp (fs : List Field) (extra : List Nat) (g : Guard) (dests : List Dest) (body : M Flow) (s : State) :
    Host.Outcome State Fault Refusal :=
  runWith true (sourceRegs (fs.flatMap Field.regs ++ extra) dests) [] dests (issueWith fs g .skip extra fun _ => body) s

/-- The same with registers named beyond the fields. -/
def codeX (fs : List Field) (extra : List Nat) (g : Guard) (dests : List Dest) (body : M Flow) (s : State) :
    Host.Outcome State Fault Refusal :=
  runCode (sourceRegs (fs.flatMap Field.regs ++ extra) dests) dests (issueWith fs g .skip extra fun _ => body) s

/-- A clause-ending instruction: a false guard ends the clause (R37). -/
def codeEnd (fs : List Field) (g : Guard) (dests : List Dest) (body : M Flow) (s : State) : Host.Outcome State Fault Refusal :=
  runCode (sourceRegs (fs.flatMap Field.regs) dests) dests (issueWith fs g .endClause [] fun _ => body) s

/-- An instruction that gives a false guard a meaning of its own: `body` is told whether the guard holds. -/
def codeAny (fs : List Field) (extra : List Nat) (g : Guard) (dests : List Dest) (body : Bool → M Flow) (s : State) :
    Host.Outcome State Fault Refusal :=
  runCode (sourceRegs (fs.flatMap Field.regs ++ extra) dests) dests (issueWith fs g .run extra body) s

end Sys2Proof.Machine
end

