-- ==== Sys2Proof/Machine/Page.lean ====
section
/-! DEFINITION. Translation (17_page): the walk, the translation caches, permissions, fault records, and data
breakpoints. -/

namespace Sys2Proof.Machine

open Sys2Proof

/-- What an access needs of its leaf (R367). -/
inductive Need where
  /-- Reads: r. -/
  | load
  /-- Writes: w. -/
  | store
  /-- Operations that return the old value of the word they update: r, then w. -/
  | rmw
  /-- Instruction fetch: x. -/
  | fetch
  /-- A look at the leaf alone (R300). -/
  | probe
deriving DecidableEq, Repr

def Need.reads : Need → Bool | .load => true | .rmw => true | _ => false
def Need.writes : Need → Bool | .store => true | .rmw => true | _ => false

/-- The shift of a level's index (Table 17.1). -/
def levelShift : Nat → Nat | 0 => 43 | 1 => 30 | 2 => 21 | _ => 16
/-- The bits of a level's index. -/
def levelBits : Nat → Nat | 0 => 13 | 1 => 13 | 2 => 9 | _ => 5
/-- The size and alignment of a level's table. -/
def tableSize : Nat → Nat | 0 => 131072 | 1 => 131072 | 2 => 8192 | _ => 512

/-- The physical address in a PTE (Table 17.2). -/
def pteAddr (pte : Nat) : Nat := bits pte 51 9 * 512
def pteLink (pte : Nat) : Nat := bits pte 57 56
def pteDev (pte : Nat) : Nat := bits pte 63 58

/-- R363, R364: `comp` is the companion word. -/
def State.malformed (s : State) (level pte comp : Nat) : Bool :=
  let leaf := bit pte 1
  let a := pteAddr pte
  bits pte 8 2 != 0 || (leaf && bits comp 31 5 != 0)
  || (leaf && level == 0) || (!leaf && level == 3)
  || (!leaf && bits pte 63 52 != 0)
  || (if leaf then a % 2 ^ levelShift level != 0 else a % tableSize (level + 1) != 0)
  || pteLink pte == 3 || (pteDev pte != 0 && pteLink pte != 1)
  || (!leaf && !s.backed a (tableSize (level + 1)))
  || (leaf && pteLink pte == 0 && !s.backed a (2 ^ levelShift level))

/-- Where a walk ends (R361, R368). -/
inductive WalkEnd where
  | leaf (pte ent : Nat) (level : Nat)
  | bad (kind level : Nat)
  /-- An entry homed on a die in warm reset (R399), at this physical address. -/
  | refused (pa : Nat)
  /-- An entry with a poisoned byte (R400): the access that walks raises MEMERR with its own address (DESIGN CHOICE, log entry 98). -/
  | poison
  /-- A leaf that the die still caches, used without a walk (R366). -/
  | held (pte level : Nat)
deriving DecidableEq, Repr

/-- What an entry of a level at `e`, whose PTE is taken as `pte`, makes of a walk: its end, or the table that it goes on in. -/
def State.walkEntry (s : State) (level e pte : Nat) : WalkEnd ⊕ Nat :=
  if s.dieRefuses e then .inl (.refused e)
  else if (s.firstPoison e 16 0).isSome then .inl .poison
  else if !bit pte 0 then .inl (.bad 0 level)
  else if s.malformed level pte (s.phys 8 (e + 8)) then .inl (.bad 4 level)
  else if bit pte 1 then .inl (.leaf pte e level)
  else .inr (pteAddr pte)

/-- The address of the entry of a level for `va` in a table. -/
def entryAt (va level base : Nat) : Nat := base + 16 * (va / 2 ^ levelShift level % 2 ^ levelBits level)

/-- The walk through the tables from one at `base` of a level; `f` bounds the levels left. -/
def State.walkAt (s : State) (va : Nat) : Nat → Nat → Nat → WalkEnd
  | 0, level, _ => .bad 4 level
  | f + 1, level, base =>
    match s.walkEntry level (entryAt va level base) (s.phys 8 (entryAt va level base)) with
    | .inl w => w
    | .inr b => s.walkAt va f (level + 1) b

/-- The level-0 table of a context (R361). -/
def State.rootOf (s : State) (c : Nat) : Nat := let r := (s.ctx c).asroot; r - r % 131072

/-- The walk of a virtual address in a context (R361). -/
def State.walk (s : State) (c va : Nat) : WalkEnd := s.walkAt va 4 0 (s.rootOf c)

/-- Whether an entry that a die caches covers an address of a context. -/
def TlbEntry.covers (e : TlbEntry) (c va : Nat) : Bool := e.ctx == c && decide (e.va ≤ va) && decide (va < e.va + e.size)

/-- A cached leaf of die `d` that covers `va` (R365). -/
def State.cached (s : State) (d c va : Nat) : Option TlbEntry := (s.die d).tlb.find? fun e => bit e.pte 1 && e.covers c va

/-- The non-leaf entry of a level that die `d` caches for `va` (R376). -/
def State.cachedTable (s : State) (d c va level : Nat) : Option TlbEntry :=
  (s.die d).tlb.find? fun e => !bit e.pte 1 && e.size == 2 ^ levelShift level && e.covers c va

/-- The PTE that a walk of die `d` takes at an entry: that of the tables, or, while the die caches another non-leaf entry for the address,
either of the two (R366). -/
def State.takenPte (s : State) (d c va level e : Nat) : Nat :=
  match s.cachedTable d c va level with
  | some x => if x.pte != s.phys 8 e && Config.freeBit (s.free + level) then x.pte else s.phys 8 e
  | none => s.phys 8 e

/-- The walk that die `d` makes: where it ends, and the entries that it reads, each with its level and its PTE. -/
def State.walkVia (s : State) (d c va : Nat) : Nat → Nat → Nat → WalkEnd × List (Nat × Nat × Nat)
  | 0, level, _ => (.bad 4 level, [])
  | f + 1, level, base =>
    let e := entryAt va level base
    let pte := s.takenPte d c va level e
    match s.walkEntry level e pte with
    | .inl w => (w, [(level, e, pte)])
    | .inr b => let r := s.walkVia d c va f (level + 1) b; (r.1, (level, e, pte) :: r.2)

/-- Whether die `d` caches some entry for `va` that the tables no longer hold. -/
def State.stale (s : State) (d c va : Nat) : Bool := (s.die d).tlb.any fun e => e.covers c va && s.phys 8 e.ent != e.pte

/-- An entry that die `d` caches from now on. -/
def State.cacheEntry (s : State) (d c va level ent pte : Nat) : State :=
  let size := 2 ^ levelShift level
  { s with dies := s.dies.upd d fun x => { x with tlb := ⟨c, va - va % size, size, pte, ent⟩ :: x.tlb } }

/-- Cache a leaf unless an older one still stands for the address (R366). -/
def State.cacheLeaf (s : State) (d c va pte ent level : Nat) : State :=
  match s.cached d c va with
  | some _ => s
  | none => s.cacheEntry d c va level ent pte

/-- The entries of a walk are read as shared-class loads, whose errors count (R365, R401), and the non-leaf ones that led on are
cached. -/
def State.noteWalk (s : State) (d c va : Nat) : List (Nat × Nat × Nat) → State
  | [] => s
  | (level, e, pte) :: es =>
    let s := s.noteRead e 16
    let s := if es != [] && (s.cachedTable d c va level).isNone then s.cacheEntry d c va level e pte else s
    s.noteWalk d c va es

/-- The level of a page size. -/
def levelOfSize (n : Nat) : Nat := if n == 2 ^ 30 then 1 else if n == 2 ^ 21 then 2 else 3

/-- What a translation answers. -/
inductive Xlate where
  | ok (pa pte : Nat)
  | fault (kind level : Nat)
  | access
  | remote
  /-- A table entry with an uncorrectable error. -/
  | memerr
deriving DecidableEq, Repr

/-- The leaf that an access uses (R365, R366): the one that a walk finds, or, while the die still caches another, either of the two. A
write that has to set dirty uses the entry in the tables. -/
def State.chooseLeaf (s : State) (d c va : Nat) (need : Need) : WalkEnd × State :=
  let (w, path) := s.walkVia d c va 4 0 (s.rootOf c)
  let next (s : State) : State := if s.stale d c va then { s with free := s.free + 5 } else s
  match s.cached d c va with
  | none => (w, next (s.noteWalk d c va path))
  | some e =>
    let old := WalkEnd.leaf e.pte e.ent (levelOfSize e.size)
    if w == old then (w, next s)
    else if need.writes && !bit (s.phys 8 (e.ent + 8)) 4 then (w, next (s.noteWalk d c va path))
    else if Config.freeBit (s.free + 4) then (.held e.pte (levelOfSize e.size), { s with free := s.free + 5 })
    else (w, { s.noteWalk d c va path with free := s.free + 5 })

/-- The first permission a leaf lacks, as a fault kind (R367). -/
def lacks (need : Need) (pte : Nat) : Option Nat :=
  if need.reads && !bit pte 52 then some 1
  else if need.writes && !bit pte 53 then some 2
  else if need == .fetch && !bit pte 54 then some 3
  else none

/-- Whether an access is to host memory, here or by way of the bridge device (R362, R395). -/
def isHost (pte pa : Nat) : Bool := pteLink pte == 2 || (pteLink pte == 1 && decide (hostMark ≤ pa))

/-- Where an access that may be performed goes: one to host memory, on a device that is not its group's bridge, goes to the bridge device
as to a peer (R395). -/
def State.viaBridge (s : State) (pa pte : Nat) : Xlate :=
  if pteLink pte == 2 && s.bridge && s.hostfn != 0 then .ok (hostMark + pa) (setBits (setBits pte 57 56 1) 63 58 s.bridgeDev) else .ok pa pte

/-- The checks of an access on the PTE it uses (R367, R399); `dirty` is the companion word to mark when it writes. -/
def State.admitLeaf (s : State) (c va : Nat) (need : Need) (pte level : Nat) (dirty : Option Nat) : Xlate × State :=
  let pa := pteAddr pte + va % 2 ^ levelShift level
  if pteLink pte == 0 && !bit (s.ctx c).homemask (homeDie pa) then (.access, s)
  else
    match lacks need pte with
    | some k => (.fault k level, s)
    | none =>
      let s := match dirty with
        | some a => if need.writes then s.physSet c 1 a (setBit (s.phys 1 a) 4 true) else s
        | none => s
      if pteLink pte == 0 && s.dieRefuses pa then (.remote, s.countErr pa) else (s.viaBridge pa pte, s)

/-- Translate one access of context `c` on die `d` (R365, R367, R368, R399). -/
def State.xlate (s : State) (d c va : Nat) (need : Need) : Xlate × State :=
  match s.chooseLeaf d c va need with
  | (.bad k l, s) => (.fault k l, s)
  | (.refused pa, s) => (.remote, s.countErr pa)
  | (.poison, s) => (.memerr, s)
  | (.held pte level, s) => s.admitLeaf c va need pte level none
  | (.leaf pte ent level, s) =>
    let s := s.cacheLeaf d c va pte ent level
    (s.physSet c 1 (ent + 8) (setBit (s.phys 1 (ent + 8)) d true)).admitLeaf c va need pte level (some (ent + 8))

/-! ## Fault records (R369) -/

/-- The cause with which a fault of a kind fails (Table 17.4). -/
def kindCause (k : Nat) : Cause := if k == 1 || k == 2 || k == 3 then .access else .page

/-- What a translation fault does at once. -/
inductive FaultAct where
  | fail
  | ring
  | hold (seq : Nat)
deriving DecidableEq, Repr

/-- Write or join a fault record (R369, Table 17.6). -/
def State.raiseFault (s : State) (c core va kind level : Nat) : FaultAct × State :=
  let x := s.ctx c
  if !x.fen || decide (8 < x.flg) then (.fail, s)
  else
    match x.faults.find? fun f => f.va == va / 65536 * 65536 && f.kind == kind with
    | some f => (.hold f.seq, s)
    | none =>
      let n := 2 ^ (x.flg + 4)
      if n ≤ (x.fwr + 2 ^ 32 - x.frd) % 2 ^ 32 then (.ring, s)
      else
        let word := va % 2 ^ 56 + 2 ^ 64 * c + 2 ^ 75 * level + 2 ^ 77 * kind + 2 ^ 96 * core + 2 ^ 128 * x.fwr
        let s := (s.physSet c 32 (x.fbase + 32 * (x.fwr % n)) word).curePoison (x.fbase + 32 * (x.fwr % n)) 32
        let x := s.ctx c
        (.hold x.fwr, s.setCtx c { x with fwr := (x.fwr + 1) % 2 ^ 32, faults := ⟨x.fwr, va / 65536 * 65536, kind⟩ :: x.faults })

/-- A translation fault of the current thread at `va` (R371): the thread waits for the driver, or traps at once. -/
def holdFault {α : Type} (fetch : Bool) (va kind level : Nat) : M α := do
  let t ← curT
  let g ← gang
  let s ← get
  match s.raiseFault g.ctx (coreOf t) va kind level with
  | (.fail, _) => Sys2Proof.Machine.trap (kindCause kind) va
  | (.ring, _) => waitFor .ring
  | (.hold q, s') => do
    set s'
    waitFor (if fetch then .ffault q va else .fault q va)

/-- Translate for the current thread: every kind of failure ends the instruction. -/
def xlate (va : Nat) (need : Need) : M (Nat × Nat) := do
  let t ← curT
  let g ← gang
  let s ← get
  let (r, s') := s.xlate (dieOfCore (coreOf t)) g.ctx va need
  set s'
  match r with
  | .ok pa pte => pure (pa, pte)
  | .fault k l => holdFault (need == .fetch) va k l
  | .access => Sys2Proof.Machine.trap .access va
  | .remote => Sys2Proof.Machine.trap .remote va
  | .memerr => throw (.memerr va)

/-! ## Breakpoints (R408, R409) -/

/-- The fields of an entry (Table 19.4): whether it is on, its kind, and its range. -/
def brkOn (w : Nat) : Bool :=
  bit w 0 && bits w 63 9 == 0 && decide (3 ≤ bits w 8 3) && decide (bits w 8 3 ≤ 56)
  && (bits w 2 1 != 0 || bits w 8 3 == 3)

/-- Whether an entry's range meets the `n` bytes at `a`. -/
def brkMeets (w a n : Nat) : Bool :=
  let sz := 2 ^ bits w 8 3
  let base := bits w 127 64 / sz * sz
  decide (base < a + n) && decide (a < base + sz)

/-- Whether an enabled entry of the context, as the last reference edge left it (R408), matches a data access. -/
def Ctx.dataHit (x : Ctx) (a n : Nat) (ld st : Bool) : Option Nat :=
  match x.brkNow.find? fun e => brkOn e.2 && brkMeets e.2 a n &&
      (match bits e.2 2 1 with | 1 => ld | 2 => st | 3 => ld || st | _ => false) with
  | some e => some (bits e.2 127 64)
  | none => none

/-- Whether an enabled execute entry matches a PC. -/
def Ctx.execHit (x : Ctx) (pc : Nat) : Option Nat :=
  match x.brkNow.find? fun e => brkOn e.2 && bits e.2 2 1 == 0 && brkMeets (e.2 % 2 ^ 96) pc 8 with
  | some e => some (bits e.2 127 64)
  | none => none

/-- A hit ends the instruction (R95, R409). -/
def brkStop {α : Type} (addr : Nat) : M α := do
  let x ← curCtx
  if x.dbg then throw .halt else Sys2Proof.Machine.trap .brk addr

/-- The check of a data access after those of R7. -/
def checkBrk (a n : Nat) (ld st : Bool) : M Unit := do
  let th ← thread
  let x ← curCtx
  if th.passBrk then pure ()
  else
    match x.dataHit a n ld st with
    | some b => brkStop b
    | none => pure ()

end Sys2Proof.Machine
end

