-- ==== Sys2Proof/Machine/Cache.lean ====
section
/-! DEFINITION. The column cache of a core and the L2 level (12_memory R253 to R256, R261; 13_object R289 to R292). The
L2 caches and the HBM4E behind them are one coherent store (log entry 6). -/

namespace Sys2Proof.Machine

open Sys2Proof

/-- A line that holds nothing. -/
def CLine.empty : CLine :=
  { valid := 0, dirty := 0, data := 0, tags := 0, gran := 0, owner := 0, pub := false, epoch := 0, ctx := 0, poison := 0, soft := 0 }

/-- `n` bytes from `old` or `new`, byte by byte: from `new` where the mask bit is 1. -/
def mergeBytes : Nat → Nat → Nat → Nat → Nat
  | 0, _, _, _ => 0
  | n + 1, mask, old, new =>
    (if mask % 2 == 1 then new % 256 else old % 256) + 256 * mergeBytes n (mask / 2) (old / 256) (new / 256)

/-- Bits of `a` where the mask is 0, of `b` where it is 1, over `n` bits. -/
def mergeBits : Nat → Nat → Nat → Nat → Nat
  | 0, _, _, _ => 0
  | n + 1, mask, a, b => (if mask % 2 == 1 then b % 2 else a % 2) + 2 * mergeBits n (mask / 2) (a / 2) (b / 2)

/-- The byte mask of a sector mask. -/
def sectorBytes : Nat → Nat → Nat
  | 0, _ => 0
  | n + 1, m => (if m % 2 == 1 then 2 ^ 32 - 1 else 0) + 2 ^ 32 * sectorBytes n (m / 2)

/-- The sectors of a line that `n` bytes at offset `o` lie in. -/
def sectorsOf (o n : Nat) : Nat := ones ((o + n - 1) / 32 + 1) - ones (o / 32)

/-- The words (of 16) with a bit set in a byte mask. -/
def wordsHit : Nat → Nat → Nat
  | 0, _ => 0
  | n + 1, m => (if m % 256 == 0 then 0 else 1) + 2 * wordsHit n (m / 256)

/-- Whether a granule state is published at device or system scope (Table 13.3). -/
def pubWide (g : Nat) : Bool := g == 5 || g == 6

/-- The granule states of a line at home, three bits each. -/
def State.lineGran (s : State) (line : Nat) : Nat → Nat
  | 0 => 0
  | k + 1 => 8 ^ k * s.granAt (128 * line + 16 * k) + s.lineGran line k

/-- The poison bits of a line's sectors at home. -/
def State.linePoison (s : State) (line : Nat) : Nat → Nat
  | 0 => 0
  | k + 1 => 2 ^ k * b2n (setHas (4 * line + k) s.poison) + s.linePoison line k

/-- The copy a core holds of a line. -/
def State.line (s : State) (core line : Nat) : CLine := ((s.core core).cache.find line).getD CLine.empty

/-- Replace a core's copy; one with no valid byte is dropped. -/
def State.setLine (s : State) (core line : Nat) (l : CLine) : State :=
  s.updCore core fun c => { c with cache := if l.valid == 0 then c.cache.del line else c.cache.put line l }

/-- Write the dirty bytes of a core's line back to the L2 level under a byte mask (R254); the line stays, clean. -/
def State.cleanLine (s : State) (core line : Nat) : State :=
  let l := s.line core line
  if l.dirty == 0 then s
  else
    let la := 128 * line
    let data := mergeBytes 128 l.dirty (s.phys 128 la) l.data
    let ws := wordsHit 16 l.dirty
    let tags := mergeBits 16 ws (s.homeTags la 16) l.tags
    let full := (List.range 4).filter fun k => bits l.dirty (32 * k + 31) (32 * k) == 2 ^ 32 - 1
    let some' := (List.range 4).filter fun k => bits l.dirty (32 * k + 31) (32 * k) != 0
    let poison := some'.foldl (fun p k => setPut (4 * line + k)
      (bit l.poison k || (setHas (4 * line + k) p && !full.contains k)) p) s.poison
    let s := { s.withBytes 128 la data with poison := poison }
    let s := s.putTags (16 * line) tags 16
    let s := s.multicast l.ctx la l.dirty l.data s.mcwins
    s.setLine core line { l with dirty := 0 }

/-- Drop a line after writing its dirty bytes back. -/
def State.evict (s : State) (core line : Nat) : State :=
  (s.cleanLine core line).updCore core fun c => { c with cache := c.cache.del line }

/-- The lines of a column cache: 4 MiB of 128 bytes (R15). -/
def cacheLines : Nat := 32768

/-- Room for one more line: where the cache is full, some line goes (R254, log entry 81). -/
def State.makeRoom (s : State) (core line : Nat) : State :=
  let c := (s.core core).cache
  if (c.find line).isSome || decide (c.length < cacheLines) then s
  else { s.evict core ((c.map (·.1)).getD (Config.freeVictim s.free % c.length) 0) with free := s.free + 1 }

/-- A published line of an older reclaim epoch (R292). -/
def State.outdated (s : State) (l : CLine) : Bool := l.pub && l.epoch != s.epoch % 256

/-- The words of a line listed bear the home's tag bits: none of TAGWR's is still to come to them (R284). -/
def State.freshTags (s : State) (core line : Nat) (ws : List Nat) : State :=
  if (s.core core).tagwr == [] then s
  else s.updCore core fun c => { c with tagwr := c.tagwr.keep fun j _ => !(j / 16 == line && ws.contains (j % 16)) }

/-- Fill sectors of a line from the L2 level (R254, R283, R291, R292): the bytes of words that are not wholly valid, but for dirty ones,
with the words' tag bits. `tagged` is the page's attribute: the granules of an untagged page read as raw. -/
def State.fill (s : State) (core line sects : Nat) (tagged : Bool) : State :=
  let l0 := s.line core line
  let want := sectorBytes 4 sects
  if mergeBits 128 want 0 l0.valid == want then s
  else
    let s := if s.outdated l0 then s.evict core line else s.makeRoom core line
    let l := s.line core line
    let ws := (List.range 16).filter fun k => bit want (8 * k) && bits l.valid (8 * k + 7) (8 * k) != 255
    let bytes := mergeBits 128 l.dirty (ws.foldl (fun m k => m + 255 * 2 ^ (8 * k)) 0) 0
    let words := ws.foldl (fun m k => if bits l.dirty (8 * k + 7) (8 * k) == 0 then m + 2 ^ k else m) 0
    let touched := (List.range 4).filter fun k => bit sects k
    let all := touched.all fun k => pubWide (s.granAt (128 * line + 32 * k)) && pubWide (s.granAt (128 * line + 32 * k + 16))
    let pub := tagged && all && (l.valid == 0 || l.pub)
    let pz := s.linePoison line 4
    let s := s.noteRead (128 * line) 128
    s.setLine core line
      { l with
        valid := mergeBits 128 bytes l.valid (ones 128), data := mergeBytes 128 bytes l.data (s.phys 128 (128 * line)),
        tags := mergeBits 16 words l.tags (s.homeTags (128 * line) 16),
        gran := s.lineGran line 8, owner := s.ownerAt (128 * line), pub := pub,
        epoch := if pub then s.epoch % 256 else l.epoch,
        poison := mergeBits 4 sects l.poison (pz + l.poison - mergeBits 4 l.poison 0 pz) }
      |>.freshTags core line ws

/-- Write every dirty byte of the lines listed back. -/
def State.cleanLines (s : State) (core : Nat) : List Nat → State
  | [] => s
  | l :: ls => (s.cleanLine core l).cleanLines core ls

/-- Clean every dirty raw line of a core (R261). -/
def State.cleanRaw (s : State) (core : Nat) : State :=
  s.cleanLines core (((s.core core).cache.filter fun e => !e.2.pub).map (·.1))

/-- Clean every line of a core (R278, R398). -/
def State.cleanAll (s : State) (core : Nat) : State := s.cleanLines core ((s.core core).cache.map (·.1))

/-- Invalidate the bytes of a mask in a core's line. -/
def State.dropBytes (s : State) (core line mask : Nat) : State :=
  match (s.core core).cache.find line with
  | none => s
  | some l => s.setLine core line { l with valid := mergeBits 128 mask l.valid 0, dirty := mergeBits 128 mask l.dirty 0 }

/-- One line under an acquire at device or system scope (R261, R292): `old` says that every published line goes. -/
def State.acquireLine (s : State) (old : Bool) (line : Nat) (l : CLine) : CLine :=
  if l.pub then (if old || s.outdated l then CLine.empty else l)
  else { l with valid := l.dirty, gran := s.lineGran line 8, owner := s.ownerAt (128 * line) }

/-- A line with the tag bits that TAGWR has written to some of its words (R284). -/
def CLine.retag (line : Nat) (l : CLine) (ws : AMap Nat) : CLine :=
  ws.foldl (fun l e => if e.1 / 16 == line then { l with tags := setBit l.tags (e.1 % 16) (e.2 == 1) } else l) l

/-- An acquire at device or system scope by a core (R261, R284, R292). -/
def State.acquire (s : State) (core : Nat) : State :=
  let c := s.core core
  let old := decide (256 ≤ (s.epoch + 2 ^ 32 - c.ec) % 2 ^ 32)
  s.setCore core { c with
    cache := (c.cache.mapv fun line l => (s.acquireLine old line l).retag line c.tagwr).keep (fun _ l => l.valid != 0),
    ec := s.epoch, scale := [], tagwr := [] }

/-- What a global read yields: the bytes, the tag bits of its words, and the offset of its first poisoned byte. -/
structure Got where
  v : Nat
  tags : Nat
  poison : Option Nat
deriving DecidableEq, Repr

/-- The first of `n` bytes at offset `o` of a line in a poisoned sector. -/
def poisonAt (mask o : Nat) : Nat → Nat → Option Nat
  | 0, _ => none
  | n + 1, i => if bit mask ((o + i) / 32) then some i else poisonAt mask o n (i + 1)

/-- The errors that a read of sectors of a column-cache line meets are counted, the correctable ones repaired (R401). -/
def State.countColumn (s : State) (core line sects : Nat) : State :=
  let l := s.line core line
  let k := popcount 4 (Nat.land l.soft sects)
  let u := popcount 4 (Nat.land l.poison sects)
  if k == 0 && u == 0 then s
  else ((s.setLine core line { l with soft := mergeBits 4 sects l.soft 0 }).ecount (dieOfCore core) 2 k).ecount (dieOfCore core) 3 u

/-- A plain read in the column cache (R256): `n` bytes at `pa`, within one line. -/
def State.plainRead (s : State) (core pa n : Nat) (tagged : Bool) : Got × State :=
  let line := pa / 128
  let o := pa % 128
  let s := (s.fill core line (sectorsOf o n) tagged).countColumn core line (sectorsOf o n)
  let l := s.line core line
  (⟨l.data / 2 ^ (8 * o) % 2 ^ (8 * n), l.tags / 2 ^ (o / 8) % 2 ^ wordsOf pa n, poisonAt l.poison o n 0⟩, s)

/-- The core has written `k` words from word `w` on: their tag bits are its own from now on (R284). -/
def State.settleTags (s : State) (core w k : Nat) : State :=
  if (s.core core).tagwr == [] then s
  else s.updCore core fun c => { c with tagwr := c.tagwr.keep fun j _ => decide (j < w) || decide (w + k ≤ j) }

/-- A plain write in the column cache: bytes, and, when the page is tagged, the tags of the words touched. -/
def State.plainWrite (s : State) (core c pa n v tags : Nat) (tagged : Bool) : State :=
  let line := pa / 128
  let o := pa % 128
  let s := s.fill core line (sectorsOf o n) tagged
  let l := s.line core line
  let m := ones n * 2 ^ o
  let ws := ones (wordsOf pa n) * 2 ^ (o / 8)
  s.setLine core line
    { l with valid := mergeBits 128 m l.valid (ones 128), dirty := mergeBits 128 m l.dirty (ones 128),
             data := mergeBytes 128 m l.data (v * 2 ^ (8 * o)),
             tags := if tagged then mergeBits 16 ws l.tags (tags * 2 ^ (o / 8)) else l.tags, ctx := c }
    |>.settleTags core (pa / 8) (wordsOf pa n)

/-- A shared or stream read (R255, R256, R265): the core's own copy of the bytes goes, so that no later read of the core finds an older
value. -/
def State.sharedRead (s : State) (core pa n : Nat) : Got × State :=
  let s := ((s.cleanLine core (pa / 128)).noteRead pa n).dropBytes core (pa / 128) (ones n * 2 ^ (pa % 128))
  (⟨s.phys n pa, s.homeTags pa (wordsOf pa n), s.firstPoison pa n 0⟩, s)

/-- A shared or stream write (R255, R256). -/
def State.sharedWrite (s : State) (core c pa n v tags : Nat) (tagged : Bool) : State :=
  ((s.cleanLine core (pa / 128)).homeWrite c pa n v tags tagged).dropBytes core (pa / 128) (ones n * 2 ^ (pa % 128))

/-! ## Object checks (R287 to R290) -/

/-- The line owner of a core of this device (R287). -/
def State.ownerOf (s : State) (core : Nat) : Nat := s.devnum * 512 + core

/-- The granule state and line owner a plain store of a core is checked against (R289, R290): its own copy of the sector
when it holds one. -/
def State.plainView (s : State) (core pa : Nat) : Nat × Nat :=
  match (s.core core).cache.find (pa / 128) with
  | some l =>
    let k := pa % 128 / 32
    if bits l.valid (32 * k + 31) (32 * k) != 0 then (l.gran / 8 ^ (pa % 128 / 16) % 8, l.owner)
    else (s.granAt pa, s.ownerAt pa)
  | none => (s.granAt pa, s.ownerAt pa)

/-- Table 13.5: the cause a store of a granule raises. -/
def storeCause (plain own : Bool) (gran : Nat) : Option Cause :=
  match gran with
  | 0 => none
  | 1 => if own then none else some .foreign
  | 2 => some (if own then .pubwrite else .foreign)
  | 7 => some .pubwrite
  | _ => if plain then some .pubwrite else none

/-- The first granule, in ascending address, that refuses a store of `n` bytes at `pa`: the cause and the offset of the
failing byte. `who` is the writer's owner number, and the copy of `core` is looked at for a plain store. -/
def State.storeCheckFrom (s : State) (core : Nat) (plain : Bool) (who pa n : Nat) : Nat → Nat → Option (Cause × Nat)
  | 0, _ => none
  | f + 1, g =>
    if pa + n ≤ 16 * g then none
    else
      let v := if plain then s.plainView core (16 * g) else (s.granAt (16 * g), s.ownerAt (16 * g))
      match storeCause plain (v.2 == who) v.1 with
      | some c => some (c, max pa (16 * g) - pa)
      | none => s.storeCheckFrom core plain who pa n f (g + 1)

/-- R289 for a store of `n` bytes at `pa`. -/
def State.storeCheck (s : State) (core : Nat) (plain : Bool) (who pa n : Nat) : Option (Cause × Nat) :=
  s.storeCheckFrom core plain who pa n (n / 16 + 2) (pa / 16)

/-- Whether some granule of a read is a header (R291). -/
def State.readsHeader (s : State) (pa n : Nat) : Bool :=
  (List.range (n / 16 + 2)).any fun k =>
    decide (16 * (pa / 16 + k) < pa + n) && s.granAt (16 * (pa / 16 + k)) == 7

end Sys2Proof.Machine
end

