-- ==== Sys2Proof/Machine/Access.lean ====
section
/-! DEFINITION. Accesses by a thread at a generic address (12_memory R249 to R252, R261, R269 to R275; 13_object R285,
R298; 17_page R371 to R375): the checks of R7, and what a load, a store and an atomic then do. -/

namespace Sys2Proof.Machine

open Sys2Proof

/-- An address by its aperture (Table 12.1). -/
inductive Ap where
  | glob (va : Nat)
  | stack (off : Nat)
  | scratch (win off : Nat)
deriving DecidableEq, Repr

/-- R249. -/
def aperture (a : Nat) : Option Ap :=
  if a / 2 ^ 56 == 0 then some (.glob (a % 2 ^ 56))
  else if a / 2 ^ 56 == 0xFE then some (.stack (a % 2 ^ 56))
  else if a / 2 ^ 56 == 0xFF then
    (if bits a 55 32 != 0 then none else some (.scratch (bits a 31 28) (bits a 27 0)))
  else none

/-- Where an access goes once its aperture, alignment and bound are checked. -/
inductive Place where
  | glob (va : Nat)
  | row (h : Home) (off : Nat)
deriving DecidableEq, Repr

/-- The allocation of a home. -/
def State.allocAt (s : State) : Home → Option Alloc
  | .scratch g => (s.gangs.find g).map (·.scratch)
  | .stack g => (s.gangs.find g).map (·.stack)
  | .window i => (s.insts.find i).bind (·.window)

def State.setAllocAt (s : State) (h : Home) (a : Alloc) : State :=
  match h with
  | .scratch g => s.updGang g fun x => { x with scratch := a }
  | .stack g => s.updGang g fun x => { x with stack := a }
  | .window i => s.updInst i fun x => { x with window := some a }

/-- The home of a scratch window of a gang; none when it is unmapped (R250). -/
def State.windowHome (s : State) (gid w : Nat) : Option Home :=
  match s.gangs.find gid with
  | none => none
  | some g =>
    if w == 0 then (if g.scratch.pages == 0 then none else some (.scratch gid))
    else if 4 < w then none
    else
      match g.grp.getD (w - 1) none with
      | none => none
      | some i =>
        match s.insts.find i with
        | some x => if x.span then none else x.window.map fun _ => .window i
        | none => none

/-- The bytes of a window. -/
def State.homeSize (s : State) (h : Home) : Nat :=
  match s.allocAt h, h with
  | some a, .stack _ => 128 * a.pages
  | some a, _ => 4096 * a.pages
  | none, _ => 0

/-- The bound check of a range in a window or stack segment (R249, R250). -/
def State.bound (s : State) (gid : Nat) (a : Ap) (n : Nat) : Except Cause Place :=
  match a with
  | .glob va => .ok (.glob va)
  | .stack off => if off + n ≤ s.homeSize (.stack gid) then .ok (.row (.stack gid) off) else .error .stkbound
  | .scratch w off =>
    match s.windowHome gid w with
    | none => .error .spbound
    | some h => if off + n ≤ s.homeSize h then .ok (.row h off) else .error .spbound

/-- The first three checks of R7 for `n` bytes at `a`, aligned to `al`. -/
def checkMem (a n al : Nat) : M Place := do
  let t ← curT
  match aperture a with
  | none => trap .addr a
  | some p =>
    if a % al != 0 then trap .addr a
    else
      match (← get).bound (gidOf t) p n with
      | .ok q => pure q
      | .error c => trap c a

/-! ## Scratch and stack bytes -/

/-- The byte places of a range in a home, for a lane. -/
def placesIn (h : Home) (lane off n : Nat) : List (Nat × Nat) :=
  match h with
  | .stack _ => places true lane off n
  | _ => places false lane off n

/-- An uncorrectable word or row of the operand store, read at address `v`: it is counted in osunc, and MEMERR raised (R401, R402). -/
def rowError {α : Type} (v : Nat) : M α := do
  let t ← curT
  modify fun s => s.ecount (dieOfCore (coreOf t)) 1 1
  throw (.memerr v)

/-- The rows of an access, a read or a write, whose metadata has an uncorrectable error (R242): the access raises MEMERR, with the address
that `f` gives the place. -/
def meetAt (h : Home) (al : Alloc) (ps : List (Nat × Nat)) (f : Nat → Nat) : M Unit := do
  let no := (← get).curNo
  match al.struckAt no ps with
  | some i => do
    modify fun s => s.setAllocAt h (al.meet no ps)
    rowError (f i)
  | none => pure ()

/-- The same for the places of consecutive bytes from address `a`. -/
def meetRows (h : Home) (al : Alloc) (ps : List (Nat × Nat)) (a : Nat) : M Unit := meetAt h al ps fun i => a + i

/-- R401: a read on a core corrects and counts the correctable errors of the words it reads, given by masks of rows. -/
def State.cureRows (s : State) (core : Nat) (h : Home) (ms : List (Nat × Nat)) : State :=
  match s.allocAt h with
  | some a => if a.softAt ms then (s.setAllocAt h (a.cure ms)).ecount (dieOfCore core) 0 (a.softCount - (a.cure ms).softCount) else s
  | none => s

/-- Read bytes of a window or stack segment (R232, R234, R242, R401); `a` is the generic address. -/
def readRow (h : Home) (off n a : Nat) : M Nat := do
  let t ← curT
  let tick ← now
  match (← get).allocAt h with
  | none => trap .spbound a
  | some al =>
    let ps := placesIn h (laneOf t) off n
    meetRows h al ps a
    let sc := scanPlaces al tick ps 0
    match sc.expired with
    | some i => trap .expired (a + i)
    | none =>
      match sc.memerr with
      | some i => rowError (a + i)
      | none => do
        if sc.lapse then setLapf
        modify fun s => s.cureRows (coreOf t) h (wordsAt ps)
        pure (leNat (readPlaces al tick ps))

/-- The places of a write whose rows are not written whole (R235). -/
def partialPlaces (h : Home) (off n : Nat) (ps : List (Nat × Nat)) : List (Nat × Nat) :=
  match h with
  | .stack _ => ps
  | _ => ps.filter fun p => !fullRow off n p.1

/-- The offset in a range of the first byte that lies at a place, for the address of a failing row. -/
def offsetOf (ps : List (Nat × Nat)) (p : Nat × Nat) : Nat := (ps.findIdx? (· == p)).getD 0

/-- The checks of a write of bytes (Table 11.2): none, or the stop it meets. -/
def rowWriteStop (al : Alloc) (tick a : Nat) (ps part : List (Nat × Nat)) : Option Stop :=
  let sc := scanPlaces al tick part 0
  match sc.expired with
  | some i => some (.trap .expired (a + offsetOf ps (part.getD i (0, 0))))
  | none =>
    match sc.memerr with
    | some i => some (.memerr (a + offsetOf ps (part.getD i (0, 0))))
    | none => none

/-- Write bytes of a window or stack segment (R235). -/
def writeRow (h : Home) (off n a v : Nat) : M Unit := do
  let t ← curT
  let tick ← now
  match (← get).allocAt h with
  | none => trap .spbound a
  | some al =>
    let ps := placesIn h (laneOf t) off n
    let part := partialPlaces h off n ps
    meetRows h al ps a
    match rowWriteStop al tick a ps part with
    | some (.memerr v) => rowError v
    | some e => throw e
    | none => do
      if (scanPlaces al tick part 0).lapse then setLapf
      modify fun s => s.setAllocAt h (writePlaces al tick ps (leBytes n v) [])

/-! ## The side log (R372, R375) -/

/-- Put an access of a thread into the side log (R372); the thread waits when a new entry is needed and none is free. `fail` is the cause of
a fault that has failed at once, `brk` says that the access is past its data breakpoints. -/
def enterLog (op : SlOp) (va n data tags : Nat) (seq : Option Nat) (fail : Option Cause) (brk : Bool) : M Unit := do
  let t ← curT
  let g ← gang
  let th ← thread
  let no := (← get).curNo
  let line := va / 128
  let acc : SlAcc := { lane := laneOf t, lin := th.lin, va := va, n := n, data := data, tags := tags }
  if g.slog.any fun e => e.mark == no && e.line == line && e.op == op then
    modify fun s => s.updGang (gidOf t) fun x => { x with slog := x.slog.map fun e =>
      if e.mark == no && e.line == line && e.op == op then { e with accs := e.accs ++ [acc], brk := e.brk && brk } else e }
  else if 16 ≤ g.slog.length then waitFor (.slogRoom line)
  else
    modify fun s => s.updGang (gidOf t) fun x =>
      { x with slog := x.slog ++ [{ id := x.slNext, line := line, op := op, accs := [acc], mark := no, seq := seq,
                                    fail := fail.map (·, none), asked := false, brk := brk }],
               slNext := x.slNext + 1 }

/-- The data breakpoints of an access that the log takes or answers: where R7's translation passes now, a hit ends the instruction; whether
it does (R409). -/
def logBrk (need : Need) (a n : Nat) (ld st : Bool) : M Bool := do
  let t ← curT
  let g ← gang
  match ((← get).xlate (dieOfCore (coreOf t)) g.ctx a need).1 with
  | .ok .. => do
    checkBrk a n ld st
    pure true
  | _ => pure false

/-- A translation fault of an access that the log takes (R371, R372): its record is written where records are kept and there is
room, and the entry waits for it; where records are off the fault fails at once (R369), and the entry with it; with the ring full the entry
meets its fault again at its replay. -/
def faultLog (op : SlOp) (va n data tags k l : Nat) : M Unit := do
  let t ← curT
  let g ← gang
  match (← get).raiseFault g.ctx (coreOf t) va k l with
  | (.hold q, s) => do
    set s
    enterLog op va n data tags (some q) none false
  | (.fail, s) => do
    set s
    enterLog op va n data tags none (some (kindCause k)) false
  | (.ring, _) => enterLog op va n data tags none none false

/-- Whether the log holds an entry in the 64 KiB region of an address. -/
def Gang.logRegion (g : Gang) (va : Nat) : Bool := g.slog.any fun e => e.line / 512 == va / 65536

/-- Whether an access of the log meets a byte range. -/
def SlAcc.meets (x : SlAcc) (va n : Nat) : Bool := decide (x.va < va + n) && decide (va < x.va + x.n)

/-- The entries that a range overlaps. -/
def Gang.logOverlap (g : Gang) (va n : Nat) : List SlEntry := g.slog.filter fun e => e.accs.any fun x => x.meets va n

/-- The newest logged byte at an address, by entry and within an entry by highest lane; none when no store holds it. -/
def Gang.logByte (g : Gang) (va : Nat) : Option Nat :=
  g.slog.foldl (fun r e =>
    match e.op with
    | .store .. =>
      (e.accs.foldl (fun (q : Option (Nat × Nat)) x =>
        if x.meets va 1 && (match q with | some (l, _) => decide (l ≤ x.lane) | none => true) then
          some (x.lane, x.data / 2 ^ (8 * (va - x.va)) % 256) else q) none).map (·.2) |>.orElse fun _ => r
    | _ => r) none

/-- The bytes of a range when stores of the log hold every one of them. -/
def Gang.logBytes (g : Gang) (va : Nat) : Nat → Option Nat
  | 0 => some 0
  | n + 1 =>
    match g.logByte va, g.logBytes (va + 1) n with
    | some b, some r => some (b + 256 * r)
    | _, _ => none

/-- What the log does to a load (R375): nothing, an answer, or the thread is held. -/
def logLoad (va n : Nat) (fwd : Bool) : M (Option Nat) := do
  let g ← gang
  let es := g.logOverlap va n
  if es == [] then pure none
  else
    let plainOnly := es.all fun e => match e.op with | .store .. => true | _ => false
    match g.logBytes va n with
    | some v => if fwd && plainOnly then pure (some v) else waitFor (.slogSeqs (es.map (·.id)) va)
    | none => waitFor (.slogSeqs (es.map (·.id)) va)

/-! ## Acquire and release (R261) -/

/-- An acquire at a scope. -/
def acquireAt (sc : Nat) : M Unit := do
  if 3 ≤ sc then do
    let t ← curT
    modify fun s => s.acquire (coreOf t)

/-- Raise a cause that something else has met for the thread. -/
def raise {α : Type} (c : Cause) (v : Nat) : M α := if c == .memerr then throw (.memerr v) else trap c v

/-- The failed side-log entry of the thread is reported (R374). -/
def reportFail : M Unit := do
  match (← thread).slFail with
  | some (c, v) => do
    modThread fun th => { th with slFail := none }
    raise c v
  | none => pure ()

/-- A release at device or system scope, as it issues, reports what the side log left (R374); what fails while it waits for the log is for
the next report point (R451), but at a FENCE or EXIT. -/
def reportLog (sc : Nat) : M Unit := do
  if 3 ≤ sc then do
    match (← thread).cont with
    | .drained => pure ()
    | _ => reportFail

/-- Where the names of threads end that a request may bear: a request for the host, which the bridge sends on, bears this (R393). -/
def hostReq : Nat := 2 ^ 31

/-- Whether some remote store is not yet acknowledged; the host's own are not the device's (log entry 114). -/
def State.unacked (s : State) : Bool := s.remops.any fun e => e.2.posted && decide (e.2.t < hostReq)

/-- A release waits: it has reported what the side log left. What a walk has counted stays with the thread. -/
def releaseWait (w : Wait) : M Unit := do
  modThread fun th => { th with cont := match th.cont with | .tok n => .tok n | _ => .drained }
  waitFor w

/-- A release at a scope (R261, R262, R263): at every scope but that of the thread, the stores that stand in the gang's side log are
performed first (log entry 108 for group and core scope); at device and system scope the dirty raw lines are cleaned; and at system scope the
remote stores of the thread, and those that other threads, of whichever context, have made before it, are acknowledged (log entry 82). -/
def releaseAt (sc : Nat) : M Unit := do
  if 1 ≤ sc then do
    let t ← curT
    let g ← gang
    if g.slog != [] then releaseWait .slogEmpty
    if sc == 4 && (← get).unacked then releaseWait .posted
    if 3 ≤ sc then modify fun s => s.cleanRaw (coreOf t)

/-! ## Remote memory (R270, R387, R395) -/

/-- Host memory stands beside the local memory at this key (log entry 22). -/
def hostKey (pa : Nat) : Nat := 2 ^ 60 + pa

/-- A request goes out to a peer, under the next request tag and the next end-to-end number. -/
def State.askPeer (s : State) (dev ty : Nat) (r : RemOp) (payload : Nat → Nat) : State :=
  { s with remNext := s.remNext + 1, remops := s.remops.put s.remNext { r with eseq := (s.esend.find dev).getD 0 } }.sendReq
    dev r.ctx ty (payload (s.remNext % 65536))

/-- A request whose answer the thread waits for: the answer's data and tag bits. `no` and `word` name the issue and the
word of an atomic, so that later lanes may join its flit. -/
def remoteAskAt (no word dev ty va : Nat) (tagged : Bool) (payload : Nat → Nat) : M (Nat × Nat) := do
  let t ← curT
  let th ← thread
  let g ← gang
  match th.cont with
  | .resp 0 _ d tg => pure (d, tg)
  | .resp 1 _ _ _ => trap .remote va
  | .resp _ c _ _ => raise (Cause.ofCode c) va
  | _ =>
    let s ← get
    if s.lostDev dev then trap .remote va
    else
      set (s.askPeer dev ty { dev := dev, t := t, kern := g.kern, ctx := g.ctx, posted := false, eseq := 0, va := va, fetch := false,
                              slog := false, tagged := tagged, issue := no, word := word, more := [] } payload)
      waitFor (.remote s.remNext)

/-- The same without a word to join. -/
def remoteAsk (dev ty va : Nat) (tagged : Bool) (payload : Nat → Nat) : M (Nat × Nat) := remoteAskAt 0 0 dev ty va tagged payload

/-- A posted write to a peer (R270, R386): one to a lost device is dropped and counted; the tag bits of a page that this device's tables
hold untagged are discarded (R283). -/
def State.remoteWrite (s : State) (t kern c pa pte va n v tags : Nat) : State :=
  if s.lostDev (pteDev pte) then s.updKernel kern fun k => { k with lost := true }
  else
    let o := pa % 128
    let tg := if bit pte 55 then tags else 0
    s.askPeer (pteDev pte) 2 { dev := pteDev pte, t := t, kern := kern, ctx := c, posted := true, eseq := 0, va := va, fetch := false,
                               slog := false, tagged := bit pte 55, issue := 0, word := 0, more := [] }
      fun tag => writePayload (pa - o) (ones n * 2 ^ o) (tg * 2 ^ (o / 8)) (v * 2 ^ (8 * o)) tag 0

/-- A read of a peer: `n` bytes at `pa` within one sector. -/
def remoteRead (dev pa va n : Nat) (tagged : Bool) : M Got := do
  let (d, tg) ← remoteAsk dev 1 va tagged fun tag => pa / 32 * 32 + 2 ^ 64 * 1 + 2 ^ 72 * tag
  pure ⟨d / 2 ^ (8 * (pa % 32)) % 2 ^ (8 * n), tg / 2 ^ (pa % 32 / 8) % 2 ^ wordsOf pa n, none⟩

/-- Whether the current instruction has been given a peer's answer. -/
def answered : M Bool := do
  match (← thread).cont with
  | .resp .. => pure true
  | _ => pure false

/-- The host's memory is reached through the bridge (R395). -/
def hostCheck (va : Nat) : M Unit := do
  if (← get).hostUp then pure () else trap .remote va

/-- The bit of an atomic flit's order byte that marks a RED, which is answered by its status only (R382). DESIGN CHOICE (log entry 95): the
spec gives no field that tells a RED from an ATOM. -/
def redMark : Nat := 7

/-- The order byte of a RED. -/
def redOrder (rel : Bool) : Nat := (if rel then 2 else 0) + 2 ^ redMark

/-- The payload of an atomic flit of one lane (Table 18.3, R382). -/
def atomPayload (pa op ord opnd cmpv tag : Nat) : Nat :=
  pa + 2 ^ 64 * op + 2 ^ 72 * ord + 2 ^ 80 * 1 + 2 ^ 96 * tag + 2 ^ 128 * opnd + 2 ^ (8 * 144) * cmpv

/-- The most lanes of one atomic flit (R382). -/
def atomLimit (op : Nat) : Nat := if op == 13 then 8 else if op == 10 || op == 11 || op == 12 then 16 else 32

/-- The bytes of one lane's operand in an atomic flit. -/
def atomBytes (op : Nat) : Nat := if op == 10 || op == 11 || op == 13 then 8 else 4

/-- The payload with a further lane, the `n`-th from 0. -/
def addLane (p op n opnd cmpv : Nat) : Nat :=
  p + 2 ^ 80 + 2 ^ (128 + 8 * atomBytes op * n) * opnd + 2 ^ (8 * 144 + 8 * atomBytes op * n) * cmpv

/-- Whether a request of the same instruction for the same word of device `dev` has not gone out and has room for a further lane
(R382). -/
def State.joinable (s : State) (no word dev op : Nat) (r : RemOp) : Bool :=
  r.dev == dev && r.issue == no && r.word == word && !r.posted && !r.fetch && decide (r.more.length + 1 < atomLimit op)
  && s.outq.any fun (f : Flit) => f.dst == dev && f.ty == 3 && f.eseq == r.eseq

/-- A further lane joins the waiting request `id`. -/
def State.joinAtomic (s : State) (id t op opnd cmpv : Nat) (r : RemOp) : State :=
  { s with
    remops := s.remops.put id { r with more := r.more ++ [t] },
    outq := s.outq.map fun (f : Flit) => if f.dst == r.dev && f.eseq == r.eseq && f.ty == 3 then
      { f with payload := addLane f.payload op (r.more.length + 1) opnd cmpv } else f }

/-- What tells the word of an atomic request, for further lanes to join. -/
def atomWord (pa op : Nat) : Nat := 16 * (pa + 1) + op

/-- A remote atomic of the current thread (R382): it joins the flit of an earlier lane of the same instruction for the same
word while that flit has room, else it takes a flit of its own. -/
def askAtomic (pte pa va op ord opnd cmpv : Nat) : M (Nat × Nat) := do
  let t ← curT
  let th ← thread
  let s ← get
  match s.remops.find? fun e => (th.cont == .none || th.cont == .drained) && s.joinable s.curNo (atomWord pa op) (pteDev pte) op e.2 with
  | some (id, r) => do
    if s.lostDev (pteDev pte) then trap .remote va
    modify fun s => s.joinAtomic id t op opnd cmpv r
    waitFor (.remote id)
  | none => remoteAskAt s.curNo (atomWord pa op) (pteDev pte) 3 va (bit pte 55) fun tag => atomPayload pa op ord opnd cmpv tag

/-- One lane of a logged RED to a peer (R373, R382): it asks as the original access would have, lanes of one word in one flit; the entry
waits for the answers. `no` names the entry. -/
def State.askRed (s : State) (no t kern c pa pte va op ord v : Nat) : State :=
  match s.remops.find? fun e => e.2.slog && s.joinable no (atomWord pa op) (pteDev pte) op e.2 with
  | some (id, r) => s.joinAtomic id t op v 0 r
  | none =>
    s.askPeer (pteDev pte) 3 { dev := pteDev pte, t := t, kern := kern, ctx := c, posted := false, eseq := 0, va := va, fetch := false,
                               slog := true, tagged := bit pte 55, issue := no, word := atomWord pa op, more := [] }
      fun tag => atomPayload pa op ord v 0 tag

/-! ## References (R285, R298) -/

/-- The header fields of Table 13.2. -/
def hdrScope (h : Nat) : Nat := bits h 55 53
def hdrMagic (h : Nat) : Nat := bits h 63 56
def hdrLen (h : Nat) : Nat := h % 2 ^ 32
def hdrOwner (h : Nat) : Nat := bits h 52 38
/-- The walk identifier: wser, wdev and wcore. -/
def hdrWalk (h : Nat) : Nat := bits h 90 64

/-- Whether the 16 bytes at `pa` are the header of a live object (R285). -/
def State.liveHeader (s : State) (pa : Nat) : Bool :=
  let h := s.phys 16 pa
  s.granAt pa == 7 && hdrMagic h == 0xA7 && !(5 ≤ hdrScope h)

/-- Validate a reference (R285): the physical address of its header, and the header, which is read first (R400, R401). -/
def validateRef (r : Nat) (need : Need) : M (Nat × Nat) := do
  if r / 2 ^ 56 != 0 || r % 16 != 0 then trap .addr r
  else
    let (pa, pte) ← xlate r need
    let s ← get
    if pteLink pte != 0 then trap .access r
    else if !bit pte 55 then trap .addr r
    else do
      set (s.noteRead pa 16)
      match s.firstPoison pa 16 0 with
      | some i => throw (.memerr (r + i))
      | none => if s.liveHeader pa then pure (pa, s.phys 16 pa) else trap .addr r

/-- The walk identifier of a serial of a core's walker. -/
def State.markOf (s : State) (core ser : Nat) : Nat := ser * 2 ^ 15 + s.devnum * 2 ^ 9 + core

/-- A walk of `r` to scope `sc` for thread `t` joins the queue of its core's walker (R293); `ser` is the serial of a walk that
is resumed, in a new pass of a root that it has claimed (R297). -/
def State.queueWalk (s : State) (t c r sc hdr : Nat) (ser : Option Nat) (log : Bool) : State :=
  let x := s.core (coreOf t)
  let n := ser.getD x.serial
  let w : Walk := { id := s.walkNext, t := t, ctx := c, root := r, scope := sc, serial := n,
                    pass := if ser.isSome && hdrWalk hdr == s.markOf (coreOf t) n then bits hdr 127 96 + 1 else 1, count := 0,
                    disc := false, stack := [], fresh := true, log := log, held := none, fail := none, blk := none, claim := none,
                    job := none }
  { s with walkNext := s.walkNext + 1 }.setCore (coreOf t)
    { x with walkq := x.walkq ++ [w], serial := if ser.isSome then x.serial else (x.serial + 1) % 4096 }

/-- An operation over an object's range for thread `t` joins the same queue (R299). -/
def State.queueJob (s : State) (t c r : Nat) (j : RangeJob) : State :=
  let x := s.core (coreOf t)
  let w : Walk := { id := s.walkNext, t := t, ctx := c, root := r, scope := 0, serial := 4096, pass := 1, count := 0, disc := false, stack := [],
                    fresh := true, log := false, held := none, fail := none, blk := none, claim := none, job := some j }
  { s with walkNext := s.walkNext + 1 }.setCore (coreOf t) { x with walkq := x.walkq ++ [w] }

/-- Whether a thread resumes the walk that claimed an object with a header: `swp` names it (R297). -/
def State.resumes (s : State) (t : Nat) (th : Thread) (h : Nat) : Bool :=
  th.swpAct && hdrWalk h == s.markOf (coreOf t) th.swpIter

/-- Ask the core's Brass walker for a walk of `r` to scope `sc` (R293), and wait for it. A thread whose `swp` names a walk
resumes it. -/
def askWalk {α : Type} (r sc : Nat) (hdr : Nat) : M α := do
  let t ← curT
  let th ← thread
  let g ← gang
  let id := (← get).walkNext
  modify fun s => s.queueWalk t g.ctx r sc hdr (if th.swpAct then some th.swpIter else none) false
  waitFor (.walk id)

/-- The escape check of one word (R298): `v` is the reference stored at `pa`, `a` the store's address; `walk` asks for the
walk of auto mode. A store that resumes after its walk trapped resumes that walk (R297): `resumed` tells it by its root's header. -/
def escapeWord (walk : Nat → Nat → Nat → M Unit) (resumed : Nat → Bool) (pa v a : Nat) : M Unit := do
  let s ← get
  let gr := s.granAt pa
  if 3 ≤ gr && gr ≤ 6 then do
    let (_, h) ← validateRef v .load
    let x ← curCtx
    if hdrScope h < gr - 2 || (resumed h && x.escm) then
      if x.escm then walk v (gr - 2) h else trap .escape a

/-- The escape checks of a store's words, lowest first. -/
def escapeCheck (walk : Nat → Nat → Nat → M Unit) (resumed : Nat → Bool) (pa v tags a : Nat) : Nat → M Unit
  | 0 => pure ()
  | k + 1 => do
    if tags % 2 == 1 then escapeWord walk resumed pa (v % 2 ^ 64) a
    escapeCheck walk resumed (pa + 8) (v / 2 ^ 64) (tags / 2) a k

/-- The object checks of a store (R289, R298) on a local page. -/
def objectCheckWith (walk : Nat → Nat → Nat → M Unit) (resumed : Nat → Bool) (plain : Bool) (pa pte a n v tags : Nat) : M Unit := do
  let t ← curT
  if bit pte 55 then do
    let s ← get
    match s.storeCheck (coreOf t) plain (s.ownerOf (coreOf t)) pa n with
    | some (c, o) => trap c (a + o)
    | none => if plain then pure () else escapeCheck walk resumed pa v tags a (wordsOf pa n)

/-- The object checks of the current thread's store. -/
def objectCheck (plain : Bool) (pa pte a n v tags : Nat) : M Unit := do
  let t ← curT
  let th ← thread
  let s ← get
  objectCheckWith (fun r sc h => askWalk r sc h) (s.resumes t th) plain pa pte a n v tags

/-! ## Loads -/

/-- A local read of a class (R256, R291): a header granule is read as a shared-class load. -/
def State.readClass (s : State) (core : Nat) (cls : AccClass) (pa pte n : Nat) : Got × State :=
  let hdr := bit pte 55 && s.readsHeader pa n
  let (g, s) := if cls == .plain && !hdr then s.plainRead core pa n (bit pte 55) else s.sharedRead core pa n
  (if bit pte 55 then g else { g with tags := 0 }, s)

/-- A global read of the current thread after translation: local, of a peer, or of host memory. -/
def readGlobal (cls : AccClass) (pa pte va n : Nat) : M Got := do
  let t ← curT
  if pteLink pte == 0 then do
    let (g, s) := (← get).readClass (coreOf t) cls pa pte n
    set s
    match g.poison with
    | some i => throw (.memerr (va + i))
    | none => pure g
  else if pteLink pte == 1 then remoteRead (pteDev pte) pa va n (bit pte 55)
  else do
    hostCheck va
    pure ⟨(← get).phys n (hostKey pa), 0, none⟩

/-- A load of `n` bytes (R273): the value, the tag bits of its words, and whether it came from global memory. -/
def loadMem (a n : Nat) (fwd acq : Bool) (sc : Nat) (cls : AccClass) : M (Got × Bool) := do
  let p ← checkMem a n n
  match p with
  | .row h off => do
    checkBrk a n true false
    if acq then acquireAt sc
    let v ← readRow h off n a
    pure (⟨v, 0, none⟩, false)
  | .glob va => do
    if ← answered then
      let g ← remoteRead 0 va va n true
      if acq then acquireAt sc
      pure (g, true)
    else
    match ← logLoad va n fwd with
    | some v => do
      let _ ← logBrk .load a n true false
      if acq then acquireAt sc
      pure (⟨v, 0, none⟩, true)
    | none => do
      let (pa, pte) ← xlate va .load
      checkBrk a n true false
      if acq && sc == 4 && pteLink pte != 0 then trap .access a
      if acq then acquireAt sc
      let g ← readGlobal cls pa pte va n
      pure (g, true)

/-! ## Stores -/

/-- A local store of a class on behalf of a context (R255, R256). -/
def State.writeClass (s : State) (core c : Nat) (cls : AccClass) (pa pte n v tags : Nat) : State :=
  if cls == .plain then s.plainWrite core c pa n v tags (bit pte 55)
  else s.sharedWrite core c pa n v tags (bit pte 55)

/-- A store of `n` bytes (R273, R289, R298, R372). -/
def storeMem (a n v tags : Nat) (rel : Bool) (sc : Nat) (cls : AccClass) : M Unit := do
  if rel then reportLog sc
  let p ← checkMem a n n
  let t ← curT
  match p with
  | .row h off => do
    checkBrk a n false true
    if rel then releaseAt sc
    writeRow h off n a v
  | .glob va => do
    let g ← gang
    let op := SlOp.store cls rel sc
    if g.logRegion va || (rel && g.slog != []) then do
      let b ← logBrk .store a n false true
      enterLog op va n v tags none none b
    else do
      let (r, s') := (← get).xlate (dieOfCore (coreOf t)) g.ctx va .store
      set s'
      match r with
      | .access => trap .access a
      | .memerr => throw (.memerr a)
      | .remote => enterLog op va n v tags none none false
      | .fault k l =>
        faultLog op va n v tags k l
      | .ok pa pte => do
        checkBrk a n false true
        if rel && sc == 4 && pteLink pte != 0 then trap .access a
        if pteLink pte == 0 then objectCheck (cls == .plain) pa pte a n v tags
        if isHost pte pa then hostCheck va
        if rel then releaseAt sc
        if pteLink pte == 0 then modify fun s => s.writeClass (coreOf t) g.ctx cls pa pte n v tags
        else if pteLink pte == 1 then modify fun s => s.remoteWrite t g.kern g.ctx pa pte va n v tags
        else modify fun s => s.physSet g.ctx n (hostKey pa) v

/-! ## Atomics -/

/-- The bytes of an atomic operation. -/
def atomSize : AtomOp → Nat | .add64 => 8 | .exch64 => 8 | _ => 4

/-- Table 12.6. -/
def atomApply (op : AtomOp) (old v : Nat) : Nat :=
  match op with
  | .add => (old + v) % 2 ^ 32
  | .fadd => (Sys2Proof.Machine.fadd .f32 0 false old v).1
  | .smin => if sext old 32 ≤ sext v 32 then old else v
  | .smax => if sext old 32 ≤ sext v 32 then v else old
  | .zmin => min old v
  | .zmax => max old v
  | .and => Nat.land old v
  | .or => Nat.lor old v
  | .xor => Nat.xor old v
  | .exch => v
  | .add64 => (old + v) % 2 ^ 64
  | .exch64 => v

/-- Whether an atomic is one that host memory takes (R395). -/
def atomHosted : AtomOp → Bool
  | .add => true | .add64 => true | .exch => true | .exch64 => true | _ => false

/-- A read-modify-write at the placement point (R269): group and core scope in the column cache, wider at home. -/
def State.atomLocal (s : State) (core c sc pa pte n : Nat) (f : Nat → Option (Nat × Nat)) : Got × State :=
  if sc ≤ 2 then
    let (g, s) := s.plainRead core pa n (bit pte 55)
    let g := if bit pte 55 then g else { g with tags := 0 }
    match g.poison, f g.v with
    | none, some (v, tg) => (g, s.plainWrite core c pa n v tg (bit pte 55))
    | _, _ => (g, s)
  else
    let (g, s) := s.sharedRead core pa n
    let g := if bit pte 55 then g else { g with tags := 0 }
    match g.poison, f g.v with
    | none, some (v, tg) => (g, s.sharedWrite core c pa n v tg (bit pte 55))
    | _, _ => (g, s)

/-- An atomic of `n` bytes that returns the old value (R274, R275). `f` gives the new value and its tag bit, or none when
nothing is written; `v` and `tag` are the value a store check judges; `ask` sends it to a peer, by the PTE and the address, and `host` says that host
memory takes it. -/
def atomMem (a n sc : Nat) (acq rel : Bool) (f : Nat → Option (Nat × Nat)) (v tag : Nat) (host : Bool)
    (ask : Nat → Nat → M (Nat × Nat)) : M (Got × Bool) := do
  if rel then reportLog sc
  let p ← checkMem a n n
  let t ← curT
  match p with
  | .row h off => do
    checkBrk a n true true
    if rel then releaseAt sc
    if acq then acquireAt sc
    let old ← readRow h off n a
    match f old with
    | some (w, _) => writeRow h off n a w
    | none => pure ()
    pure (⟨old, 0, none⟩, false)
  | .glob va => do
    if ← answered then
      let (d, tg) ← ask 0 va
      if acq then acquireAt sc
      pure (⟨d % 2 ^ (8 * n), tg % 2, none⟩, true)
    else
    let _ ← logLoad va n false
    let g ← gang
    let (pa, pte) ← xlate va .rmw
    checkBrk a n true true
    if pteLink pte == 0 then objectCheck false pa pte a n v tag
    else if isHost pte pa then do
      hostCheck va
      if !host || !(← get).hostAtomics then trap .access a
    if rel then releaseAt sc
    if acq then acquireAt sc
    if pteLink pte == 0 then do
      let (o, s) := (← get).atomLocal (coreOf t) g.ctx sc pa pte n f
      set s
      match o.poison with
      | some i => throw (.memerr (va + i))
      | none => pure (o, true)
    else if pteLink pte == 1 then do
      let (d, tg) ← ask pte pa
      pure (⟨d % 2 ^ (8 * n), tg % 2, none⟩, true)
    else do
      let old := (← get).phys n (hostKey pa)
      match f old with
      | some (w, _) => modify fun s => s.physSet g.ctx n (hostKey pa) w
      | none => pure ()
      pure (⟨old, 0, none⟩, true)

/-- What an order does (R261). -/
def orderAcq : Order → Bool | .acq => true | .acqrel => true | _ => false
def orderRel : Order → Bool | .rel => true | .acqrel => true | _ => false

/-- RED (R274): like a store it enters the side log, and it answers nothing. -/
def redMem (op : AtomOp) (a v sc : Nat) (rel : Bool) : M Unit := do
  let n := atomSize op
  if rel then reportLog sc
  let p ← checkMem a n n
  let t ← curT
  let f := fun old => some (atomApply op old v, 0)
  match p with
  | .row h off => do
    checkBrk a n true true
    if rel then releaseAt sc
    let old ← readRow h off n a
    writeRow h off n a (atomApply op old v)
  | .glob va => do
    if ← answered then
      let _ ← askAtomic 0 va va op.code 0 v 0
      pure ()
    else
    let g ← gang
    let e := SlOp.red op sc rel
    if g.logRegion va then do
      let b ← logBrk .store a n true true
      enterLog e va n v 0 none none b
    else do
      let (r, s') := (← get).xlate (dieOfCore (coreOf t)) g.ctx va .store
      set s'
      match r with
      | .access => trap .access a
      | .memerr => throw (.memerr a)
      | .remote => enterLog e va n v 0 none none false
      | .fault k l =>
        faultLog e va n v 0 k l
      | .ok pa pte => do
        checkBrk a n true true
        if pteLink pte == 0 then objectCheck false pa pte a n v 0
        else if isHost pte pa then do
          hostCheck va
          if !atomHosted op || !(← get).hostAtomics then trap .access a
        if rel then releaseAt sc
        if pteLink pte == 0 then do
          let (o, s) := (← get).atomLocal (coreOf t) g.ctx sc pa pte n f
          set s
          match o.poison with
          | some i => throw (.memerr (va + i))
          | none => pure ()
        else if pteLink pte == 1 then do
          let _ ← askAtomic pte pa va op.code (redOrder rel) v 0
        else modify fun s => s.physSet g.ctx n (hostKey pa) (atomApply op (s.phys n (hostKey pa)) v)

end Sys2Proof.Machine
end

