-- ==== Sys2Proof/Machine/Strides.lean ====
section
/-! DEFINITION. Effective register indices (02_instruction_word R32, Table 2.3): which fields carry which stride. -/

namespace Sys2Proof

/-- A form T operand field: a register is strided, a handle is not. -/
def strideOpnd (n : Nat) : TOpnd → TOpnd
  | .reg i => .reg (i + n)
  | .hnd h => .hnd h

/-- The amount of a shift: a register is strided, an immediate is not. -/
def strideAmt (n : Nat) : ShAmt → ShAmt
  | .reg b => .reg (b + n)
  | .imm k => .imm k

/-- The instruction that repetition `r` of a clause with header `hd` issues. -/
def strided (hd : Header) (r : Nat) : Instr → Instr
  | .mov g d a k => .mov g (d + r * hd.sd) (a + r * hd.sa) k
  | .movi g d tag imm => .movi g (d + r * hd.sd) tag imm
  | .iadd g d a b k sg sat => .iadd g (d + r * hd.sd) (a + r * hd.sa) (b + r * hd.sb) k sg sat
  | .iaddi g d a ka sg sat imm => .iaddi g (d + r * hd.sd) (a + r * hd.sa) ka sg sat imm
  | .isub g d a b k sg sat => .isub g (d + r * hd.sd) (a + r * hd.sa) (b + r * hd.sb) k sg sat
  | .imul g d a b k sg => .imul g (d + r * hd.sd) (a + r * hd.sa) (b + r * hd.sb) k sg
  | .imulh g d a b k sg => .imulh g (d + r * hd.sd) (a + r * hd.sa) (b + r * hd.sb) k sg
  | .imad g d a b c k sg sat => .imad g (d + r * hd.sd) (a + r * hd.sa) (b + r * hd.sb) (c + r * hd.sc) k sg sat
  | .imadw g d a b c k sg => .imadw g (d + r * hd.sd) (a + r * hd.sa) (b + r * hd.sb) (c + r * hd.sc) k sg
  | .iadd64 g d a b k sub => .iadd64 g (d + r * hd.sd) (a + r * hd.sa) (b + r * hd.sb) k sub
  | .lea g d a b k sh => .lea g (d + r * hd.sd) (a + r * hd.sa) (b + r * hd.sb) k sh
  | .imin g d a b k sg => .imin g (d + r * hd.sd) (a + r * hd.sa) (b + r * hd.sb) k sg
  | .imax g d a b k sg => .imax g (d + r * hd.sd) (a + r * hd.sa) (b + r * hd.sb) k sg
  | .iabs g d a k sg => .iabs g (d + r * hd.sd) (a + r * hd.sa) k sg
  | .isetp g p a b q k cmp sg comb => .isetp g p (a + r * hd.sa) (b + r * hd.sb) q k cmp sg comb
  | .sel g d a b q k => .sel g (d + r * hd.sd) (a + r * hd.sa) (b + r * hd.sb) q k
  | .shl g d a amt k => .shl g (d + r * hd.sd) (a + r * hd.sa) (strideAmt (r * hd.sb) amt) k
  | .shr g d a amt k => .shr g (d + r * hd.sd) (a + r * hd.sa) (strideAmt (r * hd.sb) amt) k
  | .sar g d a amt k => .sar g (d + r * hd.sd) (a + r * hd.sa) (strideAmt (r * hd.sb) amt) k
  | .rol g d a amt k => .rol g (d + r * hd.sd) (a + r * hd.sa) (strideAmt (r * hd.sb) amt) k
  | .and g d a b k => .and g (d + r * hd.sd) (a + r * hd.sa) (b + r * hd.sb) k
  | .or g d a b k => .or g (d + r * hd.sd) (a + r * hd.sa) (b + r * hd.sb) k
  | .xor g d a b k => .xor g (d + r * hd.sd) (a + r * hd.sa) (b + r * hd.sb) k
  | .bitf g d a b c k fn => .bitf g (d + r * hd.sd) (a + r * hd.sa) (b + r * hd.sb) (c + r * hd.sc) k fn
  | .popc g d a k => .popc g (d + r * hd.sd) (a + r * hd.sa) k
  | .clz g d a k => .clz g (d + r * hd.sd) (a + r * hd.sa) k
  | .brev g d a k => .brev g (d + r * hd.sd) (a + r * hd.sa) k
  | .bfe g d a b k sg => .bfe g (d + r * hd.sd) (a + r * hd.sa) (b + r * hd.sb) k sg
  | .bfi g d a b c k => .bfi g (d + r * hd.sd) (a + r * hd.sa) (b + r * hd.sb) (c + r * hd.sc) k
  | .bsel g d a b c k sx => .bsel g (d + r * hd.sd) (a + r * hd.sa) (b + r * hd.sb) (c + r * hd.sc) k sx
  | .p2v g d k => .p2v g (d + r * hd.sd) k
  | .v2p g a k => .v2p g (a + r * hd.sa) k
  | .fadd g d a b k rm mods => .fadd g (d + r * hd.sd) (a + r * hd.sa) (b + r * hd.sb) k rm mods
  | .fmul g d a b k rm mods => .fmul g (d + r * hd.sd) (a + r * hd.sa) (b + r * hd.sb) k rm mods
  | .ffma g d a b c k rm mods nc => .ffma g (d + r * hd.sd) (a + r * hd.sa) (b + r * hd.sb) (c + r * hd.sc) k rm mods nc
  | .fmin g d a b k mods => .fmin g (d + r * hd.sd) (a + r * hd.sa) (b + r * hd.sb) k mods
  | .fmax g d a b k mods => .fmax g (d + r * hd.sd) (a + r * hd.sa) (b + r * hd.sb) k mods
  | .fsetp g p a b k mods cnd => .fsetp g p (a + r * hd.sa) (b + r * hd.sb) k mods cnd
  | .frnd g d a k rm => .frnd g (d + r * hd.sd) (a + r * hd.sa) k rm
  | .frcp g d a k => .frcp g (d + r * hd.sd) (a + r * hd.sa) k
  | .frsq g d a k => .frsq g (d + r * hd.sd) (a + r * hd.sa) k
  | .fsqrt g d a k rm => .fsqrt g (d + r * hd.sd) (a + r * hd.sa) k rm
  | .fex2 g d a k => .fex2 g (d + r * hd.sd) (a + r * hd.sa) k
  | .flg2 g d a k => .flg2 g (d + r * hd.sd) (a + r * hd.sa) k
  | .fsin g d a k => .fsin g (d + r * hd.sd) (a + r * hd.sa) k
  | .fcos g d a k => .fcos g (d + r * hd.sd) (a + r * hd.sa) k
  | .fclass g d a k => .fclass g (d + r * hd.sd) (a + r * hd.sa) k
  | .hadd2 g d a b k rm h => .hadd2 g (d + r * hd.sd) (a + r * hd.sa) (b + r * hd.sb) k rm h
  | .hmul2 g d a b k rm h => .hmul2 g (d + r * hd.sd) (a + r * hd.sa) (b + r * hd.sb) k rm h
  | .hfma2 g d a b c k rm h => .hfma2 g (d + r * hd.sd) (a + r * hd.sa) (b + r * hd.sb) (c + r * hd.sc) k rm h
  | .dot2 g d a b c k rm h => .dot2 g (d + r * hd.sd) (a + r * hd.sa) (b + r * hd.sb) (c + r * hd.sc) k rm h
  | .cvt g d a b k dt rm sat => .cvt g (d + r * hd.sd) (a + r * hd.sa) (if dt == .bf2 || dt == .h2 then b + r * hd.sb else b) k dt rm sat
  | .qpack g d a b c k rm n4 => .qpack g (d + r * hd.sd) (a + r * hd.sa) (b + r * hd.sb) (c + r * hd.sc) k rm n4
  | .qunpk g d a b c k n4 => .qunpk g (d + r * hd.sd) (a + r * hd.sa) (b + r * hd.sb) (c + r * hd.sc) k n4
  | .tagq g d a k => .tagq g (d + r * hd.sd) (a + r * hd.sa) k
  | .tags g d a k tag => .tags g (d + r * hd.sd) (a + r * hd.sa) k tag
  | .swadd g d a b cnt sd sa sb => .swadd g (d + r * hd.sd) (a + r * hd.sa) (b + r * hd.sb) cnt sd sa sb
  | .swmul g d a b cnt sd sa sb => .swmul g (d + r * hd.sd) (a + r * hd.sa) (b + r * hd.sb) cnt sd sa sb
  | .swfma g d a b cnt sd sa sb => .swfma g (d + r * hd.sd) (a + r * hd.sa) (b + r * hd.sb) cnt sd sa sb
  | .swmax g d a b cnt sd sa sb => .swmax g (d + r * hd.sd) (a + r * hd.sa) (b + r * hd.sb) cnt sd sa sb
  | .swcvt g d a cnt sd sa => .swcvt g (d + r * hd.sd) (a + r * hd.sa) cnt sd sa
  | .swcopy g d a cnt sd sa => .swcopy g (d + r * hd.sd) (a + r * hd.sa) cnt sd sa
  | .swsum g d a cnt sa => .swsum g (d + r * hd.sd) (a + r * hd.sa) cnt sa
  | .swex2 g d a cnt sd sa => .swex2 g (d + r * hd.sd) (a + r * hd.sa) cnt sd sa
  | .ld g d base idx off w acq sc cls => .ld g (d + r * hd.sd) (base + r * hd.sa) (idx + r * hd.sb) off w acq sc cls
  | .st g d base idx off w rel sc cls => .st g (d + r * hd.sd) (base + r * hd.sa) (idx + r * hd.sb) off w rel sc cls
  | .atom g d base idx off op ord sc => .atom g (d + r * hd.sd) (base + r * hd.sa) (idx + r * hd.sb) off op ord sc
  | .cas g d base idx off w64 ord sc => .cas g (d + r * hd.sd) (base + r * hd.sa) (idx + r * hd.sb) off w64 ord sc
  | .red g d base idx off op rel sc => .red g (d + r * hd.sd) (base + r * hd.sa) (idx + r * hd.sb) off op rel sc
  | .cinv g all base idx off => if all then .cinv g all base idx off else .cinv g all (base + r * hd.sa) (idx + r * hd.sb) off
  | .cclean g all base idx off => if all then .cclean g all base idx off else .cclean g all (base + r * hd.sa) (idx + r * hd.sb) off
  | .cpa g d base idx off lgw bt cls => .cpa g (d + r * hd.sd) (base + r * hd.sa) (idx + r * hd.sb) off lgw bt cls
  | .cpb g d base idx off cls => .cpb g (d + r * hd.sd) (base + r * hd.sa) (idx + r * hd.sb) off cls
  | .objinit g d a b k => .objinit g (d + r * hd.sd) (a + r * hd.sa) (b + r * hd.sb) k
  | .publish g d a k sc => .publish g (d + r * hd.sd) (a + r * hd.sa) k sc
  | .pubst g d a b k sc => .pubst g (d + r * hd.sd) (a + r * hd.sa) (b + r * hd.sb) k sc
  | .refmk g d a k => .refmk g (d + r * hd.sd) (a + r * hd.sa) k
  | .objst g d a b k => .objst g (d + r * hd.sd) (a + r * hd.sa) (b + r * hd.sb) k
  | .reclaim g a k => .reclaim g (a + r * hd.sa) k
  | .bara g d bn gs k => .bara g (d + r * hd.sd) bn gs k
  | .barw g a bn gs k => .barw g (a + r * hd.sa) bn gs k
  | .xbinit g a b k => .xbinit g (a + r * hd.sa) (b + r * hd.sb) k
  | .xbarr g d a b k => .xbarr g (d + r * hd.sd) (a + r * hd.sa) (b + r * hd.sb) k
  | .xbwait g a b k => .xbwait g (a + r * hd.sa) (b + r * hd.sb) k
  | .xbtry g p a b k => .xbtry g p (a + r * hd.sa) (b + r * hd.sb) k
  | .lxch g d a b k mode kp => .lxch g (d + r * hd.sd) (a + r * hd.sa) (b + r * hd.sb) k mode kp
  | .pagr g d q k kind => .pagr g (if kind == .mask || kind == .count then d + r * hd.sd else d) q k kind
  | .redg g d a k op => .redg g (d + r * hd.sd) (a + r * hd.sa) k op
  | .scang g d a k op excl => .scang g (d + r * hd.sd) (a + r * hd.sa) k op excl
  | .cdsend g d a cd n k => .cdsend g (d + r * hd.sd) (a + r * hd.sa) cd n k
  | .cdrecv g d a cd k => .cdrecv g (d + r * hd.sd) (a + r * hd.sa) cd k
  | .cdpeek g d a cd k => .cdpeek g (d + r * hd.sd) (a + r * hd.sa) cd k
  | .cdclose g d cd k => .cdclose g (d + r * hd.sd) cd k
  | .launch g d a b k => .launch g (d + r * hd.sd) (a + r * hd.sa) (b + r * hd.sb) k
  | .qsig g d a b k => .qsig g (d + r * hd.sd) (a + r * hd.sa) (b + r * hd.sb) k
  | .cbset g a b k => .cbset g (a + r * hd.sa) (b + r * hd.sb) k
  | .resample g d a b c k opnd => .resample g (d + r * hd.sd) (a + r * hd.sa) (b + r * hd.sb) (c + r * hd.sc) k opnd
  | .pcount g d item k => .pcount g (d + r * hd.sd) item k
  | .grpq g d slot item => .grpq g (d + r * hd.sd) slot item
  | .thdl g hn a => .thdl g hn (a + r * hd.sa)
  | .tmma g gs cv acc A B f16 => .tmma g gs cv acc (strideOpnd (r * hd.sa) A) (strideOpnd (r * hd.sb) B) f16
  | .tmmq g gs cv acc A B n4 => .tmmq g gs cv acc (strideOpnd (r * hd.sa) A) (strideOpnd (r * hd.sb) B) n4
  | .tzero g gs acc src => .tzero g gs acc (src.map (strideOpnd (r * hd.sa)))
  | .tcvt g gs acc a b bf => .tcvt g gs acc (a + r * hd.sa) (b + r * hd.sb) bf
  | .tstore g gs acc H b => .tstore g gs acc (strideOpnd (r * hd.sa) H) (b + r * hd.sb)
  | .tscale g gs acc A B => .tscale g gs acc (strideOpnd (r * hd.sa) A) (strideOpnd (r * hd.sb) B)
  | .mfs g d sp => .mfs g (d + r * hd.sd) sp
  | .mts g a ka sp => .mts g (a + r * hd.sa) ka sp
  | .rnd g d w64 => .rnd g (d + r * hd.sd) w64
  | .spalloc g d a k => .spalloc g (d + r * hd.sd) (a + r * hd.sa) k
  | .spfree g d a k => .spfree g (d + r * hd.sd) (a + r * hd.sa) k
  | .rtouch g d a b k => .rtouch g (d + r * hd.sd) (a + r * hd.sa) (b + r * hd.sb) k
  | .rclass g d a ka cls life => .rclass g (d + r * hd.sd) (a + r * hd.sa) ka cls life
  | .rage g d a k => .rage g (d + r * hd.sd) (a + r * hd.sa) k
  | .trace g a b k => .trace g (a + r * hd.sa) (b + r * hd.sb) k
  | .nop x0 => .nop x0
  | .bra x0 x1 => .bra x0 x1
  | .jmp x0 x1 => .jmp x0 x1
  | .call x0 x1 x2 => .call x0 x1 x2
  | .calli x0 x1 x2 => .calli x0 x1 x2
  | .ret x0 x1 => .ret x0 x1
  | .exit x0 => .exit x0
  | .yield x0 => .yield x0
  | .sleep x0 x1 => .sleep x0 x1
  | .beat x0 => .beat x0
  | .trap x0 x1 => .trap x0 x1
  | .rtt x0 x1 => .rtt x0 x1
  | .bkpt x0 x1 => .bkpt x0 x1
  | .pbitf x0 x1 x2 x3 x4 x5 x6 => .pbitf x0 x1 x2 x3 x4 x5 x6
  | .fence x0 x1 x2 => .fence x0 x1 x2
  | .waitb x0 x1 x2 => .waitb x0 x1 x2
  | .bar x0 x1 x2 x3 => .bar x0 x1 x2 x3
  | .pkill x0 x1 => .pkill x0 x1
  | .tflag x0 x1 x2 => .tflag x0 x1 x2
  | .twait x0 x1 x2 => .twait x0 x1 x2
  | .issueGroupFormation x0 x1 => .issueGroupFormation x0 x1
  | .loadDelivery x0 x1 => .loadDelivery x0 x1
  | .resampleComplete x0 => .resampleComplete x0
  | .conduitRefill x0 => .conduitRefill x0
  | .cpaLanding x0 x1 => .cpaLanding x0 x1
  | .cpbPieceLanding x0 x1 => .cpbPieceLanding x0 x1
  | .tileOpApply x0 x1 => .tileOpApply x0 x1
  | .brassWalk x0 => .brassWalk x0
  | .sideLogReplay x0 => .sideLogReplay x0
  | .columnCacheEviction x0 x1 => .columnCacheEviction x0 x1
  | .unitAdmission x0 => .unitAdmission x0
  | .kernelCompletion x0 => .kernelCompletion x0
  | .packetNop x0 => .packetNop x0
  | .packetKernel x0 => .packetKernel x0
  | .packetSignal x0 => .packetSignal x0
  | .packetWait x0 => .packetWait x0
  | .waitRecheck x0 => .waitRecheck x0
  | .packetDepmap x0 => .packetDepmap x0
  | .depmapRecheck x0 => .depmapRecheck x0
  | .packetInval x0 => .packetInval x0
  | .invalCompletion x0 => .invalCompletion x0
  | .peerFence x0 x1 => .peerFence x0 x1
  | .launchFrame x0 x1 => .launchFrame x0 x1
  | .define x0 => .define x0
  | .ready x0 => .ready x0
  | .halt x0 => .halt x0
  | .resume x0 => .resume x0
  | .desched x0 => .desched x0
  | .kill x0 => .kill x0
  | .queueEnable x0 => .queueEnable x0
  | .queueDisable x0 => .queueDisable x0
  | .notify x0 x1 => .notify x0 x1
  | .faultRetry x0 x1 => .faultRetry x0 x1
  | .faultFail x0 x1 => .faultFail x0 x1
  | .tagwrWrite x0 => .tagwrWrite x0
  | .warmReset x0 => .warmReset x0
  | .dieFlushing x0 => .dieFlushing x0
  | .dieResetting x0 => .dieResetting x0
  | .dieTesting x0 => .dieTesting x0
  | .dieRetraining x0 => .dieRetraining x0
  | .dieUp x0 => .dieUp x0
  | .lmbaseWrite x0 => .lmbaseWrite x0
  | .debugWrite x0 => .debugWrite x0
  | .debugRead => .debugRead
  | .breakpointSet x0 x1 x2 => .breakpointSet x0 x1 x2
  | .mcwinWrite x0 x1 => .mcwinWrite x0 x1
  | .portEnable x0 x1 => .portEnable x0 x1
  | .portDisable x0 => .portDisable x0
  | .routeWrite x0 x1 => .routeWrite x0 x1
  | .registerWrite x0 x1 => .registerWrite x0 x1
  | .tick x0 => .tick x0
  | .rowExpiry x0 x1 => .rowExpiry x0 x1
  | .sleepWake x0 => .sleepWake x0
  | .sliceEnd x0 => .sliceEnd x0
  | .contextReturn x0 => .contextReturn x0
  | .watchdogFire x0 => .watchdogFire x0
  | .budgetFire x0 => .budgetFire x0
  | .traceSample x0 => .traceSample x0
  | .refreshPass x0 => .refreshPass x0
  | .heartbeat x0 => .heartbeat x0
  | .failsafeEntry x0 => .failsafeEntry x0
  | .powerMeasurement x0 => .powerMeasurement x0
  | .operatingPointStable => .operatingPointStable
  | .thermalChange x0 x1 => .thermalChange x0 x1
  | .thermalTrip => .thermalTrip
  | .bridgeModuleLoss x0 => .bridgeModuleLoss x0
  | .coldReset x0 x1 => .coldReset x0 x1
  | .firmwareUpdate x0 x1 => .firmwareUpdate x0 x1
  | .getVersion x0 => .getVersion x0
  | .getCapabilities x0 => .getCapabilities x0
  | .negotiateAlgorithms x0 => .negotiateAlgorithms x0
  | .getDigests x0 => .getDigests x0
  | .getCertificate x0 x1 => .getCertificate x0 x1
  | .challenge x0 x1 => .challenge x0 x1
  | .getMeasurements x0 x1 => .getMeasurements x0 x1
  | .unsupportedRequest x0 x1 => .unsupportedRequest x0 x1
  | .flitTransmit x0 => .flitTransmit x0
  | .flitRead x0 x1 => .flitRead x0 x1
  | .flitWrite x0 x1 => .flitWrite x0 x1
  | .flitAtomic x0 x1 => .flitAtomic x0 x1
  | .flitResponse x0 x1 => .flitResponse x0 x1
  | .multicastWrite x0 x1 => .multicastWrite x0 x1
  | .managementFrame x0 x1 => .managementFrame x0 x1
  | .nak x0 x1 => .nak x0 x1
  | .credits x0 x1 => .credits x0 x1
  | .endToEndAcknowledgement x0 x1 => .endToEndAcknowledgement x0 x1
  | .portTrained x0 x1 => .portTrained x0 x1
  | .portRetrain x0 => .portRetrain x0
  | .portTimeout x0 => .portTimeout x0
  | .deviceLost x0 => .deviceLost x0
  | .hostBar4Read x0 x1 => .hostBar4Read x0 x1
  | .hostBar4Write x0 x1 => .hostBar4Write x0 x1
  | .flitForward x0 x1 => .flitForward x0 x1
  | .idleFlit x0 x1 => .idleFlit x0 x1
  | .flitCrcFailure x0 => .flitCrcFailure x0
  | .phyRestored x0 => .phyRestored x0
  | .inboundInval x0 x1 x2 x3 => .inboundInval x0 x1 x2 x3
  | .hostAtomicop x0 x1 x2 x3 x4 => .hostAtomicop x0 x1 x2 x3 x4
  | .softError x0 x1 => .softError x0 x1
  | .scrubbing x0 => .scrubbing x0

end Sys2Proof
end

