-- ==== Sys2Proof/Machine/Issue.lean ====
section
/-! DEFINITION. Fetching, clauses and issue (02_instruction_word R24 to R43; 08_gang R154 to R158): the fetch of a word and
its mark, the latch of a header, resuming inside a clause, the formation of issue groups, and the issue of one thread's
instruction. -/

namespace Sys2Proof.Machine

open Sys2Proof

/-- An execute breakpoint at a PC (R409). -/
def execBrk (pc : Nat) : M Unit := do
  let th ← thread
  let x ← curCtx
  if th.passBrk then pure ()
  else
    match x.execHit pc with
    | some b => brkStop b
    | none => pure ()

/-- A fetch from a peer at code offset `pc`: the thread waits for the answer, which FLIT_RESPONSE leaves in its fetch buffer. -/
def fetchRemote {α : Type} (dev pa va pc pte : Nat) : M α := do
  let t ← curT
  let g ← gang
  let s ← get
  if s.lostDev dev then trap .remote va
  else
    set (s.askPeer dev 1 { dev := dev, t := t, kern := g.kern, ctx := g.ctx, posted := false, eseq := 0, va := va, fetch := true, slog := false,
                           tagged := bit pte 55, issue := pc, word := 0, more := [] } fun tag => pa / 32 * 32 + 2 ^ 64 + 2 ^ 72 * tag)
    waitFor (.remote s.remNext)

/-- The word at a physical address and its mark, for kernel `k` (R26): a word written since the kernel came may still read as it was. -/
def State.codeWord (s : State) (k pa : Nat) : (Nat × Bool) × State :=
  let new := (s.phys 8 pa, s.tagAt pa)
  match s.codeOld.find (pa / 8) with
  | some (w, m, n) => if k < n then (if Config.freeBit s.free then (w, m) else new, { s with free := s.free + 1 }) else (new, s)
  | none => (new, s)

/-- Fetch the word at code offset `pc` and its mark (R24 to R26, R127, R371); a fault that has failed is raised here (R25, R370). DESIGN
CHOICE (log entry 104): a code segment whose address has bits [63:56] set, or that runs past 2^56, is fetched modulo 2^56. -/
def fetchWord (pc : Nat) : M (Nat × Bool) := do
  let th ← thread
  match th.fbuf.find pc with
  | some x => pure x
  | none =>
    let g ← gang
    let k ← getKernel g.kern
    if k.desc.clen ≤ pc || pc % 8 != 0 then trap .clause pc
    else
      let va := (k.desc.code + pc) % 2 ^ 56
      match th.cont with
      | .ffail c v => if v == va then raise c va
      | _ => pure ()
      let (pa, pte) ← xlate va .fetch
      if pteLink pte == 1 then fetchRemote (pteDev pte) pa va pc pte
      else if pteLink pte == 2 then do
        hostCheck va
        pure ((← get).phys 8 (hostKey pa), false)
      else
        modify fun s => s.noteRead pa 8
        let s ← get
        match s.firstPoison pa 8 0 with
        | some i => throw (.memerr (va + i))
        | none => do
          let (w, s) := s.codeWord g.kern pa
          set s
          pure (w.1, bit pte 55 && w.2)

/-- The clause of a header. -/
def Clause.of (a : Nat) (h : Header) : Clause :=
  { addr := a, count := h.count, cls := h.cls, rep := h.rep, reps := h.reps, sd := h.sd, sa := h.sa, sb := h.sb, sc := h.sc }

/-- The header fields that a clause holds. -/
def Clause.header (c : Clause) : Header := ⟨c.cls, c.count, c.rep, c.reps, c.sd, c.sa, c.sb, c.sc⟩

/-- Reach a header (R25, R28): whether the thread goes on into the body. -/
def latchHeader (pc : Nat) : M Bool := do
  execBrk pc
  let (w, m) ← fetchWord pc
  if !m then trap .clause pc
  else
    match decodeHeader w with
    | none => trap .illegal pc
    | some h => do
      let g ← gang
      if g.access != (h.cls == 5) then trap .role pc
      else if h.rep && h.reps == 0 then do
        let t ← curT
        modify fun s => (s.updThread t fun th => { th with passBrk := false, fbuf := [] }).endClauseAt t (pc + 8 * (h.count + 1))
        pure false
      else do
        modThread fun th => { th with
          clause := some (Clause.of pc h), pc := pc + 8, res := .start, rptAct := th.rptAct || h.rep,
          rptRep := if h.rep then 0 else th.rptRep, rptInst := if h.rep then 0 else th.rptInst,
          passBrk := false, fbuf := [] }
        pure true

/-- The nearest lower word with mark 1, among `k` words below `a` (R35). DEDUCED (log entry 103): these words are fetched for the
instruction that the thread resumes at, and that is the one that R25's `tpc` names where such a fetch fails. -/
def findHeader (pc : Nat) : Nat → Nat → M (Nat × Header)
  | 0, _ => trap .clause pc
  | k + 1, a =>
    if a < 8 then trap .clause pc
    else do
      let (w, m) ← fetchWord (a - 8)
      if m then
        match decodeHeader w with
        | some h => pure (a - 8, h)
        | none => trap .clause pc
      else findHeader pc k (a - 8)

/-- A thread in the clause that it resumes in, with `rpt` as R35 says. -/
def Thread.resumeIn (th : Thread) (a i : Nat) (h : Header) : Thread :=
  { th with clause := some (Clause.of a h), res := .start, rptAct := h.rep, rptRep := if th.rptAct then th.rptRep else 0,
            rptInst := if h.rep then i else 0 }

/-- Find the clause of an instruction that a thread resumes at, and check its position (R35). -/
def resumeClause (pc : Nat) : M Unit := do
  let (a, h) ← findHeader pc 16 pc
  let th ← thread
  let i := (pc - a) / 8 - 1
  if h.count ≤ i then trap .clause pc
  else if th.rptAct && (th.rptInst != i || h.reps ≤ th.rptRep || !h.rep) then trap .clause pc
  else modThread fun th => th.resumeIn a i h

/-- The instructions whose progress `swp` holds: an RTT past one abandons the rest (R228, R282, R297). -/
def usesSwp : Instr → Bool
  | .swadd .. | .swmul .. | .swfma .. | .swmax .. | .swcvt .. | .swcopy .. | .swsum .. | .swex2 .. | .cpb .. | .tstore ..
  | .publish .. | .pubst .. | .objst .. | .st .. | .atom .. | .cas .. => true
  | _ => false

/-- The same for a fetched word. -/
def wordUsesSwp (w : Nat) : Bool := match decodeWord w with | .ok i => usesSwp i | .error _ => false

/-- A member of a new issue group enters its clause: whether it stays in the group. -/
def enterClause : M Bool := do
  let th ← thread
  match th.res, th.clause with
  | .start, some _ => pure true
  | .start, none => latchHeader th.pc
  | _, c => do
    let (_, m) ← fetchWord th.pc
    if !m then do
      resumeClause th.pc
      pure true
    else if c.isSome then trap .clause th.pc
    else latchHeader th.pc

/-- A thread that an RTT resumes past an instruction goes on to the next one (R35, R96), before it can join a group. -/
def passInstr : M Bool := do
  let th ← thread
  let (w, m) ← fetchWord th.pc
  if m then trap .clause th.pc
  else do
    resumeClause th.pc
    if wordUsesSwp w then modThread fun th => { th with swpAct := false, swpIter := 0 }
    let t ← curT
    modify fun s => (s.updThread t fun th => { th with fbuf := [], cont := .none }).advance t
    pure true

/-! ## Readiness and formation (R155 to R158) -/

/-- The phase field of the landing barrier at an offset of a home (Table 14.2). -/
def State.landingPhase (s : State) (h : Home) (off : Nat) : Nat :=
  match s.allocAt h with
  | some a => ((a.row (off / 128)).byte (off % 128)).toNat % 16
  | none => 0

/-- Whether a tile operand lies in a gang's own window at or above an offset (R325: 4,096 bytes, or 4,224 when narrow). -/
def tileReaches (gid off : Nat) (narrow : Bool) : TSrc → Bool
  | .scratch (.scratch g) o _ => g == gid && decide (off < o + (if narrow then 4224 else 4096))
  | _ => false

/-- Whether the operands of a snapshot do. -/
def snapReaches (gid off : Nat) (x : Snap) : Bool := tileReaches gid off x.q x.a || tileReaches gid off x.q x.b

/-- Whether an operation issued to a slot does. -/
def opReaches (gid off : Nat) : TileOp → Bool
  | .mma x .. => snapReaches gid off x
  | .conv _ (.scratch g) hi => g == gid && decide (off < hi)
  | _ => false

/-- Whether a copy in flight reaches into a gang's own window at or above an offset: where it lands, or at its barrier word. -/
def Landing.reaches (l : Landing) (gid off : Nat) : Bool :=
  (l.home == .scratch gid && decide (off < l.off + l.len))
  || (match l.bar with | some (h, o, _) => h == .scratch gid && decide (off < o + 16) | none => false)

/-- Whether an operation that has checked a range of a gang's own window at or above an offset has not finished (R245): copies, tile
operations and signed snapshots, and a bulk copy with pieces still to come. -/
def State.windowBusy (s : State) (gid off : Nat) : Bool :=
  (s.cores.any fun e => e.2.landings.any fun l => l.reaches gid off)
  || (s.insts.any fun e => (e.2.slots.any fun x => x.2.ops.any fun o => opReaches gid off o.2)
      || (e.2.cvs.any fun c => match c.2.snap with | some x => snapReaches gid off x | none => false))
  || (s.threads.any fun e => e.2.ranges.any fun r => r.1 == .scratch gid && decide (off < r.2))

/-- Whether a convergence phase no longer concerns a slot (R345): it has completed, or its snapshot names another slot. The
register is numbered 16 times its instance plus its number. -/
def State.phaseAside (s : State) (i acc key : Nat) (ph : Bool) : Bool :=
  match s.insts.find (key / 16) with
  | none => true
  | some x =>
    match x.cvs.find (key % 16) with
    | none => true
    | some r => r.phase != ph || (match r.snap with | some z => key / 16 != i || z.acc != acc | none => false)

/-- Whether a fault record of a thread's context is no longer outstanding (R370). -/
def State.faultOver (s : State) (t q : Nat) : Bool :=
  match s.gangs.find (gidOf t) with | some g => (s.ctx g.ctx).faults.all fun f => f.seq != q | none => false

/-- Whether what a wait names has come about (R9); a collective and a resample end their waits themselves. -/
def State.waitOver (s : State) (t : Nat) (th : Thread) : Wait → Bool
  | .loads rs => !th.pendingOn rs
  | .sleep k => match s.gangs.find (gidOf t) with | some g => decide (k ≤ s.tickOf g.ctx) | none => false
  | .batch b n => decide (th.bt.getD b 0 ≤ n)
  | .quiet => th.bt.all (· == 0) && th.loads == []
  | .slogEmpty => match s.gangs.find (gidOf t) with | some g => g.slog == [] | none => false
  | .slogRoom _ => match s.gangs.find (gidOf t) with | some g => decide (g.slog.length < 16) | none => false
  | .slogSeqs ids _ => match s.gangs.find (gidOf t) with | some g => g.slog.all fun e => !ids.contains e.id | none => false
  | .ring =>
    match s.gangs.find (gidOf t) with
    | some g =>
      let x := s.ctx g.ctx
      !x.fen || decide (8 < x.flg) || decide ((x.fwr + 2 ^ 32 - x.frd) % 2 ^ 32 < 2 ^ (x.flg + 4))
    | none => false
  | .barrier i b p =>
    match s.insts.find i with
    | some x => match x.bars.find b with | some y => y.phase != p | none => false
    | none => false
  | .landing h off p => th.cont == .skip || s.landingPhase h off != p
  | .phase i cv ph =>
    match s.insts.find i with
    | some x => match x.cvs.find cv with | some y => y.phase != ph | none => false
    | none => false
  | .turn i acc op =>
    match s.insts.find i with
    | some x => match x.slots.find acc with | some y => y.ops.all fun o => decide (op ≤ o.1) | none => true
    | none => false
  | .tiles i acc op cvs =>
    match s.insts.find i with
    | some x => (match x.slots.find acc with | some y => y.ops.all fun o => decide (op ≤ o.1) | none => true)
        && cvs.all fun c => s.phaseAside i acc c.1 c.2
    | none => false
  | .claim c n => (s.core c).walkq.all fun w => w.serial != n
  | .posted => !s.unacked
  | .landings g off => !s.windowBusy g off
  | .fault q _ => s.faultOver t q
  | .ffault q _ => s.faultOver t q
  | .walk id => (s.core (coreOf t)).walkq.all fun w => w.id != id
  | .send c => match s.conduits.find c with | some x => x.senders.all fun e => e.1 != t | none => true
  | .recv c => match s.conduits.find c with | some x => x.recvs.all fun u => u != t | none => true
  | .remote id => (s.remops.find id).isNone
  | .coll => false
  | .resample => false

/-- Whether a thread is ready (R155). -/
def State.isReady (s : State) (t : Nat) (th : Thread) : Bool :=
  th.group == none && th.held == none
  && (match th.wait with | none => true | some w => s.waitOver t th w)
  && (match s.gangs.find (gidOf t) with
      | some g => (s.ctx g.ctx).runs
      | none => false)

/-- Whether a gang issues to a slot (R154): slot 4 is the access slot. -/
def slotFor (access : Bool) (slot : Nat) : Bool := if access then slot == 4 else decide (slot < 4)

/-- The ready threads of a core eligible for a slot, barred ones included. -/
def State.readyFor (s : State) (core slot : Nat) : List (Nat × Thread) :=
  s.threads.filter fun e => coreOf e.1 == core && s.isReady e.1 e.2 &&
    (match s.gangs.find (gidOf e.1) with | some g => slotFor g.access slot | none => false)

/-- The age bucket (R157). -/
def ageBucket (a : Nat) : Nat := if a < 256 then 0 else if a < 4096 then 1 else 2

/-- The kernel of a thread. -/
def State.kernOf (s : State) (t : Nat) : Nat := match s.gangs.find (gidOf t) with | some g => g.kern | none => 0

/-- The priority of a thread's kernel (R103). -/
def State.prioOf (s : State) (t : Nat) : Nat := match s.kernels.find (s.kernOf t) with | some k => k.prio | none => 0

/-- Whether thread `x` comes before `y` in the order of R157. -/
def State.before (s : State) (x y : Nat × Thread) : Bool :=
  let ox := decide (32768 ≤ x.2.age)
  let oy := decide (32768 ≤ y.2.age)
  if ox != oy then ox
  else if ox && x.2.age != y.2.age then decide (y.2.age < x.2.age)
  else if s.prioOf x.1 != s.prioOf y.1 then decide (s.prioOf y.1 < s.prioOf x.1)
  else if ageBucket x.2.age != ageBucket y.2.age then decide (ageBucket y.2.age < ageBucket x.2.age)
  else if x.2.pc != y.2.pc then decide (x.2.pc < y.2.pc)
  else if gslotOf x.1 != gslotOf y.1 then decide (gslotOf x.1 < gslotOf y.1)
  else decide (laneOf x.1 < laneOf y.1)

/-- The first of a list in the order of R157. -/
def State.first (s : State) : List (Nat × Thread) → Option (Nat × Thread)
  | [] => none
  | x :: xs =>
    match s.first xs with
    | none => some x
    | some y => some (if s.before y x then y else x)

/-- Whether a thread may join a group that `l` leads. -/
def State.joins (s : State) (l x : Nat × Thread) : Bool :=
  laneOf x.1 != laneOf l.1 && s.kernOf x.1 == s.kernOf l.1 && x.2.pc == l.2.pc
  && x.2.rptAct == l.2.rptAct && x.2.rptRep == l.2.rptRep

/-- The members of a new group (R156), by ascending home lane. -/
def State.pick (s : State) (c : List (Nat × Thread)) : List Nat :=
  match s.first c with
  | none => []
  | some l =>
    (List.range 32).filterMap fun k =>
      if k == laneOf l.1 then some l.1
      else (s.first (c.filter fun x => laneOf x.1 == k && s.joins l x)).map (·.1)

/-- Do `m` for a thread of a slot that issues no instruction: what stops it takes effect. -/
def State.fetchFor (s : State) (core slot t : Nat) (m : M Bool) : State :=
  let s := { s with cur := some ⟨core, slot, t⟩ }
  let s := match m s with
    | .ok _ s => s
    | .error e s => stopped t [] [] [] false e s
  { s with cur := none }

/-- A member enters its clause; one that cannot leaves the group. -/
def State.joinClause (s : State) (core slot t : Nat) : State := s.fetchFor core slot t enterClause

/-- The ready threads of a slot that resume past an instruction stand at the next one before the slot forms a group (R31, R35). -/
def State.passAll (s : State) (core slot : Nat) : State :=
  (s.readyFor core slot).foldl (fun s e => if e.2.res == .past then
    (s.updThread e.1 fun th => { th with wait := none }).fetchFor core slot e.1 passInstr else s) s

/-- The bars of a slot lift for the threads of its core (R157). -/
def State.liftBars (s : State) (core slot : Nat) : State :=
  { s with threads := s.threads.mapv fun t th => if coreOf t == core then { th with bars := setDel slot th.bars } else th }

/-- The slots that a slot's ready threads may issue to (R154). -/
def slotClass (slot : Nat) : List Nat := if slot == 4 then [4] else [0, 1, 2, 3]

/-- Whether bars alone keep the core's threads of a slot's class from every group: none of its slots holds one, and none may form one
(R157, log entry 23). -/
def State.barsBlock (s : State) (core slot : Nat) : Bool :=
  let ready := s.readyFor core slot
  !ready.isEmpty && (slotClass slot).all fun k =>
    ((s.core core).groups.find k).isNone && ready.all fun e => e.2.bars.contains k

/-- Put the chosen threads into a group of the slot, and age the ready ones left out (R156, R157). Where bars alone keep every ready
thread from every slot, no group can be formed, and the slot's bars lift (log entry 23). -/
def State.formGroup (s : State) (core slot : Nat) : State :=
  if !decide (slot < 5) || ((s.core core).groups.find slot).isSome then s
  else
    let s := s.passAll core slot
    let ready := s.readyFor core slot
    let chosen := s.pick (ready.filter fun e => !e.2.bars.contains slot)
    match chosen with
    | [] => if s.barsBlock core slot then s.liftBars core slot else s
    | m :: _ =>
      let s := { s with threads := s.threads.mapv fun t th =>
        if (chosen.contains t) then { th with age := 0, wait := none, group := some slot }
        else if (ready.any fun e => e.1 == t) then { th with age := th.age + 1 }
        else th }
      let s := s.liftBars core slot
      let s := s.updCore core fun c => { c with groups := c.groups.put slot { kern := s.kernOf m, no := s.issueNo, members := chosen, todo := [], hit := [] } }
      chosen.foldl (fun s t => s.joinClause core slot t) { s with issueNo := s.issueNo + 1 }

/-- R156: an idle slot forms an issue group; those below it that are idle form theirs first. -/
def execIssueGroupFormation (core slot : Nat) (s : State) : Host.Outcome State Fault Refusal :=
  if 5 ≤ slot then .next s
  else .next ((List.range (slot + 1)).foldl (fun s k => s.formGroup core k) s)

/-! ## Issue of one instruction (R29, R30, R43) -/

/-- Whether an instruction ends its clause (R30). -/
def endsClause : Instr → Bool
  | .bra .. | .jmp .. | .call .. | .calli .. | .ret .. | .exit .. | .yield .. | .sleep .. | .rtt .. => true
  | _ => false

/-- The row of Table 2.2 of an opcode, as the set of admitted classes. -/
def admitted (op : Nat) : List Nat :=
  if op == 0x00B then [5, 6]
  else if op < 0x00D then [0, 1, 2, 3, 4, 5, 6]
  else if op < 0x200 then [0, 1, 2, 3, 4, 5, 6]
  else if op < 0x300 then [0, 1]
  else if op < 0x400 then [1]
  else if op < 0x408 then [0, 2, 5]
  else if op < 0x500 then [0, 2, 3, 5]
  else if op < 0x600 then [2]
  else if op < 0x607 then [3, 4, 5]
  else if op < 0x60B then [0, 4]
  else if op < 0x60F then [4, 5]
  else if op < 0x612 then [4, 6]
  else if op < 0x615 then [4]
  else if op < 0x700 then [0, 4]
  else if op < 0x800 then [3]
  else if op < 0x802 then [0, 1, 2, 3, 4, 5, 6]
  else if op == 0x802 || op == 0x808 then [0, 1, 6]
  else [6]

/-- The instruction that the current thread issues next: fetched, its mark and encoding checked, admitted in its clause,
its register fields strided. -/
def fetchInstr : M Instr := do
  let th ← thread
  match th.clause with
  | none => throw .noThread
  | some c => do
    execBrk th.pc
    let (w, m) ← fetchWord th.pc
    if m then trap .clause th.pc
    else
      match decodeWord w with
      | .error _ => trap .illegal th.pc
      | .ok i =>
        if !(admitted (w / 2 ^ 52)).contains c.cls then trap .clause th.pc
        else if endsClause i && (c.rep || c.index th.pc + 1 != c.count) then trap .clause th.pc
        else pure (if c.rep then strided c.header th.rptRep i else i)

/-- After an issue (R86, R93, R410): a thread of a context that is about to halt steps aside at a precise point, and a context that has
waited for this issue stops. -/
def State.afterIssue (s : State) (c core slot t : Nat) : State :=
  let again := match (s.core core).groups.find slot with | some x => x.todo.contains t | none => false
  let s := { s with cur := none }
  (if s.stopsHere t again then s.stepAside t else s).finishStop c

/-- The context of a thread. -/
def State.ctxOf (s : State) (t : Nat) : Nat := match s.gangs.find (gidOf t) with | some g => g.ctx | none => 0

/-- Issue the instruction of one thread: `ex` is its meaning. -/
def State.issueThread (s : State) (ex : Instr → State → Host.Outcome State Fault Refusal) (core slot t : Nat) :
    Host.Outcome State Fault Refusal :=
  let c := s.ctxOf t
  let r := match fetchInstr { s with cur := some ⟨core, slot, t⟩ } with
    | .ok i s => ex i s
    | .error e s => .next (stopped t [] [] [] false e s)
  match r with
  | .next s => .next (s.afterIssue c core slot t)
  | .fault f => .fault f
  | .refused r => .refused r

/-- One issue of a slot: the next member of its group that has not yet issued the group's instruction, by ascending home
lane (R265). A slot without a group does nothing. -/
def State.issue (s : State) (ex : Instr → State → Host.Outcome State Fault Refusal) (core slot : Nat) :
    Host.Outcome State Fault Refusal :=
  match (s.core core).groups.find slot with
  | none => .next s
  | some g =>
    let fresh := g.todo == []
    let todo := if fresh then g.members else g.todo
    match todo with
    | [] => .next s
    | t :: ts =>
      let g' := if fresh then { g with todo := ts, hit := [], no := s.issueNo } else { g with todo := ts }
      let s := { s with issueNo := if fresh then s.issueNo + 1 else s.issueNo }
      let s := s.updCore core fun c => { c with groups := c.groups.put slot g',
                                                genIssues := if slot < 4 && fresh then satAdd c.genIssues 1 32 else c.genIssues,
                                                accIssues := if slot == 4 && fresh then satAdd c.accIssues 1 32 else c.accIssues }
      s.issueThread ex core slot t

end Sys2Proof.Machine
end

