-- ==== Sys2Proof/Machine/Operands.lean ====
section
/-! DEFINITION. Operand forms (R40, R179, R183, R197, Table 12.5): how fields become values. -/

namespace Sys2Proof.Machine

open Sys2Proof

/-- A 32-bit word read signed or unsigned (R190). -/
def asInt (sg : Bool) (x : Nat) : Int := if sg then sext x 32 else (x % 2 ^ 32 : Nat)

/-- A register read as INT. -/
def intSrc (sg : Bool) (i : Nat) : M Int := do
  let x ← readBits i .int
  pure (asInt sg x)

/-- A register read unsigned as INT. -/
def natSrc (i : Nat) : M Nat := readBits i .int

/-- The register-naming fields of a shift's amount. -/
def amtFields : ShAmt → List Field
  | .reg b => [.r b]
  | .imm _ => []

/-- The amount of a shift (R197). -/
def amtValue : ShAmt → M Nat
  | .reg b => natSrc b
  | .imm n => pure n

/-- The effective address of form M (12_memory, Table 12.5): base pair, signed index, signed offset; field v0 of the index
contributes 0. -/
def effAddr (base idx : Nat) (off : Int) : M Nat := do
  let b ← readAddr base
  let i ← intSrc true idx
  pure (trunc ((b : Int) + i + off) 64)

/-- The effective address without an index. -/
def effAddr0 (base : Nat) (off : Int) : M Nat := do
  let b ← readAddr base
  pure (trunc ((b : Int) + off) 64)

/-- A word written to a destination with a tag. -/
def putWord (d : Nat) (v : Int) (tag : Tag) : M Flow := do
  writeReg d (trunc v 32) tag
  pure .seq

/-- A 64-bit result written to a pair (W64L, W64H). -/
def putL64 (d : Nat) (v : Int) : M Flow := do
  writeL64 d (trunc v 64)
  pure .seq

/-- The tag of an integer result (Table 9.1). -/
def sgTag (sg : Bool) : Tag := if sg then .s32 else .u32

end Sys2Proof.Machine
end

