-- ==== Sys2Proof/Machine/LoadStore.lean ====
section
/-! DEFINITION. The memory family but for the copies (12_memory R271 to R278): LD, ST, ATOM, CAS, RED, FENCE, CINV and
CCLEAN. -/

namespace Sys2Proof.Machine

open Sys2Proof

/-- The bytes of a load (R273). -/
def ldSize : LdWidth → Nat
  | .z8 => 1 | .s8 => 1 | .z16 => 2 | .s16 => 2 | .b32 => 4 | .b64 => 8 | .b128 => 16

/-- The bytes of a store (R273). -/
def stSize : StWidth → Nat
  | .z8 => 1 | .z16 => 2 | .b32 => 4 | .b64 => 8 | .b128 => 16

/-- The register field of `n` bytes of data. -/
def dataField (i n : Nat) : Field := if n == 16 then .quad i else if n == 8 then .even i else .r i

/-- A data register and its word. -/
def tw (v : Nat) (t : Tag) : TWord := ⟨BitVec.ofNat 32 v, t⟩

/-- The tags of a pair loaded with a reference-tag bit (R273). -/
def pairTags (ref : Bool) (lo hi : Tag) : Tag × Tag := if ref then (.refl, .refh) else (lo, hi)

/-- A 64-bit half with its reference-tag bit, as two register words; a pair v0 discards both (R180). -/
def halfWords (i v : Nat) (ref : Bool) (lo hi : Tag) : List (Nat × TWord) :=
  let p := pairTags ref lo hi
  [(i, tw v p.1), (i + 1, tw (v / 2 ^ 32) p.2)]

/-- What a load writes (R273). -/
def ldResults (w : LdWidth) (d v tags : Nat) : List (Nat × TWord) :=
  match w with
  | .z8 => [(d, tw v .u32)]
  | .z16 => [(d, tw v .u32)]
  | .s8 => [(d, tw (trunc (sext v 8) 32) .s32)]
  | .s16 => [(d, tw (trunc (sext v 16) 32) .s32)]
  | .b32 => [(d, tw v .raw)]
  | .b64 => if d == 0 then [] else halfWords d v (bit tags 0) .raw .raw
  | .b128 => halfWords d v (bit tags 0) .raw .raw ++ halfWords (d + 2) (v / 2 ^ 64) (bit tags 1) .raw .raw

/-- The destinations of register words, with the tags of a default (R403); where pair v0 discards both, v0 stands for them (R180). -/
def destsOf (ws : List (Nat × TWord)) : List Dest := if ws.isEmpty then [.reg 0 .raw] else ws.map fun e => .reg e.1 e.2.tag

/-- The destinations of a load. -/
def ldDests (w : LdWidth) (d : Nat) : List Dest := destsOf (ldResults w d 0 0)

/-- Write register words at once. -/
def writeWords : List (Nat × TWord) → M Unit
  | [] => pure ()
  | (i, w) :: ws => do
    writeReg i w.bits.toNat w.tag
    writeWords ws

/-- Deliver the result of a load: from the operand store at once, from memory when it arrives (R155). -/
def deliver (ws : List (Nat × TWord)) (global : Bool) : M Flow := do
  if global then
    modThread fun th => { th with loads := th.loads ++ [⟨ws.filter fun e => e.1 != 0⟩] }
  else writeWords ws
  pure .seq

/-- R273: a load forwarded from the side log reads at most 32 bits (R375). -/
def execLd (g : Guard) (d base idx : Nat) (off : Int) (w : LdWidth) (acq : Bool) (sc : Nat) (cls : AccClass) (s : State) :
    Host.Outcome State Fault Refusal :=
  code [dataField d (ldSize w), .even base, .r idx] g (ldDests w d) (do
    let a ← effAddr base idx off
    let (x, gl) ← loadMem a (ldSize w) (decide ((ldSize w) ≤ 4)) acq sc cls
    deliver (ldResults w d x.v x.tags) gl) s

/-- The registers of store data, from `i` upward, with their words. -/
def readWords (i : Nat) : Nat → M (List TWord)
  | 0 => pure []
  | n + 1 => do
    let w ← readReg i .any
    let ws ← readWords (i + 1) n
    pure (w :: ws)

/-- The value of a list of words. -/
def wordsNat : List TWord → Nat
  | [] => 0
  | w :: ws => w.bits.toNat + 2 ^ 32 * wordsNat ws

/-- The reference-tag bits of pairs of words (R273). -/
def pairBits : List TWord → Nat
  | a :: b :: ws => b2n (a.tag == .refl && b.tag == .refh) + 2 * pairBits ws
  | _ => 0

/-- A pair of any tags: value and reference-tag bit; v0 reads zero in both (R179). -/
def pairAny (i : Nat) : M (Nat × Nat) := do
  if i == 0 then pure (0, 0)
  else
    let ws ← readWords i 2
    pure (wordsNat ws, pairBits ws)

/-- Store data of `n` bytes: the value, and the tag bits of the words fully written. -/
def storeData (d n : Nat) : M (Nat × Nat) := do
  if n == 16 then
    let ws ← readWords d 4
    pure (wordsNat ws, pairBits ws)
  else if n == 8 then pairAny d
  else
    let w ← readReg d .any
    pure (w.bits.toNat % 2 ^ (8 * n), 0)

/-- R273. -/
def execSt (g : Guard) (d base idx : Nat) (off : Int) (w : StWidth) (rel : Bool) (sc : Nat) (cls : AccClass) (s : State) :
    Host.Outcome State Fault Refusal :=
  codeStore [dataField d (stSize w), .even base, .r idx] (dataField d (stSize w)).regs g (do
    let a ← effAddr base idx off
    let (v, tags) ← storeData d (stSize w)
    storeMem a (stSize w) v tags rel sc cls
    pure .seq) s

/-- The operand of an atomic (Table 12.6): the value and the reference-tag bit it would set. -/
def atomOperand (op : AtomOp) (i : Nat) : M (Nat × Nat) :=
  match op with
  | .add64 => do pure (← readL64 i, 0)
  | .exch64 => pairAny i
  | .exch => do pure (← readBits i .any, 0)
  | .fadd => do pure (← readBits i .f32, 0)
  | _ => do pure (← readBits i .int, 0)

/-- What an atomic writes back (Table 12.6). -/
def atomResults (op : AtomOp) (d v tag : Nat) : List (Nat × TWord) :=
  match op with
  | .add64 => if d == 0 then [] else halfWords d v false .w64l .w64h
  | .exch64 => if d == 0 then [] else halfWords d v (bit tag 0) .raw .raw
  | .fadd => [(d, tw v .f32)]
  | .exch => [(d, tw v .raw)]
  | .smin => [(d, tw v .s32)]
  | .smax => [(d, tw v .s32)]
  | _ => [(d, tw v .u32)]

def atomDests (op : AtomOp) (d : Nat) : List Dest := destsOf (atomResults op d 0 0)

/-- R274. -/
def execAtom (g : Guard) (d base idx : Nat) (off : Int) (op : AtomOp) (ord : Order) (sc : Nat) (s : State) :
    Host.Outcome State Fault Refusal :=
  code [dataField d (atomSize op), .even base, dataField idx (atomSize op)] g (atomDests op d) (do
    let a ← effAddr0 base off
    let (v, tag) ← atomOperand op idx
    let (x, gl) ← atomMem a (atomSize op) sc (orderAcq ord) (orderRel ord) (fun old => some (atomApply op old v, tag)) v tag
      (atomHosted op) fun pte pa => askAtomic pte pa a op.code ord.code v 0
    deliver (atomResults op d x.v x.tags) gl) s

/-- What CAS writes back (R275). -/
def casResults (w64 : Bool) (d v tag : Nat) : List (Nat × TWord) :=
  if w64 then (if d == 0 then [] else halfWords d v (bit tag 0) .w64l .w64h) else [(d, tw v .u32)]

def casDests (w64 : Bool) (d : Nat) : List Dest := destsOf (casResults w64 d 0 0)

/-- The comparand of CAS, and its new value with the tag bit (R275, R276). -/
def casOperands (w64 : Bool) (i : Nat) : M (Nat × Nat × Nat) := do
  if w64 then
    let (c, _) ← pairAny i
    let (v, t) ← (do
      let ws ← readWords (i + 2) 2
      pure (wordsNat ws, pairBits ws) : M (Nat × Nat))
    pure (c, v, t)
  else
    let c ← readBits i .any
    let v ← readBits (i + 1) .any
    pure (c, v, 0)

/-- R275: the store checks come before the comparison (R298). -/
def execCas (g : Guard) (d base idx : Nat) (off : Int) (w64 : Bool) (ord : Order) (sc : Nat) (s : State) :
    Host.Outcome State Fault Refusal :=
  code ([dataField d (if w64 then 8 else 4), .even base, .even idx] ++ [.range (if w64 then idx + 2 else idx + 1) (if w64 then 2 else 1)]) g (casDests w64 d) (do
    let a ← effAddr0 base off
    let (c, v, tag) ← casOperands w64 idx
    let (x, gl) ← atomMem a (if w64 then 8 else 4) sc (orderAcq ord) (orderRel ord) (fun old => if old == c then some (v, tag) else none)
      v tag true fun pte pa => askAtomic pte pa a (if w64 then 13 else 12) ord.code v c
    deliver (casResults w64 d x.v x.tags) gl) s

/-- R274. -/
def execRed (g : Guard) (d base idx : Nat) (off : Int) (op : AtomOp) (rel : Bool) (sc : Nat) (s : State) :
    Host.Outcome State Fault Refusal :=
  code [dataField d (atomSize op), .even base, .r idx] g [] (do
    let a ← effAddr base idx off
    let (v, _) ← atomOperand op d
    redMem op a v sc rel
    pure .seq) s

/-- The copy fault of the earliest issued copy (R281). -/
def firstFault : List (Nat × Cause × Nat) → Option (Nat × Cause × Nat)
  | [] => none
  | x :: xs => match firstFault xs with | some y => some (if y.1 < x.1 then y else x) | none => some x

/-- The copy faults of a thread, reported at the next copy-fault point (R281). -/
def reportCopies : M Unit := do
  match firstFault (← thread).copyFaults with
  | none => pure ()
  | some (n, c, v) => do
    modThread fun th => { th with copyFaults := th.copyFaults.erase (n, c, v) }
    raise c v

/-- Every FENCE and EXIT reports what copies and the side log left (R281, R374). -/
def reportAll : M Unit := do
  reportCopies
  reportFail

def fenceRel : FenceOrd → Bool | .acq => false | _ => true
def fenceAcq : FenceOrd → Bool | .rel => false | _ => true

/-- R277. -/
def execFence (g : Guard) (ord : FenceOrd) (sc : Nat) (s : State) : Host.Outcome State Fault Refusal :=
  code [] g [] (do
    reportAll
    if fenceRel ord then releaseAt sc
    if fenceAcq ord then acquireAt sc
    pure .seq) s

/-- The line of the core's column cache that an address names, when it translates (R278); what its walk reads and marks stands (R365). -/
def lineFor (a : Nat) : M (Option Nat) := do
  match aperture a with
  | some (.glob va) => do
    let t ← curT
    let g ← gang
    let s ← get
    let (r, s') := s.xlate (dieOfCore (coreOf t)) g.ctx va .load
    set s'
    match r with
    | .ok pa pte => pure (if pteLink pte == 0 then some (pa / 128) else none)
    | _ => pure none
  | _ => trap .addr a

/-- R278: the dirty bytes go to L2 and the lines go. -/
def execCinv (g : Guard) (all : Bool) (base idx : Nat) (off : Int) (s : State) : Host.Outcome State Fault Refusal :=
  code (if all then [] else [.even base, .r idx]) g [] (do
    let t ← curT
    if all then
      modify fun s => (s.cleanAll (coreOf t)).updCore (coreOf t) fun c => { c with cache := [] }
    else do
      let a ← effAddr base idx off
      match ← lineFor a with
      | some l => modify fun s => s.evict (coreOf t) l
      | none => pure ()
    pure .seq) s

/-- R278: the dirty bytes go to L2 and the lines stay, clean. -/
def execCclean (g : Guard) (all : Bool) (base idx : Nat) (off : Int) (s : State) : Host.Outcome State Fault Refusal :=
  code (if all then [] else [.even base, .r idx]) g [] (do
    let t ← curT
    if all then modify fun s => s.cleanAll (coreOf t)
    else do
      let a ← effAddr base idx off
      match ← lineFor a with
      | some l => modify fun s => s.cleanLine (coreOf t) l
      | none => pure ()
    pure .seq) s

end Sys2Proof.Machine
end

