-- ==== Sys2Proof/Machine/Conduit.lean ====
section
/-! DEFINITION. Conduits (05_queue R115 to R124): instances, the spill ring, and CDSEND, CDRECV, CDPEEK, CDCLOSE. -/

namespace Sys2Proof.Machine

open Sys2Proof

/-! ## The device's accesses (R121) -/

/-- How an access of the device for a context ends: a physical address, a failure, a fault record to wait on, or a fault ring
that is full. -/
inductive CdAcc where
  | ok (pa : Nat)
  | fail (c : Cause)
  | hold (seq : Nat)
  | ring
deriving DecidableEq, Repr

/-- Translate an access that the device makes for a context: peer and host addresses fail with ACCESS. -/
def State.devXlate (s : State) (core c va : Nat) (need : Need) : CdAcc × State :=
  if 2 ^ 56 ≤ va then (.fail .addr, s)
  else
    let (r, s) := s.xlate (dieOfCore core) c va need
    match r with
    | .ok pa pte => (if pteLink pte != 0 then .fail .access else .ok pa, s)
    | .access => (.fail .access, s)
    | .remote => (.fail .remote, s)
    | .memerr => (.fail .memerr, s)
    | .fault k l =>
      match s.raiseFault c core va k l with
      | (.fail, s) => (.fail (kindCause k), s)
      | (.ring, s) => (.ring, s)
      | (.hold q, s) => (.hold q, s)

/-- The records in the ring. -/
def Conduit.ring (c : Conduit) : Nat := (c.tail + 2 ^ 32 - c.head) % 2 ^ 32

/-- A conduit's table entry. -/
def State.cdEntry (s : State) (c : Conduit) : CEntry :=
  match s.kernels.find c.kern with
  | some k => k.cds.getD c.n ⟨1, 0, 0⟩
  | none => ⟨1, 0, 0⟩

/-- The context of a conduit's kernel. -/
def State.cdCtx (s : State) (c : Conduit) : Nat := match s.kernels.find c.kern with | some k => k.ctx | none => 0

/-- The address of a conduit's spill area. -/
def State.cdBase (s : State) (c : Conduit) : Nat := let e := s.cdEntry c; e.sbase + c.core * e.sstride

/-- The address of ring slot `j` modulo the slots. -/
def State.cdSlot (s : State) (c : Conduit) (j : Nat) : Nat := s.cdBase c + 2112 + 64 * (j % (s.cdEntry c).slots)

/-- The control block (Table 5.8). -/
def Conduit.block (c : Conduit) : Nat :=
  c.head + 2 ^ 32 * c.tail + 2 ^ 64 * b2n c.closed + 2 ^ 128 * (c.accepted % 2 ^ 32) + 2 ^ 160 * (c.spills % 2 ^ 32)
  + 2 ^ 192 * (c.refills % 2 ^ 32) + 2 ^ 224 * (c.peak % 2 ^ 32) + 2 ^ 256 * (c.left % 2 ^ 32)

/-- Copy the control block to memory: a copy that cannot be made now is dropped (R121). DESIGN CHOICE (log entry 85): one that meets a
translation fault writes no fault record, since nothing waits for it. -/
def State.cdCopy (s : State) (c : Conduit) : State :=
  let x := s.cdCtx c
  if 2 ^ 56 ≤ s.cdBase c then s.setErrst x 3
  else
    let (r, s) := s.xlate (dieOfCore c.core) x (s.cdBase c) .store
    match r with
    | .ok pa pte => if pteLink pte != 0 then s.setErrst x 3 else (s.physSet x 64 pa c.block).curePoison pa 64
    | _ => s.setErrst x 3

/-- A changed instance, with its control block. -/
def State.cdPut (s : State) (id : Nat) (c : Conduit) : State := { s with conduits := s.conduits.put id c }.cdCopy c

/-- A record as a slot holds it (R115). -/
def CdRec.slot (r : CdRec) : Nat :=
  wordsNat r.ws + 2 ^ 256 * (r.ws.zip (List.range 8)).foldl (fun n p => n + 16 ^ p.2 * p.1.tag.code) 0 + 2 ^ 288 * r.ws.length

/-- A slot read as a record. -/
def CdRec.ofSlot (v : Nat) (bad : Option Nat) : CdRec :=
  { ws := (List.range (min 8 (bits v 295 288))).map fun k =>
      ⟨BitVec.ofNat 32 (v / 2 ^ (32 * k)), (Tag.ofCode (v / 2 ^ (256 + 4 * k) % 16)).getD .raw⟩,
    bad := bad }

/-! ## What the device does of itself (R116 to R118) -/

/-- A thread of a kernel that waits at an instance is given what it goes on with, in its slot or with its gang parked (R9, R120). -/
def State.wake (s : State) (kern t : Nat) (c : Cont) : State := s.updFor kern t fun th => { th with cont := c }

/-- Whether every accepted record has been delivered. -/
def Conduit.drained (c : Conduit) : Bool := c.closed && c.buf == [] && c.ring == 0

/-- Refill the buffer from the ring (R116, R121): none when there is nothing to do now. -/
def State.cdRefill (s : State) (id : Nat) (c : Conduit) : Option State :=
  if c.fill != .ready || 32 ≤ c.buf.length || c.ring == 0 then none
  else
    let va := s.cdSlot c c.head
    match s.devXlate c.core (s.cdCtx c) va .load with
    | (.ok pa, s) =>
      let s := s.noteRead pa 64
      let r := CdRec.ofSlot (s.phys 64 pa) ((s.firstPoison pa 64 0).map (va + ·))
      some (s.cdPut id { c with buf := c.buf ++ [r], head := (c.head + 1) % 2 ^ 32, refills := c.refills + 1 })
    | (.fail x, s) => some { s with conduits := s.conduits.put id { c with fill := .failed x va } }
    | (.hold q, s) => some { s with conduits := s.conduits.put id { c with fill := .held q va } }
    | (.ring, _) => none

/-- Serve the first receiver (R117, R118, R121). -/
def State.cdServe (s : State) (id : Nat) (c : Conduit) : Option State :=
  match c.recvs, c.buf with
  | [], _ => none
  | t :: ts, r :: rs =>
    let s := { s with conduits := s.conduits.put id { c with buf := rs, recvs := ts } }
    some (s.wake c.kern t (match r.bad with | some a => .fail .memerr a | none => .words r.ws r.ws.length))
  | t :: ts, [] =>
    if c.drained then some ({ s with conduits := s.conduits.put id { c with recvs := ts } }.wake c.kern t (.tok 0x100))
    else
      match c.fill with
      | .failed x va => some ({ s with conduits := s.conduits.put id { c with recvs := ts, fill := .rest } }.wake c.kern t (.fail x va))
      | _ => none

/-- A record that has been accepted. -/
def Conduit.accept (c : Conduit) (ts : List (Nat × Option CdRec)) : Conduit :=
  let c := { c with senders := ts, accepted := c.accepted + 1 }
  { c with peak := max c.peak (c.buf.length + c.ring) }

/-- Accept the first sender (R116, R118, R121, R124): while the buffer has room and the ring holds records, a refill comes first. -/
def State.cdAccept (s : State) (id : Nat) (c : Conduit) : Option State :=
  match c.senders with
  | [] => none
  | (t, x) :: ts =>
    if c.hold.isSome then none
    else
      match x with
      | none =>
        let s := if c.closed then { s with conduits := s.conduits.put id { c with senders := ts } }
                 else s.cdPut id { c with senders := ts, closed := true }
        some (s.wake c.kern t (.tok (b2n c.closed)))
      | some r =>
        if c.closed then some ({ s with conduits := s.conduits.put id { c with senders := ts } }.wake c.kern t (.tok 1))
        else if c.buf.length < 32 && c.ring == 0 then
          some ((s.cdPut id ({ c with buf := c.buf ++ [r] }.accept ts)).wake c.kern t (.tok 0))
        else if c.buf.length < 32 || (s.cdEntry c).slots ≤ c.ring then none
        else
          let va := s.cdSlot c c.tail
          match s.devXlate c.core (s.cdCtx c) va .store with
          | (.ok pa, s) =>
            let s := (s.physSet (s.cdCtx c) 64 pa r.slot).curePoison pa 64
            some ((s.cdPut id ({ c with tail := (c.tail + 1) % 2 ^ 32, spills := c.spills + 1 }.accept ts)).wake c.kern t (.tok 0))
          | (.fail x, s) => some ({ s with conduits := s.conduits.put id { c with senders := ts } }.wake c.kern t (.fail x va))
          | (.hold q, s) => some { s with conduits := s.conduits.put id { c with hold := some (q, va) } }
          | (.ring, _) => none

/-- An instance serves a receiver, or accepts a sender; none when it can do neither. -/
def State.cdAnswer (s : State) (id : Nat) : Option State :=
  match s.conduits.find id with
  | none => none
  | some c =>
    if c.released || c.saved then none
    else
      match s.cdServe id c with
      | some s => some s
      | none => s.cdAccept id c

/-- One move of an instance, its own refill first; none when it rests. -/
def State.cdMove (s : State) (id : Nat) : Option State :=
  match s.conduits.find id with
  | none => none
  | some c =>
    if c.released || c.saved then none
    else
      match s.cdRefill id c with
      | some s => some s
      | none => s.cdAnswer id

/-- Moves of an instance until it rests; `f` bounds them. -/
def State.cdPump (s : State) (id : Nat) : Nat → State
  | 0 => s
  | f + 1 => match s.cdMove id with | some s => s.cdPump id f | none => s

/-- What an instruction that joins an instance sets going: the device's refills come of themselves, and may lag (R438). -/
def State.cdSettle (s : State) (id : Nat) : Nat → State
  | 0 => s
  | f + 1 => match s.cdAnswer id with | some s => s.cdSettle id f | none => s

/-- An instance that has something to do now: a refill that lags, and what waits for it. -/
def State.cdDue (s : State) : Option Nat :=
  (s.conduits.find? fun e => (s.ctx (s.cdCtx e.2)).st == .resident && (s.cdMove e.1).isSome).map (·.1)

/-- More moves than one operation can cause. -/
def cdFuel : Nat := 65536

/-- R116, R121: an instance goes on. -/
def execConduitRefill (cid : Nat) (s : State) : Host.Outcome State Fault Refusal :=
  match s.conduits.find cid with
  | none => .next s
  | some c => if (s.ctx (s.cdCtx c)).st == .resident then .next (s.cdPump cid cdFuel) else .next s

/-! ## Instructions -/

/-- The instance that a conduit number names on the caller's core. -/
def conduitAt (cd : Nat) : M (Nat × Conduit) := do
  let t ← curT
  let g ← gang
  let k ← getKernel g.kern
  if k.desc.ncd ≤ cd then illegal
  match (← get).conduits.find? fun e => e.2.kern == g.kern && e.2.core == coreOf t && e.2.n == cd && !e.2.released with
  | some e => pure e
  | none => illegal

/-- Join an instance's queue by `f`, behind the release at core scope that a record asks for (R117), let it move, and go on with what it
gave, or wait. -/
def conduitWait (cd : Nat) (w : Nat → Wait) (rel : Bool) (f : Nat → Conduit → Conduit) : M Cont := do
  let th ← thread
  if th.cont != .none && th.cont != .drained then pure th.cont
  else do
    let (id, c) ← conduitAt cd
    let t ← curT
    if rel then releaseAt 2
    modThread fun th => { th with cont := .none }
    modify fun s => { s with conduits := s.conduits.put id (f t c) }.cdSettle id cdFuel
    let th ← thread
    match th.cont with
    | .none => waitFor (w id)
    | .fail x v => if x == .memerr then throw (.memerr v) else trap x v
    | c => pure c

/-- What a sender's record holds: reference tags are dropped. -/
def cdWord (w : TWord) : TWord := if w.tag == .refl || w.tag == .refh then { w with tag := .raw } else w

/-- The status that an instance gave. -/
def Cont.status : Cont → Nat | .tok n => n | _ => 0

/-- R122. -/
def execCdsend (g : Guard) (d a cd n _k : Nat) (s : State) : Host.Outcome State Fault Refusal :=
  code [.r d, .range a n] g [.reg d .u32] (do
    let _ ← conduitAt cd
    let ws ← readWords a n
    let c ← conduitWait cd .send true fun t c => { c with senders := c.senders ++ [(t, some ⟨ws.map cdWord, none⟩)] }
    putWord d c.status .u32) s

/-- Write a record's words from register `d` upward. -/
def cdWrite (d : Nat) : List TWord → M Unit
  | [] => pure ()
  | w :: ws => do
    writeReg d w.bits.toNat w.tag
    cdWrite (d + 1) ws

/-- The defaults of a receive (R403). -/
def cdDests (d a : Nat) : List Dest := ((List.range 8).map fun k => .reg (d + k) .raw) ++ [.reg a .u32]

/-- R123: a new receiver lets a failed refill be tried again (R121). -/
def execCdrecv (g : Guard) (d a cd _k : Nat) (s : State) : Host.Outcome State Fault Refusal :=
  code [.range d 8, .r a] g (cdDests d a) (do
    let c ← conduitWait cd .recv false fun t c =>
      { c with recvs := c.recvs ++ [t], fill := match c.fill with | .rest => .ready | x => x }
    match c with
    | .words ws n => do
      cdWrite d ws
      putWord a n .u32
    | c => putWord a c.status .u32) s

/-- R123. -/
def execCdpeek (g : Guard) (d a cd _k : Nat) (s : State) : Host.Outcome State Fault Refusal :=
  code [.range d 8, .r a] g (cdDests d a) (do
    let (_, c) ← conduitAt cd
    match c.buf with
    | r :: _ => do
      match r.bad with
      | some v => throw (.memerr v)
      | none => pure ()
      cdWrite d r.ws
      putWord a r.ws.length .u32
    | [] => putWord a (if c.drained then 0x100 else 0) .u32) s

/-- R124. -/
def execCdclose (g : Guard) (d cd _k : Nat) (s : State) : Host.Outcome State Fault Refusal :=
  code [.r d] g [.reg d .u32] (do
    let c ← conduitWait cd .send false fun t c => { c with senders := c.senders ++ [(t, none)] }
    putWord d c.status .u32) s

end Sys2Proof.Machine
end

