-- ==== Sys2Proof/Machine/Walker.lean ====
section
/-! DEFINITION. The Brass walker (13_object R293 to R297): one visit, one scan or one pop a step; and the failure of a
side-log entry (17_page R374). -/

namespace Sys2Proof.Machine

open Sys2Proof

/-! ## Failures of the side log -/

/-- The thread of a gang's lane, when the lane still runs the thread that made the access. -/
def State.liveLane (s : State) (gid : Nat) (x : SlAcc) : Bool :=
  match s.threads.find (32 * gid + x.lane) with
  | some th => th.lin == x.lin
  | none => false

/-- The live access of lowest lane. -/
def State.lowestLive (s : State) (gid : Nat) (xs : List SlAcc) : Option SlAcc :=
  (xs.filter (s.liveLane gid)).foldl (fun r x => match r with
    | some y => if x.lane < y.lane then some x else r
    | none => some x) none

/-- A failure that no thread will report (R374). -/
def State.logDropped (s : State) (c : Nat) : State :=
  (s.updCtx c fun x => { x with dropped := satAdd x.dropped 1 32 }).setErrst c 3

/-- A slot whose operation reads what a discarded entry held fails with it (R332, R375). -/
def TileSlot.failLog (y : TileSlot) (gid id : Nat) (c : Cause) : TileSlot :=
  match y.held with
  | some (.log g ids va) =>
    if g == gid && ids.contains id then { y with held := none, fault := some (c, va), ops := y.ops.drop 1 } else y
  | _ => y

/-- Loads of a kernel held on a discarded entry whose fault failed share the failure (R375): those of threads, and the lines that the tile
fetcher reads as a thread's loads (R328). -/
def State.failHeld (s : State) (kern gid id : Nat) (c : Cause) : State :=
  { s with
    threads := s.threads.mapv fun t th =>
      match th.wait with
      | some (.slogSeqs ids va) => if gidOf t == gid && ids.contains id then { th with cont := .fail c va } else th
      | _ => th
    insts := s.insts.mapv fun _ x =>
      if x.kern == kern then { x with slots := x.slots.mapv fun _ y => y.failLog gid id c } else x }

/-- The head entry of a gang's log is discarded, with the failure of its lowest live lane (R374). `fault` says that a fault
was answered with fail. -/
def State.logFail (s : State) (gid : Nat) (c : Cause) (v : Nat) (fault : Bool) : State :=
  match s.gangs.find gid with
  | none => s
  | some g =>
    match g.slog with
    | [] => s
    | e :: es =>
      let s := s.updGang gid fun x => { x with slog := es }
      let s := if fault then s.failHeld g.kern gid e.id c else s
      match s.lowestLive gid e.accs with
      | none => s.logDropped g.ctx
      | some x =>
        match s.threads.find (32 * gid + x.lane) with
        | none => s.logDropped g.ctx
        | some th =>
          if th.slFail.isSome then s.logDropped g.ctx
          else s.updThread (32 * gid + x.lane) fun th => { th with slFail := some (c, v) }

/-! ## Ranges -/

/-- A range by 64 KiB pages: (address, bytes). -/
def pageSpans : Nat → Nat → Nat → List (Nat × Nat)
  | 0, _, _ => []
  | f + 1, va, n =>
    if n == 0 then []
    else
      let k := min n (65536 - va % 65536)
      (va, k) :: pageSpans f (va + k) (n - k)

/-- The pages of a range. -/
def spansOf (va n : Nat) : List (Nat × Nat) := pageSpans (n / 65536 + 2) va n

/-- The granule state of each granule of physical ranges. -/
def State.setGrans (s : State) (v : Nat) : List (Nat × Nat) → State
  | [] => s
  | (pa, n) :: qs => ((List.range ((n + 15) / 16)).foldl (fun s k => s.setGranAt (pa + 16 * k) v) s).setGrans v qs

/-- Whether a line meets one of the ranges. -/
def lineIn (line : Nat) (rs : List (Nat × Nat)) : Bool :=
  rs.any fun r => decide (r.1 < 128 * line + 128) && decide (128 * line < r.1 + r.2)

/-- The lines of a core's column cache that meet the ranges. -/
def State.linesIn (s : State) (core : Nat) (rs : List (Nat × Nat)) : List Nat :=
  ((s.core core).cache.map (·.1)).filter fun l => lineIn l rs

/-- The granule states and owners of a core's copies, as they stand at home. -/
def State.refreshLines (s : State) (core : Nat) (rs : List (Nat × Nat)) : State :=
  let f (line : Nat) (l : CLine) : CLine :=
    if lineIn line rs then { l with gran := s.lineGran line 8, owner := s.ownerAt (128 * line) } else l
  s.updCore core fun c => { c with cache := c.cache.mapv f }

/-! ## The walk -/

/-- How a step of a walk ends early. -/
inductive WStop where
  | fail (c : Cause) (v : Nat)
  | hold (seq va : Nat)
  | ring
  | block (core serial : Nat)
deriving DecidableEq, Repr

/-- A step of a walk. -/
abbrev W (α : Type) := EStateM WStop State α

/-- Translate for the walker: reads need r, header writes w (R367); a fault holds the walk (R371). -/
def wXlate (core : Nat) (w : Walk) (va : Nat) (need : Need) : W (Nat × Nat) := do
  let s ← get
  let (r, s) := s.xlate (dieOfCore core) w.ctx va need
  set s
  match r with
  | .ok pa pte => pure (pa, pte)
  | .access => throw (.fail .access va)
  | .remote => throw (.fail .remote va)
  | .memerr => throw (.fail .memerr va)
  | .fault k l =>
    match s.raiseFault w.ctx core va k l with
    | (.fail, _) => throw (.fail (kindCause k) va)
    | (.ring, _) => throw .ring
    | (.hold q, s) => do
      set s
      throw (.hold q va)

/-- The physical ranges of pages. -/
def wSpans (core : Nat) (w : Walk) (need : Need) : List (Nat × Nat) → W (List (Nat × Nat))
  | [] => pure []
  | (va, n) :: qs => do
    let (pa, pte) ← wXlate core w va need
    if pteLink pte != 0 then throw (.fail .access va)
    else do
      let rest ← wSpans core w need qs
      pure ((pa, n) :: rest)

/-- Validate a referent as R285 does: the physical address of its header, and the header. -/
def wHeader (core : Nat) (w : Walk) (va : Nat) : W (Nat × Nat) := do
  if va / 2 ^ 56 != 0 || va % 16 != 0 then throw (.fail .addr va)
  else do
    let (pa, pte) ← wXlate core w va .load
    let s ← get
    if pteLink pte != 0 then throw (.fail .access va)
    else if !bit pte 55 then throw (.fail .addr va)
    else do
      set (s.noteRead pa 16)
      match s.firstPoison pa 16 0 with
      | some i => throw (.fail .memerr (va + i))
      | none => if s.liveHeader pa then pure (pa, s.phys 16 pa) else throw (.fail .addr va)

/-- The identifier that a walk writes into headers (Table 13.2). -/
def State.walkMark (s : State) (core : Nat) (w : Walk) : Nat := s.markOf core w.serial

/-- Push an object (R293). -/
def Walk.push (w : Walk) (o : Nat) : Walk :=
  if 2048 ≤ w.stack.length then { w with stack := (o, o + 16) :: w.stack.dropLast, disc := true }
  else { w with stack := (o, o + 16) :: w.stack }

/-- The walk in progress on another core of this device that an object names as the one that claimed it: the core and the serial (R294). -/
def State.otherWalk (s : State) (core h : Nat) : Option (Nat × Nat) :=
  let m := hdrWalk h
  let k := bits m 8 0
  if hdrScope h == 0 || bits m 14 9 != s.devnum || k == core then none
  else
    match (s.core k).walkq with
    | x :: _ => if x.job.isNone && x.serial == m / 2 ^ 15 then some (k, x.serial) else none
    | [] => none

/-- Claim an object (R293): its header, then its granules; they stay walking until the next step has cleaned them. -/
def wClaim (core : Nat) (w : Walk) (va pa h : Nat) : W Walk := do
  let body ← wSpans core w .load (spansOf (va + 16) ((hdrLen h - 16 + 15) / 16 * 16))
  let _ ← wXlate core w va .store
  let m := (← get).walkMark core w
  let h' := setBits (setBits (setBits (setBits h 55 53 w.scope) 90 64 m) 127 96 w.pass) 95 95 0
  modify fun s => s.physSet w.ctx 16 pa h'
  if hdrScope h < 3 && hdrOwner h != (← get).ownerOf core then throw (.fail .foreign va)
  else do
    modify fun s => (s.setGrans 2 body).refreshLines core ((pa, 16) :: body)
    pure { w with claim := some (va, (pa, 16) :: body) }

/-- The claimed object is cleaned and published (R293). -/
def State.publishBody (s : State) (core scope : Nat) (rs : List (Nat × Nat)) : State :=
  ((s.cleanLines core (s.linesIn core rs)).setGrans (scope + 2) (rs.drop 1)).refreshLines core rs

/-- `Visit(o)` (R293): an object that another walk in progress has claimed is waited for, whatever its scope (R294, log entry 111). -/
def wVisit (core : Nat) (w : Walk) (va : Nat) : W Walk := do
  let (pa, h) ← wHeader core w va
  let s ← get
  match s.otherWalk core h with
  | some (c, n) => throw (.block c n)
  | none =>
    if hdrScope h < w.scope then wClaim core w va pa h
    else if hdrWalk h == s.walkMark core w && bits h 127 96 < w.pass && !bit h 95 then do
      let _ ← wXlate core w va .store
      modify fun s => s.physSet w.ctx 16 pa (setBits h 127 96 w.pass)
      pure (w.push va)
    else pure w

/-- The first of `k` words from `pa` on whose tag bit is 1, or cannot be read, as an index. -/
def State.firstTag (s : State) (pa : Nat) : Nat → Nat → Option Nat
  | 0, _ => none
  | k + 1, i => if s.tagAt (pa + 8 * i) || (s.firstPoison (pa + 8 * i) 8 0).isSome then some i else s.firstTag pa k (i + 1)

/-- One step of the loop of R293; none when the walk has ended. -/
def wLoop (core : Nat) (w : Walk) : W (Option Walk) := do
  if w.fresh then
    pure (some (← wVisit core { w with fresh := false } w.root))
  else
    match w.stack with
    | [] =>
      if !w.disc then pure none
      else if w.pass + 1 == 2 ^ 32 - 1 then throw (.fail .illegal w.root)
      else pure (some { w with pass := w.pass + 1, fresh := true, disc := false })
    | (o, n) :: rest => do
      let (pa, h) ← wHeader core w o
      let stop := o + hdrLen h
      if stop ≤ n then do
        let _ ← wXlate core w o .store
        modify fun s => s.physSet w.ctx 16 pa (setBits h 95 95 1)
        pure (some { w with stack := rest })
      else do
        let (q, pte) ← wXlate core w n .load
        if pteLink pte != 0 then throw (.fail .access n)
        let lim := min stop ((n / 65536 + 1) * 65536)
        let s ← get
        match s.firstTag q ((lim - n) / 8) 0 with
        | none => pure (some { w with stack := (o, lim) :: rest })
        | some i =>
          match s.firstPoison (q + 8 * i) 8 0 with
          | some j => do
            set (s.noteRead (q + 8 * i) 8)
            throw (.fail .memerr (n + 8 * i + j))
          | none =>
            let w' ← wVisit core { w with stack := (o, n + 8 * i + 8) :: rest } (s.phys 8 (q + 8 * i))
            pure (some w')

/-! ## Operations over an object's range (R299, R300, R305) -/

/-- The granules of physical ranges, as addresses. -/
def granules (rs : List (Nat × Nat)) : List Nat :=
  rs.flatMap fun r => (List.range ((r.2 + 15) / 16)).map fun k => r.1 + 16 * k

/-- Whether a line holds private or walking granules of an owner other than `me` (R300). -/
def State.lineTaken (s : State) (me line : Nat) : Bool :=
  s.ownerAt (128 * line) != me &&
    (List.range 8).any fun k => s.granAt (128 * line + 16 * k) == 1 || s.granAt (128 * line + 16 * k) == 2

/-- The status of OBJINIT (R300) over the pages of its range. -/
def State.objStatus (s : State) (me : Nat) (pages : List (Nat × Nat × Nat × Nat)) : Nat :=
  let rs := pages.map fun p => (p.2.1, p.2.2.1)
  if pages.any fun p => !bit p.2.2.2 55 || !bit p.2.2.2 53 then 3
  else if (granules rs).any fun a => s.granAt a != 0 then 1
  else if (granules rs).any fun a => s.lineTaken me (a / 128) then 2
  else 0

/-- The tag bits of physical ranges cleared (R284). -/
def State.clearRanges (s : State) : List (Nat × Nat) → State
  | [] => s
  | (pa, n) :: qs => (s.putTags (pa / 8) 0 ((n + 7) / 8)).clearRanges qs

/-- The line owner of every line of physical ranges. -/
def State.ownRanges (s : State) (me : Nat) (rs : List (Nat × Nat)) : State :=
  (granules rs).foldl (fun s a => { s with lineOwner := s.lineOwner.put (a / 128) me }) s

/-- Write back and drop a core's copies of ranges. -/
def State.evictRanges (s : State) (core : Nat) (rs : List (Nat × Nat)) : State :=
  (s.linesIn core rs).foldl (fun s l => s.evict core l) s

/-- The header that OBJINIT writes (Table 13.2). -/
def freshHeader (len owner : Nat) : Nat := len + 2 ^ 38 * owner + 2 ^ 56 * 0xA7

/-- Format the object (R300): its header, its granules, its owner; the data stays. -/
def State.formatObject (s : State) (core c len : Nat) (rs : List (Nat × Nat)) : State :=
  let me := s.ownerOf core
  let s := s.evictRanges core rs
  let s := (s.setGrans 1 rs).ownRanges me rs
  match rs with
  | [] => s
  | (pa, _) :: _ => ((s.physSet c 16 pa (freshHeader len me)).setGranAt pa 7).clearRanges rs

/-- The core of this device whose walk in progress claimed an object (R305). -/
def State.claimant (s : State) (h : Nat) : Option Nat :=
  let m := hdrWalk h
  if hdrScope h == 0 || bits m 14 9 != s.devnum then none
  else if (s.core (bits m 8 0)).walkq.any fun w => w.job.isNone && w.serial == m / 2 ^ 15 then some (bits m 8 0) else none

/-- End the object (R305): the range is raw; the epoch is 32 bits wide (R292). -/
def State.endObject (s : State) (core c pa h : Nat) (rs : List (Nat × Nat)) : State :=
  let s := s.evictRanges core rs
  let s := (s.physSet c 8 pa (setBits (h % 2 ^ 64) 55 53 7)).setGrans 0 rs
  let s := match rs with
    | (a, n) :: qs => s.clearRanges ((a + 16, n - 16) :: qs)
    | [] => s
  if 3 ≤ hdrScope h then { s with epoch := (s.epoch + 1) % 2 ^ 32 } else s

/-- A range operation at its turn: the status that its thread is given. RECLAIM of an object whose scope a walk has raised since, so that
more must be released first, does nothing: its thread asks again (status 1). -/
def wJob (core : Nat) (w : Walk) : RangeJob → W Nat
  | .init len pages => do
    let s ← get
    let st := s.objStatus (s.ownerOf core) pages
    if st == 0 then do
      let rs ← wSpans core w .store (pages.map fun p => (p.1, p.2.2.1))
      modify fun s => s.formatObject core w.ctx len rs
    pure st
  | .reclaim sc pa rs => do
    let s ← get
    set (s.noteRead pa 16)
    match s.firstPoison pa 16 0 with
    | some i => throw (.fail .memerr (w.root + i))
    | none => pure ()
    if !s.liveHeader pa then throw (.fail .addr w.root)
    let h := s.phys 16 pa
    if hdrScope h == 0 && hdrOwner h != s.ownerOf core then throw (.fail .foreign w.root)
    match s.otherWalk core h with
    | some (c, n) => throw (.block c n)
    | none => pure ()
    if max sc 2 < hdrScope h then pure 1
    else do
      modify fun s => s.endObject core w.ctx pa h rs
      pure 0

/-- One step of what stands at the head of a core's queue: as it is then, and whether it has ended. -/
def wStep (core : Nat) (w : Walk) : W (Walk × Bool) := do
  match w.job, w.claim with
  | some j, _ => do
    let st ← wJob core w j
    pure ({ w with count := st }, true)
  | none, some (va, rs) => do
    modify fun s => s.publishBody core w.scope rs
    pure ({ w with count := w.count + 1, claim := none }.push va, false)
  | none, none => do
    match ← wLoop core w with
    | none => pure (w, true)
    | some x => pure (x, false)

/-- The walk at the head of a core's queue, replaced or removed. -/
def State.setWalk (s : State) (core : Nat) (w : Option Walk) : State :=
  s.updCore core fun c => { c with walkq := match w with | some x => x :: c.walkq.drop 1 | none => c.walkq.drop 1 }

/-- The kernel of the gang of a context in a slot, or parked there. -/
def State.kernIn (s : State) (c gid : Nat) : Nat :=
  match s.gangs.find gid, s.parked.find? fun p => p.gid == gid && p.gang.ctx == c with
  | some g, some p => if g.ctx == c then g.kern else p.gang.kern
  | some g, none => g.kern
  | none, some p => p.gang.kern
  | none, none => 0

/-- Change the thread that waits for a walk. -/
def State.updWaiter (s : State) (w : Walk) (f : Thread → Thread) : State :=
  s.updFor (s.kernIn w.ctx (gidOf w.t)) w.t fun th => if th.wait == some (.walk w.id) then f th else th

/-- A walk ends: the thread that waits for it goes on with its count, or with the status of its range operation. A count that an earlier
walk of its instruction left stays (R303). -/
def State.walkDone (s : State) (core : Nat) (w : Walk) : State :=
  let s := s.setWalk core none
  let s := if w.log then s
    else if w.job.isSome then s.updWaiter w fun th => { th with cont := .tok w.count }
    else s.updWaiter w fun th =>
      { th with swpAct := false, swpIter := 0, cont := match th.cont with | .tok n => .tok n | _ => .tok w.count }
  s.finishStop w.ctx

/-- A walk traps (R297): `swp` names it, and the thread that waits for it takes the trap when it issues. -/
def State.walkFail (s : State) (core : Nat) (w : Walk) (c : Cause) (v : Nat) (fault : Bool) : State :=
  let s := s.setWalk core none
  let s := if w.log then s.withGang (s.kernIn w.ctx (gidOf w.t)) (gidOf w.t) fun s => s.logFail (gidOf w.t) c v fault
    else if w.job.isSome then s.updWaiter w fun th => { th with cont := .fail c v }
    else s.updWaiter w fun th => { th with swpAct := true, swpIter := w.serial, cont := .fail c v }
  s.finishStop w.ctx

/-- The cores reached from the walk of serial `n` of core `c` along the walks that wait for another (R294). -/
def State.blockChain (s : State) : Nat → Nat → Nat → List Nat
  | 0, _, _ => []
  | f + 1, c, n =>
    match (s.core c).walkq with
    | w :: _ => if w.serial != n then [] else match w.blk with | some (d, m) => c :: s.blockChain f d m | none => []
    | [] => []

/-- Whether the walk of `core` waits in a cycle of which it is the highest (R294). -/
def State.yields (s : State) (core : Nat) : Bool :=
  match (s.core core).walkq with
  | w :: _ =>
    match w.blk with
    | some (d, n) =>
      let ch := s.blockChain 384 d n
      ch.contains core && (ch.takeWhile (· != core)).all fun c => decide (c < core)
    | none => false
  | [] => false

/-- Whether a walk may move now (R86, R297, R373). -/
def State.walkRuns (s : State) (w : Walk) : Bool :=
  let st := (s.ctx w.ctx).st
  st == .resident || (w.log && st == .descheduled)

/-- The object that the next visit of a walk names, for the value of a trap of R294. -/
def State.blockedAt (s : State) (core : Nat) (w : Walk) : Nat :=
  if w.fresh then w.root
  else
    match w.stack with
    | (_, n) :: _ =>
      match (s.xlate (dieOfCore core) w.ctx n .load).1 with
      | .ok q _ => match s.firstTag q 8192 0 with | some i => s.phys 8 (q + 8 * i) | none => n
      | _ => n
    | [] => w.root

/-- One step of a core's walker. -/
def State.walkStep (s : State) (core : Nat) : State :=
  match (s.core core).walkq with
  | [] => s
  | w :: _ =>
    if !s.walkRuns w then s
    else
      match w.fail, w.held with
      | some (c, v), _ => s.walkFail core w c v true
      | none, some _ => s
      | none, none =>
        match wStep core { w with blk := none } s with
        | .ok (w, true) s => s.walkDone core w
        | .ok (w, false) s => s.setWalk core (some w)
        | .error (.fail c v) s => s.walkFail core w c v false
        | .error (.hold q va) s => s.setWalk core (some { w with held := some (q, va), blk := none })
        | .error .ring s => s
        | .error (.block d n) s =>
          let s := s.setWalk core (some { w with blk := some (d, n) })
          if s.yields core then s.walkFail core w .foreign (s.blockedAt core w) false else s

/-- R293 to R297. -/
def execBrassWalk (core : Nat) (s : State) : Host.Outcome State Fault Refusal := .next (s.walkStep core)

end Sys2Proof.Machine
end

