-- ==== Sys2Proof/Machine/Object.lean ====
section
/-! DEFINITION. The object family (13_object R285, R299 to R305). -/

namespace Sys2Proof.Machine

open Sys2Proof

/-- The pages of a range for the current thread: address, physical address, bytes, PTE; a remote page raises ACCESS. -/
def xlateSpans (need : Need) : List (Nat × Nat) → M (List (Nat × Nat × Nat × Nat))
  | [] => pure []
  | (va, n) :: qs => do
    let (pa, pte) ← xlate va need
    if pteLink pte != 0 then trap .access va
    else do
      let rest ← xlateSpans need qs
      pure ((va, pa, n, pte) :: rest)

/-- Ask the core's walker for an operation over an object's range, and wait for it (R299). -/
def askJob {α : Type} (r : Nat) (j : RangeJob) : M α := do
  let t ← curT
  let g ← gang
  let id := (← get).walkNext
  modify fun s => s.queueJob t g.ctx r j
  waitFor (.walk id)

/-- The status that the walker has given, if it has. -/
def jobStatus : M (Option Nat) := do
  match (← thread).cont with
  | .tok n => pure (some n)
  | _ => pure none

/-- R300. -/
def execObjinit (g : Guard) (d a b _k : Nat) (s : State) : Host.Outcome State Fault Refusal :=
  code [.r d, .even a, .r b] g [.reg d .u32] (do
    let va ← readAddr a
    let n ← natSrc b
    let th ← thread
    if n % 8 != 0 || n < 16 || 2 ^ 32 - 8 < n then trap .illegal th.pc
    if va / 2 ^ 56 != 0 || va % 16 != 0 || 2 ^ 56 < va + n then trap .addr va
    let spans := spansOf va ((n + 15) / 16 * 16)
    match ← jobStatus with
    | some st => putWord d st .u32
    | none => do
      let pages ← xlateSpans .probe spans
      checkBrk va n false true
      askJob va (.init n pages)) s

/-- A reference operand (R285): a pair of kinds REFL and REFH. -/
def readRef (i : Nat) : M Nat := readPair i .refLo .refHi

/-- The walk of a reference to a scope, once (R293, R302): its count. A walk that `swp` names is resumed (R297). -/
def walkTo (r sc : Nat) : M Nat := do
  let th ← thread
  match th.cont with
  | .tok n => pure n
  | _ => do
    let (_, h) ← validateRef r .load
    askWalk r sc h

/-- Every earlier access of the thread is performed: the side log is empty and remote stores are acknowledged. -/
def allPerformed : M Unit := do
  let g ← gang
  if g.slog != [] then waitFor .slogEmpty
  if (← get).unacked then waitFor .posted

/-- A count, saturating. -/
def count32 (n : Nat) : Nat := min n (2 ^ 32 - 1)

/-- R302. -/
def execPublish (g : Guard) (d a _k sc : Nat) (s : State) : Host.Outcome State Fault Refusal :=
  codeSwp [.r d, .even a] [] g [.reg d .u32] (do
    let r ← readRef a
    let th ← thread
    if th.cont == .none then do
      let _ ← validateRef r .load
      allPerformed
    let n ← walkTo r sc
    putWord d (count32 n) .u32) s

/-- An 8-byte store that holds its thread on a fault (R371): the checks of R7, R289 and R298, then `rel`, then the store. -/
def holdStore (a v tags : Nat) (cls : AccClass) (rel : M Unit) : M Unit := do
  let p ← checkMem a 8 8
  let t ← curT
  match p with
  | .row h off => do
    checkBrk a 8 false true
    rel
    writeRow h off 8 a v
  | .glob va => do
    let g ← gang
    if g.logRegion va then waitFor .slogEmpty
    let (pa, pte) ← xlate va .store
    checkBrk a 8 false true
    if pteLink pte == 0 then objectCheck (cls == .plain) pa pte a 8 v tags
    if isHost pte pa then hostCheck va
    rel
    if pteLink pte == 0 then modify fun s => s.writeClass (coreOf t) g.ctx cls pa pte 8 v tags
    else if pteLink pte == 1 then modify fun s => s.remoteWrite t g.kern g.ctx pa pte va 8 v tags
    else modify fun s => s.physSet g.ctx 8 (hostKey pa) v

/-- The count that the walk of the PUBST at issue left when the escape walk of its installing store trapped (R297, R303). -/
def Thread.walked (th : Thread) : Option Nat :=
  match th.wkCnt with
  | some (pc, n) => if th.swpAct && pc == th.pc && !th.inh then some n else none
  | none => none

/-- The first walk of PUBST: its count, which stays with the thread until the instruction is done. -/
def firstWalk (r sc : Nat) : M Nat := do
  let th ← thread
  match th.cont, th.walked with
  | .tok n, _ => pure n
  | _, some n => pure n
  | _, none => do
    modThread fun th => { th with wkCnt := if th.inh then th.wkCnt else none }
    walkTo r sc

/-- R303. -/
def execPubst (g : Guard) (d a b _k sc : Nat) (s : State) : Host.Outcome State Fault Refusal :=
  codeSwp [.r d, .even a, .even b] [] g [.reg d .u32] (do
    let va ← readAddr a
    let r ← readRef b
    let th ← thread
    if th.cont == .none then do
      let _ ← validateRef r .load
      match ← checkMem va 8 8 with
      | .glob x => do
        let _ ← xlate x .store
      | .row .. => pure ()
      allPerformed
      reportLog sc
    let n ← firstWalk r sc
    modThread fun th => { th with cont := .tok n, wkCnt := if th.inh then th.wkCnt else some (th.pc, n) }
    holdStore va r 1 .shared (releaseAt sc)
    modThread fun th => { th with wkCnt := if th.inh then th.wkCnt else none }
    putWord d (count32 n) .u32) s

/-- R301. -/
def execRefmk (g : Guard) (d a _k : Nat) (s : State) : Host.Outcome State Fault Refusal :=
  code [.even d, .even a] g [.reg d .refl, .reg (d + 1) .refh] (do
    let va ← readAddr a
    let _ ← validateRef va .load
    writePair d va .refl .refh
    pure .seq) s

/-- R304. -/
def execObjst (g : Guard) (d a b _k : Nat) (s : State) : Host.Outcome State Fault Refusal :=
  code [.even d, .even a, .r b] g [] (do
    let r ← readRef a
    let o ← natSrc b
    let (v, tag) ← pairAny d
    let (_, h) ← validateRef r .load
    if o % 8 != 0 || o < 16 || hdrLen h < o + 8 then trap .addr ((r + o) % 2 ^ 64)
    holdStore (r + o) v tag (if hdrScope h == 0 then .plain else .shared) (pure ())
    pure .seq) s

/-- R305. -/
def execReclaim (g : Guard) (a _k : Nat) (s : State) : Host.Outcome State Fault Refusal :=
  code [.even a] g [] (do
    let r ← readRef a
    match ← jobStatus with
    | some 0 => pure .seq
    | st => do
      if st.isSome then modThread fun th => { th with cont := .none }
      let (pa, h) ← validateRef r .load
      let t ← curT
      let s ← get
      if hdrScope h == 0 && hdrOwner h != s.ownerOf (coreOf t) then trap .foreign r
      match s.claimant h with
      | some c => waitFor (.claim c (hdrWalk h / 2 ^ 15))
      | none => pure ()
      let pages ← xlateSpans .store (spansOf r ((hdrLen h + 15) / 16 * 16))
      reportLog (hdrScope h)
      releaseAt (max (hdrScope h) 2)
      askJob r (.reclaim (hdrScope h) pa (pages.map fun p => (p.2.1, p.2.2.1)))) s

end Sys2Proof.Machine
end

