-- ==== Sys2Proof/Machine/SideLog.lean ====
section
/-! DEFINITION. The replay of a gang's side log (17_page R373, R374). -/

namespace Sys2Proof.Machine

open Sys2Proof

/-- A walk asked for by an entry of the log: the entry stays at the head until the walk has ended. -/
def logWalk (r sc h : Nat) : M Unit := do
  let t ← curT
  let g ← gang
  let id := (← get).walkNext
  modify fun s => s.queueWalk t g.ctx r sc h none true
  waitFor (.walk id)

/-- The checks of each access of an entry, lowest lane first. -/
def replayChecks (op : SlOp) (pa0 pte : Nat) : List SlAcc → M Unit
  | [] => pure ()
  | x :: xs => do
    let pa := pa0 / 65536 * 65536 + x.va % 65536
    if pteLink pte == 0 then
      objectCheckWith logWalk (fun _ => false) (match op with | .store .plain .. => true | _ => false) pa pte x.va x.n x.data x.tags
    match op with
    | .cbset => if pteLink pte != 0 then trap .access x.va
    | .red o _ _ =>
      if isHost pte pa then do
        if !atomHosted o || !(← get).hostAtomics then trap .access x.va
    | .store _ rel sc => if rel && sc == 4 && pteLink pte != 0 then trap .access x.va
    replayChecks op pa0 pte xs

/-- The release that an entry's order asks for. -/
def replayRelease (op : SlOp) : M Unit := do
  let sc := match op with
    | .store _ true sc => sc
    | .red _ sc true => sc
    | .cbset => 3
    | _ => 0
  if 3 ≤ sc then do
    let t ← curT
    if sc == 4 && (← get).unacked then waitFor .posted
    modify fun s => s.cleanRaw (coreOf t)

/-- Set bits of a word at the home L2 (R137). -/
def State.orHome (s : State) (core c pa pte mask : Nat) : Got × State :=
  s.atomLocal core c 3 pa pte 8 fun old => some (orf old mask, 0)

/-- What the requests of a gang's log entry to a peer bear as their issue, beyond the numbers of instruction issues. -/
def SlEntry.askNo (gid : Nat) (e : SlEntry) : Nat := 2 ^ 32 * (gid + 1) + e.mark

/-- Perform one access of an entry as the original would have been; a RED to a peer asks (R373, R387). -/
def replayOne (no : Nat) (op : SlOp) (pa0 pte : Nat) (x : SlAcc) : M Unit := do
  let t ← curT
  let g ← gang
  let core := coreOf t
  let pa := pa0 / 65536 * 65536 + x.va % 65536
  let link := pteLink pte
  match op with
  | .store cls _ _ =>
    if link == 0 then modify fun s => s.writeClass core g.ctx cls pa pte x.n x.data x.tags
    else if link == 1 then modify fun s => s.remoteWrite t g.kern g.ctx pa pte x.va x.n x.data x.tags
    else modify fun s => s.physSet g.ctx x.n (hostKey pa) x.data
  | .red o sc rel =>
    if link == 0 then do
      let (r, s) := (← get).atomLocal core g.ctx sc pa pte x.n fun old => some (atomApply o old x.data, 0)
      set s
      match r.poison with
      | some i => throw (.memerr (x.va + i))
      | none => pure ()
    else if link == 1 then do
      if (← get).lostDev (pteDev pte) then trap .remote x.va
      modify fun s => s.askRed no t g.kern g.ctx pa pte x.va o.code (redOrder rel) x.data
    else modify fun s => s.physSet g.ctx x.n (hostKey pa) (atomApply o (s.phys x.n (hostKey pa)) x.data)
  | .cbset => do
    let (r, s) := (← get).orHome core g.ctx pa pte x.data
    set s
    match r.poison with
    | some i => throw (.memerr (x.va + i))
    | none => modify State.notifyMaps

/-- The accesses of an entry, in order. -/
def replayAll (no : Nat) (op : SlOp) (pa0 pte : Nat) : List SlAcc → M Unit
  | [] => pure ()
  | x :: xs => do
    replayOne no op pa0 pte x
    replayAll no op pa0 pte xs

/-- The data breakpoints of an entry's accesses, now that the checks of R7 pass (R409): with dbg the context halts before it is performed, and
goes on past it; else it fails with BREAK (log entry 107). -/
def replayBrk (e : SlEntry) : M Unit := do
  let x ← curCtx
  let ld := match e.op with | .store .. => false | _ => true
  if e.brk then pure ()
  else
    match e.accs.findSome? fun a => x.dataHit a.va a.n ld true with
    | some b => brkStop b
    | none => pure ()

/-- The head entry of a gang's log: translated afresh, checked, performed; whether it has asked a peer, whose answers it waits for. -/
def replayEntry (no : Nat) (e : SlEntry) : M Bool := do
  match e.accs with
  | [] => pure false
  | x :: _ => do
    let (pa, pte) ← xlate x.va .store
    replayBrk e
    if isHost pte pa then hostCheck x.va
    replayChecks e.op pa pte e.accs
    replayRelease e.op
    replayAll no e.op pa pte e.accs
    pure (pteLink pte == 1 && (match e.op with | .red .. => true | _ => false))

/-- Whether the head entry may be replayed now (R372, R373): its context runs or is descheduled, it waits for no record, no walk and no
answer of a peer, and the issue group that makes it has issued its instruction in full. -/
def State.replayDue (s : State) (gid : Nat) (g : Gang) (e : SlEntry) : Bool :=
  ((s.ctx g.ctx).st == .resident || (s.ctx g.ctx).st == .descheduled) && e.seq == none
  && ((s.core (coreOfGid gid)).walkq.all fun w => !(w.log && gidOf w.t == gid && w.ctx == g.ctx))
  && (s.remops.all fun r => !(r.2.slog && r.2.issue == e.askNo gid))
  && (s.core (coreOfGid gid)).groups.all fun x => x.2.todo == [] || x.2.no != e.mark

/-- Change the entry at the head of a gang's log. -/
def State.updHead (s : State) (gid : Nat) (f : SlEntry → SlEntry) : State :=
  s.updGang gid fun g => { g with slog := match g.slog with | e :: es => f e :: es | [] => [] }

/-- One replay of the head entry of the gang in a slot. -/
def State.replayHead (s : State) (gid : Nat) (e : SlEntry) : State :=
  let x := e.accs.headD { lane := 0, lin := 0, va := 0, n := 0, data := 0, tags := 0 }
  match e.fail with
  | some (c, v) => s.logFail gid c (v.getD x.va) v.isNone
  | none =>
    if e.asked then s.updGang gid fun g => { g with slog := g.slog.drop 1 }
    else
      let cur := s.cur
      match replayEntry (e.askNo gid) e { s with cur := some ⟨coreOfGid gid, 0, 32 * gid + x.lane⟩ } with
      | .ok true s => { s with cur := cur }.updHead gid fun y => { y with asked := true }
      | .ok false s => { s with cur := cur }.updGang gid fun g => { g with slog := g.slog.drop 1 }
      | .error (.trap c v) s => { s with cur := cur }.logFail gid c v false
      | .error (.memerr v) s => { s with cur := cur }.logFail gid .memerr v false
      | .error .halt s =>
        let s := { s with cur := cur }.updHead gid fun y => { y with brk := true }
        match s.gangs.find gid with | some g => s.haltCtx g.ctx .halted | none => s
      | .error (.wait (.fault q _)) s => { s with cur := cur }.updHead gid fun y => { y with seq := some q }
      | .error _ s => { s with cur := cur }

/-- The gangs of a slot, the one that holds it and those parked for it. -/
def State.gangsOf (s : State) (gid : Nat) : List Gang :=
  (match s.gangs.find gid with | some g => [g] | none => []) ++ (s.parked.filter fun p => p.gid == gid).map (·.gang)

/-- One replay: of the gang in a slot, or of one that is parked for it, whose log goes on while its context is descheduled (R373). -/
def State.replay (s : State) (gid : Nat) : State :=
  match (s.gangsOf gid).findSome? fun g => match g.slog with
      | e :: _ => if s.replayDue gid g e then some (g.kern, e) else none
      | [] => none with
  | some (k, e) => s.withGang k gid fun s => s.replayHead gid e
  | none => s

/-- R373. -/
def execSideLogReplay (gid : Nat) (s : State) : Host.Outcome State Fault Refusal := .next (s.replay gid)

end Sys2Proof.Machine
end

