-- ==== Sys2Proof/Machine/KernelOps.lean ====
section
/-! DEFINITION. Queue and kernel instructions (05_queue R113, R125, R126; 06_kernel R137; 07_group R150): LAUNCH, QSIG, CBSET and
GRPQ; and the packet processor's accesses. -/

namespace Sys2Proof.Machine

open Sys2Proof

/-! ## The packet processor's accesses -/

/-- Translate an address of a context on die `d` for the packet processor: a failure writes no fault record
(R102). -/
def State.ppXlate (s : State) (d c va : Nat) (need : Need) : Option (Nat × Nat) × State :=
  if 2 ^ 56 ≤ va then (none, s)
  else
    match s.xlate d c va need with
    | (.ok pa pte, s) => (some (pa, pte), s)
    | (_, s) => (none, s)

/-- The address of packet slot `i` of a queue (R99). -/
def Queue.slotVa (x : Queue) (i : Nat) : Nat := x.rbase + 64 * (i % 2 ^ (x.lg + 4))

/-- The number of packets not yet taken. -/
def Queue.untaken (x : Queue) : Nat := (x.wridx + 2 ^ 32 - x.rdidx) % 2 ^ 32

/-- Append a packet at `wridx` (R112, R113). -/
def State.appendPacket (s : State) (q p : Nat) : State :=
  let x := s.queue q
  let s := match s.ppXlate x.home x.ctx (x.slotVa x.wridx) .store with
    | (some (pa, pte), s) =>
      if pteLink pte == 0 then (s.physSet x.ctx 64 pa p).curePoison pa 64
      else if pteLink pte == 1 then s.remoteWrite (2 ^ 30) s.kernNext x.ctx pa pte (x.slotVa x.wridx) 64 p 0
      else if s.hostUp then s.physSet x.ctx 64 (hostKey pa) p
      else s
    | (_, s) => s
  (s.setQueue q { x with wridx := (x.wridx + 1) % 2 ^ 32 }).settleQ q

/-- R125. -/
def execLaunch (g : Guard) (d a b _k : Nat) (s : State) : Host.Outcome State Fault Refusal :=
  code [.r d, .range a 16, .r b] g [.reg d .u32] (do
    let q ← natSrc b
    let ws ← readWords a 16
    let gg ← gang
    let x := (← get).queue q
    if 1023 < q || x.st == .disabled || x.mode != 1 || x.ctx != gg.ctx then putWord d 2 .u32
    else do
      reportLog 3
      releaseAt 3
      if x.untaken == 2 ^ (x.lg + 4) then putWord d 1 .u32
      else do
        modify fun s => s.appendPacket q (wordsNat ws)
        putWord d 0 .u32) s

/-- R126. -/
def execQsig (g : Guard) (d a b _k : Nat) (s : State) : Host.Outcome State Fault Refusal :=
  code [.r d, .even a, .r b] g [.reg d .u32] (do
    let va ← readAddr a
    let n ← intSrc true b
    if va / 2 ^ 56 != 0 then trap .addr va
    let _ ← checkMem va 8 8
    reportLog 3
    let _ ← logLoad va 8 false
    let (pa, pte) ← xlate va .rmw
    checkBrk va 8 true true
    if pteLink pte != 0 then trap .access va
    objectCheck false pa pte va 8 0 0
    releaseAt 3
    let t ← curT
    let gg ← gang
    let (o, s) := (← get).atomLocal (coreOf t) gg.ctx 3 pa pte 8 fun old => some (trunc ((old : Int) + n) 64, 0)
    set s
    match o.poison with
    | some i => throw (.memerr (va + i))
    | none => do
      modify State.notifyWaits
      putWord d (o.v % 2 ^ 32) .u32) s

/-- The update of CBSET: like RED it enters the side log (R137, R372). -/
def cbsetMem (a mask : Nat) : M Unit := do
  if a / 2 ^ 56 != 0 then trap .addr a
  let _ ← checkMem a 8 8
  reportLog 3
  let t ← curT
  let g ← gang
  if g.logRegion a then do
    let b ← logBrk .store a 8 true true
    enterLog .cbset a 8 mask 0 none none b
  else do
    let (r, s') := (← get).xlate (dieOfCore (coreOf t)) g.ctx a .store
    set s'
    match r with
    | .access => trap .access a
    | .remote => enterLog .cbset a 8 mask 0 none none false
    | .memerr => throw (.memerr a)
    | .fault k l =>
      faultLog .cbset a 8 mask 0 k l
    | .ok pa pte => do
      checkBrk a 8 true true
      if pteLink pte != 0 then trap .access a
      objectCheck false pa pte a 8 mask 0
      releaseAt 3
      let (o, s) := (← get).orHome (coreOf t) g.ctx pa pte mask
      set s
      match o.poison with
      | some i => throw (.memerr (a + i))
      | none => modify State.notifyMaps

/-- R137. -/
def execCbset (g : Guard) (a b _k : Nat) (s : State) : Host.Outcome State Fault Refusal :=
  code [.even a, .r b] g [] (do
    let base ← readAddr a
    let j ← natSrc b
    cbsetMem ((base + 8 * (j / 64)) % 2 ^ 64) (2 ^ (j % 64))
    pure .seq) s

/-! ## GRPQ (R150) -/

/-- The live count of an instance (R148). -/
def State.liveCount (s : State) (i : Nat) : Nat :=
  (s.threads.filter fun e =>
    match s.gangs.find (gidOf e.1) with
    | some g => g.grp.contains (some i)
    | none => false).length

/-- The control word bits [17:0] of an entry (Table 7.2). -/
def GEntry.control (e : GEntry) : Nat :=
  e.nbar + 8 * e.ncv + 256 * e.tdecl + 4096 * e.sdecl + 65536 * b2n e.rep + 131072 * b2n e.span

/-- Table 7.4. -/
def State.grpItem (s : State) (g : Gang) (i : Nat) (x : GInst) (item : Nat) : Nat :=
  match item with
  | 0 => s.liveCount i
  | 1 => x.members.length
  | 2 => (x.members.filter (· < g.gidx)).length
  | 3 => x.num
  | 4 => x.entry
  | 5 => x.ctl
  | _ => match x.window with | some a => if x.span then 0 else 4096 * a.pages | none => 0

/-- R150. -/
def execGrpq (g : Guard) (d slot item : Nat) (s : State) : Host.Outcome State Fault Refusal :=
  code [.r d] g [.reg d .u32] (do
    let gg ← gang
    let s ← get
    let v := match gg.grp.getD slot none with
      | none => 0xFFFFFFFF
      | some i => match s.insts.find i with | some x => s.grpItem gg i x item | none => 0xFFFFFFFF
    putWord d v .u32) s

end Sys2Proof.Machine
end

