-- ==== Sys2Proof/Machine/Approx.lean ====
section
/-! DEFINITION. The approximations of 10_float R212 and Table 10.4. The special and exact cases are computed. Every other
result is the free value `Config.approx`, held to the table's bound: a candidate outside the bound is replaced by the
nearest FP32 value. The bound is judged against an evaluation whose error is below 2^-300 for FEX2, FLG2, FSIN and FCOS, and too small to
matter for FRCP and FRSQ (log entry 84). -/

namespace Sys2Proof.Machine

/-- ln 2 and pi with 320 fraction bits. An FP32 operand has at most 149, and 1 - cos of the least of them is above 2^-300. -/
def fxLn2 : Int := 1480553391661173448385607439722553250922680800745876974795605978609098082859138712941075737848984
def fxPi : Int := 6710401180212168915155840974220003240804194089427148950727106424351713218671805380099500388914039

/-- The product of two numbers with 320 fraction bits. -/
def fxMul (a b : Int) : Int := a * b / 2 ^ 320

/-- The exponential series: the sum of y^k / k!, by the last term and its index. -/
def fxExp : Nat → Int → Int → Nat → Int
  | 0, _, _, _ => 0
  | n + 1, y, term, k => term + fxExp n y (fxMul term y / ((k : Int) + 1)) (k + 1)

/-- The series of sine and cosine: term, then the next one by -y^2 / ((k+1)(k+2)). -/
def fxTrig : Nat → Int → Int → Nat → Int
  | 0, _, _, _ => 0
  | n + 1, y2, term, k => term + fxTrig n y2 (-(fxMul term y2) / (((k : Int) + 1) * ((k : Int) + 2))) (k + 2)

/-- The series of the inverse hyperbolic tangent: z^k / k over odd k. -/
def fxAtanh : Nat → Int → Int → Nat → Int
  | 0, _, _, _ => 0
  | n + 1, z2, zk, k => zk / (k : Int) + fxAtanh n z2 (fxMul zk z2) (k + 2)

/-- m * 2^e with 320 fraction bits, towards minus infinity. -/
def toFx (neg : Bool) (m : Nat) (e : Int) : Int :=
  let s : Int := if neg then -(m : Int) else m
  if 0 ≤ e + 320 then s * 2 ^ (e + 320).toNat else s / 2 ^ (-(e + 320)).toNat

/-- The reference value of 1/x, as a magnitude and exponent. -/
def refRcp (m : Nat) (e : Int) : Int × Int := (((2 ^ 100 / m : Nat) : Int), -100 - e)

/-- The reference value of 1/sqrt x. -/
def refRsq (m : Nat) (e : Int) : Int × Int :=
  let odd := e % 2 == 1
  let m2 := if odd then 2 * m else m
  let e2 := if odd then e - 1 else e
  ((isqrt 130 0 (2 ^ 240 / m2) : Nat), -120 - e2 / 2)

/-- The reference value of 2^x. -/
def refEx2 (neg : Bool) (m : Nat) (e : Int) : Int × Int :=
  let fx := toFx neg m e
  let i := fx / 2 ^ 320
  let f := fx % 2 ^ 320
  (fxExp 64 (fxMul f fxLn2) (2 ^ 320) 0, i - 320)

/-- The reference value of log2 x. -/
def refLg2 (m : Nat) (e : Int) : Int × Int :=
  let k : Int := Nat.log2 m
  let mant : Int := (m : Int) * 2 ^ 320 / 2 ^ k.toNat
  let z := (mant - 2 ^ 320) * 2 ^ 320 / (mant + 2 ^ 320)
  let ln := 2 * fxAtanh 110 (fxMul z z) z 1
  ((e + k) * 2 ^ 320 + ln * 2 ^ 320 / fxLn2, -320)

/-- The reference value of sin(pi*x), or of cos(pi*x). -/
def refTrig (cos neg : Bool) (m : Nat) (e : Int) : Int × Int :=
  let fx0 := toFx neg m e
  let fx := (if cos then fx0 + 2 ^ 319 else fx0) % 2 ^ 321
  let (s, t) := if 2 ^ 320 ≤ fx then (true, fx - 2 ^ 320) else (false, fx)
  let u := if 2 ^ 319 < t then 2 ^ 320 - t else t
  let y := fxMul u fxPi
  let v := fxTrig 48 (fxMul y y) y 1
  ((if s then -v else v), -320)

/-- The bounds of Table 10.4: units in the last place, or an absolute 2^-22. -/
inductive Bound where | ulp (n : Nat) | abs22
deriving DecidableEq, Repr

/-- Whether the FP32 bits `y` lie within the bound of the reference value. DESIGN CHOICE (log entry 117): one ULP is the spacing of FP32 in the
binade of the reference value; the spec does not say of which value. -/
def withinBound (bd : Bound) (ref : Int × Int) (y : Nat) : Bool :=
  match Fmt.f32.decode y with
  | .fin n m e =>
    let (tm, te) := ref
    let ulpE : Int := max (te + (Nat.log2 tm.natAbs : Int) - 23) (-149)
    let (k, u) : Int × Int := match bd with | .ulp k => ((k : Int), ulpE) | .abs22 => (1, -22)
    let lo := min (min e te) u
    let yv : Int := (if n then -(m : Int) else m) * 2 ^ (e - lo).toNat
    let tv : Int := tm * 2 ^ (te - lo).toNat
    let bv : Int := k * 2 ^ (u - lo).toNat
    decide ((yv - tv).natAbs ≤ bv.toNat)
  | _ => false

/-- An inexact approximation: the free value when it lies in the bound, otherwise the nearest value; overflow, and
subnormal results, as R212 gives. -/
def approxResult (op : Nat) (bd : Bound) (ref : Int × Int) (ftz : Bool) (x : Nat) : FRes :=
  let f := Fmt.f32
  let near := roundTo f 0 false (decide (ref.1 < 0)) ref.1.natAbs ref.2 true
  if f.infBits ≤ near.1 % f.signBit then (b2n (decide (ref.1 < 0)) * f.signBit + f.infBits, orf fOverflow fInexact)
  else
    let c := Config.approx op x % 2 ^ 32
    let y := if withinBound bd ref c then c else near.1
    let tiny := f.isSub near.1 || near.1 % f.signBit == 0
    if f.isSub y || (tiny && y % f.signBit == 0) then
      (if ftz then (b2n (f.isNeg y) * f.signBit, orf fUnderflow fInexact) else (y, orf fUnderflow fInexact))
    else (y, fInexact)

/-- A NaN input (R212). -/
def nanRes (s : Bool) : FRes := (Fmt.f32.nan, if s then fInvalid else 0)

/-- An exact power of two: no flag is shown for it, and under ftz a subnormal one is flushed (R212). -/
def pow2Res (ftz neg : Bool) (e : Int) : FRes := roundTo .f32 0 ftz neg 1 e false

def frcp (ftz : Bool) (x0 : Nat) : FRes :=
  let f := Fmt.f32
  let x := f.flush ftz x0
  match f.decode x with
  | .nan s => nanRes s
  | .inf n => (b2n n * f.signBit, 0)
  | .fin n m e =>
    if m == 0 then (b2n n * f.signBit + f.infBits, fDivzero)
    else
      let k := Nat.log2 m
      let p := -(e + (k : Int))
      if m == 2 ^ k && -126 ≤ p && p ≤ 127 then pow2Res ftz n p
      else
        let (tm, te) := refRcp m e
        approxResult 0 (.ulp 1) ((if n then -tm else tm), te) ftz x

def frsq (ftz : Bool) (x0 : Nat) : FRes :=
  let f := Fmt.f32
  let x := f.flush ftz x0
  match f.decode x with
  | .nan s => nanRes s
  | .inf n => if n then (f.nan, fInvalid) else (0, 0)
  | .fin n m e =>
    if m == 0 then (b2n n * f.signBit + f.infBits, fDivzero)
    else if n then (f.nan, fInvalid)
    else
      let k := Nat.log2 m
      let p := e + (k : Int)
      if m == 2 ^ k && p % 2 == 0 then pow2Res ftz false (-(p / 2))
      else approxResult 1 (.ulp 1) (refRsq m e) ftz x

def fex2 (ftz : Bool) (x0 : Nat) : FRes :=
  let f := Fmt.f32
  let x := f.flush ftz x0
  match f.decode x with
  | .nan s => nanRes s
  | .inf n => (if n then 0 else f.infBits, 0)
  | .fin n m e =>
    let fx := toFx n m e
    let isInt := decide (0 ≤ e) || m % 2 ^ (-e).toNat == 0
    if 128 * 2 ^ 320 ≤ fx then (f.infBits, orf fOverflow fInexact)
    else if fx ≤ -150 * 2 ^ 320 then (0, orf fUnderflow fInexact)
    else if isInt then pow2Res ftz false (fx / 2 ^ 320)
    else approxResult 2 (.ulp 2) (refEx2 n m e) ftz x

def flg2 (ftz : Bool) (x0 : Nat) : FRes :=
  let f := Fmt.f32
  let x := f.flush ftz x0
  match f.decode x with
  | .nan s => nanRes s
  | .inf n => if n then (f.nan, fInvalid) else (x, 0)
  | .fin n m e =>
    if m == 0 then (f.signBit + f.infBits, fDivzero)
    else if n then (f.nan, fInvalid)
    else
      let k := Nat.log2 m
      let p := e + (k : Int)
      if m == 2 ^ k then ((intToFloat f 0 false p).1, 0)
      else approxResult 3 (if 0x3F000000 ≤ x && x ≤ 0x40000000 then .abs22 else .ulp 2) (refLg2 m e) ftz x

/-- FSIN and FCOS (half-turns). -/
def ftrig (cos ftz : Bool) (x0 : Nat) : FRes :=
  let f := Fmt.f32
  let x := f.flush ftz x0
  match f.decode x with
  | .nan s => nanRes s
  | .inf _ => (f.nan, fInvalid)
  | .fin n m e =>
    let one (neg : Bool) : FRes := (b2n neg * f.signBit + 0x3F800000, 0)
    if 1 ≤ e || m == 0 then (if cos then one false else (b2n n * f.signBit, 0))
    else
      let sh := (-e).toNat
      let whole := m / 2 ^ sh
      if m % 2 ^ sh == 0 then (if cos then one (whole % 2 == 1) else (b2n n * f.signBit, 0))
      else if 1 ≤ sh && m % 2 ^ sh == 2 ^ (sh - 1) then
        (if cos then (0, 0) else one ((whole % 2 == 1) != n))
      else approxResult (if cos then 5 else 4) .abs22 (refTrig cos n m e) ftz x

end Sys2Proof.Machine
end

