-- ==== Sys2Proof/Machine/Flags.lean ====
section
/-! DEFINITION. Rounding modes and float flags (03_numbers R68 to R71; 10_float R204, R206): every flag an instruction sets
goes through `addFlags` and reaches `fst` when the instruction completes. -/

namespace Sys2Proof.Machine

open Sys2Proof

/-- `fmode.rm` and `fmode.ftz` (Table 3.5). -/
def Thread.rm (th : Thread) : Mode := th.fmode % 8
def Thread.ftz (th : Thread) : Bool := bit th.fmode 3

/-- The mode of a rounding field (R204). -/
def rmMode (th : Thread) : Rm → Mode
  | .ne => 0
  | .rz => 1
  | .ru => 2
  | .rd => 3
  | .dyn => th.rm

/-- Write a float result with its flags. -/
def putFloat (d : Nat) (r : FRes) (tag : Tag) : M Flow := do
  addFlags r.2
  writeReg d r.1 tag
  pure .seq

/-- Write a predicate with the flags of a comparison. -/
def putFlagged (p : Nat) (r : Bool × Nat) : M Flow := do
  addFlags r.2
  writePred p r.1
  pure .seq

/-- A register read as F32. -/
def f32Src (i : Nat) : M Nat := readBits i .f32

/-- The two modified operands of R205. -/
def modSrcs (a b : Nat) (m : FMods) : M (Nat × Nat) := do
  let th ← thread
  let x ← f32Src a
  let y ← f32Src b
  pure (fmods m.aa m.na th.ftz x, fmods m.ab m.nb th.ftz y)

end Sys2Proof.Machine
end

