-- ==== Sys2Proof/Machine/Sweep.lean ====
section
/-! DEFINITION. The sweeps (10_float R223 to R229): one iteration is one issue. -/

namespace Sys2Proof.Machine

open Sys2Proof

/-- The step of a code (Table 2.9). -/
def stepBytes (c : Nat) : Nat := if c == 0 then 0 else 32 * 2 ^ (c - 1)

/-- An address of an iteration (R225): the place of `n` bytes, aligned to their number, in the scratch aperture. -/
def sweepPlace (a n : Nat) : M (Home × Nat) := do
  if a / 2 ^ 56 != 0xFF then trap .addr a
  else
    match ← checkMem a n n with
    | .row h off => pure (h, off)
    | .glob _ => trap .addr a

/-- The words of a block, lowest first. -/
def blockWords : Nat → Nat → List Nat
  | 0, _ => []
  | n + 1, v => v % 2 ^ 32 :: blockWords n (v / 2 ^ 32)

/-- A list of words as a block, `w` bits each. -/
def wordsBlock (w : Nat) : List Nat → Nat
  | [] => 0
  | x :: xs => x + 2 ^ w * wordsBlock w xs

/-- A sweep's parts: bytes written to D, whether D is read too, and the result of an iteration from D, A and B. -/
structure SweepOp where
  dn : Nat
  readsD : Bool
  usesB : Bool
  f : Mode → Bool → Nat → Nat → Nat → FRes

/-- The index of the iteration to perform: `swp.iter` of a sweep in mid-course, else 0 (R226). -/
def Thread.sweepStart (th : Thread) : Nat := if th.swpAct then th.swpIter else 0

/-- One issue of a sweep (R226): the iteration that `swp` names, then the next issue or the end. DESIGN CHOICE (log entry 122): of several
addresses that fail, the destination's aperture, alignment and bound come first, then those of a and b, then what the reads of a, b and the
destination meet. -/
def sweepBody (op : SweepOp) (d a b cnt sd sa sb : Nat) : M Flow := do
  let th ← thread
  let i := th.sweepStart
  if cnt == 0 then do
    modThread fun th => { th with swpAct := false, swpIter := 0 }
    pure .seq
  else if cnt ≤ i then trap .illegal th.pc
  else do
    let db ← readAddr d
    let ab ← readAddr a
    let bb ← if op.usesB then readAddr b else pure 0
    modThread fun th => { th with swpAct := true, swpIter := i }
    let da := (db + i * stepBytes sd) % 2 ^ 64
    let aa := (ab + i * stepBytes sa) % 2 ^ 64
    let ba := (bb + i * stepBytes sb) % 2 ^ 64
    let (dh, doff) ← sweepPlace da op.dn
    let (ah, aoff) ← sweepPlace aa 32
    let (bh, boff) ← if op.usesB then sweepPlace ba 32 else pure (ah, aoff)
    checkBrk da op.dn op.readsD true
    checkBrk aa 32 true false
    if op.usesB then checkBrk ba 32 true false
    let x ← readRow ah aoff 32 aa
    let y ← if op.usesB then readRow bh boff 32 ba else pure 0
    let z ← if op.readsD then readRow dh doff op.dn da else pure 0
    let r := op.f th.rm th.ftz z x y
    writeRow dh doff op.dn da r.1
    addFlags r.2
    if i + 1 < cnt then do
      modThread fun th => { th with swpAct := true, swpIter := i + 1 }
      pure .again
    else do
      modThread fun th => { th with swpAct := false, swpIter := 0 }
      pure .seq

/-- Eight words of A and B through a scalar operation, with the OR of the flags. -/
def lanes2 (f : Nat → Nat → FRes) (x y : Nat) : FRes :=
  let rs := List.zipWith f (blockWords 8 x) (blockWords 8 y)
  (wordsBlock 32 (rs.map (·.1)), rs.foldl (fun k r => orf k r.2) 0)

/-- Eight words of A, B and D. -/
def lanes3 (f : Nat → Nat → Nat → FRes) (x y z : Nat) : FRes :=
  let rs := List.zipWith (fun (p : Nat × Nat) w => f p.1 p.2 w) ((blockWords 8 x).zip (blockWords 8 y)) (blockWords 8 z)
  (wordsBlock 32 (rs.map (·.1)), rs.foldl (fun k r => orf k r.2) 0)

/-- Eight words of A into elements of `w` bits. -/
def lanes1 (w : Nat) (f : Nat → FRes) (x : Nat) : FRes :=
  let rs := (blockWords 8 x).map f
  (wordsBlock w (rs.map (·.1)), rs.foldl (fun k r => orf k r.2) 0)

/-- R224. -/
def execSwadd (g : Guard) (d a b cnt sd sa sb : Nat) (s : State) : Host.Outcome State Fault Refusal :=
  codeSwp [.even d, .even a, .even b] [] g [] (sweepBody
    ⟨32, false, true, fun m z _ x y => lanes2 (fadd .f32 m z) x y⟩ d a b cnt sd sa sb) s
/-- R224. -/
def execSwmul (g : Guard) (d a b cnt sd sa sb : Nat) (s : State) : Host.Outcome State Fault Refusal :=
  codeSwp [.even d, .even a, .even b] [] g [] (sweepBody
    ⟨32, false, true, fun m z _ x y => lanes2 (fmul .f32 m z) x y⟩ d a b cnt sd sa sb) s
/-- R224. -/
def execSwfma (g : Guard) (d a b cnt sd sa sb : Nat) (s : State) : Host.Outcome State Fault Refusal :=
  codeSwp [.even d, .even a, .even b] [] g [] (sweepBody
    ⟨32, true, true, fun m z w x y => lanes3 (ffma .f32 m z) x y w⟩ d a b cnt sd sa sb) s
/-- R224, R209. -/
def execSwmax (g : Guard) (d a b cnt sd sa sb : Nat) (s : State) : Host.Outcome State Fault Refusal :=
  codeSwp [.even d, .even a, .even b] [] g [] (sweepBody
    ⟨32, false, true, fun _ z _ x y => lanes2 (fun u v => fminmax .f32 true (fmods false false z u) (fmods false false z v)) x y⟩
    d a b cnt sd sa sb) s
/-- R224: eight BF16 values. -/
def execSwcvt (g : Guard) (d a cnt sd sa : Nat) (s : State) : Host.Outcome State Fault Refusal :=
  codeSwp [.even d, .even a] [] g [] (sweepBody
    ⟨16, false, false, fun m z _ x _ => lanes1 16 (floatToFloat .f32 .bf16 m z) x⟩ d a 0 cnt sd sa 0) s
/-- R224. -/
def execSwcopy (g : Guard) (d a cnt sd sa : Nat) (s : State) : Host.Outcome State Fault Refusal :=
  codeSwp [.even d, .even a] [] g [] (sweepBody ⟨32, false, false, fun _ _ _ x _ => (x, 0)⟩ d a 0 cnt sd sa 0) s
/-- R224: the accumulator takes the words one after the other. -/
def execSwsum (g : Guard) (d a cnt sa : Nat) (s : State) : Host.Outcome State Fault Refusal :=
  codeSwp [.even d, .even a] [] g [] (sweepBody
    ⟨4, true, false, fun m z w x _ =>
      (blockWords 8 x).foldl (fun (r : FRes) u => let q := fadd .f32 m z r.1 u; (q.1, orf r.2 q.2)) (w, 0)⟩ d a 0 cnt 0 sa 0) s
/-- R224, R212. -/
def execSwex2 (g : Guard) (d a cnt sd sa : Nat) (s : State) : Host.Outcome State Fault Refusal :=
  codeSwp [.even d, .even a] [] g [] (sweepBody
    ⟨32, false, false, fun _ z _ x _ => lanes1 32 (fex2 z) x⟩ d a 0 cnt sd sa 0) s

end Sys2Proof.Machine
end

