-- ==== Sys2Proof/Machine/Copy.lean ====
section
/-! DEFINITION. The copies (12_memory R279 to R282) and what lands later: CPA, WAITB, CPB, the landings of both, the landing
barrier word (14_barrier R311 to R314), the delivery of loads (R155) and the eviction of a line (R254). -/

namespace Sys2Proof.Machine

open Sys2Proof

/-! ## The landing barrier word (Table 14.2) -/

def xbPhase (w : Nat) : Nat := w % 16
def xbArrivals (w : Nat) : Nat := bits w 31 8
def xbPieces (w : Nat) : Nat := bits w 63 32
def xbReload (w : Nat) : Nat := bits w 87 64
/-- Whether the fields that must be zero are. -/
def xbZero (w : Nat) : Bool := bits w 127 88 == 0 && bits w 7 4 == 0

/-- The phase rule (R312): the word after it, and whether a phase completed. -/
def xbJudge (w : Nat) : Nat × Bool :=
  if xbArrivals w == 0 && xbPieces w == 0 then
    (setBits (setBits w 3 0 (xbPhase w + 1)) 31 8 (xbReload w), true)
  else (w, false)

/-- The threads waiting on a barrier word go on (R312). -/
def State.releaseLanding (s : State) (h : Home) (off : Nat) : State :=
  { s with threads := s.threads.mapv fun _ th =>
      match th.wait with
      | some (.landing h' o _) => if h' == h && o == off then { th with cont := .skip } else th
      | _ => th }

/-- The 16 bytes of a barrier word. -/
def Alloc.word16 (a : Alloc) (tick off : Nat) : Nat := leNat (readPlaces a tick (places false 0 off 16))

/-- One update of a barrier word, judged by the phase rule; the row is written as R235 says. -/
def State.putBarrier (s : State) (h : Home) (off tick w : Nat) : State :=
  match s.allocAt h with
  | none => s
  | some a =>
    let (w', done) := xbJudge w
    let s := s.setAllocAt h (writePlaces a tick (places false 0 off 16) (leBytes 16 w') [])
    if done then s.releaseLanding h off else s

/-! ## The instructions -/

/-- A generic address that must lie in the scratch aperture: the place of `n` bytes, aligned to `al`. -/
def scratchAt (a n al : Nat) : M (Home × Nat) := do
  if a / 2 ^ 56 != 0xFF then trap .addr a
  else
    match ← checkMem a n al with
    | .row h off => pure (h, off)
    | .glob _ => trap .addr a

/-- The checks of a global source (R7): its physical address and its PTE. -/
def copyCheck (va n : Nat) : M (Nat × Nat) := do
  let _ ← logLoad va n false
  let (pa, pte) ← xlate va .load
  if isHost pte pa then hostCheck va
  pure (pa, pte)

/-- Where a checked global source is read: its physical address (host memory under its key), and the request of a peer's data. -/
def copySource (pa pte va n : Nat) : M (Nat × Option Nat) := do
  if pteLink pte == 0 then pure (pa, none)
  else if pteLink pte == 2 then pure (hostKey pa, none)
  else do
    let t ← curT
    let g ← gang
    let s ← get
    if s.lostDev (pteDev pte) then trap .remote va
    else
      set (s.askPeer (pteDev pte) 1 { dev := pteDev pte, t := t, kern := g.kern, ctx := g.ctx, posted := false, eseq := 0, va := va,
                                      fetch := false, slog := false, tagged := bit pte 55, issue := 0, word := 0, more := [] }
        fun tag => pa / 32 * 32 + 2 ^ 64 * ((pa % 32 + n + 31) / 32) + 2 ^ 72 * tag)
      pure (pa, some s.remNext)

/-- A copy's source in a window or stack segment: none where it has an uncorrectable error, which its landing reports (R281). -/
def copyRow (h : Home) (off n a : Nat) : M (Option Nat) := do
  let t ← curT
  let tick ← now
  let no := (← get).curNo
  match (← get).allocAt h with
  | none => trap .spbound a
  | some al =>
    let ps := placesIn h (laneOf t) off n
    let sc := scanPlaces al tick ps 0
    match al.struckAt no ps, sc.expired, sc.memerr with
    | some _, _, _ => do
      modify fun s => (s.setAllocAt h (al.meet no ps)).ecount (dieOfCore (coreOf t)) 1 1
      pure none
    | none, some i, _ => trap .expired (a + i)
    | none, none, some _ => do
      modify fun s => s.ecount (dieOfCore (coreOf t)) 1 1
      pure none
    | none, none, none => do
      if sc.lapse then setLapf
      modify fun s => s.cureRows (coreOf t) h (wordsAt ps)
      pure (some (leNat (readPlaces al tick ps)))

/-- The source of a CPA as its checks leave it. -/
inductive CpaSrc where
  | zero
  | row (v : Option Nat)
  | glob (pa pte va : Nat)
deriving DecidableEq, Repr

/-- The checks of a CPA's source of `n` valid bytes at `a` (R279): none where there are none. -/
def cpaSource (a vb n : Nat) : M CpaSrc := do
  if vb == 0 then pure .zero
  else
    match ← checkMem a vb n with
    | .row h off => pure (.row (← copyRow h off vb a))
    | .glob va => do
      let (pa, pte) ← copyCheck va vb
      pure (.glob pa pte va)

/-- A copy is in flight; each has a number of its own, in the order of issue (R281). -/
def launchCopy (l : Landing) : M Unit := do
  let t ← curT
  modify fun s => { s with issueNo := s.issueNo + 1 }.updCore (coreOf t) fun c => { c with landings := c.landings ++ [l] }

/-- R279. -/
def execCpa (g : Guard) (d base idx : Nat) (off : Int) (lgw bt : Nat) (cls : AccClass) (s : State) :
    Host.Outcome State Fault Refusal :=
  code [.even d, .even base, .r idx] g [] (do
    let n := 4 * 2 ^ lgw
    let a ← effAddr0 base off
    let vb := min (← natSrc idx) n
    let dst ← readAddr d
    let (h, o) ← scratchAt dst n n
    modThread fun th => { th with ranges := [(h, o + n)] }
    let src ← cpaSource a vb n
    checkBrk dst n false true
    if vb != 0 then checkBrk a vb true false
    let th ← thread
    if 63 ≤ th.bt.getD bt 0 then waitFor (.batch bt 62)
    let t ← curT
    let gg ← gang
    let l : Landing := { t := t, lin := th.lin, ctx := gg.ctx, bt := some bt, home := h, off := o, len := n, vb := vb, dst := dst, src := a,
                         pa := 0, cls := cls, got := none, rem := none, no := (← get).issueNo, bar := none }
    let l ← match src with
      | .zero => pure { l with got := some (0, false) }
      | .row v => pure { l with got := some (v.getD 0, v.isNone) }
      | .glob pa pte va => do
        let (pa, r) ← copySource pa pte va vb
        pure { l with pa := pa, rem := r }
    modThread fun th => { th with bt := th.bt.set bt (th.bt.getD bt 0 + 1) }
    launchCopy l
    pure .seq) s

/-- R280, R281. -/
def execWaitb (g : Guard) (bt n : Nat) (s : State) : Host.Outcome State Fault Refusal :=
  code [] g [] (do
    reportCopies
    let th ← thread
    if th.bt.getD bt 0 ≤ n then pure .seq else waitFor (.batch bt n)) s

/-- The address and length of piece `k` of `n` bytes at `a` (R282). -/
def piece (a n k : Nat) : Nat × Nat :=
  let lo := max a ((a / 128 + k) * 128)
  let hi := min (a + n) ((a / 128 + k + 1) * 128)
  (lo, hi - lo)

/-- The number of pieces. -/
def pieceCount (a n : Nat) : Nat := (a % 128 + n + 127) / 128

/-- R282: one piece an issue. -/
def execCpb (g : Guard) (d base idx : Nat) (off : Int) (cls : AccClass) (s : State) : Host.Outcome State Fault Refusal :=
  codeSwp [.even d, .range (d + 2) 2, .even base, .r idx] [] g [] (do
    let a ← effAddr0 base off
    let n ← natSrc idx
    let dst ← readAddr d
    let bar ← (do
      let lo ← readBits (d + 2) .loAddr
      let hi ← readBits (d + 3) .hiAddr
      pure (lo + 2 ^ 32 * hi) : M Nat)
    let th ← thread
    let start := th.sweepStart
    if n == 0 || n % 32 != 0 || 65536 < n then trap .illegal th.pc
    if a / 2 ^ 56 != 0 || 2 ^ 56 < a + n || a % 32 != 0 then trap .addr a
    let (h, o) ← scratchAt dst n 32
    let (bh, bo) ← scratchAt bar 16 16
    if pieceCount a n ≤ start then do
      modThread fun th => { th with swpAct := false, swpIter := 0 }
      pure .seq
    else do
      modThread fun th => { th with swpAct := true, swpIter := start }
      modThread fun th => { th with ranges := [(h, o + n), (bh, bo + 16)] }
      let (pa, len) := piece a n start
      let (pp, pte) ← copyCheck pa len
      checkBrk pa len true false
      checkBrk (dst + (pa - a)) len false true
      let t ← curT
      let gg ← gang
      let (phys, r) ← copySource pp pte pa len
      launchCopy { t := t, lin := th.lin, ctx := gg.ctx, bt := none, home := h, off := o + (pa - a), len := len, vb := len,
                   dst := dst + (pa - a), src := pa, pa := phys, cls := cls, got := none, rem := r, no := (← get).issueNo,
                   bar := some (bh, bo, bar) }
      if start + 1 < pieceCount a n then do
        modThread fun th => { th with swpAct := true, swpIter := start + 1 }
        pure .again
      else do
        modThread fun th => { th with swpAct := false, swpIter := 0 }
        pure .seq) s

/-! ## Landing -/

/-- A copy fault waits for its thread's next copy-fault point (R281). -/
def State.copyFault (s : State) (l : Landing) (c : Cause) (v : Nat) : State :=
  s.updThread l.t fun th => if th.lin == l.lin then { th with copyFaults := th.copyFaults ++ [(l.no, c, v)] } else th

/-- The lapse flag of the thread that issued a copy. -/
def State.copyLapse (s : State) (l : Landing) : State :=
  s.updThread l.t fun th => if th.lin == l.lin then { th with lapf := true } else th

/-- The source bytes of a copy as it lands: what a peer answered, or what memory holds now; the flag says that the copy has
failed. -/
def State.landSource (s : State) (core : Nat) (l : Landing) : (Nat × Bool) × State :=
  match l.got with
  | some x => (x, if x.2 && l.rem.isNone then s.copyFault l .memerr l.src else s)
  | none =>
    if hostKey 0 ≤ l.pa then ((s.phys l.vb l.pa, false), s)
    else
      let (g, s) := s.readClass core l.cls l.pa (2 ^ 55) l.vb
      match g.poison with
      | some _ => ((0, true), s.copyFault l .memerr l.src)
      | none => ((g.v, false), s)

/-- The rows of a landing's places whose metadata it finds bad, met by it (R242). -/
def State.landMeet (s : State) (l : Landing) (a : Alloc) (ps : List (Nat × Nat)) : State :=
  if ps.any fun p => (a.row p.1).badMeta then s.setAllocAt l.home (a.meet l.no ps) else s

/-- Land bytes row by row (R235, R237): a row that has expired under the trapping class, or cannot be read, takes none. -/
def State.landRow (s : State) (l : Landing) (tick data row : Nat) : State :=
  match s.allocAt l.home with
  | none => s
  | some a =>
    let all := places false 0 l.off l.len
    let ps := all.filter fun p => p.1 == row
    let bs := ((all.zip (leBytes l.len data)).filter fun p => p.1.1 == row).map (·.2)
    let at0 := l.dst + offsetOf all (ps.headD (0, 0))
    let sc := scanPlaces a tick ps 0
    match sc.expired, sc.memerr with
    | some _, _ => s.copyFault l .expired at0
    | none, some _ => ((s.landMeet l a ps).copyFault l .memerr at0).ecount (dieOfCore (coreOf l.t)) 1 1
    | none, none =>
      let s := s.setAllocAt l.home (writePlaces a tick ps bs [])
      if sc.lapse then s.copyLapse l else s

/-- The rows of a landing. -/
def Landing.rows (l : Landing) : List Nat :=
  (List.range (l.len / 128 + 2)).filterMap fun k =>
    if 128 * (l.off / 128 + k) < l.off + l.len then some (l.off / 128 + k) else none

/-- The bytes land in scratch. -/
def State.landBytes (s : State) (l : Landing) (data : Nat) : State :=
  let tick := s.tickOf l.ctx
  l.rows.foldl (fun s r => s.landRow l tick data r) s

/-- A copy under a batch tag counts off (R279). -/
def State.countBatch (s : State) (l : Landing) : State :=
  match l.bt with
  | none => s
  | some k => s.updThread l.t fun th => if th.lin == l.lin then { th with bt := th.bt.set k (th.bt.getD k 0 - 1) } else th

/-- A piece counts off at its barrier (R312, R314). -/
def State.countPiece (s : State) (l : Landing) : State :=
  match l.bar with
  | none => s
  | some (h, off, a) =>
    match s.allocAt h with
    | none => s
    | some al =>
      let tick := s.tickOf l.ctx
      let sc := scanPlaces al tick (places false 0 off 16) 0
      match sc.expired, sc.memerr with
      | some _, _ => s.copyFault l .expired a
      | none, some _ => ((s.landMeet { l with home := h } al (places false 0 off 16)).copyFault l .memerr a).ecount (dieOfCore (coreOf l.t)) 1 1
      | none, none =>
        let w := al.word16 tick off
        let s := s.putBarrier h off tick (setBits w 63 32 (xbPieces w + 2 ^ 32 - 1))
        if sc.lapse then s.copyLapse l else s

/-- The `n`-th copy of a core lands, when its data is there. -/
def State.land (s : State) (core n : Nat) (isPiece : Bool) : State :=
  match (s.core core).landings[n]? with
  | none => s
  | some l =>
    if l.bar.isSome != isPiece || (l.rem.isSome && l.got == none) then s
    else
      let s := s.updCore core fun c => { c with landings := c.landings.eraseIdx n }
      let ((data, bad), s) := s.landSource core l
      let s := if bad then s else s.landBytes l data
      ((s.countBatch l).countPiece l).finishStop l.ctx

/-- R279, R281: a copy of a batch lands and counts off. -/
def execCpaLanding (core n : Nat) (s : State) : Host.Outcome State Fault Refusal := .next (s.land core n false)

/-- R282, R312: a piece lands and counts off at its barrier. -/
def execCpbPieceLanding (core n : Nat) (s : State) : Host.Outcome State Fault Refusal := .next (s.land core n true)

/-! ## Loads and lines -/

/-- Register words of a thread, written one after the other. -/
def State.writeRegs (s : State) (t : Nat) : List (Nat × TWord) → State
  | [] => s
  | (i, w) :: ws => (s.writeReg t i w).writeRegs t ws

/-- R155, R182: the `n`-th outstanding load of a thread is delivered. -/
def execLoadDelivery (t n : Nat) (s : State) : Host.Outcome State Fault Refusal :=
  match s.threads.find t with
  | none => .next s
  | some th =>
    match th.loads[n]? with
    | none => .next s
    | some l =>
      let s := (s.updThread t fun th => { th with loads := th.loads.eraseIdx n }).writeRegs t l.dsts
      match s.gangs.find (gidOf t) with
      | some g => .next (s.finishStop g.ctx)
      | none => .next s

/-- R254: the column cache may evict any line at any time. -/
def execColumnCacheEviction (core line : Nat) (s : State) : Host.Outcome State Fault Refusal :=
  .next (s.evict core line)

end Sys2Proof.Machine
end

