-- ==== Sys2Proof/Machine/Alloc.lean ====
section
/-! DEFINITION. The allocation family (11_allocation R244 to R248): SPALLOC, SPFREE, RTOUCH, RCLASS and RAGE. -/

namespace Sys2Proof.Machine

open Sys2Proof

/-- The cell pages of a core (R230). -/
def corePages : Nat := 3072

/-- The pages that a gang holds (R231). -/
def Gang.pages (g : Gang) : Nat := g.regs.pages + g.scratch.pages + g.stack.pages

/-- The pages that an instance holds. -/
def GInst.pages (x : GInst) : Nat :=
  (match x.window with | some a => a.pages | none => 0) + (match x.tile with | some a => a.pages | none => 0)

/-- Whether a context's pages are copy-on-write, for others to claim: it is descheduled, halted or faulted (R86, R88, R93). -/
def Ctx.offPages (x : Ctx) : Bool := x.st == .descheduled || x.st == .halted || x.st == .faulted

/-- The pages of a core in use by contexts whose pages may not be claimed (R87). -/
def State.usedPages (s : State) (core : Nat) : Nat :=
  let on (c : Nat) : Bool := !(s.ctx c).offPages
  s.gangs.foldl (fun n e => if coreOfGid e.1 == core && on e.2.ctx then n + e.2.pages else n) 0
  + s.insts.foldl (fun n e => if e.2.core == core && on e.2.ctx then n + e.2.pages else n) 0

/-- The pages that a context holds package-wide (R79). -/
def State.ctxPages (s : State) (c : Nat) : Nat :=
  s.gangs.foldl (fun n e => if e.2.ctx == c then n + e.2.pages else n) 0
  + s.parked.foldl (fun n p => if p.gang.ctx == c then n + p.gang.pages else n) 0
  + s.insts.foldl (fun n e => if e.2.ctx == c then n + e.2.pages else n) 0

/-- The pages that a context holds on a core. -/
def State.ctxCorePages (s : State) (c core : Nat) : Nat :=
  s.gangs.foldl (fun n e => if coreOfGid e.1 == core && e.2.ctx == c then n + e.2.pages else n) 0
  + s.parked.foldl (fun n p => if coreOfGid p.gid == core && p.gang.ctx == c then n + p.gang.pages else n) 0
  + s.insts.foldl (fun n e => if e.2.core == core && e.2.ctx == c then n + e.2.pages else n) 0

/-- The cell pages of a gang in slot `gid`, and of an instance. -/
def Gang.pageList (g : Gang) (gid : Nat) : List (PageOf × Nat) :=
  (List.range g.regs.pages).map (.regs gid, ·) ++ (List.range g.scratch.pages).map (.scratch gid, ·)
  ++ (List.range g.stack.pages).map (.stack gid, ·)
def GInst.pageList (x : GInst) (i : Nat) : List (PageOf × Nat) :=
  (List.range (match x.window with | some a => a.pages | none => 0)).map (.window i, ·)
  ++ (List.range (match x.tile with | some a => a.pages | none => 0)).map (.tile i, ·)

/-- The cell pages of a context on a core, each with its kernel. -/
def State.pagesIn (s : State) (core c : Nat) : List (Nat × PageOf × Nat) :=
  (s.gangs.flatMap fun e => if coreOfGid e.1 == core && e.2.ctx == c then (e.2.pageList e.1).map (e.2.kern, ·) else [])
  ++ (s.parked.flatMap fun p => if coreOfGid p.gid == core && p.gang.ctx == c then (p.gang.pageList p.gid).map (p.gang.kern, ·) else [])
  ++ s.insts.flatMap fun e => if e.2.core == core && e.2.ctx == c then (e.2.pageList e.1).map (e.2.kern, ·) else []

/-- The pages of a context that have been saved from a core. -/
def State.savedOn (s : State) (core c : Nat) : Nat := ((s.core core).saved.filter fun p => p.ctx == c).length

/-- A backing slot of a context that holds no saved page (R79). -/
def State.freeSlot (s : State) (c : Nat) : Nat :=
  let used := s.cores.flatMap fun e => (e.2.saved.filter fun p => p.ctx == c).map (·.slot)
  ((List.range (used.length + 1)).find? fun k => !used.contains k).getD 0

/-- The contexts whose pages may be claimed, ascending. -/
def State.offCtxs (s : State) : List Nat := (s.ctxs.filter fun e => e.2.offPages).map (·.1)

/-- The pages of a core that no active gang uses and that hold no copy-on-write data in place. -/
def State.blankPages (s : State) (core : Nat) : Nat :=
  corePages - s.usedPages core - s.offCtxs.foldl (fun n c => n + (s.ctxCorePages c core - s.savedOn core c)) 0

/-- Save one page of a context to a slot of its backing area (R79, R87): the slot's layout is open. -/
def State.savePage (s : State) (core c : Nat) : State :=
  match (s.pagesIn core c).find? fun p => !(s.core core).saved.any fun q => q.kern == p.1 && q.home == p.2.1 && q.page == p.2.2 with
  | none => s
  | some p =>
    let k := s.freeSlot c
    let a := (s.ctx c).bkbase + 5120 * k
    let s := ({ s with free := s.free + 1 }.physSet c 5120 a (Config.freePage s.free)).curePoison a 5120
    s.updCore core fun x => { x with saved := x.saved ++ [{ ctx := c, slot := k, kern := p.1, home := p.2.1, page := p.2.2 }] }

/-- Save pages of a context until `n` are blank. -/
def State.saveFrom (s : State) (core n c : Nat) : Nat → State
  | 0 => s
  | f + 1 =>
    if n ≤ s.blankPages core || s.ctxCorePages c core ≤ s.savedOn core c then s else (s.savePage core c).saveFrom core n c f

/-- Make `n` pages of a core blank for context `c` by saving copy-on-write pages of others (R87). -/
def State.claimPages (s : State) (c core n : Nat) : State :=
  (s.offCtxs.filter (· != c)).foldl (fun s o => s.saveFrom core n o corePages) s

/-- The words of a restored row that its backing copy shows as uncorrectable (R87): which words those are of a slot that has an error is
open, since the layout is (R79). -/
def badWords (free slot row : Nat) : Nat := (List.range 32).foldl (fun m k => setBit m k (Config.slotHolds free slot row k)) 0

/-- A page restored from a backing slot that has an error: its uncorrectable words are poisoned (R87). -/
def Alloc.spoil (a : Alloc) (free slot page : Nat) : Alloc :=
  (List.range 32).foldl (fun a k =>
    let r := a.row (32 * page + k)
    a.setRow (32 * page + k) { r with bad := orf r.bad (badWords free slot k) }) a

/-- Change the allocation that a page belongs to. -/
def State.updPageOf (s : State) (kern : Nat) (h : PageOf) (f : Alloc → Alloc) : State :=
  let onGang (gid : Nat) (u : Gang → Gang) : State := s.updGang gid fun g => if g.kern == kern then u g else g
  match h with
  | .regs g => onGang g fun x => { x with regs := f x.regs }
  | .scratch g => onGang g fun x => { x with scratch := f x.scratch }
  | .stack g => onGang g fun x => { x with stack := f x.stack }
  | .window i => s.updInst i fun x => { x with window := x.window.map f }
  | .tile i => s.updInst i fun x => { x with tile := x.tile.map f }

/-- Restore a saved page (R87): poisoned where its backing slot shows an uncorrectable HBM4E error. -/
def State.restorePage (s : State) (p : SavedPage) : State :=
  let a := (s.ctx p.ctx).bkbase + 5120 * p.slot
  let s := s.noteRead a 5120
  match s.firstPoison a 5120 0 with
  | none => s
  | some _ => { s with free := s.free + 1 }.updPageOf p.kern p.home fun x => x.spoil s.free p.slot p.page

/-- The rows of pages `p` to `q - 1` as they are created in a tick. -/
def Alloc.freshRows (a : Alloc) (tick p q : Nat) : Alloc :=
  { a with pages := q, rows := (List.range (32 * (q - p))).foldl (fun rs k => rs.put (32 * p + k) (Row.fresh tick)) a.rows }

/-- The rows below page `q`. -/
def Alloc.cutRows (a : Alloc) (q : Nat) : Alloc := { a with pages := q, rows := a.rows.keep fun n _ => decide (n < 32 * q) }

/-- R245. -/
def execSpalloc (g : Guard) (d a _k : Nat) (s : State) : Host.Outcome State Fault Refusal :=
  code [.r d, .r a] g [.reg d .u32] (do
    let q := pagesOf (← natSrc a)
    let t ← curT
    let gg ← gang
    let tick ← now
    let s ← get
    let p := gg.scratch.pages
    if q ≤ p then putWord d (4096 * p) .u32
    else if corePages < s.usedPages (coreOf t) + (q - p) || (s.ctx gg.ctx).bkpages < s.ctxPages gg.ctx + (q - p) then
      putWord d 0xFFFFFFFF .u32
    else do
      modify fun s => (s.claimPages gg.ctx (coreOf t) (q - p)).updGang (gidOf t) fun x => { x with scratch := x.scratch.freshRows tick p q }
      putWord d (4096 * q) .u32) s

/-- R245. -/
def execSpfree (g : Guard) (d a _k : Nat) (s : State) : Host.Outcome State Fault Refusal :=
  code [.r d, .r a] g [.reg d .u32] (do
    let q := pagesOf (← natSrc a)
    let t ← curT
    let gg ← gang
    let p := gg.scratch.pages
    if p ≤ q then putWord d (4096 * p) .u32
    else if (← get).windowBusy (gidOf t) (4096 * q) then waitFor (.landings (gidOf t) (4096 * q))
    else do
      modify fun s => s.updGang (gidOf t) fun x => { x with scratch := x.scratch.cutRows q }
      putWord d (4096 * q) .u32) s

/-- The address checks of RTOUCH and RAGE (R246, R248): a place in scratch or stack. -/
def rowPlace (a n al : Nat) : M (Home × Nat) := do
  match ← checkMem a n al with
  | .row h off => pure (h, off)
  | .glob _ => trap .addr a

/-- The row of an offset in a home (Table 11.1). -/
def rowOf (h : Home) (off : Nat) : Nat := match h with | .stack _ => off / 4 | _ => off / 128

/-- The bytes of one row's step in a home's address space. -/
def rowStep (h : Home) : Nat := match h with | .stack _ => 4 | _ => 128

/-- The operations on rows raise MEMERR as the accesses do (R242): `n` rows from row `r`, the first at address `va`. -/
def meetSpan (h : Home) (al : Alloc) (r n va : Nat) : M Unit := do
  let t ← curT
  meetAt h al ((List.range n).map fun i => (r + i, 4 * laneOf t)) fun i => va + rowStep h * i

/-- The first of `n` rows of which `p` holds, as an index. -/
def firstRow (a : Alloc) (r : Nat) (p : Row → Bool) : Nat → Nat → Option Nat
  | 0, _ => none
  | n + 1, i => if p (a.row (r + i)) then some i else firstRow a r p n (i + 1)

/-- Restamp `n` rows from row `r`; expired ones are cleared (R246). -/
def Alloc.touch (a : Alloc) (tick r : Nat) : Nat → Alloc
  | 0 => a
  | n + 1 =>
    let x := a.row (r + n)
    (a.setRow (r + n) (if a.expired x tick then Row.fresh tick else { x with stamp := tick })).touch tick r n

/-- The number of expired rows among `n` from row `r`. -/
def Alloc.countExpired (a : Alloc) (tick r : Nat) : Nat → Nat
  | 0 => 0
  | n + 1 => b2n (a.expired (a.row (r + n)) tick) + a.countExpired tick r n

/-- R246. -/
def execRtouch (g : Guard) (d a b _k : Nat) (s : State) : Host.Outcome State Fault Refusal :=
  code [.r d, .even a, .r b] g [.reg d .u32] (do
    let va ← readAddr a
    let n ← natSrc b
    if n == 0 || 256 < n then illegal
    let step := if va / 2 ^ 56 == 0xFE then 4 else 128
    if va / 2 ^ 56 != 0xFE && va / 2 ^ 56 != 0xFF then trap .addr va
    let (h, off) ← rowPlace va (step * n) step
    let tick ← now
    match (← get).allocAt h with
    | none => trap .spbound va
    | some al => do
      let r := rowOf h off
      meetSpan h al r n va
      match firstRow al r (fun x => !al.lapses x && al.expired x tick) n 0 with
      | some i => trap .expired (va + step * i)
      | none => pure ()
      let k := al.countExpired tick r n
      modify fun s => s.setAllocAt h (al.touch tick r n)
      if k != 0 then setLapf
      putWord d k .u32) s

/-- The number of each class (R247, R248). -/
def classCode : LifeClass → Nat | .refreshed => 0 | .lapsing => 1 | .trapping => 2

/-- The allocation that RCLASS names (R247). -/
def namedAlloc (a : Nat) : M (Home × Alloc) := do
  let t ← curT
  let s ← get
  match aperture a with
  | some (.scratch w off) =>
    if off != 0 then trap .addr a
    else
      match s.windowHome (gidOf t) w with
      | none => trap .spbound a
      | some h =>
        match s.allocAt h with
        | some al => pure (h, al)
        | none => trap .spbound a
  | some (.stack off) =>
    if off != 0 then trap .addr a
    else
      match s.allocAt (.stack (gidOf t)) with
      | some al => if al.pages == 0 then trap .stkbound a else pure (.stack (gidOf t), al)
      | none => trap .stkbound a
  | _ => trap .addr a

/-- The allocation under a new class (R247), every row stamped. -/
def Alloc.reclass (a : Alloc) (tick : Nat) (cls : LifeClass) (life : Nat) : Alloc :=
  { cls := cls, life := life, pages := a.pages, stamp0 := tick,
    rows := a.rows.mapv fun _ r => if a.expired r tick then Row.fresh tick else { r with stamp := tick } }

/-- Whether a gang is a member of its kernel's population (R346). -/
def Kernel.isMember (k : Kernel) (gidx : Nat) : Bool :=
  k.desc.pmax != 0 && decide (k.desc.pfirst ≤ gidx) && (k.desc.pcount == 0 || decide (gidx < k.desc.pfirst + k.desc.pcount))

/-- R247. -/
def execRclass (g : Guard) (d a : Nat) (_ka : Bool) (cls : LifeClass) (life : Nat) (s : State) :
    Host.Outcome State Fault Refusal :=
  code [.r d, .even a] g [.reg d .u32] (do
    let va ← readAddr a
    let gg ← gang
    let kk ← getKernel gg.kern
    let tick ← now
    let (h, al) ← namedAlloc va
    let isStack := match h with | .stack _ => true | _ => false
    if cls != .refreshed && isStack && kk.isMember gg.gidx then illegal
    meetSpan h al 0 (32 * al.pages) va
    let z := al.countExpired tick 0 (32 * al.pages)
    modify fun s => s.setAllocAt h (al.reclass tick cls life)
    putWord d (z * 65536 + classCode al.cls * 256 + al.life) .u32) s

/-- R248, Table 11.8. -/
def execRage (g : Guard) (d a _k : Nat) (s : State) : Host.Outcome State Fault Refusal :=
  code [.r d, .even a] g [.reg d .u32] (do
    let va ← readAddr a
    if va / 2 ^ 56 != 0xFE && va / 2 ^ 56 != 0xFF then trap .addr va
    let (h, off) ← rowPlace va 1 1
    let tick ← now
    match (← get).allocAt h with
    | none => trap .spbound va
    | some al => do
      let r := al.row (rowOf h off)
      meetSpan h al (rowOf h off) 1 va
      let life := if al.cls == .refreshed then 0 else al.life
      putWord d (classCode al.cls * 2 ^ 30 + b2n (al.expired r tick) * 2 ^ 29 + life * 512 + min (tick - r.stamp) 511) .u32) s

end Sys2Proof.Machine
end

