-- ==== Sys2Proof/Machine/Collective.lean ====
section
/-! DEFINITION. The gang collectives (08_gang R170 to R175; 03_numbers R75). -/

namespace Sys2Proof.Machine

open Sys2Proof

/-- The live threads of a gang. -/
def State.lanesOf (s : State) (gid : Nat) : List Nat := (s.threads.filter fun e => gidOf e.1 == gid).map (·.1)

/-- The arrival of a lane at a PC in a repetition. -/
def arrivalAt (cs : List CollArr) (lane pc rep : Nat) : Option CollArr :=
  cs.find? fun c => c.lane == lane && c.pc == pc && c.rep == rep

/-- The contributors' words by lane, and the mask of their lanes. -/
def contributions (cs : List CollArr) : List TWord × Nat :=
  ((List.range 32).map fun k => match cs.find? fun c => c.lane == k && !c.abst with | some c => c.a | none => ⟨0, .raw⟩,
   cs.foldl (fun m c => if c.abst then m else setBit m c.lane true) 0)

/-- The word at a lane. -/
def wordAt (ws : List TWord) (k : Nat) : TWord := ws.getD k ⟨0, .raw⟩

/-- The lanes whose predicate is true (R173). -/
def trueLanes (ws : List TWord) (m : Nat) : List Nat :=
  (List.range 32).filter fun k => bit m k && (wordAt ws k).bits.toNat == 1

/-! ## Trees (R75) -/

/-- A node of Table 8.7. -/
def redNode (op : RedOp) (x y : Nat) : FRes :=
  match op with
  | .sadd => ((x + y) % 2 ^ 32, 0)
  | .zadd => ((x + y) % 2 ^ 32, 0)
  | .fadd => fadd .f32 0 false x y
  | .smin => (if sext x 32 ≤ sext y 32 then x else y, 0)
  | .smax => (if sext x 32 ≤ sext y 32 then y else x, 0)
  | .fmin => fminmax .f32 false x y
  | .fmax => fminmax .f32 true x y

/-- One level: neighbours combined, absent terms omitted; with the flags of the nodes computed. -/
def treeLevel (f : Nat → Nat → FRes) : List (Option Nat) → List (Option Nat) × Nat
  | x :: y :: r =>
    let (zs, fl) := treeLevel f r
    match x, y with
    | some a, some b => (some (f a b).1 :: zs, orf (f a b).2 fl)
    | some a, none => (some a :: zs, fl)
    | none, b => (b :: zs, fl)
  | r => (r, 0)

/-- The levels of a tree over 2^n terms. -/
def treeRun (f : Nat → Nat → FRes) : Nat → List (Option Nat) → Option Nat × Nat
  | 0, xs => (xs.headD none, 0)
  | n + 1, xs =>
    let (ys, fl) := treeLevel f xs
    let (r, fl') := treeRun f n ys
    (r, orf fl fl')

/-- The tree over the contributors at lanes below `lim`. -/
def tree32 (op : RedOp) (ws : List TWord) (m lim : Nat) : Option Nat × Nat :=
  treeRun (redNode op) 5 ((List.range 32).map fun k => if bit m k && decide (k < lim) then some (wordAt ws k).bits.toNat else none)

/-- The operand kind of Table 8.7. -/
def redKind : RedOp → TagSet | .fadd => .f32 | .fmin => .f32 | .fmax => .f32 | _ => .int
/-- The result tag. -/
def redTag : RedOp → Tag
  | .zadd => .u32 | .fadd => .f32 | .fmin => .f32 | .fmax => .f32 | _ => .s32
/-- The empty-scan value. -/
def redEmpty : RedOp → Nat
  | .smin => 0x7FFFFFFF | .smax => 0x80000000 | .fmin => 0x7F800000 | .fmax => 0xFF800000 | _ => 0

/-- The flags of every lane's scan (R175). -/
def scanFlags (op : RedOp) (ws : List TWord) (m : Nat) (excl : Bool) : Nat :=
  (List.range 32).foldl (fun fl k => if bit m k then orf fl (tree32 op ws m (if excl then k else k + 1)).2 else fl) 0

/-! ## Completion (R170 to R175) -/

/-- The lane that LXCH takes its word from (R172). -/
def lxSource (mode : LxMode) (lane k m : Nat) : Nat :=
  match mode with
  | .abs => k % 32
  | .rot => (lane + 32 - k % 32) % 32
  | .xor => Nat.xor lane (k % 32)
  | .low => ((List.range 32).find? fun j => bit m j).getD 0

/-- What LXCH writes (R172). -/
def lxWord (mode : LxMode) (kp : Bool) (lane k : Nat) (own : TWord) (ws : List TWord) (m : Nat) : TWord :=
  if bit m (lxSource mode lane k m) then wordAt ws (lxSource mode lane k m) else if kp then own else ⟨0, .raw⟩

/-- What PAGR finds (R173): a predicate, or a register's value. -/
def pagrValue (kind : PagrKind) (ws : List TWord) (m : Nat) : Bool ⊕ Nat :=
  let ts := trueLanes ws m
  let n := popcount 32 m
  match kind with
  | .and => .inl (ts.length == n)
  | .or => .inl (ts != [])
  | .eq => .inl (ts.length == n || ts == [])
  | .mask => .inr (ts.foldl (fun x k => setBit x k true) 0)
  | .count => .inr ts.length

/-- The value and flags of a lane's reduction or scan (R174, R175). -/
def redValue (op : RedOp) (scan : Option Bool) (lane : Nat) (ws : List TWord) (m : Nat) : FRes :=
  match scan with
  | none => let r := tree32 op ws m 32; (r.1.getD (redEmpty op), r.2)
  | some excl => ((tree32 op ws m (if excl then lane else lane + 1)).1.getD (redEmpty op), scanFlags op ws m excl)

/-- A float result written for a thread, with its flags to come. -/
def State.putResult (s : State) (t d : Nat) (r : FRes) (tag : Tag) : State :=
  (s.updThread t fun th => { th with pendFst := orf th.pendFst r.2 }).writeReg t d ⟨BitVec.ofNat 32 r.1, tag⟩

/-- What a completed collective writes for a contributor. -/
def State.collWrite (s : State) (t : Nat) (c : CollArr) (ws : List TWord) (m : Nat) : State :=
  match c.op with
  | .lxch mode kp d k => s.writeReg t d (lxWord mode kp c.lane k c.a ws m)
  | .pagr kind d =>
    match pagrValue kind ws m with
    | .inl b => s.updThread t fun th => if d % 8 == 0 then th else { th with preds := setBit th.preds (d % 8) b }
    | .inr v => s.writeReg t d ⟨BitVec.ofNat 32 v, .u32⟩
  | .redg op d => s.putResult t d (redValue op none c.lane ws m) (redTag op)
  | .scang op excl d => s.putResult t d (redValue op (some excl) c.lane ws m) (redTag op)

/-- The instruction of a lane completes with what all contributed; one that abstained writes nothing. -/
def State.collDeliver (s : State) (gid : Nat) (ws : List TWord) (m : Nat) (c : CollArr) : State :=
  (if c.abst then s else s.collWrite (32 * gid + c.lane) c ws m).complete (32 * gid + c.lane)

/-- Complete a gang's collective when every live thread has arrived at one PC in one repetition (R170): every lane is given its result at
once (R171). -/
def State.judgeColl (s : State) (gid : Nat) : State :=
  match s.gangs.find gid with
  | none => s
  | some g =>
    let live := s.lanesOf gid
    match g.coll.find? fun c => live.all fun t => (arrivalAt g.coll (laneOf t) c.pc c.rep).isSome with
    | none => s
    | some c =>
      let cs := g.coll.filter fun x => x.pc == c.pc && x.rep == c.rep && live.contains (32 * gid + x.lane)
      cs.foldl (fun s x => s.collDeliver gid (contributions cs).1 (contributions cs).2 x) (s.updGang gid fun g => { g with coll := [] })

/-! ## The instructions -/

/-- A thread's place in its clause, as collectives compare it (R170). -/
def Thread.repNo (th : Thread) : Nat := match th.clause with | some c => if c.rep then th.rptRep + 1 else 0 | none => 0

/-- Arrive (R170, R171): the thread waits unless its arrival completes the collective, which completes its instruction too. -/
def collective (guard : Bool) (arr : M (TWord × CollOp)) (op0 : CollOp) : M Flow := do
  let t ← curT
  let th ← thread
  let (x, op) ← if guard then arr else pure (⟨0, .raw⟩, op0)
  modify fun s => (s.updGang (gidOf t) fun g => { g with coll := g.coll.filter (fun c => c.lane != laneOf t) ++
    [{ lane := laneOf t, pc := th.pc, rep := th.repNo, abst := !guard, a := x, op := op }] }).judgeColl (gidOf t)
  if (← gang).coll.any fun c => c.lane == laneOf t then waitFor .coll else pure .gone

/-- R172. -/
def execLxch (g : Guard) (d a b _k : Nat) (mode : LxMode) (kp : Bool) (s : State) : Host.Outcome State Fault Refusal :=
  codeAny ([.r d, .r a] ++ if mode == .low then [] else [.r b]) [] g [.reg d .raw] (fun on => collective on (do
    let x ← readReg a .any
    let k ← if mode == .low then pure 0 else natSrc b
    pure (x, .lxch mode kp d k)) (.lxch mode kp d 0)) s

/-- R173. -/
def execPagr (g : Guard) (d : Nat) (q : PredSrc) (_k : Nat) (kind : PagrKind) (s : State) : Host.Outcome State Fault Refusal :=
  let toReg := kind == .mask || kind == .count
  codeAny (if toReg then [.r d] else []) [] g [if toReg then .reg d .u32 else .pred (d % 8)] (fun on => collective on (do
    let v ← readPred q
    pure (⟨BitVec.ofNat 32 (b2n v), .raw⟩, .pagr kind d)) (.pagr kind d)) s

/-- R174. -/
def execRedg (g : Guard) (d a _k : Nat) (op : RedOp) (s : State) : Host.Outcome State Fault Refusal :=
  codeAny [.r d, .r a] [] g [.reg d (redTag op)] (fun on => collective on (do
    pure (← readReg a (redKind op), .redg op d)) (.redg op d)) s

/-- R175. -/
def execScang (g : Guard) (d a _k : Nat) (op : RedOp) (excl : Bool) (s : State) : Host.Outcome State Fault Refusal :=
  codeAny [.r d, .r a] [] g [.reg d (redTag op)] (fun on => collective on (do
    pure (← readReg a (redKind op), .scang op excl d)) (.scang op excl d)) s

end Sys2Proof.Machine
end

