-- ==== Sys2Proof/Machine/Barriers.lean ====
section
/-! DEFINITION. The barrier family (14_barrier R306 to R317): group barriers and landing barriers. -/

namespace Sys2Proof.Machine

open Sys2Proof

/-! ## Group barriers -/

/-- The live threads of an instance (R148). -/
def State.liveOf (s : State) (i : Nat) : List Nat :=
  (s.threads.filter fun e =>
    match s.gangs.find (gidOf e.1) with
    | some g => g.grp.contains (some i)
    | none => false).map (·.1)

/-- The waiters of a barrier's phase go on (R306). -/
def State.releaseBarrier (s : State) (i b : Nat) : State :=
  { s with threads := s.threads.mapv fun _ th =>
      match th.wait with
      | some (.barrier j c _) => if j == i && c == b then { th with wait := none, cont := .skip } else th
      | _ => th }

/-- A barrier of an instance; one that was never used is in phase 0. -/
def GInst.bar (x : GInst) (b : Nat) : Barrier := (x.bars.find b).getD { phase := 0, arrived := [] }

/-- Judge a barrier after an arrival or an exit in its instance (R306): when no live thread is pending, the phase completes. -/
def State.judgeBarrier (s : State) (i b : Nat) : State :=
  match s.insts.find i with
  | none => s
  | some x =>
    let y := x.bar b
    if (s.liveOf i).all fun t => y.arrived.contains t then
      (s.updInst i fun x => { x with bars := x.bars.put b { phase := (y.phase + 1) % 2 ^ 32, arrived := [] } }).releaseBarrier i b
    else s

/-- The instance in a group slot, with barrier `b` checked (R309). -/
def barrierAt (gs b : Nat) : M (Nat × GInst) := do
  let g ← gang
  match g.grp.getD gs none with
  | none => trap .barrier b
  | some i =>
    match (← get).insts.find i with
    | none => trap .barrier b
    | some x => if x.nbar ≤ b then trap .barrier b else pure (i, x)

/-- The barrier scope (R308): core, or device for a spanning instance. -/
def barScope (x : GInst) : Nat := if x.span then 3 else 2

/-- Arrive (R309): the release, the mark, the token. -/
def arrive (gs b : Nat) : M Nat := do
  let (i, x) ← barrierAt gs b
  let t ← curT
  let y := x.bar b
  if y.arrived.contains t then trap .barrier b
  reportLog (barScope x)
  releaseAt (barScope x)
  modify fun s => (s.updInst i fun x => { x with bars := x.bars.put b { y with arrived := y.arrived ++ [t] } }).judgeBarrier i b
  pure y.phase

/-- Wait away from a phase (R309), then acquire. -/
def awaitPhase (gs b tok : Nat) : M Flow := do
  let (i, x) ← barrierAt gs b
  let th ← thread
  if th.cont == .skip || (x.bar b).phase != tok then do
    acquireAt (barScope x)
    pure .seq
  else waitFor (.barrier i b tok)

/-- Arrive, and wait: the token stays with the thread while it waits. -/
def arriveAndWait (gs bn : Nat) : M Flow := do
  let tok ← arrive gs bn
  modThread fun th => { th with cont := .tok tok }
  awaitPhase gs bn tok

/-- R309. -/
def execBar (g : Guard) (bn gs _k : Nat) (s : State) : Host.Outcome State Fault Refusal :=
  code [] g [] (do
    let th ← thread
    match th.cont with
    | .tok tok => awaitPhase gs bn tok
    | .skip => awaitPhase gs bn 0
    | _ => arriveAndWait gs bn) s

/-- R309. -/
def execBara (g : Guard) (d bn gs _k : Nat) (s : State) : Host.Outcome State Fault Refusal :=
  code [.r d] g [.reg d .u32] (do
    let tok ← arrive gs bn
    putWord d tok .u32) s

/-- R309. -/
def execBarw (g : Guard) (a bn gs _k : Nat) (s : State) : Host.Outcome State Fault Refusal :=
  code [.r a] g [] (do
    let _ ← barrierAt gs bn
    let tok ← natSrc a
    awaitPhase gs bn tok) s

/-! ## Landing barriers -/

/-- The barrier word at the address in a pair (R314, R315): its home, offset and value, zeros for an expired lapsing row. -/
def barrierWord (a : Nat) : M (Home × Nat × Nat) := do
  let (h, off) ← scratchAt a 16 16
  let w ← readRow h off 16 a
  pure (h, off, w)

/-- A word whose zero fields are nonzero is no barrier (R315). -/
def checkWord (w : Nat) : M Unit := do
  if !xbZero w then illegal

/-- R316. -/
def execXbinit (g : Guard) (a b _k : Nat) (s : State) : Host.Outcome State Fault Refusal :=
  code [.even a, .r b] g [] (do
    let va ← readAddr a
    let n ← natSrc b
    let (h, off) ← scratchAt va 16 16
    if n == 0 || 2 ^ 24 ≤ n then illegal
    checkBrk va 16 false true
    writeRow h off 16 va (2 ^ 8 * n + 2 ^ 64 * n)
    pure .seq) s

/-- R316. -/
def execXbarr (g : Guard) (d a b _k : Nat) (s : State) : Host.Outcome State Fault Refusal :=
  code [.r d, .even a, .r b] g [.reg d .u32] (do
    let va ← readAddr a
    let n ← natSrc b
    let (h, off, w) ← barrierWord va
    checkBrk va 16 true true
    checkWord w
    releaseAt 2
    if xbArrivals w == 0 then trap .barrier va
    if sext (xbPieces w) 32 + n > 2 ^ 31 - 1 then trap .barrier va
    let tick ← now
    modify fun s => s.putBarrier h off tick (setBits (setBits w 31 8 (xbArrivals w - 1)) 63 32 (xbPieces w + n))
    putWord d (xbPhase w) .u32) s

/-- R317. -/
def execXbwait (g : Guard) (a b _k : Nat) (s : State) : Host.Outcome State Fault Refusal :=
  code [.even a, .r b] g [] (do
    let va ← readAddr a
    let tok ← natSrc b
    let th ← thread
    reportCopies
    if th.cont == .skip then pure .seq
    else do
      let (h, off, w) ← barrierWord va
      checkBrk va 16 true false
      checkWord w
      if xbPhase w != tok % 16 then pure .seq else waitFor (.landing h off (tok % 16))) s

/-- R317. -/
def execXbtry (g : Guard) (p a b _k : Nat) (s : State) : Host.Outcome State Fault Refusal :=
  code [.even a, .r b] g [.pred p] (do
    let va ← readAddr a
    let tok ← natSrc b
    reportCopies
    let (_, _, w) ← barrierWord va
    checkBrk va 16 true false
    checkWord w
    writePred p (xbPhase w != tok % 16)
    pure .seq) s

end Sys2Proof.Machine
end

