-- ==== Sys2Proof/Machine/Residue.lean ====
section
/-! DEFINITION. Residue accumulators and the arithmetic of the matrix unit (03_numbers R58 to R63, R72, R74; 15_tile R335 to
R337). -/

namespace Sys2Proof.Machine

open Sys2Proof

/-! ## Residue accumulators -/

def m1 : Nat := 2 ^ 42 - 1
def m2 : Nat := 2 ^ 42
def m3 : Nat := 2 ^ 42 + 1
/-- The product of the moduli. -/
def mAll : Nat := m1 * m2 * m3

/-- An element of Table 3.2. -/
structure Racc where
  sat : Bool
  c1 : Nat
  c2 : Nat
  c3 : Nat
deriving DecidableEq, Repr

/-- Table 3.2. -/
def Racc.ofNat (x : Nat) : Racc := ⟨bit x 127, bits x 41 0, bits x 83 42, bits x 126 84⟩
def Racc.toNat (r : Racc) : Nat := r.c1 + 2 ^ 42 * r.c2 + 2 ^ 84 * r.c3 + 2 ^ 127 * b2n r.sat

/-- A signed number modulo `m`. -/
def imod (x : Int) (m : Nat) : Nat := (x % (m : Int)).toNat

/-- Add `d * 2^k` to each channel (R336). -/
def Racc.add (r : Racc) (d : Int) (k : Nat) : Racc :=
  { r with c1 := imod (r.c1 + d * 2 ^ k) m1, c2 := imod (r.c2 + d * 2 ^ k) m2, c3 := imod (r.c3 + d * 2 ^ k) m3 }

/-- What an element reconstructs to: an integer, or SATURATED with a sign. -/
inductive RaccVal where
  | int (x : Int)
  | sat (neg : Bool)
deriving DecidableEq, Repr

/-- R62, R63. -/
def Racc.value (r : Racc) : RaccVal :=
  let c1 : Int := if r.c1 == m1 then 0 else (r.c1 : Int)
  let sat := r.sat || decide (m3 ≤ r.c3)
  let t2 := imod (((r.c2 : Int) - c1) * (m2 - 1 : Nat)) m2
  let t3 := imod ((((r.c3 : Int) - c1) * 2 ^ 41 - (t2 : Int)) * 2 ^ 42) m3
  let x : Int := c1 + m1 * t2 + m1 * m2 * t3
  if sat then .sat (decide ((mAll : Int) ≤ 2 * x))
  else if x < 2 ^ 124 then .int x
  else if (mAll : Int) - 2 ^ 124 ≤ x then .int (x - mAll)
  else .sat (decide ((mAll : Int) ≤ 2 * x))

/-- The exact product of an integer and two valid bases, rounded (R337, R72): beyond the largest finite value it is that
value with qsat in place of overflow. -/
def scaleRound (f : Fmt) (x : Int) (a b : Nat) : FRes :=
  if x == 0 then (0, 0)
  else
    match Fmt.f32.decode a, Fmt.f32.decode b with
    | .fin _ ma ea, .fin _ mb eb =>
      let r := roundTo f 0 false (decide (x < 0)) (x.natAbs * ma * mb) (ea + eb) false
      if r.2 / fOverflow % 2 == 1 then (b2n (decide (x < 0)) * f.signBit + f.maxFin, orf fQsat fInexact) else r
    | _, _ => (f.nan, fInvalid)

/-- The conversion of a residue element with its slot's bases (R337). -/
def raccConv (f : Fmt) (a b : Option Nat) (r : Racc) : FRes :=
  match a, b with
  | some x, some y =>
    match r.value with
    | .sat n => (b2n n * f.signBit + f.maxFin, fQsat)
    | .int v => scaleRound f v x y
  | _, _ => (f.nan, fInvalid)

/-- The conversion of an FP32 element (R337). -/
def f32Conv (f : Fmt) (x : Nat) : FRes := if f == .f32 then (x, 0) else floatToFloat .f32 f 0 false x

/-! ## TMMA (R74, R335) -/

/-- The products of a group truncated to a multiple of 2^(emax - 40) and summed: the sum at that exponent. -/
def truncSum (ps : List FP) : Int × Int :=
  let es := ps.filterMap fun p => match p with
    | .fin _ m e => if m == 0 then none else some (e + (Nat.log2 m : Int))
    | _ => none
  let emax := es.foldl max (es.headD 0)
  let u := emax - 40
  (ps.foldl (fun s p => match p with
    | .fin n m e =>
      let q : Nat := if u ≤ e then m * 2 ^ (e - u).toNat else m / 2 ^ (u - e).toNat
      if n then s - (q : Int) else s + (q : Int)
    | _ => s) 0, u)

/-- Whether a value is a zero. -/
def FP.isZero : FP → Bool | .fin _ m _ => m == 0 | _ => false
/-- Whether a value is minus zero. -/
def FP.isNegZero : FP → Bool | .fin n m _ => n && m == 0 | _ => false

/-- The sum S of a group of finite products. -/
def groupSum (ps : List FP) : FP :=
  if ps.all FP.isZero then .fin (ps.all FP.isNegZero) 0 0
  else
    let (v, u) := truncSum ps
    .fin (decide (v < 0)) v.natAbs u

/-- One element after one K group: the new FP32 bits, and whether it overflowed. -/
def tmmaElem (f : Fmt) (c : Nat) (as bs : List Nat) : Nat × Bool :=
  let fc := Fmt.f32.decode c
  let xs := as.map fun x => f.decode (f.flush true x)
  let ys := bs.map fun x => f.decode (f.flush true x)
  let ps := List.zipWith mulFP xs ys
  let qs := ps.filterMap id
  if fc.isNan || xs.any FP.isNan || ys.any FP.isNan || ps.any (· == none) then (Fmt.f32.nan, false)
  else
    let all := fc :: qs
    let pos := all.any FP.isPinf
    let neg := all.any FP.isNinf
    if pos && neg then (Fmt.f32.nan, false)
    else if pos then (Fmt.f32.infBits, false)
    else if neg then (Fmt.f32.signBit + Fmt.f32.infBits, false)
    else
      let r := (roundSum .f32 0 false (finTerms [fc, groupSum qs])).1
      (r, r % Fmt.f32.signBit == Fmt.f32.infBits)

/-! ## TMMQ (R336) -/

/-- The exact dot product of a block. -/
def dotInt (as bs : List Int) : Int := (List.zipWith (· * ·) as bs).foldl (· + ·) 0

/-- Lists cut into blocks of 32. -/
def blocks32 {α : Type} : Nat → List α → List (List α)
  | 0, _ => []
  | n + 1, xs => xs.take 32 :: blocks32 n (xs.drop 32)

/-- One element after a TMMQ: `es` holds each block's eA and eB. -/
def tmmqElem (r : Racc) (as bs : List Int) (es : List (Nat × Nat)) : Racc :=
  let n := es.length
  let ds := List.zipWith dotInt (blocks32 n as) (blocks32 n bs)
  (ds.zip es).foldl (fun r p => r.add p.1 (p.2.1 + p.2.2)) r

end Sys2Proof.Machine
end

