-- ==== Sys2Proof/Machine/MatrixUnit.lean ====
section
/-! DEFINITION. The matrix unit (15_tile R321 to R337): slots, the tile fetcher, and one operation applied to a slot. -/

namespace Sys2Proof.Machine

open Sys2Proof

/-! ## Slots (R322 to R324) -/

/-- The bytes of a slot of an instance. -/
def GInst.stride (x : GInst) : Nat := 16384 * min 4 (max 1 (x.tileBytes / 262144))

/-- The number of slots. -/
def GInst.nslots (x : GInst) : Nat := match x.tile with | some _ => min 16 (x.tileBytes / x.stride) | none => 0

/-- The control state of a slot as its instance is created. -/
def TileSlot.fresh : TileSlot :=
  { tag := .empty, bound := 0, fovf := false, qsat := false, lapse := false, baseA := some 0x3F800000, baseB := some 0x3F800000,
    fault := none, ops := [], next := 0, held := none }

def GInst.slot (x : GInst) (k : Nat) : TileSlot := (x.slots.find k).getD TileSlot.fresh

/-- The first row of a slot in the tile allocation. -/
def GInst.slotRow (x : GInst) (k : Nat) : Nat := k * x.stride / 128

def State.setSlot (s : State) (i k : Nat) (y : TileSlot) : State := s.updInst i fun x => { x with slots := x.slots.put k y }

/-- Whether an operation waits for its own thread to perform it. -/
def TileOp.ofThread : TileOp → Bool | .conv .. => true | .store .. => true | _ => false

/-- The thread that issued an operation: the last signer of a multiply. -/
def TileOp.issuer : TileOp → Option Nat
  | .mma _ _ t => some t
  | .clear t => some t
  | .load _ t => some t
  | .scale _ _ t => some t
  | .conv t .. => some t
  | .store t _ => some t

/-- Issue an operation to a slot (R331): one issued to a faulted slot is discarded (R332), but for those that are report points. -/
def State.issueTile (s : State) (i k : Nat) (op : TileOp) : State :=
  match s.insts.find i with
  | none => s
  | some x =>
    let y := x.slot k
    let ops := if y.fault.isSome && !op.ofThread then y.ops else y.ops ++ [(y.next, op)]
    s.setSlot i k { y with ops := ops, next := y.next + 1 }

/-! ## Reading rows -/

/-- How an operation of the matrix unit ends early (R332): a failure, a hold on a fault record, or a wait for a side log. -/
inductive TStop where
  | fail (c : Cause) (v : Nat)
  | hold (seq va : Nat)
  | ring
  | logged (gid : Nat) (ids : List Nat) (va : Nat)
deriving DecidableEq, Repr

abbrev Ti (α : Type) := EStateM TStop State α

/-- The failure of reading a row, with the row. -/
abbrev RowFail := TStop × Nat

/-- The first `m` words of a row, zeros when it has expired under the lapsing class; or the failure of reading them. `no` is the issue of
a thread that reads (R242), none for the matrix unit. -/
def rowWords (a : Alloc) (tick : Nat) (no : Option Nat) (m n v : Nat) : Except RowFail (List Nat × Bool) :=
  let r := a.row n
  if (match no with | some k => r.struck k 0 | none => r.badMeta) then .error (.fail .memerr v, n)
  else if a.expired r tick then
    (if a.lapses r then .ok (List.replicate m 0, true) else .error (.fail .expired v, n))
  else if r.bad % 2 ^ m != 0 then .error (.fail .memerr v, n)
  else .ok ((List.range m).map fun k => (r.word k).bits.toNat, false)

/-- A row that has been met (R242). -/
def Alloc.meetRow (a : Alloc) (no n : Nat) : Alloc := if (a.row n).badMeta then a.setRow n ((a.row n).meet no) else a

/-- The words of `k` rows from row `n`; `v` and `step` give the value of a failure. -/
def rowsWords (a : Alloc) (tick n v step : Nat) : Nat → Except RowFail (List Nat × Bool)
  | 0 => .ok ([], false)
  | k + 1 =>
    match rowWords a tick none 32 n v with
    | .error e => .error e
    | .ok (ws, l) =>
      match rowsWords a tick (n + 1) (v + step) step k with
      | .error e => .error e
      | .ok (rs, l') => .ok (ws ++ rs, l || l')

/-- `k` whole rows from row `n`, with masks of their words (R401). -/
def wholeRows (n k : Nat) : List (Nat × Nat) := (List.range' n k).map fun r => (r, 2 ^ 32 - 1)

/-- The value of a list of 32-bit words. -/
def nat32 : List Nat → Nat
  | [] => 0
  | w :: ws => w + 2 ^ 32 * nat32 ws

/-- Words taken four by four, as residue elements. -/
def quads : Nat → List Nat → List Nat
  | 0, _ => []
  | n + 1, ws => nat32 (ws.take 4) :: quads n (ws.drop 4)

/-- The elements of rows `r0` to `r0 + n - 1` of a slot (R323, R324), in order; an empty slot reads zeros. -/
def slotElems (x : GInst) (k tick : Nat) (tag : TileTag) (r0 n : Nat) : Except RowFail (List Nat × Bool) :=
  match tag, x.tile with
  | .f32acc, some a => rowsWords a tick (x.slotRow k + 2 * r0) (k * 65536 + 2 * r0) 1 (2 * n)
  | .racc, some a =>
    match rowsWords a tick (x.slotRow k + 8 * r0) (k * 65536 + 8 * r0) 1 (8 * n) with
    | .ok (ws, l) => .ok (quads (64 * n) ws, l)
    | .error e => .error e
  | _, _ => .ok (List.replicate (64 * n) 0, false)

/-- The rows of a slot that hold rows `r0` to `r0 + n - 1` of it (R323). -/
def slotRows (x : GInst) (k : Nat) (tag : TileTag) (r0 n : Nat) : List (Nat × Nat) :=
  match tag with
  | .f32acc => wholeRows (x.slotRow k + 2 * r0) (2 * n)
  | .racc => wholeRows (x.slotRow k + 8 * r0) (8 * n)
  | .empty => []

/-- R401: a read of slot rows corrects and counts the correctable errors in them. -/
def State.cureTile (s : State) (i : Nat) (ms : List (Nat × Nat)) : State :=
  match s.insts.find i with
  | some x =>
    match x.tile with
    | some a =>
      if a.softAt ms then
        (s.updInst i fun x => { x with tile := some (a.cure ms) }).ecount (dieOfCore x.core) 0 (a.softCount - (a.cure ms).softCount)
      else s
    | none => s
  | none => s

/-- A row of 32 words that the matrix unit writes whole (R323). -/
def wholeRow (tick : Nat) (ws : List Nat) : Row :=
  { Row.fresh tick with words := (ws.zip (List.range ws.length)).map fun p => (p.2, ⟨BitVec.ofNat 32 p.1, .raw⟩) }

/-- Rows written from row `n` on, 32 words each. -/
def Alloc.putRows (a : Alloc) (tick n : Nat) : Nat → List Nat → Alloc
  | 0, _ => a
  | k + 1, ws => (a.setRow n (wholeRow tick (ws.take 32))).putRows tick (n + 1) k (ws.drop 32)

/-- The words of residue elements. -/
def raccWords (rs : List Nat) : List Nat := rs.flatMap fun r => [r % 2 ^ 32, r / 2 ^ 32 % 2 ^ 32, r / 2 ^ 64 % 2 ^ 32, r / 2 ^ 96 % 2 ^ 32]

/-- Write a slot's rows. -/
def State.putSlotRows (s : State) (i k tick : Nat) (ws : List Nat) : State :=
  s.updInst i fun x => { x with tile := x.tile.map fun a => a.putRows tick (x.slotRow k) (ws.length / 32) ws }

/-! ## The tile fetcher (R327, R328) -/

/-- Translate the pages of a line, lower first. -/
def tSpans (core c : Nat) (need : Need) : List (Nat × Nat) → Ti (List (Nat × Nat × Nat × Nat))
  | [] => pure []
  | (va, n) :: qs => do
    if 2 ^ 56 < va + n then throw (.fail .addr va)
    let s ← get
    let (r, s) := s.xlate (dieOfCore core) c va need
    set s
    match r with
    | .ok pa pte => do
      let rest ← tSpans core c need qs
      pure ((va, pa, n, pte) :: rest)
    | .access => throw (.fail .access va)
    | .remote => throw (.fail .remote va)
    | .memerr => throw (.fail .memerr va)
    | .fault k l =>
      match s.raiseFault c core va k l with
      | (.fail, _) => throw (.fail (kindCause k) va)
      | (.ring, _) => throw .ring
      | (.hold q, s) => do
        set s
        throw (.hold q va)

/-- Read physical bytes at the L2 level, the core's dirty bytes of each line written back first. -/
def tPhys (core va pa n : Nat) : Ti Nat := do
  modify fun s => ((lineChunks (n / 128 + 2) pa n).foldl (fun s q => s.cleanLine core (q.1 / 128)) s).noteRead pa n
  let s ← get
  match s.firstPoison pa n 0 with
  | some i => throw (.fail .memerr (va + i))
  | none => pure (s.phys n pa)

/-- The bytes of translated pages. -/
def tRead (core : Nat) : List (Nat × Nat × Nat × Nat) → Ti Nat
  | [] => pure 0
  | (va, pa, n, pte) :: qs => do
    if pteLink pte != 0 then throw (.fail .access va)
    let v ← tPhys core va pa n
    let r ← tRead core qs
    pure (v + 2 ^ (8 * n) * r)

/-- Read a line of global memory as a load of thread `t` (R328): where the side log of its gang holds some of the bytes, the operation
waits for them as that load would (R375). -/
def tBytes (core c t va n : Nat) : Ti Nat := do
  match (← get).gangs.find (gidOf t) with
  | some g => if g.logOverlap va n != [] then throw (.logged (gidOf t) ((g.logOverlap va n).map (·.id)) va)
  | none => pure ()
  let ps ← tSpans core c .load (spansOf va n)
  tRead core ps

/-! ## Descriptors (Table 15.3) -/

def dBase (d : Nat) : Nat := d % 2 ^ 64
def dStride (d : Nat) : Nat := bits d 95 64
def dRows (d : Nat) : Nat := bits d 111 96
def dCols (d : Nat) : Nat := bits d 127 112
def dFmt (d : Nat) : Nat := bits d 131 128
def dTr (d : Nat) : Bool := bit d 132
def dPitch (d : Nat) : Nat := bits d 143 133
def dSrow (d : Nat) : Nat := bits d 175 160
def dKb0 (d : Nat) : Nat := bits d 191 176
def dStab (d : Nat) : Nat := bits d 255 192

/-- The bits of an element of a format. -/
def fmtBits : Nat → Nat | 0 => 16 | 1 => 16 | 2 => 8 | 3 => 4 | 4 => 32 | _ => 128

/-- The address and bytes of columns `c0` to `c0 + n - 1` of memory row `r`. -/
def dLine (d r c0 n : Nat) : Nat × Nat :=
  let e := fmtBits (dFmt d)
  (dBase d + r * dStride d + c0 * e / 8, (n * e + 7) / 8)

/-- The elements of a memory row: those not valid are zero and not read. -/
def tRow (core c t d r n : Nat) : Ti (List Nat) := do
  let e := fmtBits (dFmt d)
  let k := if r < dRows d then min n (dCols d) else 0
  let v ← if k == 0 then pure 0 else
    let (va, m) := dLine d r 0 k
    tBytes core c t va m
  pure ((List.range n).map fun j => if j < k then v / 2 ^ (e * j) % 2 ^ e else 0)

/-- `k` memory rows from `r`, of `n` columns, in ascending order. -/
def tRows (core c t d n : Nat) : Nat → Nat → Ti (List (List Nat))
  | _, 0 => pure []
  | r, k + 1 => do
    let x ← tRow core c t d r n
    let xs ← tRows core c t d n (r + 1) k
    pure (x :: xs)

/-- A matrix of `n` columns, transposed. -/
def transpose (n : Nat) (m : List (List Nat)) : List (List Nat) := (List.range n).map fun j => m.map fun r => r.getD j 0

/-- A matrix of `p` rows and `q` columns through a handle (R327). -/
def tMatrix (core c t d p q : Nat) : Ti (List (List Nat)) := do
  if dTr d then do
    let m ← tRows core c t d p 0 q
    pure (transpose p m)
  else tRows core c t d q 0 p

/-! ## Operands (R325 to R329) -/

/-- A failure of reading a row, counted when it is an uncorrectable error (R401). -/
def State.countFail (s : State) (core : Nat) : TStop → State
  | .fail .memerr _ => s.ecount (dieOfCore core) 1 1
  | _ => s

/-- What the rows of a scratch operand give: their value, and whether one had lapsed; a row whose metadata fails has been met (R242).
`ms` are the words read. -/
def tScratchWords (core : Nat) (h : Home) (a : Alloc) (ms : List (Nat × Nat)) : Except RowFail (List Nat × Bool) → Ti (Nat × Bool)
  | .ok (ws, l) => do
    modify fun s => s.cureRows core h ms
    pure (nat32 ws, l)
  | .error (e, n) => do
    modify fun s => (s.setAllocAt h (a.meetRow 0 n)).countFail core e
    throw e

/-- The 32 rows of a scratch operand's data. -/
def tScratch (core tick : Nat) (h : Home) (off addr : Nat) : Ti (Nat × Bool) := do
  match (← get).allocAt h with
  | none => throw (.fail .spbound addr)
  | some a => tScratchWords core h a (wholeRows (off / 128) 32) (rowsWords a tick (off / 128) addr 128 32)

/-- The offsets of a scratch operand: the first `m` words of the area after its data; the rest is not read (R325). -/
def tScratchOffsets (core tick : Nat) (h : Home) (off addr m : Nat) : Ti (Nat × Bool) := do
  match (← get).allocAt h with
  | none => throw (.fail .spbound addr)
  | some a => tScratchWords core h a [((off + 4096) / 128, 2 ^ m - 1)] (rowWords a tick none m ((off + 4096) / 128) (addr + 4096))

/-- The vectors of an operand: for each of 64 lines, its `kk` elements of `e` bits along K. -/
def tVectors (core c t tick e kk : Nat) (isB : Bool) : TSrc → Ti (List (List Nat) × Bool)
  | .scratch h off addr => do
    let (v, l) ← tScratch core tick h off addr
    let (p, q) := if isB then (kk, 64) else (64, kk)
    let m := (List.range p).map fun i => (List.range q).map fun j => v / 2 ^ (e * (i * q + j)) % 2 ^ e
    pure (if isB then transpose 64 m else m, l)
  | .desc d => do
    if isB then
      let m ← tMatrix core c t d kk 64
      pure (transpose 64 m, false)
    else
      let m ← tMatrix core c t d 64 kk
      pure (m, false)

/-- Whether some element of a line and K block of a handle operand is valid (R327). -/
def blockValid (d : Nat) (isB : Bool) (l m : Nat) : Bool :=
  if dTr d == isB then decide (l < dRows d) && decide (32 * m < dCols d) else decide (32 * m < dRows d) && decide (l < dCols d)

/-- The scale cache (R329): an entry that the core holds under the same tensor, line and block may stand in for the table's. -/
def tCached (core key v : Nat) : Ti Nat := do
  let s ← get
  match (s.core core).scale.find key with
  | some w =>
    if w == v then pure v
    else do
      set ({ s with free := s.free + 1 }.updCore core fun c => { c with scale := if Config.freeBit s.free then c.scale else c.scale.put key v })
      pure (if Config.freeBit s.free then w else v)
  | none => do
    set (s.updCore core fun c => { c with scale := c.scale.put key v })
    pure v

/-- The key of an offset, and of a base, in the scale cache. -/
def offsetKey (d l m : Nat) : Nat := 2 ^ 41 * bits d 159 144 + 2 ^ 20 * (dSrow d + l) + dKb0 d + m
def baseKey (d : Nat) : Nat := 2 ^ 41 * bits d 159 144 + 2 ^ 40

/-- The scale offset of a line and block. -/
def tOffset (core c t d : Nat) (isB : Bool) (l m : Nat) : Ti Nat := do
  if blockValid d isB l m then do
    let q := (dSrow d + l) * 2 * dPitch d + dKb0 d + m
    let v ← tBytes core c t (dStab d + 16 + q / 2) 1
    tCached core (offsetKey d l m) (v / 16 ^ (q % 2) % 16)
  else pure 0

/-- The offsets of the pairs listed, in order. -/
def tOffsets (core c t d : Nat) (isB : Bool) : List (Nat × Nat) → Ti (List Nat)
  | [] => pure []
  | (l, m) :: ps => do
    let x ← tOffset core c t d isB l m
    let xs ← tOffsets core c t d isB ps
    pure (x :: xs)

/-- Lists of `k` items each. -/
def chunks (k : Nat) : Nat → List Nat → List (List Nat)
  | 0, _ => []
  | n + 1, xs => xs.take k :: chunks k n (xs.drop k)

/-- The scale offsets of an operand: for each line, one for each K block. -/
def tScales (core c t tick kk : Nat) (isB : Bool) : TSrc → Ti (List (List Nat) × Bool)
  | .scratch h off addr => do
    let (v, l) ← tScratchOffsets core tick h off addr (kk / 4)
    pure (chunks (kk / 32) 64 ((List.range (2 * kk)).map fun i => v / 16 ^ i % 16), l)
  | .desc d => do
    let ps := (List.range 64).flatMap fun l => (List.range (kk / 32)).map fun m => (l, m)
    let os ← tOffsets core c t d isB ps
    pure (chunks (kk / 32) 64 os, false)

/-! ## Applying one operation -/

/-- The slot that an operation leaves, with the words written to its rows. -/
structure TOut where
  slot : TileSlot
  words : List Nat
  tick : Nat

/-- Elements of the slot, or its failure. -/
def tElems (i : Nat) (x : GInst) (k tick : Nat) (tag : TileTag) : Ti (List Nat × Bool) :=
  match slotElems x k tick tag 0 64 with
  | .ok r => do
    modify fun s => s.cureTile i (slotRows x k tag 0 64)
    pure r
  | .error (e, n) => do
    modify fun s => (s.updInst i fun x => { x with tile := x.tile.map fun a => a.meetRow 0 n }).countFail x.core e
    throw e

/-- TMMA (R335), its last signer `t`. -/
def tMma (i : Nat) (x : GInst) (k tick : Nat) (y : TileSlot) (z : Snap) (t : Nat) : Ti TOut := do
  let f := if z.m then Fmt.f16 else Fmt.bf16
  let (as, la) ← tVectors x.core x.ctx t tick 16 32 false z.a
  let (bs, lb) ← tVectors x.core x.ctx t tick 16 32 true z.b
  let (cs, lc) ← tElems i x k tick y.tag
  let rs := (as.flatMap fun a => bs.map fun b => (a, b)).zip cs |>.map fun p => tmmaElem f p.2 p.1.1 p.1.2
  pure ⟨{ y with tag := .f32acc, fovf := y.fovf || rs.any (·.2), lapse := y.lapse || la || lb || lc }, rs.map (·.1), tick⟩

/-- The largest of each column of offsets. -/
def colMax (n : Nat) (m : List (List Nat)) : List Nat := (transpose n m).map fun c => c.foldl max 0

/-- TMMQ (R336), its last signer `t`. -/
def tMmq (i : Nat) (x : GInst) (k tick : Nat) (y : TileSlot) (z : Snap) (t : Nat) : Ti TOut := do
  let e := if z.m then 4 else 8
  let kk := if z.m then 128 else 64
  let (as, la) ← tVectors x.core x.ctx t tick e kk false z.a
  let (ea, la') ← tScales x.core x.ctx t tick kk false z.a
  let (bs, lb) ← tVectors x.core x.ctx t tick e kk true z.b
  let (eb, lb') ← tScales x.core x.ctx t tick kk true z.b
  let (cs, lc) ← tElems i x k tick y.tag
  let sg (v : List Nat) : List Int := v.map fun q => sext q e
  let av := (as.map sg).zip ea
  let bv := (bs.map sg).zip eb
  let rs := (av.flatMap fun a => bv.map fun b => (a, b)).zip cs |>.map fun p =>
    tmmqElem (Racc.ofNat p.2) p.1.1.1 p.1.2.1 (p.1.1.2.zip p.1.2.2)
  let pmax := if z.m then 2 ^ 6 else 2 ^ 14
  let delta := (List.zipWith (fun p q => 32 * pmax * 2 ^ (p + q)) (colMax (kk / 32) ea) (colMax (kk / 32) eb)).foldl (· + ·) 0
  let bound := y.bound + delta
  let full := decide (2 ^ 124 ≤ bound)
  let rs := if full then rs.map fun r => { r with sat := true } else rs
  pure ⟨{ y with tag := .racc, bound := bound, qsat := y.qsat || full, lapse := y.lapse || la || la' || lb || lb' || lc },
        raccWords (rs.map Racc.toNat), tick⟩

/-- A slot that has been cleared (R341). -/
def TileSlot.clear (y : TileSlot) : TileSlot :=
  { y with tag := .empty, bound := 0, fovf := false, qsat := false, lapse := false, baseA := some 0x3F800000, baseB := some 0x3F800000 }

/-- The bound that a residue image gives (R341). -/
def imageBound (rs : List Nat) : Nat :=
  rs.foldl (fun b r => match (Racc.ofNat r).value with | .int v => max b v.natAbs | .sat _ => b) 0

/-- TZERO (R341). -/
def tLoad (x : GInst) (tick : Nat) (y : TileSlot) (d t : Nat) : Ti TOut := do
  let m ← tMatrix x.core x.ctx t d 64 64
  let es := m.flatten
  if dFmt d == 4 then pure ⟨{ y.clear with tag := .f32acc }, es ++ List.replicate (x.stride / 4 - 4096) 0, tick⟩
  else pure ⟨{ y.clear with tag := .racc, bound := imageBound es }, raccWords es, tick⟩

/-- A base scale, with its validity (R58, R59, R327). -/
def tBase (core c t : Nat) : TBase → Ti (Option Nat)
  | .word w => pure (if validBase w then some w else none)
  | .stab d => do
    if dStab d == 0 then pure none
    else
      let v ← tCached core (baseKey d) (← tBytes core c t (dStab d) 2)
      pure (if validBase (65536 * v) then some (65536 * v) else none)

/-- Perform an operation on a slot (R331 to R337). -/
def tRun (i : Nat) (x : GInst) (k tick : Nat) (y : TileSlot) : TileOp → Ti TOut
  | .mma z cv t => do
    if z.q then
      if y.tag == .f32acc then throw (.fail .illegal (16 * z.gs + cv)) else tMmq i x k tick y z t
    else if y.tag == .racc then throw (.fail .illegal (16 * z.gs + cv))
    else tMma i x k tick y z t
  | .clear _ => pure ⟨y.clear, List.replicate (x.stride / 4) 0, tick⟩
  | .load d t => tLoad x tick y d t
  | .scale a b t => do
    let p ← tBase x.core x.ctx t a
    let q ← tBase x.core x.ctx t b
    pure ⟨{ y with baseA := p, baseB := q }, [], tick⟩
  | .conv .. => pure ⟨y, [], tick⟩
  | .store .. => pure ⟨y, [], tick⟩

/-- Whether a slot's operation is held on a fault record. -/
def TileSlot.stuck (y : TileSlot) : Bool := match y.held with | some (.record ..) => true | _ => false

/-- One application at a slot: the head of its operations, when its context runs and it is not held. An operation that
reaches the head of a faulted slot is discarded. -/
def State.applyTile (s : State) (i k : Nat) : State :=
  match s.insts.find i with
  | none => s
  | some x =>
    let y := x.slot k
    match y.ops with
    | [] => s
    | (_, op) :: rest =>
      if op.ofThread || y.stuck || (s.ctx x.ctx).st != .resident then s
      else if y.fault.isSome then (s.setSlot i k { y with ops := rest }).finishStop x.ctx
      else
        let tick := s.tickOf x.ctx
        match tRun i x k tick y op s with
        | .ok o s => ((s.putSlotRows i k o.tick o.words).setSlot i k { o.slot with ops := rest, held := none }).finishStop x.ctx
        | .error (.fail c v) s => (s.setSlot i k { y with fault := some (c, v), ops := rest, held := none }).finishStop x.ctx
        | .error (.hold q va) s => (s.setSlot i k { y with held := some (.record q va) }).finishStop x.ctx
        | .error (.logged g ids va) s => (s.setSlot i k { y with held := some (.log g ids va) }).finishStop x.ctx
        | .error .ring s => s

/-- R328, R331 to R337. -/
def execTileOpApply (iid acc : Nat) (s : State) : Host.Outcome State Fault Refusal := .next (s.applyTile iid acc)

end Sys2Proof.Machine
end

