-- ==== Sys2Proof/Machine/Tile.lean ====
section
/-! DEFINITION. The tile family (15_tile R338 to R345; 14_barrier R318 to R320). -/

namespace Sys2Proof.Machine

open Sys2Proof

/-! ## Common checks (R338, R333) -/

/-- The instance of a group slot, with the accumulator checked (R144, R338). -/
def slotAt (gs acc : Nat) : M (Nat × GInst) := do
  let g ← gang
  match g.grp.getD gs none with
  | none => illegal
  | some i =>
    match (← get).insts.find i with
    | none => illegal
    | some x => if x.nslots ≤ acc then illegal else pure (i, x)

/-- A report point (R333): the record of a faulted slot goes to the thread that reaches it first. -/
def reportSlot (i acc : Nat) : M Unit := do
  match (← get).insts.find i with
  | none => pure ()
  | some x =>
    match (x.slot acc).fault with
    | none => pure ()
    | some (c, v) => do
      modify fun s => s.setSlot i acc { x.slot acc with fault := none }
      if c == .memerr then throw (.memerr v) else trap c v

/-- The slot of a member that is a report point as it issues. -/
def slotReport (gs acc : Nat) : M (Nat × GInst) := do
  let (i, x) ← slotAt gs acc
  reportSlot i acc
  pure (i, x)

/-- A slot operation of the current thread has been issued (R331). -/
def issueSlot (i acc : Nat) (op : Nat → TileOp) : M Unit := do
  let t ← curT
  modify fun s => s.issueTile i acc (op t)

/-- The descriptor of a valid handle of the caller's gang. -/
def handleDesc (n : Nat) : M Nat := do
  let g ← gang
  match g.handles.find n with
  | some d => pure d
  | none => illegal

/-- The handle that a word names: its upper bits must be zero. -/
def wordHandle (i w : Nat) : M Nat := if w / 8 != 0 then trap .illegal i else handleDesc (w % 8)

/-- Whether a register reads as the zero of an expired lapsing row or of a lapsed word, whose tag nothing checks (R6). -/
def lapsedReg (i : Nat) : M Bool := do
  let t ← curT
  let g ← gang
  let tick ← now
  pure (i != 0 && g.regs.readState (g.regs.row (i - 1)) (laneOf t) tick == .zero)

/-- A word already read, held to a tag set (R6, R67). -/
def requireTag (i : Nat) (ts : TagSet) (w : TWord) : M Unit := do
  let x ← curCtx
  if i == 0 || ts.has w.tag || (← lapsedReg i) then pure ()
  else if x.lenient then modThread fun th => { th with pendMis := true }
  else trap .tag i

/-- A tile operand once read: a descriptor, or an address. -/
inductive TVal where
  | desc (d : Nat)
  | addr (a : Nat)
deriving DecidableEq, Repr

/-- A pair operand: an HND word in its even register names a handle (R338). -/
def pairOpnd : TOpnd → M TVal
  | .hnd n => do pure (.desc (← handleDesc n))
  | .reg i => do
    let w ← readReg i .any
    if w.tag == .hnd then do pure (.desc (← wordHandle i w.bits.toNat))
    else if i == 0 then pure (.addr 0)
    else do
      requireTag i .loAddr w
      let h ← readBits (i + 1) .hiAddr
      pure (.addr (w.bits.toNat + 2 ^ 32 * h))

/-- The single-register handle operand of TZERO and TSTORE. -/
def handleOpnd : TOpnd → M Nat
  | .hnd n => handleDesc n
  | .reg i => do
    let w ← readBits i .hnd
    wordHandle i w

/-- The fields of a pair operand. -/
def pairField : TOpnd → List Field | .reg i => [.even i] | .hnd _ => []
/-- The field of a single-register operand. -/
def oneField : TOpnd → List Field | .reg i => [.r i] | .hnd _ => []

/-! ## THDL (R339) -/

/-- What R339 refuses in a descriptor. -/
def badDesc (d : Nat) : Bool :=
  decide (5 < dFmt d) || dBase d / 2 ^ 56 != 0 || dBase d % 16 != 0 || dStride d % 16 != 0 || dStab d % 16 != 0
  || ((dFmt d == 2 || dFmt d == 3) && dStab d == 0)

/-- R339. -/
def execThdl (g : Guard) (hn a : Nat) (s : State) : Host.Outcome State Fault Refusal :=
  code [.even a] g [] (do
    let va ← readAddr a
    if va / 2 ^ 56 == 0xFE then trap .addr va
    let (x, _) ← loadMem va 32 false false 0 .plain
    if badDesc x.v then trap .illegal va
    let t ← curT
    modify fun s => s.updGang (gidOf t) fun g => { g with handles := g.handles.put hn x.v }
    pure .seq) s

/-! ## Signing (R318 to R320, R340) -/

/-- A convergence register; one never used is in phase 0. -/
def GInst.cv (x : GInst) (k : Nat) : CvReg := (x.cvs.find k).getD { phase := false, signers := [], snap := none }

/-- An operand as it is compared: a scratch address is the place it resolves to. -/
def TSrc.norm : TSrc → TSrc | .scratch h o _ => .scratch h o 0 | d => d

/-- A snapshot as it is compared. -/
def Snap.norm (z : Snap) : Snap := { z with a := z.a.norm, b := z.b.norm, gs := 0 }

/-- The threads whose wait for a slot names a convergence phase that has ended (R345): they wait for the operation it gave the
slot, if any. -/
def State.settleTiles (s : State) (key : Nat) (op : Option (Nat × Nat × Nat)) : State :=
  { s with threads := s.threads.mapv fun _ th =>
      match th.wait with
      | some (.tiles i acc n cvs) =>
        if cvs.any fun c => c.1 == key then
          let n' := match op with | some (j, k, m) => if j == i && k == acc then max n (m + 1) else n | none => n
          { th with wait := some (.tiles i acc n' (cvs.filter fun c => c.1 != key)) }
        else th
      | _ => th }

/-- Complete a convergence phase when every live thread has signed (R320). -/
def State.judgeCv (s : State) (i k : Nat) : State :=
  match s.insts.find i with
  | none => s
  | some x =>
    let r := x.cv k
    if r.signers == [] || !(s.liveOf i).all fun t => r.signers.any fun g => g.1 == t then s
    else
      let s := s.updInst i fun x => { x with cvs := x.cvs.put k { phase := !r.phase, signers := [], snap := none } }
      match r.snap with
      | none => s.settleTiles (16 * i + k) none
      | some z =>
        let n := (x.slot z.acc).next
        (s.issueTile i z.acc (.mma z k (r.signers.getLastD (0, false)).1)).settleTiles (16 * i + k) (some (i, z.acc, n))

/-- A convergence register after a signature, judged. -/
def State.sign (s : State) (i k : Nat) (r : CvReg) : State :=
  (s.updInst i fun x => { x with cvs := x.cvs.put k r }).judgeCv i k

/-- Resolve an operand of a multiply (R325, R330, R340); a breakpoint on its bytes is met as the thread signs (log entry 107). -/
def mulOpnd (fmt bytes : Nat) : TVal → M TSrc
  | .desc d => if dFmt d == fmt then pure (.desc d) else illegal
  | .addr a => do
    let (h, o) ← scratchAt a bytes 128
    checkBrk a bytes true false
    pure (.scratch h o a)

/-- TMMA and TMMQ: the checks, the wait of a second signer, and the signature, a release at core scope (R320). -/
def signMul (on q m : Bool) (gs cv acc : Nat) (A B : TOpnd) : M Flow := do
  let (i, x) ← slotAt gs acc
  if x.ncv ≤ cv then illegal
  reportSlot i acc
  let t ← curT
  let r := x.cv cv
  if r.signers.any fun g => g.1 == t then waitFor (.phase i cv r.phase)
  if on then do
    if q && x.stride != 65536 then illegal
    let fmt := if q then 2 + b2n m else b2n m
    let bytes := if q then 4224 else 4096
    let a ← mulOpnd fmt bytes (← pairOpnd A)
    let b ← mulOpnd fmt bytes (← pairOpnd B)
    let z : Snap := { q := q, m := m, acc := acc, src := b2n A.isHnd + 2 * b2n B.isHnd, a := a, b := b, gs := gs }
    match r.snap with
    | some z0 => if z0.norm != z.norm then trap .cvmismatch (16 * gs + cv)
    | none => pure ()
    releaseAt 2
    modify fun s => s.sign i cv { r with signers := r.signers ++ [(t, false)], snap := some (r.snap.getD z) }
    pure .seq
  else do
    releaseAt 2
    modify fun s => s.sign i cv { r with signers := r.signers ++ [(t, true)] }
    pure .seq

/-- R340. -/
def execTmma (g : Guard) (gs cv acc : Nat) (A B : TOpnd) (f16 : Bool) (s : State) : Host.Outcome State Fault Refusal :=
  codeAny (pairField A ++ pairField B) [] g [] (fun on => signMul on false f16 gs cv acc A B) s

/-- R340. -/
def execTmmq (g : Guard) (gs cv acc : Nat) (A B : TOpnd) (n4 : Bool) (s : State) : Host.Outcome State Fault Refusal :=
  codeAny (pairField A ++ pairField B) [] g [] (fun on => signMul on true n4 gs cv acc A B) s

/-! ## TZERO, TSCALE (R341, R342) -/

/-- R341. -/
def execTzero (g : Guard) (gs acc : Nat) (src : Option TOpnd) (s : State) : Host.Outcome State Fault Refusal :=
  code (match src with | some x => oneField x | none => []) g [] (do
    let (i, x) ← slotReport gs acc
    match src with
    | none => do
      issueSlot i acc .clear
      pure .seq
    | some o => do
      let d ← handleOpnd o
      if dFmt d != 4 && (dFmt d != 5 || x.stride != 65536) then illegal
      issueSlot i acc (.load d)
      pure .seq) s

/-- A base operand: a handle's scale table, or a word (R342). -/
def baseOpnd : TOpnd → M TBase
  | .hnd n => do pure (.stab (← handleDesc n))
  | .reg i => do
    let w ← readReg i .any
    if w.tag == .hnd then do pure (.stab (← wordHandle i w.bits.toNat))
    else do
      requireTag i .f32 w
      pure (.word w.bits.toNat)

/-- R342. -/
def execTscale (g : Guard) (gs acc : Nat) (A B : TOpnd) (s : State) : Host.Outcome State Fault Refusal :=
  code (oneField A ++ oneField B) g [] (do
    let (i, _) ← slotReport gs acc
    let a ← baseOpnd A
    let b ← baseOpnd B
    issueSlot i acc (.scale a b)
    pure .seq) s

/-! ## TWAIT, TFLAG (R345) -/

/-- The phases in which a thread has signed that have not completed and may concern a slot. -/
def State.signedBy (s : State) (t i acc : Nat) : List (Nat × Bool) :=
  s.insts.flatMap fun e => e.2.cvs.filterMap fun c =>
    if (c.2.signers.any fun g => g.1 == t) && !s.phaseAside i acc (16 * e.1 + c.1) c.2.phase then
      some (16 * e.1 + c.1, c.2.phase) else none

/-- Wait for a slot, then report it (R345, R333): what the thread waits for is fixed when it first issues. -/
def awaitSlot (gs acc : Nat) : M TileSlot := do
  let (i, x) ← slotAt gs acc
  let th ← thread
  let t ← curT
  if th.cont == .none then do
    let s ← get
    let w := Wait.tiles i acc (x.slot acc).next (s.signedBy t i acc)
    modThread fun th => { th with cont := .tok 0 }
    if !s.waitOver t th w then waitFor w
  reportSlot i acc
  pure (x.slot acc)

/-- R345. -/
def execTflag (g : Guard) (gs acc : Nat) (s : State) : Host.Outcome State Fault Refusal :=
  code [] g [] (do
    let y ← awaitSlot gs acc
    addFlags (fFovf * b2n y.fovf + fQsat * b2n y.qsat)
    if y.lapse then setLapf
    pure .seq) s

/-- R345. -/
def execTwait (g : Guard) (gs acc : Nat) (s : State) : Host.Outcome State Fault Refusal :=
  code [] g [] (do
    let _ ← awaitSlot gs acc
    pure .seq) s

/-! ## TCVT, TSTORE (R343, R344) -/

/-- The thread that an operation waits for. -/
def TileOp.owner : TileOp → Option Nat | .conv t .. => some t | .store t _ => some t | _ => none

/-- Issue an operation of the current thread to a slot, unless it is there, and wait for its turn (R331): a report point. -/
def takeTurn (i acc : Nat) (op : TileOp) : M TileOp := do
  let t ← curT
  match (← get).insts.find i with
  | none => illegal
  | some x =>
    let y := x.slot acc
    let (n, o) ← (match y.ops.find? fun o => o.2.owner == some t with
      | some r => pure r
      | none => do
        modify fun s => s.issueTile i acc op
        pure (y.next, op) : M (Nat × TileOp))
    if y.ops.any fun p => decide (p.1 < n) then waitFor (.turn i acc n)
    reportSlot i acc
    pure o

/-- The operation of the current thread has been applied. -/
def endTurn (i acc : Nat) : M Unit := do
  let t ← curT
  let g ← gang
  modify fun s => (match s.insts.find i with
    | some x => s.setSlot i acc { x.slot acc with ops := (x.slot acc).ops.filter fun o => o.2.owner != some t }
    | none => s).finishStop g.ctx

/-- A row selector (R338): the first row and the number of rows. -/
def rowSel (b : Nat) : M (Nat × Nat) := do
  let w ← natSrc b
  let r0 := w % 64
  let n := if bits w 14 8 == 0 then 64 else bits w 14 8
  if 64 < r0 + n then illegal else pure (r0, n)

/-- A word of a slot's row, from an element's place (R323), with what reading its row gives. -/
def slotElem (x : GInst) (k tick no i j : Nat) : Except RowFail (Nat × Bool) :=
  match (x.slot k).tag, x.tile with
  | .f32acc, some a =>
    match rowWords a tick (some no) 32 (x.slotRow k + 2 * i + j / 32) (k * 65536 + 2 * i + j / 32) with
    | .ok (ws, l) => .ok (ws.getD (j % 32) 0, l)
    | .error e => .error e
  | .racc, some a =>
    match rowWords a tick (some no) 32 (x.slotRow k + 8 * i + j / 8) (k * 65536 + 8 * i + j / 8) with
    | .ok (ws, l) => .ok (nat32 ((ws.drop (4 * (j % 8))).take 4), l)
    | .error e => .error e
  | _, _ => .ok (0, false)

/-- The row of the slot that holds an element's word (R323), as a mask. -/
def elemRow (x : GInst) (k i j : Nat) : List (Nat × Nat) :=
  match (x.slot k).tag with
  | .f32acc => wholeRows (x.slotRow k + 2 * i + j / 32) 1
  | .racc => wholeRows (x.slotRow k + 8 * i + j / 8) 1
  | .empty => []

/-- The conversion of an element of a slot (R337). -/
def convElem (f : Fmt) (y : TileSlot) (e : Nat) : FRes :=
  match y.tag with
  | .empty => (0, 0)
  | .f32acc => f32Conv f e
  | .racc => raccConv f y.baseA y.baseB (Racc.ofNat e)

/-- The stop of a thread that meets a failing slot row (R343). -/
def tileStop {α : Type} : TStop → M α
  | .fail c v => if c == .memerr then throw (.memerr v) else trap c v
  | _ => illegal

/-- Elements of a slot of instance `n` for the current thread, read and converted one after the other by `f`; a row whose metadata fails
has been met (R242). -/
def readElems (n : Nat) (x : GInst) (k tick : Nat) (f : Nat → FRes) : List (Nat × Nat) → M (List Nat × Nat)
  | [] => pure ([], 0)
  | (i, j) :: es => do
    let no := (← get).curNo
    match slotElem x k tick no i j with
    | .error (e, r) => do
      modify fun s => (s.updInst n fun x => { x with tile := x.tile.map fun a => a.meetRow no r }).countFail x.core e
      tileStop e
    | .ok (v, l) => do
      if l then setLapf
      modify fun s => s.cureTile n (elemRow x k i j)
      let (rs, fl) ← readElems n x k tick f es
      pure ((f v).1 :: rs, orf (f v).2 fl)

/-- The instance as it stands now. -/
def instNow (i : Nat) : M GInst := do
  match (← get).insts.find i with
  | some x => pure x
  | none => illegal

/-- R343. -/
def execTcvt (g : Guard) (gs acc a b : Nat) (bf : Bool) (s : State) : Host.Outcome State Fault Refusal :=
  code [.even a, .r b] g [] (do
    let (i, _) ← slotAt gs acc
    let (r0, n) ← rowSel b
    let dst ← readAddr a
    let esz := if bf then 2 else 4
    let len := 64 * esz * n
    let (h, o) ← scratchAt dst len 128
    checkBrk dst len false true
    let t ← curT
    let _ ← takeTurn i acc (.conv t h (o + len))
    let x ← instNow i
    let tick ← now
    let y := x.slot acc
    let f := convElem (if bf then Fmt.bf16 else Fmt.f32) y
    let (rs, fl) ← readElems i x acc tick f ((List.range n).flatMap fun r => (List.range 64).map fun j => (r0 + r, j))
    writeRow h o len dst (wordsBlock (8 * esz) rs)
    addFlags fl
    endTurn i acc
    pure .seq) s

/-- The lines of a store: memory row, first column, columns; rows without a valid element are left out (R327, R344). -/
def storeLines (d r0 n : Nat) : List (Nat × Nat × Nat) :=
  if dTr d then
    let k := min (r0 + n) (dCols d) - r0
    if k == 0 then [] else ((List.range 64).filter (· < dRows d)).map fun r => (r, r0, k)
  else
    let k := min 64 (dCols d)
    if k == 0 then [] else (((List.range n).map (r0 + ·)).filter (· < dRows d)).map fun r => (r, 0, k)

/-- The accumulator elements of a line. -/
def lineElems (d : Nat) (l : Nat × Nat × Nat) : List (Nat × Nat) :=
  (List.range l.2.2).map fun c => if dTr d then (l.2.1 + c, l.1) else (l.1, l.2.1 + c)

/-- Translate the pages of a line that is to be written, lower first. -/
def storeSpans : List (Nat × Nat) → M (List (Nat × Nat × Nat × Nat))
  | [] => pure []
  | (va, n) :: qs => do
    if 2 ^ 56 < va + n then trap .addr va
    let g ← gang
    if g.logRegion va then waitFor .slogEmpty
    let (pa, pte) ← xlate va .store
    let rest ← storeSpans qs
    pure ((va, pa, n, pte) :: rest)

/-- The checks of a line's pages. -/
def checkSpans : List (Nat × Nat × Nat × Nat) → M Unit
  | [] => pure ()
  | (va, pa, n, pte) :: qs => do
    checkBrk va n false true
    if pteLink pte == 0 then objectCheck false pa pte va n 0 0
    if isHost pte pa then hostCheck va
    checkSpans qs

/-- Write a piece within one 128-byte line as a shared-class store. -/
def writePiece (va pa pte n v : Nat) : M Unit := do
  let t ← curT
  let g ← gang
  if pteLink pte == 0 then modify fun s => s.writeClass (coreOf t) g.ctx .shared pa pte n v 0
  else if pteLink pte == 1 then modify fun s => s.remoteWrite t g.kern g.ctx pa pte va n v 0
  else modify fun s => s.physSet g.ctx n (hostKey pa) v

/-- Write the pieces of one page. -/
def writePieces (va0 pa0 pte v : Nat) : List (Nat × Nat) → M Unit
  | [] => pure ()
  | (pa, n) :: qs => do
    writePiece (va0 + (pa - pa0)) pa pte n (v / 2 ^ (8 * (pa - pa0)) % 2 ^ (8 * n))
    writePieces va0 pa0 pte v qs

/-- Write a line, page by page; `v` holds its bytes. -/
def writeSpans (v : Nat) : List (Nat × Nat × Nat × Nat) → M Unit
  | [] => pure ()
  | (va, pa, n, pte) :: qs => do
    writePieces va pa pte (v % 2 ^ (8 * n)) (lineChunks (n / 128 + 2) pa n)
    writeSpans (v / 2 ^ (8 * n)) qs

/-- Record qsat in a slot (R344). -/
def noteQsat (i acc fl : Nat) : M Unit :=
  modify fun s => match s.insts.find i with
    | some x => if fl / fQsat % 2 == 1 then s.setSlot i acc { x.slot acc with qsat := true } else s
    | none => s

/-- One line of TSTORE. -/
def storeLine (i acc d : Nat) (l : Nat × Nat × Nat) : M Unit := do
  let (va, n) := dLine d l.1 l.2.1 l.2.2
  let sp ← storeSpans (spansOf va n)
  checkSpans sp
  let x ← instNow i
  let tick ← now
  let y := x.slot acc
  let f := if dFmt d == 4 then convElem .f32 y else if dFmt d == 0 then convElem .bf16 y else fun e => (e, 0)
  let (rs, fl) ← readElems i x acc tick f (lineElems d l)
  writeSpans (wordsBlock (fmtBits (dFmt d)) rs) sp
  noteQsat i acc fl

/-- The descriptor of a TSTORE: that of its operation in the slot, or, as it first issues, that of its handle, whose format is checked
(R344). -/
def storeDesc (x : GInst) (acc : Nat) (H : TOpnd) : M Nat := do
  let t ← curT
  match (x.slot acc).ops.findSome? fun o => match o.2 with | .store u d => if u == t then some d else none | _ => none with
  | some d => pure d
  | none => do
    let d ← handleOpnd H
    if dFmt d != 0 && dFmt d != 4 && dFmt d != 5 then illegal
    pure d

/-- R344: one line an issue. -/
def execTstore (g : Guard) (gs acc : Nat) (H : TOpnd) (b : Nat) (s : State) : Host.Outcome State Fault Refusal :=
  codeSwp (oneField H ++ [.r b]) [] g [] (do
    let (i, x) ← slotAt gs acc
    let d ← storeDesc x acc H
    let (r0, n) ← rowSel b
    let t ← curT
    let _ ← takeTurn i acc (.store t d)
    let y := (← instNow i).slot acc
    if dFmt d == 5 && y.tag == .f32acc then illegal
    let ls := storeLines d r0 n
    let k := (← thread).sweepStart
    match ls[k]? with
    | none => do
      modThread fun th => { th with swpAct := false, swpIter := 0 }
      endTurn i acc
      pure .seq
    | some l => do
      modThread fun th => { th with swpAct := true, swpIter := k }
      storeLine i acc d l
      if k + 1 < ls.length then do
        modThread fun th => { th with swpAct := true, swpIter := k + 1 }
        pure .again
      else do
        modThread fun th => { th with swpAct := false, swpIter := 0 }
        endTurn i acc
        pure .seq) s

end Sys2Proof.Machine
end

