-- ==== Sys2Proof/Machine/Population.lean ====
section
/-! DEFINITION. Populations (16_population R346 to R352, R358, R360): arrival at RESAMPLE, the seal, and PCOUNT. -/

namespace Sys2Proof.Machine

open Sys2Proof

/-- The live threads of a kernel's population (R346). -/
def State.popLive (s : State) (kern : Nat) : List Nat :=
  match s.kernels.find kern with
  | none => []
  | some k => (s.threads.filter fun e =>
      match s.gangs.find (gidOf e.1) with | some g => g.kern == kern && k.isMember g.gidx | none => false).map (·.1)

/-- The member gangs that hold a slot, by gang number. -/
def State.popGangs (s : State) (kern : Nat) (k : Kernel) : List Nat :=
  (s.gangs.filter fun e => e.2.kern == kern && k.isMember e.2.gidx).map (·.1)

/-- The capacity (R347). -/
def State.popCap (s : State) (kern : Nat) (k : Kernel) : Nat := min k.desc.pmax (32 * (s.popGangs kern k).length)

/-- Change a kernel's population. -/
def State.updPop (s : State) (kern : Nat) (f : Pop → Pop) : State := s.updKernel kern fun k => { k with pop := k.pop.map f }

/-- The instances that hold a member gang. -/
def State.popInsts (s : State) (kern : Nat) (k : Kernel) : List (Nat × GInst) :=
  s.insts.filter fun e => s.gangs.any fun g => g.2.kern == kern && k.isMember g.2.gidx && g.2.grp.contains (some e.1)

/-- What the checks at the seal find (R352): the value of the trap. -/
def State.sealFault (s : State) (kern : Nat) (k : Kernel) : Option Nat :=
  let xs := s.popInsts kern k
  match xs.findSome? fun e => (e.2.bars.find? fun b => b.2.arrived != []).map fun b => 256 * e.2.entry + b.1 with
  | some v => some (3 * 2 ^ 32 + v)
  | none => (xs.findSome? fun e => (e.2.cvs.find? fun c => c.2.signers != []).map fun c => 256 * e.2.entry + c.1).map
      (4 * 2 ^ 32 + ·)

/-- The collective seals when every live thread has arrived at one PC in one repetition, unless a check fails: then every arrived thread
raises POPULATION (R352). -/
def State.judgePop (s : State) (kern : Nat) : State :=
  match s.kernels.find kern with
  | none => s
  | some k =>
    match k.pop with
    | none => s
    | some p =>
      match p.st, p.arrs with
      | .collecting, a :: as =>
        if (s.popLive kern).all fun t => (a :: as).any fun x => x.t == t && x.pc == a.pc && x.rep == a.rep then
          match s.sealFault kern k with
          | some v => (a :: as).foldl (fun s x => s.takeTrap x.t .population v)
              (s.updPop kern fun p => { p with st := .active, arrs := [], record := none })
          | none => s.updPop kern fun p => { p with st := .sealed }
        else s
      | _, _ => s

/-- A population without the arrival of thread `t` (R352). -/
def Pop.forget (p : Pop) (t : Nat) : Pop :=
  let as := p.arrs.filter fun x => x.t != t
  if p.st != .collecting then p
  else { p with arrs := as, record := if as.all (·.abst) then none else p.record, st := if as == [] then .active else .collecting }

/-- A thread has left the population (R350, R352). -/
def State.popLeave (s : State) (kern t : Nat) : State :=
  let s := s.updPop kern fun p => p.forget t
  if s.popLive kern == [] then s.updPop kern Pop.finish else s.judgePop kern

/-- The checks of codes 5 and 6 (Table 16.3). -/
def memberCheck : M Unit := do
  let th ← thread
  let g ← gang
  let k ← getKernel g.kern
  if !k.isMember g.gidx then trap .population (5 * 2 ^ 32)
  if th.inh then trap .population (6 * 2 ^ 32)

/-- Arrive with operands, or abstain (R352): code 1 for those that differ from the record. -/
def popArrive (kern : Nat) (a : PopArr) (ops : Option (Nat × Nat × Bool)) : M Unit := do
  let k ← getKernel kern
  match k.pop with
  | none => trap .population (5 * 2 ^ 32)
  | some p => do
    match p.record, ops with
    | some r, some o => if r != o then trap .population (2 ^ 32 + o.1)
    | _, _ => pure ()
    let r := match p.record with | some r => some r | none => ops
    modify fun s => (s.updPop kern fun p => { p with st := .collecting, arrs := p.arrs ++ [a], record := r }).judgePop kern

/-- The operands of RESAMPLE: the weight, and the target with the offset and mode. -/
def resampleOps (a b c : Nat) (opnd : Bool) : M (Nat × Nat × Nat × Bool) := do
  let w ← f32Src a
  let n ← natSrc b
  let u ← if opnd then natSrc c else pure 0
  if n == 0 then trap .population (2 * 2 ^ 32)
  pure (w, n, u, opnd)

/-- Whether a thread stands among the arrivals of its kernel's population. -/
def State.arrived (s : State) (kern t : Nat) : Bool :=
  match s.kernels.find kern with
  | some k => (match k.pop with | some p => p.arrs.any fun x => x.t == t | none => false)
  | none => false

/-- R358: the checks precede the guard. A thread whose arrival seals in vain has taken its trap. -/
def execResample (g : Guard) (d a b c _k : Nat) (opnd : Bool) (s : State) : Host.Outcome State Fault Refusal :=
  codeAny ([.r d, .r a, .r b] ++ (if opnd then [.r c] else [])) [] g [.reg d .u32] (fun on => do
    let th ← thread
    memberCheck
    let ops ← if on then (do pure (some (← resampleOps a b c opnd)) : M _) else pure none
    if !(th.bt.all (· == 0) && th.loads == []) then waitFor .quiet
    reportLog 3
    releaseAt 3
    let t ← curT
    let gg ← gang
    popArrive gg.kern { t := t, pc := th.pc, rep := th.repNo, abst := !on, w := match ops with | some o => o.1 | none => 0, d := d }
      (ops.map (·.2))
    if (← get).arrived gg.kern t then waitFor .resample else pure .gone) s

/-- Table 16.5. -/
def State.popItem (s : State) (kern : Nat) (k : Kernel) (p : Pop) (item : Nat) : Nat :=
  match item with
  | 0 => if p.st == .ended then 0 else (s.popLive kern).length
  | 1 => p.lastN
  | 2 => p.lastReq
  | 3 => p.lastSan
  | 4 => p.lastFlags
  | 5 => s.popCap kern k
  | _ => p.gen % 65536

/-- R360. -/
def execPcount (g : Guard) (d item _k : Nat) (s : State) : Host.Outcome State Fault Refusal :=
  code [.r d] g [.reg d .u32] (do
    let gg ← gang
    let k ← getKernel gg.kern
    let s ← get
    match k.pop with
    | none => trap .population (5 * 2 ^ 32)
    | some p => putWord d (s.popItem gg.kern k p item) .u32) s

end Sys2Proof.Machine
end

