-- ==== Sys2Proof/Machine/Exit.lean ====
section
/-! DEFINITION. How threads and gangs end (08_gang R164; 06_kernel R138, R140; 16_population R359): EXIT and PKILL, the freeing of
gangs and instances, and what a thread gives up when a trap takes it out of a wait. -/

namespace Sys2Proof.Machine

open Sys2Proof

/-! ## Gangs (R140) -/

/-- Whether some operation of a gang is still outstanding (R140): a side-log entry, a copy into its window or of its threads, a tile
operation that its threads issued or on its window, a walk of its log, a request to a peer that has not been answered. A member gang of a
sealed population stays too: capacity and gang set are fixed at the seal (R354). -/
def State.gangBusy (s : State) (gid : Nat) (g : Gang) : Bool :=
  g.slog != [] || s.windowBusy gid 0
  || (s.cores.any fun e => (e.2.landings.any fun l => gidOf l.t == gid && l.ctx == g.ctx)
      || (e.2.walkq.any fun w => gidOf w.t == gid && w.ctx == g.ctx))
  || (s.insts.any fun e => e.2.kern == g.kern && e.2.slots.any fun x => x.2.ops.any fun o => o.2.issuer.map gidOf == some gid)
  || (s.remops.any fun e => e.2.kern == g.kern && gidOf e.2.t == gid)
  || (match s.kernels.find g.kern with
      | some k => k.isMember g.gidx && (match k.pop with | some p => p.st == .sealed | none => false)
      | none => false)

/-- Whether an instance has no gang left. -/
def State.instEmpty (s : State) (i : Nat) : Bool :=
  (s.gangs.all fun e => !e.2.grp.contains (some i)) && (s.parked.all fun p => !p.gang.grp.contains (some i))

/-- Free gang `gid`, and each of its instances that has no other gang. -/
def State.freeGang (s : State) (gid : Nat) : State :=
  match s.gangs.find gid with
  | none => s
  | some g =>
    let s := { s with gangs := s.gangs.del gid }
    let s := { s with insts := s.insts.keep fun i _ => !(g.grp.contains (some i) && s.instEmpty i) }
    s.settleCtx g.ctx

/-- Free every gang without threads that has nothing outstanding. -/
def State.sweepGangs (s : State) : State :=
  s.gangs.foldl (fun s e =>
    if (s.threads.any fun t => gidOf t.1 == e.1) || s.gangBusy e.1 e.2 then s else s.freeGang e.1) s

/-! ## Kernels (R138) -/

/-- The number of gangs a kernel has admitted. -/
def Kernel.admitted (k : Kernel) : Nat := k.place.length

/-- Whether a kernel has a live thread. -/
def State.kernLive (s : State) (kern : Nat) : Bool :=
  (s.threads.any fun e => s.kernOf e.1 == kern) || (s.parked.any fun p => p.gang.kern == kern && p.threads != [])

/-- A running kernel whose every thread has exited drains (Table 6.4). -/
def State.settleKernel (s : State) (kern : Nat) : State :=
  match s.kernels.find kern with
  | none => s
  | some k =>
    if k.st == .running && !s.kernLive kern then (s.updKernel kern fun k => { k with st := .draining }).repoint else s

/-! ## Threads -/

/-- What exits decide in some instances (R306, R320): each barrier and convergence register is judged once. -/
def State.judgeInsts (s : State) (is : List Nat) : State :=
  is.eraseDups.foldl (fun s i =>
    match s.insts.find i with
    | none => s
    | some x =>
      let s := (List.range x.nbar).foldl (fun s b => s.judgeBarrier i b) s
      (List.range x.ncv).foldl (fun s k => s.judgeCv i k) s) s

/-- What a thread's absence decides (R170, R306, R320): the collectives, barriers and convergence phases it leaves. -/
def State.judgeGang (s : State) (gid : Nat) (g : Gang) : State := (s.judgeColl gid).judgeInsts (g.grp.filterMap id)

/-- An allocation with a lane's words vacant: zeros of tag RAW (R153). -/
def Alloc.vacate (a : Alloc) (lane : Nat) : Alloc :=
  { a with rows := a.rows.mapv fun _ r => { r with words := r.words.del lane, lapsed := setBit r.lapsed lane false,
                                                   bad := setBit r.bad lane false, soft := setBit r.soft lane false } }

/-- A thread ends (R164): its lane is vacant, its registers and stack hold 0 with tag RAW (R153). -/
def State.removeThread (s : State) (t : Nat) : State :=
  match s.threads.find t with
  | none => s
  | some th =>
    let gid := gidOf t
    let s := if th.inh then s.freeHeld t false else s
    let s := match th.slFail, s.gangs.find gid with | some _, some g => s.logDropped g.ctx | _, _ => s
    let s := (s.dropTurns t).leaveGroup t
    { s with threads := s.threads.del t }.updGang gid fun g => { g with
      coll := g.coll.filter (fun c => c.lane != laneOf t), regs := g.regs.vacate (laneOf t), stack := g.stack.vacate (laneOf t) }

/-- A thread exits (R164), with all that its exit decides. -/
def State.exitThread (s : State) (t : Nat) : State :=
  match s.gangs.find (gidOf t) with
  | none => s
  | some g =>
    let s := ((s.progress t).removeThread t).judgeGang (gidOf t) g
    let s := match s.kernels.find g.kern with
      | some k => if k.isMember g.gidx then s.popLeave g.kern t else s
      | none => s
    s.sweepGangs.settleKernel g.kern

/-- The thread exits once its copies and loads are done (R164); what they and the side log left is reported first (R281,
R374). -/
def exitBody : M Flow := do
  reportAll
  let th ← thread
  if !(th.bt.all (· == 0) && th.loads == []) then waitFor .quiet
  let t ← curT
  modify fun s => s.exitThread t
  pure .gone

/-- R164. -/
def execExit (g : Guard) (s : State) : Host.Outcome State Fault Refusal := codeEnd [] g [] exitBody s

/-- R359. -/
def execPkill (g : Guard) (_k : Nat) (s : State) : Host.Outcome State Fault Refusal :=
  code [] g [] (do
    memberCheck
    exitBody) s

/-! ## Waits given up -/

/-- A thread that a trap takes out of a wait is in no queue of its kernel any more: conduits, collectives, the population. -/
def State.abandon (s : State) (t : Nat) : State :=
  let kern := s.kernOf t
  let s := { s with conduits := s.conduits.mapv fun _ c => if c.kern != kern then c else
    { c with senders := c.senders.filter (fun e => e.1 != t), recvs := c.recvs.filter (· != t),
             hold := if (c.senders.headD (t + 1, none)).1 == t then none else c.hold } }
  let s := s.updGang (gidOf t) fun g => { g with coll := g.coll.filter fun c => c.lane != laneOf t }
  match s.gangs.find (gidOf t) with
  | some g => s.updPop g.kern fun p => p.forget t
  | none => s

end Sys2Proof.Machine
end

