-- ==== Sys2Proof/Machine/Kernel.lean ====
section
/-! DEFINITION. Kernels (06_kernel R127 to R131; 07_group R141 to R143): the descriptor and its tables, what refuses them, admission
units, and the completion record. -/

namespace Sys2Proof.Machine

open Sys2Proof

/-! ## The descriptor (Tables 6.1 to 6.3) -/

/-- A role entry; none when a zero field is not zero. -/
def roleOf (w : Nat) : Option Role :=
  if bits w 63 49 != 0 then none else some { access := bit w 48, count := bits w 47 24, first := bits w 23 0 }

/-- A lifetime class by its number. -/
def classOf : Nat → LifeClass | 1 => .lapsing | 2 => .trapping | _ => .refreshed

/-- An allocation declaration; none when R129 excludes it. -/
def allocOf (w : Nat) : Option ADecl :=
  let kind := bits w 2 0
  let c := bits w 4 3
  let d : ADecl := { kind := kind, cls := classOf c, life := bits w 12 5, per := bit w 13, bytes := bits w 63 32 }
  if kind == 0 then (if w == 0 then some d else none)
  else if 5 ≤ kind || bits w 31 14 != 0 || c == 3 || (c == 0) != (d.life == 0) then none
  else if kind == 1 && (d.per || d.bytes != 0) then none
  else if kind == 3 && d.per then none
  else if kind == 4 && (!d.per || d.bytes == 0 || d.bytes % 16384 != 0) then none
  else some d

/-- All of a list, or none. -/
def allSome {α : Type} : List (Option α) → Option (List α)
  | [] => some []
  | some x :: xs => (allSome xs).map (x :: ·)
  | none :: _ => none

/-- How many declarations are of a kind, per gang. -/
def countKind (as : List ADecl) (k : Nat) : Nat := (as.filter fun a => a.kind == k && !a.per).length

/-- The fields of a descriptor. -/
def descFields (w : Nat) (rs : List Role) (as : List ADecl) : Desc :=
  { code := bits w 63 0, clen := bits w 95 64, entry := bits w 127 96, pblk := bits w 191 128, plen := bits w 223 192,
    regs := bits w 232 224, tpg := bits w 237 233 + 1, gangs := bits w 263 240 + 1, block := bits w 279 264,
    diemask := bits w 283 280, pack := bit w 284, persist := bit w 285, wdwin := bits w 319 288, budget := bits w 351 320,
    ncd := bits w 359 352, cdtab := bits w 447 384, gtab := bits w 511 448, ngrp := bits w 520 512, pmax := bits w 607 576,
    pfirst := bits w 631 608, pcount := bits w 655 632, pseed := bits w 767 704, roles := rs, allocs := as }

/-- Whether the scalar fields hold values that Table 6.1 admits. -/
def descOk (w : Nat) (d : Desc) : Bool :=
  bits w 2047 1536 == 0 && bits w 703 656 == 0 && bits w 575 521 == 0 && bits w 383 360 == 0 && bits w 287 286 == 0
  && bits w 239 238 == 0
  && d.code % 256 == 0 && d.clen != 0 && d.clen % 8 == 0 && d.entry % 8 == 0 && decide (d.entry < d.clen) && d.pblk % 8 == 0
  && d.regs != 0 && d.block != 0 && decide (d.ncd ≤ 64) && decide (d.ngrp ≤ 256)
  && (d.ncd == 0 || d.cdtab % 16 == 0) && (d.ngrp == 0 || d.gtab % 32 == 0)
  && !(d.pblk != 0 && decide (d.regs < 5))
  && decide (countKind d.allocs 1 ≤ 1) && decide (countKind d.allocs 2 ≤ 1) && decide (countKind d.allocs 3 ≤ 1)

/-- The member gangs of a population (R346). -/
def Desc.members (d : Desc) : Nat := if d.pcount == 0 then d.gangs - d.pfirst else d.pcount

/-- The population's conditions (R130, R346). -/
def popOk (d : Desc) : Bool :=
  decide (d.pfirst + d.pcount ≤ d.gangs) &&
  (d.pmax == 0 || (decide (d.tpg * d.members ≤ d.pmax)
    && d.allocs.all fun a => !((a.kind == 1 || a.kind == 3) && a.cls != .refreshed)))

/-- The descriptor in 256 bytes; none when R130 refuses it by itself or against the context's die mask (R80). -/
def parseDesc (w cmask : Nat) : Option Desc :=
  match allSome ((List.range 4).map fun k => roleOf (bits w (768 + 64 * k + 63) (768 + 64 * k))),
        allSome ((List.range 8).map fun k => allocOf (bits w (1024 + 64 * k + 63) (1024 + 64 * k))) with
  | some rs, some as =>
    let d := descFields w rs as
    if descOk w d && popOk d && d.diemask != 0 && Nat.land d.diemask cmask == d.diemask then some d else none
  | _, _ => none

/-- Whether gang `g` has the access role (R128): the highest entry in use that covers it decides. -/
def Desc.isAccess (d : Desc) (g : Nat) : Bool :=
  d.roles.foldl (fun r e => if e.count != 0 && decide (e.first ≤ g) && decide (g < e.first + e.count) then e.access else r) false

/-- The declaration of a kind per gang. -/
def Desc.decl (d : Desc) (k : Nat) : Option ADecl := d.allocs.find? fun a => a.kind == k && !a.per

/-! ## The group and conduit tables -/

/-- A group-table entry (Tables 7.1, 7.2); none when it holds a refused value. -/
def groupOf (w : Nat) : Option GEntry :=
  let c := bits w 255 192
  let e : GEntry := {
    ranges := (List.range 4).map fun k => (bits w (48 * k + 47) (48 * k + 24), bits w (48 * k + 23) (48 * k + 8), bits w (48 * k + 7) (48 * k)),
    span := bit c 17, rep := bit c 16, sdecl := bits c 15 12, tdecl := bits c 11 8, ncv := bits c 7 3, nbar := bits c 2 0, ctl := bits c 17 0 }
  if bits c 63 18 != 0 || 8 < e.sdecl || 8 < e.tdecl || 16 < e.ncv || 4 < e.nbar then none else some e

/-- The indices of a range (R142). -/
def rangeList (r : Nat × Nat × Nat) : List Nat := (List.range r.2.1).map fun i => r.1 + i * r.2.2

/-- An entry's member set, ascending. -/
def GEntry.union (e : GEntry) : List Nat := (e.ranges.flatMap rangeList).foldl (fun s i => setAdd i s) []

/-- The largest index of a range with a member. -/
def GEntry.maxIndex (e : GEntry) : Nat := e.union.foldl max 0

/-- The number of gang-blocks. -/
def Desc.blocks (d : Desc) : Nat := (d.gangs + d.block - 1) / d.block

/-- The members of instance `j` of an entry, clipped (R142). -/
def GEntry.instOf (e : GEntry) (d : Desc) (j : Nat) : List Nat :=
  if e.rep then (e.union.map (d.block * j + ·)).filter (· < d.gangs) else if j == 0 then e.union else []

/-- The instance of entry `e` that gang `g` belongs to. -/
def GEntry.instFor (e : GEntry) (d : Desc) (g : Nat) : Option Nat :=
  let j := if e.rep then g / d.block else 0
  if (e.instOf d j).contains g then some j else none

/-- Whether the declaration that a field names is of a kind, per instance. -/
def namesDecl (d : Desc) (n k : Nat) : Bool :=
  n == 0 || (match d.allocs[n - 1]? with | some a => a.kind == k && a.per | none => false)

/-- R143 for one entry. -/
def groupOk (d : Desc) (i : Nat) (e : GEntry) : Bool :=
  e.union != [] && decide (e.maxIndex < (if e.rep then d.block else d.gangs))
  && !(e.span && (e.sdecl != 0 || e.tdecl != 0 || e.ncv != 0))
  && namesDecl d e.sdecl 2 && namesDecl d e.tdecl 4
  && !(i == 255 && e.rep && decide (2 ^ 24 - 1 < d.blocks))

/-- The entries whose instances gang `g` belongs to, with the instance numbers, ascending. -/
def memberships (d : Desc) (es : List GEntry) (g : Nat) : List (Nat × Nat) :=
  (es.zip (List.range es.length)).filterMap fun p => (p.1.instFor d g).map fun j => (p.2, j)

/-- R143 for the table. -/
def tableOk (d : Desc) (es : List GEntry) : Bool :=
  ((es.zip (List.range es.length)).all fun p => groupOk d p.2 p.1)
  && ((d.allocs.zip (List.range 8)).all fun p => !p.1.per || p.1.kind == 0 || es.any fun e => e.sdecl == p.2 + 1 || e.tdecl == p.2 + 1)
  && (List.range d.gangs).all fun g => decide ((memberships d es g).length ≤ 4)

/-- A conduit-table entry (Table 5.7); none when it breaks its rules. -/
def conduitOf (w : Nat) : Option CEntry :=
  let e : CEntry := { slots := bits w 111 96, sstride := bits w 95 64, sbase := bits w 63 0 }
  if bits w 127 112 != 0 || e.slots == 0 || e.sstride % 64 != 0 || e.sstride < 2112 + 64 * e.slots || e.sbase % 64 != 0 then none
  else some e

/-! ## Units (R132) -/

/-- The gangs that share an instance, or the population, with gang `g`; `loc` leaves spanning relations out. -/
def related (d : Desc) (es : List GEntry) (loc : Bool) (g : Nat) : List Nat :=
  let xs := (memberships d es g).flatMap fun p => match es[p.1]? with
    | some e => if loc && e.span then [] else e.instOf d p.2
    | none => []
  let ps := if d.pmax != 0 && !loc && d.pfirst ≤ g && g < d.pfirst + d.members then (List.range d.members).map (d.pfirst + ·) else []
  (xs ++ ps).foldl (fun s i => setAdd i s) [g]

/-- The closure of a set of gangs under `related`; `f` bounds the rounds. -/
def closeUnit (d : Desc) (es : List GEntry) (loc : Bool) : Nat → List Nat → List Nat
  | 0, xs => xs
  | f + 1, xs =>
    let ys := (xs.flatMap (related d es loc)).foldl (fun s i => setAdd i s) []
    if ys == xs then xs else closeUnit d es loc f ys

/-- The unit of a gang, ascending; with `loc`, the part of it that must lie on one core. -/
def unitOf (d : Desc) (es : List GEntry) (loc : Bool) (g : Nat) : List Nat := closeUnit d es loc d.gangs [g]

/-- Whether a unit may spread (R132): it contains a spanning instance or the population. -/
def unitSpans (d : Desc) (es : List GEntry) (u : List Nat) : Bool :=
  u.any fun g => (d.pmax != 0 && decide (d.pfirst ≤ g) && decide (g < d.pfirst + d.members))
    || (memberships d es g).any fun p => match es[p.1]? with | some e => e.span | none => false

/-! ## What gangs need (R133) -/

/-- Cell pages of one gang. -/
def Desc.gangPages (d : Desc) : Nat :=
  (d.regs + 31) / 32 + (match d.decl 2 with | some a => pagesOf a.bytes | none => 0)
  + (match d.decl 3 with | some a => pagesOf a.bytes | none => 0)

/-- The bytes of a declaration that a group entry names. -/
def Desc.declBytes (d : Desc) (n : Nat) : Nat := if n == 0 then 0 else match d.allocs[n - 1]? with | some a => a.bytes | none => 0

/-- The core-local instances that gangs belong to. -/
def instsOf (d : Desc) (es : List GEntry) (gs : List Nat) : List (Nat × Nat × GEntry) :=
  (gs.flatMap fun g => (memberships d es g).filterMap fun p => match es[p.1]? with
    | some e => if e.span then none else some (p.1, p.2, e)
    | none => none).foldl (fun r x => if r.any fun y => y.1 == x.1 && y.2.1 == x.2.1 then r else r ++ [x]) []

/-- What a set of gangs that lie on one core needs there. -/
structure Need4 where
  slots : Nat
  pages : Nat
  bars : Nat
  cvs : Nat
deriving DecidableEq, Repr

def needOf (d : Desc) (es : List GEntry) (gs : List Nat) : Need4 :=
  let xs := instsOf d es gs
  { slots := gs.length,
    pages := gs.length * d.gangPages + xs.foldl (fun n x => n + pagesOf (d.declBytes x.2.2.sdecl) + pagesOf (d.declBytes x.2.2.tdecl)) 0,
    bars := xs.foldl (fun n x => n + x.2.2.nbar) 0, cvs := xs.foldl (fun n x => n + x.2.2.ncv) 0 }

/-- Whether gangs that must lie on one core can ever be placed there (R130). -/
def fitsCore (d : Desc) (es : List GEntry) (gs : List Nat) : Bool :=
  let n := needOf d es gs
  decide (n.slots ≤ 512) && decide (n.pages ≤ corePages) && decide (n.bars ≤ 2048) && decide (n.cvs ≤ 8192) && decide (d.ncd ≤ 64)

/-- The parts of a unit that must lie on one core each, in ascending order of their lowest gang. -/
def unitParts (d : Desc) (es : List GEntry) (u : List Nat) : List (List Nat) :=
  if unitSpans d es u then
    u.foldl (fun r g => if r.any fun p => p.contains g then r else r ++ [unitOf d es true g]) []
  else [u]

/-- Dies of a mask. -/
def dieCount (m : Nat) : Nat := popcount 4 m

/-- Of some of the cores in use, the one with the fewest gangs, the lowest of several. -/
def fewest (bins : List (List Nat)) (is : List Nat) : Option Nat :=
  is.foldl (fun r i => match r with
    | none => some i
    | some b => if (bins.getD i []).length < (bins.getD b []).length then some i else some b) none

/-- The core that R133 gives a part on `n` cores that hold nothing but `bins`, one entry for each core in use, the lowest first. -/
def binFor (d : Desc) (es : List GEntry) (n : Nat) (bins : List (List Nat)) (p : List Nat) : Option Nat :=
  let room := (List.range bins.length).filter fun i => fitsCore d es (bins.getD i [] ++ p)
  let fresh := if bins.length < n then some bins.length else none
  if d.pack then room.head?.or fresh else fresh.or (fewest bins room)

/-- Whether R133 places parts, in their order, on `n` cores that hold nothing but `bins`. -/
def packs (d : Desc) (es : List GEntry) (n : Nat) : List (List Nat) → List (List Nat) → Bool
  | [], _ => true
  | p :: ps, bins =>
    match binFor d es n bins p with
    | none => false
    | some i => packs d es n ps (if i < bins.length then bins.set i (bins.getD i [] ++ p) else bins ++ [p])

/-- Whether a unit can ever be placed (R130): R133 places each part on cores of the kernel's dies that hold nothing else, within the
context's pages (log entry 105). -/
def unitFits (d : Desc) (es : List GEntry) (bk : Nat) (u : List Nat) : Bool :=
  let ps := unitParts d es u
  ps.all (fitsCore d es) && decide (ps.foldl (fun n p => n + (needOf d es p).pages) 0 ≤ bk) && packs d es (96 * dieCount d.diemask) ps []

/-- Every unit of a kernel can be placed. -/
def unitsFit (d : Desc) (es : List GEntry) (bk : Nat) : Bool :=
  (List.range d.gangs).all fun g => let u := unitOf d es false g; u.headD g != g || unitFits d es bk u

/-! ## Reading what a packet names -/

/-- What a read of a packet processor gives: a value, nothing, or nothing yet, while a peer's answer is awaited. -/
inductive PpRead (α : Type) where
  | ok (v : α)
  | bad
  | wait

/-- The place of a peer's sector among those that die `d`'s packet processor has been given. -/
def ppKey (d dev pa : Nat) : Nat := d * 2 ^ 62 + dev * 2 ^ 52 + pa / 32

/-- Ask a peer for a sector, unless that has been done (R270). -/
def State.ppAsk (s : State) (d c dev pa va : Nat) : State :=
  if s.remops.any fun e => e.2.t == 2 ^ 30 && e.2.fetch && e.2.word == ppKey d dev pa then s
  else s.askPeer dev 1 { dev := dev, t := 2 ^ 30, kern := s.kernNext, ctx := c, posted := false, eseq := 0, va := va, fetch := true,
                         slog := false, tagged := false, issue := 0, word := ppKey d dev pa, more := [] }
      fun tag => pa / 32 * 32 + 2 ^ 64 + 2 ^ 72 * tag

/-- Read `n` bytes of a peer, sector by sector. -/
def State.ppPeer (s : State) (d c dev pa va n : Nat) : PpRead Nat × State :=
  let ks := (List.range ((pa + n - 1) / 32 + 1 - pa / 32)).map (32 * (pa / 32) + 32 * ·)
  let got := ks.map fun k => s.ppGot.find (ppKey d dev k)
  if s.lostDev dev || got.any (· == some none) then (.bad, s)
  else if got.all (·.isSome) then
    let v := got.foldr (fun g v => (match g with | some (some w) => w | _ => 0) + 2 ^ 256 * v) 0
    (.ok (v / 2 ^ (8 * (pa % 32)) % 2 ^ (8 * n)), s)
  else (.wait, ks.foldl (fun s k => if (s.ppGot.find (ppKey d dev k)).isSome then s else s.ppAsk d c dev k va) s)

/-- Read `n` bytes of a context on die `d`, for the packet processor. DESIGN CHOICE (log entry 87): a poisoned byte is used as it
stands. -/
def State.ppRead (s : State) (d c va n : Nat) : PpRead Nat × State :=
  match s.ppXlate d c va .load with
  | (some (pa, pte), s) =>
    if pteLink pte == 0 then (.ok (s.phys n pa), s.noteRead pa n)
    else if pteLink pte == 1 then s.ppPeer d c (pteDev pte) pa va n
    else if s.hostUp then (.ok (s.phys n (hostKey pa)), s)
    else (.bad, s)
  | (none, s) => (.bad, s)

/-- What a packet processor has been given of peers serves one operation only. -/
def State.ppDone (s : State) (d : Nat) : State := { s with ppGot := s.ppGot.keep fun k _ => k / 2 ^ 62 != d }

/-- Read a table of `n` entries of `b` bytes. -/
def State.ppTable (s : State) (d c va b : Nat) : Nat → PpRead (List Nat) × State
  | 0 => (.ok [], s)
  | n + 1 =>
    match s.ppRead d c va b with
    | (.ok w, s) =>
      match s.ppTable d c (va + b) b n with
      | (.ok ws, s) => (.ok (w :: ws), s)
      | r => r
    | (.bad, s) => (.bad, s)
    | (.wait, s) => (.wait, s)

/-- The descriptor, the group table and the conduit table at a kernel's start (R127): what cannot be read or is refused is bad. -/
def State.readKernel (s : State) (d c va : Nat) : PpRead (Desc × List GEntry × List CEntry) × State :=
  if va % 256 != 0 then (.bad, s)
  else
    match s.ppRead d c va 256 with
    | (.bad, s) => (.bad, s)
    | (.wait, s) => (.wait, s)
    | (.ok w, s) =>
      match parseDesc w (s.ctx c).diemask with
      | none => (.bad, s)
      | some k =>
        match s.ppTable d c k.gtab 32 k.ngrp with
        | (.bad, s) => (.bad, s)
        | (.wait, s) => (.wait, s)
        | (.ok gs, s) =>
          match s.ppTable d c k.cdtab 16 k.ncd with
          | (.bad, s) => (.bad, s)
          | (.wait, s) => (.wait, s)
          | (.ok cs, s) =>
            match allSome (gs.map groupOf), allSome (cs.map conduitOf) with
            | some es, some cds =>
              (if tableOk k es && unitsFit k es (s.ctx c).bkpages then .ok (k, es, cds) else .bad, s)
            | _, _ => (.bad, s)

/-! ## The completion record (R103) -/

/-- A write of the packet processor or the device for a context: to local memory, host memory or a peer; what fails is told. -/
def State.ppWrite (s : State) (d c va n v : Nat) : Bool × State :=
  match s.ppXlate d c va .store with
  | (none, s) => (false, s)
  | (some (pa, pte), s) =>
    if pteLink pte == 0 then (true, s.physSet c n pa v)
    else if pteLink pte == 2 then (if s.hostUp then (true, s.physSet c n (hostKey pa) v) else (false, s))
    else if s.lostDev (pteDev pte) then (false, s)
    else (true, s.remoteWrite (2 ^ 30) s.kernNext c pa pte va n v 0)

/-- Write a completion record: its first word, then `done`, which wakes WAIT packets (R103, R105); a record that cannot be written sets
errst[3]. -/
def State.writeRecord (s : State) (d c cpl w done : Nat) : State :=
  if cpl == 0 then s
  else if cpl % 16 != 0 then s.setErrst c 3
  else
    match s.ppWrite d c cpl 8 w with
    | (false, s) => s.setErrst c 3
    | (true, s) => match s.ppWrite d c (cpl + 8) 8 done with | (true, s) => s.notifyWaits | (false, s) => s.setErrst c 3

/-- The first word of Table 5.6. -/
def recordWord (status ticks : Nat) : Nat := status + 2 ^ 32 * (ticks % 2 ^ 32)

/-- The packet of a queue that waits for `w` has completed. -/
def State.packetDone (s : State) (q : Nat) (w : PktWait) : State :=
  let x := s.queue q
  (s.setQueue q { x with pend := x.pend.filter fun p => p.2 != w }).settleQ q

end Sys2Proof.Machine
end

