-- ==== Sys2Proof/Machine/Ports.lean ====
section
/-! DEFINITION. Which port carries a flit, and what a port leaves behind when it stops carrying any (18_link R383 to R388, R392, R398). -/

namespace Sys2Proof.Machine

open Sys2Proof

/-- Whether a port carries flits: it is up, and so is its die. -/
def State.portUp (s : State) (p : Nat) : Bool := (s.port p).st == .up && (s.die (p / 4)).st == .up

/-- The port on which a flit for a device leaves (R385). -/
def State.routePort (s : State) (dst : Nat) : Option Nat := (List.range 16).find? fun p => bit (s.route dst) p && s.portUp p

/-- The flits that a port has sent and that no acknowledgement covers, link control apart. -/
def Port.unsent (x : Port) : List Flit := x.unack.filter fun (f : Flit) => f.vl != 3

/-- Whether a flit is a request of this device to one that is lost (R388). -/
def State.lostFlit (s : State) (f : Flit) : Bool :=
  f.src == s.devnum && s.lostDev f.dst && (f.ty == 1 || f.ty == 2 || f.ty == 3 || f.ty == 6)

/-- One more refused request (Table 17.5). -/
def State.addRefused (s : State) (c : Nat) : State := s.updCtx c fun x => { x with refused := satAdd x.refused 1 32 }

/-- Whether a flit is a multicast write, and no shoot-down, which goes out in the same way (R376, R390). -/
def State.isMcWrite (s : State) (f : Flit) : Bool := f.ty == 6 && !s.invals.any fun e => e.2.peers.find f.dst == some f.eseq

/-- The multicast writes among flits that a lost device does not get are counted (R390). -/
def State.countDropped (s : State) (fs : List Flit) : State := (fs.filter s.isMcWrite).foldl (fun s f => s.addRefused f.ctx) s

/-- A port leaves the up state for another: its unacknowledged flits wait for a route again, ahead of later ones (R386), but for those to
a device that has become lost (R388). -/
def State.portLeaves (s : State) (p : Nat) (f : Port → Port) : State :=
  let x := s.port p
  { s with outq := x.unsent.filter (fun g => !s.lostFlit g) ++ s.outq }.countDropped (x.unsent.filter s.lostFlit) |>.setPort p
    { f x with txq := [], unack := [], ctl := [], nakd := false, repl := [], quiet := 0 }

/-- A port enters training. -/
def Port.train (x : Port) (now : Nat) : Port :=
  { x with st := .training, since := now, txq := [], unack := [], ctl := [], nakd := false, repl := [], quiet := 0 }

/-- A port retrains (R383, R392). -/
def State.retrain (s : State) (p : Nat) : State :=
  if (s.port p).st != .up then s else s.portLeaves p fun x => { x with st := .retraining, since := s.refCycle }

/-- The reference cycles without an advancing acknowledgement after which a port retrains (R383): 50 µs. -/
def quietLimit : Nat := 5000

/-- Whether a port waits for an acknowledgement. -/
def Port.outstanding (x : Port) : Bool := x.st == .up && x.unack != []

/-- A port after `m` reference cycles. -/
def Port.pass (x : Port) (m : Nat) : Port := if x.outstanding then { x with quiet := x.quiet + m } else x

/-- The ports that have waited for 50 µs retrain. -/
def State.retrainQuiet (s : State) : State :=
  s.ports.foldl (fun s e => if e.2.outstanding && decide (quietLimit ≤ e.2.quiet) then s.retrain e.1 else s) s

end Sys2Proof.Machine
end

