-- ==== Sys2Proof/Machine/System.lean ====
section
/-! DEFINITION. The special registers and the rest of the system family (08_gang R152, R176 to R178; 19_health R412 to R414):
MFS, MTS, RND and TRACE, and the trace ring. -/

namespace Sys2Proof.Machine

open Sys2Proof

/-- Whether a special is read and written as a pair (Table 8.1). -/
def Special.wide : Special → Bool
  | .tick => true | .cyc => true | .lin => true | .par => true | .tval => true | _ => false

/-- `rpt` (Table 2.4). -/
def Thread.rptWord (th : Thread) : Nat := b2n th.rptAct * 2 ^ 31 + th.rptRep % 4096 * 2 ^ 16 + th.rptInst % 16

/-- `swp` (Table 10.9). -/
def Thread.swpWord (th : Thread) : Nat := b2n th.swpAct * 2 ^ 31 + th.swpIter % 4096

/-- `tcause` (Table 4.5). -/
def Thread.causeWord (th : Thread) : Nat := b2n th.inh * 2 ^ 31 + th.tcode

/-- A `grp` special (Table 7.3). -/
def State.grpWord (s : State) (g : Gang) (n : Nat) : Nat :=
  match g.grp.getD n none with
  | none => 0xFFFFFFFF
  | some i =>
    match s.insts.find i with
    | some x => x.entry * 2 ^ 24 + x.num % 2 ^ 24
    | none => 0xFFFFFFFF

/-- `spb`: a row of the core's store that the spec does not fix (log entry 10). -/
def Gang.spb (g : Gang) (t : Nat) : Nat :=
  if g.scratch.pages == 0 then 0xFFFFFFFF else 32 * (Config.spbRow (coreOf t) (gslotOf t) g.kern % 3072)

/-- Core cycles of one reference cycle at the operating point in use (Table 1.5, R21). -/
def State.coreRate (s : State) : Nat := 5 + s.opUse

/-- The core cycle of the present reference cycle in which a read of `cyc` on a die falls: not before one that an earlier read has seen
(log entry 11). -/
def State.subCycle (s : State) (d : Nat) : Nat :=
  (s.die d).sub + Config.freeCycles s.free % max 1 (s.coreRate - (s.die d).sub)

/-- `cyc` (R18): the core cycles of the reference cycles that have passed, and those of the present one before the read. -/
def State.cycles (s : State) (t : Nat) : Nat :=
  let d := dieOfCore (coreOf t)
  ((s.die d).cyc + s.subCycle d) % 2 ^ 64

/-- `cyc` has been read: later reads in this reference cycle give no less. -/
def State.readCyc (s : State) (t : Nat) : State :=
  let d := dieOfCore (coreOf t)
  let k := s.subCycle d
  { s with free := s.free + 1 }.setDie d { s.die d with sub := k }

/-- The value of a special (Table 8.1). -/
def State.special (s : State) (t : Nat) (th : Thread) (g : Gang) : Special → Nat
  | .lane => laneOf t
  | .gslot => gslotOf t
  | .gidx => g.gidx
  | .core => coreOf t
  | .die => dieOfCore (coreOf t)
  | .ctx => g.ctx
  | .tick => s.tickOf g.ctx
  | .cyc => s.cycles t
  | .lin => th.lin
  | .par => th.par
  | .gen => th.gen % 65536
  | .rndc => th.rndc
  | .cdep => th.cdep
  | .rpt => th.rptWord
  | .swp => th.swpWord
  | .fst => th.fst
  | .fmode => th.fmode
  | .lapf => b2n th.lapf
  | .tcause => th.causeWord
  | .tpc => th.tpc
  | .tval => th.tval
  | .tmask => th.tmask
  | .tvec => th.tvec
  | .spb => g.spb t
  | .spl => 4096 * g.scratch.pages
  | .stb => 128 * g.stack.pages
  | .grp0 => s.grpWord g 0
  | .grp1 => s.grpWord g 1
  | .grp2 => s.grpWord g 2
  | .grp3 => s.grpWord g 3
  | .escm => b2n (s.ctx g.ctx).escm

/-- The register field of a special. -/
def specialField (sp : Special) (i : Nat) : Field := if sp.wide then .even i else .r i

/-- R176. -/
def execMfs (g : Guard) (d : Nat) (sp : Special) (s : State) : Host.Outcome State Fault Refusal :=
  code [specialField sp d] g (if sp.wide then [.reg d .w64l, .reg (d + 1) .w64h] else [.reg d .u32]) (do
    let t ← curT
    let th ← thread
    let gg ← gang
    let v := (← get).special t th gg sp
    if sp == .cyc then modify fun s => s.readCyc t
    if sp.wide then putL64 d v else putWord d v .u32) s

/-- Whether MTS may write a special, and when (Table 8.1): any time, in a handler only, or never. -/
def mtsAllowed (inh : Bool) : Special → Bool
  | .rndc => true | .fst => true | .fmode => true | .lapf => true | .tvec => true
  | .cdep => inh | .rpt => inh | .swp => inh | .tcause => inh | .tpc => inh | .tval => inh | .tmask => inh
  | _ => false

/-- Whether a value fits a special's layout (R34, R68, R69, R90, R177, R227). DEDUCED (log entry 121): `swp` with iteration 4,095 is taken,
for R227 refuses bits [30:12] alone; it names no iteration of any sweep. -/
def mtsFits (sp : Special) (v : Nat) : Bool :=
  match sp with
  | .rpt => bits v 30 28 == 0 && bits v 15 4 == 0 && bits v 27 16 != 4095
  | .swp => bits v 30 12 == 0
  | .fst => bits v 31 7 == 0
  | .fmode => bits v 31 4 == 0 && decide (v % 8 < 4)
  | .lapf => bits v 31 1 == 0
  | .tcause => bits v 30 8 == 0
  | .tvec => v == 0xFFFFFFFF || v % 8 == 0
  | _ => true

/-- A special written (R177): bit 31 of `tcause` stays. -/
def Thread.setSpecial (th : Thread) (sp : Special) (v : Nat) : Thread :=
  match sp with
  | .rndc => { th with rndc := v }
  | .fst => { th with fst := v }
  | .fmode => { th with fmode := v }
  | .lapf => { th with lapf := bit v 0 }
  | .tvec => { th with tvec := v }
  | .cdep => { th with cdep := v }
  | .rpt => { th with rptAct := bit v 31, rptRep := bits v 27 16, rptInst := v % 16 }
  | .swp => { th with swpAct := bit v 31, swpIter := v % 4096 }
  | .tcause => { th with tcode := v % 256 }
  | .tpc => { th with tpc := v }
  | .tval => { th with tval := v }
  | .tmask => { th with tmask := v }
  | _ => th

/-- R177. DEDUCED (log entry 120): the lapse of the read itself comes after the write, so a write to `lapf` from an expired lapsing row ends at 1. -/
def execMts (g : Guard) (a : Nat) (_ka : Bool) (sp : Special) (s : State) : Host.Outcome State Fault Refusal :=
  code [specialField sp a] g [] (do
    let th ← thread
    let v ← if sp.wide then readL64 a else natSrc a
    if mtsAllowed th.inh sp && mtsFits sp v then do
      modThread fun th => th.setSpecial sp v
      pure .seq
    else illegal) s

/-- `MIX` of R178, modulo 2^64. -/
def mix (k c : Nat) : Nat :=
  let x := Nat.xor k (c * 0x8B3D4E27C95106AF % 2 ^ 64)
  let x := Nat.xor x (x / 2 ^ 29)
  let x := x * 0xE5A192C47D3F0B69 % 2 ^ 64
  let x := Nat.xor x (x / 2 ^ 32)
  let x := x * 0x3C6FD81AB24795E3 % 2 ^ 64
  Nat.xor x (x / 2 ^ 31)

/-- R178. -/
def execRnd (g : Guard) (d : Nat) (w64 : Bool) (s : State) : Host.Outcome State Fault Refusal :=
  code [if w64 then .even d else .r d] g (if w64 then [.reg d .w64l, .reg (d + 1) .w64h] else [.reg d .u32]) (do
    let th ← thread
    let gg ← gang
    let k ← getKernel gg.kern
    let x := mix (Nat.xor k.desc.pseed th.lin) th.rndc
    modThread fun th => { th with rndc := (th.rndc + 1) % 2 ^ 32 }
    if w64 then putL64 d x else putWord d (x % 2 ^ 32) .u32) s

/-! ## The trace ring (R412, R413) -/

/-- A record written to a die's ring, or dropped and counted when the ring is full; a ring that is off takes none. -/
def State.traceRecord (s : State) (die c v : Nat) : State :=
  let d := s.die die
  if !d.ten then s
  else
    let n := 2 ^ (d.tlg + 8)
    if n ≤ (d.twr + 2 ^ 32 - d.trd) % 2 ^ 32 then s.setDie die { d with tdrops := satAdd d.tdrops 1 32 }
    else
      let a := d.tbase + 32 * (d.twr % n)
      let s := (s.physSet c 32 a v).curePoison a 32
      s.setDie die { d with twr := (d.twr + 1) % 2 ^ 32 }

/-- The fields of Table 19.6 that every record has. -/
def traceHead (ty c core gslot lane time : Nat) : Nat :=
  2 ^ 25 * lane + 2 ^ 30 * gslot + 2 ^ 39 * core + 2 ^ 48 * c + 2 ^ 56 * ty + 2 ^ 64 * (time % 2 ^ 64)

/-- R414. -/
def execTrace (g : Guard) (a b _k : Nat) (s : State) : Host.Outcome State Fault Refusal :=
  code [.r a, .r b] g [] (do
    let x ← readBits a .any
    let y ← readBits b .any
    let t ← curT
    let th ← thread
    let gg ← gang
    let s ← get
    set (s.traceRecord (dieOfCore (coreOf t)) gg.ctx (traceHead 2 gg.ctx (coreOf t) (gslotOf t) (laneOf t) s.refCycle
      + 2 ^ 128 * th.lin + 2 ^ 192 * x + 2 ^ 224 * y))
    pure .seq) s

end Sys2Proof.Machine
end

