-- ==== Sys2Proof/Machine/Agenda.lean ====
section
/-! DEFINITION. Which agent moves next (log entry 3): the head of the agenda, or, when the agenda is empty, a fixed policy
that lets the device run on by itself. -/

namespace Sys2Proof.Machine

open Sys2Proof

/-- The first core with an issue group, and its slot. -/
def State.busySlot (s : State) : Option (Nat × Nat) :=
  s.cores.findSome? fun e => match e.2.groups with | [] => none | (sl, _) :: _ => some (e.1, sl)

/-- The first ready thread. -/
def State.someReady (s : State) : Option (Nat × Thread) := s.threads.find? fun e => s.isReady e.1 e.2

/-- The move of an empty agenda: a conduit's refill that lags comes (R116); a group issues; a tick boundary that is due comes; a ready thread's slot forms a group; a load is
delivered; else a reference cycle passes. -/
def State.ownMove (s : State) : Agenda :=
  match s.cdDue with
  | some id => .event (.conduitRefill id)
  | none =>
  match s.busySlot with
  | some (c, sl) => .issue c sl
  | none =>
    match s.ctxs.find? fun e => e.2.runs && decide (100 ≤ e.2.phase) with
    | some (c, _) => .event (.tick c)
    | none =>
    match s.someReady with
    | some (t, _) =>
      let acc := match s.gangs.find (gidOf t) with | some g => g.access | none => false
      .event (.issueGroupFormation (coreOf t) (if acc then 4 else 0))
    | none =>
      match s.threads.find? fun e => e.2.loads != [] with
      | some (t, _) => .event (.loadDelivery t 0)
      | none => .elapse 1

/-- The reference cycles up to a die's next trace latch, where its period is one that latches (R413). -/
def Die.toLatch (d : Die) (now n : Nat) : Nat := if d.tk < 8 || 24 < d.tk then n else 2 ^ d.tk - now % 2 ^ d.tk

/-- The reference cycles that can pass before some context's tick boundary is due, some die latches its trace counters (R413), or some
port has waited too long (R383). -/
def State.room (s : State) (n : Nat) : Nat :=
  s.ports.foldl (fun m e => if e.2.outstanding then min m (quietLimit - e.2.quiet) else m)
    (s.dies.foldl (fun m e => min m (e.2.toLatch s.refCycle n))
      (s.ctxs.foldl (fun m e => if e.2.runs then min m (100 - e.2.phase) else m) n))

/-- What happens at the reference edge that has come, before anything else moves: the tick boundaries that are due (R19), and the trace
latches (R413). -/
def State.edge (s : State) : List Agenda :=
  (s.ctxs.flatMap fun e => if e.2.tickDue then [Agenda.event (.tick e.1)] else [])
  ++ s.dies.flatMap fun e => if 8 ≤ e.2.tk ∧ e.2.tk ≤ 24 ∧ s.refCycle % 2 ^ e.2.tk = 0 then [Agenda.event (.traceSample e.1)] else []

/-- The edge's events come first. -/
def State.atEdge (s : State) : State := { s with agenda := s.edge ++ s.agenda }

/-- The devices for which flits wait with no port of their route up (R388). -/
def State.stranded (s : State) : List Nat :=
  (s.outq.filter fun (f : Flit) => s.routePort f.dst == none).foldl (fun r f => setAdd f.dst r) []

/-- The core cycles of a die after `m` reference cycles: one that the point has lowered in between counts no less than was read (R21). -/
def Die.pass (d : Die) (m rate : Nat) : Die :=
  if m == 0 then d else { d with cyc := d.cyc + m * rate + (d.sub + 1 - rate), sub := 0 }

/-- A context after `m` reference cycles: its time counts on while it runs, and what was written to its breakpoint registers takes effect
at the reference edge (R9, R408). -/
def Ctx.pass (x : Ctx) (m : Nat) : Ctx :=
  if m == 0 then x else { x with phase := if x.runs then x.phase + m else x.phase, brkNow := x.brks }

/-- `n` reference cycles pass, or those up to the next tick boundary of a context (R18, R19): `cyc`, context time and the waits of
flits without a route count on (R21, R388), and ports that have waited too long retrain (R383). What is due at the edge then reached
comes next (R19, R404, R413). -/
def State.elapse (s : State) (n : Nat) : State :=
  let m := s.room n
  { s with refCycle := s.refCycle + m, dies := s.dies.mapv (fun _ d => d.pass m s.coreRate),
           ctxs := s.ctxs.mapv (fun _ x => x.pass m),
           ports := s.ports.mapv (fun _ x => x.pass m),
           waitDev := s.stranded.map fun p => (p, (s.waitDev.find p).getD 0 + m) }.retrainQuiet.atEdge

end Sys2Proof.Machine
end

