-- ==== Sys2Proof/Machine/Place.lean ====
section
/-! DEFINITION. Placing one instruction where the next step fetches (log entry 1): a resident context with one page of
tagged code, a kernel, a gang of one thread that has reached the clause, and the slot that issues it. -/

namespace Sys2Proof.Machine

open Sys2Proof

/-- A thread as it starts (R134), before its PC is set. -/
def Thread.init (pc tvec lin : Nat) : Thread :=
  { pc := pc, preds := 0, rptAct := false, rptRep := 0, rptInst := 0, swpAct := false, swpIter := 0, cdep := 0, rndc := 0,
    fst := 0, fmode := 0, lapf := false, inh := false, wdh := false, tcode := 0, tpc := 0, tval := 0, tmask := 0, tvec := tvec, lin := lin,
    par := 0, gen := 0, bt := [0, 0, 0, 0], age := 0, bars := [], group := none, wait := none, held := none, clause := none,
    res := .start, fbuf := [], opbuf := [], cont := .none, loads := [], copyFaults := [], ranges := [], slFail := none, wkCnt := none, passBrk := false,
    pendLapf := false, pendFst := 0, pendMis := false }

/-- The descriptor of the placed kernel: one general gang of one thread with every register. -/
def placedDesc : Desc :=
  { code := 0, clen := 65536, entry := 0, pblk := 0, plen := 0, regs := 511, tpg := 1, gangs := 1, block := 1, diemask := 15,
    pack := false, persist := false, wdwin := 0, budget := 0, ncd := 0, cdtab := 0, gtab := 0, ngrp := 0, pmax := 0, pfirst := 0,
    pcount := 0, pseed := 0, roles := [], allocs := [] }

def placedKernel : Kernel :=
  { desc := placedDesc, groups := [], cds := [], ctx := 0, q := 0, pidx := 0, prio := 0, hint := none, rscope := 0, cpl := 0, done := 0,
    st := .running, dep := none, place := [(0, 0)], order := 0, admTick := some 0, prog := 0, stage2 := false, due := none,
    failAt := 0, budFired := false, lost := false, ophold := false, pop := none }

def placedGang : Gang :=
  { kern := 0, ctx := 0, gidx := 0, access := false, nregs := 511, regs := Alloc.new .refreshed 0 16 0,
    scratch := Alloc.new .refreshed 0 1 0, stack := Alloc.new .refreshed 0 1 0, handles := [], slog := [], slNext := 0,
    grp := [none, none, none, none], coll := [] }

/-- A clause class that admits an opcode for a general gang. -/
def placedClass (w : Nat) : Nat := ((admitted (w / 2 ^ 52)).filter (· != 5)).headD 0

/-- Level-0 to level-2 tables and the leaf of the code page: the page at 0x10_0000, tagged, readable, writable,
executable. -/
def placedTables (s : State) : State :=
  ((((s.physSet 0 8 0x20000 0x40001).physSet 0 8 0x40000 0x60001).physSet 0 8 0x60000 0x80001).physSet 0 8 0x80000
    (2 ^ 55 + 2 ^ 54 + 2 ^ 53 + 2 ^ 52 + 0x100000 + 3)).physSet 0 8 0x80008 0

/-- The machine with `w` as the next instruction. -/
def State.placeWord (s : State) (w : Nat) : State :=
  let hdr := placedClass w * 2 ^ 60
  let s := placedTables s
  let s := (s.physSet 0 8 0x100000 hdr).physSet 0 8 0x100008 w
  let s := (s.setTagAt 0x100000 true).setTagAt 0x100008 false
  { s with
    agenda := [.issue 0 0], off := false, boot := 10, cur := none,
    ctxs := s.ctxs.put 0 { Ctx.init with st := .resident, tvec := 0xFFFFFFFF, bkpages := 4096, asroot := 0x20000, weight := 1,
                                         homemask := 15, diemask := 15, placeSince := none },
    kernels := s.kernels.put 0 placedKernel,
    gangs := s.gangs.put 0 placedGang,
    threads := s.threads.put 0 { Thread.init 8 0xFFFFFFFF 0 with
      group := some 0, clause := some ⟨0, 1, placedClass w, false, 0, 0, 0, 0, 0⟩ },
    cores := s.cores.put 0 { s.core 0 with groups := [(0, { kern := 0, no := s.issueNo, members := [0], todo := [], hit := [] })] },
    issueNo := s.issueNo + 1 }

end Sys2Proof.Machine
end

