-- ==== Sys2Proof/Machine/Admit.lean ====
section
/-! DEFINITION. Admission (06_kernel R132 to R136; 07_group R144 to R147; 04_context R85, R87): which unit is next, where it goes, and
what a gang starts with. -/

namespace Sys2Proof.Machine

open Sys2Proof

/-! ## The next unit -/

/-- The producer blocks that consumer block `i` needs (R135). -/
def Dep.range (p : Dep) (i : Nat) : List Nat :=
  let lo := ((p.a : Int) * i + p.b).toNat
  let hi := min ((p.nprod : Int) - 1) ((p.a : Int) * i + p.b + p.c - 1)
  if hi < 0 then [] else (List.range (hi.toNat + 1 - lo)).map (lo + ·)

/-- Whether every gang-block that a unit touches has its dependences met (R136). -/
def Kernel.ready (k : Kernel) (u : List Nat) : Bool :=
  match k.dep with
  | none => true
  | some p => u.all fun g => (p.range (g / k.desc.block)).all fun j => setHas j p.seen

/-- The first ready unit not yet admitted, in ascending order of the lowest gang (R133). -/
def Kernel.nextUnit (k : Kernel) : Option (List Nat) :=
  (List.range k.desc.gangs).findSome? fun g =>
    if (k.place.find g).isSome then none
    else
      let u := unitOf k.desc k.groups false g
      if u.headD g == g && k.ready u then some u else none

/-! ## Room on a core -/

/-- The gang slots of a core that may be taken: the empty ones, ascending, then those that descheduled contexts hold (R87). -/
def State.openSlots (s : State) (core : Nat) : List Nat :=
  let at' (n : Nat) : Option Gang := s.gangs.find (512 * core + n)
  ((List.range 512).filter fun n => (at' n).isNone)
  ++ (List.range 512).filter fun n => match at' n with | some g => (s.ctx g.ctx).st == .descheduled | none => false

/-- The conduit slots of a core in use by contexts that are not descheduled, or that cannot be saved. -/
def State.usedConduits (s : State) (core : Nat) : Nat :=
  (s.conduits.filter fun e => e.2.core == core && !e.2.released && !e.2.saved
    && ((s.ctx (s.cdCtx e.2)).st != .descheduled || e.2.save.isSome || e.2.noSave)).length

/-- Barriers and convergence registers in use on a core (R146). -/
def State.usedBars (s : State) (core : Nat) : Nat :=
  s.insts.foldl (fun n e => if e.2.core == core && !e.2.span then n + e.2.nbar else n) 0
def State.usedCvs (s : State) (core : Nat) : Nat :=
  s.insts.foldl (fun n e => if e.2.core == core && !e.2.span then n + e.2.ncv else n) 0

/-- The gangs of a kernel on a core. -/
def State.kernGangs (s : State) (kern core : Nat) : Nat :=
  (s.gangs.filter fun e => e.2.kern == kern && coreOfGid e.1 == core).length

/-- Whether a kernel's conduit instances stand on a core (R115). -/
def State.hasConduits (s : State) (kern core : Nat) : Bool := s.conduits.any fun e => e.2.kern == kern && e.2.core == core

/-- A plan of placement: parts of a unit with their cores. -/
abbrev Plan := List (List Nat × Nat)

/-- The gangs that a plan puts on a core. -/
def Plan.on (p : Plan) (core : Nat) : List Nat := p.flatMap fun e => if e.2 == core then e.1 else []

/-- Whether a core has room for a part beside what a plan already puts there (R133). -/
def State.hasRoom (s : State) (kern : Nat) (k : Kernel) (p : Plan) (part : List Nat) (core : Nat) : Bool :=
  let gs := p.on core ++ part
  let n := needOf k.desc k.groups gs
  let cd := if s.hasConduits kern core then 0 else k.desc.ncd
  decide (n.slots ≤ (s.openSlots core).length) && decide (s.usedPages core + n.pages ≤ corePages)
  && decide (s.usedBars core + n.bars ≤ 2048) && decide (s.usedCvs core + n.cvs ≤ 8192) && decide (s.usedConduits core + cd ≤ 64)

/-- The cores on dies of a kernel's mask that are up (R133). -/
def State.eligible (s : State) (k : Kernel) : List Nat :=
  (List.range 384).filter fun c => bit k.desc.diemask (dieOfCore c) && (s.die (dieOfCore c)).st == .up

/-- The core for a part: the lowest with room, or, spread, the one with the fewest gangs of the kernel among those. -/
def State.coreFor (s : State) (kern : Nat) (k : Kernel) (p : Plan) (part : List Nat) : Option Nat :=
  let cs := (s.eligible k).filter (s.hasRoom kern k p part)
  if k.desc.pack then cs.head?
  else
    let n (c : Nat) : Nat := s.kernGangs kern c + (p.on c).length
    cs.foldl (fun r c => match r with | none => some c | some b => if n c < n b then some c else r) none

/-- The plan of a unit, part by part. DESIGN CHOICE (log entry 106): the parts of one unit are placed in ascending order of their lowest
gang. -/
def State.planParts (s : State) (kern : Nat) (k : Kernel) (p : Plan) : List (List Nat) → Option Plan
  | [] => some p
  | part :: ps =>
    match s.coreFor kern k p part with
    | some c => s.planParts kern k (p ++ [(part, c)]) ps
    | none => none

/-- Where a unit can be placed now, within the context's limit (R79). -/
def State.plan (s : State) (kern : Nat) (k : Kernel) (u : List Nat) : Option Plan :=
  let parts := unitParts k.desc k.groups u
  let tot := parts.foldl (fun n p => n + (needOf k.desc k.groups p).pages) 0
  if (s.ctx k.ctx).bkpages < s.ctxPages k.ctx + tot then none else s.planParts kern k [] parts

/-- The contexts that are resident. -/
def State.residents (s : State) : Nat := (s.ctxs.filter fun e => e.2.st == .resident).length

/-- Whether a kernel may place a unit at all now: its state, its context's, and the operating point it waits for (R111, R133). -/
def State.mayAdmit (s : State) (k : Kernel) : Bool :=
  k.st == .admitting && k.due == none && !k.ophold && (s.ctx k.ctx).pend == none
  && ((s.ctx k.ctx).st == .resident || (s.ctx k.ctx).st == .ready)

/-- The conduit slots that a context's saved instances need on a core. -/
def State.savedConduits (s : State) (c core : Nat) : Nat :=
  (s.conduits.filter fun e => e.2.core == core && e.2.saved && !e.2.released && s.cdCtx e.2 == c).length

/-- Whether every core could hold a context again: its gang slots, cell pages and conduit slots. -/
def State.canReturn (s : State) (c : Nat) : Bool :=
  let r := s.updCtx c fun x => { x with st := .resident }
  (s.parked.all fun p => p.gang.ctx != c || (match s.gangs.find p.gid with
    | some g => (s.ctx g.ctx).st == .descheduled
    | none => true))
  && (List.range 384).all fun core => decide (r.usedPages core + (s.parked.foldl (fun n p =>
        if coreOfGid p.gid == core && p.gang.ctx == c then n + p.gang.pages else n) 0) ≤ corePages)
      && decide (r.usedConduits core + s.savedConduits c core ≤ 64)

/-- Whether a kernel has a unit that fits, whatever the residency limit says. -/
def State.fits (s : State) (kern : Nat) (k : Kernel) : Bool :=
  s.mayAdmit k && (match k.nextUnit with | some u => (s.plan kern k u).isSome | none => false)

/-- Whether nothing but the residency limit holds a context back (R85): one that is to return could, or a ready one has a unit that
fits. -/
def State.onlyPlace (s : State) (c : Nat) : Bool :=
  let x := s.ctx c
  if x.st == .descheduled || x.pend == some .resident then s.canReturn c
  else x.st == .ready && s.kernels.any fun e => e.2.ctx == c && s.fits e.1 e.2

/-- Since when a context waits for a residency place (R85): it waits for one while the limit holds it back, and so where all are taken or
a free one is all that it lacks. -/
def State.waitsPlace (s : State) (c : Nat) : Option Nat :=
  let x := s.ctx c
  let wants := x.st == .descheduled || x.pend == some .resident
    || (x.st == .ready && s.kernels.any fun e => e.2.ctx == c && s.mayAdmit e.2 && e.2.nextUnit.isSome)
  if wants && (decide (64 ≤ s.residents) || s.onlyPlace c) then x.placeSince else none

/-- Whether a context that is not resident may take a residency place now (R85): one is free, and no other has waited longer. -/
def State.mayReside (s : State) (c : Nat) : Bool :=
  decide (s.residents < 64) && s.ctxs.all fun e => e.1 == c ||
    (match s.waitsPlace e.1, s.waitsPlace c with
     | some a, some b => decide (b ≤ a)
     | some _, none => false
     | none, _ => true)

/-- The plan of a kernel's next unit, if there is one. -/
def State.nextPlan (s : State) (kern : Nat) (k : Kernel) : Option Plan :=
  if s.mayAdmit k && ((s.ctx k.ctx).st == .resident || s.mayReside k.ctx) then
    match k.nextUnit with
    | some u => s.plan kern k u
    | none => none
  else none

/-- Whether kernel `a` is served before kernel `b` (R133). -/
def Kernel.before (a b : Kernel) : Bool := decide (b.prio < a.prio) || (a.prio == b.prio && decide (a.order < b.order))

/-- Whether another kernel that is served first has a unit that fits now. -/
def State.overtaken (s : State) (kern : Nat) (k : Kernel) : Bool :=
  s.kernels.any fun e => e.1 != kern && e.2.before k && (s.nextPlan e.1 e.2).isSome

/-! ## Claims (R87, R120, R121) -/

/-- The save area's slot `j` of an instance (R115). -/
def State.cdSaveVa (s : State) (c : Conduit) (j : Nat) : Nat := s.cdBase c + 64 + 64 * j

/-- Save an instance's buffer to its save area, record by record (R121): with the instance as that leaves it. -/
def State.saveRecords (s : State) (c : Conduit) : Nat → List CdRec → Conduit × State
  | _, [] => ({ c with saved := true }, s)
  | j, r :: rs =>
    match s.devXlate c.core (s.cdCtx c) (s.cdSaveVa c j) .store with
    | (.ok pa, s) => ((s.physSet (s.cdCtx c) 64 pa r.slot).curePoison pa 64).saveRecords c (j + 1) rs
    | (.hold q, s) => ({ c with save := some (q, s.cdSaveVa c j) }, s)
    | (.ring, s) => (c, s)
    | (.fail _, s) => ({ c with noSave := true }, s)

/-- Save an instance, or leave it on the core. -/
def State.saveConduit (s : State) (id : Nat) (c : Conduit) : State :=
  let (c, s) := s.saveRecords c 0 c.buf
  { s with conduits := s.conduits.put id c }

/-- Save instances of descheduled contexts on a core until `n` conduit slots are free. -/
def State.claimConduits (s : State) (core n : Nat) : State :=
  s.conduits.foldl (fun s e =>
    let held := (s.conduits.filter fun x => x.2.core == core && !x.2.released && !x.2.saved).length
    if held + n ≤ 64 || e.2.core != core || e.2.released || e.2.saved || e.2.save.isSome || e.2.noSave
        || (s.ctx (s.cdCtx e.2)).st != .descheduled then s
    else s.saveConduit e.1 e.2) s

/-- The conduit slots of a core that are free once every claim has been made. -/
def State.freeConduits (s : State) (core : Nat) : Nat :=
  64 - (s.conduits.filter fun x => x.2.core == core && !x.2.released && !x.2.saved).length

/-! ## Admission (R134) -/

/-- An allocation of a declaration. -/
def ADecl.alloc (d : ADecl) (tick : Nat) : Alloc := Alloc.new d.cls d.life (pagesOf d.bytes) tick

/-- The allocation of a per-gang kind, empty when it is not declared. -/
def Desc.allocFor (d : Desc) (k tick : Nat) : Alloc :=
  match d.decl k with | some a => a.alloc tick | none => Alloc.new .refreshed 0 0 tick

/-- A shared allocation that a group entry names. -/
def Desc.sharedAlloc (d : Desc) (n tick : Nat) : Option Alloc := if n == 0 then none else d.allocs[n - 1]?.map fun a => a.alloc tick

/-- The instance of an entry and number of a kernel, created when it is not there (R145). -/
def State.makeInst (s : State) (kern core : Nat) (k : Kernel) (tick e j : Nat) : Nat × State :=
  match s.insts.find? fun x => x.2.kern == kern && x.2.entry == e && x.2.num == j with
  | some x => (x.1, s)
  | none =>
    let i := s.instNext
    let g := k.groups.getD e { ranges := [], span := false, rep := false, sdecl := 0, tdecl := 0, ncv := 0, nbar := 0, ctl := 0 }
    let x : GInst := {
      kern := kern, ctx := k.ctx, entry := e, num := j, span := g.span, core := core, ctl := g.ctl,
      members := g.instOf k.desc j, nbar := g.nbar, ncv := g.ncv, bars := [], cvs := [],
      window := k.desc.sharedAlloc g.sdecl tick, tile := k.desc.sharedAlloc g.tdecl tick, tileBytes := k.desc.declBytes g.tdecl, slots := [] }
    (i, { s with insts := s.insts.put i x, instNext := i + 1 })

/-- The group slots of a gang (R144). -/
def State.groupSlots (s : State) (kern core : Nat) (k : Kernel) (tick : Nat) : List (Nat × Nat) → List (Option Nat) × State
  | [] => ([], s)
  | (e, j) :: ps =>
    let (i, s) := s.makeInst kern core k tick e j
    let (r, s) := s.groupSlots kern core k tick ps
    (some i :: r, s)

/-- The registers that a launched lane starts with. -/
def startWords (k : Desc) (stack : Nat) : List (Nat × TWord) :=
  [(2, ⟨BitVec.ofNat 32 stack, .u32⟩)] ++
  (if 5 ≤ k.regs then [(4, ⟨BitVec.ofNat 32 k.pblk, .w64l⟩), (5, ⟨BitVec.ofNat 32 (k.pblk / 2 ^ 32), .w64h⟩)] else [])

/-- The launched lanes of a gang. -/
def State.startLanes (s : State) (k : Kernel) (gid gidx : Nat) : Nat → State
  | 0 => s
  | n + 1 =>
    let s := s.startLanes k gid gidx n
    let t := 32 * gid + n
    let lin := 32 * gidx + n
    let th := { Thread.init k.desc.entry (s.ctx k.ctx).tvec lin with par := lin }
    let stack := match s.gangs.find gid with | some g => 128 * g.stack.pages | none => 0
    { s with threads := s.threads.put t th }.writeRegs t ((startWords k.desc stack).filter fun w => w.1 ≤ k.desc.regs)

/-- The conduit instances of a kernel on a core (R115, R119), their control blocks zeroed. -/
def State.makeConduits (s : State) (kern core : Nat) : Nat → State
  | 0 => s
  | n + 1 =>
    let s := s.makeConduits kern core n
    let c : Conduit := {
      core := core, kern := kern, n := n, buf := [], accepted := 0, spills := 0, refills := 0, peak := 0, left := 0,
      head := 0, tail := 0, closed := false, released := false, senders := [], recvs := [], hold := none, fill := .ready, saved := false,
      save := none, noSave := false }
    { s with cdNext := s.cdNext + 1 }.cdPut s.cdNext c

/-- Admit one gang to a core. -/
def State.admitGang (s : State) (kern core g : Nat) : State :=
  match s.kernels.find kern with
  | none => s
  | some k =>
    match s.openSlots core with
    | [] => s
    | slot :: _ =>
      let gid := 512 * core + slot
      let s := s.parkGang gid
      let s := if s.hasConduits kern core then s else s.makeConduits kern core k.desc.ncd
      let tick := s.tickOf k.ctx
      let (grp, s) := s.groupSlots kern core k tick (memberships k.desc k.groups g)
      let cls := match k.desc.decl 1 with | some a => (a.cls, a.life) | none => (LifeClass.refreshed, 0)
      let gang : Gang := {
        kern := kern, ctx := k.ctx, gidx := g, access := k.desc.isAccess g, nregs := k.desc.regs,
        regs := Alloc.new cls.1 cls.2 ((k.desc.regs + 31) / 32) tick, scratch := k.desc.allocFor 2 tick, stack := k.desc.allocFor 3 tick,
        handles := [], slog := [], slNext := 0, grp := (grp ++ [none, none, none, none]).take 4, coll := [] }
      let s := { s with gangs := s.gangs.put gid gang }.updKernel kern fun k => { k with place := k.place.put g gid }
      (s.startLanes k gid g k.desc.tpg).acquire core

/-- A kernel after a unit: its admission tick, and running once nothing remains (Table 6.4). -/
def Kernel.afterUnit (k : Kernel) (tick : Nat) : Kernel :=
  { k with admTick := some (k.admTick.getD tick), prog := if k.admTick.isSome then k.prog else tick,
           st := if k.place.length == k.desc.gangs then .running else .admitting }

/-- Whether every core of a plan has the conduit slots that it needs after the claims. -/
def State.conduitsReady (s : State) (kern : Nat) (k : Kernel) (p : Plan) : Bool :=
  p.all fun e => s.hasConduits kern e.2 || decide (k.desc.ncd ≤ s.freeConduits e.2)

/-- Admit a unit as planned. -/
def State.admitUnit (s : State) (kern : Nat) (k : Kernel) (p : Plan) : State :=
  let cores := (p.map (·.2)).foldl (fun r c => setAdd c r) []
  let s := cores.foldl (fun s c => if !s.hasConduits kern c then s.claimConduits c k.desc.ncd else s) s
  if !s.conduitsReady kern k p then s
  else
    let s := cores.foldl (fun s c => s.claimPages k.ctx c (needOf k.desc k.groups (p.on c)).pages) s
    let s := (p.flatMap fun e => e.1.map fun g => (g, e.2)).foldl (fun s e => s.admitGang kern e.2 e.1) s
    let s := s.updKernel kern fun x => x.afterUnit (s.tickOf k.ctx)
    if (s.ctx k.ctx).st == .ready then (s.enterCtx k.ctx .resident).updCtx k.ctx fun x => { x with sliceCnt := 0, placeSince := none } else s

/-- A context that the residency limit holds back begins to wait, and one that it does not hold back waits no more (R85). -/
def State.notePlace (s : State) (c : Nat) : State :=
  if 64 ≤ s.residents then
    if (s.ctx c).placeSince == none then s.updCtx c fun x => { x with placeSince := some s.refCycle } else s
  else if (s.ctx c).placeSince != none && !s.onlyPlace c then s.updCtx c fun x => { x with placeSince := none }
  else s

/-- R133: the first ready unit of a kernel is placed when it fits and no kernel served before it has one that does. -/
def execUnitAdmission (kern : Nat) (s : State) : Host.Outcome State Fault Refusal :=
  let s := s.sweepGangs
  match s.kernels.find kern with
  | none => .next s
  | some k =>
    let s := if s.mayAdmit k && (s.ctx k.ctx).st == .ready then s.notePlace k.ctx else s
    match s.nextPlan kern k with
    | none => .next s
    | some p => if s.overtaken kern k then .next s else .next (s.admitUnit kern k p)

end Sys2Proof.Machine
end

