-- ==== Sys2Proof/Machine/Packets.lean ====
section
/-! DEFINITION. The packet processors (05_queue R97 to R113): which packet is next, what makes it bad, and the NOP, KERNEL, SIGNAL,
WAIT and DEPMAP packets; the dependences of a kernel (06_kernel R136) and its completion (R138). -/

namespace Sys2Proof.Machine

open Sys2Proof

/-! ## Packets (Tables 5.4 and 5.5) -/

def pktType (p : Nat) : Nat := bits p 3 0
def pktPrio (p : Nat) : Nat := bits p 12 11
def pktRel (p : Nat) : Nat := bits p 9 7
def pktAcq (p : Nat) : Nat := bits p 6 4

/-- Whether the header holds no value that Table 5.4 excludes. -/
def headerFine (p : Nat) : Bool :=
  bits p 63 18 == 0 && decide (pktRel p < 5) && decide (pktAcq p < 5) && decide (pktType p < 6)

/-- Whether the body of a type holds no value that Table 5.5 excludes. -/
def bodyFine (p : Nat) : Bool :=
  bits p 511 256 == 0 &&
  (match pktType p with
   | 0 => bits p 255 64 == 0
   | 1 => true
   | 2 => bits p 255 193 == 0
   | 3 => bits p 255 194 == 0
   | 4 => bits p 255 240 == 0 && bits p 207 192 != 0 && bits p 239 208 != 0
   | _ => bits p 191 170 == 0 && bits p 159 128 != 0 && bits p 161 160 != 3)

/-- Whether a packet of a queue is good by itself (R102). -/
def Queue.good (x : Queue) (p : Nat) : Bool := headerFine p && bodyFine p && (pktType p != 5 || x.priv)

/-! ## The next packet (R109, R110) -/

/-- The packet at the head of a queue, as far as its slot can be read. -/
def State.headPacket (s : State) (q : Nat) : PpRead Nat × State :=
  let x := s.queue q
  s.ppRead x.home x.ctx (x.slotVa x.rdidx) 64

/-- Whether a queue's head packet may start as far as its earlier packets go (R105, R109). -/
def State.headFree (s : State) (q : Nat) : Bool :=
  let x := s.queue q
  x.st == .busy && x.untaken != 0 && !x.pend.any (fun p => p.2.isWait)

/-- Whether the head of a queue is ready to start, and its priority. DESIGN CHOICE (log entry 88): a head slot that cannot be read counts
as priority 0 (R110); and (log entry 89) a DEPMAP does not hold back the KERNEL with barrier = 1 that it binds (R109). -/
def State.headReady (s : State) (q : Nat) : Option Nat :=
  if !s.headFree q then none
  else
    match (s.headPacket q).1 with
    | .bad => some 0
    | .wait => none
    | .ok p => if bit p 10 && (s.queue q).pend != [] then none else some (pktPrio p)

/-- The queue that a die's packet processor serves next: the highest priority, then the next number after the one last served. -/
def State.nextQueue (s : State) (d : Nat) : Option Nat :=
  let turn (q : Nat) : Nat := (q + 1023 - (s.die d).lastQ) % 1024
  let r := s.queues.foldl (fun (r : Option (Nat × Nat)) e =>
    if e.2.home != d then r
    else
      match s.headReady e.1, r with
      | none, r => r
      | some p, none => some (e.1, p)
      | some p, some (b, pb) => if pb < p || (p == pb && turn e.1 < turn b) then some (e.1, p) else some (b, pb)) none
  r.map (·.1)

/-- Whether the packet processor of a queue's die is reading its head slot from a peer, and the state with what it asks. -/
def State.awaitHead (s : State) (q : Nat) : Option State :=
  if s.boot != 10 || (s.die (s.queue q).home).st != .up || !s.headFree q then none
  else
    match s.headPacket q with
    | (.wait, s) => some s
    | _ => none

/-- Whether the head packet of a queue starts now. -/
def State.serves (s : State) (q : Nat) : Bool :=
  s.boot == 10 && (s.die (s.queue q).home).st == .up && s.nextQueue (s.queue q).home == some q

/-- One more bad packet (R102). -/
def State.addBad (s : State) (q : Nat) : State :=
  let x := s.queue q
  let a := s.qRec q + 28
  s.physSet x.ctx 4 a (satAdd (s.phys 4 a) 1 32)

/-- Take the head packet: a DEPMAP before it that it does not bind is bad. -/
def State.takePacket (s : State) (q : Nat) (binds : Bool) : State :=
  let x := s.queue q
  let s := if x.depmap.isSome && !binds then s.addBad q else s
  let s := (s.ppDone x.home).setDie x.home { s.die x.home with lastQ := q }
  (s.setQueue q { x with rdidx := (x.rdidx + 1) % 2 ^ 32, depmap := none }).settleQ q

/-- A bad packet is taken and counted (R102). -/
def State.badPacket (s : State) (q : Nat) : State := (s.takePacket q false).addBad q

/-- The packet of queue `q` now waits. -/
def State.packetWaits (s : State) (q idx : Nat) (w : PktWait) : State :=
  let x := s.queue q
  (s.setQueue q { x with pend := x.pend ++ [(idx, w)] }).settleQ q

/-- A packet of type `ty` starts as `f` says, given the packet and its number: good, or taken as bad. -/
def packetOf (ty q : Nat) (f : Nat → Nat → State → State) (s : State) : Host.Outcome State Fault Refusal :=
  match s.awaitHead q with
  | some s => .next s
  | none =>
    if !s.serves q then .next s
    else
      let idx := (s.queue q).rdidx
      match s.headPacket q with
      | (.ok p, s) =>
        if pktType p != ty then .next s
        else if (s.queue q).good p then .next (f p idx s)
        else .next (s.badPacket q)
      | _ => .next s

/-- R108: a NOP packet; and a packet whose slot cannot be read or whose type is bad (R102). -/
def execPacketNop (q : Nat) (s : State) : Host.Outcome State Fault Refusal :=
  match s.awaitHead q with
  | some s => .next s
  | none =>
    if !s.serves q then .next s
    else
      match s.headPacket q with
      | (.ok p, s) =>
        if pktType p == 0 && (s.queue q).good p then .next (s.takePacket q false)
        else if pktType p == 0 || 6 ≤ pktType p then .next (s.badPacket q)
        else .next s
      | (_, s) => .next (s.badPacket q)

/-! ## KERNEL (R103, R111) -/

/-- The dependence that a DEPMAP packet gives (Table 5.5). -/
def depOf (p : Nat) : Dep :=
  { bmap := bits p 127 64, a := bits p 159 128, b := sext (bits p 191 160) 32, c := bits p 207 192, nprod := bits p 239 208, seen := [] }

/-- A population at its kernel's start (R346, R348). -/
def Pop.start (d : Desc) : Pop :=
  { st := .active, gen := 0, next := 32 * d.gangs, arrs := [], record := none, lastN := 0, lastReq := 0, lastSan := 0, lastFlags := 0 }

/-- A kernel as its packet starts it. -/
def Kernel.start (c q idx p n : Nat) (hint : Option Nat) (dep : Option Dep) (d : Desc) (es : List GEntry) (cds : List CEntry) : Kernel :=
  { desc := d, groups := es, cds := cds, ctx := c, q := q, pidx := idx, prio := pktPrio p, hint := hint, rscope := pktRel p,
    cpl := bits p 191 128, done := bits p 255 192, st := .admitting, dep := dep, place := [], order := n, admTick := none, prog := 0,
    stage2 := false, due := none, failAt := 0, budFired := false, lost := false, ophold := false,
    pop := if d.pmax == 0 then none else some (Pop.start d) }

/-- A started kernel, and the operating point it requests: its first gang waits for a change that it causes (R111). -/
def State.addKernel (s : State) (k : Kernel) : State :=
  let n := s.kernNext
  let old := s.opNext
  let s := ({ s with kernels := s.kernels.put n k, kernNext := n + 1 }).repoint
  if s.opNext.isSome && s.opNext != old then s.updKernel n fun k => { k with ophold := true } else s

/-- A KERNEL packet starts, once all that its start reads has been read. -/
def startKernel (q p idx : Nat) (s : State) : State :=
  let x := s.queue q
  let dep := x.depmap.map fun e => depOf e.1
  match s.readKernel x.home x.ctx (bits p 127 64) with
  | (.wait, s) => s
  | (.bad, s) => (s.takePacket q true).writeRecord x.home x.ctx (bits p 191 128) (recordWord 7 0) (bits p 255 192)
  | (.ok (d, es, cds), s) =>
    let s := s.takePacket q true
    let n := s.kernNext
    let hint := if bit p 17 then some (min (bits p 16 13) (s.ctx x.ctx).opceil) else none
    (s.addKernel (Kernel.start x.ctx q idx p n hint dep d es cds)).packetWaits q idx (.kern n)

/-- R103. -/
def execPacketKernel (q : Nat) (s : State) : Host.Outcome State Fault Refusal := packetOf 1 q (startKernel q) s

/-! ## SIGNAL (R104) -/

/-- The word that a SIGNAL leaves. -/
def signalValue (p old : Nat) : Nat := if bit p 192 then (old + bits p 191 128) % 2 ^ 64 else bits p 191 128

/-- A SIGNAL to a peer: an atomic flit, whose answer completes the packet. -/
def State.remoteSignal (s : State) (q c dev pa va p idx : Nat) : State :=
  if s.lostDev dev then s.setErrst c 3
  else
    (s.askPeer dev 3 { dev := dev, t := 2 ^ 30, kern := s.kernNext, ctx := c, posted := false, eseq := 0, va := va, fetch := false,
                       slog := false, tagged := false, issue := 0, word := 0, more := [] }
      fun tag => atomPayload pa (if bit p 192 then 10 else 11) 3 (bits p 191 128) 0 tag).packetWaits q idx (.rem s.remNext)

/-- A SIGNAL packet starts; its update wakes WAIT packets (R105). DESIGN CHOICE (log entry 90): one to host memory, where the host has
not enabled atomics or there is no bridge, makes no update and sets errst[3]. -/
def startSignal (q p idx : Nat) (s : State) : State :=
  let x := s.queue q
  let va := bits p 127 64
  let s := s.takePacket q false
  if va % 8 != 0 then s.setErrst x.ctx 3
  else
    match s.ppXlate x.home x.ctx va .store with
    | (none, s) => s.setErrst x.ctx 3
    | (some (pa, pte), s) =>
      if isHost pte pa && !(s.hostUp && s.hostAtomics) then s.setErrst x.ctx 3
      else if pteLink pte == 1 then s.remoteSignal q x.ctx (pteDev pte) pa va p idx
      else if pteLink pte == 2 then
        (s.physSet x.ctx 8 (hostKey pa) (signalValue p (s.phys 8 (hostKey pa)))).notifyWaits
      else (s.physSet x.ctx 8 pa (signalValue p (s.phys 8 pa))).notifyWaits

/-- R104. -/
def execPacketSignal (q : Nat) (s : State) : Host.Outcome State Fault Refusal := packetOf 2 q (startSignal q) s

/-! ## WAIT (R105) -/

/-- Whether a comparison of Table 5.5 holds. -/
def waitHolds (cond old value : Nat) : Bool :=
  match cond with
  | 0 => old == value
  | 1 => old != value
  | 2 => decide (value ≤ old)
  | _ => decide (old < value)

/-- The comparison of a WAIT: an address that cannot be read does not hold; none while a peer's answer is awaited. -/
def State.waitTest (s : State) (q va value cond : Nat) : Option Bool × State :=
  let x := s.queue q
  if va % 8 != 0 then (some false, s)
  else
    match s.ppRead x.home x.ctx va 8 with
    | (.ok v, s) => (some (waitHolds cond v value), s.ppDone x.home)
    | (.bad, s) => (some false, s.ppDone x.home)
    | (.wait, s) => (none, s)

/-- A WAIT packet starts. -/
def startWait (q p idx : Nat) (s : State) : State :=
  let va := bits p 127 64
  match s.waitTest q va (bits p 191 128) (bits p 193 192) with
  | (none, s) => s
  | (some true, s) => s.takePacket q false
  | (some false, s) => (s.takePacket q false).packetWaits q idx (.wait va (bits p 191 128) (bits p 193 192) (pktAcq p))

/-- R105. -/
def execPacketWait (q : Nat) (s : State) : Host.Outcome State Fault Refusal := packetOf 3 q (startWait q) s

/-- R105: the comparison is made again. -/
def execWaitRecheck (q : Nat) (s : State) : Host.Outcome State Fault Refusal :=
  let x := s.queue q
  if x.st != .busy || (s.die x.home).st != .up then .next s
  else
    match x.pend.find? fun p => p.2.isWait with
    | some (_, .wait va value cond a) =>
      match s.waitTest q va value cond with
      | (some true, s) => .next (s.packetDone q (.wait va value cond a))
      | (_, s) => .next s
    | _ => .next s

/-! ## DEPMAP (R106, R135, R136) -/

/-- R106: the map stands until the next packet is taken. -/
def execPacketDepmap (q : Nat) (s : State) : Host.Outcome State Fault Refusal :=
  packetOf 4 q (fun p idx s =>
    let s := s.takePacket q false
    (s.setQueue q { s.queue q with depmap := some (p, idx) }).settleQ q) s

/-- Read the bits of a producer bitmap, word by word. DESIGN CHOICE (log entry 91): every word up to `nprod` is read, so that one that
cannot be read counts whether or not a block needs it. -/
def State.readMap (s : State) (d c va : Nat) : Nat → PpRead (List Nat) × State
  | 0 => (.ok [], s)
  | n + 1 =>
    match s.readMap d c va n with
    | (.ok js, s) =>
      match s.ppRead d c (va + 8 * n) 8 with
      | (.ok w, s) => (.ok (js ++ ((List.range 64).filter (bit w)).map (64 * n + ·)), s)
      | (.bad, s) => (.bad, s)
      | (.wait, s) => (.wait, s)
    | r => r

/-- R136: the scheduler observes the bits that are set; a bitmap that cannot be read refuses the kernel (R102). -/
def execDepmapRecheck (kern : Nat) (s : State) : Host.Outcome State Fault Refusal :=
  match s.kernels.find kern with
  | none => .next s
  | some k =>
    match k.dep with
    | none => .next s
    | some d =>
      if k.st != .admitting || k.due.isSome then .next s
      else if d.bmap % 8 != 0 then .next (s.failKernel kern 7)
      else
        let h := (s.queue k.q).home
        match s.readMap h k.ctx d.bmap ((d.nprod + 63) / 64) with
        | (.wait, s) => .next s
        | (.bad, s) => .next ((s.ppDone h).failKernel kern 7)
        | (.ok js, s) => .next ((s.ppDone h).updKernel kern fun k =>
            { k with dep := some { d with seen := (js.filter (· < d.nprod)).foldl (fun r j => setAdd j r) d.seen } })

/-! ## Completion (R103, R138, R139) -/

/-- Whether something that the threads of a kernel issued is still to be performed or acknowledged. -/
def State.kernBusy (s : State) (kern : Nat) : Bool :=
  (s.gangs.any fun e => e.2.kern == kern) || (s.parked.any fun p => p.gang.kern == kern)
  || s.remops.any fun e => e.2.kern == kern && (e.2.posted || e.2.slog) && decide (e.2.t < 2 ^ 30)

/-- The control blocks of a kernel's conduits in their last state, and the instances gone (R119). -/
def State.dropConduits (s : State) (kern : Nat) : State :=
  let s := s.releaseConduits kern
  let s := s.conduits.foldl (fun s e => if e.2.kern == kern then s.cdCopy e.2 else s) s
  { s with conduits := s.conduits.keep fun _ c => c.kern != kern }

/-- The release of a completing kernel (R103): the cores that ran it write back at device or system scope. -/
def State.kernRelease (s : State) (k : Kernel) : State :=
  if k.rscope < 3 then s else (k.place.map fun e => coreOfGid e.2).foldl (fun s c => s.cleanRaw c) s

/-- The kernel is over with a status: its conduits go, it releases, its record is written and its packet completes. -/
def State.finishKernel (s : State) (kern : Nat) (k : Kernel) (status : Nat) : State :=
  let s := (s.dropConduits kern).kernRelease k
  let ticks := match k.admTick with | some a => s.tickOf k.ctx - a | none => 0
  let s := s.writeRecord (s.queue k.q).home k.ctx k.cpl (recordWord status ticks) k.done
  ({ s with kernels := s.kernels.del kern }.packetDone k.q (.kern kern)).repoint

/-- R138, R139: a draining kernel whose operations have all been performed completes; a failed one writes its record. -/
def execKernelCompletion (kern : Nat) (s : State) : Host.Outcome State Fault Refusal :=
  let s := s.sweepGangs.settleKernel kern
  match s.kernels.find kern with
  | none => .next s
  | some k =>
    match k.st, k.due with
    | .failed, some d => .next (s.finishKernel kern k d)
    | .draining, none =>
      if s.kernBusy kern then .next s
      else
        let s := if k.lost then s.setErrst k.ctx 1 else s
        .next (s.finishKernel kern k (if k.lost then 5 else 1))
    | _, _ => .next s

end Sys2Proof.Machine
end

