-- ==== Sys2Proof/Machine/Commands.lean ====
section
/-! DEFINITION. What the driver and the scheduler do to contexts (04_context R77 to R89): the six commands, the end of a slice, the
return of a descheduled context, the tick, and the waking of a sleeper. -/

namespace Sys2Proof.Machine

open Sys2Proof

/-- The answer in CXSTS (Table 4.3): 0 done, 1 wrong state, 2 record refused, 15 in progress. -/
def State.answer (s : State) (c r : Nat) : State := { s with cxstsCtx := c, cxstsRes := r }

/-- A command of a context that the device accepts once it is ready (R415), for a context number that exists. Commands are applied one at
a time (R81): while one is in progress, the next waits. -/
def command (i : Instr) (c : Nat) (f : State → State) (s : State) : Host.Outcome State Fault Refusal :=
  if s.boot != 10 || 256 ≤ c then .next s
  else if s.cxstsRes == 15 then .next { s with cmds := s.cmds ++ [i] }
  else .next (f s)

/-! ## DEFINE and READY (R77, R78, R82) -/

/-- A defined context: what the record gave it before is gone; its page-control block and breakpoints stay. -/
def Ctx.define (x : Ctx) : Ctx :=
  { Ctx.init with st := .defined, peers := x.peers, fenced := x.fenced, refused := x.refused, dropped := x.dropped, frd := x.frd,
                  fwr := x.fwr, fbase := x.fbase, flg := x.flg, fen := x.fen, brks := x.brks, brkNow := x.brkNow }

def State.define (s : State) (c : Nat) : State :=
  let x := s.ctx c
  if x.st != .dead then s.answer c 1
  else
    let a := s.ctxRec c
    let s := (s.setCtx c x.define).physSet c 16 (a + 40) 0
    (s.enterCtx c .defined).answer c 0

/-- R78: whether READY accepts a record. -/
def recordFine (w : Nat) : Bool :=
  bits w 1023 448 == 0 && bits w 23 9 == 0 && bits w 4 3 == 0 && bits w 47 40 != 0 && bits w 27 24 != 0 && bits w 31 28 != 0
  && (bits w 255 224 == 0xFFFFFFFF || bits w 255 224 % 8 == 0) && bits w 139 128 == 0 && bits w 223 192 != 0

/-- The policies that a record gives (Table 4.1). -/
def Ctx.latch (x : Ctx) (w : Nat) : Ctx :=
  { x with
    budget := bits w 319 288, wdwin := bits w 287 256, tvec := bits w 255 224, bkpages := bits w 223 192,
    bkbase := bits w 191 128, asroot := bits w 127 64, slice := bits w 63 48, weight := bits w 47 40, sclass := bits w 39 36,
    opceil := bits w 35 32, homemask := bits w 31 28, diemask := bits w 27 24, fstop := bit w 8, dbg := bit w 7,
    lenient := bit w 6, escm := bit w 5 }

/-- READY latches the record, which it reads (R78, R401). DESIGN CHOICE (log entry 123): one with a poisoned byte is refused. -/
def State.makeReady (s : State) (c : Nat) : State :=
  if (s.ctx c).st != .defined then s.answer c 1
  else
    let w := s.phys 128 (s.ctxRec c)
    let s := s.noteRead (s.ctxRec c) 128
    if recordFine w && (s.firstPoison (s.ctxRec c) 128 0).isNone then ((s.updCtx c fun x => x.latch w).enterCtx c .ready).answer c 0 else s.answer c 2

/-! ## HALT and DESCHED (R84, R86, R88, R89) -/

/-- A command that stops a context: done, or in progress while something completes. -/
def State.stopBy (s : State) (c : Nat) (st : CtxState) : State :=
  let s := s.haltCtx c st
  s.answer c (if (s.ctx c).pend.isSome then 15 else 0)

def State.halt (s : State) (c : Nat) : State :=
  match (s.ctx c).st with
  | .resident => if (s.ctx c).pend == some .faulted then s.answer c 1 else s.stopBy c .halted
  | .ready => (s.enterCtx c .halted).answer c 0
  | .descheduled => (s.enterCtx c .halted).answer c 0
  | _ => s.answer c 1

def State.desched (s : State) (c : Nat) : State :=
  if (s.ctx c).st != .resident || (s.ctx c).pend == some .faulted then s.answer c 1
  else if (s.ctx c).pend == some .halted then s.answer c 15
  else s.stopBy c .descheduled

/-! ## The return of a context (R82, R85, R87, R120) -/

/-- The saved pages of a context on a core are restored into blank pages (R87). -/
def State.restorePages (s : State) (c core : Nat) : State :=
  let ps := (s.core core).saved.filter fun p => p.ctx == c
  if ps == [] then s
  else
    let s := ps.foldl State.restorePage (s.claimPages c core ps.length)
    s.updCore core fun x => { x with saved := x.saved.filter fun p => p.ctx != c }

/-- Room is made for the saved conduit instances of a context, by saves of others (R120, R121). -/
def State.claimForReturn (s : State) (c : Nat) : State :=
  (List.range 384).foldl (fun s core => if s.savedConduits c core == 0 then s else s.claimConduits core (s.savedConduits c core)) s

/-- Whether every core has the conduit slots for a context's saved instances: each save has been made. -/
def State.conduitsFit (s : State) (c : Nat) : Bool :=
  (List.range 384).all fun core => decide (s.savedConduits c core ≤ s.freeConduits core)

/-- The conduit instances of a context stand on their cores again (R120): a save that was held is not needed any more. -/
def State.restoreConduits (s : State) (c : Nat) : State :=
  { s with conduits := s.conduits.mapv fun _ x => if s.cdCtx x == c then { x with saved := false, save := none } else x }

/-- A context returns to residency. DESIGN CHOICE (log entry 86): one that has no gang left becomes ready, as Table 4.4 gives for a RESUME
with no gang admitted. -/
def State.returnCtx (s : State) (c : Nat) : State :=
  if s.noGang c then s.enterCtx c .ready
  else
    let s := (s.parked.filter fun p => p.gang.ctx == c).foldl (fun s p => s.unpark p) s
    let s := (s.cores.map (·.1)).foldl (fun s core => s.restorePages c core) (s.restoreConduits c)
    (s.enterCtx c .resident).updCtx c fun x => { x with sliceCnt := 0 }

/-- A context that may return does so once the conduit slots it needs are free: `back` follows, else `wait`. -/
def State.tryReturn (s : State) (c : Nat) (back : State → State) (wait : State → State) : State :=
  if s.noGang c then back (s.returnCtx c)
  else if s.mayReside c && s.canReturn c then
    let s := s.claimForReturn c
    if s.conduitsFit c then back (s.returnCtx c) else wait s
  else wait (s.notePlace c)

/-- The kernels of a faulted context that are marked failed fail now, each with its record, of status 2 (R93, R139). -/
def State.failMarked (s : State) (c : Nat) : State :=
  s.kernels.foldl (fun s e =>
    if e.2.ctx == c && e.2.due.isSome && e.2.st != .failed then
      let s := s.failKernel e.1 2
      match s.kernels.find e.1 with
      | some k => s.finishKernel e.1 k (k.due.getD 2)
      | none => s
    else s) s

/-- R82, R93: the failing kernels of a faulted context fail, and then the context goes on, at once or as soon as it can. -/
def State.resume (s : State) (c : Nat) : State :=
  let x := s.ctx c
  if x.st != .halted && x.st != .faulted then s.answer c 1
  else
    (s.failMarked c).tryReturn c (·.answer c 0) fun s => (s.updCtx c fun x => { x with pend := some .resident }).answer c 15

/-- R84, R85, R87: a context that waits to return does so once it can. -/
def execContextReturn (c : Nat) (s : State) : Host.Outcome State Fault Refusal :=
  let x := s.ctx c
  if !((x.st == .descheduled && x.pend == none) || x.pend == some .resident) then .next s
  else .next (s.tryReturn c id id)

/-! ## KILL (R83) -/

/-- Disable a queue (R98): what it has not taken is abandoned. -/
def State.disableQueue (s : State) (q : Nat) : State :=
  let x := s.queue q
  if x.st == .disabled then s
  else (s.setQueue q { x with st := .disabled, rdidx := x.wridx, pend := [], depmap := none }).storeQ q

/-- The kernels of a context, each finished with the record it is due. -/
def State.finishKernels (s : State) (c : Nat) : State :=
  s.kernels.foldl (fun s e =>
    if e.2.ctx != c then s
    else
      match s.kernels.find e.1 with
      | some k => s.finishKernel e.1 k (k.due.getD 3)
      | none => s) s

/-- What a context still holds once its kernels are gone is given up. -/
def State.clearCtx (s : State) (c : Nat) : State :=
  { s with cores := s.cores.mapv fun _ x => { x with saved := x.saved.filter fun p => p.ctx != c } }.updCtx c fun x =>
    { x with faults := [], sliceCnt := 0, placeSince := none }

def State.kill (s : State) (c : Nat) : State :=
  if (s.ctx c).st == .dead then s.answer c 1
  else
    let s := s.kernels.foldl (fun s e => if e.2.ctx == c then s.failKernel e.1 3 else s) s
    let s := s.finishKernels c
    let s := s.queues.foldl (fun s e => if e.2.ctx == c then s.disableQueue e.1 else s) s
    ((s.clearCtx c).enterCtx c .dead).answer c 0

/-! ## The commands as steps (R81) -/

/-- R81. -/
def execDefine (c : Nat) (s : State) : Host.Outcome State Fault Refusal := command (.define c) c (·.define c) s

/-- R78. -/
def execReady (c : Nat) (s : State) : Host.Outcome State Fault Refusal := command (.ready c) c (·.makeReady c) s

/-- R88. -/
def execHalt (c : Nat) (s : State) : Host.Outcome State Fault Refusal := command (.halt c) c (·.halt c) s

/-- R82. -/
def execResume (c : Nat) (s : State) : Host.Outcome State Fault Refusal := command (.resume c) c (·.resume c) s

/-- R84. -/
def execDesched (c : Nat) (s : State) : Host.Outcome State Fault Refusal := command (.desched c) c (·.desched c) s

/-- R83. -/
def execKill (c : Nat) (s : State) : Host.Outcome State Fault Refusal := command (.kill c) c (·.kill c) s

/-! ## Slices (R84) -/

/-- The state in which every conduit slot is free. -/
def State.freeCds (s : State) : State :=
  { s with conduits := s.conduits.mapv fun _ x => { x with released := true } }

/-- The state in which the resident contexts' gang slots and cell pages could be claimed too. -/
def State.freeAll (s : State) : State :=
  { s.freeCds with ctxs := s.ctxs.mapv fun _ x => if x.st == .resident then { x with st := .descheduled } else x }

/-- Whether a context holds gang slots, and with them cell pages, on a core that a kernel's units may be placed on (R133). -/
def State.holdsFor (s : State) (c : Nat) (k : Kernel) : Bool :=
  s.gangs.any fun e => e.2.ctx == c && (s.eligible k).contains (coreOfGid e.1)

/-- Whether another context is ready and waits for gang slots or cell pages that context `c` holds, or one waits for a residency place
(R84, R85): a unit that conduit slots alone do not let in, but the claim of the resident contexts' slots and pages would. -/
def State.contested (s : State) (c : Nat) : Bool :=
  (decide (64 ≤ s.residents) && s.ctxs.any fun e => e.1 != c && (s.waitsPlace e.1).isSome)
  || (s.kernels.any fun e => e.2.ctx != c && (s.ctx e.2.ctx).st == .ready && s.holdsFor c e.2
      && !s.freeCds.fits e.1 e.2 && s.freeAll.fits e.1 e.2)

/-- R84: a slice that has ended deschedules a contested context; another begins a new slice. -/
def execSliceEnd (c : Nat) (s : State) : Host.Outcome State Fault Refusal :=
  let x := (s.ctx c).settleTick
  if !x.runs || x.slice == 0 || x.sliceCnt < x.slice then .next s
  else if s.contested c then .next (s.haltCtx c .descheduled)
  else .next (s.setCtx c { x with sliceCnt := 0 })

/-! ## Time (R18, R166) -/

/-- A value of a kernel's descriptor, or of its context when it is 0. -/
def orOf (a b : Nat) : Nat := if a == 0 then b else a

/-- Whether a kernel's window has passed without progress at a tick, or its run ticks have reached its budget (R404). -/
def Kernel.windowDue (k : Kernel) (x : Ctx) (tick : Nat) : Bool :=
  orOf k.desc.wdwin x.wdwin != 0 && decide (k.prog + orOf k.desc.wdwin x.wdwin + 1 ≤ tick)
def Kernel.budgetDue (k : Kernel) (x : Ctx) (tick : Nat) : Bool :=
  orOf k.desc.budget x.budget != 0 && decide (orOf k.desc.budget x.budget ≤ tick - k.admTick.getD tick)

/-- The checks that fire for a kernel of a context at a tick, as their events (R404). -/
def Kernel.fires (k : Kernel) (id : Nat) (x : Ctx) (tick : Nat) : List Agenda :=
  if (k.st == .admitting || k.st == .running) && k.admTick.isSome then
    (if k.windowDue x tick then [Agenda.event (.watchdogFire id)] else []) ++ (if k.budgetDue x tick then [Agenda.event (.budgetFire id)] else [])
  else []

/-- R18, R19: a tick boundary. The checks of the kernels of the context that fire do so at this edge, before anything else moves (R404). -/
def execTick (c : Nat) (s : State) : Host.Outcome State Fault Refusal :=
  let x := s.ctx c
  if x.tickDue then
    .next { s.setCtx c x.settleTick with
      agenda := (s.kernels.flatMap fun e => if e.2.ctx == c then e.2.fires e.1 x x.tickNow else []) ++ s.agenda }
  else .next s

/-- R166: a sleeping thread whose tick has come is ready. -/
def execSleepWake (t : Nat) (s : State) : Host.Outcome State Fault Refusal :=
  match s.threads.find t with
  | some th =>
    match th.wait with
    | some (.sleep n) =>
      if s.waitOver t th (.sleep n) then .next (s.updThread t fun th => { th with wait := none }) else .next s
    | _ => .next s
  | none => .next s

end Sys2Proof.Machine
end

