-- ==== Sys2Proof/Machine/Answers.lean ====
section
/-! DEFINITION. The driver's answer to a fault record (17_page R370; 05_queue R121): every operation that waits on the record goes on or
fails. -/

namespace Sys2Proof.Machine

open Sys2Proof

/-- What an answer tells: retry, or fail with a cause. -/
abbrev Verdict := Option Cause

/-- A thread that waits on a record of its context, for its data or for an instruction: it goes on once it is ready. -/
def Thread.answer (v : Verdict) (seq : Nat) (th : Thread) : Thread :=
  match th.wait, v with
  | some (.fault q va), some c => if q == seq then { th with cont := .fail c va } else th
  | some (.ffault q va), some c => if q == seq then { th with cont := .ffail c va } else th
  | _, _ => th

/-- A side-log entry. -/
def SlEntry.answer (v : Verdict) (seq : Nat) (e : SlEntry) : SlEntry :=
  if e.seq != some seq then e else { e with seq := none, fail := v.map fun c => (c, none) }

/-- A gang's side log. -/
def Gang.answer (v : Verdict) (seq : Nat) (g : Gang) : Gang := { g with slog := g.slog.map (SlEntry.answer v seq) }

/-- A walk. -/
def Walk.answer (v : Verdict) (seq : Nat) (w : Walk) : Walk :=
  match w.held with
  | some (q, va) => if q != seq then w else { w with held := none, fail := v.map fun c => (c, va) }
  | none => w

/-- A slot whose head operation waits: a failure is the slot's fault, and the operation is gone (R332). -/
def TileSlot.answer (v : Verdict) (seq : Nat) (y : TileSlot) : TileSlot :=
  match y.held, v with
  | some (.record q va), some c => if q != seq then y else { y with held := none, fault := some (c, va), ops := y.ops.drop 1 }
  | some (.record q _), none => if q != seq then y else { y with held := none }
  | _, _ => y

/-- A conduit instance: its refill and its save. -/
def Conduit.answer (v : Verdict) (seq : Nat) (c : Conduit) : Conduit :=
  let c := match c.fill with
    | .held q va => if q != seq then c else { c with fill := match v with | none => .ready | some x => .failed x va }
    | _ => c
  match c.save with
  | some (q, _) => if q != seq then c else { c with save := none, noSave := c.noSave || v.isSome }
  | none => c

/-- A held spill write of an instance: it is made again, or its sender fails (R121). -/
def State.answerSpill (s : State) (v : Verdict) (seq id : Nat) (c : Conduit) : State :=
  match c.hold, v, c.senders with
  | some (q, va), some x, (t, _) :: ts =>
    if q != seq then s else { s with conduits := s.conduits.put id { c with hold := none, senders := ts } }.wake c.kern t (.fail x va)
  | some (q, _), _, _ => if q != seq then s else { s with conduits := s.conduits.put id { c with hold := none } }
  | none, _, _ => s

/-- The conduits of a context, each going on afterwards. -/
def State.answerConduits (s : State) (c : Nat) (v : Verdict) (seq : Nat) : State :=
  s.conduits.foldl (fun s e =>
    if s.cdCtx e.2 != c then s
    else
      let d := e.2.answer v seq
      let s := { s with conduits := s.conduits.put e.1 d }.answerSpill v seq e.1 d
      if (s.ctx c).st == .resident then s.cdPump e.1 cdFuel else s) s

/-- Every operation of a context that waits on record `seq` is answered, and the record is no longer outstanding. -/
def State.answerFault (s : State) (c seq : Nat) (v : Verdict) : State :=
  let mine (t : Nat) : Bool := match s.gangs.find (gidOf t) with | some g => g.ctx == c | none => false
  let s := { s with
    threads := s.threads.mapv (fun t th => if mine t then th.answer v seq else th),
    gangs := s.gangs.mapv (fun _ g => if g.ctx == c then g.answer v seq else g),
    parked := s.parked.map (fun (p : Parked) => if p.gang.ctx == c then
      { p with gang := p.gang.answer v seq, threads := p.threads.mapv fun _ th => th.answer v seq } else p),
    cores := s.cores.mapv (fun _ x => { x with walkq := x.walkq.map fun (w : Walk) => if w.ctx == c then w.answer v seq else w }),
    insts := s.insts.mapv (fun _ x => if x.ctx == c then { x with slots := x.slots.mapv fun _ y => y.answer v seq } else x) }
  let s := s.updCtx c fun x => { x with faults := x.faults.filter fun f => f.seq != seq }
  s.answerConduits c v seq

/-- The kind of an outstanding record. -/
def Ctx.faultKind (x : Ctx) (seq : Nat) : Option Nat := (x.faults.find? fun f => f.seq == seq).map (·.kind)

/-- R370: verdict retry. -/
def execFaultRetry (c seq : Nat) (s : State) : Host.Outcome State Fault Refusal :=
  if s.boot != 10 then .next s
  else
    match (s.ctx c).faultKind seq with
    | none => .next s
    | some _ => .next (s.answerFault c seq none)

/-- R370: verdict fail, with the cause of Table 17.4. -/
def execFaultFail (c seq : Nat) (s : State) : Host.Outcome State Fault Refusal :=
  if s.boot != 10 then .next s
  else
    match (s.ctx c).faultKind seq with
    | none => .next s
    | some k => .next (s.answerFault c seq (some (kindCause k)))

end Sys2Proof.Machine
end

