-- ==== Sys2Proof/Machine/Package.lean ====
section
/-! DEFINITION. The parts of the package (01_device R11 to R17): how dies, bridges, stacks and controllers are numbered and joined. -/

namespace Sys2Proof.Machine

open Sys2Proof

/-- The counts of Table 1.1: dies, cores, L2 bytes of a die, HBM4E controllers and stacks, die bridges, ports. -/
def numDies : Nat := 4
def numCores : Nat := 384
def l2Bytes : Nat := 64 * 2 ^ 20
def numControllers : Nat := 24
def numStacks : Nat := 12
def numBridges : Nat := 6
def numPorts : Nat := 16

/-- The dies that a bridge joins (R12). -/
def bridgePair : Nat → Nat × Nat
  | 0 => (0, 1) | 1 => (2, 3) | 2 => (0, 2) | 3 => (1, 3) | 4 => (0, 3) | _ => (1, 2)

/-- The bridge between two dies. -/
def bridgeOf (a b : Nat) : Option Nat := (List.range numBridges).find? fun i => bridgePair i == (min a b, max a b)

/-- Whether traffic passes between two dies, in one hop and through no third (R12, R396). -/
def State.joined (s : State) (a b : Nat) : Bool :=
  a == b || (match bridgeOf a b with | some i => s.bridges.getD i 0 != 0 | none => false)

/-- Whether every die still reaches every other. -/
def State.meshed (s : State) : Bool := (List.range numDies).all fun a => (List.range numDies).all fun b => s.joined a b

/-- The die of a stack (R13). -/
def stackDie (k : Nat) : Nat := k / 3

/-- The controllers that serve a stack's pseudo-channel halves 0 and 1, numbered on its die (R13). -/
def stackControllers (k : Nat) : Nat × Nat := (2 * (k % 3), 2 * (k % 3) + 1)

/-- The stack and the half that controller `c` of die `d` serves (R13). -/
def controllerServes (d c : Nat) : Nat × Nat := (3 * d + c / 2, c % 2)

/-- The die of a port (R13). -/
def portDie (p : Nat) : Nat := p / 4

end Sys2Proof.Machine
end

