-- ==== Sys2Proof/Machine/Resample.lean ====
section
/-! DEFINITION. The resample (16_population R353 to R356): weights, counts, kills, placement and copies. -/

namespace Sys2Proof.Machine

open Sys2Proof

/-! ## Weights (R353) -/

/-- A weight as an exact number `m * 2^e`, or infinity, after the first rule; the flag says that it was changed. -/
def saneWeight (w : Nat) : Option (Nat × Int) × Bool :=
  match Fmt.f32.decode w with
  | .fin n m e => if n then (some (0, 0), true) else (some (m, e), false)
  | .inf n => if n then (some (0, 0), true) else (none, false)
  | .nan .. => (some (0, 0), true)

/-- The weights of the arrivals after step 2: those that abstained give 0; with the count of sanitised ones and the two flags. -/
def saneWeights (as : List PopArr) : List (Nat × Int) × Nat × Nat :=
  let ws := as.map fun a => if a.abst then (some (0, 0), false) else saneWeight a.w
  let san := (ws.filter (·.2)).length
  let inf := ws.any fun w => w.1 == none
  let vs : List (Nat × Int) := ws.map fun w => match w.1 with | none => (1, 0) | some v => if inf then (0, 0) else v
  let zero := vs.all fun v => v.1 == 0
  let vs : List (Nat × Int) := if zero then as.map fun a => if a.abst then (0, 0) else (1, 0) else vs
  (vs, san, b2n zero + 2 * b2n inf)

/-- The least E with a number below 2^E. -/
def topExp (v : Nat × Int) : Int := v.2 + (Nat.log2 v.1 : Int) + 1

/-- floor(a * 2^(40 - E)). -/
def fixWeight (E : Int) (v : Nat × Int) : Nat :=
  let k := v.2 + 40 - E
  if 0 ≤ k then v.1 * 2 ^ k.toNat else v.1 / 2 ^ (-k).toNat

/-- The weights fixed (step 3). -/
def fixWeights (vs : List (Nat × Int)) : List Nat :=
  let es := (vs.filter fun v => v.1 != 0).map topExp
  let E := es.foldl max (es.headD 0)
  vs.map (fixWeight E)

/-- The copies of each thread (steps 4 to 6): `c` is the sum of the weights before. -/
def copyCounts (n u W : Nat) : Nat → List Nat → List Nat
  | _, [] => []
  | c, w :: ws =>
    let P (x : Nat) : Nat := (x * n * 2 ^ 32 + u * W) / (W * 2 ^ 32)
    (P (c + w) - P c) :: copyCounts n u W (c + w) ws

/-! ## Placement (R355) -/

/-- The gangs in the order in which a parent's clones look for a lane. -/
def searchOrder (gangs : List Nat) (parent : Nat) : List Nat :=
  let g := gidOf parent
  let c := coreOf parent
  let d := dieOfCore c
  let others := gangs.filter (· != g)
  let onCore := others.filter fun x => coreOfGid x == c
  let onDie (k : Nat) : List Nat := others.filter fun x => dieOfCore (coreOfGid x) == k && coreOfGid x != c
  g :: onCore ++ onDie d ++ onDie ((d + 1) % 4) ++ onDie ((d + 2) % 4) ++ onDie ((d + 3) % 4)

/-- The first lane of the gangs without a thread. -/
def State.freeLane (s : State) : List Nat → Option Nat
  | [] => none
  | g :: gs =>
    match (List.range 32).find? fun l => (s.threads.find (32 * g + l)).isNone with
    | some l => some (32 * g + l)
    | none => s.freeLane gs

/-! ## The image of a clone (R356) -/

/-- One word copied from a lane of one gang's allocation to a lane of another's, with its uncorrectable mark. -/
def copyWord (src dst : Alloc) (tick row from' to' : Nat) : Alloc :=
  let r := src.row row
  let a := dst.writeWord row to' tick (r.word from')
  let q := a.row row
  a.setRow row { q with bad := setBit q.bad to' (bit r.bad from' || r.badMeta) }

/-- The rows of an allocation's lane copied. -/
def copyLane (src dst : Alloc) (tick from' to' : Nat) : Nat → Alloc
  | 0 => dst
  | n + 1 => copyWord src (copyLane src dst tick from' to' n) tick n from' to'

/-- The registers and the stack segment of `p` copied to lane `t`. -/
def State.copyImage (s : State) (p t : Nat) : State :=
  match s.gangs.find (gidOf p) with
  | none => s
  | some g =>
    let tick := s.tickOf g.ctx
    s.updGang (gidOf t) fun x => { x with
      regs := copyLane g.regs x.regs tick (laneOf p) (laneOf t) g.nregs,
      stack := copyLane g.stack x.stack tick (laneOf p) (laneOf t) (32 * g.stack.pages) }

/-- A clone's thread: its parent's specials, its own lineage, no position in a group. -/
def Thread.clone (p : Thread) (gen serial : Nat) : Thread :=
  { p with gen := gen, lin := gen * 2 ^ 48 + serial, par := p.lin, bt := [0, 0, 0, 0], age := 0, bars := [], group := none,
           wait := none, held := none, fbuf := [], opbuf := [], cont := .none, loads := [], copyFaults := [], ranges := [], slFail := none, wkCnt := none,
           passBrk := false, pendLapf := false, pendFst := 0, pendMis := false }

/-- A clone stands past the RESAMPLE of its parent. -/
def State.pastResample (s : State) (t : Nat) : State := (s.advance t).updThread t Thread.park

/-- Place clone `k` of arrival `a` (steps 8 to 10). -/
def State.placeClone (s : State) (kern gen : Nat) (gangs : List Nat) (a : PopArr) (k : Nat) : State :=
  match s.kernels.find kern, s.threads.find a.t, s.freeLane (searchOrder gangs a.t) with
  | some x, some p, some t =>
    match x.pop with
    | none => s
    | some q =>
      let s := s.updPop kern fun q => { q with next := (q.next + 1) % 2 ^ 48 }
      let s := s.copyImage a.t t
      let s := { s with threads := s.threads.put t (p.clone gen q.next) }
      ((s.pastResample t).writeReg t a.d ⟨BitVec.ofNat 32 k, .u32⟩).acquire (coreOf t)
  | _, _, _ => s

/-- The clones of one parent. -/
def State.placeClones (s : State) (kern gen : Nat) (gangs : List Nat) (a : PopArr) (n : Nat) : State :=
  (List.range (n - 1)).foldl (fun s k => s.placeClone kern gen gangs a (k + 1)) s

/-! ## The resample -/

/-- A surviving parent of a generation (step 10): it acquires at device scope, its copy index 0 goes to d, and its RESAMPLE completes. -/
def State.survive (s : State) (gen : Nat) (a : PopArr) : State :=
  (((s.updThread a.t fun th => { th with gen := gen }).acquire (coreOf a.t)).writeReg a.t a.d ⟨0, .u32⟩).complete a.t

/-- The continuing arrivals in their new generation (step 10). -/
def State.continueAll (s : State) (kern gen : Nat) (as : List PopArr) : State :=
  (as.foldl (fun s a => s.survive gen a) s).updPop kern fun p => { p with st := .active, arrs := [], record := none, gen := gen }

/-- The arrivals in population order. -/
def popOrder (as : List PopArr) : List PopArr := as.foldl (fun r a => r.takeWhile (fun x => decide (x.t < a.t)) ++ a ::
  r.dropWhile (fun x => decide (x.t < a.t))) []

/-- Steps 1 to 10 with the recorded target, offset and mode. -/
def State.resample (s : State) (kern : Nat) (k : Kernel) (p : Pop) (nreq off : Nat) (opnd : Bool) : State :=
  let as := popOrder p.arrs
  let cap := s.popCap kern k
  let n := min nreq cap
  let (vs, san, fl) := saneWeights as
  let ws := fixWeights vs
  let u := if opnd then off else mix k.desc.pseed (p.gen % 65536) / 2 ^ 32
  let cs := copyCounts n u (ws.foldl (· + ·) 0) 0 ws
  let gen := (p.gen + 1) % 65536
  let gangs := s.popGangs kern k
  let xs := as.zip cs
  let dead := (xs.filter fun x => x.2 == 0).map (·.1.t)
  let insts := s.gangs.flatMap fun e => if dead.any fun t => gidOf t == e.1 then e.2.grp.filterMap id else []
  let s := (dead.foldl State.removeThread s).judgeInsts insts
  let s := xs.foldl (fun s x => s.placeClones kern gen gangs x.1 x.2) s
  let s := s.continueAll kern gen ((xs.filter fun x => x.2 != 0).map (·.1))
  let s := s.updPop kern fun p => { p with lastN := n, lastReq := nreq, lastSan := san, lastFlags := fl + 4 * b2n (decide (n < nreq)) }
  s.sweepGangs.settleKernel kern

/-- The identity resample (step 1). -/
def State.identity (s : State) (kern : Nat) (p : Pop) : State :=
  let gen := (p.gen + 1) % 65536
  (s.continueAll kern gen p.arrs).updPop kern fun q =>
    { q with lastN := p.arrs.length, lastReq := 0, lastSan := 0, lastFlags := 8 }

/-- A sealed resample completes (R353). -/
def State.finishResample (s : State) (kern : Nat) : State :=
  match s.kernels.find kern with
  | none => s
  | some k =>
    match k.pop with
    | none => s
    | some p =>
      if p.st != .sealed then s
      else
        match p.record with
        | none => (s.identity kern p).finishStop k.ctx
        | some (n, u, o) => (s.resample kern k p n u o).finishStop k.ctx

/-- R353. -/
def execResampleComplete (kern : Nat) (s : State) : Host.Outcome State Fault Refusal := .next (s.finishResample kern)

end Sys2Proof.Machine
end

