-- ==== Sys2Proof/Machine/Health.lean ====
section
/-! DEFINITION. Watching over the machine (19_health R400 to R413; 11_allocation R233, R239 to R242): the watchdog and its dump, trace
samples, soft errors, refresh, scrubbing, and the management core's heartbeat; the expiry of rows. -/

namespace Sys2Proof.Machine

open Sys2Proof

/-! ## The watchdog (R404 to R406) -/

/-- The live threads of a kernel, lowest first in the order (die, core, gang slot, lane). -/
def State.kernThreads (s : State) (kern : Nat) : List (Nat × Thread) := s.threads.filter fun e => s.kernOf e.1 == kern

/-- The dump record of a stopped thread (Table 19.6). -/
def State.dumpThread (s : State) (c : Nat) (e : Nat × Thread) : State :=
  s.traceRecord (dieOfCore (coreOf e.1)) c (traceHead 3 c (coreOf e.1) (gslotOf e.1) (laneOf e.1) s.refCycle
    + 2 ^ 128 * e.2.lin + 2 ^ 192 * e.2.pc + 2 ^ 224 * e.2.tcode)

/-- R406: the kernel is terminated, every stopped thread writing its dump. -/
def State.terminate (s : State) (kern c : Nat) : State := ((s.kernThreads kern).foldl (fun s e => s.dumpThread c e) s).failKernel kern 6

/-- A sealed resample completes before a thread of its kernel is trapped: no member issues while it is sealed (R350). -/
def State.unseal (s : State) (kern : Nat) : State :=
  match s.kernThreads kern with
  | (_, th) :: _ => if th.wait == some .resample then s.finishResample kern else s
  | [] => s

/-- The WATCHDOG trap of a thread, whatever it waits for. -/
def State.barkAt (s : State) (t v : Nat) : State :=
  ((s.abandon t).updThread t fun th => { th with held := none }).takeTrap t .watchdog v

/-- A firing at stage 1: the trap, or, when it is undeliverable, the second firing (R405). -/
def State.bark (s : State) (kern c v : Nat) : State :=
  let s := s.unseal kern
  match s.kernThreads kern with
  | [] => s
  | (t, th) :: _ => if th.canTrap then s.barkAt t v else (s.setErrst c 3).terminate kern c

/-- Whether a kernel's checks run: it has been admitted, it is neither draining nor over, and its context's ticks advance. -/
def State.watched (s : State) (k : Kernel) : Bool :=
  (k.st == .admitting || k.st == .running) && k.due.isNone && k.admTick.isSome && (s.ctx k.ctx).runs

/-- R404, R405: the window has passed without progress. -/
def execWatchdogFire (kern : Nat) (s : State) : Host.Outcome State Fault Refusal :=
  match s.kernels.find kern with
  | none => .next s
  | some k =>
    let w := orOf k.desc.wdwin (s.ctx k.ctx).wdwin
    let tick := s.tickOf k.ctx
    if !s.watched k || !k.windowDue (s.ctx k.ctx) tick then .next s
    else if k.stage2 then .next (s.terminate kern k.ctx)
    else .next ((s.updKernel kern fun k => { k with stage2 := true, prog := tick }).bark kern k.ctx w)

/-- R404, R405: the run ticks have reached the budget, or twice the budget. -/
def execBudgetFire (kern : Nat) (s : State) : Host.Outcome State Fault Refusal :=
  match s.kernels.find kern with
  | none => .next s
  | some k =>
    let b := orOf k.desc.budget (s.ctx k.ctx).budget
    let tick := s.tickOf k.ctx
    let run := tick - k.admTick.getD tick
    if !s.watched k || !k.budgetDue (s.ctx k.ctx) tick then .next s
    else if 2 * b ≤ run then .next (s.terminate kern k.ctx)
    else if k.budFired then .next s
    else if k.stage2 then .next (s.updKernel kern fun k => { k with budFired := true })
    else .next ((s.updKernel kern fun k => { k with budFired := true, stage2 := true, prog := tick }).bark kern k.ctx b)

/-! ## Trace samples (R412, R413) -/

/-- The sample record of a core: what it issued since the last latch; the idle slot-cycles are timing, and free. -/
def State.sample (s : State) (core : Nat) : State :=
  let x := s.core core
  let v := traceHead 1 0 core 0 0 s.refCycle + 2 ^ 128 * x.genIssues + 2 ^ 160 * x.accIssues
    + 2 ^ 192 * (Config.freeCycles s.free % 2 ^ 32) + 2 ^ 224 * (Config.freeCycles (s.free + 1) % 2 ^ 32)
  { s with free := s.free + 2 }.traceRecord (dieOfCore core) 0 v |>.updCore core fun x => { x with genIssues := 0, accIssues := 0 }

/-- R413: a latch, at a reference cycle that is a multiple of the period; `State.elapse` stops at each. -/
def execTraceSample (d : Nat) (s : State) : Host.Outcome State Fault Refusal :=
  let x := s.die d
  if 4 ≤ d || x.tk < 8 || 24 < x.tk || s.refCycle % 2 ^ x.tk != 0 || x.lastTrace == some s.refCycle then .next s
  else
    let s := s.setDie d { x with lastTrace := some s.refCycle }
    .next ((List.range 96).foldl (fun s i => s.sample (96 * d + i)) s)

/-! ## Rows (R233, R239) -/

/-- Whether a row of an allocation stands in its cells: its page has not been saved (R87). -/
def State.inPlace (s : State) (core kern : Nat) (h : PageOf) (row : Nat) : Bool :=
  !(s.core core).saved.any fun p => p.kern == kern && p.home == h && p.page == row / 32

/-- A gang with each of its allocations changed, and an instance likewise. -/
def Gang.mapAllocs (g : Gang) (gid : Nat) (f : PageOf → Alloc → Alloc) : Gang :=
  { g with regs := f (.regs gid) g.regs, scratch := f (.scratch gid) g.scratch, stack := f (.stack gid) g.stack }
def GInst.mapAllocs (x : GInst) (i : Nat) (f : PageOf → Alloc → Alloc) : GInst :=
  { x with window := x.window.map (f (.window i)), tile := x.tile.map (f (.tile i)) }

/-- The allocations of a core changed, each told its kernel, its context and which it is; those of parked gangs too. -/
def State.mapAllocs (s : State) (core : Nat) (f : Nat → Nat → PageOf → Alloc → Alloc) : State :=
  { s with
    gangs := s.gangs.mapv (fun g x => if coreOfGid g != core then x else x.mapAllocs g (f x.kern x.ctx)),
    parked := s.parked.map (fun (p : Parked) => if coreOfGid p.gid != core then p else
      { p with gang := p.gang.mapAllocs p.gid (f p.gang.kern p.gang.ctx) }),
    insts := s.insts.mapv (fun i x => if x.core != core then x else x.mapAllocs i (f x.kern x.ctx)) }

/-- The allocations of a gang, and of an instance. -/
def Gang.allocs (g : Gang) (gid : Nat) : List (Nat × Nat × PageOf × Alloc) :=
  [(g.kern, g.ctx, .regs gid, g.regs), (g.kern, g.ctx, .scratch gid, g.scratch), (g.kern, g.ctx, .stack gid, g.stack)]
def GInst.allocs (x : GInst) (i : Nat) : List (Nat × Nat × PageOf × Alloc) :=
  x.window.toList.map (x.kern, x.ctx, .window i, ·) ++ x.tile.toList.map (x.kern, x.ctx, .tile i, ·)

/-- The allocations of a core, those of parked gangs too. -/
def State.coreAllocs (s : State) (core : Nat) : List (Nat × Nat × PageOf × Alloc) :=
  (s.gangs.flatMap fun e => if coreOfGid e.1 != core then [] else e.2.allocs e.1)
  ++ (s.parked.flatMap fun p => if coreOfGid p.gid != core then [] else p.gang.allocs p.gid)
  ++ s.insts.flatMap fun e => if e.2.core != core then [] else e.2.allocs e.1

/-- Whether a refresh pass rewrites an allocation now (Table 11.5). -/
def State.refreshes (s : State) (core c : Nat) (a : Alloc) : Bool :=
  let d := s.die (dieOfCore core)
  d.fsafe || d.hot || a.cls == .refreshed || (s.ctx c).st != .resident

/-- The rows of an allocation of which `p` holds. -/
def Alloc.rowsWhere (a : Alloc) (p : Nat → Bool) : Alloc := { a with rows := a.rows.keep fun n _ => p n }

/-- R239, R242: a refresh pass of a core corrects and counts; what is uncorrectable stays marked, and is counted. -/
def execRefreshPass (core : Nat) (s : State) : Host.Outcome State Fault Refusal :=
  let as := (s.coreAllocs core).filterMap fun e =>
    if s.refreshes core e.2.1 e.2.2.2 then some (e.2.2.2.rowsWhere (s.inPlace core e.1 e.2.2.1)) else none
  let k := as.foldl (fun n a => n + a.softCount) 0
  let u := as.foldl (fun n a => n + a.badCount) 0
  let f (kern c : Nat) (h : PageOf) (a : Alloc) : Alloc :=
    if s.refreshes core c a then { a with rows := a.rows.mapv fun n r => if s.inPlace core kern h n then { r with soft := 0 } else r } else a
  .next (((s.mapAllocs core f).ecount (dieOfCore core) 0 k).ecount (dieOfCore core) 1 u)

/-- An allocation whose row is marked when it has expired. -/
def Alloc.markExpired (a : Alloc) (n tick : Nat) : Alloc :=
  let r := a.row n
  if a.cls != .refreshed && n < 32 * a.pages && r.stamp + a.life + 1 ≤ tick then a.setRow n { r with expMark := true } else a

/-- R233: row `n` of gang `gid`, counted through its registers, its scratch and its stack, expires. -/
def execRowExpiry (gid n : Nat) (s : State) : Host.Outcome State Fault Refusal :=
  match s.gangs.find gid with
  | none => .next s
  | some g =>
    let tick := s.tickOf g.ctx
    let r := 32 * g.regs.pages
    let q := 32 * g.scratch.pages
    if n < r then .next (s.updGang gid fun g => { g with regs := g.regs.markExpired n tick })
    else if n < r + q then .next (s.updGang gid fun g => { g with scratch := g.scratch.markExpired (n - r) tick })
    else .next (s.updGang gid fun g => { g with stack := g.stack.markExpired (n - r - q) tick })

/-! ## The management core (R239 to R241) -/

/-- The refresh period of Table 11.5 in µs. -/
def refreshPeriod (hot : Bool) : Nat := if hot then 125 else 250

/-- Whether the hot schedule applies at a temperature. -/
def tempHot : Temp → Bool | .normal => false | _ => true

/-- R240: a heartbeat with the schedule that the die's temperature asks for. -/
def execHeartbeat (d : Nat) (s : State) : Host.Outcome State Fault Refusal :=
  if 4 ≤ d then .next s
  else
    let x := s.die d
    .next (s.setDie d { x with lastHb := s.refCycle, fsafe := false, hot := tempHot x.temp, period := refreshPeriod (tempHot x.temp) })

/-- R240: no heartbeat for 50 µs. -/
def execFailsafeEntry (d : Nat) (s : State) : Host.Outcome State Fault Refusal :=
  let x := s.die d
  if 4 ≤ d || x.fsafe || s.refCycle < x.lastHb + 5000 then .next s
  else .next (s.setDie d { x with fsafe := true, hot := false, period := 125, fsent := satAdd x.fsent 1 32 })

/-! ## Errors (R400, R401) -/

/-- A row with an error in word `k`. -/
def Row.strike (r : Row) (k : Nat) (unc : Bool) : Row :=
  if unc then { r with bad := setBit r.bad k true } else { r with soft := setBit r.soft k true }

/-- A row with an error in its metadata. -/
def Row.strikeMeta (r : Row) (unc : Bool) : Row :=
  if unc then { r with badMeta := true } else { r with soft := setBit r.soft 32 true }

/-- An allocation with an error in a row; one that it does not have changes nothing. -/
def Alloc.strike (a : Alloc) (n : Nat) (f : Row → Row) : Alloc := if n < 32 * a.pages then a.setRow n (f (a.row n)) else a

/-- A column-cache line with an error in a sector. -/
def CLine.strike (l : CLine) (k : Nat) (unc : Bool) : CLine :=
  if unc then { l with poison := setBit l.poison k true } else { l with soft := setBit l.soft k true }

/-- R400, R401: an error arises. One in an L2 strikes the copy that a die holds there, at most as many sectors as the L2 has (R11, R253). -/
def execSoftError (site : ErrSite) (unc : Bool) (s : State) : Host.Outcome State Fault Refusal :=
  match site with
  | .regWord g n k => .next (s.updGang g fun x => { x with regs := x.regs.strike n fun r => r.strike (k % 32) unc })
  | .stackMeta g n => .next (s.updGang g fun x => { x with stack := x.stack.strike n fun r => r.strikeMeta unc })
  | .windowMeta i n => .next (s.updInst i fun x => { x with window := x.window.map fun a => a.strike n fun r => r.strikeMeta unc })
  | .regMeta g n => .next (s.updGang g fun x => { x with regs := x.regs.strike n fun r => r.strikeMeta unc })
  | .scratchWord g n k => .next (s.updGang g fun x => { x with scratch := x.scratch.strike n fun r => r.strike (k % 32) unc })
  | .scratchMeta g n => .next (s.updGang g fun x => { x with scratch := x.scratch.strike n fun r => r.strikeMeta unc })
  | .stackWord g n k => .next (s.updGang g fun x => { x with stack := x.stack.strike n fun r => r.strike (k % 32) unc })
  | .windowWord i n k => .next (s.updInst i fun x => { x with window := x.window.map fun a => a.strike n fun r => r.strike (k % 32) unc })
  | .tileWord i n k => .next (s.updInst i fun x => { x with tile := x.tile.map fun a => a.strike n fun r => r.strike (k % 32) unc })
  | .tileMeta i n => .next (s.updInst i fun x => { x with tile := x.tile.map fun a => a.strike n fun r => r.strikeMeta unc })
  | .column core q => .next (s.updCore core fun c => { c with cache := c.cache.upd (q / 4) fun l => l.strike (q % 4) unc })
  | .l2 d q =>
    let k := l2Key d q
    if numDies ≤ d || l2Bytes ≤ 32 * ((s.poisonL2 ++ s.softL2).filter fun j => l2Die j == d).length then .next s
    else .next (if unc then { s with poison := setAdd q s.poison, poisonL2 := setAdd k s.poisonL2 } else { s with softL2 := setAdd k s.softL2 })
  | .hbm q => .next (if unc then { s with poison := setAdd q s.poison } else { s with softErrs := setAdd q s.softErrs })

/-- R401: a scrub of a die's HBM4E and of its L2 repairs and counts what is correctable, and counts what is not. -/
def execScrubbing (d : Nat) (s : State) : Host.Outcome State Fault Refusal :=
  let mine (q : Nat) : Bool := homeDie (32 * q) == d
  let here (k : Nat) : Bool := l2Die k == d
  let k := (s.softErrs.filter mine).length
  let u := (s.poison.filter fun q => mine q && !s.poisonL2.any fun k => l2Sector k == q).length
  .next (((({ s with softErrs := s.softErrs.filter (fun q => !mine q), softL2 := s.softL2.filter fun k => !here k }.ecount d 6 k).ecount d 7 u).ecountL2
    4 (s.softL2.filter here)).ecountL2 5 (s.poisonL2.filter here))

end Sys2Proof.Machine
end

