-- ==== Sys2Proof/Machine/DieReset.lean ====
section
/-! DEFINITION. The warm reset of one die (18_link R397 to R399; 11_allocation R243): its six steps. -/

namespace Sys2Proof.Machine

open Sys2Proof

/-- Whether this device bridges its group to the host, its PCIe port enabled (R14, R393). -/
def State.isBridge (s : State) : Bool := s.bridge && s.hostfn == 0 && !s.pcieOff

/-- Whether the PCIe port reports an uncorrectable internal error (R426): that of a bridge device whose package has been taken down. -/
def State.internalError (s : State) : Bool := s.down && s.isBridge

/-- Whether a kernel holds a gang on a die, in its slot or parked. -/
def State.kernOnDie (s : State) (kern d : Nat) : Bool :=
  (s.gangs.any fun e => e.2.kern == kern && dieOfCore (coreOfGid e.1) == d)
  || s.parked.any fun p => p.gang.kern == kern && dieOfCore (coreOfGid p.gid) == d

/-- The kernels with a gang on a die fail with status 4, and their contexts' errst[2] is set (R139, R398). DESIGN CHOICE (log entry 92): so
does a draining one, one of whose gangs still has something outstanding; Table 6.4 gives it no such transition. -/
def State.loseGangs (s : State) (d : Nat) : State :=
  s.kernels.foldl (fun s e => if s.kernOnDie e.1 d then (s.setErrst e.2.ctx 2).failKernel e.1 4 else s) s

/-- A die that enters a step of its reset. -/
def State.dieStep (s : State) (d : Nat) (st : DieState) : State := s.setDie d { s.die d with st := st }

/-- R397: the reset of a die begins, or is refused. -/
def State.startReset (s : State) (d : Nat) : State :=
  if (s.dies.any fun e => e.2.st != .up) || (d == 0 && s.isBridge) then { s with drstRes := 1 }
  else { (s.dieStep d .quiescing).loseGangs d with drstRes := 15 }

/-- R397: DRST cmd 1. -/
def execWarmReset (d : Nat) (s : State) : Host.Outcome State Fault Refusal :=
  if s.boot != 10 || 4 ≤ d then .next s else .next (s.startReset d)

/-- The lines of a core that are homed on a die. -/
def State.homedLines (s : State) (core d : Nat) : List Nat :=
  ((s.core core).cache.map (·.1)).filter fun l => homeDie (128 * l) == d

/-- Every column cache writes back its dirty bytes of the die's lines, and the die's own caches all of theirs (R398). -/
def State.flushFor (s : State) (d : Nat) : State :=
  (s.cores.map (·.1)).foldl (fun s c =>
    if dieOfCore c == d then s.cleanAll c else s.cleanLines c (s.homedLines c d)) s

/-- A step of a die's reset that follows another. -/
def resetStep (d : Nat) (from' : DieState) (f : State → State) (s : State) : Host.Outcome State Fault Refusal :=
  if (s.die d).st == from' then .next (f s) else .next s

/-- R398: flushing. -/
def execDieFlushing (d : Nat) (s : State) : Host.Outcome State Fault Refusal :=
  resetStep d .quiescing (fun s => (s.flushFor d).dieStep d .flushing) s

/-- A die's cores hold nothing any more, nor do its conduits (R243, R398). -/
def State.clearDie (s : State) (d : Nat) : State :=
  { s.ppDone d with
           cores := s.cores.keep fun c _ => dieOfCore c != d,
           conduits := s.conduits.keep fun _ x => dieOfCore x.core != d }

/-- R398: resetting. -/
def execDieResetting (d : Nat) (s : State) : Host.Outcome State Fault Refusal :=
  resetStep d .flushing (fun s =>
    let s := s.clearDie d
    s.setDie d { s.die d with st := .resetting, selfRef := true, viaMap := false, tlb := [], cyc := 0, sub := 0 }) s

/-- R398: testing. -/
def execDieTesting (d : Nat) (s : State) : Host.Outcome State Fault Refusal :=
  resetStep d .resetting (fun s => s.setDie d { s.die d with st := .testing, selfRef := false, viaMap := true }) s

/-- The enabled ports of a die enter training (R398, Table 18.8). -/
def State.trainPorts (s : State) (d : Nat) : State :=
  (List.range 4).foldl (fun s i =>
    let p := 4 * d + i
    if (s.port p).st == .up then s.portLeaves p fun x => x.train s.refCycle else s) s

/-- R398: retraining. -/
def execDieRetraining (d : Nat) (s : State) : Host.Outcome State Fault Refusal :=
  resetStep d .testing (fun s => (s.trainPorts d).dieStep d .retraining) s

/-- R398: the die is up, and the reset is done. -/
def execDieUp (d : Nat) (s : State) : Host.Outcome State Fault Refusal :=
  resetStep d .retraining (fun s => { s.dieStep d .up with drstRes := 0 }) s

end Sys2Proof.Machine
end

