-- ==== Sys2Proof/Machine/Power.lean ====
section
/-! DEFINITION. Operating points, temperature and the loss of a bridge (05_queue R111; 18_link R396; 20_bringup R423 to R426). -/

namespace Sys2Proof.Machine

open Sys2Proof

/-- R111, R423: the new point is in use, and the gangs that waited for it are admitted. -/
def execOperatingPointStable (s : State) : Host.Outcome State Fault Refusal :=
  .next { s with opUse := s.opNext.getD s.opUse, opNext := none, kernels := s.kernels.mapv fun _ k => { k with ophold := false } }

/-- The sum of measurements, and what their sum is when their average is `w` watts. DESIGN CHOICE (log entry 115): the spec is silent on an
average over the last 1 ms while fewer than ten measurements exist; it is taken over those there are. -/
def wattSum (ws : List Nat) : Nat := ws.foldl (· + ·) 0
def wattsAt (w : Nat) (ws : List Nat) : Nat := w * ws.length

/-- Whether the management cores lower the point at a measurement (R424): the average exceeds 2,400 W, or they have been lowering it and the
average has not fallen below that limit. -/
def lowers (was : Bool) (ws : List Nat) : Bool :=
  decide (wattsAt 2400 ws < wattSum ws) || (was && decide (wattsAt 2400 ws ≤ wattSum ws))

/-- The power point after a measurement (R424). -/
def powerPoint (p : Nat) (low : Bool) (ws : List Nat) : Nat :=
  if low then p - 1 else if wattSum ws < wattsAt 2200 ws then min 15 (p + 1) else p

/-- R424: a measurement every 100 µs, averaged over the last 1 ms. -/
def execPowerMeasurement (watts : Nat) (s : State) : Host.Outcome State Fault Refusal :=
  if s.refCycle < s.lastPow + 10000 then .next s
  else
    let h := (watts :: s.hist).take 10
    let low := lowers s.opLow h
    .next ({ s with hist := h, lastPow := s.refCycle, opLow := low, opPower := powerPoint s.opPower low h }.repoint)

/-- R425, R239: the junction temperature of a die crosses 105 °C or 115 °C. -/
def execThermalChange (d : Nat) (band : Temp) (s : State) : Host.Outcome State Fault Refusal :=
  if 4 ≤ d then .next s
  else
    let x := s.die d
    let hot := match band with | .normal => false | _ => true
    let x := if x.fsafe then { x with temp := band } else { x with temp := band, hot := hot, period := if hot then 125 else 250 }
    .next (s.setDie d x).repoint

/-- R425: the package trips off. -/
def execThermalTrip (s : State) : Host.Outcome State Fault Refusal := .next { s with off := true }

/-- The kernels that are not draining or over fail with status 4, and their contexts' errst[2] is set (R426). -/
def State.loseKernels (s : State) : State :=
  s.kernels.foldl (fun s e =>
    if e.2.st == .queued || e.2.st == .admitting || e.2.st == .running then (s.setErrst e.2.ctx 2).failKernel e.1 4 else s) s

/-- R426: the package is taken down. -/
def State.packageDown (s : State) : State :=
  let s := s.loseKernels
  let s := s.ctxs.foldl (fun s e => if e.2.st == .dead then s else s.enterCtx e.1 .faulted) s
  { s with ports := s.ports.mapv (fun _ p => { p with st := .disabled, en := false, txq := [], unack := [], ctl := [] }),
           brFail := setBit s.brFail 2 true, boot := 0, down := true }

/-- A module that is removed from a bridge is counted by the two dies that it joins (R396; log entry 66). -/
def State.countModules (s : State) (b n : Nat) : State :=
  let f (s : State) (d : Nat) : State := s.setDie d { s.die d with brErr := (s.die d).brErr + n }
  f (f s (bridgePair b).1) (bridgePair b).2

/-- R396, R426: a bridge loses a module; without a working module two dies are joined no more, and while the device is up it takes the
package down. -/
def execBridgeModuleLoss (b : Nat) (s : State) : Host.Outcome State Fault Refusal :=
  let n := s.bridges.getD b 0
  if n == 0 then .next s
  else
    let s := { s with bridges := s.bridges.set b (n - 1) }.countModules b 1
    if s.meshed || s.boot != 10 then .next s else .next s.packageDown

end Sys2Proof.Machine
end

