-- ==== Sys2Proof/Machine/Replies.lean ====
section
/-! DEFINITION. What a peer's answer gives to the request that waits for it (12_memory R270; 17_page R373; 18_link R387, R388). -/

namespace Sys2Proof.Machine

open Sys2Proof

/-- What performing a request answers: status, cause, data, tag bits. -/
structure Reply where
  status : Nat
  cause : Nat
  data : Nat
  tags : Nat
deriving DecidableEq, Repr

/-- The answer of a device that is lost: REMOTE (R388). -/
def Reply.lost : Reply := ⟨1, 0, 0, 0⟩

/-- The cause that a failed answer carries (R387). -/
def Reply.failure (r : Reply) : Option Cause :=
  if r.status == 0 then none else if r.status == 1 then some .remote else some (Cause.ofCode r.cause)

/-- The answer as this device's page sees it: no tag bits on a page that is untagged here (R283). -/
def Reply.masked (r : Reply) (tagged : Bool) : Reply := if tagged then r else { r with tags := 0 }

/-- What a response gives a waiting thread: its lane is the `i`-th of an atomic flit of `n`-byte words, or the whole answer. -/
def Reply.cont (r : Reply) (i n : Nat) : Cont := .resp r.status r.cause (r.data / 2 ^ (8 * n * i)) (r.tags / 2 ^ i)

/-- A thread that waits for request `id` is given an answer; its wait is over once the request is gone (R9). -/
def Thread.given (id : Nat) (c : Cont) (th : Thread) : Thread := if th.wait == some (.remote id) then { th with cont := c } else th

/-- A fetched word and its mark for a thread, or the cause that its fetch meets (R25). -/
def Thread.fetched (id : Nat) (r : RemOp) (x : Reply) (th : Thread) : Thread :=
  if th.wait != some (.remote id) then th
  else
    match x.failure with
    | some c => { th with cont := .ffail c r.va }
    | none =>
      let o := r.va % 32
      { th with fbuf := th.fbuf.put r.issue (x.data / 2 ^ (8 * o) % 2 ^ 64, bit x.tags (o / 8)) }

/-- The bytes that a copy asked for; a failure waits for its thread. -/
def State.landAnswer (s : State) (id : Nat) (x : Reply) : State :=
  s.cores.foldl (fun s e => e.2.landings.foldl (fun s l =>
    if l.rem != some id then s
    else
      let s := match x.failure with | some c => s.copyFault l c l.src | none => s
      let got := (x.data / 2 ^ (8 * (l.pa % 32)) % 2 ^ (8 * l.vb), x.failure.isSome)
      s.updCore e.1 fun c => { c with landings := c.landings.map fun (m : Landing) => if m.rem == some id then { m with got := some got } else m }) s) s

/-- A logged RED has failed at its peer: the entry that asked reports it (R373, R374). -/
def SlEntry.failAsk (no : Nat) (c : Cause) (va gid : Nat) (e : SlEntry) : SlEntry :=
  if e.askNo gid == no && e.fail.isNone then { e with fail := some (c, some va) } else e

/-- The answer to a logged RED. -/
def State.logAnswer (s : State) (r : RemOp) (x : Reply) : State :=
  match x.failure with
  | none => s
  | some c => s.withGang r.kern (gidOf r.t) fun s =>
      s.updGang (gidOf r.t) fun g => { g with slog := g.slog.map (SlEntry.failAsk r.issue c r.va (gidOf r.t)) }

/-- The answer to a packet processor: the sector that it reads, or its SIGNAL (R103 to R106). -/
def State.ppAnswer (s : State) (id : Nat) (r : RemOp) (x : Reply) : State :=
  if r.fetch then
    { s with ppGot := s.ppGot.put r.word (if x.status == 0 then some (x.data % 2 ^ 256) else none) }.notifyWaits.notifyMaps
  else
    let s := s.queues.foldl (fun s e => if e.2.pend.any fun p => p.2 == .rem id then s.packetDone e.1 (.rem id) else s) s
    if x.status == 0 then s.notifyWaits else s.setErrst r.ctx 3

/-- A completion for the host; none is Completer Abort. -/
def State.hostDone (s : State) (d : Option (List Byte)) : State := { s with hostOut := s.hostOut ++ [{ data := d }] }

/-- The answer to a request that the bridge has sent on for the host: where its bytes start, and how many they are (R393). -/
def State.hostAnswer (s : State) (r : RemOp) (x : Reply) : State :=
  s.hostDone (if x.status == 0 then some (leBytes (r.more.getD 1 0) (x.data / 2 ^ (8 * r.more.getD 0 0))) else none)

/-- The lanes that an instruction's request serves, in order. -/
def RemOp.lanes (r : RemOp) : List Nat := r.t :: r.more

/-- The answer to threads: a fetch, the lanes of an instruction, or a copy. -/
def State.threadAnswer (s : State) (id : Nat) (r : RemOp) (x : Reply) : State :=
  if r.fetch then s.updFor r.kern r.t (Thread.fetched id r x)
  else
    let n := atomBytes (r.word % 16)
    let s := (r.lanes.zip (List.range r.lanes.length)).foldl (fun s p => s.updFor r.kern p.1 (Thread.given id (x.cont p.2 n))) s
    s.landAnswer id x

/-- An answer reaches what waits for it: a posted write that failed, the host, a side log, a packet processor, or threads; a context that waits
for it to stop does so (R86). -/
def State.answerOp (s : State) (id : Nat) (r : RemOp) (x : Reply) : State :=
  let s := { s with remops := s.remops.del id }
  let x := x.masked r.tagged
  let s :=
    if r.posted then (if x.status == 0 || hostReq ≤ r.t then s else s.setErrst r.ctx 3)
    else if hostReq ≤ r.t then s.hostAnswer r x
    else if r.slog then s.logAnswer r x
    else if 2 ^ 30 ≤ r.t then s.ppAnswer id r x
    else s.threadAnswer id r x
  s.finishStop r.ctx

/-- What waits for a device that becomes lost (R388): a write is dropped and counted, all else meets REMOTE. -/
def State.loseOp (s : State) (id : Nat) (r : RemOp) : State :=
  if r.posted then { s with remops := s.remops.del id }.updKernel r.kern fun k => { k with lost := true }
  else s.answerOp id r .lost

end Sys2Proof.Machine
end

