-- ==== Sys2Proof/Machine/Shootdown.lean ====
section
/-! DEFINITION. Shoot-downs (17_page R376 to R378; 05_queue R107): the INVAL packet, its completion, the fencing of a peer, and a
peer's request. -/

namespace Sys2Proof.Machine

open Sys2Proof

/-- The dies that have used the translation of one page: every die when the walk reaches no leaf of at least its size. -/
def State.pageDies (s : State) (c va size : Nat) : Nat :=
  match s.walk c va with
  | .leaf _ ent level => if 2 ^ levelShift level < size then 15 else s.phys 1 (ent + 8) % 16
  | _ => 15

/-- The dies that have used a translation of `n` pages. -/
def State.rangeDies (s : State) (c va size : Nat) : Nat → Nat
  | 0 => 0
  | n + 1 => Nat.lor (s.rangeDies c va size n) (s.pageDies c (va + size * n) size)

/-- Whether a cached entry concerns a range of a context. -/
def TlbEntry.within (e : TlbEntry) (c va n : Nat) : Bool := e.ctx == c && decide (va < e.va + e.size) && decide (e.va < va + n)

/-- A die's caches without the translations of a range, leaves and tables. -/
def Die.dropRange (d : Die) (c va n : Nat) : Die := { d with tlb := d.tlb.filter fun e => !e.within c va n }

/-- A die's caches without the non-leaf entries of a range (R376). -/
def Die.dropTables (d : Die) (c va n : Nat) : Die := { d with tlb := d.tlb.filter fun e => bit e.pte 1 || !e.within c va n }

/-- The ranges of addresses whose translations a walker holds from one step to a later one: an object that it has claimed, and the range of
an operation that waits for its turn. -/
def Walk.holds (w : Walk) : List (Nat × Nat) :=
  (match w.claim with | some (va, rs) => [(va, rs.foldl (fun n r => n + r.2) 0)] | none => [])
  ++ match w.job with
    | some (.init _ pages) => pages.map fun p => (p.1, p.2.2.1)
    | some (.reclaim _ _ rs) => [(w.root, rs.foldl (fun n r => n + r.2) 0)]
    | none => []

/-- Whether an access in flight used a translation of a range of a context (R377): a copy, a walker's, or a request to a peer. -/
def State.inUse (s : State) (c va n : Nat) : Bool :=
  (s.cores.any fun e => (e.2.landings.any fun l => l.ctx == c && decide (l.src < va + n) && decide (va < l.src + l.vb))
    || e.2.walkq.any fun w => w.ctx == c && w.holds.any fun r => decide (r.1 < va + n) && decide (va < r.1 + r.2))
  || s.remops.any fun e => e.2.ctx == c && decide (va ≤ e.2.va) && decide (e.2.va < va + n)

/-- The dies outside a mask drop their non-leaf entries of a range, without answering (R376). -/
def State.dropOutside (s : State) (dies c va n : Nat) : State :=
  { s with dies := s.dies.mapv fun i d => if bit dies i then d else d.dropTables c va n }

/-- The dies of a mask answer (R377): the translations of the range are dropped and the cores' dirty bytes written back. -/
def State.answerInval (s : State) (dies c va n : Nat) : State :=
  let s := { s with dies := s.dies.mapv fun i d => if bit dies i then d.dropRange c va n else d }
  ((s.cores.map (·.1)).filter fun core => bit dies (dieOfCore core)).foldl (fun s core => s.cleanAll core) s

/-- The peers that a shoot-down of a context asks (R376). -/
def State.invalPeers (s : State) (c : Nat) : List Nat :=
  (maskList (s.ctx c).peers).filter fun p => p != s.devnum && !bit (s.ctx c).fenced p

/-- Ask the peers, noting the number of each request. -/
def State.askPeers (s : State) (c va n : Nat) : List Nat → AMap Nat × State
  | [] => ([], s)
  | p :: ps =>
    let e := (s.esend.find p).getD 0
    let s := if s.lostDev p then s else s.sendReq p c 6 (Config.invalRequest c va n)
    let (m, s) := s.askPeers c va n ps
    (m.put p e, s)

/-- An INVAL packet starts. -/
def startInval (q p idx : Nat) (s : State) : State :=
  let s := s.takePacket q false
  let size := 2 ^ (match bits p 161 160 with | 0 => 16 | 1 => 21 | _ => 30)
  let va := bits p 127 64 / size * size
  let c := bits p 169 162
  let n := bits p 159 128
  let dies := s.rangeDies c va size n
  let s := s.dropOutside dies c va (size * n)
  let (m, s) := s.askPeers c va (size * n) (s.invalPeers c)
  let i := s.invNext
  let r : Inval := { ctx := c, va := va, len := size * n, dies := dies, peers := m, start := s.refCycle, q := q, cpl := bits p 255 192 }
  { s with invals := s.invals.put i r, invNext := i + 1 }.packetWaits q idx (.inval i)

/-- R376. -/
def execPacketInval (q : Nat) (s : State) : Host.Outcome State Fault Refusal := packetOf 5 q (startInval q) s

/-- R107, R377: every die and peer has answered. -/
def execInvalCompletion (n : Nat) (s : State) : Host.Outcome State Fault Refusal :=
  match s.invals.find n with
  | none => .next s
  | some r =>
    if r.peers != [] || s.inUse r.ctx r.va r.len then .next s
    else
      let x := s.queue r.q
      let s := { s.answerInval r.dies r.ctx r.va r.len with invals := s.invals.del n }
      .next ((s.writeRecord x.home x.ctx r.cpl (recordWord 1 0) 0).packetDone r.q (.inval n))

/-- R378: a peer that has not answered within 20,000 reference cycles is fenced off. -/
def execPeerFence (n p : Nat) (s : State) : Host.Outcome State Fault Refusal :=
  match s.invals.find n with
  | none => .next s
  | some r =>
    if (r.peers.find p).isNone || s.refCycle < r.start + 20000 then .next s
    else
      .next ({ s with invals := s.invals.put n { r with peers := r.peers.del p } }.updCtx r.ctx fun x =>
        { x with fenced := setBit x.fenced p true })

/-! ## A peer's requests -/

/-- Whether a request of device `src` for context `c` is refused (R378, R387). -/
def State.refuses (s : State) (src c : Nat) : Bool :=
  let x := s.ctx c
  !bit x.peers src || bit x.fenced src || x.st == .dead

/-- A flit that is no request: it bears no end-to-end number. -/
def State.otherFlit (s : State) (dst c ty vl payload : Nat) : Flit :=
  { eseq := 0, dst := dst, src := s.devnum, ctx := c, ty := ty, vl := vl, lseq := 0, lack := 0, payload := payload }

/-- Send a flit that is no request. -/
def State.sendOther (s : State) (dst c ty vl payload : Nat) : State := { s with outq := s.outq ++ [s.otherFlit dst c ty vl payload] }

/-- The next request of a device has been performed (R386). -/
def State.performed (s : State) (src : Nat) : State :=
  { s with erecv := s.erecv.put src (((s.erecv.find src).getD 0 + 1) % 65536) }

/-- The end-to-end acknowledgement of what a device's requests have done (Table 18.3). -/
def State.ackFlit (s : State) (src c : Nat) : Flit := s.otherFlit src c 9 1 (((s.erecv.find src).getD 0 + 65535) % 65536)

/-- Send it. -/
def State.sendAck (s : State) (src c : Nat) : State := { s with outq := s.outq ++ [s.ackFlit src c] }

/-- The error reply to a request that is refused or fails (R378, R387, Table 18.3): its status, and its cause when a check failed. -/
def State.errorFlit (s : State) (src c tag status cause : Nat) : Flit := s.otherFlit src c 4 1 (tag % 65536 + 2 ^ 16 * status + 2 ^ 24 * cause)

/-- A request whose answer is an end-to-end acknowledgement has been performed, refused or failed (R386, R387): an error reply first where
it has a status, and both are remembered for a duplicate. -/
def State.replyAck (s : State) (src c tag status cause : Nat) : State :=
  let key := 65536 * src + (s.erecv.find src).getD 0
  let s := s.performed src
  let fs := (if status == 0 then [] else [s.errorFlit src c tag status cause]) ++ [s.ackFlit src c]
  { s with outq := s.outq ++ fs, eresp := s.eresp.put key fs }

/-- R376: a peer's shoot-down, applied to this device's context with its own die filter, or refused. -/
def State.peerInval (s : State) (src c va n : Nat) : State :=
  if s.refuses src c then (s.addRefused c).replyAck src c (Config.invalTag c va n) 1 0
  else
    let base := va / 65536 * 65536
    let dies := s.rangeDies c base 65536 ((va + n - base + 65535) / 65536)
    ((s.dropOutside dies c va n).answerInval dies c va n).replyAck src c 0 0 0

end Sys2Proof.Machine
end

