-- ==== Sys2Proof/Machine/Registers.lean ====
section
/-! DEFINITION. The management register block (20_bringup R420 to R422) and the steps that its registers start: queue control (05_queue
R97 to R99), TAGWR (13_object R284), LMBASE (18_link R394), multicast windows, ports and routes (R385, R388, R390, R392), debug (19_health
R408 to R411), and every other register. -/

namespace Sys2Proof.Machine

open Sys2Proof

/-- A register write that the device takes once it is ready (R415). -/
def whenUp (f : State → State) (s : State) : Host.Outcome State Fault Refusal := if s.boot == 10 then .next (f s) else .next s

/-! ## Queues (R98, R99) -/

/-- R98: whether a queue record may be enabled. -/
def queueFine (w : Nat) : Bool :=
  bits w 511 288 == 0 && bits w 27 22 == 0 && bits w 19 3 == 0 && decide (bits w 31 28 ≤ 12) && decide (bits w 41 40 ≤ 1)
  && !(bit w 42 && bits w 41 40 == 1) && !(bit w 43 && bits w 41 40 == 0) && !(bit w 43 && bits w 47 44 / 4 != bits w 21 20)
  && bits w 127 64 % (64 * 2 ^ (bits w 31 28 + 4)) == 0

/-- The queue that a record describes (Table 5.1). -/
def queueOf (w : Nat) : Queue :=
  { st := .idle, wridx := 0, rdidx := 0, ctx := bits w 39 32, lg := bits w 31 28, home := bits w 21 20, priv := bit w 42,
    mode := bits w 41 40, bind := bit w 43, port := bits w 47 44, key := bits w 63 48, rbase := bits w 127 64, pend := [], depmap := none }

/-- QCTL enable (R98). DESIGN CHOICE (log entry 123): a record with a poisoned byte is refused. -/
def State.enableQueue (s : State) (q : Nat) : State :=
  if (s.queue q).st != .disabled then { s with qctlRes := 1 }
  else
    let w := s.phys 64 (s.qRec q)
    let s := s.noteRead (s.qRec q) 64
    if !queueFine w || (s.firstPoison (s.qRec q) 64 0).isSome || (s.ctx (bits w 39 32)).st == .dead then { s with qctlRes := 2 }
    else { (s.setQueue q (queueOf w)).settleQ q with qctlRes := 0 }

def State.qctlDisable (s : State) (q : Nat) : State :=
  if (s.queue q).st == .disabled then { s with qctlRes := 1 } else { s.disableQueue q with qctlRes := 0 }

/-- R98. -/
def execQueueEnable (q : Nat) (s : State) : Host.Outcome State Fault Refusal := whenUp (·.enableQueue q) s

/-- R98. -/
def execQueueDisable (q : Nat) (s : State) : Host.Outcome State Fault Refusal := whenUp (·.qctlDisable q) s

/-- QCTL (Table 5.2). -/
def State.writeQctl (s : State) (w : Nat) : State :=
  if bits w 63 20 != 0 || bits w 15 14 != 0 || bits w 11 10 != 0 then { s with qctlRes := 3 }
  else if bits w 13 12 == 1 then s.enableQueue (bits w 9 0)
  else if bits w 13 12 == 2 then s.qctlDisable (bits w 9 0)
  else { s with qctlRes := 3 }

/-- Whether a doorbell write is accepted (R99). -/
def Queue.accepts (x : Queue) (w : Nat) : Bool :=
  x.st != .disabled && x.mode == 0 && bits w 63 32 == 0
  && decide ((w + 2 ^ 32 - x.wridx) % 2 ^ 32 ≤ 2 ^ (x.lg + 4) - x.untaken)

def State.notify (s : State) (q w : Nat) : State :=
  let x := s.queue q
  if x.accepts w then (s.setQueue q { x with wridx := w % 2 ^ 32 }).settleQ q
  else
    let a := s.qRec q + 24
    s.physSet x.ctx 4 a (satAdd (s.phys 4 a) 1 32)

/-- What a read of queue `q`'s doorbell gives (R99): wridx, zero above. -/
def State.readDoorbell (s : State) (q : Nat) : Nat := if s.boot == 10 then (s.queue q).wridx % 2 ^ 32 else 0

/-- A host's access of `n` bytes in a function's BAR2 (R99, R393). DESIGN CHOICE (log entry 114): what is no aligned 8-byte access of a
doorbell reads 0 and changes nothing. -/
def isDoorbell (off n : Nat) : Bool := n == 8 && off % 4096 == 0 && decide (off / 4096 < 1024)
def State.readBar2 (s : State) (off n : Nat) : Nat := if isDoorbell off n then s.readDoorbell (off / 4096) else 0
def State.writeBar2 (s : State) (off n w : Nat) : State := if isDoorbell off n then s.notify (off / 4096) w else s

/-- R99. -/
def execNotify (q w : Nat) (s : State) : Host.Outcome State Fault Refusal := whenUp (·.notify q w) s

/-! ## CXCMD (Table 4.2) -/

/-- A command word (R81): one that comes while a command is in progress waits for it. -/
def State.writeCxcmd (s : State) (w : Nat) : State :=
  let c := bits w 7 0
  if s.cxstsRes == 15 then { s with cmds := s.cmds ++ [.registerWrite ⟨0, 8⟩ w] }
  else if bits w 63 16 != 0 || bits w 11 8 != 0 then s.answer c 3
  else
    match bits w 15 12 with
    | 1 => s.define c
    | 2 => s.makeReady c
    | 3 => s.halt c
    | 4 => s.resume c
    | 5 => s.desched c
    | 6 => s.kill c
    | _ => s.answer c 3

/-- FRES (R370): a word that breaks its layout is ignored. -/
def State.writeFres (s : State) (w : Nat) : State :=
  let c := bits w 15 8
  let q := bits w 63 32
  if bits w 31 16 != 0 || bits w 7 2 != 0 then s
  else
    match (s.ctx c).faultKind q, bits w 1 0 with
    | some _, 1 => s.answerFault c q none
    | some k, 2 => s.answerFault c q (some (kindCause k))
    | _, _ => s

/-- DRST (Table 18.9). -/
def State.writeDrst (s : State) (w : Nat) : State :=
  if bits w 63 20 != 0 || bits w 15 6 != 0 || bits w 3 2 != 0 || bits w 5 4 != 1 then { s with drstRes := 3 } else s.startReset (bits w 1 0)

/-! ## TAGWR and LMBASE -/

/-- The cores that hold a copy of the line of a word take its new tag bit at their next acquire (R284). -/
def State.tellCopies (s : State) (pa : Nat) (b : Bool) : State :=
  { s with cores := s.cores.mapv fun _ c => if (c.cache.find (pa / 128)).isSome then { c with tagwr := c.tagwr.put (pa / 8) (b2n b) } else c }

/-- TAGWR (Table 13.1). -/
def State.writeTagwr (s : State) (w : Nat) : State :=
  let pa := bits w 55 3 * 8
  if bits w 62 56 != 0 || bits w 2 0 != 0 || !s.backed pa 8 then s else (s.setTagAt pa (bit w 63)).tellCopies pa (bit w 63)

/-- R284. -/
def execTagwrWrite (w : Nat) (s : State) : Host.Outcome State Fault Refusal := whenUp (·.writeTagwr w) s

/-- LMBASE (Table 18.12). -/
def State.writeLmbase (s : State) (w : Nat) : State :=
  if bits w 63 52 != 0 then s
  else { s with lmbase := bits w 51 30 * 2 ^ 30, badacc := if bits w 29 16 == 0 then 0 else s.badacc }

/-- R394. -/
def execLmbaseWrite (w : Nat) (s : State) : Host.Outcome State Fault Refusal := whenUp (·.writeLmbase w) s

/-! ## Breakpoints and windows -/

/-- Word `n` of a wide register replaced. -/
def setWord64 (x n w : Nat) : Nat := setBits x (64 * n + 63) (64 * n) w

/-- DBGBP c,n: word `n` counts two words to a register (Table 19.4); it takes effect at the next reference edge (R408). -/
def State.writeBrk (s : State) (c n w : Nat) : State :=
  s.updCtx c fun x => { x with brks := x.brks.put (n / 2) (setWord64 ((x.brks.find (n / 2)).getD 0) (n % 2) w) }

/-- R408. -/
def execBreakpointSet (c n w : Nat) (s : State) : Host.Outcome State Fault Refusal := whenUp (·.writeBrk c n w) s

/-- Whether a window may be enabled (R390): its zero fields, its range, and no overlap with another enabled one. -/
def State.windowFine (s : State) (i w : Nat) : Bool :=
  bits w 62 52 == 0 && bits w 20 9 == 0 && s.backed (mcBase w) (mcLen w)
  && s.mcwins.all fun e => e.1 == i || !bit e.2 63 || decide (mcBase e.2 + mcLen e.2 ≤ mcBase w) || decide (mcBase w + mcLen w ≤ mcBase e.2)

/-- MCWIN: word `n` counts two words to a window (Table 18.5). -/
def State.writeWindow (s : State) (n w : Nat) : State :=
  let i := n / 2
  let x := setWord64 ((s.mcwins.find i).getD 0) (n % 2) w
  { s with mcwins := s.mcwins.put i (if bit x 63 && !s.windowFine i x then setBit x 63 false else x) }

/-- R390. -/
def execMcwinWrite (n w : Nat) (s : State) : Host.Outcome State Fault Refusal := whenUp (·.writeWindow n w) s

/-! ## Ports and routes (R385, R388, R392) -/

/-- LKPORT with en 1. -/
def State.enablePort (s : State) (p pmd : Nat) : State :=
  let x := { s.port p with en := true, pmd := pmd }
  if 4 ≤ pmd then s.portLeaves p fun _ => { x with st := .disabled }
  else if x.st == .disabled then s.setPort p (x.train s.refCycle)
  else s.setPort p x

/-- LKPORT with en 0. -/
def State.disablePort (s : State) (p : Nat) : State :=
  if (s.port p).st == .disabled then s.setPort p { s.port p with en := false }
  else s.portLeaves p fun x => { x with en := false, st := .disabled }

/-- R392. -/
def execPortEnable (p pmd : Nat) (s : State) : Host.Outcome State Fault Refusal := whenUp (·.enablePort p (pmd % 16)) s

/-- R392. -/
def execPortDisable (p : Nat) (s : State) : Host.Outcome State Fault Refusal := whenUp (·.disablePort p) s

/-- LKPORT (Table 18.7); a word that breaks its layout is ignored (log entry 101). -/
def State.writePort (s : State) (p w : Nat) : State :=
  if bits w 31 20 != 0 || bits w 9 4 != 0 then s else
  let x := s.port p
  let s := s.setPort p { x with nokey := if bits w 63 48 == 0 then 0 else x.nokey, replays := if bits w 47 32 == 0 then 0 else x.replays,
                                pmd := bits w 19 16 }
  if bit w 0 then s.enablePort p (bits w 19 16) else s.disablePort p

/-- A device becomes lost (R388): its waiting reads and atomics fail, the host's of its registers too, its writes are dropped and counted. -/
def State.loseDevice (s : State) (p : Nat) : State :=
  let s := { s with routes := s.routes.put p (setBit (s.route p) 32 true), waitDev := s.waitDev.del p }
  let s := { s with outq := s.outq.filter fun f => !s.lostFlit f }.countDropped (s.outq.filter s.lostFlit)
  let s := s.remops.foldl (fun s e => if e.2.dev == p then s.loseOp e.1 e.2 else s) s
  s.hostPend.foldl (fun s e => if e.2.1 == p then { s with hostPend := s.hostPend.del e.1 }.hostDone none else s) s

/-- ROUTE p (Table 18.4): the ports; a 1 in lost clears it when it is set, and sets it when it is not (R388). -/
def State.writeRoute (s : State) (p w : Nat) : State :=
  if bits w 63 33 != 0 || bits w 31 16 != 0 then s
  else
    let was := bit (s.route p) 32
    let s := { s with routes := s.routes.put p (w % 65536 + 2 ^ 32 * b2n (was && !bit w 32)) }
    if bit w 32 && !was then s.loseDevice p else s

/-- R385, R388. -/
def execRouteWrite (p w : Nat) (s : State) : Host.Outcome State Fault Refusal := whenUp (·.writeRoute p w) s

/-- R388: flits for a device have waited 1,000,000 reference cycles with no port of its route up. -/
def execDeviceLost (p : Nat) (s : State) : Host.Outcome State Fault Refusal :=
  if 1000000 ≤ (s.waitDev.find p).getD 0 && !s.lostDev p then .next (s.loseDevice p) else .next s

/-! ## Debug (R411) -/

/-- The thread that DBGSEL names, its item and its index. -/
def State.dbgThread (s : State) : Nat := bits s.dbgsel 31 23 * 16384 + bits s.dbgsel 22 14 * 32 + bits s.dbgsel 13 9
def State.dbgItem (s : State) : Nat := bits s.dbgsel 8 7
def State.dbgIndex (s : State) : Nat := bits s.dbgsel 63 32

/-- A word of DBGDAT: value and tag. -/
def dbgWord (w : TWord) : Nat := w.bits.toNat + 2 ^ 32 * w.tag.code

/-- The item that DBGSEL names, read; 0 when there is none or its context is not halted. -/
def State.dbgRead (s : State) : Nat :=
  let t := s.dbgThread
  match s.threads.find t, s.gangs.find (gidOf t) with
  | some th, some g =>
    if (s.ctx g.ctx).st != .halted then 0
    else
      match s.dbgItem with
      | 0 => if s.dbgIndex == 0 || g.nregs < s.dbgIndex then 0 else dbgWord ((g.regs.row (s.dbgIndex - 1)).word (laneOf t))
      | 1 => match Special.ofNum s.dbgIndex with | some sp => s.special t th g sp % 2 ^ 32 | none => 0
      | 2 => th.pc
      | _ => th.preds / 2 * 2 + 1
  | _, _ => 0

/-- A special written by the debugger, the low word of a wide one: every one that the thread itself holds, `tcause.inh` too. A value that
breaks the special's layout changes nothing, nor does one that says where the thread is (log entry 68). -/
def Thread.dbgSpecial (th : Thread) (sp : Special) (v : Nat) : Thread :=
  let low (old : Nat) : Nat := old / 2 ^ 32 * 2 ^ 32 + v
  if !mtsFits sp v then th
  else
    match sp with
    | .lin => { th with lin := low th.lin }
    | .par => { th with par := low th.par }
    | .gen => { th with gen := v % 65536 }
    | .tcause => { th with inh := bit v 31, tcode := v % 256 }
    | .tval => { th with tval := low th.tval }
    | _ => th.setSpecial sp v

/-- A thread that the debugger moves to another PC is in no wait any more, and resumes there by R35 (log entry 100). -/
def State.dbgMove (s : State) (t v : Nat) : State :=
  (s.abandon t).updThread t fun th => { th.clean with pc := v, res := .here, clause := none, passBrk := false }

/-- A write of DBGDAT (R411). -/
def State.dbgWrite (s : State) (w : Nat) : State :=
  let t := s.dbgThread
  let v := bits w 31 0
  match s.threads.find t, s.gangs.find (gidOf t) with
  | some th, some g =>
    if (s.ctx g.ctx).st != .halted then s
    else
      match s.dbgItem with
      | 0 =>
        match Tag.ofCode (bits w 35 32) with
        | some tag => if g.nregs < s.dbgIndex then s else s.writeReg t s.dbgIndex ⟨BitVec.ofNat 32 v, tag⟩
        | none => s
      | 1 => match Special.ofNum s.dbgIndex with | some sp => s.updThread t fun th => th.dbgSpecial sp v | none => s
      | 2 => if th.pc == v then s else s.dbgMove t v
      | _ => s.updThread t fun th => { th with preds := v % 256 / 2 * 2 }
  | _, _ => s

/-- R411. -/
def execDebugWrite (w : Nat) (s : State) : Host.Outcome State Fault Refusal := whenUp (·.dbgWrite w) s

/-- R411: the value read stands in DBGDAT. -/
def execDebugRead (s : State) : Host.Outcome State Fault Refusal := whenUp (fun s => { s with dbgdat := s.dbgRead }) s

/-! ## The other registers -/

/-- A counter that a write of 0 clears (R420). -/
def cleared (field old : Nat) : Nat := if field == 0 then 0 else old

/-- BSTAT d (Table 11.6) and DSTAT d (Table 18.10): the counters. -/
def State.writeBstat (s : State) (d w : Nat) : State := s.setDie d { s.die d with fsent := cleared (bits w 63 32) (s.die d).fsent }
def State.writeDstat (s : State) (d w : Nat) : State := s.setDie d { s.die d with errs := cleared (bits w 63 32) (s.die d).errs }

/-- ECNT d (Table 19.2), word `n`. -/
def State.writeEcnt (s : State) (d n w : Nat) : State :=
  s.setDie d { s.die d with ecnt := (List.range 4).foldl (fun e i =>
    e.set (4 * n + i) (cleared (bits w (16 * i + 15) (16 * i)) (e.getD (4 * n + i) 0))) (s.die d).ecnt }

/-- TRCTL d (Table 19.5), word `n`: a word whose zero fields are not zero is ignored (log entry 101). -/
def State.writeTrctl (s : State) (d n w : Nat) : State :=
  let x := s.die d
  match n with
  | 0 => if bits w 63 52 != 0 || bits w 11 10 != 0 then s
         else s.setDie d { x with ten := bit w 0, tlg := bits w 4 1, tk := bits w 9 5, tbase := bits w 51 12 * 4096 }
  | 1 => s
  | 2 => s.setDie d { x with trd := bits w 31 0, tdrops := cleared (bits w 63 32) x.tdrops }
  | _ => s

/-- PGCTX c (Table 17.5), word `n`. -/
def State.writePgctx (s : State) (c n w : Nat) : State :=
  s.updCtx c fun x =>
    match n with
    | 0 => if bits w 63 52 != 0 || bits w 11 9 != 0 || bits w 4 1 != 0 then x
           else { x with fen := bit w 0, flg := bits w 8 5, fbase := bits w 51 12 * 4096 }
    | 1 => { x with frd := bits w 63 32 }
    | 2 => { x with dropped := cleared (bits w 31 0) x.dropped, refused := cleared (bits w 63 32) x.refused }
    | 3 => { x with fenced := x.fenced - Nat.land x.fenced w }
    | 4 => { x with peers := w }
    | _ => x

/-- A write of `n` bytes of the register block (Table 20.5): only an aligned word is taken. -/
def State.writeBlock (s : State) (off n w : Nat) : State :=
  if n != 8 || off % 8 != 0 then s
  else if off == 0 then s.writeCxcmd w
  else if off == 0x10 then s.writeQctl w
  else if off == 0x18 then s.writeFres w
  else if off == 0x20 then s.writeTagwr w
  else if off == 0x28 then s.writeDrst w
  else if off == 0x38 then s.writeLmbase w
  else if off == 0x40 then { s with dbgsel := if bits w 6 0 == 0 then w else s.dbgsel }
  else if off == 0x48 then s.dbgWrite w
  else if 0x100 ≤ off && off < 0x120 then s.writeBstat ((off - 0x100) / 8) w
  else if 0x120 ≤ off && off < 0x140 then s.writeDstat ((off - 0x120) / 8) w
  else if 0x200 ≤ off && off < 0x240 then s.writeEcnt ((off - 0x200) / 16) (off % 16 / 8) w
  else if 0x300 ≤ off && off < 0x380 then s.writeTrctl ((off - 0x300) / 32) (off % 32 / 8) w
  else if 0x8000 ≤ off && off < 0x8080 then s.writePort ((off - 0x8000) / 8) w
  else if 0x8100 ≤ off && off < 0x8300 then s.writeRoute ((off - 0x8100) / 8) w
  else if 0x8400 ≤ off && off < 0x8500 then s.writeWindow ((off - 0x8400) / 8) w
  else if 0x10000 ≤ off && off < 0x14000 then s.writePgctx ((off - 0x10000) / 64) (off % 64 / 8) w
  else if 0x20000 ≤ off && off < 0x28000 then s.writeBrk ((off - 0x20000) / 128) (off % 128 / 8) w
  else s

/-- R420. -/
def execRegisterWrite (acc : RegAccess) (w : Nat) (s : State) : Host.Outcome State Fault Refusal := whenUp (·.writeBlock acc.off acc.n w) s

/-! ## What the registers read as -/

/-- Die states, port states and their numbers. -/
def DieState.code : DieState → Nat | .up => 0 | .quiescing => 1 | .flushing => 2 | .resetting => 3 | .testing => 4 | .retraining => 5
def PortState.code : PortState → Nat | .disabled => 0 | .training => 1 | .up => 2 | .retraining => 3 | .down => 4

/-- The capability entries (Table 20.4): identifier and payload as a number of `len` bytes. -/
def State.capabilities (s : State) : List (Nat × Nat × Nat) :=
  [(1, 4, 0x00010000),
   (2, 24, s.ctxBase + 2 ^ 64 * s.qBase + 2 ^ 128 * s.dbBase),
   (3, 32, s.capOf 0 + 2 ^ 64 * s.capOf 1 + 2 ^ 128 * s.capOf 2 + 2 ^ 192 * s.capOf 3),
   (4, 48, 12 + 256 * s.opUse + (List.range 16).foldl (fun n i => n + 2 ^ (128 + 16 * i) * (600 + 25 * i)) 0),
   (5, 4, s.devnum + 256 * b2n s.isBridge + 65536 * (if s.bridge then s.hostfn else 255))]

/-- The list as one number from offset 0x1000: each entry's header and payload, aligned to 16 (Table 20.3). DESIGN CHOICE (log entry 93):
ver, bits [23:16] of the header, reads 0; the table gives it no value. -/
def capBytes (last : Bool) (base : Nat) (e : Nat × Nat × Nat) : Nat × Nat :=
  let size := 16 + (e.2.1 + 15) / 16 * 16
  (e.1 + 2 ^ 32 * (if last then 0 else base + size) + 2 ^ 64 * e.2.1 + 2 ^ 128 * e.2.2, size)

def capList : Nat → List (Nat × Nat × Nat) → Nat
  | _, [] => 0
  | base, e :: es =>
    let (v, size) := capBytes (es == []) base e
    v + 2 ^ (8 * size) * capList (base + size) es

/-- BOOTREC (Table 20.2). -/
def State.bootrec (s : State) : Nat := s.brFail % 65536 + 2 ^ 24 * s.brLast + 2 ^ 32 * s.brBoots

/-- LKPORT p. -/
def Port.word (x : Port) : Nat :=
  b2n x.en + 2 * x.st.code + 2 ^ 10 * (if x.st == .up then x.far else 0) + 2 ^ 16 * x.pmd + 2 ^ 32 * x.replays + 2 ^ 48 * x.nokey

/-- PGCTX c, as one number. -/
def Ctx.pgctx (x : Ctx) : Nat :=
  b2n x.fen + 2 ^ 5 * x.flg + x.fbase + 2 ^ 64 * x.fwr + 2 ^ 96 * x.frd + 2 ^ 128 * x.dropped + 2 ^ 160 * x.refused
  + 2 ^ 192 * x.fenced + 2 ^ 256 * x.peers

/-- TRCTL d, as one number. -/
def Die.trctl (d : Die) : Nat :=
  b2n d.ten + 2 * d.tlg + 2 ^ 5 * d.tk + d.tbase + 2 ^ 96 * d.twr + 2 ^ 128 * d.trd + 2 ^ 160 * d.tdrops

/-- The aligned word at an offset of the block once the device is ready (R420). -/
def State.regWord (s : State) (off : Nat) : Nat :=
  let part (x n : Nat) : Nat := x / 2 ^ (64 * n) % 2 ^ 64
  if off == 0x08 then s.cxstsCtx * 256 + s.cxstsRes
  else if off == 0x10 then s.qctlRes * 65536
  else if off == 0x28 then s.drstRes * 65536
  else if off == 0x30 then s.bootrec
  else if off == 0x38 then s.lmbase + s.badacc * 65536
  else if off == 0x40 then s.dbgsel
  else if off == 0x48 then s.dbgRead
  else if 0x100 ≤ off && off < 0x120 then
    let d := s.die ((off - 0x100) / 8)
    b2n d.fsafe + 2 * b2n d.hot + 256 * d.period + 2 ^ 32 * d.fsent
  else if 0x120 ≤ off && off < 0x140 then let d := s.die ((off - 0x120) / 8); d.st.code + 2 ^ 32 * d.errs
  else if 0x200 ≤ off && off < 0x240 then
    part ((s.die ((off - 0x200) / 16)).ecnt.foldr (fun e n => e + 65536 * n) 0) (off % 16 / 8)
  else if 0x300 ≤ off && off < 0x380 then part (s.die ((off - 0x300) / 32)).trctl (off % 32 / 8)
  else if 0x1000 ≤ off && off < 0x8000 then part (capList 0x1000 s.capabilities) ((off - 0x1000) / 8)
  else if 0x8000 ≤ off && off < 0x8080 then (s.port ((off - 0x8000) / 8)).word
  else if 0x8100 ≤ off && off < 0x8300 then s.route ((off - 0x8100) / 8)
  else if 0x8400 ≤ off && off < 0x8500 then part ((s.mcwins.find ((off - 0x8400) / 16)).getD 0) (off % 16 / 8)
  else if 0x10000 ≤ off && off < 0x14000 then part (s.ctx ((off - 0x10000) / 64)).pgctx (off % 64 / 8)
  else if 0x20000 ≤ off && off < 0x28000 then
    part (((s.ctx ((off - 0x20000) / 128)).brks.find (off % 128 / 16)).getD 0) (off % 16 / 8)
  else 0

/-- A read of the register block (R415, R420, R426): until the device is ready only BOOTREC reads other than 0; that of a package which has
been taken down stays readable. -/
def State.readReg (s : State) (off n : Nat) : Nat :=
  if n != 8 || off % 8 != 0 then 0
  else if s.boot == 10 || off == 0x30 || s.down then s.regWord off
  else 0

end Sys2Proof.Machine
end

