-- ==== Sys2Proof/Machine/Spdm.lean ====
section
/-! DEFINITION. The SPDM responder (20_bringup R419): the seven requests it serves, and its answer to any other. -/

namespace Sys2Proof.Machine

open Sys2Proof

/-- An answer, by kind: 1 to 7 those of the seven requests, 0 ERROR UnsupportedRequest, 8 any other error; over DaxLink it goes out as a
management frame. -/
def State.respond (s : State) (tr : Transport) (kind : Nat) (body : List Nat) : State :=
  let s := { s with spdm := s.spdm ++ [{ tr := tr, kind := kind, body := body }] }
  match tr with
  | .doe => s
  | .daxlink src => s.sendOther src 0 7 2 (Config.framed (.spdmAnswer kind body))

/-- What the version, the capability and the algorithm answers say: SPDM 1.3; a certificate, a challenge answer and signed measurements;
ECDSA P-384 and SHA-384. PRESUMED (log entry 116): the numbers are those of the SPDM standard. -/
def spdmVersion : List Nat := [0x13]
def spdmCapabilities : List Nat := [0x16]
def spdmAlgorithms : List Nat := [0x80, 0x02]

/-- A request that the responder serves: the device is up, and DOE needs the PCIe port of a bridge device. -/
def served (tr : Transport) (f : State → State) (s : State) : Host.Outcome State Fault Refusal :=
  if s.boot != 10 || (tr == .doe && !s.isBridge) then .next s else .next (f s)

/-- The bytes that an image's signature covers (R417). -/
def imageBytes (x : Image) : List Nat := [x.magic, x.version, x.len] ++ x.body.map (·.toNat)

/-- The bytes of an image: header, body, signature (R417). -/
def wholeImage (x : Image) : List Nat := imageBytes x ++ [x.sig]

/-- Measurement `n` (R419): the digest of the firmware image, or BOOTREC. -/
def State.measurement (s : State) (n : Nat) : Option Nat :=
  if n == 1 then some (Config.sha384 (wholeImage s.image)) else if n == 2 then some s.bootrec else none

def execGetVersion (tr : Transport) (s : State) : Host.Outcome State Fault Refusal :=
  served tr (·.respond tr 1 spdmVersion) s

def execGetCapabilities (tr : Transport) (s : State) : Host.Outcome State Fault Refusal :=
  served tr (·.respond tr 2 spdmCapabilities) s

def execNegotiateAlgorithms (tr : Transport) (s : State) : Host.Outcome State Fault Refusal :=
  served tr (·.respond tr 3 spdmAlgorithms) s

/-- The digest of the chain in slot 0. -/
def execGetDigests (tr : Transport) (s : State) : Host.Outcome State Fault Refusal :=
  served tr (·.respond tr 4 [Config.sha384 [Config.certChain]]) s

/-- The chain occupies slot 0. -/
def State.certificate (s : State) (tr : Transport) (slot : Nat) : State :=
  if slot == 0 then s.respond tr 5 [Config.certChain] else s.respond tr 8 [Config.spdmBody (16 + slot)]

def execGetCertificate (tr : Transport) (slot : Nat) (s : State) : Host.Outcome State Fault Refusal := served tr (·.certificate tr slot) s

/-- An answer signed with the device identity key, over its nonce and its content. -/
def State.signed (s : State) (tr : Transport) (kind : Nat) (body : List Nat) : State :=
  s.respond tr kind (body ++ [Config.sign (Config.sha384 body)])

def execChallenge (tr : Transport) (nonce : Nat) (s : State) : Host.Outcome State Fault Refusal :=
  served tr (·.signed tr 6 [nonce, Config.sha384 [Config.certChain]]) s

/-- One measurement, their number, or all of them. -/
def State.measurements (s : State) (tr : Transport) (n : Nat) : State :=
  if n == 0 then s.signed tr 7 [2]
  else if n == 255 then s.signed tr 7 [(s.measurement 1).getD 0, (s.measurement 2).getD 0]
  else
    match s.measurement n with
    | some v => s.signed tr 7 [v]
    | none => s.respond tr 8 [Config.spdmBody (256 + n)]

def execGetMeasurements (tr : Transport) (n : Nat) (s : State) : Host.Outcome State Fault Refusal := served tr (·.measurements tr n) s

def execUnsupportedRequest (tr : Transport) (req : Nat) (s : State) : Host.Outcome State Fault Refusal :=
  served tr (·.respond tr 0 [req]) s

/-- An SPDM request by number, as a management frame of device `src` brings it. -/
def State.spdmRequest (s : State) (src req v : Nat) : State :=
  let tr := Transport.daxlink src
  match req with
  | 1 => s.respond tr 1 spdmVersion
  | 2 => s.respond tr 2 spdmCapabilities
  | 3 => s.respond tr 3 spdmAlgorithms
  | 4 => s.respond tr 4 [Config.sha384 [Config.certChain]]
  | 5 => s.certificate tr v
  | 6 => s.signed tr 6 [v, Config.sha384 [Config.certChain]]
  | 7 => s.measurements tr v
  | r => s.respond tr 0 [r]

end Sys2Proof.Machine
end

