-- ==== Sys2Proof/Machine/Bringup.lean ====
section
/-! DEFINITION. Cold reset and firmware (20_bringup R415 to R418). -/

namespace Sys2Proof.Machine

open Sys2Proof

/-- R417: whether an image runs. -/
def imageFine (x : Image) : Bool :=
  x.magic == 0x4E344657 && x.len == x.body.length && Config.sigOk (Config.sha384 (imageBytes x)) x.sig

/-- How an attempt at the boot steps ends: ready, in recovery, or with a reset of the package that a new fail bit has asked for. -/
inductive BootEnd where
  | ready
  | recovery (last fail : Nat)
  | again (last fail : Nat)
deriving DecidableEq, Repr

/-- A step whose failure leaves the device in recovery has no other way (R416). -/
def onlyWay (n : Nat) : Bool := n == 1 || n == 9

/-- Whether a step under its fail bit has no way to be performed but to stay in, or to enter, recovery (Table 20.1). -/
def noOther (n : Nat) : Bool := n == 1 || n == 2

/-- The boot steps listed, under the fail bits (Table 20.1). `bad` says which steps fail as they usually run, `alt` which alternatives. -/
def bootSteps (imageOk : Bool) (bad alt fail : Nat) : List Nat → BootEnd
  | [] => .ready
  | n :: ns =>
    let usual := !bit fail (n - 1)
    let fails := (n == 2 && !imageOk) || (if usual then bit bad (n - 1) else bit alt (n - 1))
    if noOther n && !usual then .recovery n fail
    else if !fails then bootSteps imageOk bad alt fail ns
    else if onlyWay n then .recovery n (setBit fail (n - 1) true)
    else if usual then .again n (setBit fail (n - 1) true)
    else .recovery n fail

/-- The package after a cold reset: what flash, the fuses and the firmware's settings keep, and the choices that free values have used up. -/
def State.afterReset (s : State) : State :=
  { State.reset with
    agenda := s.agenda, free := s.free, image := s.nextImage.getD s.image, brFail := s.brFail, brLast := s.brLast, brBoots := s.brBoots,
    devnum := s.devnum, bridge := s.bridge, hostfn := s.hostfn, hostAtomics := s.hostAtomics, ctxBase := s.ctxBase, qBase := s.qBase,
    dbBase := s.dbBase, hbm := s.hbm, funcs := s.funcs }

/-- What the alternatives of steps 3 and 4 leave, where they are performed (Table 20.1, R422): the modules of each bridge that train on their
own, the rest removed and counted (R396), and the stacks that fail. -/
def State.trained (s : State) (mods : List Nat) (dead : Nat) : State :=
  let s := if bit s.brFail 2 then
    (List.range numBridges).foldl (fun s b => s.countModules b (12 - mods.getD b 0)) { s with bridges := mods } else s
  if bit s.brFail 3 then { s with hbmFail := dead } else s

/-- R418: recovery. DESIGN CHOICE (log entry 113): every port enters training, for the management frames that recovery offers. -/
def State.recover (s : State) (last fail : Nat) : State :=
  { s with boot := last, recovery := true, brLast := last, brFail := fail,
           ports := (List.range numPorts).map fun p => (p, Port.init.train s.refCycle) }

/-- The steps whose alternative fails: step 3's does where a bridge has no module that trains (R426). -/
def State.altFails (s : State) (alt : Nat) (mods : List Nat) : Nat := if { s with bridges := mods }.meshed then alt else setBit alt 2 true

/-- Boots until the device is ready or in recovery (R416): each further boot has one more fail bit. -/
def State.boots (s : State) (bad alt : Nat) (mods : List Nat) (dead : Nat) : Nat → State
  | 0 => s.recover s.brLast s.brFail
  | n + 1 =>
    let s := { s with brBoots := satAdd s.brBoots 1 32 }
    match bootSteps (imageFine s.image) bad (s.altFails alt mods) s.brFail (List.range' 1 9) with
    | .ready => { s.trained mods dead with boot := 10, recovery := false, brFail := 0, brLast := 10, pcieOff := bit s.brFail 6 }
    | .recovery l f => s.recover l f
    | .again l f => { s with brLast := l, brFail := f }.boots bad alt mods dead n

/-- R415, R416: `fails` are the steps that fail, as fail bits, and `alt` what else the reset meets. -/
def execColdReset (fails : Nat) (alt : BootAlt) (s : State) : Host.Outcome State Fault Refusal :=
  .next (s.afterReset.boots fails alt.altFails alt.mods alt.dead 11)

/-- R418: an image that verifies is written to flash; one cut off while it is written fails its check at the next boot. DESIGN CHOICE (log
entry 112): the write clears the fail bit of step 2, under which no image would be verified. -/
def State.update (s : State) (image : Image) (cut : Bool) : State :=
  if !imageFine image then s
  else { s with nextImage := some (if cut then { image with magic := 0 } else image), brFail := setBit s.brFail 1 false }

/-- Whether the device takes a new image: it runs, or it is in recovery (R418). -/
def State.updates (s : State) : Bool := s.boot == 10 || s.recovery

/-- R418: an image through BAR0 of PCIe function 0; one that a management frame brings is `State.manage`'s. -/
def execFirmwareUpdate (image : Image) (cut : Bool) (s : State) : Host.Outcome State Fault Refusal :=
  if s.updates && s.isBridge then .next (s.update image cut) else .next s

end Sys2Proof.Machine
end

