-- ==== Sys2Proof/Machine/Control.lean ====
section
/-! DEFINITION. The control family (08_gang R160 to R168; 04_context R94 to R96) but for EXIT. -/

namespace Sys2Proof.Machine

open Sys2Proof

/-- The checks of a transfer's target (R41): its range, its alignment, clen, and the header mark. -/
def checkTarget (target : Int) : M Nat := do
  let n := trunc target 64
  if target < 0 || 2 ^ 32 - 8 < target || target % 8 != 0 then trap .clause n
  else do
    let (_, m) ← fetchWord n
    if m then pure n else trap .clause n

/-- The target in register `a`. -/
def regTarget (a : Nat) : M Nat := do
  let x ← readBits a .int
  checkTarget x

/-- R168. -/
def execNop (g : Guard) (s : State) : Host.Outcome State Fault Refusal := code [] g [] (pure .seq) s

/-- R161. -/
def execBra (g : Guard) (off : Int) (s : State) : Host.Outcome State Fault Refusal :=
  codeEnd [] g [] (do
    let th ← thread
    let n ← checkTarget ((th.pc : Int) + 8 * off)
    pure (.jump n)) s

/-- R161. -/
def execJmp (g : Guard) (a : Nat) (s : State) : Host.Outcome State Fault Refusal :=
  codeEnd [.r a] g [] (do
    let n ← regTarget a
    pure (.jump n)) s

/-- The link and the call depth of a call whose target has passed its checks (R162). -/
def callTo (d n : Nat) : M Flow := do
  let th ← thread
  if th.cdep == 0xFFFFFFFF then trap .ret 0
  else do
    writeReg d (th.pc + 8) .u32
    modThread fun th => { th with cdep := th.cdep + 1 }
    pure (.jump n)

/-- R162. -/
def execCall (g : Guard) (d : Nat) (off : Int) (s : State) : Host.Outcome State Fault Refusal :=
  codeEnd [.r d] g [.reg d .u32] (do
    let th ← thread
    let n ← checkTarget ((th.pc : Int) + 8 * off)
    callTo d n) s

/-- R162. -/
def execCalli (g : Guard) (d a : Nat) (s : State) : Host.Outcome State Fault Refusal :=
  codeEnd [.r d, .r a] g [.reg d .u32] (do
    let n ← regTarget a
    callTo d n) s

/-- R163. -/
def execRet (g : Guard) (a : Nat) (s : State) : Host.Outcome State Fault Refusal :=
  codeEnd [.r a] g [] (do
    let th ← thread
    if th.cdep == 0 then trap .ret 0
    else do
      let n ← regTarget a
      modThread fun th => { th with cdep := th.cdep - 1 }
      pure (.jump n)) s

/-- YIELD's effect (R157, R165): age 0, and barred from the next formation of each slot eligible for the thread. -/
def yieldThread : M Flow := do
  let g ← gang
  modThread fun th => { th with age := 0, bars := if g.access then [4] else [0, 1, 2, 3] }
  pure .endClause

/-- R165. -/
def execYield (g : Guard) (s : State) : Host.Outcome State Fault Refusal := codeEnd [] g [] yieldThread s

/-- R166: the tick to wake at is fixed when the instruction first issues. -/
def execSleep (g : Guard) (n : Nat) (s : State) : Host.Outcome State Fault Refusal :=
  codeEnd [] g [] (do
    let th ← thread
    let k ← now
    if n == 0 then yieldThread
    else
      match th.cont with
      | .tok t => if t ≤ k then pure .endClause else waitFor (.sleep t)
      | _ => do
        modThread fun th => { th with cont := .tok (k + n) }
        waitFor (.sleep (k + n))) s

/-- R167, R404: progress of a persistent kernel. -/
def execBeat (g : Guard) (s : State) : Host.Outcome State Fault Refusal :=
  code [] g [] (do
    let gg ← gang
    let k ← now
    modify fun s => s.updKernel gg.kern fun x => if x.desc.persist then { x with prog := k, stage2 := false } else x
    pure .seq) s

/-- R94. -/
def execTrap (g : Guard) (imm : Nat) (s : State) : Host.Outcome State Fault Refusal :=
  code [] g [] (Sys2Proof.Machine.trap .soft imm) s

/-- R96. -/
def execRtt (g : Guard) (past : Bool) (s : State) : Host.Outcome State Fault Refusal :=
  codeEnd [] g [] (do
    let th ← thread
    if th.inh then pure (.ret past) else trap .illegal th.pc) s

/-- R95: a thread that has halted here goes on past it. -/
def execBkpt (g : Guard) (imm : Nat) (s : State) : Host.Outcome State Fault Refusal :=
  code [] g [] (do
    let th ← thread
    let x ← curCtx
    if th.passBrk then pure .seq
    else if x.dbg then throw .halt
    else trap .brk imm) s

end Sys2Proof.Machine
end

