-- ==== Sys2Proof/Machine/Floating.lean ====
section
/-! DEFINITION. The floating-point, conversion and tag family (10_float R203 to R222). -/

namespace Sys2Proof.Machine

open Sys2Proof

/-- R208. -/
def execFadd (g : Guard) (d a b _k : Nat) (rm : Rm) (mods : FMods) (s : State) : Host.Outcome State Fault Refusal :=
  code [.r d, .r a, .r b] g [.reg d .f32] (do
    let th ← thread
    let (x, y) ← modSrcs a b mods
    putFloat d (fadd .f32 (rmMode th rm) th.ftz x y) .f32) s

/-- R208. -/
def execFmul (g : Guard) (d a b _k : Nat) (rm : Rm) (mods : FMods) (s : State) : Host.Outcome State Fault Refusal :=
  code [.r d, .r a, .r b] g [.reg d .f32] (do
    let th ← thread
    let (x, y) ← modSrcs a b mods
    putFloat d (fmul .f32 (rmMode th rm) th.ftz x y) .f32) s

/-- R208. -/
def execFfma (g : Guard) (d a b c _k : Nat) (rm : Rm) (mods : FMods) (nc : Bool) (s : State) :
    Host.Outcome State Fault Refusal :=
  code [.r d, .r a, .r b, .r c] g [.reg d .f32] (do
    let th ← thread
    let (x, y) ← modSrcs a b mods
    let z ← f32Src c
    putFloat d (ffma .f32 (rmMode th rm) th.ftz x y (fmods false nc th.ftz z)) .f32) s

/-- R209. -/
def execFmin (g : Guard) (d a b _k : Nat) (mods : FMods) (s : State) : Host.Outcome State Fault Refusal :=
  code [.r d, .r a, .r b] g [.reg d .f32] (do
    let (x, y) ← modSrcs a b mods
    putFloat d (fminmax .f32 false x y) .f32) s

/-- R209. -/
def execFmax (g : Guard) (d a b _k : Nat) (mods : FMods) (s : State) : Host.Outcome State Fault Refusal :=
  code [.r d, .r a, .r b] g [.reg d .f32] (do
    let (x, y) ← modSrcs a b mods
    putFloat d (fminmax .f32 true x y) .f32) s

/-- R210. -/
def execFsetp (g : Guard) (p a b _k : Nat) (mods : FMods) (cnd : FCond) (s : State) : Host.Outcome State Fault Refusal :=
  code [.r a, .r b] g [.pred p] (do
    let (x, y) ← modSrcs a b mods
    putFlagged p (fcompare x y cnd)) s

/-- One F32 source, one F32 result, with the thread's ftz. -/
def floatUnary (g : Guard) (d a : Nat) (tag : Tag) (f : Thread → Nat → FRes) (s : State) : Host.Outcome State Fault Refusal :=
  code [.r d, .r a] g [.reg d tag] (do
    let th ← thread
    let x ← f32Src a
    putFloat d (f th x) tag) s

/-- R211. -/
def execFrnd (g : Guard) (d a _k : Nat) (rm : Rm) (s : State) : Host.Outcome State Fault Refusal :=
  floatUnary g d a .f32 (fun th x => frnd (rmMode th rm) th.ftz x) s

/-- R212. -/
def execFrcp (g : Guard) (d a _k : Nat) (s : State) : Host.Outcome State Fault Refusal :=
  floatUnary g d a .f32 (fun th x => frcp th.ftz x) s
/-- R212. -/
def execFrsq (g : Guard) (d a _k : Nat) (s : State) : Host.Outcome State Fault Refusal :=
  floatUnary g d a .f32 (fun th x => frsq th.ftz x) s
/-- R211. -/
def execFsqrt (g : Guard) (d a _k : Nat) (rm : Rm) (s : State) : Host.Outcome State Fault Refusal :=
  floatUnary g d a .f32 (fun th x => fsqrt (rmMode th rm) th.ftz x) s
/-- R212. -/
def execFex2 (g : Guard) (d a _k : Nat) (s : State) : Host.Outcome State Fault Refusal :=
  floatUnary g d a .f32 (fun th x => fex2 th.ftz x) s
/-- R212. -/
def execFlg2 (g : Guard) (d a _k : Nat) (s : State) : Host.Outcome State Fault Refusal :=
  floatUnary g d a .f32 (fun th x => flg2 th.ftz x) s
/-- R212. -/
def execFsin (g : Guard) (d a _k : Nat) (s : State) : Host.Outcome State Fault Refusal :=
  floatUnary g d a .f32 (fun th x => ftrig false th.ftz x) s
/-- R212. -/
def execFcos (g : Guard) (d a _k : Nat) (s : State) : Host.Outcome State Fault Refusal :=
  floatUnary g d a .f32 (fun th x => ftrig true th.ftz x) s
/-- R213: never flushes and sets no flag. -/
def execFclass (g : Guard) (d a _k : Nat) (s : State) : Host.Outcome State Fault Refusal :=
  floatUnary g d a .u32 (fun _ x => (fclass x, 0)) s

/-- The packed format and its tag (R214). -/
def pFmt (h : Bool) : Fmt := if h then .f16 else .bf16
def pTag (h : Bool) : Tag := if h then .h2 else .bf2
def pSet (h : Bool) : TagSet := if h then .h2 else .bf2

/-- R214. -/
def execHadd2 (g : Guard) (d a b _k : Nat) (rm : Rm) (h : Bool) (s : State) : Host.Outcome State Fault Refusal :=
  code [.r d, .r a, .r b] g [.reg d (pTag h)] (do
    let th ← thread
    let x ← readBits a (pSet h)
    let y ← readBits b (pSet h)
    putFloat d (packed (fadd (pFmt h) (rmMode th rm) th.ftz) x y) (pTag h)) s

/-- R214. -/
def execHmul2 (g : Guard) (d a b _k : Nat) (rm : Rm) (h : Bool) (s : State) : Host.Outcome State Fault Refusal :=
  code [.r d, .r a, .r b] g [.reg d (pTag h)] (do
    let th ← thread
    let x ← readBits a (pSet h)
    let y ← readBits b (pSet h)
    putFloat d (packed (fmul (pFmt h) (rmMode th rm) th.ftz) x y) (pTag h)) s

/-- R214. -/
def execHfma2 (g : Guard) (d a b c _k : Nat) (rm : Rm) (h : Bool) (s : State) : Host.Outcome State Fault Refusal :=
  code [.r d, .r a, .r b, .r c] g [.reg d (pTag h)] (do
    let th ← thread
    let x ← readBits a (pSet h)
    let y ← readBits b (pSet h)
    let z ← readBits c (pSet h)
    putFloat d (packed3 (ffma (pFmt h) (rmMode th rm) th.ftz) x y z) (pTag h)) s

/-- R215. -/
def execDot2 (g : Guard) (d a b c _k : Nat) (rm : Rm) (h : Bool) (s : State) : Host.Outcome State Fault Refusal :=
  code [.r d, .r a, .r b, .r c] g [.reg d .f32] (do
    let th ← thread
    let x ← readBits a (pSet h)
    let y ← readBits b (pSet h)
    let z ← f32Src c
    putFloat d (dot2 (pFmt h) (rmMode th rm) th.ftz x y z) .f32) s

/-! ## CVT (R216, R217) -/

/-- The class of a source by its tag, and its elements. -/
def cvtClass (w : TWord) : CvtClass :=
  match w.tag with
  | .s32 => .signed
  | .f32 => .float .f32
  | .bf2 => .float .bf16
  | .h2 => .float .f16
  | _ => .unsigned

/-- Whether a word is packed. -/
def isPacked (w : TWord) : Bool := w.tag == .bf2 || w.tag == .h2

/-- Element `e` of a source: its own 16 bits when packed, else the word. -/
def cvtElem (w : TWord) (e : Nat) : Nat :=
  if isPacked w then w.bits.toNat / 2 ^ (16 * e) % 2 ^ 16 else w.bits.toNat

/-- The float format a destination tag names. -/
def dstFmt : Tag → Option Fmt
  | .f32 => some .f32
  | .bf2 => some .bf16
  | .h2 => some .f16
  | _ => none

/-- CVT's operation once `a` is read. DESIGN CHOICE (log entry 96): in a repeated clause R216's "b must be zero" is asked of the effective
index, as R32 strides it, so that a nonzero stride-b makes repetition 1 ILLEGAL. -/
def cvtBody (d b : Nat) (dt : Tag) (mode : Mode) (ftz sat : Bool) (x : TWord) : M Flow := do
  match dt with
  | .bf2 | .h2 =>
    let f := dstFmt dt
    if isPacked x then
      if b != 0 then illegal
      else
        let r0 := cvtOne (cvtClass x) f false mode ftz false (cvtElem x 0)
        let r1 := cvtOne (cvtClass x) f false mode ftz false (cvtElem x 1)
        putFloat d (r1.1 * 2 ^ 16 + r0.1, orf r0.2 r1.2) dt
    else do
      let y ← readReg b .any
      let r0 := cvtOne (cvtClass x) f false mode ftz false (cvtElem x 0)
      let r1 := cvtOne (cvtClass y) f false mode ftz false (cvtElem y 0)
      putFloat d (r1.1 * 2 ^ 16 + r0.1, orf r0.2 r1.2) dt
  | .u32 | .s32 | .f32 =>
    let f := dstFmt dt
    let sgn := dt == .s32
    if isPacked x then
      if d % 2 == 1 then trap .illegal d
      else do
        if d != 0 then rangeCheck d 2
        let r0 := cvtOne (cvtClass x) f sgn mode ftz sat (cvtElem x 0)
        let r1 := cvtOne (cvtClass x) f sgn mode ftz sat (cvtElem x 1)
        addFlags (orf r0.2 r1.2)
        writePair d (r0.1 + 2 ^ 32 * r1.1) dt dt
        pure .seq
    else putFloat d (cvtOne (cvtClass x) f sgn mode ftz sat x.bits.toNat) dt
  | _ => putFloat d (x.bits.toNat, 0) dt

/-- Whether CVT writes the pair at `d` (R216): to one of the types of one word, from a packed word. A source that cannot be read tells no
shape, and names `d` alone (log entry 109). -/
def State.cvtSplits (s : State) (d a : Nat) (dt : Tag) : Bool :=
  d != 0 && d % 2 == 0 && (dt == .u32 || dt == .s32 || dt == .f32)
  && match Sys2Proof.Machine.readReg a .any s with | .ok w _ => isPacked w | .error .. => false

/-- R216. Field b names a register only where the shape reads it. -/
def execCvt (g : Guard) (d a b _k : Nat) (dt : Tag) (rm : Rm) (sat : Bool) (s : State) : Host.Outcome State Fault Refusal :=
  let pair := dt == .bf2 || dt == .h2
  let more := if s.cvtSplits d a dt then [d + 1] else []
  runCode (if pair then [a, b] else [a]) ([.reg d dt] ++ more.map (.reg · dt)) (issueWith ([.r d, .r a] ++ if pair then [.r b] else []) g .skip
      more fun _ => do
    let th ← thread
    let x ← readReg a .any
    cvtBody d b dt (rmMode th rm) th.ftz sat x) s

/-! ## Narrow integers (R218 to R220) -/

/-- Element `i` of a packed narrow word, signed (R57). -/
def narrowElem (n4 : Bool) (w i : Nat) : Int :=
  if n4 then sext (w / 2 ^ (4 * i)) 4 else sext (w / 2 ^ (8 * i)) 8

/-- Pack signed elements, the first lowest (R57). -/
def packNarrow (n4 : Bool) : List Int → Nat
  | [] => 0
  | q :: qs => if n4 then trunc q 4 + 16 * packNarrow n4 qs else trunc q 8 + 256 * packNarrow n4 qs

/-- The number of elements of a narrow word. -/
def narrowCount (n4 : Bool) : Nat := if n4 then 8 else 4

/-- Read a run of F32 registers. -/
def readRun (a : Nat) : Nat → M (List Nat)
  | 0 => pure []
  | n + 1 => do
    let x ← f32Src a
    let xs ← readRun (a + 1) n
    pure (x :: xs)

/-- R219. -/
def execQpack (g : Guard) (d a b c _k : Nat) (rm : Rm) (n4 : Bool) (s : State) : Host.Outcome State Fault Refusal :=
  code [.r d, .range a (narrowCount n4), .r b, .r c] g [.reg d (if n4 then .q4 else .q8)] (do
    let th ← thread
    let sc ← f32Src b
    let e ← natSrc c
    let xs ← readRun a (narrowCount n4)
    let tag : Tag := if n4 then .q4 else .q8
    if validBase sc then
      let (lo, hi) : Int × Int := if n4 then (-8, 7) else (-128, 127)
      let rs := xs.map (qpackOne (rmMode th rm) th.ftz lo hi sc (e % 16))
      putFloat d (packNarrow n4 (rs.map (·.1)), rs.foldl (fun f r => orf f r.2) 0) tag
    else putFloat d (0, fInvalid) tag) s

/-- Write a run of F32 results with their flags. -/
def writeRun (d : Nat) : List FRes → M Unit
  | [] => pure ()
  | r :: rs => do
    addFlags r.2
    writeReg d r.1 .f32
    writeRun (d + 1) rs

/-- R220. -/
def execQunpk (g : Guard) (d a b c _k : Nat) (n4 : Bool) (s : State) : Host.Outcome State Fault Refusal :=
  code [.range d (narrowCount n4), .r a, .r b, .r c] g
    ((List.range' d (narrowCount n4)).map fun i => .reg i .f32) (do
    let x ← readBits a (if n4 then .q4 else .q8)
    let sc ← f32Src b
    let e ← natSrc c
    let rs := (List.range (narrowCount n4)).map fun i =>
      if validBase sc then qunpkOne sc (e % 16) (narrowElem n4 x i) else (Fmt.f32.nan, fInvalid)
    writeRun d rs
    pure .seq) s

/-- R221. -/
def execTagq (g : Guard) (d a _k : Nat) (s : State) : Host.Outcome State Fault Refusal :=
  code [.r d, .r a] g [.reg d .u32] (do
    let x ← readReg a .any
    putWord d x.tag.code .u32) s

/-- R222. -/
def execTags (g : Guard) (d a _k : Nat) (tag : Tag) (s : State) : Host.Outcome State Fault Refusal :=
  code [.r d, .r a] g [.reg d tag] (do
    let x ← readReg a .any
    putWord d x.bits.toNat tag) s

end Sys2Proof.Machine
end

