-- ==== Sys2Proof/Machine/Link.lean ====
section
/-! DEFINITION. DaxLink (18_link R381 to R392): what a port sends and receives, the requests of peers, their answers, and the port states;
launch frames (05_queue R112). -/

namespace Sys2Proof.Machine

open Sys2Proof

/-! ## Receiving (R383, R384) -/

/-- Whether link number `a` is at or before `b`. -/
def lseqUpTo (a b : Nat) : Bool := decide ((b + 4096 - a) % 4096 < 2048)

/-- An acknowledgement of flits up to `lack`. -/
def Port.ack (x : Port) (lack : Nat) : Port :=
  let rest := x.unack.filter fun (f : Flit) => !lseqUpTo f.lseq lack
  let still := rest.length == x.unack.length
  { x with unack := rest, txq := x.txq.filter (fun (f : Flit) => !lseqUpTo f.lseq lack),
           repl := x.repl.keep (fun n _ => !lseqUpTo n lack), quiet := if still then x.quiet else 0 }

/-- The payload of a NAK (Table 18.3). -/
def nakPayload (lseq : Nat) : Nat := 1 + 2 ^ 16 * lseq

/-- The payload that grants one credit of a lane. -/
def creditPayload (vl : Nat) : Nat := 2 + 2 ^ (32 + 16 * vl)

/-- A flit whose place is not the next, or that cannot be read: it is discarded, and a NAK names the one expected. -/
def Port.discard (x : Port) : Port := if x.nakd then x else { x with nakd := true, ctl := x.ctl ++ [nakPayload x.expL] }

/-- A flit in its place: its acknowledgement counts, and its lane's credit goes back. -/
def Port.take (x : Port) (f : Flit) : Port :=
  { x.ack f.lack with expL := (x.expL + 1) % 4096, nakd := false, ctl := if f.vl < 3 then x.ctl ++ [creditPayload f.vl] else x.ctl }

/-- Whether the device takes a flit of a type: in recovery only management frames and link control (R418). -/
def State.takes (s : State) (ty : Nat) : Bool := s.boot == 10 || ty == 7 || ty == 8

/-- A flit of type `ty` for this device arrives at a port that is up: discarded when it is out of place, else `g` happens. -/
def inbound (p : Nat) (f : Flit) (ty : Nat) (here : Bool) (g : State → State) (s : State) : Host.Outcome State Fault Refusal :=
  if !s.portUp p || f.ty != ty || (here && f.dst != s.devnum) then .next s
  else if f.lseq != (s.port p).expL then .next (s.setPort p (s.port p).discard)
  else
    let s := s.setPort p ((s.port p).take f)
    .next (if s.takes ty then g s else s)

/-! ## Requests of peers (R382, R386, R387) -/

/-- The payload of a response (Table 18.3). -/
def respPayload (tag status cause data tags : Nat) : Nat :=
  tag + 2 ^ 16 * status + 2 ^ 24 * cause + 2 ^ 64 * (data % 2 ^ 1024) + 2 ^ 1088 * (tags % 2 ^ 128)

/-- Whether a request for `n` bytes at `pa` is refused (R387, R399), and the count that it adds to. -/
def State.inRefuse (s : State) (src c pa n : Nat) : Option State :=
  if s.refuses src c || !s.backed pa n then some (s.addRefused c)
  else if s.dieRefuses pa then some (s.countErr pa)
  else none

/-- Where an access of `n` bytes at a BAR4 offset ends: an address, or not backed, or refused by a die in reset (R394, R399). -/
inductive BarEnd where
  | ok (pa : Nat)
  | unbacked
  | refused (pa : Nat)
deriving DecidableEq, Repr

def State.barAddr (s : State) (off n : Nat) : BarEnd :=
  let pa := s.lmbase + off
  if !s.backed pa n then .unbacked else if s.dieRefuses pa then .refused pa else .ok pa

/-- One more access to an address that nothing backs (Table 18.12). -/
def State.addBadacc (s : State) : State := { s with badacc := satAdd s.badacc 1 14 }

/-- The answer to a request that is refused. -/
def Reply.refused : Reply := ⟨1, 0, 0, 0⟩

/-- Where a request for `n` bytes at `a` is performed, or its refusal (R387): a host's access that the bridge sends on, in the BAR4 window
(R393, R394); the access of a device of the group to host memory, upstream (R395); else at home. -/
def State.reqPlace (s : State) (src c a n : Nat) : Except (Reply × State) Nat :=
  if hostMark ≤ a && s.isBridge && s.funcs.any fun f => f.1 == src then .ok (hostKey (a - hostMark))
  else if barMark ≤ a && a < hostMark && src == s.bridgeDev then
    match s.barAddr (a - barMark) n with
    | .ok pa => .ok pa
    | .unbacked => .error (.refused, s.addBadacc)
    | .refused pa => .error (.refused, s.countErr pa)
  else
    match s.inRefuse src c a n with
    | some s => .error (.refused, s)
    | none => .ok a

/-- A read at home (R387). DESIGN CHOICE (log entry 94): a length other than 1 to 4 sectors (Table 18.3) is answered as R382 answers a
bad lane count, with status 2 and cause 0x01. -/
def State.performRead (s : State) (f : Flit) : Reply × State :=
  let pa := bits f.payload 63 0 / 32 * 32
  let k := bits f.payload 71 64
  let n := 32 * k
  if k == 0 || 4 < k then (⟨2, 1, 0, 0⟩, s)
  else match s.reqPlace f.src f.ctx pa n with
  | .error r => r
  | .ok pa =>
    let s := s.noteRead pa n
    match s.firstPoison pa n 0 with
    | some _ => (⟨2, Cause.memerr.code, 0, 0⟩, s)
    | none => (⟨0, 0, s.phys n pa, s.homeTags pa (n / 8)⟩, s)

/-- The object check of a store that comes from another device (R289): it is no owner. -/
def granRefuses (s : State) (la mask : Nat) : Option Cause :=
  (List.range 8).findSome? fun k => if bits mask (16 * k + 15) (16 * k) == 0 then none else storeCause false false (s.granAt (la + 16 * k))

/-- What the header at `q` gives the escape check for a granule published at scope `sc` (R285, R298, R400). -/
def State.escapeCause (s : State) (q pte sc : Nat) : Option Cause :=
  if pteLink pte != 0 then some .access
  else if !bit pte 55 then some .addr
  else if (s.firstPoison q 16 0).isSome then some .memerr
  else if !s.liveHeader q then some .addr
  else if hdrScope (s.phys 16 q) < sc then some .escape
  else none

/-- The escape check of a reference that a peer stores at `pa` (R298). -/
def State.inEscape (s : State) (c pa v : Nat) : Option Cause × State :=
  let g := s.granAt pa
  if g < 3 || 6 < g then (none, s)
  else if v / 2 ^ 56 != 0 || v % 16 != 0 then (some .addr, s)
  else
    let (r, s) := s.xlate (homeDie pa) c v .load
    match r with
    | .ok q pte => (s.escapeCause q pte (g - 2), if pteLink pte == 0 then s.noteRead q 16 else s)
    | .fault k _ => (some (kindCause k), s)
    | .access => (some .access, s)
    | .remote => (some .remote, s)
    | .memerr => (some .memerr, s)

/-- The escape checks of a line write with tag bits, at the words from `k` on. -/
def State.inEscapes (s : State) (c la tags data : Nat) : List Nat → Option Cause × State
  | [] => (none, s)
  | k :: ks =>
    match if bit tags k then s.inEscape c (la + 8 * k) (data / 2 ^ (64 * k) % 2 ^ 64) else (none, s) with
    | (some x, s) => (some x, s)
    | (none, s) => s.inEscapes c la tags data ks

/-- A line written under a byte mask at home: bytes, the tag bits of the words touched, poison, and multicast. -/
def State.lineWrite (s : State) (c la mask data tags : Nat) : State :=
  let ws := wordsHit 16 mask
  let full (q : Nat) : Bool := decide (la / 32 ≤ q) && decide (q < la / 32 + 4) && bits mask (32 * (q % 4) + 31) (32 * (q % 4)) == 2 ^ 32 - 1
  let s := { s.withBytes 128 la (mergeBytes 128 mask (s.phys 128 la) data) with
    poison := s.poison.filter fun q => !full q, poisonL2 := s.poisonL2.filter fun k => !full (l2Sector k) }
  let s := s.putTags (la / 8) (mergeBits 16 ws (s.homeTags la 16) tags) 16
  if s.mcwins == [] then s else s.multicast c la mask data s.mcwins

/-- A write at home (R387); one that is the host's, or for host memory, has no object checks and leaves no tag bit (R284, R393). -/
def State.performWrite (s : State) (f : Flit) : Reply × State :=
  let a := bits f.payload 63 0 / 128 * 128
  let mask := bits f.payload 191 64
  let tags := bits f.payload 207 192
  let data := bits f.payload 1343 320
  match s.reqPlace f.src f.ctx a 128 with
  | .error r => r
  | .ok la =>
    if barMark ≤ a then (⟨0, 0, 0, 0⟩, s.lineWrite f.ctx la mask data 0) else
    match granRefuses s la mask with
    | some c => (⟨2, c.code, 0, 0⟩, s)
    | none =>
      match s.inEscapes f.ctx la tags data (List.range 16) with
      | (some c, s) => (⟨2, c.code, 0, 0⟩, s)
      | (none, s) => (⟨0, 0, 0, 0⟩, s.lineWrite f.ctx la mask data tags)

/-- The operation of an atomic flit by its code; 12 and 13 are CAS. -/
def atomOf : Nat → Option AtomOp
  | 0 => some .add | 1 => some .fadd | 2 => some .smin | 3 => some .smax | 4 => some .zmin | 5 => some .zmax | 6 => some .and | 7 => some .or
  | 8 => some .xor | 9 => some .exch | 10 => some .add64 | 11 => some .exch64 | _ => none

/-- What one lane leaves in the word; none leaves it as it is. -/
def laneApply (op old opnd cmpv : Nat) : Option Nat :=
  match atomOf op with
  | some o => some (atomApply o old opnd)
  | none => if old == cmpv then some opnd else none

/-- The lanes of an atomic flit from the `i`-th, in order: the old values and their tag bits. -/
def State.lanes (s : State) (c pa op n pl i : Nat) : Nat → List (Nat × Nat) × State
  | 0 => ([], s)
  | k + 1 =>
    let old := s.phys n pa
    let tg := if n == 8 then b2n (s.tagAt pa) else 0
    let o := pl / 2 ^ (128 + 8 * n * i) % 2 ^ (8 * n)
    let v := pl / 2 ^ (1152 + 8 * n * i) % 2 ^ (8 * n)
    let s := match laneApply op old o v with
      | some w => (s.physSet c n pa w).setTagAt pa false
      | none => s
    let (r, s) := s.lanes c pa op n pl (i + 1) k
    ((old, tg) :: r, s)

/-- Whether an atomic flit's order byte marks it as a RED's (R382). -/
def isRed (p : Nat) : Bool := bit p (72 + redMark)

/-- An atomic flit at home (R382, R387); a RED is answered by its status only. -/
def State.performAtomic (s : State) (f : Flit) : Reply × State :=
  let a := bits f.payload 63 0
  let op := bits f.payload 71 64
  let k := bits f.payload 95 80
  let n := atomBytes op
  if k == 0 || atomLimit op < k || 13 < op || a % n != 0 then (⟨2, 1, 0, 0⟩, s)
  else
    match s.reqPlace f.src f.ctx a n with
    | .error r => r
    | .ok pa =>
      match (if barMark ≤ a then none else storeCause false false (s.granAt pa)), s.firstPoison pa n 0 with
      | some c, _ => (⟨2, c.code, 0, 0⟩, s)
      | none, some _ => (⟨2, Cause.memerr.code, 0, 0⟩, s.noteRead pa n)
      | none, none =>
        let (r, s) := s.lanes f.ctx pa op n f.payload 0 k
        let xs := r.zip (List.range r.length)
        if isRed f.payload then (⟨0, 0, 0, 0⟩, s)
        else (⟨0, 0, xs.foldl (fun a x => a + 2 ^ (8 * n * x.2) * x.1.1) 0, xs.foldl (fun a x => a + 2 ^ x.2 * x.1.2) 0⟩, s)

/-- Answer a request and remember the answer for a duplicate (R386). -/
def State.reply (s : State) (f : Flit) (tag : Nat) (r : Reply) : State :=
  let x : Flit := { eseq := 0, dst := f.src, src := s.devnum, ctx := f.ctx, ty := 4, vl := 1, lseq := 0, lack := 0,
                    payload := respPayload tag r.status r.cause r.data r.tags }
  { s with outq := s.outq ++ [x], eresp := s.eresp.put (65536 * f.src + f.eseq) [x] }

/-- A multicast write at home (R390): no object check, and tag bits cleared; refused like any other request. -/
def State.performMulticast (s : State) (f : Flit) : Reply × State :=
  let la := bits f.payload 63 0 / 128 * 128
  match s.inRefuse f.src f.ctx la 128 with
  | some s => (⟨1, 0, 0, 0⟩, s)
  | none => (⟨0, 0, 0, 0⟩, s.lineWrite f.ctx la (bits f.payload 191 64) (bits f.payload 1343 320) 0)

/-- Perform one request (R387, R390), whose turn it is. -/
def State.perform (s : State) (f : Flit) : State :=
  match f.ty with
  | 1 => let (r, s) := s.performRead f; (s.reply f (bits f.payload 87 72) r).performed f.src
  | 3 => let (r, s) := s.performAtomic f; (s.reply f (bits f.payload 111 96) r).performed f.src
  | 2 => let (r, s) := s.performWrite f; s.replyAck f.src f.ctx (bits f.payload 1359 1344) r.status r.cause
  | _ => let (r, s) := s.performMulticast f; s.replyAck f.src f.ctx (bits f.payload 1359 1344) r.status r.cause

/-- Requests that came early and whose turn has come, in order. -/
def State.catchUp (s : State) (src : Nat) : Nat → State
  | 0 => s
  | n + 1 =>
    match s.early.find? fun (f : Flit) => f.src == src && f.eseq == (s.erecv.find src).getD 0 with
    | none => s
    | some f => ({ s with early := s.early.filter (· != f) }.perform f).catchUp src n

/-- A request in its end-to-end order (R386): performed in its turn, kept until then, or answered again. -/
def State.inOrder (s : State) (f : Flit) : State :=
  let e := (s.erecv.find f.src).getD 0
  let back := (e + 65536 - f.eseq) % 65536
  if back == 0 then (s.perform f).catchUp f.src s.early.length
  else if back ≤ 32768 then
    match s.eresp.find (65536 * f.src + f.eseq) with
    | some xs => { s with outq := s.outq ++ xs }
    | none => s.sendAck f.src f.ctx
  else if s.early.any fun (x : Flit) => x.src == f.src && x.eseq == f.eseq then s
  else { s with early := s.early ++ [f] }

/-- R387. -/
def execFlitRead (port : Nat) (f : Flit) (s : State) : Host.Outcome State Fault Refusal := inbound port f 1 true (·.inOrder f) s

/-- R387. -/
def execFlitWrite (port : Nat) (f : Flit) (s : State) : Host.Outcome State Fault Refusal := inbound port f 2 true (·.inOrder f) s

/-- R382. -/
def execFlitAtomic (port : Nat) (f : Flit) (s : State) : Host.Outcome State Fault Refusal := inbound port f 3 true (·.inOrder f) s

/-- R390. -/
def execMulticastWrite (port : Nat) (f : Flit) (s : State) : Host.Outcome State Fault Refusal := inbound port f 6 true (·.inOrder f) s

/-- R376, R386: a peer's shoot-down at its turn; the requests that came before theirs follow. -/
def execInboundInval (src c va n : Nat) (s : State) : Host.Outcome State Fault Refusal :=
  if s.inUse c va n then .next s else .next ((s.peerInval src c va n).catchUp src s.early.length)

/-! ## Answers (R270, R387) -/

/-- The fields of a response. -/
def replyOf (p : Nat) : Reply := ⟨bits p 23 16, bits p 31 24, bits p 1087 64, bits p 1215 1088⟩

/-- A response completes its request (R387). -/
def State.response (s : State) (f : Flit) : State :=
  match s.remops.find? fun e => e.1 % 65536 == bits f.payload 15 0 && e.2.dev == f.src with
  | none => s
  | some (id, r) => s.answerOp id r (replyOf f.payload)

/-- R387. -/
def execFlitResponse (port : Nat) (f : Flit) (s : State) : Host.Outcome State Fault Refusal := inbound port f 4 true (·.response f) s

/-- End-to-end number `a` is at or before `b`. -/
def eseqUpTo (a b : Nat) : Bool := decide ((b + 65536 - a) % 65536 < 32768)

/-- R387: posted writes up to a number are done, and shoot-downs that a device has answered (R376); a gang that only waited for them is
freed (R140). -/
def State.acknowledged (s : State) (f : Flit) : State :=
  let e := bits f.payload 15 0
  { s with
    remops := s.remops.keep fun _ r => !(r.posted && r.dev == f.src && eseqUpTo r.eseq e),
    invals := s.invals.mapv fun _ x => { x with peers := x.peers.keep fun p n => !(p == f.src && eseqUpTo n e) } }.sweepGangs

/-- R387. -/
def execEndToEndAcknowledgement (port : Nat) (f : Flit) (s : State) : Host.Outcome State Fault Refusal :=
  inbound port f 9 true (·.acknowledged f) s

/-! ## Launch frames and management frames (R112, R389, R419) -/

/-- A launch frame goes to the queue that its port and key name, or is counted. -/
def State.launch (s : State) (port : Nat) (f : Flit) : State :=
  match s.queues.find? fun e => e.2.st != .disabled && e.2.bind && e.2.port == port && e.2.key == bits f.payload 15 0 with
  | none => s.setPort port { s.port port with nokey := satAdd (s.port port).nokey 1 16 }
  | some (q, x) =>
    if x.untaken == 2 ^ (x.lg + 4) then
      let a := s.qRec q + 32
      s.physSet x.ctx 4 a (satAdd (s.phys 4 a) 1 32)
    else s.appendPacket q (bits f.payload 575 64)

/-- R389. -/
def execLaunchFrame (port : Nat) (f : Flit) (s : State) : Host.Outcome State Fault Refusal := inbound port f 5 true (·.launch port f) s

/-- The answer to a register read that this bridge has sent on for the host (R393). -/
def State.hostGot (s : State) (src tag v : Nat) : State :=
  match s.hostPend.find tag with
  | some (dev, n) => if dev == src then { s with hostPend := s.hostPend.del tag }.hostDone (some (leBytes n v)) else s
  | none => s

/-- What the record of a management frame does (R393, R418 to R420): in recovery it reads BOOTREC or brings an image. -/
def State.managed (s : State) (src c : Nat) : Frame → State
  | .read tag bar2 off n => s.sendOther src c 7 2 (Config.framed (.answer tag (if bar2 then s.readBar2 off n else s.readReg off n)))
  | .answer tag v => s.hostGot src tag v
  | .write bar2 off n w => if s.boot != 10 then s else if bar2 then s.writeBar2 off n w else s.writeBlock off n w
  | .spdm req v => if s.boot == 10 then s.spdmRequest src req v else s
  | .spdmAnswer .. => s
  | .image x cut => if s.updates then s.update x cut else s

/-- R419, R420. -/
def State.manage (s : State) (f : Flit) : State := s.managed f.src f.ctx (Config.frame f.payload)

/-- R419. -/
def execManagementFrame (port : Nat) (f : Flit) (s : State) : Host.Outcome State Fault Refusal := inbound port f 7 true (·.manage f) s

/-- R385: a flit for another device goes on by its route; one of an invalid type is discarded as a bad flit is (R381). -/
def execFlitForward (port : Nat) (f : Flit) (s : State) : Host.Outcome State Fault Refusal :=
  if 10 ≤ f.ty then .next (if s.portUp port then s.setPort port (s.port port).discard else s)
  else if f.dst == s.devnum || f.ty == 0 || f.ty == 8 then .next s
  else inbound port f f.ty false (fun s => { s with outq := s.outq ++ [f] }) s

/-! ## Link control (R383, R384) -/

/-- On a NAK the flits from the named one are sent again. -/
def Port.replay (x : Port) (lseq : Nat) : Port :=
  let x := x.ack ((lseq + 4095) % 4096)
  { x with txq := x.unack }

/-- The replays of one flit that make its port retrain (R383). -/
def replayLimit : Nat := 8

/-- R383. -/
def execNak (port : Nat) (f : Flit) (s : State) : Host.Outcome State Fault Refusal :=
  if bits f.payload 7 0 != 1 then .next s
  else inbound port f 8 false (fun s => s.setPort port ((s.port port).replay (bits f.payload 31 16 % 4096))) s

/-- The credits of three lanes, more of each. -/
def grant (cred : List Nat) (p : Nat) : List Nat :=
  [cred.getD 0 0 + bits p 47 32, cred.getD 1 0 + bits p 63 48, cred.getD 2 0 + bits p 79 64]

/-- R384. -/
def execCredits (port : Nat) (f : Flit) (s : State) : Host.Outcome State Fault Refusal :=
  if bits f.payload 7 0 != 2 then .next s
  else inbound port f 8 false (fun s => s.setPort port { s.port port with cred := grant (s.port port).cred f.payload }) s

/-- R383: an idle flit bears only the far end's acknowledgement. -/
def execIdleFlit (port lack : Nat) (s : State) : Host.Outcome State Fault Refusal :=
  if s.portUp port then .next (s.setPort port ((s.port port).ack lack)) else .next s

/-- R381, R383: a flit that cannot be used. -/
def execFlitCrcFailure (port : Nat) (s : State) : Host.Outcome State Fault Refusal :=
  if s.portUp port then .next (s.setPort port (s.port port).discard) else .next s

/-! ## Sending (R383 to R385) -/

/-- Whether an atomic flit of this device may still take lanes of the instruction that a group is issuing (R382): it does not go yet. -/
def State.gathering (s : State) (f : Flit) : Bool :=
  f.ty == 3 && f.src == s.devnum && s.remops.any fun e => e.2.dev == f.dst && e.2.eseq == f.eseq && !e.2.posted && !e.2.slog
    && s.cores.any fun c => c.2.groups.any fun g => g.2.todo != [] && g.2.no == e.2.issue

/-- The first waiting flit of a lane that leaves on a port and has a credit. -/
def State.candidate (s : State) (p vl : Nat) : Option Flit :=
  if (s.port p).cred.getD vl 0 == 0 then none
  else s.outq.find? fun (f : Flit) => f.vl == vl && s.routePort f.dst == some p && !s.gathering f

/-- The next flit of a port (R384): responses, then requests and management flits in turn. -/
def State.choose (s : State) (p : Nat) : Option Flit :=
  let x := s.port p
  match s.candidate p 2, s.candidate p 1, s.candidate p 0 with
  | some m, r, q =>
    match r, q with
    | some r, _ => some r
    | none, some q => if x.turn then some m else some q
    | none, none => some m
  | none, some r, _ => some r
  | none, none, q => q

/-- The highest link number that a port has received in order. -/
def Port.lackNow (x : Port) : Nat := (x.expL + 4095) % 4096

/-- A flit as it goes on the wire. -/
def Port.stamp (x : Port) (f : Flit) : Flit := { f with lseq := x.nextL, lack := x.lackNow }

/-- A port after it has sent a new flit; `mgmt` says that a management flit waits. -/
def Port.sendNew (x : Port) (mgmt : Bool) (f : Flit) : Port :=
  { x with
    unack := x.unack ++ [x.stamp f], nextL := (x.nextL + 1) % 4096,
    cred := if f.vl < 3 then x.cred.set f.vl (x.cred.getD f.vl 0 - 1) else x.cred,
    sent := if f.vl == 2 || !mgmt then 0 else x.sent + 1,
    quiet := if x.unack == [] then 0 else x.quiet,
    turn := if f.vl == 0 then true else if f.vl == 2 then false else x.turn }

/-- A link-control flit of a port. -/
def State.control (s : State) (p pl : Nat) : Flit :=
  { eseq := 0, dst := (s.port p).far, src := s.devnum, ctx := 0, ty := 8, vl := 3, lseq := 0, lack := 0, payload := pl }

/-- The list without the first flit equal to `f`. -/
def dropFirst (f : Flit) : List Flit → List Flit
  | [] => []
  | x :: xs => if x == f then xs else x :: dropFirst f xs

/-- A port after it has sent a flit again, which bears the current acknowledgement (R383); `mgmt` says that a management flit waits. -/
def Port.resend (x : Port) (mgmt : Bool) (f : Flit) (rest : List Flit) : Port :=
  { x with txq := rest, replays := satAdd x.replays 1 16, repl := x.repl.put f.lseq ((x.repl.find f.lseq).getD 0 + 1),
           sent := if f.vl == 2 || !mgmt then 0 else x.sent + 1,
           unack := x.unack.map fun (g : Flit) => if g.lseq == f.lseq then { g with lack := x.lackNow } else g }

/-- A port sends a flit again (R383): the eighth time of one flit makes it retrain. -/
def State.sendAgain (s : State) (p : Nat) (mgmt : Bool) (f : Flit) (rest : List Flit) : State :=
  let x := (s.port p).resend mgmt f rest
  let s := s.setPort p x
  if replayLimit ≤ (x.repl.find f.lseq).getD 0 then s.retrain p else s

/-- A port sends a new flit that waits. -/
def State.sendNext (s : State) (p : Nat) (mgmt : Bool) (f : Flit) : State :=
  { s with outq := dropFirst f s.outq }.setPort p ((s.port p).sendNew mgmt f)

/-- A port sends: the management flit that fifteen others have gone before, whatever they were (R384); a flit again, link control, the next
flit, or an idle one. -/
def State.transmit (s : State) (p : Nat) : State :=
  let x := s.port p
  let full := decide (1024 ≤ x.unack.length)
  let late := if 15 ≤ x.sent && !full then s.candidate p 2 else none
  let mgmt := (s.candidate p 2).isSome
  match late, x.txq with
  | some m, _ => s.sendNext p mgmt m
  | none, f :: rest => s.sendAgain p mgmt f rest
  | none, [] =>
    if full then s
    else
      match x.ctl with
      | c :: cs => s.setPort p ({ x with ctl := cs }.sendNew mgmt (s.control p c))
      | [] =>
        match s.choose p with
        | some f => s.sendNext p mgmt f
        | none => s

/-- R384. -/
def execFlitTransmit (port : Nat) (s : State) : Host.Outcome State Fault Refusal :=
  if s.portUp port then .next (s.transmit port) else .next s

/-! ## Port states (Table 18.8) -/

/-- The credits of lanes 0 to 2 that a receiver first grants: lane 1 has some in any case (R384). -/
def reserved (c : Nat) : Nat := if bits c 31 16 == 0 then setBit c 16 true else c

/-- R392: training completes. -/
def execPortTrained (p far : Nat) (s : State) : Host.Outcome State Fault Refusal :=
  let x := s.port p
  if x.st != .training || (s.die (p / 4)).st != .up then .next s
  else .next (s.setPort p { x with st := .up, far := far, since := s.refCycle, quiet := 0, nextL := 0, expL := 0, cred := [0, 0, 0], sent := 0, turn := false,
                                   ctl := [2 + 2 ^ 32 * (reserved (Config.firstCredits p) % 2 ^ 48)] })

/-- R392: the loss of the PHY; a port that has replayed a flit eight times, or for which no acknowledgement advances, retrains of itself. -/
def execPortRetrain (p : Nat) (s : State) : Host.Outcome State Fault Refusal := .next (s.retrain p)

/-- R392: 10 ms without success. -/
def execPortTimeout (p : Nat) (s : State) : Host.Outcome State Fault Refusal :=
  let x := s.port p
  if (x.st == .training || x.st == .retraining) && x.since + 1000000 ≤ s.refCycle then .next (s.setPort p { x with st := .down, since := s.refCycle })
  else .next s

/-- R392: the PHY is back. -/
def execPhyRestored (p : Nat) (s : State) : Host.Outcome State Fault Refusal :=
  if (s.port p).st != .retraining then .next s else .next (s.setPort p ((s.port p).train s.refCycle))

end Sys2Proof.Machine
end

