-- ==== Sys2Proof/Machine/Host.lean ====
section
/-! DEFINITION. The host's accesses through the BARs of the bridge device's functions (18_link R393, R394, R399). -/

namespace Sys2Proof.Machine

open Sys2Proof

/-- What the port of the bridge device does with an access to function `fn` (R393): `here` for the bridge itself, `there` for the `fn`-th device
of its group, which is not lost, `gone` for no such device. Where there is no port nothing arrives; until the device is ready function 0 has
BAR0 only (R418, R426). -/
def State.atFn (s : State) (fn : Nat) (bar0 : Bool) (here : State → State) (there : Nat → State → State) (gone : State → State) : State :=
  if !s.isBridge then s
  else if fn == 0 then (if s.boot == 10 || bar0 then here s else gone s)
  else
    match s.funcs[fn]? with
    | some f => if s.boot == 10 && fn < 16 && !s.lostDev f.1 then there f.1 s else gone s
    | none => gone s

/-- Whether an access lies in a function's BAR4. DESIGN CHOICE (log entry 114): one outside it gets no data. -/
def State.inBar4 (s : State) (fn off n : Nat) : Bool := decide (off + n ≤ 2 ^ 30 * (s.funcs.getD fn (0, 0)).2)

/-- The request that the bridge sends on for the host (R393); it is no context's. `at0` is where the answer's bytes start, and `n` their
number. -/
def State.sendOn (s : State) (dev ty off at0 n : Nat) (posted : Bool) (payload : Nat → Nat) : State :=
  s.askPeer dev ty { dev := dev, t := hostReq, kern := s.kernNext, ctx := 0, posted := posted, eseq := 0, va := 2 ^ 60 + off, fetch := false,
                     slog := false, tagged := false, issue := 0, word := 0, more := [at0, n] } payload

/-! ## BAR4 (R394) -/

/-- A read at home: an abort when it reaches no memory, or a poisoned byte. -/
def State.hostRead (s : State) (off n : Nat) : State :=
  match s.barAddr off n with
  | .unbacked => s.addBadacc.hostDone none
  | .refused pa => (s.countErr pa).hostDone none
  | .ok pa =>
    let s := s.noteRead pa n
    match s.firstPoison pa n 0 with
    | some _ => s.hostDone none
    | none => s.hostDone (some (leBytes n (s.phys n pa)))

/-- A read of another device's window. -/
def State.readThere (s : State) (dev off n : Nat) : State :=
  s.sendOn dev 1 off (off % 32) n false fun tag => barMark + off / 32 * 32 + 2 ^ 64 * ((off % 32 + n + 31) / 32) + 2 ^ 72 * tag

/-- R394. -/
def execHostBar4Read (a : BarAt) (n : Nat) (s : State) : Host.Outcome State Fault Refusal :=
  let gone (s : State) : State := s.hostDone none
  .next (if s.isBridge && !s.inBar4 a.fn a.off n then gone s
         else s.atFn a.fn false (·.hostRead a.off n) (fun dev s => s.readThere dev a.off n) gone)

/-- Bytes that the host writes at home: the tag bits of their words are cleared (R284, R393). -/
def State.hostStore (s : State) (pa n v : Nat) : State := ((s.physSet 0 n pa v).curePoison pa n).clearTags n pa

/-- A write at home: discarded when it reaches no memory. -/
def State.hostWrite (s : State) (off : Nat) (data : List Byte) : State :=
  match s.barAddr off data.length with
  | .unbacked => s.addBadacc
  | .refused pa => s.countErr pa
  | .ok pa => s.hostStore pa data.length (leNat data)

/-- A write within one line of another device's window. -/
def State.lineThere (s : State) (dev off n v : Nat) : State :=
  let o := off % 128
  s.sendOn dev 2 off 0 0 true fun tag => writePayload (barMark + off - o) (ones n * 2 ^ o) 0 (v * 2 ^ (8 * o)) tag 0

/-- A write of another device's window, line by line. -/
def State.writeThere (s : State) (dev off : Nat) (data : List Byte) : State :=
  let k := min data.length (128 - off % 128)
  let s := s.lineThere dev off k (leNat (data.take k))
  if k < data.length then s.lineThere dev (off + k) (data.length - k) (leNat (data.drop k)) else s

/-- R394. -/
def execHostBar4Write (a : BarAt) (data : List Byte) (s : State) : Host.Outcome State Fault Refusal :=
  .next (if s.inBar4 a.fn a.off data.length then
           s.atFn a.fn false (·.hostWrite a.off data) (fun dev s => s.writeThere dev a.off data) id else s)

/-- What a host atomic leaves (R393). -/
def hostAtomic (op : HostAtomic) (n old v cmpv : Nat) : Option Nat :=
  match op with
  | .fetchAdd => some ((old + v) % 2 ^ (8 * n))
  | .swap => some (v % 2 ^ (8 * n))
  | .cas => if old == cmpv % 2 ^ (8 * n) then some (v % 2 ^ (8 * n)) else none

/-- An AtomicOp at home: the completer's FetchAdd, Swap and CAS; it answers the old value. -/
def State.hostAtom (s : State) (off : Nat) (op : HostAtomic) (n v cmpv : Nat) : State :=
  match s.barAddr off n with
  | .unbacked => s.addBadacc.hostDone none
  | .refused pa => (s.countErr pa).hostDone none
  | .ok pa =>
    let s := s.noteRead pa n
    match s.firstPoison pa n 0 with
    | some _ => s.hostDone none
    | none =>
      let old := s.phys n pa
      let s := match hostAtomic op n old v cmpv with | some w => s.hostStore pa n w | none => s
      s.hostDone (some (leBytes n old))

/-- The operation code of an AtomicOp in an atomic flit (Table 18.3). -/
def hostAtomCode (w64 : Bool) : HostAtomic → Nat
  | .fetchAdd => if w64 then 10 else 0
  | .swap => if w64 then 11 else 9
  | .cas => if w64 then 13 else 12

/-- An AtomicOp on another device's window. -/
def State.atomThere (s : State) (dev off code n v cmpv : Nat) : State :=
  s.sendOn dev 3 off 0 n false fun tag => atomPayload (barMark + off) code 0 (v % 2 ^ (8 * n)) (cmpv % 2 ^ (8 * n)) tag

/-- R393. -/
def execHostAtomicop (a : BarAt) (op : HostAtomic) (w64 : Bool) (v cmpv : Nat) (s : State) : Host.Outcome State Fault Refusal :=
  let n := if w64 then 8 else 4
  let gone (s : State) : State := s.hostDone none
  .next (if s.isBridge && (!s.inBar4 a.fn a.off n || a.off % n != 0) then gone s
         else s.atFn a.fn false (·.hostAtom a.off op n v cmpv) (fun dev s => s.atomThere dev a.off (hostAtomCode w64 op) n v cmpv) gone)

/-! ## BAR0 and BAR2 (R99, R393, R420) -/

/-- A read of the register block or of the doorbells, here, or by a management frame whose answer is awaited. -/
def State.hostRegRead (s : State) (fn : Nat) (bar2 : Bool) (off n : Nat) : State :=
  s.atFn fn (!bar2) (fun s => s.hostDone (some (leBytes n (if bar2 then s.readBar2 off n else s.readReg off n))))
    (fun dev s => { s with hostPend := s.hostPend.put s.remNext (dev, n), remNext := s.remNext + 1 }.sendOther dev 0 7 2
      (Config.framed (.read s.remNext bar2 off n))) (·.hostDone none)

/-- A write of them. -/
def State.hostRegWrite (s : State) (fn : Nat) (bar2 : Bool) (off n w : Nat) : State :=
  s.atFn fn (!bar2) (fun s => if s.boot != 10 then s else if bar2 then s.writeBar2 off n w else s.writeBlock off n w)
    (fun dev s => s.sendOther dev 0 7 2 (Config.framed (.write bar2 off n w))) id

/-- The host's access to a function's BAR0 or BAR2. -/
def State.hostReg (s : State) (fn : Nat) (bar2 : Bool) (off n : Nat) : Option Nat → State
  | none => s.hostRegRead fn bar2 off n
  | some w => s.hostRegWrite fn bar2 off n w

end Sys2Proof.Machine
end

