-- ==== Sys2Proof/Machine/Integer.lean ====
section
/-! DEFINITION. The integer and logic family (09_integer R179 to R202). -/

namespace Sys2Proof.Machine

open Sys2Proof

/-- R186. DESIGN CHOICE (log entry 97): an uncorrectable source leaves 0 with tag RAW, whatever tag the unreadable word bore (R403). -/
def execMov (g : Guard) (d a _k : Nat) (s : State) : Host.Outcome State Fault Refusal :=
  code [.r d, .r a] g [.reg d .raw] (do
    let x ← readReg a .any
    writeReg d x.bits.toNat x.tag
    pure .seq) s

/-- R187. -/
def execMovi (g : Guard) (d : Nat) (tag : Tag) (imm : Nat) (s : State) : Host.Outcome State Fault Refusal :=
  code [.r d] g [.reg d tag] (putWord d imm tag) s

/-- The fitting of an exact result to 32 bits (R190). -/
def fit (sg sat : Bool) (r : Int) : Int :=
  if sat then
    (if sg then min (max r (-(2 ^ 31))) (2 ^ 31 - 1) else min (max r 0) (2 ^ 32 - 1))
  else r

/-- The operation that two-source arithmetic shares (R190). -/
def arith (d a b : Nat) (sg sat : Bool) (f : Int → Int → Int) : M Flow := do
  let x ← intSrc sg a
  let y ← intSrc sg b
  putWord d (fit sg sat (f x y)) (sgTag sg)

/-- R190. -/
def execIadd (g : Guard) (d a b _k : Nat) (sg sat : Bool) (s : State) : Host.Outcome State Fault Refusal :=
  code [.r d, .r a, .r b] g [.reg d (sgTag sg)] (arith d a b sg sat fun x y => x + y) s

/-- R190: the immediate is signed whatever `.s` says. -/
def execIaddi (g : Guard) (d a : Nat) (_ka sg sat : Bool) (imm : Int) (s : State) : Host.Outcome State Fault Refusal :=
  code [.r d, .r a] g [.reg d (sgTag sg)] (do
    let x ← intSrc sg a
    putWord d (fit sg sat (x + imm)) (sgTag sg)) s

/-- R190. -/
def execIsub (g : Guard) (d a b _k : Nat) (sg sat : Bool) (s : State) : Host.Outcome State Fault Refusal :=
  code [.r d, .r a, .r b] g [.reg d (sgTag sg)] (arith d a b sg sat fun x y => x - y) s

/-- R190. -/
def execImul (g : Guard) (d a b _k : Nat) (sg : Bool) (s : State) : Host.Outcome State Fault Refusal :=
  code [.r d, .r a, .r b] g [.reg d (sgTag sg)] (arith d a b sg false fun x y => x * y) s

/-- R190: bits [63:32] of the exact product. -/
def execImulh (g : Guard) (d a b _k : Nat) (sg : Bool) (s : State) : Host.Outcome State Fault Refusal :=
  code [.r d, .r a, .r b] g [.reg d (sgTag sg)] (arith d a b sg false fun x y => x * y / 2 ^ 32) s

/-- R190. -/
def execImad (g : Guard) (d a b c _k : Nat) (sg sat : Bool) (s : State) : Host.Outcome State Fault Refusal :=
  code [.r d, .r a, .r b, .r c] g [.reg d (sgTag sg)] (do
    let x ← intSrc sg a
    let y ← intSrc sg b
    let z ← intSrc sg c
    putWord d (fit sg sat (x * y + z)) (sgTag sg)) s

/-- The two destinations of a 64-bit result; pair v0 discards both words (R180). -/
def pairDest (d : Nat) (lo hi : Tag) : List Dest := if d == 0 then [.reg 0 lo] else [.reg d lo, .reg (d + 1) hi]

/-- R191. -/
def execImadw (g : Guard) (d a b c _k : Nat) (sg : Bool) (s : State) : Host.Outcome State Fault Refusal :=
  code [.even d, .r a, .r b, .even c] g (pairDest d .w64l .w64h) (do
    let x ← intSrc sg a
    let y ← intSrc sg b
    let z ← readL64 c
    putL64 d (x * y + z)) s

/-- R192. -/
def execIadd64 (g : Guard) (d a b _k : Nat) (sub : Bool) (s : State) : Host.Outcome State Fault Refusal :=
  code [.even d, .even a, .even b] g (pairDest d .w64l .w64h) (do
    let x ← readL64 a
    let y ← readL64 b
    putL64 d (if sub then (x : Int) - y else x + y)) s

/-- R193. -/
def execLea (g : Guard) (d a b _k sh : Nat) (s : State) : Host.Outcome State Fault Refusal :=
  code [.even d, .even a, .r b] g (pairDest d .w64l .w64h) (do
    let x ← readAddr a
    let i ← intSrc true b
    putL64 d ((x : Int) + i * 2 ^ sh)) s

/-- R194. -/
def execImin (g : Guard) (d a b _k : Nat) (sg : Bool) (s : State) : Host.Outcome State Fault Refusal :=
  code [.r d, .r a, .r b] g [.reg d (sgTag sg)] (arith d a b sg false fun x y => min x y) s

/-- R194. -/
def execImax (g : Guard) (d a b _k : Nat) (sg : Bool) (s : State) : Host.Outcome State Fault Refusal :=
  code [.r d, .r a, .r b] g [.reg d (sgTag sg)] (arith d a b sg false fun x y => max x y) s

/-- R194: the operand is signed under either form. -/
def execIabs (g : Guard) (d a _k : Nat) (sg : Bool) (s : State) : Host.Outcome State Fault Refusal :=
  code [.r d, .r a] g [.reg d (sgTag sg)] (do
    let x ← intSrc true a
    putWord d (if sg then min (max x (-x)) (2 ^ 31 - 1) else max x (-x)) (sgTag sg)) s

/-- The comparisons of R195. -/
def cmpInt (c : Cmp) (x y : Int) : Bool :=
  match c with
  | .eq => x == y
  | .ne => x != y
  | .lt => decide (x < y)
  | .le => decide (x ≤ y)
  | .gt => decide (y < x)
  | .ge => decide (y ≤ x)

/-- The combinations of R195. -/
def combine (c : Comb) (r q : Bool) : Bool :=
  match c with
  | .none => r
  | .and => r && q
  | .or => r || q
  | .xor => r != q

/-- R195. -/
def execIsetp (g : Guard) (p a b : Nat) (q : PredSrc) (_k : Nat) (cmp : Cmp) (sg : Bool) (comb : Comb) (s : State) :
    Host.Outcome State Fault Refusal :=
  code [.r a, .r b] g [.pred p] (do
    let x ← intSrc sg a
    let y ← intSrc sg b
    let z ← readPred q
    writePred p (combine comb (cmpInt cmp x y) z)
    pure .seq) s

/-- R188: both sources are read. DESIGN CHOICE (log entry 97): an uncorrectable source leaves 0 with tag RAW, be it the chosen one or not. -/
def execSel (g : Guard) (d a b : Nat) (q : PredSrc) (_k : Nat) (s : State) : Host.Outcome State Fault Refusal :=
  code [.r d, .r a, .r b] g [.reg d .raw] (do
    let x ← readReg a .any
    let y ← readReg b .any
    let z ← readPred q
    let w := if z then x else y
    writeReg d w.bits.toNat w.tag
    pure .seq) s

/-- The operation that shifts share (R197). -/
def shift (g : Guard) (d a : Nat) (amt : ShAmt) (tag : Tag) (f : Nat → Nat → Int) (s : State) :
    Host.Outcome State Fault Refusal :=
  code ([.r d, .r a] ++ amtFields amt) g [.reg d tag] (do
    let x ← natSrc a
    let n ← amtValue amt
    putWord d (f x n) tag) s

/-- R197. -/
def execShl (g : Guard) (d a : Nat) (amt : ShAmt) (_k : Nat) (s : State) : Host.Outcome State Fault Refusal :=
  shift g d a amt .raw (fun x n => if 32 ≤ n then 0 else ((x * 2 ^ n : Nat) : Int)) s

/-- R197. -/
def execShr (g : Guard) (d a : Nat) (amt : ShAmt) (_k : Nat) (s : State) : Host.Outcome State Fault Refusal :=
  shift g d a amt .u32 (fun x n => if 32 ≤ n then 0 else ((x / 2 ^ n : Nat) : Int)) s

/-- R197. -/
def execSar (g : Guard) (d a : Nat) (amt : ShAmt) (_k : Nat) (s : State) : Host.Outcome State Fault Refusal :=
  shift g d a amt .s32 (fun x n => sext x 32 / 2 ^ min n 31) s

/-- R197. -/
def execRol (g : Guard) (d a : Nat) (amt : ShAmt) (_k : Nat) (s : State) : Host.Outcome State Fault Refusal :=
  shift g d a amt .raw (fun x n => ((x * 2 ^ (n % 32) % 2 ^ 32 + x / 2 ^ (32 - n % 32) : Nat) : Int)) s

/-- Two-source logic with tag RAW (R198). -/
def logic (g : Guard) (d a b : Nat) (f : Nat → Nat → Nat) (s : State) : Host.Outcome State Fault Refusal :=
  code [.r d, .r a, .r b] g [.reg d .raw] (do
    let x ← natSrc a
    let y ← natSrc b
    putWord d (f x y) .raw) s

/-- R198. -/
def execAnd (g : Guard) (d a b _k : Nat) (s : State) : Host.Outcome State Fault Refusal := logic g d a b Nat.land s
/-- R198. -/
def execOr (g : Guard) (d a b _k : Nat) (s : State) : Host.Outcome State Fault Refusal := logic g d a b Nat.lor s
/-- R198. -/
def execXor (g : Guard) (d a b _k : Nat) (s : State) : Host.Outcome State Fault Refusal := logic g d a b Nat.xor s

/-- The bits of a function table applied bit by bit (R198), over the low `n` bits. -/
def tableBits (fn x y z : Nat) : Nat → Nat
  | 0 => 0
  | n + 1 => tableBits fn x y z n + 2 ^ n * b2n (bit fn (b2n (bit x n) + 2 * b2n (bit y n) + 4 * b2n (bit z n)))

/-- R198. -/
def execBitf (g : Guard) (d a b c _k fn : Nat) (s : State) : Host.Outcome State Fault Refusal :=
  code [.r d, .r a, .r b, .r c] g [.reg d .raw] (do
    let x ← natSrc a
    let y ← natSrc b
    let z ← natSrc c
    putWord d (tableBits fn x y z 32) .raw) s

/-- One source, one result (R199). -/
def unary (g : Guard) (d a : Nat) (tag : Tag) (f : Nat → Nat) (s : State) : Host.Outcome State Fault Refusal :=
  code [.r d, .r a] g [.reg d tag] (do
    let x ← natSrc a
    putWord d (f x) tag) s

/-- R199. -/
def execPopc (g : Guard) (d a _k : Nat) (s : State) : Host.Outcome State Fault Refusal := unary g d a .u32 (popcount 32) s

/-- The number of zero bits above the highest one bit among the low `n`. -/
def leadingZeros : Nat → Nat → Nat
  | 0, _ => 0
  | n + 1, x => if bit x n then 0 else 1 + leadingZeros n x

/-- R199. -/
def execClz (g : Guard) (d a _k : Nat) (s : State) : Host.Outcome State Fault Refusal :=
  unary g d a .u32 (leadingZeros 32) s

/-- The low `n` bits in reverse order. -/
def reverseBits : Nat → Nat → Nat
  | 0, _ => 0
  | n + 1, x => x % 2 * 2 ^ n + reverseBits n (x / 2)

/-- R199. -/
def execBrev (g : Guard) (d a _k : Nat) (s : State) : Host.Outcome State Fault Refusal :=
  unary g d a .raw (reverseBits 32) s

/-- The cut field of R200: its position and its length, 0 when it is empty. -/
def fieldOf (b : Nat) : Nat × Nat :=
  let pos := b % 256
  let len := b / 256 % 256
  if 32 ≤ pos || len == 0 then (0, 0) else (pos, min (pos + len) 32 - pos)

/-- R200. -/
def execBfe (g : Guard) (d a b _k : Nat) (sg : Bool) (s : State) : Host.Outcome State Fault Refusal :=
  code [.r d, .r a, .r b] g [.reg d (sgTag sg)] (do
    let x ← natSrc a
    let y ← natSrc b
    let (pos, n) := fieldOf y
    let f := x / 2 ^ pos % 2 ^ n
    putWord d (if n == 0 then 0 else if sg then sext f n else f) (sgTag sg)) s

/-- R200. -/
def execBfi (g : Guard) (d a b c _k : Nat) (s : State) : Host.Outcome State Fault Refusal :=
  code [.r d, .r a, .r b, .r c] g [.reg d .raw] (do
    let x ← natSrc a
    let y ← natSrc b
    let z ← natSrc c
    let (pos, n) := fieldOf y
    putWord d (if n == 0 then z else setBits z (pos + n - 1) pos x) .raw) s

/-- The bytes of a byte selection (R201): result bytes from `k` up to 3, `prev` the byte below. -/
def selectBytes (src sel : Nat) (sx : Bool) (prev : Nat) : Nat → Nat → Nat
  | 0, _ => 0
  | n + 1, k =>
    let c := sel / 16 ^ k % 16
    let b := if c < 8 then src / 256 ^ c % 256 else if sx && 128 ≤ prev then 255 else 0
    b * 256 ^ k + selectBytes src sel sx b n (k + 1)

/-- R201. -/
def execBsel (g : Guard) (d a b c _k : Nat) (sx : Bool) (s : State) : Host.Outcome State Fault Refusal :=
  code [.r d, .r a, .r b, .r c] g [.reg d .raw] (do
    let x ← natSrc a
    let y ← natSrc b
    let z ← natSrc c
    putWord d (selectBytes (x + 2 ^ 32 * y) z sx 0 4 0) .raw) s

/-- R196. -/
def execPbitf (g : Guard) (p : Nat) (q0 q1 q2 : PredSrc) (_k fn : Nat) (s : State) : Host.Outcome State Fault Refusal :=
  code [] g [.pred p] (do
    let x ← readPred q0
    let y ← readPred q1
    let z ← readPred q2
    writePred p (bit fn (b2n x + 2 * b2n y + 4 * b2n z))
    pure .seq) s

/-- R189: bit 0 is p0, which reads true. -/
def execP2v (g : Guard) (d _k : Nat) (s : State) : Host.Outcome State Fault Refusal :=
  code [.r d] g [.reg d .u32] (do
    let th ← thread
    putWord d (th.preds % 256 / 2 * 2 + 1) .u32) s

/-- R189. -/
def execV2p (g : Guard) (a _k : Nat) (s : State) : Host.Outcome State Fault Refusal :=
  code [.r a] g [.pred 1, .pred 2, .pred 3, .pred 4, .pred 5, .pred 6, .pred 7] (do
    let x ← natSrc a
    modThread fun th => { th with preds := x % 256 / 2 * 2 }
    pure .seq) s

end Sys2Proof.Machine
end

