-- ==== Sys2Proof/Machine/Dispatch.lean ====
section
/-! DEFINITION. The meaning of every instruction of the opcode table, one arm per constructor. -/

namespace Sys2Proof.Machine

open Sys2Proof

def exec (i : Instr) (s : State) : Host.Outcome State Fault Refusal :=
  match i with
  | .nop g => Sys2Proof.Machine.execNop g s
  | .bra g off => Sys2Proof.Machine.execBra g off s
  | .jmp g a => Sys2Proof.Machine.execJmp g a s
  | .call g d off => Sys2Proof.Machine.execCall g d off s
  | .calli g d a => Sys2Proof.Machine.execCalli g d a s
  | .ret g a => Sys2Proof.Machine.execRet g a s
  | .exit g => Sys2Proof.Machine.execExit g s
  | .yield g => Sys2Proof.Machine.execYield g s
  | .sleep g n => Sys2Proof.Machine.execSleep g n s
  | .beat g => Sys2Proof.Machine.execBeat g s
  | .trap g imm => Sys2Proof.Machine.execTrap g imm s
  | .rtt g past => Sys2Proof.Machine.execRtt g past s
  | .bkpt g imm => Sys2Proof.Machine.execBkpt g imm s
  | .mov g d a k => Sys2Proof.Machine.execMov g d a k s
  | .movi g d tag imm => Sys2Proof.Machine.execMovi g d tag imm s
  | .iadd g d a b k sg sat => Sys2Proof.Machine.execIadd g d a b k sg sat s
  | .iaddi g d a ka sg sat imm => Sys2Proof.Machine.execIaddi g d a ka sg sat imm s
  | .isub g d a b k sg sat => Sys2Proof.Machine.execIsub g d a b k sg sat s
  | .imul g d a b k sg => Sys2Proof.Machine.execImul g d a b k sg s
  | .imulh g d a b k sg => Sys2Proof.Machine.execImulh g d a b k sg s
  | .imad g d a b c k sg sat => Sys2Proof.Machine.execImad g d a b c k sg sat s
  | .imadw g d a b c k sg => Sys2Proof.Machine.execImadw g d a b c k sg s
  | .iadd64 g d a b k sub => Sys2Proof.Machine.execIadd64 g d a b k sub s
  | .lea g d a b k sh => Sys2Proof.Machine.execLea g d a b k sh s
  | .imin g d a b k sg => Sys2Proof.Machine.execImin g d a b k sg s
  | .imax g d a b k sg => Sys2Proof.Machine.execImax g d a b k sg s
  | .iabs g d a k sg => Sys2Proof.Machine.execIabs g d a k sg s
  | .isetp g p a b q k cmp sg comb => Sys2Proof.Machine.execIsetp g p a b q k cmp sg comb s
  | .sel g d a b q k => Sys2Proof.Machine.execSel g d a b q k s
  | .shl g d a amt k => Sys2Proof.Machine.execShl g d a amt k s
  | .shr g d a amt k => Sys2Proof.Machine.execShr g d a amt k s
  | .sar g d a amt k => Sys2Proof.Machine.execSar g d a amt k s
  | .rol g d a amt k => Sys2Proof.Machine.execRol g d a amt k s
  | .and g d a b k => Sys2Proof.Machine.execAnd g d a b k s
  | .or g d a b k => Sys2Proof.Machine.execOr g d a b k s
  | .xor g d a b k => Sys2Proof.Machine.execXor g d a b k s
  | .bitf g d a b c k fn => Sys2Proof.Machine.execBitf g d a b c k fn s
  | .popc g d a k => Sys2Proof.Machine.execPopc g d a k s
  | .clz g d a k => Sys2Proof.Machine.execClz g d a k s
  | .brev g d a k => Sys2Proof.Machine.execBrev g d a k s
  | .bfe g d a b k sg => Sys2Proof.Machine.execBfe g d a b k sg s
  | .bfi g d a b c k => Sys2Proof.Machine.execBfi g d a b c k s
  | .bsel g d a b c k sx => Sys2Proof.Machine.execBsel g d a b c k sx s
  | .pbitf g p q0 q1 q2 k fn => Sys2Proof.Machine.execPbitf g p q0 q1 q2 k fn s
  | .p2v g d k => Sys2Proof.Machine.execP2v g d k s
  | .v2p g a k => Sys2Proof.Machine.execV2p g a k s
  | .fadd g d a b k rm mods => Sys2Proof.Machine.execFadd g d a b k rm mods s
  | .fmul g d a b k rm mods => Sys2Proof.Machine.execFmul g d a b k rm mods s
  | .ffma g d a b c k rm mods nc => Sys2Proof.Machine.execFfma g d a b c k rm mods nc s
  | .fmin g d a b k mods => Sys2Proof.Machine.execFmin g d a b k mods s
  | .fmax g d a b k mods => Sys2Proof.Machine.execFmax g d a b k mods s
  | .fsetp g p a b k mods cnd => Sys2Proof.Machine.execFsetp g p a b k mods cnd s
  | .frnd g d a k rm => Sys2Proof.Machine.execFrnd g d a k rm s
  | .frcp g d a k => Sys2Proof.Machine.execFrcp g d a k s
  | .frsq g d a k => Sys2Proof.Machine.execFrsq g d a k s
  | .fsqrt g d a k rm => Sys2Proof.Machine.execFsqrt g d a k rm s
  | .fex2 g d a k => Sys2Proof.Machine.execFex2 g d a k s
  | .flg2 g d a k => Sys2Proof.Machine.execFlg2 g d a k s
  | .fsin g d a k => Sys2Proof.Machine.execFsin g d a k s
  | .fcos g d a k => Sys2Proof.Machine.execFcos g d a k s
  | .fclass g d a k => Sys2Proof.Machine.execFclass g d a k s
  | .hadd2 g d a b k rm h => Sys2Proof.Machine.execHadd2 g d a b k rm h s
  | .hmul2 g d a b k rm h => Sys2Proof.Machine.execHmul2 g d a b k rm h s
  | .hfma2 g d a b c k rm h => Sys2Proof.Machine.execHfma2 g d a b c k rm h s
  | .dot2 g d a b c k rm h => Sys2Proof.Machine.execDot2 g d a b c k rm h s
  | .cvt g d a b k dt rm sat => Sys2Proof.Machine.execCvt g d a b k dt rm sat s
  | .qpack g d a b c k rm n4 => Sys2Proof.Machine.execQpack g d a b c k rm n4 s
  | .qunpk g d a b c k n4 => Sys2Proof.Machine.execQunpk g d a b c k n4 s
  | .tagq g d a k => Sys2Proof.Machine.execTagq g d a k s
  | .tags g d a k tag => Sys2Proof.Machine.execTags g d a k tag s
  | .swadd g d a b cnt sd sa sb => Sys2Proof.Machine.execSwadd g d a b cnt sd sa sb s
  | .swmul g d a b cnt sd sa sb => Sys2Proof.Machine.execSwmul g d a b cnt sd sa sb s
  | .swfma g d a b cnt sd sa sb => Sys2Proof.Machine.execSwfma g d a b cnt sd sa sb s
  | .swmax g d a b cnt sd sa sb => Sys2Proof.Machine.execSwmax g d a b cnt sd sa sb s
  | .swcvt g d a cnt sd sa => Sys2Proof.Machine.execSwcvt g d a cnt sd sa s
  | .swcopy g d a cnt sd sa => Sys2Proof.Machine.execSwcopy g d a cnt sd sa s
  | .swsum g d a cnt sa => Sys2Proof.Machine.execSwsum g d a cnt sa s
  | .swex2 g d a cnt sd sa => Sys2Proof.Machine.execSwex2 g d a cnt sd sa s
  | .ld g d base idx off w acq sc cls => Sys2Proof.Machine.execLd g d base idx off w acq sc cls s
  | .st g d base idx off w rel sc cls => Sys2Proof.Machine.execSt g d base idx off w rel sc cls s
  | .atom g d base idx off op ord sc => Sys2Proof.Machine.execAtom g d base idx off op ord sc s
  | .cas g d base idx off w64 ord sc => Sys2Proof.Machine.execCas g d base idx off w64 ord sc s
  | .red g d base idx off op rel sc => Sys2Proof.Machine.execRed g d base idx off op rel sc s
  | .fence g ord sc => Sys2Proof.Machine.execFence g ord sc s
  | .cinv g all base idx off => Sys2Proof.Machine.execCinv g all base idx off s
  | .cclean g all base idx off => Sys2Proof.Machine.execCclean g all base idx off s
  | .cpa g d base idx off lgw bt cls => Sys2Proof.Machine.execCpa g d base idx off lgw bt cls s
  | .waitb g bt n => Sys2Proof.Machine.execWaitb g bt n s
  | .cpb g d base idx off cls => Sys2Proof.Machine.execCpb g d base idx off cls s
  | .objinit g d a b k => Sys2Proof.Machine.execObjinit g d a b k s
  | .publish g d a k sc => Sys2Proof.Machine.execPublish g d a k sc s
  | .pubst g d a b k sc => Sys2Proof.Machine.execPubst g d a b k sc s
  | .refmk g d a k => Sys2Proof.Machine.execRefmk g d a k s
  | .objst g d a b k => Sys2Proof.Machine.execObjst g d a b k s
  | .reclaim g a k => Sys2Proof.Machine.execReclaim g a k s
  | .bar g bn gs k => Sys2Proof.Machine.execBar g bn gs k s
  | .bara g d bn gs k => Sys2Proof.Machine.execBara g d bn gs k s
  | .barw g a bn gs k => Sys2Proof.Machine.execBarw g a bn gs k s
  | .xbinit g a b k => Sys2Proof.Machine.execXbinit g a b k s
  | .xbarr g d a b k => Sys2Proof.Machine.execXbarr g d a b k s
  | .xbwait g a b k => Sys2Proof.Machine.execXbwait g a b k s
  | .xbtry g p a b k => Sys2Proof.Machine.execXbtry g p a b k s
  | .lxch g d a b k mode kp => Sys2Proof.Machine.execLxch g d a b k mode kp s
  | .pagr g d q k kind => Sys2Proof.Machine.execPagr g d q k kind s
  | .redg g d a k op => Sys2Proof.Machine.execRedg g d a k op s
  | .scang g d a k op excl => Sys2Proof.Machine.execScang g d a k op excl s
  | .cdsend g d a cd n k => Sys2Proof.Machine.execCdsend g d a cd n k s
  | .cdrecv g d a cd k => Sys2Proof.Machine.execCdrecv g d a cd k s
  | .cdpeek g d a cd k => Sys2Proof.Machine.execCdpeek g d a cd k s
  | .cdclose g d cd k => Sys2Proof.Machine.execCdclose g d cd k s
  | .launch g d a b k => Sys2Proof.Machine.execLaunch g d a b k s
  | .qsig g d a b k => Sys2Proof.Machine.execQsig g d a b k s
  | .cbset g a b k => Sys2Proof.Machine.execCbset g a b k s
  | .resample g d a b c k opnd => Sys2Proof.Machine.execResample g d a b c k opnd s
  | .pkill g k => Sys2Proof.Machine.execPkill g k s
  | .pcount g d item k => Sys2Proof.Machine.execPcount g d item k s
  | .grpq g d slot item => Sys2Proof.Machine.execGrpq g d slot item s
  | .thdl g hn a => Sys2Proof.Machine.execThdl g hn a s
  | .tmma g gs cv acc A B f16 => Sys2Proof.Machine.execTmma g gs cv acc A B f16 s
  | .tmmq g gs cv acc A B n4 => Sys2Proof.Machine.execTmmq g gs cv acc A B n4 s
  | .tzero g gs acc src => Sys2Proof.Machine.execTzero g gs acc src s
  | .tcvt g gs acc a b bf => Sys2Proof.Machine.execTcvt g gs acc a b bf s
  | .tstore g gs acc H b => Sys2Proof.Machine.execTstore g gs acc H b s
  | .tscale g gs acc A B => Sys2Proof.Machine.execTscale g gs acc A B s
  | .tflag g gs acc => Sys2Proof.Machine.execTflag g gs acc s
  | .twait g gs acc => Sys2Proof.Machine.execTwait g gs acc s
  | .mfs g d sp => Sys2Proof.Machine.execMfs g d sp s
  | .mts g a ka sp => Sys2Proof.Machine.execMts g a ka sp s
  | .rnd g d w64 => Sys2Proof.Machine.execRnd g d w64 s
  | .spalloc g d a k => Sys2Proof.Machine.execSpalloc g d a k s
  | .spfree g d a k => Sys2Proof.Machine.execSpfree g d a k s
  | .rtouch g d a b k => Sys2Proof.Machine.execRtouch g d a b k s
  | .rclass g d a ka cls life => Sys2Proof.Machine.execRclass g d a ka cls life s
  | .rage g d a k => Sys2Proof.Machine.execRage g d a k s
  | .trace g a b k => Sys2Proof.Machine.execTrace g a b k s
  | .issueGroupFormation core slot => Sys2Proof.Machine.execIssueGroupFormation core slot s
  | .loadDelivery t n => Sys2Proof.Machine.execLoadDelivery t n s
  | .resampleComplete kern => Sys2Proof.Machine.execResampleComplete kern s
  | .conduitRefill cid => Sys2Proof.Machine.execConduitRefill cid s
  | .cpaLanding core n => Sys2Proof.Machine.execCpaLanding core n s
  | .cpbPieceLanding core n => Sys2Proof.Machine.execCpbPieceLanding core n s
  | .tileOpApply iid acc => Sys2Proof.Machine.execTileOpApply iid acc s
  | .brassWalk core => Sys2Proof.Machine.execBrassWalk core s
  | .sideLogReplay gid => Sys2Proof.Machine.execSideLogReplay gid s
  | .columnCacheEviction core line => Sys2Proof.Machine.execColumnCacheEviction core line s
  | .unitAdmission kern => Sys2Proof.Machine.execUnitAdmission kern s
  | .kernelCompletion kern => Sys2Proof.Machine.execKernelCompletion kern s
  | .packetNop q => Sys2Proof.Machine.execPacketNop q s
  | .packetKernel q => Sys2Proof.Machine.execPacketKernel q s
  | .packetSignal q => Sys2Proof.Machine.execPacketSignal q s
  | .packetWait q => Sys2Proof.Machine.execPacketWait q s
  | .waitRecheck q => Sys2Proof.Machine.execWaitRecheck q s
  | .packetDepmap q => Sys2Proof.Machine.execPacketDepmap q s
  | .depmapRecheck kern => Sys2Proof.Machine.execDepmapRecheck kern s
  | .packetInval q => Sys2Proof.Machine.execPacketInval q s
  | .invalCompletion n => Sys2Proof.Machine.execInvalCompletion n s
  | .peerFence n p => Sys2Proof.Machine.execPeerFence n p s
  | .launchFrame port f => Sys2Proof.Machine.execLaunchFrame port f s
  | .define c => Sys2Proof.Machine.execDefine c s
  | .ready c => Sys2Proof.Machine.execReady c s
  | .halt c => Sys2Proof.Machine.execHalt c s
  | .resume c => Sys2Proof.Machine.execResume c s
  | .desched c => Sys2Proof.Machine.execDesched c s
  | .kill c => Sys2Proof.Machine.execKill c s
  | .queueEnable q => Sys2Proof.Machine.execQueueEnable q s
  | .queueDisable q => Sys2Proof.Machine.execQueueDisable q s
  | .notify q w => Sys2Proof.Machine.execNotify q w s
  | .faultRetry c seq => Sys2Proof.Machine.execFaultRetry c seq s
  | .faultFail c seq => Sys2Proof.Machine.execFaultFail c seq s
  | .tagwrWrite w => Sys2Proof.Machine.execTagwrWrite w s
  | .warmReset d => Sys2Proof.Machine.execWarmReset d s
  | .dieFlushing d => Sys2Proof.Machine.execDieFlushing d s
  | .dieResetting d => Sys2Proof.Machine.execDieResetting d s
  | .dieTesting d => Sys2Proof.Machine.execDieTesting d s
  | .dieRetraining d => Sys2Proof.Machine.execDieRetraining d s
  | .dieUp d => Sys2Proof.Machine.execDieUp d s
  | .lmbaseWrite w => Sys2Proof.Machine.execLmbaseWrite w s
  | .debugWrite w => Sys2Proof.Machine.execDebugWrite w s
  | .debugRead => Sys2Proof.Machine.execDebugRead s
  | .breakpointSet c n w => Sys2Proof.Machine.execBreakpointSet c n w s
  | .mcwinWrite n w => Sys2Proof.Machine.execMcwinWrite n w s
  | .portEnable p pmd => Sys2Proof.Machine.execPortEnable p pmd s
  | .portDisable p => Sys2Proof.Machine.execPortDisable p s
  | .routeWrite p w => Sys2Proof.Machine.execRouteWrite p w s
  | .registerWrite acc w => Sys2Proof.Machine.execRegisterWrite acc w s
  | .tick c => Sys2Proof.Machine.execTick c s
  | .rowExpiry gid row => Sys2Proof.Machine.execRowExpiry gid row s
  | .sleepWake t => Sys2Proof.Machine.execSleepWake t s
  | .sliceEnd c => Sys2Proof.Machine.execSliceEnd c s
  | .contextReturn c => Sys2Proof.Machine.execContextReturn c s
  | .watchdogFire kern => Sys2Proof.Machine.execWatchdogFire kern s
  | .budgetFire kern => Sys2Proof.Machine.execBudgetFire kern s
  | .traceSample d => Sys2Proof.Machine.execTraceSample d s
  | .refreshPass core => Sys2Proof.Machine.execRefreshPass core s
  | .heartbeat d => Sys2Proof.Machine.execHeartbeat d s
  | .failsafeEntry d => Sys2Proof.Machine.execFailsafeEntry d s
  | .powerMeasurement watts => Sys2Proof.Machine.execPowerMeasurement watts s
  | .operatingPointStable => Sys2Proof.Machine.execOperatingPointStable s
  | .thermalChange d band => Sys2Proof.Machine.execThermalChange d band s
  | .thermalTrip => Sys2Proof.Machine.execThermalTrip s
  | .bridgeModuleLoss b => Sys2Proof.Machine.execBridgeModuleLoss b s
  | .coldReset fails alt => Sys2Proof.Machine.execColdReset fails alt s
  | .firmwareUpdate image cut => Sys2Proof.Machine.execFirmwareUpdate image cut s
  | .getVersion tr => Sys2Proof.Machine.execGetVersion tr s
  | .getCapabilities tr => Sys2Proof.Machine.execGetCapabilities tr s
  | .negotiateAlgorithms tr => Sys2Proof.Machine.execNegotiateAlgorithms tr s
  | .getDigests tr => Sys2Proof.Machine.execGetDigests tr s
  | .getCertificate tr slot => Sys2Proof.Machine.execGetCertificate tr slot s
  | .challenge tr nonce => Sys2Proof.Machine.execChallenge tr nonce s
  | .getMeasurements tr n => Sys2Proof.Machine.execGetMeasurements tr n s
  | .unsupportedRequest tr req => Sys2Proof.Machine.execUnsupportedRequest tr req s
  | .flitTransmit port => Sys2Proof.Machine.execFlitTransmit port s
  | .flitRead port f => Sys2Proof.Machine.execFlitRead port f s
  | .flitWrite port f => Sys2Proof.Machine.execFlitWrite port f s
  | .flitAtomic port f => Sys2Proof.Machine.execFlitAtomic port f s
  | .flitResponse port f => Sys2Proof.Machine.execFlitResponse port f s
  | .multicastWrite port f => Sys2Proof.Machine.execMulticastWrite port f s
  | .managementFrame port f => Sys2Proof.Machine.execManagementFrame port f s
  | .nak port f => Sys2Proof.Machine.execNak port f s
  | .credits port f => Sys2Proof.Machine.execCredits port f s
  | .endToEndAcknowledgement port f => Sys2Proof.Machine.execEndToEndAcknowledgement port f s
  | .portTrained p far => Sys2Proof.Machine.execPortTrained p far s
  | .portRetrain p => Sys2Proof.Machine.execPortRetrain p s
  | .portTimeout p => Sys2Proof.Machine.execPortTimeout p s
  | .deviceLost p => Sys2Proof.Machine.execDeviceLost p s
  | .hostBar4Read off n => Sys2Proof.Machine.execHostBar4Read off n s
  | .hostBar4Write off data => Sys2Proof.Machine.execHostBar4Write off data s
  | .flitForward port f => Sys2Proof.Machine.execFlitForward port f s
  | .idleFlit port lack => Sys2Proof.Machine.execIdleFlit port lack s
  | .flitCrcFailure port => Sys2Proof.Machine.execFlitCrcFailure port s
  | .phyRestored p => Sys2Proof.Machine.execPhyRestored p s
  | .inboundInval src c va n => Sys2Proof.Machine.execInboundInval src c va n s
  | .hostAtomicop off op w64 v cmpv => Sys2Proof.Machine.execHostAtomicop off op w64 v cmpv s
  | .softError site unc => Sys2Proof.Machine.execSoftError site unc s
  | .scrubbing d => Sys2Proof.Machine.execScrubbing d s

end Sys2Proof.Machine
end

