-- ==== Sys2Proof/Machine/Turn.lean ====
section
/-! DEFINITION. One move of an agent, given what instructions and events do (log entry 3). -/

namespace Sys2Proof.Machine

open Sys2Proof

/-- One move of an agent. -/
def State.move (s : State) (ex : Instr → State → Host.Outcome State Fault Refusal) (a : Agenda) :
    Host.Outcome State Fault Refusal :=
  match a with
  | .event i => ex i s
  | .issue c sl => s.issue ex c sl
  | .elapse n => .next (s.elapse n)
  | .hostReg fn bar2 off n w => .next (s.hostReg fn bar2 off n w)

/-- Whether a move happens while the package is off (R425, R426): only a cold reset. -/
def Agenda.whileOff : Agenda → Bool
  | .event (.coldReset ..) => true
  | _ => false

/-- One step of the machine. -/
def State.stepWith (s : State) (ex : Instr → State → Host.Outcome State Fault Refusal) : Host.Outcome State Fault Refusal :=
  match s.agenda with
  | [] => if s.off then .fault .packageOff else s.move ex s.ownMove
  | a :: rest => if s.off && !a.whileOff then .fault .packageOff else { s with agenda := rest }.move ex a

end Sys2Proof.Machine
end

