-- ==== Sys2Proof/Machine/Wire.lean ====
section
/-! DEFINITION. A flit on the wire (18_link R381, Tables 18.2 and 18.3): its 256 bytes, header, payload and CRC, as one number whose
byte 0 is lowest. -/

namespace Sys2Proof.Machine

open Sys2Proof

/-- The header (Table 18.2); bits [61:0] are zero. -/
def flitHeader (f : Flit) : Nat :=
  2 ^ 62 * f.lack + 2 ^ 74 * f.lseq + 2 ^ 86 * f.vl + 2 ^ 88 * f.ty + 2 ^ 92 * f.ctx + 2 ^ 100 * f.src + 2 ^ 106 * f.dst + 2 ^ 112 * f.eseq

/-- Bytes 0 to 247, which the CRC covers. -/
def flitCovered (f : Flit) : Nat := flitHeader f + 2 ^ 128 * f.payload

/-- The CRC's polynomial (R381). -/
def crcPoly : Nat := 0x42F0E1EBA9EA3693

/-- One bit of the division. -/
def crcBit (c : Nat) : Nat := if 2 ^ 63 ≤ c then Nat.xor (2 * c % 2 ^ 64) crcPoly else 2 * c

/-- One byte, its highest bit first. DESIGN CHOICE (log entry 99): the spec gives the polynomial and the initial value, and neither an order of
the bits nor a final inversion. -/
def crcByte (c b : Nat) : Nat := (List.range 8).foldl (fun c _ => crcBit c) (Nat.xor c (2 ^ 56 * b))

/-- The CRC-64 of the `n` lowest bytes of a number, byte 0 first. -/
def crc64 : Nat → Nat → Nat → Nat
  | 0, _, c => c
  | n + 1, x, c => crc64 n (x / 256) (crcByte c (x % 256))

/-- The CRC of a flit's bytes 0 to 247. -/
def flitCrc (x : Nat) : Nat := crc64 248 x (2 ^ 64 - 1) % 2 ^ 64

/-- The 256 bytes of a flit. -/
def flitImage (f : Flit) : Nat := flitCovered f + 2 ^ 1984 * flitCrc (flitCovered f)

/-- The flit that 256 bytes hold; none when the CRC fails or the type is invalid. -/
def flitOfImage (x : Nat) : Option Flit :=
  let c := x % 2 ^ 1984
  if x / 2 ^ 1984 != flitCrc c || 10 ≤ bits c 91 88 then none
  else some { eseq := bits c 127 112, dst := bits c 111 106, src := bits c 105 100, ctx := bits c 99 92, ty := bits c 91 88, vl := bits c 87 86,
              lseq := bits c 85 74, lack := bits c 73 62, payload := c / 2 ^ 128 }

/-- Whether every field of a flit fits its place, its type being valid. -/
def flitFits (f : Flit) : Bool :=
  decide (f.eseq < 2 ^ 16) && decide (f.dst < 64) && decide (f.src < 64) && decide (f.ctx < 256) && decide (f.ty < 10) && decide (f.vl < 4)
  && decide (f.lseq < 4096) && decide (f.lack < 4096) && decide (f.payload < 2 ^ 1856)

end Sys2Proof.Machine
end

