-- ==== Sys2Proof/Safety.lean ====
section
/-! DEFINITION. The terms in which claims are made: a thread about to run a code instruction, what its register reads give,
what an instruction that completes leaves, and what it leaves alone. -/

namespace Sys2Proof.Machine

open Sys2Proof

/-- Thread `t` issues a code instruction with register fields `fs`, registers `extra` used beyond them and guard `gd`, for the first
time, and nothing keeps it from running: the fields pass R33, the guard holds (R37), no load is pending on a register it names (R155),
and no register it names lies in a row whose metadata is found bad (R242). -/
def State.Runs (s : State) (t : Nat) (fs : List Field) (extra : List Nat) (gd : Guard) : Prop :=
  ∃ c th gg, s.cur = some c ∧ c.t = t ∧ s.threads.find t = some th ∧ s.gangs.find (gidOf t) = some gg ∧
    checkFields gg.nregs fs = none ∧ guardHolds th gd = true ∧ th.pendingOn (fs.flatMap Field.regs ++ extra) = false ∧
    gg.badRow s.curNo (laneOf t) (fs.flatMap Field.regs ++ extra) = none ∧ th.cont = .none ∧ th.opbuf = []

/-- Whether an instruction is one of code, which has a word; the others are steps of the device. -/
def inCode : Instr → Bool
  | .issueGroupFormation .. | .loadDelivery .. | .resampleComplete .. | .conduitRefill .. | .cpaLanding .. | .cpbPieceLanding ..
  | .tileOpApply .. | .brassWalk .. | .sideLogReplay .. | .columnCacheEviction .. | .unitAdmission .. | .kernelCompletion ..
  | .packetNop .. | .packetKernel .. | .packetSignal .. | .packetWait .. | .waitRecheck .. | .packetDepmap .. | .depmapRecheck ..
  | .packetInval .. | .invalCompletion .. | .peerFence .. | .launchFrame .. | .define .. | .ready .. | .halt .. | .resume .. | .desched ..
  | .kill .. | .queueEnable .. | .queueDisable .. | .notify .. | .faultRetry .. | .faultFail .. | .tagwrWrite .. | .warmReset ..
  | .dieFlushing .. | .dieResetting .. | .dieTesting .. | .dieRetraining .. | .dieUp .. | .lmbaseWrite .. | .debugWrite .. | .debugRead ..
  | .breakpointSet .. | .mcwinWrite .. | .portEnable .. | .portDisable .. | .routeWrite .. | .registerWrite .. | .tick .. | .rowExpiry ..
  | .sleepWake .. | .sliceEnd .. | .contextReturn .. | .watchdogFire .. | .budgetFire .. | .traceSample .. | .refreshPass ..
  | .heartbeat .. | .failsafeEntry .. | .powerMeasurement .. | .operatingPointStable .. | .thermalChange .. | .thermalTrip ..
  | .bridgeModuleLoss .. | .coldReset .. | .firmwareUpdate .. | .getVersion .. | .getCapabilities .. | .negotiateAlgorithms ..
  | .getDigests .. | .getCertificate .. | .challenge .. | .getMeasurements .. | .unsupportedRequest .. | .flitTransmit .. | .flitRead ..
  | .flitWrite .. | .flitAtomic .. | .flitResponse .. | .multicastWrite .. | .managementFrame .. | .nak .. | .credits ..
  | .endToEndAcknowledgement .. | .portTrained .. | .portRetrain .. | .portTimeout .. | .deviceLost .. | .hostBar4Read ..
  | .hostBar4Write .. | .flitForward .. | .idleFlit .. | .flitCrcFailure .. | .phyRestored .. | .inboundInval .. | .hostAtomicop ..
  | .softError .. | .scrubbing .. => false
  | _ => true

/-- What a read of register `i` under a tag set gives thread `t` (R6): the word, whether it is the zero of an expired lapsing row,
and whether a mismatch is counted; none when the read stops the instruction, or corrects an error in the word (R242, R401). -/
def State.src (s : State) (t i : Nat) (ts : TagSet) : Option (TWord × Bool × Bool) :=
  if s.softReg t i then none
  else
  match s.gangs.find (gidOf t) with
  | some g =>
    if g.struck s.curNo (laneOf t) i then none
    else
      match regRead g (s.ctx g.ctx).lenient (s.tickOf g.ctx) (laneOf t) i ts with
      | .ok r => some r
      | .error _ => none
  | none => none

/-- What the reads of several registers give, in order: the words, and whether any met a lapse or a counted mismatch. -/
def State.reads (s : State) (t : Nat) : List (Nat × TagSet) → Option (List TWord × Bool × Bool)
  | [] => some ([], false, false)
  | (i, ts) :: rs =>
    match s.src t i ts, s.reads t rs with
    | some (w, z, m), some (ws, z', m') => some (w :: ws, z || z', m || m')
    | _, _ => none

/-- A 32-bit word read signed or unsigned (R190). -/
def intOf (sg : Bool) (x : Word) : Int := if sg then x.toInt else x.toNat

/-- An exact integer fitted to 32 bits (R190): clamped to the range when it saturates, else wrapped. -/
def fitted (sg sat : Bool) (r : Int) : Word :=
  BitVec.ofInt 32 (if sat then (if sg then max (-2147483648) (min r 2147483647) else max 0 (min r 4294967295)) else r)

/-- The 64-bit value of a pair, low word first. -/
def pairOf (l h : Word) : DWord := h ++ l

/-- What a read of the pair at register `i` gives, the low word first; pair v0 reads zero (R179). -/
def State.srcPair (s : State) (t i : Nat) (lo hi : TagSet) : Option (DWord × Bool × Bool) :=
  if i = 0 then some (0, false, false)
  else
    match s.reads t [(i, lo), (i + 1, hi)] with
    | some ([l, h], z, m) => some (pairOf l.bits h.bits, z, m)
    | _ => none

/-- The state of an instruction of `t` that has read registers: operand buffer `B`, lapse `z`, mismatch `m` (R6). -/
def State.reading (s : State) (t : Nat) (B : AMap TWord) (z m : Bool) : State :=
  s.updThread t fun th => { th with opbuf := B, pendLapf := th.pendLapf || z, pendMis := th.pendMis || m }

/-- The two words of a 64-bit result with their tags. -/
def loWord (r : DWord) (tag : Tag) : TWord := ⟨r.setWidth 32, tag⟩
def hiWord (r : DWord) (tag : Tag) : TWord := ⟨(r >>> 32).setWidth 32, tag⟩

/-- The state in which the running instruction of `t` has met a lapse `z`, a mismatch `m` and float flags `f` that take effect when
it completes (R6, R67, R69). -/
def State.noted (s : State) (t : Nat) (z m : Bool) (f : Nat) : State :=
  s.updThread t fun th => { th with pendLapf := th.pendLapf || z, pendMis := th.pendMis || m, pendFst := orf th.pendFst f }

/-- The instruction of `t` completes and the thread goes on in its execution order. -/
def State.done (s : State) (t : Nat) : State := (s.commit t).advance t

/-- What an instruction of `t` with one register result leaves: word `w` in register `d`, and completion. -/
def State.result (s : State) (t d : Nat) (w : TWord) (z m : Bool) (f : Nat) : State := ((s.noted t z m f).writeReg t d w).done t

/-- The same with a pair of registers; pair v0 discards both words (R180). -/
def State.resultPair (s : State) (t d : Nat) (l h : TWord) (z m : Bool) (f : Nat) : State :=
  (if d = 0 then s.noted t z m f else ((s.noted t z m f).writeReg t d l).writeReg t (d + 1) h).done t

/-- What an instruction of `t` with a 64-bit integer result leaves: tags W64L and W64H (R180). -/
def State.resultL64 (s : State) (t d : Nat) (r : DWord) (z m : Bool) (f : Nat) : State :=
  s.resultPair t d (loWord r .w64l) (hiWord r .w64h) z m f

/-- Words written to consecutive registers of `t`, from `i` upward. -/
def State.writeRun (s : State) (t i : Nat) : List TWord → State
  | [] => s
  | w :: ws => (s.writeReg t i w).writeRun t (i + 1) ws

/-- What an instruction of `t` leaves that writes a run of registers. -/
def State.resultRun (s : State) (t d : Nat) (ws : List TWord) (z m : Bool) (f : Nat) : State :=
  ((s.noted t z m f).writeRun t d ws).done t

/-- Registers `i` to `i + n - 1` lie in the allotment of `t` (R218, R272). -/
def State.inRange (s : State) (t i n : Nat) : Prop :=
  ∃ g, s.gangs.find (gidOf t) = some g ∧ i + (n - 1) ≤ min g.nregs 511

/-- The same with predicates: `g` gives the new predicate bits. -/
def State.resultPreds (s : State) (t : Nat) (g : Nat → Nat) (z m : Bool) (f : Nat) : State :=
  ((s.noted t z m f).updThread t fun th => { th with preds := g th.preds }).done t

/-- The new predicate bits when predicate `p` receives `b`; p0 discards the write (R183). -/
def predWrite (p : Nat) (b : Bool) (ps : Nat) : Nat := if p = 0 then ps else setBit ps p b

/-- The instruction of `t` completes and its clause ends: the thread goes on at the header after it (R30, R41). -/
def State.ended (s : State) (t : Nat) (th : Thread) : State :=
  (s.commit t).endClauseAt t (match th.clause with | some c => c.next | none => th.pc + 8)

/-- The instruction of `t` completes and transfers control to the header at `n` (R41, R161). -/
def State.jumped (s : State) (t n : Nat) : State := (s.commit t).endClauseAt t n

/-- A transfer of `t` to code offset `n` passes the checks of R41: in range, aligned, inside the code, and the word fetched there is a
header; the fetch needs no change of the translations' state. -/
def State.headerAt (s : State) (t n : Nat) : Prop :=
  n ≤ 4294967288 ∧ n % 8 = 0 ∧ ∀ B z m, ∃ w, fetchWord n (s.reading t B z m) = .ok (w, true) (s.reading t B z m)

/-- A transfer of `t` to the computed target `T` fails a check of R41: outside the offsets, not aligned, at or above the code's length, or
at a word that carries no header mark. -/
def State.noHeaderAt (s : State) (t : Nat) (T : Int) : Prop :=
  T < 0 ∨ 4294967288 < T ∨ T % 8 ≠ 0 ∨ ∃ n : Nat, T = n ∧
    ((∃ th g k, s.threads.find t = some th ∧ s.gangs.find (gidOf t) = some g ∧ s.kernels.find g.kern = some k ∧ th.fbuf.find n = none ∧
        k.desc.clen ≤ n) ∨
      ∀ B z m, ∃ w, fetchWord n (s.reading t B z m) = .ok (w, false) (s.reading t B z m))

/-- An access of `t` to `n` bytes at `va`, aligned to `al`, in the scratch or stack aperture passes its checks and lies in home `h` at
offset `off` (R7, R249, R250). -/
def State.rowAt (s : State) (t va n al : Nat) (h : Home) (off : Nat) : Prop :=
  ∀ B z m, rowPlace va n al (s.reading t B z m) = .ok (h, off) (s.reading t B z m)

/-- An operation that the running instruction of `t` performs, once it has read its registers meeting lapse `z` and mismatch `m`, answers
`r` and leaves `S`; `S` still has the thread. -/
def State.Answers {α : Type} (s S : State) (t : Nat) (z m : Bool) (op : M α) (r : α) : Prop :=
  S.cur = s.cur ∧ S.threads.find t = s.threads.find t ∧ ∀ B, op (s.reading t B z m) = .ok r (S.reading t B z m)

/-- The registers that hold `n` bytes of data from register `d` (R273); pair v0 reads as zero (R179). -/
def dataRegs (d n : Nat) : List (Nat × TagSet) :=
  if n = 16 then [(d, .any), (d + 1, .any), (d + 2, .any), (d + 3, .any)]
  else if n = 8 then (if d = 0 then [] else [(d, .any), (d + 1, .any)])
  else [(d, .any)]

/-- The registers of an atomic's operand (Table 12.6). -/
def atomRegs (op : AtomOp) (i : Nat) : List (Nat × TagSet) :=
  match op with
  | .add64 => if i = 0 then [] else [(i, .lo64), (i + 1, .hi64)]
  | .exch64 => if i = 0 then [] else [(i, .any), (i + 1, .any)]
  | .exch => [(i, .any)]
  | .fadd => [(i, .f32)]
  | _ => [(i, .int)]

/-- The effective address of form M (Table 12.5). -/
def addressOf (base : DWord) (idx : Word) (off : Int) : Nat := ((base.toNat + idx.toInt + off) % 18446744073709551616).toNat

/-- What a load, or an atomic that answers, leaves (R155): from global memory the words are outstanding; from the operand store they
are written at once. -/
def State.loaded (s : State) (t : Nat) (ws : List (Nat × TWord)) (gl z m : Bool) : State :=
  (if gl then (s.noted t z m 0).updThread t fun y => { y with loads := y.loads ++ [⟨ws.filter fun e => e.1 != 0⟩] }
   else (s.noted t z m 0).writeRegs t ws).done t

/-- Nothing of thread `t` is outstanding: no copy, no load, no fault still to report (R164, R281, R374). -/
def Thread.Quiet (th : Thread) : Prop :=
  (∀ n ∈ th.bt, n = 0) ∧ th.loads = [] ∧ th.copyFaults = [] ∧ th.slFail = none

/-- The stored word of register `i` of thread `t`, whatever a read would make of its row. -/
def State.storedWord (s : State) (t i : Nat) : TWord :=
  match s.gangs.find (gidOf t) with
  | some g => if i = 0 then TWord.zero else (g.regs.row (i - 1)).word (laneOf t)
  | none => TWord.zero

/-- What a thread keeps whatever instruction of the register families it completes: the special registers but for `fst`, `lapf`,
`rpt` (Table 8.1). -/
def Thread.SameSpecials (x y : Thread) : Prop :=
  y.swpAct = x.swpAct ∧ y.swpIter = x.swpIter ∧ y.cdep = x.cdep ∧ y.rndc = x.rndc ∧ y.fmode = x.fmode ∧ y.inh = x.inh ∧
    y.tcode = x.tcode ∧ y.tpc = x.tpc ∧ y.tval = x.tval ∧ y.tmask = x.tmask ∧ y.tvec = x.tvec ∧ y.lin = x.lin ∧ y.par = x.par ∧
    y.gen = x.gen ∧ y.bt = x.bt

/-- What a clone has of its parent's thread (R356): its predicates and the specials that are copied, but for `rpt`. -/
def Thread.SameImage (x y : Thread) : Prop :=
  y.preds = x.preds ∧ y.rndc = x.rndc ∧ y.cdep = x.cdep ∧ y.swpAct = x.swpAct ∧ y.swpIter = x.swpIter ∧ y.fst = x.fst ∧
    y.fmode = x.fmode ∧ y.lapf = x.lapf ∧ y.inh = x.inh ∧ y.tcode = x.tcode ∧ y.tpc = x.tpc ∧ y.tval = x.tval ∧ y.tmask = x.tmask ∧
    y.tvec = x.tvec

/-- Where a gang stands in the search for a lane for a clone of thread `p` (R355): the own gang, the own core, then the dies in turn. -/
def searchRank (p g : Nat) : Nat :=
  if g = gidOf p then 0
  else if coreOfGid g = coreOf p then 1
  else 2 + (dieOfCore (coreOfGid g) + 4 - dieOfCore (coreOf p)) % 4

/-- The frame of an instruction of `t` that completed: at most registers `rs` of `t` hold new words; no other thread changes; the
thread keeps its special registers; its flags are those it had and `f`; the stored words of scratch and stack stand; and, when no
mismatch was counted, so does every byte of memory. -/
def State.Frame (s s' : State) (t : Nat) (rs : List Nat) (z m : Bool) (f : Nat) : Prop :=
  (∀ u i, ¬(u = t ∧ i ∈ rs) → s'.storedWord u i = s.storedWord u i) ∧
  (∀ u, u ≠ t → s'.threads.find u = s.threads.find u) ∧
  (∀ th, s.threads.find t = some th → ∃ th', s'.threads.find t = some th' ∧ th.SameSpecials th' ∧
    th'.fst = orf th.fst (orf th.pendFst f) ∧ th'.lapf = (th.lapf || (th.pendLapf || z)) ∧ th'.loads = th.loads) ∧
  (∀ g x, s.gangs.find g = some x → ∃ y, s'.gangs.find g = some y ∧ y.scratch = x.scratch ∧ y.stack = x.stack ∧ y.handles = x.handles ∧
    y.slog = x.slog) ∧
  ((∀ th, s.threads.find t = some th → (th.pendMis || m) = false) → ∀ a, Memory.get s'.mem a = Memory.get s.mem a)

/-- The instruction of `t` issues again after a wait, its guard being `on`; what it waited for has given it `c`. -/
def State.Resumes (s : State) (t : Nat) (fs : List Field) (extra : List Nat) (gd : Guard) (on : Bool) (c : Cont) : Prop :=
  ∃ k th gg, s.cur = some k ∧ k.t = t ∧ s.threads.find t = some th ∧ s.gangs.find (gidOf t) = some gg ∧
    checkFields gg.nregs fs = none ∧ guardHolds th gd = on ∧ (on = true → th.pendingOn (fs.flatMap Field.regs ++ extra) = false ∧
    gg.badRow s.curNo (laneOf t) (fs.flatMap Field.regs ++ extra) = none) ∧ th.cont = c

/-- What a running instruction may already have put in its thread: read words, what a wait gave it (no failed fetch that was not there,
R25), a lapse, a mismatch, float flags. -/
def Noting (f : Thread → Thread) : Prop :=
  ∀ y, ∃ B c z m n, f y = { y with opbuf := B, cont := c, pendLapf := z, pendMis := m, pendFst := n } ∧
    ∀ a v, c = .ffail a v → y.cont = .ffail a v

/-- An operation of the running instruction of `t` answers `r` and leaves `S`, whatever the thread has already read or noted, and sets
the lapse flag to be if `z`. -/
def State.Turns {α : Type} (s S : State) (t : Nat) (op : M α) (r : α) (z : Bool) : Prop :=
  S.cur = s.cur ∧ S.threads = s.threads ∧
    ∀ f : Thread → Thread, Noting f → op (s.updThread t f) = .ok r (S.updThread t fun y => if z then { f y with pendLapf := true } else f y)

/-- An operation that answers `r` and changes nothing. -/
def State.Gives {α : Type} (s : State) (t : Nat) (op : M α) (r : α) : Prop := s.Turns s t op r false

/-- The gang of thread `t` has `i` as the instance of its group slot `gs`, whose state is `x`. -/
def State.InSlot (s : State) (t gs i : Nat) (x : GInst) : Prop :=
  ∃ g, s.gangs.find (gidOf t) = some g ∧ g.grp.getD gs none = some i ∧ s.insts.find i = some x

/-- One iteration of a sweep: where D lies, the allocation it lies in, the words of A, B and D, and whether a row it reads or writes has
lapsed. -/
structure SweepStep where
  h : Home
  off : Nat
  addr : Nat
  al : Alloc
  x : Nat
  y : Nat
  w : Nat
  z : Bool

/-- The iteration at addresses `da`, `aa`, `ba` passes its checks (R225, R226, R237) and reads what `q` says: `dn` bytes at D, read too if
`rD`; B only if `uB`. -/
def State.SweepAt (s : State) (t dn : Nat) (rD uB : Bool) (da aa ba tick : Nat) (q : SweepStep) : Prop :=
  q.addr = da ∧ s.Gives t (sweepPlace da dn) (q.h, q.off) ∧ s.Gives t (checkBrk da dn rD true) ⟨⟩ ∧ s.allocAt q.h = some q.al ∧
  (let ps := placesIn q.h (laneOf t) q.off dn
   let part := partialPlaces q.h q.off dn ps
   q.al.struckAt s.curNo ps = none ∧ rowWriteStop q.al tick da ps part = none ∧
   ∃ ah ao bh bo zx zy zw,
     s.Gives t (sweepPlace aa 32) (ah, ao) ∧ s.Gives t (checkBrk aa 32 true false) ⟨⟩ ∧ s.Turns s t (readRow ah ao 32 aa) q.x zx ∧
     (uB = true → s.Gives t (sweepPlace ba 32) (bh, bo) ∧ s.Gives t (checkBrk ba 32 true false) ⟨⟩ ∧
       s.Turns s t (readRow bh bo 32 ba) q.y zy) ∧
     (uB = false → zy = false) ∧ (rD = true → s.Turns s t (readRow q.h q.off dn da) q.w zw) ∧ (rD = false → zw = false) ∧
     q.z = (zx || zy || zw || (scanPlaces q.al tick part 0).lapse))

/-- What iteration `i` of a sweep of `cnt` leaves (R226): D written, its flags noted; then the next issue at the same instruction, its
operands `B` kept, or completion with `swp` inactive. -/
def State.swept (s : State) (t dn tick i cnt : Nat) (B : AMap TWord) (z m : Bool) (q : SweepStep) (r : FRes) : State :=
  let go := decide (i + 1 < cnt)
  let S := ((s.reading t B (z || q.z) m).updThread t fun y =>
    { y with pendFst := orf y.pendFst r.2, swpAct := go, swpIter := if go then i + 1 else 0 }).setAllocAt q.h
      (writePlaces q.al tick (placesIn q.h (laneOf t) q.off dn) (leBytes dn r.1) [])
  if go then S.again t else S.done t

/-- What core `c` reads at byte `a` of local memory (R254, R256): its own copy where that is valid, else what the home holds. -/
def State.viewByte (s : State) (c a : Nat) : Nat :=
  match (s.core c).cache.find (a / 128) with
  | some l => if bit l.valid (a % 128) then l.data / 256 ^ (a % 128) % 256 else s.phys 1 a
  | none => s.phys 1 a

end Sys2Proof.Machine
end

