-- ==== Sys2Proof/WellFormed.lean ====
section
/-! DEFINITION. Which instructions are well formed: the values that the encoding tables admit in each field (R38,
R42, R45 and the owning chapters), and for the device's steps the identifier ranges of Table 1.4. -/

namespace Sys2Proof

/-- A 9-bit register field (R38). -/
def reg (n : Nat) : Bool := n < 512

/-- A signed 24-bit field (R40). -/
def off24 (i : Int) : Bool := -2 ^ 23 ≤ i && i < 2 ^ 23

/-- A signed 12-bit field (Table 2.8). -/
def off12 (i : Int) : Bool := -2048 ≤ i && i < 2048

def Guard.wf (g : Guard) : Bool := g.p < 8
def PredSrc.wf (q : PredSrc) : Bool := q.p < 8
def ShAmt.wf : ShAmt → Bool | .reg b => b < 512 | .imm n => n < 32
def TOpnd.wf : TOpnd → Bool | .reg i => i < 512 | .hnd n => n < 8
def Transport.wf : Transport → Bool | .doe => true | .daxlink src => src < 64

/-- The tags that MOVI, CVT and TAGS may name (R187, R216, R222). -/
def Tag.nameable : Tag → Bool | .refl => false | .refh => false | _ => true

/-- The fields CVT fixes for a bit copy, and where `.sat` may stand (R216). -/
def cvtShape (b : Nat) (dt : Tag) (rm : Rm) (sat : Bool) : Bool :=
  let copy := dt == .raw || dt == .q8 || dt == .q4 || dt == .w64l || dt == .w64h || dt == .scl || dt == .hnd
  (dt == .bf2 || dt == .h2 || b == 0) && (!copy || rm == .ne) && (!sat || dt == .u32 || dt == .s32)

/-- The operand of TZERO: none for the clear; v0 without a source bit is the clear (R341). -/
def tzeroSrc : Option TOpnd → Bool
  | none => true
  | some x => x.wf && x != .reg 0

/-- A flit's header fields lie in Table 18.2's widths. -/
def Flit.wf (f : Flit) : Bool :=
  f.eseq < 2 ^ 16 && f.dst < 64 && f.src < 64 && f.ctx < 256 && f.ty < 16 && f.vl < 4 && f.lseq < 4096 &&
    f.lack < 4096 && f.payload < 2 ^ 1856

/-- Well-formed instructions. -/
def Instr.wf : Instr → Bool
  | .nop g => g.wf
  | .bra g off => g.wf && off24 off
  | .jmp g a => g.wf && reg a
  | .call g d off => g.wf && reg d && off24 off
  | .calli g d a => g.wf && reg d && reg a
  | .ret g a => g.wf && reg a
  | .exit g => g.wf
  | .yield g => g.wf
  | .sleep g n => g.wf && n < 2 ^ 24
  | .beat g => g.wf
  | .trap g imm => g.wf && imm < 2 ^ 32
  | .rtt g _ => g.wf
  | .bkpt g imm => g.wf && imm < 2 ^ 32
  | .mov g d a k => g.wf && reg d && reg a && k < 4
  | .movi g d tag imm => g.wf && reg d && tag.nameable && imm < 2 ^ 32
  | .iadd g d a b k _ _ => g.wf && reg d && reg a && reg b && k < 4
  | .iaddi g d a _ _ _ imm => g.wf && reg d && reg a && off24 imm
  | .isub g d a b k _ _ => g.wf && reg d && reg a && reg b && k < 4
  | .imul g d a b k _ => g.wf && reg d && reg a && reg b && k < 4
  | .imulh g d a b k _ => g.wf && reg d && reg a && reg b && k < 4
  | .imad g d a b c k _ _ => g.wf && reg d && reg a && reg b && reg c && k < 4
  | .imadw g d a b c k _ => g.wf && reg d && reg a && reg b && reg c && k < 4
  | .iadd64 g d a b k _ => g.wf && reg d && reg a && reg b && k < 4
  | .lea g d a b k sh => g.wf && reg d && reg a && reg b && k < 4 && sh < 8
  | .imin g d a b k _ => g.wf && reg d && reg a && reg b && k < 4
  | .imax g d a b k _ => g.wf && reg d && reg a && reg b && k < 4
  | .iabs g d a k _ => g.wf && reg d && reg a && k < 4
  | .isetp g p a b q k _ _ comb => g.wf && p < 8 && reg a && reg b && q.wf && k < 4 && (comb != .none || (q.p == 0 && !q.neg))
  | .sel g d a b q k => g.wf && reg d && reg a && reg b && q.wf && k < 4
  | .shl g d a amt k => g.wf && reg d && reg a && amt.wf && k < 4
  | .shr g d a amt k => g.wf && reg d && reg a && amt.wf && k < 4
  | .sar g d a amt k => g.wf && reg d && reg a && amt.wf && k < 4
  | .rol g d a amt k => g.wf && reg d && reg a && amt.wf && k < 4
  | .and g d a b k => g.wf && reg d && reg a && reg b && k < 4
  | .or g d a b k => g.wf && reg d && reg a && reg b && k < 4
  | .xor g d a b k => g.wf && reg d && reg a && reg b && k < 4
  | .bitf g d a b c k fn => g.wf && reg d && reg a && reg b && reg c && k < 4 && fn < 256
  | .popc g d a k => g.wf && reg d && reg a && k < 4
  | .clz g d a k => g.wf && reg d && reg a && k < 4
  | .brev g d a k => g.wf && reg d && reg a && k < 4
  | .bfe g d a b k _ => g.wf && reg d && reg a && reg b && k < 4
  | .bfi g d a b c k => g.wf && reg d && reg a && reg b && reg c && k < 4
  | .bsel g d a b c k _ => g.wf && reg d && reg a && reg b && reg c && k < 4
  | .pbitf g p q0 q1 q2 k fn => g.wf && p < 8 && q0.wf && q1.wf && q2.wf && k < 4 && fn < 256
  | .p2v g d k => g.wf && reg d && k < 4
  | .v2p g a k => g.wf && reg a && k < 4
  | .fadd g d a b k _ _ => g.wf && reg d && reg a && reg b && k < 4
  | .fmul g d a b k _ _ => g.wf && reg d && reg a && reg b && k < 4
  | .ffma g d a b c k _ _ _ => g.wf && reg d && reg a && reg b && reg c && k < 4
  | .fmin g d a b k _ => g.wf && reg d && reg a && reg b && k < 4
  | .fmax g d a b k _ => g.wf && reg d && reg a && reg b && k < 4
  | .fsetp g p a b k _ _ => g.wf && p < 8 && reg a && reg b && k < 4
  | .frnd g d a k _ => g.wf && reg d && reg a && k < 4
  | .frcp g d a k => g.wf && reg d && reg a && k < 4
  | .frsq g d a k => g.wf && reg d && reg a && k < 4
  | .fsqrt g d a k _ => g.wf && reg d && reg a && k < 4
  | .fex2 g d a k => g.wf && reg d && reg a && k < 4
  | .flg2 g d a k => g.wf && reg d && reg a && k < 4
  | .fsin g d a k => g.wf && reg d && reg a && k < 4
  | .fcos g d a k => g.wf && reg d && reg a && k < 4
  | .fclass g d a k => g.wf && reg d && reg a && k < 4
  | .hadd2 g d a b k _ _ => g.wf && reg d && reg a && reg b && k < 4
  | .hmul2 g d a b k _ _ => g.wf && reg d && reg a && reg b && k < 4
  | .hfma2 g d a b c k _ _ => g.wf && reg d && reg a && reg b && reg c && k < 4
  | .dot2 g d a b c k _ _ => g.wf && reg d && reg a && reg b && reg c && k < 4
  | .cvt g d a b k dt rm sat => g.wf && reg d && reg a && reg b && k < 4 && dt.nameable && cvtShape b dt rm sat
  | .qpack g d a b c k _ _ => g.wf && reg d && reg a && reg b && reg c && k < 4
  | .qunpk g d a b c k _ => g.wf && reg d && reg a && reg b && reg c && k < 4
  | .tagq g d a k => g.wf && reg d && reg a && k < 4
  | .tags g d a k tag => g.wf && reg d && reg a && k < 4 && tag.nameable
  | .swadd g d a b cnt sd sa sb => g.wf && reg d && reg a && reg b && cnt < 4096 && sd < 8 && sa < 8 && sb < 8
  | .swmul g d a b cnt sd sa sb => g.wf && reg d && reg a && reg b && cnt < 4096 && sd < 8 && sa < 8 && sb < 8
  | .swfma g d a b cnt sd sa sb => g.wf && reg d && reg a && reg b && cnt < 4096 && sd < 8 && sa < 8 && sb < 8
  | .swmax g d a b cnt sd sa sb => g.wf && reg d && reg a && reg b && cnt < 4096 && sd < 8 && sa < 8 && sb < 8
  | .swcvt g d a cnt sd sa => g.wf && reg d && reg a && cnt < 4096 && sd < 8 && sa < 8
  | .swcopy g d a cnt sd sa => g.wf && reg d && reg a && cnt < 4096 && sd < 8 && sa < 8
  | .swsum g d a cnt sa => g.wf && reg d && reg a && cnt < 4096 && sa < 8
  | .swex2 g d a cnt sd sa => g.wf && reg d && reg a && cnt < 4096 && sd < 8 && sa < 8
  | .ld g d base idx off _ acq sc _ => g.wf && reg d && reg base && reg idx && off12 off && sc < 5 && (acq || sc == 0)
  | .st g d base idx off _ rel sc _ => g.wf && reg d && reg base && reg idx && off12 off && sc < 5 && (rel || sc == 0)
  | .atom g d base idx off _ _ sc => g.wf && reg d && reg base && reg idx && off12 off && 0 < sc && sc < 5
  | .cas g d base idx off _ _ sc => g.wf && reg d && reg base && reg idx && off12 off && 0 < sc && sc < 5
  | .red g d base idx off op _ sc => g.wf && reg d && reg base && reg idx && off12 off && 0 < sc && sc < 5 && op != .exch && op != .exch64
  | .fence g _ sc => g.wf && sc < 5
  | .cinv g all base idx off => g.wf && reg base && reg idx && off12 off && (!all || (base == 0 && idx == 0 && off == 0))
  | .cclean g all base idx off => g.wf && reg base && reg idx && off12 off && (!all || (base == 0 && idx == 0 && off == 0))
  | .cpa g d base idx off lgw bt _ => g.wf && reg d && reg base && reg idx && lgw < 4 && bt < 4 && off12 off
  | .waitb g bt n => g.wf && bt < 4 && n < 2 ^ 24
  | .cpb g d base idx off _ => g.wf && reg d && reg base && reg idx && off12 off
  | .objinit g d a b k => g.wf && reg d && reg a && reg b && k < 4
  | .publish g d a k sc => g.wf && reg d && reg a && k < 4 && 0 < sc && sc < 5
  | .pubst g d a b k sc => g.wf && reg d && reg a && reg b && k < 4 && 0 < sc && sc < 5
  | .refmk g d a k => g.wf && reg d && reg a && k < 4
  | .objst g d a b k => g.wf && reg d && reg a && reg b && k < 4
  | .reclaim g a k => g.wf && reg a && k < 4
  | .bar g bn gs k => g.wf && bn < 4 && gs < 4 && k < 4
  | .bara g d bn gs k => g.wf && reg d && bn < 4 && gs < 4 && k < 4
  | .barw g a bn gs k => g.wf && reg a && bn < 4 && gs < 4 && k < 4
  | .xbinit g a b k => g.wf && reg a && reg b && k < 4
  | .xbarr g d a b k => g.wf && reg d && reg a && reg b && k < 4
  | .xbwait g a b k => g.wf && reg a && reg b && k < 4
  | .xbtry g p a b k => g.wf && p < 8 && reg a && reg b && k < 4
  | .lxch g d a b k mode _ => g.wf && reg d && reg a && reg b && k < 4 && (mode != .low || b == 0)
  | .pagr g d q k kind => g.wf && reg d && q.wf && k < 4 && (kind == .mask || kind == .count || d < 8)
  | .redg g d a k _ => g.wf && reg d && reg a && k < 4
  | .scang g d a k _ _ => g.wf && reg d && reg a && k < 4
  | .cdsend g d a cd n k => g.wf && reg d && reg a && cd < 64 && k < 4 && 0 < n && n < 9
  | .cdrecv g d a cd k => g.wf && reg d && reg a && cd < 64 && k < 4
  | .cdpeek g d a cd k => g.wf && reg d && reg a && cd < 64 && k < 4
  | .cdclose g d cd k => g.wf && reg d && cd < 64 && k < 4
  | .launch g d a b k => g.wf && reg d && reg a && reg b && k < 4
  | .qsig g d a b k => g.wf && reg d && reg a && reg b && k < 4
  | .cbset g a b k => g.wf && reg a && reg b && k < 4
  | .resample g d a b c k opnd => g.wf && reg d && reg a && reg b && reg c && k < 4 && (opnd || c == 0)
  | .pkill g k => g.wf && k < 4
  | .pcount g d item k => g.wf && reg d && k < 4 && item < 7
  | .grpq g d slot item => g.wf && reg d && slot < 4 && item < 7
  | .thdl g hn a => g.wf && hn < 8 && reg a
  | .tmma g gs cv acc A B _ => g.wf && gs < 4 && cv < 16 && acc < 16 && A.wf && B.wf
  | .tmmq g gs cv acc A B _ => g.wf && gs < 4 && cv < 16 && acc < 16 && A.wf && B.wf
  | .tzero g gs acc src => g.wf && gs < 4 && acc < 16 && tzeroSrc src
  | .tcvt g gs acc a b _ => g.wf && gs < 4 && acc < 16 && reg a && reg b
  | .tstore g gs acc H b => g.wf && gs < 4 && acc < 16 && H.wf && reg b
  | .tscale g gs acc A B => g.wf && gs < 4 && acc < 16 && A.wf && B.wf
  | .tflag g gs acc => g.wf && gs < 4 && acc < 16
  | .twait g gs acc => g.wf && gs < 4 && acc < 16
  | .mfs g d _ => g.wf && reg d
  | .mts g a _ _ => g.wf && reg a
  | .rnd g d _ => g.wf && reg d
  | .spalloc g d a k => g.wf && reg d && reg a && k < 4
  | .spfree g d a k => g.wf && reg d && reg a && k < 4
  | .rtouch g d a b k => g.wf && reg d && reg a && reg b && k < 4
  | .rclass g d a _ cls life => g.wf && reg d && reg a && life < 256 && ((cls == .refreshed) == (life == 0))
  | .rage g d a k => g.wf && reg d && reg a && k < 4
  | .trace g a b k => g.wf && reg a && reg b && k < 4
  | .issueGroupFormation core slot => core < 384 && slot < 5
  | .loadDelivery t _ => t < 384 * 16384
  | .resampleComplete _ => true
  | .conduitRefill _ => true
  | .cpaLanding core _ => core < 384
  | .cpbPieceLanding core _ => core < 384
  | .tileOpApply _ acc => acc < 16
  | .brassWalk core => core < 384
  | .sideLogReplay gid => gid < 384 * 512
  | .columnCacheEviction core _ => core < 384
  | .unitAdmission _ => true
  | .kernelCompletion _ => true
  | .packetNop q => q < 1024
  | .packetKernel q => q < 1024
  | .packetSignal q => q < 1024
  | .packetWait q => q < 1024
  | .waitRecheck q => q < 1024
  | .packetDepmap q => q < 1024
  | .depmapRecheck _ => true
  | .packetInval q => q < 1024
  | .invalCompletion _ => true
  | .peerFence _ p => p < 64
  | .launchFrame port f => port < 16 && f.wf
  | .define c => c < 256
  | .ready c => c < 256
  | .halt c => c < 256
  | .resume c => c < 256
  | .desched c => c < 256
  | .kill c => c < 256
  | .queueEnable q => q < 1024
  | .queueDisable q => q < 1024
  | .notify q w => q < 1024 && w < 2 ^ 64
  | .faultRetry c seq => c < 256 && seq < 2 ^ 32
  | .faultFail c seq => c < 256 && seq < 2 ^ 32
  | .tagwrWrite w => w < 2 ^ 64
  | .warmReset d => d < 4
  | .dieFlushing d => d < 4
  | .dieResetting d => d < 4
  | .dieTesting d => d < 4
  | .dieRetraining d => d < 4
  | .dieUp d => d < 4
  | .lmbaseWrite w => w < 2 ^ 64
  | .debugWrite w => w < 2 ^ 64
  | .debugRead => true
  | .breakpointSet c n w => c < 256 && n < 16 && w < 2 ^ 64
  | .mcwinWrite n w => n < 32 && w < 2 ^ 64
  | .portEnable p _ => p < 16
  | .portDisable p => p < 16
  | .routeWrite p w => p < 64 && w < 2 ^ 64
  | .registerWrite acc w => acc.n ≤ 8 && w < 2 ^ 64
  | .tick c => c < 256
  | .rowExpiry gid _ => gid < 384 * 512
  | .sleepWake t => t < 384 * 16384
  | .sliceEnd c => c < 256
  | .contextReturn c => c < 256
  | .watchdogFire _ => true
  | .budgetFire _ => true
  | .traceSample d => d < 4
  | .refreshPass core => core < 384
  | .heartbeat d => d < 4
  | .failsafeEntry d => d < 4
  | .powerMeasurement _ => true
  | .operatingPointStable => true
  | .thermalChange d _ => d < 4
  | .thermalTrip => true
  | .bridgeModuleLoss b => b < 6
  | .coldReset fails alt => fails < 1024 && alt.altFails < 1024 && alt.mods.length == 6 && alt.mods.all (· ≤ 12) && alt.dead < 4096
  | .firmwareUpdate _ _ => true
  | .getVersion tr => tr.wf
  | .getCapabilities tr => tr.wf
  | .negotiateAlgorithms tr => tr.wf
  | .getDigests tr => tr.wf
  | .getCertificate tr slot => tr.wf && slot < 5
  | .challenge tr _ => tr.wf
  | .getMeasurements tr _ => tr.wf
  | .unsupportedRequest tr _ => tr.wf
  | .flitTransmit port => port < 16
  | .flitRead port f => port < 16 && f.wf
  | .flitWrite port f => port < 16 && f.wf
  | .flitAtomic port f => port < 16 && f.wf
  | .flitResponse port f => port < 16 && f.wf
  | .multicastWrite port f => port < 16 && f.wf
  | .managementFrame port f => port < 16 && f.wf
  | .nak port f => port < 16 && f.wf
  | .credits port f => port < 16 && f.wf
  | .endToEndAcknowledgement port f => port < 16 && f.wf
  | .portTrained p far => p < 16 && far < 64
  | .portRetrain p => p < 16
  | .portTimeout p => p < 16
  | .deviceLost p => p < 64
  | .hostBar4Read off n => off.fn < 16 && n ≤ 64
  | .hostBar4Write off data => off.fn < 16 && data.length ≤ 64
  | .flitForward port f => port < 16 && f.wf
  | .idleFlit port lack => port < 16 && lack < 4096
  | .flitCrcFailure port => port < 16
  | .phyRestored p => p < 16
  | .inboundInval src c _ _ => src < 64 && c < 256
  | .hostAtomicop off _ _ _ _ => off.fn < 16
  | .softError _ _ => true
  | .scrubbing d => d < 4

end Sys2Proof
end

