-- ==== Sys2Proof/Certificates/Slice0/Obligations.lean ====
section
/-! DEFINITION. The statements about the model, for the provers. Each formalises rules of spec/, which its docstring names. -/

open Sys2Proof Sys2Proof.Machine

/-! ## Integer and logic (09_integer) -/

/-- R190, R194: IADD, IADDI, ISUB, IMUL, IMULH, IMAD, IMIN, IMAX and IABS read their registers as integers, signed with `.s`, form the
exact result, fit it to 32 bits (saturating with `.sat`, else wrapping) and write it to d with tag S32 or U32; they complete. -/
def Obligations.IntegerArithmetic : Prop :=
  ∀ (s : State) (t : Nat) (gd : Guard) (d a b c k : Nat) (sg sat ka : Bool) (imm : Int) (x y w : TWord) (z m : Bool),
    (s.Runs t [.r d, .r a, .r b] [] gd → s.reads t [(a, .int), (b, .int)] = some ([x, y], z, m) →
      exec (.iadd gd d a b k sg sat) s =
        .next (s.result t d ⟨fitted sg sat (intOf sg x.bits + intOf sg y.bits), sgTag sg⟩ z m 0) ∧
      exec (.isub gd d a b k sg sat) s =
        .next (s.result t d ⟨fitted sg sat (intOf sg x.bits - intOf sg y.bits), sgTag sg⟩ z m 0) ∧
      exec (.imul gd d a b k sg) s =
        .next (s.result t d ⟨fitted sg false (intOf sg x.bits * intOf sg y.bits), sgTag sg⟩ z m 0) ∧
      exec (.imulh gd d a b k sg) s =
        .next (s.result t d ⟨fitted sg false (intOf sg x.bits * intOf sg y.bits / 4294967296), sgTag sg⟩ z m 0) ∧
      exec (.imin gd d a b k sg) s =
        .next (s.result t d ⟨if intOf sg x.bits ≤ intOf sg y.bits then x.bits else y.bits, sgTag sg⟩ z m 0) ∧
      exec (.imax gd d a b k sg) s =
        .next (s.result t d ⟨if intOf sg x.bits ≤ intOf sg y.bits then y.bits else x.bits, sgTag sg⟩ z m 0)) ∧
    (s.Runs t [.r d, .r a] [] gd → s.reads t [(a, .int)] = some ([x], z, m) →
      exec (.iaddi gd d a ka sg sat imm) s = .next (s.result t d ⟨fitted sg sat (intOf sg x.bits + imm), sgTag sg⟩ z m 0) ∧
      exec (.iabs gd d a k sg) s =
        .next (s.result t d ⟨fitted sg sg (max x.bits.toInt (-x.bits.toInt)), sgTag sg⟩ z m 0)) ∧
    (s.Runs t [.r d, .r a, .r b, .r c] [] gd → s.reads t [(a, .int), (b, .int), (c, .int)] = some ([x, y, w], z, m) →
      exec (.imad gd d a b c k sg sat) s =
        .next (s.result t d ⟨fitted sg sat (intOf sg x.bits * intOf sg y.bits + intOf sg w.bits), sgTag sg⟩ z m 0))

/-- R191, R192, R193: IMADW, IADD64 and LEA write a 64-bit result to the pair d with tags W64L and W64H (a pair v0 reads as zero and
discards both words, R179, R180); they complete. -/
def Obligations.WideArithmetic : Prop :=
  ∀ (s : State) (t : Nat) (gd : Guard) (d a b c k sh : Nat) (sg sub : Bool) (x y : TWord) (A B : DWord) (z m z' m' : Bool),
    (s.Runs t [.even d, .r a, .r b, .even c] [] gd → s.reads t [(a, .int), (b, .int)] = some ([x, y], z, m) →
      s.srcPair t c .lo64 .hi64 = some (A, z', m') →
      exec (.imadw gd d a b c k sg) s =
        .next (s.resultL64 t d (BitVec.ofInt 64 (intOf sg x.bits * intOf sg y.bits + A.toNat)) (z || z') (m || m') 0)) ∧
    (s.Runs t [.even d, .even a, .even b] [] gd → s.srcPair t a .lo64 .hi64 = some (A, z, m) → s.srcPair t b .lo64 .hi64 = some (B, z', m') →
      exec (.iadd64 gd d a b k sub) s = .next (s.resultL64 t d (if sub then A - B else A + B) (z || z') (m || m') 0)) ∧
    (s.Runs t [.even d, .even a, .r b] [] gd → s.srcPair t a .loAddr .hiAddr = some (A, z, m) → s.reads t [(b, .int)] = some ([y], z', m') →
      exec (.lea gd d a b k sh) s = .next (s.resultL64 t d (BitVec.ofInt 64 (A.toNat + y.bits.toInt * 2 ^ sh)) (z || z') (m || m') 0))

/-- R197, R198: the shifts and ROL by an immediate or by a register's whole unsigned word, and AND, OR, XOR and BITF; R199, R200, R201: POPC,
CLZ, BREV, BFE, BFI and BSEL; they complete. -/
def Obligations.LogicAndBitFields : Prop :=
  (∀ (s : State) (t : Nat) (gd : Guard) (d a b c k n fn : Nat) (x y w : TWord) (z m : Bool),
    (s.Runs t [.r d, .r a] [] gd → s.reads t [(a, .int)] = some ([x], z, m) →
      exec (.shl gd d a (.imm n) k) s = .next (s.result t d ⟨x.bits <<< n, .raw⟩ z m 0) ∧
      exec (.shr gd d a (.imm n) k) s = .next (s.result t d ⟨x.bits >>> n, .u32⟩ z m 0) ∧
      exec (.sar gd d a (.imm n) k) s = .next (s.result t d ⟨x.bits.sshiftRight n, .s32⟩ z m 0) ∧
      exec (.rol gd d a (.imm n) k) s = .next (s.result t d ⟨x.bits.rotateLeft n, .raw⟩ z m 0)) ∧
    (s.Runs t [.r d, .r a, .r b] [] gd → s.reads t [(a, .int), (b, .int)] = some ([x, y], z, m) →
      exec (.shl gd d a (.reg b) k) s = .next (s.result t d ⟨x.bits <<< y.bits.toNat, .raw⟩ z m 0) ∧
      exec (.shr gd d a (.reg b) k) s = .next (s.result t d ⟨x.bits >>> y.bits.toNat, .u32⟩ z m 0) ∧
      exec (.sar gd d a (.reg b) k) s = .next (s.result t d ⟨x.bits.sshiftRight y.bits.toNat, .s32⟩ z m 0) ∧
      exec (.rol gd d a (.reg b) k) s = .next (s.result t d ⟨x.bits.rotateLeft y.bits.toNat, .raw⟩ z m 0) ∧
      exec (.and gd d a b k) s = .next (s.result t d ⟨x.bits &&& y.bits, .raw⟩ z m 0) ∧
      exec (.or gd d a b k) s = .next (s.result t d ⟨x.bits ||| y.bits, .raw⟩ z m 0) ∧
      exec (.xor gd d a b k) s = .next (s.result t d ⟨x.bits ^^^ y.bits, .raw⟩ z m 0)) ∧
    (s.Runs t [.r d, .r a, .r b, .r c] [] gd → s.reads t [(a, .int), (b, .int), (c, .int)] = some ([x, y, w], z, m) →
      ∃ r : Word, exec (.bitf gd d a b c k fn) s = .next (s.result t d ⟨r, .raw⟩ z m 0) ∧
        ∀ i, i < 32 → r.getLsbD i = fn.testBit ((x.bits.getLsbD i).toNat + 2 * (y.bits.getLsbD i).toNat + 4 * (w.bits.getLsbD i).toNat))) ∧
  (∀ (s : State) (t : Nat) (gd : Guard) (d a b c k : Nat) (sg sx : Bool) (x y w : TWord) (z m : Bool),
    (s.Runs t [.r d, .r a] [] gd → s.reads t [(a, .int)] = some ([x], z, m) →
      exec (.popc gd d a k) s =
        .next (s.result t d ⟨BitVec.ofNat 32 ((List.range 32).countP fun i => x.bits.getLsbD i), .u32⟩ z m 0) ∧
      (∃ n, n ≤ 32 ∧ exec (.clz gd d a k) s = .next (s.result t d ⟨BitVec.ofNat 32 n, .u32⟩ z m 0) ∧
        (∀ i, 32 ≤ i + n → i < 32 → x.bits.getLsbD i = false) ∧ (n < 32 → x.bits.getLsbD (31 - n) = true)) ∧
      exec (.brev gd d a k) s = .next (s.result t d ⟨x.bits.reverse, .raw⟩ z m 0)) ∧
    (s.Runs t [.r d, .r a, .r b] [] gd → s.reads t [(a, .int), (b, .int)] = some ([x, y], z, m) →
      ∃ r : Word, exec (.bfe gd d a b k sg) s = .next (s.result t d ⟨r, sgTag sg⟩ z m 0) ∧
        ∀ i, i < 32 → r.getLsbD i =
          (let pos := y.bits.toNat % 256
           let len := y.bits.toNat / 256 % 256
           let n := min (pos + len) 32 - pos
           if 32 ≤ pos ∨ len = 0 then false
           else if i < n then x.bits.getLsbD (pos + i) else (sg && x.bits.getLsbD (pos + n - 1)))) ∧
    (s.Runs t [.r d, .r a, .r b, .r c] [] gd → s.reads t [(a, .int), (b, .int), (c, .int)] = some ([x, y, w], z, m) →
      (∃ r : Word, exec (.bfi gd d a b c k) s = .next (s.result t d ⟨r, .raw⟩ z m 0) ∧
        ∀ i, i < 32 → r.getLsbD i =
          (let pos := y.bits.toNat % 256
           let len := y.bits.toNat / 256 % 256
           if pos ≤ i ∧ i < pos + len then x.bits.getLsbD (i - pos) else w.bits.getLsbD i)) ∧
      (∃ r : Word, exec (.bsel gd d a b c k sx) s = .next (s.result t d ⟨r, .raw⟩ z m 0) ∧
        ∀ j, j < 4 → r.toNat / 256 ^ j % 256 =
          (let code := w.bits.toNat / 16 ^ j % 16
           if code < 8 then (x.bits.toNat + 4294967296 * y.bits.toNat) / 256 ^ code % 256
           else if sx = true ∧ 0 < j ∧ 128 ≤ r.toNat / 256 ^ (j - 1) % 256 then 255 else 0))))

/-- R186, R187, R188, R189, R195, R196: the copies and selections MOV, MOVI and SEL, and the predicate instructions ISETP, PBITF, P2V
and V2P, with p0 reading true and discarding writes (R183); they complete. -/
def Obligations.MovesAndPredicates : Prop :=
  ∀ (s : State) (t : Nat) (gd : Guard) (d a b p k fn : Nat) (q q1 q2 : PredSrc) (cmp : Cmp) (sg : Bool) (comb : Comb) (tag : Tag) (imm : Nat)
    (x y : TWord) (z m : Bool) (th : Thread), s.threads.find t = some th →
    (s.Runs t [.r d, .r a] [] gd → s.reads t [(a, .any)] = some ([x], z, m) →
      exec (.mov gd d a k) s = .next (s.result t d x z m 0)) ∧
    (s.Runs t [.r d] [] gd → imm < 4294967296 →
      exec (.movi gd d tag imm) s = .next (s.result t d ⟨BitVec.ofNat 32 imm, tag⟩ false false 0) ∧
      exec (.p2v gd d k) s = .next (s.result t d ⟨BitVec.ofNat 32 (th.preds % 256 / 2 * 2 + 1), .u32⟩ false false 0)) ∧
    (s.Runs t [.r d, .r a, .r b] [] gd → s.reads t [(a, .any), (b, .any)] = some ([x, y], z, m) →
      exec (.sel gd d a b q k) s = .next (s.result t d (if predBit th.preds q.p != q.neg then x else y) z m 0)) ∧
    (s.Runs t [.r a, .r b] [] gd → s.reads t [(a, .int), (b, .int)] = some ([x, y], z, m) →
      exec (.isetp gd p a b q k cmp sg comb) s =
        .next (s.resultPreds t (predWrite p
          (let X := intOf sg x.bits
           let Y := intOf sg y.bits
           let r := match cmp with
             | .eq => decide (X = Y) | .ne => decide (X ≠ Y) | .lt => decide (X < Y) | .le => decide (X ≤ Y) | .gt => decide (X > Y) | .ge => decide (X ≥ Y)
           let o := predBit th.preds q.p != q.neg
           match comb with | .none => r | .and => r && o | .or => r || o | .xor => r != o)) z m 0)) ∧
    (s.Runs t [] [] gd →
      exec (.pbitf gd p q q1 q2 k fn) s =
        .next (s.resultPreds t (predWrite p (bit fn (b2n (predBit th.preds q.p != q.neg) + 2 * b2n (predBit th.preds q1.p != q1.neg) +
          4 * b2n (predBit th.preds q2.p != q2.neg)))) false false 0)) ∧
    (s.Runs t [.r a] [] gd → s.reads t [(a, .int)] = some ([x], z, m) →
      exec (.v2p gd a k) s = .next (s.resultPreds t (fun _ => x.bits.toNat % 256 / 2 * 2) z m 0))

/-! ## Floating point, conversions and tags (10_float) -/

/-- A float result with its tag. -/
def floatWord (r : FRes) (tag : Tag) : TWord := ⟨BitVec.ofNat 32 r.1, tag⟩

/-- R205, R208, R209, R210: FADD, FMUL, FFMA, FMIN, FMAX and FSETP apply their operand modifiers, compute once rounded in the mode of
the rounding field or of `fmode`, write d (or predicate p) and add their flags to `fst` when they complete. R211, R212, R213: FRND, FSQRT,
the six approximations (their value is the free value `Config.approx` inside `frcp` to `ftrig`, log entry 9) and FCLASS. -/
def Obligations.FloatArithmetic : Prop :=
  (∀ (s : State) (t : Nat) (gd : Guard) (d a b c p k : Nat) (rm : Rm) (mods : FMods) (nc : Bool) (cnd : FCond) (x y w : TWord) (z m : Bool)
    (th : Thread), s.threads.find t = some th →
    let X := fmods mods.aa mods.na th.ftz x.bits.toNat
    let Y := fmods mods.ab mods.nb th.ftz y.bits.toNat
    let W := fmods false nc th.ftz w.bits.toNat
    let md := rmMode th rm
    (s.Runs t [.r d, .r a, .r b] [] gd → s.reads t [(a, .f32), (b, .f32)] = some ([x, y], z, m) →
      (∃ r, r = fadd .f32 md th.ftz X Y ∧ exec (.fadd gd d a b k rm mods) s = .next (s.result t d (floatWord r .f32) z m r.2)) ∧
      (∃ r, r = fmul .f32 md th.ftz X Y ∧ exec (.fmul gd d a b k rm mods) s = .next (s.result t d (floatWord r .f32) z m r.2)) ∧
      (∃ r, r = fminmax .f32 false X Y ∧ exec (.fmin gd d a b k mods) s = .next (s.result t d (floatWord r .f32) z m r.2)) ∧
      (∃ r, r = fminmax .f32 true X Y ∧ exec (.fmax gd d a b k mods) s = .next (s.result t d (floatWord r .f32) z m r.2))) ∧
    (s.Runs t [.r d, .r a, .r b, .r c] [] gd → s.reads t [(a, .f32), (b, .f32), (c, .f32)] = some ([x, y, w], z, m) →
      ∃ r, r = ffma .f32 md th.ftz X Y W ∧ exec (.ffma gd d a b c k rm mods nc) s = .next (s.result t d (floatWord r .f32) z m r.2)) ∧
    (s.Runs t [.r a, .r b] [] gd → s.reads t [(a, .f32), (b, .f32)] = some ([x, y], z, m) →
      ∃ r, r = fcompare X Y cnd ∧ exec (.fsetp gd p a b k mods cnd) s = .next (s.resultPreds t (predWrite p r.1) z m r.2))) ∧
  (∀ (s : State) (t : Nat) (gd : Guard) (d a k : Nat) (rm : Rm) (x : TWord) (z m : Bool) (th : Thread), s.threads.find t = some th →
    s.Runs t [.r d, .r a] [] gd → s.reads t [(a, .f32)] = some ([x], z, m) →
    let X := x.bits.toNat
    let out (r : FRes) : Host.Outcome State Fault Refusal := .next (s.result t d (floatWord r .f32) z m r.2)
    exec (.frnd gd d a k rm) s = out (frnd (rmMode th rm) th.ftz X) ∧
    exec (.fsqrt gd d a k rm) s = out (fsqrt (rmMode th rm) th.ftz X) ∧
    exec (.frcp gd d a k) s = out (frcp th.ftz X) ∧
    exec (.frsq gd d a k) s = out (frsq th.ftz X) ∧
    exec (.fex2 gd d a k) s = out (fex2 th.ftz X) ∧
    exec (.flg2 gd d a k) s = out (flg2 th.ftz X) ∧
    exec (.fsin gd d a k) s = out (ftrig false th.ftz X) ∧
    exec (.fcos gd d a k) s = out (ftrig true th.ftz X) ∧
    exec (.fclass gd d a k) s = .next (s.result t d ⟨BitVec.ofNat 32 (fclass X), .u32⟩ z m 0))

/-- R214, R215: the packed operations HADD2, HMUL2 and HFMA2 per element, and DOT2. -/
def Obligations.PackedFloat : Prop :=
  ∀ (s : State) (t : Nat) (gd : Guard) (d a b c k : Nat) (rm : Rm) (h : Bool) (x y w : TWord) (z m : Bool) (th : Thread),
    s.threads.find t = some th →
    let md := rmMode th rm
    let el (v : TWord) (i : Nat) : Nat := v.bits.toNat / 65536 ^ i % 65536
    let two (r0 r1 : FRes) : Host.Outcome State Fault Refusal :=
      .next (s.result t d ⟨BitVec.ofNat 32 (r1.1 * 65536 + r0.1), pTag h⟩ z m (orf r0.2 r1.2))
    (s.Runs t [.r d, .r a, .r b] [] gd → s.reads t [(a, pSet h), (b, pSet h)] = some ([x, y], z, m) →
      exec (.hadd2 gd d a b k rm h) s =
        two (fadd (pFmt h) md th.ftz (el x 0) (el y 0)) (fadd (pFmt h) md th.ftz (el x 1) (el y 1)) ∧
      exec (.hmul2 gd d a b k rm h) s =
        two (fmul (pFmt h) md th.ftz (el x 0) (el y 0)) (fmul (pFmt h) md th.ftz (el x 1) (el y 1))) ∧
    (s.Runs t [.r d, .r a, .r b, .r c] [] gd → s.reads t [(a, pSet h), (b, pSet h), (c, pSet h)] = some ([x, y, w], z, m) →
      exec (.hfma2 gd d a b c k rm h) s =
        two (ffma (pFmt h) md th.ftz (el x 0) (el y 0) (el w 0)) (ffma (pFmt h) md th.ftz (el x 1) (el y 1) (el w 1))) ∧
    (s.Runs t [.r d, .r a, .r b, .r c] [] gd → s.reads t [(a, pSet h), (b, pSet h), (c, .f32)] = some ([x, y, w], z, m) →
      ∃ r, r = dot2 (pFmt h) md th.ftz x.bits.toNat y.bits.toNat w.bits.toNat ∧
        exec (.dot2 gd d a b c k rm h) s = .next (s.result t d (floatWord r .f32) z m r.2))

/-- R216 to R222: CVT (a bit copy, a scalar, a packed pair from two sources or element by element, and a pair from a packed source),
QPACK, QUNPK, TAGQ and TAGS. -/
def Obligations.Conversions : Prop :=
  ∀ (s : State) (t : Nat) (gd : Guard) (d a b c k : Nat) (rm : Rm) (tag : Tag) (sat n4 : Bool) (x y sc e : TWord) (xs : List TWord)
    (z m : Bool) (th : Thread), s.threads.find t = some th →
    let md := rmMode th rm
    let n := narrowCount n4
    (s.Runs t [.r d, .r a] [] gd → s.reads t [(a, .any)] = some ([x], z, m) →
      (tag ≠ .bf2 → tag ≠ .h2 → tag ≠ .u32 → tag ≠ .s32 → tag ≠ .f32 →
        exec (.cvt gd d a b k tag rm sat) s = .next (s.result t d ⟨x.bits, tag⟩ z m 0)) ∧
      (tag = .u32 ∨ tag = .s32 ∨ tag = .f32 → isPacked x = false →
        ∃ r, r = cvtOne (cvtClass x) (dstFmt tag) (tag == .s32) md th.ftz sat x.bits.toNat ∧
          exec (.cvt gd d a b k tag rm sat) s = .next (s.result t d (floatWord r tag) z m r.2))) ∧
    (s.Runs t [.r d, .r a] (if d = 0 then [] else [d + 1]) gd → s.reads t [(a, .any)] = some ([x], z, m) →
      tag = .u32 ∨ tag = .s32 ∨ tag = .f32 → isPacked x = true → d % 2 = 0 → (d ≠ 0 → s.inRange t d 2) →
        ∃ r0 r1, r0 = cvtOne (cvtClass x) (dstFmt tag) (tag == .s32) md th.ftz sat (cvtElem x 0) ∧
          r1 = cvtOne (cvtClass x) (dstFmt tag) (tag == .s32) md th.ftz sat (cvtElem x 1) ∧
          exec (.cvt gd d a b k tag rm sat) s =
            .next (s.resultPair t d ⟨BitVec.ofNat 32 (r0.1 + 4294967296 * r1.1), tag⟩
              ⟨BitVec.ofNat 32 ((r0.1 + 4294967296 * r1.1) / 4294967296), tag⟩ z m (orf r0.2 r1.2))) ∧
    (s.Runs t [.r d, .r a, .r b] [] gd → s.reads t [(a, .any)] = some ([x], z, m) → tag = .bf2 ∨ tag = .h2 → isPacked x = true → b = 0 →
      ∃ r0 r1, r0 = cvtOne (cvtClass x) (dstFmt tag) false md th.ftz false (cvtElem x 0) ∧
        r1 = cvtOne (cvtClass x) (dstFmt tag) false md th.ftz false (cvtElem x 1) ∧
        exec (.cvt gd d a b k tag rm sat) s =
          .next (s.result t d ⟨BitVec.ofNat 32 (r1.1 * 65536 + r0.1), tag⟩ z m (orf r0.2 r1.2))) ∧
    (s.Runs t [.r d, .r a, .r b] [] gd → s.reads t [(a, .any), (b, .any)] = some ([x, y], z, m) → tag = .bf2 ∨ tag = .h2 → isPacked x = false →
      ∃ r0 r1, r0 = cvtOne (cvtClass x) (dstFmt tag) false md th.ftz false (cvtElem x 0) ∧
        r1 = cvtOne (cvtClass y) (dstFmt tag) false md th.ftz false (cvtElem y 0) ∧
        exec (.cvt gd d a b k tag rm sat) s =
          .next (s.result t d ⟨BitVec.ofNat 32 (r1.1 * 65536 + r0.1), tag⟩ z m (orf r0.2 r1.2))) ∧
    (s.Runs t [.r d, .range a n, .r b, .r c] [] gd →
      s.reads t ([(b, .f32), (c, .int)] ++ (List.range' a n).map fun i => (i, .f32)) = some (sc :: e :: xs, z, m) →
      exec (.qpack gd d a b c k rm n4) s =
        (let tg : Tag := if n4 then .q4 else .q8
         if validBase sc.bits.toNat then
           let rs := xs.map fun v => qpackOne md th.ftz (if n4 then -8 else -128) (if n4 then 7 else 127) sc.bits.toNat
             (e.bits.toNat % 16) v.bits.toNat
           .next (s.result t d ⟨BitVec.ofNat 32 (packNarrow n4 (rs.map (·.1))), tg⟩ z m (rs.foldl (fun f r => orf f r.2) 0))
         else .next (s.result t d ⟨0, tg⟩ z m fInvalid))) ∧
    (s.Runs t [.range d n, .r a, .r b, .r c] [] gd →
      s.reads t [(a, if n4 then .q4 else .q8), (b, .f32), (c, .int)] = some ([x, sc, e], z, m) →
      ∃ rs : List FRes, rs = ((List.range n).map fun i =>
          if validBase sc.bits.toNat then qunpkOne sc.bits.toNat (e.bits.toNat % 16) (narrowElem n4 x.bits.toNat i)
          else (Fmt.f32.nan, fInvalid)) ∧
        exec (.qunpk gd d a b c k n4) s =
          .next (s.resultRun t d (rs.map fun r => floatWord r .f32) z m (rs.foldl (fun f r => orf f r.2) 0))) ∧
    (s.Runs t [.r d, .r a] [] gd → s.reads t [(a, .any)] = some ([x], z, m) →
      exec (.tagq gd d a k) s = .next (s.result t d ⟨BitVec.ofNat 32 x.tag.code, .u32⟩ z m 0) ∧
      exec (.tags gd d a k tag) s = .next (s.result t d ⟨x.bits, tag⟩ z m 0))

/-- R70, R71 as the float operations keep them: FADD and FMUL give the same value and flags with their operands exchanged, in every
format, mode and flush setting; and a NaN operand gives the canonical NaN, with invalid set exactly when an operand signals. -/
def Obligations.FloatCommutes : Prop :=
  ∀ (f : Fmt) (md : Mode) (ftz : Bool) (x y : Nat),
    fadd f md ftz x y = fadd f md ftz y x ∧ fmul f md ftz x y = fmul f md ftz y x ∧
    ((f.decode (f.flush ftz x)).isNan = true → (fadd f md ftz x y).1 = f.nan ∧ (fmul f md ftz x y).1 = f.nan ∧
      (fadd f md ftz x y).2 = (if (f.decode (f.flush ftz x)).isSnan || (f.decode (f.flush ftz y)).isSnan then fInvalid else 0) ∧
      (fmul f md ftz x y).2 = (if (f.decode (f.flush ftz x)).isSnan || (f.decode (f.flush ftz y)).isSnan then fInvalid else 0))

/-! ## Control, threads and traps (08_gang, 04_context) -/

/-- R161, R162, R163: BRA, JMP, CALL, CALLI and RET transfer to a header that passes the checks of R41; a call writes the address of the
word after it with tag U32 and counts the depth up, RET counts it down. RET at depth 0, and a call at depth 2^32 − 1 to a target that passes
its checks, raise RET with `tval` 0. R41: a target that fails a check raises CLAUSE with the target as `tval`. -/
def Obligations.Transfers : Prop :=
  (∀ (s : State) (t : Nat) (gd : Guard) (d a n : Nat) (off : Int) (x : TWord) (z m : Bool) (th : Thread), s.threads.find t = some th →
    s.headerAt t n →
    ((n : Int) = th.pc + 8 * off → s.Runs t [] [] gd → exec (.bra gd off) s = .next (s.jumped t n)) ∧
    (s.Runs t [.r a] [] gd → s.reads t [(a, .int)] = some ([x], z, m) → x.bits.toNat = n →
      exec (.jmp gd a) s = .next ((s.noted t z m 0).jumped t n) ∧
      (th.cdep ≠ 0 → exec (.ret gd a) s =
        .next (((s.noted t z m 0).updThread t fun y => { y with cdep := y.cdep - 1 }).jumped t n))) ∧
    (th.cdep ≠ 4294967295 →
      ((n : Int) = th.pc + 8 * off → s.Runs t [.r d] [] gd →
        exec (.call gd d off) s =
          .next (((s.writeReg t d ⟨BitVec.ofNat 32 (th.pc + 8), .u32⟩).updThread t fun y => { y with cdep := y.cdep + 1 }).jumped t n)) ∧
      (s.Runs t [.r d, .r a] [] gd → s.reads t [(a, .int)] = some ([x], z, m) → x.bits.toNat = n →
        exec (.calli gd d a) s =
          .next ((((s.noted t z m 0).writeReg t d ⟨BitVec.ofNat 32 (th.pc + 8), .u32⟩).updThread t
            fun y => { y with cdep := y.cdep + 1 }).jumped t n)))) ∧
  (∀ (s : State) (t : Nat) (gd : Guard) (d a n : Nat) (off : Int) (th : Thread), s.threads.find t = some th →
    (s.Runs t [.r a] [] gd → th.cdep = 0 → exec (.ret gd a) s = .next (s.takeTrap t .ret 0)) ∧
    (s.headerAt t n → (n : Int) = th.pc + 8 * off → s.Runs t [.r d] [] gd → th.cdep = 4294967295 →
      exec (.call gd d off) s = .next (s.takeTrap t .ret 0))) ∧
  (∀ (s : State) (t : Nat) (gd : Guard) (d a n : Nat) (x : TWord) (z m : Bool) (th : Thread), s.threads.find t = some th →
    s.headerAt t n → s.reads t [(a, .int)] = some ([x], z, m) → x.bits.toNat = n → s.Runs t [.r d, .r a] [] gd → th.cdep = 4294967295 →
    ∃ B, exec (.calli gd d a) s = .next ((s.reading t B z m).takeTrap t .ret 0)) ∧
  (∀ (s : State) (t : Nat) (gd : Guard) (d a : Nat) (off : Int) (x : TWord) (z m : Bool) (th : Thread), s.threads.find t = some th →
    (let T : Int := th.pc + 8 * off
     s.noHeaderAt t T →
      (s.Runs t [] [] gd → exec (.bra gd off) s = .next (s.takeTrap t .clause (T % 18446744073709551616).toNat)) ∧
      (s.Runs t [.r d] [] gd → exec (.call gd d off) s = .next (s.takeTrap t .clause (T % 18446744073709551616).toNat))) ∧
    (s.reads t [(a, .int)] = some ([x], z, m) → s.noHeaderAt t x.bits.toNat →
      (s.Runs t [.r a] [] gd →
        (∃ B, exec (.jmp gd a) s = .next ((s.reading t B z m).takeTrap t .clause x.bits.toNat)) ∧
        (th.cdep ≠ 0 → ∃ B, exec (.ret gd a) s = .next ((s.reading t B z m).takeTrap t .clause x.bits.toNat))) ∧
      (s.Runs t [.r d, .r a] [] gd →
        ∃ B, exec (.calli gd d a) s = .next ((s.reading t B z m).takeTrap t .clause x.bits.toNat))))

/-- R165 to R168, R94 to R96: NOP, YIELD, SLEEP (of 0 like YIELD; else it fixes the tick to wake at, waits, and ends its clause when that
tick has come), BEAT (progress of a persistent kernel), TRAP, RTT in a handler, and BKPT (passed after a halt, halting a context under
debug, else raising BREAKPOINT). R164, R359: EXIT, and PKILL of a member outside a handler, with nothing outstanding, end the thread. -/
def Obligations.ControlAndTraps : Prop :=
  (∀ (s : State) (t : Nat) (gd : Guard) (n imm : Nat) (past : Bool) (th : Thread) (g : Gang), s.threads.find t = some th →
    s.gangs.find (gidOf t) = some g →
    let yielded := (s.updThread t fun y => { y with age := 0, bars := if g.access then [4] else [0, 1, 2, 3] }).ended t th
    let tick := s.tickOf g.ctx
    (s.Runs t [] [] gd →
      exec (.nop gd) s = .next (s.done t) ∧
      exec (.yield gd) s = .next yielded ∧
      exec (.sleep gd 0) s = .next yielded ∧
      (0 < n → exec (.sleep gd n) s =
        .next ((s.updThread t fun y => { y with cont := .tok (tick + n) }).waitOn t (.sleep (tick + n)))) ∧
      exec (.beat gd) s =
        .next ((s.updKernel g.kern fun k => if k.desc.persist then { k with prog := tick, stage2 := false } else k).done t) ∧
      exec (.trap gd imm) s = .next (s.takeTrap t .soft imm) ∧
      (th.inh = true → exec (.rtt gd past) s = .next ((s.commit t).returnFromTrap t past)) ∧
      (th.inh = false → exec (.rtt gd past) s = .next (s.takeTrap t .illegal th.pc)) ∧
      (th.passBrk = true → exec (.bkpt gd imm) s = .next (s.done t)) ∧
      (th.passBrk = false → (s.ctx g.ctx).dbg = true →
        exec (.bkpt gd imm) s = .next (((s.updThread t fun y => { y.clean with passBrk := true }).stepAside t).haltCtx g.ctx .halted)) ∧
      (th.passBrk = false → (s.ctx g.ctx).dbg = false → exec (.bkpt gd imm) s = .next (s.takeTrap t .brk imm))) ∧
    (∀ w, w ≤ tick → 0 < n → (s.updThread t fun y => { y with cont := .none }).Runs t [] [] gd → th.cont = .tok w →
      exec (.sleep gd n) s = .next (s.ended t th))) ∧
  (∀ (s : State) (t k : Nat) (gd : Guard) (th : Thread) (g : Gang) (kk : Kernel), s.threads.find t = some th → th.Quiet →
    s.gangs.find (gidOf t) = some g → s.kernels.find g.kern = some kk → s.Runs t [] [] gd →
    exec (.exit gd) s = .next (s.exitThread t) ∧
    (kk.isMember g.gidx = true → th.inh = false → exec (.pkill gd k) s = .next (s.exitThread t)) ∧
    ((s.threads.del t).find t = none →
      (s.removeThread t).threads.find t = none ∧ (s.exitThread t).threads.find t = none))

/-- R32, R34, R30: where a thread goes on: the next word of its body; in a repeated clause the body's first word while repetitions are
left; else the header after the clause, outside its issue group, `rpt` reading 0 after a repeated clause. -/
def Obligations.ExecutionOrder : Prop :=
  ∀ (s : State) (t : Nat) (th : Thread) (c : Clause), s.threads.find t = some th → th.clause = some c →
    let i := (th.pc - c.addr) / 8 - 1
    ∃ y, (s.advance t).threads.find t = some y ∧ y.preds = th.preds ∧ y.cdep = th.cdep ∧
      (i + 1 < c.count → y.pc = th.pc + 8 ∧ y.clause = some c ∧ y.group = th.group ∧ y.rptRep = th.rptRep) ∧
      (c.count ≤ i + 1 → c.rep = true → th.rptRep + 1 < c.reps →
        y.pc = c.addr + 8 ∧ y.clause = some c ∧ y.rptRep = th.rptRep + 1 ∧ y.rptInst = 0) ∧
      (c.count ≤ i + 1 → c.rep = false ∨ c.reps ≤ th.rptRep + 1 →
        y.pc = c.addr + 8 * (c.count + 1) ∧ y.clause = none ∧ y.res = .start ∧ y.group = none ∧
          (c.rep = true → y.rptAct = false ∧ y.rptRep = 0 ∧ y.rptInst = 0))

/-- R92: taking a trap on a thread that is in no handler and has one: `tcause`, `tpc`, `tval` and `tmask` are written, the PC goes to
`tvec`, the thread leaves its clause and issue group; its other registers, every other thread, every gang and every byte of memory stand.
R93: a trap that cannot be delivered, other than MEMERR, BREAKPOINT and WATCHDOG, in a context without `fstop`, fails the kernel with
status 2: it is failed and every thread of it is gone. -/
def Obligations.TrapEntry : Prop :=
  (∀ (s : State) (t v : Nat) (c : Cause) (th : Thread), s.threads.find t = some th → th.inh = false → th.tvec ≠ 4294967295 →
    ∃ y, (s.takeTrap t c v).threads.find t = some y ∧
      y.inh = true ∧ y.tcode = c.code ∧ y.tpc = th.pc ∧ y.tval = v % 2 ^ 64 ∧ y.tmask = 2 ^ (t % 32) ∧ y.pc = th.tvec ∧
      y.clause = none ∧ y.res = .start ∧ y.group = none ∧ y.preds = th.preds ∧ y.cdep = th.cdep ∧ y.fst = th.fst ∧ y.lapf = th.lapf ∧
      y.tvec = th.tvec ∧ y.rptAct = th.rptAct ∧ y.rptRep = th.rptRep ∧ y.rptInst = th.rptInst ∧ y.swpAct = th.swpAct ∧
      y.swpIter = th.swpIter ∧
      (∀ u, u ≠ t → (s.takeTrap t c v).threads.find u = s.threads.find u) ∧ (s.takeTrap t c v).gangs = s.gangs ∧
      ∀ a, Memory.get (s.takeTrap t c v).mem a = Memory.get s.mem a) ∧
  (∀ (s : State) (t v : Nat) (c : Cause) (th : Thread) (g : Gang) (k : Kernel), s.threads.find t = some th →
    s.gangs.find (gidOf t) = some g → s.kernels.find g.kern = some k → th.canTrap = false → c ≠ .brk → c ≠ .watchdog → c ≠ .memerr →
    (s.ctx g.ctx).fstop = false → k.st = .running → k.due = none →
    (∃ k', (s.takeTrap t c v).kernels.find g.kern = some k' ∧ k'.st = .failed ∧ k'.due = some 2) ∧
    ∀ u y, s.gangs.find (gidOf u) = some y → y.kern = g.kern → (s.takeTrap t c v).threads.find u = none)

/-- R96: the return from a trap: the thread leaves the handler and resumes at `tpc`, or past that instruction; threads held for the trap
resume in the same way at their own instructions; memory and the gangs stand. -/
def Obligations.TrapReturn : Prop :=
  ∀ (s : State) (t : Nat) (past : Bool) (th : Thread), s.threads.find t = some th → th.held = none →
    (∃ y, (s.returnFromTrap t past).threads.find t = some y ∧ y.inh = false ∧ y.pc = th.tpc ∧
      y.res = (if past then .past else .here) ∧ y.clause = none ∧ y.group = none ∧ y.preds = th.preds ∧ y.tpc = th.tpc ∧ y.tval = th.tval) ∧
    (∀ u h, u ≠ t → s.threads.find u = some h → h.held = some t →
      ∃ y, (s.returnFromTrap t past).threads.find u = some y ∧ y.pc = h.pc ∧ y.res = (if past then .past else .here) ∧ y.held = none) ∧
    (∀ u h, u ≠ t → s.threads.find u = some h → h.held ≠ some t → (s.returnFromTrap t past).threads.find u = some h) ∧
    (s.returnFromTrap t past).mem = s.mem ∧ (s.returnFromTrap t past).gangs = s.gangs

/-- R33, R37, R43, R180: before its guard, an instruction's register fields are checked in the order d, a, b, c. The first that fails
raises the trap, whatever the guard says: one above the allotment REGBOUND with its index, an odd register that names a pair (or one that
names four and is no multiple of 4) ILLEGAL with it, a pair, four or range that runs past the allotment REGBOUND with the first index
above it. With the fields good and a false guard the instruction only goes on. R127 bounds the allotment by 511. That a field's range
comes before a later field is the model's choice (log entry 119). -/
def Obligations.FieldsBeforeGuard : Prop :=
  (∀ (n i k : Nat) (pre post : List Field), n ≤ 511 →
    (∀ e, checkFields n pre = some e → checkFields n (pre ++ post) = some e) ∧ checkFields n [] = none ∧
    (checkFields n pre = none →
      (n < i → checkFields n (pre ++ .r i :: post) = some (.regbound, i) ∧ checkFields n (pre ++ .even i :: post) = some (.regbound, i) ∧
        checkFields n (pre ++ .quad i :: post) = some (.regbound, i) ∧
        checkFields n (pre ++ .range i k :: post) = some (.regbound, i)) ∧
      (i ≤ n →
        checkFields n (pre ++ .r i :: post) = checkFields n post ∧
        (i % 2 = 1 → checkFields n (pre ++ .even i :: post) = some (.illegal, i)) ∧
        (i % 2 = 0 → i = n → checkFields n (pre ++ .even i :: post) = some (.regbound, i + 1)) ∧
        (i % 2 = 0 → i < n → checkFields n (pre ++ .even i :: post) = checkFields n post) ∧
        (i % 4 ≠ 0 → checkFields n (pre ++ .quad i :: post) = some (.illegal, i)) ∧
        (i % 4 = 0 → n < i + 3 → checkFields n (pre ++ .quad i :: post) = some (.regbound, n + 1)) ∧
        (i % 4 = 0 → i + 3 ≤ n → checkFields n (pre ++ .quad i :: post) = checkFields n post) ∧
        (n < i + (k - 1) → checkFields n (pre ++ .range i k :: post) = some (.regbound, n + 1)) ∧
        (i + (k - 1) ≤ n → checkFields n (pre ++ .range i k :: post) = checkFields n post)))) ∧
  (∀ (s : State) (c : Cur) (th : Thread) (g : Gang) (gd : Guard) (fs : List Field) (ex data : List Nat) (ds : List Dest) (body : M Flow)
    (body' : Bool → M Flow), s.cur = some c → s.threads.find c.t = some th → s.gangs.find (gidOf c.t) = some g →
    (∀ x v, checkFields g.nregs fs = some (x, v) →
      let r : Host.Outcome State Fault Refusal := .next (s.takeTrap c.t x v)
      code fs gd ds body s = r ∧ codeStore fs data gd body s = r ∧ codeX fs ex gd ds body s = r ∧ codeSwp fs ex gd ds body s = r ∧
      codeEnd fs gd ds body s = r ∧ codeAny fs ex gd ds body' s = r) ∧
    (checkFields g.nregs fs = none → guardHolds th gd = false →
      let r : Host.Outcome State Fault Refusal := .next (s.done c.t)
      code fs gd ds body s = r ∧ codeStore fs data gd body s = r ∧ codeX fs ex gd ds body s = r ∧ codeSwp fs ex gd ds body s = r ∧
      codeEnd fs gd ds body s = .next (s.ended c.t th))) ∧
  (∀ (s : State) (cu : Cur) (g : Gang) (gd : Guard) (d a b c k : Nat) (sg sat sub : Bool) (x : Cause) (v : Nat), s.cur = some cu →
    (∃ th, s.threads.find cu.t = some th) → s.gangs.find (gidOf cu.t) = some g →
    let r : Host.Outcome State Fault Refusal := .next (s.takeTrap cu.t x v)
    (checkFields g.nregs [.r d, .r a, .r b] = some (x, v) → exec (.iadd gd d a b k sg sat) s = r) ∧
    (checkFields g.nregs [.r d, .r a, .r b, .r c] = some (x, v) → exec (.imad gd d a b c k sg sat) s = r) ∧
    (checkFields g.nregs [.even d, .r a, .r b, .even c] = some (x, v) → exec (.imadw gd d a b c k sg) s = r) ∧
    (checkFields g.nregs [.even d, .even a, .even b] = some (x, v) → exec (.iadd64 gd d a b k sub) s = r))

/-- R5, R6, R67, R236, R242: a read under a tag the register does not hold raises TAG with the register's number under the strict mode; under the
lenient mode the bits are used and a mismatch is counted; an expired row reads as zero when lapsing and raises EXPIRED when trapping; v0
reads zero. R242: a row with bad metadata raises MEMERR, and one met so before and not rewritten raises EXPIRED whatever its class. A word
written to a register above v0 of the allotment is read back with its tag by the same thread at the same tick, and a
write to v0 changes nothing. R401: a read that answers corrects a correctable error in its word, changes no word, and counts it in oscor. -/
def Obligations.Registers : Prop :=
  (∀ (g : Gang) (lenient : Bool) (tick lane i : Nat) (ts : TagSet),
    regRead g lenient tick lane 0 ts = .ok (⟨0, .raw⟩, false, false) ∧
    (i ≠ 0 → i ≤ g.nregs → i ≤ 511 →
      let r := g.regs.row (i - 1)
      let w := r.word lane
      (r.badMeta = false → g.regs.cls = .trapping → r.stamp + g.regs.life < tick → regRead g lenient tick lane i ts = .error (.trap .expired i)) ∧
      (r.badMeta = true → regRead g lenient tick lane i ts = .error (.memerr i)) ∧
      (r.badMeta = false → r.dead = true → r.expMark = true → regRead g lenient tick lane i ts = .error (.trap .expired i)) ∧
      (r.badMeta = false → r.dead = false → g.regs.cls = .lapsing → r.stamp + g.regs.life < tick →
        regRead g lenient tick lane i ts = .ok (⟨0, .raw⟩, true, false)) ∧
      (r.badMeta = false → r.dead = false → g.regs.cls = .refreshed → bit r.bad lane = false →
        (ts.has w.tag = true → regRead g lenient tick lane i ts = .ok (w, false, false)) ∧
        (ts.has w.tag = false → lenient = false → regRead g lenient tick lane i ts = .error (.trap .tag i)) ∧
        (ts.has w.tag = false → lenient = true → ts ≠ .refLo → ts ≠ .refHi →
          regRead g lenient tick lane i ts = .ok (w, false, true)))) ∧
    (i ≠ 0 → g.nregs < i → regRead g lenient tick lane i ts = .error (.trap .regbound i))) ∧
  (∀ (s : State) (t d : Nat) (w : TWord) (g : Gang), s.gangs.find (gidOf t) = some g → d ≤ g.nregs → d ≤ 511 →
    (d ≠ 0 → (s.writeReg t d w).src t d .any = some (w, false, false)) ∧ s.writeReg t 0 w = s) ∧
  (∀ (s : State) (c : Cur) (th : Thread) (g : Gang) (x : Die) (i : Nat) (ts : TagSet) (w : TWord) (z m : Bool), s.cur = some c →
    s.threads.find c.t = some th → s.gangs.find (gidOf c.t) = some g → th.opbuf = [] →
    regRead g (s.ctx g.ctx).lenient (s.tickOf g.ctx) (laneOf c.t) i ts = .ok (w, z, m) →
    (∃ B, readReg i ts s = .ok w ((s.reading c.t B z m).cureReg c.t i)) ∧
    (s.softReg c.t i = false → s.cureReg c.t i = s) ∧
    (s.softReg c.t i = true → s.dies.find (dieOfCore (coreOf c.t)) = some x → x.ecnt.length = 8 →
      (s.cureReg c.t i).softReg c.t i = false ∧ (∀ u j, (s.cureReg c.t i).storedWord u j = s.storedWord u j) ∧
      ((s.cureReg c.t i).die (dieOfCore (coreOf c.t))).ecnt.getD 0 0 = min (x.ecnt.getD 0 0 + 1) 65535))

/-! ## What completing leaves alone -/

/-- R5, R6, R69, R181: the frame of every instruction whose completion is stated through `State.result` (one register written), `resultL64`
and `resultPair` (a pair), `resultPreds` (predicates) and `done` (nothing): the integer, floating, conversion, tag and special-register
instructions. At most the destination registers hold new words (none for v0); no other thread changes; the special registers but `fst`,
`lapf` and `rpt` stand; scratch, stack, handles and side log stand; and no byte of memory changes unless a mismatch was counted. -/
def Obligations.RegisterFrame : Prop :=
  ∀ (s : State) (t d : Nat) (w l h : TWord) (r : DWord) (z m : Bool) (f : Nat) (pf : Nat → Nat),
    s.Frame (s.result t d w z m f) t [d] z m f ∧
    s.Frame (s.resultPair t d l h z m f) t (if d = 0 then [] else [d, d + 1]) z m f ∧
    s.Frame (s.resultL64 t d r z m f) t (if d = 0 then [] else [d, d + 1]) z m f ∧
    s.Frame (s.resultPreds t pf z m f) t [] z m f ∧
    s.Frame (s.done t) t [] false false 0 ∧
    (∀ th, s.threads.find t = some th → ∃ y, (s.result t d w z m f).threads.find t = some y ∧ y.preds = th.preds)

/-! ## Exit, special registers, allocation (08_gang, 11_allocation, 16_population) -/

/-- R176, R177: MFS writes a special's value with tag U32, a 64-bit special as a pair (where `cyc` stands between two reference cycles is free, log entry 11, but no later read in the same one is below an earlier); MTS writes a
special that Table 8.1 lets it write, when the value fits; otherwise, wide or not, it raises ILLEGAL with the instruction's address. R178, R360, R150,
R414: RND draws from the thread's lineage number and counter and counts it up; PCOUNT and GRPQ read an item of the population or of a group
instance (all ones for an empty slot); TRACE writes a record of its operands to the die's ring. -/
def Obligations.SystemInstructions : Prop :=
  (∀ (s : State) (t d a : Nat) (gd : Guard) (sp : Special) (ka : Bool) (x : TWord) (A : DWord) (z m : Bool) (th : Thread) (g : Gang),
    s.threads.find t = some th → s.gangs.find (gidOf t) = some g →
    (sp.wide = false → s.Runs t [.r d] [] gd →
      exec (.mfs gd d sp) s = .next (s.result t d ⟨BitVec.ofNat 32 (s.special t th g sp), .u32⟩ false false 0)) ∧
    (sp.wide = true → sp ≠ .cyc → s.Runs t [.even d] [] gd →
      exec (.mfs gd d sp) s = .next (s.resultL64 t d (BitVec.ofNat 64 (s.special t th g sp)) false false 0)) ∧
    (s.Runs t [.even d] [] gd →
      exec (.mfs gd d .cyc) s = .next ((s.readCyc t).resultL64 t d (BitVec.ofNat 64 (s.cycles t)) false false 0) ∧
      (s.die (dieOfCore (coreOf t))).sub ≤ ((s.readCyc t).die (dieOfCore (coreOf t))).sub) ∧
    (sp.wide = false → s.Runs t [.r a] [] gd → s.reads t [(a, .int)] = some ([x], z, m) →
      (mtsAllowed th.inh sp = true → mtsFits sp x.bits.toNat = true →
        exec (.mts gd a ka sp) s = .next (((s.noted t z m 0).updThread t fun y => y.setSpecial sp x.bits.toNat).done t)) ∧
      (mtsAllowed th.inh sp = false ∨ mtsFits sp x.bits.toNat = false →
        ∃ B, exec (.mts gd a ka sp) s = .next ((s.reading t B z m).takeTrap t .illegal th.pc))) ∧
    (sp.wide = true → s.Runs t [.even a] [] gd → s.srcPair t a .lo64 .hi64 = some (A, z, m) → mtsAllowed th.inh sp = false →
      ∃ B, exec (.mts gd a ka sp) s = .next ((s.reading t B z m).takeTrap t .illegal th.pc)) ∧
    (s.Runs t [.even a] [] gd → s.srcPair t a .lo64 .hi64 = some (A, z, m) → th.inh = true →
      exec (.mts gd a ka .tval) s = .next (((s.noted t z m 0).updThread t fun y => { y with tval := A.toNat }).done t))) ∧
  (∀ (s : State) (t d a b k slot item : Nat) (gd : Guard) (x y : TWord) (z m : Bool) (th : Thread) (g : Gang) (kk : Kernel),
    s.threads.find t = some th → s.gangs.find (gidOf t) = some g → s.kernels.find g.kern = some kk →
    let draw := mix (kk.desc.pseed ^^^ th.lin) th.rndc
    let drawn := s.updThread t fun y => { y with rndc := (y.rndc + 1) % 4294967296 }
    (s.Runs t [.r d] [] gd →
      exec (.rnd gd d false) s = .next (drawn.result t d ⟨BitVec.ofNat 32 draw, .u32⟩ false false 0) ∧
      (∀ p, kk.pop = some p →
        exec (.pcount gd d item k) s = .next (s.result t d ⟨BitVec.ofNat 32 (s.popItem g.kern kk p item), .u32⟩ false false 0)) ∧
      (kk.pop = none → exec (.pcount gd d item k) s = .next (s.takeTrap t .population 21474836480)) ∧
      (g.grp.getD slot none = none → exec (.grpq gd d slot item) s = .next (s.result t d ⟨4294967295, .u32⟩ false false 0)) ∧
      (∀ i w, g.grp.getD slot none = some i → s.insts.find i = some w →
        exec (.grpq gd d slot item) s = .next (s.result t d ⟨BitVec.ofNat 32 (s.grpItem g i w item), .u32⟩ false false 0))) ∧
    (s.Runs t [.even d] [] gd →
      exec (.rnd gd d true) s = .next (drawn.resultL64 t d (BitVec.ofNat 64 draw) false false 0)) ∧
    (s.Runs t [.r a, .r b] [] gd → s.reads t [(a, .any), (b, .any)] = some ([x, y], z, m) →
      exec (.trace gd a b k) s =
        .next (((s.noted t z m 0).traceRecord (dieOfCore (coreOf t)) g.ctx
          (traceHead 2 g.ctx (coreOf t) (gslotOf t) (laneOf t) s.refCycle + 2 ^ 128 * th.lin + 2 ^ 192 * x.bits.toNat +
            2 ^ 224 * y.bits.toNat)).done t)))

/-- R245 to R248: SPALLOC (pages already held, a grant of the core's blank pages, or all ones for a refusal), SPFREE with nothing outstanding on the pages it gives up,
RTOUCH, RCLASS and RAGE. -/
def Obligations.Allocation : Prop :=
  ∀ (s : State) (t d a b k va n life off : Nat) (gd : Guard) (ka : Bool) (cls : LifeClass) (x : TWord) (A : DWord) (z m z' m' : Bool) (h : Home)
    (al : Alloc) (th : Thread) (g : Gang) (kk : Kernel), s.threads.find t = some th → s.gangs.find (gidOf t) = some g →
    s.kernels.find g.kern = some kk →
    let p := g.scratch.pages
    let q := (x.bits.toNat + 4095) / 4096
    let tick := s.tickOf g.ctx
    let row := rowOf h off
    let step := if va / 2 ^ 56 = 254 then 4 else 128
    (s.Runs t [.r d, .r a] [] gd → s.reads t [(a, .int)] = some ([x], z, m) →
      (q ≤ p → exec (.spalloc gd d a k) s = .next (s.result t d ⟨BitVec.ofNat 32 (4096 * p), .u32⟩ z m 0)) ∧
      (p < q → corePages < s.usedPages (coreOf t) + (q - p) ∨ (s.ctx g.ctx).bkpages < s.ctxPages g.ctx + (q - p) →
        exec (.spalloc gd d a k) s = .next (s.result t d ⟨4294967295, .u32⟩ z m 0)) ∧
      (p < q → s.usedPages (coreOf t) + (q - p) ≤ corePages → s.ctxPages g.ctx + (q - p) ≤ (s.ctx g.ctx).bkpages →
        exec (.spalloc gd d a k) s =
          .next (((s.claimPages g.ctx (coreOf t) (q - p)).updGang (gidOf t) fun y => { y with scratch := y.scratch.freshRows tick p q }).result
            t d ⟨BitVec.ofNat 32 (4096 * q), .u32⟩ z m 0)) ∧
      (p ≤ q → exec (.spfree gd d a k) s = .next (s.result t d ⟨BitVec.ofNat 32 (4096 * p), .u32⟩ z m 0)) ∧
      (q < p → s.windowBusy (gidOf t) (4096 * q) = false →
        exec (.spfree gd d a k) s =
          .next ((s.updGang (gidOf t) fun y => { y with scratch := y.scratch.cutRows q }).result t d ⟨BitVec.ofNat 32 (4096 * q), .u32⟩ z m 0))) ∧
    (s.Runs t [.r d, .even a, .r b] [] gd → s.srcPair t a .loAddr .hiAddr = some (A, z, m) → s.reads t [(b, .int)] = some ([x], z', m') →
      A.toNat = va → x.bits.toNat = n → 0 < n → n ≤ 256 → va / 2 ^ 56 = 254 ∨ va / 2 ^ 56 = 255 → s.rowAt t va (step * n) step h off → s.allocAt h = some al →
      (∀ i, i < n → (al.row (row + i)).struck s.curNo (laneOf t) = false) → (∀ i, i < n → al.lapses (al.row (row + i)) = true ∨ al.expired (al.row (row + i)) tick = false) →
      exec (.rtouch gd d a b k) s =
        .next ((s.setAllocAt h (al.touch tick row n)).result t d ⟨BitVec.ofNat 32 (al.countExpired tick row n), .u32⟩
          ((z || z') || al.countExpired tick row n != 0) (m || m') 0)) ∧
    (s.Runs t [.r d, .even a] [] gd → s.srcPair t a .loAddr .hiAddr = some (A, z, m) → A.toNat = va →
      ((∀ B w v, namedAlloc va (s.reading t B w v) = .ok (h, al) (s.reading t B w v)) → (∀ i, i < 32 * al.pages → (al.row i).struck s.curNo (laneOf t) = false) →
        cls = .refreshed ∨ (∀ u, h ≠ .stack u) ∨ kk.isMember g.gidx = false →
        exec (.rclass gd d a ka cls life) s =
          .next ((s.setAllocAt h (al.reclass tick cls life)).result t d
            ⟨BitVec.ofNat 32 (al.countExpired tick 0 (32 * al.pages) * 65536 + classCode al.cls * 256 + al.life), .u32⟩ z m 0)) ∧
      (va / 2 ^ 56 = 254 ∨ va / 2 ^ 56 = 255 → s.rowAt t va 1 1 h off → s.allocAt h = some al → (al.row row).struck s.curNo (laneOf t) = false →
        exec (.rage gd d a k) s =
          .next (s.result t d ⟨BitVec.ofNat 32 (classCode al.cls * 2 ^ 30 + b2n (al.expired (al.row row) tick) * 2 ^ 29 +
            (if al.cls = .refreshed then 0 else al.life) * 512 + min (tick - (al.row row).stamp) 511), .u32⟩ z m 0)))

/-! ## Memory (12_memory) -/

/-- R271 to R275: LD, ST, ATOM, CAS and RED form their effective address from the base pair, the index and the offset (ATOM and CAS have no
index), read their data registers, and, when the access answers, complete: a load's and an atomic's old value goes to d with the tags of
the rule, from global memory outstanding until delivered (R155). The model's own readings: a global load's words are those read as it issues (log entry
7), and b128 or CAS from v0 reads and writes v1 to v3 (log entry 28). -/
def Obligations.MemoryInstructions : Prop :=
  ∀ (s S : State) (t : Nat) (gd : Guard) (d base idx sc : Nat) (off : Int) (lw : LdWidth) (sw : StWidth) (acq rel w64 gl : Bool) (cls : AccClass)
    (op : AtomOp) (ord : Order) (A : DWord) (x : TWord) (ws cs : List TWord) (got : Got) (z m z' m' z'' m'' z3 m3 : Bool),
    s.srcPair t base .loAddr .hiAddr = some (A, z, m) →
    (s.Runs t [dataField d (ldSize lw), .even base, .r idx] [] gd → s.reads t [(idx, .int)] = some ([x], z', m') →
      s.Answers S t (z || z') (m || m')
        (loadMem (addressOf A x.bits off) (ldSize lw) (decide (ldSize lw ≤ 4)) acq sc cls) (got, gl) →
      exec (.ld gd d base idx off lw acq sc cls) s = .next (S.loaded t (ldResults lw d got.v got.tags) gl (z || z') (m || m'))) ∧
    (s.Runs t [dataField d (stSize sw), .even base, .r idx] [] gd → s.reads t [(idx, .int)] = some ([x], z', m') →
      s.reads t (dataRegs d (stSize sw)) = some (ws, z'', m'') →
      s.Answers S t (z || z' || z'') (m || m' || m'')
        (storeMem (addressOf A x.bits off) (stSize sw) (wordsNat ws % 256 ^ stSize sw) (if stSize sw < 8 then 0 else pairBits ws) rel sc cls) ⟨⟩ →
      exec (.st gd d base idx off sw rel sc cls) s = .next ((S.noted t (z || z' || z'') (m || m' || m'') 0).done t)) ∧
    (s.Runs t [dataField d (atomSize op), .even base, dataField idx (atomSize op)] [] gd → s.reads t (atomRegs op idx) = some (ws, z', m') →
      s.Answers S t (z || z') (m || m')
        (atomMem (addressOf A 0 off) (atomSize op) sc (orderAcq ord) (orderRel ord)
          (fun old => some (atomApply op old (wordsNat ws), if op = .exch64 then pairBits ws else 0)) (wordsNat ws)
          (if op = .exch64 then pairBits ws else 0) (atomHosted op)
          fun dev pa => askAtomic dev pa (addressOf A 0 off) op.code ord.code (wordsNat ws) 0) (got, gl) →
      exec (.atom gd d base idx off op ord sc) s = .next (S.loaded t (atomResults op d got.v got.tags) gl (z || z') (m || m'))) ∧
    (s.Runs t ([dataField d (if w64 then 8 else 4), .even base, .even idx] ++
        [.range (if w64 then idx + 2 else idx + 1) (if w64 then 2 else 1)]) [] gd →
      s.reads t (if w64 then dataRegs idx 8 else [(idx, .any)]) = some (cs, z', m') →
      s.reads t (if w64 then [(idx + 2, .any), (idx + 3, .any)] else [(idx + 1, .any)]) = some (ws, z'', m'') →
      s.Answers S t (z || z' || z'') (m || m' || m'')
        (atomMem (addressOf A 0 off) (if w64 then 8 else 4) sc (orderAcq ord) (orderRel ord)
          (fun old => if old = wordsNat cs then some (wordsNat ws, if w64 then pairBits ws else 0) else none) (wordsNat ws)
          (if w64 then pairBits ws else 0) true
          fun dev pa => askAtomic dev pa (addressOf A 0 off) (if w64 then 13 else 12) ord.code (wordsNat ws) (wordsNat cs)) (got, gl) →
      exec (.cas gd d base idx off w64 ord sc) s = .next (S.loaded t (casResults w64 d got.v got.tags) gl (z || z' || z'') (m || m' || m''))) ∧
    (s.Runs t [dataField d (atomSize op), .even base, .r idx] [] gd → s.reads t [(idx, .int)] = some ([x], z', m') →
      s.reads t (atomRegs op d) = some (ws, z3, m3) →
      s.Answers S t (z || z' || z3) (m || m' || m3) (redMem op (addressOf A x.bits off) (wordsNat ws) sc rel) ⟨⟩ →
      exec (.red gd d base idx off op rel sc) s = .next ((S.noted t (z || z' || z3) (m || m' || m3) 0).done t))

/-- R277, R278: FENCE with nothing to report does its release and its acquire and completes: a release wider than thread scope waits
until the gang's side log is empty (at group and core scope too: log entry 108) and, at system scope, until the posted stores made before it
are acknowledged (log entry 82), and once it has begun to wait it reports nothing more (R451); at device scope or
wider it cleans the core's raw lines, and an acquire there makes the core's copies give way to home; CINV and CCLEAN write back the dirty bytes of the line the address names, or of every line, and CINV drops them. -/
def Obligations.FenceAndCache : Prop :=
  ∀ (s S : State) (t : Nat) (gd : Guard) (ord : FenceOrd) (sc base idx l : Nat) (off : Int) (A : DWord) (x : TWord) (z m z' m' : Bool)
    (th : Thread) (g : Gang), s.threads.find t = some th → s.gangs.find (gidOf t) = some g →
    (s.Runs t [] [] gd → th.copyFaults = [] → th.slFail = none →
      ((fenceRel ord = true → 1 ≤ sc → g.slog = [] ∧ (sc = 4 → s.unacked = false)) →
        exec (.fence gd ord sc) s =
          (let r := if fenceRel ord && decide (3 ≤ sc) then s.cleanRaw (coreOf t) else s
           .next ((if fenceAcq ord && decide (3 ≤ sc) then r.acquire (coreOf t) else r).done t))) ∧
      (fenceRel ord = true → 1 ≤ sc →
        let w := s.updThread t fun y => { y with cont := .drained }
        (g.slog ≠ [] → exec (.fence gd ord sc) s = .next (w.waitOn t .slogEmpty)) ∧
        (g.slog = [] → sc = 4 → s.unacked = true → exec (.fence gd ord sc) s = .next (w.waitOn t .posted)))) ∧
    (s.Runs t [] [] gd →
      exec (.cinv gd true base idx off) s = .next (((s.cleanAll (coreOf t)).updCore (coreOf t) fun c => { c with cache := [] }).done t) ∧
      exec (.cclean gd true base idx off) s = .next ((s.cleanAll (coreOf t)).done t)) ∧
    (s.Runs t [.even base, .r idx] [] gd →
      (s.srcPair t base .loAddr .hiAddr = some (A, z, m) → s.reads t [(idx, .int)] = some ([x], z', m') →
        s.Answers S t (z || z') (m || m') (lineFor (addressOf A x.bits off)) (some l) →
        exec (.cinv gd false base idx off) s = .next (((S.noted t (z || z') (m || m') 0).evict (coreOf t) l).done t) ∧
        exec (.cclean gd false base idx off) s = .next (((S.noted t (z || z') (m || m') 0).cleanLine (coreOf t) l).done t)))

/-- R1, R253, R284: a store at the home L2 is little-endian and changes its own bytes only; what it wrote is read back; memory keeps its
canonical form; and registers, threads and gangs stand. R254 to R256: after a store of any class within a line the core reads what it
stored, every other byte as before or as home held it; a plain store leaves each byte at home as it was or as the core already saw it (a line
that goes to make room takes its dirty bytes home, R15, log entry 81), and leaves home alone when no line has to go; and no other core's column
cache changes. -/
def Obligations.HomeStores : Prop :=
  (∀ (s : State) (c pa n v tags : Nat) (tagged : Bool), Memory.wf s.mem = true →
    let s' := s.homeWrite c pa n v tags tagged
    s'.phys n pa = v % 256 ^ n ∧ (∀ i, i < n → Memory.get s'.mem (pa + i) = BitVec.ofNat 8 (v / 256 ^ i)) ∧
    (∀ a, a < pa ∨ pa + n ≤ a → Memory.get s'.mem a = Memory.get s.mem a) ∧ Memory.wf s'.mem = true ∧
    s'.threads = s.threads ∧ s'.gangs = s.gangs ∧ s'.kernels = s.kernels ∧ (tagged = false → s'.tagBits = s.tagBits)) ∧
  (∀ (s : State) (core c pa pte n v tags : Nat) (cls : AccClass), Memory.wf s.mem = true → 0 < n → pa % 128 + n ≤ 128 →
    (s.core core).cache.Pairwise (fun x y => x.1 < y.1) →
    (∀ j l, (s.core core).cache.find j = some l → ∀ i, i < 128 → bit l.dirty i = true → bit l.valid i = true) →
    let s' := s.writeClass core c cls pa pte n v tags
    (∀ i, i < n → s'.viewByte core (pa + i) = v / 256 ^ i % 256) ∧
    (∀ a, a < pa ∨ pa + n ≤ a → s'.viewByte core a = s.viewByte core a ∨ s'.viewByte core a = s.phys 1 a) ∧
    (cls = .plain → ∀ a, Memory.get s'.mem a = Memory.get s.mem a ∨ Memory.get s'.mem a = BitVec.ofNat 8 (s.viewByte core a)) ∧
    (cls = .plain → (s.core core).cache.length < cacheLines →
      (∀ l, (s.core core).cache.find (pa / 128) = some l → s.outdated l = false) → s'.mem = s.mem) ∧ (∀ k, k ≠ core → s'.core k = s.core k) ∧ s'.threads = s.threads ∧ s'.gangs = s.gangs)

/-- R232 to R235, R242: bytes written to a window or a stack segment are read back, and every row not touched stands; a read of bytes answers
their value, zeros for an expired lapsing row with the lapse noted, and raises EXPIRED with the failing byte's address in a trapping one; a
write that passes its checks writes those bytes. A read that meets a row with bad metadata raises MEMERR at the failing byte, and the row is
then treated as expired and trapping. R401: a read that answers corrects the correctable errors of its words and counts them in oscor, and a failing one is counted in osunc. -/
def Obligations.RowAccesses : Prop :=
  (∀ (al : Alloc) (tick off n v lane : Nat) (h : Home),
    let ps := placesIn h lane off n
    let al' := writePlaces al tick ps (leBytes n v) []
    readPlaces al' tick ps = leBytes n v ∧
      (∀ r, r < off / rowStep h ∨ (off + n + rowStep h - 1) / rowStep h ≤ r → al'.row r = al.row r) ∧
      al'.cls = al.cls ∧ al'.life = al.life ∧ al'.pages = al.pages) ∧
  (∀ (s : State) (c : Cur) (th : Thread) (g : Gang) (h : Home) (off n a v : Nat) (al : Alloc), s.cur = some c →
    s.threads.find c.t = some th → s.gangs.find (gidOf c.t) = some g → s.allocAt h = some al →
    let tick := s.tickOf g.ctx
    let ps := placesIn h (laneOf c.t) off n
    let part := partialPlaces h off n ps
    let sc := scanPlaces al tick ps 0
    let hit := al.struckAt s.curNo ps
    (∀ i, hit = some i → readRow h off n a s =
      .error (.memerr (a + i)) ((s.setAllocAt h (al.meet s.curNo ps)).ecount (dieOfCore (coreOf c.t)) 1 1)) ∧
    (∀ i, hit = none → sc.expired = none → sc.memerr = some i → readRow h off n a s =
      .error (.memerr (a + i)) (s.ecount (dieOfCore (coreOf c.t)) 1 1)) ∧
    (hit = none → sc.expired = none → sc.memerr = none → s.Turns (s.cureRows (coreOf c.t) h (wordsAt ps)) c.t (readRow h off n a) (leNat (readPlaces al tick ps)) sc.lapse) ∧
    (∀ i, hit = none → sc.expired = some i → readRow h off n a s = .error (.trap .expired (a + i)) s) ∧
    (hit = none → rowWriteStop al tick a ps part = none →
      s.Turns (s.setAllocAt h (writePlaces al tick ps (leBytes n v) [])) c.t (writeRow h off n a v) ⟨⟩ (scanPlaces al tick part 0).lapse)) ∧
  (∀ (s : State) (core : Nat) (h : Home) (al : Alloc) (ms : List (Nat × Nat)) (x : Die), s.allocAt h = some al →
    (al.softAt ms = false → s.cureRows core h ms = s) ∧
    (al.softAt ms = true → s.dies.find (dieOfCore core) = some x → x.ecnt.length = 8 →
      ((s.cureRows core h ms).die (dieOfCore core)).ecnt.getD 0 0 = min (x.ecnt.getD 0 0 + (al.softCount - (al.cure ms).softCount)) 65535 ∧
      ∃ al', (s.cureRows core h ms).allocAt h = some al' ∧ al'.softAt ms = false ∧ al'.cls = al.cls ∧
        ∀ n, (al'.row n).words = (al.row n).words ∧ (al'.row n).stamp = (al.row n).stamp ∧ (al'.row n).bad = (al.row n).bad))

/-- R249 to R251, R7: an access outside the apertures, or not aligned, raises ADDR with its address; one beyond the bytes of a scratch window,
or in a window that is unmapped, raises SPBOUND; one beyond the thread's stack segment raises STKBOUND; one within goes to that window or
segment at its offset. -/
def Obligations.AddressChecks : Prop :=
  ∀ (s : State) (c : Cur) (a n : Nat), s.cur = some c →
    (aperture a = none → checkMem a n n s = .error (.trap .addr a) s) ∧
    (a % n ≠ 0 → checkMem a n n s = .error (.trap .addr a) s) ∧
    (0 < a / 2 ^ 56 → a / 2 ^ 56 < 254 → checkMem a n n s = .error (.trap .addr a) s) ∧
    (a / 2 ^ 56 = 255 → a / 2 ^ 32 % 2 ^ 24 ≠ 0 → checkMem a n n s = .error (.trap .addr a) s) ∧
    (∀ g, s.gangs.find (gidOf c.t) = some g → a % n = 0 → 0 < n →
      (a / 2 ^ 32 = 255 * 2 ^ 24 →
        let w := a / 2 ^ 28 % 16
        let off := a % 2 ^ 28
        (w = 0 → 4096 * g.scratch.pages < off + n → checkMem a n n s = .error (.trap .spbound a) s) ∧
        (w = 0 → off + n ≤ 4096 * g.scratch.pages → checkMem a n n s = .ok (.row (.scratch (gidOf c.t)) off) s) ∧
        (4 < w → checkMem a n n s = .error (.trap .spbound a) s) ∧
        (0 < w → w ≤ 4 → g.grp.getD (w - 1) none = none → checkMem a n n s = .error (.trap .spbound a) s) ∧
        (∀ i x, 0 < w → w ≤ 4 → g.grp.getD (w - 1) none = some i → s.insts.find i = some x →
          (x.span = true ∨ x.window = none → checkMem a n n s = .error (.trap .spbound a) s) ∧
          (∀ al, x.span = false → x.window = some al →
            (4096 * al.pages < off + n → checkMem a n n s = .error (.trap .spbound a) s) ∧
            (off + n ≤ 4096 * al.pages → checkMem a n n s = .ok (.row (.window i) off) s)))) ∧
      (a / 2 ^ 56 = 254 →
        let off := a % 2 ^ 56
        (128 * g.stack.pages < off + n → checkMem a n n s = .error (.trap .stkbound a) s) ∧
        (off + n ≤ 128 * g.stack.pages → checkMem a n n s = .ok (.row (.stack (gidOf c.t)) off) s)))

/-! ## Sweeps (10_float) -/

/-- R223 to R226: an iteration of SWADD, SWMUL, SWFMA, SWMAX, SWCVT, SWCOPY, SWSUM and SWEX2 reads its blocks at the bases plus the
iteration's steps, computes element by element, writes D, and either leaves `swp` at the next iteration for another issue or completes; each of
them with a count of 0 completes without an access. -/
def Obligations.Sweeps : Prop :=
  ∀ (s : State) (t : Nat) (gd : Guard) (d a b cnt sd sa sb : Nat) (D A B : DWord) (z1 z2 z3 m1 m2 m3 : Bool) (th : Thread) (g : Gang),
    s.threads.find t = some th → s.gangs.find (gidOf t) = some g →
    let i := th.sweepStart
    let tick := s.tickOf g.ctx
    let w := s.updThread t fun y => { y with swpAct := true, swpIter := i }
    let place (x : DWord) (st : Nat) := (x.toNat + i * stepBytes st) % 2 ^ 64
    (let none : Host.Outcome State Fault Refusal := .next ((s.updThread t fun y => { y with swpAct := false, swpIter := 0 }).done t)
     (s.Runs t [.even d, .even a, .even b] [] gd →
       exec (.swadd gd d a b 0 sd sa sb) s = none ∧ exec (.swmul gd d a b 0 sd sa sb) s = none ∧
       exec (.swfma gd d a b 0 sd sa sb) s = none ∧ exec (.swmax gd d a b 0 sd sa sb) s = none) ∧
     (s.Runs t [.even d, .even a] [] gd →
       exec (.swcvt gd d a 0 sd sa) s = none ∧ exec (.swcopy gd d a 0 sd sa) s = none ∧
       exec (.swsum gd d a 0 sa) s = none ∧ exec (.swex2 gd d a 0 sd sa) s = none)) ∧
    (s.Runs t [.even d, .even a, .even b] [] gd → i < cnt → s.srcPair t d .loAddr .hiAddr = some (D, z1, m1) →
      s.srcPair t a .loAddr .hiAddr = some (A, z2, m2) → s.srcPair t b .loAddr .hiAddr = some (B, z3, m3) →
      (∀ q, w.SweepAt t 32 false true (place D sd) (place A sa) (place B sb) tick q → ∃ O,
        exec (.swadd gd d a b cnt sd sa sb) s = .next (s.swept t 32 tick i cnt O (z1 || z2 || z3) (m1 || m2 || m3) q
          (lanes2 (fadd .f32 th.rm th.ftz) q.x q.y)) ∧
        exec (.swmul gd d a b cnt sd sa sb) s = .next (s.swept t 32 tick i cnt O (z1 || z2 || z3) (m1 || m2 || m3) q
          (lanes2 (fmul .f32 th.rm th.ftz) q.x q.y)) ∧
        exec (.swmax gd d a b cnt sd sa sb) s = .next (s.swept t 32 tick i cnt O (z1 || z2 || z3) (m1 || m2 || m3) q
          (lanes2 (fun u v => fminmax .f32 true (fmods false false th.ftz u) (fmods false false th.ftz v)) q.x q.y))) ∧
      (∀ q, w.SweepAt t 32 true true (place D sd) (place A sa) (place B sb) tick q → ∃ O,
        exec (.swfma gd d a b cnt sd sa sb) s = .next (s.swept t 32 tick i cnt O (z1 || z2 || z3) (m1 || m2 || m3) q
          (lanes3 (ffma .f32 th.rm th.ftz) q.x q.y q.w)))) ∧
    (s.Runs t [.even d, .even a] [] gd → i < cnt → s.srcPair t d .loAddr .hiAddr = some (D, z1, m1) →
      s.srcPair t a .loAddr .hiAddr = some (A, z2, m2) →
      (∀ q, w.SweepAt t 16 false false (place D sd) (place A sa) 0 tick q → ∃ O,
        exec (.swcvt gd d a cnt sd sa) s = .next (s.swept t 16 tick i cnt O (z1 || z2) (m1 || m2) q
          (lanes1 16 (floatToFloat .f32 .bf16 th.rm th.ftz) q.x))) ∧
      (∀ q, w.SweepAt t 32 false false (place D sd) (place A sa) 0 tick q → ∃ O,
        exec (.swcopy gd d a cnt sd sa) s = .next (s.swept t 32 tick i cnt O (z1 || z2) (m1 || m2) q (q.x, 0)) ∧
        exec (.swex2 gd d a cnt sd sa) s = .next (s.swept t 32 tick i cnt O (z1 || z2) (m1 || m2) q (lanes1 32 (fex2 th.ftz) q.x))) ∧
      (∀ q, w.SweepAt t 4 true false (place D 0) (place A sa) 0 tick q → ∃ O r,
        exec (.swsum gd d a cnt sa) s = .next (s.swept t 4 tick i cnt O (z1 || z2) (m1 || m2) q r) ∧
        r = (List.range 8).foldl (fun (e : FRes) k =>
          let f := fadd .f32 th.rm th.ftz e.1 (q.x / 4294967296 ^ k % 4294967296)
          (f.1, orf e.2 f.2)) (q.w, 0)))

/-! ## Copies (12_memory) -/

/-- R279 to R282: CPA checks its source before the count of its batch tag; with fewer than 63 copies under it a copy is in flight, of a
scratch source read as it issues (log entry 29; one with an uncorrectable error fails as it lands, log entry 30: both are the model's
inference, for R279 does not say when the source is read) or of a global one read as it lands; CPA counts its tag up and completes; WAITB with no fault to report completes when at most `n` copies are
outstanding and waits otherwise. CPB puts one piece in flight per issue, within one 128-byte line of the source, leaves `swp` at the next
piece for another issue, and completes with the last one; the pieces follow one another and cover the range. -/
def Obligations.Copies : Prop :=
  (∀ (s S S' : State) (t : Nat) (gd : Guard) (d base idx lgw bt n pp pte pa o so : Nat) (off : Int) (cls : AccClass) (A D : DWord) (x : TWord)
    (h sh : Home) (r v : Option Nat) (z1 z2 z3 m1 m2 m3 zr : Bool) (th : Thread) (g : Gang),
    s.threads.find t = some th → s.gangs.find (gidOf t) = some g →
    let len := 4 * 2 ^ lgw
    let va := addressOf A 0 off
    let vb := min x.bits.toNat len
    let l (no : Nat) : Landing := { t := t, lin := th.lin, ctx := g.ctx, bt := some bt, home := h, off := o, len := len, vb := vb,
                                    dst := D.toNat, src := va, pa := 0, cls := cls, got := none, rem := none, no := no, bar := none }
    let w := s.updThread t fun y => { y with ranges := [(h, o + len)] }
    let out (S : State) (z : Bool) (l : Landing) : Host.Outcome State Fault Refusal :=
      .next (({ (S.noted t (z1 || z2 || z3 || z) (m1 || m2 || m3) 0).updThread t fun y =>
        { y with bt := y.bt.set bt (y.bt.getD bt 0 + 1) } with issueNo := S.issueNo + 1 }.updCore (coreOf t) fun c =>
          { c with landings := c.landings ++ [l] }).done t)
    (s.Runs t [.even d, .even base, .r idx] [] gd → s.srcPair t base .loAddr .hiAddr = some (A, z1, m1) →
      s.reads t [(idx, .int)] = some ([x], z2, m2) → s.srcPair t d .loAddr .hiAddr = some (D, z3, m3) →
      s.Gives t (scratchAt D.toNat len len) (h, o) → th.bt.getD bt 0 < 63 →
      (vb = 0 → w.Gives t (checkBrk D.toNat len false true) ⟨⟩ →
        exec (.cpa gd d base idx off lgw bt cls) s = out w false { l s.issueNo with got := some (0, false) }) ∧
      (vb ≠ 0 → (∃ g', S.gangs.find (gidOf t) = some g' ∧ g'.ctx = g.ctx) → S.Gives t (checkBrk D.toNat len false true) ⟨⟩ →
        S.Gives t (checkBrk va vb true false) ⟨⟩ →
        (w.Gives t (checkMem va vb len) (.row sh so) → w.Turns S t (copyRow sh so vb va) v zr →
          exec (.cpa gd d base idx off lgw bt cls) s = out S zr { l S.issueNo with got := some (v.getD 0, v.isNone) }) ∧
        (w.Gives t (checkMem va vb len) (.glob va) → w.Turns S t (copyCheck va vb) (pp, pte) false →
          S.Turns S' t (copySource pp pte va vb) (pa, r) false →
          exec (.cpa gd d base idx off lgw bt cls) s = out S' false { l S.issueNo with pa := pa, rem := r }))) ∧
    (s.Runs t [] [] gd → th.copyFaults = [] →
      (th.bt.getD bt 0 ≤ n → exec (.waitb gd bt n) s = .next (s.done t)) ∧
      (n < th.bt.getD bt 0 → exec (.waitb gd bt n) s = .next (s.waitOn t (.batch bt n))))) ∧
  ((∀ (s S S' : State) (t : Nat) (gd : Guard) (d base idx pp pte pa o bo : Nat) (off : Int) (cls : AccClass) (A D : DWord) (x lo hi : TWord)
    (h bh : Home) (r : Option Nat) (z1 z2 z3 z4 m1 m2 m3 m4 : Bool) (th : Thread) (g : Gang),
    s.threads.find t = some th → s.gangs.find (gidOf t) = some g →
    let va := addressOf A 0 off
    let n := x.bits.toNat
    let bar := lo.bits.toNat + 4294967296 * hi.bits.toNat
    let k := th.sweepStart
    let w := s.updThread t fun y => { y with swpAct := true, swpIter := k, ranges := [(h, o + n), (bh, bo + 16)] }
    let p := piece va n k
    let dst := D.toNat + (p.1 - va)
    let l : Landing := { t := t, lin := th.lin, ctx := g.ctx, bt := none, home := h, off := o + (p.1 - va), len := p.2, vb := p.2, dst := dst,
                         src := p.1, pa := pa, cls := cls, got := none, rem := r, no := S'.issueNo, bar := some (bh, bo, bar) }
    s.Runs t [.even d, .range (d + 2) 2, .even base, .r idx] [] gd → s.srcPair t base .loAddr .hiAddr = some (A, z1, m1) →
    s.reads t [(idx, .int)] = some ([x], z2, m2) → s.srcPair t d .loAddr .hiAddr = some (D, z3, m3) →
    s.reads t [(d + 2, .loAddr), (d + 3, .hiAddr)] = some ([lo, hi], z4, m4) →
    0 < n → n % 32 = 0 → n ≤ 65536 → va % 32 = 0 → va + n ≤ 2 ^ 56 →
    s.Gives t (scratchAt D.toNat n 32) (h, o) → s.Gives t (scratchAt bar 16 16) (bh, bo) → k < pieceCount va n →
    w.Turns S t (copyCheck p.1 p.2) (pp, pte) false → (∃ g', S.gangs.find (gidOf t) = some g' ∧ g'.ctx = g.ctx) →
    S.Gives t (checkBrk p.1 p.2 true false) ⟨⟩ → S.Gives t (checkBrk dst p.2 false true) ⟨⟩ →
    S.Turns S' t (copySource pp pte p.1 p.2) (pa, r) false →
    ∃ B c,
      exec (.cpb gd d base idx off cls) s =
        (let more := decide (k + 1 < pieceCount va n)
         let q := { (S'.reading t B (z1 || z2 || z3 || z4) (m1 || m2 || m3 || m4)).updThread t fun y =>
           { y with cont := c, swpAct := more, swpIter := if more then k + 1 else 0 } with issueNo := S'.issueNo + 1 }.updCore (coreOf t) fun e =>
             { e with landings := e.landings ++ [l] }
         .next (if more then q.again t else q.done t))) ∧
  (∀ a n k, 0 < n → k < pieceCount a n →
    (piece a n 0).1 = a ∧ 0 < (piece a n k).2 ∧ (piece a n k).1 / 128 = ((piece a n k).1 + (piece a n k).2 - 1) / 128 ∧
    (if k + 1 < pieceCount a n then (piece a n (k + 1)).1 = (piece a n k).1 + (piece a n k).2
     else (piece a n k).1 + (piece a n k).2 = a + n)))

/-! ## Objects (13_object) -/

/-- R299 to R301: OBJINIT gives its range to the core's walker and waits; at its turn the walker formats the object when its range has the
tag and write permissions, is raw, and its lines are not private to another owner, with status 0, and else gives the status without a
change; OBJINIT completes with that status. REFMK writes the address of a live object with tags REFL and REFH. What formatting leaves (R286, R287): the header's 16 bytes, its granule a header, every other granule of the range private, and the
writer its lines' owner. -/
def Obligations.ObjectCreation : Prop :=
  (∀ (s S : State) (t : Nat) (gd : Guard) (d a b k pa hd st : Nat) (A : DWord) (x : TWord) (pages : List (Nat × Nat × Nat × Nat))
    (B : AMap TWord) (z m z1 z2 m1 m2 : Bool) (g : Gang), s.gangs.find (gidOf t) = some g →
    let va := A.toNat
    let n := x.bits.toNat
    let spans := spansOf va ((n + 15) / 16 * 16)
    (s.Runs t [.r d, .even a, .r b] [] gd → s.srcPair t a .loAddr .hiAddr = some (A, z1, m1) →
      s.reads t [(b, .int)] = some ([x], z2, m2) → n % 8 = 0 → 16 ≤ n → n ≤ 4294967288 → va % 16 = 0 → va + n ≤ 2 ^ 56 →
      s.Turns S t (xlateSpans .probe spans) pages false → S.gangs = s.gangs → S.Gives t (checkBrk va n false true) ⟨⟩ →
      ∃ C, exec (.objinit gd d a b k) s =
        .next (((S.reading t C (z1 || z2) (m1 || m2)).queueJob t g.ctx va (.init n pages)).waitOn t (.walk S.walkNext))) ∧
    (s.Resumes t [.r d, .even a, .r b] [] gd true (.tok st) →
      (do let u ← readAddr a
          let v ← natSrc b
          pure (u, v) : M (Nat × Nat)) s = .ok (va, n) (s.reading t B z m) →
      n % 8 = 0 → 16 ≤ n → n ≤ 4294967288 → va % 16 = 0 → va + n ≤ 2 ^ 56 →
      exec (.objinit gd d a b k) s = .next (s.result t d ⟨BitVec.ofNat 32 st, .u32⟩ z m 0)) ∧
    (s.Runs t [.even d, .even a] [] gd → s.srcPair t a .loAddr .hiAddr = some (A, z1, m1) →
      s.Turns S t (validateRef va .load) (pa, hd) false →
      exec (.refmk gd d a k) s = .next (S.resultPair t d (loWord A .refl) (hiWord A .refh) z1 m1 0))) ∧
  (∀ (s s' : State) (core len : Nat) (w : Walk) (pages : List (Nat × Nat × Nat × Nat)) (rs : List (Nat × Nat)), w.job = some (.init len pages) →
    let st := s.objStatus (s.ownerOf core) pages
    (st ≠ 0 → wStep core w s = .ok ({ w with count := st }, true) s) ∧
    (st = 0 → wSpans core w .store (pages.map fun p => (p.1, p.2.2.1)) s = .ok rs s' →
      wStep core w s = .ok ({ w with count := 0 }, true) (s'.formatObject core w.ctx len rs))) ∧
  (∀ (s : State) (core c len pa n k : Nat), Memory.wf s.mem = true → n % 16 = 0 → pa % 16 = 0 → 16 * k < n → len < 2 ^ 32 → core < 512 →
    s.devnum < 64 →
    let s' := s.formatObject core c len [(pa, n)]
    s'.phys 16 pa = freshHeader len (s.ownerOf core) ∧ s'.granAt pa = 7 ∧ (0 < k → s'.granAt (pa + 16 * k) = 1) ∧
    s'.ownerAt (pa + 16 * k) = s.ownerOf core ∧ s'.threads = s.threads ∧ s'.gangs = s.gangs ∧
    (∀ q, q % 16 = 0 → q < pa ∨ pa + n ≤ q → s'.granAt q = s.granAt q))

/-- R302, R303: PUBLISH, with the thread's earlier accesses performed, asks for a walk and waits, whatever scope its root has; what the walk
counted is the result of PUBLISH, and of PUBST once its store is done; that the root's scope makes no difference is the model's inference
(log entry 31). R304, R305: OBJST checks its offset against the object's length and
stores the pair in the class its scope calls for; RECLAIM of an object that the caller may end, with no walk's claim on it, gives its range to
the walker, which ends the object at its turn, and then completes; one whose scope has come to need a wider release than was made is asked
for again. -/
def Obligations.ObjectUse : Prop :=
  (∀ (s S S' : State) (t : Nat) (gd : Guard) (d a b k sc pa hd n : Nat) (R A : DWord) (B : AMap TWord) (z1 z2 m1 m2 : Bool) (th : Thread)
    (g : Gang), s.threads.find t = some th → s.gangs.find (gidOf t) = some g →
    (s.Runs t [.r d, .even a] [] gd → s.srcPair t a .refLo .refHi = some (R, z1, m1) →
      s.Turns S t (validateRef R.toNat .load) (pa, hd) false → S.Gives t (validateRef R.toNat .load) (pa, hd) → g.slog = [] →
      S.gangs = s.gangs → S.unacked = false →
      ∃ B, exec (.publish gd d a k sc) s =
        .next (((S.reading t B z1 m1).queueWalk t g.ctx R.toNat sc hd (if th.swpAct then some th.swpIter else none) false).waitOn t
          (.walk S.walkNext))) ∧
    (s.Resumes t [.r d, .even a] [] gd true (.tok n) → readRef a s = .ok R.toNat (s.reading t B z1 m1) →
      exec (.publish gd d a k sc) s = .next (s.result t d ⟨BitVec.ofNat 32 (min n 4294967295), .u32⟩ z1 m1 0)) ∧
    (s.Resumes t [.r d, .even a, .even b] [] gd true (.tok n) →
      (do let va ← readAddr a
          let r ← readRef b
          pure (va, r) : M (Nat × Nat)) s = .ok (A.toNat, R.toNat) (s.reading t B (z1 || z2) (m1 || m2)) →
      ((s.reading t B (z1 || z2) (m1 || m2)).updThread t fun y => { y with cont := .tok n, wkCnt := if th.inh then th.wkCnt else some (th.pc, n) }).Turns
        S' t (holdStore A.toNat R.toNat 1 .shared (releaseAt sc)) ⟨⟩ false →
      exec (.pubst gd d a b k sc) s =
        .next ((S'.updThread t fun y => { y with wkCnt := if th.inh then th.wkCnt else none }).result t d
          ⟨BitVec.ofNat 32 (min n 4294967295), .u32⟩ false false 0))) ∧
  (∀ (s S S' S'' : State) (t : Nat) (gd : Guard) (d a b k pa hd v tag : Nat) (R : DWord) (x : TWord) (pages : List (Nat × Nat × Nat × Nat))
    (B : AMap TWord) (z m : Bool) (g : Gang), s.gangs.find (gidOf t) = some g →
    (s.Runs t [.even d, .even a, .r b] [] gd →
      (do let r ← readRef a
          let o ← natSrc b
          let p ← pairAny d
          pure (r, o, p) : M (Nat × Nat × Nat × Nat)) s = .ok (R.toNat, x.bits.toNat, v, tag) (s.reading t B z m) →
      (s.reading t B z m).Turns S t (validateRef R.toNat .load) (pa, hd) false →
      x.bits.toNat % 8 = 0 → 16 ≤ x.bits.toNat → x.bits.toNat + 8 ≤ hdrLen hd →
      S.Turns S' t (holdStore (R.toNat + x.bits.toNat) v tag (if hdrScope hd = 0 then .plain else .shared) (pure ())) ⟨⟩ false →
      exec (.objst gd d a b k) s = .next (S'.done t)) ∧
    (s.Runs t [.even a] [] gd → s.srcPair t a .refLo .refHi = some (R, z, m) → s.Turns S t (validateRef R.toNat .load) (pa, hd) false →
      S.gangs = s.gangs → hdrScope hd ≠ 0 ∨ hdrOwner hd = S.ownerOf (coreOf t) → S.claimant hd = none →
      S.Turns S' t (xlateSpans .store (spansOf R.toNat ((hdrLen hd + 15) / 16 * 16))) pages false →
      S'.Gives t (reportLog (hdrScope hd)) ⟨⟩ → S'.Turns S'' t (releaseAt (max (hdrScope hd) 2)) ⟨⟩ false → S''.gangs = s.gangs → ∃ B,
      exec (.reclaim gd a k) s =
        .next (((S''.reading t B z m).queueJob t g.ctx R.toNat (.reclaim (hdrScope hd) pa (pages.map fun p => (p.2.1, p.2.2.1)))).waitOn t
          (.walk S''.walkNext))) ∧
    (s.Resumes t [.even a] [] gd true (.tok 0) → readRef a s = .ok R.toNat (s.reading t B z m) →
      exec (.reclaim gd a k) s = .next ((s.noted t z m 0).done t))) ∧
  (∀ (s : State) (core sc pa : Nat) (w : Walk) (rs : List (Nat × Nat)), w.job = some (.reclaim sc pa rs) → s.liveHeader pa = true →
    s.firstPoison pa 16 0 = none →
    let h := s.phys 16 pa
    hdrScope h ≠ 0 ∨ hdrOwner h = s.ownerOf core → s.otherWalk core h = none →
    (hdrScope h ≤ max sc 2 → wStep core w s = .ok ({ w with count := 0 }, true) ((s.noteRead pa 16).endObject core w.ctx pa h rs)) ∧
    (max sc 2 < hdrScope h → wStep core w s = .ok ({ w with count := 1 }, true) (s.noteRead pa 16)))

/-! ## Barriers (14_barrier) -/

/-- R306 to R309: BARA releases at the barrier's scope, marks the arrival, gives the phase it arrived in and completes; BARW completes with
an acquire when the phase has moved on from its token and waits otherwise; BAR arrives and then waits with its token; a second arrival in
one phase, or a barrier the group slot does not have, raises BARRIER. When every live thread of an instance has arrived, the phase goes up,
the arrivals are forgotten and the waiters go on; else nothing changes. -/
def Obligations.GroupBarriers : Prop :=
  (∀ (s S : State) (t i : Nat) (gd : Guard) (d a bn gs k : Nat) (x : GInst) (y : TWord) (z m : Bool),
    s.InSlot t gs i x →
    let sc := barScope x
    let r := x.bar bn
    let marked := (S.updInst i fun u => { u with bars := u.bars.put bn { r with arrived := r.arrived ++ [t] } }).judgeBarrier i bn
    let acq := if x.span then s.acquire (coreOf t) else s
    (bn < x.nbar → r.arrived.contains t = false →
      S.insts = s.insts → S.gangs = s.gangs → s.Gives t (reportLog sc) ⟨⟩ → s.Turns S t (releaseAt sc) ⟨⟩ false →
      (s.Runs t [.r d] [] gd →
        exec (.bara gd d bn gs k) s = .next (marked.result t d ⟨BitVec.ofNat 32 r.phase, .u32⟩ false false 0)) ∧
      (s.Runs t [] [] gd → S.threads = s.threads →
        exec (.bar gd bn gs k) s = exec (.bar gd bn gs k) (marked.updThread t fun u => { u with cont := .tok r.phase }))) ∧
    (bn < x.nbar → s.Runs t [.r a] [] gd → s.reads t [(a, .int)] = some ([y], z, m) →
      (r.phase ≠ y.bits.toNat → exec (.barw gd a bn gs k) s = .next ((acq.noted t z m 0).done t)) ∧
      (r.phase = y.bits.toNat → ∃ B, exec (.barw gd a bn gs k) s = .next ((s.reading t B z m).waitOn t (.barrier i bn r.phase)))) ∧
    (bn < x.nbar → ∀ p, s.Resumes t [] [] gd true (.tok p) →
      (r.phase ≠ p → exec (.bar gd bn gs k) s = .next (acq.done t)) ∧
      (r.phase = p → exec (.bar gd bn gs k) s = .next (s.waitOn t (.barrier i bn p)))) ∧
    (bn < x.nbar → s.Resumes t [] [] gd true .skip → exec (.bar gd bn gs k) s = .next (acq.done t)) ∧
    (s.Runs t [.r d] [] gd → x.nbar ≤ bn ∨ r.arrived.contains t = true → exec (.bara gd d bn gs k) s = .next (s.takeTrap t .barrier bn))) ∧
  (∀ (s : State) (i b : Nat) (x : GInst) (y : Barrier), s.insts.find i = some x → x.bar b = y →
    ((∃ t, t ∈ s.liveOf i ∧ t ∉ y.arrived) → s.judgeBarrier i b = s) ∧
    ((∀ t, t ∈ s.liveOf i → t ∈ y.arrived) →
      (∃ x', (s.judgeBarrier i b).insts.find i = some x' ∧ x'.bars.find b = some { phase := (y.phase + 1) % 4294967296, arrived := [] }) ∧
      (∀ t th p, s.threads.find t = some th → th.wait = some (.barrier i b p) →
        ∃ th', (s.judgeBarrier i b).threads.find t = some th' ∧ th'.wait = none ∧ th'.cont = .skip) ∧
      (∀ t th, s.threads.find t = some th → th.wait = none → (s.judgeBarrier i b).threads.find t = some th) ∧
      (s.judgeBarrier i b).mem = s.mem ∧ (s.judgeBarrier i b).gangs = s.gangs))

/-- R311 to R317: XBINIT writes a word of `n` arrivals to come; XBARR waits for the gang's side log (its release at core scope, log entry 108), counts an arrival off and pieces up, gives the phase and judges the
word; XBTRY reports whether the phase has moved on from its token; XBWAIT completes when it has, waits when it has not, and completes once
the word's phase has released it. The judgement (R312): with no arrival and no piece to come the phase goes up by one modulo 16 and the
arrivals are reloaded; else the word stands. -/
def Obligations.LandingBarriers : Prop :=
  (∀ (s S : State) (t : Nat) (gd : Guard) (d a b p k off w : Nat) (h : Home) (A : DWord) (y : TWord) (z1 z2 m1 m2 zr : Bool) (th : Thread)
    (g : Gang), s.threads.find t = some th → s.gangs.find (gidOf t) = some g →
    let va := A.toNat
    let n := y.bits.toNat
    let z := z1 || z2
    let m := m1 || m2
    (s.Resumes t [.even a, .r b] [] gd true .skip → th.copyFaults = [] →
      ∀ B, (do let x ← readAddr a
               let y ← natSrc b
               pure (x, y) : M (Nat × Nat)) s = .ok (va, n) (s.reading t B z m) →
      exec (.xbwait gd a b k) s = .next ((s.noted t z m 0).done t)) ∧
    (s.srcPair t a .loAddr .hiAddr = some (A, z1, m1) → s.reads t [(b, .int)] = some ([y], z2, m2) →
    s.Gives t (scratchAt va 16 16) (h, off) →
    (s.Runs t [.even a, .r b] [] gd → 0 < n → n < 16777216 → s.Gives t (checkBrk va 16 false true) ⟨⟩ →
      s.Turns S t (writeRow h off 16 va (256 * n + 18446744073709551616 * n)) ⟨⟩ zr →
      exec (.xbinit gd a b k) s = .next ((S.noted t (z || zr) m 0).done t)) ∧
    (s.Turns s t (readRow h off 16 va) w zr → xbZero w = true →
      (s.Runs t [.r d, .even a, .r b] [] gd → s.Gives t (checkBrk va 16 true true) ⟨⟩ →
        (g.slog = [] → xbArrivals w ≠ 0 → sext (xbPieces w) 32 + n ≤ 2147483647 →
          ∃ B, exec (.xbarr gd d a b k) s =
            .next ((((s.reading t B (z || zr) m).putBarrier h off (s.tickOf g.ctx)
              (setBits (setBits w 31 8 (xbArrivals w - 1)) 63 32 (xbPieces w + n))).writeReg t d ⟨BitVec.ofNat 32 (xbPhase w), .u32⟩).done t)) ∧
        (g.slog ≠ [] → ∃ B, exec (.xbarr gd d a b k) s =
          .next (((s.reading t B (z || zr) m).updThread t fun y => { y with cont := .drained }).waitOn t .slogEmpty))) ∧
      (s.Runs t [.even a, .r b] [] gd → s.Gives t (checkBrk va 16 true false) ⟨⟩ → th.copyFaults = [] →
        exec (.xbtry gd p a b k) s = .next (s.resultPreds t (predWrite p (xbPhase w != n % 16)) (z || zr) m 0) ∧
        (xbPhase w ≠ n % 16 → exec (.xbwait gd a b k) s = .next ((s.noted t (z || zr) m 0).done t)) ∧
        (xbPhase w = n % 16 → ∃ B, exec (.xbwait gd a b k) s = .next ((s.reading t B (z || zr) m).waitOn t (.landing h off (n % 16)))))))) ∧
  (∀ w, w < 2 ^ 128 →
    (xbArrivals w = 0 ∧ xbPieces w = 0 → (xbJudge w).2 = true ∧ xbPhase (xbJudge w).1 = (xbPhase w + 1) % 16 ∧
      xbArrivals (xbJudge w).1 = xbReload w ∧ xbPieces (xbJudge w).1 = 0 ∧ xbReload (xbJudge w).1 = xbReload w ∧
      xbZero (xbJudge w).1 = xbZero w) ∧
    (¬(xbArrivals w = 0 ∧ xbPieces w = 0) → xbJudge w = (w, false)))

/-! ## Collectives (08_gang) -/

/-- R170 to R175: a lane arrives at LXCH, PAGR, REDG or SCANG with its operand, or abstains when its guard is false; when that completes the
collective its instruction has completed with it, and else it waits. What a completed collective gives a lane, from the contributors' words
`ws` (lanes `q`): the result of its instruction in its register or predicate, and completion; a lane that abstained completes with none. -/
def Obligations.Collectives : Prop :=
  (∀ (s : State) (t : Nat) (gd : Guard) (d a b k : Nat) (kp excl : Bool) (mode : LxMode) (kind : PagrKind) (op : RedOp) (ps : PredSrc)
    (x y : TWord) (z m : Bool) (th : Thread) (g : Gang),
    s.threads.find t = some th → s.gangs.find (gidOf t) = some g →
    let arrived (S : State) (abst : Bool) (x : TWord) (o : CollOp) : State := (S.updGang (gidOf t) fun u =>
      { u with coll := u.coll.filter (fun c => c.lane != laneOf t) ++
        [{ lane := laneOf t, pc := th.pc, rep := th.repNo, abst := abst, a := x, op := o }] }).judgeColl (gidOf t)
    let goesOn (i : Instr) (S : State) : Prop := ∃ u, S.gangs.find (gidOf t) = some u ∧
      exec i s = .next (if u.coll.any (fun c => c.lane == laneOf t) then S.waitOn t .coll else S)
    let p := predBit th.preds ps.p != ps.neg
    let pf := if kind = .mask ∨ kind = .count then [Field.r d] else []
    let lf := [Field.r d, .r a] ++ if mode = .low then [] else [.r b]
    (s.Runs t [.r d, .r a] [] gd → s.reads t [(a, redKind op)] = some ([x], z, m) → ∃ B,
      goesOn (.redg gd d a k op) (arrived (s.reading t B z m) false x (.redg op d)) ∧
      goesOn (.scang gd d a k op excl) (arrived (s.reading t B z m) false x (.scang op excl d))) ∧
    (s.Runs t pf [] gd → goesOn (.pagr gd d ps k kind) (arrived s false ⟨BitVec.ofNat 32 (b2n p), .raw⟩ (.pagr kind d))) ∧
    (s.Runs t lf [] gd → mode = .low → s.reads t [(a, .any)] = some ([x], z, m) → ∃ B,
      goesOn (.lxch gd d a b k mode kp) (arrived (s.reading t B z m) false x (.lxch mode kp d 0))) ∧
    (s.Runs t lf [] gd → mode ≠ .low → s.reads t [(a, .any), (b, .int)] = some ([x, y], z, m) → ∃ B,
      goesOn (.lxch gd d a b k mode kp) (arrived (s.reading t B z m) false x (.lxch mode kp d y.bits.toNat))) ∧
    (s.Resumes t [.r d, .r a] [] gd false .none →
      goesOn (.redg gd d a k op) (arrived s true ⟨0, .raw⟩ (.redg op d)) ∧
      goesOn (.scang gd d a k op excl) (arrived s true ⟨0, .raw⟩ (.scang op excl d))) ∧
    (s.Resumes t pf [] gd false .none → goesOn (.pagr gd d ps k kind) (arrived s true ⟨0, .raw⟩ (.pagr kind d))) ∧
    (s.Resumes t lf [] gd false .none → goesOn (.lxch gd d a b k mode kp) (arrived s true ⟨0, .raw⟩ (.lxch mode kp d 0)))) ∧
  (∀ (s : State) (gid d k q : Nat) (kp excl : Bool) (mode : LxMode) (kind : PagrKind) (op : RedOp) (ws : List TWord) (c : CollArr),
    let t := 32 * gid + c.lane
    let S := s.collDeliver gid ws q c
    let ts := trueLanes ws q
    let n := popcount 32 q
    let word (v : Nat) (tag : Tag) (f : Nat) : State := s.result t d ⟨BitVec.ofNat 32 v, tag⟩ false false f
    let flag (b : Bool) : State := s.resultPreds t (predWrite (d % 8) b) false false 0
    (c.abst = true → S = s.done t) ∧
    (c.abst = false →
      (c.op = .redg op d → let r := tree32 op ws q 32
        S = word (r.1.getD (redEmpty op)) (redTag op) r.2) ∧
      (c.op = .scang op excl d → let r := tree32 op ws q (if excl then c.lane else c.lane + 1)
        S = word (r.1.getD (redEmpty op)) (redTag op) (scanFlags op ws q excl)) ∧
      (c.op = .pagr kind d →
        (kind = .mask → S = word (ts.foldl (fun v j => setBit v j true) 0) .u32 0) ∧
        (kind = .count → S = word ts.length .u32 0) ∧
        (kind = .and → S = flag (ts.length == n)) ∧
        (kind = .or → S = flag (ts != [])) ∧
        (kind = .eq → S = flag (ts.length == n || ts == []))) ∧
      (c.op = .lxch mode kp d k →
        let from' := match mode with
          | .abs => k % 32
          | .rot => (c.lane + 32 - k % 32) % 32
          | .xor => Nat.xor c.lane (k % 32)
          | .low => ((List.range 32).find? fun j => bit q j).getD 0
        S = s.result t d (if bit q from' then wordAt ws from' else if kp then c.a else ⟨0, .raw⟩) false false 0)))

/-- R170, R171: a collective completes when every live thread of the gang has arrived at one PC in one repetition: every lane is delivered
the result of the contributors' words by lane and their mask, and no longer waits; and the gang's arrivals are forgotten. R75, R174: the
integer sum of a reduction is the sum of the contributors' words modulo 2^32, and a maximum is the greatest of them. -/
def Obligations.CollectiveResults : Prop :=
  (∀ (s : State) (gid pc rep : Nat) (g : Gang), s.gangs.find gid = some g → g.coll ≠ [] →
    (∀ c, c ∈ g.coll → c.pc = pc ∧ c.rep = rep ∧ 32 * gid + c.lane ∈ s.lanesOf gid ∧ c.lane < 32) →
    (g.coll.map (·.lane)).Nodup → (∀ t, t ∈ s.lanesOf gid → ∃ c, c ∈ g.coll ∧ c.lane = laneOf t) →
    let S := s.judgeColl gid
    (∃ ws q, (∀ e, e ∈ g.coll → bit q e.lane = !e.abst ∧ (e.abst = false → wordAt ws e.lane = e.a)) ∧
      S = g.coll.foldl (fun S c => S.collDeliver gid ws q c) (s.updGang gid fun u => { u with coll := [] })) ∧
    (∀ t, t ∈ s.lanesOf gid → ∃ u, S.threads.find t = some u ∧ u.wait = none ∧ u.cont = .none ∧ u.opbuf = []) ∧
    (∃ g', S.gangs.find gid = some g' ∧ g'.coll = []) ∧
    ((∀ t th, s.threads.find t = some th → gidOf t = gid → th.pendMis = false) → S.mem = s.mem)) ∧
  (∀ (ws : List TWord) (q lim : Nat), lim ≤ 32 →
    let xs := ((List.range lim).filter (bit q)).map fun k => wordAt ws k
    (tree32 .zadd ws q lim).1.getD 0 = (xs.map fun x => x.bits.toNat).sum % 4294967296 ∧
    (tree32 .zadd ws q lim).2 = 0 ∧
    ((tree32 .zadd ws q lim).1 = none ↔ xs = []) ∧
    (∀ r, (tree32 .smax ws q lim).1 = some r → (∃ x, x ∈ xs ∧ x.bits.toNat = r) ∧ ∀ x, x ∈ xs → sext x.bits.toNat 32 ≤ sext r 32))

/-! ## Conduits, queues and populations (05_queue, 06_kernel, 16_population) -/

/-- R117, R122 to R124: CDSEND waits for the gang's side log (its release at core scope, log entry 108); then it, as CDCLOSE, joins its
instance's senders and completes with the status that it gives, CDRECV joins its receivers and completes with the record or the status,
CDPEEK shows the first record or the status at once; and the three complete so after a wait. -/
def Obligations.Conduits : Prop :=
  (∀ (s : State) (t : Nat) (gd : Guard) (d a cd n k id : Nat) (c : Conduit) (ws : List TWord) (z m : Bool), s.Gives t (conduitAt cd) (id, c) →
    let pumped (B : AMap TWord) (f : Conduit → Conduit) : State := State.cdSettle { s.reading t B z m with conduits := s.conduits.put id (f c) } id cdFuel
    let waits (S : State) (w : Wait) (i : Instr) : Prop := ∀ u, S.threads.find t = some u → u.cont = .none → exec i s = .next (S.waitOn t w)
    let ends (S : State) (i : Instr) (d : Nat) : Prop := ∀ u v, S.threads.find t = some u → u.cont = .tok v →
      exec i s = .next (S.result t d ⟨BitVec.ofNat 32 v, .u32⟩ false false 0)
    (s.Runs t [.r d, .range a n] [] gd →
      s.reads t ((List.range n).map fun j => (a + j, .any)) = some (ws, z, m) → ∃ B,
      ((∃ g, s.gangs.find (gidOf t) = some g ∧ g.slog ≠ []) → exec (.cdsend gd d a cd n k) s =
        .next (((s.reading t B z m).updThread t fun y => { y with cont := .drained }).waitOn t .slogEmpty)) ∧
      ((∃ g, s.gangs.find (gidOf t) = some g ∧ g.slog = []) →
       let S := pumped B fun c => { c with senders := c.senders ++ [(t, some ⟨ws.map cdWord, none⟩)] }
       waits S (.send id) (.cdsend gd d a cd n k) ∧ ends S (.cdsend gd d a cd n k) d)) ∧
    (s.Runs t [.r d] [] gd → z = false → m = false →
      (let S := pumped [] fun c => { c with senders := c.senders ++ [(t, none)] }
       waits S (.send id) (.cdclose gd d cd k) ∧ ends S (.cdclose gd d cd k) d)) ∧
    (s.Runs t [.range d 8, .r a] [] gd → z = false → m = false →
      (let S := pumped [] fun c => { c with recvs := c.recvs ++ [t], fill := match c.fill with | .rest => .ready | x => x }
       waits S (.recv id) (.cdrecv gd d a cd k) ∧ ends S (.cdrecv gd d a cd k) a ∧
       ∀ u vs v, S.threads.find t = some u → u.cont = .words vs v →
         exec (.cdrecv gd d a cd k) s = .next (((S.writeRun t d vs).writeReg t a ⟨BitVec.ofNat 32 v, .u32⟩).done t)) ∧
      (∀ r rs, c.buf = r :: rs → r.bad = none → exec (.cdpeek gd d a cd k) s =
        .next (((s.writeRun t d r.ws).writeReg t a ⟨BitVec.ofNat 32 r.ws.length, .u32⟩).done t)) ∧
      (c.buf = [] → exec (.cdpeek gd d a cd k) s = .next (s.result t a ⟨if c.drained then 256 else 0, .u32⟩ false false 0)))) ∧
  (∀ (s : State) (t : Nat) (gd : Guard) (d a cd n v k id : Nat) (c : Conduit) (ws vs : List TWord) (B : AMap TWord) (z m : Bool),
    s.Gives t (conduitAt cd) (id, c) →
    (s.Resumes t [.r d, .range a n] [] gd true (.tok v) →
      readWords a n s = .ok ws (s.reading t B z m) →
      exec (.cdsend gd d a cd n k) s = .next (s.result t d ⟨BitVec.ofNat 32 v, .u32⟩ z m 0)) ∧
    (s.Resumes t [.r d] [] gd true (.tok v) → exec (.cdclose gd d cd k) s = .next (s.result t d ⟨BitVec.ofNat 32 v, .u32⟩ false false 0)) ∧
    (s.Resumes t [.range d 8, .r a] [] gd true (.tok v) →
      exec (.cdrecv gd d a cd k) s = .next (s.result t a ⟨BitVec.ofNat 32 v, .u32⟩ false false 0)) ∧
    (s.Resumes t [.range d 8, .r a] [] gd true (.words vs v) →
      exec (.cdrecv gd d a cd k) s = .next (((s.writeRun t d vs).writeReg t a ⟨BitVec.ofNat 32 v, .u32⟩).done t)))

/-- R116 to R119, R124: a conduit is a queue: a record accepted with room in the buffer and none in the ring goes to the buffer's end and its
sender gets status 0; a sender to a closed conduit gets 1; the first receiver is given the buffer's first record; CDCLOSE closes. -/
def Obligations.ConduitOrder : Prop :=
  ∀ (s : State) (id t : Nat) (c : Conduit) (r : CdRec) (rest : List (Nat × Option CdRec)) (rs : List CdRec) (us : List Nat) (th : Thread) (g : Gang),
    s.threads.find t = some th → s.gangs.find (gidOf t) = some g → g.kern = c.kern → s.conduits.find id = some c → c.hold = none →
    (c.senders = (t, some r) :: rest → c.closed = false → c.buf.length < 32 → c.ring = 0 →
      ∃ S c', s.cdAccept id c = some S ∧ S.conduits.find id = some c' ∧ c'.buf = c.buf ++ [r] ∧ c'.senders = rest ∧
        c'.accepted = c.accepted + 1 ∧ ∃ u, S.threads.find t = some u ∧ u.cont = .tok 0) ∧
    (c.senders = (t, some r) :: rest → c.closed = true →
      ∃ S c', s.cdAccept id c = some S ∧ S.conduits.find id = some c' ∧ c'.buf = c.buf ∧ c'.senders = rest ∧
        ∃ u, S.threads.find t = some u ∧ u.cont = .tok 1) ∧
    (c.senders = (t, none) :: rest → c.closed = false →
      ∃ S c', s.cdAccept id c = some S ∧ S.conduits.find id = some c' ∧ c'.buf = c.buf ∧ c'.closed = true ∧
        ∃ u, S.threads.find t = some u ∧ u.cont = .tok 0) ∧
    (c.recvs = t :: us → c.buf = r :: rs → r.bad = none →
      ∃ S c', s.cdServe id c = some S ∧ S.conduits.find id = some c' ∧ c'.buf = rs ∧ c'.recvs = us ∧
        ∃ u, S.threads.find t = some u ∧ u.cont = .words r.ws r.ws.length)

/-- R125, R126, R137: LAUNCH appends its 16 words as a packet to a queue of the caller's context in launch mode with room, and gives 0; a
full queue gives 1 and another queue 2; QSIG adds to a local word at device scope and gives its old low word; CBSET sets a bit of a map at
home or through the side log. -/
def Obligations.QueueInstructions : Prop :=
  ∀ (s S S' S'' : State) (t : Nat) (gd : Guard) (d a b k pa pte : Nat) (A : DWord) (y : TWord) (ws : List TWord) (z1 z2 m1 m2 : Bool) (g : Gang),
    s.gangs.find (gidOf t) = some g →
    let q := y.bits.toNat
    let x := s.queue q
    let z := z1 || z2
    let m := m1 || m2
    (s.Runs t [.r d, .range a 16, .r b] [] gd → s.reads t [(b, .int)] = some ([y], z1, m1) →
      s.reads t ((List.range 16).map fun j => (a + j, .any)) = some (ws, z2, m2) →
      (1023 < q ∨ x.st = .disabled ∨ x.mode ≠ 1 ∨ x.ctx ≠ g.ctx →
        exec (.launch gd d a b k) s = .next (s.result t d ⟨2, .u32⟩ z m 0)) ∧
      (q ≤ 1023 → x.st ≠ .disabled → x.mode = 1 → x.ctx = g.ctx → s.Gives t (reportLog 3) ⟨⟩ → s.Turns S t (releaseAt 3) ⟨⟩ false →
        S.queues = s.queues →
        (x.untaken = 2 ^ (x.lg + 4) → exec (.launch gd d a b k) s = .next (S.result t d ⟨1, .u32⟩ z m 0)) ∧
        (x.untaken ≠ 2 ^ (x.lg + 4) → ∃ B, exec (.launch gd d a b k) s =
          .next ((((S.reading t B z m).appendPacket q (wordsNat ws)).writeReg t d ⟨0, .u32⟩).done t)))) ∧
    (s.Runs t [.r d, .even a, .r b] [] gd → s.srcPair t a .loAddr .hiAddr = some (A, z1, m1) → s.reads t [(b, .int)] = some ([y], z2, m2) →
      (let va := A.toNat
       va < 2 ^ 56 → s.Gives t (checkMem va 8 8) (.glob va) → s.Gives t (reportLog 3) ⟨⟩ → s.Gives t (logLoad va 8 false) none →
       s.Turns S t (xlate va .rmw) (pa, pte) false → S.Gives t (checkBrk va 8 true true) ⟨⟩ → pteLink pte = 0 →
       S.Turns S' t (objectCheck false pa pte va 8 0 0) ⟨⟩ false → S'.Turns S'' t (releaseAt 3) ⟨⟩ false → S''.gangs = s.gangs → ∀ (v tg : Nat) (T : State), (∀ B,
         (S''.reading t B z m).atomLocal (coreOf t) g.ctx 3 pa pte 8 (fun old => some (trunc ((old : Int) + y.bits.toInt) 64, 0)) =
           (⟨v, tg, none⟩, T.reading t B z m)) → T.threads = s.threads →
         exec (.qsig gd d a b k) s = .next (T.notifyWaits.result t d ⟨BitVec.ofNat 32 v, .u32⟩ z m 0))) ∧
    (s.Runs t [.even a, .r b] [] gd → s.srcPair t a .loAddr .hiAddr = some (A, z1, m1) → s.reads t [(b, .int)] = some ([y], z2, m2) →
      s.Turns S t (cbsetMem ((A.toNat + 8 * (q / 64)) % 2 ^ 64) (2 ^ (q % 64))) ⟨⟩ false →
      exec (.cbset gd a b k) s = .next ((S.noted t z m 0).done t))

/-- R261, R269, R274, R275: an update at device scope or wider returns the word that the home holds, once the core's own dirty bytes of the
line are there, and leaves its new value at home; a core that keeps no dirty byte of the line changes no other byte. -/
def Obligations.UpdatesAtHome : Prop :=
  ∀ (s : State) (core c sc pa pte n w : Nat) (f : Nat → Option (Nat × Nat)), Memory.wf s.mem = true → 3 ≤ sc →
    s.firstPoison pa n 0 = none → (s.line core (pa / 128)).dirty = 0 → f (s.phys n pa) = some (w, 0) →
    let r := s.atomLocal core c sc pa pte n f
    r.1.v = s.phys n pa ∧ r.1.poison = none ∧ r.2.phys n pa = w % 256 ^ n ∧ r.2.threads = s.threads ∧ r.2.gangs = s.gangs ∧
    ∀ x, x < pa ∨ pa + n ≤ x → Memory.get r.2.mem x = Memory.get s.mem x

/-- R351 to R358: RESAMPLE of a member outside a handler, with nothing outstanding, releases, arrives and waits while its arrival stands (one
whose seal fails has trapped). A parent that survives the resample is in the new generation with its lineage, holds copy index 0 in d with
tag U32, and its RESAMPLE has completed. R355: a clone's lane is searched for in the parent's gang, then in the member gangs of its core, of
its die, and of the dies after it, each ascending, and is the first that is free. R356: the clone there has its parent's registers and
stack words (but for d, its copy index), predicates and specials, the next serial in its lineage, no batch or load of its own, and stands
past its RESAMPLE; no other thread changes, nor any other lane's registers. -/
def Obligations.Resample : Prop :=
  (∀ (s S S' : State) (t : Nat) (gd : Guard) (d a b c k n w u : Nat) (opnd : Bool) (B : AMap TWord) (z m : Bool) (th : Thread) (g : Gang)
    (kk : Kernel), s.threads.find t = some th → s.gangs.find (gidOf t) = some g → s.kernels.find g.kern = some kk →
    let fs : List Field := [.r d, .r a, .r b] ++ (if opnd then [.r c] else [])
    (s.Runs t fs [] gd → kk.isMember g.gidx = true → th.inh = false → (∀ e, e ∈ th.bt → e = 0) → th.loads = [] →
      resampleOps a b c opnd s = .ok (w, n, u, opnd) (s.reading t B z m) → s.Gives t (reportLog 3) ⟨⟩ →
      s.Turns S t (releaseAt 3) ⟨⟩ false → S.gangs = s.gangs →
      popArrive g.kern { t := t, pc := th.pc, rep := th.repNo, abst := false, w := w, d := d } (some (n, u, opnd)) (S.reading t B z m) =
        .ok ⟨⟩ S' →
      exec (.resample gd d a b c k opnd) s = .next (if S'.arrived g.kern t then S'.waitOn t .resample else S'))) ∧
  (∀ (s : State) (gen : Nat) (a : PopArr) (th : Thread) (g : Gang), s.threads.find a.t = some th → s.gangs.find (gidOf a.t) = some g →
    ∃ y, (s.survive gen a).threads.find a.t = some y ∧ y.gen = gen ∧ y.lin = th.lin ∧ y.wait = none ∧ y.cont = .none ∧
      (a.d ≠ 0 → (s.survive gen a).storedWord a.t a.d = ⟨0, .u32⟩)) ∧
  (∀ (gangs : List Nat) (p : Nat), gangs.Pairwise (· < ·) → coreOf p < 384 → (∀ g, g ∈ gangs → coreOfGid g < 384) →
    (∀ g, g ∈ searchOrder gangs p ↔ g = gidOf p ∨ g ∈ gangs) ∧
    (searchOrder gangs p).Pairwise fun u v => searchRank p u < searchRank p v ∨ (searchRank p u = searchRank p v ∧ u < v)) ∧
  (∀ (s : State) (order : List Nat),
    (∀ t, s.freeLane order = some t → s.threads.find t = none ∧ (∀ l, l < laneOf t → s.threads.find (32 * gidOf t + l) ≠ none) ∧
      ∃ pre post, order = pre ++ gidOf t :: post ∧ ∀ g, g ∈ pre → ∀ l, l < 32 → s.threads.find (32 * g + l) ≠ none) ∧
    (s.freeLane order = none → ∀ g, g ∈ order → ∀ l, l < 32 → s.threads.find (32 * g + l) ≠ none)) ∧
  (∀ (s : State) (kern gen k t : Nat) (gangs : List Nat) (a : PopArr) (x : Kernel) (q : Pop) (p : Thread) (g h : Gang),
    s.kernels.find kern = some x → x.pop = some q → s.threads.find a.t = some p → s.freeLane (searchOrder gangs a.t) = some t →
    s.gangs.find (gidOf a.t) = some g → s.gangs.find (gidOf t) = some h →
    let S := s.placeClone kern gen gangs a k
    (∃ y z, S.threads.find t = some y ∧ (s.advance a.t).threads.find a.t = some z ∧ p.SameImage y ∧ y.gen = gen ∧
      y.lin = gen * 2 ^ 48 + q.next ∧ y.par = p.lin ∧ y.bt = [0, 0, 0, 0] ∧ y.loads = [] ∧ y.pc = z.pc ∧ y.rptAct = z.rptAct ∧
      y.rptRep = z.rptRep ∧ y.rptInst = z.rptInst ∧ y.group = none ∧ y.wait = none) ∧
    (∀ i, 0 < i → i ≤ g.nregs → i ≠ a.d → S.storedWord t i = s.storedWord a.t i) ∧
    (a.d ≠ 0 → S.storedWord t a.d = ⟨BitVec.ofNat 32 k, .u32⟩) ∧
    (∃ y, S.gangs.find (gidOf t) = some y ∧
      ∀ r, r < 32 * g.stack.pages → (y.stack.row r).word (laneOf t) = (g.stack.row r).word (laneOf a.t)) ∧
    (∀ u, u ≠ t → S.threads.find u = s.threads.find u) ∧ (∀ u i, u ≠ t → S.storedWord u i = s.storedWord u i) ∧
    (∃ y w, S.kernels.find kern = some y ∧ y.pop = some w ∧ w.next = (q.next + 1) % 2 ^ 48))

/-! ## Tiles (03_numbers, 15_tile) -/

/-- R338, R339, R341, R342, R345: THDL loads a descriptor that R339 accepts into a handle register; TZERO issues a clear, or a load through a
handle of a format that fits; TSCALE issues its bases; TFLAG and TWAIT complete when what they wait for is over, TFLAG with the slot's
flags, and wait otherwise. -/
def Obligations.TileSlots : Prop :=
  ∀ (s S : State) (t i : Nat) (gd : Guard) (hn a gs acc desc : Nat) (src : TOpnd) (X Y : TOpnd) (A : DWord) (x : GInst) (got : Got)
    (gl z m zr : Bool) (u v : TBase) (B : AMap TWord) (th : Thread), s.threads.find t = some th →
    let y := x.slot acc
    let flags := fFovf * b2n y.fovf + fQsat * b2n y.qsat
    let w := Wait.tiles i acc y.next (s.signedBy t i acc)
    (s.Runs t [.even a] [] gd → s.srcPair t a .loAddr .hiAddr = some (A, z, m) → A.toNat / 2 ^ 56 ≠ 254 →
      s.Turns S t (loadMem A.toNat 32 false false 0 .plain) (got, gl) zr → badDesc got.v = false →
      exec (.thdl gd hn a) s =
        .next (((S.noted t (z || zr) m 0).updGang (gidOf t) fun e => { e with handles := e.handles.put hn got.v }).done t)) ∧
    (s.InSlot t gs i x → acc < x.nslots → y.fault = none →
      (s.Runs t [] [] gd →
        exec (.tzero gd gs acc none) s = .next ((s.issueTile i acc (.clear t)).done t) ∧
        (s.waitOver t th w = true →
          exec (.twait gd gs acc) s = .next (s.done t) ∧
          exec (.tflag gd gs acc) s = .next ((s.noted t y.lapse false flags).done t)) ∧
        (s.waitOver t th w = false →
          exec (.twait gd gs acc) s = .next ((s.updThread t fun e => { e with cont := .tok 0 }).waitOn t w) ∧
          exec (.tflag gd gs acc) s = .next ((s.updThread t fun e => { e with cont := .tok 0 }).waitOn t w))) ∧
      (s.Resumes t [] [] gd true (.tok 0) →
        exec (.twait gd gs acc) s = .next (s.done t) ∧ exec (.tflag gd gs acc) s = .next ((s.noted t y.lapse false flags).done t)) ∧
      (s.Runs t (oneField src) [] gd → handleOpnd src s = .ok desc (s.reading t B z m) →
        dFmt desc = 4 ∨ (dFmt desc = 5 ∧ x.stride = 65536) →
        exec (.tzero gd gs acc (some src)) s = .next (((s.reading t B z m).issueTile i acc (.load desc t)).done t)) ∧
      (s.Runs t (oneField X ++ oneField Y) [] gd →
        (do let p ← baseOpnd X
            let q ← baseOpnd Y
            pure (p, q) : M (TBase × TBase)) s = .ok (u, v) (s.reading t B z m) →
        exec (.tscale gd gs acc X Y) s = .next (((s.reading t B z m).issueTile i acc (.scale u v t)).done t)))

/-- R318 to R320, R325, R340: with the gang's side log empty (a signature is a release at core scope; else it waits, log entry 108) a live thread that has not signed the current phase signs TMMA or TMMQ with its operands, which must match those
the phase holds, or abstains under a false guard; it then completes, whether or not that ended the phase. When every live thread has
signed, the convergence register changes phase and is empty, and the multiply it held is issued to its slot; while one has not, nothing
changes. -/
def Obligations.TileSigning : Prop :=
  (∀ (s : State) (t i : Nat) (gd : Guard) (gs cv acc : Nat) (P Q : TOpnd) (md q : Bool) (x : GInst) (a b : TSrc) (B : AMap TWord) (z m : Bool),
    s.InSlot t gs i x → acc < x.nslots → cv < x.ncv → (x.slot acc).fault = none →
    let r := x.cv cv
    let fmt := if q then 2 + b2n md else b2n md
    let bytes := if q then 4224 else 4096
    let fs := pairField P ++ pairField Q
    let i1 := if q then Instr.tmmq gd gs cv acc P Q md else .tmma gd gs cv acc P Q md
    let snap : Snap := { q := q, m := md, acc := acc, src := b2n P.isHnd + 2 * b2n Q.isHnd, a := a, b := b, gs := gs }
    let logged : Prop := ∃ g, s.gangs.find (gidOf t) = some g ∧ g.slog ≠ []
    let waits (S : State) : State := (S.updThread t fun y => { y with cont := .drained }).waitOn t .slogEmpty
    (∀ e, e ∈ r.signers → e.1 ≠ t) →
    (s.Runs t fs [] gd → q = false ∨ x.stride = 65536 →
      (do let u ← mulOpnd fmt bytes (← pairOpnd P)
          let v ← mulOpnd fmt bytes (← pairOpnd Q)
          pure (u, v) : M (TSrc × TSrc)) s = .ok (a, b) (s.reading t B z m) →
      ((r.snap = none ∨ ∃ w, r.snap = some w ∧ w.norm = snap.norm) →
        (logged → exec i1 s = .next (waits (s.reading t B z m))) ∧
        (¬logged → exec i1 s = .next (((s.reading t B z m).sign i cv
          { r with signers := r.signers ++ [(t, false)], snap := some (r.snap.getD snap) }).done t))) ∧
      (∀ w, r.snap = some w → w.norm ≠ snap.norm →
        exec i1 s = .next ((s.reading t B z m).takeTrap t .cvmismatch (16 * gs + cv)))) ∧
    (s.Resumes t fs [] gd false .none →
      (logged → exec i1 s = .next (waits s)) ∧
      (¬logged → exec i1 s = .next ((s.sign i cv { r with signers := r.signers ++ [(t, true)] }).done t)))) ∧
  (∀ (s : State) (i k : Nat) (x : GInst) (z : Snap), s.insts.find i = some x → (x.cv k).signers ≠ [] →
    ((∃ t, t ∈ s.liveOf i ∧ ∀ e, e ∈ (x.cv k).signers → e.1 ≠ t) → s.judgeCv i k = s) ∧
    ((∀ t, t ∈ s.liveOf i → ∃ e, e ∈ (x.cv k).signers ∧ e.1 = t) → (x.cv k).snap = some z → (x.slot z.acc).fault = none →
      ∃ x', (s.judgeCv i k).insts.find i = some x' ∧ x'.cv k = { phase := !(x.cv k).phase, signers := [], snap := none } ∧
        (∃ p, (x'.slot z.acc).ops = (x.slot z.acc).ops ++ [((x.slot z.acc).next, .mma z k p)]) ∧
        (x'.slot z.acc).next = (x.slot z.acc).next + 1 ∧ (s.judgeCv i k).mem = s.mem ∧ (s.judgeCv i k).gangs = s.gangs))

/-- R331, R343, R344: TCVT and TSTORE take their turn on the slot. As they first issue, their operation joins the slot: with none before it
it is their turn, else they wait for it; as they issue again, it is their turn once every other operation there is later. At its turn TCVT converts the
rows its selector names and writes them to scratch, and TSTORE writes one line an issue, leaving `swp` at the next, and completes with the
last; its operation then leaves the slot. -/
def Obligations.TileOutputs : Prop :=
  ∀ (s S S' S'' : State) (t i : Nat) (gd : Guard) (gs acc a b desc r0 n o k : Nat) (bf : Bool) (H : TOpnd) (x : GInst) (h h' : Home)
    (A : DWord) (rs : List Nat) (fl hi no : Nat) (l : Nat × Nat × Nat) (B : AMap TWord) (z m zr zw : Bool) (th : Thread) (g : Gang)
    (rest : List (Nat × TileOp)),
    s.threads.find t = some th → s.gangs.find (gidOf t) = some g → s.InSlot t gs i x → acc < x.nslots → (x.slot acc).fault = none →
    let y := x.slot acc
    let esz := if bf then 2 else 4
    let len := 64 * esz * n
    let T := s.issueTile i acc (.conv t h (o + len))
    let U := s.issueTile i acc (.store t desc)
    let converts (W : State) : Prop := ∀ w, W.insts.find i = some w →
      W.Turns S t (readElems i w acc (s.tickOf g.ctx) (convElem (if bf then Fmt.bf16 else Fmt.f32) (w.slot acc))
        ((List.range n).flatMap fun r => (List.range 64).map fun j => (r0 + r, j))) (rs, fl) zr →
      S.Turns S' t (writeRow h o len A.toNat (wordsBlock (8 * esz) rs)) ⟨⟩ zw → S'.Turns S'' t (endTurn i acc) ⟨⟩ false →
      exec (.tcvt gd gs acc a b bf) s = .next ((S''.noted t (z || zr || zw) m fl).done t)
    let ls := storeLines desc r0 n
    let at' (X : State) (on : Bool) (n : Nat) : State := X.updThread t fun e => { e with swpAct := on, swpIter := n }
    let stores (W : State) : Prop :=
      (ls.length ≤ k → (at' W false 0).Turns S' t (endTurn i acc) ⟨⟩ false →
        exec (.tstore gd gs acc H b) s = .next ((S'.noted t z m 0).done t)) ∧
      (ls[k]? = some l → (at' W true k).Turns S t (storeLine i acc desc l) ⟨⟩ zr →
        (k + 1 < ls.length → exec (.tstore gd gs acc H b) s =
          .next ((at' (S.reading t B (z || zr) m) true (k + 1)).again t)) ∧
        (k + 1 = ls.length → (at' S false 0).Turns S' t (endTurn i acc) ⟨⟩ false → exec (.tstore gd gs acc H b) s =
          .next ((S'.noted t (z || zr) m 0).done t)))
    ((do let p ← rowSel b
         let q ← readAddr a
         pure (p, q) : M ((Nat × Nat) × Nat)) s = .ok ((r0, n), A.toNat) (s.reading t B z m) →
      s.Gives t (scratchAt A.toNat len 128) (h, o) → s.Gives t (checkBrk A.toNat len false true) ⟨⟩ →
      (s.Runs t [.even a, .r b] [] gd → y.ops = [] → converts T) ∧
      (s.Runs t [.even a, .r b] [] gd → y.ops ≠ [] → (∀ e, e ∈ y.ops → e.2.owner ≠ some t ∧ e.1 < y.next) →
        exec (.tcvt gd gs acc a b bf) s = .next ((T.reading t B z m).waitOn t (.turn i acc y.next))) ∧
      (s.Resumes t [.even a, .r b] [] gd true .none → y.ops = (no, .conv t h' hi) :: rest → (∀ e, e ∈ rest → no ≤ e.1) → converts s)) ∧
    (dFmt desc = 0 ∨ dFmt desc = 4 ∨ (dFmt desc = 5 ∧ y.tag ≠ .f32acc) → k = th.sweepStart →
      (s.Runs t (oneField H ++ [.r b]) [] gd → (∀ e, e ∈ y.ops → e.2.owner ≠ some t ∧ e.1 < y.next) →
        (do let p ← handleOpnd H
            let q ← rowSel b
            pure (p, q) : M (Nat × Nat × Nat)) s = .ok (desc, r0, n) (s.reading t B z m) →
        (y.ops = [] → stores U) ∧
        (y.ops ≠ [] → exec (.tstore gd gs acc H b) s = .next ((U.reading t B z m).waitOn t (.turn i acc y.next)))) ∧
      (s.Resumes t (oneField H ++ [.r b]) [] gd true .none → y.ops = (no, .store t desc) :: rest → (∀ e, e ∈ rest → no ≤ e.1) →
        rowSel b s = .ok (r0, n) (s.reading t B z m) → stores s))

/-- The residue element of an integer (R58). -/
def raccOf (x : Int) : Racc := ⟨false, imod x m1, imod x m2, imod x m3⟩

/-- R58 to R63, R336: residue accumulation is exact: an element of an integer in range reconstructs to it, TMMQ's addition of the blocks' dot
products, each shifted by its two scale offsets, adds that integer in every channel, and so a run of additions that stays in range
reconstructs to the exact sum whatever their order. -/
def Obligations.ExactAccumulation : Prop :=
  (∀ x : Int, -(2 ^ 124) ≤ x → x < 2 ^ 124 → (raccOf x).value = .int x ∧ Racc.ofNat (raccOf x).toNat = raccOf x) ∧
  (∀ (x d : Int) (k : Nat), (raccOf x).add d k = raccOf (x + d * 2 ^ k)) ∧
  (∀ (x : Int) (ds es : List (Int × Nat)), ds.Perm es → -(2 ^ 124) ≤ x + (ds.map fun p => p.1 * 2 ^ p.2).sum →
    x + (ds.map fun p => p.1 * 2 ^ p.2).sum < 2 ^ 124 →
    (es.foldl (fun r p => Racc.add r p.1 p.2) (raccOf x)).value = .int (x + (ds.map fun p => p.1 * 2 ^ p.2).sum)) ∧
  (∀ (x : Int) (as bs : List Int) (es : List (Nat × Nat)), as.length = 32 * es.length → bs.length = as.length →
    tmmqElem (raccOf x) as bs es = raccOf (x + ((List.range es.length).map fun j =>
      ((List.range 32).map fun q => as.getD (32 * j + q) 0 * bs.getD (32 * j + q) 0).sum *
        2 ^ ((es.getD j (0, 0)).1 + (es.getD j (0, 0)).2)).sum))

/-! ## Events: scheduling and time (04_context, 08_gang, 11_allocation) -/

/-- R155 to R158, R18, R84, R166, R233, R404: an idle slot forms a group of the eligible ready threads, the leader first in the order of R157, at
most one of each lane, all at its PC and repetition, and ages the ready ones left out; a load is delivered; a tick boundary counts, and the
watchdog and budget checks of its context's kernels that are due come at that edge; a sleeper whose tick has come is ready; a row past its life is marked expired; a slice that has ended deschedules a contested context and
else begins anew. -/
def Obligations.Scheduling : Prop :=
  ∀ (s : State) (core slot t n c gid : Nat) (th : Thread) (g : Gang) (l : PLoad),
    (∀ (cand : List (Nat × Thread)) (e : Nat × Thread), s.first cand = some e → e ∈ cand ∧ (∀ x, x ∈ cand → s.before x e = false) ∧
      (∀ u, u ∈ s.pick cand → ∃ x, x ∈ cand ∧ x.1 = u ∧ (x.1 = e.1 ∨ s.joins e x = true)) ∧
      ((s.pick cand).map laneOf).Pairwise (· < ·)) ∧
    (slot < 5 → (∀ k, k < slot → ((s.core core).groups.find k).isSome = true) →
      exec (.issueGroupFormation core slot) s = .next (s.formGroup core slot)) ∧
    (slot < 5 → (s.core core).groups.find slot = none →
      let ready := s.readyFor core slot
      let chosen := s.pick (ready.filter fun e => !e.2.bars.contains slot)
      let S := s.formGroup core slot
      (∀ e, e ∈ ready → e.2.res ≠ .past) → (∀ u, u ∈ chosen → ∃ y, s.threads.find u = some y ∧ y.clause ≠ none ∧ y.res = .start) → chosen ≠ [] →
      ∃ gr, (S.core core).groups.find slot = some gr ∧ gr.members = chosen ∧
        gr.todo = [] ∧ S.mem = s.mem ∧ S.gangs = s.gangs ∧
        ∀ u y, s.threads.find u = some y → ∃ y', S.threads.find u = some y' ∧ y'.pc = y.pc ∧
          y'.bars = (if coreOf u = core then setDel slot y.bars else y.bars) ∧
          (u ∈ chosen → y'.age = 0 ∧ y'.group = some slot ∧ y'.wait = none) ∧
          (u ∉ chosen → y'.group = y.group ∧ y'.wait = y.wait ∧ y'.age = if ready.any fun e => e.1 == u then y.age + 1 else y.age)) ∧
    (s.threads.find t = some th → s.gangs.find (gidOf t) = some g →
      (th.loads[n]? = some l → (s.ctx g.ctx).pend = none →
        exec (.loadDelivery t n) s =
          .next ((s.updThread t fun y => { y with loads := y.loads.eraseIdx n }).writeRegs t l.dsts)) ∧
      (∀ k, th.wait = some (.sleep k) → k ≤ s.tickOf g.ctx →
        exec (.sleepWake t) s = .next (s.updThread t fun y => { y with wait := none }))) ∧
    (let x := s.ctx c
     x.st = .resident → x.pend = none →
      (100 ≤ x.phase → exec (.tick c) s =
        .next { s.setCtx c { x with phase := 0, ticks := (x.ticks + 1) % 2 ^ 64, sliceCnt := x.sliceCnt + 1 } with
          agenda := (s.kernels.flatMap fun e => if e.2.ctx = c then e.2.fires e.1 x ((x.ticks + 1) % 2 ^ 64) else []) ++ s.agenda }) ∧
      (x.slice ≠ 0 → x.slice ≤ x.sliceCnt →
        (s.contested c = true → exec (.sliceEnd c) s = .next (s.haltCtx c .descheduled)) ∧
        (s.contested c = false → exec (.sliceEnd c) s = .next (s.setCtx c { x.settleTick with sliceCnt := 0 })))) ∧
    (s.gangs.find gid = some g →
      let old (a : Alloc) (k : Nat) : Prop := a.cls ≠ .refreshed ∧ k < 32 * a.pages ∧ (a.row k).stamp + a.life < s.tickOf g.ctx
      let mark (a : Alloc) (k : Nat) : Alloc := a.setRow k { a.row k with expMark := true }
      (old g.regs n → exec (.rowExpiry gid n) s = .next (s.updGang gid fun y => { y with regs := mark g.regs n })) ∧
      (old g.scratch n → exec (.rowExpiry gid (32 * g.regs.pages + n)) s =
        .next (s.updGang gid fun y => { y with scratch := mark g.scratch n })) ∧
      (old g.stack n → exec (.rowExpiry gid (32 * g.regs.pages + 32 * g.scratch.pages + n)) s =
        .next (s.updGang gid fun y => { y with stack := mark g.stack n })))

/-- R279, R282, R312, R254: a copy whose data is there, or that reads it now, lands and counts off at its tag or its barrier; a column
cache line may be evicted at any time: its dirty bytes reach home and no other byte changes. -/
def Obligations.Landings : Prop :=
  ∀ (s S : State) (core n v line : Nat) (l : Landing) (gt : Got),
    (let e := s.updCore core fun c => { c with landings := c.landings.eraseIdx n }
     (s.core core).landings[n]? = some l →
      (l.got = some (v, false) →
        (l.bar = none → exec (.cpaLanding core n) s = .next (((e.landBytes l v).countBatch l).finishStop l.ctx)) ∧
        (l.bar ≠ none → l.bt = none → exec (.cpbPieceLanding core n) s = .next (((e.landBytes l v).countPiece l).finishStop l.ctx))) ∧
      (l.got = none → l.rem = none → l.pa < hostKey 0 → e.readClass core l.cls l.pa (2 ^ 55) l.vb = (gt, S) → gt.poison = none →
        (l.bar = none → exec (.cpaLanding core n) s = .next (((S.landBytes l gt.v).countBatch l).finishStop l.ctx)) ∧
        (l.bar ≠ none → l.bt = none →
          exec (.cpbPieceLanding core n) s = .next (((S.landBytes l gt.v).countPiece l).finishStop l.ctx)))) ∧
    (∀ a, s.allocAt l.home = some a → 0 < l.len → l.off % 128 + l.len ≤ 128 →
      let tick := s.tickOf l.ctx
      let ps := places false 0 l.off l.len
      let sc := scanPlaces a tick ps 0
      sc.expired = none → sc.memerr = none → sc.lapse = false →
      s.landBytes l v = s.setAllocAt l.home (writePlaces a tick ps (leBytes l.len v) [])) ∧
    (∀ th k, s.threads.find l.t = some th → th.lin = l.lin → l.bt = some k → k < th.bt.length →
      ∃ y, (s.countBatch l).threads.find l.t = some y ∧ y.bt.getD k 0 = th.bt.getD k 0 - 1) ∧
    (Memory.wf s.mem = true → ∃ S', exec (.columnCacheEviction core line) s = .next S' ∧ S'.threads = s.threads ∧ S'.gangs = s.gangs ∧
      (∀ i, i < 128 → bit (s.line core line).dirty i = true → S'.phys 1 (128 * line + i) = (s.line core line).data / 256 ^ i % 256) ∧
      (∀ a, (∀ i, i < 128 → bit (s.line core line).dirty i = true → a ≠ 128 * line + i) → Memory.get S'.mem a = Memory.get s.mem a))

/-- R373, R293 to R297, R331: the head of a side log is replayed and leaves it, a RED to a peer once the peer has answered (R387); a walker
performs its head walk's next step, and a walk that has ended gives its thread the count; the matrix unit performs the operation at a slot's head, clearing among them; a conduit goes on. -/
def Obligations.UnitsGoOn : Prop :=
  ∀ (s S : State) (gid core iid acc id : Nat) (g : Gang) (e : SlEntry) (es : List SlEntry) (w w' : Walk) (x : GInst) (n : Nat)
    (op : TileOp) (rest : List (Nat × TileOp)) (o : TOut) (c : Conduit) (a : Alloc),
    (s.gangs.find gid = some g → g.slog = e :: es → s.replayDue gid g e = true → e.fail = none →
      let r := replayEntry (e.askNo gid) e { s with cur := some ⟨coreOfGid gid, 0, 32 * gid + (e.accs.headD ⟨0, 0, 0, 0, 0, 0⟩).lane⟩ }
      (e.asked = false → r = .ok false S →
        exec (.sideLogReplay gid) s = .next ({ S with cur := s.cur }.updGang gid fun y => { y with slog := y.slog.drop 1 })) ∧
      (e.asked = false → r = .ok true S → exec (.sideLogReplay gid) s = .next ({ S with cur := s.cur }.updHead gid fun y => { y with asked := true })) ∧
      (e.asked = true → exec (.sideLogReplay gid) s = .next (s.updGang gid fun y => { y with slog := y.slog.drop 1 }))) ∧
    ((s.core core).walkq.head? = some w → s.walkRuns w = true → w.fail = none → w.held = none →
      (wStep core { w with blk := none } s = .ok (w', false) S → exec (.brassWalk core) s = .next (S.setWalk core (some w'))) ∧
      (wStep core { w with blk := none } s = .ok (w', true) S → exec (.brassWalk core) s = .next (S.walkDone core w'))) ∧
    (∀ th y, s.threads.find w.t = some th → s.gangs.find (gidOf w.t) = some y → y.ctx = w.ctx → th.wait = some (.walk w.id) → th.cont = .none →
      w.log = false → w.job = none → (s.ctx w.ctx).pend = none →
      ∃ y, (s.walkDone core w).threads.find w.t = some y ∧ y.cont = .tok w.count ∧ y.swpAct = false ∧ y.pc = th.pc) ∧
    (s.insts.find iid = some x → (x.slot acc).ops = (n, op) :: rest → op.ofThread = false → (x.slot acc).stuck = false →
      (s.ctx x.ctx).st = .resident → (x.slot acc).fault = none →
      (tRun iid x acc (s.tickOf x.ctx) (x.slot acc) op s = .ok o S →
        exec (.tileOpApply iid acc) s =
          .next (((S.putSlotRows iid acc o.tick o.words).setSlot iid acc { o.slot with ops := rest, held := none }).finishStop x.ctx)) ∧
      (∀ u, op = .clear u → (s.ctx x.ctx).pend = none → x.tile = some a → ∃ S' x' a', exec (.tileOpApply iid acc) s = .next S' ∧
        S'.insts.find iid = some x' ∧ (x'.slot acc).tag = .empty ∧ (x'.slot acc).fovf = false ∧ (x'.slot acc).qsat = false ∧
        (x'.slot acc).ops = rest ∧ x'.tile = some a' ∧
        (∀ r k, x.slotRow acc ≤ r → r < x.slotRow acc + x.stride / 128 → k < 32 → (a'.row r).word k = TWord.zero) ∧ S'.mem = s.mem)) ∧
    (s.conduits.find id = some c → (s.ctx (s.cdCtx c)).st = .resident →
      (∀ S', s.cdMove id = some S' → S'.cdMove id = none → exec (.conduitRefill id) s = .next S') ∧
      (s.cdMove id = none → exec (.conduitRefill id) s = .next s) ∧
      (c.released = false → c.saved = false → c.fill = .ready → c.buf.length < 32 → c.ring ≠ 0 → ∀ pa T,
        s.devXlate c.core (s.cdCtx c) (s.cdSlot c c.head) .load = (.ok pa, T) → T.firstPoison pa 64 0 = none →
        ∃ S' c', s.cdMove id = some S' ∧ S'.conduits.find id = some c' ∧ c'.buf = c.buf ++ [CdRec.ofSlot (T.phys 64 pa) none] ∧
          c'.head = (c.head + 1) % 4294967296 ∧ c'.refills = c.refills + 1))

/-! ## Events: kernels and packets (05_queue, 06_kernel, 16_population, 19_health) -/

/-- R133, R134, R138, R139, R353 to R355: a kernel's next unit is placed when it has room and no kernel served before it has a unit that
fits; a draining kernel with nothing outstanding completes with status 1, or 5 when it lost a write, and a failed one with its status; a
sealed resample completes, or, when every thread abstained, each goes on in the new generation. R404 to R406: with its window passed without
progress a kernel's first thread takes WATCHDOG, the window as its value (a resample that this thread waits in sealed completes first, R350), and the kernel is in its second stage, whose firing terminates it;
run ticks at the budget do the same once, and at twice the budget terminate. -/
def Obligations.KernelLife : Prop :=
  (∀ (s : State) (kern d : Nat) (k : Kernel) (p : Plan) (q : Pop), s.kernels.find kern = some k →
    (s.sweepGangs = s → s.nextPlan kern k = some p → s.overtaken kern k = false → (s.ctx k.ctx).st = .resident →
      exec (.unitAdmission kern) s = .next (s.admitUnit kern k p)) ∧
    (s.sweepGangs = s →
      (k.st = .draining → k.due = none → s.kernBusy kern = false →
        (k.lost = false → exec (.kernelCompletion kern) s = .next (s.finishKernel kern k 1)) ∧
        (k.lost = true → exec (.kernelCompletion kern) s = .next ((s.setErrst k.ctx 1).finishKernel kern k 5))) ∧
      (k.st = .failed → k.due = some d → exec (.kernelCompletion kern) s = .next (s.finishKernel kern k d))) ∧
    (k.pop = some q → q.st = .sealed →
      (q.record = none → exec (.resampleComplete kern) s = .next ((s.identity kern q).finishStop k.ctx) ∧
        ∀ a th, a ∈ q.arrs → s.threads.find a.t = some th →
          ∃ y, (s.identity kern q).threads.find a.t = some y ∧ y.gen = (q.gen + 1) % 65536 ∧ y.wait = none ∧ y.lin = th.lin) ∧
      (∀ n u o, q.record = some (n, u, o) → exec (.resampleComplete kern) s = .next ((s.resample kern k q n u o).finishStop k.ctx)))) ∧
  (∀ (s : State) (kern t : Nat) (k : Kernel) (th : Thread) (ts : List (Nat × Thread)), s.kernels.find kern = some k → s.watched k = true →
    let w := orOf k.desc.wdwin (s.ctx k.ctx).wdwin
    let b := orOf k.desc.budget (s.ctx k.ctx).budget
    let tick := s.tickOf k.ctx
    let run := tick - k.admTick.getD tick
    (w ≠ 0 → k.prog + w < tick →
      (k.stage2 = true → exec (.watchdogFire kern) s = .next (s.terminate kern k.ctx)) ∧
      (let X := (s.updKernel kern fun y => { y with stage2 := true, prog := tick }).unseal kern
       k.stage2 = false → X.kernThreads kern = (t, th) :: ts → th.canTrap = true →
        exec (.watchdogFire kern) s = .next (X.barkAt t w))) ∧
    (b ≠ 0 →
      (2 * b ≤ run → exec (.budgetFire kern) s = .next (s.terminate kern k.ctx)) ∧
      (let X := (s.updKernel kern fun y => { y with budFired := true, stage2 := true, prog := tick }).unseal kern
       b ≤ run → run < 2 * b → k.budFired = false → k.stage2 = false → X.kernThreads kern = (t, th) :: ts → th.canTrap = true →
        exec (.budgetFire kern) s = .next (X.barkAt t b))))

/-- R353, R354: a resample to `n` threads with offset `u` makes exactly `n` copies in all, and gives a thread of weight `w` either the
integer below or the integer above its share, the share itself where that is an integer. -/
def Obligations.ResampleCounts : Prop :=
  ∀ (n u W : Nat) (ws : List Nat), ws.foldl (· + ·) 0 = W → 0 < W → u < 4294967296 →
    (copyCounts n u W 0 ws).length = ws.length ∧ (copyCounts n u W 0 ws).sum = n ∧
    ∀ i, i < ws.length → (copyCounts n u W 0 ws).getD i 0 * W < ws.getD i 0 * n + W ∧
      ws.getD i 0 * n < ((copyCounts n u W 0 ws).getD i 0 + 1) * W

/-- R102 to R106, R108 to R110, R136: the packet at the head of the queue served next is taken and has its effect: a NOP none, a KERNEL starts its kernel
or records status 7, a SIGNAL stores or adds at an aligned address of local memory and has the WAIT packets compare again, a WAIT completes or waits, a DEPMAP stands for the next
packet; a bad one of any type, or one that cannot be read, is taken and counted; a WAIT is compared again, and a kernel's dependences are observed
again, every word of the bitmap up to the number of producers being read (the model's choice, log entry 91). -/
def Obligations.Packets : Prop :=
  ∀ (s S : State) (q p pa pte kern : Nat) (k : Kernel) (dep : Dep), s.serves q = true → s.headPacket q = (.ok p, S) →
    let x := S.queue q
    let i := (s.queue q).rdidx
    let T := S.takePacket q false
    let va := bits p 127 64
    (x.good p = true →
      (pktType p = 0 → exec (.packetNop q) s = .next T) ∧
      (pktType p = 1 → ∀ T', let K := T'.takePacket q true
        (S.readKernel x.home x.ctx va = (.bad, T') → exec (.packetKernel q) s =
          .next (K.writeRecord x.home x.ctx (bits p 191 128) (recordWord 7 0) (bits p 255 192))) ∧
        (∀ d es cds, S.readKernel x.home x.ctx va = (.ok (d, es, cds), T') → ∃ y, exec (.packetKernel q) s =
            .next ((K.addKernel y).packetWaits q i (.kern K.kernNext)) ∧ y.st = .admitting ∧ y.desc = d ∧ y.ctx = x.ctx ∧ y.q = q ∧
            y.prio = pktPrio p ∧ y.cpl = bits p 191 128 ∧ y.done = bits p 255 192)) ∧
      (pktType p = 2 →
        (va % 8 ≠ 0 → exec (.packetSignal q) s = .next (T.setErrst x.ctx 3)) ∧
        (∀ T', va % 8 = 0 → T.ppXlate x.home x.ctx va .store = (some (pa, pte), T') → pteLink pte = 0 →
          exec (.packetSignal q) s = .next (T'.physSet x.ctx 8 pa
            (if bit p 192 then (T'.phys 8 pa + bits p 191 128) % 2 ^ 64 else bits p 191 128)).notifyWaits)) ∧
      (pktType p = 3 → ∀ T',
        (S.waitTest q va (bits p 191 128) (bits p 193 192) = (some true, T') → exec (.packetWait q) s = .next (T'.takePacket q false)) ∧
        (S.waitTest q va (bits p 191 128) (bits p 193 192) = (some false, T') → exec (.packetWait q) s =
          .next ((T'.takePacket q false).packetWaits q i (.wait va (bits p 191 128) (bits p 193 192) (pktAcq p))))) ∧
      (pktType p = 4 → exec (.packetDepmap q) s = .next ((T.setQueue q { T.queue q with depmap := some (p, i) }).settleQ q))) ∧
    (x.good p = false →
      (∀ i ty, (i, ty) ∈ [(Instr.packetNop q, 0), (.packetKernel q, 1), (.packetSignal q, 2), (.packetWait q, 3), (.packetDepmap q, 4),
        (.packetInval q, 5)] → pktType p = ty → exec i s = .next (T.addBad q)) ∧
      (6 ≤ pktType p → exec (.packetNop q) s = .next (T.addBad q))) ∧
    (∀ X, s.headPacket q = (.bad, X) → exec (.packetNop q) s = .next ((X.takePacket q false).addBad q)) ∧
    ((T.queue q).rdidx = (x.rdidx + 1) % 4294967296) ∧
    (∀ j v y cond a T', (s.queue q).st = .busy → (s.die (s.queue q).home).st = .up →
      (s.queue q).pend.find? (fun e => e.2.isWait) = some (j, .wait v y cond a) → s.waitTest q v y cond = (some true, T') →
      exec (.waitRecheck q) s = .next (T'.packetDone q (.wait v y cond a))) ∧
    (s.kernels.find kern = some k → k.dep = some dep → k.st = .admitting → k.due = none → dep.bmap % 8 = 0 → ∀ js T',
      s.readMap (s.queue k.q).home k.ctx dep.bmap ((dep.nprod + 63) / 64) = (.ok js, T') →
      ∃ y, exec (.depmapRecheck kern) s = .next ((T'.ppDone (s.queue k.q).home).updKernel kern fun z => { z with dep := some y }) ∧
        ∀ j, setHas j y.seen = (setHas j dep.seen || (js.contains j && decide (j < dep.nprod))))

/-- R107, R376 to R378: an INVAL packet asks the dies that used the range's translations and the peers, and waits; the other dies drop their
entries of the range that are no leaves; once no peer is left and no access in flight uses the range, those dies' translations are dropped, their cores write back and the packet completes; a peer silent for 20,000
reference cycles is fenced; a peer's own request is applied here, or refused and counted, and requests that came before their turn follow it. The
model's own choices: the dies drop at the completion, and what counts as an access in flight (log entry 57); a peer's request in one step, its
acknowledgement and the tag of its refusal (log entry 58). -/
def Obligations.Shootdowns : Prop :=
  ∀ (s S : State) (q p n v c va len src : Nat) (r : Inval),
    (s.serves q = true → s.headPacket q = (.ok p, S) → (S.queue q).good p = true → pktType p = 5 → ∃ (T : State) (y : Inval),
      exec (.packetInval q) s = .next (T.packetWaits q (s.queue q).rdidx (.inval S.invNext)) ∧ T.invals.find S.invNext = some y ∧
      (∀ i d e, bit y.dies i = false → T.dies.find i = some d → e ∈ d.tlb → e.within y.ctx y.va y.len = true → bit e.pte 1 = true) ∧
      y.ctx = bits p 169 162 ∧ y.q = q ∧ y.start = S.refCycle ∧
      y.len = bits p 159 128 * 2 ^ (match bits p 161 160 with | 0 => 16 | 1 => 21 | _ => 30)) ∧
    (s.invals.find n = some r →
      (r.peers = [] → s.inUse r.ctx r.va r.len = false →
        (let T : State := { s.answerInval r.dies r.ctx r.va r.len with invals := s.invals.del n }
         exec (.invalCompletion n) s = .next
          ((T.writeRecord (s.queue r.q).home (s.queue r.q).ctx r.cpl (recordWord 1 0) 0).packetDone r.q (.inval n)))) ∧
      ((r.peers.find v).isSome = true → r.start + 20000 ≤ s.refCycle →
        exec (.peerFence n v) s = .next ({ s with invals := s.invals.put n { r with peers := r.peers.del v } }.setCtx r.ctx
          { s.ctx r.ctx with fenced := setBit (s.ctx r.ctx).fenced v true }))) ∧
    (s.inUse c va len = false →
      let dies := s.rangeDies c (va / 65536 * 65536) 65536 ((va + len - va / 65536 * 65536 + 65535) / 65536)
      (s.refuses src c = false → exec (.inboundInval src c va len) s =
        .next ((((s.dropOutside dies c va len).answerInval dies c va len).replyAck src c 0 0 0).catchUp src s.early.length)) ∧
      (s.refuses src c = true → exec (.inboundInval src c va len) s =
        .next (((s.addRefused c).replyAck src c (Config.invalTag c va len) 1 0).catchUp src s.early.length))) ∧
    (∀ i d e, bit v i = true → s.dies.find i = some d → ∃ d', (s.answerInval v c va len).dies.find i = some d' ∧
      (e ∈ d'.tlb → e ∈ d.tlb ∧ (e.ctx ≠ c ∨ e.va + e.size ≤ va ∨ va + len ≤ e.va)))

/-! ## Events: commands, queues and registers (04_context, 05_queue, 13_object, 17_page, 18_link, 19_health, 20_bringup) -/

/-- R77, R78, R81 to R89, Tables 4.2 to 4.4: each command of a context acts from the states that allow it and answers 0 (15 while something
of the context is in flight), and answers 1 from any other; one that comes while another is in progress waits for it; READY takes the
record's policies or refuses it with 2; DESCHED takes every thread of the context off its slot, HALT once each stands at a precise point; a
context that waits to return does so once it has its place, its pages and its conduit slots. The model's own choices: a command waits in `cmds`
while another is in progress, and RESUME answers 15 until the context can return (log entry 59); KILL's records in its one step (log entry 60); a
context with no gang left returns to ready (log entry 86). -/
def Obligations.ContextCommands : Prop :=
  (∀ (s : State) (c : Nat) (i : Instr), s.boot = 10 → c < 256 → s.cxstsRes = 15 →
    i ∈ [Instr.define c, .ready c, .halt c, .resume c, .desched c, .kill c] → exec i s = .next { s with cmds := s.cmds ++ [i] }) ∧
  (∀ (s : State) (c : Nat), s.boot = 10 → c < 256 → s.cxstsRes ≠ 15 →
    let st := (s.ctx c).st
    let said (i : Instr) (r : Nat) (P : State → Prop) : Prop :=
      ∃ S, exec i s = .next S ∧ S.cxstsCtx = c ∧ S.cxstsRes = r ∧ P S
    let alone (S : State) : Prop := ∀ d, d ≠ c → S.ctx d = s.ctx d
    let wrong (i : Instr) : Prop := exec i s = .next { s with cxstsCtx := c, cxstsRes := 1 }
    let parked (S : State) : Prop := ∀ t th g, s.threads.find t = some th → s.gangs.find (gidOf t) = some g →
      S.threads.find t = some (if g.ctx = c then th.park else th) ∧ alone S
    let back (i : Instr) (wait : Prop) : Prop :=
      (s.noGang c = true → said i 0 fun S => (S.ctx c).st = .ready ∧ (S.ctx c).pend = none) ∧
      (s.noGang c = false → s.mayReside c = true → s.canReturn c = true → (s.claimForReturn c).conduitsFit c = true →
        said i 0 fun S => (S.ctx c).st = .resident ∧ (S.ctx c).pend = none ∧ (S.ctx c).sliceCnt = 0) ∧
      (s.noGang c = false → (s.mayReside c && s.canReturn c) = false ∨ (s.claimForReturn c).conduitsFit c = false → wait)
    (st = .dead → said (.define c) 0 fun S => S.ctx c = { (s.ctx c).define with refused := (S.ctx c).refused } ∧ alone S ∧ S.threads = s.threads ∧ S.gangs = s.gangs) ∧
    (st ≠ .dead → wrong (.define c)) ∧
    (st = .defined → let w := s.phys 128 (s.ctxRec c)
      (recordFine w = true → s.firstPoison (s.ctxRec c) 128 0 = none → said (.ready c) 0 fun S => S.ctx c = { (s.ctx c).latch w with
        st := .ready, pend := none, placeSince := none, refused := (S.ctx c).refused } ∧ alone S) ∧
      (recordFine w = false → exec (.ready c) s = .next { s.noteRead (s.ctxRec c) 128 with cxstsCtx := c, cxstsRes := 2 })) ∧
    (st ≠ .defined → wrong (.ready c)) ∧
    (st = .ready ∨ st = .descheduled → said (.halt c) 0 fun S => (S.ctx c).st = .halted ∧ alone S ∧ S.threads = s.threads) ∧
    (st = .resident → (s.ctx c).pend = none →
      (s.inFlight c = false → said (.halt c) 0 fun S => (S.ctx c).st = .halted ∧ parked S) ∧
      (s.inFlight c = true → said (.halt c) 15 fun S => (S.ctx c).st = .resident ∧ (S.ctx c).pend = some .halted ∧ S.threads = s.threads ∧ alone S) ∧
      ((s.parkAll c).inFlight c = false → said (.desched c) 0 fun S => (S.ctx c).st = .descheduled ∧ parked S) ∧
      ((s.parkAll c).inFlight c = true →
        said (.desched c) 15 fun S => (S.ctx c).st = .resident ∧ (S.ctx c).pend = some .descheduled ∧ parked S)) ∧
    (st = .dead ∨ st = .defined ∨ st = .halted ∨ st = .faulted → wrong (.halt c)) ∧
    (st ≠ .resident → wrong (.desched c)) ∧
    (st = .halted ∨ st = .faulted → (∀ e, e ∈ s.kernels → e.2.ctx = c → e.2.due = none) →
      back (.resume c) (said (.resume c) 15 fun S => (S.ctx c).st = st ∧ (S.ctx c).pend = some .resident)) ∧
    (st ≠ .halted → st ≠ .faulted → wrong (.resume c)) ∧
    (st ≠ .dead → s.kernels.Pairwise (fun a b => a.1 < b.1) → said (.kill c) 0 fun S => (S.ctx c).st = .dead ∧ (S.ctx c).faults = [] ∧
      (∀ i k, S.kernels.find i = some k → k.ctx ≠ c) ∧ ∀ q x, S.queues.find q = some x → x.ctx = c → x.st = .disabled) ∧
    (st = .dead → wrong (.kill c)) ∧
    (st = .descheduled → (s.ctx c).pend = none →
      let mine (P : State → Prop) : Prop := ∃ S, exec (.contextReturn c) s = .next S ∧ (S.ctx c).pend = none ∧ P S
      (s.noGang c = true → mine fun S => (S.ctx c).st = .ready) ∧
      (s.noGang c = false → s.mayReside c = true → s.canReturn c = true → (s.claimForReturn c).conduitsFit c = true →
        mine fun S => (S.ctx c).st = .resident) ∧
      (s.noGang c = false → (s.mayReside c && s.canReturn c) = false → exec (.contextReturn c) s = .next (s.notePlace c))))

/-- R97 to R99, Tables 5.1 to 5.3, R370: enabling takes a queue's record or refuses it, disabling abandons what the queue has not taken, a
doorbell that announces no more than the ring's room moves `wridx` and any other only counts, and a doorbell reads as `wridx`; a verdict retries what waits for the record,
or fails it with the cause of its kind, and the record is no longer outstanding. -/
def Obligations.QueueControl : Prop :=
  ∀ (s : State) (q w c seq k : Nat), s.boot = 10 →
    let x := s.queue q
    let r := s.phys 64 (s.qRec q)
    let good : Bool := queueFine r && (s.ctx (bits r 39 32)).st != .dead
    s.readDoorbell q = x.wridx % 2 ^ 32 ∧
    (x.st ≠ .disabled → exec (.queueEnable q) s = .next { s with qctlRes := 1 }) ∧
    (x.st = .disabled →
      (good = true → ∃ S, exec (.queueEnable q) s = .next S ∧ S.qctlRes = 0 ∧ (S.queue q).ctx = bits r 39 32 ∧
        (S.queue q).rbase = bits r 127 64 ∧ (S.queue q).lg = bits r 31 28 ∧ (S.queue q).rdidx = 0 ∧ (S.queue q).wridx = 0 ∧
        (S.queue q).st = qStateFor (queueOf r) (s.ctx (bits r 39 32)).st ∧ ∀ p, p ≠ q → S.queue p = s.queue p) ∧
      (good = false → exec (.queueEnable q) s = .next { s with qctlRes := 2 }) ∧
      exec (.queueDisable q) s = .next { s with qctlRes := 1 }) ∧
    (x.st ≠ .disabled → ∃ S, exec (.queueDisable q) s = .next S ∧ S.qctlRes = 0 ∧
      S.queue q = { x with st := .disabled, rdidx := x.wridx, pend := [], depmap := none } ∧ ∀ p, p ≠ q → S.queue p = s.queue p) ∧
    (let rings := x.st ≠ .disabled ∧ x.mode = 0 ∧ w < 2 ^ 32 ∧
       (w + 2 ^ 32 - x.wridx) % 2 ^ 32 + (x.wridx + 2 ^ 32 - x.rdidx) % 2 ^ 32 ≤ 2 ^ (x.lg + 4)
     w < 2 ^ 64 → x.wridx < 2 ^ 32 → x.rdidx < 2 ^ 32 → (x.wridx + 2 ^ 32 - x.rdidx) % 2 ^ 32 ≤ 2 ^ (x.lg + 4) →
      (rings → ∃ S, exec (.notify q w) s = .next S ∧ (S.queue q).wridx = w ∧ (S.queue q).rdidx = x.rdidx ∧
        (S.queue q).pend = x.pend ∧ ∀ p, p ≠ q → S.queue p = s.queue p) ∧
      (¬rings → exec (.notify q w) s =
        .next (s.physSet x.ctx 4 (s.qRec q + 24) (min (s.phys 4 (s.qRec q + 24) + 1) 4294967295)))) ∧
    ((s.ctx c).faultKind seq = some k →
      let done (i : Instr) (v : Verdict) : Prop := ∃ S, exec i s = .next S ∧ (S.ctx c).faultKind seq = none ∧
        ∀ t th g, s.threads.find t = some th → s.gangs.find (gidOf t) = some g → g.ctx = c →
          S.threads.find t = some (th.answer v seq)
      s.conduits = [] → done (.faultRetry c seq) none ∧ done (.faultFail c seq) (some (kindCause k)))

/-- R284, R385, R388, R390, R392, R394, R408, R411, R420: what a write of each register does, and its silence when reserved bits are set: a
tag bit, which copies take too at their next acquire, BAR4's base and its counter, a breakpoint's word (in effect from the next reference edge), a multicast window's, a port enabled or taken down, a route, a device lost; the
debugger reads and writes a halted thread's registers, specials, PC and predicates; no write of another offset, alignment or size changes anything.
The model's own choices: a ROUTE write with lost 1 loses the device (log entry 67); the debugger's raw words, which specials it writes, and a read of 0
while the context is not halted (log entry 68); its write of the PC (log entry 100); a word with reserved bits set is ignored (log entry 101). -/
def Obligations.RegisterWrites : Prop :=
  ∀ (s : State) (w n p pmd c off size : Nat), s.boot = 10 →
    (let pa := bits w 55 3 * 8
     let ok := bits w 62 56 = 0 ∧ bits w 2 0 = 0 ∧ s.backed pa 8 = true
     (ok → s.tagBits.Pairwise (· < ·) → ∃ S, exec (.tagwrWrite w) s = .next S ∧ S.mem = s.mem ∧ S.tagAt pa = bit w 63 ∧
        (∀ k y, s.cores.find k = some y → (y.cache.find (pa / 128)).isSome = true →
          ∃ z, S.cores.find k = some z ∧ z.cache = y.cache ∧ z.tagwr.find (pa / 8) = some (b2n (bit w 63))) ∧
        ∀ a, a / 8 ≠ pa / 8 → S.tagAt a = s.tagAt a) ∧
     (¬ok → exec (.tagwrWrite w) s = .next s)) ∧
    (bits w 63 52 = 0 → ∃ S, exec (.lmbaseWrite w) s = .next S ∧ S.lmbase = w / 2 ^ 30 % 2 ^ 22 * 2 ^ 30 ∧
        (bits w 29 16 = 0 → S.badacc = 0) ∧ (bits w 29 16 ≠ 0 → S.badacc = s.badacc) ∧ S.mem = s.mem) ∧
    (bits w 63 52 ≠ 0 → exec (.lmbaseWrite w) s = .next s) ∧
    (n < 16 → w < 2 ^ 64 → ∃ S, exec (.breakpointSet c n w) s = .next S ∧
      let old := ((s.ctx c).brks.find (n / 2)).getD 0
      let new := ((S.ctx c).brks.find (n / 2)).getD 0
      bits new (64 * (n % 2) + 63) (64 * (n % 2)) = w ∧
      bits new (64 * (1 - n % 2) + 63) (64 * (1 - n % 2)) = bits old (64 * (1 - n % 2) + 63) (64 * (1 - n % 2)) ∧
      (∀ k, k ≠ n / 2 → (S.ctx c).brks.find k = (s.ctx c).brks.find k) ∧ (S.ctx c).brkNow = (s.ctx c).brkNow ∧
      (∀ m, 0 < m → ((S.ctx c).pass m).brkNow = (S.ctx c).brks) ∧ ∀ d, d ≠ c → S.ctx d = s.ctx d) ∧
    (∃ S x, exec (.mcwinWrite n w) s = .next S ∧ S.mcwins.find (n / 2) = some x ∧
      bits x (64 * (n % 2) + 62) (64 * (n % 2)) = bits w 62 0 ∧
      (bit x 63 = true → bits x 62 52 = 0 ∧ bits x 20 9 = 0 ∧ s.backed (mcBase x) (mcLen x) = true ∧
        ∀ i y, i ≠ n / 2 → S.mcwins.find i = some y → bit y 63 = true → mcBase y + mcLen y ≤ mcBase x ∨ mcBase x + mcLen x ≤ mcBase y) ∧
      (∀ i, i ≠ n / 2 → S.mcwins.find i = s.mcwins.find i) ∧ S.mem = s.mem) ∧
    ((pmd < 4 → (s.port p).st = .disabled →
        exec (.portEnable p pmd) s = .next (s.setPort p ({ s.port p with en := true, pmd := pmd }.train s.refCycle))) ∧
      ((s.port p).st ≠ .disabled → ∃ S, exec (.portDisable p) s = .next S ∧ (S.port p).st = .disabled ∧ (S.port p).en = false ∧
        (S.port p).unack = [] ∧ S.outq = ((s.port p).unack.filter fun (f : Flit) => f.vl != 3 && !s.lostFlit f) ++ s.outq)) ∧
    (let ok := bits w 63 33 = 0 ∧ bits w 31 16 = 0
     (ok → bit w 32 = false → exec (.routeWrite p w) s = .next { s with routes := s.routes.put p (w % 65536 + (s.route p / 2 ^ 32 % 2) * 2 ^ 32) }) ∧
     (ok → bit w 32 = true → s.lostDev p = true → exec (.routeWrite p w) s = .next { s with routes := s.routes.put p (w % 65536) }) ∧
     (ok → bit w 32 = true → s.lostDev p = false →
        exec (.routeWrite p w) s = .next ({ s with routes := s.routes.put p (w % 65536) }.loseDevice p)) ∧
     (¬ok → exec (.routeWrite p w) s = .next s)) ∧
    (∀ th g, s.threads.find s.dbgThread = some th → s.gangs.find (gidOf s.dbgThread) = some g → (s.ctx g.ctx).st = .halted →
      let t := s.dbgThread
      (s.dbgItem = 0 → s.dbgIndex ≠ 0 → s.dbgIndex ≤ g.nregs →
        exec .debugRead s = .next { s with dbgdat := (s.storedWord t s.dbgIndex).bits.toNat + 2 ^ 32 * (s.storedWord t s.dbgIndex).tag.code } ∧
        ∀ tag, Tag.ofCode (bits w 35 32) = some tag →
          exec (.debugWrite w) s = .next (s.writeReg t s.dbgIndex ⟨BitVec.ofNat 32 (bits w 31 0), tag⟩)) ∧
      (s.dbgItem = 1 →
        (∀ sp, Special.ofNum s.dbgIndex = some sp → exec .debugRead s = .next { s with dbgdat := s.special t th g sp % 2 ^ 32 } ∧
          exec (.debugWrite w) s = .next (s.updThread t fun y => y.dbgSpecial sp (bits w 31 0))) ∧
        (Special.ofNum s.dbgIndex = none → exec (.debugWrite w) s = .next s)) ∧
      (s.dbgItem = 2 → exec .debugRead s = .next { s with dbgdat := th.pc } ∧
        (bits w 31 0 = th.pc → exec (.debugWrite w) s = .next s) ∧
        (bits w 31 0 ≠ th.pc → ∃ S y, exec (.debugWrite w) s = .next S ∧ S.threads.find t = some y ∧ S.mem = s.mem ∧
          y.pc = bits w 31 0 ∧ y.passBrk = false ∧ y.res = .here ∧ y.clause = none ∧ y.wait = none ∧ y.preds = th.preds ∧ y.rptAct = th.rptAct ∧
          y.rptRep = th.rptRep ∧ y.rptInst = th.rptInst)) ∧
      (s.dbgItem = 3 → exec .debugRead s = .next { s with dbgdat := th.preds / 2 * 2 + 1 } ∧
        ∃ S y, exec (.debugWrite w) s = .next S ∧ S.threads.find t = some y ∧ ∀ i, bit y.preds i = (decide (0 < i ∧ i < 8) && bit w i))) ∧
    ((∀ g, s.gangs.find (gidOf s.dbgThread) = some g → (s.ctx g.ctx).st ≠ .halted) →
      exec .debugRead s = .next { s with dbgdat := 0 } ∧ exec (.debugWrite w) s = .next s) ∧
    (exec (.registerWrite ⟨0x20, 8⟩ w) s = exec (.tagwrWrite w) s ∧ exec (.registerWrite ⟨0x38, 8⟩ w) s = exec (.lmbaseWrite w) s ∧
      (p < 64 → exec (.registerWrite ⟨0x8100 + 8 * p, 8⟩ w) s = exec (.routeWrite p w) s) ∧
      (c < 256 → n < 16 → exec (.registerWrite ⟨0x20000 + 128 * c + 8 * n, 8⟩ w) s = exec (.breakpointSet c n w) s) ∧
      (n < 32 → exec (.registerWrite ⟨0x8400 + 8 * n, 8⟩ w) s = exec (.mcwinWrite n w) s) ∧
      (c < 256 → s.cxstsRes ≠ 15 → exec (.registerWrite ⟨0, 8⟩ (4096 * 1 + c)) s = exec (.define c) s ∧
        exec (.registerWrite ⟨0, 8⟩ (4096 * 3 + c)) s = exec (.halt c) s ∧ exec (.registerWrite ⟨0, 8⟩ (4096 * 6 + c)) s = exec (.kill c) s) ∧
      (off % 8 ≠ 0 ∨ size ≠ 8 → exec (.registerWrite ⟨off, size⟩ w) s = .next s) ∧
      (0x28000 ≤ off → exec (.registerWrite ⟨off, size⟩ w) s = .next s))

/-! ## Events: resets, health and the network (11_allocation, 18_link, 19_health, 20_bringup) -/

/-- R397, R398, Table 18.11, R415 to R418: a warm reset is refused while another runs or on die 0 of a bridge device; else the kernels with a
gang on the die fail and its steps follow in their order, from quiescing to up, and no step is taken out of turn; after a cold reset the
device is ready or in recovery, what flash and the settings keep has stood, and all else is as after reset; an image that fails its check, or step 2's
fail bit, leads to recovery; the alternatives of steps 3 and 4 leave the modules and the stacks that trained; firmware that verifies is
written, and nothing else is. The model's own choices: memory after a cold reset is as at reset (log entry 2), the boots of one cold reset are one
step (log entry 76), and a written image clears step 2's fail bit (log entry 112). -/
def Obligations.Resets : Prop :=
  ∀ (s : State) (d bad alt dead : Nat) (mods : List Nat) (x : Image),
    (s.boot = 10 → d < 4 →
      ((∃ e, e ∈ s.dies ∧ e.2.st ≠ .up) ∨ (d = 0 ∧ s.isBridge = true) → exec (.warmReset d) s = .next { s with drstRes := 1 }) ∧
      ((∀ e, e ∈ s.dies → e.2.st = .up) → ¬(d = 0 ∧ s.isBridge = true) → ∃ S, exec (.warmReset d) s = .next S ∧ S.drstRes = 15 ∧
        (S.die d).st = .quiescing ∧ (∀ e, e ≠ d → S.die e = s.die e) ∧
        ∀ i k, s.kernels.find i = some k → s.kernOnDie i d = true → k.st = .running → k.due = none →
          ∃ k', S.kernels.find i = some k' ∧ k'.st = .failed ∧ k'.due = some 4)) ∧
    (let step (i : Instr) (a b : DieState) (P : State → Prop) : Prop :=
      ((s.die d).st = a → ∃ S, exec i s = .next S ∧ (S.die d).st = b ∧ (∀ e, e ≠ d → (S.die e).st = (s.die e).st) ∧ P S) ∧
      ((s.die d).st ≠ a → exec i s = .next s)
     step (.dieFlushing d) .quiescing .flushing (fun S => S.threads = s.threads ∧ S.gangs = s.gangs) ∧
     step (.dieResetting d) .flushing .resetting (fun S => (S.die d).selfRef = true ∧ (S.die d).tlb = [] ∧ S.mem = s.mem ∧
       ∀ k, (dieOfCore k = d → S.core k = Core.init) ∧ (dieOfCore k ≠ d → S.core k = s.core k)) ∧
     step (.dieTesting d) .resetting .testing (fun S => (S.die d).viaMap = true ∧ (S.die d).selfRef = false ∧ S.mem = s.mem) ∧
     step (.dieRetraining d) .testing .retraining (fun S => ∀ p, p / 4 = d → p < 16 → (s.port p).st = .up → (S.port p).st = .training) ∧
     step (.dieUp d) .retraining .up (fun S => S.drstRes = 0 ∧ S.ports = s.ports)) ∧
    (∃ S, exec (.coldReset bad ⟨alt, mods, dead⟩) s = .next S ∧ ((S.boot = 10 ∧ S.recovery = false ∧ S.brFail = 0) ∨ S.recovery = true) ∧
      S.image = s.nextImage.getD s.image ∧ S.nextImage = none ∧ S.devnum = s.devnum ∧ S.mem = State.reset.mem ∧ S.threads = [] ∧ S.kernels = [] ∧
      S.ctxs = State.reset.ctxs ∧ S.queues = State.reset.queues ∧
      (bad = 0 → s.brFail = 0 → imageFine S.image = true → S.boot = 10 ∧ S.recovery = false ∧ S.brBoots = min (s.brBoots + 1) 4294967295) ∧
      (imageFine S.image = false → S.recovery = true) ∧ (bit s.brFail 1 = true → S.recovery = true) ∧
      (S.boot = 10 → (bit s.brFail 2 = true → S.bridges = mods) ∧ (bit s.brFail 3 = true → S.hbmFail = dead) ∧ S.pcieOff = bit s.brFail 6)) ∧
    (s.boot = 10 ∨ s.recovery = true → s.isBridge = true →
      let written (y : Image) : State := { s with nextImage := some y, brFail := setBit s.brFail 1 false }
      (imageFine x = true → exec (.firmwareUpdate x false) s = .next (written x) ∧
        ∃ y, exec (.firmwareUpdate x true) s = .next (written y) ∧ imageFine y = false) ∧
      (imageFine x = false → ∀ cut, exec (.firmwareUpdate x cut) s = .next s)) ∧
    (s.isBridge = false → ∀ cut, exec (.firmwareUpdate x cut) s = .next s)

/-- R239 to R242, R400, R401, R413, R423 to R426, R396: a heartbeat sets the refresh schedule that the temperature asks for and
its absence for 50 µs the failsafe one; a power measurement moves the power point by its 1 ms average, down until the average is below the limit,
and the point in use is the least of the points asked for; heat lowers it, and the trip turns the package off for good; a module that a bridge loses
is counted, and a bridge without one takes the package down; a latch
clears what a core's counters count; errors arise, and refresh and scrubbing repair and count them. The model's own choices: the average while there
are fewer than ten measurements (log entry 115), where a lost module is counted and boot 0 of a package that is down (log entry 66). -/
def Obligations.Health : Prop :=
  ∀ (s : State) (d watts b core gid n k q : Nat) (band : Temp) (x : Die) (g : Gang) (unc : Bool), s.dies.find d = some x → d < 4 →
    let period (t : Temp) : Nat := if t = .normal then 250 else 125
    let others (S : State) : Prop := ∀ e, e ≠ d → S.die e = s.die e
    let point (S : State) : Prop :=
      let p := min S.opReq (min S.opPower (if ∃ e ∈ S.dies, e.2.temp = .veryHot then 0 else 15))
      S.opUse = s.opUse ∧ S.opNext = if p = s.opUse then none else some p
    (∃ S, exec (.heartbeat d) s = .next S ∧ (S.die d).fsafe = false ∧ (S.die d).lastHb = s.refCycle ∧ (S.die d).period = period x.temp ∧
      ((S.die d).hot = true ↔ x.temp ≠ .normal) ∧ others S) ∧
    (x.fsafe = false → (x.lastHb + 5000 ≤ s.refCycle → ∃ S, exec (.failsafeEntry d) s = .next S ∧ (S.die d).fsafe = true ∧
        (S.die d).period = 125 ∧ (S.die d).fsent = min (x.fsent + 1) 4294967295 ∧ others S) ∧
      (s.refCycle < x.lastHb + 5000 → exec (.failsafeEntry d) s = .next s)) ∧
    (s.lastPow + 10000 ≤ s.refCycle → ∃ S, exec (.powerMeasurement watts) s = .next S ∧ S.hist = (watts :: s.hist).take 10 ∧
      (let w := S.hist.sum
       let at' (p : Nat) : Nat := p * S.hist.length
       (at' 2400 < w ∨ (at' 2400 = w ∧ s.opLow = true) → S.opPower = s.opPower - 1 ∧ S.opLow = true) ∧
       (w < at' 2400 ∨ (at' 2400 = w ∧ s.opLow = false) → S.opLow = false ∧
         S.opPower = if w < at' 2200 then min 15 (s.opPower + 1) else s.opPower)) ∧ point S) ∧
    (∃ S, exec .operatingPointStable s = .next S ∧ S.opNext = none ∧ S.opUse = s.opNext.getD s.opUse ∧
      ∀ i y, s.kernels.find i = some y → S.kernels.find i = some { y with ophold := false }) ∧
    (∃ S, exec (.thermalChange d band) s = .next S ∧ (S.die d).temp = band ∧ others S ∧ point S ∧
      (x.fsafe = false → (S.die d).period = period band)) ∧
    (∃ S, exec .thermalTrip s = .next S ∧ S.mem = s.mem ∧
      ∀ (a : Agenda) (rest : List Agenda), a.whileOff = false → step { S with agenda := a :: rest } = .fault .packageOff) ∧
    (∀ m, b < 6 → s.bridges[b]? = some m →
      (m = 0 → exec (.bridgeModuleLoss b) s = .next s) ∧
      (1 < m → s.meshed = true → ∃ S, exec (.bridgeModuleLoss b) s = .next S ∧ S.bridges[b]? = some (m - 1) ∧ S.boot = s.boot ∧ S.kernels = s.kernels ∧
        ∀ e, (S.die e).brErr = (s.die e).brErr + if e = (bridgePair b).1 ∨ e = (bridgePair b).2 then 1 else 0) ∧
      (m = 1 → s.boot ≠ 10 → ∃ S, exec (.bridgeModuleLoss b) s = .next S ∧ S.bridges[b]? = some 0 ∧ S.boot = s.boot ∧ S.kernels = s.kernels) ∧
      (m = 1 → s.boot = 10 → ∃ S, exec (.bridgeModuleLoss b) s = .next S ∧ S.boot = 0 ∧ S.down = true ∧
        (s.isBridge = true → S.internalError = true) ∧
        (∀ p y, S.ports.find p = some y → y.st = .disabled ∧ y.en = false) ∧
        ∀ i y, S.kernels.find i = some y → y.st ≠ .running ∧ y.st ≠ .queued ∧ y.st ≠ .admitting)) ∧
    (8 ≤ x.tk → x.tk ≤ 24 → s.refCycle % 2 ^ x.tk = 0 → x.lastTrace ≠ some s.refCycle →
      ∃ S, exec (.traceSample d) s = .next S ∧ (S.die d).lastTrace = some s.refCycle ∧ S.threads = s.threads ∧
        ∀ i, i < 96 → (S.core (96 * d + i)).genIssues = 0 ∧ (S.core (96 * d + i)).accIssues = 0) ∧
    (∃ S, exec (.refreshPass core) s = .next S ∧ S.mem = s.mem ∧ S.threads = s.threads ∧
      (s.gangs.find gid = some g → coreOfGid gid = core → s.refreshes core g.ctx g.regs = true → ∃ g', S.gangs.find gid = some g' ∧
        ∀ r, (s.inPlace core g.kern (.regs gid) r = true → (g'.regs.row r).soft = 0) ∧ (g'.regs.row r).bad = (g.regs.row r).bad ∧ (g'.regs.row r).words = (g.regs.row r).words)) ∧
    (∀ site, ∃ S, exec (.softError site unc) s = .next S ∧ S.mem = s.mem ∧ S.threads = s.threads) ∧
    (s.gangs.find gid = some g → n < 32 * g.regs.pages → k < 32 → ∃ S g', exec (.softError (.regWord gid n k) unc) s = .next S ∧
      S.gangs.find gid = some g' ∧ (∀ r, (g'.regs.row r).words = (g.regs.row r).words) ∧
      (bit (g'.regs.row n).bad k = (unc || bit (g.regs.row n).bad k)) ∧ (bit (g'.regs.row n).soft k = (!unc || bit (g.regs.row n).soft k))) ∧
    (∃ S, exec (.softError (.hbm q) true) s = .next S ∧ S.poisoned (32 * q) = true) ∧
    (∃ S, exec (.scrubbing d) s = .next S ∧ S.mem = s.mem ∧ S.poison = s.poison ∧ (∀ e, e ∈ S.softErrs ↔ e ∈ s.softErrs ∧ homeDie (32 * e) ≠ d) ∧
      (x.ecnt.length = 8 → (S.die d).ecnt.getD 6 0 = min (x.ecnt.getD 6 0 + (s.softErrs.filter fun e => homeDie (32 * e) == d).length) 65535 ∧
        (S.die d).ecnt.getD 7 0 = min (x.ecnt.getD 7 0 + (s.poison.filter fun e => homeDie (32 * e) == d && !(s.poisonL2.any fun k => l2Sector k == e)).length) 65535 ∧
        (S.die d).ecnt.getD 4 0 = min (x.ecnt.getD 4 0 + (s.softL2.filter fun e => l2Die e == d).length) 65535 ∧
        (S.die d).ecnt.getD 5 0 = min (x.ecnt.getD 5 0 + (s.poisonL2.filter fun e => l2Die e == d).length) 65535))

/-- R419: each of the seven SPDM requests is answered on the transport that brought it, the certificate chain only from slot 0, measurement 1
the digest of the firmware image and measurement 2 BOOTREC, signed where the protocol signs; any other request is answered ERROR
UnsupportedRequest; one over DaxLink goes out as a management frame; DOE is there on a bridge device with its PCIe port only. The model's own choices:
the kinds and contents of the answers, and what indices 0 and 255 of a measurement ask for (log entry 69), and the numbers that stand for SPDM 1.3, its
capabilities and the only algorithms (log entry 116). -/
def Obligations.Attestation : Prop :=
  ∀ (s : State) (tr : Transport) (slot nonce req n : Nat), s.boot = 10 →
    (s.isBridge = false → ∀ i, i ∈ [Instr.getVersion .doe, .getCapabilities .doe, .negotiateAlgorithms .doe, .getDigests .doe, .getCertificate .doe slot,
      .challenge .doe nonce, .getMeasurements .doe n, .unsupportedRequest .doe req] → exec i s = .next s) ∧
    ((tr = .doe → s.isBridge = true) →
      let told (i : Instr) (kind : Nat) (body : List Nat) : Prop :=
        exec i s = .next { s with spdm := s.spdm ++ [{ tr := tr, kind := kind, body := body }],
                                  outq := s.outq ++ match tr with
                                    | .doe => []
                                    | .daxlink src => [s.otherFlit src 0 7 2 (Config.framed (.spdmAnswer kind body))] }
      let signs (i : Instr) (kind : Nat) (body : List Nat) : Prop := told i kind (body ++ [Config.sign (Config.sha384 body)])
      let image := Config.sha384 ([s.image.magic, s.image.version, s.image.len] ++ s.image.body.map (·.toNat) ++ [s.image.sig])
      told (.getVersion tr) 1 [0x13] ∧ told (.getCapabilities tr) 2 [0x16] ∧ told (.negotiateAlgorithms tr) 3 [0x80, 0x02] ∧ told (.getDigests tr) 4 [Config.sha384 [Config.certChain]] ∧
      told (.getCertificate tr 0) 5 [Config.certChain] ∧ (slot ≠ 0 → told (.getCertificate tr slot) 8 [Config.spdmBody (16 + slot)]) ∧
      signs (.challenge tr nonce) 6 [nonce, Config.sha384 [Config.certChain]] ∧ signs (.getMeasurements tr 0) 7 [2] ∧
      signs (.getMeasurements tr 1) 7 [image] ∧ signs (.getMeasurements tr 2) 7 [s.bootrec] ∧
      signs (.getMeasurements tr 255) 7 [image, s.bootrec] ∧
      (2 < n → n ≠ 255 → told (.getMeasurements tr n) 8 [Config.spdmBody (256 + n)]) ∧
      told (.unsupportedRequest tr req) 0 [req])

/-- R383, R384, R386 to R390, R381, R112: a flit in its place on a port that is up is taken: its acknowledgement counts and its lane's credit
goes back; one out of place, or unusable, is discarded and one NAK names the flit expected. The 256 bytes of a flit hold its
fields and payload, and no flit when its CRC fails. A request of a peer whose turn it is is performed
and answered with its tag, a write acknowledged after its error reply when it is refused or fails, a RED by its status only; a duplicate is answered
again and an early one kept. An answer completes its request; a
flit for another device goes on; in recovery only management frames and link control do anything. A NAK sends again from the flit named; a port sends
again first, with its current acknowledgement, then link control, then the flit chosen against a credit, but after fifteen others the management flit that
waits, and the eighth replay of one flit retrains it. The model's own choices: one NAK for a gap (log entry 70), credits returned one by one and link
control before new flits (log entry 71), the fields of a RED's answer and the mark of a RED (log entries 74 and 95), a read of no sector or of more than
four (log entry 94), the order of the CRC's bits (log entry 99), the marks of host and BAR4 addresses (log entry 114). -/
def Obligations.Link : Prop :=
  ∀ (s : State) (p lack : Nat) (f : Flit), s.portUp p = true →
    let x := s.port p
    let T := s.setPort p (x.take f)
    let reqs : List (Instr × Nat) := [(.flitRead p f, 1), (.flitWrite p f, 2), (.flitAtomic p f, 3), (.multicastWrite p f, 6)]
    let mine (g : Flit → State → State) : Prop := s.boot = 10 → f.lseq = x.expL → f.dst = s.devnum →
      ∀ i ty, (i, ty) ∈ reqs → f.ty = ty → exec i s = .next (g f T)
    let others : List (Instr × Nat) := [(.flitResponse p f, 4), (.launchFrame p f, 5), (.endToEndAcknowledgement p f, 9)]
    let away (i : Instr) : Prop := exec i s = .next (s.setPort p x.discard)
    let ctl (k : Nat) : Prop := f.ty = 8 ∧ bits f.payload 7 0 = k
    let on : Prop := f.dst ≠ s.devnum ∧ f.ty ≠ 0 ∧ f.ty ≠ 8 ∧ f.ty < 10
    let e := (s.erecv.find f.src).getD 0
    let resp (tag : Nat) (r : Reply) : Flit := { eseq := 0, dst := f.src, src := s.devnum, ctx := f.ctx, ty := 4, vl := 1, lseq := 0, lack := 0, payload := respPayload tag r.status r.cause r.data r.tags }
    ((x.take f).expL = (x.expL + 1) % 4096 ∧ (x.take f).nakd = false ∧ (f.vl < 3 → (x.take f).ctl = x.ctl ++ [creditPayload f.vl]) ∧
      (∀ y, y ∈ (x.take f).unack ↔ y ∈ x.unack ∧ 2048 ≤ (f.lack + 4096 - y.lseq) % 4096)) ∧
    (x.discard.expL = x.expL ∧ x.discard.nakd = true ∧ x.discard.ctl = if x.nakd then x.ctl else x.ctl ++ [1 + 2 ^ 16 * x.expL]) ∧
    (f.lseq ≠ x.expL →
      (f.dst = s.devnum → ∀ i ty, (i, ty) ∈ (.managementFrame p f, 7) :: reqs ++ others → f.ty = ty → away i) ∧
      (ctl 1 → away (.nak p f)) ∧ (ctl 2 → away (.credits p f)) ∧ (on → away (.flitForward p f))) ∧
    (s.boot ≠ 10 → f.lseq = x.expL → f.dst = s.devnum → ∀ i ty, (i, ty) ∈ reqs ++ others → f.ty = ty → exec i s = .next T) ∧
    ((flitFits f = true → flitOfImage (flitImage f) = some f) ∧ ∀ w, w / 2 ^ 1984 ≠ flitCrc (w % 2 ^ 1984) → flitOfImage w = none) ∧
    (f.eseq = e → e < 65536 → s.early = [] → mine fun f T =>
      let acked (r : Reply × State) : State := r.2.replyAck f.src f.ctx (bits f.payload 1359 1344) r.1.status r.1.cause
      match f.ty with
      | 1 => ((T.performRead f).2.reply f (bits f.payload 87 72) (T.performRead f).1).performed f.src
      | 3 => ((T.performAtomic f).2.reply f (bits f.payload 111 96) (T.performAtomic f).1).performed f.src
      | 2 => acked (T.performWrite f)
      | _ => acked (T.performMulticast f)) ∧
    (∀ src c tag st cause, e < 65536 → src = f.src →
      let S := s.replyAck src c tag st cause
      S.erecv.find src = some ((e + 1) % 65536) ∧ S.mem = s.mem ∧ ∃ y, y.ty = 9 ∧ y.dst = src ∧ y.payload = e ∧
        (st = 0 → S.outq = s.outq ++ [y] ∧ S.eresp.find (65536 * src + e) = some [y]) ∧
        (st ≠ 0 → ∃ z, z.ty = 4 ∧ z.dst = src ∧ z.payload = tag % 65536 + 2 ^ 16 * st + 2 ^ 24 * cause ∧
          S.outq = s.outq ++ [z, y] ∧ S.eresp.find (65536 * src + e) = some [z, y])) ∧
    (f.eseq < 65536 → e < 65536 → f.eseq ≠ e → (e + 65536 - f.eseq) % 65536 ≤ 32768 → mine fun f T =>
      match s.eresp.find (65536 * f.src + f.eseq) with
      | some ys => { T with outq := T.outq ++ ys }
      | none => T.sendAck f.src f.ctx) ∧
    (32768 < (e + 65536 - f.eseq) % 65536 → (∀ y, y ∈ s.early → y.src = f.src → y.eseq ≠ f.eseq) →
      mine fun f T => { T with early := T.early ++ [f] }) ∧
    (∀ tag r, (T.reply f tag r).outq = s.outq ++ [resp tag r] ∧ (T.reply f tag r).eresp.find (65536 * f.src + f.eseq) = some [resp tag r]) ∧
    (let pa := bits f.payload 63 0 / 32 * 32
     let n := 32 * bits f.payload 71 64
     (bits f.payload 71 64 = 0 ∨ 4 < bits f.payload 71 64 → s.performRead f = (⟨2, 1, 0, 0⟩, s)) ∧
     (1 ≤ bits f.payload 71 64 → bits f.payload 71 64 ≤ 4 → pa < barMark →
       (s.refuses f.src f.ctx = true ∨ s.backed pa n = false → (s.performRead f) = (⟨1, 0, 0, 0⟩, s.addRefused f.ctx)) ∧
       (s.refuses f.src f.ctx = false → s.backed pa n = true → s.dieRefuses pa = false → s.firstPoison pa n 0 = none →
         (s.performRead f).1 = ⟨0, 0, s.phys n pa, s.homeTags pa (n / 8)⟩ ∧ (s.performRead f).2.mem = s.mem))) ∧
    (isRed f.payload = true → (s.performAtomic f).1.data = 0 ∧ (s.performAtomic f).1.tags = 0) ∧
    (f.lseq = x.expL →
      (f.dst = s.devnum → f.ty = 7 → exec (.managementFrame p f) s = .next (T.manage f)) ∧
      (s.boot = 10 → f.dst = s.devnum →
        (f.ty = 4 → exec (.flitResponse p f) s = .next (T.response f)) ∧
        (f.ty = 9 → ∃ S : State, exec (.endToEndAcknowledgement p f) s = .next S.sweepGangs ∧ S.mem = s.mem ∧ S.outq = s.outq ∧
          ∀ i r, (i, r) ∈ S.remops ↔ (i, r) ∈ s.remops ∧
            ¬(r.posted = true ∧ r.dev = f.src ∧ (bits f.payload 15 0 + 65536 - r.eseq) % 65536 < 32768)) ∧
        (f.ty = 5 → exec (.launchFrame p f) s = .next (T.launch p f))) ∧
      (s.boot = 10 → on → exec (.flitForward p f) s = .next { T with outq := s.outq ++ [f] }) ∧
      (ctl 1 →
        let n := bits f.payload 31 16 % 4096
        let X := (x.take f).replay n
        X.txq = X.unack ∧ (∀ y, y ∈ X.unack ↔ y ∈ (x.take f).unack ∧ 2048 ≤ ((n + 4095) % 4096 + 4096 - y.lseq) % 4096) ∧
        exec (.nak p f) s = .next (T.setPort p X)) ∧
      (ctl 2 → exec (.credits p f) s = .next (T.setPort p { x.take f with cred := [
        (x.cred.getD 0 0) + bits f.payload 47 32, (x.cred.getD 1 0) + bits f.payload 63 48, (x.cred.getD 2 0) + bits f.payload 79 64] }))) ∧
    (∃ S, exec (.idleFlit p lack) s = .next S ∧ S.outq = s.outq ∧
      ∀ y, y ∈ (S.port p).unack ↔ y ∈ x.unack ∧ 2048 ≤ (lack + 4096 - y.lseq) % 4096) ∧
    away (.flitCrcFailure p) ∧ (10 ≤ f.ty → away (.flitForward p f)) ∧
    (let room : Prop := x.unack.length < 1024
     let sends (y : Flit) (P : State → Prop) : Prop := ∃ S, exec (.flitTransmit p) s = .next S ∧ P S ∧ (S.port p).nextL = (x.nextL + 1) % 4096 ∧
       (S.port p).unack = x.unack ++ [{ y with lseq := x.nextL, lack := (x.expL + 4095) % 4096 }]
     (∀ y, 15 ≤ x.sent → room → s.candidate p 2 = some y → sends y fun S => (S.port p).sent = 0 ∧ (S.port p).txq = x.txq ∧ (S.port p).ctl = x.ctl) ∧
     (x.sent < 15 ∨ ¬room ∨ s.candidate p 2 = none →
       (∀ y ys, x.txq = y :: ys →
         let k := (x.repl.find y.lseq).getD 0 + 1
         (k < 8 → ∃ X, exec (.flitTransmit p) s = .next (s.setPort p X) ∧ X.txq = ys ∧ X.replays = min (x.replays + 1) 65535 ∧
           X.repl.find y.lseq = some k ∧ X.nextL = x.nextL ∧ (∀ z, z ∈ X.unack → z.lseq = y.lseq → z.lack = (x.expL + 4095) % 4096) ∧
           (∀ z, z.lseq ≠ y.lseq → (z ∈ X.unack ↔ z ∈ x.unack))) ∧
         (8 ≤ k → ∃ S, exec (.flitTransmit p) s = .next S ∧ (S.port p).st = .retraining ∧ (S.port p).unack = [])) ∧
       (x.txq = [] → ¬room → exec (.flitTransmit p) s = .next s) ∧
       (x.txq = [] → room →
         (∀ c cs, x.ctl = c :: cs → sends (s.control p c) fun S => (S.port p).ctl = cs ∧ S.outq = s.outq) ∧
         (x.ctl = [] → ∀ y, s.choose p = some y →
           x.cred.getD y.vl 0 ≠ 0 ∧ y ∈ s.outq ∧ s.routePort y.dst = some p ∧
           (∀ z, z ∈ s.outq → z.vl = 1 → z.ty ≠ 3 → s.routePort z.dst = some p → x.cred.getD 1 0 ≠ 0 → y.vl = 1) ∧
           sends y fun S => S.outq.length + 1 = s.outq.length))))

/-- R392, Table 18.8, R383, R386, R388, R393 to R395: a port comes up, retrains, times out after 10 ms and trains again, its unacknowledged
flits waiting for a route again; a device for which flits have waited 10 ms is lost: nothing waits to go to it, posted and multicast writes to it are
dropped and counted, and any other request is
answered as one that is refused. The host's read of backed memory through a bridge's BAR4 answers its
bytes and its write stores them, an access to anything else counts and aborts, and its atomics answer the old value; one to another function's
BAR4 goes to its device, and none of a function that is not there. The model's own choices: the credits at 0 and the one grant when a port comes up (log
entry 72), and what an access outside a BAR4, or of a function that is not there, meets (log entry 114). -/
def Obligations.PortsAndHost : Prop :=
  ∀ (s : State) (p far fn off v cv : Nat) (data : List Byte) (op : HostAtomic) (w64 : Bool),
    (let x := s.port p
     let left (S : State) : Prop := (S.port p).unack = [] ∧ S.outq = (x.unack.filter fun (f : Flit) => f.vl != 3 && !s.lostFlit f) ++ s.outq
     (x.st = .training → (s.die (p / 4)).st = .up → ∃ S, exec (.portTrained p far) s = .next S ∧ (S.port p).st = .up ∧ (S.port p).far = far ∧
       (S.port p).nextL = 0 ∧ (S.port p).expL = 0 ∧ (∀ i, (S.port p).cred.getD i 0 = 0) ∧
       ∃ g, (S.port p).ctl = [g] ∧ bits g 7 0 = 2 ∧ 0 < bits g 63 48) ∧
     (x.st = .up → ∃ S, exec (.portRetrain p) s = .next S ∧ (S.port p).st = .retraining ∧ (S.port p).since = s.refCycle ∧ left S) ∧
     (x.st = .training ∨ x.st = .retraining →
       (x.since + 1000000 ≤ s.refCycle → exec (.portTimeout p) s = .next (s.setPort p { x with st := .down, since := s.refCycle })) ∧
       (s.refCycle < x.since + 1000000 → exec (.portTimeout p) s = .next s)) ∧
     (x.st = .retraining → ∃ S, exec (.phyRestored p) s = .next S ∧ (S.port p).st = .training ∧ (S.port p).since = s.refCycle)) ∧
    (let S : State := { s with routes := s.routes.put p (setBit (s.route p) 32 true), waitDev := s.waitDev.del p }
     let T : State := { S with outq := s.outq.filter fun f => !S.lostFlit f }.countDropped (s.outq.filter S.lostFlit)
     (∀ f, f ∈ T.outq → ¬(f.dst = p ∧ f.src = s.devnum ∧ f.ty ∈ [1, 2, 3, 6])) ∧
     (∀ c, (s.ctx c).refused < 2 ^ 32 → (T.ctx c).refused =
       min ((s.ctx c).refused + (s.outq.filter fun f => S.lostFlit f && s.isMcWrite f && f.ctx == c).length) 4294967295) ∧
     (1000000 ≤ (s.waitDev.find p).getD 0 → s.lostDev p = false → (∀ e, e ∈ s.hostPend → e.2.1 ≠ p) →
       (∃ U, exec (.deviceLost p) s = .next U ∧ (∀ e, e ∈ U.remops → e.2.dev ≠ p)) ∧
       ((∀ e, e ∈ s.remops → e.2.dev ≠ p) → exec (.deviceLost p) s = .next T) ∧
       (∀ id r, s.remops = [(id, r)] → r.dev = p →
         (r.posted = true → ∃ U, exec (.deviceLost p) s = .next U ∧ U.remops = [] ∧ U.outq = T.outq ∧
           ∀ k, s.kernels.find r.kern = some k → U.kernels.find r.kern = some { k with lost := true }) ∧
         (r.posted = false → exec (.deviceLost p) s = .next (T.answerOp id r ⟨1, 0, 0, 0⟩))))) ∧
    (s.boot = 10 → s.isBridge = true →
      let pa := s.lmbase + off
      (∀ n,
        (s.inBar4 0 off n = true →
          (s.backed pa n = true → s.dieRefuses pa = false → s.firstPoison pa n 0 = none → ∃ S, exec (.hostBar4Read ⟨0, off⟩ n) s = .next S ∧
            S.hostOut = s.hostOut ++ [{ data := some (leBytes n (s.phys n pa)) }] ∧ S.mem = s.mem) ∧
          (s.backed pa n = false → exec (.hostBar4Read ⟨0, off⟩ n) s =
            .next { s with badacc := min (s.badacc + 1) 16383, hostOut := s.hostOut ++ [{ data := none }] })) ∧
        (∀ w, s.funcs[fn]? = some w → 0 < fn → fn < 16 → s.lostDev w.1 = false → s.inBar4 fn off n = true → ∃ S y,
          exec (.hostBar4Read ⟨fn, off⟩ n) s = .next S ∧ S.outq = s.outq ++ [y] ∧ y.dst = w.1 ∧ y.ty = 1 ∧ S.hostOut = s.hostOut ∧ S.mem = s.mem) ∧
        (s.inBar4 fn off n = false ∨ s.funcs[fn]? = none → 0 < fn →
          exec (.hostBar4Read ⟨fn, off⟩ n) s = .next { s with hostOut := s.hostOut ++ [{ data := none }] })) ∧
      (s.inBar4 0 off data.length = true → Memory.wf s.mem = true → s.tagBits.Pairwise (· < ·) → s.backed pa data.length = true →
        s.dieRefuses pa = false → ∃ S, exec (.hostBar4Write ⟨0, off⟩ data) s = .next S ∧
        (∀ i b, data[i]? = some b → Memory.get S.mem (pa + i) = b ∧ S.tagAt (pa + i) = false) ∧
        ∀ a, a < pa ∨ pa + data.length ≤ a → Memory.get S.mem a = Memory.get s.mem a) ∧
      (s.inBar4 0 off data.length = true → s.backed pa data.length = false → exec (.hostBar4Write ⟨0, off⟩ data) s = .next { s with badacc := min (s.badacc + 1) 16383 }) ∧
      (let n := if w64 then 8 else 4
       Memory.wf s.mem = true → s.inBar4 0 off n = true → off % n = 0 → s.backed pa n = true → s.dieRefuses pa = false → s.firstPoison pa n 0 = none →
         ∃ S, exec (.hostAtomicop ⟨0, off⟩ op w64 v cv) s = .next S ∧ S.hostOut = s.hostOut ++ [{ data := some (leBytes n (s.phys n pa)) }] ∧
           S.phys n pa = (match op with
             | .fetchAdd => (s.phys n pa + v) % 2 ^ (8 * n)
             | .swap => v % 2 ^ (8 * n)
             | .cas => if s.phys n pa = cv % 2 ^ (8 * n) then v % 2 ^ (8 * n) else s.phys n pa)))

/-! ## Encoding, the step, and the machine as a whole (01_conventions, 02_instruction_word, 03_agents) -/

/-- R27, R28, R37 to R45: every well-formed code instruction has one word of 64 bits, and the decoder reads from that word the instruction, with
every field; and a word that the decoder accepts is the word of the well-formed instruction it reads, so no bit of it is dropped. The same
for clause headers. -/
def Obligations.DecodeEncode : Prop :=
  (∀ i, i.wf = true → (inCode i = true ↔ ∃ w, encode i = some w)) ∧
  (∀ i w, i.wf = true → encode i = some w → w < 2 ^ 64 ∧ decodeWord w = .ok i) ∧
  (∀ i w, w < 2 ^ 64 → decodeWord w = .ok i → i.wf = true ∧ encode i = some w) ∧
  (∀ h w, w < 2 ^ 64 → decodeHeader w = some h → h.cls < 7 ∧ 1 ≤ h.count ∧ h.count ≤ 16 ∧ encodeHeader h = w) ∧
  (∀ h : Header, h.cls < 7 → 1 ≤ h.count → h.count ≤ 16 → h.reps < 4096 → h.sd < 16 → h.sa < 16 → h.sb < 16 → h.sc < 16 →
    (h.rep = false → h.reps = 0 ∧ h.sd = 0 ∧ h.sa = 0 ∧ h.sb = 0 ∧ h.sc = 0) → encodeHeader h < 2 ^ 64 ∧ decodeHeader (encodeHeader h) = some h)

/-- The encodings that the spec writes out (02_instruction_word Table 2.20 and the examples of each family's chapter) decode to the
instructions they stand for. -/
def Obligations.DecodeWords : Prop :=
  decodeHeader 0x1080208880000000 = some ⟨1, 1, true, 4, 1, 1, 1, 0⟩ ∧
  decodeWord 0x0012000000FFFFFC = .ok (.bra ⟨false, 2⟩ (-4)) ∧
  decodeWord 0x103B038180FFFFF8 = .ok (.iaddi ⟨true, 3⟩ 7 6 false false false (-8)) ∧
  decodeWord 0x2000050503C00000 = .ok (.fadd ⟨false, 0⟩ 10 20 30 0 .ne ⟨false, false, false, false⟩) ∧
  decodeWord 0x3000050301C08049 = .ok (.swadd ⟨false, 0⟩ 10 12 14 64 1 1 1) ∧
  decodeWord 0x4000040100002004 = .ok (.ld ⟨false, 0⟩ 8 4 0 16 .b32 false 0 .plain) ∧
  decodeWord 0x5040070301200000 = .ok (.objst ⟨false, 0⟩ 14 12 9 0) ∧
  decodeWord 0x6000000000000009 = .ok (.bar ⟨false, 0⟩ 1 2 0) ∧
  decodeWord 0x7030008000000000 = .ok (.tzero ⟨false, 0⟩ 0 2 none) ∧
  decodeWord 0x8070038280000000 = .ok (.rage ⟨false, 0⟩ 7 10 0)

/-- R29, R154, R155, log entry 3: with an issue slot at the head of the agenda, step takes the next member of its group, fetches the word at
that thread's PC and, when it is no header, decodes to an instruction and is admitted in the clause, runs exactly that instruction (with the
strides of a repeating clause), noting the issue, and clearing the issuing thread afterwards (a thread of a context that is about to stop then
steps aside, R410, and no other does); a word that does not decode raises ILLEGAL. An
event at the head is run as it is; with an empty agenda an early refill of a conduit comes first (R119), and else a slot that holds a
group issues. -/
def Obligations.StepRunsDecoded : Prop :=
  ∀ (s : State) (core slot t : Nat) (ts : List Nat) (rest : List Agenda) (g : Group) (i : Instr), s.off = false →
    (s.agenda = .event i :: rest → step s = exec i { s with agenda := rest }) ∧
    (s.agenda = [] → s.cdDue = none → s.busySlot = some (core, slot) → step s = step { s with agenda := [.issue core slot] }) ∧
    (s.agenda = [] → ∀ id, s.cdDue = some id → step s = exec (.conduitRefill id) s) ∧
    (s.agenda = .issue core slot :: rest → (s.core core).groups.find slot = some g →
      (g.todo = t :: ts ∨ g.todo = [] ∧ g.members = t :: ts) →
      let new : Bool := g.todo == []
      let g' : Group := if new then { g with todo := ts, hit := [], no := s.issueNo } else { g with todo := ts }
      let X : State := { { s with agenda := rest, issueNo := if new then s.issueNo + 1 else s.issueNo }.updCore core fun k =>
        { k with groups := k.groups.put slot g', genIssues := if slot < 4 && new then satAdd k.genIssues 1 32 else k.genIssues,
                 accIssues := if slot == 4 && new then satAdd k.accIssues 1 32 else k.accIssues } with cur := some ⟨core, slot, t⟩ }
      ∀ th c w S, s.threads.find t = some th → th.clause = some c → execBrk th.pc X = .ok ⟨⟩ X → fetchWord th.pc X = .ok (w, false) S →
        (decodeWord w = .ok i → (admitted (w / 2 ^ 52)).contains c.cls = true →
          (endsClause i = true → c.rep = false ∧ c.index th.pc + 1 = c.count) →
          step s = match exec (if c.rep then strided c.header th.rptRep i else i) S with
            | .next T => .next (T.afterIssue (s.ctxOf t) core slot t)
            | .fault f => .fault f
            | .refused r => .refused r) ∧
        (∀ e, decodeWord w = .error e → fetchInstr X = .error (.trap .illegal th.pc) S)) ∧
    (∀ c, (∀ b, (s.ctx b).pend = none) → s.afterIssue c core slot t = { s with cur := none })

/-- The memory list keeps its canonical form (addresses strictly rising, no entry equal to what an unlisted address reads as) in every step
of the machine: the model's invariant, of every state, not only of runs from reset. -/
def Obligations.MemoryStaysCanonical : Prop :=
  ∀ s s' : State, Memory.wf s.mem = true → step s = .next s' → Memory.wf s'.mem = true

/-- Reset: memory is canonical and blank (its blank bytes are the model's choice, log entry 2), no thread runs, every context is dead (R77, R82), every queue disabled (R97), every port disabled and
unrouted (Tables 18.4, 18.7), LMBASE 0 (Table 18.12), no breakpoint, window, error count or trace is set (Tables 19.2 to 19.5, 18.5, 17.5),
and until the boot steps end every register but BOOTREC reads 0 and writes are ignored (R415). -/
def Obligations.AtReset : Prop :=
  Memory.wf State.reset.mem = true ∧ (∀ a, Memory.get State.reset.mem a = 0) ∧ State.reset.threads = [] ∧ State.reset.kernels = [] ∧
  (∀ c, (State.reset.ctx c).st = .dead ∧ (State.reset.ctx c).brks = [] ∧ (State.reset.ctx c).peers = 0 ∧ (State.reset.ctx c).fenced = 0 ∧
    (State.reset.ctx c).fen = false) ∧
  (∀ q, (State.reset.queue q).st = .disabled) ∧ (∀ p, (State.reset.port p).st = .disabled ∧ (State.reset.port p).en = false) ∧
  (∀ p, State.reset.route p = 0) ∧ State.reset.mcwins = [] ∧ State.reset.lmbase = 0 ∧ State.reset.badacc = 0 ∧
  (∀ d, (State.reset.die d).st = .up ∧ (State.reset.die d).errs = 0 ∧ (State.reset.die d).fsent = 0 ∧ (State.reset.die d).ten = false ∧
    ∀ i, (State.reset.die d).ecnt.getD i 0 = 0) ∧
  (∀ off, off ≠ 0x30 → State.reset.readReg off 8 = 0) ∧ (∀ off n w, exec (.registerWrite ⟨off, n⟩ w) State.reset = .next State.reset)
end

