-- ==== Sys2Proof/Laws/Maps.lean ====
section
/-! SUPPORT. What the operations on sparse maps and sorted sets do to a lookup. -/

namespace Sys2Proof

theorem AMap.find_put_self {α : Type} (k : Nat) (v : α) (m : AMap α) : (m.put k v).find k = some v := by
  induction m with
  | nil => simp [AMap.put, AMap.find]
  | cons e m ih =>
    obtain ⟨j, x⟩ := e
    simp only [AMap.put]
    split
    · simp [AMap.find]
    · split
      · simp [AMap.find]
      · simp_all [AMap.find]

theorem AMap.find_put_ne {α : Type} {i k : Nat} (h : i ≠ k) (v : α) (m : AMap α) : (m.put k v).find i = m.find i := by
  induction m with
  | nil => simp [AMap.put, AMap.find, Ne.symm h]
  | cons e m ih =>
    obtain ⟨j, x⟩ := e
    simp only [AMap.put]
    split
    · simp [AMap.find, Ne.symm h]
    · split
      · subst_vars; simp [AMap.find, Ne.symm h]
      · simp [AMap.find, ih]

@[simp] theorem AMap.find_put {α : Type} (i k : Nat) (v : α) (m : AMap α) :
    (m.put k v).find i = if i = k then some v else m.find i := by
  split
  · subst_vars; exact find_put_self _ _ _
  · exact find_put_ne ‹_› _ _

@[simp] theorem AMap.find_upd {α : Type} (i k : Nat) (f : α → α) (m : AMap α) :
    (m.upd k f).find i = if i = k then (m.find i).map f else m.find i := by
  induction m with
  | nil => simp [AMap.upd, AMap.find]
  | cons e m ih =>
    obtain ⟨j, x⟩ := e
    simp only [AMap.upd]
    split
    · subst_vars; by_cases h : i = j
      · subst h; simp [AMap.find]
      · simp [AMap.find, h, Ne.symm h]
    · by_cases h : j = i
      · subst h; simp_all [AMap.find]
      · simp [AMap.find, h, ih]

theorem AMap.find_del_ne {α : Type} {i k : Nat} (h : i ≠ k) (m : AMap α) : (m.del k).find i = m.find i := by
  induction m with
  | nil => rfl
  | cons e m ih =>
    obtain ⟨j, x⟩ := e
    simp only [AMap.del]
    split
    · subst_vars; simp [AMap.find, Ne.symm h]
    · simp [AMap.find, ih]

@[simp] theorem AMap.find_mapv {α : Type} (i : Nat) (f : Nat → α → α) (m : AMap α) :
    (m.mapv f).find i = (m.find i).map (f i) := by
  induction m with
  | nil => rfl
  | cons e m ih =>
    obtain ⟨j, x⟩ := e
    by_cases h : j = i
    · subst h; simp [AMap.mapv, AMap.find]
    · simp [AMap.mapv, AMap.find, h, ih]

/-- Two changes of one entry are one change. -/
theorem AMap.upd_upd {α : Type} (k : Nat) (f g : α → α) (m : AMap α) : (m.upd k g).upd k f = m.upd k fun x => f (g x) := by
  induction m with
  | nil => rfl
  | cons e m ih =>
    obtain ⟨j, x⟩ := e
    by_cases h : j = k
    · simp [AMap.upd, h]
    · simp [AMap.upd, h, ih]

/-- A change matters only where the entry stands. -/
theorem AMap.upd_congr {α : Type} {k : Nat} {f g : α → α} {m : AMap α} {x : α} (h : m.find k = some x) (e : f x = g x) :
    m.upd k f = m.upd k g := by
  induction m with
  | nil => rfl
  | cons a m ih =>
    obtain ⟨j, y⟩ := a
    by_cases hj : j = k
    · simp_all [AMap.upd, AMap.find]
    · simp_all [AMap.upd, AMap.find]

/-- A change that leaves the entry as it is changes nothing. -/
theorem AMap.upd_same {α : Type} {k : Nat} {f : α → α} {m : AMap α} {x : α} (h : m.find k = some x) (e : f x = x) :
    m.upd k f = m := by
  induction m with
  | nil => rfl
  | cons a m ih =>
    obtain ⟨j, y⟩ := a
    by_cases hj : j = k
    · simp_all [AMap.upd, AMap.find]
    · simp_all [AMap.upd, AMap.find]

theorem AMap.upd_none {α : Type} {k : Nat} {f : α → α} {m : AMap α} (h : m.find k = none) : m.upd k f = m := by
  induction m with
  | nil => rfl
  | cons a m ih =>
    obtain ⟨j, y⟩ := a
    by_cases hj : j = k
    · simp_all [AMap.find]
    · simp_all [AMap.upd, AMap.find]

theorem setHas_setAdd_self (k : Nat) (m : List Nat) : setHas k (setAdd k m) = true := by
  induction m with
  | nil => simp [setAdd, setHas]
  | cons j m ih =>
    simp only [setAdd]
    split
    · simp [setHas]
    · split <;> simp_all [setHas]

theorem setHas_setAdd_ne {i k : Nat} (h : i ≠ k) (m : List Nat) : setHas i (setAdd k m) = setHas i m := by
  induction m with
  | nil => simp [setAdd, setHas, Ne.symm h]
  | cons j m ih =>
    simp only [setAdd]
    split
    · simp [setHas, Ne.symm h]
    · split
      · rfl
      · simp [setHas, ih]

theorem setHas_setDel_ne {i k : Nat} (h : i ≠ k) (m : List Nat) : setHas i (setDel k m) = setHas i m := by
  induction m with
  | nil => rfl
  | cons j m ih =>
    simp only [setDel]
    split
    · subst_vars; simp [setHas, Ne.symm h]
    · simp [setHas, ih]

end Sys2Proof
end

