-- ==== Sys2Proof/Laws/Memory.lean ====
section
/-! SUPPORT. The laws of byte memory: read after write, the canonical form kept, and which functions leave memory alone. -/

namespace Sys2Proof.Machine

open Sys2Proof

theorem Memory.get_nil (a : Nat) : Memory.get [] a = Memory.blank := rfl

/-- Below the lowest listed address everything is blank. -/
theorem Memory.get_below {m : List Host.Cell} : ∀ {lo a : Nat}, Memory.wfAbove lo m = true → a < lo →
    Memory.get m a = Memory.blank := by
  induction m with
  | nil => intros; rfl
  | cons e m ih =>
    obtain ⟨b, x⟩ := e
    intro lo a h ha
    simp only [Memory.wfAbove, Bool.and_eq_true, decide_eq_true_eq] at h
    have hb : b ≠ a := by omega
    simp only [Memory.get, hb, if_false]
    exact ih h.2 (by omega)

/-- A weaker lower bound. -/
theorem Memory.wfAbove_mono {m : List Host.Cell} {lo lo' : Nat} (h : Memory.wfAbove lo m = true) (hl : lo' ≤ lo) :
    Memory.wfAbove lo' m = true := by
  cases m with
  | nil => rfl
  | cons e m =>
    obtain ⟨b, x⟩ := e
    simp only [Memory.wfAbove, Bool.and_eq_true, decide_eq_true_eq] at *
    exact ⟨⟨by omega, h.1.2⟩, h.2⟩

theorem Memory.wfAbove_set {m : List Host.Cell} : ∀ {lo a : Nat} {v : Byte}, Memory.wfAbove lo m = true → lo ≤ a →
    Memory.wfAbove lo (Memory.set m a v) = true := by
  induction m with
  | nil =>
    intro lo a v _ ha
    simp only [Memory.set]
    split
    · rfl
    · simp_all [Memory.wfAbove]
  | cons e m ih =>
    obtain ⟨b, x⟩ := e
    intro lo a v h ha
    have h' := h
    simp only [Memory.wfAbove, Bool.and_eq_true, decide_eq_true_eq] at h
    simp only [Memory.set]
    split
    · split
      · exact h'
      · simp only [Memory.wfAbove, Bool.and_eq_true, decide_eq_true_eq]
        exact ⟨⟨ha, ‹_›⟩, ⟨by omega, h.1.2⟩, h.2⟩
    · split
      · split
        · exact Memory.wfAbove_mono h.2 (by omega)
        · subst_vars
          simp only [Memory.wfAbove, Bool.and_eq_true, decide_eq_true_eq]
          exact ⟨⟨ha, ‹_›⟩, h.2⟩
      · simp only [Memory.wfAbove, Bool.and_eq_true, decide_eq_true_eq]
        exact ⟨h.1, ih h.2 (by omega)⟩

/-- A write keeps the canonical form. -/
theorem Memory.wf_set {m : List Host.Cell} (h : Memory.wf m = true) (a : Nat) (v : Byte) :
    Memory.wf (Memory.set m a v) = true := Memory.wfAbove_set h (Nat.zero_le a)

theorem Memory.wf_setBytes {vs : List Byte} : ∀ {m : List Host.Cell} {a : Nat}, Memory.wf m = true →
    Memory.wf (Memory.setBytes m a vs) = true := by
  induction vs with
  | nil => intro m a h; exact h
  | cons v vs ih => intro m a h; exact ih (Memory.wf_set h a v)

theorem Memory.wf_nil : Memory.wf [] = true := rfl

/-- A write leaves every other byte alone. -/
theorem Memory.get_set_ne {m : List Host.Cell} {a b : Nat} (h : b ≠ a) (v : Byte) :
    Memory.get (Memory.set m a v) b = Memory.get m b := by
  induction m with
  | nil => simp only [Memory.set]; split <;> simp [Memory.get, Ne.symm h]
  | cons e m ih =>
    obtain ⟨c, x⟩ := e
    simp only [Memory.set]
    split
    · split <;> simp [Memory.get, Ne.symm h]
    · split
      · subst_vars; split <;> simp [Memory.get, Ne.symm h]
      · simp [Memory.get, ih]

/-- A byte written is read back. -/
theorem Memory.get_set_self {m : List Host.Cell} : ∀ {lo a : Nat} (v : Byte), Memory.wfAbove lo m = true →
    Memory.get (Memory.set m a v) a = v := by
  induction m with
  | nil => intro lo a v _; simp only [Memory.set]; split <;> simp_all [Memory.get]
  | cons e m ih =>
    obtain ⟨c, x⟩ := e
    intro lo a v h
    have h' := h
    simp only [Memory.wfAbove, Bool.and_eq_true, decide_eq_true_eq] at h
    simp only [Memory.set]
    split
    · split
      · have : c ≠ a := by omega
        simp only [Memory.get, this, if_false]
        rw [Memory.get_below h.2 (by omega)]; simp_all
      · simp [Memory.get]
    · split
      · split
        · rw [Memory.get_below h.2 (by omega)]; simp_all
        · simp [Memory.get]
      · rename_i hne; simp only [Memory.get, hne, if_false]; exact ih v h.2

/-- Bytes outside the range of a write stand. -/
theorem Memory.get_setBytes_out {vs : List Byte} : ∀ {m : List Host.Cell} {a b : Nat}, b < a ∨ a + vs.length ≤ b →
    Memory.get (Memory.setBytes m a vs) b = Memory.get m b := by
  induction vs with
  | nil => intros; rfl
  | cons v vs ih =>
    intro m a b h
    simp only [List.length_cons] at h
    simp only [Memory.setBytes]
    rw [ih (by omega), Memory.get_set_ne (by omega)]

/-- Bytes inside the range of a write are the bytes written. -/
theorem Memory.get_setBytes_in {vs : List Byte} : ∀ {m : List Host.Cell} {a i : Nat}, Memory.wf m = true →
    (h : i < vs.length) → Memory.get (Memory.setBytes m a vs) (a + i) = vs[i] := by
  induction vs with
  | nil => intro m a i _ h; simp at h
  | cons v vs ih =>
    intro m a i hm h
    cases i with
    | zero =>
      simp only [Memory.setBytes, Nat.add_zero, List.getElem_cons_zero]
      rw [Memory.get_setBytes_out (by omega), Memory.get_set_self v hm]
    | succ i =>
      simp only [Memory.setBytes, List.getElem_cons_succ]
      rw [show a + (i + 1) = (a + 1) + i by omega]
      exact ih (Memory.wf_set hm a v) (by simpa using h)

@[simp] theorem leBytes_length (n x : Nat) : (leBytes n x).length = n := by
  induction n generalizing x with
  | zero => rfl
  | succ n ih => simp [leBytes, ih]

/-- The bytes of a number, read back little-endian, are the number modulo its width (00_scope R1). -/
theorem leNat_leBytes (n x : Nat) : leNat (leBytes n x) = x % 256 ^ n := by
  induction n generalizing x with
  | zero => simp [leBytes, leNat, Nat.mod_one]
  | succ n ih =>
    simp only [leBytes, leNat, ih, BitVec.toNat_ofNat]
    rw [show 2 ^ 8 = 256 from rfl, Nat.pow_succ' (m := 256), Nat.mod_mul]

/-- A multi-byte read is the little-endian number of its bytes. -/
theorem Memory.getLE_setBytes {m : List Host.Cell} {a n x : Nat} (hm : Memory.wf m = true) :
    Memory.getLE (Memory.setBytes m a (leBytes n x)) n a = x % 256 ^ n := by
  induction n generalizing m a x with
  | zero => simp [Memory.getLE, Nat.mod_one]
  | succ n ih =>
    simp only [leBytes, Memory.setBytes, Memory.getLE]
    rw [ih (Memory.wf_set hm a _), Memory.get_setBytes_out (by omega), Memory.get_set_self _ hm, BitVec.toNat_ofNat,
      show 2 ^ 8 = 256 from rfl, Nat.pow_succ' (m := 256), Nat.mod_mul]

theorem Memory.getLE_congr {m m' : List Host.Cell} {a n : Nat} (h : ∀ i < n, Memory.get m' (a + i) = Memory.get m (a + i)) :
    Memory.getLE m' n a = Memory.getLE m n a := by
  induction n generalizing a with
  | zero => rfl
  | succ n ih =>
    simp only [Memory.getLE]
    rw [ih fun i hi => by have := h (i + 1) (by omega); rwa [show a + (i + 1) = a + 1 + i by omega] at this]
    have := h 0 (by omega)
    rw [Nat.add_zero] at this
    rw [this]

end Sys2Proof.Machine
end

