-- ==== Sys2Proof/Laws/State.lean ====
section
/-! SUPPORT. What each field of the state is after each update of the state, one lemma per field and update. -/

namespace Sys2Proof.Machine

open Sys2Proof

@[simp] theorem State.setCtx_agenda (s : State) (c : Nat) (x : Ctx) : (s.setCtx c x).agenda = s.agenda := rfl
@[simp] theorem State.setCtx_cur (s : State) (c : Nat) (x : Ctx) : (s.setCtx c x).cur = s.cur := rfl
@[simp] theorem State.setCtx_free (s : State) (c : Nat) (x : Ctx) : (s.setCtx c x).free = s.free := rfl
@[simp] theorem State.setCtx_off (s : State) (c : Nat) (x : Ctx) : (s.setCtx c x).off = s.off := rfl
@[simp] theorem State.setCtx_down (s : State) (c : Nat) (x : Ctx) : (s.setCtx c x).down = s.down := rfl
@[simp] theorem State.setCtx_recovery (s : State) (c : Nat) (x : Ctx) : (s.setCtx c x).recovery = s.recovery := rfl
@[simp] theorem State.setCtx_boot (s : State) (c : Nat) (x : Ctx) : (s.setCtx c x).boot = s.boot := rfl
@[simp] theorem State.setCtx_brFail (s : State) (c : Nat) (x : Ctx) : (s.setCtx c x).brFail = s.brFail := rfl
@[simp] theorem State.setCtx_brLast (s : State) (c : Nat) (x : Ctx) : (s.setCtx c x).brLast = s.brLast := rfl
@[simp] theorem State.setCtx_brBoots (s : State) (c : Nat) (x : Ctx) : (s.setCtx c x).brBoots = s.brBoots := rfl
@[simp] theorem State.setCtx_image (s : State) (c : Nat) (x : Ctx) : (s.setCtx c x).image = s.image := rfl
@[simp] theorem State.setCtx_nextImage (s : State) (c : Nat) (x : Ctx) : (s.setCtx c x).nextImage = s.nextImage := rfl
@[simp] theorem State.setCtx_refCycle (s : State) (c : Nat) (x : Ctx) : (s.setCtx c x).refCycle = s.refCycle := rfl
@[simp] theorem State.setCtx_cxstsCtx (s : State) (c : Nat) (x : Ctx) : (s.setCtx c x).cxstsCtx = s.cxstsCtx := rfl
@[simp] theorem State.setCtx_cxstsRes (s : State) (c : Nat) (x : Ctx) : (s.setCtx c x).cxstsRes = s.cxstsRes := rfl
@[simp] theorem State.setCtx_cmds (s : State) (c : Nat) (x : Ctx) : (s.setCtx c x).cmds = s.cmds := rfl
@[simp] theorem State.setCtx_qctlRes (s : State) (c : Nat) (x : Ctx) : (s.setCtx c x).qctlRes = s.qctlRes := rfl
@[simp] theorem State.setCtx_drstRes (s : State) (c : Nat) (x : Ctx) : (s.setCtx c x).drstRes = s.drstRes := rfl
@[simp] theorem State.setCtx_dbgsel (s : State) (c : Nat) (x : Ctx) : (s.setCtx c x).dbgsel = s.dbgsel := rfl
@[simp] theorem State.setCtx_dbgdat (s : State) (c : Nat) (x : Ctx) : (s.setCtx c x).dbgdat = s.dbgdat := rfl
@[simp] theorem State.setCtx_lmbase (s : State) (c : Nat) (x : Ctx) : (s.setCtx c x).lmbase = s.lmbase := rfl
@[simp] theorem State.setCtx_badacc (s : State) (c : Nat) (x : Ctx) : (s.setCtx c x).badacc = s.badacc := rfl
@[simp] theorem State.setCtx_devnum (s : State) (c : Nat) (x : Ctx) : (s.setCtx c x).devnum = s.devnum := rfl
@[simp] theorem State.setCtx_bridge (s : State) (c : Nat) (x : Ctx) : (s.setCtx c x).bridge = s.bridge := rfl
@[simp] theorem State.setCtx_hostfn (s : State) (c : Nat) (x : Ctx) : (s.setCtx c x).hostfn = s.hostfn := rfl
@[simp] theorem State.setCtx_pcieOff (s : State) (c : Nat) (x : Ctx) : (s.setCtx c x).pcieOff = s.pcieOff := rfl
@[simp] theorem State.setCtx_hostAtomics (s : State) (c : Nat) (x : Ctx) : (s.setCtx c x).hostAtomics = s.hostAtomics := rfl
@[simp] theorem State.setCtx_ctxBase (s : State) (c : Nat) (x : Ctx) : (s.setCtx c x).ctxBase = s.ctxBase := rfl
@[simp] theorem State.setCtx_qBase (s : State) (c : Nat) (x : Ctx) : (s.setCtx c x).qBase = s.qBase := rfl
@[simp] theorem State.setCtx_dbBase (s : State) (c : Nat) (x : Ctx) : (s.setCtx c x).dbBase = s.dbBase := rfl
@[simp] theorem State.setCtx_hbm (s : State) (c : Nat) (x : Ctx) : (s.setCtx c x).hbm = s.hbm := rfl
@[simp] theorem State.setCtx_opReq (s : State) (c : Nat) (x : Ctx) : (s.setCtx c x).opReq = s.opReq := rfl
@[simp] theorem State.setCtx_opPower (s : State) (c : Nat) (x : Ctx) : (s.setCtx c x).opPower = s.opPower := rfl
@[simp] theorem State.setCtx_opUse (s : State) (c : Nat) (x : Ctx) : (s.setCtx c x).opUse = s.opUse := rfl
@[simp] theorem State.setCtx_opNext (s : State) (c : Nat) (x : Ctx) : (s.setCtx c x).opNext = s.opNext := rfl
@[simp] theorem State.setCtx_hist (s : State) (c : Nat) (x : Ctx) : (s.setCtx c x).hist = s.hist := rfl
@[simp] theorem State.setCtx_lastPow (s : State) (c : Nat) (x : Ctx) : (s.setCtx c x).lastPow = s.lastPow := rfl
@[simp] theorem State.setCtx_epoch (s : State) (c : Nat) (x : Ctx) : (s.setCtx c x).epoch = s.epoch := rfl
@[simp] theorem State.setCtx_mem (s : State) (c : Nat) (x : Ctx) : (s.setCtx c x).mem = s.mem := rfl
@[simp] theorem State.setCtx_tagBits (s : State) (c : Nat) (x : Ctx) : (s.setCtx c x).tagBits = s.tagBits := rfl
@[simp] theorem State.setCtx_gran (s : State) (c : Nat) (x : Ctx) : (s.setCtx c x).gran = s.gran := rfl
@[simp] theorem State.setCtx_lineOwner (s : State) (c : Nat) (x : Ctx) : (s.setCtx c x).lineOwner = s.lineOwner := rfl
@[simp] theorem State.setCtx_codeOld (s : State) (c : Nat) (x : Ctx) : (s.setCtx c x).codeOld = s.codeOld := rfl
@[simp] theorem State.setCtx_poison (s : State) (c : Nat) (x : Ctx) : (s.setCtx c x).poison = s.poison := rfl
@[simp] theorem State.setCtx_poisonL2 (s : State) (c : Nat) (x : Ctx) : (s.setCtx c x).poisonL2 = s.poisonL2 := rfl
@[simp] theorem State.setCtx_softErrs (s : State) (c : Nat) (x : Ctx) : (s.setCtx c x).softErrs = s.softErrs := rfl
@[simp] theorem State.setCtx_softL2 (s : State) (c : Nat) (x : Ctx) : (s.setCtx c x).softL2 = s.softL2 := rfl
@[simp] theorem State.setCtx_threads (s : State) (c : Nat) (x : Ctx) : (s.setCtx c x).threads = s.threads := rfl
@[simp] theorem State.setCtx_gangs (s : State) (c : Nat) (x : Ctx) : (s.setCtx c x).gangs = s.gangs := rfl
@[simp] theorem State.setCtx_insts (s : State) (c : Nat) (x : Ctx) : (s.setCtx c x).insts = s.insts := rfl
@[simp] theorem State.setCtx_instNext (s : State) (c : Nat) (x : Ctx) : (s.setCtx c x).instNext = s.instNext := rfl
@[simp] theorem State.setCtx_cores (s : State) (c : Nat) (x : Ctx) : (s.setCtx c x).cores = s.cores := rfl
@[simp] theorem State.setCtx_ctxs (s : State) (c : Nat) (x : Ctx) : (s.setCtx c x).ctxs = s.ctxs.put c x := rfl
@[simp] theorem State.setCtx_queues (s : State) (c : Nat) (x : Ctx) : (s.setCtx c x).queues = s.queues := rfl
@[simp] theorem State.setCtx_kernels (s : State) (c : Nat) (x : Ctx) : (s.setCtx c x).kernels = s.kernels := rfl
@[simp] theorem State.setCtx_kernNext (s : State) (c : Nat) (x : Ctx) : (s.setCtx c x).kernNext = s.kernNext := rfl
@[simp] theorem State.setCtx_conduits (s : State) (c : Nat) (x : Ctx) : (s.setCtx c x).conduits = s.conduits := rfl
@[simp] theorem State.setCtx_cdNext (s : State) (c : Nat) (x : Ctx) : (s.setCtx c x).cdNext = s.cdNext := rfl
@[simp] theorem State.setCtx_walkNext (s : State) (c : Nat) (x : Ctx) : (s.setCtx c x).walkNext = s.walkNext := rfl
@[simp] theorem State.setCtx_issueNo (s : State) (c : Nat) (x : Ctx) : (s.setCtx c x).issueNo = s.issueNo := rfl
@[simp] theorem State.setCtx_dies (s : State) (c : Nat) (x : Ctx) : (s.setCtx c x).dies = s.dies := rfl
@[simp] theorem State.setCtx_bridges (s : State) (c : Nat) (x : Ctx) : (s.setCtx c x).bridges = s.bridges := rfl
@[simp] theorem State.setCtx_ports (s : State) (c : Nat) (x : Ctx) : (s.setCtx c x).ports = s.ports := rfl
@[simp] theorem State.setCtx_routes (s : State) (c : Nat) (x : Ctx) : (s.setCtx c x).routes = s.routes := rfl
@[simp] theorem State.setCtx_waitDev (s : State) (c : Nat) (x : Ctx) : (s.setCtx c x).waitDev = s.waitDev := rfl
@[simp] theorem State.setCtx_mcwins (s : State) (c : Nat) (x : Ctx) : (s.setCtx c x).mcwins = s.mcwins := rfl
@[simp] theorem State.setCtx_outq (s : State) (c : Nat) (x : Ctx) : (s.setCtx c x).outq = s.outq := rfl
@[simp] theorem State.setCtx_early (s : State) (c : Nat) (x : Ctx) : (s.setCtx c x).early = s.early := rfl
@[simp] theorem State.setCtx_esend (s : State) (c : Nat) (x : Ctx) : (s.setCtx c x).esend = s.esend := rfl
@[simp] theorem State.setCtx_erecv (s : State) (c : Nat) (x : Ctx) : (s.setCtx c x).erecv = s.erecv := rfl
@[simp] theorem State.setCtx_eresp (s : State) (c : Nat) (x : Ctx) : (s.setCtx c x).eresp = s.eresp := rfl
@[simp] theorem State.setCtx_remops (s : State) (c : Nat) (x : Ctx) : (s.setCtx c x).remops = s.remops := rfl
@[simp] theorem State.setCtx_remNext (s : State) (c : Nat) (x : Ctx) : (s.setCtx c x).remNext = s.remNext := rfl
@[simp] theorem State.setCtx_ppGot (s : State) (c : Nat) (x : Ctx) : (s.setCtx c x).ppGot = s.ppGot := rfl
@[simp] theorem State.setCtx_invals (s : State) (c : Nat) (x : Ctx) : (s.setCtx c x).invals = s.invals := rfl
@[simp] theorem State.setCtx_invNext (s : State) (c : Nat) (x : Ctx) : (s.setCtx c x).invNext = s.invNext := rfl
@[simp] theorem State.setCtx_spdm (s : State) (c : Nat) (x : Ctx) : (s.setCtx c x).spdm = s.spdm := rfl
@[simp] theorem State.setCtx_hostOut (s : State) (c : Nat) (x : Ctx) : (s.setCtx c x).hostOut = s.hostOut := rfl
@[simp] theorem State.setCtx_opLow (s : State) (c : Nat) (x : Ctx) : (s.setCtx c x).opLow = s.opLow := rfl
@[simp] theorem State.setCtx_hbmFail (s : State) (c : Nat) (x : Ctx) : (s.setCtx c x).hbmFail = s.hbmFail := rfl
@[simp] theorem State.setCtx_funcs (s : State) (c : Nat) (x : Ctx) : (s.setCtx c x).funcs = s.funcs := rfl
@[simp] theorem State.setCtx_hostPend (s : State) (c : Nat) (x : Ctx) : (s.setCtx c x).hostPend = s.hostPend := rfl
@[simp] theorem State.setCtx_parked (s : State) (c : Nat) (x : Ctx) : (s.setCtx c x).parked = s.parked := rfl

@[simp] theorem State.setCore_agenda (s : State) (c : Nat) (x : Core) : (s.setCore c x).agenda = s.agenda := rfl
@[simp] theorem State.setCore_cur (s : State) (c : Nat) (x : Core) : (s.setCore c x).cur = s.cur := rfl
@[simp] theorem State.setCore_free (s : State) (c : Nat) (x : Core) : (s.setCore c x).free = s.free := rfl
@[simp] theorem State.setCore_off (s : State) (c : Nat) (x : Core) : (s.setCore c x).off = s.off := rfl
@[simp] theorem State.setCore_down (s : State) (c : Nat) (x : Core) : (s.setCore c x).down = s.down := rfl
@[simp] theorem State.setCore_recovery (s : State) (c : Nat) (x : Core) : (s.setCore c x).recovery = s.recovery := rfl
@[simp] theorem State.setCore_boot (s : State) (c : Nat) (x : Core) : (s.setCore c x).boot = s.boot := rfl
@[simp] theorem State.setCore_brFail (s : State) (c : Nat) (x : Core) : (s.setCore c x).brFail = s.brFail := rfl
@[simp] theorem State.setCore_brLast (s : State) (c : Nat) (x : Core) : (s.setCore c x).brLast = s.brLast := rfl
@[simp] theorem State.setCore_brBoots (s : State) (c : Nat) (x : Core) : (s.setCore c x).brBoots = s.brBoots := rfl
@[simp] theorem State.setCore_image (s : State) (c : Nat) (x : Core) : (s.setCore c x).image = s.image := rfl
@[simp] theorem State.setCore_nextImage (s : State) (c : Nat) (x : Core) : (s.setCore c x).nextImage = s.nextImage := rfl
@[simp] theorem State.setCore_refCycle (s : State) (c : Nat) (x : Core) : (s.setCore c x).refCycle = s.refCycle := rfl
@[simp] theorem State.setCore_cxstsCtx (s : State) (c : Nat) (x : Core) : (s.setCore c x).cxstsCtx = s.cxstsCtx := rfl
@[simp] theorem State.setCore_cxstsRes (s : State) (c : Nat) (x : Core) : (s.setCore c x).cxstsRes = s.cxstsRes := rfl
@[simp] theorem State.setCore_cmds (s : State) (c : Nat) (x : Core) : (s.setCore c x).cmds = s.cmds := rfl
@[simp] theorem State.setCore_qctlRes (s : State) (c : Nat) (x : Core) : (s.setCore c x).qctlRes = s.qctlRes := rfl
@[simp] theorem State.setCore_drstRes (s : State) (c : Nat) (x : Core) : (s.setCore c x).drstRes = s.drstRes := rfl
@[simp] theorem State.setCore_dbgsel (s : State) (c : Nat) (x : Core) : (s.setCore c x).dbgsel = s.dbgsel := rfl
@[simp] theorem State.setCore_dbgdat (s : State) (c : Nat) (x : Core) : (s.setCore c x).dbgdat = s.dbgdat := rfl
@[simp] theorem State.setCore_lmbase (s : State) (c : Nat) (x : Core) : (s.setCore c x).lmbase = s.lmbase := rfl
@[simp] theorem State.setCore_badacc (s : State) (c : Nat) (x : Core) : (s.setCore c x).badacc = s.badacc := rfl
@[simp] theorem State.setCore_devnum (s : State) (c : Nat) (x : Core) : (s.setCore c x).devnum = s.devnum := rfl
@[simp] theorem State.setCore_bridge (s : State) (c : Nat) (x : Core) : (s.setCore c x).bridge = s.bridge := rfl
@[simp] theorem State.setCore_hostfn (s : State) (c : Nat) (x : Core) : (s.setCore c x).hostfn = s.hostfn := rfl
@[simp] theorem State.setCore_pcieOff (s : State) (c : Nat) (x : Core) : (s.setCore c x).pcieOff = s.pcieOff := rfl
@[simp] theorem State.setCore_hostAtomics (s : State) (c : Nat) (x : Core) : (s.setCore c x).hostAtomics = s.hostAtomics := rfl
@[simp] theorem State.setCore_ctxBase (s : State) (c : Nat) (x : Core) : (s.setCore c x).ctxBase = s.ctxBase := rfl
@[simp] theorem State.setCore_qBase (s : State) (c : Nat) (x : Core) : (s.setCore c x).qBase = s.qBase := rfl
@[simp] theorem State.setCore_dbBase (s : State) (c : Nat) (x : Core) : (s.setCore c x).dbBase = s.dbBase := rfl
@[simp] theorem State.setCore_hbm (s : State) (c : Nat) (x : Core) : (s.setCore c x).hbm = s.hbm := rfl
@[simp] theorem State.setCore_opReq (s : State) (c : Nat) (x : Core) : (s.setCore c x).opReq = s.opReq := rfl
@[simp] theorem State.setCore_opPower (s : State) (c : Nat) (x : Core) : (s.setCore c x).opPower = s.opPower := rfl
@[simp] theorem State.setCore_opUse (s : State) (c : Nat) (x : Core) : (s.setCore c x).opUse = s.opUse := rfl
@[simp] theorem State.setCore_opNext (s : State) (c : Nat) (x : Core) : (s.setCore c x).opNext = s.opNext := rfl
@[simp] theorem State.setCore_hist (s : State) (c : Nat) (x : Core) : (s.setCore c x).hist = s.hist := rfl
@[simp] theorem State.setCore_lastPow (s : State) (c : Nat) (x : Core) : (s.setCore c x).lastPow = s.lastPow := rfl
@[simp] theorem State.setCore_epoch (s : State) (c : Nat) (x : Core) : (s.setCore c x).epoch = s.epoch := rfl
@[simp] theorem State.setCore_mem (s : State) (c : Nat) (x : Core) : (s.setCore c x).mem = s.mem := rfl
@[simp] theorem State.setCore_tagBits (s : State) (c : Nat) (x : Core) : (s.setCore c x).tagBits = s.tagBits := rfl
@[simp] theorem State.setCore_gran (s : State) (c : Nat) (x : Core) : (s.setCore c x).gran = s.gran := rfl
@[simp] theorem State.setCore_lineOwner (s : State) (c : Nat) (x : Core) : (s.setCore c x).lineOwner = s.lineOwner := rfl
@[simp] theorem State.setCore_codeOld (s : State) (c : Nat) (x : Core) : (s.setCore c x).codeOld = s.codeOld := rfl
@[simp] theorem State.setCore_poison (s : State) (c : Nat) (x : Core) : (s.setCore c x).poison = s.poison := rfl
@[simp] theorem State.setCore_poisonL2 (s : State) (c : Nat) (x : Core) : (s.setCore c x).poisonL2 = s.poisonL2 := rfl
@[simp] theorem State.setCore_softErrs (s : State) (c : Nat) (x : Core) : (s.setCore c x).softErrs = s.softErrs := rfl
@[simp] theorem State.setCore_softL2 (s : State) (c : Nat) (x : Core) : (s.setCore c x).softL2 = s.softL2 := rfl
@[simp] theorem State.setCore_threads (s : State) (c : Nat) (x : Core) : (s.setCore c x).threads = s.threads := rfl
@[simp] theorem State.setCore_gangs (s : State) (c : Nat) (x : Core) : (s.setCore c x).gangs = s.gangs := rfl
@[simp] theorem State.setCore_insts (s : State) (c : Nat) (x : Core) : (s.setCore c x).insts = s.insts := rfl
@[simp] theorem State.setCore_instNext (s : State) (c : Nat) (x : Core) : (s.setCore c x).instNext = s.instNext := rfl
@[simp] theorem State.setCore_cores (s : State) (c : Nat) (x : Core) : (s.setCore c x).cores = s.cores.put c x := rfl
@[simp] theorem State.setCore_ctxs (s : State) (c : Nat) (x : Core) : (s.setCore c x).ctxs = s.ctxs := rfl
@[simp] theorem State.setCore_queues (s : State) (c : Nat) (x : Core) : (s.setCore c x).queues = s.queues := rfl
@[simp] theorem State.setCore_kernels (s : State) (c : Nat) (x : Core) : (s.setCore c x).kernels = s.kernels := rfl
@[simp] theorem State.setCore_kernNext (s : State) (c : Nat) (x : Core) : (s.setCore c x).kernNext = s.kernNext := rfl
@[simp] theorem State.setCore_conduits (s : State) (c : Nat) (x : Core) : (s.setCore c x).conduits = s.conduits := rfl
@[simp] theorem State.setCore_cdNext (s : State) (c : Nat) (x : Core) : (s.setCore c x).cdNext = s.cdNext := rfl
@[simp] theorem State.setCore_walkNext (s : State) (c : Nat) (x : Core) : (s.setCore c x).walkNext = s.walkNext := rfl
@[simp] theorem State.setCore_issueNo (s : State) (c : Nat) (x : Core) : (s.setCore c x).issueNo = s.issueNo := rfl
@[simp] theorem State.setCore_dies (s : State) (c : Nat) (x : Core) : (s.setCore c x).dies = s.dies := rfl
@[simp] theorem State.setCore_bridges (s : State) (c : Nat) (x : Core) : (s.setCore c x).bridges = s.bridges := rfl
@[simp] theorem State.setCore_ports (s : State) (c : Nat) (x : Core) : (s.setCore c x).ports = s.ports := rfl
@[simp] theorem State.setCore_routes (s : State) (c : Nat) (x : Core) : (s.setCore c x).routes = s.routes := rfl
@[simp] theorem State.setCore_waitDev (s : State) (c : Nat) (x : Core) : (s.setCore c x).waitDev = s.waitDev := rfl
@[simp] theorem State.setCore_mcwins (s : State) (c : Nat) (x : Core) : (s.setCore c x).mcwins = s.mcwins := rfl
@[simp] theorem State.setCore_outq (s : State) (c : Nat) (x : Core) : (s.setCore c x).outq = s.outq := rfl
@[simp] theorem State.setCore_early (s : State) (c : Nat) (x : Core) : (s.setCore c x).early = s.early := rfl
@[simp] theorem State.setCore_esend (s : State) (c : Nat) (x : Core) : (s.setCore c x).esend = s.esend := rfl
@[simp] theorem State.setCore_erecv (s : State) (c : Nat) (x : Core) : (s.setCore c x).erecv = s.erecv := rfl
@[simp] theorem State.setCore_eresp (s : State) (c : Nat) (x : Core) : (s.setCore c x).eresp = s.eresp := rfl
@[simp] theorem State.setCore_remops (s : State) (c : Nat) (x : Core) : (s.setCore c x).remops = s.remops := rfl
@[simp] theorem State.setCore_remNext (s : State) (c : Nat) (x : Core) : (s.setCore c x).remNext = s.remNext := rfl
@[simp] theorem State.setCore_ppGot (s : State) (c : Nat) (x : Core) : (s.setCore c x).ppGot = s.ppGot := rfl
@[simp] theorem State.setCore_invals (s : State) (c : Nat) (x : Core) : (s.setCore c x).invals = s.invals := rfl
@[simp] theorem State.setCore_invNext (s : State) (c : Nat) (x : Core) : (s.setCore c x).invNext = s.invNext := rfl
@[simp] theorem State.setCore_spdm (s : State) (c : Nat) (x : Core) : (s.setCore c x).spdm = s.spdm := rfl
@[simp] theorem State.setCore_hostOut (s : State) (c : Nat) (x : Core) : (s.setCore c x).hostOut = s.hostOut := rfl
@[simp] theorem State.setCore_opLow (s : State) (c : Nat) (x : Core) : (s.setCore c x).opLow = s.opLow := rfl
@[simp] theorem State.setCore_hbmFail (s : State) (c : Nat) (x : Core) : (s.setCore c x).hbmFail = s.hbmFail := rfl
@[simp] theorem State.setCore_funcs (s : State) (c : Nat) (x : Core) : (s.setCore c x).funcs = s.funcs := rfl
@[simp] theorem State.setCore_hostPend (s : State) (c : Nat) (x : Core) : (s.setCore c x).hostPend = s.hostPend := rfl
@[simp] theorem State.setCore_parked (s : State) (c : Nat) (x : Core) : (s.setCore c x).parked = s.parked := rfl

@[simp] theorem State.setQueue_agenda (s : State) (q : Nat) (x : Queue) : (s.setQueue q x).agenda = s.agenda := rfl
@[simp] theorem State.setQueue_cur (s : State) (q : Nat) (x : Queue) : (s.setQueue q x).cur = s.cur := rfl
@[simp] theorem State.setQueue_free (s : State) (q : Nat) (x : Queue) : (s.setQueue q x).free = s.free := rfl
@[simp] theorem State.setQueue_off (s : State) (q : Nat) (x : Queue) : (s.setQueue q x).off = s.off := rfl
@[simp] theorem State.setQueue_down (s : State) (q : Nat) (x : Queue) : (s.setQueue q x).down = s.down := rfl
@[simp] theorem State.setQueue_recovery (s : State) (q : Nat) (x : Queue) : (s.setQueue q x).recovery = s.recovery := rfl
@[simp] theorem State.setQueue_boot (s : State) (q : Nat) (x : Queue) : (s.setQueue q x).boot = s.boot := rfl
@[simp] theorem State.setQueue_brFail (s : State) (q : Nat) (x : Queue) : (s.setQueue q x).brFail = s.brFail := rfl
@[simp] theorem State.setQueue_brLast (s : State) (q : Nat) (x : Queue) : (s.setQueue q x).brLast = s.brLast := rfl
@[simp] theorem State.setQueue_brBoots (s : State) (q : Nat) (x : Queue) : (s.setQueue q x).brBoots = s.brBoots := rfl
@[simp] theorem State.setQueue_image (s : State) (q : Nat) (x : Queue) : (s.setQueue q x).image = s.image := rfl
@[simp] theorem State.setQueue_nextImage (s : State) (q : Nat) (x : Queue) : (s.setQueue q x).nextImage = s.nextImage := rfl
@[simp] theorem State.setQueue_refCycle (s : State) (q : Nat) (x : Queue) : (s.setQueue q x).refCycle = s.refCycle := rfl
@[simp] theorem State.setQueue_cxstsCtx (s : State) (q : Nat) (x : Queue) : (s.setQueue q x).cxstsCtx = s.cxstsCtx := rfl
@[simp] theorem State.setQueue_cxstsRes (s : State) (q : Nat) (x : Queue) : (s.setQueue q x).cxstsRes = s.cxstsRes := rfl
@[simp] theorem State.setQueue_cmds (s : State) (q : Nat) (x : Queue) : (s.setQueue q x).cmds = s.cmds := rfl
@[simp] theorem State.setQueue_qctlRes (s : State) (q : Nat) (x : Queue) : (s.setQueue q x).qctlRes = s.qctlRes := rfl
@[simp] theorem State.setQueue_drstRes (s : State) (q : Nat) (x : Queue) : (s.setQueue q x).drstRes = s.drstRes := rfl
@[simp] theorem State.setQueue_dbgsel (s : State) (q : Nat) (x : Queue) : (s.setQueue q x).dbgsel = s.dbgsel := rfl
@[simp] theorem State.setQueue_dbgdat (s : State) (q : Nat) (x : Queue) : (s.setQueue q x).dbgdat = s.dbgdat := rfl
@[simp] theorem State.setQueue_lmbase (s : State) (q : Nat) (x : Queue) : (s.setQueue q x).lmbase = s.lmbase := rfl
@[simp] theorem State.setQueue_badacc (s : State) (q : Nat) (x : Queue) : (s.setQueue q x).badacc = s.badacc := rfl
@[simp] theorem State.setQueue_devnum (s : State) (q : Nat) (x : Queue) : (s.setQueue q x).devnum = s.devnum := rfl
@[simp] theorem State.setQueue_bridge (s : State) (q : Nat) (x : Queue) : (s.setQueue q x).bridge = s.bridge := rfl
@[simp] theorem State.setQueue_hostfn (s : State) (q : Nat) (x : Queue) : (s.setQueue q x).hostfn = s.hostfn := rfl
@[simp] theorem State.setQueue_pcieOff (s : State) (q : Nat) (x : Queue) : (s.setQueue q x).pcieOff = s.pcieOff := rfl
@[simp] theorem State.setQueue_hostAtomics (s : State) (q : Nat) (x : Queue) : (s.setQueue q x).hostAtomics = s.hostAtomics := rfl
@[simp] theorem State.setQueue_ctxBase (s : State) (q : Nat) (x : Queue) : (s.setQueue q x).ctxBase = s.ctxBase := rfl
@[simp] theorem State.setQueue_qBase (s : State) (q : Nat) (x : Queue) : (s.setQueue q x).qBase = s.qBase := rfl
@[simp] theorem State.setQueue_dbBase (s : State) (q : Nat) (x : Queue) : (s.setQueue q x).dbBase = s.dbBase := rfl
@[simp] theorem State.setQueue_hbm (s : State) (q : Nat) (x : Queue) : (s.setQueue q x).hbm = s.hbm := rfl
@[simp] theorem State.setQueue_opReq (s : State) (q : Nat) (x : Queue) : (s.setQueue q x).opReq = s.opReq := rfl
@[simp] theorem State.setQueue_opPower (s : State) (q : Nat) (x : Queue) : (s.setQueue q x).opPower = s.opPower := rfl
@[simp] theorem State.setQueue_opUse (s : State) (q : Nat) (x : Queue) : (s.setQueue q x).opUse = s.opUse := rfl
@[simp] theorem State.setQueue_opNext (s : State) (q : Nat) (x : Queue) : (s.setQueue q x).opNext = s.opNext := rfl
@[simp] theorem State.setQueue_hist (s : State) (q : Nat) (x : Queue) : (s.setQueue q x).hist = s.hist := rfl
@[simp] theorem State.setQueue_lastPow (s : State) (q : Nat) (x : Queue) : (s.setQueue q x).lastPow = s.lastPow := rfl
@[simp] theorem State.setQueue_epoch (s : State) (q : Nat) (x : Queue) : (s.setQueue q x).epoch = s.epoch := rfl
@[simp] theorem State.setQueue_mem (s : State) (q : Nat) (x : Queue) : (s.setQueue q x).mem = s.mem := rfl
@[simp] theorem State.setQueue_tagBits (s : State) (q : Nat) (x : Queue) : (s.setQueue q x).tagBits = s.tagBits := rfl
@[simp] theorem State.setQueue_gran (s : State) (q : Nat) (x : Queue) : (s.setQueue q x).gran = s.gran := rfl
@[simp] theorem State.setQueue_lineOwner (s : State) (q : Nat) (x : Queue) : (s.setQueue q x).lineOwner = s.lineOwner := rfl
@[simp] theorem State.setQueue_codeOld (s : State) (q : Nat) (x : Queue) : (s.setQueue q x).codeOld = s.codeOld := rfl
@[simp] theorem State.setQueue_poison (s : State) (q : Nat) (x : Queue) : (s.setQueue q x).poison = s.poison := rfl
@[simp] theorem State.setQueue_poisonL2 (s : State) (q : Nat) (x : Queue) : (s.setQueue q x).poisonL2 = s.poisonL2 := rfl
@[simp] theorem State.setQueue_softErrs (s : State) (q : Nat) (x : Queue) : (s.setQueue q x).softErrs = s.softErrs := rfl
@[simp] theorem State.setQueue_softL2 (s : State) (q : Nat) (x : Queue) : (s.setQueue q x).softL2 = s.softL2 := rfl
@[simp] theorem State.setQueue_threads (s : State) (q : Nat) (x : Queue) : (s.setQueue q x).threads = s.threads := rfl
@[simp] theorem State.setQueue_gangs (s : State) (q : Nat) (x : Queue) : (s.setQueue q x).gangs = s.gangs := rfl
@[simp] theorem State.setQueue_insts (s : State) (q : Nat) (x : Queue) : (s.setQueue q x).insts = s.insts := rfl
@[simp] theorem State.setQueue_instNext (s : State) (q : Nat) (x : Queue) : (s.setQueue q x).instNext = s.instNext := rfl
@[simp] theorem State.setQueue_cores (s : State) (q : Nat) (x : Queue) : (s.setQueue q x).cores = s.cores := rfl
@[simp] theorem State.setQueue_ctxs (s : State) (q : Nat) (x : Queue) : (s.setQueue q x).ctxs = s.ctxs := rfl
@[simp] theorem State.setQueue_queues (s : State) (q : Nat) (x : Queue) : (s.setQueue q x).queues = s.queues.put q x := rfl
@[simp] theorem State.setQueue_kernels (s : State) (q : Nat) (x : Queue) : (s.setQueue q x).kernels = s.kernels := rfl
@[simp] theorem State.setQueue_kernNext (s : State) (q : Nat) (x : Queue) : (s.setQueue q x).kernNext = s.kernNext := rfl
@[simp] theorem State.setQueue_conduits (s : State) (q : Nat) (x : Queue) : (s.setQueue q x).conduits = s.conduits := rfl
@[simp] theorem State.setQueue_cdNext (s : State) (q : Nat) (x : Queue) : (s.setQueue q x).cdNext = s.cdNext := rfl
@[simp] theorem State.setQueue_walkNext (s : State) (q : Nat) (x : Queue) : (s.setQueue q x).walkNext = s.walkNext := rfl
@[simp] theorem State.setQueue_issueNo (s : State) (q : Nat) (x : Queue) : (s.setQueue q x).issueNo = s.issueNo := rfl
@[simp] theorem State.setQueue_dies (s : State) (q : Nat) (x : Queue) : (s.setQueue q x).dies = s.dies := rfl
@[simp] theorem State.setQueue_bridges (s : State) (q : Nat) (x : Queue) : (s.setQueue q x).bridges = s.bridges := rfl
@[simp] theorem State.setQueue_ports (s : State) (q : Nat) (x : Queue) : (s.setQueue q x).ports = s.ports := rfl
@[simp] theorem State.setQueue_routes (s : State) (q : Nat) (x : Queue) : (s.setQueue q x).routes = s.routes := rfl
@[simp] theorem State.setQueue_waitDev (s : State) (q : Nat) (x : Queue) : (s.setQueue q x).waitDev = s.waitDev := rfl
@[simp] theorem State.setQueue_mcwins (s : State) (q : Nat) (x : Queue) : (s.setQueue q x).mcwins = s.mcwins := rfl
@[simp] theorem State.setQueue_outq (s : State) (q : Nat) (x : Queue) : (s.setQueue q x).outq = s.outq := rfl
@[simp] theorem State.setQueue_early (s : State) (q : Nat) (x : Queue) : (s.setQueue q x).early = s.early := rfl
@[simp] theorem State.setQueue_esend (s : State) (q : Nat) (x : Queue) : (s.setQueue q x).esend = s.esend := rfl
@[simp] theorem State.setQueue_erecv (s : State) (q : Nat) (x : Queue) : (s.setQueue q x).erecv = s.erecv := rfl
@[simp] theorem State.setQueue_eresp (s : State) (q : Nat) (x : Queue) : (s.setQueue q x).eresp = s.eresp := rfl
@[simp] theorem State.setQueue_remops (s : State) (q : Nat) (x : Queue) : (s.setQueue q x).remops = s.remops := rfl
@[simp] theorem State.setQueue_remNext (s : State) (q : Nat) (x : Queue) : (s.setQueue q x).remNext = s.remNext := rfl
@[simp] theorem State.setQueue_ppGot (s : State) (q : Nat) (x : Queue) : (s.setQueue q x).ppGot = s.ppGot := rfl
@[simp] theorem State.setQueue_invals (s : State) (q : Nat) (x : Queue) : (s.setQueue q x).invals = s.invals := rfl
@[simp] theorem State.setQueue_invNext (s : State) (q : Nat) (x : Queue) : (s.setQueue q x).invNext = s.invNext := rfl
@[simp] theorem State.setQueue_spdm (s : State) (q : Nat) (x : Queue) : (s.setQueue q x).spdm = s.spdm := rfl
@[simp] theorem State.setQueue_hostOut (s : State) (q : Nat) (x : Queue) : (s.setQueue q x).hostOut = s.hostOut := rfl
@[simp] theorem State.setQueue_opLow (s : State) (q : Nat) (x : Queue) : (s.setQueue q x).opLow = s.opLow := rfl
@[simp] theorem State.setQueue_hbmFail (s : State) (q : Nat) (x : Queue) : (s.setQueue q x).hbmFail = s.hbmFail := rfl
@[simp] theorem State.setQueue_funcs (s : State) (q : Nat) (x : Queue) : (s.setQueue q x).funcs = s.funcs := rfl
@[simp] theorem State.setQueue_hostPend (s : State) (q : Nat) (x : Queue) : (s.setQueue q x).hostPend = s.hostPend := rfl
@[simp] theorem State.setQueue_parked (s : State) (q : Nat) (x : Queue) : (s.setQueue q x).parked = s.parked := rfl

@[simp] theorem State.setPort_agenda (s : State) (p : Nat) (x : Port) : (s.setPort p x).agenda = s.agenda := rfl
@[simp] theorem State.setPort_cur (s : State) (p : Nat) (x : Port) : (s.setPort p x).cur = s.cur := rfl
@[simp] theorem State.setPort_free (s : State) (p : Nat) (x : Port) : (s.setPort p x).free = s.free := rfl
@[simp] theorem State.setPort_off (s : State) (p : Nat) (x : Port) : (s.setPort p x).off = s.off := rfl
@[simp] theorem State.setPort_down (s : State) (p : Nat) (x : Port) : (s.setPort p x).down = s.down := rfl
@[simp] theorem State.setPort_recovery (s : State) (p : Nat) (x : Port) : (s.setPort p x).recovery = s.recovery := rfl
@[simp] theorem State.setPort_boot (s : State) (p : Nat) (x : Port) : (s.setPort p x).boot = s.boot := rfl
@[simp] theorem State.setPort_brFail (s : State) (p : Nat) (x : Port) : (s.setPort p x).brFail = s.brFail := rfl
@[simp] theorem State.setPort_brLast (s : State) (p : Nat) (x : Port) : (s.setPort p x).brLast = s.brLast := rfl
@[simp] theorem State.setPort_brBoots (s : State) (p : Nat) (x : Port) : (s.setPort p x).brBoots = s.brBoots := rfl
@[simp] theorem State.setPort_image (s : State) (p : Nat) (x : Port) : (s.setPort p x).image = s.image := rfl
@[simp] theorem State.setPort_nextImage (s : State) (p : Nat) (x : Port) : (s.setPort p x).nextImage = s.nextImage := rfl
@[simp] theorem State.setPort_refCycle (s : State) (p : Nat) (x : Port) : (s.setPort p x).refCycle = s.refCycle := rfl
@[simp] theorem State.setPort_cxstsCtx (s : State) (p : Nat) (x : Port) : (s.setPort p x).cxstsCtx = s.cxstsCtx := rfl
@[simp] theorem State.setPort_cxstsRes (s : State) (p : Nat) (x : Port) : (s.setPort p x).cxstsRes = s.cxstsRes := rfl
@[simp] theorem State.setPort_cmds (s : State) (p : Nat) (x : Port) : (s.setPort p x).cmds = s.cmds := rfl
@[simp] theorem State.setPort_qctlRes (s : State) (p : Nat) (x : Port) : (s.setPort p x).qctlRes = s.qctlRes := rfl
@[simp] theorem State.setPort_drstRes (s : State) (p : Nat) (x : Port) : (s.setPort p x).drstRes = s.drstRes := rfl
@[simp] theorem State.setPort_dbgsel (s : State) (p : Nat) (x : Port) : (s.setPort p x).dbgsel = s.dbgsel := rfl
@[simp] theorem State.setPort_dbgdat (s : State) (p : Nat) (x : Port) : (s.setPort p x).dbgdat = s.dbgdat := rfl
@[simp] theorem State.setPort_lmbase (s : State) (p : Nat) (x : Port) : (s.setPort p x).lmbase = s.lmbase := rfl
@[simp] theorem State.setPort_badacc (s : State) (p : Nat) (x : Port) : (s.setPort p x).badacc = s.badacc := rfl
@[simp] theorem State.setPort_devnum (s : State) (p : Nat) (x : Port) : (s.setPort p x).devnum = s.devnum := rfl
@[simp] theorem State.setPort_bridge (s : State) (p : Nat) (x : Port) : (s.setPort p x).bridge = s.bridge := rfl
@[simp] theorem State.setPort_hostfn (s : State) (p : Nat) (x : Port) : (s.setPort p x).hostfn = s.hostfn := rfl
@[simp] theorem State.setPort_pcieOff (s : State) (p : Nat) (x : Port) : (s.setPort p x).pcieOff = s.pcieOff := rfl
@[simp] theorem State.setPort_hostAtomics (s : State) (p : Nat) (x : Port) : (s.setPort p x).hostAtomics = s.hostAtomics := rfl
@[simp] theorem State.setPort_ctxBase (s : State) (p : Nat) (x : Port) : (s.setPort p x).ctxBase = s.ctxBase := rfl
@[simp] theorem State.setPort_qBase (s : State) (p : Nat) (x : Port) : (s.setPort p x).qBase = s.qBase := rfl
@[simp] theorem State.setPort_dbBase (s : State) (p : Nat) (x : Port) : (s.setPort p x).dbBase = s.dbBase := rfl
@[simp] theorem State.setPort_hbm (s : State) (p : Nat) (x : Port) : (s.setPort p x).hbm = s.hbm := rfl
@[simp] theorem State.setPort_opReq (s : State) (p : Nat) (x : Port) : (s.setPort p x).opReq = s.opReq := rfl
@[simp] theorem State.setPort_opPower (s : State) (p : Nat) (x : Port) : (s.setPort p x).opPower = s.opPower := rfl
@[simp] theorem State.setPort_opUse (s : State) (p : Nat) (x : Port) : (s.setPort p x).opUse = s.opUse := rfl
@[simp] theorem State.setPort_opNext (s : State) (p : Nat) (x : Port) : (s.setPort p x).opNext = s.opNext := rfl
@[simp] theorem State.setPort_hist (s : State) (p : Nat) (x : Port) : (s.setPort p x).hist = s.hist := rfl
@[simp] theorem State.setPort_lastPow (s : State) (p : Nat) (x : Port) : (s.setPort p x).lastPow = s.lastPow := rfl
@[simp] theorem State.setPort_epoch (s : State) (p : Nat) (x : Port) : (s.setPort p x).epoch = s.epoch := rfl
@[simp] theorem State.setPort_mem (s : State) (p : Nat) (x : Port) : (s.setPort p x).mem = s.mem := rfl
@[simp] theorem State.setPort_tagBits (s : State) (p : Nat) (x : Port) : (s.setPort p x).tagBits = s.tagBits := rfl
@[simp] theorem State.setPort_gran (s : State) (p : Nat) (x : Port) : (s.setPort p x).gran = s.gran := rfl
@[simp] theorem State.setPort_lineOwner (s : State) (p : Nat) (x : Port) : (s.setPort p x).lineOwner = s.lineOwner := rfl
@[simp] theorem State.setPort_codeOld (s : State) (p : Nat) (x : Port) : (s.setPort p x).codeOld = s.codeOld := rfl
@[simp] theorem State.setPort_poison (s : State) (p : Nat) (x : Port) : (s.setPort p x).poison = s.poison := rfl
@[simp] theorem State.setPort_poisonL2 (s : State) (p : Nat) (x : Port) : (s.setPort p x).poisonL2 = s.poisonL2 := rfl
@[simp] theorem State.setPort_softErrs (s : State) (p : Nat) (x : Port) : (s.setPort p x).softErrs = s.softErrs := rfl
@[simp] theorem State.setPort_softL2 (s : State) (p : Nat) (x : Port) : (s.setPort p x).softL2 = s.softL2 := rfl
@[simp] theorem State.setPort_threads (s : State) (p : Nat) (x : Port) : (s.setPort p x).threads = s.threads := rfl
@[simp] theorem State.setPort_gangs (s : State) (p : Nat) (x : Port) : (s.setPort p x).gangs = s.gangs := rfl
@[simp] theorem State.setPort_insts (s : State) (p : Nat) (x : Port) : (s.setPort p x).insts = s.insts := rfl
@[simp] theorem State.setPort_instNext (s : State) (p : Nat) (x : Port) : (s.setPort p x).instNext = s.instNext := rfl
@[simp] theorem State.setPort_cores (s : State) (p : Nat) (x : Port) : (s.setPort p x).cores = s.cores := rfl
@[simp] theorem State.setPort_ctxs (s : State) (p : Nat) (x : Port) : (s.setPort p x).ctxs = s.ctxs := rfl
@[simp] theorem State.setPort_queues (s : State) (p : Nat) (x : Port) : (s.setPort p x).queues = s.queues := rfl
@[simp] theorem State.setPort_kernels (s : State) (p : Nat) (x : Port) : (s.setPort p x).kernels = s.kernels := rfl
@[simp] theorem State.setPort_kernNext (s : State) (p : Nat) (x : Port) : (s.setPort p x).kernNext = s.kernNext := rfl
@[simp] theorem State.setPort_conduits (s : State) (p : Nat) (x : Port) : (s.setPort p x).conduits = s.conduits := rfl
@[simp] theorem State.setPort_cdNext (s : State) (p : Nat) (x : Port) : (s.setPort p x).cdNext = s.cdNext := rfl
@[simp] theorem State.setPort_walkNext (s : State) (p : Nat) (x : Port) : (s.setPort p x).walkNext = s.walkNext := rfl
@[simp] theorem State.setPort_issueNo (s : State) (p : Nat) (x : Port) : (s.setPort p x).issueNo = s.issueNo := rfl
@[simp] theorem State.setPort_dies (s : State) (p : Nat) (x : Port) : (s.setPort p x).dies = s.dies := rfl
@[simp] theorem State.setPort_bridges (s : State) (p : Nat) (x : Port) : (s.setPort p x).bridges = s.bridges := rfl
@[simp] theorem State.setPort_ports (s : State) (p : Nat) (x : Port) : (s.setPort p x).ports = s.ports.put p x := rfl
@[simp] theorem State.setPort_routes (s : State) (p : Nat) (x : Port) : (s.setPort p x).routes = s.routes := rfl
@[simp] theorem State.setPort_waitDev (s : State) (p : Nat) (x : Port) : (s.setPort p x).waitDev = s.waitDev := rfl
@[simp] theorem State.setPort_mcwins (s : State) (p : Nat) (x : Port) : (s.setPort p x).mcwins = s.mcwins := rfl
@[simp] theorem State.setPort_outq (s : State) (p : Nat) (x : Port) : (s.setPort p x).outq = s.outq := rfl
@[simp] theorem State.setPort_early (s : State) (p : Nat) (x : Port) : (s.setPort p x).early = s.early := rfl
@[simp] theorem State.setPort_esend (s : State) (p : Nat) (x : Port) : (s.setPort p x).esend = s.esend := rfl
@[simp] theorem State.setPort_erecv (s : State) (p : Nat) (x : Port) : (s.setPort p x).erecv = s.erecv := rfl
@[simp] theorem State.setPort_eresp (s : State) (p : Nat) (x : Port) : (s.setPort p x).eresp = s.eresp := rfl
@[simp] theorem State.setPort_remops (s : State) (p : Nat) (x : Port) : (s.setPort p x).remops = s.remops := rfl
@[simp] theorem State.setPort_remNext (s : State) (p : Nat) (x : Port) : (s.setPort p x).remNext = s.remNext := rfl
@[simp] theorem State.setPort_ppGot (s : State) (p : Nat) (x : Port) : (s.setPort p x).ppGot = s.ppGot := rfl
@[simp] theorem State.setPort_invals (s : State) (p : Nat) (x : Port) : (s.setPort p x).invals = s.invals := rfl
@[simp] theorem State.setPort_invNext (s : State) (p : Nat) (x : Port) : (s.setPort p x).invNext = s.invNext := rfl
@[simp] theorem State.setPort_spdm (s : State) (p : Nat) (x : Port) : (s.setPort p x).spdm = s.spdm := rfl
@[simp] theorem State.setPort_hostOut (s : State) (p : Nat) (x : Port) : (s.setPort p x).hostOut = s.hostOut := rfl
@[simp] theorem State.setPort_opLow (s : State) (p : Nat) (x : Port) : (s.setPort p x).opLow = s.opLow := rfl
@[simp] theorem State.setPort_hbmFail (s : State) (p : Nat) (x : Port) : (s.setPort p x).hbmFail = s.hbmFail := rfl
@[simp] theorem State.setPort_funcs (s : State) (p : Nat) (x : Port) : (s.setPort p x).funcs = s.funcs := rfl
@[simp] theorem State.setPort_hostPend (s : State) (p : Nat) (x : Port) : (s.setPort p x).hostPend = s.hostPend := rfl
@[simp] theorem State.setPort_parked (s : State) (p : Nat) (x : Port) : (s.setPort p x).parked = s.parked := rfl

@[simp] theorem State.setDie_agenda (s : State) (d : Nat) (x : Die) : (s.setDie d x).agenda = s.agenda := rfl
@[simp] theorem State.setDie_cur (s : State) (d : Nat) (x : Die) : (s.setDie d x).cur = s.cur := rfl
@[simp] theorem State.setDie_free (s : State) (d : Nat) (x : Die) : (s.setDie d x).free = s.free := rfl
@[simp] theorem State.setDie_off (s : State) (d : Nat) (x : Die) : (s.setDie d x).off = s.off := rfl
@[simp] theorem State.setDie_down (s : State) (d : Nat) (x : Die) : (s.setDie d x).down = s.down := rfl
@[simp] theorem State.setDie_recovery (s : State) (d : Nat) (x : Die) : (s.setDie d x).recovery = s.recovery := rfl
@[simp] theorem State.setDie_boot (s : State) (d : Nat) (x : Die) : (s.setDie d x).boot = s.boot := rfl
@[simp] theorem State.setDie_brFail (s : State) (d : Nat) (x : Die) : (s.setDie d x).brFail = s.brFail := rfl
@[simp] theorem State.setDie_brLast (s : State) (d : Nat) (x : Die) : (s.setDie d x).brLast = s.brLast := rfl
@[simp] theorem State.setDie_brBoots (s : State) (d : Nat) (x : Die) : (s.setDie d x).brBoots = s.brBoots := rfl
@[simp] theorem State.setDie_image (s : State) (d : Nat) (x : Die) : (s.setDie d x).image = s.image := rfl
@[simp] theorem State.setDie_nextImage (s : State) (d : Nat) (x : Die) : (s.setDie d x).nextImage = s.nextImage := rfl
@[simp] theorem State.setDie_refCycle (s : State) (d : Nat) (x : Die) : (s.setDie d x).refCycle = s.refCycle := rfl
@[simp] theorem State.setDie_cxstsCtx (s : State) (d : Nat) (x : Die) : (s.setDie d x).cxstsCtx = s.cxstsCtx := rfl
@[simp] theorem State.setDie_cxstsRes (s : State) (d : Nat) (x : Die) : (s.setDie d x).cxstsRes = s.cxstsRes := rfl
@[simp] theorem State.setDie_cmds (s : State) (d : Nat) (x : Die) : (s.setDie d x).cmds = s.cmds := rfl
@[simp] theorem State.setDie_qctlRes (s : State) (d : Nat) (x : Die) : (s.setDie d x).qctlRes = s.qctlRes := rfl
@[simp] theorem State.setDie_drstRes (s : State) (d : Nat) (x : Die) : (s.setDie d x).drstRes = s.drstRes := rfl
@[simp] theorem State.setDie_dbgsel (s : State) (d : Nat) (x : Die) : (s.setDie d x).dbgsel = s.dbgsel := rfl
@[simp] theorem State.setDie_dbgdat (s : State) (d : Nat) (x : Die) : (s.setDie d x).dbgdat = s.dbgdat := rfl
@[simp] theorem State.setDie_lmbase (s : State) (d : Nat) (x : Die) : (s.setDie d x).lmbase = s.lmbase := rfl
@[simp] theorem State.setDie_badacc (s : State) (d : Nat) (x : Die) : (s.setDie d x).badacc = s.badacc := rfl
@[simp] theorem State.setDie_devnum (s : State) (d : Nat) (x : Die) : (s.setDie d x).devnum = s.devnum := rfl
@[simp] theorem State.setDie_bridge (s : State) (d : Nat) (x : Die) : (s.setDie d x).bridge = s.bridge := rfl
@[simp] theorem State.setDie_hostfn (s : State) (d : Nat) (x : Die) : (s.setDie d x).hostfn = s.hostfn := rfl
@[simp] theorem State.setDie_pcieOff (s : State) (d : Nat) (x : Die) : (s.setDie d x).pcieOff = s.pcieOff := rfl
@[simp] theorem State.setDie_hostAtomics (s : State) (d : Nat) (x : Die) : (s.setDie d x).hostAtomics = s.hostAtomics := rfl
@[simp] theorem State.setDie_ctxBase (s : State) (d : Nat) (x : Die) : (s.setDie d x).ctxBase = s.ctxBase := rfl
@[simp] theorem State.setDie_qBase (s : State) (d : Nat) (x : Die) : (s.setDie d x).qBase = s.qBase := rfl
@[simp] theorem State.setDie_dbBase (s : State) (d : Nat) (x : Die) : (s.setDie d x).dbBase = s.dbBase := rfl
@[simp] theorem State.setDie_hbm (s : State) (d : Nat) (x : Die) : (s.setDie d x).hbm = s.hbm := rfl
@[simp] theorem State.setDie_opReq (s : State) (d : Nat) (x : Die) : (s.setDie d x).opReq = s.opReq := rfl
@[simp] theorem State.setDie_opPower (s : State) (d : Nat) (x : Die) : (s.setDie d x).opPower = s.opPower := rfl
@[simp] theorem State.setDie_opUse (s : State) (d : Nat) (x : Die) : (s.setDie d x).opUse = s.opUse := rfl
@[simp] theorem State.setDie_opNext (s : State) (d : Nat) (x : Die) : (s.setDie d x).opNext = s.opNext := rfl
@[simp] theorem State.setDie_hist (s : State) (d : Nat) (x : Die) : (s.setDie d x).hist = s.hist := rfl
@[simp] theorem State.setDie_lastPow (s : State) (d : Nat) (x : Die) : (s.setDie d x).lastPow = s.lastPow := rfl
@[simp] theorem State.setDie_epoch (s : State) (d : Nat) (x : Die) : (s.setDie d x).epoch = s.epoch := rfl
@[simp] theorem State.setDie_mem (s : State) (d : Nat) (x : Die) : (s.setDie d x).mem = s.mem := rfl
@[simp] theorem State.setDie_tagBits (s : State) (d : Nat) (x : Die) : (s.setDie d x).tagBits = s.tagBits := rfl
@[simp] theorem State.setDie_gran (s : State) (d : Nat) (x : Die) : (s.setDie d x).gran = s.gran := rfl
@[simp] theorem State.setDie_lineOwner (s : State) (d : Nat) (x : Die) : (s.setDie d x).lineOwner = s.lineOwner := rfl
@[simp] theorem State.setDie_codeOld (s : State) (d : Nat) (x : Die) : (s.setDie d x).codeOld = s.codeOld := rfl
@[simp] theorem State.setDie_poison (s : State) (d : Nat) (x : Die) : (s.setDie d x).poison = s.poison := rfl
@[simp] theorem State.setDie_poisonL2 (s : State) (d : Nat) (x : Die) : (s.setDie d x).poisonL2 = s.poisonL2 := rfl
@[simp] theorem State.setDie_softErrs (s : State) (d : Nat) (x : Die) : (s.setDie d x).softErrs = s.softErrs := rfl
@[simp] theorem State.setDie_softL2 (s : State) (d : Nat) (x : Die) : (s.setDie d x).softL2 = s.softL2 := rfl
@[simp] theorem State.setDie_threads (s : State) (d : Nat) (x : Die) : (s.setDie d x).threads = s.threads := rfl
@[simp] theorem State.setDie_gangs (s : State) (d : Nat) (x : Die) : (s.setDie d x).gangs = s.gangs := rfl
@[simp] theorem State.setDie_insts (s : State) (d : Nat) (x : Die) : (s.setDie d x).insts = s.insts := rfl
@[simp] theorem State.setDie_instNext (s : State) (d : Nat) (x : Die) : (s.setDie d x).instNext = s.instNext := rfl
@[simp] theorem State.setDie_cores (s : State) (d : Nat) (x : Die) : (s.setDie d x).cores = s.cores := rfl
@[simp] theorem State.setDie_ctxs (s : State) (d : Nat) (x : Die) : (s.setDie d x).ctxs = s.ctxs := rfl
@[simp] theorem State.setDie_queues (s : State) (d : Nat) (x : Die) : (s.setDie d x).queues = s.queues := rfl
@[simp] theorem State.setDie_kernels (s : State) (d : Nat) (x : Die) : (s.setDie d x).kernels = s.kernels := rfl
@[simp] theorem State.setDie_kernNext (s : State) (d : Nat) (x : Die) : (s.setDie d x).kernNext = s.kernNext := rfl
@[simp] theorem State.setDie_conduits (s : State) (d : Nat) (x : Die) : (s.setDie d x).conduits = s.conduits := rfl
@[simp] theorem State.setDie_cdNext (s : State) (d : Nat) (x : Die) : (s.setDie d x).cdNext = s.cdNext := rfl
@[simp] theorem State.setDie_walkNext (s : State) (d : Nat) (x : Die) : (s.setDie d x).walkNext = s.walkNext := rfl
@[simp] theorem State.setDie_issueNo (s : State) (d : Nat) (x : Die) : (s.setDie d x).issueNo = s.issueNo := rfl
@[simp] theorem State.setDie_dies (s : State) (d : Nat) (x : Die) : (s.setDie d x).dies = s.dies.put d x := rfl
@[simp] theorem State.setDie_bridges (s : State) (d : Nat) (x : Die) : (s.setDie d x).bridges = s.bridges := rfl
@[simp] theorem State.setDie_ports (s : State) (d : Nat) (x : Die) : (s.setDie d x).ports = s.ports := rfl
@[simp] theorem State.setDie_routes (s : State) (d : Nat) (x : Die) : (s.setDie d x).routes = s.routes := rfl
@[simp] theorem State.setDie_waitDev (s : State) (d : Nat) (x : Die) : (s.setDie d x).waitDev = s.waitDev := rfl
@[simp] theorem State.setDie_mcwins (s : State) (d : Nat) (x : Die) : (s.setDie d x).mcwins = s.mcwins := rfl
@[simp] theorem State.setDie_outq (s : State) (d : Nat) (x : Die) : (s.setDie d x).outq = s.outq := rfl
@[simp] theorem State.setDie_early (s : State) (d : Nat) (x : Die) : (s.setDie d x).early = s.early := rfl
@[simp] theorem State.setDie_esend (s : State) (d : Nat) (x : Die) : (s.setDie d x).esend = s.esend := rfl
@[simp] theorem State.setDie_erecv (s : State) (d : Nat) (x : Die) : (s.setDie d x).erecv = s.erecv := rfl
@[simp] theorem State.setDie_eresp (s : State) (d : Nat) (x : Die) : (s.setDie d x).eresp = s.eresp := rfl
@[simp] theorem State.setDie_remops (s : State) (d : Nat) (x : Die) : (s.setDie d x).remops = s.remops := rfl
@[simp] theorem State.setDie_remNext (s : State) (d : Nat) (x : Die) : (s.setDie d x).remNext = s.remNext := rfl
@[simp] theorem State.setDie_ppGot (s : State) (d : Nat) (x : Die) : (s.setDie d x).ppGot = s.ppGot := rfl
@[simp] theorem State.setDie_invals (s : State) (d : Nat) (x : Die) : (s.setDie d x).invals = s.invals := rfl
@[simp] theorem State.setDie_invNext (s : State) (d : Nat) (x : Die) : (s.setDie d x).invNext = s.invNext := rfl
@[simp] theorem State.setDie_spdm (s : State) (d : Nat) (x : Die) : (s.setDie d x).spdm = s.spdm := rfl
@[simp] theorem State.setDie_hostOut (s : State) (d : Nat) (x : Die) : (s.setDie d x).hostOut = s.hostOut := rfl
@[simp] theorem State.setDie_opLow (s : State) (d : Nat) (x : Die) : (s.setDie d x).opLow = s.opLow := rfl
@[simp] theorem State.setDie_hbmFail (s : State) (d : Nat) (x : Die) : (s.setDie d x).hbmFail = s.hbmFail := rfl
@[simp] theorem State.setDie_funcs (s : State) (d : Nat) (x : Die) : (s.setDie d x).funcs = s.funcs := rfl
@[simp] theorem State.setDie_hostPend (s : State) (d : Nat) (x : Die) : (s.setDie d x).hostPend = s.hostPend := rfl
@[simp] theorem State.setDie_parked (s : State) (d : Nat) (x : Die) : (s.setDie d x).parked = s.parked := rfl

@[simp] theorem State.updThread_agenda (s : State) (t : Nat) (f : Thread → Thread) : (s.updThread t f).agenda = s.agenda := rfl
@[simp] theorem State.updThread_cur (s : State) (t : Nat) (f : Thread → Thread) : (s.updThread t f).cur = s.cur := rfl
@[simp] theorem State.updThread_free (s : State) (t : Nat) (f : Thread → Thread) : (s.updThread t f).free = s.free := rfl
@[simp] theorem State.updThread_off (s : State) (t : Nat) (f : Thread → Thread) : (s.updThread t f).off = s.off := rfl
@[simp] theorem State.updThread_down (s : State) (t : Nat) (f : Thread → Thread) : (s.updThread t f).down = s.down := rfl
@[simp] theorem State.updThread_recovery (s : State) (t : Nat) (f : Thread → Thread) : (s.updThread t f).recovery = s.recovery := rfl
@[simp] theorem State.updThread_boot (s : State) (t : Nat) (f : Thread → Thread) : (s.updThread t f).boot = s.boot := rfl
@[simp] theorem State.updThread_brFail (s : State) (t : Nat) (f : Thread → Thread) : (s.updThread t f).brFail = s.brFail := rfl
@[simp] theorem State.updThread_brLast (s : State) (t : Nat) (f : Thread → Thread) : (s.updThread t f).brLast = s.brLast := rfl
@[simp] theorem State.updThread_brBoots (s : State) (t : Nat) (f : Thread → Thread) : (s.updThread t f).brBoots = s.brBoots := rfl
@[simp] theorem State.updThread_image (s : State) (t : Nat) (f : Thread → Thread) : (s.updThread t f).image = s.image := rfl
@[simp] theorem State.updThread_nextImage (s : State) (t : Nat) (f : Thread → Thread) : (s.updThread t f).nextImage = s.nextImage := rfl
@[simp] theorem State.updThread_refCycle (s : State) (t : Nat) (f : Thread → Thread) : (s.updThread t f).refCycle = s.refCycle := rfl
@[simp] theorem State.updThread_cxstsCtx (s : State) (t : Nat) (f : Thread → Thread) : (s.updThread t f).cxstsCtx = s.cxstsCtx := rfl
@[simp] theorem State.updThread_cxstsRes (s : State) (t : Nat) (f : Thread → Thread) : (s.updThread t f).cxstsRes = s.cxstsRes := rfl
@[simp] theorem State.updThread_cmds (s : State) (t : Nat) (f : Thread → Thread) : (s.updThread t f).cmds = s.cmds := rfl
@[simp] theorem State.updThread_qctlRes (s : State) (t : Nat) (f : Thread → Thread) : (s.updThread t f).qctlRes = s.qctlRes := rfl
@[simp] theorem State.updThread_drstRes (s : State) (t : Nat) (f : Thread → Thread) : (s.updThread t f).drstRes = s.drstRes := rfl
@[simp] theorem State.updThread_dbgsel (s : State) (t : Nat) (f : Thread → Thread) : (s.updThread t f).dbgsel = s.dbgsel := rfl
@[simp] theorem State.updThread_dbgdat (s : State) (t : Nat) (f : Thread → Thread) : (s.updThread t f).dbgdat = s.dbgdat := rfl
@[simp] theorem State.updThread_lmbase (s : State) (t : Nat) (f : Thread → Thread) : (s.updThread t f).lmbase = s.lmbase := rfl
@[simp] theorem State.updThread_badacc (s : State) (t : Nat) (f : Thread → Thread) : (s.updThread t f).badacc = s.badacc := rfl
@[simp] theorem State.updThread_devnum (s : State) (t : Nat) (f : Thread → Thread) : (s.updThread t f).devnum = s.devnum := rfl
@[simp] theorem State.updThread_bridge (s : State) (t : Nat) (f : Thread → Thread) : (s.updThread t f).bridge = s.bridge := rfl
@[simp] theorem State.updThread_hostfn (s : State) (t : Nat) (f : Thread → Thread) : (s.updThread t f).hostfn = s.hostfn := rfl
@[simp] theorem State.updThread_pcieOff (s : State) (t : Nat) (f : Thread → Thread) : (s.updThread t f).pcieOff = s.pcieOff := rfl
@[simp] theorem State.updThread_hostAtomics (s : State) (t : Nat) (f : Thread → Thread) : (s.updThread t f).hostAtomics = s.hostAtomics := rfl
@[simp] theorem State.updThread_ctxBase (s : State) (t : Nat) (f : Thread → Thread) : (s.updThread t f).ctxBase = s.ctxBase := rfl
@[simp] theorem State.updThread_qBase (s : State) (t : Nat) (f : Thread → Thread) : (s.updThread t f).qBase = s.qBase := rfl
@[simp] theorem State.updThread_dbBase (s : State) (t : Nat) (f : Thread → Thread) : (s.updThread t f).dbBase = s.dbBase := rfl
@[simp] theorem State.updThread_hbm (s : State) (t : Nat) (f : Thread → Thread) : (s.updThread t f).hbm = s.hbm := rfl
@[simp] theorem State.updThread_opReq (s : State) (t : Nat) (f : Thread → Thread) : (s.updThread t f).opReq = s.opReq := rfl
@[simp] theorem State.updThread_opPower (s : State) (t : Nat) (f : Thread → Thread) : (s.updThread t f).opPower = s.opPower := rfl
@[simp] theorem State.updThread_opUse (s : State) (t : Nat) (f : Thread → Thread) : (s.updThread t f).opUse = s.opUse := rfl
@[simp] theorem State.updThread_opNext (s : State) (t : Nat) (f : Thread → Thread) : (s.updThread t f).opNext = s.opNext := rfl
@[simp] theorem State.updThread_hist (s : State) (t : Nat) (f : Thread → Thread) : (s.updThread t f).hist = s.hist := rfl
@[simp] theorem State.updThread_lastPow (s : State) (t : Nat) (f : Thread → Thread) : (s.updThread t f).lastPow = s.lastPow := rfl
@[simp] theorem State.updThread_epoch (s : State) (t : Nat) (f : Thread → Thread) : (s.updThread t f).epoch = s.epoch := rfl
@[simp] theorem State.updThread_mem (s : State) (t : Nat) (f : Thread → Thread) : (s.updThread t f).mem = s.mem := rfl
@[simp] theorem State.updThread_tagBits (s : State) (t : Nat) (f : Thread → Thread) : (s.updThread t f).tagBits = s.tagBits := rfl
@[simp] theorem State.updThread_gran (s : State) (t : Nat) (f : Thread → Thread) : (s.updThread t f).gran = s.gran := rfl
@[simp] theorem State.updThread_lineOwner (s : State) (t : Nat) (f : Thread → Thread) : (s.updThread t f).lineOwner = s.lineOwner := rfl
@[simp] theorem State.updThread_codeOld (s : State) (t : Nat) (f : Thread → Thread) : (s.updThread t f).codeOld = s.codeOld := rfl
@[simp] theorem State.updThread_poison (s : State) (t : Nat) (f : Thread → Thread) : (s.updThread t f).poison = s.poison := rfl
@[simp] theorem State.updThread_poisonL2 (s : State) (t : Nat) (f : Thread → Thread) : (s.updThread t f).poisonL2 = s.poisonL2 := rfl
@[simp] theorem State.updThread_softErrs (s : State) (t : Nat) (f : Thread → Thread) : (s.updThread t f).softErrs = s.softErrs := rfl
@[simp] theorem State.updThread_softL2 (s : State) (t : Nat) (f : Thread → Thread) : (s.updThread t f).softL2 = s.softL2 := rfl
@[simp] theorem State.updThread_threads (s : State) (t : Nat) (f : Thread → Thread) : (s.updThread t f).threads = s.threads.upd t f := rfl
@[simp] theorem State.updThread_gangs (s : State) (t : Nat) (f : Thread → Thread) : (s.updThread t f).gangs = s.gangs := rfl
@[simp] theorem State.updThread_insts (s : State) (t : Nat) (f : Thread → Thread) : (s.updThread t f).insts = s.insts := rfl
@[simp] theorem State.updThread_instNext (s : State) (t : Nat) (f : Thread → Thread) : (s.updThread t f).instNext = s.instNext := rfl
@[simp] theorem State.updThread_cores (s : State) (t : Nat) (f : Thread → Thread) : (s.updThread t f).cores = s.cores := rfl
@[simp] theorem State.updThread_ctxs (s : State) (t : Nat) (f : Thread → Thread) : (s.updThread t f).ctxs = s.ctxs := rfl
@[simp] theorem State.updThread_queues (s : State) (t : Nat) (f : Thread → Thread) : (s.updThread t f).queues = s.queues := rfl
@[simp] theorem State.updThread_kernels (s : State) (t : Nat) (f : Thread → Thread) : (s.updThread t f).kernels = s.kernels := rfl
@[simp] theorem State.updThread_kernNext (s : State) (t : Nat) (f : Thread → Thread) : (s.updThread t f).kernNext = s.kernNext := rfl
@[simp] theorem State.updThread_conduits (s : State) (t : Nat) (f : Thread → Thread) : (s.updThread t f).conduits = s.conduits := rfl
@[simp] theorem State.updThread_cdNext (s : State) (t : Nat) (f : Thread → Thread) : (s.updThread t f).cdNext = s.cdNext := rfl
@[simp] theorem State.updThread_walkNext (s : State) (t : Nat) (f : Thread → Thread) : (s.updThread t f).walkNext = s.walkNext := rfl
@[simp] theorem State.updThread_issueNo (s : State) (t : Nat) (f : Thread → Thread) : (s.updThread t f).issueNo = s.issueNo := rfl
@[simp] theorem State.updThread_dies (s : State) (t : Nat) (f : Thread → Thread) : (s.updThread t f).dies = s.dies := rfl
@[simp] theorem State.updThread_bridges (s : State) (t : Nat) (f : Thread → Thread) : (s.updThread t f).bridges = s.bridges := rfl
@[simp] theorem State.updThread_ports (s : State) (t : Nat) (f : Thread → Thread) : (s.updThread t f).ports = s.ports := rfl
@[simp] theorem State.updThread_routes (s : State) (t : Nat) (f : Thread → Thread) : (s.updThread t f).routes = s.routes := rfl
@[simp] theorem State.updThread_waitDev (s : State) (t : Nat) (f : Thread → Thread) : (s.updThread t f).waitDev = s.waitDev := rfl
@[simp] theorem State.updThread_mcwins (s : State) (t : Nat) (f : Thread → Thread) : (s.updThread t f).mcwins = s.mcwins := rfl
@[simp] theorem State.updThread_outq (s : State) (t : Nat) (f : Thread → Thread) : (s.updThread t f).outq = s.outq := rfl
@[simp] theorem State.updThread_early (s : State) (t : Nat) (f : Thread → Thread) : (s.updThread t f).early = s.early := rfl
@[simp] theorem State.updThread_esend (s : State) (t : Nat) (f : Thread → Thread) : (s.updThread t f).esend = s.esend := rfl
@[simp] theorem State.updThread_erecv (s : State) (t : Nat) (f : Thread → Thread) : (s.updThread t f).erecv = s.erecv := rfl
@[simp] theorem State.updThread_eresp (s : State) (t : Nat) (f : Thread → Thread) : (s.updThread t f).eresp = s.eresp := rfl
@[simp] theorem State.updThread_remops (s : State) (t : Nat) (f : Thread → Thread) : (s.updThread t f).remops = s.remops := rfl
@[simp] theorem State.updThread_remNext (s : State) (t : Nat) (f : Thread → Thread) : (s.updThread t f).remNext = s.remNext := rfl
@[simp] theorem State.updThread_ppGot (s : State) (t : Nat) (f : Thread → Thread) : (s.updThread t f).ppGot = s.ppGot := rfl
@[simp] theorem State.updThread_invals (s : State) (t : Nat) (f : Thread → Thread) : (s.updThread t f).invals = s.invals := rfl
@[simp] theorem State.updThread_invNext (s : State) (t : Nat) (f : Thread → Thread) : (s.updThread t f).invNext = s.invNext := rfl
@[simp] theorem State.updThread_spdm (s : State) (t : Nat) (f : Thread → Thread) : (s.updThread t f).spdm = s.spdm := rfl
@[simp] theorem State.updThread_hostOut (s : State) (t : Nat) (f : Thread → Thread) : (s.updThread t f).hostOut = s.hostOut := rfl
@[simp] theorem State.updThread_opLow (s : State) (t : Nat) (f : Thread → Thread) : (s.updThread t f).opLow = s.opLow := rfl
@[simp] theorem State.updThread_hbmFail (s : State) (t : Nat) (f : Thread → Thread) : (s.updThread t f).hbmFail = s.hbmFail := rfl
@[simp] theorem State.updThread_funcs (s : State) (t : Nat) (f : Thread → Thread) : (s.updThread t f).funcs = s.funcs := rfl
@[simp] theorem State.updThread_hostPend (s : State) (t : Nat) (f : Thread → Thread) : (s.updThread t f).hostPend = s.hostPend := rfl
@[simp] theorem State.updThread_parked (s : State) (t : Nat) (f : Thread → Thread) : (s.updThread t f).parked = s.parked := rfl

@[simp] theorem State.updGang_agenda (s : State) (g : Nat) (f : Gang → Gang) : (s.updGang g f).agenda = s.agenda := rfl
@[simp] theorem State.updGang_cur (s : State) (g : Nat) (f : Gang → Gang) : (s.updGang g f).cur = s.cur := rfl
@[simp] theorem State.updGang_free (s : State) (g : Nat) (f : Gang → Gang) : (s.updGang g f).free = s.free := rfl
@[simp] theorem State.updGang_off (s : State) (g : Nat) (f : Gang → Gang) : (s.updGang g f).off = s.off := rfl
@[simp] theorem State.updGang_down (s : State) (g : Nat) (f : Gang → Gang) : (s.updGang g f).down = s.down := rfl
@[simp] theorem State.updGang_recovery (s : State) (g : Nat) (f : Gang → Gang) : (s.updGang g f).recovery = s.recovery := rfl
@[simp] theorem State.updGang_boot (s : State) (g : Nat) (f : Gang → Gang) : (s.updGang g f).boot = s.boot := rfl
@[simp] theorem State.updGang_brFail (s : State) (g : Nat) (f : Gang → Gang) : (s.updGang g f).brFail = s.brFail := rfl
@[simp] theorem State.updGang_brLast (s : State) (g : Nat) (f : Gang → Gang) : (s.updGang g f).brLast = s.brLast := rfl
@[simp] theorem State.updGang_brBoots (s : State) (g : Nat) (f : Gang → Gang) : (s.updGang g f).brBoots = s.brBoots := rfl
@[simp] theorem State.updGang_image (s : State) (g : Nat) (f : Gang → Gang) : (s.updGang g f).image = s.image := rfl
@[simp] theorem State.updGang_nextImage (s : State) (g : Nat) (f : Gang → Gang) : (s.updGang g f).nextImage = s.nextImage := rfl
@[simp] theorem State.updGang_refCycle (s : State) (g : Nat) (f : Gang → Gang) : (s.updGang g f).refCycle = s.refCycle := rfl
@[simp] theorem State.updGang_cxstsCtx (s : State) (g : Nat) (f : Gang → Gang) : (s.updGang g f).cxstsCtx = s.cxstsCtx := rfl
@[simp] theorem State.updGang_cxstsRes (s : State) (g : Nat) (f : Gang → Gang) : (s.updGang g f).cxstsRes = s.cxstsRes := rfl
@[simp] theorem State.updGang_cmds (s : State) (g : Nat) (f : Gang → Gang) : (s.updGang g f).cmds = s.cmds := rfl
@[simp] theorem State.updGang_qctlRes (s : State) (g : Nat) (f : Gang → Gang) : (s.updGang g f).qctlRes = s.qctlRes := rfl
@[simp] theorem State.updGang_drstRes (s : State) (g : Nat) (f : Gang → Gang) : (s.updGang g f).drstRes = s.drstRes := rfl
@[simp] theorem State.updGang_dbgsel (s : State) (g : Nat) (f : Gang → Gang) : (s.updGang g f).dbgsel = s.dbgsel := rfl
@[simp] theorem State.updGang_dbgdat (s : State) (g : Nat) (f : Gang → Gang) : (s.updGang g f).dbgdat = s.dbgdat := rfl
@[simp] theorem State.updGang_lmbase (s : State) (g : Nat) (f : Gang → Gang) : (s.updGang g f).lmbase = s.lmbase := rfl
@[simp] theorem State.updGang_badacc (s : State) (g : Nat) (f : Gang → Gang) : (s.updGang g f).badacc = s.badacc := rfl
@[simp] theorem State.updGang_devnum (s : State) (g : Nat) (f : Gang → Gang) : (s.updGang g f).devnum = s.devnum := rfl
@[simp] theorem State.updGang_bridge (s : State) (g : Nat) (f : Gang → Gang) : (s.updGang g f).bridge = s.bridge := rfl
@[simp] theorem State.updGang_hostfn (s : State) (g : Nat) (f : Gang → Gang) : (s.updGang g f).hostfn = s.hostfn := rfl
@[simp] theorem State.updGang_pcieOff (s : State) (g : Nat) (f : Gang → Gang) : (s.updGang g f).pcieOff = s.pcieOff := rfl
@[simp] theorem State.updGang_hostAtomics (s : State) (g : Nat) (f : Gang → Gang) : (s.updGang g f).hostAtomics = s.hostAtomics := rfl
@[simp] theorem State.updGang_ctxBase (s : State) (g : Nat) (f : Gang → Gang) : (s.updGang g f).ctxBase = s.ctxBase := rfl
@[simp] theorem State.updGang_qBase (s : State) (g : Nat) (f : Gang → Gang) : (s.updGang g f).qBase = s.qBase := rfl
@[simp] theorem State.updGang_dbBase (s : State) (g : Nat) (f : Gang → Gang) : (s.updGang g f).dbBase = s.dbBase := rfl
@[simp] theorem State.updGang_hbm (s : State) (g : Nat) (f : Gang → Gang) : (s.updGang g f).hbm = s.hbm := rfl
@[simp] theorem State.updGang_opReq (s : State) (g : Nat) (f : Gang → Gang) : (s.updGang g f).opReq = s.opReq := rfl
@[simp] theorem State.updGang_opPower (s : State) (g : Nat) (f : Gang → Gang) : (s.updGang g f).opPower = s.opPower := rfl
@[simp] theorem State.updGang_opUse (s : State) (g : Nat) (f : Gang → Gang) : (s.updGang g f).opUse = s.opUse := rfl
@[simp] theorem State.updGang_opNext (s : State) (g : Nat) (f : Gang → Gang) : (s.updGang g f).opNext = s.opNext := rfl
@[simp] theorem State.updGang_hist (s : State) (g : Nat) (f : Gang → Gang) : (s.updGang g f).hist = s.hist := rfl
@[simp] theorem State.updGang_lastPow (s : State) (g : Nat) (f : Gang → Gang) : (s.updGang g f).lastPow = s.lastPow := rfl
@[simp] theorem State.updGang_epoch (s : State) (g : Nat) (f : Gang → Gang) : (s.updGang g f).epoch = s.epoch := rfl
@[simp] theorem State.updGang_mem (s : State) (g : Nat) (f : Gang → Gang) : (s.updGang g f).mem = s.mem := rfl
@[simp] theorem State.updGang_tagBits (s : State) (g : Nat) (f : Gang → Gang) : (s.updGang g f).tagBits = s.tagBits := rfl
@[simp] theorem State.updGang_gran (s : State) (g : Nat) (f : Gang → Gang) : (s.updGang g f).gran = s.gran := rfl
@[simp] theorem State.updGang_lineOwner (s : State) (g : Nat) (f : Gang → Gang) : (s.updGang g f).lineOwner = s.lineOwner := rfl
@[simp] theorem State.updGang_codeOld (s : State) (g : Nat) (f : Gang → Gang) : (s.updGang g f).codeOld = s.codeOld := rfl
@[simp] theorem State.updGang_poison (s : State) (g : Nat) (f : Gang → Gang) : (s.updGang g f).poison = s.poison := rfl
@[simp] theorem State.updGang_poisonL2 (s : State) (g : Nat) (f : Gang → Gang) : (s.updGang g f).poisonL2 = s.poisonL2 := rfl
@[simp] theorem State.updGang_softErrs (s : State) (g : Nat) (f : Gang → Gang) : (s.updGang g f).softErrs = s.softErrs := rfl
@[simp] theorem State.updGang_softL2 (s : State) (g : Nat) (f : Gang → Gang) : (s.updGang g f).softL2 = s.softL2 := rfl
@[simp] theorem State.updGang_threads (s : State) (g : Nat) (f : Gang → Gang) : (s.updGang g f).threads = s.threads := rfl
@[simp] theorem State.updGang_gangs (s : State) (g : Nat) (f : Gang → Gang) : (s.updGang g f).gangs = s.gangs.upd g f := rfl
@[simp] theorem State.updGang_insts (s : State) (g : Nat) (f : Gang → Gang) : (s.updGang g f).insts = s.insts := rfl
@[simp] theorem State.updGang_instNext (s : State) (g : Nat) (f : Gang → Gang) : (s.updGang g f).instNext = s.instNext := rfl
@[simp] theorem State.updGang_cores (s : State) (g : Nat) (f : Gang → Gang) : (s.updGang g f).cores = s.cores := rfl
@[simp] theorem State.updGang_ctxs (s : State) (g : Nat) (f : Gang → Gang) : (s.updGang g f).ctxs = s.ctxs := rfl
@[simp] theorem State.updGang_queues (s : State) (g : Nat) (f : Gang → Gang) : (s.updGang g f).queues = s.queues := rfl
@[simp] theorem State.updGang_kernels (s : State) (g : Nat) (f : Gang → Gang) : (s.updGang g f).kernels = s.kernels := rfl
@[simp] theorem State.updGang_kernNext (s : State) (g : Nat) (f : Gang → Gang) : (s.updGang g f).kernNext = s.kernNext := rfl
@[simp] theorem State.updGang_conduits (s : State) (g : Nat) (f : Gang → Gang) : (s.updGang g f).conduits = s.conduits := rfl
@[simp] theorem State.updGang_cdNext (s : State) (g : Nat) (f : Gang → Gang) : (s.updGang g f).cdNext = s.cdNext := rfl
@[simp] theorem State.updGang_walkNext (s : State) (g : Nat) (f : Gang → Gang) : (s.updGang g f).walkNext = s.walkNext := rfl
@[simp] theorem State.updGang_issueNo (s : State) (g : Nat) (f : Gang → Gang) : (s.updGang g f).issueNo = s.issueNo := rfl
@[simp] theorem State.updGang_dies (s : State) (g : Nat) (f : Gang → Gang) : (s.updGang g f).dies = s.dies := rfl
@[simp] theorem State.updGang_bridges (s : State) (g : Nat) (f : Gang → Gang) : (s.updGang g f).bridges = s.bridges := rfl
@[simp] theorem State.updGang_ports (s : State) (g : Nat) (f : Gang → Gang) : (s.updGang g f).ports = s.ports := rfl
@[simp] theorem State.updGang_routes (s : State) (g : Nat) (f : Gang → Gang) : (s.updGang g f).routes = s.routes := rfl
@[simp] theorem State.updGang_waitDev (s : State) (g : Nat) (f : Gang → Gang) : (s.updGang g f).waitDev = s.waitDev := rfl
@[simp] theorem State.updGang_mcwins (s : State) (g : Nat) (f : Gang → Gang) : (s.updGang g f).mcwins = s.mcwins := rfl
@[simp] theorem State.updGang_outq (s : State) (g : Nat) (f : Gang → Gang) : (s.updGang g f).outq = s.outq := rfl
@[simp] theorem State.updGang_early (s : State) (g : Nat) (f : Gang → Gang) : (s.updGang g f).early = s.early := rfl
@[simp] theorem State.updGang_esend (s : State) (g : Nat) (f : Gang → Gang) : (s.updGang g f).esend = s.esend := rfl
@[simp] theorem State.updGang_erecv (s : State) (g : Nat) (f : Gang → Gang) : (s.updGang g f).erecv = s.erecv := rfl
@[simp] theorem State.updGang_eresp (s : State) (g : Nat) (f : Gang → Gang) : (s.updGang g f).eresp = s.eresp := rfl
@[simp] theorem State.updGang_remops (s : State) (g : Nat) (f : Gang → Gang) : (s.updGang g f).remops = s.remops := rfl
@[simp] theorem State.updGang_remNext (s : State) (g : Nat) (f : Gang → Gang) : (s.updGang g f).remNext = s.remNext := rfl
@[simp] theorem State.updGang_ppGot (s : State) (g : Nat) (f : Gang → Gang) : (s.updGang g f).ppGot = s.ppGot := rfl
@[simp] theorem State.updGang_invals (s : State) (g : Nat) (f : Gang → Gang) : (s.updGang g f).invals = s.invals := rfl
@[simp] theorem State.updGang_invNext (s : State) (g : Nat) (f : Gang → Gang) : (s.updGang g f).invNext = s.invNext := rfl
@[simp] theorem State.updGang_spdm (s : State) (g : Nat) (f : Gang → Gang) : (s.updGang g f).spdm = s.spdm := rfl
@[simp] theorem State.updGang_hostOut (s : State) (g : Nat) (f : Gang → Gang) : (s.updGang g f).hostOut = s.hostOut := rfl
@[simp] theorem State.updGang_opLow (s : State) (g : Nat) (f : Gang → Gang) : (s.updGang g f).opLow = s.opLow := rfl
@[simp] theorem State.updGang_hbmFail (s : State) (g : Nat) (f : Gang → Gang) : (s.updGang g f).hbmFail = s.hbmFail := rfl
@[simp] theorem State.updGang_funcs (s : State) (g : Nat) (f : Gang → Gang) : (s.updGang g f).funcs = s.funcs := rfl
@[simp] theorem State.updGang_hostPend (s : State) (g : Nat) (f : Gang → Gang) : (s.updGang g f).hostPend = s.hostPend := rfl
@[simp] theorem State.updGang_parked (s : State) (g : Nat) (f : Gang → Gang) : (s.updGang g f).parked = s.parked := rfl

@[simp] theorem State.updKernel_agenda (s : State) (k : Nat) (f : Kernel → Kernel) : (s.updKernel k f).agenda = s.agenda := rfl
@[simp] theorem State.updKernel_cur (s : State) (k : Nat) (f : Kernel → Kernel) : (s.updKernel k f).cur = s.cur := rfl
@[simp] theorem State.updKernel_free (s : State) (k : Nat) (f : Kernel → Kernel) : (s.updKernel k f).free = s.free := rfl
@[simp] theorem State.updKernel_off (s : State) (k : Nat) (f : Kernel → Kernel) : (s.updKernel k f).off = s.off := rfl
@[simp] theorem State.updKernel_down (s : State) (k : Nat) (f : Kernel → Kernel) : (s.updKernel k f).down = s.down := rfl
@[simp] theorem State.updKernel_recovery (s : State) (k : Nat) (f : Kernel → Kernel) : (s.updKernel k f).recovery = s.recovery := rfl
@[simp] theorem State.updKernel_boot (s : State) (k : Nat) (f : Kernel → Kernel) : (s.updKernel k f).boot = s.boot := rfl
@[simp] theorem State.updKernel_brFail (s : State) (k : Nat) (f : Kernel → Kernel) : (s.updKernel k f).brFail = s.brFail := rfl
@[simp] theorem State.updKernel_brLast (s : State) (k : Nat) (f : Kernel → Kernel) : (s.updKernel k f).brLast = s.brLast := rfl
@[simp] theorem State.updKernel_brBoots (s : State) (k : Nat) (f : Kernel → Kernel) : (s.updKernel k f).brBoots = s.brBoots := rfl
@[simp] theorem State.updKernel_image (s : State) (k : Nat) (f : Kernel → Kernel) : (s.updKernel k f).image = s.image := rfl
@[simp] theorem State.updKernel_nextImage (s : State) (k : Nat) (f : Kernel → Kernel) : (s.updKernel k f).nextImage = s.nextImage := rfl
@[simp] theorem State.updKernel_refCycle (s : State) (k : Nat) (f : Kernel → Kernel) : (s.updKernel k f).refCycle = s.refCycle := rfl
@[simp] theorem State.updKernel_cxstsCtx (s : State) (k : Nat) (f : Kernel → Kernel) : (s.updKernel k f).cxstsCtx = s.cxstsCtx := rfl
@[simp] theorem State.updKernel_cxstsRes (s : State) (k : Nat) (f : Kernel → Kernel) : (s.updKernel k f).cxstsRes = s.cxstsRes := rfl
@[simp] theorem State.updKernel_cmds (s : State) (k : Nat) (f : Kernel → Kernel) : (s.updKernel k f).cmds = s.cmds := rfl
@[simp] theorem State.updKernel_qctlRes (s : State) (k : Nat) (f : Kernel → Kernel) : (s.updKernel k f).qctlRes = s.qctlRes := rfl
@[simp] theorem State.updKernel_drstRes (s : State) (k : Nat) (f : Kernel → Kernel) : (s.updKernel k f).drstRes = s.drstRes := rfl
@[simp] theorem State.updKernel_dbgsel (s : State) (k : Nat) (f : Kernel → Kernel) : (s.updKernel k f).dbgsel = s.dbgsel := rfl
@[simp] theorem State.updKernel_dbgdat (s : State) (k : Nat) (f : Kernel → Kernel) : (s.updKernel k f).dbgdat = s.dbgdat := rfl
@[simp] theorem State.updKernel_lmbase (s : State) (k : Nat) (f : Kernel → Kernel) : (s.updKernel k f).lmbase = s.lmbase := rfl
@[simp] theorem State.updKernel_badacc (s : State) (k : Nat) (f : Kernel → Kernel) : (s.updKernel k f).badacc = s.badacc := rfl
@[simp] theorem State.updKernel_devnum (s : State) (k : Nat) (f : Kernel → Kernel) : (s.updKernel k f).devnum = s.devnum := rfl
@[simp] theorem State.updKernel_bridge (s : State) (k : Nat) (f : Kernel → Kernel) : (s.updKernel k f).bridge = s.bridge := rfl
@[simp] theorem State.updKernel_hostfn (s : State) (k : Nat) (f : Kernel → Kernel) : (s.updKernel k f).hostfn = s.hostfn := rfl
@[simp] theorem State.updKernel_pcieOff (s : State) (k : Nat) (f : Kernel → Kernel) : (s.updKernel k f).pcieOff = s.pcieOff := rfl
@[simp] theorem State.updKernel_hostAtomics (s : State) (k : Nat) (f : Kernel → Kernel) : (s.updKernel k f).hostAtomics = s.hostAtomics := rfl
@[simp] theorem State.updKernel_ctxBase (s : State) (k : Nat) (f : Kernel → Kernel) : (s.updKernel k f).ctxBase = s.ctxBase := rfl
@[simp] theorem State.updKernel_qBase (s : State) (k : Nat) (f : Kernel → Kernel) : (s.updKernel k f).qBase = s.qBase := rfl
@[simp] theorem State.updKernel_dbBase (s : State) (k : Nat) (f : Kernel → Kernel) : (s.updKernel k f).dbBase = s.dbBase := rfl
@[simp] theorem State.updKernel_hbm (s : State) (k : Nat) (f : Kernel → Kernel) : (s.updKernel k f).hbm = s.hbm := rfl
@[simp] theorem State.updKernel_opReq (s : State) (k : Nat) (f : Kernel → Kernel) : (s.updKernel k f).opReq = s.opReq := rfl
@[simp] theorem State.updKernel_opPower (s : State) (k : Nat) (f : Kernel → Kernel) : (s.updKernel k f).opPower = s.opPower := rfl
@[simp] theorem State.updKernel_opUse (s : State) (k : Nat) (f : Kernel → Kernel) : (s.updKernel k f).opUse = s.opUse := rfl
@[simp] theorem State.updKernel_opNext (s : State) (k : Nat) (f : Kernel → Kernel) : (s.updKernel k f).opNext = s.opNext := rfl
@[simp] theorem State.updKernel_hist (s : State) (k : Nat) (f : Kernel → Kernel) : (s.updKernel k f).hist = s.hist := rfl
@[simp] theorem State.updKernel_lastPow (s : State) (k : Nat) (f : Kernel → Kernel) : (s.updKernel k f).lastPow = s.lastPow := rfl
@[simp] theorem State.updKernel_epoch (s : State) (k : Nat) (f : Kernel → Kernel) : (s.updKernel k f).epoch = s.epoch := rfl
@[simp] theorem State.updKernel_mem (s : State) (k : Nat) (f : Kernel → Kernel) : (s.updKernel k f).mem = s.mem := rfl
@[simp] theorem State.updKernel_tagBits (s : State) (k : Nat) (f : Kernel → Kernel) : (s.updKernel k f).tagBits = s.tagBits := rfl
@[simp] theorem State.updKernel_gran (s : State) (k : Nat) (f : Kernel → Kernel) : (s.updKernel k f).gran = s.gran := rfl
@[simp] theorem State.updKernel_lineOwner (s : State) (k : Nat) (f : Kernel → Kernel) : (s.updKernel k f).lineOwner = s.lineOwner := rfl
@[simp] theorem State.updKernel_codeOld (s : State) (k : Nat) (f : Kernel → Kernel) : (s.updKernel k f).codeOld = s.codeOld := rfl
@[simp] theorem State.updKernel_poison (s : State) (k : Nat) (f : Kernel → Kernel) : (s.updKernel k f).poison = s.poison := rfl
@[simp] theorem State.updKernel_poisonL2 (s : State) (k : Nat) (f : Kernel → Kernel) : (s.updKernel k f).poisonL2 = s.poisonL2 := rfl
@[simp] theorem State.updKernel_softErrs (s : State) (k : Nat) (f : Kernel → Kernel) : (s.updKernel k f).softErrs = s.softErrs := rfl
@[simp] theorem State.updKernel_softL2 (s : State) (k : Nat) (f : Kernel → Kernel) : (s.updKernel k f).softL2 = s.softL2 := rfl
@[simp] theorem State.updKernel_threads (s : State) (k : Nat) (f : Kernel → Kernel) : (s.updKernel k f).threads = s.threads := rfl
@[simp] theorem State.updKernel_gangs (s : State) (k : Nat) (f : Kernel → Kernel) : (s.updKernel k f).gangs = s.gangs := rfl
@[simp] theorem State.updKernel_insts (s : State) (k : Nat) (f : Kernel → Kernel) : (s.updKernel k f).insts = s.insts := rfl
@[simp] theorem State.updKernel_instNext (s : State) (k : Nat) (f : Kernel → Kernel) : (s.updKernel k f).instNext = s.instNext := rfl
@[simp] theorem State.updKernel_cores (s : State) (k : Nat) (f : Kernel → Kernel) : (s.updKernel k f).cores = s.cores := rfl
@[simp] theorem State.updKernel_ctxs (s : State) (k : Nat) (f : Kernel → Kernel) : (s.updKernel k f).ctxs = s.ctxs := rfl
@[simp] theorem State.updKernel_queues (s : State) (k : Nat) (f : Kernel → Kernel) : (s.updKernel k f).queues = s.queues := rfl
@[simp] theorem State.updKernel_kernels (s : State) (k : Nat) (f : Kernel → Kernel) : (s.updKernel k f).kernels = s.kernels.upd k f := rfl
@[simp] theorem State.updKernel_kernNext (s : State) (k : Nat) (f : Kernel → Kernel) : (s.updKernel k f).kernNext = s.kernNext := rfl
@[simp] theorem State.updKernel_conduits (s : State) (k : Nat) (f : Kernel → Kernel) : (s.updKernel k f).conduits = s.conduits := rfl
@[simp] theorem State.updKernel_cdNext (s : State) (k : Nat) (f : Kernel → Kernel) : (s.updKernel k f).cdNext = s.cdNext := rfl
@[simp] theorem State.updKernel_walkNext (s : State) (k : Nat) (f : Kernel → Kernel) : (s.updKernel k f).walkNext = s.walkNext := rfl
@[simp] theorem State.updKernel_issueNo (s : State) (k : Nat) (f : Kernel → Kernel) : (s.updKernel k f).issueNo = s.issueNo := rfl
@[simp] theorem State.updKernel_dies (s : State) (k : Nat) (f : Kernel → Kernel) : (s.updKernel k f).dies = s.dies := rfl
@[simp] theorem State.updKernel_bridges (s : State) (k : Nat) (f : Kernel → Kernel) : (s.updKernel k f).bridges = s.bridges := rfl
@[simp] theorem State.updKernel_ports (s : State) (k : Nat) (f : Kernel → Kernel) : (s.updKernel k f).ports = s.ports := rfl
@[simp] theorem State.updKernel_routes (s : State) (k : Nat) (f : Kernel → Kernel) : (s.updKernel k f).routes = s.routes := rfl
@[simp] theorem State.updKernel_waitDev (s : State) (k : Nat) (f : Kernel → Kernel) : (s.updKernel k f).waitDev = s.waitDev := rfl
@[simp] theorem State.updKernel_mcwins (s : State) (k : Nat) (f : Kernel → Kernel) : (s.updKernel k f).mcwins = s.mcwins := rfl
@[simp] theorem State.updKernel_outq (s : State) (k : Nat) (f : Kernel → Kernel) : (s.updKernel k f).outq = s.outq := rfl
@[simp] theorem State.updKernel_early (s : State) (k : Nat) (f : Kernel → Kernel) : (s.updKernel k f).early = s.early := rfl
@[simp] theorem State.updKernel_esend (s : State) (k : Nat) (f : Kernel → Kernel) : (s.updKernel k f).esend = s.esend := rfl
@[simp] theorem State.updKernel_erecv (s : State) (k : Nat) (f : Kernel → Kernel) : (s.updKernel k f).erecv = s.erecv := rfl
@[simp] theorem State.updKernel_eresp (s : State) (k : Nat) (f : Kernel → Kernel) : (s.updKernel k f).eresp = s.eresp := rfl
@[simp] theorem State.updKernel_remops (s : State) (k : Nat) (f : Kernel → Kernel) : (s.updKernel k f).remops = s.remops := rfl
@[simp] theorem State.updKernel_remNext (s : State) (k : Nat) (f : Kernel → Kernel) : (s.updKernel k f).remNext = s.remNext := rfl
@[simp] theorem State.updKernel_ppGot (s : State) (k : Nat) (f : Kernel → Kernel) : (s.updKernel k f).ppGot = s.ppGot := rfl
@[simp] theorem State.updKernel_invals (s : State) (k : Nat) (f : Kernel → Kernel) : (s.updKernel k f).invals = s.invals := rfl
@[simp] theorem State.updKernel_invNext (s : State) (k : Nat) (f : Kernel → Kernel) : (s.updKernel k f).invNext = s.invNext := rfl
@[simp] theorem State.updKernel_spdm (s : State) (k : Nat) (f : Kernel → Kernel) : (s.updKernel k f).spdm = s.spdm := rfl
@[simp] theorem State.updKernel_hostOut (s : State) (k : Nat) (f : Kernel → Kernel) : (s.updKernel k f).hostOut = s.hostOut := rfl
@[simp] theorem State.updKernel_opLow (s : State) (k : Nat) (f : Kernel → Kernel) : (s.updKernel k f).opLow = s.opLow := rfl
@[simp] theorem State.updKernel_hbmFail (s : State) (k : Nat) (f : Kernel → Kernel) : (s.updKernel k f).hbmFail = s.hbmFail := rfl
@[simp] theorem State.updKernel_funcs (s : State) (k : Nat) (f : Kernel → Kernel) : (s.updKernel k f).funcs = s.funcs := rfl
@[simp] theorem State.updKernel_hostPend (s : State) (k : Nat) (f : Kernel → Kernel) : (s.updKernel k f).hostPend = s.hostPend := rfl
@[simp] theorem State.updKernel_parked (s : State) (k : Nat) (f : Kernel → Kernel) : (s.updKernel k f).parked = s.parked := rfl

@[simp] theorem State.updInst_agenda (s : State) (i : Nat) (f : GInst → GInst) : (s.updInst i f).agenda = s.agenda := rfl
@[simp] theorem State.updInst_cur (s : State) (i : Nat) (f : GInst → GInst) : (s.updInst i f).cur = s.cur := rfl
@[simp] theorem State.updInst_free (s : State) (i : Nat) (f : GInst → GInst) : (s.updInst i f).free = s.free := rfl
@[simp] theorem State.updInst_off (s : State) (i : Nat) (f : GInst → GInst) : (s.updInst i f).off = s.off := rfl
@[simp] theorem State.updInst_down (s : State) (i : Nat) (f : GInst → GInst) : (s.updInst i f).down = s.down := rfl
@[simp] theorem State.updInst_recovery (s : State) (i : Nat) (f : GInst → GInst) : (s.updInst i f).recovery = s.recovery := rfl
@[simp] theorem State.updInst_boot (s : State) (i : Nat) (f : GInst → GInst) : (s.updInst i f).boot = s.boot := rfl
@[simp] theorem State.updInst_brFail (s : State) (i : Nat) (f : GInst → GInst) : (s.updInst i f).brFail = s.brFail := rfl
@[simp] theorem State.updInst_brLast (s : State) (i : Nat) (f : GInst → GInst) : (s.updInst i f).brLast = s.brLast := rfl
@[simp] theorem State.updInst_brBoots (s : State) (i : Nat) (f : GInst → GInst) : (s.updInst i f).brBoots = s.brBoots := rfl
@[simp] theorem State.updInst_image (s : State) (i : Nat) (f : GInst → GInst) : (s.updInst i f).image = s.image := rfl
@[simp] theorem State.updInst_nextImage (s : State) (i : Nat) (f : GInst → GInst) : (s.updInst i f).nextImage = s.nextImage := rfl
@[simp] theorem State.updInst_refCycle (s : State) (i : Nat) (f : GInst → GInst) : (s.updInst i f).refCycle = s.refCycle := rfl
@[simp] theorem State.updInst_cxstsCtx (s : State) (i : Nat) (f : GInst → GInst) : (s.updInst i f).cxstsCtx = s.cxstsCtx := rfl
@[simp] theorem State.updInst_cxstsRes (s : State) (i : Nat) (f : GInst → GInst) : (s.updInst i f).cxstsRes = s.cxstsRes := rfl
@[simp] theorem State.updInst_cmds (s : State) (i : Nat) (f : GInst → GInst) : (s.updInst i f).cmds = s.cmds := rfl
@[simp] theorem State.updInst_qctlRes (s : State) (i : Nat) (f : GInst → GInst) : (s.updInst i f).qctlRes = s.qctlRes := rfl
@[simp] theorem State.updInst_drstRes (s : State) (i : Nat) (f : GInst → GInst) : (s.updInst i f).drstRes = s.drstRes := rfl
@[simp] theorem State.updInst_dbgsel (s : State) (i : Nat) (f : GInst → GInst) : (s.updInst i f).dbgsel = s.dbgsel := rfl
@[simp] theorem State.updInst_dbgdat (s : State) (i : Nat) (f : GInst → GInst) : (s.updInst i f).dbgdat = s.dbgdat := rfl
@[simp] theorem State.updInst_lmbase (s : State) (i : Nat) (f : GInst → GInst) : (s.updInst i f).lmbase = s.lmbase := rfl
@[simp] theorem State.updInst_badacc (s : State) (i : Nat) (f : GInst → GInst) : (s.updInst i f).badacc = s.badacc := rfl
@[simp] theorem State.updInst_devnum (s : State) (i : Nat) (f : GInst → GInst) : (s.updInst i f).devnum = s.devnum := rfl
@[simp] theorem State.updInst_bridge (s : State) (i : Nat) (f : GInst → GInst) : (s.updInst i f).bridge = s.bridge := rfl
@[simp] theorem State.updInst_hostfn (s : State) (i : Nat) (f : GInst → GInst) : (s.updInst i f).hostfn = s.hostfn := rfl
@[simp] theorem State.updInst_pcieOff (s : State) (i : Nat) (f : GInst → GInst) : (s.updInst i f).pcieOff = s.pcieOff := rfl
@[simp] theorem State.updInst_hostAtomics (s : State) (i : Nat) (f : GInst → GInst) : (s.updInst i f).hostAtomics = s.hostAtomics := rfl
@[simp] theorem State.updInst_ctxBase (s : State) (i : Nat) (f : GInst → GInst) : (s.updInst i f).ctxBase = s.ctxBase := rfl
@[simp] theorem State.updInst_qBase (s : State) (i : Nat) (f : GInst → GInst) : (s.updInst i f).qBase = s.qBase := rfl
@[simp] theorem State.updInst_dbBase (s : State) (i : Nat) (f : GInst → GInst) : (s.updInst i f).dbBase = s.dbBase := rfl
@[simp] theorem State.updInst_hbm (s : State) (i : Nat) (f : GInst → GInst) : (s.updInst i f).hbm = s.hbm := rfl
@[simp] theorem State.updInst_opReq (s : State) (i : Nat) (f : GInst → GInst) : (s.updInst i f).opReq = s.opReq := rfl
@[simp] theorem State.updInst_opPower (s : State) (i : Nat) (f : GInst → GInst) : (s.updInst i f).opPower = s.opPower := rfl
@[simp] theorem State.updInst_opUse (s : State) (i : Nat) (f : GInst → GInst) : (s.updInst i f).opUse = s.opUse := rfl
@[simp] theorem State.updInst_opNext (s : State) (i : Nat) (f : GInst → GInst) : (s.updInst i f).opNext = s.opNext := rfl
@[simp] theorem State.updInst_hist (s : State) (i : Nat) (f : GInst → GInst) : (s.updInst i f).hist = s.hist := rfl
@[simp] theorem State.updInst_lastPow (s : State) (i : Nat) (f : GInst → GInst) : (s.updInst i f).lastPow = s.lastPow := rfl
@[simp] theorem State.updInst_epoch (s : State) (i : Nat) (f : GInst → GInst) : (s.updInst i f).epoch = s.epoch := rfl
@[simp] theorem State.updInst_mem (s : State) (i : Nat) (f : GInst → GInst) : (s.updInst i f).mem = s.mem := rfl
@[simp] theorem State.updInst_tagBits (s : State) (i : Nat) (f : GInst → GInst) : (s.updInst i f).tagBits = s.tagBits := rfl
@[simp] theorem State.updInst_gran (s : State) (i : Nat) (f : GInst → GInst) : (s.updInst i f).gran = s.gran := rfl
@[simp] theorem State.updInst_lineOwner (s : State) (i : Nat) (f : GInst → GInst) : (s.updInst i f).lineOwner = s.lineOwner := rfl
@[simp] theorem State.updInst_codeOld (s : State) (i : Nat) (f : GInst → GInst) : (s.updInst i f).codeOld = s.codeOld := rfl
@[simp] theorem State.updInst_poison (s : State) (i : Nat) (f : GInst → GInst) : (s.updInst i f).poison = s.poison := rfl
@[simp] theorem State.updInst_poisonL2 (s : State) (i : Nat) (f : GInst → GInst) : (s.updInst i f).poisonL2 = s.poisonL2 := rfl
@[simp] theorem State.updInst_softErrs (s : State) (i : Nat) (f : GInst → GInst) : (s.updInst i f).softErrs = s.softErrs := rfl
@[simp] theorem State.updInst_softL2 (s : State) (i : Nat) (f : GInst → GInst) : (s.updInst i f).softL2 = s.softL2 := rfl
@[simp] theorem State.updInst_threads (s : State) (i : Nat) (f : GInst → GInst) : (s.updInst i f).threads = s.threads := rfl
@[simp] theorem State.updInst_gangs (s : State) (i : Nat) (f : GInst → GInst) : (s.updInst i f).gangs = s.gangs := rfl
@[simp] theorem State.updInst_insts (s : State) (i : Nat) (f : GInst → GInst) : (s.updInst i f).insts = s.insts.upd i f := rfl
@[simp] theorem State.updInst_instNext (s : State) (i : Nat) (f : GInst → GInst) : (s.updInst i f).instNext = s.instNext := rfl
@[simp] theorem State.updInst_cores (s : State) (i : Nat) (f : GInst → GInst) : (s.updInst i f).cores = s.cores := rfl
@[simp] theorem State.updInst_ctxs (s : State) (i : Nat) (f : GInst → GInst) : (s.updInst i f).ctxs = s.ctxs := rfl
@[simp] theorem State.updInst_queues (s : State) (i : Nat) (f : GInst → GInst) : (s.updInst i f).queues = s.queues := rfl
@[simp] theorem State.updInst_kernels (s : State) (i : Nat) (f : GInst → GInst) : (s.updInst i f).kernels = s.kernels := rfl
@[simp] theorem State.updInst_kernNext (s : State) (i : Nat) (f : GInst → GInst) : (s.updInst i f).kernNext = s.kernNext := rfl
@[simp] theorem State.updInst_conduits (s : State) (i : Nat) (f : GInst → GInst) : (s.updInst i f).conduits = s.conduits := rfl
@[simp] theorem State.updInst_cdNext (s : State) (i : Nat) (f : GInst → GInst) : (s.updInst i f).cdNext = s.cdNext := rfl
@[simp] theorem State.updInst_walkNext (s : State) (i : Nat) (f : GInst → GInst) : (s.updInst i f).walkNext = s.walkNext := rfl
@[simp] theorem State.updInst_issueNo (s : State) (i : Nat) (f : GInst → GInst) : (s.updInst i f).issueNo = s.issueNo := rfl
@[simp] theorem State.updInst_dies (s : State) (i : Nat) (f : GInst → GInst) : (s.updInst i f).dies = s.dies := rfl
@[simp] theorem State.updInst_bridges (s : State) (i : Nat) (f : GInst → GInst) : (s.updInst i f).bridges = s.bridges := rfl
@[simp] theorem State.updInst_ports (s : State) (i : Nat) (f : GInst → GInst) : (s.updInst i f).ports = s.ports := rfl
@[simp] theorem State.updInst_routes (s : State) (i : Nat) (f : GInst → GInst) : (s.updInst i f).routes = s.routes := rfl
@[simp] theorem State.updInst_waitDev (s : State) (i : Nat) (f : GInst → GInst) : (s.updInst i f).waitDev = s.waitDev := rfl
@[simp] theorem State.updInst_mcwins (s : State) (i : Nat) (f : GInst → GInst) : (s.updInst i f).mcwins = s.mcwins := rfl
@[simp] theorem State.updInst_outq (s : State) (i : Nat) (f : GInst → GInst) : (s.updInst i f).outq = s.outq := rfl
@[simp] theorem State.updInst_early (s : State) (i : Nat) (f : GInst → GInst) : (s.updInst i f).early = s.early := rfl
@[simp] theorem State.updInst_esend (s : State) (i : Nat) (f : GInst → GInst) : (s.updInst i f).esend = s.esend := rfl
@[simp] theorem State.updInst_erecv (s : State) (i : Nat) (f : GInst → GInst) : (s.updInst i f).erecv = s.erecv := rfl
@[simp] theorem State.updInst_eresp (s : State) (i : Nat) (f : GInst → GInst) : (s.updInst i f).eresp = s.eresp := rfl
@[simp] theorem State.updInst_remops (s : State) (i : Nat) (f : GInst → GInst) : (s.updInst i f).remops = s.remops := rfl
@[simp] theorem State.updInst_remNext (s : State) (i : Nat) (f : GInst → GInst) : (s.updInst i f).remNext = s.remNext := rfl
@[simp] theorem State.updInst_ppGot (s : State) (i : Nat) (f : GInst → GInst) : (s.updInst i f).ppGot = s.ppGot := rfl
@[simp] theorem State.updInst_invals (s : State) (i : Nat) (f : GInst → GInst) : (s.updInst i f).invals = s.invals := rfl
@[simp] theorem State.updInst_invNext (s : State) (i : Nat) (f : GInst → GInst) : (s.updInst i f).invNext = s.invNext := rfl
@[simp] theorem State.updInst_spdm (s : State) (i : Nat) (f : GInst → GInst) : (s.updInst i f).spdm = s.spdm := rfl
@[simp] theorem State.updInst_hostOut (s : State) (i : Nat) (f : GInst → GInst) : (s.updInst i f).hostOut = s.hostOut := rfl
@[simp] theorem State.updInst_opLow (s : State) (i : Nat) (f : GInst → GInst) : (s.updInst i f).opLow = s.opLow := rfl
@[simp] theorem State.updInst_hbmFail (s : State) (i : Nat) (f : GInst → GInst) : (s.updInst i f).hbmFail = s.hbmFail := rfl
@[simp] theorem State.updInst_funcs (s : State) (i : Nat) (f : GInst → GInst) : (s.updInst i f).funcs = s.funcs := rfl
@[simp] theorem State.updInst_hostPend (s : State) (i : Nat) (f : GInst → GInst) : (s.updInst i f).hostPend = s.hostPend := rfl
@[simp] theorem State.updInst_parked (s : State) (i : Nat) (f : GInst → GInst) : (s.updInst i f).parked = s.parked := rfl

end Sys2Proof.Machine
end

