-- ==== Sys2Proof/Laws/Phys.lean ====
section
/-! SUPPORT. What a write of physical memory changes: the bytes, and the flits that multicast windows send. -/

namespace Sys2Proof.Machine

open Sys2Proof

/-- Sending to the members of a window changes the contexts' counters and the flits that wait, nothing else. -/
theorem State.mcSend_shape (c la mask data win : Nat) (ps : List Nat) : ∀ (s : State),
    ∃ x o e, s.mcSend c la mask data win ps = { s with ctxs := x, outq := o, esend := e } := by
  induction ps with
  | nil => intro s; exact ⟨s.ctxs, s.outq, s.esend, rfl⟩
  | cons p ps ih =>
    intro s
    simp only [State.mcSend]
    split
    · exact ih s
    · split
      · obtain ⟨x, o, e, h⟩ := ih { s with ctxs := s.ctxs.put c { ((s.ctxs.find c).getD Ctx.init) with refused := satAdd ((s.ctxs.find c).getD Ctx.init).refused 1 32 } }
        exact ⟨x, o, e, h⟩
      · obtain ⟨x, o, e, h⟩ := ih (s.sendReq p c 6 (writePayload la mask 0 data 0 win))
        exact ⟨x, o, e, h⟩

theorem State.multicast_shape (c la mask data : Nat) (ws : AMap Nat) : ∀ (s : State),
    ∃ x o e, s.multicast c la mask data ws = { s with ctxs := x, outq := o, esend := e } := by
  induction ws with
  | nil => intro s; exact ⟨s.ctxs, s.outq, s.esend, rfl⟩
  | cons w ws ih =>
    intro s
    simp only [State.multicast]
    split
    · obtain ⟨x, o, e, h⟩ := State.mcSend_shape c la mask data w.1 (maskList (bits w.2 127 64)) s
      rw [h]
      obtain ⟨x', o', e', h'⟩ := ih { s with ctxs := x, outq := o, esend := e }
      exact ⟨x', o', e', h'⟩
    · exact ih s

theorem State.multicastRange_shape (c pa v : Nat) (qs : List (Nat × Nat)) : ∀ (s : State),
    ∃ x o e, s.multicastRange c pa v qs = { s with ctxs := x, outq := o, esend := e } := by
  induction qs with
  | nil => intro s; exact ⟨s.ctxs, s.outq, s.esend, rfl⟩
  | cons q qs ih =>
    intro s
    simp only [State.multicastRange]
    obtain ⟨x, o, e, h⟩ := State.multicast_shape c (q.1 - q.1 % 128) (ones q.2 * 2 ^ (q.1 % 128))
      (v / 2 ^ (8 * (q.1 - pa)) % 2 ^ (8 * q.2) * 2 ^ (8 * (q.1 % 128))) s.mcwins s
    rw [h]
    obtain ⟨x', o', e', h'⟩ := ih { s with ctxs := x, outq := o, esend := e }
    exact ⟨x', o', e', h'⟩

/-- A physical write changes memory and what is kept of the words it replaces (R26), and through multicast the contexts' counters and the
flits that wait, nothing else. -/
theorem State.physSet_shape (s : State) (c n pa v : Nat) :
    ∃ x o e k, s.physSet c n pa v =
      { s with mem := Memory.setBytes s.mem pa (leBytes n v), codeOld := k, ctxs := x, outq := o, esend := e } := by
  simp only [State.physSet]
  split
  · exact ⟨s.ctxs, s.outq, s.esend, _, rfl⟩
  · obtain ⟨x, o, e, h⟩ := State.multicastRange_shape c pa v (lineChunks (n / 128 + 2) pa n) (s.withBytes n pa v)
    exact ⟨x, o, e, _, h⟩

@[simp] theorem State.physSet_mem (s : State) (c n pa v : Nat) :
    (s.physSet c n pa v).mem = Memory.setBytes s.mem pa (leBytes n v) := by
  obtain ⟨x, o, e, k, h⟩ := s.physSet_shape c n pa v; rw [h]

/-- Without multicast windows nothing else changes. -/
theorem State.physSet_plain {s : State} (h : s.mcwins = []) (c n pa v : Nat) :
    s.physSet c n pa v = s.withBytes n pa v := by
  simp only [State.physSet]
  exact if_pos (by simp [State.withBytes, h])

/-- A physical write keeps the canonical form of memory. -/
theorem State.physSet_wf {s : State} (h : Memory.wf s.mem = true) (c n pa v : Nat) :
    Memory.wf (s.physSet c n pa v).mem = true := by
  rw [State.physSet_mem]; exact Memory.wf_setBytes h

@[simp] theorem State.physSet_agenda (s : State) (c n pa v : Nat) : (s.physSet c n pa v).agenda = s.agenda := by
  obtain ⟨x, o, e, k, h⟩ := s.physSet_shape c n pa v; rw [h]
@[simp] theorem State.physSet_cur (s : State) (c n pa v : Nat) : (s.physSet c n pa v).cur = s.cur := by
  obtain ⟨x, o, e, k, h⟩ := s.physSet_shape c n pa v; rw [h]
@[simp] theorem State.physSet_free (s : State) (c n pa v : Nat) : (s.physSet c n pa v).free = s.free := by
  obtain ⟨x, o, e, k, h⟩ := s.physSet_shape c n pa v; rw [h]
@[simp] theorem State.physSet_off (s : State) (c n pa v : Nat) : (s.physSet c n pa v).off = s.off := by
  obtain ⟨x, o, e, k, h⟩ := s.physSet_shape c n pa v; rw [h]
@[simp] theorem State.physSet_down (s : State) (c n pa v : Nat) : (s.physSet c n pa v).down = s.down := by
  obtain ⟨x, o, e, k, h⟩ := s.physSet_shape c n pa v; rw [h]
@[simp] theorem State.physSet_recovery (s : State) (c n pa v : Nat) : (s.physSet c n pa v).recovery = s.recovery := by
  obtain ⟨x, o, e, k, h⟩ := s.physSet_shape c n pa v; rw [h]
@[simp] theorem State.physSet_boot (s : State) (c n pa v : Nat) : (s.physSet c n pa v).boot = s.boot := by
  obtain ⟨x, o, e, k, h⟩ := s.physSet_shape c n pa v; rw [h]
@[simp] theorem State.physSet_brFail (s : State) (c n pa v : Nat) : (s.physSet c n pa v).brFail = s.brFail := by
  obtain ⟨x, o, e, k, h⟩ := s.physSet_shape c n pa v; rw [h]
@[simp] theorem State.physSet_brLast (s : State) (c n pa v : Nat) : (s.physSet c n pa v).brLast = s.brLast := by
  obtain ⟨x, o, e, k, h⟩ := s.physSet_shape c n pa v; rw [h]
@[simp] theorem State.physSet_brBoots (s : State) (c n pa v : Nat) : (s.physSet c n pa v).brBoots = s.brBoots := by
  obtain ⟨x, o, e, k, h⟩ := s.physSet_shape c n pa v; rw [h]
@[simp] theorem State.physSet_image (s : State) (c n pa v : Nat) : (s.physSet c n pa v).image = s.image := by
  obtain ⟨x, o, e, k, h⟩ := s.physSet_shape c n pa v; rw [h]
@[simp] theorem State.physSet_nextImage (s : State) (c n pa v : Nat) : (s.physSet c n pa v).nextImage = s.nextImage := by
  obtain ⟨x, o, e, k, h⟩ := s.physSet_shape c n pa v; rw [h]
@[simp] theorem State.physSet_refCycle (s : State) (c n pa v : Nat) : (s.physSet c n pa v).refCycle = s.refCycle := by
  obtain ⟨x, o, e, k, h⟩ := s.physSet_shape c n pa v; rw [h]
@[simp] theorem State.physSet_cxstsCtx (s : State) (c n pa v : Nat) : (s.physSet c n pa v).cxstsCtx = s.cxstsCtx := by
  obtain ⟨x, o, e, k, h⟩ := s.physSet_shape c n pa v; rw [h]
@[simp] theorem State.physSet_cxstsRes (s : State) (c n pa v : Nat) : (s.physSet c n pa v).cxstsRes = s.cxstsRes := by
  obtain ⟨x, o, e, k, h⟩ := s.physSet_shape c n pa v; rw [h]
@[simp] theorem State.physSet_cmds (s : State) (c n pa v : Nat) : (s.physSet c n pa v).cmds = s.cmds := by
  obtain ⟨x, o, e, k, h⟩ := s.physSet_shape c n pa v; rw [h]
@[simp] theorem State.physSet_qctlRes (s : State) (c n pa v : Nat) : (s.physSet c n pa v).qctlRes = s.qctlRes := by
  obtain ⟨x, o, e, k, h⟩ := s.physSet_shape c n pa v; rw [h]
@[simp] theorem State.physSet_drstRes (s : State) (c n pa v : Nat) : (s.physSet c n pa v).drstRes = s.drstRes := by
  obtain ⟨x, o, e, k, h⟩ := s.physSet_shape c n pa v; rw [h]
@[simp] theorem State.physSet_dbgsel (s : State) (c n pa v : Nat) : (s.physSet c n pa v).dbgsel = s.dbgsel := by
  obtain ⟨x, o, e, k, h⟩ := s.physSet_shape c n pa v; rw [h]
@[simp] theorem State.physSet_dbgdat (s : State) (c n pa v : Nat) : (s.physSet c n pa v).dbgdat = s.dbgdat := by
  obtain ⟨x, o, e, k, h⟩ := s.physSet_shape c n pa v; rw [h]
@[simp] theorem State.physSet_lmbase (s : State) (c n pa v : Nat) : (s.physSet c n pa v).lmbase = s.lmbase := by
  obtain ⟨x, o, e, k, h⟩ := s.physSet_shape c n pa v; rw [h]
@[simp] theorem State.physSet_badacc (s : State) (c n pa v : Nat) : (s.physSet c n pa v).badacc = s.badacc := by
  obtain ⟨x, o, e, k, h⟩ := s.physSet_shape c n pa v; rw [h]
@[simp] theorem State.physSet_devnum (s : State) (c n pa v : Nat) : (s.physSet c n pa v).devnum = s.devnum := by
  obtain ⟨x, o, e, k, h⟩ := s.physSet_shape c n pa v; rw [h]
@[simp] theorem State.physSet_bridge (s : State) (c n pa v : Nat) : (s.physSet c n pa v).bridge = s.bridge := by
  obtain ⟨x, o, e, k, h⟩ := s.physSet_shape c n pa v; rw [h]
@[simp] theorem State.physSet_hostfn (s : State) (c n pa v : Nat) : (s.physSet c n pa v).hostfn = s.hostfn := by
  obtain ⟨x, o, e, k, h⟩ := s.physSet_shape c n pa v; rw [h]
@[simp] theorem State.physSet_pcieOff (s : State) (c n pa v : Nat) : (s.physSet c n pa v).pcieOff = s.pcieOff := by
  obtain ⟨x, o, e, k, h⟩ := s.physSet_shape c n pa v; rw [h]
@[simp] theorem State.physSet_hostAtomics (s : State) (c n pa v : Nat) : (s.physSet c n pa v).hostAtomics = s.hostAtomics := by
  obtain ⟨x, o, e, k, h⟩ := s.physSet_shape c n pa v; rw [h]
@[simp] theorem State.physSet_ctxBase (s : State) (c n pa v : Nat) : (s.physSet c n pa v).ctxBase = s.ctxBase := by
  obtain ⟨x, o, e, k, h⟩ := s.physSet_shape c n pa v; rw [h]
@[simp] theorem State.physSet_qBase (s : State) (c n pa v : Nat) : (s.physSet c n pa v).qBase = s.qBase := by
  obtain ⟨x, o, e, k, h⟩ := s.physSet_shape c n pa v; rw [h]
@[simp] theorem State.physSet_dbBase (s : State) (c n pa v : Nat) : (s.physSet c n pa v).dbBase = s.dbBase := by
  obtain ⟨x, o, e, k, h⟩ := s.physSet_shape c n pa v; rw [h]
@[simp] theorem State.physSet_hbm (s : State) (c n pa v : Nat) : (s.physSet c n pa v).hbm = s.hbm := by
  obtain ⟨x, o, e, k, h⟩ := s.physSet_shape c n pa v; rw [h]
@[simp] theorem State.physSet_opReq (s : State) (c n pa v : Nat) : (s.physSet c n pa v).opReq = s.opReq := by
  obtain ⟨x, o, e, k, h⟩ := s.physSet_shape c n pa v; rw [h]
@[simp] theorem State.physSet_opPower (s : State) (c n pa v : Nat) : (s.physSet c n pa v).opPower = s.opPower := by
  obtain ⟨x, o, e, k, h⟩ := s.physSet_shape c n pa v; rw [h]
@[simp] theorem State.physSet_opUse (s : State) (c n pa v : Nat) : (s.physSet c n pa v).opUse = s.opUse := by
  obtain ⟨x, o, e, k, h⟩ := s.physSet_shape c n pa v; rw [h]
@[simp] theorem State.physSet_opNext (s : State) (c n pa v : Nat) : (s.physSet c n pa v).opNext = s.opNext := by
  obtain ⟨x, o, e, k, h⟩ := s.physSet_shape c n pa v; rw [h]
@[simp] theorem State.physSet_hist (s : State) (c n pa v : Nat) : (s.physSet c n pa v).hist = s.hist := by
  obtain ⟨x, o, e, k, h⟩ := s.physSet_shape c n pa v; rw [h]
@[simp] theorem State.physSet_lastPow (s : State) (c n pa v : Nat) : (s.physSet c n pa v).lastPow = s.lastPow := by
  obtain ⟨x, o, e, k, h⟩ := s.physSet_shape c n pa v; rw [h]
@[simp] theorem State.physSet_epoch (s : State) (c n pa v : Nat) : (s.physSet c n pa v).epoch = s.epoch := by
  obtain ⟨x, o, e, k, h⟩ := s.physSet_shape c n pa v; rw [h]
@[simp] theorem State.physSet_tagBits (s : State) (c n pa v : Nat) : (s.physSet c n pa v).tagBits = s.tagBits := by
  obtain ⟨x, o, e, k, h⟩ := s.physSet_shape c n pa v; rw [h]
@[simp] theorem State.physSet_gran (s : State) (c n pa v : Nat) : (s.physSet c n pa v).gran = s.gran := by
  obtain ⟨x, o, e, k, h⟩ := s.physSet_shape c n pa v; rw [h]
@[simp] theorem State.physSet_lineOwner (s : State) (c n pa v : Nat) : (s.physSet c n pa v).lineOwner = s.lineOwner := by
  obtain ⟨x, o, e, k, h⟩ := s.physSet_shape c n pa v; rw [h]
@[simp] theorem State.physSet_poison (s : State) (c n pa v : Nat) : (s.physSet c n pa v).poison = s.poison := by
  obtain ⟨x, o, e, k, h⟩ := s.physSet_shape c n pa v; rw [h]
@[simp] theorem State.physSet_poisonL2 (s : State) (c n pa v : Nat) : (s.physSet c n pa v).poisonL2 = s.poisonL2 := by
  obtain ⟨x, o, e, k, h⟩ := s.physSet_shape c n pa v; rw [h]
@[simp] theorem State.physSet_softErrs (s : State) (c n pa v : Nat) : (s.physSet c n pa v).softErrs = s.softErrs := by
  obtain ⟨x, o, e, k, h⟩ := s.physSet_shape c n pa v; rw [h]
@[simp] theorem State.physSet_softL2 (s : State) (c n pa v : Nat) : (s.physSet c n pa v).softL2 = s.softL2 := by
  obtain ⟨x, o, e, k, h⟩ := s.physSet_shape c n pa v; rw [h]
@[simp] theorem State.physSet_threads (s : State) (c n pa v : Nat) : (s.physSet c n pa v).threads = s.threads := by
  obtain ⟨x, o, e, k, h⟩ := s.physSet_shape c n pa v; rw [h]
@[simp] theorem State.physSet_gangs (s : State) (c n pa v : Nat) : (s.physSet c n pa v).gangs = s.gangs := by
  obtain ⟨x, o, e, k, h⟩ := s.physSet_shape c n pa v; rw [h]
@[simp] theorem State.physSet_insts (s : State) (c n pa v : Nat) : (s.physSet c n pa v).insts = s.insts := by
  obtain ⟨x, o, e, k, h⟩ := s.physSet_shape c n pa v; rw [h]
@[simp] theorem State.physSet_instNext (s : State) (c n pa v : Nat) : (s.physSet c n pa v).instNext = s.instNext := by
  obtain ⟨x, o, e, k, h⟩ := s.physSet_shape c n pa v; rw [h]
@[simp] theorem State.physSet_cores (s : State) (c n pa v : Nat) : (s.physSet c n pa v).cores = s.cores := by
  obtain ⟨x, o, e, k, h⟩ := s.physSet_shape c n pa v; rw [h]
@[simp] theorem State.physSet_queues (s : State) (c n pa v : Nat) : (s.physSet c n pa v).queues = s.queues := by
  obtain ⟨x, o, e, k, h⟩ := s.physSet_shape c n pa v; rw [h]
@[simp] theorem State.physSet_kernels (s : State) (c n pa v : Nat) : (s.physSet c n pa v).kernels = s.kernels := by
  obtain ⟨x, o, e, k, h⟩ := s.physSet_shape c n pa v; rw [h]
@[simp] theorem State.physSet_kernNext (s : State) (c n pa v : Nat) : (s.physSet c n pa v).kernNext = s.kernNext := by
  obtain ⟨x, o, e, k, h⟩ := s.physSet_shape c n pa v; rw [h]
@[simp] theorem State.physSet_conduits (s : State) (c n pa v : Nat) : (s.physSet c n pa v).conduits = s.conduits := by
  obtain ⟨x, o, e, k, h⟩ := s.physSet_shape c n pa v; rw [h]
@[simp] theorem State.physSet_cdNext (s : State) (c n pa v : Nat) : (s.physSet c n pa v).cdNext = s.cdNext := by
  obtain ⟨x, o, e, k, h⟩ := s.physSet_shape c n pa v; rw [h]
@[simp] theorem State.physSet_walkNext (s : State) (c n pa v : Nat) : (s.physSet c n pa v).walkNext = s.walkNext := by
  obtain ⟨x, o, e, k, h⟩ := s.physSet_shape c n pa v; rw [h]
@[simp] theorem State.physSet_issueNo (s : State) (c n pa v : Nat) : (s.physSet c n pa v).issueNo = s.issueNo := by
  obtain ⟨x, o, e, k, h⟩ := s.physSet_shape c n pa v; rw [h]
@[simp] theorem State.physSet_dies (s : State) (c n pa v : Nat) : (s.physSet c n pa v).dies = s.dies := by
  obtain ⟨x, o, e, k, h⟩ := s.physSet_shape c n pa v; rw [h]
@[simp] theorem State.physSet_bridges (s : State) (c n pa v : Nat) : (s.physSet c n pa v).bridges = s.bridges := by
  obtain ⟨x, o, e, k, h⟩ := s.physSet_shape c n pa v; rw [h]
@[simp] theorem State.physSet_ports (s : State) (c n pa v : Nat) : (s.physSet c n pa v).ports = s.ports := by
  obtain ⟨x, o, e, k, h⟩ := s.physSet_shape c n pa v; rw [h]
@[simp] theorem State.physSet_routes (s : State) (c n pa v : Nat) : (s.physSet c n pa v).routes = s.routes := by
  obtain ⟨x, o, e, k, h⟩ := s.physSet_shape c n pa v; rw [h]
@[simp] theorem State.physSet_waitDev (s : State) (c n pa v : Nat) : (s.physSet c n pa v).waitDev = s.waitDev := by
  obtain ⟨x, o, e, k, h⟩ := s.physSet_shape c n pa v; rw [h]
@[simp] theorem State.physSet_mcwins (s : State) (c n pa v : Nat) : (s.physSet c n pa v).mcwins = s.mcwins := by
  obtain ⟨x, o, e, k, h⟩ := s.physSet_shape c n pa v; rw [h]
@[simp] theorem State.physSet_early (s : State) (c n pa v : Nat) : (s.physSet c n pa v).early = s.early := by
  obtain ⟨x, o, e, k, h⟩ := s.physSet_shape c n pa v; rw [h]
@[simp] theorem State.physSet_erecv (s : State) (c n pa v : Nat) : (s.physSet c n pa v).erecv = s.erecv := by
  obtain ⟨x, o, e, k, h⟩ := s.physSet_shape c n pa v; rw [h]
@[simp] theorem State.physSet_eresp (s : State) (c n pa v : Nat) : (s.physSet c n pa v).eresp = s.eresp := by
  obtain ⟨x, o, e, k, h⟩ := s.physSet_shape c n pa v; rw [h]
@[simp] theorem State.physSet_remops (s : State) (c n pa v : Nat) : (s.physSet c n pa v).remops = s.remops := by
  obtain ⟨x, o, e, k, h⟩ := s.physSet_shape c n pa v; rw [h]
@[simp] theorem State.physSet_remNext (s : State) (c n pa v : Nat) : (s.physSet c n pa v).remNext = s.remNext := by
  obtain ⟨x, o, e, k, h⟩ := s.physSet_shape c n pa v; rw [h]
@[simp] theorem State.physSet_ppGot (s : State) (c n pa v : Nat) : (s.physSet c n pa v).ppGot = s.ppGot := by
  obtain ⟨x, o, e, k, h⟩ := s.physSet_shape c n pa v; rw [h]
@[simp] theorem State.physSet_invals (s : State) (c n pa v : Nat) : (s.physSet c n pa v).invals = s.invals := by
  obtain ⟨x, o, e, k, h⟩ := s.physSet_shape c n pa v; rw [h]
@[simp] theorem State.physSet_invNext (s : State) (c n pa v : Nat) : (s.physSet c n pa v).invNext = s.invNext := by
  obtain ⟨x, o, e, k, h⟩ := s.physSet_shape c n pa v; rw [h]
@[simp] theorem State.physSet_spdm (s : State) (c n pa v : Nat) : (s.physSet c n pa v).spdm = s.spdm := by
  obtain ⟨x, o, e, k, h⟩ := s.physSet_shape c n pa v; rw [h]
@[simp] theorem State.physSet_hostOut (s : State) (c n pa v : Nat) : (s.physSet c n pa v).hostOut = s.hostOut := by
  obtain ⟨x, o, e, k, h⟩ := s.physSet_shape c n pa v; rw [h]
@[simp] theorem State.physSet_opLow (s : State) (c n pa v : Nat) : (s.physSet c n pa v).opLow = s.opLow := by
  obtain ⟨x, o, e, k, h⟩ := s.physSet_shape c n pa v; rw [h]
@[simp] theorem State.physSet_hbmFail (s : State) (c n pa v : Nat) : (s.physSet c n pa v).hbmFail = s.hbmFail := by
  obtain ⟨x, o, e, k, h⟩ := s.physSet_shape c n pa v; rw [h]
@[simp] theorem State.physSet_funcs (s : State) (c n pa v : Nat) : (s.physSet c n pa v).funcs = s.funcs := by
  obtain ⟨x, o, e, k, h⟩ := s.physSet_shape c n pa v; rw [h]
@[simp] theorem State.physSet_hostPend (s : State) (c n pa v : Nat) : (s.physSet c n pa v).hostPend = s.hostPend := by
  obtain ⟨x, o, e, k, h⟩ := s.physSet_shape c n pa v; rw [h]
@[simp] theorem State.physSet_parked (s : State) (c n pa v : Nat) : (s.physSet c n pa v).parked = s.parked := by
  obtain ⟨x, o, e, k, h⟩ := s.physSet_shape c n pa v; rw [h]

/-! ## A physical write and a change of a thread commute -/

theorem State.mcSend_updThread (c la mask data win t : Nat) (f : Thread → Thread) (ps : List Nat) : ∀ (s : State),
    (s.updThread t f).mcSend c la mask data win ps = (s.mcSend c la mask data win ps).updThread t f := by
  induction ps with
  | nil => intro s; rfl
  | cons p ps ih =>
    intro s
    have hl : (s.updThread t f).lostDev p = s.lostDev p := rfl
    simp only [State.mcSend, hl, State.updThread_devnum, State.updThread_ctxs]
    by_cases h₁ : (p == s.devnum) = true
    · simp only [h₁, if_true]; exact ih s
    · by_cases h₂ : (s.lostDev p || bit ((s.ctxs.find c).getD Ctx.init).fenced p) = true
      · simp only [h₁, h₂, if_true]
        exact ih { s with ctxs := s.ctxs.put c { ((s.ctxs.find c).getD Ctx.init) with refused := satAdd ((s.ctxs.find c).getD Ctx.init).refused 1 32 } }
      · simp only [h₁, h₂]
        exact ih (s.sendReq p c 6 (writePayload la mask 0 data 0 win))

theorem State.multicast_updThread (c la mask data t : Nat) (f : Thread → Thread) (ws : AMap Nat) : ∀ (s : State),
    (s.updThread t f).multicast c la mask data ws = (s.multicast c la mask data ws).updThread t f := by
  induction ws with
  | nil => intro s; rfl
  | cons w ws ih =>
    intro s
    by_cases h : (bit w.2 63 && decide (mcBase w.2 ≤ la) && decide (la < mcBase w.2 + mcLen w.2)) = true
    · simp only [State.multicast, h, if_true, State.mcSend_updThread]; exact ih _
    · simp only [State.multicast, h]; exact ih s

theorem State.multicastRange_updThread (c pa v t : Nat) (f : Thread → Thread) (qs : List (Nat × Nat)) : ∀ (s : State),
    (s.updThread t f).multicastRange c pa v qs = (s.multicastRange c pa v qs).updThread t f := by
  induction qs with
  | nil => intro s; rfl
  | cons q qs ih =>
    intro s
    simp only [State.multicastRange, State.updThread_mcwins, State.multicast_updThread]
    exact ih _

theorem State.oldWords_updThread (s : State) (t : Nat) (f : Thread → Thread) (w : Nat) : ∀ k, (s.updThread t f).oldWords w k = s.oldWords w k
  | 0 => rfl
  | k + 1 => by
    have ih := State.oldWords_updThread s t f w k
    simp only [State.oldWords, ih, State.updThread_kernNext, State.updThread_tagBits]
    rfl

theorem State.withBytes_updThread (s : State) (t : Nat) (f : Thread → Thread) (n pa v : Nat) :
    (s.updThread t f).withBytes n pa v = (s.withBytes n pa v).updThread t f := by
  simp only [State.withBytes, State.noteCode, State.oldWords_updThread, State.updThread_kernels, State.updThread_mem,
    State.updThread_codeOld]
  rfl

theorem State.physSet_updThread (s : State) (t : Nat) (f : Thread → Thread) (c n pa v : Nat) :
    (s.updThread t f).physSet c n pa v = (s.physSet c n pa v).updThread t f := by
  simp only [State.physSet, State.withBytes_updThread, State.updThread_mcwins]
  by_cases h : ((s.withBytes n pa v).mcwins == []) = true
  · simp only [h, if_true]
  · simp only [h]
    exact State.multicastRange_updThread _ _ _ t f _ (s.withBytes n pa v)

theorem State.addTagmis_updThread (s : State) (t : Nat) (f : Thread → Thread) (c : Nat) :
    (s.updThread t f).addTagmis c = (s.addTagmis c).updThread t f := State.physSet_updThread s t f _ _ _ _

@[simp] theorem State.addTagmis_threads (s : State) (c : Nat) : (s.addTagmis c).threads = s.threads :=
  State.physSet_threads s _ _ _ _

end Sys2Proof.Machine
end

