-- ==== Sys2Proof/Laws/Code.lean ====
section
/-! SUPPORT. How a code instruction runs: the monad's operations on a state, the register reads of one instruction, and the
completion of a body. -/

namespace Sys2Proof.Machine

open Sys2Proof

/-! ## The monad -/

theorem bind_run {α β : Type} (m : M α) (f : α → M β) (s : State) :
    (m >>= f) s = match m s with | .ok a s' => f a s' | .error e s' => .error e s' := by
  show EStateM.bind m f s = _
  unfold EStateM.bind
  cases m s <;> rfl

theorem pure_run {α : Type} (a : α) (s : State) : (pure a : M α) s = .ok a s := rfl

theorem get_run (s : State) : (get : M State) s = .ok s s := rfl

theorem set_run (s s' : State) : (set s' : M PUnit) s = .ok ⟨⟩ s' := rfl

theorem modify_run (f : State → State) (s : State) : (modify f : M PUnit) s = .ok ⟨⟩ (f s) := rfl

theorem throw_run {α : Type} (e : Stop) (s : State) : (throw e : M α) s = .error e s := rfl

theorem bind_ok {α β : Type} {m : M α} {f : α → M β} {s s' : State} {a : α} (h : m s = .ok a s') :
    (m >>= f) s = f a s' := by rw [bind_run, h]

/-! ## The current thread -/

theorem curT_run {s : State} {c : Cur} (h : s.cur = some c) : curT s = .ok c.t s := by
  simp only [curT, bind_run, get_run, h, pure_run]

theorem thread_run {s : State} {c : Cur} {th : Thread} (h : s.cur = some c) (ht : s.threads.find c.t = some th) :
    thread s = .ok th s := by
  simp only [thread, bind_run, curT_run h, getThread, get_run, ht, pure_run]

theorem gang_run {s : State} {c : Cur} {g : Gang} (h : s.cur = some c) (hg : s.gangs.find (gidOf c.t) = some g) :
    gang s = .ok g s := by
  simp only [gang, bind_run, curT_run h, getGang, get_run, hg, pure_run]

theorem modThread_run {s : State} {c : Cur} (h : s.cur = some c) (f : Thread → Thread) :
    modThread f s = .ok ⟨⟩ (s.updThread c.t f) := by
  simp only [modThread, bind_run, curT_run h, modify_run]

/-! ## Register reads -/

/-- Every buffered word is what a read gives, and what the read noted is noted. -/
def State.Agrees (s : State) (t : Nat) (B : AMap TWord) (z m : Bool) : Prop :=
  ∀ i ts w, B.find (16 * i + TagSet.code ts) = some w →
    ∃ z' m', s.src t i ts = some (w, z', m') ∧ (z' = true → z = true) ∧ (m' = true → m = true)

theorem State.agrees_nil (s : State) (t : Nat) (z m : Bool) : s.Agrees t [] z m := by
  intro i ts w h; simp [AMap.find] at h

theorem TagSet.code_lt (ts : TagSet) : ts.code < 16 := by cases ts <;> decide

theorem TagSet.code_inj {a b : TagSet} (h : a.code = b.code) : a = b := by
  cases a <;> cases b <;> first | rfl | (simp [TagSet.code] at h)

theorem State.reading_reading (s : State) (t : Nat) (B B' : AMap TWord) (z m z' m' : Bool) :
    (s.reading t B z m).reading t B' z' m' = s.reading t B' (z || z') (m || m') := by
  simp only [State.reading, State.updThread, AMap.upd_upd, Bool.or_assoc]

theorem State.src_updThread (s : State) (t u : Nat) (f : Thread → Thread) (i : Nat) (ts : TagSet) :
    (s.updThread t f).src u i ts = s.src u i ts := rfl

@[simp] theorem State.reading_cur (s : State) (t : Nat) (B : AMap TWord) (z m : Bool) : (s.reading t B z m).cur = s.cur := rfl
@[simp] theorem State.reading_gangs (s : State) (t : Nat) (B : AMap TWord) (z m : Bool) :
    (s.reading t B z m).gangs = s.gangs := rfl

/-- A word without a correctable error is read as it stands (R401). -/
theorem State.cureReg_hard {s : State} {t i : Nat} (h : s.softReg t i = false) : s.cureReg t i = s := by simp [State.cureReg, h]

/-- What a read gives without a stop has no correctable error. -/
theorem State.src_hard {s : State} {t i : Nat} {ts : TagSet} {r : TWord × Bool × Bool} (h : s.src t i ts = some r) :
    s.softReg t i = false := by
  cases e : s.softReg t i
  · rfl
  · simp [State.src, e] at h

/-- A register read of an instruction that issues for the first time: it gives the word, whether or not the buffer has it. -/
theorem readReg_reading {s : State} {c : Cur} {th : Thread} {B : AMap TWord} {z m : Bool} {i : Nat} {ts : TagSet} {w : TWord}
    {z' m' : Bool} (h : s.cur = some c) (ht : s.threads.find c.t = some th) (hb : s.Agrees c.t B z m)
    (hs : s.src c.t i ts = some (w, z', m')) :
    ∃ B', readReg i ts (s.reading c.t B z m) = .ok w (s.reading c.t B' (z || z') (m || m')) ∧
      s.Agrees c.t B' (z || z') (m || m') := by
  have hc : (s.reading c.t B z m).cur = some c := h
  have ht' : (s.reading c.t B z m).threads.find c.t =
      some { th with opbuf := B, pendLapf := th.pendLapf || z, pendMis := th.pendMis || m } := by
    simp [State.reading, ht]
  simp only [readReg, bind_run, curT_run hc, thread_run hc ht']
  cases hf : B.find (16 * i + ts.code) with
  | some v =>
    obtain ⟨z₁, m₁, h₁, hz, hm⟩ := hb i ts v hf
    rw [hs] at h₁
    obtain ⟨rfl, rfl, rfl⟩ : w = v ∧ z' = z₁ ∧ m' = m₁ := by simpa using h₁
    refine ⟨B, ?_, ?_⟩
    · have e₁ : (z || z') = z := by cases z <;> cases z' <;> simp_all
      have e₂ : (m || m') = m := by cases m <;> cases m' <;> simp_all
      simp only [pure_run, e₁, e₂]
    · intro j us v' hj
      obtain ⟨z₂, m₂, h₂, hz₂, hm₂⟩ := hb j us v' hj
      exact ⟨z₂, m₂, h₂, fun e => by simp [hz₂ e], fun e => by simp [hm₂ e]⟩
  | none =>
    have hs' := hs
    have hq : s.softReg c.t i = false := State.src_hard hs
    have hq' : ∀ f, (s.updThread c.t f).softReg c.t i = false := fun _ => hq
    simp only [State.src, hq, Bool.false_eq_true, if_false] at hs
    cases hg : s.gangs.find (gidOf c.t) with
    | none => simp [hg] at hs
    | some g =>
      have hg' : (s.reading c.t B z m).gangs.find (gidOf c.t) = some g := hg
      simp only [hg] at hs
      cases hk : g.struck s.curNo (laneOf c.t) i with
      | true => simp [hk] at hs
      | false =>
      simp only [hk, Bool.false_eq_true, if_false] at hs
      cases hr : regRead g (s.ctx g.ctx).lenient (s.tickOf g.ctx) (laneOf c.t) i ts with
      | error e => simp [hr] at hs
      | ok r =>
        simp only [hr, Option.some.injEq] at hs
        subst hs
        have hx : (s.reading c.t B z m).ctx g.ctx = s.ctx g.ctx := rfl
        have hy : (s.reading c.t B z m).tickOf g.ctx = s.tickOf g.ctx := rfl
        have hw : (s.reading c.t B z m).curNo = s.curNo := rfl
        have hz : ∀ f : Thread → Thread, ((s.reading c.t B z m).updThread c.t f).cureReg c.t i = (s.reading c.t B z m).updThread c.t f :=
          fun _ => State.cureReg_hard hq
        simp only [gang_run hc hg', get_run, hx, hy, hw, hk, Bool.false_eq_true, if_false, hr, bind_run, modThread_run hc, modify_run, hz, pure_run]
        refine ⟨if i == 0 then B else B.put (16 * i + ts.code) w, ?_, ?_⟩
        · simp only [State.reading, State.updThread, AMap.upd_upd, Bool.or_assoc]
        · intro j us v' hj
          have key : B.find (16 * j + us.code) = some v' ∨ (16 * j + us.code = 16 * i + ts.code ∧ v' = w) := by
            by_cases h0 : i = 0
            · simp [h0] at hj; exact .inl hj
            · simp only [beq_iff_eq, h0, if_false, AMap.find_put] at hj
              split at hj
              · exact .inr ⟨‹_›, by simpa using hj.symm⟩
              · exact .inl hj
          rcases key with hk | ⟨hk, rfl⟩
          · obtain ⟨z₂, m₂, h₂, hz₂, hm₂⟩ := hb j us v' hk
            exact ⟨z₂, m₂, h₂, fun e => by simp [hz₂ e], fun e => by simp [hm₂ e]⟩
          · have l₁ := us.code_lt
            have l₂ := ts.code_lt
            obtain rfl : j = i := by omega
            obtain rfl : us = ts := TagSet.code_inj (by omega)
            exact ⟨z', m', hs', fun e => by simp [e], fun e => by simp [e]⟩

theorem readBits_reading {s : State} {c : Cur} {th : Thread} {B : AMap TWord} {z m : Bool} {i : Nat} {ts : TagSet} {w : TWord}
    {z' m' : Bool} (h : s.cur = some c) (ht : s.threads.find c.t = some th) (hb : s.Agrees c.t B z m)
    (hs : s.src c.t i ts = some (w, z', m')) :
    ∃ B', readBits i ts (s.reading c.t B z m) = .ok w.bits.toNat (s.reading c.t B' (z || z') (m || m')) ∧
      s.Agrees c.t B' (z || z') (m || m') := by
  obtain ⟨B', h₁, h₂⟩ := readReg_reading h ht hb hs
  exact ⟨B', by simp only [readBits, bind_run, h₁, pure_run], h₂⟩

/-- The thread of an instruction that has read registers. -/
theorem thread_reading {s : State} {c : Cur} {th : Thread} (h : s.cur = some c) (ht : s.threads.find c.t = some th)
    (B : AMap TWord) (z m : Bool) :
    thread (s.reading c.t B z m) =
      .ok { th with opbuf := B, pendLapf := th.pendLapf || z, pendMis := th.pendMis || m } (s.reading c.t B z m) :=
  thread_run (c := c) h (by simp [State.reading, ht])

/-! ## Completion -/

@[simp] theorem State.writeReg_updThread (s : State) (u : Nat) (f : Thread → Thread) (t i : Nat) (w : TWord) :
    (s.updThread u f).writeReg t i w = (s.writeReg t i w).updThread u f := by
  simp only [State.writeReg]
  split
  · rfl
  · simp only [State.updThread_gangs]
    split <;> rfl

@[simp] theorem State.writeReg_threads (s : State) (t i : Nat) (w : TWord) : (s.writeReg t i w).threads = s.threads := by
  simp only [State.writeReg]; split
  · rfl
  · split <;> rfl

@[simp] theorem State.writeReg_cur (s : State) (t i : Nat) (w : TWord) : (s.writeReg t i w).cur = s.cur := by
  simp only [State.writeReg]; split
  · rfl
  · split <;> rfl

@[simp] theorem State.writeReg_mem (s : State) (t i : Nat) (w : TWord) : (s.writeReg t i w).mem = s.mem := by
  simp only [State.writeReg]; split
  · rfl
  · split <;> rfl

/-- Changes of one thread, one after the other. -/
theorem State.updThread_updThread (s : State) (t : Nat) (f g : Thread → Thread) :
    (s.updThread t f).updThread t g = s.updThread t fun th => g (f th) := by
  simp only [State.updThread, AMap.upd_upd]

theorem State.updThread_congr {s : State} {t : Nat} {f g : Thread → Thread} {th : Thread} (h : s.threads.find t = some th)
    (e : f th = g th) : s.updThread t f = s.updThread t g := by
  simp only [State.updThread, AMap.upd_congr h e]

/-- What commits and completes does not depend on the operand buffer, nor on what was given while waiting. -/
theorem State.commit_congr {s : State} {t : Nat} {f g : Thread → Thread} {th : Thread} (h : s.threads.find t = some th)
    (hm : (f th).pendMis = (g th).pendMis)
    (e : { (f th).clean with fst := orf (f th).fst (f th).pendFst, lapf := ((f th).lapf || (f th).pendLapf), passBrk := false } =
         { (g th).clean with fst := orf (g th).fst (g th).pendFst, lapf := ((g th).lapf || (g th).pendLapf), passBrk := false }) :
    (s.updThread t f).commit t = (s.updThread t g).commit t := by
  have hf : (s.updThread t f).threads.find t = some (f th) := by simp [h]
  have hg : (s.updThread t g).threads.find t = some (g th) := by simp [h]
  have key : ∀ (u : State), u.threads = s.threads →
      (u.updThread t f).updThread t (fun th => { th.clean with fst := orf th.fst th.pendFst, lapf := (th.lapf || th.pendLapf), passBrk := false }) =
      (u.updThread t g).updThread t (fun th => { th.clean with fst := orf th.fst th.pendFst, lapf := (th.lapf || th.pendLapf), passBrk := false }) := by
    intro u hu
    rw [State.updThread_updThread, State.updThread_updThread]
    exact State.updThread_congr (by rw [hu]; exact h) e
  simp only [State.commit, hf, hg, hm, State.updThread_gangs]
  split
  · split
    · rename_i x hx
      exact congrArg (fun y => State.progress y t) (by
        rw [State.addTagmis_updThread, State.addTagmis_updThread]
        exact key _ (by simp))
    · rw [key s rfl]
  · rw [key s rfl]

/-- Reading registers and then doing `f` to the thread commits as noting what was met and then doing `f`. -/
theorem State.commit_reading {s : State} {t : Nat} {th : Thread} (h : s.threads.find t = some th) (B : AMap TWord) (z m : Bool) :
    (s.reading t B z m).commit t = (s.noted t z m 0).commit t := by
  refine State.commit_congr h rfl ?_
  simp [Thread.clean, orf]

theorem State.commit_reading_flags {s : State} {t : Nat} {th : Thread} (h : s.threads.find t = some th) (B : AMap TWord) (z m : Bool)
    (f : Nat) :
    ((s.reading t B z m).updThread t fun th => { th with pendFst := orf th.pendFst f }).commit t = (s.noted t z m f).commit t := by
  rw [State.reading, State.updThread_updThread]
  refine State.commit_congr h rfl ?_
  simp [Thread.clean]

theorem State.commit_reading_pred {s : State} {t : Nat} {th : Thread} (h : s.threads.find t = some th) (B : AMap TWord) (z m : Bool)
    (f : Nat) (g : Nat → Nat) :
    ((s.reading t B z m).updThread t fun th => { th with pendFst := orf th.pendFst f, preds := g th.preds }).commit t =
      ((s.noted t z m f).updThread t fun th => { th with preds := g th.preds }).commit t := by
  rw [State.reading, State.updThread_updThread, State.noted, State.updThread_updThread]
  refine State.commit_congr h rfl ?_
  simp [Thread.clean]

@[simp] theorem State.writeReg_reading (s : State) (u : Nat) (B : AMap TWord) (z m : Bool) (t i : Nat) (w : TWord) :
    (s.reading u B z m).writeReg t i w = (s.writeReg t i w).reading u B z m := State.writeReg_updThread s u _ t i w

@[simp] theorem State.writeReg_noted (s : State) (u : Nat) (z m : Bool) (f t i : Nat) (w : TWord) :
    (s.noted u z m f).writeReg t i w = (s.writeReg t i w).noted u z m f := State.writeReg_updThread s u _ t i w

/-! ## The prologue -/

/-- A thread that runs starts with nothing read. -/
theorem State.Runs.start {s : State} {t : Nat} {fs : List Field} {ex : List Nat} {gd : Guard} (h : s.Runs t fs ex gd) :
    ∃ c th, s.cur = some c ∧ c.t = t ∧ s.threads.find t = some th ∧ guardHolds th gd = true ∧ s.reading t [] false false = s := by
  obtain ⟨c, th, gg, hc, rfl, ht, hg, -, hgd, -, -, -, ho⟩ := h
  refine ⟨c, th, hc, rfl, ht, hgd, ?_⟩
  have : s.threads.upd c.t (fun th => { th with opbuf := [], pendLapf := th.pendLapf || false, pendMis := th.pendMis || false }) =
      s.threads := AMap.upd_same ht (by cases th; simp_all)
  simp only [State.reading, State.updThread, this]

/-- Where no row is found bad, nothing comes after an instruction's own traps. -/
@[simp] theorem rowsFirst_none (m : M Flow) : rowsFirst none m = m := rfl

/-- The prologue of an instruction that runs: its body is what happens (R33, R37, R155). -/
theorem issueWith_runs {s : State} {t : Nat} {fs : List Field} {ex : List Nat} {gd : Guard} {o : OnFalse} {body : Bool → M Flow}
    (h : s.Runs t fs ex gd) : issueWith fs gd o ex body s = body true s := by
  obtain ⟨c, th, gg, hc, rfl, ht, hg, hf, hgd, hp, hb, hco, ho⟩ := h
  simp only [issueWith, bind_run, curT_run hc, thread_run hc ht, gang_run hc hg, get_run, hf, hgd, hp, hb, hco, Bool.true_or,
    Bool.true_and, if_true]
  simp

theorem runWith_next {s s' : State} {c : Cur} (hc : s.cur = some c) {swp : Bool} {srcs data : List Nat} {dests : List Dest} {m : M Flow}
    {f : Flow} (h : m s = .ok f s') : runWith swp srcs data dests m s = .next (s'.retire c.t f) := by
  simp only [runWith, hc, h]

theorem runCode_next {s s' : State} {c : Cur} (hc : s.cur = some c) {srcs : List Nat} {dests : List Dest} {m : M Flow} {f : Flow}
    (h : m s = .ok f s') : runCode srcs dests m s = .next (s'.retire c.t f) := runWith_next hc h

/-- A body that completes. -/
theorem code_next {s s' : State} {t : Nat} {fs : List Field} {gd : Guard} {dests : List Dest} {body : M Flow} {f : Flow}
    (h : s.Runs t fs [] gd) (hb : body s = .ok f s') : code fs gd dests body s = .next (s'.retire t f) := by
  obtain ⟨c, th, hc, rfl, -⟩ := h.start
  exact runCode_next hc ((issueWith_runs h).trans hb)

theorem codeStore_next {s s' : State} {t : Nat} {fs : List Field} {data : List Nat} {gd : Guard} {body : M Flow} {f : Flow}
    (h : s.Runs t fs [] gd) (hb : body s = .ok f s') : codeStore fs data gd body s = .next (s'.retire t f) := by
  obtain ⟨c, th, hc, rfl, -⟩ := h.start
  exact runWith_next hc ((issueWith_runs h).trans hb)

theorem codeX_next {s s' : State} {t : Nat} {fs : List Field} {ex : List Nat} {gd : Guard} {dests : List Dest} {body : M Flow} {f : Flow}
    (h : s.Runs t fs ex gd) (hb : body s = .ok f s') : codeX fs ex gd dests body s = .next (s'.retire t f) := by
  obtain ⟨c, th, hc, rfl, -⟩ := h.start
  exact runCode_next hc ((issueWith_runs h).trans hb)

theorem codeSwp_next {s s' : State} {t : Nat} {fs : List Field} {ex : List Nat} {gd : Guard} {dests : List Dest} {body : M Flow} {f : Flow}
    (h : s.Runs t fs ex gd) (hb : body s = .ok f s') : codeSwp fs ex gd dests body s = .next (s'.retire t f) := by
  obtain ⟨c, th, hc, rfl, -⟩ := h.start
  exact runWith_next hc ((issueWith_runs h).trans hb)

theorem codeEnd_next {s s' : State} {t : Nat} {fs : List Field} {gd : Guard} {dests : List Dest} {body : M Flow} {f : Flow}
    (h : s.Runs t fs [] gd) (hb : body s = .ok f s') : codeEnd fs gd dests body s = .next (s'.retire t f) := by
  obtain ⟨c, th, hc, rfl, -⟩ := h.start
  exact runCode_next hc ((issueWith_runs h).trans hb)

theorem codeAny_next {s s' : State} {t : Nat} {fs : List Field} {ex : List Nat} {gd : Guard} {dests : List Dest} {body : Bool → M Flow}
    {f : Flow} (h : s.Runs t fs ex gd) (hb : body true s = .ok f s') : codeAny fs ex gd dests body s = .next (s'.retire t f) := by
  obtain ⟨c, th, hc, rfl, -⟩ := h.start
  exact runCode_next hc ((issueWith_runs h).trans hb)

end Sys2Proof.Machine
end

