-- ==== Sys2Proof/Laws/Encoding.lean ====
section
/-! SUPPORT. The fields of an encoded word, one lemma per form (02_instruction_word, Tables 2.5 to 2.11). -/

namespace Sys2Proof

theorem Guard.code_lt {g : Guard} (h : g.wf = true) : g.code < 16 := by
  have : g.p < 8 := by simpa [Guard.wf] using h
  cases hg : g.neg <;> simp [Guard.code, b2n, hg] <;> omega

theorem PredSrc.code_lt {q : PredSrc} (h : q.wf = true) : q.code < 16 := by
  have : q.p < 8 := by simpa [PredSrc.wf] using h
  cases hg : q.neg <;> simp [PredSrc.code, b2n, hg] <;> omega

theorem b2n_lt (b : Bool) : b2n b < 2 := by cases b <;> decide

theorem Guard.ofCode_code {g : Guard} (h : g.wf = true) : Guard.ofCode g.code = g := by
  obtain ⟨n, p⟩ := g
  have : p < 8 := by simpa [Guard.wf] using h
  cases n <;> simp [Guard.ofCode, Guard.code, bit, b2n] <;> omega

theorem PredSrc.ofField_code {q : PredSrc} (h : q.wf = true) : PredSrc.ofField q.code = some q := by
  have hl := q.code_lt h
  obtain ⟨n, p⟩ := q
  have : p < 8 := by simpa [PredSrc.wf] using h
  simp only [PredSrc.ofField, hl, if_true]
  cases n <;> simp [PredSrc.code, bit, b2n] <;> omega

/-- A signed field read back (R5, R40). -/
theorem sext_trunc {i : Int} {n : Nat} (hn : 0 < n) (h : -(2 ^ (n - 1) : Int) ≤ i) (h' : i < 2 ^ (n - 1)) :
    sext (trunc i n) n = i := by
  obtain ⟨k, rfl⟩ : ∃ k, n = k + 1 := ⟨n - 1, by omega⟩
  have e : (2 : Int) ^ (k + 1) = 2 * 2 ^ k := by rw [pow_succ]; omega
  have e' : (2 : Nat) ^ (k + 1) = 2 * 2 ^ k := by rw [pow_succ]; omega
  have c : ((2 ^ k : Nat) : Int) = 2 ^ k := by push_cast; rfl
  simp only [Nat.add_sub_cancel] at h h'
  have hm : (trunc i (k + 1) : Int) = i % 2 ^ (k + 1) := by
    simp only [trunc]; rw [Int.toNat_of_nonneg (Int.emod_nonneg _ (by rw [e]; omega))]
  have hlt : trunc i (k + 1) < 2 ^ (k + 1) := by
    have := Int.emod_lt_of_pos i (b := 2 ^ (k + 1)) (by rw [e]; omega)
    rw [← hm] at this
    have c' : ((2 ^ (k + 1) : Nat) : Int) = 2 ^ (k + 1) := by push_cast; rfl
    omega
  simp only [sext, Nat.mod_eq_of_lt hlt, hm, Nat.add_sub_cancel]
  by_cases hi : 0 ≤ i
  · have h0 : i % 2 ^ (k + 1) = i := Int.emod_eq_of_lt hi (by omega)
    rw [h0] at hm ⊢
    rw [if_pos (by omega)]
  · have h0 : i % 2 ^ (k + 1) = i + 2 ^ (k + 1) := by
      rw [← Int.add_emod_right, Int.emod_eq_of_lt (by omega) (by omega)]
    rw [h0] at hm ⊢
    rw [if_neg (by omega)]; omega

theorem trunc_lt (i : Int) (n : Nat) : trunc i n < 2 ^ n := by
  have hp : (0 : Int) < 2 ^ n := by positivity
  have := Int.emod_lt_of_pos i hp
  have c' : ((2 ^ n : Nat) : Int) = 2 ^ n := by push_cast; rfl
  simp only [trunc]
  have h0 := Int.emod_nonneg i (ne_of_gt hp)
  omega

/-- The fields of form A. -/
theorem encA_fields {op : Nat} {g : Guard} {d a b c k m : Nat} (ho : op < 4096) (hg : g.wf = true) (hd : d < 512) (ha : a < 512) (hb : b < 512) (hc : c < 512) (hk : k < 4) (hm : m < 1024) :
    bits (encA op g d a b c k m) 63 60 = op / 256 ∧
    bits (encA op g d a b c k m) 59 52 = op % 256 ∧
    bits (encA op g d a b c k m) 51 48 = g.code ∧
    bits (encA op g d a b c k m) 47 39 = d ∧
    bits (encA op g d a b c k m) 38 30 = a ∧
    bits (encA op g d a b c k m) 29 21 = b ∧
    bits (encA op g d a b c k m) 20 12 = c ∧
    bits (encA op g d a b c k m) 11 10 = k ∧
    bits (encA op g d a b c k m) 9 0 = m ∧
    encA op g d a b c k m < 2 ^ 64 := by
  have h := g.code_lt hg
  simp only [encA, encTop, bits]
  norm_num
  omega

/-- The fields of form V. -/
theorem encV_fields {op : Nat} {g : Guard} {d a b n sd sa sb : Nat} (ho : op < 4096) (hg : g.wf = true) (hd : d < 512) (ha : a < 512) (hb : b < 512) (hn : n < 4096) (hsd : sd < 8) (hsa : sa < 8) (hsb : sb < 8) :
    bits (encV op g d a b n sd sa sb) 63 60 = op / 256 ∧
    bits (encV op g d a b n sd sa sb) 59 52 = op % 256 ∧
    bits (encV op g d a b n sd sa sb) 51 48 = g.code ∧
    bits (encV op g d a b n sd sa sb) 47 39 = d ∧
    bits (encV op g d a b n sd sa sb) 38 30 = a ∧
    bits (encV op g d a b n sd sa sb) 29 21 = b ∧
    bits (encV op g d a b n sd sa sb) 20 9 = n ∧
    bits (encV op g d a b n sd sa sb) 8 6 = sd ∧
    bits (encV op g d a b n sd sa sb) 5 3 = sa ∧
    bits (encV op g d a b n sd sa sb) 2 0 = sb ∧
    encV op g d a b n sd sa sb < 2 ^ 64 := by
  have h := g.code_lt hg
  simp only [encV, encTop, bits]
  norm_num
  omega

/-- The fields of form W. -/
theorem encW_fields {op : Nat} {g : Guard} {d m imm : Nat} (ho : op < 4096) (hg : g.wf = true) (hd : d < 512) (hm : m < 128) (himm : imm < 4294967296) :
    bits (encW op g d m imm) 63 60 = op / 256 ∧
    bits (encW op g d m imm) 59 52 = op % 256 ∧
    bits (encW op g d m imm) 51 48 = g.code ∧
    bits (encW op g d m imm) 47 39 = d ∧
    bits (encW op g d m imm) 38 32 = m ∧
    bits (encW op g d m imm) 31 0 = imm ∧
    encW op g d m imm < 2 ^ 64 := by
  have h := g.code_lt hg
  simp only [encW, encTop, bits]
  norm_num
  omega

/-- The fields of form T. -/
theorem encT_fields {op : Nat} {g : Guard} {gs cv acc a b src m : Nat} (ho : op < 4096) (hg : g.wf = true) (hgs : gs < 4) (hcv : cv < 16) (hacc : acc < 16) (ha : a < 512) (hb : b < 512) (hsrc : src < 16) (hm : m < 65536) :
    bits (encT op g gs cv acc a b src m) 63 60 = op / 256 ∧
    bits (encT op g gs cv acc a b src m) 59 52 = op % 256 ∧
    bits (encT op g gs cv acc a b src m) 51 48 = g.code ∧
    bits (encT op g gs cv acc a b src m) 47 46 = gs ∧
    bits (encT op g gs cv acc a b src m) 45 42 = cv ∧
    bits (encT op g gs cv acc a b src m) 41 38 = acc ∧
    bits (encT op g gs cv acc a b src m) 37 29 = a ∧
    bits (encT op g gs cv acc a b src m) 28 20 = b ∧
    bits (encT op g gs cv acc a b src m) 19 16 = src ∧
    bits (encT op g gs cv acc a b src m) 15 0 = m ∧
    encT op g gs cv acc a b src m < 2 ^ 64 := by
  have h := g.code_lt hg
  simp only [encT, encTop, bits]
  norm_num
  omega

/-- The fields of form I. -/
theorem encI_fields {op : Nat} {g : Guard} {d a m imm : Nat} {ka : Bool} (ho : op < 4096) (hg : g.wf = true) (hd : d < 512)
    (ha : a < 512) (hm : m < 32) (hi : imm < 16777216) :
    bits (encI op g d a ka m imm) 63 60 = op / 256 ∧
    bits (encI op g d a ka m imm) 59 52 = op % 256 ∧
    bits (encI op g d a ka m imm) 51 48 = g.code ∧
    bits (encI op g d a ka m imm) 47 39 = d ∧
    bits (encI op g d a ka m imm) 38 30 = a ∧
    bits (encI op g d a ka m imm) 29 29 = b2n ka ∧
    bits (encI op g d a ka m imm) 28 24 = m ∧
    bits (encI op g d a ka m imm) 23 0 = imm ∧
    encI op g d a ka m imm < 2 ^ 64 := by
  have h := g.code_lt hg
  have hk := b2n_lt ka
  simp only [encI, encTop, bits]
  norm_num
  omega

/-- The fields of form M. -/
theorem encM_fields {op : Nat} {g : Guard} {d base idx sc cl wd : Nat} {off : Int} (ho : op < 4096) (hg : g.wf = true)
    (hd : d < 512) (hb : base < 512) (hi : idx < 512) (hs : sc < 8) (hc : cl < 4) (hw : wd < 16) :
    bits (encM op g d base idx off sc cl wd) 63 60 = op / 256 ∧
    bits (encM op g d base idx off sc cl wd) 59 52 = op % 256 ∧
    bits (encM op g d base idx off sc cl wd) 51 48 = g.code ∧
    bits (encM op g d base idx off sc cl wd) 47 39 = d ∧
    bits (encM op g d base idx off sc cl wd) 38 30 = base ∧
    bits (encM op g d base idx off sc cl wd) 29 21 = idx ∧
    bits (encM op g d base idx off sc cl wd) 20 9 = trunc off 12 ∧
    bits (encM op g d base idx off sc cl wd) 8 6 = sc ∧
    bits (encM op g d base idx off sc cl wd) 5 4 = cl ∧
    bits (encM op g d base idx off sc cl wd) 3 0 = wd ∧
    encM op g d base idx off sc cl wd < 2 ^ 64 := by
  have h := g.code_lt hg
  have ht : trunc off 12 < 4096 := trunc_lt off 12
  simp only [encM, encTop, bits]
  norm_num
  omega

/-- The fields of form C. -/
theorem encC_fields {op : Nat} {g : Guard} {d a m : Nat} {off : Int} (ho : op < 4096) (hg : g.wf = true)
    (hd : d < 512) (ha : a < 512) (hm : m < 64) :
    bits (encC op g d a m off) 63 60 = op / 256 ∧
    bits (encC op g d a m off) 59 52 = op % 256 ∧
    bits (encC op g d a m off) 51 48 = g.code ∧
    bits (encC op g d a m off) 47 39 = d ∧
    bits (encC op g d a m off) 38 30 = a ∧
    bits (encC op g d a m off) 29 24 = m ∧
    bits (encC op g d a m off) 23 0 = trunc off 24 ∧
    encC op g d a m off < 2 ^ 64 := by
  have h := g.code_lt hg
  have ht : trunc off 24 < 16777216 := trunc_lt off 24
  simp only [encC, encTop, bits]
  norm_num
  omega

end Sys2Proof
end

