-- ==== Sys2Proof/Laws/Frame.lean ====
section
/-! SUPPORT. What completing an instruction changes: the thread, its issue group, its kernel's progress, and nothing else. -/

namespace Sys2Proof.Machine

open Sys2Proof

/-- A thread that has moved on: its PC, its place in a clause and its issue group may differ. -/
def Thread.Moved (x y : Thread) : Prop :=
  ∃ p c r g a b i, y = { x with pc := p, clause := c, res := r, group := g, rptAct := a, rptRep := b, rptInst := i }

theorem Thread.Moved.refl (x : Thread) : x.Moved x := ⟨x.pc, x.clause, x.res, x.group, x.rptAct, x.rptRep, x.rptInst, rfl⟩

theorem Thread.Moved.trans {x y z : Thread} (h : x.Moved y) (h' : y.Moved z) : x.Moved z := by
  obtain ⟨p, c, r, g, a, b, i, rfl⟩ := h
  obtain ⟨p', c', r', g', a', b', i', rfl⟩ := h'
  exact ⟨p', c', r', g', a', b', i', rfl⟩

theorem Thread.moved_endRpt (x : Thread) : x.Moved x.endRpt := by
  simp only [Thread.endRpt]
  split
  · split
    · exact ⟨x.pc, x.clause, x.res, x.group, false, 0, 0, rfl⟩
    · exact .refl x
  · exact .refl x

/-- Leaving an issue group changes that thread's group and the core's groups. -/
theorem State.leaveGroup_shape (s : State) (t : Nat) :
    ∃ f cs, (∀ th : Thread, th.Moved (f th)) ∧ s.leaveGroup t = { s.updThread t f with cores := cs } := by
  have hm : ∀ th : Thread, th.Moved { th with group := none } := fun th =>
    ⟨th.pc, th.clause, th.res, none, th.rptAct, th.rptRep, th.rptInst, rfl⟩
  simp only [State.leaveGroup]
  split
  · rename_i h
    exact ⟨id, s.cores, fun th => .refl th, by simp [State.updThread, AMap.upd_none h]⟩
  · rename_i th h
    split
    · exact ⟨id, s.cores, fun th => .refl th, by simp [State.updThread, AMap.upd_same h]⟩
    · split
      · exact ⟨fun th => { th with group := none }, s.cores, hm, rfl⟩
      · exact ⟨fun th => { th with group := none }, _, hm, rfl⟩

/-- Ending a clause moves the thread and nothing else. -/
theorem State.endClauseAt_shape (s : State) (t pc : Nat) :
    ∃ f cs, (∀ th : Thread, th.Moved (f th)) ∧ s.endClauseAt t pc = { s.updThread t f with cores := cs } := by
  obtain ⟨f, cs, hf, h⟩ := (s.updThread t fun th => { th.endRpt with pc := pc, clause := none, res := .start }).leaveGroup_shape t
  refine ⟨fun th => f { th.endRpt with pc := pc, clause := none, res := .start }, cs, fun th => ?_, ?_⟩
  · exact (th.moved_endRpt.trans ⟨pc, none, .start, _, _, _, _, rfl⟩).trans (hf _)
  · simp only [State.endClauseAt, h, State.updThread_updThread]

/-- Going on to the next instruction moves the thread and nothing else. -/
theorem State.advance_shape (s : State) (t : Nat) :
    ∃ f cs, (∀ th : Thread, th.Moved (f th)) ∧ s.advance t = { s.updThread t f with cores := cs } := by
  simp only [State.advance]
  split
  · rename_i h
    exact ⟨id, s.cores, fun th => .refl th, by simp [State.updThread, AMap.upd_none h]⟩
  · split
    · exact ⟨_, s.cores, fun th => ⟨th.pc + 8, _, _, _, _, _, _, rfl⟩, rfl⟩
    · split
      · exact ⟨_, s.cores, fun th => ⟨th.pc + 8, _, _, _, _, _, _, rfl⟩, rfl⟩
      · split
        · exact ⟨_, s.cores, fun th => ⟨_, _, _, _, _, _, _, rfl⟩, rfl⟩
        · exact s.endClauseAt_shape t _

/-- The thread after its instruction has committed. -/
def Thread.committed (th : Thread) : Thread :=
  { th.clean with fst := orf th.fst th.pendFst, lapf := (th.lapf || th.pendLapf), passBrk := false }

/-- Noting progress changes kernels only. -/
theorem State.progress_shape (s : State) (t : Nat) : ∃ ks, s.progress t = { s with kernels := ks } := by
  simp only [State.progress]
  split
  · split
    · split
      · exact ⟨s.kernels, rfl⟩
      · exact ⟨_, rfl⟩
    · exact ⟨s.kernels, rfl⟩
  · exact ⟨s.kernels, rfl⟩

/-- Committing changes the thread, its kernel's progress, and, when a mismatch is counted, the context record. -/
theorem State.commit_shape (s : State) (t : Nat) :
    ∃ m q x o e ks, s.commit t = { s.updThread t Thread.committed with mem := m, codeOld := q, ctxs := x, outq := o, esend := e, kernels := ks } ∧
      ((∀ th, s.threads.find t = some th → th.pendMis = false) → m = s.mem ∧ x = s.ctxs) := by
  simp only [State.commit]
  split
  · rename_i h
    exact ⟨s.mem, s.codeOld, s.ctxs, s.outq, s.esend, s.kernels, by simp [State.updThread, AMap.upd_none h], fun _ => ⟨rfl, rfl⟩⟩
  · rename_i th h
    have hp : ∀ u : State, ∃ ks, (u.updThread t Thread.committed).progress t = { u.updThread t Thread.committed with kernels := ks } :=
      fun u => State.progress_shape _ t
    split
    · rename_i hm
      split
      · rename_i g hg
        obtain ⟨x, o, e, q, hs⟩ := s.physSet_shape g.ctx 4 (s.ctxRec g.ctx + 44) (satAdd (s.phys 4 (s.ctxRec g.ctx + 44)) 1 32)
        obtain ⟨ks, hk⟩ := hp (s.addTagmis g.ctx)
        refine ⟨(s.addTagmis g.ctx).mem, q, x, o, e, ks, ?_, fun hh => by simp [hh th h] at hm⟩
        show (State.updThread _ t Thread.committed).progress t = _
        rw [hk]
        simp only [State.addTagmis, hs, State.updThread]
      · obtain ⟨ks, hk⟩ := hp s
        exact ⟨s.mem, s.codeOld, s.ctxs, s.outq, s.esend, ks, hk, fun _ => ⟨rfl, rfl⟩⟩
    · obtain ⟨ks, hk⟩ := hp s
      exact ⟨s.mem, s.codeOld, s.ctxs, s.outq, s.esend, ks, hk, fun _ => ⟨rfl, rfl⟩⟩

/-- What completing an instruction leaves: the thread committed and moved on, its issue group, its kernel's progress and, when a
mismatch is counted, the context record. -/
theorem State.done_shape (s : State) (t : Nat) :
    ∃ f m q x o e ks cs, (∀ th : Thread, th.committed.Moved (f th)) ∧
      s.done t = { s.updThread t f with mem := m, codeOld := q, ctxs := x, outq := o, esend := e, kernels := ks, cores := cs } ∧
      ((∀ th, s.threads.find t = some th → th.pendMis = false) → m = s.mem ∧ x = s.ctxs) := by
  obtain ⟨m, q, x, o, e, ks, hc, hm⟩ := s.commit_shape t
  obtain ⟨f, cs, hf, ha⟩ := (s.commit t).advance_shape t
  refine ⟨fun th => f th.committed, m, q, x, o, e, ks, cs, fun th => hf _, ?_, hm⟩
  rw [State.done, ha, hc]
  simp only [State.updThread, AMap.upd_upd]

end Sys2Proof.Machine
end

