-- ==== Sys2Proof/Laws/Keep.lean ====
section
/-! SUPPORT. The fields that completing an instruction, writing a register and noting flags leave alone, one lemma per field and
operation, and what they do to the thread. -/

namespace Sys2Proof.Machine

open Sys2Proof

theorem State.writeReg_shape (s : State) (t i : Nat) (w : TWord) : ∃ gs, s.writeReg t i w = { s with gangs := gs } := by
  simp only [State.writeReg]
  split
  · exact ⟨s.gangs, rfl⟩
  · split
    · exact ⟨s.gangs, rfl⟩
    · exact ⟨_, rfl⟩

@[simp] theorem State.writeReg_agenda (s : State) (t i : Nat) (w : TWord) : (s.writeReg t i w).agenda = s.agenda := by
  obtain ⟨_, h⟩ := s.writeReg_shape t i w; rw [h]
@[simp] theorem State.writeReg_free (s : State) (t i : Nat) (w : TWord) : (s.writeReg t i w).free = s.free := by
  obtain ⟨_, h⟩ := s.writeReg_shape t i w; rw [h]
@[simp] theorem State.writeReg_off (s : State) (t i : Nat) (w : TWord) : (s.writeReg t i w).off = s.off := by
  obtain ⟨_, h⟩ := s.writeReg_shape t i w; rw [h]
@[simp] theorem State.writeReg_down (s : State) (t i : Nat) (w : TWord) : (s.writeReg t i w).down = s.down := by
  obtain ⟨_, h⟩ := s.writeReg_shape t i w; rw [h]
@[simp] theorem State.writeReg_recovery (s : State) (t i : Nat) (w : TWord) : (s.writeReg t i w).recovery = s.recovery := by
  obtain ⟨_, h⟩ := s.writeReg_shape t i w; rw [h]
@[simp] theorem State.writeReg_boot (s : State) (t i : Nat) (w : TWord) : (s.writeReg t i w).boot = s.boot := by
  obtain ⟨_, h⟩ := s.writeReg_shape t i w; rw [h]
@[simp] theorem State.writeReg_brFail (s : State) (t i : Nat) (w : TWord) : (s.writeReg t i w).brFail = s.brFail := by
  obtain ⟨_, h⟩ := s.writeReg_shape t i w; rw [h]
@[simp] theorem State.writeReg_brLast (s : State) (t i : Nat) (w : TWord) : (s.writeReg t i w).brLast = s.brLast := by
  obtain ⟨_, h⟩ := s.writeReg_shape t i w; rw [h]
@[simp] theorem State.writeReg_brBoots (s : State) (t i : Nat) (w : TWord) : (s.writeReg t i w).brBoots = s.brBoots := by
  obtain ⟨_, h⟩ := s.writeReg_shape t i w; rw [h]
@[simp] theorem State.writeReg_image (s : State) (t i : Nat) (w : TWord) : (s.writeReg t i w).image = s.image := by
  obtain ⟨_, h⟩ := s.writeReg_shape t i w; rw [h]
@[simp] theorem State.writeReg_nextImage (s : State) (t i : Nat) (w : TWord) : (s.writeReg t i w).nextImage = s.nextImage := by
  obtain ⟨_, h⟩ := s.writeReg_shape t i w; rw [h]
@[simp] theorem State.writeReg_refCycle (s : State) (t i : Nat) (w : TWord) : (s.writeReg t i w).refCycle = s.refCycle := by
  obtain ⟨_, h⟩ := s.writeReg_shape t i w; rw [h]
@[simp] theorem State.writeReg_cxstsCtx (s : State) (t i : Nat) (w : TWord) : (s.writeReg t i w).cxstsCtx = s.cxstsCtx := by
  obtain ⟨_, h⟩ := s.writeReg_shape t i w; rw [h]
@[simp] theorem State.writeReg_cxstsRes (s : State) (t i : Nat) (w : TWord) : (s.writeReg t i w).cxstsRes = s.cxstsRes := by
  obtain ⟨_, h⟩ := s.writeReg_shape t i w; rw [h]
@[simp] theorem State.writeReg_cmds (s : State) (t i : Nat) (w : TWord) : (s.writeReg t i w).cmds = s.cmds := by
  obtain ⟨_, h⟩ := s.writeReg_shape t i w; rw [h]
@[simp] theorem State.writeReg_qctlRes (s : State) (t i : Nat) (w : TWord) : (s.writeReg t i w).qctlRes = s.qctlRes := by
  obtain ⟨_, h⟩ := s.writeReg_shape t i w; rw [h]
@[simp] theorem State.writeReg_drstRes (s : State) (t i : Nat) (w : TWord) : (s.writeReg t i w).drstRes = s.drstRes := by
  obtain ⟨_, h⟩ := s.writeReg_shape t i w; rw [h]
@[simp] theorem State.writeReg_dbgsel (s : State) (t i : Nat) (w : TWord) : (s.writeReg t i w).dbgsel = s.dbgsel := by
  obtain ⟨_, h⟩ := s.writeReg_shape t i w; rw [h]
@[simp] theorem State.writeReg_dbgdat (s : State) (t i : Nat) (w : TWord) : (s.writeReg t i w).dbgdat = s.dbgdat := by
  obtain ⟨_, h⟩ := s.writeReg_shape t i w; rw [h]
@[simp] theorem State.writeReg_lmbase (s : State) (t i : Nat) (w : TWord) : (s.writeReg t i w).lmbase = s.lmbase := by
  obtain ⟨_, h⟩ := s.writeReg_shape t i w; rw [h]
@[simp] theorem State.writeReg_badacc (s : State) (t i : Nat) (w : TWord) : (s.writeReg t i w).badacc = s.badacc := by
  obtain ⟨_, h⟩ := s.writeReg_shape t i w; rw [h]
@[simp] theorem State.writeReg_devnum (s : State) (t i : Nat) (w : TWord) : (s.writeReg t i w).devnum = s.devnum := by
  obtain ⟨_, h⟩ := s.writeReg_shape t i w; rw [h]
@[simp] theorem State.writeReg_bridge (s : State) (t i : Nat) (w : TWord) : (s.writeReg t i w).bridge = s.bridge := by
  obtain ⟨_, h⟩ := s.writeReg_shape t i w; rw [h]
@[simp] theorem State.writeReg_hostfn (s : State) (t i : Nat) (w : TWord) : (s.writeReg t i w).hostfn = s.hostfn := by
  obtain ⟨_, h⟩ := s.writeReg_shape t i w; rw [h]
@[simp] theorem State.writeReg_pcieOff (s : State) (t i : Nat) (w : TWord) : (s.writeReg t i w).pcieOff = s.pcieOff := by
  obtain ⟨_, h⟩ := s.writeReg_shape t i w; rw [h]
@[simp] theorem State.writeReg_hostAtomics (s : State) (t i : Nat) (w : TWord) : (s.writeReg t i w).hostAtomics = s.hostAtomics := by
  obtain ⟨_, h⟩ := s.writeReg_shape t i w; rw [h]
@[simp] theorem State.writeReg_ctxBase (s : State) (t i : Nat) (w : TWord) : (s.writeReg t i w).ctxBase = s.ctxBase := by
  obtain ⟨_, h⟩ := s.writeReg_shape t i w; rw [h]
@[simp] theorem State.writeReg_qBase (s : State) (t i : Nat) (w : TWord) : (s.writeReg t i w).qBase = s.qBase := by
  obtain ⟨_, h⟩ := s.writeReg_shape t i w; rw [h]
@[simp] theorem State.writeReg_dbBase (s : State) (t i : Nat) (w : TWord) : (s.writeReg t i w).dbBase = s.dbBase := by
  obtain ⟨_, h⟩ := s.writeReg_shape t i w; rw [h]
@[simp] theorem State.writeReg_hbm (s : State) (t i : Nat) (w : TWord) : (s.writeReg t i w).hbm = s.hbm := by
  obtain ⟨_, h⟩ := s.writeReg_shape t i w; rw [h]
@[simp] theorem State.writeReg_opReq (s : State) (t i : Nat) (w : TWord) : (s.writeReg t i w).opReq = s.opReq := by
  obtain ⟨_, h⟩ := s.writeReg_shape t i w; rw [h]
@[simp] theorem State.writeReg_opPower (s : State) (t i : Nat) (w : TWord) : (s.writeReg t i w).opPower = s.opPower := by
  obtain ⟨_, h⟩ := s.writeReg_shape t i w; rw [h]
@[simp] theorem State.writeReg_opUse (s : State) (t i : Nat) (w : TWord) : (s.writeReg t i w).opUse = s.opUse := by
  obtain ⟨_, h⟩ := s.writeReg_shape t i w; rw [h]
@[simp] theorem State.writeReg_opNext (s : State) (t i : Nat) (w : TWord) : (s.writeReg t i w).opNext = s.opNext := by
  obtain ⟨_, h⟩ := s.writeReg_shape t i w; rw [h]
@[simp] theorem State.writeReg_hist (s : State) (t i : Nat) (w : TWord) : (s.writeReg t i w).hist = s.hist := by
  obtain ⟨_, h⟩ := s.writeReg_shape t i w; rw [h]
@[simp] theorem State.writeReg_lastPow (s : State) (t i : Nat) (w : TWord) : (s.writeReg t i w).lastPow = s.lastPow := by
  obtain ⟨_, h⟩ := s.writeReg_shape t i w; rw [h]
@[simp] theorem State.writeReg_epoch (s : State) (t i : Nat) (w : TWord) : (s.writeReg t i w).epoch = s.epoch := by
  obtain ⟨_, h⟩ := s.writeReg_shape t i w; rw [h]
@[simp] theorem State.writeReg_tagBits (s : State) (t i : Nat) (w : TWord) : (s.writeReg t i w).tagBits = s.tagBits := by
  obtain ⟨_, h⟩ := s.writeReg_shape t i w; rw [h]
@[simp] theorem State.writeReg_gran (s : State) (t i : Nat) (w : TWord) : (s.writeReg t i w).gran = s.gran := by
  obtain ⟨_, h⟩ := s.writeReg_shape t i w; rw [h]
@[simp] theorem State.writeReg_lineOwner (s : State) (t i : Nat) (w : TWord) : (s.writeReg t i w).lineOwner = s.lineOwner := by
  obtain ⟨_, h⟩ := s.writeReg_shape t i w; rw [h]
@[simp] theorem State.writeReg_codeOld (s : State) (t i : Nat) (w : TWord) : (s.writeReg t i w).codeOld = s.codeOld := by
  obtain ⟨_, h⟩ := s.writeReg_shape t i w; rw [h]
@[simp] theorem State.writeReg_poison (s : State) (t i : Nat) (w : TWord) : (s.writeReg t i w).poison = s.poison := by
  obtain ⟨_, h⟩ := s.writeReg_shape t i w; rw [h]
@[simp] theorem State.writeReg_poisonL2 (s : State) (t i : Nat) (w : TWord) : (s.writeReg t i w).poisonL2 = s.poisonL2 := by
  obtain ⟨_, h⟩ := s.writeReg_shape t i w; rw [h]
@[simp] theorem State.writeReg_softErrs (s : State) (t i : Nat) (w : TWord) : (s.writeReg t i w).softErrs = s.softErrs := by
  obtain ⟨_, h⟩ := s.writeReg_shape t i w; rw [h]
@[simp] theorem State.writeReg_softL2 (s : State) (t i : Nat) (w : TWord) : (s.writeReg t i w).softL2 = s.softL2 := by
  obtain ⟨_, h⟩ := s.writeReg_shape t i w; rw [h]
@[simp] theorem State.writeReg_insts (s : State) (t i : Nat) (w : TWord) : (s.writeReg t i w).insts = s.insts := by
  obtain ⟨_, h⟩ := s.writeReg_shape t i w; rw [h]
@[simp] theorem State.writeReg_instNext (s : State) (t i : Nat) (w : TWord) : (s.writeReg t i w).instNext = s.instNext := by
  obtain ⟨_, h⟩ := s.writeReg_shape t i w; rw [h]
@[simp] theorem State.writeReg_cores (s : State) (t i : Nat) (w : TWord) : (s.writeReg t i w).cores = s.cores := by
  obtain ⟨_, h⟩ := s.writeReg_shape t i w; rw [h]
@[simp] theorem State.writeReg_ctxs (s : State) (t i : Nat) (w : TWord) : (s.writeReg t i w).ctxs = s.ctxs := by
  obtain ⟨_, h⟩ := s.writeReg_shape t i w; rw [h]
@[simp] theorem State.writeReg_queues (s : State) (t i : Nat) (w : TWord) : (s.writeReg t i w).queues = s.queues := by
  obtain ⟨_, h⟩ := s.writeReg_shape t i w; rw [h]
@[simp] theorem State.writeReg_kernels (s : State) (t i : Nat) (w : TWord) : (s.writeReg t i w).kernels = s.kernels := by
  obtain ⟨_, h⟩ := s.writeReg_shape t i w; rw [h]
@[simp] theorem State.writeReg_kernNext (s : State) (t i : Nat) (w : TWord) : (s.writeReg t i w).kernNext = s.kernNext := by
  obtain ⟨_, h⟩ := s.writeReg_shape t i w; rw [h]
@[simp] theorem State.writeReg_conduits (s : State) (t i : Nat) (w : TWord) : (s.writeReg t i w).conduits = s.conduits := by
  obtain ⟨_, h⟩ := s.writeReg_shape t i w; rw [h]
@[simp] theorem State.writeReg_cdNext (s : State) (t i : Nat) (w : TWord) : (s.writeReg t i w).cdNext = s.cdNext := by
  obtain ⟨_, h⟩ := s.writeReg_shape t i w; rw [h]
@[simp] theorem State.writeReg_walkNext (s : State) (t i : Nat) (w : TWord) : (s.writeReg t i w).walkNext = s.walkNext := by
  obtain ⟨_, h⟩ := s.writeReg_shape t i w; rw [h]
@[simp] theorem State.writeReg_issueNo (s : State) (t i : Nat) (w : TWord) : (s.writeReg t i w).issueNo = s.issueNo := by
  obtain ⟨_, h⟩ := s.writeReg_shape t i w; rw [h]
@[simp] theorem State.writeReg_dies (s : State) (t i : Nat) (w : TWord) : (s.writeReg t i w).dies = s.dies := by
  obtain ⟨_, h⟩ := s.writeReg_shape t i w; rw [h]
@[simp] theorem State.writeReg_bridges (s : State) (t i : Nat) (w : TWord) : (s.writeReg t i w).bridges = s.bridges := by
  obtain ⟨_, h⟩ := s.writeReg_shape t i w; rw [h]
@[simp] theorem State.writeReg_ports (s : State) (t i : Nat) (w : TWord) : (s.writeReg t i w).ports = s.ports := by
  obtain ⟨_, h⟩ := s.writeReg_shape t i w; rw [h]
@[simp] theorem State.writeReg_routes (s : State) (t i : Nat) (w : TWord) : (s.writeReg t i w).routes = s.routes := by
  obtain ⟨_, h⟩ := s.writeReg_shape t i w; rw [h]
@[simp] theorem State.writeReg_waitDev (s : State) (t i : Nat) (w : TWord) : (s.writeReg t i w).waitDev = s.waitDev := by
  obtain ⟨_, h⟩ := s.writeReg_shape t i w; rw [h]
@[simp] theorem State.writeReg_mcwins (s : State) (t i : Nat) (w : TWord) : (s.writeReg t i w).mcwins = s.mcwins := by
  obtain ⟨_, h⟩ := s.writeReg_shape t i w; rw [h]
@[simp] theorem State.writeReg_outq (s : State) (t i : Nat) (w : TWord) : (s.writeReg t i w).outq = s.outq := by
  obtain ⟨_, h⟩ := s.writeReg_shape t i w; rw [h]
@[simp] theorem State.writeReg_early (s : State) (t i : Nat) (w : TWord) : (s.writeReg t i w).early = s.early := by
  obtain ⟨_, h⟩ := s.writeReg_shape t i w; rw [h]
@[simp] theorem State.writeReg_esend (s : State) (t i : Nat) (w : TWord) : (s.writeReg t i w).esend = s.esend := by
  obtain ⟨_, h⟩ := s.writeReg_shape t i w; rw [h]
@[simp] theorem State.writeReg_erecv (s : State) (t i : Nat) (w : TWord) : (s.writeReg t i w).erecv = s.erecv := by
  obtain ⟨_, h⟩ := s.writeReg_shape t i w; rw [h]
@[simp] theorem State.writeReg_eresp (s : State) (t i : Nat) (w : TWord) : (s.writeReg t i w).eresp = s.eresp := by
  obtain ⟨_, h⟩ := s.writeReg_shape t i w; rw [h]
@[simp] theorem State.writeReg_remops (s : State) (t i : Nat) (w : TWord) : (s.writeReg t i w).remops = s.remops := by
  obtain ⟨_, h⟩ := s.writeReg_shape t i w; rw [h]
@[simp] theorem State.writeReg_remNext (s : State) (t i : Nat) (w : TWord) : (s.writeReg t i w).remNext = s.remNext := by
  obtain ⟨_, h⟩ := s.writeReg_shape t i w; rw [h]
@[simp] theorem State.writeReg_ppGot (s : State) (t i : Nat) (w : TWord) : (s.writeReg t i w).ppGot = s.ppGot := by
  obtain ⟨_, h⟩ := s.writeReg_shape t i w; rw [h]
@[simp] theorem State.writeReg_invals (s : State) (t i : Nat) (w : TWord) : (s.writeReg t i w).invals = s.invals := by
  obtain ⟨_, h⟩ := s.writeReg_shape t i w; rw [h]
@[simp] theorem State.writeReg_invNext (s : State) (t i : Nat) (w : TWord) : (s.writeReg t i w).invNext = s.invNext := by
  obtain ⟨_, h⟩ := s.writeReg_shape t i w; rw [h]
@[simp] theorem State.writeReg_spdm (s : State) (t i : Nat) (w : TWord) : (s.writeReg t i w).spdm = s.spdm := by
  obtain ⟨_, h⟩ := s.writeReg_shape t i w; rw [h]
@[simp] theorem State.writeReg_hostOut (s : State) (t i : Nat) (w : TWord) : (s.writeReg t i w).hostOut = s.hostOut := by
  obtain ⟨_, h⟩ := s.writeReg_shape t i w; rw [h]
@[simp] theorem State.writeReg_opLow (s : State) (t i : Nat) (w : TWord) : (s.writeReg t i w).opLow = s.opLow := by
  obtain ⟨_, h⟩ := s.writeReg_shape t i w; rw [h]
@[simp] theorem State.writeReg_hbmFail (s : State) (t i : Nat) (w : TWord) : (s.writeReg t i w).hbmFail = s.hbmFail := by
  obtain ⟨_, h⟩ := s.writeReg_shape t i w; rw [h]
@[simp] theorem State.writeReg_funcs (s : State) (t i : Nat) (w : TWord) : (s.writeReg t i w).funcs = s.funcs := by
  obtain ⟨_, h⟩ := s.writeReg_shape t i w; rw [h]
@[simp] theorem State.writeReg_hostPend (s : State) (t i : Nat) (w : TWord) : (s.writeReg t i w).hostPend = s.hostPend := by
  obtain ⟨_, h⟩ := s.writeReg_shape t i w; rw [h]
@[simp] theorem State.writeReg_parked (s : State) (t i : Nat) (w : TWord) : (s.writeReg t i w).parked = s.parked := by
  obtain ⟨_, h⟩ := s.writeReg_shape t i w; rw [h]

@[simp] theorem State.endClauseAt_agenda (s : State) (t pc : Nat) : (s.endClauseAt t pc).agenda = s.agenda := by
  obtain ⟨_, _, _, h⟩ := s.endClauseAt_shape t pc; rw [h]; rfl
@[simp] theorem State.endClauseAt_cur (s : State) (t pc : Nat) : (s.endClauseAt t pc).cur = s.cur := by
  obtain ⟨_, _, _, h⟩ := s.endClauseAt_shape t pc; rw [h]; rfl
@[simp] theorem State.endClauseAt_free (s : State) (t pc : Nat) : (s.endClauseAt t pc).free = s.free := by
  obtain ⟨_, _, _, h⟩ := s.endClauseAt_shape t pc; rw [h]; rfl
@[simp] theorem State.endClauseAt_off (s : State) (t pc : Nat) : (s.endClauseAt t pc).off = s.off := by
  obtain ⟨_, _, _, h⟩ := s.endClauseAt_shape t pc; rw [h]; rfl
@[simp] theorem State.endClauseAt_down (s : State) (t pc : Nat) : (s.endClauseAt t pc).down = s.down := by
  obtain ⟨_, _, _, h⟩ := s.endClauseAt_shape t pc; rw [h]; rfl
@[simp] theorem State.endClauseAt_recovery (s : State) (t pc : Nat) : (s.endClauseAt t pc).recovery = s.recovery := by
  obtain ⟨_, _, _, h⟩ := s.endClauseAt_shape t pc; rw [h]; rfl
@[simp] theorem State.endClauseAt_boot (s : State) (t pc : Nat) : (s.endClauseAt t pc).boot = s.boot := by
  obtain ⟨_, _, _, h⟩ := s.endClauseAt_shape t pc; rw [h]; rfl
@[simp] theorem State.endClauseAt_brFail (s : State) (t pc : Nat) : (s.endClauseAt t pc).brFail = s.brFail := by
  obtain ⟨_, _, _, h⟩ := s.endClauseAt_shape t pc; rw [h]; rfl
@[simp] theorem State.endClauseAt_brLast (s : State) (t pc : Nat) : (s.endClauseAt t pc).brLast = s.brLast := by
  obtain ⟨_, _, _, h⟩ := s.endClauseAt_shape t pc; rw [h]; rfl
@[simp] theorem State.endClauseAt_brBoots (s : State) (t pc : Nat) : (s.endClauseAt t pc).brBoots = s.brBoots := by
  obtain ⟨_, _, _, h⟩ := s.endClauseAt_shape t pc; rw [h]; rfl
@[simp] theorem State.endClauseAt_image (s : State) (t pc : Nat) : (s.endClauseAt t pc).image = s.image := by
  obtain ⟨_, _, _, h⟩ := s.endClauseAt_shape t pc; rw [h]; rfl
@[simp] theorem State.endClauseAt_nextImage (s : State) (t pc : Nat) : (s.endClauseAt t pc).nextImage = s.nextImage := by
  obtain ⟨_, _, _, h⟩ := s.endClauseAt_shape t pc; rw [h]; rfl
@[simp] theorem State.endClauseAt_refCycle (s : State) (t pc : Nat) : (s.endClauseAt t pc).refCycle = s.refCycle := by
  obtain ⟨_, _, _, h⟩ := s.endClauseAt_shape t pc; rw [h]; rfl
@[simp] theorem State.endClauseAt_cxstsCtx (s : State) (t pc : Nat) : (s.endClauseAt t pc).cxstsCtx = s.cxstsCtx := by
  obtain ⟨_, _, _, h⟩ := s.endClauseAt_shape t pc; rw [h]; rfl
@[simp] theorem State.endClauseAt_cxstsRes (s : State) (t pc : Nat) : (s.endClauseAt t pc).cxstsRes = s.cxstsRes := by
  obtain ⟨_, _, _, h⟩ := s.endClauseAt_shape t pc; rw [h]; rfl
@[simp] theorem State.endClauseAt_cmds (s : State) (t pc : Nat) : (s.endClauseAt t pc).cmds = s.cmds := by
  obtain ⟨_, _, _, h⟩ := s.endClauseAt_shape t pc; rw [h]; rfl
@[simp] theorem State.endClauseAt_qctlRes (s : State) (t pc : Nat) : (s.endClauseAt t pc).qctlRes = s.qctlRes := by
  obtain ⟨_, _, _, h⟩ := s.endClauseAt_shape t pc; rw [h]; rfl
@[simp] theorem State.endClauseAt_drstRes (s : State) (t pc : Nat) : (s.endClauseAt t pc).drstRes = s.drstRes := by
  obtain ⟨_, _, _, h⟩ := s.endClauseAt_shape t pc; rw [h]; rfl
@[simp] theorem State.endClauseAt_dbgsel (s : State) (t pc : Nat) : (s.endClauseAt t pc).dbgsel = s.dbgsel := by
  obtain ⟨_, _, _, h⟩ := s.endClauseAt_shape t pc; rw [h]; rfl
@[simp] theorem State.endClauseAt_dbgdat (s : State) (t pc : Nat) : (s.endClauseAt t pc).dbgdat = s.dbgdat := by
  obtain ⟨_, _, _, h⟩ := s.endClauseAt_shape t pc; rw [h]; rfl
@[simp] theorem State.endClauseAt_lmbase (s : State) (t pc : Nat) : (s.endClauseAt t pc).lmbase = s.lmbase := by
  obtain ⟨_, _, _, h⟩ := s.endClauseAt_shape t pc; rw [h]; rfl
@[simp] theorem State.endClauseAt_badacc (s : State) (t pc : Nat) : (s.endClauseAt t pc).badacc = s.badacc := by
  obtain ⟨_, _, _, h⟩ := s.endClauseAt_shape t pc; rw [h]; rfl
@[simp] theorem State.endClauseAt_devnum (s : State) (t pc : Nat) : (s.endClauseAt t pc).devnum = s.devnum := by
  obtain ⟨_, _, _, h⟩ := s.endClauseAt_shape t pc; rw [h]; rfl
@[simp] theorem State.endClauseAt_bridge (s : State) (t pc : Nat) : (s.endClauseAt t pc).bridge = s.bridge := by
  obtain ⟨_, _, _, h⟩ := s.endClauseAt_shape t pc; rw [h]; rfl
@[simp] theorem State.endClauseAt_hostfn (s : State) (t pc : Nat) : (s.endClauseAt t pc).hostfn = s.hostfn := by
  obtain ⟨_, _, _, h⟩ := s.endClauseAt_shape t pc; rw [h]; rfl
@[simp] theorem State.endClauseAt_pcieOff (s : State) (t pc : Nat) : (s.endClauseAt t pc).pcieOff = s.pcieOff := by
  obtain ⟨_, _, _, h⟩ := s.endClauseAt_shape t pc; rw [h]; rfl
@[simp] theorem State.endClauseAt_hostAtomics (s : State) (t pc : Nat) : (s.endClauseAt t pc).hostAtomics = s.hostAtomics := by
  obtain ⟨_, _, _, h⟩ := s.endClauseAt_shape t pc; rw [h]; rfl
@[simp] theorem State.endClauseAt_ctxBase (s : State) (t pc : Nat) : (s.endClauseAt t pc).ctxBase = s.ctxBase := by
  obtain ⟨_, _, _, h⟩ := s.endClauseAt_shape t pc; rw [h]; rfl
@[simp] theorem State.endClauseAt_qBase (s : State) (t pc : Nat) : (s.endClauseAt t pc).qBase = s.qBase := by
  obtain ⟨_, _, _, h⟩ := s.endClauseAt_shape t pc; rw [h]; rfl
@[simp] theorem State.endClauseAt_dbBase (s : State) (t pc : Nat) : (s.endClauseAt t pc).dbBase = s.dbBase := by
  obtain ⟨_, _, _, h⟩ := s.endClauseAt_shape t pc; rw [h]; rfl
@[simp] theorem State.endClauseAt_hbm (s : State) (t pc : Nat) : (s.endClauseAt t pc).hbm = s.hbm := by
  obtain ⟨_, _, _, h⟩ := s.endClauseAt_shape t pc; rw [h]; rfl
@[simp] theorem State.endClauseAt_opReq (s : State) (t pc : Nat) : (s.endClauseAt t pc).opReq = s.opReq := by
  obtain ⟨_, _, _, h⟩ := s.endClauseAt_shape t pc; rw [h]; rfl
@[simp] theorem State.endClauseAt_opPower (s : State) (t pc : Nat) : (s.endClauseAt t pc).opPower = s.opPower := by
  obtain ⟨_, _, _, h⟩ := s.endClauseAt_shape t pc; rw [h]; rfl
@[simp] theorem State.endClauseAt_opUse (s : State) (t pc : Nat) : (s.endClauseAt t pc).opUse = s.opUse := by
  obtain ⟨_, _, _, h⟩ := s.endClauseAt_shape t pc; rw [h]; rfl
@[simp] theorem State.endClauseAt_opNext (s : State) (t pc : Nat) : (s.endClauseAt t pc).opNext = s.opNext := by
  obtain ⟨_, _, _, h⟩ := s.endClauseAt_shape t pc; rw [h]; rfl
@[simp] theorem State.endClauseAt_hist (s : State) (t pc : Nat) : (s.endClauseAt t pc).hist = s.hist := by
  obtain ⟨_, _, _, h⟩ := s.endClauseAt_shape t pc; rw [h]; rfl
@[simp] theorem State.endClauseAt_lastPow (s : State) (t pc : Nat) : (s.endClauseAt t pc).lastPow = s.lastPow := by
  obtain ⟨_, _, _, h⟩ := s.endClauseAt_shape t pc; rw [h]; rfl
@[simp] theorem State.endClauseAt_epoch (s : State) (t pc : Nat) : (s.endClauseAt t pc).epoch = s.epoch := by
  obtain ⟨_, _, _, h⟩ := s.endClauseAt_shape t pc; rw [h]; rfl
@[simp] theorem State.endClauseAt_mem (s : State) (t pc : Nat) : (s.endClauseAt t pc).mem = s.mem := by
  obtain ⟨_, _, _, h⟩ := s.endClauseAt_shape t pc; rw [h]; rfl
@[simp] theorem State.endClauseAt_tagBits (s : State) (t pc : Nat) : (s.endClauseAt t pc).tagBits = s.tagBits := by
  obtain ⟨_, _, _, h⟩ := s.endClauseAt_shape t pc; rw [h]; rfl
@[simp] theorem State.endClauseAt_gran (s : State) (t pc : Nat) : (s.endClauseAt t pc).gran = s.gran := by
  obtain ⟨_, _, _, h⟩ := s.endClauseAt_shape t pc; rw [h]; rfl
@[simp] theorem State.endClauseAt_lineOwner (s : State) (t pc : Nat) : (s.endClauseAt t pc).lineOwner = s.lineOwner := by
  obtain ⟨_, _, _, h⟩ := s.endClauseAt_shape t pc; rw [h]; rfl
@[simp] theorem State.endClauseAt_codeOld (s : State) (t pc : Nat) : (s.endClauseAt t pc).codeOld = s.codeOld := by
  obtain ⟨_, _, _, h⟩ := s.endClauseAt_shape t pc; rw [h]; rfl
@[simp] theorem State.endClauseAt_poison (s : State) (t pc : Nat) : (s.endClauseAt t pc).poison = s.poison := by
  obtain ⟨_, _, _, h⟩ := s.endClauseAt_shape t pc; rw [h]; rfl
@[simp] theorem State.endClauseAt_poisonL2 (s : State) (t pc : Nat) : (s.endClauseAt t pc).poisonL2 = s.poisonL2 := by
  obtain ⟨_, _, _, h⟩ := s.endClauseAt_shape t pc; rw [h]; rfl
@[simp] theorem State.endClauseAt_softErrs (s : State) (t pc : Nat) : (s.endClauseAt t pc).softErrs = s.softErrs := by
  obtain ⟨_, _, _, h⟩ := s.endClauseAt_shape t pc; rw [h]; rfl
@[simp] theorem State.endClauseAt_softL2 (s : State) (t pc : Nat) : (s.endClauseAt t pc).softL2 = s.softL2 := by
  obtain ⟨_, _, _, h⟩ := s.endClauseAt_shape t pc; rw [h]; rfl
@[simp] theorem State.endClauseAt_gangs (s : State) (t pc : Nat) : (s.endClauseAt t pc).gangs = s.gangs := by
  obtain ⟨_, _, _, h⟩ := s.endClauseAt_shape t pc; rw [h]; rfl
@[simp] theorem State.endClauseAt_insts (s : State) (t pc : Nat) : (s.endClauseAt t pc).insts = s.insts := by
  obtain ⟨_, _, _, h⟩ := s.endClauseAt_shape t pc; rw [h]; rfl
@[simp] theorem State.endClauseAt_instNext (s : State) (t pc : Nat) : (s.endClauseAt t pc).instNext = s.instNext := by
  obtain ⟨_, _, _, h⟩ := s.endClauseAt_shape t pc; rw [h]; rfl
@[simp] theorem State.endClauseAt_ctxs (s : State) (t pc : Nat) : (s.endClauseAt t pc).ctxs = s.ctxs := by
  obtain ⟨_, _, _, h⟩ := s.endClauseAt_shape t pc; rw [h]; rfl
@[simp] theorem State.endClauseAt_queues (s : State) (t pc : Nat) : (s.endClauseAt t pc).queues = s.queues := by
  obtain ⟨_, _, _, h⟩ := s.endClauseAt_shape t pc; rw [h]; rfl
@[simp] theorem State.endClauseAt_kernels (s : State) (t pc : Nat) : (s.endClauseAt t pc).kernels = s.kernels := by
  obtain ⟨_, _, _, h⟩ := s.endClauseAt_shape t pc; rw [h]; rfl
@[simp] theorem State.endClauseAt_kernNext (s : State) (t pc : Nat) : (s.endClauseAt t pc).kernNext = s.kernNext := by
  obtain ⟨_, _, _, h⟩ := s.endClauseAt_shape t pc; rw [h]; rfl
@[simp] theorem State.endClauseAt_conduits (s : State) (t pc : Nat) : (s.endClauseAt t pc).conduits = s.conduits := by
  obtain ⟨_, _, _, h⟩ := s.endClauseAt_shape t pc; rw [h]; rfl
@[simp] theorem State.endClauseAt_cdNext (s : State) (t pc : Nat) : (s.endClauseAt t pc).cdNext = s.cdNext := by
  obtain ⟨_, _, _, h⟩ := s.endClauseAt_shape t pc; rw [h]; rfl
@[simp] theorem State.endClauseAt_walkNext (s : State) (t pc : Nat) : (s.endClauseAt t pc).walkNext = s.walkNext := by
  obtain ⟨_, _, _, h⟩ := s.endClauseAt_shape t pc; rw [h]; rfl
@[simp] theorem State.endClauseAt_issueNo (s : State) (t pc : Nat) : (s.endClauseAt t pc).issueNo = s.issueNo := by
  obtain ⟨_, _, _, h⟩ := s.endClauseAt_shape t pc; rw [h]; rfl
@[simp] theorem State.endClauseAt_dies (s : State) (t pc : Nat) : (s.endClauseAt t pc).dies = s.dies := by
  obtain ⟨_, _, _, h⟩ := s.endClauseAt_shape t pc; rw [h]; rfl
@[simp] theorem State.endClauseAt_bridges (s : State) (t pc : Nat) : (s.endClauseAt t pc).bridges = s.bridges := by
  obtain ⟨_, _, _, h⟩ := s.endClauseAt_shape t pc; rw [h]; rfl
@[simp] theorem State.endClauseAt_ports (s : State) (t pc : Nat) : (s.endClauseAt t pc).ports = s.ports := by
  obtain ⟨_, _, _, h⟩ := s.endClauseAt_shape t pc; rw [h]; rfl
@[simp] theorem State.endClauseAt_routes (s : State) (t pc : Nat) : (s.endClauseAt t pc).routes = s.routes := by
  obtain ⟨_, _, _, h⟩ := s.endClauseAt_shape t pc; rw [h]; rfl
@[simp] theorem State.endClauseAt_waitDev (s : State) (t pc : Nat) : (s.endClauseAt t pc).waitDev = s.waitDev := by
  obtain ⟨_, _, _, h⟩ := s.endClauseAt_shape t pc; rw [h]; rfl
@[simp] theorem State.endClauseAt_mcwins (s : State) (t pc : Nat) : (s.endClauseAt t pc).mcwins = s.mcwins := by
  obtain ⟨_, _, _, h⟩ := s.endClauseAt_shape t pc; rw [h]; rfl
@[simp] theorem State.endClauseAt_outq (s : State) (t pc : Nat) : (s.endClauseAt t pc).outq = s.outq := by
  obtain ⟨_, _, _, h⟩ := s.endClauseAt_shape t pc; rw [h]; rfl
@[simp] theorem State.endClauseAt_early (s : State) (t pc : Nat) : (s.endClauseAt t pc).early = s.early := by
  obtain ⟨_, _, _, h⟩ := s.endClauseAt_shape t pc; rw [h]; rfl
@[simp] theorem State.endClauseAt_esend (s : State) (t pc : Nat) : (s.endClauseAt t pc).esend = s.esend := by
  obtain ⟨_, _, _, h⟩ := s.endClauseAt_shape t pc; rw [h]; rfl
@[simp] theorem State.endClauseAt_erecv (s : State) (t pc : Nat) : (s.endClauseAt t pc).erecv = s.erecv := by
  obtain ⟨_, _, _, h⟩ := s.endClauseAt_shape t pc; rw [h]; rfl
@[simp] theorem State.endClauseAt_eresp (s : State) (t pc : Nat) : (s.endClauseAt t pc).eresp = s.eresp := by
  obtain ⟨_, _, _, h⟩ := s.endClauseAt_shape t pc; rw [h]; rfl
@[simp] theorem State.endClauseAt_remops (s : State) (t pc : Nat) : (s.endClauseAt t pc).remops = s.remops := by
  obtain ⟨_, _, _, h⟩ := s.endClauseAt_shape t pc; rw [h]; rfl
@[simp] theorem State.endClauseAt_remNext (s : State) (t pc : Nat) : (s.endClauseAt t pc).remNext = s.remNext := by
  obtain ⟨_, _, _, h⟩ := s.endClauseAt_shape t pc; rw [h]; rfl
@[simp] theorem State.endClauseAt_ppGot (s : State) (t pc : Nat) : (s.endClauseAt t pc).ppGot = s.ppGot := by
  obtain ⟨_, _, _, h⟩ := s.endClauseAt_shape t pc; rw [h]; rfl
@[simp] theorem State.endClauseAt_invals (s : State) (t pc : Nat) : (s.endClauseAt t pc).invals = s.invals := by
  obtain ⟨_, _, _, h⟩ := s.endClauseAt_shape t pc; rw [h]; rfl
@[simp] theorem State.endClauseAt_invNext (s : State) (t pc : Nat) : (s.endClauseAt t pc).invNext = s.invNext := by
  obtain ⟨_, _, _, h⟩ := s.endClauseAt_shape t pc; rw [h]; rfl
@[simp] theorem State.endClauseAt_spdm (s : State) (t pc : Nat) : (s.endClauseAt t pc).spdm = s.spdm := by
  obtain ⟨_, _, _, h⟩ := s.endClauseAt_shape t pc; rw [h]; rfl
@[simp] theorem State.endClauseAt_hostOut (s : State) (t pc : Nat) : (s.endClauseAt t pc).hostOut = s.hostOut := by
  obtain ⟨_, _, _, h⟩ := s.endClauseAt_shape t pc; rw [h]; rfl
@[simp] theorem State.endClauseAt_opLow (s : State) (t pc : Nat) : (s.endClauseAt t pc).opLow = s.opLow := by
  obtain ⟨_, _, _, h⟩ := s.endClauseAt_shape t pc; rw [h]; rfl
@[simp] theorem State.endClauseAt_hbmFail (s : State) (t pc : Nat) : (s.endClauseAt t pc).hbmFail = s.hbmFail := by
  obtain ⟨_, _, _, h⟩ := s.endClauseAt_shape t pc; rw [h]; rfl
@[simp] theorem State.endClauseAt_funcs (s : State) (t pc : Nat) : (s.endClauseAt t pc).funcs = s.funcs := by
  obtain ⟨_, _, _, h⟩ := s.endClauseAt_shape t pc; rw [h]; rfl
@[simp] theorem State.endClauseAt_hostPend (s : State) (t pc : Nat) : (s.endClauseAt t pc).hostPend = s.hostPend := by
  obtain ⟨_, _, _, h⟩ := s.endClauseAt_shape t pc; rw [h]; rfl
@[simp] theorem State.endClauseAt_parked (s : State) (t pc : Nat) : (s.endClauseAt t pc).parked = s.parked := by
  obtain ⟨_, _, _, h⟩ := s.endClauseAt_shape t pc; rw [h]; rfl

@[simp] theorem State.commit_agenda (s : State) (t : Nat) : (s.commit t).agenda = s.agenda := by
  obtain ⟨_, _, _, _, _, _, h, _⟩ := s.commit_shape t; rw [h]; rfl
@[simp] theorem State.commit_cur (s : State) (t : Nat) : (s.commit t).cur = s.cur := by
  obtain ⟨_, _, _, _, _, _, h, _⟩ := s.commit_shape t; rw [h]; rfl
@[simp] theorem State.commit_free (s : State) (t : Nat) : (s.commit t).free = s.free := by
  obtain ⟨_, _, _, _, _, _, h, _⟩ := s.commit_shape t; rw [h]; rfl
@[simp] theorem State.commit_off (s : State) (t : Nat) : (s.commit t).off = s.off := by
  obtain ⟨_, _, _, _, _, _, h, _⟩ := s.commit_shape t; rw [h]; rfl
@[simp] theorem State.commit_down (s : State) (t : Nat) : (s.commit t).down = s.down := by
  obtain ⟨_, _, _, _, _, _, h, _⟩ := s.commit_shape t; rw [h]; rfl
@[simp] theorem State.commit_recovery (s : State) (t : Nat) : (s.commit t).recovery = s.recovery := by
  obtain ⟨_, _, _, _, _, _, h, _⟩ := s.commit_shape t; rw [h]; rfl
@[simp] theorem State.commit_boot (s : State) (t : Nat) : (s.commit t).boot = s.boot := by
  obtain ⟨_, _, _, _, _, _, h, _⟩ := s.commit_shape t; rw [h]; rfl
@[simp] theorem State.commit_brFail (s : State) (t : Nat) : (s.commit t).brFail = s.brFail := by
  obtain ⟨_, _, _, _, _, _, h, _⟩ := s.commit_shape t; rw [h]; rfl
@[simp] theorem State.commit_brLast (s : State) (t : Nat) : (s.commit t).brLast = s.brLast := by
  obtain ⟨_, _, _, _, _, _, h, _⟩ := s.commit_shape t; rw [h]; rfl
@[simp] theorem State.commit_brBoots (s : State) (t : Nat) : (s.commit t).brBoots = s.brBoots := by
  obtain ⟨_, _, _, _, _, _, h, _⟩ := s.commit_shape t; rw [h]; rfl
@[simp] theorem State.commit_image (s : State) (t : Nat) : (s.commit t).image = s.image := by
  obtain ⟨_, _, _, _, _, _, h, _⟩ := s.commit_shape t; rw [h]; rfl
@[simp] theorem State.commit_nextImage (s : State) (t : Nat) : (s.commit t).nextImage = s.nextImage := by
  obtain ⟨_, _, _, _, _, _, h, _⟩ := s.commit_shape t; rw [h]; rfl
@[simp] theorem State.commit_refCycle (s : State) (t : Nat) : (s.commit t).refCycle = s.refCycle := by
  obtain ⟨_, _, _, _, _, _, h, _⟩ := s.commit_shape t; rw [h]; rfl
@[simp] theorem State.commit_cxstsCtx (s : State) (t : Nat) : (s.commit t).cxstsCtx = s.cxstsCtx := by
  obtain ⟨_, _, _, _, _, _, h, _⟩ := s.commit_shape t; rw [h]; rfl
@[simp] theorem State.commit_cxstsRes (s : State) (t : Nat) : (s.commit t).cxstsRes = s.cxstsRes := by
  obtain ⟨_, _, _, _, _, _, h, _⟩ := s.commit_shape t; rw [h]; rfl
@[simp] theorem State.commit_cmds (s : State) (t : Nat) : (s.commit t).cmds = s.cmds := by
  obtain ⟨_, _, _, _, _, _, h, _⟩ := s.commit_shape t; rw [h]; rfl
@[simp] theorem State.commit_qctlRes (s : State) (t : Nat) : (s.commit t).qctlRes = s.qctlRes := by
  obtain ⟨_, _, _, _, _, _, h, _⟩ := s.commit_shape t; rw [h]; rfl
@[simp] theorem State.commit_drstRes (s : State) (t : Nat) : (s.commit t).drstRes = s.drstRes := by
  obtain ⟨_, _, _, _, _, _, h, _⟩ := s.commit_shape t; rw [h]; rfl
@[simp] theorem State.commit_dbgsel (s : State) (t : Nat) : (s.commit t).dbgsel = s.dbgsel := by
  obtain ⟨_, _, _, _, _, _, h, _⟩ := s.commit_shape t; rw [h]; rfl
@[simp] theorem State.commit_dbgdat (s : State) (t : Nat) : (s.commit t).dbgdat = s.dbgdat := by
  obtain ⟨_, _, _, _, _, _, h, _⟩ := s.commit_shape t; rw [h]; rfl
@[simp] theorem State.commit_lmbase (s : State) (t : Nat) : (s.commit t).lmbase = s.lmbase := by
  obtain ⟨_, _, _, _, _, _, h, _⟩ := s.commit_shape t; rw [h]; rfl
@[simp] theorem State.commit_badacc (s : State) (t : Nat) : (s.commit t).badacc = s.badacc := by
  obtain ⟨_, _, _, _, _, _, h, _⟩ := s.commit_shape t; rw [h]; rfl
@[simp] theorem State.commit_devnum (s : State) (t : Nat) : (s.commit t).devnum = s.devnum := by
  obtain ⟨_, _, _, _, _, _, h, _⟩ := s.commit_shape t; rw [h]; rfl
@[simp] theorem State.commit_bridge (s : State) (t : Nat) : (s.commit t).bridge = s.bridge := by
  obtain ⟨_, _, _, _, _, _, h, _⟩ := s.commit_shape t; rw [h]; rfl
@[simp] theorem State.commit_hostfn (s : State) (t : Nat) : (s.commit t).hostfn = s.hostfn := by
  obtain ⟨_, _, _, _, _, _, h, _⟩ := s.commit_shape t; rw [h]; rfl
@[simp] theorem State.commit_pcieOff (s : State) (t : Nat) : (s.commit t).pcieOff = s.pcieOff := by
  obtain ⟨_, _, _, _, _, _, h, _⟩ := s.commit_shape t; rw [h]; rfl
@[simp] theorem State.commit_hostAtomics (s : State) (t : Nat) : (s.commit t).hostAtomics = s.hostAtomics := by
  obtain ⟨_, _, _, _, _, _, h, _⟩ := s.commit_shape t; rw [h]; rfl
@[simp] theorem State.commit_ctxBase (s : State) (t : Nat) : (s.commit t).ctxBase = s.ctxBase := by
  obtain ⟨_, _, _, _, _, _, h, _⟩ := s.commit_shape t; rw [h]; rfl
@[simp] theorem State.commit_qBase (s : State) (t : Nat) : (s.commit t).qBase = s.qBase := by
  obtain ⟨_, _, _, _, _, _, h, _⟩ := s.commit_shape t; rw [h]; rfl
@[simp] theorem State.commit_dbBase (s : State) (t : Nat) : (s.commit t).dbBase = s.dbBase := by
  obtain ⟨_, _, _, _, _, _, h, _⟩ := s.commit_shape t; rw [h]; rfl
@[simp] theorem State.commit_hbm (s : State) (t : Nat) : (s.commit t).hbm = s.hbm := by
  obtain ⟨_, _, _, _, _, _, h, _⟩ := s.commit_shape t; rw [h]; rfl
@[simp] theorem State.commit_opReq (s : State) (t : Nat) : (s.commit t).opReq = s.opReq := by
  obtain ⟨_, _, _, _, _, _, h, _⟩ := s.commit_shape t; rw [h]; rfl
@[simp] theorem State.commit_opPower (s : State) (t : Nat) : (s.commit t).opPower = s.opPower := by
  obtain ⟨_, _, _, _, _, _, h, _⟩ := s.commit_shape t; rw [h]; rfl
@[simp] theorem State.commit_opUse (s : State) (t : Nat) : (s.commit t).opUse = s.opUse := by
  obtain ⟨_, _, _, _, _, _, h, _⟩ := s.commit_shape t; rw [h]; rfl
@[simp] theorem State.commit_opNext (s : State) (t : Nat) : (s.commit t).opNext = s.opNext := by
  obtain ⟨_, _, _, _, _, _, h, _⟩ := s.commit_shape t; rw [h]; rfl
@[simp] theorem State.commit_hist (s : State) (t : Nat) : (s.commit t).hist = s.hist := by
  obtain ⟨_, _, _, _, _, _, h, _⟩ := s.commit_shape t; rw [h]; rfl
@[simp] theorem State.commit_lastPow (s : State) (t : Nat) : (s.commit t).lastPow = s.lastPow := by
  obtain ⟨_, _, _, _, _, _, h, _⟩ := s.commit_shape t; rw [h]; rfl
@[simp] theorem State.commit_epoch (s : State) (t : Nat) : (s.commit t).epoch = s.epoch := by
  obtain ⟨_, _, _, _, _, _, h, _⟩ := s.commit_shape t; rw [h]; rfl
@[simp] theorem State.commit_tagBits (s : State) (t : Nat) : (s.commit t).tagBits = s.tagBits := by
  obtain ⟨_, _, _, _, _, _, h, _⟩ := s.commit_shape t; rw [h]; rfl
@[simp] theorem State.commit_gran (s : State) (t : Nat) : (s.commit t).gran = s.gran := by
  obtain ⟨_, _, _, _, _, _, h, _⟩ := s.commit_shape t; rw [h]; rfl
@[simp] theorem State.commit_lineOwner (s : State) (t : Nat) : (s.commit t).lineOwner = s.lineOwner := by
  obtain ⟨_, _, _, _, _, _, h, _⟩ := s.commit_shape t; rw [h]; rfl
@[simp] theorem State.commit_poison (s : State) (t : Nat) : (s.commit t).poison = s.poison := by
  obtain ⟨_, _, _, _, _, _, h, _⟩ := s.commit_shape t; rw [h]; rfl
@[simp] theorem State.commit_poisonL2 (s : State) (t : Nat) : (s.commit t).poisonL2 = s.poisonL2 := by
  obtain ⟨_, _, _, _, _, _, h, _⟩ := s.commit_shape t; rw [h]; rfl
@[simp] theorem State.commit_softErrs (s : State) (t : Nat) : (s.commit t).softErrs = s.softErrs := by
  obtain ⟨_, _, _, _, _, _, h, _⟩ := s.commit_shape t; rw [h]; rfl
@[simp] theorem State.commit_softL2 (s : State) (t : Nat) : (s.commit t).softL2 = s.softL2 := by
  obtain ⟨_, _, _, _, _, _, h, _⟩ := s.commit_shape t; rw [h]; rfl
@[simp] theorem State.commit_gangs (s : State) (t : Nat) : (s.commit t).gangs = s.gangs := by
  obtain ⟨_, _, _, _, _, _, h, _⟩ := s.commit_shape t; rw [h]; rfl
@[simp] theorem State.commit_insts (s : State) (t : Nat) : (s.commit t).insts = s.insts := by
  obtain ⟨_, _, _, _, _, _, h, _⟩ := s.commit_shape t; rw [h]; rfl
@[simp] theorem State.commit_instNext (s : State) (t : Nat) : (s.commit t).instNext = s.instNext := by
  obtain ⟨_, _, _, _, _, _, h, _⟩ := s.commit_shape t; rw [h]; rfl
@[simp] theorem State.commit_cores (s : State) (t : Nat) : (s.commit t).cores = s.cores := by
  obtain ⟨_, _, _, _, _, _, h, _⟩ := s.commit_shape t; rw [h]; rfl
@[simp] theorem State.commit_queues (s : State) (t : Nat) : (s.commit t).queues = s.queues := by
  obtain ⟨_, _, _, _, _, _, h, _⟩ := s.commit_shape t; rw [h]; rfl
@[simp] theorem State.commit_kernNext (s : State) (t : Nat) : (s.commit t).kernNext = s.kernNext := by
  obtain ⟨_, _, _, _, _, _, h, _⟩ := s.commit_shape t; rw [h]; rfl
@[simp] theorem State.commit_conduits (s : State) (t : Nat) : (s.commit t).conduits = s.conduits := by
  obtain ⟨_, _, _, _, _, _, h, _⟩ := s.commit_shape t; rw [h]; rfl
@[simp] theorem State.commit_cdNext (s : State) (t : Nat) : (s.commit t).cdNext = s.cdNext := by
  obtain ⟨_, _, _, _, _, _, h, _⟩ := s.commit_shape t; rw [h]; rfl
@[simp] theorem State.commit_walkNext (s : State) (t : Nat) : (s.commit t).walkNext = s.walkNext := by
  obtain ⟨_, _, _, _, _, _, h, _⟩ := s.commit_shape t; rw [h]; rfl
@[simp] theorem State.commit_issueNo (s : State) (t : Nat) : (s.commit t).issueNo = s.issueNo := by
  obtain ⟨_, _, _, _, _, _, h, _⟩ := s.commit_shape t; rw [h]; rfl
@[simp] theorem State.commit_dies (s : State) (t : Nat) : (s.commit t).dies = s.dies := by
  obtain ⟨_, _, _, _, _, _, h, _⟩ := s.commit_shape t; rw [h]; rfl
@[simp] theorem State.commit_bridges (s : State) (t : Nat) : (s.commit t).bridges = s.bridges := by
  obtain ⟨_, _, _, _, _, _, h, _⟩ := s.commit_shape t; rw [h]; rfl
@[simp] theorem State.commit_ports (s : State) (t : Nat) : (s.commit t).ports = s.ports := by
  obtain ⟨_, _, _, _, _, _, h, _⟩ := s.commit_shape t; rw [h]; rfl
@[simp] theorem State.commit_routes (s : State) (t : Nat) : (s.commit t).routes = s.routes := by
  obtain ⟨_, _, _, _, _, _, h, _⟩ := s.commit_shape t; rw [h]; rfl
@[simp] theorem State.commit_waitDev (s : State) (t : Nat) : (s.commit t).waitDev = s.waitDev := by
  obtain ⟨_, _, _, _, _, _, h, _⟩ := s.commit_shape t; rw [h]; rfl
@[simp] theorem State.commit_mcwins (s : State) (t : Nat) : (s.commit t).mcwins = s.mcwins := by
  obtain ⟨_, _, _, _, _, _, h, _⟩ := s.commit_shape t; rw [h]; rfl
@[simp] theorem State.commit_early (s : State) (t : Nat) : (s.commit t).early = s.early := by
  obtain ⟨_, _, _, _, _, _, h, _⟩ := s.commit_shape t; rw [h]; rfl
@[simp] theorem State.commit_erecv (s : State) (t : Nat) : (s.commit t).erecv = s.erecv := by
  obtain ⟨_, _, _, _, _, _, h, _⟩ := s.commit_shape t; rw [h]; rfl
@[simp] theorem State.commit_eresp (s : State) (t : Nat) : (s.commit t).eresp = s.eresp := by
  obtain ⟨_, _, _, _, _, _, h, _⟩ := s.commit_shape t; rw [h]; rfl
@[simp] theorem State.commit_remops (s : State) (t : Nat) : (s.commit t).remops = s.remops := by
  obtain ⟨_, _, _, _, _, _, h, _⟩ := s.commit_shape t; rw [h]; rfl
@[simp] theorem State.commit_remNext (s : State) (t : Nat) : (s.commit t).remNext = s.remNext := by
  obtain ⟨_, _, _, _, _, _, h, _⟩ := s.commit_shape t; rw [h]; rfl
@[simp] theorem State.commit_ppGot (s : State) (t : Nat) : (s.commit t).ppGot = s.ppGot := by
  obtain ⟨_, _, _, _, _, _, h, _⟩ := s.commit_shape t; rw [h]; rfl
@[simp] theorem State.commit_invals (s : State) (t : Nat) : (s.commit t).invals = s.invals := by
  obtain ⟨_, _, _, _, _, _, h, _⟩ := s.commit_shape t; rw [h]; rfl
@[simp] theorem State.commit_invNext (s : State) (t : Nat) : (s.commit t).invNext = s.invNext := by
  obtain ⟨_, _, _, _, _, _, h, _⟩ := s.commit_shape t; rw [h]; rfl
@[simp] theorem State.commit_spdm (s : State) (t : Nat) : (s.commit t).spdm = s.spdm := by
  obtain ⟨_, _, _, _, _, _, h, _⟩ := s.commit_shape t; rw [h]; rfl
@[simp] theorem State.commit_hostOut (s : State) (t : Nat) : (s.commit t).hostOut = s.hostOut := by
  obtain ⟨_, _, _, _, _, _, h, _⟩ := s.commit_shape t; rw [h]; rfl
@[simp] theorem State.commit_opLow (s : State) (t : Nat) : (s.commit t).opLow = s.opLow := by
  obtain ⟨_, _, _, _, _, _, h, _⟩ := s.commit_shape t; rw [h]; rfl
@[simp] theorem State.commit_hbmFail (s : State) (t : Nat) : (s.commit t).hbmFail = s.hbmFail := by
  obtain ⟨_, _, _, _, _, _, h, _⟩ := s.commit_shape t; rw [h]; rfl
@[simp] theorem State.commit_funcs (s : State) (t : Nat) : (s.commit t).funcs = s.funcs := by
  obtain ⟨_, _, _, _, _, _, h, _⟩ := s.commit_shape t; rw [h]; rfl
@[simp] theorem State.commit_hostPend (s : State) (t : Nat) : (s.commit t).hostPend = s.hostPend := by
  obtain ⟨_, _, _, _, _, _, h, _⟩ := s.commit_shape t; rw [h]; rfl
@[simp] theorem State.commit_parked (s : State) (t : Nat) : (s.commit t).parked = s.parked := by
  obtain ⟨_, _, _, _, _, _, h, _⟩ := s.commit_shape t; rw [h]; rfl

@[simp] theorem State.done_agenda (s : State) (t : Nat) : (s.done t).agenda = s.agenda := by
  obtain ⟨_, _, _, _, _, _, _, _, _, h, _⟩ := s.done_shape t; rw [h]; rfl
@[simp] theorem State.done_cur (s : State) (t : Nat) : (s.done t).cur = s.cur := by
  obtain ⟨_, _, _, _, _, _, _, _, _, h, _⟩ := s.done_shape t; rw [h]; rfl
@[simp] theorem State.done_free (s : State) (t : Nat) : (s.done t).free = s.free := by
  obtain ⟨_, _, _, _, _, _, _, _, _, h, _⟩ := s.done_shape t; rw [h]; rfl
@[simp] theorem State.done_off (s : State) (t : Nat) : (s.done t).off = s.off := by
  obtain ⟨_, _, _, _, _, _, _, _, _, h, _⟩ := s.done_shape t; rw [h]; rfl
@[simp] theorem State.done_down (s : State) (t : Nat) : (s.done t).down = s.down := by
  obtain ⟨_, _, _, _, _, _, _, _, _, h, _⟩ := s.done_shape t; rw [h]; rfl
@[simp] theorem State.done_recovery (s : State) (t : Nat) : (s.done t).recovery = s.recovery := by
  obtain ⟨_, _, _, _, _, _, _, _, _, h, _⟩ := s.done_shape t; rw [h]; rfl
@[simp] theorem State.done_boot (s : State) (t : Nat) : (s.done t).boot = s.boot := by
  obtain ⟨_, _, _, _, _, _, _, _, _, h, _⟩ := s.done_shape t; rw [h]; rfl
@[simp] theorem State.done_brFail (s : State) (t : Nat) : (s.done t).brFail = s.brFail := by
  obtain ⟨_, _, _, _, _, _, _, _, _, h, _⟩ := s.done_shape t; rw [h]; rfl
@[simp] theorem State.done_brLast (s : State) (t : Nat) : (s.done t).brLast = s.brLast := by
  obtain ⟨_, _, _, _, _, _, _, _, _, h, _⟩ := s.done_shape t; rw [h]; rfl
@[simp] theorem State.done_brBoots (s : State) (t : Nat) : (s.done t).brBoots = s.brBoots := by
  obtain ⟨_, _, _, _, _, _, _, _, _, h, _⟩ := s.done_shape t; rw [h]; rfl
@[simp] theorem State.done_image (s : State) (t : Nat) : (s.done t).image = s.image := by
  obtain ⟨_, _, _, _, _, _, _, _, _, h, _⟩ := s.done_shape t; rw [h]; rfl
@[simp] theorem State.done_nextImage (s : State) (t : Nat) : (s.done t).nextImage = s.nextImage := by
  obtain ⟨_, _, _, _, _, _, _, _, _, h, _⟩ := s.done_shape t; rw [h]; rfl
@[simp] theorem State.done_refCycle (s : State) (t : Nat) : (s.done t).refCycle = s.refCycle := by
  obtain ⟨_, _, _, _, _, _, _, _, _, h, _⟩ := s.done_shape t; rw [h]; rfl
@[simp] theorem State.done_cxstsCtx (s : State) (t : Nat) : (s.done t).cxstsCtx = s.cxstsCtx := by
  obtain ⟨_, _, _, _, _, _, _, _, _, h, _⟩ := s.done_shape t; rw [h]; rfl
@[simp] theorem State.done_cxstsRes (s : State) (t : Nat) : (s.done t).cxstsRes = s.cxstsRes := by
  obtain ⟨_, _, _, _, _, _, _, _, _, h, _⟩ := s.done_shape t; rw [h]; rfl
@[simp] theorem State.done_cmds (s : State) (t : Nat) : (s.done t).cmds = s.cmds := by
  obtain ⟨_, _, _, _, _, _, _, _, _, h, _⟩ := s.done_shape t; rw [h]; rfl
@[simp] theorem State.done_qctlRes (s : State) (t : Nat) : (s.done t).qctlRes = s.qctlRes := by
  obtain ⟨_, _, _, _, _, _, _, _, _, h, _⟩ := s.done_shape t; rw [h]; rfl
@[simp] theorem State.done_drstRes (s : State) (t : Nat) : (s.done t).drstRes = s.drstRes := by
  obtain ⟨_, _, _, _, _, _, _, _, _, h, _⟩ := s.done_shape t; rw [h]; rfl
@[simp] theorem State.done_dbgsel (s : State) (t : Nat) : (s.done t).dbgsel = s.dbgsel := by
  obtain ⟨_, _, _, _, _, _, _, _, _, h, _⟩ := s.done_shape t; rw [h]; rfl
@[simp] theorem State.done_dbgdat (s : State) (t : Nat) : (s.done t).dbgdat = s.dbgdat := by
  obtain ⟨_, _, _, _, _, _, _, _, _, h, _⟩ := s.done_shape t; rw [h]; rfl
@[simp] theorem State.done_lmbase (s : State) (t : Nat) : (s.done t).lmbase = s.lmbase := by
  obtain ⟨_, _, _, _, _, _, _, _, _, h, _⟩ := s.done_shape t; rw [h]; rfl
@[simp] theorem State.done_badacc (s : State) (t : Nat) : (s.done t).badacc = s.badacc := by
  obtain ⟨_, _, _, _, _, _, _, _, _, h, _⟩ := s.done_shape t; rw [h]; rfl
@[simp] theorem State.done_devnum (s : State) (t : Nat) : (s.done t).devnum = s.devnum := by
  obtain ⟨_, _, _, _, _, _, _, _, _, h, _⟩ := s.done_shape t; rw [h]; rfl
@[simp] theorem State.done_bridge (s : State) (t : Nat) : (s.done t).bridge = s.bridge := by
  obtain ⟨_, _, _, _, _, _, _, _, _, h, _⟩ := s.done_shape t; rw [h]; rfl
@[simp] theorem State.done_hostfn (s : State) (t : Nat) : (s.done t).hostfn = s.hostfn := by
  obtain ⟨_, _, _, _, _, _, _, _, _, h, _⟩ := s.done_shape t; rw [h]; rfl
@[simp] theorem State.done_pcieOff (s : State) (t : Nat) : (s.done t).pcieOff = s.pcieOff := by
  obtain ⟨_, _, _, _, _, _, _, _, _, h, _⟩ := s.done_shape t; rw [h]; rfl
@[simp] theorem State.done_hostAtomics (s : State) (t : Nat) : (s.done t).hostAtomics = s.hostAtomics := by
  obtain ⟨_, _, _, _, _, _, _, _, _, h, _⟩ := s.done_shape t; rw [h]; rfl
@[simp] theorem State.done_ctxBase (s : State) (t : Nat) : (s.done t).ctxBase = s.ctxBase := by
  obtain ⟨_, _, _, _, _, _, _, _, _, h, _⟩ := s.done_shape t; rw [h]; rfl
@[simp] theorem State.done_qBase (s : State) (t : Nat) : (s.done t).qBase = s.qBase := by
  obtain ⟨_, _, _, _, _, _, _, _, _, h, _⟩ := s.done_shape t; rw [h]; rfl
@[simp] theorem State.done_dbBase (s : State) (t : Nat) : (s.done t).dbBase = s.dbBase := by
  obtain ⟨_, _, _, _, _, _, _, _, _, h, _⟩ := s.done_shape t; rw [h]; rfl
@[simp] theorem State.done_hbm (s : State) (t : Nat) : (s.done t).hbm = s.hbm := by
  obtain ⟨_, _, _, _, _, _, _, _, _, h, _⟩ := s.done_shape t; rw [h]; rfl
@[simp] theorem State.done_opReq (s : State) (t : Nat) : (s.done t).opReq = s.opReq := by
  obtain ⟨_, _, _, _, _, _, _, _, _, h, _⟩ := s.done_shape t; rw [h]; rfl
@[simp] theorem State.done_opPower (s : State) (t : Nat) : (s.done t).opPower = s.opPower := by
  obtain ⟨_, _, _, _, _, _, _, _, _, h, _⟩ := s.done_shape t; rw [h]; rfl
@[simp] theorem State.done_opUse (s : State) (t : Nat) : (s.done t).opUse = s.opUse := by
  obtain ⟨_, _, _, _, _, _, _, _, _, h, _⟩ := s.done_shape t; rw [h]; rfl
@[simp] theorem State.done_opNext (s : State) (t : Nat) : (s.done t).opNext = s.opNext := by
  obtain ⟨_, _, _, _, _, _, _, _, _, h, _⟩ := s.done_shape t; rw [h]; rfl
@[simp] theorem State.done_hist (s : State) (t : Nat) : (s.done t).hist = s.hist := by
  obtain ⟨_, _, _, _, _, _, _, _, _, h, _⟩ := s.done_shape t; rw [h]; rfl
@[simp] theorem State.done_lastPow (s : State) (t : Nat) : (s.done t).lastPow = s.lastPow := by
  obtain ⟨_, _, _, _, _, _, _, _, _, h, _⟩ := s.done_shape t; rw [h]; rfl
@[simp] theorem State.done_epoch (s : State) (t : Nat) : (s.done t).epoch = s.epoch := by
  obtain ⟨_, _, _, _, _, _, _, _, _, h, _⟩ := s.done_shape t; rw [h]; rfl
@[simp] theorem State.done_tagBits (s : State) (t : Nat) : (s.done t).tagBits = s.tagBits := by
  obtain ⟨_, _, _, _, _, _, _, _, _, h, _⟩ := s.done_shape t; rw [h]; rfl
@[simp] theorem State.done_gran (s : State) (t : Nat) : (s.done t).gran = s.gran := by
  obtain ⟨_, _, _, _, _, _, _, _, _, h, _⟩ := s.done_shape t; rw [h]; rfl
@[simp] theorem State.done_lineOwner (s : State) (t : Nat) : (s.done t).lineOwner = s.lineOwner := by
  obtain ⟨_, _, _, _, _, _, _, _, _, h, _⟩ := s.done_shape t; rw [h]; rfl
@[simp] theorem State.done_poison (s : State) (t : Nat) : (s.done t).poison = s.poison := by
  obtain ⟨_, _, _, _, _, _, _, _, _, h, _⟩ := s.done_shape t; rw [h]; rfl
@[simp] theorem State.done_poisonL2 (s : State) (t : Nat) : (s.done t).poisonL2 = s.poisonL2 := by
  obtain ⟨_, _, _, _, _, _, _, _, _, h, _⟩ := s.done_shape t; rw [h]; rfl
@[simp] theorem State.done_softErrs (s : State) (t : Nat) : (s.done t).softErrs = s.softErrs := by
  obtain ⟨_, _, _, _, _, _, _, _, _, h, _⟩ := s.done_shape t; rw [h]; rfl
@[simp] theorem State.done_softL2 (s : State) (t : Nat) : (s.done t).softL2 = s.softL2 := by
  obtain ⟨_, _, _, _, _, _, _, _, _, h, _⟩ := s.done_shape t; rw [h]; rfl
@[simp] theorem State.done_gangs (s : State) (t : Nat) : (s.done t).gangs = s.gangs := by
  obtain ⟨_, _, _, _, _, _, _, _, _, h, _⟩ := s.done_shape t; rw [h]; rfl
@[simp] theorem State.done_insts (s : State) (t : Nat) : (s.done t).insts = s.insts := by
  obtain ⟨_, _, _, _, _, _, _, _, _, h, _⟩ := s.done_shape t; rw [h]; rfl
@[simp] theorem State.done_instNext (s : State) (t : Nat) : (s.done t).instNext = s.instNext := by
  obtain ⟨_, _, _, _, _, _, _, _, _, h, _⟩ := s.done_shape t; rw [h]; rfl
@[simp] theorem State.done_queues (s : State) (t : Nat) : (s.done t).queues = s.queues := by
  obtain ⟨_, _, _, _, _, _, _, _, _, h, _⟩ := s.done_shape t; rw [h]; rfl
@[simp] theorem State.done_kernNext (s : State) (t : Nat) : (s.done t).kernNext = s.kernNext := by
  obtain ⟨_, _, _, _, _, _, _, _, _, h, _⟩ := s.done_shape t; rw [h]; rfl
@[simp] theorem State.done_conduits (s : State) (t : Nat) : (s.done t).conduits = s.conduits := by
  obtain ⟨_, _, _, _, _, _, _, _, _, h, _⟩ := s.done_shape t; rw [h]; rfl
@[simp] theorem State.done_cdNext (s : State) (t : Nat) : (s.done t).cdNext = s.cdNext := by
  obtain ⟨_, _, _, _, _, _, _, _, _, h, _⟩ := s.done_shape t; rw [h]; rfl
@[simp] theorem State.done_walkNext (s : State) (t : Nat) : (s.done t).walkNext = s.walkNext := by
  obtain ⟨_, _, _, _, _, _, _, _, _, h, _⟩ := s.done_shape t; rw [h]; rfl
@[simp] theorem State.done_issueNo (s : State) (t : Nat) : (s.done t).issueNo = s.issueNo := by
  obtain ⟨_, _, _, _, _, _, _, _, _, h, _⟩ := s.done_shape t; rw [h]; rfl
@[simp] theorem State.done_dies (s : State) (t : Nat) : (s.done t).dies = s.dies := by
  obtain ⟨_, _, _, _, _, _, _, _, _, h, _⟩ := s.done_shape t; rw [h]; rfl
@[simp] theorem State.done_bridges (s : State) (t : Nat) : (s.done t).bridges = s.bridges := by
  obtain ⟨_, _, _, _, _, _, _, _, _, h, _⟩ := s.done_shape t; rw [h]; rfl
@[simp] theorem State.done_ports (s : State) (t : Nat) : (s.done t).ports = s.ports := by
  obtain ⟨_, _, _, _, _, _, _, _, _, h, _⟩ := s.done_shape t; rw [h]; rfl
@[simp] theorem State.done_routes (s : State) (t : Nat) : (s.done t).routes = s.routes := by
  obtain ⟨_, _, _, _, _, _, _, _, _, h, _⟩ := s.done_shape t; rw [h]; rfl
@[simp] theorem State.done_waitDev (s : State) (t : Nat) : (s.done t).waitDev = s.waitDev := by
  obtain ⟨_, _, _, _, _, _, _, _, _, h, _⟩ := s.done_shape t; rw [h]; rfl
@[simp] theorem State.done_mcwins (s : State) (t : Nat) : (s.done t).mcwins = s.mcwins := by
  obtain ⟨_, _, _, _, _, _, _, _, _, h, _⟩ := s.done_shape t; rw [h]; rfl
@[simp] theorem State.done_early (s : State) (t : Nat) : (s.done t).early = s.early := by
  obtain ⟨_, _, _, _, _, _, _, _, _, h, _⟩ := s.done_shape t; rw [h]; rfl
@[simp] theorem State.done_erecv (s : State) (t : Nat) : (s.done t).erecv = s.erecv := by
  obtain ⟨_, _, _, _, _, _, _, _, _, h, _⟩ := s.done_shape t; rw [h]; rfl
@[simp] theorem State.done_eresp (s : State) (t : Nat) : (s.done t).eresp = s.eresp := by
  obtain ⟨_, _, _, _, _, _, _, _, _, h, _⟩ := s.done_shape t; rw [h]; rfl
@[simp] theorem State.done_remops (s : State) (t : Nat) : (s.done t).remops = s.remops := by
  obtain ⟨_, _, _, _, _, _, _, _, _, h, _⟩ := s.done_shape t; rw [h]; rfl
@[simp] theorem State.done_remNext (s : State) (t : Nat) : (s.done t).remNext = s.remNext := by
  obtain ⟨_, _, _, _, _, _, _, _, _, h, _⟩ := s.done_shape t; rw [h]; rfl
@[simp] theorem State.done_ppGot (s : State) (t : Nat) : (s.done t).ppGot = s.ppGot := by
  obtain ⟨_, _, _, _, _, _, _, _, _, h, _⟩ := s.done_shape t; rw [h]; rfl
@[simp] theorem State.done_invals (s : State) (t : Nat) : (s.done t).invals = s.invals := by
  obtain ⟨_, _, _, _, _, _, _, _, _, h, _⟩ := s.done_shape t; rw [h]; rfl
@[simp] theorem State.done_invNext (s : State) (t : Nat) : (s.done t).invNext = s.invNext := by
  obtain ⟨_, _, _, _, _, _, _, _, _, h, _⟩ := s.done_shape t; rw [h]; rfl
@[simp] theorem State.done_spdm (s : State) (t : Nat) : (s.done t).spdm = s.spdm := by
  obtain ⟨_, _, _, _, _, _, _, _, _, h, _⟩ := s.done_shape t; rw [h]; rfl
@[simp] theorem State.done_hostOut (s : State) (t : Nat) : (s.done t).hostOut = s.hostOut := by
  obtain ⟨_, _, _, _, _, _, _, _, _, h, _⟩ := s.done_shape t; rw [h]; rfl
@[simp] theorem State.done_opLow (s : State) (t : Nat) : (s.done t).opLow = s.opLow := by
  obtain ⟨_, _, _, _, _, _, _, _, _, h, _⟩ := s.done_shape t; rw [h]; rfl
@[simp] theorem State.done_hbmFail (s : State) (t : Nat) : (s.done t).hbmFail = s.hbmFail := by
  obtain ⟨_, _, _, _, _, _, _, _, _, h, _⟩ := s.done_shape t; rw [h]; rfl
@[simp] theorem State.done_funcs (s : State) (t : Nat) : (s.done t).funcs = s.funcs := by
  obtain ⟨_, _, _, _, _, _, _, _, _, h, _⟩ := s.done_shape t; rw [h]; rfl
@[simp] theorem State.done_hostPend (s : State) (t : Nat) : (s.done t).hostPend = s.hostPend := by
  obtain ⟨_, _, _, _, _, _, _, _, _, h, _⟩ := s.done_shape t; rw [h]; rfl
@[simp] theorem State.done_parked (s : State) (t : Nat) : (s.done t).parked = s.parked := by
  obtain ⟨_, _, _, _, _, _, _, _, _, h, _⟩ := s.done_shape t; rw [h]; rfl

@[simp] theorem State.noted_agenda (s : State) (t : Nat) (z m : Bool) (f : Nat) : (s.noted t z m f).agenda = s.agenda := rfl
@[simp] theorem State.noted_cur (s : State) (t : Nat) (z m : Bool) (f : Nat) : (s.noted t z m f).cur = s.cur := rfl
@[simp] theorem State.noted_free (s : State) (t : Nat) (z m : Bool) (f : Nat) : (s.noted t z m f).free = s.free := rfl
@[simp] theorem State.noted_off (s : State) (t : Nat) (z m : Bool) (f : Nat) : (s.noted t z m f).off = s.off := rfl
@[simp] theorem State.noted_down (s : State) (t : Nat) (z m : Bool) (f : Nat) : (s.noted t z m f).down = s.down := rfl
@[simp] theorem State.noted_recovery (s : State) (t : Nat) (z m : Bool) (f : Nat) : (s.noted t z m f).recovery = s.recovery := rfl
@[simp] theorem State.noted_boot (s : State) (t : Nat) (z m : Bool) (f : Nat) : (s.noted t z m f).boot = s.boot := rfl
@[simp] theorem State.noted_brFail (s : State) (t : Nat) (z m : Bool) (f : Nat) : (s.noted t z m f).brFail = s.brFail := rfl
@[simp] theorem State.noted_brLast (s : State) (t : Nat) (z m : Bool) (f : Nat) : (s.noted t z m f).brLast = s.brLast := rfl
@[simp] theorem State.noted_brBoots (s : State) (t : Nat) (z m : Bool) (f : Nat) : (s.noted t z m f).brBoots = s.brBoots := rfl
@[simp] theorem State.noted_image (s : State) (t : Nat) (z m : Bool) (f : Nat) : (s.noted t z m f).image = s.image := rfl
@[simp] theorem State.noted_nextImage (s : State) (t : Nat) (z m : Bool) (f : Nat) : (s.noted t z m f).nextImage = s.nextImage := rfl
@[simp] theorem State.noted_refCycle (s : State) (t : Nat) (z m : Bool) (f : Nat) : (s.noted t z m f).refCycle = s.refCycle := rfl
@[simp] theorem State.noted_cxstsCtx (s : State) (t : Nat) (z m : Bool) (f : Nat) : (s.noted t z m f).cxstsCtx = s.cxstsCtx := rfl
@[simp] theorem State.noted_cxstsRes (s : State) (t : Nat) (z m : Bool) (f : Nat) : (s.noted t z m f).cxstsRes = s.cxstsRes := rfl
@[simp] theorem State.noted_cmds (s : State) (t : Nat) (z m : Bool) (f : Nat) : (s.noted t z m f).cmds = s.cmds := rfl
@[simp] theorem State.noted_qctlRes (s : State) (t : Nat) (z m : Bool) (f : Nat) : (s.noted t z m f).qctlRes = s.qctlRes := rfl
@[simp] theorem State.noted_drstRes (s : State) (t : Nat) (z m : Bool) (f : Nat) : (s.noted t z m f).drstRes = s.drstRes := rfl
@[simp] theorem State.noted_dbgsel (s : State) (t : Nat) (z m : Bool) (f : Nat) : (s.noted t z m f).dbgsel = s.dbgsel := rfl
@[simp] theorem State.noted_dbgdat (s : State) (t : Nat) (z m : Bool) (f : Nat) : (s.noted t z m f).dbgdat = s.dbgdat := rfl
@[simp] theorem State.noted_lmbase (s : State) (t : Nat) (z m : Bool) (f : Nat) : (s.noted t z m f).lmbase = s.lmbase := rfl
@[simp] theorem State.noted_badacc (s : State) (t : Nat) (z m : Bool) (f : Nat) : (s.noted t z m f).badacc = s.badacc := rfl
@[simp] theorem State.noted_devnum (s : State) (t : Nat) (z m : Bool) (f : Nat) : (s.noted t z m f).devnum = s.devnum := rfl
@[simp] theorem State.noted_bridge (s : State) (t : Nat) (z m : Bool) (f : Nat) : (s.noted t z m f).bridge = s.bridge := rfl
@[simp] theorem State.noted_hostfn (s : State) (t : Nat) (z m : Bool) (f : Nat) : (s.noted t z m f).hostfn = s.hostfn := rfl
@[simp] theorem State.noted_pcieOff (s : State) (t : Nat) (z m : Bool) (f : Nat) : (s.noted t z m f).pcieOff = s.pcieOff := rfl
@[simp] theorem State.noted_hostAtomics (s : State) (t : Nat) (z m : Bool) (f : Nat) : (s.noted t z m f).hostAtomics = s.hostAtomics := rfl
@[simp] theorem State.noted_ctxBase (s : State) (t : Nat) (z m : Bool) (f : Nat) : (s.noted t z m f).ctxBase = s.ctxBase := rfl
@[simp] theorem State.noted_qBase (s : State) (t : Nat) (z m : Bool) (f : Nat) : (s.noted t z m f).qBase = s.qBase := rfl
@[simp] theorem State.noted_dbBase (s : State) (t : Nat) (z m : Bool) (f : Nat) : (s.noted t z m f).dbBase = s.dbBase := rfl
@[simp] theorem State.noted_hbm (s : State) (t : Nat) (z m : Bool) (f : Nat) : (s.noted t z m f).hbm = s.hbm := rfl
@[simp] theorem State.noted_opReq (s : State) (t : Nat) (z m : Bool) (f : Nat) : (s.noted t z m f).opReq = s.opReq := rfl
@[simp] theorem State.noted_opPower (s : State) (t : Nat) (z m : Bool) (f : Nat) : (s.noted t z m f).opPower = s.opPower := rfl
@[simp] theorem State.noted_opUse (s : State) (t : Nat) (z m : Bool) (f : Nat) : (s.noted t z m f).opUse = s.opUse := rfl
@[simp] theorem State.noted_opNext (s : State) (t : Nat) (z m : Bool) (f : Nat) : (s.noted t z m f).opNext = s.opNext := rfl
@[simp] theorem State.noted_hist (s : State) (t : Nat) (z m : Bool) (f : Nat) : (s.noted t z m f).hist = s.hist := rfl
@[simp] theorem State.noted_lastPow (s : State) (t : Nat) (z m : Bool) (f : Nat) : (s.noted t z m f).lastPow = s.lastPow := rfl
@[simp] theorem State.noted_epoch (s : State) (t : Nat) (z m : Bool) (f : Nat) : (s.noted t z m f).epoch = s.epoch := rfl
@[simp] theorem State.noted_mem (s : State) (t : Nat) (z m : Bool) (f : Nat) : (s.noted t z m f).mem = s.mem := rfl
@[simp] theorem State.noted_tagBits (s : State) (t : Nat) (z m : Bool) (f : Nat) : (s.noted t z m f).tagBits = s.tagBits := rfl
@[simp] theorem State.noted_gran (s : State) (t : Nat) (z m : Bool) (f : Nat) : (s.noted t z m f).gran = s.gran := rfl
@[simp] theorem State.noted_lineOwner (s : State) (t : Nat) (z m : Bool) (f : Nat) : (s.noted t z m f).lineOwner = s.lineOwner := rfl
@[simp] theorem State.noted_codeOld (s : State) (t : Nat) (z m : Bool) (f : Nat) : (s.noted t z m f).codeOld = s.codeOld := rfl
@[simp] theorem State.noted_poison (s : State) (t : Nat) (z m : Bool) (f : Nat) : (s.noted t z m f).poison = s.poison := rfl
@[simp] theorem State.noted_poisonL2 (s : State) (t : Nat) (z m : Bool) (f : Nat) : (s.noted t z m f).poisonL2 = s.poisonL2 := rfl
@[simp] theorem State.noted_softErrs (s : State) (t : Nat) (z m : Bool) (f : Nat) : (s.noted t z m f).softErrs = s.softErrs := rfl
@[simp] theorem State.noted_softL2 (s : State) (t : Nat) (z m : Bool) (f : Nat) : (s.noted t z m f).softL2 = s.softL2 := rfl
@[simp] theorem State.noted_gangs (s : State) (t : Nat) (z m : Bool) (f : Nat) : (s.noted t z m f).gangs = s.gangs := rfl
@[simp] theorem State.noted_insts (s : State) (t : Nat) (z m : Bool) (f : Nat) : (s.noted t z m f).insts = s.insts := rfl
@[simp] theorem State.noted_instNext (s : State) (t : Nat) (z m : Bool) (f : Nat) : (s.noted t z m f).instNext = s.instNext := rfl
@[simp] theorem State.noted_cores (s : State) (t : Nat) (z m : Bool) (f : Nat) : (s.noted t z m f).cores = s.cores := rfl
@[simp] theorem State.noted_ctxs (s : State) (t : Nat) (z m : Bool) (f : Nat) : (s.noted t z m f).ctxs = s.ctxs := rfl
@[simp] theorem State.noted_queues (s : State) (t : Nat) (z m : Bool) (f : Nat) : (s.noted t z m f).queues = s.queues := rfl
@[simp] theorem State.noted_kernels (s : State) (t : Nat) (z m : Bool) (f : Nat) : (s.noted t z m f).kernels = s.kernels := rfl
@[simp] theorem State.noted_kernNext (s : State) (t : Nat) (z m : Bool) (f : Nat) : (s.noted t z m f).kernNext = s.kernNext := rfl
@[simp] theorem State.noted_conduits (s : State) (t : Nat) (z m : Bool) (f : Nat) : (s.noted t z m f).conduits = s.conduits := rfl
@[simp] theorem State.noted_cdNext (s : State) (t : Nat) (z m : Bool) (f : Nat) : (s.noted t z m f).cdNext = s.cdNext := rfl
@[simp] theorem State.noted_walkNext (s : State) (t : Nat) (z m : Bool) (f : Nat) : (s.noted t z m f).walkNext = s.walkNext := rfl
@[simp] theorem State.noted_issueNo (s : State) (t : Nat) (z m : Bool) (f : Nat) : (s.noted t z m f).issueNo = s.issueNo := rfl
@[simp] theorem State.noted_dies (s : State) (t : Nat) (z m : Bool) (f : Nat) : (s.noted t z m f).dies = s.dies := rfl
@[simp] theorem State.noted_bridges (s : State) (t : Nat) (z m : Bool) (f : Nat) : (s.noted t z m f).bridges = s.bridges := rfl
@[simp] theorem State.noted_ports (s : State) (t : Nat) (z m : Bool) (f : Nat) : (s.noted t z m f).ports = s.ports := rfl
@[simp] theorem State.noted_routes (s : State) (t : Nat) (z m : Bool) (f : Nat) : (s.noted t z m f).routes = s.routes := rfl
@[simp] theorem State.noted_waitDev (s : State) (t : Nat) (z m : Bool) (f : Nat) : (s.noted t z m f).waitDev = s.waitDev := rfl
@[simp] theorem State.noted_mcwins (s : State) (t : Nat) (z m : Bool) (f : Nat) : (s.noted t z m f).mcwins = s.mcwins := rfl
@[simp] theorem State.noted_outq (s : State) (t : Nat) (z m : Bool) (f : Nat) : (s.noted t z m f).outq = s.outq := rfl
@[simp] theorem State.noted_early (s : State) (t : Nat) (z m : Bool) (f : Nat) : (s.noted t z m f).early = s.early := rfl
@[simp] theorem State.noted_esend (s : State) (t : Nat) (z m : Bool) (f : Nat) : (s.noted t z m f).esend = s.esend := rfl
@[simp] theorem State.noted_erecv (s : State) (t : Nat) (z m : Bool) (f : Nat) : (s.noted t z m f).erecv = s.erecv := rfl
@[simp] theorem State.noted_eresp (s : State) (t : Nat) (z m : Bool) (f : Nat) : (s.noted t z m f).eresp = s.eresp := rfl
@[simp] theorem State.noted_remops (s : State) (t : Nat) (z m : Bool) (f : Nat) : (s.noted t z m f).remops = s.remops := rfl
@[simp] theorem State.noted_remNext (s : State) (t : Nat) (z m : Bool) (f : Nat) : (s.noted t z m f).remNext = s.remNext := rfl
@[simp] theorem State.noted_ppGot (s : State) (t : Nat) (z m : Bool) (f : Nat) : (s.noted t z m f).ppGot = s.ppGot := rfl
@[simp] theorem State.noted_invals (s : State) (t : Nat) (z m : Bool) (f : Nat) : (s.noted t z m f).invals = s.invals := rfl
@[simp] theorem State.noted_invNext (s : State) (t : Nat) (z m : Bool) (f : Nat) : (s.noted t z m f).invNext = s.invNext := rfl
@[simp] theorem State.noted_spdm (s : State) (t : Nat) (z m : Bool) (f : Nat) : (s.noted t z m f).spdm = s.spdm := rfl
@[simp] theorem State.noted_hostOut (s : State) (t : Nat) (z m : Bool) (f : Nat) : (s.noted t z m f).hostOut = s.hostOut := rfl
@[simp] theorem State.noted_opLow (s : State) (t : Nat) (z m : Bool) (f : Nat) : (s.noted t z m f).opLow = s.opLow := rfl
@[simp] theorem State.noted_hbmFail (s : State) (t : Nat) (z m : Bool) (f : Nat) : (s.noted t z m f).hbmFail = s.hbmFail := rfl
@[simp] theorem State.noted_funcs (s : State) (t : Nat) (z m : Bool) (f : Nat) : (s.noted t z m f).funcs = s.funcs := rfl
@[simp] theorem State.noted_hostPend (s : State) (t : Nat) (z m : Bool) (f : Nat) : (s.noted t z m f).hostPend = s.hostPend := rfl
@[simp] theorem State.noted_parked (s : State) (t : Nat) (z m : Bool) (f : Nat) : (s.noted t z m f).parked = s.parked := rfl

/-- The threads after completing: the one that completed is committed and moved on. -/
theorem State.done_threads (s : State) (t : Nat) :
    ∃ f, (∀ th : Thread, th.committed.Moved (f th)) ∧ (s.done t).threads = s.threads.upd t f := by
  obtain ⟨f, _, _, _, _, _, _, _, hf, h, _⟩ := s.done_shape t
  exact ⟨f, hf, by rw [h]; rfl⟩

/-- Without a mismatch to count, completing leaves memory and contexts alone. -/
theorem State.done_mem {s : State} {t : Nat} (hm : ∀ th, s.threads.find t = some th → th.pendMis = false) :
    (s.done t).mem = s.mem ∧ (s.done t).ctxs = s.ctxs := by
  obtain ⟨_, _, _, _, _, _, _, _, _, h, hk⟩ := s.done_shape t
  rw [h]; exact hk hm

end Sys2Proof.Machine
end

