-- ==== Sys2Proof/Laws/PerInstr.lean ====
section
/-! SUPPORT. The family Worded of statements made per instruction: a code instruction has a word, its opcode and guard above its operand
fields (R22, R37); a device step has none. -/

namespace Sys2Proof.Laws

open Sys2Proof

set_option Elab.async false

/-- An instruction has no word, or a word that is an opcode and a guard above operand fields. -/
def Worded.Statement (i : Instr) : Prop := encode i = none ∨ ∃ op g x, op < 0x900 ∧ encode i = some (encTop op g + x)

/-- The word of form A: opcode and guard above the operand fields. -/
theorem encA_top (op : Nat) (g : Guard) (d a b c k m : Nat) : ∃ x, encA op g d a b c k m = encTop op g + x := by
  simp only [encA, Nat.add_assoc]
  exact ⟨_, rfl⟩

/-- The word of form V: opcode and guard above the operand fields. -/
theorem encV_top (op : Nat) (g : Guard) (d a b n sd sa sb : Nat) : ∃ x, encV op g d a b n sd sa sb = encTop op g + x := by
  simp only [encV, Nat.add_assoc]
  exact ⟨_, rfl⟩

/-- The word of form W: opcode and guard above the operand fields. -/
theorem encW_top (op : Nat) (g : Guard) (d m imm : Nat) : ∃ x, encW op g d m imm = encTop op g + x := by
  simp only [encW, Nat.add_assoc]
  exact ⟨_, rfl⟩

/-- The word of form T: opcode and guard above the operand fields. -/
theorem encT_top (op : Nat) (g : Guard) (gs cv acc a b src m : Nat) : ∃ x, encT op g gs cv acc a b src m = encTop op g + x := by
  simp only [encT, Nat.add_assoc]
  exact ⟨_, rfl⟩

/-- The word of form I: opcode and guard above the operand fields. -/
theorem encI_top (op : Nat) (g : Guard) (d a : Nat) (ka : Bool) (m imm : Nat) : ∃ x, encI op g d a ka m imm = encTop op g + x := by
  simp only [encI, Nat.add_assoc]
  exact ⟨_, rfl⟩

/-- The word of form M: opcode and guard above the operand fields. -/
theorem encM_top (op : Nat) (g : Guard) (d base idx : Nat) (off : Int) (sc cl wd : Nat) : ∃ x, encM op g d base idx off sc cl wd = encTop op g + x := by
  simp only [encM, Nat.add_assoc]
  exact ⟨_, rfl⟩

/-- The word of form C: opcode and guard above the operand fields. -/
theorem encC_top (op : Nat) (g : Guard) (d a m : Nat) (off : Int) : ∃ x, encC op g d a m off = encTop op g + x := by
  simp only [encC, Nat.add_assoc]
  exact ⟨_, rfl⟩

/-- An instruction whose word has a form with its opcode and guard on top. -/
theorem worded_of {i : Instr} {w op : Nat} {g : Guard} (e : encode i = some w) (h : ∃ x, w = encTop op g + x) (ho : op < 0x900) :
    Worded.Statement i := by
  obtain ⟨x, rfl⟩ := h
  exact .inr ⟨op, g, x, ho, e⟩

theorem Worded.nop (g : Guard) : Worded.Statement (.nop g) :=
  worded_of (op := 0x000) (g := g) rfl (encC_top ..) (by decide)

theorem Worded.bra (g : Guard) (off : Int) : Worded.Statement (.bra g off) :=
  worded_of (op := 0x001) (g := g) rfl (encC_top ..) (by decide)

theorem Worded.jmp (g : Guard) (a : Nat) : Worded.Statement (.jmp g a) :=
  worded_of (op := 0x002) (g := g) rfl (encC_top ..) (by decide)

theorem Worded.call (g : Guard) (d : Nat) (off : Int) : Worded.Statement (.call g d off) :=
  worded_of (op := 0x003) (g := g) rfl (encC_top ..) (by decide)

theorem Worded.calli (g : Guard) (d : Nat) (a : Nat) : Worded.Statement (.calli g d a) :=
  worded_of (op := 0x004) (g := g) rfl (encC_top ..) (by decide)

theorem Worded.ret (g : Guard) (a : Nat) : Worded.Statement (.ret g a) :=
  worded_of (op := 0x005) (g := g) rfl (encC_top ..) (by decide)

theorem Worded.exit (g : Guard) : Worded.Statement (.exit g) :=
  worded_of (op := 0x006) (g := g) rfl (encC_top ..) (by decide)

theorem Worded.yield (g : Guard) : Worded.Statement (.yield g) :=
  worded_of (op := 0x007) (g := g) rfl (encC_top ..) (by decide)

theorem Worded.sleep (g : Guard) (n : Nat) : Worded.Statement (.sleep g n) :=
  worded_of (op := 0x008) (g := g) rfl (encI_top ..) (by decide)

theorem Worded.beat (g : Guard) : Worded.Statement (.beat g) :=
  worded_of (op := 0x009) (g := g) rfl (encC_top ..) (by decide)

theorem Worded.trap (g : Guard) (imm : Nat) : Worded.Statement (.trap g imm) :=
  worded_of (op := 0x00A) (g := g) rfl (encW_top ..) (by decide)

theorem Worded.rtt (g : Guard) (past : Bool) : Worded.Statement (.rtt g past) :=
  worded_of (op := 0x00B) (g := g) rfl (encC_top ..) (by decide)

theorem Worded.bkpt (g : Guard) (imm : Nat) : Worded.Statement (.bkpt g imm) :=
  worded_of (op := 0x00C) (g := g) rfl (encW_top ..) (by decide)

theorem Worded.mov (g : Guard) (d : Nat) (a : Nat) (k : Nat) : Worded.Statement (.mov g d a k) :=
  worded_of (op := 0x100) (g := g) rfl (encA_top ..) (by decide)

theorem Worded.movi (g : Guard) (d : Nat) (tag : Tag) (imm : Nat) : Worded.Statement (.movi g d tag imm) :=
  worded_of (op := 0x101) (g := g) rfl (encW_top ..) (by decide)

theorem Worded.iadd (g : Guard) (d : Nat) (a : Nat) (b : Nat) (k : Nat) (sg : Bool) (sat : Bool) : Worded.Statement (.iadd g d a b k sg sat) :=
  worded_of (op := 0x102) (g := g) rfl (encA_top ..) (by decide)

theorem Worded.iaddi (g : Guard) (d : Nat) (a : Nat) (ka : Bool) (sg : Bool) (sat : Bool) (imm : Int) : Worded.Statement (.iaddi g d a ka sg sat imm) :=
  worded_of (op := 0x103) (g := g) rfl (encI_top ..) (by decide)

theorem Worded.isub (g : Guard) (d : Nat) (a : Nat) (b : Nat) (k : Nat) (sg : Bool) (sat : Bool) : Worded.Statement (.isub g d a b k sg sat) :=
  worded_of (op := 0x104) (g := g) rfl (encA_top ..) (by decide)

theorem Worded.imul (g : Guard) (d : Nat) (a : Nat) (b : Nat) (k : Nat) (sg : Bool) : Worded.Statement (.imul g d a b k sg) :=
  worded_of (op := 0x105) (g := g) rfl (encA_top ..) (by decide)

theorem Worded.imulh (g : Guard) (d : Nat) (a : Nat) (b : Nat) (k : Nat) (sg : Bool) : Worded.Statement (.imulh g d a b k sg) :=
  worded_of (op := 0x106) (g := g) rfl (encA_top ..) (by decide)

theorem Worded.imad (g : Guard) (d : Nat) (a : Nat) (b : Nat) (c : Nat) (k : Nat) (sg : Bool) (sat : Bool) : Worded.Statement (.imad g d a b c k sg sat) :=
  worded_of (op := 0x107) (g := g) rfl (encA_top ..) (by decide)

theorem Worded.imadw (g : Guard) (d : Nat) (a : Nat) (b : Nat) (c : Nat) (k : Nat) (sg : Bool) : Worded.Statement (.imadw g d a b c k sg) :=
  worded_of (op := 0x108) (g := g) rfl (encA_top ..) (by decide)

theorem Worded.iadd64 (g : Guard) (d : Nat) (a : Nat) (b : Nat) (k : Nat) (sub : Bool) : Worded.Statement (.iadd64 g d a b k sub) :=
  worded_of (op := 0x109) (g := g) rfl (encA_top ..) (by decide)

theorem Worded.lea (g : Guard) (d : Nat) (a : Nat) (b : Nat) (k : Nat) (sh : Nat) : Worded.Statement (.lea g d a b k sh) :=
  worded_of (op := 0x10A) (g := g) rfl (encA_top ..) (by decide)

theorem Worded.imin (g : Guard) (d : Nat) (a : Nat) (b : Nat) (k : Nat) (sg : Bool) : Worded.Statement (.imin g d a b k sg) :=
  worded_of (op := 0x10B) (g := g) rfl (encA_top ..) (by decide)

theorem Worded.imax (g : Guard) (d : Nat) (a : Nat) (b : Nat) (k : Nat) (sg : Bool) : Worded.Statement (.imax g d a b k sg) :=
  worded_of (op := 0x10C) (g := g) rfl (encA_top ..) (by decide)

theorem Worded.iabs (g : Guard) (d : Nat) (a : Nat) (k : Nat) (sg : Bool) : Worded.Statement (.iabs g d a k sg) :=
  worded_of (op := 0x10D) (g := g) rfl (encA_top ..) (by decide)

theorem Worded.isetp (g : Guard) (p : Nat) (a : Nat) (b : Nat) (q : PredSrc) (k : Nat) (cmp : Cmp) (sg : Bool) (comb : Comb) : Worded.Statement (.isetp g p a b q k cmp sg comb) :=
  worded_of (op := 0x10E) (g := g) rfl (encA_top ..) (by decide)

theorem Worded.sel (g : Guard) (d : Nat) (a : Nat) (b : Nat) (q : PredSrc) (k : Nat) : Worded.Statement (.sel g d a b q k) :=
  worded_of (op := 0x10F) (g := g) rfl (encA_top ..) (by decide)

theorem Worded.shl (g : Guard) (d : Nat) (a : Nat) (amt : ShAmt) (k : Nat) : Worded.Statement (.shl g d a amt k) :=
  worded_of (op := 0x110) (g := g) rfl (encA_top ..) (by decide)

theorem Worded.shr (g : Guard) (d : Nat) (a : Nat) (amt : ShAmt) (k : Nat) : Worded.Statement (.shr g d a amt k) :=
  worded_of (op := 0x111) (g := g) rfl (encA_top ..) (by decide)

theorem Worded.sar (g : Guard) (d : Nat) (a : Nat) (amt : ShAmt) (k : Nat) : Worded.Statement (.sar g d a amt k) :=
  worded_of (op := 0x112) (g := g) rfl (encA_top ..) (by decide)

theorem Worded.rol (g : Guard) (d : Nat) (a : Nat) (amt : ShAmt) (k : Nat) : Worded.Statement (.rol g d a amt k) :=
  worded_of (op := 0x113) (g := g) rfl (encA_top ..) (by decide)

theorem Worded.and (g : Guard) (d : Nat) (a : Nat) (b : Nat) (k : Nat) : Worded.Statement (.and g d a b k) :=
  worded_of (op := 0x114) (g := g) rfl (encA_top ..) (by decide)

theorem Worded.or (g : Guard) (d : Nat) (a : Nat) (b : Nat) (k : Nat) : Worded.Statement (.or g d a b k) :=
  worded_of (op := 0x115) (g := g) rfl (encA_top ..) (by decide)

theorem Worded.xor (g : Guard) (d : Nat) (a : Nat) (b : Nat) (k : Nat) : Worded.Statement (.xor g d a b k) :=
  worded_of (op := 0x116) (g := g) rfl (encA_top ..) (by decide)

theorem Worded.bitf (g : Guard) (d : Nat) (a : Nat) (b : Nat) (c : Nat) (k : Nat) (fn : Nat) : Worded.Statement (.bitf g d a b c k fn) :=
  worded_of (op := 0x117) (g := g) rfl (encA_top ..) (by decide)

theorem Worded.popc (g : Guard) (d : Nat) (a : Nat) (k : Nat) : Worded.Statement (.popc g d a k) :=
  worded_of (op := 0x118) (g := g) rfl (encA_top ..) (by decide)

theorem Worded.clz (g : Guard) (d : Nat) (a : Nat) (k : Nat) : Worded.Statement (.clz g d a k) :=
  worded_of (op := 0x119) (g := g) rfl (encA_top ..) (by decide)

theorem Worded.brev (g : Guard) (d : Nat) (a : Nat) (k : Nat) : Worded.Statement (.brev g d a k) :=
  worded_of (op := 0x11A) (g := g) rfl (encA_top ..) (by decide)

theorem Worded.bfe (g : Guard) (d : Nat) (a : Nat) (b : Nat) (k : Nat) (sg : Bool) : Worded.Statement (.bfe g d a b k sg) :=
  worded_of (op := 0x11B) (g := g) rfl (encA_top ..) (by decide)

theorem Worded.bfi (g : Guard) (d : Nat) (a : Nat) (b : Nat) (c : Nat) (k : Nat) : Worded.Statement (.bfi g d a b c k) :=
  worded_of (op := 0x11C) (g := g) rfl (encA_top ..) (by decide)

theorem Worded.bsel (g : Guard) (d : Nat) (a : Nat) (b : Nat) (c : Nat) (k : Nat) (sx : Bool) : Worded.Statement (.bsel g d a b c k sx) :=
  worded_of (op := 0x11D) (g := g) rfl (encA_top ..) (by decide)

theorem Worded.pbitf (g : Guard) (p : Nat) (q0 : PredSrc) (q1 : PredSrc) (q2 : PredSrc) (k : Nat) (fn : Nat) : Worded.Statement (.pbitf g p q0 q1 q2 k fn) :=
  worded_of (op := 0x11E) (g := g) rfl (encA_top ..) (by decide)

theorem Worded.p2v (g : Guard) (d : Nat) (k : Nat) : Worded.Statement (.p2v g d k) :=
  worded_of (op := 0x11F) (g := g) rfl (encA_top ..) (by decide)

theorem Worded.v2p (g : Guard) (a : Nat) (k : Nat) : Worded.Statement (.v2p g a k) :=
  worded_of (op := 0x120) (g := g) rfl (encA_top ..) (by decide)

theorem Worded.fadd (g : Guard) (d : Nat) (a : Nat) (b : Nat) (k : Nat) (rm : Rm) (mods : FMods) : Worded.Statement (.fadd g d a b k rm mods) :=
  worded_of (op := 0x200) (g := g) rfl (encA_top ..) (by decide)

theorem Worded.fmul (g : Guard) (d : Nat) (a : Nat) (b : Nat) (k : Nat) (rm : Rm) (mods : FMods) : Worded.Statement (.fmul g d a b k rm mods) :=
  worded_of (op := 0x201) (g := g) rfl (encA_top ..) (by decide)

theorem Worded.ffma (g : Guard) (d : Nat) (a : Nat) (b : Nat) (c : Nat) (k : Nat) (rm : Rm) (mods : FMods) (nc : Bool) : Worded.Statement (.ffma g d a b c k rm mods nc) :=
  worded_of (op := 0x202) (g := g) rfl (encA_top ..) (by decide)

theorem Worded.fmin (g : Guard) (d : Nat) (a : Nat) (b : Nat) (k : Nat) (mods : FMods) : Worded.Statement (.fmin g d a b k mods) :=
  worded_of (op := 0x203) (g := g) rfl (encA_top ..) (by decide)

theorem Worded.fmax (g : Guard) (d : Nat) (a : Nat) (b : Nat) (k : Nat) (mods : FMods) : Worded.Statement (.fmax g d a b k mods) :=
  worded_of (op := 0x204) (g := g) rfl (encA_top ..) (by decide)

theorem Worded.fsetp (g : Guard) (p : Nat) (a : Nat) (b : Nat) (k : Nat) (mods : FMods) (cnd : FCond) : Worded.Statement (.fsetp g p a b k mods cnd) :=
  worded_of (op := 0x205) (g := g) rfl (encA_top ..) (by decide)

theorem Worded.frnd (g : Guard) (d : Nat) (a : Nat) (k : Nat) (rm : Rm) : Worded.Statement (.frnd g d a k rm) :=
  worded_of (op := 0x206) (g := g) rfl (encA_top ..) (by decide)

theorem Worded.frcp (g : Guard) (d : Nat) (a : Nat) (k : Nat) : Worded.Statement (.frcp g d a k) :=
  worded_of (op := 0x207) (g := g) rfl (encA_top ..) (by decide)

theorem Worded.frsq (g : Guard) (d : Nat) (a : Nat) (k : Nat) : Worded.Statement (.frsq g d a k) :=
  worded_of (op := 0x208) (g := g) rfl (encA_top ..) (by decide)

theorem Worded.fsqrt (g : Guard) (d : Nat) (a : Nat) (k : Nat) (rm : Rm) : Worded.Statement (.fsqrt g d a k rm) :=
  worded_of (op := 0x209) (g := g) rfl (encA_top ..) (by decide)

theorem Worded.fex2 (g : Guard) (d : Nat) (a : Nat) (k : Nat) : Worded.Statement (.fex2 g d a k) :=
  worded_of (op := 0x20A) (g := g) rfl (encA_top ..) (by decide)

theorem Worded.flg2 (g : Guard) (d : Nat) (a : Nat) (k : Nat) : Worded.Statement (.flg2 g d a k) :=
  worded_of (op := 0x20B) (g := g) rfl (encA_top ..) (by decide)

theorem Worded.fsin (g : Guard) (d : Nat) (a : Nat) (k : Nat) : Worded.Statement (.fsin g d a k) :=
  worded_of (op := 0x20C) (g := g) rfl (encA_top ..) (by decide)

theorem Worded.fcos (g : Guard) (d : Nat) (a : Nat) (k : Nat) : Worded.Statement (.fcos g d a k) :=
  worded_of (op := 0x20D) (g := g) rfl (encA_top ..) (by decide)

theorem Worded.fclass (g : Guard) (d : Nat) (a : Nat) (k : Nat) : Worded.Statement (.fclass g d a k) :=
  worded_of (op := 0x20E) (g := g) rfl (encA_top ..) (by decide)

theorem Worded.hadd2 (g : Guard) (d : Nat) (a : Nat) (b : Nat) (k : Nat) (rm : Rm) (h : Bool) : Worded.Statement (.hadd2 g d a b k rm h) :=
  worded_of (op := 0x20F) (g := g) rfl (encA_top ..) (by decide)

theorem Worded.hmul2 (g : Guard) (d : Nat) (a : Nat) (b : Nat) (k : Nat) (rm : Rm) (h : Bool) : Worded.Statement (.hmul2 g d a b k rm h) :=
  worded_of (op := 0x210) (g := g) rfl (encA_top ..) (by decide)

theorem Worded.hfma2 (g : Guard) (d : Nat) (a : Nat) (b : Nat) (c : Nat) (k : Nat) (rm : Rm) (h : Bool) : Worded.Statement (.hfma2 g d a b c k rm h) :=
  worded_of (op := 0x211) (g := g) rfl (encA_top ..) (by decide)

theorem Worded.dot2 (g : Guard) (d : Nat) (a : Nat) (b : Nat) (c : Nat) (k : Nat) (rm : Rm) (h : Bool) : Worded.Statement (.dot2 g d a b c k rm h) :=
  worded_of (op := 0x212) (g := g) rfl (encA_top ..) (by decide)

theorem Worded.cvt (g : Guard) (d : Nat) (a : Nat) (b : Nat) (k : Nat) (dt : Tag) (rm : Rm) (sat : Bool) : Worded.Statement (.cvt g d a b k dt rm sat) :=
  worded_of (op := 0x213) (g := g) rfl (encA_top ..) (by decide)

theorem Worded.qpack (g : Guard) (d : Nat) (a : Nat) (b : Nat) (c : Nat) (k : Nat) (rm : Rm) (n4 : Bool) : Worded.Statement (.qpack g d a b c k rm n4) :=
  worded_of (op := 0x214) (g := g) rfl (encA_top ..) (by decide)

theorem Worded.qunpk (g : Guard) (d : Nat) (a : Nat) (b : Nat) (c : Nat) (k : Nat) (n4 : Bool) : Worded.Statement (.qunpk g d a b c k n4) :=
  worded_of (op := 0x215) (g := g) rfl (encA_top ..) (by decide)

theorem Worded.tagq (g : Guard) (d : Nat) (a : Nat) (k : Nat) : Worded.Statement (.tagq g d a k) :=
  worded_of (op := 0x216) (g := g) rfl (encA_top ..) (by decide)

theorem Worded.tags (g : Guard) (d : Nat) (a : Nat) (k : Nat) (tag : Tag) : Worded.Statement (.tags g d a k tag) :=
  worded_of (op := 0x217) (g := g) rfl (encA_top ..) (by decide)

theorem Worded.swadd (g : Guard) (d : Nat) (a : Nat) (b : Nat) (cnt : Nat) (sd : Nat) (sa : Nat) (sb : Nat) : Worded.Statement (.swadd g d a b cnt sd sa sb) :=
  worded_of (op := 0x300) (g := g) rfl (encV_top ..) (by decide)

theorem Worded.swmul (g : Guard) (d : Nat) (a : Nat) (b : Nat) (cnt : Nat) (sd : Nat) (sa : Nat) (sb : Nat) : Worded.Statement (.swmul g d a b cnt sd sa sb) :=
  worded_of (op := 0x301) (g := g) rfl (encV_top ..) (by decide)

theorem Worded.swfma (g : Guard) (d : Nat) (a : Nat) (b : Nat) (cnt : Nat) (sd : Nat) (sa : Nat) (sb : Nat) : Worded.Statement (.swfma g d a b cnt sd sa sb) :=
  worded_of (op := 0x302) (g := g) rfl (encV_top ..) (by decide)

theorem Worded.swmax (g : Guard) (d : Nat) (a : Nat) (b : Nat) (cnt : Nat) (sd : Nat) (sa : Nat) (sb : Nat) : Worded.Statement (.swmax g d a b cnt sd sa sb) :=
  worded_of (op := 0x303) (g := g) rfl (encV_top ..) (by decide)

theorem Worded.swcvt (g : Guard) (d : Nat) (a : Nat) (cnt : Nat) (sd : Nat) (sa : Nat) : Worded.Statement (.swcvt g d a cnt sd sa) :=
  worded_of (op := 0x304) (g := g) rfl (encV_top ..) (by decide)

theorem Worded.swcopy (g : Guard) (d : Nat) (a : Nat) (cnt : Nat) (sd : Nat) (sa : Nat) : Worded.Statement (.swcopy g d a cnt sd sa) :=
  worded_of (op := 0x305) (g := g) rfl (encV_top ..) (by decide)

theorem Worded.swsum (g : Guard) (d : Nat) (a : Nat) (cnt : Nat) (sa : Nat) : Worded.Statement (.swsum g d a cnt sa) :=
  worded_of (op := 0x306) (g := g) rfl (encV_top ..) (by decide)

theorem Worded.swex2 (g : Guard) (d : Nat) (a : Nat) (cnt : Nat) (sd : Nat) (sa : Nat) : Worded.Statement (.swex2 g d a cnt sd sa) :=
  worded_of (op := 0x307) (g := g) rfl (encV_top ..) (by decide)

theorem Worded.ld (g : Guard) (d : Nat) (base : Nat) (idx : Nat) (off : Int) (w : LdWidth) (acq : Bool) (sc : Nat) (cls : AccClass) : Worded.Statement (.ld g d base idx off w acq sc cls) :=
  worded_of (op := 0x400) (g := g) rfl (encM_top ..) (by decide)

theorem Worded.st (g : Guard) (d : Nat) (base : Nat) (idx : Nat) (off : Int) (w : StWidth) (rel : Bool) (sc : Nat) (cls : AccClass) : Worded.Statement (.st g d base idx off w rel sc cls) :=
  worded_of (op := 0x401) (g := g) rfl (encM_top ..) (by decide)

theorem Worded.atom (g : Guard) (d : Nat) (base : Nat) (idx : Nat) (off : Int) (op : AtomOp) (ord : Order) (sc : Nat) : Worded.Statement (.atom g d base idx off op ord sc) :=
  worded_of (op := 0x402) (g := g) rfl (encM_top ..) (by decide)

theorem Worded.cas (g : Guard) (d : Nat) (base : Nat) (idx : Nat) (off : Int) (w64 : Bool) (ord : Order) (sc : Nat) : Worded.Statement (.cas g d base idx off w64 ord sc) :=
  worded_of (op := 0x403) (g := g) rfl (encM_top ..) (by decide)

theorem Worded.red (g : Guard) (d : Nat) (base : Nat) (idx : Nat) (off : Int) (op : AtomOp) (rel : Bool) (sc : Nat) : Worded.Statement (.red g d base idx off op rel sc) :=
  worded_of (op := 0x404) (g := g) rfl (encM_top ..) (by decide)

theorem Worded.fence (g : Guard) (ord : FenceOrd) (sc : Nat) : Worded.Statement (.fence g ord sc) :=
  worded_of (op := 0x405) (g := g) rfl (encM_top ..) (by decide)

theorem Worded.cinv (g : Guard) (all : Bool) (base : Nat) (idx : Nat) (off : Int) : Worded.Statement (.cinv g all base idx off) :=
  worded_of (op := 0x406) (g := g) rfl (encM_top ..) (by decide)

theorem Worded.cclean (g : Guard) (all : Bool) (base : Nat) (idx : Nat) (off : Int) : Worded.Statement (.cclean g all base idx off) :=
  worded_of (op := 0x407) (g := g) rfl (encM_top ..) (by decide)

theorem Worded.cpa (g : Guard) (d : Nat) (base : Nat) (idx : Nat) (off : Int) (lgw : Nat) (bt : Nat) (cls : AccClass) : Worded.Statement (.cpa g d base idx off lgw bt cls) :=
  worded_of (op := 0x408) (g := g) rfl (encM_top ..) (by decide)

theorem Worded.waitb (g : Guard) (bt : Nat) (n : Nat) : Worded.Statement (.waitb g bt n) :=
  worded_of (op := 0x409) (g := g) rfl (encI_top ..) (by decide)

theorem Worded.cpb (g : Guard) (d : Nat) (base : Nat) (idx : Nat) (off : Int) (cls : AccClass) : Worded.Statement (.cpb g d base idx off cls) :=
  worded_of (op := 0x40A) (g := g) rfl (encM_top ..) (by decide)

theorem Worded.objinit (g : Guard) (d : Nat) (a : Nat) (b : Nat) (k : Nat) : Worded.Statement (.objinit g d a b k) :=
  worded_of (op := 0x500) (g := g) rfl (encA_top ..) (by decide)

theorem Worded.publish (g : Guard) (d : Nat) (a : Nat) (k : Nat) (sc : Nat) : Worded.Statement (.publish g d a k sc) :=
  worded_of (op := 0x501) (g := g) rfl (encA_top ..) (by decide)

theorem Worded.pubst (g : Guard) (d : Nat) (a : Nat) (b : Nat) (k : Nat) (sc : Nat) : Worded.Statement (.pubst g d a b k sc) :=
  worded_of (op := 0x502) (g := g) rfl (encA_top ..) (by decide)

theorem Worded.refmk (g : Guard) (d : Nat) (a : Nat) (k : Nat) : Worded.Statement (.refmk g d a k) :=
  worded_of (op := 0x503) (g := g) rfl (encA_top ..) (by decide)

theorem Worded.objst (g : Guard) (d : Nat) (a : Nat) (b : Nat) (k : Nat) : Worded.Statement (.objst g d a b k) :=
  worded_of (op := 0x504) (g := g) rfl (encA_top ..) (by decide)

theorem Worded.reclaim (g : Guard) (a : Nat) (k : Nat) : Worded.Statement (.reclaim g a k) :=
  worded_of (op := 0x505) (g := g) rfl (encA_top ..) (by decide)

theorem Worded.bar (g : Guard) (bn : Nat) (gs : Nat) (k : Nat) : Worded.Statement (.bar g bn gs k) :=
  worded_of (op := 0x600) (g := g) rfl (encA_top ..) (by decide)

theorem Worded.bara (g : Guard) (d : Nat) (bn : Nat) (gs : Nat) (k : Nat) : Worded.Statement (.bara g d bn gs k) :=
  worded_of (op := 0x601) (g := g) rfl (encA_top ..) (by decide)

theorem Worded.barw (g : Guard) (a : Nat) (bn : Nat) (gs : Nat) (k : Nat) : Worded.Statement (.barw g a bn gs k) :=
  worded_of (op := 0x602) (g := g) rfl (encA_top ..) (by decide)

theorem Worded.xbinit (g : Guard) (a : Nat) (b : Nat) (k : Nat) : Worded.Statement (.xbinit g a b k) :=
  worded_of (op := 0x603) (g := g) rfl (encA_top ..) (by decide)

theorem Worded.xbarr (g : Guard) (d : Nat) (a : Nat) (b : Nat) (k : Nat) : Worded.Statement (.xbarr g d a b k) :=
  worded_of (op := 0x604) (g := g) rfl (encA_top ..) (by decide)

theorem Worded.xbwait (g : Guard) (a : Nat) (b : Nat) (k : Nat) : Worded.Statement (.xbwait g a b k) :=
  worded_of (op := 0x605) (g := g) rfl (encA_top ..) (by decide)

theorem Worded.xbtry (g : Guard) (p : Nat) (a : Nat) (b : Nat) (k : Nat) : Worded.Statement (.xbtry g p a b k) :=
  worded_of (op := 0x606) (g := g) rfl (encA_top ..) (by decide)

theorem Worded.lxch (g : Guard) (d : Nat) (a : Nat) (b : Nat) (k : Nat) (mode : LxMode) (kp : Bool) : Worded.Statement (.lxch g d a b k mode kp) :=
  worded_of (op := 0x607) (g := g) rfl (encA_top ..) (by decide)

theorem Worded.pagr (g : Guard) (d : Nat) (q : PredSrc) (k : Nat) (kind : PagrKind) : Worded.Statement (.pagr g d q k kind) :=
  worded_of (op := 0x608) (g := g) rfl (encA_top ..) (by decide)

theorem Worded.redg (g : Guard) (d : Nat) (a : Nat) (k : Nat) (op : RedOp) : Worded.Statement (.redg g d a k op) :=
  worded_of (op := 0x609) (g := g) rfl (encA_top ..) (by decide)

theorem Worded.scang (g : Guard) (d : Nat) (a : Nat) (k : Nat) (op : RedOp) (excl : Bool) : Worded.Statement (.scang g d a k op excl) :=
  worded_of (op := 0x60A) (g := g) rfl (encA_top ..) (by decide)

theorem Worded.cdsend (g : Guard) (d : Nat) (a : Nat) (cd : Nat) (n : Nat) (k : Nat) : Worded.Statement (.cdsend g d a cd n k) :=
  worded_of (op := 0x60B) (g := g) rfl (encA_top ..) (by decide)

theorem Worded.cdrecv (g : Guard) (d : Nat) (a : Nat) (cd : Nat) (k : Nat) : Worded.Statement (.cdrecv g d a cd k) :=
  worded_of (op := 0x60C) (g := g) rfl (encA_top ..) (by decide)

theorem Worded.cdpeek (g : Guard) (d : Nat) (a : Nat) (cd : Nat) (k : Nat) : Worded.Statement (.cdpeek g d a cd k) :=
  worded_of (op := 0x60D) (g := g) rfl (encA_top ..) (by decide)

theorem Worded.cdclose (g : Guard) (d : Nat) (cd : Nat) (k : Nat) : Worded.Statement (.cdclose g d cd k) :=
  worded_of (op := 0x60E) (g := g) rfl (encA_top ..) (by decide)

theorem Worded.launch (g : Guard) (d : Nat) (a : Nat) (b : Nat) (k : Nat) : Worded.Statement (.launch g d a b k) :=
  worded_of (op := 0x60F) (g := g) rfl (encA_top ..) (by decide)

theorem Worded.qsig (g : Guard) (d : Nat) (a : Nat) (b : Nat) (k : Nat) : Worded.Statement (.qsig g d a b k) :=
  worded_of (op := 0x610) (g := g) rfl (encA_top ..) (by decide)

theorem Worded.cbset (g : Guard) (a : Nat) (b : Nat) (k : Nat) : Worded.Statement (.cbset g a b k) :=
  worded_of (op := 0x611) (g := g) rfl (encA_top ..) (by decide)

theorem Worded.resample (g : Guard) (d : Nat) (a : Nat) (b : Nat) (c : Nat) (k : Nat) (opnd : Bool) : Worded.Statement (.resample g d a b c k opnd) :=
  worded_of (op := 0x612) (g := g) rfl (encA_top ..) (by decide)

theorem Worded.pkill (g : Guard) (k : Nat) : Worded.Statement (.pkill g k) :=
  worded_of (op := 0x613) (g := g) rfl (encA_top ..) (by decide)

theorem Worded.pcount (g : Guard) (d : Nat) (item : Nat) (k : Nat) : Worded.Statement (.pcount g d item k) :=
  worded_of (op := 0x614) (g := g) rfl (encA_top ..) (by decide)

theorem Worded.grpq (g : Guard) (d : Nat) (slot : Nat) (item : Nat) : Worded.Statement (.grpq g d slot item) :=
  worded_of (op := 0x615) (g := g) rfl (encA_top ..) (by decide)

theorem Worded.thdl (g : Guard) (hn : Nat) (a : Nat) : Worded.Statement (.thdl g hn a) :=
  worded_of (op := 0x700) (g := g) rfl (encT_top ..) (by decide)

theorem Worded.tmma (g : Guard) (gs : Nat) (cv : Nat) (acc : Nat) (A : TOpnd) (B : TOpnd) (f16 : Bool) : Worded.Statement (.tmma g gs cv acc A B f16) :=
  worded_of (op := 0x701) (g := g) rfl (encT_top ..) (by decide)

theorem Worded.tmmq (g : Guard) (gs : Nat) (cv : Nat) (acc : Nat) (A : TOpnd) (B : TOpnd) (n4 : Bool) : Worded.Statement (.tmmq g gs cv acc A B n4) :=
  worded_of (op := 0x702) (g := g) rfl (encT_top ..) (by decide)

theorem Worded.tzero (g : Guard) (gs : Nat) (acc : Nat) (src : Option TOpnd) : Worded.Statement (.tzero g gs acc src) := 
  match src with
  | none => worded_of (op := 0x703) (g := g) rfl (encT_top ..) (by decide)
  | some _ => worded_of (op := 0x703) (g := g) rfl (encT_top ..) (by decide)

theorem Worded.tcvt (g : Guard) (gs : Nat) (acc : Nat) (a : Nat) (b : Nat) (bf : Bool) : Worded.Statement (.tcvt g gs acc a b bf) :=
  worded_of (op := 0x704) (g := g) rfl (encT_top ..) (by decide)

theorem Worded.tstore (g : Guard) (gs : Nat) (acc : Nat) (H : TOpnd) (b : Nat) : Worded.Statement (.tstore g gs acc H b) :=
  worded_of (op := 0x705) (g := g) rfl (encT_top ..) (by decide)

theorem Worded.tscale (g : Guard) (gs : Nat) (acc : Nat) (A : TOpnd) (B : TOpnd) : Worded.Statement (.tscale g gs acc A B) :=
  worded_of (op := 0x706) (g := g) rfl (encT_top ..) (by decide)

theorem Worded.tflag (g : Guard) (gs : Nat) (acc : Nat) : Worded.Statement (.tflag g gs acc) :=
  worded_of (op := 0x707) (g := g) rfl (encT_top ..) (by decide)

theorem Worded.twait (g : Guard) (gs : Nat) (acc : Nat) : Worded.Statement (.twait g gs acc) :=
  worded_of (op := 0x708) (g := g) rfl (encT_top ..) (by decide)

theorem Worded.mfs (g : Guard) (d : Nat) (sp : Special) : Worded.Statement (.mfs g d sp) :=
  worded_of (op := 0x800) (g := g) rfl (encI_top ..) (by decide)

theorem Worded.mts (g : Guard) (a : Nat) (ka : Bool) (sp : Special) : Worded.Statement (.mts g a ka sp) :=
  worded_of (op := 0x801) (g := g) rfl (encI_top ..) (by decide)

theorem Worded.rnd (g : Guard) (d : Nat) (w64 : Bool) : Worded.Statement (.rnd g d w64) :=
  worded_of (op := 0x802) (g := g) rfl (encA_top ..) (by decide)

theorem Worded.spalloc (g : Guard) (d : Nat) (a : Nat) (k : Nat) : Worded.Statement (.spalloc g d a k) :=
  worded_of (op := 0x803) (g := g) rfl (encA_top ..) (by decide)

theorem Worded.spfree (g : Guard) (d : Nat) (a : Nat) (k : Nat) : Worded.Statement (.spfree g d a k) :=
  worded_of (op := 0x804) (g := g) rfl (encA_top ..) (by decide)

theorem Worded.rtouch (g : Guard) (d : Nat) (a : Nat) (b : Nat) (k : Nat) : Worded.Statement (.rtouch g d a b k) :=
  worded_of (op := 0x805) (g := g) rfl (encA_top ..) (by decide)

theorem Worded.rclass (g : Guard) (d : Nat) (a : Nat) (ka : Bool) (cls : LifeClass) (life : Nat) : Worded.Statement (.rclass g d a ka cls life) :=
  worded_of (op := 0x806) (g := g) rfl (encI_top ..) (by decide)

theorem Worded.rage (g : Guard) (d : Nat) (a : Nat) (k : Nat) : Worded.Statement (.rage g d a k) :=
  worded_of (op := 0x807) (g := g) rfl (encA_top ..) (by decide)

theorem Worded.trace (g : Guard) (a : Nat) (b : Nat) (k : Nat) : Worded.Statement (.trace g a b k) :=
  worded_of (op := 0x808) (g := g) rfl (encA_top ..) (by decide)

theorem Worded.issueGroupFormation (core : Nat) (slot : Nat) : Worded.Statement (.issueGroupFormation core slot) :=
  .inl rfl

theorem Worded.loadDelivery (t : Nat) (n : Nat) : Worded.Statement (.loadDelivery t n) :=
  .inl rfl

theorem Worded.resampleComplete (kern : Nat) : Worded.Statement (.resampleComplete kern) :=
  .inl rfl

theorem Worded.conduitRefill (cid : Nat) : Worded.Statement (.conduitRefill cid) :=
  .inl rfl

theorem Worded.cpaLanding (core : Nat) (n : Nat) : Worded.Statement (.cpaLanding core n) :=
  .inl rfl

theorem Worded.cpbPieceLanding (core : Nat) (n : Nat) : Worded.Statement (.cpbPieceLanding core n) :=
  .inl rfl

theorem Worded.tileOpApply (iid : Nat) (acc : Nat) : Worded.Statement (.tileOpApply iid acc) :=
  .inl rfl

theorem Worded.brassWalk (core : Nat) : Worded.Statement (.brassWalk core) :=
  .inl rfl

theorem Worded.sideLogReplay (gid : Nat) : Worded.Statement (.sideLogReplay gid) :=
  .inl rfl

theorem Worded.columnCacheEviction (core : Nat) (line : Nat) : Worded.Statement (.columnCacheEviction core line) :=
  .inl rfl

theorem Worded.unitAdmission (kern : Nat) : Worded.Statement (.unitAdmission kern) :=
  .inl rfl

theorem Worded.kernelCompletion (kern : Nat) : Worded.Statement (.kernelCompletion kern) :=
  .inl rfl

theorem Worded.packetNop (q : Nat) : Worded.Statement (.packetNop q) :=
  .inl rfl

theorem Worded.packetKernel (q : Nat) : Worded.Statement (.packetKernel q) :=
  .inl rfl

theorem Worded.packetSignal (q : Nat) : Worded.Statement (.packetSignal q) :=
  .inl rfl

theorem Worded.packetWait (q : Nat) : Worded.Statement (.packetWait q) :=
  .inl rfl

theorem Worded.waitRecheck (q : Nat) : Worded.Statement (.waitRecheck q) :=
  .inl rfl

theorem Worded.packetDepmap (q : Nat) : Worded.Statement (.packetDepmap q) :=
  .inl rfl

theorem Worded.depmapRecheck (kern : Nat) : Worded.Statement (.depmapRecheck kern) :=
  .inl rfl

theorem Worded.packetInval (q : Nat) : Worded.Statement (.packetInval q) :=
  .inl rfl

theorem Worded.invalCompletion (n : Nat) : Worded.Statement (.invalCompletion n) :=
  .inl rfl

theorem Worded.peerFence (n : Nat) (p : Nat) : Worded.Statement (.peerFence n p) :=
  .inl rfl

theorem Worded.launchFrame (port : Nat) (f : Flit) : Worded.Statement (.launchFrame port f) :=
  .inl rfl

theorem Worded.define (c : Nat) : Worded.Statement (.define c) :=
  .inl rfl

theorem Worded.ready (c : Nat) : Worded.Statement (.ready c) :=
  .inl rfl

theorem Worded.halt (c : Nat) : Worded.Statement (.halt c) :=
  .inl rfl

theorem Worded.resume (c : Nat) : Worded.Statement (.resume c) :=
  .inl rfl

theorem Worded.desched (c : Nat) : Worded.Statement (.desched c) :=
  .inl rfl

theorem Worded.kill (c : Nat) : Worded.Statement (.kill c) :=
  .inl rfl

theorem Worded.queueEnable (q : Nat) : Worded.Statement (.queueEnable q) :=
  .inl rfl

theorem Worded.queueDisable (q : Nat) : Worded.Statement (.queueDisable q) :=
  .inl rfl

theorem Worded.notify (q : Nat) (w : Nat) : Worded.Statement (.notify q w) :=
  .inl rfl

theorem Worded.faultRetry (c : Nat) (seq : Nat) : Worded.Statement (.faultRetry c seq) :=
  .inl rfl

theorem Worded.faultFail (c : Nat) (seq : Nat) : Worded.Statement (.faultFail c seq) :=
  .inl rfl

theorem Worded.tagwrWrite (w : Nat) : Worded.Statement (.tagwrWrite w) :=
  .inl rfl

theorem Worded.warmReset (d : Nat) : Worded.Statement (.warmReset d) :=
  .inl rfl

theorem Worded.dieFlushing (d : Nat) : Worded.Statement (.dieFlushing d) :=
  .inl rfl

theorem Worded.dieResetting (d : Nat) : Worded.Statement (.dieResetting d) :=
  .inl rfl

theorem Worded.dieTesting (d : Nat) : Worded.Statement (.dieTesting d) :=
  .inl rfl

theorem Worded.dieRetraining (d : Nat) : Worded.Statement (.dieRetraining d) :=
  .inl rfl

theorem Worded.dieUp (d : Nat) : Worded.Statement (.dieUp d) :=
  .inl rfl

theorem Worded.lmbaseWrite (w : Nat) : Worded.Statement (.lmbaseWrite w) :=
  .inl rfl

theorem Worded.debugWrite (w : Nat) : Worded.Statement (.debugWrite w) :=
  .inl rfl

theorem Worded.debugRead  : Worded.Statement (.debugRead) :=
  .inl rfl

theorem Worded.breakpointSet (c : Nat) (n : Nat) (w : Nat) : Worded.Statement (.breakpointSet c n w) :=
  .inl rfl

theorem Worded.mcwinWrite (n : Nat) (w : Nat) : Worded.Statement (.mcwinWrite n w) :=
  .inl rfl

theorem Worded.portEnable (p : Nat) (pmd : Nat) : Worded.Statement (.portEnable p pmd) :=
  .inl rfl

theorem Worded.portDisable (p : Nat) : Worded.Statement (.portDisable p) :=
  .inl rfl

theorem Worded.routeWrite (p : Nat) (w : Nat) : Worded.Statement (.routeWrite p w) :=
  .inl rfl

theorem Worded.registerWrite (acc : RegAccess) (w : Nat) : Worded.Statement (.registerWrite acc w) :=
  .inl rfl

theorem Worded.tick (c : Nat) : Worded.Statement (.tick c) :=
  .inl rfl

theorem Worded.rowExpiry (gid : Nat) (row : Nat) : Worded.Statement (.rowExpiry gid row) :=
  .inl rfl

theorem Worded.sleepWake (t : Nat) : Worded.Statement (.sleepWake t) :=
  .inl rfl

theorem Worded.sliceEnd (c : Nat) : Worded.Statement (.sliceEnd c) :=
  .inl rfl

theorem Worded.contextReturn (c : Nat) : Worded.Statement (.contextReturn c) :=
  .inl rfl

theorem Worded.watchdogFire (kern : Nat) : Worded.Statement (.watchdogFire kern) :=
  .inl rfl

theorem Worded.budgetFire (kern : Nat) : Worded.Statement (.budgetFire kern) :=
  .inl rfl

theorem Worded.traceSample (d : Nat) : Worded.Statement (.traceSample d) :=
  .inl rfl

theorem Worded.refreshPass (core : Nat) : Worded.Statement (.refreshPass core) :=
  .inl rfl

theorem Worded.heartbeat (d : Nat) : Worded.Statement (.heartbeat d) :=
  .inl rfl

theorem Worded.failsafeEntry (d : Nat) : Worded.Statement (.failsafeEntry d) :=
  .inl rfl

theorem Worded.powerMeasurement (watts : Nat) : Worded.Statement (.powerMeasurement watts) :=
  .inl rfl

theorem Worded.operatingPointStable  : Worded.Statement (.operatingPointStable) :=
  .inl rfl

theorem Worded.thermalChange (d : Nat) (band : Temp) : Worded.Statement (.thermalChange d band) :=
  .inl rfl

theorem Worded.thermalTrip  : Worded.Statement (.thermalTrip) :=
  .inl rfl

theorem Worded.bridgeModuleLoss (b : Nat) : Worded.Statement (.bridgeModuleLoss b) :=
  .inl rfl

theorem Worded.coldReset (fails : Nat) (alt : BootAlt) : Worded.Statement (.coldReset fails alt) :=
  .inl rfl

theorem Worded.firmwareUpdate (image : Image) (cut : Bool) : Worded.Statement (.firmwareUpdate image cut) :=
  .inl rfl

theorem Worded.getVersion (tr : Transport) : Worded.Statement (.getVersion tr) :=
  .inl rfl

theorem Worded.getCapabilities (tr : Transport) : Worded.Statement (.getCapabilities tr) :=
  .inl rfl

theorem Worded.negotiateAlgorithms (tr : Transport) : Worded.Statement (.negotiateAlgorithms tr) :=
  .inl rfl

theorem Worded.getDigests (tr : Transport) : Worded.Statement (.getDigests tr) :=
  .inl rfl

theorem Worded.getCertificate (tr : Transport) (slot : Nat) : Worded.Statement (.getCertificate tr slot) :=
  .inl rfl

theorem Worded.challenge (tr : Transport) (nonce : Nat) : Worded.Statement (.challenge tr nonce) :=
  .inl rfl

theorem Worded.getMeasurements (tr : Transport) (n : Nat) : Worded.Statement (.getMeasurements tr n) :=
  .inl rfl

theorem Worded.unsupportedRequest (tr : Transport) (req : Nat) : Worded.Statement (.unsupportedRequest tr req) :=
  .inl rfl

theorem Worded.flitTransmit (port : Nat) : Worded.Statement (.flitTransmit port) :=
  .inl rfl

theorem Worded.flitRead (port : Nat) (f : Flit) : Worded.Statement (.flitRead port f) :=
  .inl rfl

theorem Worded.flitWrite (port : Nat) (f : Flit) : Worded.Statement (.flitWrite port f) :=
  .inl rfl

theorem Worded.flitAtomic (port : Nat) (f : Flit) : Worded.Statement (.flitAtomic port f) :=
  .inl rfl

theorem Worded.flitResponse (port : Nat) (f : Flit) : Worded.Statement (.flitResponse port f) :=
  .inl rfl

theorem Worded.multicastWrite (port : Nat) (f : Flit) : Worded.Statement (.multicastWrite port f) :=
  .inl rfl

theorem Worded.managementFrame (port : Nat) (f : Flit) : Worded.Statement (.managementFrame port f) :=
  .inl rfl

theorem Worded.nak (port : Nat) (f : Flit) : Worded.Statement (.nak port f) :=
  .inl rfl

theorem Worded.credits (port : Nat) (f : Flit) : Worded.Statement (.credits port f) :=
  .inl rfl

theorem Worded.endToEndAcknowledgement (port : Nat) (f : Flit) : Worded.Statement (.endToEndAcknowledgement port f) :=
  .inl rfl

theorem Worded.portTrained (p : Nat) (far : Nat) : Worded.Statement (.portTrained p far) :=
  .inl rfl

theorem Worded.portRetrain (p : Nat) : Worded.Statement (.portRetrain p) :=
  .inl rfl

theorem Worded.portTimeout (p : Nat) : Worded.Statement (.portTimeout p) :=
  .inl rfl

theorem Worded.deviceLost (p : Nat) : Worded.Statement (.deviceLost p) :=
  .inl rfl

theorem Worded.hostBar4Read (off : BarAt) (n : Nat) : Worded.Statement (.hostBar4Read off n) :=
  .inl rfl

theorem Worded.hostBar4Write (off : BarAt) (data : List Byte) : Worded.Statement (.hostBar4Write off data) :=
  .inl rfl

theorem Worded.flitForward (port : Nat) (f : Flit) : Worded.Statement (.flitForward port f) :=
  .inl rfl

theorem Worded.idleFlit (port : Nat) (lack : Nat) : Worded.Statement (.idleFlit port lack) :=
  .inl rfl

theorem Worded.flitCrcFailure (port : Nat) : Worded.Statement (.flitCrcFailure port) :=
  .inl rfl

theorem Worded.phyRestored (p : Nat) : Worded.Statement (.phyRestored p) :=
  .inl rfl

theorem Worded.inboundInval (src : Nat) (c : Nat) (va : Nat) (n : Nat) : Worded.Statement (.inboundInval src c va n) :=
  .inl rfl

theorem Worded.hostAtomicop (off : BarAt) (op : HostAtomic) (w64 : Bool) (v : Nat) (cmpv : Nat) : Worded.Statement (.hostAtomicop off op w64 v cmpv) :=
  .inl rfl

theorem Worded.softError (site : ErrSite) (unc : Bool) : Worded.Statement (.softError site unc) :=
  .inl rfl

theorem Worded.scrubbing (d : Nat) : Worded.Statement (.scrubbing d) :=
  .inl rfl

end Sys2Proof.Laws
end

