-- ==== Sys2Proof/Laws/Turns.lean ====
section
/-! SUPPORT. What the operations of a running instruction answer (`State.Turns`): sequencing, the thread's own gang, context and thread,
the translation, and the checks and accesses of scratch. -/

namespace Sys2Proof.Machine

open Sys2Proof

theorem noting_id : Noting fun y => y := fun y => ⟨y.opbuf, y.cont, y.pendLapf, y.pendMis, y.pendFst, rfl, fun _ _ h => h⟩

theorem Noting.lapse {f : Thread → Thread} (h : Noting f) (z : Bool) : Noting fun y => if z then { f y with pendLapf := true } else f y := by
  intro y
  obtain ⟨B, c, w, m, n, e, k⟩ := h y
  cases z
  · exact ⟨B, c, w, m, n, e, k⟩
  · exact ⟨B, c, true, m, n, by simp [e], k⟩

/-- Reading registers is noting. -/
theorem noting_reading (B : AMap TWord) (z m : Bool) :
    Noting fun th => { th with opbuf := B, pendLapf := th.pendLapf || z, pendMis := th.pendMis || m } :=
  fun y => ⟨B, y.cont, y.pendLapf || z, y.pendMis || m, y.pendFst, rfl, fun _ _ h => h⟩

theorem turns_pure {α : Type} (s : State) (t : Nat) (a : α) : s.Turns s t (pure a) a false := ⟨rfl, rfl, fun _ _ => rfl⟩

theorem turns_bind {α β : Type} {s S S' : State} {t : Nat} {m : M α} {k : α → M β} {a : α} {r : β} {z z' : Bool}
    (h : s.Turns S t m a z) (h' : S.Turns S' t (k a) r z') : s.Turns S' t (m >>= k) r (z || z') := by
  refine ⟨h'.1.trans h.1, h'.2.1.trans h.2.1, fun f hf => ?_⟩
  have e := h.2.2 f hf
  have e' := h'.2.2 _ (hf.lapse z)
  change EStateM.bind m k (s.updThread t f) = _
  simp only [EStateM.bind, e, e']
  cases z <;> cases z' <;> rfl

theorem gives_bind {α β : Type} {s S : State} {t : Nat} {m : M α} {k : α → M β} {a : α} {r : β} {z : Bool}
    (h : s.Gives t m a) (h' : s.Turns S t (k a) r z) : s.Turns S t (m >>= k) r z := by
  have := turns_bind h h'
  simpa using this

/-- An operation that looks at the state first, at something no note touches. -/
theorem turns_get {β : Type} {s S : State} {t : Nat} {k : State → M β} {m : M β} {r : β} {z : Bool}
    (hk : ∀ f, Noting f → k (s.updThread t f) = m) (h : s.Turns S t m r z) : s.Turns S t (get >>= k) r z := by
  refine ⟨h.1, h.2.1, fun f hf => ?_⟩
  rw [← h.2.2 f hf, ← hk f hf]
  rfl

theorem gives_curT {s : State} {c : Cur} (hc : s.cur = some c) : s.Gives c.t curT c.t := by
  refine ⟨rfl, rfl, fun f _ => ?_⟩
  simp [curT, bind, EStateM.bind, get, getThe, MonadStateOf.get, EStateM.get, hc, pure, EStateM.pure]

theorem gives_gang {s : State} {c : Cur} {g : Gang} (hc : s.cur = some c) (hg : s.gangs.find (gidOf c.t) = some g) : s.Gives c.t gang g := by
  refine gives_bind (gives_curT hc) (turns_get (m := pure g) (fun f _ => ?_) (turns_pure ..))
  simp [hg]

theorem gives_getKernel {s : State} {t k : Nat} {x : Kernel} (h : s.kernels.find k = some x) : s.Gives t (getKernel k) x := by
  refine turns_get (m := pure x) (fun f _ => ?_) (turns_pure ..)
  simp [h]

theorem gives_now {s : State} {c : Cur} {g : Gang} (hc : s.cur = some c) (hg : s.gangs.find (gidOf c.t) = some g) :
    s.Gives c.t now (s.tickOf g.ctx) :=
  gives_bind (gives_gang hc hg) (turns_get (m := pure (s.tickOf g.ctx)) (fun _ _ => rfl) (turns_pure ..))

theorem gives_curCtx {s : State} {c : Cur} {g : Gang} (hc : s.cur = some c) (hg : s.gangs.find (gidOf c.t) = some g) :
    s.Gives c.t curCtx (s.ctx g.ctx) :=
  gives_bind (gives_gang hc hg) (turns_get (m := pure (s.ctx g.ctx)) (fun _ _ => rfl) (turns_pure ..))

/-- An operation that looks at its thread first, at something no note touches. -/
theorem turns_thread {β : Type} {s S : State} {c : Cur} {th : Thread} {k : Thread → M β} {m : M β} {r : β} {z : Bool}
    (hc : s.cur = some c) (ht : s.threads.find c.t = some th) (hk : ∀ f, Noting f → k (f th) = m) (h : s.Turns S c.t m r z) :
    s.Turns S c.t (thread >>= k) r z := by
  refine ⟨h.1, h.2.1, fun f hf => ?_⟩
  rw [← h.2.2 f hf, ← hk f hf]
  simp [thread, curT, getThread, bind, EStateM.bind, get, getThe, MonadStateOf.get, EStateM.get, hc, ht, pure, EStateM.pure]

/-- A change of the state that leaves threads alone and commutes with notes. -/
theorem turns_modify {s : State} {t : Nat} {g : State → State} (hc : (g s).cur = s.cur) (ht : (g s).threads = s.threads)
    (hg : ∀ f, g (s.updThread t f) = (g s).updThread t f) : s.Turns (g s) t (modify g) ⟨⟩ false := by
  refine ⟨hc, ht, fun f _ => ?_⟩
  simp [modify, modifyGet, MonadStateOf.modifyGet, EStateM.modifyGet, hg]

/-- What gives its answer under every note gives it to an instruction that has read registers. -/
theorem answers_of_gives {α : Type} {s : State} {t : Nat} {op : M α} {r : α} (z m : Bool) (h : s.Gives t op r) :
    s.Answers s t z m op r := ⟨rfl, rfl, fun B => h.2.2 _ (noting_reading B z m)⟩

theorem answers_of_turns {α : Type} {s S : State} {t : Nat} {op : M α} {r : α} (z m : Bool) (h : s.Turns S t op r false) :
    s.Answers S t z m op r := ⟨h.1, by rw [h.2.1], fun B => h.2.2 _ (noting_reading B z m)⟩

/-! ## Checks -/

theorem gives_checkBrk {s : State} {c : Cur} {th : Thread} {g : Gang} (a n : Nat) (ld st : Bool) (hc : s.cur = some c)
    (ht : s.threads.find c.t = some th) (hg : s.gangs.find (gidOf c.t) = some g) (hb : (s.ctx g.ctx).dataHit a n ld st = none) :
    s.Gives c.t (checkBrk a n ld st) ⟨⟩ := by
  let k : Bool → M Unit := fun p => do
    let x ← curCtx
    if p then pure ()
    else match x.dataHit a n ld st with
      | some b => brkStop b
      | none => pure ()
  refine turns_thread hc ht (m := k th.passBrk) (fun f hf => ?_) (gives_bind (gives_curCtx hc hg) ?_)
  · obtain ⟨B, c', z, m, l, e, k⟩ := hf th
    rw [e]
    all_goals rfl
  · simp only [hb]
    split <;> exact turns_pure ..

theorem gives_checkMem {s : State} {c : Cur} {a n al : Nat} {p : Ap} {q : Place} (hc : s.cur = some c) (ha : aperture a = some p)
    (hal : a % al = 0) (hb : s.bound (gidOf c.t) p n = .ok q) : s.Gives c.t (checkMem a n al) q := by
  refine gives_bind (gives_curT hc) ?_
  simp only [ha, hal]
  refine turns_get (m := pure q) (fun f _ => ?_) (turns_pure ..)
  have e : (s.updThread c.t f).bound (gidOf c.t) p n = .ok q := hb
  simp [e]

theorem gives_scratchAt {s : State} {c : Cur} {a n al off : Nat} {h : Home} (ha : a / 2 ^ 56 = 0xFF)
    (hm : s.Gives c.t (checkMem a n al) (.row h off)) : s.Gives c.t (scratchAt a n al) (h, off) := by
  unfold scratchAt
  simp only [ha]
  exact gives_bind hm (turns_pure ..)

/-! ## Translation -/

/-- Operations on memory, caches and dies whose result does not depend on threads commute with a change of one. -/
theorem walkVia_note (s : State) (t : Nat) (f : Thread → Thread) (d c va n level base : Nat) :
    (s.updThread t f).walkVia d c va n level base = s.walkVia d c va n level base := by
  induction n generalizing level base with
  | zero => rfl
  | succ n ih => simp only [State.walkVia, ih]; rfl

/-- Counting errors of L2 copies changes dies alone. -/
theorem ecountL2_note (t : Nat) (f : Thread → Thread) (i : Nat) (ks : List Nat) : ∀ s : State,
    (s.updThread t f).ecountL2 i ks = (s.ecountL2 i ks).updThread t f := by
  induction ks with
  | nil => intro s; rfl
  | cons k ks ih => intro s; exact ih (s.ecount (l2Die k) i 1)

theorem ecountL2_keeps (i : Nat) (ks : List Nat) : ∀ s : State, (s.ecountL2 i ks).threads = s.threads ∧ (s.ecountL2 i ks).cur = s.cur := by
  induction ks with
  | nil => intro s; exact ⟨rfl, rfl⟩
  | cons k ks ih => intro s; exact ih (s.ecount (l2Die k) i 1)

/-- A read at home changes the counted errors alone. -/
theorem noteRead_note (s : State) (t : Nat) (f : Thread → Thread) (pa n : Nat) :
    (s.updThread t f).noteRead pa n = (s.noteRead pa n).updThread t f := by
  have e (p : Prop) [Decidable p] (u v : State) : (if p then u.updThread t f else v.updThread t f) = (if p then u else v).updThread t f := by
    split <;> rfl
  unfold State.noteRead
  dsimp only
  rw [← e, ← ecountL2_note, ← ecountL2_note]
  rfl

theorem noteRead_keeps (s : State) (pa n : Nat) : (s.noteRead pa n).threads = s.threads ∧ (s.noteRead pa n).cur = s.cur := by
  unfold State.noteRead
  dsimp only
  split
  · exact ⟨rfl, rfl⟩
  · exact ⟨(ecountL2_keeps ..).1.trans (ecountL2_keeps ..).1, (ecountL2_keeps ..).2.trans (ecountL2_keeps ..).2⟩

/-- A read where no error stands changes nothing. -/
theorem noteRead_clean {s : State} (pa n : Nat) (h1 : s.softErrs = []) (h2 : s.softL2 = []) (h3 : s.poison = []) (h4 : s.poisonL2 = []) :
    s.noteRead pa n = s := by
  simp [State.noteRead, h1, h2, h3, h4]

theorem noteWalk_note (t : Nat) (f : Thread → Thread) (d c va : Nat) (es : List (Nat × Nat × Nat)) : ∀ s : State,
    (s.updThread t f).noteWalk d c va es = (s.noteWalk d c va es).updThread t f := by
  induction es with
  | nil => intro s; rfl
  | cons e es ih =>
    intro s
    obtain ⟨level, e, pte⟩ := e
    simp only [State.noteWalk, noteRead_note]
    generalize s.noteRead e 16 = x
    have h1 : (x.updThread t f).cachedTable d c va level = x.cachedTable d c va level := rfl
    rw [h1]
    split
    · exact ih (x.cacheEntry d c va level e pte)
    · exact ih _

theorem chooseLeaf_note (s : State) (t : Nat) (f : Thread → Thread) (d c va : Nat) (need : Need) :
    (s.updThread t f).chooseLeaf d c va need =
      ((s.chooseLeaf d c va need).1, (s.chooseLeaf d c va need).2.updThread t f) := by
  have e : (s.updThread t f).rootOf c = s.rootOf c := rfl
  have e' : (s.updThread t f).cached d c va = s.cached d c va := rfl
  have e'' (n pa : Nat) : (s.updThread t f).phys n pa = s.phys n pa := rfl
  have e3 : (s.updThread t f).free = s.free := rfl
  have e4 (x : State) : (x.updThread t f).stale d c va = x.stale d c va := rfl
  simp only [State.chooseLeaf, walkVia_note, noteWalk_note, e, e', e'', e3, e4]
  generalize s.walkVia d c va 4 0 (s.rootOf c) = r
  obtain ⟨w, path⟩ := r
  dsimp only
  split
  · split <;> rfl
  · split
    · split <;> rfl
    · split
      · split <;> rfl
      · split <;> rfl

theorem cacheLeaf_note (s : State) (t : Nat) (f : Thread → Thread) (d c va pte ent level : Nat) :
    (s.updThread t f).cacheLeaf d c va pte ent level = (s.cacheLeaf d c va pte ent level).updThread t f := by
  have e' : (s.updThread t f).cached d c va = s.cached d c va := rfl
  simp only [State.cacheLeaf, e']
  split <;> rfl

theorem admitLeaf_note (s : State) (t : Nat) (f : Thread → Thread) (c va : Nat) (need : Need) (pte level : Nat) (dirty : Option Nat) :
    (s.updThread t f).admitLeaf c va need pte level dirty =
      ((s.admitLeaf c va need pte level dirty).1, (s.admitLeaf c va need pte level dirty).2.updThread t f) := by
  have e3 : (s.updThread t f).ctx c = s.ctx c := rfl
  have e (n pa : Nat) : (s.updThread t f).phys n pa = s.phys n pa := rfl
  simp only [State.admitLeaf, e3, e, State.physSet_updThread]
  have key (x : State) : (if (pteLink pte == 0 && (x.updThread t f).dieRefuses (pteAddr pte + va % 2 ^ levelShift level)) = true then
        (Xlate.remote, (x.updThread t f).countErr (pteAddr pte + va % 2 ^ levelShift level))
      else ((x.updThread t f).viaBridge (pteAddr pte + va % 2 ^ levelShift level) pte, x.updThread t f)) =
      (((if (pteLink pte == 0 && x.dieRefuses (pteAddr pte + va % 2 ^ levelShift level)) = true then
        (Xlate.remote, x.countErr (pteAddr pte + va % 2 ^ levelShift level))
      else (x.viaBridge (pteAddr pte + va % 2 ^ levelShift level) pte, x)) : Xlate × State).1,
      ((if (pteLink pte == 0 && x.dieRefuses (pteAddr pte + va % 2 ^ levelShift level)) = true then
        (Xlate.remote, x.countErr (pteAddr pte + va % 2 ^ levelShift level))
      else (x.viaBridge (pteAddr pte + va % 2 ^ levelShift level) pte, x)) : Xlate × State).2.updThread t f) := by
    have h : (x.updThread t f).dieRefuses (pteAddr pte + va % 2 ^ levelShift level) = x.dieRefuses (pteAddr pte + va % 2 ^ levelShift level) := rfl
    rw [h]
    split <;> rfl
  split
  · rfl
  · split
    · rfl
    · cases dirty with
      | none => exact key s
      | some a =>
        dsimp only
        by_cases hn : need.writes = true
        · simp only [hn, if_true]; exact key _
        · simp only [hn]; exact key s

theorem xlate_note (s : State) (t : Nat) (f : Thread → Thread) (d c va : Nat) (need : Need) :
    (s.updThread t f).xlate d c va need = ((s.xlate d c va need).1, (s.xlate d c va need).2.updThread t f) := by
  simp only [State.xlate, chooseLeaf_note]
  generalize s.chooseLeaf d c va need = r
  obtain ⟨w, s⟩ := r
  match w with
  | .bad k l => rfl
  | .refused pa => rfl
  | .poison => rfl
  | .held pte level => exact admitLeaf_note ..
  | .leaf pte ent level =>
    have e (n pa : Nat) (s : State) : (s.updThread t f).phys n pa = s.phys n pa := rfl
    simp only [cacheLeaf_note, e, State.physSet_updThread, admitLeaf_note]

theorem physSet_same {s : State} {c n pa v : Nat} (hm : s.mcwins = []) (hs : Memory.setBytes s.mem pa (leBytes n v) = s.mem) :
    s.physSet c n pa v = s := by
  rw [State.physSet_plain hm]
  simp only [State.withBytes, State.noteCode, hs]
  rw [if_pos (by simp)]

/-- A translation that the die caches as the tables have it, its page already marked as used: nothing changes. -/
theorem xlate_hit {s : State} {d c va size pte ent level : Nat} {need : Need} {e : TlbEntry}
    (hw : (s.walkVia d c va 4 0 (s.rootOf c)).1 = .leaf pte ent level) (hv : s.stale d c va = false)
    (hc : s.cached d c va = some e) (he : e.pte = pte ∧ e.ent = ent ∧ e.size = size) (hl : levelOfSize size = level) (hm : s.mcwins = [])
    (hs : Memory.setBytes s.mem (ent + 8) (leBytes 1 (setBit (s.phys 1 (ent + 8)) d true)) = s.mem)
    (hd : need.writes = true → Memory.setBytes s.mem (ent + 8) (leBytes 1 (setBit (s.phys 1 (ent + 8)) 4 true)) = s.mem)
    (hn : lacks need pte = none) (hk : pteLink pte = 0)
    (hh : bit (s.ctx c).homemask (homeDie (pteAddr pte + va % 2 ^ levelShift level)) = true)
    (hr : s.dieRefuses (pteAddr pte + va % 2 ^ levelShift level) = false) :
    s.xlate d c va need = (.ok (pteAddr pte + va % 2 ^ levelShift level) pte, s) := by
  obtain ⟨rfl, rfl, rfl⟩ := he
  have h1 : s.chooseLeaf d c va need = (.leaf e.pte e.ent level, s) := by
    simp only [State.chooseLeaf]
    generalize s.walkVia d c va 4 0 (s.rootOf c) = r at hw
    obtain ⟨w, path⟩ := r
    obtain rfl : w = _ := hw
    simp [hc, hl, hv]
  have h2 : s.cacheLeaf d c va e.pte e.ent level = s := by simp [State.cacheLeaf, hc]
  have h3 : s.physSet c 1 (e.ent + 8) (setBit (s.phys 1 (e.ent + 8)) d true) = s := physSet_same hm hs
  have h4 : (if need.writes = true then s.physSet c 1 (e.ent + 8) (setBit (s.phys 1 (e.ent + 8)) 4 true) else s) = s := by
    split
    · next h => exact physSet_same hm (hd h)
    · rfl
  simp [State.xlate, h1, h2, h3, h4, State.admitLeaf, State.viaBridge, hn, hk, hh, hr]

theorem gives_xlate {s : State} {c : Cur} {g : Gang} {va pa pte : Nat} {need : Need} (hc : s.cur = some c)
    (hg : s.gangs.find (gidOf c.t) = some g)
    (hx : s.xlate (dieOfCore (coreOf c.t)) g.ctx va need = (.ok pa pte, s)) : s.Gives c.t (xlate va need) (pa, pte) := by
  unfold xlate
  refine gives_bind (gives_curT hc) (gives_bind (gives_gang hc hg) ⟨rfl, rfl, fun f _ => ?_⟩)
  simp [bind, EStateM.bind, get, getThe, MonadStateOf.get, EStateM.get, xlate_note, hx, set, MonadStateOf.set,
    EStateM.set, pure, EStateM.pure]

/-- The local line of a translated global address. -/
theorem gives_lineFor {s : State} {c : Cur} {g : Gang} {a va pa pte : Nat} (hc : s.cur = some c)
    (hg : s.gangs.find (gidOf c.t) = some g) (ha : aperture a = some (.glob va))
    (hx : s.xlate (dieOfCore (coreOf c.t)) g.ctx va .load = (.ok pa pte, s)) (hp : pteLink pte = 0) :
    s.Gives c.t (lineFor a) (some (pa / 128)) := by
  unfold lineFor
  simp only [ha]
  refine gives_bind (gives_curT hc) (gives_bind (gives_gang hc hg) ⟨rfl, rfl, fun f _ => ?_⟩)
  rw [bind_run, get_run]
  simp only [xlate_note, hx, bind_run, set_run, hp]
  rfl

/-- The side log does nothing to a load when it is empty. -/
theorem gives_logLoad {s : State} {c : Cur} {g : Gang} (va n : Nat) (fwd : Bool) (hc : s.cur = some c)
    (hg : s.gangs.find (gidOf c.t) = some g) (hl : g.slog = []) : s.Gives c.t (logLoad va n fwd) none := by
  unfold logLoad
  refine gives_bind (gives_gang hc hg) ?_
  simp only [Gang.logOverlap, hl]
  exact turns_pure ..

/-- A copy's source in translated local memory. -/
theorem gives_copyCheck {s : State} {c : Cur} {g : Gang} {va n pa pte : Nat} (hc : s.cur = some c)
    (hg : s.gangs.find (gidOf c.t) = some g) (hl : g.slog = [])
    (hx : s.xlate (dieOfCore (coreOf c.t)) g.ctx va .load = (.ok pa pte, s)) (hp : pteLink pte = 0) :
    s.Gives c.t (copyCheck va n) (pa, pte) := by
  unfold copyCheck
  refine gives_bind (gives_logLoad va n false hc hg hl) (gives_bind (gives_xlate hc hg hx) ?_)
  simp only [isHost, hp]
  exact turns_pure ..

theorem gives_copySource {s : State} (t : Nat) {va n pa pte : Nat} (hp : pteLink pte = 0) : s.Gives t (copySource pa pte va n) (pa, none) := by
  unfold copySource
  simp only [hp]
  exact turns_pure ..

/-- A reference to a live object in translated tagged local memory. -/
theorem gives_validateRef {s : State} {c : Cur} {g : Gang} {r pa pte : Nat} {need : Need} (hc : s.cur = some c)
    (hg : s.gangs.find (gidOf c.t) = some g) (hr : (r / 2 ^ 56 != 0 || r % 16 != 0) = false)
    (hx : s.xlate (dieOfCore (coreOf c.t)) g.ctx r need = (.ok pa pte, s)) (hp : pteLink pte = 0) (ht : bit pte 55 = true)
    (hn : s.noteRead pa 16 = s) (hl : s.liveHeader pa = true) (hq : s.firstPoison pa 16 0 = none) : s.Gives c.t (validateRef r need) (pa, s.phys 16 pa) := by
  unfold validateRef
  rw [if_neg (by rw [hr]; decide)]
  refine gives_bind (gives_xlate hc hg hx) ⟨rfl, rfl, fun f _ => ?_⟩
  have h1 : (s.updThread c.t f).liveHeader pa = true := hl
  have h2 : (s.updThread c.t f).firstPoison pa 16 0 = none := hq
  have h3 : (s.updThread c.t f).noteRead pa 16 = s.updThread c.t f := by rw [noteRead_note, hn]
  dsimp only
  rw [bind_run, get_run]
  simp only [hp, ht]
  rw [if_neg (by decide), if_neg (by decide), bind_run, set_run, h3]
  simp only [h2, h1, if_true]
  rfl

/-- One page of a range. -/
theorem gives_xlateSpans {s : State} {c : Cur} {g : Gang} {va n pa pte : Nat} {need : Need} (hc : s.cur = some c)
    (hg : s.gangs.find (gidOf c.t) = some g)
    (hx : s.xlate (dieOfCore (coreOf c.t)) g.ctx va need = (.ok pa pte, s)) (hp : pteLink pte = 0) :
    s.Gives c.t (xlateSpans need [(va, n)]) [(va, pa, n, pte)] := by
  unfold xlateSpans
  refine gives_bind (gives_xlate hc hg hx) ?_
  simp only [hp]
  exact gives_bind (a := []) (turns_pure ..) (turns_pure ..)

/-- Fetching the word at a code offset that the thread has not fetched yet, from translated local memory. -/
theorem gives_fetchWord {s : State} {c : Cur} {th : Thread} {g : Gang} {k : Kernel} {pc pa pte : Nat} (hc : s.cur = some c)
    (ht : s.threads.find c.t = some th) (hg : s.gangs.find (gidOf c.t) = some g) (hk : s.kernels.find g.kern = some k)
    (hb : th.fbuf.find pc = none) (hf : ∀ a v, th.cont ≠ .ffail a v) (ho : s.codeOld.find (pa / 8) = none) (hl : pc < k.desc.clen) (ha : pc % 8 = 0)
    (hx : s.xlate (dieOfCore (coreOf c.t)) g.ctx ((k.desc.code + pc) % 2 ^ 56) .fetch = (.ok pa pte, s)) (hp : pteLink pte = 0)
    (hn : s.noteRead pa 8 = s) (hq : s.firstPoison pa 8 0 = none) :
    s.Gives c.t (fetchWord pc) (s.phys 8 pa, bit pte 55 && s.tagAt pa) := by
  unfold fetchWord
  refine turns_thread hc ht (m := do
      let g ← gang
      let k ← getKernel g.kern
      if k.desc.clen ≤ pc || pc % 8 != 0 then trap .clause pc
      else
        let (pa, pte) ← xlate ((k.desc.code + pc) % 2 ^ 56) .fetch
        if pteLink pte == 1 then fetchRemote (pteDev pte) pa ((k.desc.code + pc) % 2 ^ 56) pc pte
        else if pteLink pte == 2 then do
          hostCheck ((k.desc.code + pc) % 2 ^ 56)
          pure ((← get).phys 8 (hostKey pa), false)
        else
          modify fun s => s.noteRead pa 8
          let s ← get
          match s.firstPoison pa 8 0 with
          | some i => throw (.memerr ((k.desc.code + pc) % 2 ^ 56 + i))
          | none => do
            let (w, s) := s.codeWord g.kern pa
            set s
            pure (w.1, bit pte 55 && w.2)) (fun u hu => ?_)
    (gives_bind (gives_gang hc hg) (gives_bind (gives_getKernel hk) ?_))
  · obtain ⟨B, c', z, m, l, e, q⟩ := hu th
    rw [e]
    simp only [hb]
    have hn : ∀ a v, c' ≠ .ffail a v := fun a v h => hf a v (q a v h)
    funext x
    cases c' with
    | ffail a v => exact absurd rfl (hn a v)
    | _ => rfl
  · rw [if_neg (by simp [ha]; omega)]
    refine gives_bind (gives_xlate hc hg hx) ?_
    simp only [hp]
    refine ⟨rfl, rfl, fun u _ => ?_⟩
    have e : (s.updThread c.t u).firstPoison pa 8 0 = none := hq
    have e2 : (s.updThread c.t u).codeWord g.kern pa = ((s.phys 8 pa, s.tagAt pa), s.updThread c.t u) := by
      have h : (s.updThread c.t u).codeOld.find (pa / 8) = none := ho
      unfold State.codeWord
      rw [h]
      rfl
    have e3 : (s.updThread c.t u).noteRead pa 8 = s.updThread c.t u := by rw [noteRead_note, hn]
    rw [if_neg (by decide), if_neg (by decide)]
    simp only [bind_run, modify_run, get_run, e3, e, e2, set_run, pure_run]
    rfl

/-! ## Scratch -/

theorem gives_meetRows {s : State} (t : Nat) {al : Alloc} {h : Home} {ps : List (Nat × Nat)} (a : Nat) (hz : al.struckAt s.curNo ps = none) :
    s.Gives t (meetRows h al ps a) ⟨⟩ := by
  unfold meetRows meetAt
  refine turns_get (m := pure ⟨⟩) (fun f _ => ?_) (turns_pure ..)
  have e : (s.updThread t f).curNo = s.curNo := rfl
  simp only [e, hz]

/-- A read of words without a correctable error changes nothing (R401). -/
theorem gives_cureRows {s : State} {t : Nat} {h : Home} {al : Alloc} {ms : List (Nat × Nat)} (core : Nat) (ha : s.allocAt h = some al)
    (hq : al.softAt ms = false) : s.Gives t (modify fun s => s.cureRows core h ms : M Unit) ⟨⟩ := by
  have e : ∀ f, (s.updThread t f).cureRows core h ms = s.updThread t f := fun f => by
    have : (s.updThread t f).allocAt h = some al := by rw [← ha]; cases h <;> rfl
    simp [State.cureRows, this, hq]
  exact ⟨rfl, rfl, fun f _ => by rw [modify_run, e]; rfl⟩

theorem gives_readRow {s : State} {c : Cur} {g : Gang} {al : Alloc} {h : Home} {off n a : Nat} (hc : s.cur = some c)
    (hg : s.gangs.find (gidOf c.t) = some g) (ha : s.allocAt h = some al)
    (hz : al.struckAt s.curNo (placesIn h (laneOf c.t) off n) = none)
    (hs : (scanPlaces al (s.tickOf g.ctx) (placesIn h (laneOf c.t) off n) 0).expired = none)
    (he : (scanPlaces al (s.tickOf g.ctx) (placesIn h (laneOf c.t) off n) 0).memerr = none)
    (hl : (scanPlaces al (s.tickOf g.ctx) (placesIn h (laneOf c.t) off n) 0).lapse = false)
    (hq : al.softAt (wordsAt (placesIn h (laneOf c.t) off n)) = false) :
    s.Gives c.t (readRow h off n a) (leNat (readPlaces al (s.tickOf g.ctx) (placesIn h (laneOf c.t) off n))) := by
  unfold readRow
  refine gives_bind (gives_curT hc) (gives_bind (gives_now hc hg) (turns_get (m := do
      meetRows h al (placesIn h (laneOf c.t) off n) a
      modify fun s => s.cureRows (coreOf c.t) h (wordsAt (placesIn h (laneOf c.t) off n))
      pure (leNat (readPlaces al (s.tickOf g.ctx) (placesIn h (laneOf c.t) off n)))) (fun f _ => ?_)
    (gives_bind (gives_meetRows c.t a hz) (gives_bind (gives_cureRows (coreOf c.t) ha hq) (turns_pure ..)))))
  have e : (s.updThread c.t f).allocAt h = some al := by
    rw [← ha]; cases h <;> rfl
  simp only [e, hs, he, hl]
  all_goals rfl

theorem turns_writeRow {s : State} {c : Cur} {g : Gang} {al : Alloc} {h : Home} {off n a v : Nat} (hc : s.cur = some c)
    (hg : s.gangs.find (gidOf c.t) = some g) (ha : s.allocAt h = some al)
    (hz : al.struckAt s.curNo (placesIn h (laneOf c.t) off n) = none)
    (hs : rowWriteStop al (s.tickOf g.ctx) a (placesIn h (laneOf c.t) off n) (partialPlaces h off n (placesIn h (laneOf c.t) off n)) = none)
    (hl : (scanPlaces al (s.tickOf g.ctx) (partialPlaces h off n (placesIn h (laneOf c.t) off n)) 0).lapse = false) :
    s.Turns (s.setAllocAt h (writePlaces al (s.tickOf g.ctx) (placesIn h (laneOf c.t) off n) (leBytes n v) [])) c.t (writeRow h off n a v) ⟨⟩ false := by
  unfold writeRow
  refine gives_bind (gives_curT hc) (gives_bind (gives_now hc hg) (turns_get (m := do
      meetRows h al (placesIn h (laneOf c.t) off n) a
      modify fun x => x.setAllocAt h (writePlaces al (s.tickOf g.ctx) (placesIn h (laneOf c.t) off n) (leBytes n v) [])) (fun f _ => ?_)
    (gives_bind (gives_meetRows c.t a hz) (turns_modify (g := fun x =>
      x.setAllocAt h (writePlaces al (s.tickOf g.ctx) (placesIn h (laneOf c.t) off n) (leBytes n v) [])) ?_ ?_ ?_))))
  · have e : (s.updThread c.t f).allocAt h = some al := by
      rw [← ha]; cases h <;> rfl
    simp only [e, hs, hl]
    all_goals rfl
  · cases h <;> rfl
  · cases h <;> rfl
  · intro f; cases h <;> rfl

/-! ## Release -/

theorem gives_reportFail {s : State} {c : Cur} {th : Thread} (hc : s.cur = some c) (ht : s.threads.find c.t = some th)
    (h : th.slFail = none) : s.Gives c.t reportFail ⟨⟩ := by
  refine turns_thread hc ht (m := pure ⟨⟩) (fun f hf => ?_) (turns_pure ..)
  obtain ⟨B, c', z, m, l, e, k⟩ := hf th
  rw [e]
  simp only [h]

theorem gives_reportLog {s : State} {c : Cur} {th : Thread} (sc : Nat) (hc : s.cur = some c) (ht : s.threads.find c.t = some th)
    (h : th.slFail = none) : s.Gives c.t (reportLog sc) ⟨⟩ := by
  unfold reportLog
  split
  · refine ⟨rfl, rfl, fun f hf => ?_⟩
    have ht' : (s.updThread c.t f).threads.find c.t = some (f th) := by simp [ht]
    rw [bind_run, thread_run (s := s.updThread c.t f) hc ht']
    have hr := (gives_reportFail hc ht h).2.2 f hf
    change (match (f th).cont with | .drained => (pure ⟨⟩ : M Unit) | _ => reportFail) (s.updThread c.t f) = _
    cases (f th).cont with
    | drained => rfl
    | _ => exact hr
  · exact turns_pure ..

/-- A release where the side log is empty, nothing is unacknowledged and the core holds no dirty raw line. -/
theorem gives_releaseAt {s : State} {c : Cur} {g : Gang} (sc : Nat) (hc : s.cur = some c) (hg : s.gangs.find (gidOf c.t) = some g)
    (hl : g.slog = []) (hu : s.unacked = false) (hr : (s.core (coreOf c.t)).cache = []) : s.Gives c.t (releaseAt sc) ⟨⟩ := by
  have e (f : Thread → Thread) : (s.updThread c.t f).cleanRaw (coreOf c.t) = s.updThread c.t f := by
    have e : ((s.updThread c.t f).core (coreOf c.t)).cache = [] := hr
    simp [State.cleanRaw, e, State.cleanLines]
  have e' : s.cleanRaw (coreOf c.t) = s := by simp [State.cleanRaw, hr, State.cleanLines]
  have hq : s.Gives c.t (modify fun s => s.cleanRaw (coreOf c.t)) ⟨⟩ := by
    refine ⟨rfl, rfl, fun f _ => ?_⟩
    simp [modify, modifyGet, MonadStateOf.modifyGet, EStateM.modifyGet, e]
  unfold releaseAt
  split
  · refine gives_bind (gives_curT hc) (gives_bind (gives_gang hc hg) ?_)
    rw [hl, if_neg (by decide)]
    have ht : s.Gives c.t (if 3 ≤ sc then modify fun s => s.cleanRaw (coreOf c.t) else pure PUnit.unit) ⟨⟩ := by
      split
      · exact hq
      · exact turns_pure ..
    refine turns_get (fun f _ => ?_) ht
    have u : (s.updThread c.t f).unacked = false := hu
    simp [u]
  · exact turns_pure ..

/-! ## Plain stores of global memory -/

theorem setTagAt_note (s : State) (t : Nat) (f : Thread → Thread) (pa : Nat) (b : Bool) :
    (s.updThread t f).setTagAt pa b = (s.setTagAt pa b).updThread t f := by
  simp only [State.setTagAt, State.noteMark, State.oldWords_updThread]
  rfl

theorem putTags_note (t : Nat) (f : Thread → Thread) (w tags k : Nat) : ∀ s : State,
    (s.updThread t f).putTags w tags k = (s.putTags w tags k).updThread t f := by
  induction k with
  | zero => intro s; rfl
  | succ k ih => intro s; simp only [State.putTags, setTagAt_note, ih]

theorem cleanLine_note (s : State) (t : Nat) (f : Thread → Thread) (core line : Nat) :
    (s.updThread t f).cleanLine core line = (s.cleanLine core line).updThread t f := by
  have e : (s.updThread t f).line core line = s.line core line := rfl
  unfold State.cleanLine
  dsimp only
  rw [e]
  split
  · rfl
  · have e1 (n pa : Nat) : (s.updThread t f).phys n pa = s.phys n pa := rfl
    have e2 (pa n : Nat) : (s.updThread t f).homeTags pa n = s.homeTags pa n := by
      induction n with
      | zero => rfl
      | succ n ih => simp only [State.homeTags, ih]; rfl
    simp only [e1, e2, State.withBytes_updThread]
    have e3 (x : State) (q : List Nat) : { x.updThread t f with poison := q } = ({ x with poison := q } : State).updThread t f := rfl
    rw [e3, putTags_note, State.updThread_mcwins, State.multicast_updThread]
    rfl

theorem evict_note (s : State) (t : Nat) (f : Thread → Thread) (core line : Nat) :
    (s.updThread t f).evict core line = (s.evict core line).updThread t f := by
  simp only [State.evict, cleanLine_note]
  rfl

theorem makeRoom_note (s : State) (t : Nat) (f : Thread → Thread) (core line : Nat) :
    (s.updThread t f).makeRoom core line = (s.makeRoom core line).updThread t f := by
  have e : (s.updThread t f).core core = s.core core := rfl
  have e' : (s.updThread t f).free = s.free := rfl
  simp only [State.makeRoom, e, e', evict_note]
  split <;> rfl

theorem freshTags_note (s : State) (t : Nat) (f : Thread → Thread) (core line : Nat) (ws : List Nat) :
    (s.updThread t f).freshTags core line ws = (s.freshTags core line ws).updThread t f := by
  have e : (s.updThread t f).core core = s.core core := rfl
  simp only [State.freshTags, e]
  split <;> rfl

theorem fill_note (s : State) (t : Nat) (f : Thread → Thread) (core line sects : Nat) (tagged : Bool) :
    (s.updThread t f).fill core line sects tagged = (s.fill core line sects tagged).updThread t f := by
  have e (x : State) : (x.updThread t f).line core line = x.line core line := rfl
  have e1 (l : CLine) : (s.updThread t f).outdated l = s.outdated l := rfl
  unfold State.fill
  dsimp only
  simp only [e, e1, evict_note, makeRoom_note]
  split
  · rfl
  · have h (p : Prop) [Decidable p] (u v : State) : (if p then u.updThread t f else v.updThread t f) = (if p then u else v).updThread t f := by
      split <;> rfl
    rw [h]
    generalize (if s.outdated (s.line core line) = true then s.evict core line else s.makeRoom core line) = x
    simp only [e, noteRead_note]
    exact freshTags_note (State.setLine _ _ _ _) t f _ _ _

theorem putTags_keeps (w tags k : Nat) : ∀ s : State, (s.putTags w tags k).threads = s.threads ∧ (s.putTags w tags k).cur = s.cur := by
  induction k with
  | zero => intro s; exact ⟨rfl, rfl⟩
  | succ k ih => intro s; exact ih (s.setTagAt (8 * (w + k)) (bit tags k))

theorem multicast_keeps (x : State) (c la m d : Nat) (ws : AMap Nat) :
    (x.multicast c la m d ws).threads = x.threads ∧ (x.multicast c la m d ws).cur = x.cur := by
  obtain ⟨a, o, e, h⟩ := State.multicast_shape c la m d ws x
  rw [h]; exact ⟨rfl, rfl⟩

theorem cleaned_keeps (s : State) (core line c la m d tg : Nat) (n pa v k w : Nat) (q : List Nat) (l : CLine) :
   (((((({ s.withBytes n pa v with poison := q } : State).putTags w tg k).multicast c la m d
      (({ s.withBytes n pa v with poison := q } : State).putTags w tg k).mcwins).setLine core line l).threads = s.threads) ∧
   ((((({ s.withBytes n pa v with poison := q } : State).putTags w tg k).multicast c la m d
      (({ s.withBytes n pa v with poison := q } : State).putTags w tg k).mcwins).setLine core line l).cur = s.cur)) := by
  have hp := putTags_keeps w tg k ({ s.withBytes n pa v with poison := q } : State)
  generalize State.putTags _ w tg k = y at hp ⊢
  have hm := multicast_keeps y c la m d y.mcwins
  generalize y.multicast c la m d y.mcwins = z at hm ⊢
  exact ⟨hm.1.trans hp.1, hm.2.trans hp.2⟩

theorem cleanLine_keeps (s : State) (core line : Nat) : (s.cleanLine core line).threads = s.threads ∧ (s.cleanLine core line).cur = s.cur := by
  unfold State.cleanLine
  dsimp only
  split
  · exact ⟨rfl, rfl⟩
  · apply cleaned_keeps
theorem evict_keeps (s : State) (core line : Nat) : (s.evict core line).threads = s.threads ∧ (s.evict core line).cur = s.cur :=
  cleanLine_keeps s core line

theorem makeRoom_keeps (s : State) (core line : Nat) : (s.makeRoom core line).threads = s.threads ∧ (s.makeRoom core line).cur = s.cur := by
  unfold State.makeRoom
  dsimp only
  generalize ((s.core core).cache.map (·.1)).getD (Config.freeVictim s.free % (s.core core).cache.length) 0 = l
  have h := evict_keeps s core l
  generalize s.evict core l = x at h
  split
  · exact ⟨rfl, rfl⟩
  · exact h

theorem freshTags_keeps (s : State) (core line : Nat) (ws : List Nat) :
    (s.freshTags core line ws).threads = s.threads ∧ (s.freshTags core line ws).cur = s.cur := by
  unfold State.freshTags
  split <;> exact ⟨rfl, rfl⟩

theorem settleTags_keeps (s : State) (core w k : Nat) : (s.settleTags core w k).threads = s.threads ∧ (s.settleTags core w k).cur = s.cur := by
  unfold State.settleTags
  split <;> exact ⟨rfl, rfl⟩

theorem fill_keeps (s : State) (core line sects : Nat) (tagged : Bool) :
    (s.fill core line sects tagged).threads = s.threads ∧ (s.fill core line sects tagged).cur = s.cur := by
  unfold State.fill
  dsimp only
  split
  · exact ⟨rfl, rfl⟩
  · have hx : (if s.outdated (s.line core line) = true then s.evict core line else s.makeRoom core line).threads = s.threads ∧
        (if s.outdated (s.line core line) = true then s.evict core line else s.makeRoom core line).cur = s.cur := by
      split
      · exact evict_keeps ..
      · exact makeRoom_keeps ..
    generalize (if s.outdated (s.line core line) = true then s.evict core line else s.makeRoom core line) = x at hx
    have hn := noteRead_keeps x (128 * line) 128
    generalize x.noteRead (128 * line) 128 = y at hn
    have hf := freshTags_keeps
    exact ⟨(hf ..).1.trans (hn.1.trans hx.1), (hf ..).2.trans (hn.2.trans hx.2)⟩

theorem settleTags_note (s : State) (t : Nat) (f : Thread → Thread) (core w k : Nat) :
    (s.updThread t f).settleTags core w k = (s.settleTags core w k).updThread t f := by
  have e : (s.updThread t f).core core = s.core core := rfl
  simp only [State.settleTags, e]
  split <;> rfl

theorem plainWrite_note (s : State) (t : Nat) (f : Thread → Thread) (core c pa n v tags : Nat) (tagged : Bool) :
    (s.updThread t f).plainWrite core c pa n v tags tagged = (s.plainWrite core c pa n v tags tagged).updThread t f := by
  unfold State.plainWrite
  dsimp only
  rw [fill_note]
  generalize s.fill core (pa / 128) (sectorsOf (pa % 128) n) tagged = x
  exact settleTags_note (State.setLine _ _ _ _) t f _ _ _

theorem plainWrite_keeps (s : State) (core c pa n v tags : Nat) (tagged : Bool) :
    (s.plainWrite core c pa n v tags tagged).threads = s.threads ∧ (s.plainWrite core c pa n v tags tagged).cur = s.cur := by
  have h := fill_keeps s core (pa / 128) (sectorsOf (pa % 128) n) tagged
  unfold State.plainWrite
  dsimp only
  generalize s.fill core (pa / 128) (sectorsOf (pa % 128) n) tagged = x at h ⊢
  have hs := settleTags_keeps
  exact ⟨(hs ..).1.trans h.1, (hs ..).2.trans h.2⟩

/-- The object checks of a plain store that R289 lets pass. -/
theorem gives_objectCheck {s : State} {c : Cur} {th : Thread} {pa pte a n v tags : Nat} (hc : s.cur = some c)
    (ht : s.threads.find c.t = some th) (hs : s.storeCheck (coreOf c.t) true (s.ownerOf (coreOf c.t)) pa n = none) :
    s.Gives c.t (objectCheck true pa pte a n v tags) ⟨⟩ := by
  have hw (r : Nat → Bool) : objectCheckWith (fun r sc h => askWalk r sc h) r true pa pte a n v tags =
      objectCheckWith (fun r sc h => askWalk r sc h) (fun _ => false) true pa pte a n v tags := by
    simp [objectCheckWith]
  unfold objectCheck
  simp only [hw]
  refine gives_bind (gives_curT hc) (turns_thread hc ht
    (m := do let _ ← (get : M State); objectCheckWith (fun r sc h => askWalk r sc h) (fun _ => false) true pa pte a n v tags) (fun f hf => ?_)
    (turns_get (m := objectCheckWith (fun r sc h => askWalk r sc h) (fun _ => false) true pa pte a n v tags) (fun _ _ => rfl) ?_))
  · rfl
  · unfold objectCheckWith
    refine gives_bind (gives_curT hc) ?_
    split
    · refine turns_get (m := pure ⟨⟩) (fun f _ => ?_) (turns_pure ..)
      have e : (s.updThread c.t f).storeCheck (coreOf c.t) true ((s.updThread c.t f).ownerOf (coreOf c.t)) pa n = none := by
        rw [← hs]
        have k (m g : Nat) (w : Nat) : (s.updThread c.t f).storeCheckFrom (coreOf c.t) true w pa n m g = s.storeCheckFrom (coreOf c.t) true w pa n m g := by
          induction m generalizing g with
          | zero => rfl
          | succ m ih => simp only [State.storeCheckFrom, ih]; rfl
        exact k ..
      simp only [e]
      rfl
    · exact turns_pure ..

/-- A plain store of a thread that writes one 8-byte word of translated local memory, as PUBST and OBJST make it. -/
theorem turns_holdStore {s : State} {c : Cur} {th : Thread} {g : Gang} {a v tags pa pte : Nat} (hc : s.cur = some c)
    (ht : s.threads.find c.t = some th) (hg : s.gangs.find (gidOf c.t) = some g) (hl : g.slog = [])
    (hp : s.Gives c.t (checkMem a 8 8) (.glob a)) (hx : s.xlate (dieOfCore (coreOf c.t)) g.ctx a .store = (.ok pa pte, s))
    (hb : s.Gives c.t (checkBrk a 8 false true) ⟨⟩) (hk : pteLink pte = 0)
    (hs : s.storeCheck (coreOf c.t) true (s.ownerOf (coreOf c.t)) pa 8 = none) :
    s.Turns (s.writeClass (coreOf c.t) g.ctx .plain pa pte 8 v tags) c.t (holdStore a v tags .plain (pure ⟨⟩)) ⟨⟩ false := by
  unfold holdStore
  refine gives_bind hp (gives_bind (gives_curT hc) (gives_bind (gives_gang hc hg) ?_))
  rw [if_neg (by simp [Gang.logRegion, hl])]
  refine gives_bind (gives_xlate hc hg hx) (gives_bind hb ?_)
  simp only [hk, isHost]
  refine gives_bind (gives_objectCheck hc ht hs) ?_
  rw [if_neg (by simp)]
  refine gives_bind (turns_pure s c.t PUnit.unit) ?_
  rw [if_pos (by decide)]
  have hk := plainWrite_keeps s (coreOf c.t) g.ctx pa 8 v tags (bit pte 55)
  have hn (f : Thread → Thread) := plainWrite_note s c.t f (coreOf c.t) g.ctx pa 8 v tags (bit pte 55)
  have e (x : State) : x.writeClass (coreOf c.t) g.ctx .plain pa pte 8 v tags = x.plainWrite (coreOf c.t) g.ctx pa 8 v tags (bit pte 55) := by
    unfold State.writeClass
    exact if_pos rfl
  generalize hw : (fun s : State => s.writeClass (coreOf c.t) g.ctx .plain pa pte 8 v tags) = w
  have hs : s.writeClass (coreOf c.t) g.ctx .plain pa pte 8 v tags = w s := by rw [← hw]
  have hx : ∀ x, w x = x.plainWrite (coreOf c.t) g.ctx pa 8 v tags (bit pte 55) := fun x => by rw [← hw]; exact e x
  rw [hs]
  refine turns_modify ?_ ?_ fun f => ?_
  · rw [hx]; exact hk.2
  · rw [hx]; exact hk.1
  · rw [hx, hx]; exact hn f

end Sys2Proof.Machine
end

