-- ==== Sys2Proof/Tests/Slice0.lean ====
section
/-! SUPPORT. Tests: words of the spec's encodings decode to their instructions, ill-formed terms are refused, a few first steps, and states
and operands that meet the hypotheses of the statements. -/

set_option maxRecDepth 100000
set_option Elab.async false
set_option exponentiation.threshold 2000

namespace Sys2Proof.Tests

open Sys2Proof Sys2Proof.Machine

/-! ## Words of the spec's encodings -/

/-- (p2) BRA 0x20; TRAP 0x1234; BKPT 7; RTT; NOP; JMP v6; CALL v1, f; CALLI v1, v6; RET v1; EXIT. -/
theorem test_decode_control :
    decodeWord 0x0012000000FFFFFC = .ok (.bra ⟨false, 2⟩ (-4)) ∧
    decodeWord 0x00A0000000001234 = .ok (.trap ⟨false, 0⟩ 4660) ∧
    decodeWord 0x00C0000000000007 = .ok (.bkpt ⟨false, 0⟩ 7) ∧
    decodeWord 0x00B0000001000000 = .ok (.rtt ⟨false, 0⟩ true) ∧
    decodeWord 0x0000000000000000 = .ok (.nop ⟨false, 0⟩) ∧
    decodeWord 0x0020000180000000 = .ok (.jmp ⟨false, 0⟩ 6) ∧
    decodeWord 0x0030008000000020 = .ok (.call ⟨false, 0⟩ 1 32) ∧
    decodeWord 0x0040008180000000 = .ok (.calli ⟨false, 0⟩ 1 6) ∧
    decodeWord 0x0050000040000000 = .ok (.ret ⟨false, 0⟩ 1) ∧
    decodeWord 0x0060000000000000 = .ok (.exit ⟨false, 0⟩) := by decide

/-- YIELD; SLEEP 20; BEAT; (p1) BRA absent; (p2) BRA found; BRA chase; (p5) BRA. -/
theorem test_decode_control_2 :
    decodeWord 0x0070000000000000 = .ok (.yield ⟨false, 0⟩) ∧
    decodeWord 0x0080000000000014 = .ok (.sleep ⟨false, 0⟩ 20) ∧
    decodeWord 0x0090000000000000 = .ok (.beat ⟨false, 0⟩) ∧
    decodeWord 0x0011000000000009 = .ok (.bra ⟨false, 1⟩ 9) ∧
    decodeWord 0x0012000000000007 = .ok (.bra ⟨false, 2⟩ 7) ∧
    decodeWord 0x0010000000FFFFF5 = .ok (.bra ⟨false, 0⟩ (-11)) ∧
    decodeWord 0x0015000000000012 = .ok (.bra ⟨false, 5⟩ 18) := by decide

/-- (!p3) IADDI v7, v6, -8; IADD.s.sat v3, v4, v5; IADDI v7, v6, -8; MOVI.tag=F32 v10, 0x3F80_0000; LEA.sh3 v10, v8, v12; ISETP.lt.s.and p2, v4, v5, !p1; SHL.i=4 v8, v9; BITF.fn=0x96 v3, v4, v5, v6; MOVI v13. -/
theorem test_decode_integer :
    decodeWord 0x103B038180FFFFF8 = .ok (.iaddi ⟨true, 3⟩ 7 6 false false false (-8)) ∧
    decodeWord 0x1020018100A00003 = .ok (.iadd ⟨false, 0⟩ 3 4 5 0 true true) ∧
    decodeWord 0x1030038180FFFFF8 = .ok (.iaddi ⟨false, 0⟩ 7 6 false false false (-8)) ∧
    decodeWord 0x101005033F800000 = .ok (.movi ⟨false, 0⟩ 10 (Tag.f32) 1065353216) ∧
    decodeWord 0x10A0050201800003 = .ok (.lea ⟨false, 0⟩ 10 8 12 0 3) ∧
    decodeWord 0x10E0010100A0901A = .ok (.isetp ⟨false, 0⟩ 2 4 5 ⟨true, 1⟩ 0 (Cmp.lt) true (Comb.and)) ∧
    decodeWord 0x1100040240000009 = .ok (.shl ⟨false, 0⟩ 8 9 (ShAmt.imm 4) 0) ∧
    decodeWord 0x1170018100A06096 = .ok (.bitf ⟨false, 0⟩ 3 4 5 6 0 150) ∧
    decodeWord 0x1010068080000000 = .ok (.movi ⟨false, 0⟩ 13 (Tag.raw) 2147483648) := by decide

/-- FADD v10, v20, v30; FFMA.nc v4, v5, v6, v7; FSETP.lt p2, v4, v5; CVT.to=BF2 v8, v9, v10; QPACK v20, v12, v16, v17; TAGS.tag=F32 v18, v18. -/
theorem test_decode_float :
    decodeWord 0x2000050503C00000 = .ok (.fadd ⟨false, 0⟩ 10 20 30 0 (Rm.ne) ⟨false, false, false, false⟩) ∧
    decodeWord 0x2020020140C07080 = .ok (.ffma ⟨false, 0⟩ 4 5 6 7 0 (Rm.ne) ⟨false, false, false, false⟩ true) ∧
    decodeWord 0x2050010100A00100 = .ok (.fsetp ⟨false, 0⟩ 2 4 5 0 ⟨false, false, false, false⟩ (FCond.lt)) ∧
    decodeWord 0x2130040241400020 = .ok (.cvt ⟨false, 0⟩ 8 9 10 0 (Tag.bf2) (Rm.ne) false) ∧
    decodeWord 0x21400A0302011000 = .ok (.qpack ⟨false, 0⟩ 20 12 16 17 0 (Rm.ne) false) ∧
    decodeWord 0x2170090480000003 = .ok (.tags ⟨false, 0⟩ 18 18 0 (Tag.f32)) := by decide

/-- SWADD v10, v12, v14, 64, 1, 1, 1. -/
theorem test_decode_sweep :
    decodeWord 0x3000050301C08049 = .ok (.swadd ⟨false, 0⟩ 10 12 14 64 1 1 1) := by decide

/-- LD.b32 v8, [v4+16]; ST.b64.rel.dev [v6-8], v10; ATOM.add.dev v3, [v8], v9; CAS.b32.acqrel.dev v5, [v8], v10; RED.fadd.rel.dev [v8+v9], v6; FENCE.sc.dev; CINV.all; CCLEAN.line [v8]; CPA.x16.bt1.stream v10, [v12], v14; WAITB.bt1 3. -/
theorem test_decode_memory :
    decodeWord 0x4000040100002004 = .ok (.ld ⟨false, 0⟩ 8 4 0 16 (LdWidth.b32) false 0 (AccClass.plain)) ∧
    decodeWord 0x40100501801FF0CD = .ok (.st ⟨false, 0⟩ 10 6 0 (-8) (StWidth.b64) true 3 (AccClass.plain)) ∧
    decodeWord 0x40200182012000C0 = .ok (.atom ⟨false, 0⟩ 3 8 9 0 (AtomOp.add) (Order.relaxed) 3) ∧
    decodeWord 0x40300282014000F0 = .ok (.cas ⟨false, 0⟩ 5 8 10 0 false (Order.acqrel) 3) ∧
    decodeWord 0x40400302012000E1 = .ok (.red ⟨false, 0⟩ 6 8 9 0 (AtomOp.fadd) true 3) ∧
    decodeWord 0x40500000000000C3 = .ok (.fence ⟨false, 0⟩ (FenceOrd.sc) 3) ∧
    decodeWord 0x4060000000000001 = .ok (.cinv ⟨false, 0⟩ true 0 0 0) ∧
    decodeWord 0x4070000200000000 = .ok (.cclean ⟨false, 0⟩ false 8 0 0) ∧
    decodeWord 0x4080050301C00026 = .ok (.cpa ⟨false, 0⟩ 10 12 14 0 2 1 (AccClass.stream)) ∧
    decodeWord 0x4090000001000003 = .ok (.waitb ⟨false, 0⟩ 1 3) := by decide

/-- CPB v20, [v12], v14; LD.b128.stream v8, [v14]; LD.b64.stream v14, [v12]; ST.b64 [v16+16], v24; (p2) ST.b32 [v8+1024], v30. -/
theorem test_decode_memory_2 :
    decodeWord 0x40A00A0301C00000 = .ok (.cpb ⟨false, 0⟩ 20 12 14 0 (AccClass.plain)) ∧
    decodeWord 0x4000040380000026 = .ok (.ld ⟨false, 0⟩ 8 14 0 0 (LdWidth.b128) false 0 (AccClass.stream)) ∧
    decodeWord 0x4000070300000025 = .ok (.ld ⟨false, 0⟩ 14 12 0 0 (LdWidth.b64) false 0 (AccClass.stream)) ∧
    decodeWord 0x40100C0400002005 = .ok (.st ⟨false, 0⟩ 24 16 0 16 (StWidth.b64) false 0 (AccClass.plain)) ∧
    decodeWord 0x40120F0200080004 = .ok (.st ⟨false, 2⟩ 30 8 0 1024 (StWidth.b32) false 0 (AccClass.plain)) := by decide

/-- OBJINIT v4, [v8], v10; PUBLISH.dev v5, v12; PUBST.dev v5, [v8], v12; REFMK v12, [v8]; OBJST [v12+v9], v14; RECLAIM v12. -/
theorem test_decode_object :
    decodeWord 0x5000020201400000 = .ok (.objinit ⟨false, 0⟩ 4 8 10 0) ∧
    decodeWord 0x5010028300000003 = .ok (.publish ⟨false, 0⟩ 5 12 0 3) ∧
    decodeWord 0x5020028201800003 = .ok (.pubst ⟨false, 0⟩ 5 8 12 0 3) ∧
    decodeWord 0x5030060200000000 = .ok (.refmk ⟨false, 0⟩ 12 8 0) ∧
    decodeWord 0x5040070301200000 = .ok (.objst ⟨false, 0⟩ 14 12 9 0) ∧
    decodeWord 0x5050000300000000 = .ok (.reclaim ⟨false, 0⟩ 12 0) := by decide

/-- CDSEND.w8 v3, v16, cd5; CBSET [v8], v3; LXCH.xor v10, v11, v12; PAGR.mask v9, p3; REDG.fadd v20, v21; SCANG.sadd.excl v20, v21; BAR.b1.g2; BARA.b0.g0 v7; BARW.b0.g0 v7; XBINIT [v20], v9. -/
theorem test_decode_sync :
    decodeWord 0x60B0018400005007 = .ok (.cdsend ⟨false, 0⟩ 3 16 5 8 0) ∧
    decodeWord 0x6110000200600000 = .ok (.cbset ⟨false, 0⟩ 8 3 0) ∧
    decodeWord 0x60700502C1800002 = .ok (.lxch ⟨false, 0⟩ 10 11 12 0 (LxMode.xor) false) ∧
    decodeWord 0x60800480C0000003 = .ok (.pagr ⟨false, 0⟩ 9 ⟨false, 3⟩ 0 (PagrKind.mask)) ∧
    decodeWord 0x60900A0540000002 = .ok (.redg ⟨false, 0⟩ 20 21 0 (RedOp.fadd)) ∧
    decodeWord 0x60A00A0540000008 = .ok (.scang ⟨false, 0⟩ 20 21 0 (RedOp.sadd) true) ∧
    decodeWord 0x6000000000000009 = .ok (.bar ⟨false, 0⟩ 1 2 0) ∧
    decodeWord 0x6010038000000000 = .ok (.bara ⟨false, 0⟩ 7 0 0 0) ∧
    decodeWord 0x60200001C0000000 = .ok (.barw ⟨false, 0⟩ 7 0 0 0) ∧
    decodeWord 0x6030000501200000 = .ok (.xbinit ⟨false, 0⟩ 20 9 0) := by decide

/-- XBARR v3, [v20], v9; XBWAIT [v20], v3; XBTRY p2, [v20], v3; RESAMPLE.opnd v3, v4, v5, v6; PKILL; PCOUNT v9, 1; RESAMPLE v3, v4, v5; PCOUNT v30, 1; PCOUNT v31, 3; GRPQ v9, g1, 2. -/
theorem test_decode_sync_2 :
    decodeWord 0x6040018501200000 = .ok (.xbarr ⟨false, 0⟩ 3 20 9 0) ∧
    decodeWord 0x6050000500600000 = .ok (.xbwait ⟨false, 0⟩ 20 3 0) ∧
    decodeWord 0x6060010500600000 = .ok (.xbtry ⟨false, 0⟩ 2 20 3 0) ∧
    decodeWord 0x6120018100A06001 = .ok (.resample ⟨false, 0⟩ 3 4 5 6 0 true) ∧
    decodeWord 0x6130000000000000 = .ok (.pkill ⟨false, 0⟩ 0) ∧
    decodeWord 0x6140048000200000 = .ok (.pcount ⟨false, 0⟩ 9 1 0) ∧
    decodeWord 0x6120018100A00000 = .ok (.resample ⟨false, 0⟩ 3 4 5 0 0 false) ∧
    decodeWord 0x61400F0000200000 = .ok (.pcount ⟨false, 0⟩ 30 1 0) ∧
    decodeWord 0x61400F8000600000 = .ok (.pcount ⟨false, 0⟩ 31 3 0) ∧
    decodeWord 0x6150048040400000 = .ok (.grpq ⟨false, 0⟩ 9 1 2) := by decide

/-- THDL h3, [v10]; TMMA t2, g0, cv1, v20, h3; TMMQ.n4 t0, g1, cv0, h0, h1; TZERO t2, g0; TCVT.bf16 t2, g0, [v30], v9; TSTORE t2, g0, h4, v9; TSCALE t1, g0, v6, v7; TFLAG t2, g0; TWAIT t2, g0. -/
theorem test_decode_tile :
    decodeWord 0x7000000140320000 = .ok (.thdl ⟨false, 0⟩ 3 10) ∧
    decodeWord 0x7010048280320000 = .ok (.tmma ⟨false, 0⟩ 0 1 2 (TOpnd.reg 20) (TOpnd.hnd 3) false) ∧
    decodeWord 0x7020400000130001 = .ok (.tmmq ⟨false, 0⟩ 1 0 0 (TOpnd.hnd 0) (TOpnd.hnd 1) true) ∧
    decodeWord 0x7030008000000000 = .ok (.tzero ⟨false, 0⟩ 0 2 none) ∧
    decodeWord 0x70400083C0900001 = .ok (.tcvt ⟨false, 0⟩ 0 2 30 9 true) ∧
    decodeWord 0x7050008080910000 = .ok (.tstore ⟨false, 0⟩ 0 2 (TOpnd.hnd 4) 9) ∧
    decodeWord 0x70600040C0700000 = .ok (.tscale ⟨false, 0⟩ 0 1 (TOpnd.reg 6) (TOpnd.reg 7)) ∧
    decodeWord 0x7070008000000000 = .ok (.tflag ⟨false, 0⟩ 0 2) ∧
    decodeWord 0x7080008000000000 = .ok (.twait ⟨false, 0⟩ 0 2) := by decide

/-- MFS v8, tick; MTS fst, v5; RND.w64 v6; SPALLOC v3, v4; SPFREE v3, v4; RTOUCH v5, [v8], v9; RCLASS.lapse v6, [v10], 20; RAGE v7, [v10]; TRACE v4, v5; MFS v24, lin. -/
theorem test_decode_system :
    decodeWord 0x8000040000000008 = .ok (.mfs ⟨false, 0⟩ 8 (Special.tick)) ∧
    decodeWord 0x8010000140000020 = .ok (.mts ⟨false, 0⟩ 5 false (Special.fst)) ∧
    decodeWord 0x8020030000000001 = .ok (.rnd ⟨false, 0⟩ 6 true) ∧
    decodeWord 0x8030018100000000 = .ok (.spalloc ⟨false, 0⟩ 3 4 0) ∧
    decodeWord 0x8040018100000000 = .ok (.spfree ⟨false, 0⟩ 3 4 0) ∧
    decodeWord 0x8050028201200000 = .ok (.rtouch ⟨false, 0⟩ 5 8 9 0) ∧
    decodeWord 0x8060030281000014 = .ok (.rclass ⟨false, 0⟩ 6 10 false (LifeClass.lapsing) 20) ∧
    decodeWord 0x8070038280000000 = .ok (.rage ⟨false, 0⟩ 7 10 0) ∧
    decodeWord 0x8080000100A00000 = .ok (.trace ⟨false, 0⟩ 4 5 0) ∧
    decodeWord 0x80000C0000000010 = .ok (.mfs ⟨false, 0⟩ 24 (Special.lin)) := by decide

/-! ## Well-formedness -/

/-- The guard that always holds, and one with no such predicate. -/
def gOn : Guard := ⟨false, 0⟩
def gBad : Guard := ⟨false, 8⟩
def noMods : FMods := ⟨false, false, false, false⟩
def badPred : PredSrc := ⟨false, 8⟩
def p0 : PredSrc := ⟨false, 0⟩
/-- A flit with empty header fields. -/
def flit0 : Flit := ⟨0, 0, 0, 0, 1, 1, 0, 0, 0⟩

/-- Control: guard, register, offset and count fields outside their widths (R37, R38, R40). -/
theorem test_wf_control : ((([.nop gBad, .bra gOn (2 ^ 23), .bra gOn (-2 ^ 23 - 1), .jmp gOn 512, .call gOn 512 0, .call gOn 0 (2 ^ 23),
    .calli gOn 0 512, .ret gOn 512, .exit gBad, .yield gBad, .sleep gOn (2 ^ 24), .beat gBad, .trap gOn (2 ^ 32), .rtt gBad true,
    .bkpt gOn (2 ^ 32)] : List Instr).any Instr.wf) = false) := by decide

/-- Integer and logic: register, mask, tag, shift, truth-table and predicate fields. -/
theorem test_wf_integer : ((([.mov gOn 0 0 4, .movi gOn 0 .refl 0, .movi gOn 0 .raw (2 ^ 32), .iadd gOn 512 0 0 0 false false,
    .iadd gOn 0 512 0 0 false false, .iadd gOn 0 0 512 0 false false, .iadd gOn 0 0 0 4 false false, .iaddi gOn 0 0 false false false (2 ^ 23),
    .imad gOn 0 0 0 512 0 false false, .lea gOn 0 0 0 0 8, .isetp gOn 8 0 0 p0 0 .eq false .and, .isetp gOn 0 0 0 badPred 0 .eq false .and,
    .isetp gOn 0 0 0 ⟨false, 1⟩ 0 .eq false .none, .sel gOn 0 0 0 badPred 0, .shl gOn 0 0 (.imm 32) 0, .rol gOn 0 0 (.reg 512) 0,
    .bitf gOn 0 0 0 0 0 256, .bsel gOn 0 0 0 0 4 false, .pbitf gOn 0 p0 p0 badPred 0 0, .pbitf gOn 0 p0 p0 p0 0 256, .p2v gOn 0 4,
    .v2p gOn 512 0] : List Instr).any Instr.wf) = false) := by decide

/-- Floating point, conversions, tags and sweeps: the fields CVT fixes (R216), the tags that TAGS may name, sweep counts and steps. -/
theorem test_wf_float : ((([.fadd gOn 512 0 0 0 .ne noMods, .ffma gOn 0 0 0 512 0 .ne noMods false, .fsetp gOn 8 0 0 0 noMods .eq,
    .frnd gOn 0 0 4 .ne, .hfma2 gOn 0 0 0 512 0 .ne false, .cvt gOn 0 0 0 0 .refl .ne false, .cvt gOn 0 0 1 0 .raw .ne false,
    .cvt gOn 0 0 0 0 .raw .rz false, .cvt gOn 0 0 0 0 .f32 .ne true, .qpack gOn 0 0 0 0 4 .ne false, .tagq gOn 512 0 0, .tags gOn 0 0 0 .refh,
    .swadd gOn 0 0 0 4096 0 0 0, .swfma gOn 0 0 0 0 8 0 0, .swcvt gOn 0 0 0 0 8, .swsum gOn 0 0 0 8] : List Instr).any Instr.wf) = false) := by decide

/-- Memory, copies and objects: the offset's range, scope 5, a scope without an order, no exchange in RED, an all-lines form with an
address, batch tags and widths. -/
theorem test_wf_memory : ((([.ld gOn 0 0 0 2048 .b32 false 0 .plain, .ld gOn 0 0 0 0 .b32 true 5 .plain, .ld gOn 0 0 0 0 .b32 false 1 .plain,
    .st gOn 0 0 0 (-2049) .b32 false 0 .plain, .st gOn 0 0 0 0 .b32 false 1 .plain, .atom gOn 0 0 0 0 .add .relaxed 0,
    .cas gOn 0 0 0 0 false .relaxed 5, .red gOn 0 0 0 0 .exch false 1, .fence gOn .sc 5, .cinv gOn true 1 0 0, .cclean gOn true 0 0 8,
    .cpa gOn 0 0 0 0 4 0 .plain, .cpa gOn 0 0 0 0 0 4 .plain, .waitb gOn 4 0, .waitb gOn 0 (2 ^ 24), .cpb gOn 512 0 0 0 .plain,
    .objinit gOn 0 0 0 4, .publish gOn 0 0 0 0, .pubst gOn 0 0 0 0 5, .refmk gOn 0 512 0, .objst gOn 0 0 0 4,
    .reclaim gOn 512 0] : List Instr).any Instr.wf) = false) := by decide

/-- Barriers, collectives, conduits, populations, tiles and system: each field at the first value beyond it. -/
theorem test_wf_rest : ((([.bar gOn 4 0 0, .bara gOn 0 0 4 0, .barw gOn 512 0 0 0, .xbinit gOn 0 0 4, .xbtry gOn 8 0 0 0,
    .lxch gOn 0 0 1 0 .low false, .pagr gOn 8 p0 0 .and, .redg gOn 512 0 0 .sadd, .scang gOn 0 0 4 .sadd false, .cdsend gOn 0 0 64 1 0,
    .cdsend gOn 0 0 0 0 0, .cdsend gOn 0 0 0 9 0, .cdrecv gOn 0 0 64 0, .cdpeek gOn 512 0 0 0, .cdclose gOn 0 64 0, .launch gOn 0 0 512 0,
    .qsig gOn 0 0 0 4, .cbset gOn 512 0 0, .resample gOn 0 0 0 1 0 false, .pkill gOn 4, .pcount gOn 0 7 0, .grpq gOn 0 4 0, .thdl gOn 8 0,
    .tmma gOn 0 16 0 (.reg 0) (.reg 0) false, .tmmq gOn 0 0 16 (.reg 0) (.reg 0) false, .tmma gOn 0 0 0 (.hnd 8) (.reg 0) false,
    .tzero gOn 0 0 (some (.reg 0)), .tcvt gOn 4 0 0 0 false, .tstore gOn 0 0 (.reg 512) 0, .tscale gOn 0 0 (.reg 0) (.hnd 8), .tflag gOn 0 16,
    .twait gOn 4 0, .mfs gOn 512 .lane, .mts gOn 512 false .fmode, .rnd gOn 512 false, .spalloc gOn 0 0 4, .rtouch gOn 0 0 512 0,
    .rclass gOn 0 0 false .lapsing 256, .rclass gOn 0 0 false .refreshed 1, .rclass gOn 0 0 false .trapping 0, .rage gOn 0 0 4,
    .trace gOn 0 0 4] : List Instr).any Instr.wf) = false) := by decide

/-- Events: each identifier at the first value beyond Table 1.4, and flit fields beyond Table 18.2. -/
theorem test_wf_events : ((([.issueGroupFormation 384 0, .issueGroupFormation 0 5, .loadDelivery 6291456 0, .cpaLanding 384 0,
    .tileOpApply 0 16, .brassWalk 384, .sideLogReplay 196608, .packetNop 1024, .peerFence 0 64, .launchFrame 16 flit0, .define 256,
    .queueEnable 1024, .notify 0 (2 ^ 64), .faultRetry 0 (2 ^ 32), .tagwrWrite (2 ^ 64), .warmReset 4, .breakpointSet 0 16 0, .mcwinWrite 32 0,
    .portEnable 16 0, .routeWrite 64 0, .registerWrite ⟨0, 8⟩ (2 ^ 64), .rowExpiry 196608 0, .sleepWake 6291456, .thermalChange 4 .hot,
    .bridgeModuleLoss 6, .coldReset 1024 ⟨0, [12, 12, 12, 12, 12, 12], 0⟩, .coldReset 0 ⟨0, [12, 12, 12, 12, 12, 13], 0⟩, .hostAtomicop ⟨16, 0⟩ .swap true 0 0, .getCertificate (.daxlink 64) 0, .flitRead 0 ⟨2 ^ 16, 0, 0, 0, 1, 1, 0, 0, 0⟩,
    .flitWrite 0 ⟨0, 64, 0, 0, 2, 1, 0, 0, 0⟩, .nak 0 ⟨0, 0, 0, 256, 8, 3, 0, 0, 0⟩, .credits 0 ⟨0, 0, 0, 0, 16, 3, 0, 0, 0⟩,
    .flitAtomic 0 ⟨0, 0, 0, 0, 3, 4, 0, 0, 0⟩, .portTrained 0 64, .deviceLost 64, .hostBar4Read ⟨16, 0⟩ 1, .hostBar4Read ⟨0, 0⟩ 65, .idleFlit 0 4096, .inboundInval 64 0 0 0,
    .scrubbing 4] : List Instr).any Instr.wf) = false) := by decide

/-- The same fields at their last values are admitted. -/
theorem test_wf_boundary : ((([.nop ⟨true, 7⟩, .bra gOn (-2 ^ 23), .jmp gOn 511, .sleep gOn (2 ^ 24 - 1), .iaddi gOn 511 511 true true true (2 ^ 23 - 1),
    .shl gOn 0 0 (.imm 31) 3, .bitf gOn 0 0 0 511 3 255, .cvt gOn 0 0 0 0 .u32 .rd true, .swadd gOn 0 0 0 4095 7 7 7,
    .ld gOn 0 0 0 (-2048) .b128 true 4 .stream, .red gOn 0 0 0 2047 .add64 true 4, .cdsend gOn 0 0 63 8 3, .tzero gOn 3 15 (some (.hnd 7)),
    .rclass gOn 0 0 true .trapping 255, .issueGroupFormation 383 4, .flitRead 15 flit0, .hostBar4Read ⟨15, 0⟩ 64] : List Instr).all Instr.wf) = true) := by decide

/-! ## The table word, and the first step after reset -/

/-- IADDI (!p3) v7, v6, -8 and a word with a reserved bit set, as the opcode table numbers bits. -/
theorem test_table_word : decodeTableWord 64 0x103B038180FFFFF8 = some (.iaddi ⟨true, 3⟩ 7 6 false false false (-8)) ∧
    decodeTableWord 64 0x0000000000000001 = none := by decide

/-- The machine answers a next state in which `p` holds. -/
def nextHas (o : Host.Outcome State Fault Refusal) (p : State → Bool) : Bool := match o with | .next s => p s | _ => false

/-- MOVI v13, 0x8000_0000 run as the first instruction: the register holds it with tag RAW, and the thread is past its clause. -/
theorem test_step_movi : nextHas (step (State.reset.withFetchWord 64 0x1010068080000000))
    (fun s => decide (s.storedWord 0 13 = ⟨0x80000000, .raw⟩) && decide ((s.threads.find 0).map (·.pc) = some 16)) = true := by decide

/-- TRAP 0x1234 as the first instruction, with no handler: the kernel fails with status 2 (R93). -/
theorem test_step_trap : nextHas (step (State.reset.withFetchWord 64 0x00A0000000001234))
    (fun s => decide ((s.kernels.find 0).map (·.due) = some (some 2))) = true := by decide

/-- A word with a reserved bit set raises ILLEGAL, which ends the kernel here. -/
theorem test_step_illegal : nextHas (step (State.reset.withFetchWord 64 1))
    (fun s => decide ((s.kernels.find 0).map (·.st) = some .failed)) = true := by decide

/-- The memory laws on a word that crosses byte order: little-endian (R1), and writing zero removes the entry. -/
theorem test_memory : Memory.get (State.reset.physSet 0 4 0x1000 0x11223344).mem 0x1000 = 0x44 ∧
    Memory.get (State.reset.physSet 0 4 0x1000 0x11223344).mem 0x1003 = 0x11 ∧
    ((State.reset.physSet 0 4 0x1000 0x11223344).physSet 0 4 0x1000 0).mem = [] := by decide

/-! ## States and operands that meet the hypotheses of the statements -/

/-- The state in which thread 0 of the placed gang issues a word of a three-word clause, with operands in its registers: integers in v4 to
v7, scratch addresses in v8, v20 and v22, a global one in v10, FP32 in v12 to v14, 16 in v15, packed pairs in v16 to v18, a reference in v24, narrow words in v28
and v29, a run of FP32 in v32 to v39. -/
def base : State :=
  let a := State.reset.withFetchWord 64 0
  let b := { a with agenda := [], cur := some ⟨0, 0, 0⟩, threads := a.threads.upd 0 fun th => { th with
    clause := some ⟨0, 3, 0, false, 0, 0, 0, 0, 0⟩, preds := 6, cdep := 1 } }
  [(4, 5, Tag.u32), (5, 7, .u32), (6, 3, .s32), (7, 64, .u32), (8, 0x100, .w64l), (9, 0xFF000000, .w64h), (10, 0x1000, .w64l), (11, 0, .w64h),
    (12, 0x3F800000, .f32), (13, 0x40000000, .f32), (14, 0x3F000000, .f32), (15, 16, .u32), (16, 0x3F803F80, .bf2), (17, 0x3F803F80, .bf2),
    (18, 0x3C003C00, .h2), (20, 0x200, .w64l), (21, 0xFF000000, .w64h),
    (22, 0x300, .w64l), (23, 0xFF000000, .w64h), (24, 0x2000, .refl), (25, 0, .refh), (28, 0x01020304, .q8), (29, 0x12345678, .q4),
    (32, 0x3F800000, .f32), (33, 0x3F800000, .f32), (34, 0x3F800000, .f32), (35, 0x3F800000, .f32), (36, 0x3F800000, .f32),
    (37, 0x3F800000, .f32), (38, 0x3F800000, .f32), (39, 0x3F800000, .f32)].foldl
      (fun (s : State) (e : Nat × Nat × Tag) => s.writeReg 0 e.1 ⟨BitVec.ofNat 32 e.2.1, e.2.2⟩) b

/-- The conditions of `State.Runs`, decided. -/
def runsB (s : State) (t : Nat) (fs : List Field) (extra : List Nat) (gd : Guard) : Bool :=
  match s.cur, s.threads.find t, s.gangs.find (gidOf t) with
  | some c, some th, some gg => decide (c.t = t) && decide (checkFields gg.nregs fs = none) && guardHolds th gd &&
      !th.pendingOn (fs.flatMap Field.regs ++ extra) && (gg.badRow s.curNo (laneOf t) (fs.flatMap Field.regs ++ extra)).isNone && decide (th.cont = .none) && decide (th.opbuf = [])
  | _, _, _ => false

theorem runs_of {s : State} {t : Nat} {fs : List Field} {extra : List Nat} {gd : Guard} (h : runsB s t fs extra gd = true) :
    s.Runs t fs extra gd := by
  unfold runsB at h
  split at h
  · next c th gg hc ht hg =>
    simp only [Bool.and_eq_true, decide_eq_true_eq, Bool.not_eq_true', Option.isNone_iff_eq_none] at h
    exact ⟨c, th, gg, hc, h.1.1.1.1.1.1, ht, hg, h.1.1.1.1.1.2, h.1.1.1.1.2, h.1.1.1.2, h.1.1.2, h.1.2, h.2⟩
  · simp at h

/-- The conditions of `State.Resumes` with a guard that holds, decided. -/
def resumesB (s : State) (t : Nat) (fs : List Field) (extra : List Nat) (gd : Guard) (c : Cont) : Bool :=
  match s.cur, s.threads.find t, s.gangs.find (gidOf t) with
  | some k, some th, some gg => decide (k.t = t) && decide (checkFields gg.nregs fs = none) && guardHolds th gd &&
      !th.pendingOn (fs.flatMap Field.regs ++ extra) && (gg.badRow s.curNo (laneOf t) (fs.flatMap Field.regs ++ extra)).isNone && decide (th.cont = c)
  | _, _, _ => false

theorem resumes_of {s : State} {t : Nat} {fs : List Field} {extra : List Nat} {gd : Guard} {c : Cont}
    (h : resumesB s t fs extra gd c = true) : s.Resumes t fs extra gd true c := by
  unfold resumesB at h
  split at h
  · next k th gg hc ht hg =>
    simp only [Bool.and_eq_true, decide_eq_true_eq, Bool.not_eq_true', Option.isNone_iff_eq_none] at h
    exact ⟨k, th, gg, hc, h.1.1.1.1.1, ht, hg, h.1.1.1.1.2, h.1.1.1.2, fun _ => ⟨h.1.1.2, h.1.2⟩, h.2⟩
  · simp at h

/-- The words that the tests read. -/
def w4 : TWord := ⟨5, .u32⟩
def w5 : TWord := ⟨7, .u32⟩
def w6 : TWord := ⟨3, .s32⟩
def f12 : TWord := ⟨0x3F800000, .f32⟩
def f13 : TWord := ⟨0x40000000, .f32⟩
def f14 : TWord := ⟨0x3F000000, .f32⟩

theorem witness_IntegerArithmetic :
    (base.Runs 0 [.r 3, .r 4, .r 5] [] gOn ∧ base.reads 0 [(4, .int), (5, .int)] = some ([w4, w5], false, false)) ∧
    (base.Runs 0 [.r 0, .r 511] [] gOn ∧ base.reads 0 [(511, .int)] = some ([⟨0, .raw⟩], false, false)) ∧
    (base.Runs 0 [.r 3, .r 4, .r 5, .r 6] [] ⟨false, 2⟩ ∧
      base.reads 0 [(4, .int), (5, .int), (6, .int)] = some ([w4, w5, w6], false, false)) :=
  ⟨⟨runs_of (by decide), by decide⟩, ⟨runs_of (by decide), by decide⟩, runs_of (by decide), by decide⟩

theorem witness_WideArithmetic :
    (base.Runs 0 [.even 20, .r 4, .r 5, .even 10] [] gOn ∧ base.reads 0 [(4, .int), (5, .int)] = some ([w4, w5], false, false) ∧
      base.srcPair 0 10 .lo64 .hi64 = some (0x1000, false, false)) ∧
    (base.Runs 0 [.even 0, .even 10, .even 8] [] gOn ∧ base.srcPair 0 8 .lo64 .hi64 = some (0xFF00000000000100, false, false)) ∧
    (base.Runs 0 [.even 510, .even 10, .r 4] [] gOn ∧ base.srcPair 0 10 .loAddr .hiAddr = some (0x1000, false, false) ∧
      base.reads 0 [(4, .int)] = some ([w4], false, false)) :=
  ⟨⟨runs_of (by decide), by decide, by decide⟩, ⟨runs_of (by decide), by decide⟩, runs_of (by decide), by decide, by decide⟩

theorem witness_LogicAndBitFields :
    (base.Runs 0 [.r 3, .r 4] [] gOn ∧ base.reads 0 [(4, .int)] = some ([w4], false, false)) ∧
    (base.Runs 0 [.r 3, .r 4, .r 5] [] gOn ∧ base.reads 0 [(4, .int), (5, .int)] = some ([w4, w5], false, false)) ∧
    (base.Runs 0 [.r 3, .r 4, .r 5, .r 6] [] gOn ∧ base.reads 0 [(4, .int), (5, .int), (6, .int)] = some ([w4, w5, w6], false, false)) :=
  ⟨⟨runs_of (by decide), by decide⟩, ⟨runs_of (by decide), by decide⟩, runs_of (by decide), by decide⟩

/-- Thread 0 of `base`, and its gang. -/
def th0 : Thread := (base.threads.find 0).getD (Thread.init 0 0 0)
def gang0 : Gang := (base.gangs.find 0).getD placedGang
theorem th0_is : base.threads.find 0 = some th0 := by decide
theorem gang0_is : base.gangs.find (gidOf 0) = some gang0 := by decide

theorem witness_MovesAndPredicates :
    base.threads.find 0 = some th0 ∧ (base.Runs 0 [.r 3, .r 4] [] gOn ∧ base.reads 0 [(4, .any)] = some ([w4], false, false)) ∧
    (base.Runs 0 [.r 3] [] gOn ∧ (4294967295 : Nat) < 4294967296) ∧
    (base.Runs 0 [.r 3, .r 4, .r 12] [] gOn ∧ base.reads 0 [(4, .any), (12, .any)] = some ([w4, f12], false, false)) ∧
    (base.Runs 0 [.r 4, .r 5] [] gOn ∧ base.reads 0 [(4, .int), (5, .int)] = some ([w4, w5], false, false)) ∧
    base.Runs 0 [] [] gOn ∧ (base.Runs 0 [.r 4] [] gOn ∧ base.reads 0 [(4, .int)] = some ([w4], false, false)) :=
  ⟨th0_is, ⟨runs_of (by decide), by decide⟩, ⟨runs_of (by decide), by decide⟩, ⟨runs_of (by decide), by decide⟩, ⟨runs_of (by decide), by decide⟩,
    runs_of (by decide), runs_of (by decide), by decide⟩

theorem witness_FloatArithmetic :
    base.threads.find 0 = some th0 ∧
    (base.Runs 0 [.r 3, .r 12, .r 13] [] gOn ∧ base.reads 0 [(12, .f32), (13, .f32)] = some ([f12, f13], false, false)) ∧
    (base.Runs 0 [.r 3, .r 12, .r 13, .r 14] [] gOn ∧
      base.reads 0 [(12, .f32), (13, .f32), (14, .f32)] = some ([f12, f13, f14], false, false)) ∧
    (base.Runs 0 [.r 12, .r 13] [] gOn ∧ base.Runs 0 [.r 3, .r 12] [] gOn ∧ base.reads 0 [(12, .f32)] = some ([f12], false, false)) :=
  ⟨th0_is, ⟨runs_of (by decide), by decide⟩, ⟨runs_of (by decide), by decide⟩, runs_of (by decide), runs_of (by decide), by decide⟩

theorem witness_PackedFloat :
    (base.Runs 0 [.r 3, .r 16, .r 17] [] gOn ∧
      base.reads 0 [(16, pSet false), (17, pSet false)] = some ([⟨0x3F803F80, .bf2⟩, ⟨0x3F803F80, .bf2⟩], false, false)) ∧
    (base.Runs 0 [.r 3, .r 18, .r 18, .r 18] [] gOn ∧ base.reads 0 [(18, pSet true), (18, pSet true), (18, pSet true)] =
      some ([⟨0x3C003C00, .h2⟩, ⟨0x3C003C00, .h2⟩, ⟨0x3C003C00, .h2⟩], false, false)) ∧
    (base.Runs 0 [.r 3, .r 18, .r 18, .r 12] [] gOn ∧ base.reads 0 [(18, pSet true), (18, pSet true), (12, .f32)] =
      some ([⟨0x3C003C00, .h2⟩, ⟨0x3C003C00, .h2⟩, f12], false, false)) :=
  ⟨⟨runs_of (by decide), by decide⟩, ⟨runs_of (by decide), by decide⟩, runs_of (by decide), by decide⟩

theorem witness_Conversions :
    (base.Runs 0 [.r 2, .r 12] [3] gOn ∧ base.reads 0 [(12, .any)] = some ([f12], false, false) ∧ isPacked f12 = false) ∧
    (base.Runs 0 [.r 2, .r 16] [3] gOn ∧ base.Runs 0 [.r 2, .r 16, .r 0] [3] gOn ∧ base.reads 0 [(16, .any)] = some ([⟨0x3F803F80, .bf2⟩], false, false) ∧
      isPacked ⟨0x3F803F80, .bf2⟩ = true ∧ base.inRange 0 2 2) ∧
    (base.Runs 0 [.r 2, .r 12, .r 13] [3] gOn ∧ base.reads 0 [(12, .any), (13, .any)] = some ([f12, f13], false, false)) ∧
    (base.Runs 0 [.r 2, .range 32 (narrowCount true), .r 12, .r 6] [] gOn ∧
      base.reads 0 ([(12, .f32), (6, .int)] ++ (List.range' 32 (narrowCount true)).map fun i => (i, .f32)) =
        some (f12 :: w6 :: List.replicate 8 f12, false, false) ∧ validBase f12.bits.toNat = true) ∧
    (base.Runs 0 [.range 40 (narrowCount false), .r 28, .r 12, .r 6] [] gOn ∧
      base.reads 0 [(28, .q8), (12, .f32), (6, .int)] = some ([⟨0x01020304, .q8⟩, f12, w6], false, false)) :=
  ⟨⟨runs_of (by decide), by decide, by decide⟩, ⟨runs_of (by decide), runs_of (by decide), by decide, by decide, gang0, gang0_is, by decide⟩,
    ⟨runs_of (by decide), by decide⟩, ⟨runs_of (by decide), by decide, by decide⟩, runs_of (by decide), by decide⟩

/-- A signalling NaN is a NaN in FP32, and flushing keeps it. -/
theorem witness_FloatCommutes : (Fmt.f32.decode (Fmt.f32.flush true 0x7F800001)).isNan = true ∧
    (Fmt.f32.decode (Fmt.f32.flush true 0x7F800001)).isSnan = true := by decide

/-- The leaf of the page of addresses 0 to 65535; its page-table entry is at 0x80000. -/
def leaf0 : Nat := 67553994411606019
/-- `base` with an object of 64 bytes at 0x2000, after that page has been used for reading and writing, so that no access to it changes the
translations' state. -/
def warm : State :=
  let s := (base.physSet 0 1 0x80008 0x11).formatObject 0 0 64 [(0x102000, 64)]
  { s with dies := s.dies.upd 0 fun d => { d with tlb := [⟨0, 0, 65536, leaf0, 0x80000⟩] } }

theorem warm_xlate (va : Nat) (need : Need) (hb : va < 65536) (h : (warm.walkVia 0 0 va 4 0 (warm.rootOf 0)).1 = .leaf leaf0 0x80000 3 ∧ warm.stale 0 0 va = false)
    (hc : warm.cached 0 0 va = some ⟨0, 0, 65536, leaf0, 0x80000⟩) (hv : pteAddr leaf0 + va % 2 ^ levelShift 3 = 0x100000 + va) :
    warm.xlate 0 0 va need = (.ok (0x100000 + va) leaf0, warm) := by
  rw [← hv]
  have hh : homeDie (pteAddr leaf0 + va % 2 ^ levelShift 3) = 0 := by
    rw [hv, homeDie]; exact Nat.div_eq_of_lt (by omega)
  refine xlate_hit h.1 h.2 hc ⟨rfl, rfl, rfl⟩ (by decide) (by decide) (by decide) (fun _ => by decide) (by cases need <;> decide) (by decide) ?_ ?_
  · rw [hh]; decide
  · simp only [State.dieRefuses, hh]; decide

def cur0 : Cur := ⟨0, 0, 0⟩
theorem warm_cur : warm.cur = some cur0 := by decide
theorem warm_th : warm.threads.find 0 = some th0 := by decide
theorem warm_gang : warm.gangs.find (gidOf 0) = some gang0 := by decide

theorem cont_ne {th : Thread} (h : th.cont = .none) (a : Cause) (v : Nat) : th.cont ≠ .ffail a v := by rw [h]; exact nofun

theorem warm_fetch : warm.Gives 0 (fetchWord 0) (0, true) := by
  have h := gives_fetchWord (pc := 0) (pa := 0x100000) (pte := leaf0) (k := placedKernel) warm_cur warm_th warm_gang (by decide) (by decide) (cont_ne (by decide))
    (by decide) (by decide) (by decide) (warm_xlate 0 .fetch (by decide) (by decide) (by decide) (by decide)) (by decide) (by decide) (by decide)
  have e : (warm.phys 8 0x100000, bit leaf0 55 && warm.tagAt 0x100000) = (0, true) := by decide
  rw [e] at h
  exact h

theorem header_of {s : State} {t n w : Nat} (h : s.Gives t (fetchWord n) (w, true)) (hn : n ≤ 4294967288) (ha : n % 8 = 0) : s.headerAt t n :=
  ⟨hn, ha, fun B z m => ⟨w, h.2.2 _ (noting_reading B z m)⟩⟩

/-- `warm` with thread 0 changed. -/
def warmAs (f : Thread → Thread) : State := warm.updThread 0 f
theorem warmAs_xlate (f : Thread → Thread) (va : Nat) (need : Need) (pa : Nat) (h : warm.xlate 0 0 va need = (.ok pa leaf0, warm)) :
    (warmAs f).xlate 0 0 va need = (.ok pa leaf0, warmAs f) := by
  rw [warmAs, xlate_note, h]
def deep : Thread → Thread := fun y => { y with cdep := 4294967295 }
def flat : Thread → Thread := fun y => { y with cdep := 0 }

theorem deep_fetch : (warmAs deep).Gives 0 (fetchWord 0) (0, true) := by
  have h := gives_fetchWord (s := warmAs deep) (c := cur0) (th := deep th0) (g := gang0) (pc := 0) (pa := 0x100000) (pte := leaf0) (k := placedKernel)
    (by decide) (by decide) (by decide) (by decide) (by decide) (cont_ne (by decide)) (by decide) (by decide) (by decide)
    (warmAs_xlate deep 0 .fetch _ (warm_xlate 0 .fetch (by decide) (by decide) (by decide) (by decide))) (by decide) (by decide) (by decide)
  have e : ((warmAs deep).phys 8 0x100000, bit leaf0 55 && (warmAs deep).tagAt 0x100000) = (0, true) := by decide
  rw [e] at h
  exact h

theorem witness_Transfers :
    (warm.threads.find 0 = some th0 ∧ warm.headerAt 0 0 ∧ ((0 : Nat) : Int) = th0.pc + 8 * (-1) ∧ warm.Runs 0 [] [] gOn ∧
      (warm.Runs 0 [.r 0] [] gOn ∧ warm.reads 0 [(0, .int)] = some ([⟨0, .raw⟩], false, false)) ∧ th0.cdep ≠ 0 ∧ th0.cdep ≠ 4294967295 ∧
      warm.Runs 0 [.r 3] [] gOn ∧ warm.Runs 0 [.r 3, .r 0] [] gOn) ∧
    ((warmAs flat).threads.find 0 = some (flat th0) ∧ (warmAs flat).Runs 0 [.r 4] [] gOn ∧ (flat th0).cdep = 0) ∧
    ((warmAs deep).threads.find 0 = some (deep th0) ∧ (warmAs deep).headerAt 0 0 ∧ ((0 : Nat) : Int) = (deep th0).pc + 8 * (-1) ∧
      (warmAs deep).Runs 0 [.r 3] [] gOn ∧ (deep th0).cdep = 4294967295) :=
  ⟨⟨warm_th, header_of warm_fetch (by decide) (by decide),
      by decide, runs_of (by decide), ⟨runs_of (by decide), by decide⟩, by decide, by decide, runs_of (by decide), runs_of (by decide)⟩,
    ⟨by decide, runs_of (by decide), by decide⟩, by decide, header_of deep_fetch (by decide) (by decide), by decide, runs_of (by decide),
    by decide⟩

def inHandler : Thread → Thread := fun y => { y with inh := true }
def passing : Thread → Thread := fun y => { y with passBrk := true }
def slept : Thread → Thread := fun y => { y with cont := .tok 0 }
/-- `base` with its context under debug. -/
def debugged : State := base.setCtx 0 { base.ctx 0 with dbg := true }
/-- `base` with a population of one member. -/
def onePop : Pop := { st := .active, gen := 0, next := 1, arrs := [], record := none, lastN := 0, lastReq := 0, lastSan := 0, lastFlags := 0 }
def populated : State := base.updKernel 0 fun k => { k with desc := { k.desc with pmax := 1, pcount := 1 }, pop := some onePop }

theorem witness_ControlAndTraps :
    (base.threads.find 0 = some th0 ∧ base.gangs.find (gidOf 0) = some gang0 ∧ base.Runs 0 [] [] gOn ∧ (0 : Nat) < 16777215 ∧ th0.inh = false ∧
      th0.passBrk = false ∧ (base.ctx gang0.ctx).dbg = false) ∧
    ((base.updThread 0 inHandler).Runs 0 [] [] gOn ∧ (inHandler th0).inh = true ∧ (base.updThread 0 inHandler).threads.find 0 = some (inHandler th0)) ∧
    ((base.updThread 0 passing).Runs 0 [] [] gOn ∧ (passing th0).passBrk = true ∧ (base.updThread 0 passing).threads.find 0 = some (passing th0)) ∧
    (debugged.Runs 0 [] [] gOn ∧ (debugged.ctx gang0.ctx).dbg = true ∧ debugged.threads.find 0 = some th0) ∧
    ((base.updThread 0 slept).threads.find 0 = some (slept th0) ∧ (slept th0).cont = .tok 0 ∧ 0 ≤ (base.updThread 0 slept).tickOf gang0.ctx ∧
      ((base.updThread 0 slept).updThread 0 fun y => { y with cont := .none }).Runs 0 [] [] gOn) ∧
    (populated.threads.find 0 = some th0 ∧ th0.Quiet ∧ (∃ kk, populated.kernels.find gang0.kern = some kk ∧ kk.isMember gang0.gidx = true) ∧
      populated.Runs 0 [] [] gOn ∧ (populated.threads.del 0).find 0 = none) :=
  ⟨⟨th0_is, gang0_is, runs_of (by decide), by decide, by decide, by decide, by decide⟩,
    ⟨runs_of (by decide), by decide, by decide⟩, ⟨runs_of (by decide), by decide, by decide⟩, ⟨runs_of (by decide), by decide, by decide⟩,
    ⟨by decide, by decide, by decide, runs_of (by decide)⟩,
    by decide, ⟨by decide, by decide, by decide, by decide⟩, ⟨(populated.kernels.find 0).getD placedKernel, by decide, by decide⟩, runs_of (by decide),
    by decide⟩

/-- A clause of two words run three times, and thread 0 at its first and its last word, in its first and its last repetition. -/
def loop3 : Clause := ⟨0, 2, 0, true, 3, 0, 0, 0, 0⟩
def atWord (pc rep : Nat) : Thread → Thread := fun y => { y with clause := some loop3, pc := pc, rptAct := true, rptRep := rep }

theorem witness_ExecutionOrder :
    ((base.updThread 0 (atWord 8 0)).threads.find 0 = some (atWord 8 0 th0) ∧ (atWord 8 0 th0).clause = some loop3 ∧ (8 - loop3.addr) / 8 - 1 + 1 < loop3.count) ∧
    ((base.updThread 0 (atWord 16 0)).threads.find 0 = some (atWord 16 0 th0) ∧ loop3.count ≤ (16 - loop3.addr) / 8 - 1 + 1 ∧ loop3.rep = true ∧
      (atWord 16 0 th0).rptRep + 1 < loop3.reps) ∧
    ((base.updThread 0 (atWord 16 2)).threads.find 0 = some (atWord 16 2 th0) ∧ loop3.reps ≤ (atWord 16 2 th0).rptRep + 1) := by decide

def handled : Thread → Thread := fun y => { y with tvec := 64 }

theorem witness_TrapEntry :
    ((base.updThread 0 handled).threads.find 0 = some (handled th0) ∧ (handled th0).inh = false ∧ (handled th0).tvec ≠ 4294967295) ∧
    (base.threads.find 0 = some th0 ∧ base.gangs.find (gidOf 0) = some gang0 ∧ base.kernels.find gang0.kern = some placedKernel ∧ th0.canTrap = false ∧
      Cause.soft ≠ .brk ∧ Cause.soft ≠ .watchdog ∧ Cause.soft ≠ .memerr ∧ (base.ctx gang0.ctx).fstop = false ∧ placedKernel.st = .running ∧ placedKernel.due = none) := by decide

/-- Thread 1 held for thread 0's trap, and thread 2 not. -/
def heldBy : State := { base with threads := [(0, inHandler th0), (1, { th0 with held := some 0 }), (2, th0)] }

theorem witness_TrapReturn : heldBy.threads.find 0 = some (inHandler th0) ∧ (inHandler th0).held = none ∧
    ((1 : Nat) ≠ 0 ∧ heldBy.threads.find 1 = some { th0 with held := some 0 } ∧ ({ th0 with held := some 0 } : Thread).held = some 0) ∧
    ((2 : Nat) ≠ 0 ∧ heldBy.threads.find 2 = some th0 ∧ th0.held ≠ some 0) := by decide

theorem witness_FieldsBeforeGuard : base.cur = some cur0 ∧ base.threads.find cur0.t = some th0 ∧ base.gangs.find (gidOf cur0.t) = some gang0 ∧
    gang0.nregs ≤ 511 ∧ gang0.nregs < 512 ∧ 511 ≤ gang0.nregs ∧ guardHolds th0 ⟨true, 0⟩ = false := by decide

/-- The gang with its registers of a class, a row having stood for 2 ticks. -/
def aged (cls : LifeClass) : Gang := { gang0 with regs := { gang0.regs with cls := cls, life := 1 } }

/-- `base` with a correctable error in v4. -/
def softened : State := base.updGang 0 fun g => { g with regs := g.regs.setRow 3 { g.regs.row 3 with soft := 1 } }

theorem witness_Registers :
    ((4 : Nat) ≠ 0 ∧ 4 ≤ gang0.nregs ∧ (gang0.regs.row 3).badMeta = false ∧ gang0.regs.cls = .refreshed ∧ bit (gang0.regs.row 3).bad 0 = false ∧
      TagSet.int.has ((gang0.regs.row 3).word 0).tag = true ∧ TagSet.f32.has ((gang0.regs.row 3).word 0).tag = false ∧ TagSet.f32 ≠ .refLo) ∧
    (((aged .trapping).regs.row 3).badMeta = false ∧ (aged .trapping).regs.cls = .trapping ∧ ((aged .trapping).regs.row 3).stamp + (aged .trapping).regs.life < 2) ∧
    (((aged .lapsing).regs.row 3).badMeta = false ∧ (aged .lapsing).regs.cls = .lapsing ∧ ((aged .lapsing).regs.row 3).stamp + (aged .lapsing).regs.life < 2) ∧
    ((512 : Nat) ≠ 0 ∧ gang0.nregs < 512) ∧ (base.gangs.find (gidOf 0) = some gang0 ∧ 511 ≤ gang0.nregs) ∧
    (base.cur = some ⟨0, 0, 0⟩ ∧ th0.opbuf = [] ∧ (regRead gang0 (base.ctx gang0.ctx).lenient (base.tickOf gang0.ctx) 0 4 .any).isOk = true ∧
      base.softReg 0 4 = false ∧ (softened.cur = some ⟨0, 0, 0⟩ ∧ softened.softReg 0 4 = true ∧ softened.dies.find 0 = some Die.init ∧
        Die.init.ecnt.length = 8)) := by decide

/-! ### Registers of special use, allocations and memory -/

/-- The scratch allocation of the placed gang. -/
def scr : Alloc := gang0.scratch
def scrHome : Home := .scratch 0

/-- No row of an allocation has bad metadata. -/
def sound (a : Alloc) : Bool := a.rows.all fun e => !e.2.badMeta && !e.2.dead

theorem all_find {α : Type} {p : Nat × α → Bool} {k : Nat} {v : α} : ∀ {m : AMap α}, m.all p = true → m.find k = some v → p (k, v) = true
  | (j, w) :: m, h, e => by
    simp only [List.all_cons, Bool.and_eq_true] at h
    by_cases hj : j = k
    · simp only [AMap.find, hj, if_true, Option.some.injEq] at e; rw [← e, ← hj]; exact h.1
    · simp only [AMap.find, if_neg hj] at e; exact all_find h.2 e

theorem struck_none {a : Alloc} (no : Nat) (ps : List (Nat × Nat)) (h : sound a = true) : a.struckAt no ps = none := by
  unfold Alloc.struckAt
  rw [List.findIdx?_eq_none_iff]
  intro p _
  have k : (a.row p.1).badMeta = false ∧ (a.row p.1).dead = false := by
    unfold Alloc.row
    generalize hf : a.rows.find p.1 = o
    cases o with
    | none => exact ⟨rfl, rfl⟩
    | some r =>
      have := all_find h hf
      simp only [Bool.and_eq_true, Bool.not_eq_true'] at this
      simpa using this
  simp [Row.struck, k.1, k.2]

theorem scr_sound : sound scr = true := by decide

/-- No row of an allocation holds a correctable error. -/
def hard (a : Alloc) : Bool := a.rows.all fun e => e.2.soft == 0

theorem hard_softAt {a : Alloc} (ms : List (Nat × Nat)) (h : hard a = true) : a.softAt ms = false := by
  unfold Alloc.softAt
  rw [List.any_eq_false]
  intro m _
  have k : (a.row m.1).soft = 0 := by
    unfold Alloc.row
    generalize hf : a.rows.find m.1 = o
    cases o with
    | none => rfl
    | some r => have := all_find h hf; simpa using this
  simp [k]

theorem scr_hard : hard scr = true := by decide

/-- The checks of an aligned access inside the placed gang's scratch. -/
theorem scr_check {s : State} (a n al off : Nat) (hc : s.cur = some cur0) (ha : aperture a = some (.scratch 0 off)) (hal : a % al = 0)
    (hb : s.bound 0 (.scratch 0 off) n = .ok (.row scrHome off)) : s.Gives 0 (checkMem a n al) (.row scrHome off) :=
  gives_checkMem (c := cur0) hc ha hal hb

theorem base_brk (a n : Nat) (ld st : Bool) : base.Gives 0 (checkBrk a n ld st) ⟨⟩ :=
  gives_checkBrk (c := cur0) a n ld st (by decide) th0_is gang0_is rfl

theorem scr_read (off n a v : Nat) (hs : (scanPlaces scr 0 (placesIn scrHome 0 off n) 0).expired = none)
    (he : (scanPlaces scr 0 (placesIn scrHome 0 off n) 0).memerr = none) (hl : (scanPlaces scr 0 (placesIn scrHome 0 off n) 0).lapse = false)
    (hv : leNat (readPlaces scr 0 (placesIn scrHome 0 off n)) = v) : base.Gives 0 (readRow scrHome off n a) v := by
  have h := gives_readRow (s := base) (c := cur0) (g := gang0) (al := scr) (h := scrHome) (off := off) (n := n) (a := a) (by decide) gang0_is (by decide)
    (struck_none _ _ scr_sound) hs he hl (hard_softAt _ scr_hard)
  rw [← hv]
  exact h

/-- `base` after `n` bytes of `v` have been written to its scratch. -/
def scrWrote (off n v : Nat) : State := base.setAllocAt scrHome (writePlaces scr 0 (placesIn scrHome 0 off n) (leBytes n v) [])

theorem scr_write (off n a v : Nat)
    (hs : rowWriteStop scr 0 a (placesIn scrHome 0 off n) (partialPlaces scrHome off n (placesIn scrHome 0 off n)) = none)
    (hl : (scanPlaces scr 0 (partialPlaces scrHome off n (placesIn scrHome 0 off n)) 0).lapse = false) :
    base.Turns (scrWrote off n v) 0 (writeRow scrHome off n a v) ⟨⟩ false :=
  turns_writeRow (s := base) (c := cur0) (g := gang0) (by decide) (al := scr) gang0_is (by decide) (struck_none _ _ scr_sound) hs hl

theorem witness_SystemInstructions :
    (base.threads.find 0 = some th0 ∧ base.gangs.find (gidOf 0) = some gang0 ∧ Special.lane.wide = false ∧ base.Runs 0 [.r 3] [] gOn ∧
      Special.tick.wide = true ∧ Special.tick ≠ .cyc ∧ base.Runs 0 [.even 2] [] gOn ∧ Special.fmode.wide = false ∧ base.Runs 0 [.r 6] [] gOn ∧
      base.reads 0 [(6, .int)] = some ([w6], false, false) ∧ mtsAllowed th0.inh .fmode = true ∧ mtsFits .fmode w6.bits.toNat = true ∧
      mtsAllowed th0.inh .lane = false) ∧
    ((base.updThread 0 inHandler).Runs 0 [.even 10] [] gOn ∧ (base.updThread 0 inHandler).srcPair 0 10 .lo64 .hi64 = some (0x1000, false, false) ∧
      (inHandler th0).inh = true) ∧
    (base.kernels.find gang0.kern = some placedKernel ∧ placedKernel.pop = none ∧ gang0.grp.getD 3 none = none ∧
      populated.gangs.find (gidOf 0) = some gang0 ∧ (∃ k p, populated.kernels.find gang0.kern = some k ∧ k.pop = some p)) ∧
    (base.Runs 0 [.r 4, .r 12] [] gOn ∧ base.reads 0 [(4, .any), (12, .any)] = some ([w4, f12], false, false)) :=
  ⟨⟨th0_is, gang0_is, by decide, runs_of (by decide), by decide, by decide, runs_of (by decide), by decide, runs_of (by decide), by decide, by decide,
      by decide, by decide⟩,
    ⟨runs_of (by decide), by decide, by decide⟩,
    ⟨by decide, by decide, by decide, by decide, (populated.kernels.find 0).getD placedKernel, onePop, by decide, by decide⟩, runs_of (by decide), by decide⟩

/-- A row place of an access in scratch. -/
theorem scr_place (a n al off : Nat) (ha : aperture a = some (.scratch 0 off)) (hal : a % al = 0)
    (hb : base.bound 0 (.scratch 0 off) n = .ok (.row scrHome off)) : base.rowAt 0 a n al scrHome off := by
  intro B z m
  have h : base.Gives 0 (rowPlace a n al) (scrHome, off) := by
    unfold rowPlace
    exact gives_bind (scr_check a n al off (by decide) ha hal hb) (turns_pure ..)
  exact h.2.2 _ (noting_reading B z m)

theorem scr_named : ∀ B z m, namedAlloc 0xFF00000000000000 (base.reading 0 B z m) = .ok (scrHome, scr) (base.reading 0 B z m) := by
  intro B z m
  have h : base.Gives 0 (namedAlloc 0xFF00000000000000) (scrHome, scr) := by
    unfold namedAlloc
    refine gives_bind (gives_curT (c := cur0) (by decide)) (turns_get (m := pure (scrHome, scr)) (fun f _ => ?_) (turns_pure ..))
    have h1 : (base.updThread 0 f).windowHome (gidOf cur0.t) 0 = some scrHome := rfl
    have h2 : (base.updThread 0 f).allocAt scrHome = some scr := rfl
    have h3 : aperture 0xFF00000000000000 = some (.scratch 0 0) := by decide
    simp only [h3]
    simp [h1, h2]
  exact h.2.2 _ (noting_reading B z m)

/-- `base` with its scratch at the base address in pair v10. -/
def atScratch : State := (base.writeReg 0 10 ⟨0, .w64l⟩).writeReg 0 11 ⟨0xFF000000, .w64h⟩

/-- `base` with another word in v4. -/
def with4 (v : Nat) : State := base.writeReg 0 4 ⟨BitVec.ofNat 32 v, .u32⟩

theorem witness_Allocation :
    (base.threads.find 0 = some th0 ∧ base.gangs.find (gidOf 0) = some gang0 ∧ base.kernels.find gang0.kern = some placedKernel) ∧
    (base.Runs 0 [.r 3, .r 4] [] gOn ∧ base.reads 0 [(4, .int)] = some ([w4], false, false) ∧ (w4.bits.toNat + 4095) / 4096 ≤ gang0.scratch.pages ∧
      gang0.scratch.pages ≤ (w4.bits.toNat + 4095) / 4096) ∧
    ((with4 8192).Runs 0 [.r 3, .r 4] [] gOn ∧ (with4 8192).reads 0 [(4, .int)] = some ([⟨8192, .u32⟩], false, false) ∧
      gang0.scratch.pages < (8192 + 4095) / 4096 ∧ (with4 8192).usedPages (coreOf 0) + (2 - gang0.scratch.pages) ≤ corePages ∧
      (with4 8192).ctxPages gang0.ctx + (2 - gang0.scratch.pages) ≤ ((with4 8192).ctx gang0.ctx).bkpages) ∧
    ((with4 0x40000000).Runs 0 [.r 3, .r 4] [] gOn ∧ (with4 0x40000000).reads 0 [(4, .int)] = some ([⟨0x40000000, .u32⟩], false, false) ∧
      corePages < (with4 0x40000000).usedPages (coreOf 0) + ((0x40000000 + 4095) / 4096 - gang0.scratch.pages)) ∧
    ((with4 0).Runs 0 [.r 3, .r 4] [] gOn ∧ (with4 0).reads 0 [(4, .int)] = some ([⟨0, .u32⟩], false, false) ∧ (0 + 4095) / 4096 < gang0.scratch.pages ∧
      (with4 0).windowBusy (gidOf 0) (4096 * 0) = false) ∧
    (base.Runs 0 [.r 3, .even 8, .r 6] [] gOn ∧ base.srcPair 0 8 .loAddr .hiAddr = some (0xFF00000000000100, false, false) ∧
      base.reads 0 [(6, .int)] = some ([w6], false, false) ∧ 0 < w6.bits.toNat ∧ w6.bits.toNat ≤ 256 ∧ 0xFF00000000000100 / 2 ^ 56 = 255 ∧
      base.rowAt 0 0xFF00000000000100 (128 * 3) 128 scrHome 0x100 ∧ base.allocAt scrHome = some scr ∧ (∀ i, i < 3 → (scr.row (2 + i)).struck base.curNo (laneOf 0) = false) ∧
      ∀ i, i < 3 → scr.lapses (scr.row (2 + i)) = true ∨ scr.expired (scr.row (2 + i)) 0 = false) ∧
    (atScratch.Runs 0 [.r 3, .even 10] [] gOn ∧ atScratch.srcPair 0 10 .loAddr .hiAddr = some (0xFF00000000000000, false, false) ∧
      (∀ i, i < 32 * scr.pages → (scr.row i).struck atScratch.curNo (laneOf 0) = false) ∧ (∀ u, scrHome ≠ .stack u) ∧ placedKernel.isMember gang0.gidx = false) ∧
    (base.Runs 0 [.r 3, .even 8] [] gOn ∧ base.rowAt 0 0xFF00000000000100 1 1 scrHome 0x100 ∧ (scr.row (rowOf scrHome 0x100)).struck base.curNo (laneOf 0) = false) :=
  ⟨⟨th0_is, gang0_is, by decide⟩, ⟨runs_of (by decide), by decide, by decide, by decide⟩,
    ⟨runs_of (by decide), by decide, by decide, by decide, by decide⟩, ⟨runs_of (by decide), by decide, by decide⟩,
    ⟨runs_of (by decide), by decide, by decide, by decide⟩,
    ⟨runs_of (by decide), by decide, by decide, by decide, by decide, by decide,
      scr_place 0xFF00000000000100 (128 * 3) 128 0x100 (by decide) (by decide) rfl, by decide, by decide, by decide⟩,
    ⟨runs_of (by decide), by decide, by decide, (fun _ h => by cases h), by decide⟩,
    runs_of (by decide), scr_place 0xFF00000000000100 1 1 0x100 (by decide) (by decide) rfl, by decide⟩

/-- The word at scratch offset 0x100 is loaded: it is 0. -/
theorem scr_load : base.Gives 0 (loadMem 0xFF00000000000100 4 true false 0 .plain) (⟨0, 0, none⟩, false) := by
  unfold loadMem
  refine gives_bind (scr_check 0xFF00000000000100 4 4 0x100 (by decide) (by decide) (by decide) rfl) ?_
  exact gives_bind (base_brk ..)
    (gives_bind (scr_read 0x100 4 0xFF00000000000100 0 (by decide) (by decide) (by decide) (by decide)) (turns_pure ..))

theorem scr_store (n v : Nat) (ha : 0xFF00000000000100 % n = 0) (hb : base.bound 0 (.scratch 0 0x100) n = .ok (.row scrHome 0x100))
    (hs : rowWriteStop scr 0 0xFF00000000000100 (placesIn scrHome 0 0x100 n) (partialPlaces scrHome 0x100 n (placesIn scrHome 0 0x100 n)) = none)
    (hl : (scanPlaces scr 0 (partialPlaces scrHome 0x100 n (placesIn scrHome 0 0x100 n)) 0).lapse = false) :
    base.Turns (scrWrote 0x100 n v) 0 (storeMem 0xFF00000000000100 n v 0 false 0 .plain) ⟨⟩ false := by
  unfold storeMem
  refine gives_bind (scr_check 0xFF00000000000100 n n 0x100 (by decide) (by decide) ha hb) ?_
  exact gives_bind (gives_curT (c := cur0) (by decide)) (gives_bind (base_brk ..) (scr_write 0x100 n 0xFF00000000000100 v hs hl))

/-- An atomic of scratch that reads 0 and writes `w`. -/
theorem scr_atom (f : Nat → Option (Nat × Nat)) (w v : Nat) (host : Bool) (ask : Nat → Nat → M (Nat × Nat)) (hf : f 0 = some (w, 0)) :
    base.Turns (scrWrote 0x100 4 w) 0 (atomMem 0xFF00000000000100 4 1 false false f v 0 host ask) (⟨0, 0, none⟩, false) false := by
  unfold atomMem
  refine gives_bind (scr_check 0xFF00000000000100 4 4 0x100 (by decide) (by decide) (by decide) rfl) ?_
  refine gives_bind (gives_curT (c := cur0) (by decide)) (gives_bind (base_brk ..)
    (gives_bind (scr_read 0x100 4 0xFF00000000000100 0 (by decide) (by decide) (by decide) (by decide)) ?_))
  simp only [hf]
  exact turns_bind (z' := false) (scr_write 0x100 4 0xFF00000000000100 w (by decide) (by decide)) (turns_pure ..)

theorem scr_red (v : Nat) (op : AtomOp) (h4 : atomSize op = 4) :
    base.Turns (scrWrote 0x100 4 (atomApply op 0 v)) 0 (redMem op 0xFF00000000000100 v 1 false) ⟨⟩ false := by
  unfold redMem
  rw [h4]
  refine gives_bind (scr_check 0xFF00000000000100 4 4 0x100 (by decide) (by decide) (by decide) rfl) ?_
  exact gives_bind (gives_curT (c := cur0) (by decide)) (gives_bind (base_brk ..)
    (gives_bind (scr_read 0x100 4 0xFF00000000000100 0 (by decide) (by decide) (by decide) (by decide))
      (scr_write 0x100 4 0xFF00000000000100 (atomApply op 0 v) (by decide) (by decide))))

theorem witness_MemoryInstructions :
    (base.srcPair 0 8 .loAddr .hiAddr = some (0xFF00000000000100, false, false) ∧ addressOf 0xFF00000000000100 0 0 = 0xFF00000000000100) ∧
    (base.Runs 0 [dataField 3 (ldSize .b32), .even 8, .r 0] [] gOn ∧ base.reads 0 [(0, .int)] = some ([⟨0, .raw⟩], false, false) ∧
      base.Answers base 0 false false (loadMem 0xFF00000000000100 (ldSize .b32) (decide (ldSize .b32 ≤ 4)) false 0 .plain) (⟨0, 0, none⟩, false)) ∧
    (base.Runs 0 [dataField 4 (stSize .b32), .even 8, .r 0] [] gOn ∧ base.reads 0 (dataRegs 4 (stSize .b32)) = some ([w4], false, false) ∧
      base.Answers (scrWrote 0x100 4 5) 0 false false (storeMem 0xFF00000000000100 (stSize .b32) (wordsNat [w4] % 256 ^ stSize .b32) 0 false 0 .plain) ⟨⟩) ∧
    (base.Runs 0 [dataField 3 (atomSize .add), .even 8, dataField 4 (atomSize .add)] [] gOn ∧ base.reads 0 (atomRegs .add 4) = some ([w4], false, false) ∧
      base.Answers (scrWrote 0x100 4 5) 0 false false (atomMem 0xFF00000000000100 (atomSize .add) 1 (orderAcq .relaxed) (orderRel .relaxed)
        (fun old => some (atomApply .add old (wordsNat [w4]), 0)) (wordsNat [w4]) 0 (atomHosted .add)
        fun dev pa => askAtomic dev pa 0xFF00000000000100 AtomOp.add.code Order.relaxed.code (wordsNat [w4]) 0) (⟨0, 0, none⟩, false)) ∧
    (base.Runs 0 ([dataField 3 4, .even 8, .even 4] ++ [.range 5 1]) [] gOn ∧ base.reads 0 [(4, .any)] = some ([w4], false, false) ∧
      base.reads 0 [(5, .any)] = some ([w5], false, false)) ∧
    (base.Runs 0 [dataField 4 (atomSize .or), .even 8, .r 0] [] gOn ∧ base.reads 0 (atomRegs .or 4) = some ([w4], false, false) ∧
      base.Answers (scrWrote 0x100 4 5) 0 false false (redMem .or 0xFF00000000000100 (wordsNat [w4]) 1 false) ⟨⟩) :=
  ⟨⟨by decide, by decide⟩, ⟨runs_of (by decide), by decide, answers_of_gives _ _ scr_load⟩,
    ⟨runs_of (by decide), by decide, answers_of_turns _ _ (scr_store 4 5 (by decide) rfl (by decide) (by decide))⟩,
    ⟨runs_of (by decide), by decide, answers_of_turns _ _ (scr_atom _ 5 _ _ _ (by decide))⟩,
    ⟨runs_of (by decide), by decide, by decide⟩, runs_of (by decide), by decide, answers_of_turns _ _ (scr_red 5 .or (by decide))⟩

/-- The line of a global address. -/
theorem warm_line : warm.Gives 0 (lineFor 0x1000) (some (0x101000 / 128)) :=
  gives_lineFor (c := cur0) warm_cur warm_gang (by decide)
    (warm_xlate 0x1000 .load (by decide) (by decide) (by decide) (by decide)) (by decide)

theorem witness_FenceAndCache :
    (warm.threads.find 0 = some th0 ∧ warm.gangs.find (gidOf 0) = some gang0 ∧ warm.Runs 0 [] [] gOn ∧ th0.copyFaults = [] ∧ th0.slFail = none ∧
      gang0.slog = [] ∧ warm.unacked = false) ∧
    (warm.Runs 0 [.even 10, .r 0] [] gOn ∧ warm.srcPair 0 10 .loAddr .hiAddr = some (0x1000, false, false) ∧
      warm.reads 0 [(0, .int)] = some ([⟨0, .raw⟩], false, false) ∧ addressOf 0x1000 0 0 = 0x1000 ∧
      warm.Answers warm 0 false false (lineFor 0x1000) (some 8224)) :=
  ⟨⟨warm_th, warm_gang, runs_of (by decide), by decide, by decide, by decide, by decide⟩,
    runs_of (by decide), by decide, by decide, by decide, answers_of_gives _ _ warm_line⟩

/-- A column-cache line with every byte valid and the first dirty. -/
def line1 : CLine :=
  { valid := 2 ^ 128 - 1, dirty := 1, data := 7, tags := 0, gran := 0, owner := 0, pub := false, epoch := 0, ctx := 0, poison := 0, soft := 0 }
def cached1 : State := base.setCore 0 { base.core 0 with cache := [(8224, line1)] }

theorem witness_HomeStores : Memory.wf cached1.mem = true ∧ 0 < 128 ∧ 0x101000 % 128 + 128 ≤ 128 ∧
    (cached1.core 0).cache.Pairwise (fun x y => x.1 < y.1) ∧ (cached1.core 0).cache.find (0x101000 / 128) = some line1 ∧
    (cached1.core 0).cache.length < cacheLines ∧ cached1.outdated line1 = false ∧
    (∀ j l, (cached1.core 0).cache.find j = some l → ∀ i, i < 128 → bit l.dirty i = true → bit l.valid i = true) := by
  refine ⟨by decide, by decide, by decide, by decide, by decide, by decide, by decide, fun j l hl i hi h => ?_⟩
  have e : (cached1.core 0).cache.find j = if 8224 = j then some line1 else none := rfl
  obtain rfl : line1 = l := by
    rw [e] at hl
    split at hl
    · exact Option.some.inj hl
    · cases hl
  have : ∀ i : Fin 128, bit line1.valid i = true := by decide
  exact this ⟨i, hi⟩

/-- The scratch allocation in class trapping, all its rows past their life at tick 2. -/
def old2 : Alloc := { scr with cls := .trapping, life := 1 }
/-- The scratch allocation with bad metadata in the row of 0x100. -/
def broken : Alloc := scr.setRow 2 { scr.row 2 with badMeta := true }
def late : State := (base.setAllocAt scrHome old2).setCtx 0 { base.ctx 0 with ticks := 2 }

theorem witness_RowAccesses :
    (base.cur = some cur0 ∧ base.threads.find cur0.t = some th0 ∧ base.gangs.find (gidOf cur0.t) = some gang0 ∧ base.allocAt scrHome = some scr ∧
      (scanPlaces scr 0 (placesIn scrHome 0 0x100 4) 0).expired = none ∧ (scanPlaces scr 0 (placesIn scrHome 0 0x100 4) 0).memerr = none ∧
      rowWriteStop scr 0 0xFF00000000000100 (placesIn scrHome 0 0x100 4) (partialPlaces scrHome 0x100 4 (placesIn scrHome 0 0x100 4)) = none ∧
      scr.struckAt base.curNo (placesIn scrHome 0 0x100 4) = none ∧ broken.struckAt base.curNo (placesIn scrHome 0 0x100 4) = some 0) ∧
    (late.cur = some cur0 ∧ late.threads.find cur0.t = some th0 ∧ late.allocAt scrHome = some old2 ∧ late.tickOf 0 = 2 ∧
      (scanPlaces old2 2 (placesIn scrHome 0 0x100 4) 0).expired = some 0) ∧
    ((scanPlaces (scr.setRow 2 { scr.row 2 with bad := 1 }) 0 (placesIn scrHome 0 0x100 4) 0).memerr = some 0 ∧
      (scanPlaces (scr.setRow 2 { scr.row 2 with bad := 1 }) 0 (placesIn scrHome 0 0x100 4) 0).expired = none) ∧
    (scr.softAt [(2, 1)] = false ∧ (scr.setRow 2 { scr.row 2 with soft := 1 }).softAt [(2, 1)] = true ∧
      base.dies.find (dieOfCore 0) = some Die.init ∧ Die.init.ecnt.length = 8) := by decide

/-- `base` with no page of scratch. -/
def bare : State := base.updGang 0 fun g => { g with scratch := { g.scratch with pages := 0 } }

theorem witness_AddressChecks : base.cur = some cur0 ∧ aperture 0x8000000000000000 = none ∧ 0x1002 % 4 ≠ 0 ∧
    (0 < 253 * 2 ^ 56 / 2 ^ 56 ∧ 253 * 2 ^ 56 / 2 ^ 56 < 254) ∧ (0 < 2 ^ 56 / 2 ^ 56) ∧
    (bare.cur = some cur0 ∧ (∃ g, bare.gangs.find (gidOf cur0.t) = some g ∧ g.scratch.pages = 0) ∧ 0xFF00000000000000 / 2 ^ 32 = 255 * 2 ^ 24 ∧
      0xFF00000000000000 / 2 ^ 28 % 16 = 0 ∧ 0xFF00000000000000 % 4 = 0) :=
  ⟨by decide, by decide, by decide, by decide, by decide, by decide, ⟨(bare.gangs.find 0).getD gang0, by decide, by decide⟩, by decide, by decide, by decide⟩

/-! ### Sweeps, copies and objects -/

/-- The scratch operations of a state that has the placed gang's scratch. -/
structure HasScratch (s : State) : Prop where
  cur : s.cur = some cur0
  th : ∃ th, s.threads.find 0 = some th
  gang : s.gangs.find 0 = some gang0
  ctx : s.ctx 0 = base.ctx 0

theorem base_has : HasScratch base := ⟨by decide, ⟨th0, th0_is⟩, gang0_is, rfl⟩
theorem warm_has : HasScratch warm := ⟨warm_cur, ⟨th0, warm_th⟩, warm_gang, by decide⟩

/-- Thread 0 in mid-sweep at iteration 0. -/
def swpAt0 (s : State) : State := s.updThread 0 fun y => { y with swpAct := true, swpIter := 0 }
theorem HasScratch.upd {s : State} (f : Thread → Thread) (h : HasScratch s) : HasScratch (s.updThread 0 f) := by
  obtain ⟨th, ht⟩ := h.th
  refine ⟨h.cur, ⟨f th, ?_⟩, h.gang, h.ctx⟩
  show (s.threads.upd 0 _).find 0 = some _
  rw [AMap.find_upd, if_pos rfl, ht]
  rfl

theorem HasScratch.swp {s : State} (h : HasScratch s) : HasScratch (swpAt0 s) := h.upd _

theorem HasScratch.alloc {s : State} (h : HasScratch s) : s.allocAt scrHome = some scr := by
  show (s.gangs.find 0).map (·.scratch) = some scr
  rw [h.gang]; rfl

theorem HasScratch.tick {s : State} (h : HasScratch s) : s.tickOf gang0.ctx = 0 := by
  show (s.ctx 0).tickNow = 0
  rw [h.ctx]; decide

theorem HasScratch.brk {s : State} (h : HasScratch s) (a n : Nat) (ld st : Bool) : s.Gives 0 (checkBrk a n ld st) ⟨⟩ := by
  obtain ⟨th, ht⟩ := h.th
  exact gives_checkBrk (c := cur0) a n ld st h.cur ht h.gang (by show (s.ctx 0).dataHit a n ld st = none; rw [h.ctx]; rfl)

theorem HasScratch.check {s : State} (h : HasScratch s) (a n al off : Nat) (ha : aperture a = some (.scratch 0 off)) (hal : a % al = 0)
    (hb : off + n ≤ 4096) : s.Gives 0 (checkMem a n al) (.row scrHome off) := by
  refine scr_check a n al off h.cur ha hal ?_
  have h1 : s.windowHome 0 0 = some scrHome := by
    show (match s.gangs.find 0 with | none => none | some g => _) = _
    rw [h.gang]; rfl
  have h2 : s.homeSize scrHome = 4096 := by
    show (match s.allocAt scrHome, scrHome with | some a, .stack _ => 128 * a.pages | some a, _ => 4096 * a.pages | none, _ => 0) = _
    rw [h.alloc]; rfl
  simp [State.bound, h1, h2, hb]

theorem HasScratch.scratchAt {s : State} (h : HasScratch s) (a n al off : Nat) (h1 : a / 2 ^ 56 = 0xFF) (ha : aperture a = some (.scratch 0 off))
    (hal : a % al = 0) (hb : off + n ≤ 4096) : s.Gives 0 (scratchAt a n al) (scrHome, off) :=
  gives_scratchAt (c := cur0) h1 (h.check a n al off ha hal hb)

theorem HasScratch.sweepPlace {s : State} (h : HasScratch s) (a n off : Nat) (h1 : a / 2 ^ 56 = 0xFF) (ha : aperture a = some (.scratch 0 off))
    (hal : a % n = 0) (hb : off + n ≤ 4096) : s.Gives 0 (sweepPlace a n) (scrHome, off) := by
  unfold Machine.sweepPlace
  simp only [h1]
  exact gives_bind (h.check a n n off ha hal hb) (turns_pure ..)

theorem HasScratch.read {s : State} (h : HasScratch s) (off n a v : Nat) (hs : (scanPlaces scr 0 (placesIn scrHome 0 off n) 0).expired = none)
    (he : (scanPlaces scr 0 (placesIn scrHome 0 off n) 0).memerr = none) (hl : (scanPlaces scr 0 (placesIn scrHome 0 off n) 0).lapse = false)
    (hv : leNat (readPlaces scr 0 (placesIn scrHome 0 off n)) = v) : s.Gives 0 (readRow scrHome off n a) v := by
  have g := gives_readRow (c := cur0) (off := off) (n := n) (a := a) h.cur h.gang h.alloc (struck_none _ _ scr_sound) (by rw [h.tick]; exact hs) (by rw [h.tick]; exact he)
    (by rw [h.tick]; exact hl) (hard_softAt _ scr_hard)
  rw [h.tick] at g
  rw [← hv]
  exact g

/-- A sweep's iteration over the zeros at 0x200 and 0x300 into 0x100. -/
def sweep1 : SweepStep := { h := scrHome, off := 0x100, addr := 0xFF00000000000100, al := scr, x := 0, y := 0, w := 0, z := false }

theorem base_sweep : (swpAt0 base).SweepAt 0 32 true true 0xFF00000000000100 0xFF00000000000200 0xFF00000000000300 0 sweep1 :=
  ⟨rfl, base_has.swp.sweepPlace _ 32 0x100 (by decide) (by decide) (by decide) (by decide), base_has.swp.brk .., by decide, struck_none _ _ scr_sound, by decide,
    scrHome, 0x200, scrHome, 0x300, false, false, false,
    base_has.swp.sweepPlace _ 32 0x200 (by decide) (by decide) (by decide) (by decide), base_has.swp.brk ..,
    base_has.swp.read 0x200 32 0xFF00000000000200 0 (by decide) (by decide) (by decide) (by decide),
    fun _ => ⟨base_has.swp.sweepPlace _ 32 0x300 (by decide) (by decide) (by decide) (by decide), base_has.swp.brk ..,
      base_has.swp.read 0x300 32 0xFF00000000000300 0 (by decide) (by decide) (by decide) (by decide)⟩, fun h => by simp at h,
    fun _ => base_has.swp.read 0x100 32 0xFF00000000000100 0 (by decide) (by decide) (by decide) (by decide), fun h => by simp at h, by decide⟩

theorem witness_Sweeps :
    base.threads.find 0 = some th0 ∧ base.gangs.find (gidOf 0) = some gang0 ∧ base.Runs 0 [.even 8, .even 20, .even 22] [] gOn ∧ th0.sweepStart < 1 ∧
    base.srcPair 0 8 .loAddr .hiAddr = some (0xFF00000000000100, false, false) ∧
    base.srcPair 0 20 .loAddr .hiAddr = some (0xFF00000000000200, false, false) ∧
    base.srcPair 0 22 .loAddr .hiAddr = some (0xFF00000000000300, false, false) ∧
    (swpAt0 base).SweepAt 0 32 true true ((0xFF00000000000100 + th0.sweepStart * stepBytes 1) % 2 ^ 64) ((0xFF00000000000200 + th0.sweepStart * stepBytes 1) % 2 ^ 64)
      ((0xFF00000000000300 + th0.sweepStart * stepBytes 1) % 2 ^ 64) (base.tickOf gang0.ctx) sweep1 ∧ base.Runs 0 [.even 8, .even 20] [] gOn :=
  ⟨th0_is, gang0_is, runs_of (by decide), by decide, by decide, by decide, by decide, base_sweep, runs_of (by decide)⟩

theorem warm_copy : warm.Gives 0 (copyCheck 0x1000 4) (0x101000, leaf0) :=
  gives_copyCheck (c := cur0) warm_cur warm_gang (by decide) (warm_xlate 0x1000 .load (by decide) (by decide) (by decide) (by decide)) (by decide)

/-- Thread 0 in mid-copy at its first piece, with the ranges it copies into. -/
def cpbAt : Thread → Thread := fun y => { y with swpAct := true, swpIter := 0, ranges := [(scrHome, 0x200 + 64), (scrHome, 0x300 + 16)] }

theorem warm_copy64 : (warm.updThread 0 cpbAt).Gives 0 (copyCheck 0x1000 64) (0x101000, leaf0) := by
  refine gives_copyCheck (c := cur0) (g := gang0) (pte := leaf0) (warm_has.upd cpbAt).cur (warm_has.upd cpbAt).gang (by decide) ?_ (by decide)
  rw [xlate_note, show warm.xlate (dieOfCore (coreOf cur0.t)) gang0.ctx 0x1000 .load = _ from
    warm_xlate 0x1000 .load (by decide) (by decide) (by decide) (by decide)]

/-- A global place of an aligned access. -/
theorem warm_glob (a n al : Nat) (ha : aperture a = some (.glob a)) (hal : a % al = 0) : warm.Gives 0 (checkMem a n al) (.glob a) :=
  gives_checkMem (c := cur0) warm_cur ha hal rfl

theorem HasScratch.copy {s : State} (h : HasScratch s) (off n a v : Nat) (hs : (scanPlaces scr 0 (placesIn scrHome 0 off n) 0).expired = none)
    (he : (scanPlaces scr 0 (placesIn scrHome 0 off n) 0).memerr = none) (hl : (scanPlaces scr 0 (placesIn scrHome 0 off n) 0).lapse = false)
    (hv : leNat (readPlaces scr 0 (placesIn scrHome 0 off n)) = v) : s.Gives 0 (copyRow scrHome off n a) (some v) := by
  unfold copyRow
  have g := gives_now (c := cur0) h.cur h.gang
  rw [h.tick] at g
  have hz (no : Nat) : scr.struckAt no (placesIn scrHome 0 off n) = none := struck_none _ _ scr_sound
  refine gives_bind (gives_curT (c := cur0) h.cur) (gives_bind g ⟨rfl, rfl, fun f _ => ?_⟩)
  have e : (s.updThread 0 f).allocAt scrHome = some scr := h.alloc
  have w : (s.updThread 0 f).cureRows (coreOf 0) scrHome (wordsAt (placesIn scrHome 0 off n)) = s.updThread 0 f := by
    simp only [State.cureRows, e, hard_softAt _ scr_hard, Bool.false_eq_true, if_false]
  rw [bind_run, get_run]
  simp only [bind_run, get_run]
  simp only [e, show cur0.t = 0 from rfl, show laneOf 0 = 0 from rfl, hz, hs, he, hl, hv, bind_run, modify_run, w, Bool.false_eq_true, if_false]
  rfl

def copying : Thread → Thread := fun y => { y with bt := [1, 0, 0, 0] }

theorem witness_Copies :
    (warm.threads.find 0 = some th0 ∧ warm.gangs.find (gidOf 0) = some gang0 ∧ warm.Runs 0 [.even 20, .even 10, .r 4] [] gOn ∧
      warm.srcPair 0 10 .loAddr .hiAddr = some (0x1000, false, false) ∧ warm.reads 0 [(4, .int)] = some ([w4], false, false) ∧
      warm.srcPair 0 20 .loAddr .hiAddr = some (0xFF00000000000200, false, false) ∧ warm.Gives 0 (scratchAt 0xFF00000000000200 4 4) (scrHome, 0x200) ∧
      warm.Gives 0 (checkBrk 0xFF00000000000200 4 false true) ⟨⟩ ∧ th0.bt.getD 3 0 < 63 ∧ min w4.bits.toNat 4 ≠ 0 ∧
      warm.Gives 0 (checkBrk 0x1000 4 true false) ⟨⟩ ∧ warm.Gives 0 (checkMem 0x1000 4 4) (.glob 0x1000) ∧
      warm.Turns warm 0 (copyCheck 0x1000 4) (0x101000, leaf0) false ∧ warm.Turns warm 0 (copySource 0x101000 leaf0 0x1000 4) (0x101000, none) false) ∧
    (warm.Runs 0 [.even 20, .even 8, .r 4] [] gOn ∧ warm.srcPair 0 8 .loAddr .hiAddr = some (0xFF00000000000100, false, false) ∧
      warm.Gives 0 (checkMem 0xFF00000000000100 4 4) (.row scrHome 0x100) ∧ warm.Turns warm 0 (copyRow scrHome 0x100 4 0xFF00000000000100) (some 0) false) ∧
    (warm.Runs 0 [.even 20, .even 10, .r 0] [] gOn ∧ warm.reads 0 [(0, .int)] = some ([⟨0, .raw⟩], false, false)) ∧
    (th0.copyFaults = [] ∧ th0.bt.getD 0 0 ≤ 0 ∧ (warm.updThread 0 copying).Runs 0 [] [] gOn ∧ 0 < (copying th0).bt.getD 0 0) ∧
    (warm.Runs 0 [.even 20, .range 22 2, .even 10, .r 7] [] gOn ∧ warm.reads 0 [(7, .int)] = some ([⟨64, .u32⟩], false, false) ∧
      warm.reads 0 [(22, .loAddr), (23, .hiAddr)] = some ([⟨0x300, .w64l⟩, ⟨0xFF000000, .w64h⟩], false, false) ∧
      warm.Gives 0 (scratchAt 0xFF00000000000200 64 32) (scrHome, 0x200) ∧ warm.Gives 0 (scratchAt 0xFF00000000000300 16 16) (scrHome, 0x300) ∧
      th0.sweepStart < pieceCount 0x1000 64 ∧ piece 0x1000 64 0 = (0x1000, 64) ∧ (warm.updThread 0 cpbAt).Turns (warm.updThread 0 cpbAt) 0 (copyCheck 0x1000 64) (0x101000, leaf0) false ∧
      (∃ g', (warm.updThread 0 cpbAt).gangs.find 0 = some g' ∧ g'.ctx = gang0.ctx) ∧
      (warm.updThread 0 cpbAt).Gives 0 (checkBrk 0x1000 64 true false) ⟨⟩ ∧ (warm.updThread 0 cpbAt).Gives 0 (checkBrk 0xFF00000000000200 64 false true) ⟨⟩ ∧
      (warm.updThread 0 cpbAt).Turns (warm.updThread 0 cpbAt) 0 (copySource 0x101000 leaf0 0x1000 64) (0x101000, none) false) ∧
    (0 < 300 ∧ 2 < pieceCount 0x1040 300 ∧ 2 + 1 = pieceCount 0x1040 300) :=
  ⟨⟨warm_th, warm_gang, runs_of (by decide), by decide, by decide, by decide,
      warm_has.scratchAt _ 4 4 0x200 (by decide) (by decide) (by decide) (by decide), warm_has.brk .., by decide, by decide, warm_has.brk ..,
      warm_glob 0x1000 4 4 (by decide) (by decide), warm_copy, gives_copySource 0 (by decide)⟩,
    ⟨runs_of (by decide), by decide, warm_has.check _ 4 4 0x100 (by decide) (by decide) (by decide),
      warm_has.copy 0x100 4 _ 0 (by decide) (by decide) (by decide) (by decide)⟩,
    ⟨runs_of (by decide), by decide⟩, ⟨by decide, by decide, runs_of (by decide), by decide⟩,
    ⟨runs_of (by decide), by decide, by decide,
      warm_has.scratchAt _ 64 32 0x200 (by decide) (by decide) (by decide) (by decide), warm_has.scratchAt _ 16 16 0x300 (by decide) (by decide) (by decide) (by decide),
      by decide, by decide, warm_copy64, ⟨gang0, (warm_has.upd cpbAt).gang, rfl⟩, (warm_has.upd cpbAt).brk .., (warm_has.upd cpbAt).brk ..,
      gives_copySource 0 (by decide)⟩, by decide⟩

/-- The header of the object at 0x2000. -/
def hd0 : Nat := warm.phys 16 0x102000

theorem warm_ref (need : Need) : warm.Gives 0 (validateRef 0x2000 need) (0x102000, hd0) :=
  gives_validateRef (c := cur0) warm_cur warm_gang (by decide)
    (warm_xlate 0x2000 need (by decide) (by decide) (by decide) (by decide)) (by decide) (by decide) (by decide) (by decide) (by decide)

theorem warm_span (va n : Nat) (need : Need) (hb : va < 65536) (h : (warm.walkVia 0 0 va 4 0 (warm.rootOf 0)).1 = .leaf leaf0 0x80000 3 ∧ warm.stale 0 0 va = false)
    (hc : warm.cached 0 0 va = some ⟨0, 0, 65536, leaf0, 0x80000⟩) (hv : pteAddr leaf0 + va % 2 ^ levelShift 3 = 0x100000 + va) :
    warm.Gives 0 (xlateSpans need [(va, n)]) [(va, 0x100000 + va, n, leaf0)] :=
  gives_xlateSpans (c := cur0) warm_cur warm_gang (warm_xlate va need hb h hc hv) (by decide)

/-- Reads of thread 0's registers by an instruction that has read nothing that matters. -/
theorem reg_run {s : State} {th : Thread} {B : AMap TWord} {i : Nat} {ts : TagSet} {w : TWord} (hc : s.cur = some cur0)
    (ht : s.threads.find 0 = some th) (hb : s.Agrees 0 B false false) (hs : s.src 0 i ts = some (w, false, false)) :
    ∃ B', readReg i ts (s.reading 0 B false false) = .ok w (s.reading 0 B' false false) ∧ s.Agrees 0 B' false false :=
  readReg_reading (c := cur0) hc ht hb hs

theorem bits_run {s : State} {th : Thread} {B : AMap TWord} {i : Nat} {ts : TagSet} {w : TWord} (hc : s.cur = some cur0)
    (ht : s.threads.find 0 = some th) (hb : s.Agrees 0 B false false) (hs : s.src 0 i ts = some (w, false, false)) :
    ∃ B', readBits i ts (s.reading 0 B false false) = .ok w.bits.toNat (s.reading 0 B' false false) ∧ s.Agrees 0 B' false false :=
  readBits_reading (c := cur0) hc ht hb hs

theorem pair_run {s : State} {th : Thread} {B : AMap TWord} {i : Nat} {lo hi : TagSet} {l h : TWord} {v : Nat} (hc : s.cur = some cur0)
    (ht : s.threads.find 0 = some th) (hb : s.Agrees 0 B false false) (hi0 : i ≠ 0) (hl : s.src 0 i lo = some (l, false, false))
    (hh : s.src 0 (i + 1) hi = some (h, false, false)) (hv : l.bits.toNat + 2 ^ 32 * h.bits.toNat = v) :
    ∃ B', readPair i lo hi (s.reading 0 B false false) = .ok v (s.reading 0 B' false false) ∧ s.Agrees 0 B' false false := by
  obtain ⟨B1, e1, a1⟩ := bits_run hc ht hb hl
  obtain ⟨B2, e2, a2⟩ := bits_run hc ht a1 hh
  refine ⟨B2, ?_, a2⟩
  unfold readPair
  rw [if_neg (by simpa using hi0), bind_ok e1, bind_ok e2, ← hv]
  rfl

/-- A thread that has read nothing. -/
theorem reading_nil {s : State} {t : Nat} {th : Thread} (ht : s.threads.find t = some th) (ho : th.opbuf = []) : s.reading t [] false false = s := by
  have : s.threads.upd t (fun th => { th with opbuf := [], pendLapf := th.pendLapf || false, pendMis := th.pendMis || false }) =
      s.threads := AMap.upd_same ht (by cases th; simp_all)
  simp only [State.reading, State.updThread, this]

/-- What an operation answers it answers to an instruction that has read registers. -/
theorem turns_reading {α : Type} {s S : State} {t : Nat} {op : M α} {r : α} {z : Bool} (B : AMap TWord) (h : s.Turns S t op r z) :
    (s.reading t B false false).Turns (S.reading t B false false) t op r z := by
  refine ⟨h.1, by simp only [State.reading, State.updThread, h.2.1], fun f hf => ?_⟩
  have n := noting_reading B false false
  have hk : Noting fun y => f { y with opbuf := B, pendLapf := y.pendLapf || false, pendMis := y.pendMis || false } := by
    intro y
    obtain ⟨B', c', z', m', k', e⟩ := hf { y with opbuf := B, pendLapf := y.pendLapf || false, pendMis := y.pendMis || false }
    exact ⟨B', c', z', m', k', e⟩
  have e := h.2.2 _ hk
  simp only [State.reading, State.updThread_updThread] at e ⊢
  exact e

def warmTok : State := warm.updThread 0 slept
theorem tok_cur : warmTok.cur = some cur0 := by decide
theorem tok_th : warmTok.threads.find 0 = some (slept th0) := by decide
theorem tok_gang : warmTok.gangs.find 0 = some gang0 := by decide

theorem tok_brk (a n : Nat) (ld st : Bool) : warmTok.Gives 0 (checkBrk a n ld st) ⟨⟩ :=
  gives_checkBrk (c := cur0) a n ld st tok_cur tok_th tok_gang rfl

/-- The store of PUBST to scratch. -/
theorem tok_hold (v : Nat) : ∃ S', warmTok.Turns S' 0 (holdStore 0xFF00000000000100 v 1 .shared (releaseAt 1)) ⟨⟩ false := by
  refine ⟨warmTok.setAllocAt scrHome (writePlaces scr (warmTok.tickOf gang0.ctx) (placesIn scrHome (laneOf 0) 0x100 8) (leBytes 8 v) []), ?_⟩
  unfold holdStore
  refine gives_bind (gives_checkMem (c := cur0) (p := .scratch 0 0x100) (q := .row scrHome 0x100) tok_cur (by decide) (by decide) (by rfl)) ?_
  exact gives_bind (gives_curT (c := cur0) tok_cur) (gives_bind (tok_brk ..) (gives_bind
    (gives_releaseAt (c := cur0) 1 tok_cur tok_gang (by decide) (by decide) (by decide)) (turns_writeRow (c := cur0) (g := gang0) (al := scr) tok_cur tok_gang (by decide)
      (struck_none _ _ scr_sound) (by decide) (by decide))))

theorem tok_ref : ∃ B, readRef 24 warmTok = .ok 0x2000 (warmTok.reading 0 B false false) := by
  obtain ⟨B, e, -⟩ := pair_run (s := warmTok) (B := []) (i := 24) (lo := .refLo) (hi := .refHi) (l := ⟨0x2000, .refl⟩) (h := ⟨0, .refh⟩)
    tok_cur tok_th (State.agrees_nil _ _ _ _) (by decide) (by decide) (by decide) rfl
  rw [reading_nil tok_th (by decide)] at e
  exact ⟨B, e⟩

/-- The reads of PUBST and of OBJST. -/
def readsPubst : M (Nat × Nat) := do
  let va ← readAddr 8
  let r ← readRef 24
  pure (va, r)
def readsObjst : M (Nat × Nat × Nat × Nat) := do
  let r ← readRef 24
  let o ← natSrc 15
  let p ← pairAny 20
  pure (r, o, p)

theorem tok_pair : ∃ B, readsPubst warmTok = .ok (0xFF00000000000100, 0x2000) (warmTok.reading 0 B false false) := by
  obtain ⟨B, e, a⟩ := pair_run (s := warmTok) (B := []) (i := 8) (lo := .loAddr) (hi := .hiAddr) (l := ⟨0x100, .w64l⟩)
    (h := ⟨0xFF000000, .w64h⟩) (v := 0xFF00000000000100) tok_cur tok_th (State.agrees_nil _ _ _ _) (by decide) (by decide) (by decide) (by decide)
  rw [reading_nil tok_th (by decide)] at e
  obtain ⟨B', e', -⟩ := pair_run (s := warmTok) (i := 24) (lo := .refLo) (hi := .refHi) (l := ⟨0x2000, .refl⟩) (h := ⟨0, .refh⟩) (v := 0x2000)
    tok_cur tok_th a (by decide) (by decide) (by decide) (by decide)
  refine ⟨B', ?_⟩
  unfold readsPubst
  rw [bind_ok (show readAddr 8 warmTok = _ from e), bind_ok (show readRef 24 (warmTok.reading 0 B false false) = _ from e')]
  rfl

theorem warm_objst : ∃ B, readsObjst warm =
      .ok (0x2000, 16, 0xFF00000000000200, 0) (warm.reading 0 B false false) := by
  obtain ⟨B, e, a⟩ := pair_run (s := warm) (B := []) (i := 24) (lo := .refLo) (hi := .refHi) (l := ⟨0x2000, .refl⟩) (h := ⟨0, .refh⟩) (v := 0x2000)
    warm_cur warm_th (State.agrees_nil _ _ _ _) (by decide) (by decide) (by decide) (by decide)
  rw [reading_nil warm_th (by decide)] at e
  obtain ⟨B1, e1, a1⟩ := bits_run (s := warm) (i := 15) (ts := .int) (w := ⟨16, .u32⟩) warm_cur warm_th a (by decide)
  obtain ⟨B2, e2, a2⟩ := reg_run (s := warm) (i := 20) (ts := .any) (w := ⟨0x200, .w64l⟩) warm_cur warm_th a1 (by decide)
  obtain ⟨B3, e3, -⟩ := reg_run (s := warm) (i := 20 + 1) (ts := .any) (w := ⟨0xFF000000, .w64h⟩) warm_cur warm_th a2 (by decide)
  refine ⟨B3, ?_⟩
  unfold readsObjst
  rw [bind_ok (show readRef 24 warm = _ from e), bind_ok (show natSrc 15 (warm.reading 0 B false false) = _ from e1)]
  simp only [pairAny, readWords]
  rw [if_neg (by decide)]
  simp only [bind_run, e2, e3, pure_run]
  rfl

/-- The reads of OBJINIT. -/
def readsInit : M (Nat × Nat) := do
  let va ← readAddr 10
  let n ← natSrc 7
  pure (va, n)

theorem tok_init : ∃ B, readsInit warmTok = .ok (0x1000, 64) (warmTok.reading 0 B false false) := by
  obtain ⟨B, e, a⟩ := pair_run (s := warmTok) (B := []) (i := 10) (lo := .loAddr) (hi := .hiAddr) (l := ⟨0x1000, .w64l⟩)
    (h := ⟨0, .w64h⟩) (v := 0x1000) tok_cur tok_th (State.agrees_nil _ _ _ _) (by decide) (by decide) (by decide) (by decide)
  rw [reading_nil tok_th (by decide)] at e
  obtain ⟨B', e', -⟩ := bits_run (s := warmTok) (i := 7) (ts := .int) (w := ⟨64, .u32⟩) tok_cur tok_th a (by decide)
  refine ⟨B', ?_⟩
  unfold readsInit
  rw [bind_ok (show readAddr 10 warmTok = _ from e), bind_ok (show natSrc 7 (warmTok.reading 0 B false false) = _ from e')]
  rfl

/-- A walk entry that is a range operation for thread 0. -/
def jobWalk (r : Nat) (j : RangeJob) : Walk :=
  { id := 0, t := 0, ctx := 0, root := r, scope := 0, serial := 4096, pass := 1, count := 0, disc := false, stack := [], fresh := true, log := false,
    held := none, fail := none, blk := none, claim := none, job := some j }
def initWalk (va : Nat) : Walk := jobWalk va (.init 64 [(va, 0x100000 + va, 64, leaf0)])
def endWalk : Walk := jobWalk 0x2000 (.reclaim 2 0x102000 [(0x102000, 64)])

theorem walk_span : wSpans 0 (initWalk 0x1000) .store [(0x1000, 64)] warm = .ok [(0x101000, 64)] warm := by
  have h := warm_xlate 0x1000 .store (by decide) (by decide) (by decide) (by decide)
  have e : wXlate 0 (initWalk 0x1000) 0x1000 .store warm = .ok (0x101000, leaf0) warm := by
    unfold wXlate
    show EStateM.bind _ _ warm = _
    simp only [EStateM.bind, get, getThe, MonadStateOf.get, EStateM.get, show (initWalk 0x1000).ctx = 0 from rfl, show dieOfCore 0 = 0 from rfl, h]
    rfl
  unfold wSpans
  show EStateM.bind _ _ warm = _
  simp only [EStateM.bind, e]
  rfl

theorem witness_ObjectCreation :
    (warm.gangs.find (gidOf 0) = some gang0 ∧ warm.Runs 0 [.r 3, .even 10, .r 7] [] gOn ∧
      warm.srcPair 0 10 .loAddr .hiAddr = some (0x1000, false, false) ∧ warm.reads 0 [(7, .int)] = some ([⟨64, .u32⟩], false, false) ∧
      spansOf 0x1000 ((64 + 15) / 16 * 16) = [(0x1000, 64)] ∧ warm.Turns warm 0 (xlateSpans .probe [(0x1000, 64)]) [(0x1000, 0x101000, 64, leaf0)] false ∧
      warm.Gives 0 (checkBrk 0x1000 64 false true) ⟨⟩) ∧
    (warmTok.Resumes 0 [.r 3, .even 10, .r 7] [] gOn true (.tok 0) ∧ (∃ B, readsInit warmTok = .ok (0x1000, 64) (warmTok.reading 0 B false false))) ∧
    ((initWalk 0x1000).job = some (.init 64 [(0x1000, 0x101000, 64, leaf0)]) ∧ warm.objStatus (warm.ownerOf 0) [(0x1000, 0x101000, 64, leaf0)] = 0 ∧
      wSpans 0 (initWalk 0x1000) .store [(0x1000, 64)] warm = .ok [(0x101000, 64)] warm) ∧
    ((initWalk 0x2000).job = some (.init 64 [(0x2000, 0x102000, 64, leaf0)]) ∧ warm.objStatus (warm.ownerOf 0) [(0x2000, 0x102000, 64, leaf0)] ≠ 0) ∧
    (warm.Runs 0 [.even 2, .even 24] [] gOn ∧ warm.Turns warm 0 (validateRef 0x2000 .load) (0x102000, hd0) false) ∧
    (Memory.wf warm.mem = true ∧ 64 % 16 = 0 ∧ 0x101000 % 16 = 0 ∧ 16 * 3 < 64 ∧ 64 < 2 ^ 32 ∧ 0 < 512 ∧ warm.devnum < 64) :=
  ⟨⟨warm_gang, runs_of (by decide), by decide, by decide, by decide,
      warm_span 0x1000 64 .probe (by decide) (by decide) (by decide) (by decide), warm_has.brk ..⟩,
    ⟨resumes_of (by decide), tok_init⟩, ⟨rfl, by decide, walk_span⟩, ⟨rfl, by decide⟩,
    ⟨runs_of (by decide), warm_ref .load⟩, by decide⟩

theorem witness_ObjectUse :
    (warm.threads.find 0 = some th0 ∧ warm.gangs.find (gidOf 0) = some gang0 ∧ warm.Runs 0 [.r 3, .even 24] [] gOn ∧
      warm.srcPair 0 24 .refLo .refHi = some (0x2000, false, false) ∧ warm.Turns warm 0 (validateRef 0x2000 .load) (0x102000, hd0) false ∧
      warm.Gives 0 (validateRef 0x2000 .load) (0x102000, hd0) ∧ gang0.slog = [] ∧ warm.unacked = false ∧ 0 ≤ hdrScope hd0 ∧ th0.swpAct = false ∧
      hdrScope hd0 < 1) ∧
    (warmTok.Resumes 0 [.r 3, .even 24] [] gOn true (.tok 0) ∧ (∃ B, readRef 24 warmTok = .ok 0x2000 (warmTok.reading 0 B false false))) ∧
    (warmTok.Resumes 0 [.r 3, .even 8, .even 24] [] gOn true (.tok 0) ∧ (∃ B S', readsPubst warmTok =
        .ok (0xFF00000000000100, 0x2000) (warmTok.reading 0 B false false) ∧
      (warmTok.reading 0 B false false).Turns S' 0 (holdStore 0xFF00000000000100 0x2000 1 .shared (releaseAt 1)) ⟨⟩ false)) ∧
    (warm.Runs 0 [.even 20, .even 24, .r 15] [] gOn ∧ (∃ B S', readsObjst warm =
        .ok (0x2000, 16, 0xFF00000000000200, 0) (warm.reading 0 B false false) ∧
      (warm.reading 0 B false false).Turns (warm.reading 0 B false false) 0 (validateRef 0x2000 .load) (0x102000, hd0) false ∧
      16 + 8 ≤ hdrLen hd0 ∧ hdrScope hd0 = 0 ∧
      (warm.reading 0 B false false).Turns S' 0 (holdStore (0x2000 + 16) 0xFF00000000000200 0 .plain (pure ())) ⟨⟩ false)) ∧
    (warm.Runs 0 [.even 24] [] gOn ∧ hdrOwner hd0 = warm.ownerOf (coreOf 0) ∧ warm.claimant hd0 = none ∧
      spansOf 0x2000 ((hdrLen hd0 + 15) / 16 * 16) = [(0x2000, 64)] ∧
      warm.Turns warm 0 (xlateSpans .store [(0x2000, 64)]) [(0x2000, 0x102000, 64, leaf0)] false ∧ warm.Gives 0 (reportLog (hdrScope hd0)) ⟨⟩ ∧
      warm.Turns warm 0 (releaseAt (max (hdrScope hd0) 2)) ⟨⟩ false) ∧
    (warmTok.Resumes 0 [.even 24] [] gOn true (.tok 0) ∧ (endWalk.job = some (.reclaim 2 0x102000 [(0x102000, 64)])) ∧ warm.liveHeader 0x102000 = true ∧
      hdrOwner (warm.phys 16 0x102000) = warm.ownerOf 0 ∧ warm.otherWalk 0 (warm.phys 16 0x102000) = none) := by
  refine ⟨⟨warm_th, warm_gang, runs_of (by decide), by decide, warm_ref .load, warm_ref .load, by decide, by decide, by decide, by decide, by decide⟩,
    ⟨resumes_of (by decide), tok_ref⟩, ⟨resumes_of (by decide), ?_⟩, ⟨runs_of (by decide), ?_⟩, ⟨runs_of (by decide), by decide, by decide, by decide,
    warm_span 0x2000 64 .store (by decide) (by decide) (by decide) (by decide), gives_reportLog (c := cur0) _ warm_cur warm_th (by decide),
    gives_releaseAt (c := cur0) _ warm_cur warm_gang (by decide) (by decide) (by decide)⟩,
    resumes_of (by decide), rfl, by decide, by decide, by decide⟩
  · obtain ⟨B, e⟩ := tok_pair
    obtain ⟨S', h⟩ := tok_hold 0x2000
    exact ⟨B, _, e, turns_reading B h⟩
  · obtain ⟨B, e⟩ := warm_objst
    have h := turns_holdStore (v := 0xFF00000000000200) (tags := 0) (a := 0x2010) warm_cur warm_th warm_gang (by decide) (warm_glob 0x2010 8 8 (by decide) (by decide))
      (warm_xlate 0x2010 .store (by decide) (by decide) (by decide) (by decide)) (warm_has.brk ..) (by decide) (by decide)
    exact ⟨B, _, e, turns_reading B (warm_ref .load), by decide, by decide, turns_reading B h⟩

/-! ### Barriers and collectives -/

/-- A group instance with two barriers, two convergence registers and four slots, entry 0 of the placed gang. -/
def inst0 : GInst :=
  { kern := 0, ctx := 0, entry := 0, num := 0, span := false, core := 0, ctl := 0, members := [0], nbar := 2, ncv := 2, bars := [], cvs := [],
    window := none, tile := some (Alloc.new .refreshed 0 16 0), tileBytes := 65536, slots := [] }
def ganged : Gang := { gang0 with grp := [some 0, none, none, none] }
/-- `base` with the gang in that instance, as `x`. -/
def grouped (x : GInst) : State := { base with gangs := [(0, ganged)], insts := [(0, x)] }
/-- The same with another thread 0. -/
def groupedAs (x : GInst) (f : Thread → Thread) : State := (grouped x).updThread 0 f
def skipped : Thread → Thread := fun y => { y with cont := .skip }
def token1 : Thread → Thread := fun y => { y with cont := .tok 1 }
/-- The instance when its only thread has arrived at barrier 0. -/
def instIn : GInst := { inst0 with bars := [(0, { phase := 0, arrived := [0] })] }
def instNone : GInst := { inst0 with bars := [(0, { phase := 0, arrived := [] })] }

theorem slot_of (x : GInst) (f : Thread → Thread) : (groupedAs x f).InSlot 0 0 0 x := ⟨ganged, by rfl, by rfl, by rfl⟩

theorem witness_GroupBarriers :
    ((grouped inst0).InSlot 0 0 0 inst0 ∧ 1 < inst0.nbar ∧ (inst0.bar 1).arrived.contains 0 = false ∧ (grouped inst0).Gives 0 (reportLog (barScope inst0)) ⟨⟩ ∧
      (grouped inst0).Turns (grouped inst0) 0 (releaseAt (barScope inst0)) ⟨⟩ false ∧ (grouped inst0).Runs 0 [.r 3] [] gOn ∧ (grouped inst0).Runs 0 [] [] gOn) ∧
    ((grouped inst0).Runs 0 [.r 4] [] gOn ∧ (grouped inst0).reads 0 [(4, .int)] = some ([w4], false, false) ∧ (inst0.bar 1).phase ≠ w4.bits.toNat) ∧
    ((grouped inst0).Runs 0 [.r 0] [] gOn ∧ (grouped inst0).reads 0 [(0, .int)] = some ([⟨0, .raw⟩], false, false) ∧ (inst0.bar 1).phase = 0) ∧
    ((groupedAs inst0 slept).InSlot 0 0 0 inst0 ∧ (groupedAs inst0 slept).Resumes 0 [] [] gOn true (.tok 0) ∧ (inst0.bar 1).phase = 0) ∧
    ((groupedAs inst0 token1).InSlot 0 0 0 inst0 ∧ (groupedAs inst0 token1).Resumes 0 [] [] gOn true (.tok 1) ∧ (inst0.bar 1).phase ≠ 1) ∧
    ((groupedAs inst0 skipped).InSlot 0 0 0 inst0 ∧ (groupedAs inst0 skipped).Resumes 0 [] [] gOn true .skip) ∧
    (inst0.nbar ≤ 2 ∧ (instIn.bar 0).arrived.contains 0 = true) ∧
    ((grouped instNone).insts.find 0 = some instNone ∧ instNone.bars.find 0 = some { phase := 0, arrived := [] } ∧ 0 ∈ (grouped instNone).liveOf 0) ∧
    ((grouped instIn).insts.find 0 = some instIn ∧ instIn.bars.find 0 = some { phase := 0, arrived := [0] } ∧ (∀ t, t ∈ (grouped instIn).liveOf 0 → t ∈ [0])) := by
  have hl : (grouped instIn).liveOf 0 = [0] := by decide
  refine ⟨⟨⟨ganged, by rfl, by rfl, by rfl⟩, by decide, by decide, gives_reportLog (c := cur0) (th := th0) _ (by decide) (by decide) (by decide),
      gives_releaseAt (c := cur0) (g := ganged) _ (by decide) (by decide) (by decide) (by decide) (by decide), runs_of (by decide), runs_of (by decide)⟩,
    ⟨runs_of (by decide), by decide, by decide⟩, ⟨runs_of (by decide), by decide, by decide⟩, ⟨slot_of .., resumes_of (by decide), by decide⟩,
    ⟨slot_of .., resumes_of (by decide), by decide⟩, ⟨slot_of .., resumes_of (by decide)⟩, ⟨by decide, by decide⟩, ⟨by decide, by decide, by decide⟩,
    by decide, by decide, fun t h => by rw [hl] at h; exact h⟩

/-- A landing barrier of two arrivals at scratch offset 0x300. -/
def xb2 : Nat := 256 * 2 + 18446744073709551616 * 2
def scrXb : Alloc := writePlaces scr 0 (placesIn scrHome 0 0x300 16) (leBytes 16 xb2) []
def atXb (f : Thread → Thread) : State := (base.setAllocAt scrHome scrXb).updThread 0 f
def gangXb : Gang := { gang0 with scratch := scrXb }
theorem xb_cur (f : Thread → Thread) : (atXb f).cur = some cur0 := rfl
theorem xb_gang (f : Thread → Thread) : (atXb f).gangs.find 0 = some gangXb := by
  show (base.setAllocAt scrHome scrXb).gangs.find 0 = some gangXb
  decide
theorem xb_th : (atXb fun y => y).threads.find 0 = some th0 := by decide

theorem xb_at (a n al off : Nat) (ha : aperture a = some (.scratch 0 off)) (h1 : a / 2 ^ 56 = 0xFF) (hal : a % al = 0)
    (hb : (atXb fun y => y).bound 0 (.scratch 0 off) n = .ok (.row scrHome off)) : (atXb fun y => y).Gives 0 (scratchAt a n al) (scrHome, off) :=
  gives_scratchAt (c := cur0) h1 (gives_checkMem (c := cur0) (xb_cur _) ha hal hb)

theorem xb_brk (a n : Nat) (ld st : Bool) : (atXb fun y => y).Gives 0 (checkBrk a n ld st) ⟨⟩ :=
  gives_checkBrk (c := cur0) a n ld st (xb_cur _) xb_th (xb_gang _) rfl

theorem xb_read (a : Nat) : (atXb fun y => y).Gives 0 (readRow scrHome 0x300 16 a) xb2 := by
  have h := gives_readRow (s := atXb fun y => y) (c := cur0) (g := gangXb) (al := scrXb) (h := scrHome) (off := 0x300) (n := 16) (a := a) (xb_cur _) (xb_gang _)
    (by decide) (struck_none _ _ (by decide)) (by decide) (by decide) (by decide) (hard_softAt _ (by decide))
  have e : leNat (readPlaces scrXb ((atXb fun y => y).tickOf gangXb.ctx) (placesIn scrHome (laneOf cur0.t) 0x300 16)) = xb2 := by decide
  rw [e] at h
  exact h

/-- The reads of XBWAIT. -/
def readsXb : M (Nat × Nat) := do
  let x ← readAddr 22
  let y ← natSrc 4
  pure (x, y)

theorem xb_reads : ∃ B, readsXb (atXb skipped) = .ok (0xFF00000000000300, 5) ((atXb skipped).reading 0 B false false) := by
  have ht : (atXb skipped).threads.find 0 = some (skipped th0) := by decide
  obtain ⟨B, e, a⟩ := pair_run (s := atXb skipped) (B := []) (i := 22) (lo := .loAddr) (hi := .hiAddr) (l := ⟨0x300, .w64l⟩)
    (h := ⟨0xFF000000, .w64h⟩) (v := 0xFF00000000000300) (xb_cur _) ht (State.agrees_nil _ _ _ _) (by decide) (by decide) (by decide) (by decide)
  rw [reading_nil ht (by decide)] at e
  obtain ⟨B1, e1, -⟩ := bits_run (s := atXb skipped) (i := 4) (ts := .int) (w := w4) (xb_cur _) ht a (by decide)
  refine ⟨B1, ?_⟩
  unfold readsXb
  rw [bind_ok (show readAddr 22 (atXb skipped) = _ from e), bind_ok (show natSrc 4 ((atXb skipped).reading 0 B false false) = _ from e1)]
  rfl

theorem witness_LandingBarriers :
    ((atXb skipped).Resumes 0 [.even 22, .r 4] [] gOn true .skip ∧ (skipped th0).copyFaults = [] ∧
      ∃ B, readsXb (atXb skipped) = .ok (0xFF00000000000300, 5) ((atXb skipped).reading 0 B false false)) ∧
    ((atXb fun y => y).threads.find 0 = some th0 ∧ (atXb fun y => y).gangs.find (gidOf 0) = some gangXb ∧
      (atXb fun y => y).srcPair 0 22 .loAddr .hiAddr = some (0xFF00000000000300, false, false) ∧ (atXb fun y => y).reads 0 [(4, .int)] = some ([w4], false, false) ∧
      (atXb fun y => y).Gives 0 (scratchAt 0xFF00000000000300 16 16) (scrHome, 0x300) ∧ (atXb fun y => y).Runs 0 [.even 22, .r 4] [] gOn ∧
      (0 < w4.bits.toNat ∧ w4.bits.toNat < 16777216) ∧ (atXb fun y => y).Gives 0 (checkBrk 0xFF00000000000300 16 false true) ⟨⟩ ∧
      (∃ S, (atXb fun y => y).Turns S 0 (writeRow scrHome 0x300 16 0xFF00000000000300 (256 * 5 + 18446744073709551616 * 5)) ⟨⟩ false)) ∧
    ((atXb fun y => y).Turns (atXb fun y => y) 0 (readRow scrHome 0x300 16 0xFF00000000000300) xb2 false ∧ xbZero xb2 = true ∧
      (atXb fun y => y).Runs 0 [.r 3, .even 22, .r 4] [] gOn ∧ xbArrivals xb2 ≠ 0 ∧ sext (xbPieces xb2) 32 + 5 ≤ 2147483647 ∧
      (atXb fun y => y).Gives 0 (checkBrk 0xFF00000000000300 16 true false) ⟨⟩ ∧ th0.copyFaults = [] ∧ xbPhase xb2 ≠ 5 % 16) ∧
    ((atXb fun y => y).reads 0 [(15, .int)] = some ([⟨16, .u32⟩], false, false) ∧ xbPhase xb2 = 16 % 16) ∧
    (xb2 < 2 ^ 128 ∧ ¬(xbArrivals xb2 = 0 ∧ xbPieces xb2 = 0) ∧ 18446744073709551616 * 2 < 2 ^ 128 ∧
      (xbArrivals (18446744073709551616 * 2) = 0 ∧ xbPieces (18446744073709551616 * 2) = 0)) :=
  ⟨⟨resumes_of (by decide), by decide, xb_reads⟩,
    ⟨xb_th, xb_gang _, by decide, by decide, xb_at _ 16 16 0x300 (by decide) (by decide) (by decide) rfl, runs_of (by decide), by decide, xb_brk ..,
      ⟨_, turns_writeRow (s := atXb fun y => y) (c := cur0) (al := scrXb) (xb_cur _) (xb_gang _) (by decide) (struck_none _ _ (by decide)) (by decide) (by decide)⟩⟩,
    ⟨xb_read _, by decide, runs_of (by decide), by decide, by decide, xb_brk .., by decide, by decide⟩, ⟨by decide, by decide⟩, by decide⟩

/-- The conditions of `State.Resumes` with a guard that does not hold, decided. -/
def offB (s : State) (t : Nat) (fs : List Field) (gd : Guard) : Bool :=
  match s.cur, s.threads.find t, s.gangs.find (gidOf t) with
  | some k, some th, some gg => decide (k.t = t) && decide (checkFields gg.nregs fs = none) && !guardHolds th gd && decide (th.cont = .none)
  | _, _, _ => false

theorem off_of {s : State} {t : Nat} {fs : List Field} {gd : Guard} (h : offB s t fs gd = true) : s.Resumes t fs [] gd false .none := by
  unfold offB at h
  split at h
  · next k th gg hc ht hg =>
    simp only [Bool.and_eq_true, decide_eq_true_eq, Bool.not_eq_true'] at h
    exact ⟨k, th, gg, hc, h.1.1.1, ht, hg, h.1.1.2, h.1.2, nofun, h.2⟩
  · simp at h

def never : Guard := ⟨true, 0⟩

theorem witness_Collectives :
    (base.threads.find 0 = some th0 ∧ base.gangs.find (gidOf 0) = some gang0 ∧ base.Runs 0 [.r 3, .r 4] [] gOn ∧
      base.reads 0 [(4, redKind .sadd)] = some ([w4], false, false)) ∧ base.Runs 0 [.r 3] [] gOn ∧ base.Runs 0 [] [] gOn ∧
    base.reads 0 [(4, .any)] = some ([w4], false, false) ∧
    (base.Runs 0 [.r 3, .r 4, .r 5] [] gOn ∧ LxMode.abs ≠ .low ∧ base.reads 0 [(4, .any), (5, .int)] = some ([w4, w5], false, false)) ∧
    (base.Resumes 0 [.r 3, .r 4] [] never false .none ∧ base.Resumes 0 [.r 3] [] never false .none ∧ base.Resumes 0 [] [] never false .none ∧
      base.Resumes 0 [.r 3, .r 4, .r 5] [] never false .none) :=
  ⟨⟨th0_is, gang0_is, runs_of (by decide), by decide⟩, runs_of (by decide), runs_of (by decide), by decide,
    ⟨runs_of (by decide), by decide, by decide⟩, off_of (by decide), off_of (by decide), off_of (by decide), off_of (by decide)⟩

/-- Lane 0 has arrived with its word and lane 1 has abstained. -/
def arr0 : CollArr := { lane := 0, pc := 8, rep := 0, abst := false, a := w4, op := .redg .smax 3 }
def arr1 : CollArr := { lane := 1, pc := 8, rep := 0, abst := true, a := w4, op := .redg .smax 3 }
def meet : State := { base with threads := [(0, th0), (1, th0)], gangs := [(0, { gang0 with coll := [arr0, arr1] })] }

theorem witness_CollectiveResults :
    (meet.gangs.find 0 = some { gang0 with coll := [arr0, arr1] } ∧ [arr0, arr1] ≠ [] ∧
      (∀ c, c ∈ [arr0, arr1] → c.pc = 8 ∧ c.rep = 0 ∧ 32 * 0 + c.lane ∈ meet.lanesOf 0 ∧ c.lane < 32) ∧ ([arr0, arr1].map (·.lane)).Nodup ∧
      (∀ t, t ∈ meet.lanesOf 0 → ∃ c, c ∈ [arr0, arr1] ∧ c.lane = laneOf t)) ∧
    (meet.threads.find 1 = some th0 ∧ gidOf 1 = 0 ∧ arr1 ∈ [arr0, arr1] ∧ arr1.lane = laneOf 1 ∧ arr1.abst = true ∧ arr0.abst = false) ∧ 32 ≤ 32 ∧
    (tree32 .smax [w4, w5] 3 32).1 = some 7 ∧
    (th0.pendMis = false ∧ CollOp.redg .smax 3 = arr0.op) := by
  decide

/-! ### Events, registers, the network and the step -/

/-- A booted machine at rest, and the same with changes. -/
def up : State := { State.reset with boot := 10 }

theorem witness_UpdatesAtHome : Memory.wf warm.mem = true ∧ 3 ≤ 3 ∧ warm.firstPoison 0x101000 8 0 = none ∧ (warm.line 0 (0x101000 / 128)).dirty = 0 ∧
    (fun old => some ((old : Nat) + 5, 0)) (warm.phys 8 0x101000) = some (5, 0) := by decide

/-- A word in v9 awaited; a sleeper; an idle context's tick and slice; registers of a class that has expired. -/
def waits9 : Thread := { th0 with loads := [⟨[(9, w4)]⟩], group := none, wait := none }
def sleeper : Thread := { th0 with wait := some (.sleep 0) }
def slot0 : State := { base with threads := [(0, { th0 with group := none })], cores := [] }
def busyCtx (x : Ctx → Ctx) : State := base.setCtx 0 (x (base.ctx 0))
def sliced : State := busyCtx fun x => { x with slice := 1, sliceCnt := 1 }
/-- Sixty-four resident contexts, the first at the end of its slice, and one that waits for a place. -/
def queued1 : State := { State.reset with
  ctxs := (0, { Ctx.init with st := .resident, slice := 1, sliceCnt := 1 }) :: (List.range' 1 63).map (fun c => (c, { Ctx.init with st := .resident }))
    ++ [(64, { Ctx.init with st := .descheduled, placeSince := some 0 })] }
def agedAlloc (a : Alloc) : Alloc := { a with cls := .lapsing, life := 1 }
def agedGang : Gang := { gang0 with regs := agedAlloc gang0.regs, scratch := agedAlloc gang0.scratch, stack := agedAlloc gang0.stack }
def agedState : State := { late with gangs := [(0, agedGang)] }

theorem witness_Scheduling :
    (base.first [(0, th0), (1, th0)] = some (0, th0) ∧ base.pick [(0, th0), (1, th0)] = [0, 1]) ∧
    ((slot0.core 0).groups.find 4 = none ∧ (slot0.core 0).groups.find 0 = none ∧
      slot0.pick ((slot0.readyFor 0 0).filter fun e => !e.2.bars.contains 0) = [0] ∧
      ∀ u, u ∈ slot0.pick ((slot0.readyFor 0 0).filter fun e => !e.2.bars.contains 0) → ∃ y, slot0.threads.find u = some y ∧ y.clause ≠ none ∧ y.res = .start) ∧
    (∀ e, e ∈ slot0.readyFor 0 0 → e.2.res ≠ .past) ∧
    (waits9.loads[0]? = some ⟨[(9, w4)]⟩ ∧ (base.ctx gang0.ctx).pend = none ∧ sleeper.wait = some (.sleep 0) ∧ 0 ≤ base.tickOf gang0.ctx) ∧
    (((busyCtx fun x => { x with phase := 100 }).ctx 0).st = .resident ∧ ((busyCtx fun x => { x with phase := 100 }).ctx 0).pend = none ∧
      100 ≤ ((busyCtx fun x => { x with phase := 100 }).ctx 0).phase) ∧
    ((sliced.ctx 0).slice = 1 ∧ sliced.contested 0 = false) ∧
    ((queued1.ctx 0).st = .resident ∧ (queued1.ctx 0).pend = none ∧ (queued1.ctx 0).slice = 1 ∧ (queued1.ctx 0).sliceCnt = 1 ∧ queued1.contested 0 = true) ∧
    (agedState.gangs.find 0 = some agedGang ∧ agedGang.regs.cls ≠ .refreshed ∧ 511 < 32 * agedGang.regs.pages ∧ 0 < 32 * agedGang.scratch.pages ∧
      0 < 32 * agedGang.stack.pages ∧ (agedGang.regs.row 511).stamp + agedGang.regs.life < agedState.tickOf agedGang.ctx ∧
      (agedGang.scratch.row 0).stamp + agedGang.scratch.life < agedState.tickOf agedGang.ctx ∧
      (agedGang.stack.row 0).stamp + agedGang.stack.life < agedState.tickOf agedGang.ctx) := by
  refine ⟨by decide, ⟨by decide, by decide, by decide, fun u hu => ?_⟩, by decide, by decide, by decide, by decide, by decide, by decide⟩
  have e : slot0.pick ((slot0.readyFor 0 0).filter fun e => !e.2.bars.contains 0) = [0] := by decide
  rw [e] at hu
  cases List.mem_singleton.mp hu
  exact ⟨{ th0 with group := none }, by decide, by decide, by decide⟩

/-- A copy of four bytes of data that has come, counted off at a tag, a piece counted off at a barrier, and one still to read. -/
def copied : Landing := { t := 0, lin := 0, ctx := 0, bt := some 0, home := scrHome, off := 0x200, len := 4, vb := 4, dst := 0xFF00000000000200, src := 0x1000, pa := 0x101000, cls := .plain, got := some (7, false), rem := none, no := 0, bar := none }
def pieced : Landing := { copied with bt := none, bar := some (scrHome, 0x300, 0) }
def landing (l : Landing) : State := warm.updCore 0 fun c => { c with landings := [l] }

theorem witness_Landings :
    (((landing copied).core 0).landings[0]? = some copied ∧ copied.got = some (7, false) ∧ copied.bar = none) ∧
    (((landing pieced).core 0).landings[0]? = some pieced ∧ pieced.bar ≠ none ∧ pieced.bt = none) ∧
    (({ copied with got := none } : Landing).rem = none ∧ copied.pa < hostKey 0 ∧
      (warm.readClass 0 .plain 0x101000 (2 ^ 55) 4).1.poison = none) ∧
    (warm.allocAt copied.home = some scr ∧ 0 < copied.len ∧ copied.off % 128 + copied.len ≤ 128 ∧ warm.tickOf copied.ctx = 0 ∧
      (scanPlaces scr 0 (places false 0 copied.off copied.len) 0).expired = none ∧ (scanPlaces scr 0 (places false 0 copied.off copied.len) 0).memerr = none ∧
      (scanPlaces scr 0 (places false 0 copied.off copied.len) 0).lapse = false) ∧
    (warm.threads.find copied.t = some th0 ∧ th0.lin = copied.lin ∧ copied.bt = some 0 ∧ 0 < th0.bt.length) ∧ Memory.wf cached1.mem = true ∧
    bit (cached1.line 0 8224).dirty 0 = true := by decide

/-- A copy count of three threads from weights 1 and 2. -/
theorem witness_ResampleCounts : [1, 2].foldl (· + ·) 0 = 3 ∧ 0 < 3 ∧ 4294967295 < 4294967296 ∧ copyCounts 3 4294967295 3 0 [1, 2] = [1, 2] := by
  decide

/-- Die 0 with flits, a port that is up, and a peer. -/
def linked : State := { up with ports := [(0, { Port.init with st := .up, en := true, cred := [1, 1, 1] })], routes := [(1, 1)], devnum := 0,
                                ctxs := [(0, { Ctx.init with st := .ready, peers := 2 })], funcs := [(0, 2048), (1, 512)] }
def flitTo (dst ty vl eseq lseq payload : Nat) : Flit := ⟨eseq, dst, 1, 0, ty, vl, lseq, 0, payload⟩

theorem witness_Link :
    linked.portUp 0 = true ∧ linked.boot = 10 ∧ ({ linked with boot := 0 } : State).portUp 0 = true ∧
    ((flitTo 0 1 0 0 0 (2 ^ 64)).lseq = (linked.port 0).expL ∧ (flitTo 0 1 0 0 0 (2 ^ 64)).dst = linked.devnum ∧ (0 : Nat) = (linked.erecv.find 1).getD 0 ∧
      linked.early = []) ∧
    ((flitTo 0 1 0 0 1 0).lseq ≠ (linked.port 0).expL ∧ (flitTo 0 1 0 0 1 0).dst = linked.devnum) ∧
    ((65535 : Nat) < 65536 ∧ (65535 : Nat) ≠ 0 ∧ (0 + 65536 - 65535) % 65536 ≤ 32768) ∧ (32768 < (0 + 65536 - 1) % 65536) ∧
    (linked.refuses 1 0 = false ∧ linked.refuses 2 0 = true ∧ linked.backed 0 32 = true ∧ linked.dieRefuses 0 = false ∧ linked.firstPoison 0 32 0 = none ∧
      0 < barMark) ∧
    ((flitTo 1 4 1 0 0 0).dst ≠ linked.devnum ∧ (flitTo 1 4 1 0 0 0).ty ≠ 0 ∧ (flitTo 1 4 1 0 0 0).ty ≠ 8 ∧ (flitTo 1 4 1 0 0 0).ty < 10) ∧
    ((flitTo 0 8 3 0 0 1).ty = 8 ∧ bits (flitTo 0 8 3 0 0 1).payload 7 0 = 1 ∧ bits (flitTo 0 8 3 0 0 2).payload 7 0 = 2) ∧
    (10 ≤ (flitTo 0 10 0 0 0 0).ty ∧ flitFits (flitTo 1 4 1 0 0 5) = true ∧ isRed (flitTo 0 3 0 0 0 (2 ^ 79)).payload = true) ∧
    (1 ≤ bits (2 ^ 64) 71 64 ∧ bits (2 ^ 64) 71 64 ≤ 4) := by decide

/-- Device 0 with one port up, which the tests of sending vary, and one response that waits. -/
def sending (f : Port → Port) : State := { linked with ports := [(0, f (linked.port 0))], outq := [flitTo 1 4 1 0 0 0] }

theorem witness_Link_sending :
    ((sending fun x => { x with sent := 15 }).portUp 0 = true ∧
      ({ sending (fun x => { x with sent := 15 }) with outq := [flitTo 1 7 2 0 0 0] } : State).candidate 0 2 = some (flitTo 1 7 2 0 0 0)) ∧
    (({ linked.port 0 with txq := [flitTo 1 4 1 0 0 0] } : Port).txq = [flitTo 1 4 1 0 0 0] ∧
      ((linked.port 0).repl.find 0).getD 0 + 1 < 8 ∧ 8 ≤ ((AMap.find 0 ([(0, 7)] : AMap Nat)).getD 0) + 1) ∧
    ¬(List.replicate 1024 flit0).length < 1024 ∧
    ((sending id).port 0).sent < 15 ∧ ((sending id).port 0).txq = [] ∧ ((sending id).port 0).unack.length < 1024 ∧ ((sending id).port 0).ctl = [] ∧
    (sending id).choose 0 = some (flitTo 1 4 1 0 0 0) ∧ ((sending fun x => { x with ctl := [1] }).port 0).ctl = [1] := by decide

/-- A request of thread 0 to device 1 that waits for its answer, and one that is posted. -/
def ask0 (posted : Bool) : RemOp :=
  { dev := 1, t := 0, kern := 0, ctx := 0, posted := posted, eseq := 0, va := 0x1000, fetch := false, slog := false, tagged := true, issue := 0,
    word := 0, more := [] }
def asked (posted : Bool) : State := { linked with remops := [(0, ask0 posted)], kernels := [(0, placedKernel)] }

theorem witness_PortsAndHost :
    (({ linked with ports := [(0, { Port.init with st := .training })] } : State).port 0).st = .training ∧ (linked.die (0 / 4)).st = .up ∧
    (linked.port 0).st = .up ∧ (0 + 1000000 ≤ ({ linked with refCycle := 1000000 } : State).refCycle ∧ linked.refCycle < 0 + 1000000) ∧
    (1000000 ≤ ((({ linked with waitDev := [(1, 1000000)] } : State).waitDev.find 1).getD 0) ∧ linked.lostDev 1 = false ∧ linked.remops = [] ∧
      (asked true).remops = [(0, ask0 true)] ∧ (ask0 true).dev = 1 ∧ (ask0 true).posted = true ∧ (asked false).remops = [(0, ask0 false)] ∧
      (ask0 false).posted = false) ∧
    linked.hostPend = [] ∧ (linked.ctx 0).refused < 2 ^ 32 ∧
    (linked.boot = 10 ∧ linked.isBridge = true ∧ linked.inBar4 0 0x1000 8 = true ∧ linked.inBar4 1 0x1000 8 = true ∧
      linked.funcs[1]? = some (1, 512) ∧ linked.lostDev 1 = false ∧ linked.inBar4 2 0x1000 8 = false ∧ linked.funcs[2]? = none ∧ linked.backed (linked.lmbase + 0x1000) 8 = true ∧ linked.dieRefuses (linked.lmbase + 0x1000) = false ∧
      linked.firstPoison (linked.lmbase + 0x1000) 8 0 = none ∧ linked.backed (linked.lmbase + 2 ^ 40) 8 = false ∧ linked.inBar4 0 (2 ^ 40) 8 = true ∧ Memory.wf linked.mem = true ∧
      linked.tagBits.Pairwise (· < ·) ∧ 0x1000 % 8 = 0) := by decide

theorem witness_Attestation : up.boot = 10 ∧ up.isBridge = true ∧ ({ up with hostfn := 1 } : State).isBridge = false ∧ (4 : Nat) ≠ 0 ∧ 2 < 254 ∧ (254 : Nat) ≠ 255 := by decide

theorem witness_DecodeEncode :
    ((Instr.bra ⟨false, 2⟩ (-8388608)).wf = true ∧ (encode (.bra ⟨false, 2⟩ (-8388608))).isSome = true) ∧
    (0x103B038180FFFFF8 < 2 ^ 64 ∧ decodeWord 0x103B038180FFFFF8 = .ok (.iaddi ⟨true, 3⟩ 7 6 false false false (-8))) ∧
    (0x1080208880000000 < 2 ^ 64 ∧ decodeHeader 0x1080208880000000 = some ⟨1, 1, true, 4, 1, 1, 1, 0⟩) := by decide

theorem witness_ExactAccumulation : -(2 ^ 124) ≤ (2 ^ 124 - 1 : Int) ∧ (2 ^ 124 - 1 : Int) < 2 ^ 124 ∧
    [((5 : Int), 3), (-7, 60)].Perm [(-7, 60), (5, 3)] ∧ (-(2 ^ 124) ≤ (1 : Int) + ([((5 : Int), 3), (-7, 60)].map fun p => p.1 * 2 ^ p.2).sum ∧
      (1 : Int) + ([((5 : Int), 3), (-7, 60)].map fun p => p.1 * 2 ^ p.2).sum < 2 ^ 124) ∧
    ((List.replicate 32 (1 : Int)).length = 32 * [((3 : Nat), (4 : Nat))].length) :=
  ⟨by decide, by decide, List.Perm.swap .., by decide, by decide⟩

theorem witness_MemoryStaysCanonical : Memory.wf (State.reset.withFetchWord 64 0x1010068080000000).mem = true ∧
    nextHas (step (State.reset.withFetchWord 64 0x1010068080000000)) (fun s => Memory.wf s.mem) = true := by decide

/-! ### Kernels, packets and commands -/

/-- The placed kernel changed; with none of its gangs left; with a population; and late. -/
def kernAs (f : Kernel → Kernel) : State := base.updKernel 0 f
def admitting : Kernel → Kernel := fun k => { k with st := .admitting, desc := { k.desc with gangs := 2, pack := true } }
def drained (f : Kernel → Kernel) : State := { kernAs f with gangs := [], threads := [] }
def sealedPop (r : Option (Nat × Nat × Bool)) : Pop := { onePop with st := .sealed, arrs := [{ t := 0, pc := 8, rep := 0, abst := r.isNone, w := 0x3F800000, d := 3 }], record := r }
def barking (f : Kernel → Kernel) : State :=
  { (late.updKernel 0 f) with threads := [(0, handled th0)] }

def watched1 : Kernel := { placedKernel with desc := { placedKernel.desc with wdwin := 1, budget := 2 } }
def barks : State := barking fun _ => watched1

theorem sweep_of {s : State} {g : Gang} (h : s.gangs = [(0, g)]) (ht : (s.threads.any fun t => gidOf t.1 == 0) = true) : s.sweepGangs = s := by
  simp only [State.sweepGangs, h, List.foldl]
  rw [if_pos]
  simp [ht]

theorem sweep_nil {s : State} (h : s.gangs = []) : s.sweepGangs = s := by simp [State.sweepGangs, h]

theorem admitting_sweeps : (kernAs admitting).sweepGangs = kernAs admitting := sweep_of (g := gang0) (by decide) (by decide)
theorem draining_sweeps : (drained fun k => { k with st := .draining }).sweepGangs = (drained fun k => { k with st := .draining }) := sweep_nil rfl

theorem admitting_is : (kernAs admitting).kernels.find 0 = some (admitting placedKernel) := by decide
theorem admitting_room : (kernAs admitting).hasRoom 0 (admitting placedKernel) [] [1] 0 = true := by
  have h : 1 ∈ (kernAs admitting).openSlots 0 :=
    List.mem_append_left _ (List.mem_filter.mpr ⟨List.mem_range.mpr (by decide), by decide⟩)
  have h1 := List.length_pos_of_mem h
  simp only [State.hasRoom, Bool.and_eq_true, decide_eq_true_eq]
  exact ⟨⟨⟨⟨by show 1 ≤ _; omega, by decide⟩, by decide⟩, by decide⟩, by decide⟩

theorem admitting_core : ∃ c, (kernAs admitting).coreFor 0 (admitting placedKernel) [] [1] = some c := by
  have h : 0 ∈ ((kernAs admitting).eligible (admitting placedKernel)).filter ((kernAs admitting).hasRoom 0 (admitting placedKernel) [] [1]) :=
    List.mem_filter.mpr ⟨List.mem_filter.mpr ⟨List.mem_range.mpr (by decide), by decide⟩, admitting_room⟩
  obtain ⟨c, cs, e⟩ := List.exists_cons_of_ne_nil (List.ne_nil_of_mem h)
  exact ⟨c, by simp only [State.coreFor, e]; rfl⟩

theorem admitting_plan : ∃ p, (kernAs admitting).nextPlan 0 (admitting placedKernel) = some p := by
  obtain ⟨c, hc⟩ := admitting_core
  have h1 : ((kernAs admitting).mayAdmit (admitting placedKernel) && (((kernAs admitting).ctx (admitting placedKernel).ctx).st == .resident ||
      (kernAs admitting).mayReside (admitting placedKernel).ctx)) = true := by decide
  have h2 : (admitting placedKernel).nextUnit = some [1] := by decide
  have h3 : unitParts (admitting placedKernel).desc (admitting placedKernel).groups [1] = [[1]] := by decide
  refine ⟨[([1], c)], ?_⟩
  simp only [State.nextPlan, h1, h2, if_true, State.plan, h3]
  rw [if_neg (by decide)]
  simp only [State.planParts, hc, List.nil_append]

theorem barks_first : barks.kernels.find 0 = some watched1 ∧ barks.watched watched1 = true ∧ orOf watched1.desc.wdwin (barks.ctx watched1.ctx).wdwin = 1 ∧
    watched1.prog + 1 < barks.tickOf watched1.ctx ∧ watched1.stage2 = false := by decide
theorem barks_rest : (handled th0).canTrap = true ∧
    orOf watched1.desc.budget (barks.ctx watched1.ctx).budget = 2 ∧ barks.tickOf watched1.ctx - watched1.admTick.getD (barks.tickOf watched1.ctx) = 2 ∧
    watched1.budFired = false := by decide
theorem barks_thread : barks.kernThreads 0 = [(0, handled th0)] := by decide

theorem barks_sealed : ((barks.updKernel 0 fun y => { y with stage2 := true, prog := barks.tickOf 0 }).unseal 0).kernThreads 0 = [(0, handled th0)] := by
  decide

theorem witness_KernelLife :
    ((kernAs admitting).sweepGangs = kernAs admitting ∧ (∃ k p, (kernAs admitting).kernels.find 0 = some k ∧ (kernAs admitting).nextPlan 0 k = some p ∧
      (kernAs admitting).overtaken 0 k = false ∧ ((kernAs admitting).ctx k.ctx).st = .resident)) ∧
    ((drained fun k => { k with st := .draining }).sweepGangs = (drained fun k => { k with st := .draining }) ∧
      (drained fun k => { k with st := .draining }).kernels.find 0 = some { placedKernel with st := .draining } ∧ placedKernel.due = none ∧
      placedKernel.lost = false ∧ (drained fun k => { k with st := .draining }).kernBusy 0 = false) ∧
    ((drained fun k => { k with st := .failed, due := some 2 }).kernels.find 0 = some { placedKernel with st := .failed, due := some 2 }) ∧
    ((sealedPop none).st = .sealed ∧ (sealedPop none).record = none ∧ (sealedPop (some (2, 7, false))).record = some (2, 7, false)) ∧
    (barks.kernels.find 0 = some watched1 ∧ barks.watched watched1 = true ∧ orOf watched1.desc.wdwin (barks.ctx watched1.ctx).wdwin = 1 ∧
      watched1.prog + 1 < barks.tickOf watched1.ctx ∧ watched1.stage2 = false ∧ (handled th0).canTrap = true ∧
      orOf watched1.desc.budget (barks.ctx watched1.ctx).budget = 2 ∧ barks.tickOf watched1.ctx - watched1.admTick.getD (barks.tickOf watched1.ctx) = 2 ∧
      watched1.budFired = false ∧ barks.kernThreads 0 = [(0, handled th0)] ∧
      ((barks.updKernel 0 fun y => { y with stage2 := true, prog := barks.tickOf 0 }).unseal 0).kernThreads 0 = [(0, handled th0)]) := by
  refine ⟨⟨admitting_sweeps, admitting placedKernel, ?_⟩, ⟨draining_sweeps, by decide⟩, by decide, by decide, barks_first.1, barks_first.2.1, barks_first.2.2.1, barks_first.2.2.2.1,
    barks_first.2.2.2.2, barks_rest.1, barks_rest.2.1, barks_rest.2.2.1, barks_rest.2.2.2, barks_thread, barks_sealed⟩
  obtain ⟨p, hp⟩ := admitting_plan
  exact ⟨p, admitting_is, hp, by decide, by decide⟩

/-- Queue 0 of the placed context holds one packet, at 0x3000; a privileged one. -/
def oneQueue : Queue := { Queue.init with st := .busy, wridx := 1, rbase := 0x3000, priv := true }
def packed (p : Nat) : State := { (warm.physSet 0 64 0x103000 p) with queues := [(0, oneQueue)] }
/-- The packets: NOP, KERNEL of the descriptor at 0x4000 or misaligned, SIGNAL at 0x1000, WAIT there, DEPMAP, INVAL of one page; and one bad. -/
def pkKernel (va : Nat) : Nat := 1 + 2 ^ 64 * va
def pkSignal : Nat := 2 + 2 ^ 64 * 0x1000 + 2 ^ 128 * 5
def pkWait : Nat := 3 + 2 ^ 64 * 0x1000
def pkDepmap : Nat := 4 + 2 ^ 64 * 0x1000 + 2 ^ 192 + 2 ^ 208
def pkInval : Nat := 5 + 2 ^ 64 * 0x1000 + 2 ^ 128
/-- What a packet processor reads, if it reads it. -/
def readOf {α : Type} : PpRead α → Option α | .ok a => some a | _ => none

theorem readOf_ok {α : Type} {r : PpRead α} {a : α} (h : readOf r = some a) : r = .ok a := by
  cases r <;> simp_all [readOf]

/-- A packet that the next step of queue 0 takes. -/
def heads (p : Nat) : Bool :=
  (packed p).serves 0 && decide (readOf ((packed p).headPacket 0).1 = some p) && (((packed p).headPacket 0).2.queue 0).good p

theorem heads_of {p : Nat} (h : heads p = true) : (packed p).serves 0 = true ∧ (packed p).headPacket 0 = (.ok p, ((packed p).headPacket 0).2) ∧
    (((packed p).headPacket 0).2.queue 0).good p = true := by
  simp only [heads, Bool.and_eq_true, decide_eq_true_eq] at h
  exact ⟨h.1.1, Prod.ext (readOf_ok h.1.2) rfl, h.2⟩

def isBad {α : Type} : PpRead α → Bool | .bad => true | _ => false

/-- What the processor has after it has taken a packet, and a queue that waits at a WAIT. -/
def took (p : Nat) : State := ((packed p).headPacket 0).2.takePacket 0 false
def waiting : State := { warm with queues := [(0, { oneQueue with pend := [(0, .wait 0x1000 0 0 0)] })] }
/-- A kernel that depends on the bitmap of 64 bits at 0x1000. -/
def mapped : Dep := { bmap := 0x1000, a := 1, b := 0, c := 1, nprod := 64, seen := [] }
def depends (k : Kernel) : Kernel := { k with st := .admitting, dep := some mapped }
def dependent : State := warm.updKernel 0 depends

theorem witness_Packets :
    (heads 0 = true ∧ pktType 0 = 0) ∧
    (heads (pkKernel 1) = true ∧ pktType (pkKernel 1) = 1 ∧ isBad ((packed (pkKernel 1)).readKernel 0 0 (bits (pkKernel 1) 127 64)).1 = true) ∧
    (heads pkSignal = true ∧ pktType pkSignal = 2 ∧ bits pkSignal 127 64 % 8 = 0 ∧
      ((took pkSignal).ppXlate 0 0 0x1000 .store).1 = some (0x101000, leaf0) ∧ pteLink leaf0 = 0) ∧
    (heads pkWait = true ∧ pktType pkWait = 3 ∧ (((packed pkWait).headPacket 0).2.waitTest 0 0x1000 0 0).1 = some true ∧
      (((packed pkWait).headPacket 0).2.waitTest 0 0x1000 1 0).1 = some false) ∧ (heads pkDepmap = true ∧ pktType pkDepmap = 4) ∧
    (heads pkInval = true ∧ pktType pkInval = 5) ∧
    ((packed (pkKernel 1 + 2 ^ 18)).serves 0 = true ∧ oneQueue.good (pkKernel 1 + 2 ^ 18) = false) ∧
    ((waiting.queue 0).st = .busy ∧ (waiting.die (waiting.queue 0).home).st = .up ∧
      (waiting.queue 0).pend.find? (fun e => e.2.isWait) = some (0, .wait 0x1000 0 0 0) ∧ (waiting.waitTest 0 0x1000 0 0).1 = some true) ∧
    (dependent.kernels.find 0 = some (depends placedKernel) ∧ mapped.bmap % 8 = 0 ∧
      readOf (dependent.readMap (dependent.queue 0).home 0 mapped.bmap ((mapped.nprod + 63) / 64)).1 = some []) :=
  ⟨by decide, by decide, ⟨by decide, by decide, by decide, by decide, by decide⟩, by decide, by decide, by decide, by decide, by decide, by decide⟩

/-- A shoot-down of one page that no peer has still to answer, and one that peer 1 has. -/
def askedInv (ps : AMap Nat) : Inval := { ctx := 0, va := 0x1000, len := 65536, dies := 1, peers := ps, start := 0, q := 0, cpl := 0 }
def asking (ps : AMap Nat) : State := { warm with invals := [(0, askedInv ps)], refCycle := 20000 }

theorem witness_Shootdowns :
    (heads pkInval = true ∧ pktType pkInval = 5) ∧
    ((asking []).invals.find 0 = some (askedInv []) ∧ (askedInv []).peers = [] ∧ (asking []).inUse 0 0x1000 65536 = false) ∧
    ((asking [(1, 0)]).invals.find 0 = some (askedInv [(1, 0)]) ∧ ((askedInv [(1, 0)]).peers.find 1).isSome = true ∧ (askedInv [(1, 0)]).start + 20000 ≤ (asking [(1, 0)]).refCycle) ∧
    (linked.inUse 0 0x1000 65536 = false ∧ linked.refuses 1 0 = false) ∧ (bit 1 0 = true ∧ (warm.dies.find 0).isSome = true) := by decide

/-- Context 1 in a state, in a booted machine; one with a fine record; the placed context with a load in flight. -/
def ctxIn (st : CtxState) : State := up.setCtx 1 { Ctx.init with st := st }
def fineRec : State := (ctxIn .defined).physSet 1 128 ((ctxIn .defined).ctxRec 1) (2 ^ 40 + 2 ^ 24 + 2 ^ 28 + 2 ^ 192)
def loading : State := base.updThread 0 fun y => { y with loads := [⟨[(9, w4)]⟩] }
def offCore (st : CtxState) : State := base.setCtx 0 { base.ctx 0 with st := st }

theorem room_of {s : State} {c : Nat} (hp : s.parked = []) (hg : ∀ core, core < 384 →
    (s.updCtx c fun x => { x with st := .resident }).usedPages core ≤ corePages) (hc : s.conduits = []) : s.canReturn c = true := by
  simp only [State.canReturn, hp, List.all_nil, Bool.true_and, List.all_eq_true, List.foldl_nil, List.mem_range, Bool.and_eq_true, decide_eq_true_eq]
  intro core h
  refine ⟨by simpa using hg core h, ?_⟩
  simp [State.usedConduits, State.savedConduits, State.updCtx, State.setCtx, hc]

theorem offCore_room (st : CtxState) : (offCore st).canReturn 0 = true := by
  refine room_of (by rfl) (fun core _ => ?_) (by rfl)
  have h : ∀ n : Bool, (if n then 0 + gang0.pages else 0) + 0 ≤ corePages := by decide
  exact h _

theorem fit_of {s : State} {c : Nat} (h : s.conduits = []) : s.conduitsFit c = true := by
  simp [State.conduitsFit, State.savedConduits, h]

theorem claim_same {s : State} {c : Nat} (h : s.conduits = []) : s.claimForReturn c = s := by
  have e (core : Nat) : s.savedConduits c core = 0 := by simp [State.savedConduits, h]
  unfold State.claimForReturn
  generalize List.range 384 = l
  induction l with
  | nil => rfl
  | cons a l ih => simp only [List.foldl_cons, e, beq_self_eq_true, if_true]; exact ih

theorem offCore_fit (st : CtxState) : ((offCore st).claimForReturn 0).conduitsFit 0 = true := by
  have h : (offCore st).conduits = [] := rfl
  rw [claim_same h]
  exact fit_of h

/-- The placed context with its thread off its slot. -/
def idling : State := base.updThread 0 fun y => { y with group := none }

theorem witness_ContextCommands :
    ((ctxIn .dead).boot = 10 ∧ 1 < 256 ∧ ((ctxIn .dead).ctx 1).st = .dead ∧ ((ctxIn .defined).ctx 1).st = .defined ∧
      recordFine ((ctxIn .defined).phys 128 ((ctxIn .defined).ctxRec 1)) = false ∧ recordFine (fineRec.phys 128 (fineRec.ctxRec 1)) = true ∧
      ((ctxIn .ready).ctx 1).st = .ready ∧ ((ctxIn .halted).ctx 1).st = .halted ∧ (ctxIn .ready).kernels.Pairwise (fun a b => a.1 < b.1)) ∧
    (base.boot = 10 ∧ (base.ctx 0).st = .resident ∧ (base.ctx 0).pend = none ∧ idling.inFlight 0 = false ∧ loading.inFlight 0 = true ∧ (idling.ctx 0).st = .resident) ∧
    ((ctxIn .halted).noGang 1 = true ∧ (ctxIn .descheduled).noGang 1 = true) ∧
    ((offCore .halted).noGang 0 = false ∧ (offCore .halted).mayReside 0 = true ∧ (offCore .halted).canReturn 0 = true ∧
      (∀ e, e ∈ (offCore .halted).kernels → e.2.ctx = 0 → e.2.due = none) ∧
      ((offCore .halted).claimForReturn 0).conduitsFit 0 = true) ∧
    ((offCore .descheduled).noGang 0 = false ∧ (offCore .descheduled).mayReside 0 = true ∧ (offCore .descheduled).canReturn 0 = true ∧
      ((offCore .descheduled).ctx 0).pend = none ∧ (offCore .descheduled).residents < 64 ∧
      ((offCore .descheduled).claimForReturn 0).conduitsFit 0 = true) ∧ ({ up with cxstsRes := 15 } : State).cxstsRes = 15 ∧ (base.parkAll 0).inFlight 0 = false ∧
    up.cxstsRes ≠ 15 :=
  ⟨by decide, by decide, by decide, ⟨by decide, by decide, offCore_room _, by decide, offCore_fit _⟩, ⟨by decide, by decide, offCore_room _, by decide, by decide,
    offCore_fit _⟩, by decide, by decide, by decide⟩

/-- A queue that is idle with room for 16, one of a fine record, and a context with an outstanding record. -/
def idleQ : State := up.setQueue 3 { Queue.init with st := .idle, ctx := 1 }
def fineQ : State := (ctxIn .ready).physSet 0 64 ((ctxIn .ready).qRec 3) (2 ^ 32)
def faulted1 : State := up.setCtx 1 { Ctx.init with st := .faulted, faults := [⟨0, 0x1000, 0⟩] }

theorem witness_QueueControl :
    ((idleQ.queue 3).st ≠ .disabled ∧ (up.queue 3).st = .disabled) ∧
    (queueFine (fineQ.phys 64 (fineQ.qRec 3)) && (fineQ.ctx (bits (fineQ.phys 64 (fineQ.qRec 3)) 39 32)).st != .dead) = true ∧
    (queueFine (up.phys 64 (up.qRec 3)) && (up.ctx (bits (up.phys 64 (up.qRec 3)) 39 32)).st != .dead) = false ∧
    ((idleQ.queue 3).mode = 0 ∧ (16 + 2 ^ 32 - (idleQ.queue 3).wridx) % 2 ^ 32 + ((idleQ.queue 3).wridx + 2 ^ 32 - (idleQ.queue 3).rdidx) % 2 ^ 32 ≤
      2 ^ ((idleQ.queue 3).lg + 4) ∧ ¬((17 + 2 ^ 32 - (idleQ.queue 3).wridx) % 2 ^ 32 + ((idleQ.queue 3).wridx + 2 ^ 32 - (idleQ.queue 3).rdidx) % 2 ^ 32 ≤
      2 ^ ((idleQ.queue 3).lg + 4))) ∧ ((faulted1.ctx 1).faultKind 0 = some 0 ∧ faulted1.conduits = []) := by decide

/-- The debugger at register 4, the PC and the predicates of thread 0 of a halted context. -/
def debugAt (item idx : Nat) : State := { offCore .halted with dbgsel := 2 ^ 32 * idx + 2 ^ 7 * item }

theorem witness_RegisterWrites :
    (bits (2 ^ 63 + 0x1000) 62 56 = 0 ∧ bits (2 ^ 63 + 0x1000) 2 0 = 0 ∧ up.backed (bits (2 ^ 63 + 0x1000) 55 3 * 8) 8 = true ∧ up.tagBits.Pairwise (· < ·) ∧
      up.backed (bits (2 ^ 55) 55 3 * 8) 8 = false) ∧
    (bits (2 ^ 30) 63 52 = 0 ∧ bits (2 ^ 30) 29 16 = 0 ∧ bits (2 ^ 16) 29 16 ≠ 0 ∧ bits (2 ^ 52) 63 52 ≠ 0) ∧ (15 < 16 ∧ 2 ^ 64 - 1 < 2 ^ 64) ∧
    (3 < 4 ∧ (up.port 0).st = .disabled ∧ (linked.port 0).st ≠ .disabled) ∧
    (bits (2 ^ 32) 63 33 = 0 ∧ bits (2 ^ 32) 31 16 = 0 ∧ bit (2 ^ 32) 32 = true ∧ linked.lostDev 1 = false ∧ bits (2 ^ 16) 31 16 ≠ 0) ∧
    ((debugAt 0 4).dbgThread = 0 ∧ (debugAt 0 4).threads.find 0 = some th0 ∧ (debugAt 0 4).gangs.find (gidOf 0) = some gang0 ∧
      ((debugAt 0 4).ctx gang0.ctx).st = .halted ∧ (debugAt 0 4).dbgItem = 0 ∧ (debugAt 0 4).dbgIndex = 4 ∧ 4 ≤ gang0.nregs ∧
      Tag.ofCode (bits 0 35 32) = some .raw ∧ (debugAt 2 0).dbgItem = 2 ∧ bits 8 31 0 = th0.pc ∧ bits 16 31 0 ≠ th0.pc ∧ (debugAt 3 0).dbgItem = 3 ∧ (base.ctx gang0.ctx).st ≠ .halted) ∧
    (0 < 256 ∧ 31 < 32 ∧ 63 < 64 ∧ 4 % 8 ≠ 0) := by decide

theorem witness_Resets :
    (up.boot = 10 ∧ 3 < 4 ∧ (0 = 0 ∧ up.isBridge = true) ∧ ¬(1 = 0 ∧ up.isBridge = true)) ∧ (∀ e, e ∈ up.dies → e.2.st = .up) ∧
    ((up.setDie 1 { Die.init with st := .quiescing }).die 1).st = .quiescing ∧ ((up.setDie 1 { Die.init with st := .retraining }).die 1).st = .retraining ∧
    (∃ e, e ∈ (up.setDie 1 { Die.init with st := .testing }).dies ∧ e.2.st ≠ .up) ∧
    imageFine { magic := 0, version := 0, len := 0, body := [], sig := 0 } = false ∧ up.brFail = 0 := by
  refine ⟨by decide, by decide, by decide, by decide, ⟨(1, { Die.init with st := .testing }), by decide, by decide⟩, by decide, by decide⟩

theorem witness_Health :
    (up.dies.find 1 = some Die.init ∧ 1 < 4 ∧ Die.init.fsafe = false ∧ (Die.init.lastHb + 5000 ≤ ({ up with refCycle := 5000 } : State).refCycle ∧
      up.refCycle < Die.init.lastHb + 5000) ∧ up.lastPow + 10000 ≤ ({ up with refCycle := 10000 } : State).refCycle) ∧
    (5 < 6 ∧ up.meshed = true ∧ up.isBridge = true ∧ base.inPlace 0 gang0.kern (.regs 0) 0 = true ∧ up.bridges[5]? = some 12 ∧ ({ up with bridges := [1] } : State).bridges[0]? = some 1 ∧ ({ up with bridges := [0] } : State).bridges[0]? = some 0) ∧
    (8 ≤ 8 ∧ 8 ≤ 24 ∧ (256 : Nat) % 2 ^ 8 = 0 ∧ Die.init.lastTrace ≠ some 256) ∧
    (base.gangs.find 0 = some gang0 ∧ coreOfGid 0 = 0 ∧ base.refreshes 0 gang0.ctx gang0.regs = true ∧ 511 < 32 * gang0.regs.pages ∧ 31 < 32) ∧
    Die.init.ecnt.length = 8 ∧ (Agenda.issue 0 0).whileOff = false := by decide

/-! ### Conduits and queues, populations, tiles, the units of the device, and the step -/

/-- The conduit of core 0, and the placed kernel with one. -/
def rec1 : CdRec := ⟨[w4], none⟩
def cd0 : Conduit :=
  { core := 0, kern := 0, n := 0, buf := [], accepted := 0, spills := 0, refills := 0, peak := 0, left := 0, head := 0, tail := 0, closed := false,
    released := false, senders := [], recvs := [], hold := none, fill := .ready, saved := false, save := none, noSave := false }
def cdKernel : Kernel := { placedKernel with desc := { placedKernel.desc with ncd := 1 }, cds := [⟨1, 2176, 0x6000⟩] }
def withCd (c : Conduit) : State := { base with kernels := [(0, cdKernel)], conduits := [(0, c)] }
def cdAs (c : Conduit) (f : Thread → Thread) : State := (withCd c).updThread 0 f

theorem cd_gives (c : Conduit) (f : Thread → Thread) (hc : (c.kern == 0 && c.core == 0 && c.n == 0 && !c.released) = true) :
    (cdAs c f).Gives 0 (conduitAt 0) (0, c) := by
  unfold conduitAt
  refine gives_bind (gives_curT (c := cur0) rfl) (gives_bind (gives_gang (c := cur0) (g := gang0) rfl gang0_is) (gives_bind (gives_getKernel
    (x := cdKernel) (by rfl)) ?_))
  refine turns_get (m := pure (0, c)) (fun g _ => ?_) (turns_pure ..)
  have e : (((cdAs c f).updThread 0 g).conduits.find? fun e => e.2.kern == gang0.kern && e.2.core == coreOf cur0.t && e.2.n == 0 && !e.2.released) =
      some (0, c) := by
    show ([(0, c)] : List (Nat × Conduit)).find? _ = _
    rw [List.find?_cons_of_pos]
    exact hc
  simp only [e]

theorem cd_words : ∃ B, readWords 4 1 (cdAs cd0 token1) = .ok [w4] ((cdAs cd0 token1).reading 0 B false false) := by
  have ht : (cdAs cd0 token1).threads.find 0 = some (token1 th0) := by decide
  obtain ⟨B, e, -⟩ := reg_run (s := cdAs cd0 token1) (B := []) (i := 4) (ts := .any) (w := w4) rfl ht (State.agrees_nil _ _ _ _) (by decide)
  rw [reading_nil ht (by decide)] at e
  refine ⟨B, ?_⟩
  simp only [readWords]
  rw [bind_ok e]
  rfl

def wordsOne : Thread → Thread := fun y => { y with cont := .words [w4] 1 }

theorem put_same {b : State} {th : Thread} (h : b.threads.find 0 = some th) (ks : AMap Kernel) (cs : AMap Conduit) :
    ({ b with kernels := ks, conduits := cs } : State).updThread 0 (fun y => y) = { b with kernels := ks, conduits := cs } := by
  have e : b.threads.upd 0 (fun y => y) = b.threads := AMap.upd_same h rfl
  simp only [State.updThread, e]

theorem cd_same (c : Conduit) : cdAs c (fun y => y) = withCd c := put_same th0_is [(0, cdKernel)] [(0, c)]

theorem witness_Conduits :
    ((withCd cd0).Gives 0 (conduitAt 0) (0, cd0) ∧ (withCd cd0).Runs 0 [.r 3, .range 4 1] [] gOn ∧
      (withCd cd0).reads 0 ((List.range 1).map fun j => (4 + j, .any)) = some ([w4], false, false) ∧ (withCd cd0).Runs 0 [.r 3] [] gOn ∧
      (withCd cd0).Runs 0 [.range 32 8, .r 3] [] gOn ∧ cd0.buf = [] ∧ rec1.bad = none) ∧
    ((withCd { cd0 with buf := [rec1] }).Gives 0 (conduitAt 0) (0, { cd0 with buf := [rec1] })) ∧
    ((cdAs cd0 token1).Gives 0 (conduitAt 0) (0, cd0) ∧ (cdAs cd0 token1).Resumes 0 [.r 3, .range 4 1] [] gOn true (.tok 1) ∧
      (∃ B, readWords 4 1 (cdAs cd0 token1) = .ok [w4] ((cdAs cd0 token1).reading 0 B false false)) ∧
      (cdAs cd0 token1).Resumes 0 [.r 3] [] gOn true (.tok 1) ∧
      (cdAs cd0 token1).Resumes 0 [.range 32 8, .r 3] [] gOn true (.tok 1)) ∧
    ((cdAs cd0 wordsOne).Gives 0 (conduitAt 0) (0, cd0) ∧ (cdAs cd0 wordsOne).Resumes 0 [.range 32 8, .r 3] [] gOn true (.words [w4] 1)) := by
  refine ⟨⟨by rw [← cd_same]; exact cd_gives _ _ (by decide), runs_of (by decide), by decide, runs_of (by decide), runs_of (by decide), by decide, by decide⟩, by rw [← cd_same]; exact cd_gives _ _ (by decide),
    ⟨cd_gives _ _ (by decide), resumes_of (by decide), cd_words, resumes_of (by decide), resumes_of (by decide)⟩,
    cd_gives _ _ (by decide), resumes_of (by decide)⟩

theorem witness_ConduitOrder : base.threads.find 0 = some th0 ∧ base.gangs.find (gidOf 0) = some gang0 ∧ gang0.kern = cd0.kern ∧ cd0.hold = none ∧
    ((withCd { cd0 with senders := [(0, some rec1)] }).conduits.find 0 = some { cd0 with senders := [(0, some rec1)] } ∧ cd0.closed = false ∧
      cd0.buf.length < 32 ∧ cd0.ring = 0) ∧
    ((withCd { cd0 with senders := [(0, some rec1)], closed := true }).conduits.find 0 = some { cd0 with senders := [(0, some rec1)], closed := true }) ∧
    ((withCd { cd0 with senders := [(0, none)] }).conduits.find 0 = some { cd0 with senders := [(0, none)] }) ∧
    ((withCd { cd0 with recvs := [0], buf := [rec1] }).conduits.find 0 = some { cd0 with recvs := [0], buf := [rec1] } ∧ rec1.bad = none) := by
  refine ⟨by decide, by decide, by decide, by decide, ⟨rfl, ?_, by decide, ?_⟩, rfl, rfl, rfl, by decide⟩ <;> decide

/-- The placed context's queue 7 in launch mode, empty, and one that holds all its ring's packets. -/
def launchQ (w : Nat) : State := { warm with queues := [(7, { Queue.init with st := .idle, mode := 1, wridx := w })] }

theorem queued_report {b : State} (hc : b.cur = some cur0) (ht : b.threads.find 0 = some th0) (qs : AMap Queue) :
    ({ b with queues := qs } : State).Gives 0 (reportLog 3) ⟨⟩ := gives_reportLog (c := cur0) (th := th0) 3 hc ht rfl
theorem queued_release {b : State} (hc : b.cur = some cur0) (hg : b.gangs.find 0 = some gang0) (hu : b.unacked = false)
    (hk : (b.core 0).cache = []) (qs : AMap Queue) : ({ b with queues := qs } : State).Gives 0 (releaseAt 3) ⟨⟩ :=
  gives_releaseAt (c := cur0) (g := gang0) 3 hc hg rfl hu hk
theorem launch_report (w : Nat) : (launchQ w).Gives 0 (reportLog 3) ⟨⟩ := queued_report warm_cur warm_th _
theorem launch_release (w : Nat) : (launchQ w).Gives 0 (releaseAt 3) ⟨⟩ := queued_release warm_cur warm_gang (by decide) (by decide) _

theorem dropBytes_note (s : State) (t : Nat) (f : Thread → Thread) (core l m : Nat) :
    (s.updThread t f).dropBytes core l m = (s.dropBytes core l m).updThread t f := by
  unfold State.dropBytes
  have e : (s.updThread t f).core core = s.core core := rfl
  rw [e]
  cases (s.core core).cache.find l <;> rfl

theorem homeTags_note (s : State) (t : Nat) (f : Thread → Thread) (pa : Nat) : ∀ k, (s.updThread t f).homeTags pa k = s.homeTags pa k
  | 0 => rfl
  | k + 1 => by simp only [State.homeTags, homeTags_note s t f pa k]; rfl

theorem firstPoison_note (s : State) (t : Nat) (f : Thread → Thread) (pa : Nat) : ∀ n i, (s.updThread t f).firstPoison pa n i = s.firstPoison pa n i
  | 0, _ => rfl
  | n + 1, i => by simp only [State.firstPoison, firstPoison_note s t f pa n]; rfl

theorem homeWrite_note (s : State) (t : Nat) (f : Thread → Thread) (c pa n v tags : Nat) (b : Bool) :
    (s.updThread t f).homeWrite c pa n v tags b = (s.homeWrite c pa n v tags b).updThread t f := by
  have e : ((s.physSet c n pa v).updThread t f).curePoison pa n = ((s.physSet c n pa v).curePoison pa n).updThread t f := by
    unfold State.curePoison
    split <;> rfl
  simp only [State.homeWrite, State.physSet_updThread, e]
  split
  · exact putTags_note ..
  · rfl

theorem sharedRead_note (s : State) (t : Nat) (f : Thread → Thread) (core pa n : Nat) :
    (s.updThread t f).sharedRead core pa n = ((s.sharedRead core pa n).1, (s.sharedRead core pa n).2.updThread t f) := by
  have e (x : State) : (x.updThread t f).phys n pa = x.phys n pa := rfl
  simp only [State.sharedRead, cleanLine_note, noteRead_note, dropBytes_note, homeTags_note, firstPoison_note, e]

theorem sharedWrite_note (s : State) (t : Nat) (f : Thread → Thread) (core c pa n v tags : Nat) (b : Bool) :
    (s.updThread t f).sharedWrite core c pa n v tags b = (s.sharedWrite core c pa n v tags b).updThread t f := by
  simp only [State.sharedWrite, cleanLine_note, homeWrite_note, dropBytes_note]

/-- An update at home does the same whatever its thread has noted. -/
theorem atomLocal_note (s : State) (t : Nat) (f : Thread → Thread) (core c pa pte n : Nat) (g : Nat → Option (Nat × Nat)) :
    (s.updThread t f).atomLocal core c 3 pa pte n g = ((s.atomLocal core c 3 pa pte n g).1, (s.atomLocal core c 3 pa pte n g).2.updThread t f) := by
  simp only [State.atomLocal, sharedRead_note, if_neg (show ¬ 3 ≤ 2 by decide), sharedWrite_note]
  split <;> rfl

theorem escape_none (walk : Nat → Nat → Nat → M Unit) (b : Nat → Bool) (a : Nat) : ∀ (k pa v : Nat), escapeCheck walk b pa v 0 a k = pure ⟨⟩
  | 0, _, _ => rfl
  | k + 1, pa, v => by
    simp only [escapeCheck]
    rw [if_neg (by decide), escape_none walk b a k]

theorem putTags_keeps (w tags : Nat) : ∀ (k : Nat) (s : State),
    (s.putTags w tags k).threads = s.threads ∧ (s.putTags w tags k).cur = s.cur
  | 0, _ => ⟨rfl, rfl⟩
  | k + 1, s => putTags_keeps w tags k (s.setTagAt (8 * (w + k)) (bit tags k))

/-- The checks of an untagged word's shared-class store. -/
theorem gives_sharedCheck {s : State} {c : Cur} {th : Thread} {pa pte a n v : Nat} (hc : s.cur = some c) (ht : s.threads.find c.t = some th)
    (hs : s.storeCheck (coreOf c.t) false (s.ownerOf (coreOf c.t)) pa n = none) : s.Gives c.t (objectCheck false pa pte a n v 0) ⟨⟩ := by
  have hw (r : Nat → Bool) : objectCheckWith (fun r sc h => askWalk r sc h) r false pa pte a n v 0 =
      objectCheckWith (fun r sc h => askWalk r sc h) (fun _ => false) false pa pte a n v 0 := by
    simp only [objectCheckWith, escape_none]
  unfold objectCheck
  simp only [hw]
  refine gives_bind (gives_curT hc) (turns_thread hc ht
    (m := do let _ ← (get : M State); objectCheckWith (fun r sc h => askWalk r sc h) (fun _ => false) false pa pte a n v 0) (fun f hf => ?_)
    (turns_get (m := objectCheckWith (fun r sc h => askWalk r sc h) (fun _ => false) false pa pte a n v 0) (fun _ _ => rfl) ?_))
  · rfl
  · unfold objectCheckWith
    refine gives_bind (gives_curT hc) ?_
    split
    · refine turns_get (m := pure ⟨⟩) (fun f _ => ?_) (turns_pure ..)
      have e : (s.updThread c.t f).storeCheck (coreOf c.t) false ((s.updThread c.t f).ownerOf (coreOf c.t)) pa n = none := by
        rw [← hs]
        have k (m g : Nat) (w : Nat) : (s.updThread c.t f).storeCheckFrom (coreOf c.t) false w pa n m g = s.storeCheckFrom (coreOf c.t) false w pa n m g := by
          induction m generalizing g with
          | zero => rfl
          | succ m ih => simp only [State.storeCheckFrom, ih]; rfl
        exact k ..
      simp only [e, escape_none]
      rfl
    · exact turns_pure ..

theorem dropBytes_keeps (x : State) (core l m : Nat) : (x.dropBytes core l m).threads = x.threads ∧ (x.dropBytes core l m).cur = x.cur := by
  unfold State.dropBytes
  split <;> exact ⟨rfl, rfl⟩

theorem homeWrite_keeps (s : State) (c pa n v tags : Nat) (b : Bool) :
    (s.homeWrite c pa n v tags b).threads = s.threads ∧ (s.homeWrite c pa n v tags b).cur = s.cur := by
  have e : ((s.physSet c n pa v).curePoison pa n).threads = s.threads ∧ ((s.physSet c n pa v).curePoison pa n).cur = s.cur := by
    unfold State.curePoison
    split <;> exact ⟨State.physSet_threads .., State.physSet_cur ..⟩
  unfold State.homeWrite
  split
  · exact ⟨(putTags_keeps ..).1.trans e.1, (putTags_keeps ..).2.trans e.2⟩
  · exact e

theorem atomLocal_keeps {s : State} (core c pa pte n w : Nat) (g : Nat → Option (Nat × Nat)) (h1 : s.softErrs = [])
    (h2 : s.softL2 = []) (h3 : s.poison = []) (h4 : s.poisonL2 = []) (hc : (s.core core).cache = []) (hp : s.firstPoison pa n 0 = none) (hg : g (s.phys n pa) = some (w, 0)) :
    (s.atomLocal core c 3 pa pte n g).2.threads = s.threads ∧ (s.atomLocal core c 3 pa pte n g).2.cur = s.cur ∧
      (s.atomLocal core c 3 pa pte n g).1.poison = none := by
  have el : (s.line core (pa / 128)).dirty = 0 := by simp only [State.line, hc]; rfl
  have k1 : s.cleanLine core (pa / 128) = s := by simp [State.cleanLine, el]
  have n1 : s.noteRead pa n = s := by simp [State.noteRead, h1, h2, h3, h4]
  have d1 (m : Nat) : s.dropBytes core (pa / 128) m = s := by simp [State.dropBytes, hc]; rfl
  simp only [State.atomLocal, State.sharedRead, State.sharedWrite, k1, n1, d1, hp, if_neg (show ¬ 3 ≤ 2 by decide)]
  rcases bit pte 55 <;> simp [hg, dropBytes_keeps, homeWrite_keeps]

/-- Bit 7 of the word at 0x1000 is set. -/
def bitSet : State := (warm.orHome 0 0 0x101000 leaf0 128).2.notifyMaps
def added : State := (warm.atomLocal 0 0 3 0x101000 leaf0 8 (fun old => some (trunc ((old : Int) + w5.bits.toInt) 64, 0))).2

theorem warm_rmw : warm.Turns warm 0 (xlate 0x1000 .rmw) (0x101000, leaf0) false :=
  gives_xlate (c := cur0) warm_cur warm_gang (warm_xlate 0x1000 .rmw (by decide) (by decide) (by decide) (by decide))
theorem warm_check (v : Nat) : warm.Gives 0 (objectCheck false 0x101000 leaf0 0x1000 8 v 0) ⟨⟩ :=
  gives_sharedCheck (c := cur0) warm_cur warm_th (by decide)
theorem warm_release : warm.Gives 0 (releaseAt 3) ⟨⟩ := gives_releaseAt (c := cur0) (g := gang0) 3 warm_cur warm_gang (by decide) (by decide) (by decide)
theorem warm_report : warm.Gives 0 (reportLog 3) ⟨⟩ := gives_reportLog (c := cur0) (th := th0) 3 warm_cur warm_th (by decide)
theorem warm_idle : warm.softErrs = [] ∧ warm.softL2 = [] ∧ warm.poison = [] ∧ warm.poisonL2 = [] ∧ (warm.core 0).cache = [] ∧
    warm.firstPoison 0x101000 8 0 = none := by decide

/-- What CBSET does of a word once it is translated. -/
def setAt (core c a mask pa pte : Nat) : M Unit := do
  checkBrk a 8 true true
  if pteLink pte != 0 then trap .access a
  objectCheck false pa pte a 8 mask 0
  releaseAt 3
  let (o, s) := (← get).orHome core c pa pte mask
  set s
  match o.poison with
  | some i => throw (.memerr (a + i))
  | none => modify State.notifyMaps

theorem turns_cbset {s S : State} {c : Cur} {g : Gang} {a mask pa pte : Nat} (hc : s.cur = some c) (hg : s.gangs.find (gidOf c.t) = some g)
    (ha : (a / 2 ^ 56 != 0) = false) (hp : s.Gives c.t (checkMem a 8 8) (.glob a)) (hr : s.Gives c.t (reportLog 3) ⟨⟩)
    (hl : g.logRegion a = false) (hx : s.xlate (dieOfCore (coreOf c.t)) g.ctx a .store = (.ok pa pte, s))
    (h : s.Turns S c.t (setAt (coreOf c.t) g.ctx a mask pa pte) ⟨⟩ false) : s.Turns S c.t (cbsetMem a mask) ⟨⟩ false := by
  unfold cbsetMem
  rw [ha, if_neg (by decide)]
  refine gives_bind hp (gives_bind hr (gives_bind (gives_curT hc) (gives_bind (gives_gang hc hg) ?_)))
  rw [hl, if_neg (by decide)]
  refine ⟨h.1, h.2.1, fun f hf => ?_⟩
  have e : (s.updThread c.t f).xlate (dieOfCore (coreOf c.t)) g.ctx a .store = (.ok pa pte, s.updThread c.t f) := by
    rw [xlate_note, hx]
  rw [bind_run, get_run]
  dsimp only
  rw [e]
  dsimp only
  rw [bind_run, set_run]
  exact h.2.2 f hf

theorem turns_orHome {s : State} {core c a pa pte m t : Nat} (hk : (s.orHome core c pa pte m).2.threads = s.threads ∧
    (s.orHome core c pa pte m).2.cur = s.cur ∧ (s.orHome core c pa pte m).1.poison = none) :
    s.Turns (s.orHome core c pa pte m).2.notifyMaps t (do
      let (o, s) := (← get).orHome core c pa pte m
      set s
      match o.poison with
      | some i => throw (.memerr (a + i))
      | none => modify State.notifyMaps) ⟨⟩ false := by
  refine ⟨hk.2.1, hk.1, fun f _ => ?_⟩
  have e : (s.updThread t f).orHome core c pa pte m = ((s.orHome core c pa pte m).1, (s.orHome core c pa pte m).2.updThread t f) := atomLocal_note ..
  rw [bind_run, get_run]
  dsimp only
  rw [e, bind_run, set_run]
  simp only [hk.2.2]
  rfl

theorem warm_setAt : warm.Turns bitSet 0 (setAt 0 0 0x1000 128 0x101000 leaf0) ⟨⟩ false := by
  unfold setAt
  refine gives_bind (warm_has.brk ..) ?_
  rw [if_neg (by decide)]
  exact gives_bind (warm_check 128) (gives_bind warm_release (turns_orHome (atomLocal_keeps 0 0 0x101000 leaf0 8 128 _ warm_idle.1 warm_idle.2.1
    warm_idle.2.2.1 warm_idle.2.2.2.1 warm_idle.2.2.2.2.1 warm_idle.2.2.2.2.2 (by decide))))

theorem warm_cbset : warm.Turns bitSet 0 (cbsetMem 0x1000 128) ⟨⟩ false :=
  turns_cbset (c := cur0) (g := gang0) (pa := 0x101000) (pte := leaf0) warm_cur warm_gang (by decide)
    (warm_glob 0x1000 8 8 (by decide) (by decide)) warm_report (by decide)
    (warm_xlate 0x1000 .store (by decide) (by decide) (by decide) (by decide)) warm_setAt

theorem got_eta {g : Got} (h : g.poison = none) : (⟨g.v, g.tags, none⟩ : Got) = g := by cases g; simp_all

theorem warm_add : (∀ B, (warm.reading 0 B false false).atomLocal (coreOf 0) gang0.ctx 3 0x101000 leaf0 8
      (fun old => some (trunc ((old : Int) + w5.bits.toInt) 64, 0)) =
        (⟨(warm.atomLocal 0 0 3 0x101000 leaf0 8 (fun old => some (trunc ((old : Int) + w5.bits.toInt) 64, 0))).1.v,
          (warm.atomLocal 0 0 3 0x101000 leaf0 8 (fun old => some (trunc ((old : Int) + w5.bits.toInt) 64, 0))).1.tags, none⟩,
          added.reading 0 B false false)) ∧ added.threads = warm.threads := by
  have hk := atomLocal_keeps (s := warm) 0 0 0x101000 leaf0 8 7 (fun old => some (trunc ((old : Int) + w5.bits.toInt) 64, 0)) warm_idle.1 warm_idle.2.1
    warm_idle.2.2.1 warm_idle.2.2.2.1 warm_idle.2.2.2.2.1 warm_idle.2.2.2.2.2 (by decide)
  refine ⟨fun B => ?_, hk.1⟩
  have e := atomLocal_note warm 0 (fun th => { th with opbuf := B, pendLapf := th.pendLapf || false, pendMis := th.pendMis || false }) 0 0
    0x101000 leaf0 8 (fun old => some (trunc ((old : Int) + w5.bits.toInt) 64, 0))
  rw [got_eta hk.2.2]
  exact e

theorem witness_QueueInstructions :
    (warm.gangs.find (gidOf 0) = some gang0 ∧ warm.Runs 0 [.r 3, .range 32 16, .r 5] [] gOn ∧
      warm.reads 0 [(5, .int)] = some ([w5], false, false) ∧ (∃ ws, warm.reads 0 ((List.range 16).map fun j => (32 + j, .any)) = some (ws, false, false)) ∧
      (warm.queue 7).st = .disabled) ∧
    (w5.bits.toNat ≤ 1023 ∧ ((launchQ 0).queue 7).st ≠ .disabled ∧ ((launchQ 0).queue 7).mode = 1 ∧ ((launchQ 0).queue 7).ctx = gang0.ctx ∧
      (launchQ 0).Gives 0 (reportLog 3) ⟨⟩ ∧ (launchQ 0).Turns (launchQ 0) 0 (releaseAt 3) ⟨⟩ false ∧
      ((launchQ 0).queue 7).untaken ≠ 2 ^ (((launchQ 0).queue 7).lg + 4)) ∧
    (((launchQ 16).queue 7).untaken = 2 ^ (((launchQ 16).queue 7).lg + 4) ∧ (launchQ 16).Turns (launchQ 16) 0 (releaseAt 3) ⟨⟩ false) ∧
    (warm.Runs 0 [.r 3, .even 10, .r 5] [] gOn ∧ warm.srcPair 0 10 .loAddr .hiAddr = some (0x1000, false, false) ∧
      warm.Gives 0 (checkMem 0x1000 8 8) (.glob 0x1000) ∧ warm.Gives 0 (reportLog 3) ⟨⟩ ∧ warm.Gives 0 (logLoad 0x1000 8 false) none ∧
      warm.Turns warm 0 (xlate 0x1000 .rmw) (0x101000, leaf0) false ∧ warm.Gives 0 (checkBrk 0x1000 8 true true) ⟨⟩ ∧ pteLink leaf0 = 0 ∧
      warm.Turns warm 0 (objectCheck false 0x101000 leaf0 0x1000 8 0 0) ⟨⟩ false ∧ warm.Turns warm 0 (releaseAt 3) ⟨⟩ false ∧
      (∃ v tg, ∀ B, (warm.reading 0 B false false).atomLocal (coreOf 0) gang0.ctx 3 0x101000 leaf0 8
        (fun old => some (trunc ((old : Int) + w5.bits.toInt) 64, 0)) = (⟨v, tg, none⟩, added.reading 0 B false false)) ∧ added.threads = warm.threads) ∧
    (warm.Runs 0 [.even 10, .r 5] [] gOn ∧
      warm.Turns bitSet 0 (cbsetMem (((0x1000 : DWord).toNat + 8 * (w5.bits.toNat / 64)) % 2 ^ 64) (2 ^ (w5.bits.toNat % 64))) ⟨⟩ false) := by
  have hw : ∃ ws, warm.reads 0 ((List.range 16).map fun j => (32 + j, .any)) = some (ws, false, false) :=
    ⟨List.replicate 8 f12 ++ List.replicate 8 ⟨0, .raw⟩, by decide⟩
  exact ⟨⟨warm_gang, runs_of (by decide), by decide, hw, by decide⟩,
    ⟨by decide, by decide, by decide, by decide, launch_report 0, launch_release 0, by decide⟩, ⟨by decide, launch_release 16⟩,
    ⟨runs_of (by decide), by decide, warm_glob 0x1000 8 8 (by decide) (by decide), warm_report, gives_logLoad (c := cur0) (g := gang0) 0x1000 8 false warm_cur warm_gang
      (by decide), warm_rmw, warm_has.brk .., by decide, warm_check 0, warm_release, ⟨_, _, warm_add.1⟩, warm_add.2⟩, runs_of (by decide), warm_cbset⟩

/-- RESAMPLE of the population's one thread: its operands, and what its arrival leaves. -/
def popKernel : Kernel := { placedKernel with desc := { placedKernel.desc with pmax := 1, pcount := 1 }, pop := some onePop }
theorem pop_cur : populated.cur = some cur0 := by decide
theorem pop_th : populated.threads.find 0 = some th0 := by decide
theorem pop_gang : populated.gangs.find (gidOf 0) = some gang0 := by decide
theorem pop_kernel : populated.kernels.find 0 = some popKernel := by decide

theorem pop_reads : ∃ B, resampleOps 12 4 0 false populated = .ok (0x3F800000, 5, 0, false) (populated.reading 0 B false false) := by
  obtain ⟨B, e, a⟩ := bits_run (s := populated) (B := []) (i := 12) (ts := .f32) (w := f12) pop_cur pop_th (State.agrees_nil _ _ _ _) (by decide)
  rw [reading_nil pop_th (by decide)] at e
  obtain ⟨B1, e1, -⟩ := bits_run (s := populated) (i := 4) (ts := .int) (w := w4) pop_cur pop_th a (by decide)
  refine ⟨B1, ?_⟩
  unfold resampleOps
  rw [bind_ok (show f32Src 12 populated = _ from e), bind_ok (show natSrc 4 (populated.reading 0 B false false) = _ from e1)]
  rfl

/-- Arrival at a population whose collective is empty: the kernel's population changes, and a check may stop every thread. -/
theorem pop_arrives (B : AMap TWord) (a : PopArr) : ∃ S', popArrive 0 a (some (5, 0, false)) (populated.reading 0 B false false) = .ok ⟨⟩ S' ∧
    S' = ((populated.reading 0 B false false).updPop 0 fun p => { p with st := .collecting, arrs := p.arrs ++ [a], record := some (5, 0, false) }).judgePop 0 := by
  have hk : (populated.reading 0 B false false).kernels.find 0 = some popKernel := pop_kernel
  refine ⟨_, ?_, rfl⟩
  unfold popArrive getKernel
  rw [bind_run, bind_run, get_run]
  simp only [hk]
  rfl

theorem judge_threads {s : State} (h : s.insts = []) (kern : Nat) : (s.judgePop kern).threads = s.threads := by
  have hp (k : Kernel) : s.popInsts kern k = [] := by simp [State.popInsts, h]
  have hs (k : Kernel) : s.sealFault kern k = none := by simp [State.sealFault, hp]
  unfold State.judgePop
  split
  · rfl
  · split
    · rfl
    · split
      · split
        · simp only [hs]; rfl
        · rfl
      · rfl

theorem arrive_cont {s : State} {th : Thread} (hi : s.insts = []) (ht : s.threads.find 0 = some th) (hc : th.cont = .none) (B : AMap TWord)
    (f : Pop → Pop) : ∀ y, (((s.reading 0 B false false).updPop 0 f).judgePop 0).threads.find 0 = some y → y.cont = .none := by
  intro y hy
  rw [judge_threads (show ((s.reading 0 B false false).updPop 0 f).insts = [] from hi)] at hy
  change (s.threads.upd 0 _).find 0 = some y at hy
  rw [AMap.find_upd, if_pos rfl, ht] at hy
  cases hy
  exact hc

theorem witness_Resample :
    ((3 : Nat) ≠ 0) ∧
    (populated.threads.find 0 = some th0 ∧ populated.gangs.find (gidOf 0) = some gang0 ∧ populated.kernels.find gang0.kern = some popKernel ∧
      populated.Runs 0 [.r 3, .r 12, .r 4] [] gOn ∧ popKernel.isMember gang0.gidx = true ∧ th0.inh = false ∧ (∀ e, e ∈ th0.bt → e = 0) ∧ th0.loads = [] ∧
      populated.Gives 0 (reportLog 3) ⟨⟩ ∧ populated.Turns populated 0 (releaseAt 3) ⟨⟩ false ∧
      ∃ B S', resampleOps 12 4 0 false populated = .ok (0x3F800000, 5, 0, false) (populated.reading 0 B false false) ∧
        popArrive gang0.kern { t := 0, pc := th0.pc, rep := th0.repNo, abst := false, w := 0x3F800000, d := 3 } (some (5, 0, false))
          (populated.reading 0 B false false) = .ok ⟨⟩ S' ∧ ∀ y, S'.threads.find 0 = some y → y.cont = .none) := by
  obtain ⟨B, hB⟩ := pop_reads
  obtain ⟨S', hS, rfl⟩ := pop_arrives B { t := 0, pc := th0.pc, rep := th0.repNo, abst := false, w := 0x3F800000, d := 3 }
  exact ⟨by decide, pop_th, pop_gang, pop_kernel, runs_of (by decide), by decide, by decide, by decide, by decide,
    gives_reportLog (c := cur0) (th := th0) 3 pop_cur pop_th (by decide),
    gives_releaseAt (c := cur0) (g := gang0) 3 pop_cur pop_gang (by decide) (by decide) (by decide), B, _, hB, hS, arrive_cont (by decide) pop_th (by decide) B _⟩

/-- A gang with handles: 0 BF16, 1 INT8 with a scale table at 0x10, 4 FP32, all at address 0; and its instance. -/
def handled3 : Gang := { ganged with handles := [(0, 0), (2, 2 ^ 129 + 2 ^ 196), (4, 2 ^ 130 + 2 ^ 96 + 2 ^ 112)] }
def tiled (x : GInst) (f : Thread → Thread) : State := ({ base with gangs := [(0, handled3)], insts := [(0, x)] } : State).updThread 0 f
def asIs : Thread → Thread := fun y => y
/-- The instance with one tile operation outstanding in slot 1, and one with large slots. -/
def instBusy : GInst := { inst0 with slots := [(1, { TileSlot.fresh with ops := [(0, .clear 0)], next := 1 })] }
def instWide : GInst := { inst0 with tileBytes := 1048576, tile := some (Alloc.new .refreshed 0 256 0) }

theorem tile_slot (x : GInst) (f : Thread → Thread) : (tiled x f).InSlot 0 0 0 x := ⟨handled3, rfl, rfl, rfl⟩

theorem tile_desc (x : GInst) {n d : Nat} (h : handled3.handles.find n = some d) : handleDesc n (tiled x asIs) = .ok d (tiled x asIs) := by
  have hg : gang (tiled x asIs) = .ok handled3 (tiled x asIs) := rfl
  unfold handleDesc
  rw [bind_ok hg]
  simp only [h]
  rfl

def d2 : Nat := 2 ^ 129 + 2 ^ 196
def d4 : Nat := 2 ^ 130 + 2 ^ 96 + 2 ^ 112

theorem tile_th (x : GInst) : (tiled x asIs).threads.find 0 = some th0 := by
  show (base.threads.upd 0 asIs).find 0 = some th0
  rw [AMap.find_upd, if_pos rfl, th0_is]
  rfl

theorem tile_nil (x : GInst) : (tiled x asIs).reading 0 [] false false = tiled x asIs := reading_nil (tile_th x) (by decide)

/-- The reads of TSCALE, and of TMMA and TMMQ. -/
def readsScale : M (TBase × TBase) := do
  let p ← baseOpnd (.hnd 4)
  let q ← baseOpnd (.hnd 4)
  pure (p, q)
def readsMul (fmt bytes n : Nat) : M (TSrc × TSrc) := do
  let u ← mulOpnd fmt bytes (← pairOpnd (.hnd n))
  let v ← mulOpnd fmt bytes (← pairOpnd (.hnd n))
  pure (u, v)

theorem tile_scale : readsScale (tiled inst0 asIs) = .ok (.stab d4, .stab d4) ((tiled inst0 asIs).reading 0 [] false false) := by
  rw [tile_nil]
  have e : baseOpnd (.hnd 4) (tiled inst0 asIs) = .ok (.stab d4) (tiled inst0 asIs) := by
    show (handleDesc 4 >>= fun d => (pure (.stab d) : M TBase)) (tiled inst0 asIs) = _
    rw [bind_ok (tile_desc inst0 (n := 4) (d := d4) (by decide))]
    rfl
  unfold readsScale
  rw [bind_ok e, bind_ok e]
  rfl

theorem tile_mul (x : GInst) {fmt bytes n d : Nat} (h : handled3.handles.find n = some d) (hf : (dFmt d == fmt) = true) :
    readsMul fmt bytes n (tiled x asIs) = .ok (.desc d, .desc d) ((tiled x asIs).reading 0 [] false false) := by
  rw [tile_nil]
  have e : pairOpnd (.hnd n) (tiled x asIs) = .ok (.desc d) (tiled x asIs) := by
    show (handleDesc n >>= fun d => (pure (.desc d) : M TVal)) (tiled x asIs) = _
    rw [bind_ok (tile_desc x h)]
    rfl
  have e' : mulOpnd fmt bytes (.desc d) (tiled x asIs) = .ok (.desc d) (tiled x asIs) := by
    show (if (dFmt d == fmt) = true then (pure (.desc d) : M TSrc) else illegal) (tiled x asIs) = _
    rw [if_pos hf]
    rfl
  unfold readsMul
  rw [bind_ok e, bind_ok e', bind_ok e, bind_ok e']
  rfl

theorem scr_load32 : base.Gives 0 (loadMem 0xFF00000000000100 32 false false 0 .plain) (⟨0, 0, none⟩, false) := by
  unfold loadMem
  refine gives_bind (scr_check 0xFF00000000000100 32 32 0x100 (by decide) (by decide) (by decide) rfl) ?_
  exact gives_bind (base_brk ..)
    (gives_bind (scr_read 0x100 32 0xFF00000000000100 0 (by decide) (by decide) (by decide) (by decide)) (turns_pure ..))

theorem witness_TileSlots :
    (base.threads.find 0 = some th0 ∧ base.Runs 0 [.even 8] [] gOn ∧ base.srcPair 0 8 .loAddr .hiAddr = some (0xFF00000000000100, false, false) ∧
      (0xFF00000000000100 : Nat) / 2 ^ 56 ≠ 254 ∧ base.Turns base 0 (loadMem 0xFF00000000000100 32 false false 0 .plain) (⟨0, 0, none⟩, false) false ∧
      badDesc 0 = false) ∧
    ((tiled inst0 asIs).InSlot 0 0 0 inst0 ∧ 3 < inst0.nslots ∧ (inst0.slot 3).fault = none ∧ (tiled inst0 asIs).Runs 0 [] [] gOn ∧
      (tiled inst0 asIs).waitOver 0 th0 (.tiles 0 3 (inst0.slot 3).next ((tiled inst0 asIs).signedBy 0 0 3)) = true) ∧
    ((tiled instBusy asIs).InSlot 0 0 0 instBusy ∧ (tiled instBusy asIs).Runs 0 [] [] gOn ∧ (instBusy.slot 1).fault = none ∧
      (tiled instBusy asIs).waitOver 0 th0 (.tiles 0 1 (instBusy.slot 1).next ((tiled instBusy asIs).signedBy 0 0 1)) = false) ∧
    ((tiled inst0 slept).InSlot 0 0 0 inst0 ∧ (tiled inst0 slept).Resumes 0 [] [] gOn true (.tok 0)) ∧
    (handleOpnd (.hnd 4) (tiled inst0 asIs) = .ok d4 ((tiled inst0 asIs).reading 0 [] false false) ∧ dFmt d4 = 4) ∧
    readsScale (tiled inst0 asIs) = .ok (.stab d4, .stab d4) ((tiled inst0 asIs).reading 0 [] false false) :=
  ⟨⟨th0_is, runs_of (by decide), by decide, by decide, scr_load32, by decide⟩, ⟨tile_slot .., by decide, by decide, runs_of (by decide), by decide⟩,
    ⟨tile_slot .., runs_of (by decide), by decide, by decide⟩, ⟨tile_slot .., resumes_of (by decide)⟩,
    ⟨by rw [tile_nil]; exact tile_desc inst0 (by decide), by decide⟩, tile_scale⟩

/-- An instance whose convergence register 1 holds a signature of thread `u` for a multiply. -/
def snap0 : Snap := { q := false, m := false, acc := 0, src := 3, a := .desc 0, b := .desc 0, gs := 0 }
def instSigned (u : Nat) (z : Snap) : GInst := { inst0 with cvs := [(1, { phase := false, signers := [(u, false)], snap := some z })] }
def gOff : Guard := ⟨true, 0⟩

theorem witness_TileSigning :
    ((tiled inst0 asIs).InSlot 0 0 0 inst0 ∧ 0 < inst0.nslots ∧ 1 < inst0.ncv ∧ (inst0.slot 0).fault = none ∧ (inst0.cv 1).signers = [] ∧
      (inst0.cv 1).snap = none ∧ (tiled inst0 asIs).Runs 0 [] [] gOn ∧
      readsMul 0 4096 0 (tiled inst0 asIs) = .ok (.desc 0, .desc 0) ((tiled inst0 asIs).reading 0 [] false false)) ∧
    ((tiled instWide asIs).InSlot 0 0 0 instWide ∧ instWide.stride = 65536 ∧ 0 < instWide.nslots ∧
      readsMul 2 4224 2 (tiled instWide asIs) = .ok (.desc d2, .desc d2) ((tiled instWide asIs).reading 0 [] false false)) ∧
    ((tiled (instSigned 1 snap0) asIs).InSlot 0 0 0 (instSigned 1 snap0) ∧ (∀ e, e ∈ ((instSigned 1 snap0).cv 1).signers → e.1 ≠ 0) ∧
      ((instSigned 1 snap0).cv 1).snap = some snap0 ∧ ((instSigned 1 { snap0 with m := true }).cv 1).snap = some { snap0 with m := true } ∧
      Snap.norm { snap0 with m := true } ≠ snap0.norm) ∧
    ((tiled inst0 asIs).Resumes 0 [] [] gOff false .none) ∧
    ((tiled (instSigned 0 snap0) asIs).insts.find 0 = some (instSigned 0 snap0) ∧ ((instSigned 0 snap0).cv 1).signers ≠ [] ∧
      ((instSigned 0 snap0).cv 1).snap = some snap0 ∧ ((instSigned 0 snap0).slot snap0.acc).fault = none ∧
      (∀ t, t ∈ (tiled (instSigned 0 snap0) asIs).liveOf 0 → ∃ e, e ∈ ((instSigned 0 snap0).cv 1).signers ∧ e.1 = t)) ∧
    (0 ∈ (tiled (instSigned 1 snap0) asIs).liveOf 0) := by
  have hl : (tiled (instSigned 0 snap0) asIs).liveOf 0 = [0] := by decide
  refine ⟨⟨tile_slot .., by decide, by decide, by decide, by decide, by decide, runs_of (by decide), tile_mul inst0 (by decide) (by decide)⟩,
    ⟨tile_slot .., by decide, by decide, tile_mul instWide (by decide) (by decide)⟩, ⟨tile_slot .., by decide, by decide, by decide, by decide⟩,
    ⟨cur0, th0, handled3, rfl, rfl, tile_th _, rfl, by decide, by decide, (fun h => by simp at h), by decide⟩, ⟨rfl, by decide, by decide, by decide, fun t h => ?_⟩, by decide⟩
  rw [hl] at h
  exact ⟨(0, false), by decide, (List.mem_singleton.mp h).symm⟩

/-- The tile gang with 0x100 in v4, the selector of one row from row 0, in the state with translations. -/
def handled4 : Gang := { handled3 with regs := (((with4 0x100).gangs.find 0).getD gang0).regs }
def tiledW (x : GInst) : State := { warm with gangs := [(0, handled4)], insts := [(0, x)] }
theorem regang_th {b : State} {th : Thread} (h : b.threads.find 0 = some th) (gs : AMap Gang) (is : AMap GInst) :
    ({ b with gangs := gs, insts := is } : State).threads.find 0 = some th := h
theorem regang_cur {b : State} (h : b.cur = some cur0) (gs : AMap Gang) (is : AMap GInst) :
    ({ b with gangs := gs, insts := is } : State).cur = some cur0 := h
theorem tw_th (x : GInst) : (tiledW x).threads.find 0 = some th0 := regang_th warm_th _ _
theorem tw_cur (x : GInst) : (tiledW x).cur = some cur0 := regang_cur warm_cur _ _
theorem tw_gang (x : GInst) : (tiledW x).gangs.find 0 = some handled4 := rfl
theorem tw_nil (x : GInst) : (tiledW x).reading 0 [] false false = tiledW x := reading_nil (tw_th x) (by decide)

def readsCvt : M ((Nat × Nat) × Nat) := do
  let p ← rowSel 4
  let q ← readAddr 8
  pure (p, q)
def readsStore : M (Nat × Nat × Nat) := do
  let p ← handleOpnd (.hnd 4)
  let q ← rowSel 4
  pure (p, q)

theorem tw_sel (B : AMap TWord) (hb : (tiledW inst0).Agrees 0 B false false) : ∃ B', rowSel 4 ((tiledW inst0).reading 0 B false false) =
    .ok (0, 1) ((tiledW inst0).reading 0 B' false false) ∧ (tiledW inst0).Agrees 0 B' false false := by
  obtain ⟨B', e, a⟩ := bits_run (s := tiledW inst0) (i := 4) (ts := .int) (w := ⟨0x100, .u32⟩) (tw_cur _) (tw_th _) hb (by decide)
  refine ⟨B', ?_, a⟩
  unfold rowSel
  rw [bind_ok (show natSrc 4 ((tiledW inst0).reading 0 B false false) = _ from e)]
  rfl

theorem tw_cvt : ∃ B, readsCvt (tiledW inst0) = .ok ((0, 1), 0xFF00000000000100) ((tiledW inst0).reading 0 B false false) := by
  obtain ⟨B, e, a⟩ := tw_sel [] (State.agrees_nil _ _ _ _)
  rw [tw_nil] at e
  obtain ⟨B1, e1, -⟩ := pair_run (s := tiledW inst0) (i := 8) (lo := .loAddr) (hi := .hiAddr) (l := ⟨0x100, .w64l⟩) (h := ⟨0xFF000000, .w64h⟩)
    (v := 0xFF00000000000100) (tw_cur _) (tw_th _) a (by decide) (by decide) (by decide) (by decide)
  refine ⟨B1, ?_⟩
  unfold readsCvt
  rw [bind_ok e, bind_ok (show readAddr 8 ((tiledW inst0).reading 0 B false false) = _ from e1)]
  rfl

theorem tw_store : ∃ B, readsStore (tiledW inst0) = .ok (d4, 0, 1) ((tiledW inst0).reading 0 B false false) := by
  obtain ⟨B, e, -⟩ := tw_sel [] (State.agrees_nil _ _ _ _)
  rw [tw_nil] at e
  have h : handleOpnd (.hnd 4) (tiledW inst0) = .ok d4 (tiledW inst0) := by
    have hg : gang (tiledW inst0) = .ok handled4 (tiledW inst0) := by
      unfold gang curT
      rw [bind_run, bind_run, get_run]
      simp only [tw_cur]
      rfl
    show handleDesc 4 (tiledW inst0) = _
    unfold handleDesc
    rw [bind_ok hg]
    rfl
  refine ⟨B, ?_⟩
  unfold readsStore
  rw [bind_ok h, bind_ok e]
  rfl

theorem cureTile_nil (s : State) (i : Nat) : s.cureTile i [] = s := by
  unfold State.cureTile
  split
  · split <;> rfl
  · rfl

/-- The elements of an empty slot are zeros. -/
theorem gives_readElems {s : State} {t n : Nat} {x : GInst} {k tick : Nat} {f : Nat → FRes} (h : (x.slot k).tag = .empty) (hf : f 0 = (0, 0)) :
    ∀ es : List (Nat × Nat), s.Gives t (readElems n x k tick f es) (List.replicate es.length 0, 0)
  | [] => turns_pure ..
  | (i, j) :: es => by
    unfold readElems
    refine turns_get (m := do
      let r ← readElems n x k tick f es
      pure ((f 0).1 :: r.1, orf (f 0).2 r.2)) (fun _ _ => ?_) (gives_bind (gives_readElems h hf es) ?_)
    · have e (no : Nat) : slotElem x k tick no i j = .ok (0, false) := by simp [slotElem, h]
      have e2 : elemRow x k i j = [] := by simp [elemRow, h]
      simp only [e, e2, cureTile_nil]
      rfl
    · rw [hf]
      have e : orf 0 0 = 0 := by decide
      simp only [e]
      exact turns_pure (s := s) (t := t) (a := (List.replicate (es.length + 1) 0, 0))

theorem turns_endTurn {s : State} {c : Cur} {g : Gang} {x : GInst} {i acc : Nat} (hc : s.cur = some c) (hg : s.gangs.find (gidOf c.t) = some g)
    (hi : s.insts.find i = some x) (hp : (s.ctx g.ctx).pend = none) : ∃ S', s.Turns S' c.t (endTurn i acc) ⟨⟩ false := by
  let G : State → State := fun s => (match s.insts.find i with
    | some x => s.setSlot i acc { x.slot acc with ops := (x.slot acc).ops.filter fun o => o.2.owner != some c.t }
    | none => s).finishStop g.ctx
  have hG : s.Turns (G s) c.t (modify G) ⟨⟩ false := by
    have e : G s = s.setSlot i acc { x.slot acc with ops := (x.slot acc).ops.filter fun o => o.2.owner != some c.t } := by
      simp only [G, hi, State.finishStop]
      rw [show ((s.setSlot i acc _).ctx g.ctx).pend = none from hp]
    refine turns_modify ?_ ?_ fun f => ?_
    · rw [e]; rfl
    · rw [e]; rfl
    · rw [e]
      have hi' : (s.updThread c.t f).insts.find i = some x := hi
      simp only [G, hi', State.finishStop]
      rw [show (((s.updThread c.t f).setSlot i acc _).ctx g.ctx).pend = none from hp]
      rfl
  refine ⟨G s, ?_⟩
  unfold endTurn
  exact gives_bind (gives_curT hc) (gives_bind (gives_gang hc hg) hG)

/-- A shared-class write by a core that keeps no line: what it leaves alone, and that it minds no note. -/
theorem shared_keeps {s : State} (core c pa n v : Nat) (b : Bool) (hm : s.mcwins = []) (hc : (s.core core).cache = []) :
    let S := s.sharedWrite core c pa n v 0 b
    (S.threads = s.threads ∧ S.cur = s.cur ∧ S.gangs = s.gangs ∧ S.insts = s.insts ∧ S.ctxs = s.ctxs) ∧
    ∀ t f, (s.updThread t f).sharedWrite core c pa n v 0 b = S.updThread t f := by
  have el : (s.line core (pa / 128)).dirty = 0 := by simp only [State.line, hc]; rfl
  have k1 : s.cleanLine core (pa / 128) = s := by simp [State.cleanLine, el]
  let K (x y : State) : Prop := x.threads = y.threads ∧ x.cur = y.cur ∧ x.gangs = y.gangs ∧ x.insts = y.insts ∧ x.ctxs = y.ctxs
  have kt {x y z : State} (h : K x y) (h' : K y z) : K x z :=
    ⟨h.1.trans h'.1, h.2.1.trans h'.2.1, h.2.2.1.trans h'.2.2.1, h.2.2.2.1.trans h'.2.2.2.1, h.2.2.2.2.trans h'.2.2.2.2⟩
  have hk (k : Nat) : ∀ x : State, K (x.putTags (pa / 8) 0 k) x := by
    induction k with
    | zero => exact fun x => ⟨rfl, rfl, rfl, rfl, rfl⟩
    | succ k ih => exact fun x => kt (ih (x.setTagAt (8 * (pa / 8 + k)) (bit 0 k))) ⟨rfl, rfl, rfl, rfl, rfl⟩
  have hw : K (s.homeWrite c pa n v 0 b) s := by
    have e : K ((s.physSet c n pa v).curePoison pa n) s := by
      rw [State.physSet_plain hm]
      unfold State.curePoison
      split <;> exact ⟨rfl, rfl, rfl, rfl, rfl⟩
    unfold State.homeWrite
    split
    · exact kt (hk ..) e
    · exact e
  have hd (x : State) (l m : Nat) : K (x.dropBytes core l m) x := by
    unfold State.dropBytes
    split <;> exact ⟨rfl, rfl, rfl, rfl, rfl⟩
  refine ⟨?_, fun t f => sharedWrite_note ..⟩
  unfold State.sharedWrite
  rw [k1]
  exact kt (hd ..) hw

/-- One line of four bytes at VA 0 stored from an empty slot. -/
theorem turns_storeLine {s : State} {c : Cur} {th : Thread} {g : Gang} {x : GInst} {acc pa pte : Nat} (hc : s.cur = some c)
    (ht : s.threads.find c.t = some th) (hg : s.gangs.find (gidOf c.t) = some g) (hi : s.insts.find 0 = some x) (hm : s.mcwins = [])
    (hl : g.slog = []) (hx : s.xlate (dieOfCore (coreOf c.t)) g.ctx 0 .store = (.ok pa pte, s)) (hp : pteLink pte = 0)
    (hb : s.Gives c.t (checkBrk 0 4 false true) ⟨⟩) (hs : s.storeCheck (coreOf c.t) false (s.ownerOf (coreOf c.t)) pa 4 = none)
    (he : (x.slot acc).tag = .empty) (hk : (s.core (coreOf c.t)).cache = []) (hch : lineChunks (4 / 128 + 2) pa 4 = [(pa, 4)]) :
    ∃ S, s.Turns S c.t (storeLine 0 acc d4 (0, 0, 1)) ⟨⟩ false ∧ S.threads = s.threads ∧ S.cur = s.cur ∧ S.gangs = s.gangs ∧ S.insts = s.insts ∧
      S.ctxs = s.ctxs := by
  have hw := shared_keeps (s := s) (coreOf c.t) g.ctx pa 4 (wordsBlock 32 [0] % 2 ^ (8 * 4) / 2 ^ (8 * (pa - pa)) % 2 ^ (8 * 4)) (bit pte 55) hm hk
  refine ⟨s.sharedWrite (coreOf c.t) g.ctx pa 4 (wordsBlock 32 [0] % 2 ^ (8 * 4) / 2 ^ (8 * (pa - pa)) % 2 ^ (8 * 4)) 0 (bit pte 55), ?_, hw.1⟩
  have h1 : s.Gives c.t (storeSpans [(0, 4)]) [(0, pa, 4, pte)] := by
    unfold storeSpans
    rw [if_neg (by decide)]
    refine gives_bind (gives_gang hc hg) ?_
    rw [show g.logRegion 0 = false by simp [Gang.logRegion, hl], if_neg (by decide)]
    exact gives_bind (gives_xlate hc hg hx) (gives_bind (turns_pure ..) (turns_pure ..))
  have h2 : s.Gives c.t (checkSpans [(0, pa, 4, pte)]) ⟨⟩ := by
    unfold checkSpans
    refine gives_bind hb ?_
    simp only [hp, isHost]
    refine gives_bind (gives_sharedCheck hc ht hs) ?_
    exact turns_pure ..
  have h3 : s.Gives c.t (instNow 0) x := by
    unfold instNow
    refine turns_get (m := pure x) (fun f _ => ?_) (turns_pure ..)
    rw [show (s.updThread c.t f).insts.find 0 = some x from hi]
  unfold storeLine
  rw [show dLine d4 0 0 1 = (0, 4) by decide]
  dsimp only
  rw [show spansOf 0 4 = [(0, 4)] by decide, show dFmt d4 = 4 by decide, show lineElems d4 (0, 0, 1) = [(0, 0)] by decide]
  refine gives_bind h1 (gives_bind h2 (gives_bind h3 (gives_bind (gives_now hc hg) ?_)))
  refine gives_bind (gives_readElems he (by simp [convElem, he]) [(0, 0)]) ?_
  have h4 : s.Turns (s.sharedWrite (coreOf c.t) g.ctx pa 4 (wordsBlock 32 [0] % 2 ^ (8 * 4) / 2 ^ (8 * (pa - pa)) % 2 ^ (8 * 4)) 0 (bit pte 55)) c.t
      (writeSpans (wordsBlock 32 [0]) [(0, pa, 4, pte)]) ⟨⟩ false := by
    unfold writeSpans
    rw [hch]
    have h5 : s.Turns (s.sharedWrite (coreOf c.t) g.ctx pa 4 (wordsBlock 32 [0] % 2 ^ (8 * 4) / 2 ^ (8 * (pa - pa)) % 2 ^ (8 * 4)) 0 (bit pte 55)) c.t
        (writePieces 0 pa pte (wordsBlock 32 [0] % 2 ^ (8 * 4)) [(pa, 4)]) ⟨⟩ false := by
      unfold writePieces writePiece
      simp only [hp]
      refine turns_bind (a := ⟨⟩) (z := false) (z' := false) ?_ (turns_pure ..)
      refine gives_bind (gives_curT hc) (gives_bind (gives_gang hc hg) ?_)
      rw [if_pos (by decide)]
      exact turns_modify (g := fun x => x.writeClass (coreOf c.t) g.ctx .shared pa pte 4
        (wordsBlock 32 [0] % 2 ^ (8 * 4) / 2 ^ (8 * (pa - pa)) % 2 ^ (8 * 4)) 0) hw.1.2.1 hw.1.1 (hw.2 c.t)
    exact turns_bind (z := false) (z' := false) h5 (turns_pure ..)
  refine turns_bind (z := false) (z' := false) h4 ?_
  have e (y : State) : (match y.insts.find 0 with
    | some x => if (0 / fQsat % 2 == 1) = true then y.setSlot 0 acc { x.slot acc with qsat := true } else y
    | none => y) = y := by
    split
    · rw [if_neg (by decide)]
    · rfl
  refine ⟨rfl, rfl, fun f _ => ?_⟩
  show EStateM.Result.ok _ _ = _
  exact congrArg (EStateM.Result.ok _) (e _)

theorem writeRow_for {s : State} {c : Cur} {g : Gang} {al : Alloc} {h : Home} {off n a v : Nat} (hc : s.cur = some c)
    (hg : s.gangs.find (gidOf c.t) = some g) (hh : s.allocAt h = some al)
    (hz : al.struckAt s.curNo (placesIn h (laneOf c.t) off n) = none)
    (hs : rowWriteStop al (s.tickOf g.ctx) a (placesIn h (laneOf c.t) off n) (partialPlaces h off n (placesIn h (laneOf c.t) off n)) = none)
    (hl : (scanPlaces al (s.tickOf g.ctx) (partialPlaces h off n (placesIn h (laneOf c.t) off n)) 0).lapse = false) :
    ∃ S, s.Turns S c.t (writeRow h off n a v) ⟨⟩ false := ⟨_, turns_writeRow hc hg hh hz hs hl⟩

/-- The instance whose slot 0 holds the operation of a TCVT, or of a TSTORE, of thread 0. -/
def instConv : GInst := { inst0 with slots := [(0, { TileSlot.fresh with ops := [(0, .conv 0 scrHome 512)], next := 1 })] }
def instStore : GInst := { inst0 with slots := [(0, { TileSlot.fresh with ops := [(0, .store 0 d4)], next := 1 })] }
theorem issue_in (b : State) (gs : AMap Gang) {x : GInst} {k : Nat} (op : TileOp) (h : (x.slot k).fault = none) :
    ({ b with gangs := gs, insts := [(0, x)] } : State).issueTile 0 k op =
      { b with gangs := gs, insts := [(0, { x with slots := x.slots.put k { x.slot k with ops := (x.slot k).ops ++ [((x.slot k).next, op)], next := (x.slot k).next + 1 } })] } := by
  have hx : ({ b with gangs := gs, insts := [(0, x)] } : State).insts.find 0 = some x := rfl
  unfold State.issueTile
  simp only [hx, h]
  rfl
theorem issue_conv : (tiledW inst0).issueTile 0 0 (.conv 0 scrHome 512) = tiledW instConv :=
  issue_in warm _ (x := inst0) (k := 0) (.conv 0 scrHome 512) (by decide)
theorem issue_store : (tiledW inst0).issueTile 0 0 (.store 0 d4) = tiledW instStore := issue_in warm _ (x := inst0) (k := 0) (.store 0 d4) (by decide)

theorem tw_place : (tiledW inst0).Gives 0 (scratchAt 0xFF00000000000100 256 128) (scrHome, 0x100) :=
  gives_scratchAt (c := cur0) (by decide) (scr_check (s := tiledW inst0) _ 256 128 0x100 (tw_cur _) (by decide) (by decide) (by rfl))
theorem tw_brk (x : GInst) (a n : Nat) (ld st : Bool) : (tiledW x).Gives 0 (checkBrk a n ld st) ⟨⟩ :=
  gives_checkBrk (c := cur0) (g := handled4) a n ld st (tw_cur _) (tw_th _) (tw_gang _) rfl

/-- The scratch after TCVT's row of zeros. -/
def scrZeros : Alloc := writePlaces scr 0 (placesIn scrHome 0 0x100 256) (leBytes 256 (wordsBlock 32 (List.replicate 64 0))) []
def converted : State := (tiledW instConv).setAllocAt scrHome scrZeros

theorem tw_write : (tiledW instConv).Turns converted 0 (writeRow scrHome 0x100 256 0xFF00000000000100 (wordsBlock 32 (List.replicate 64 0))) ⟨⟩ false :=
  turns_writeRow (s := tiledW instConv) (c := cur0) (g := handled4) (al := scr) (tw_cur _) (tw_gang _) rfl
    (struck_none _ _ (by decide)) (by decide) (by decide)

theorem tw_xlate : (tiledW instStore).xlate 0 0 0 .store = (.ok 0x100000 leaf0, tiledW instStore) := by
  have e : pteAddr leaf0 + 0 % 2 ^ levelShift 3 = 0x100000 := by decide
  have hh : homeDie 0x100000 = 0 := by decide
  rw [← e]
  refine xlate_hit (size := 65536) (pte := leaf0) (ent := 0x80000) (level := 3) (e := ⟨0, 0, 65536, leaf0, 0x80000⟩) (by decide) (by decide)
    (by decide) ⟨rfl, rfl, rfl⟩ (by decide) (by decide) (by decide) (fun _ => by decide) (by decide) (by decide) ?_ ?_
  · rw [e, hh]; decide
  · simp only [State.dieRefuses, e, hh]; decide

/-- Thread 0's sweep state in that state. -/
def swpIn (on : Bool) (s : State) : State := s.updThread 0 fun e => { e with swpAct := on, swpIter := 0 }

theorem swpIn_th {s : State} {th : Thread} (on : Bool) (h : s.threads.find 0 = some th) :
    (swpIn on s).threads.find 0 = some { th with swpAct := on, swpIter := 0 } := by
  unfold swpIn State.updThread
  rw [AMap.find_upd, if_pos rfl, h]
  rfl
theorem swpIn_cur {s : State} {c : Option Cur} (on : Bool) (h : s.cur = c) : (swpIn on s).cur = c := h
theorem swpIn_gang {s : State} {g : Option Gang} (on : Bool) (h : s.gangs.find 0 = g) : (swpIn on s).gangs.find 0 = g := h
theorem swpIn_inst {s : State} {x : Option GInst} (on : Bool) (h : s.insts.find 0 = x) : (swpIn on s).insts.find 0 = x := h
theorem swpIn_wins {s : State} (on : Bool) (h : s.mcwins = []) : (swpIn on s).mcwins = [] := h
theorem swpIn_pend {s : State} (on : Bool) (h : (s.ctx 0).pend = none) : ((swpIn on s).ctx 0).pend = none := h
theorem swpIn_cache {s : State} (on : Bool) (h : (s.core 0).cache = []) : ((swpIn on s).core 0).cache = [] := h
theorem storeCheckFrom_note {s : State} (t : Nat) (f : Thread → Thread) (core : Nat) (p : Bool) (w pa n : Nat) :
    ∀ m g, (s.updThread t f).storeCheckFrom core p w pa n m g = s.storeCheckFrom core p w pa n m g
  | 0, _ => rfl
  | m + 1, g => by
    simp only [State.storeCheckFrom, storeCheckFrom_note t f core p w pa n m]
    rfl
theorem swpIn_check {s : State} (on : Bool) {pa n : Nat} (h : s.storeCheck 0 false (s.ownerOf 0) pa n = none) :
    (swpIn on s).storeCheck 0 false ((swpIn on s).ownerOf 0) pa n = none := by
  rw [State.storeCheck, swpIn, storeCheckFrom_note]
  exact h
theorem rescratch_cur {s : State} {c : Option Cur} (x : Alloc) (h : s.cur = c) : (s.setAllocAt scrHome x).cur = c := h
theorem rescratch_inst {s : State} {x : Option GInst} (a : Alloc) (h : s.insts.find 0 = x) : (s.setAllocAt scrHome a).insts.find 0 = x := h
theorem rescratch_pend {s : State} (a : Alloc) (h : (s.ctx 0).pend = none) : ((s.setAllocAt scrHome a).ctx 0).pend = none := h
theorem rescratch_gang {s : State} {g : Gang} (a : Alloc) (h : s.gangs.find 0 = some g) :
    (s.setAllocAt scrHome a).gangs.find 0 = some { g with scratch := a } := by
  show (s.gangs.upd 0 _).find 0 = _
  rw [AMap.find_upd, if_pos rfl, h]
  rfl
theorem tw_inst (x : GInst) : (tiledW x).insts.find 0 = some x := rfl

theorem tw_wins (x : GInst) : (tiledW x).mcwins = [] := rfl
theorem tw_pend (x : GInst) : ((tiledW x).ctx 0).pend = none := by rfl
theorem tw_cache (x : GInst) : ((tiledW x).core 0).cache = [] := by rfl
theorem tw_hit (x : GInst) : ((tiledW x).ctx 0).dataHit 0 4 false true = none := by rfl
theorem swpIn_hit {s : State} (on : Bool) (h : (s.ctx 0).dataHit 0 4 false true = none) : ((swpIn on s).ctx 0).dataHit 0 4 false true = none := h
theorem tw_check : (tiledW instStore).storeCheck 0 false ((tiledW instStore).ownerOf 0) 0x100000 4 = none := by decide

theorem swpIn_xlate {s : State} (on : Bool) (h : s.xlate 0 0 0 .store = (.ok 0x100000 leaf0, s)) :
    (swpIn on s).xlate 0 0 0 .store = (.ok 0x100000 leaf0, swpIn on s) := by
  unfold swpIn
  rw [xlate_note, h]

theorem tw_line : ∃ S S', (swpIn true (tiledW instStore)).Turns S 0 (storeLine 0 0 d4 (0, 0, 1)) ⟨⟩ false ∧
    (swpIn false S).Turns S' 0 (endTurn 0 0) ⟨⟩ false := by
  have hc := swpIn_cur true (tw_cur instStore)
  have ht := swpIn_th true (tw_th instStore)
  have hg := swpIn_gang true (tw_gang instStore)
  have hi := swpIn_inst true (tw_inst instStore)
  have hm := swpIn_wins true (tw_wins instStore)
  have hp := swpIn_pend true (tw_pend instStore)
  have hk := swpIn_cache true (tw_cache instStore)
  have hs := swpIn_check true tw_check
  have hx := swpIn_xlate true tw_xlate
  have hh := swpIn_hit true (tw_hit instStore)
  generalize swpIn true (tiledW instStore) = w at *
  obtain ⟨S, h, -, kc, kg, ki, kq⟩ := turns_storeLine (s := w) (c := cur0) (g := handled4) (x := instStore) (acc := 0)
    (pa := 0x100000) (pte := leaf0) hc ht hg hi hm rfl hx (by decide)
    (gives_checkBrk (c := cur0) (g := handled4) 0 4 false true hc ht hg hh) hs (by decide) hk (by decide)
  obtain ⟨S', h'⟩ := turns_endTurn (s := swpIn false S) (c := cur0) (g := handled4) (x := instStore) (i := 0) (acc := 0)
    (swpIn_cur false (kc.trans hc)) (swpIn_gang false ((congrArg (·.find 0) kg).trans hg)) (swpIn_inst false ((congrArg (·.find 0) ki).trans hi))
    (swpIn_pend false (by show ((S.ctxs.find 0).getD Ctx.init).pend = none; rw [kq]; exact hp))
  exact ⟨S, S', h, h'⟩

theorem tw_slot (x : GInst) : (tiledW x).InSlot 0 0 0 x := ⟨handled4, rfl, rfl, rfl⟩

theorem tw_elems : (tiledW instConv).Gives 0 (readElems 0 instConv 0 ((tiledW inst0).tickOf 0) (convElem .f32 (instConv.slot 0))
    ((List.range 1).flatMap fun r => (List.range 64).map fun j => (0 + r, j))) (List.replicate 64 0, 0) :=
  gives_readElems (s := tiledW instConv) (t := 0) (n := 0) (x := instConv) (k := 0) (tick := (tiledW inst0).tickOf 0) (f := convElem .f32 (instConv.slot 0))
    (by decide) (by decide) _

theorem tw_end : ∃ S', converted.Turns S' 0 (endTurn 0 0) ⟨⟩ false :=
  turns_endTurn (s := converted) (c := cur0) (g := { handled4 with scratch := scrZeros }) (x := instConv) (rescratch_cur _ (tw_cur _))
    (rescratch_gang _ (tw_gang _)) (rescratch_inst _ (tw_inst _)) (rescratch_pend _ (tw_pend _))

theorem witness_TileOutputs :
    ((tiledW inst0).threads.find 0 = some th0 ∧ (tiledW inst0).gangs.find (gidOf 0) = some handled4 ∧ (tiledW inst0).InSlot 0 0 0 inst0 ∧
      0 < inst0.nslots ∧ (inst0.slot 0).fault = none ∧ (inst0.slot 0).ops = []) ∧
    ((tiledW inst0).Runs 0 [.even 8, .r 4] [] gOn ∧
      (∃ B, (do let p ← rowSel 4
                let q ← readAddr 8
                pure (p, q) : M ((Nat × Nat) × Nat)) (tiledW inst0) = .ok ((0, 1), (0xFF00000000000100 : DWord).toNat) ((tiledW inst0).reading 0 B false false)) ∧
      (tiledW inst0).Gives 0 (scratchAt (0xFF00000000000100 : DWord).toNat (64 * 4 * 1) 128) (scrHome, 0x100) ∧
      (tiledW inst0).Gives 0 (checkBrk (0xFF00000000000100 : DWord).toNat (64 * 4 * 1) false true) ⟨⟩ ∧
      ((tiledW inst0).issueTile 0 0 (.conv 0 scrHome (0x100 + 64 * 4 * 1))).insts.find 0 = some instConv ∧
      ∃ rs S S', ((tiledW inst0).issueTile 0 0 (.conv 0 scrHome (0x100 + 64 * 4 * 1))).Gives 0
          (readElems 0 instConv 0 ((tiledW inst0).tickOf handled4.ctx) (convElem .f32 (instConv.slot 0))
            ((List.range 1).flatMap fun r => (List.range 64).map fun j => (0 + r, j))) (rs, 0) ∧
        ((tiledW inst0).issueTile 0 0 (.conv 0 scrHome (0x100 + 64 * 4 * 1))).Turns S 0
          (writeRow scrHome 0x100 (64 * 4 * 1) (0xFF00000000000100 : DWord).toNat (wordsBlock 32 rs)) ⟨⟩ false ∧ S.Turns S' 0 (endTurn 0 0) ⟨⟩ false) ∧
    ((tiledW inst0).Runs 0 (oneField (.hnd 4) ++ [.r 4]) [] gOn ∧
      (∃ B, (do let p ← handleOpnd (.hnd 4)
                let q ← rowSel 4
                pure (p, q) : M (Nat × Nat × Nat)) (tiledW inst0) = .ok (d4, 0, 1) ((tiledW inst0).reading 0 B false false)) ∧
      dFmt d4 = 4 ∧ th0.sweepStart = 0 ∧ storeLines d4 0 1 = [(0, 0, 1)] ∧
      ∃ S S', (swpIn true ((tiledW inst0).issueTile 0 0 (.store 0 d4))).Turns S 0 (storeLine 0 0 d4 (0, 0, 1)) ⟨⟩ false ∧
        (swpIn false S).Turns S' 0 (endTurn 0 0) ⟨⟩ false) := by
  have e1 : (0xFF00000000000100 : DWord).toNat = 0xFF00000000000100 := by decide
  obtain ⟨S', h'⟩ := tw_end
  obtain ⟨Z, Z', hz, hz'⟩ := tw_line
  rw [e1, issue_store, show (64 * 4 * 1 : Nat) = 256 by decide, show 0x100 + 256 = 512 by decide, issue_conv]
  exact ⟨⟨tw_th _, tw_gang _, tw_slot _, by decide, by decide, by decide⟩,
    ⟨runs_of (by decide), tw_cvt, tw_place, tw_brk .., tw_inst _, _, _, S', tw_elems, tw_write, h'⟩,
    runs_of (by decide), tw_store, by decide, by decide, by decide, Z, Z', hz, hz'⟩

/-- Thread 0's group of one in slot 0 of core 0, with NOP at its PC. -/
def grp0 : Group := ⟨0, 0, [0], [], []⟩
def inSlot : State := ({ warm with agenda := [.issue 0 0], cur := none } : State).updCore 0 fun k => { k with groups := [(0, grp0)] }
/-- That state as the issue of thread 0 begins. -/
def issuing : State :=
  { { inSlot with agenda := [], issueNo := inSlot.issueNo + 1 }.updCore 0 fun k =>
      { k with groups := k.groups.put 0 { grp0 with todo := [], hit := [], no := inSlot.issueNo }, genIssues := if 0 < 4 && true then satAdd k.genIssues 1 32 else k.genIssues,
               accIssues := if 0 == 4 && true then satAdd k.accIssues 1 32 else k.accIssues } with cur := some ⟨0, 0, 0⟩ }
def clause0 : Clause := ⟨0, 3, 0, false, 0, 0, 0, 0, 0⟩

theorem issuing_xlate : issuing.xlate 0 0 8 .fetch = (.ok 0x100008 leaf0, issuing) := by
  have e : pteAddr leaf0 + 8 % 2 ^ levelShift 3 = 0x100008 := by decide
  have hh : homeDie 0x100008 = 0 := by decide
  rw [← e]
  refine xlate_hit (size := 65536) (pte := leaf0) (ent := 0x80000) (level := 3) (e := ⟨0, 0, 65536, leaf0, 0x80000⟩) (by decide) (by decide)
    (by decide) ⟨rfl, rfl, rfl⟩ (by decide) (by decide) (by decide) (fun _ => by decide) (by decide) (by decide) ?_ ?_
  · rw [e, hh]; decide
  · simp only [State.dieRefuses, e, hh]; decide

theorem issuing_cur : issuing.cur = some cur0 := by decide
theorem issuing_th : issuing.threads.find 0 = some th0 := by decide
theorem issuing_gang : issuing.gangs.find (gidOf 0) = some gang0 := by decide

theorem brk_of {s : State} {c : Cur} {th : Thread} {g : Gang} {pc : Nat} (hc : s.cur = some c) (ht : s.threads.find c.t = some th)
    (hg : s.gangs.find (gidOf c.t) = some g) (hb : (s.ctx g.ctx).execHit pc = none) : execBrk pc s = .ok ⟨⟩ s := by
  have h1 : thread s = .ok th s := by
    show (curT >>= getThread) s = _
    rw [bind_ok (show curT s = .ok c.t s by unfold curT; rw [bind_run, get_run]; simp only [hc]; rfl)]
    unfold getThread
    rw [bind_run, get_run]
    simp only [ht]
    rfl
  have h2 : curCtx s = .ok (s.ctx g.ctx) s := by
    unfold curCtx
    rw [bind_ok (show gang s = .ok g s by
      show (do getGang (gidOf (← curT))) s = _
      rw [bind_ok (show curT s = .ok c.t s by unfold curT; rw [bind_run, get_run]; simp only [hc]; rfl)]
      unfold getGang
      rw [bind_run, get_run]
      simp only [hg]
      rfl)]
    rfl
  unfold execBrk
  rw [bind_ok h1, bind_ok h2]
  simp only [hb]
  split <;> rfl

theorem issuing_brk : execBrk 8 issuing = .ok ⟨⟩ issuing := brk_of issuing_cur issuing_th issuing_gang (by decide)

theorem issuing_fetch : fetchWord 8 issuing = .ok (0, false) issuing := by
  have h := gives_fetchWord (s := issuing) (c := cur0) (pc := 8) (pa := 0x100008) (pte := leaf0) (k := placedKernel) issuing_cur issuing_th issuing_gang
    (by decide) (by decide) (cont_ne (by decide)) (by decide) (by decide) (by decide) issuing_xlate (by decide) (by decide) (by decide)
  have e : (issuing.phys 8 0x100008, bit leaf0 55 && issuing.tagAt 0x100008) = (0, false) := by decide
  rw [e] at h
  have hn := h.2.2 _ (noting_reading [] false false)
  have hr : issuing.updThread cur0.t (fun th => { th with opbuf := [], pendLapf := th.pendLapf || false, pendMis := th.pendMis || false }) = issuing :=
    reading_nil issuing_th (by decide)
  rw [hr] at hn
  rw [hn]
  exact congrArg (EStateM.Result.ok (0, false)) (by simpa [Bool.or_false] using hr)

/-- A conduit whose closed, empty queue has a receiver to answer. -/
def cdShut : Conduit :=
  { core := 0, kern := 0, n := 0, buf := [], accepted := 0, spills := 0, refills := 0, peak := 0, left := 0, head := 0, tail := 0, closed := true,
    released := false, senders := [], recvs := [0], hold := none, fill := .ready, saved := false, save := none, noSave := false }

/-- That state with such a conduit, and no agenda. -/
def lagging : State := { inSlot with agenda := [], conduits := [(0, cdShut)] }

theorem witness_StepRunsDecoded :
    inSlot.off = false ∧
    (({ inSlot with agenda := [] } : State).agenda = [] ∧ ({ inSlot with agenda := [] } : State).cdDue = none ∧
      ({ inSlot with agenda := [] } : State).busySlot = some (0, 0)) ∧
    (lagging.agenda = [] ∧ lagging.off = false ∧ lagging.cdDue = some 0) ∧
    (inSlot.agenda = .issue 0 0 :: [] ∧ (inSlot.core 0).groups.find 0 = some grp0 ∧ (grp0.todo = [] ∧ grp0.members = 0 :: []) ∧
      inSlot.threads.find 0 = some th0 ∧ th0.clause = some clause0 ∧ th0.pc = 8 ∧ execBrk 8 issuing = .ok ⟨⟩ issuing ∧
      fetchWord 8 issuing = .ok (0, false) issuing ∧ decodeWord 0 = .ok (.nop gOn) ∧ (admitted (0 / 2 ^ 52)).contains clause0.cls = true ∧
      endsClause (.nop gOn) = false) ∧
    (∀ b, (State.reset.ctx b).pend = none) := by
  refine ⟨by decide, ⟨rfl, by decide, by decide⟩, ⟨rfl, by decide, by decide⟩, ⟨by decide, by decide, ⟨rfl, rfl⟩, by decide, by decide, by decide, issuing_brk, issuing_fetch, by decide, by decide,
    by decide⟩, ?_⟩
  exact fun b => rfl

/-- What an operation answers, when a test of it holds. -/
def okIf {ε σ α : Type} (r : EStateM.Result ε σ α) (p : α → Bool) : Bool := match r with | .ok a _ => p a | .error .. => false
theorem ok_if {ε σ α : Type} {r : EStateM.Result ε σ α} {p : α → Bool} (h : okIf r p = true) : ∃ a S, r = .ok a S ∧ p a = true := by
  cases r with
  | ok a S => exact ⟨a, S, rfl, h⟩
  | error e S => exact absurd h (by simp [okIf])

/-- A side log with a RED of 7 to 0x1000 at its head; and the page made a peer's. -/
def entry0 : SlEntry := { id := 0, line := 0x1000 / 128, op := .red .add 4 false, accs := [⟨0, 0, 0x1000, 4, 7, 0⟩], mark := 9, seq := none, fail := none,
                          asked := false, brk := false }
def logging (e : SlEntry) (f : State → State) : State := f { warm with gangs := [(0, { gang0 with slog := [e] })] }
def peered (s : State) : State := { s.physSet 0 8 0x80000 (leaf0 + 2 ^ 56 + 2 ^ 58) with dies := State.reset.dies, ctxs := s.ctxs.upd 0 fun x => { x with peers := 2 } }
def issuer (s : State) : State := { s with cur := some ⟨coreOfGid 0, 0, 32 * 0 + (entry0.accs.headD ⟨0, 0, 0, 0, 0, 0⟩).lane⟩ }

theorem log_here : okIf (replayEntry (entry0.askNo 0) entry0 (issuer (logging entry0 id))) (fun b => !b) = true := by decide
theorem log_there : okIf (replayEntry (entry0.askNo 0) entry0 (issuer (logging entry0 peered))) id = true := by decide

/-- Walks of the object at 0x2000: at its beginning, and at its end. -/
def walk0 (fresh : Bool) : Walk :=
  { id := 3, t := 0, ctx := 0, root := 0x2000, scope := 3, serial := 1, pass := 0, count := 0, disc := false, stack := [], fresh := fresh, log := false, held := none,
    fail := none, blk := none, claim := none, job := none }
def walking (w : Walk) : State := { warm with threads := [(0, { th0 with wait := some (.walk 3) })] }.updCore 0 fun c => { c with walkq := [w] }
theorem walk_goes : okIf (wStep 0 (walk0 true) (walking (walk0 true))) (fun r => !r.2) = true := by decide
theorem walk_ends : okIf (wStep 0 (walk0 false) (walking (walk0 false))) (fun r => r.2) = true := by decide

/-- An instance with rows and a clear at the head of slot 1; a conduit with a record in its ring. -/
def instClear : GInst := { instWide with slots := [(1, { TileSlot.fresh with ops := [(0, .clear 0)], next := 1 })] }
def cdRing : Conduit := { cd0 with accepted := 1, tail := 1 }

theorem ring_xlate : ∃ pa T, (withCd cdRing).devXlate cdRing.core ((withCd cdRing).cdCtx cdRing) ((withCd cdRing).cdSlot cdRing cdRing.head) .load = (.ok pa, T) ∧
    T.firstPoison pa 64 0 = none := by
  have h : (match (withCd cdRing).devXlate cdRing.core ((withCd cdRing).cdCtx cdRing) ((withCd cdRing).cdSlot cdRing cdRing.head) .load with
    | (.ok pa, T) => (T.firstPoison pa 64 0).isNone | _ => false) = true := by decide
  split at h
  · next pa T e => exact ⟨pa, T, e, Option.isNone_iff_eq_none.mp h⟩
  · exact absurd h (by decide)

theorem cd_moves : ∃ S, (withCd { cd0 with recvs := [0], buf := [rec1] }).cdMove 0 = some S ∧ S.cdMove 0 = none := by
  have h : (match (withCd { cd0 with recvs := [0], buf := [rec1] }).cdMove 0 with | some S => (S.cdMove 0).isNone | none => false) = true := by decide
  split at h
  · next S e => exact ⟨S, e, Option.isNone_iff_eq_none.mp h⟩
  · exact absurd h (by decide)

theorem witness_UnitsGoOn :
    ((logging entry0 id).gangs.find 0 = some { gang0 with slog := [entry0] } ∧ (logging entry0 id).replayDue 0 { gang0 with slog := [entry0] } entry0 = true ∧
      entry0.fail = none ∧ entry0.asked = false ∧ ∃ b S, replayEntry (entry0.askNo 0) entry0 (issuer (logging entry0 id)) = .ok b S ∧ (!b) = true) ∧
    ((logging entry0 peered).gangs.find 0 = some { gang0 with slog := [entry0] } ∧ (logging entry0 peered).replayDue 0 { gang0 with slog := [entry0] } entry0 = true ∧
      ∃ b S, replayEntry (entry0.askNo 0) entry0 (issuer (logging entry0 peered)) = .ok b S ∧ id b = true) ∧
    ((logging { entry0 with asked := true } id).replayDue 0 { gang0 with slog := [{ entry0 with asked := true }] } { entry0 with asked := true } = true) ∧
    (((walking (walk0 true)).core 0).walkq.head? = some (walk0 true) ∧ (walking (walk0 true)).walkRuns (walk0 true) = true ∧ (walk0 true).fail = none ∧
      (walk0 true).held = none ∧ (∃ r S, wStep 0 { walk0 true with blk := none } (walking (walk0 true)) = .ok r S ∧ (!r.2) = true) ∧
      ∃ r S, wStep 0 { walk0 false with blk := none } (walking (walk0 false)) = .ok r S ∧ r.2 = true) ∧
    ((walking (walk0 false)).threads.find 0 = some { th0 with wait := some (.walk 3) } ∧ (walking (walk0 false)).gangs.find (gidOf 0) = some gang0 ∧
      gang0.ctx = (walk0 false).ctx ∧ th0.cont = .none ∧ (walk0 false).log = false ∧ (walk0 false).job = none ∧ ((walking (walk0 false)).ctx 0).pend = none) ∧
    ((tiled instClear asIs).insts.find 0 = some instClear ∧ (instClear.slot 1).ops = [(0, .clear 0)] ∧ (instClear.slot 1).stuck = false ∧
      ((tiled instClear asIs).ctx instClear.ctx).st = .resident ∧ (instClear.slot 1).fault = none ∧ ((tiled instClear asIs).ctx instClear.ctx).pend = none ∧
      instClear.tile.isSome = true ∧ ∃ o S, tRun 0 instClear 1 ((tiled instClear asIs).tickOf instClear.ctx) (instClear.slot 1) (.clear 0) (tiled instClear asIs) = .ok o S) ∧
    ((withCd cdRing).conduits.find 0 = some cdRing ∧ ((withCd cdRing).ctx ((withCd cdRing).cdCtx cdRing)).st = .resident ∧
      (∃ S, (withCd { cd0 with recvs := [0], buf := [rec1] }).cdMove 0 = some S ∧ S.cdMove 0 = none) ∧ (withCd cd0).cdMove 0 = none ∧
      cdRing.released = false ∧ cdRing.saved = false ∧ cdRing.fill = .ready ∧ cdRing.buf.length < 32 ∧ cdRing.ring ≠ 0 ∧
      ∃ pa T, (withCd cdRing).devXlate cdRing.core ((withCd cdRing).cdCtx cdRing) ((withCd cdRing).cdSlot cdRing cdRing.head) .load = (.ok pa, T) ∧
        T.firstPoison pa 64 0 = none) :=
  ⟨⟨by decide, by decide, by decide, by decide, ok_if log_here⟩, ⟨by decide, by decide, ok_if log_there⟩, by decide,
    ⟨by decide, by decide, by decide, by decide, ok_if walk_goes, ok_if walk_ends⟩,
    ⟨by decide, by decide, by decide, by decide, by decide, by decide, by decide⟩,
    ⟨by decide, by decide, by decide, by decide, by decide, by decide, by decide, _, _, rfl⟩,
    by decide, by decide, cd_moves, by decide, by decide, by decide, by decide, by decide, by decide, ring_xlate⟩

/-! ### More of the hypotheses -/

/-- A state whose gang has an entry in its side log. -/
def logged (s : State) : State := s.updGang 0 fun g => { g with slog := [entry0] }
theorem logged_gang {s : State} {g : Gang} (h : s.gangs.find 0 = some g) : (logged s).gangs.find 0 = some { g with slog := [entry0] } := by
  show (s.gangs.upd 0 _).find 0 = _
  rw [AMap.find_upd, if_pos rfl, h]
  rfl

/-- `w4` names no header: 5 is not aligned. -/
theorem base_bad (n : Nat) (h : n % 8 = 5) : base.noHeaderAt 0 (n : Int) := .inr (.inr (.inl (by omega)))

theorem witness_Transfers_more :
    ((warmAs deep).Runs 0 [.r 3, .r 0] [] gOn ∧ (warmAs deep).reads 0 [(0, .int)] = some ([⟨0, .raw⟩], false, false)) ∧
    (base.noHeaderAt 0 ((th0.pc : Int) + 8 * (-2)) ∧ base.Runs 0 [] [] gOn ∧ base.Runs 0 [.r 3] [] gOn) ∧
    (base.reads 0 [(4, .int)] = some ([w4], false, false) ∧ base.noHeaderAt 0 (w4.bits.toNat : Int) ∧ base.Runs 0 [.r 4] [] gOn ∧
      base.Runs 0 [.r 3, .r 4] [] gOn ∧ th0.cdep ≠ 0) :=
  ⟨⟨runs_of (by decide), by decide⟩, ⟨.inl (by decide), runs_of (by decide), runs_of (by decide)⟩, by decide, base_bad _ (by decide), runs_of (by decide),
    runs_of (by decide), by decide⟩

theorem witness_FieldsBeforeGuard_more : checkFields 511 [.r 0] = none ∧ (511 < 512 ∧ 510 % 2 = 0 ∧ 510 < 511 ∧ 511 % 2 = 1) ∧
    (508 % 4 = 0 ∧ 508 + 3 ≤ 511 ∧ 509 % 4 ≠ 0 ∧ 510 < 508 + 3) ∧ (511 < 505 + (8 - 1) ∧ 504 + (8 - 1) ≤ 511) ∧
    checkFields gang0.nregs [.r 3, .r 512, .r 5] = some (.regbound, 512) ∧ checkFields gang0.nregs [.r 3, .r 4, .r 5, .r 512] = some (.regbound, 512) ∧
    checkFields gang0.nregs [.even 3, .r 4, .r 5, .even 6] = some (.illegal, 3) ∧ checkFields gang0.nregs [.even 2, .even 4, .even 5] = some (.illegal, 5) ∧
    checkFields gang0.nregs [.r 3, .r 4, .r 5] = none := by decide

theorem witness_SystemInstructions_more :
    (base.Runs 0 [.r 7] [] gOn ∧ base.reads 0 [(7, .int)] = some ([⟨64, .u32⟩], false, false) ∧ mtsAllowed th0.inh .fmode = true ∧ mtsFits .fmode 64 = false) ∧
    (base.Runs 0 [.even 10] [] gOn ∧ base.srcPair 0 10 .lo64 .hi64 = some (0x1000, false, false) ∧ Special.tick.wide = true ∧
      mtsAllowed th0.inh .tick = false) := ⟨⟨runs_of (by decide), by decide, by decide, by decide⟩, runs_of (by decide), by decide, by decide, by decide⟩

/-- `warm` with a posted store to a peer that is not acknowledged. -/
def posting : State := { warm with remops := [(0, ask0 true)] }

theorem remop_th {b : State} {th : Thread} (h : b.threads.find 0 = some th) (r : AMap RemOp) : ({ b with remops := r } : State).threads.find 0 = some th := h
theorem remop_gang {b : State} {g : Gang} (h : b.gangs.find 0 = some g) (r : AMap RemOp) : ({ b with remops := r } : State).gangs.find 0 = some g := h
theorem logged_th {s : State} {th : Thread} (h : s.threads.find 0 = some th) : (logged s).threads.find 0 = some th := h

theorem witness_FenceAndCache_more :
    ((logged warm).threads.find 0 = some th0 ∧ (logged warm).gangs.find (gidOf 0) = some { gang0 with slog := [entry0] } ∧ (logged warm).Runs 0 [] [] gOn ∧
      fenceRel .rel = true ∧ [entry0] ≠ []) ∧
    (posting.threads.find 0 = some th0 ∧ posting.gangs.find (gidOf 0) = some gang0 ∧ posting.Runs 0 [] [] gOn ∧ gang0.slog = [] ∧ posting.unacked = true) :=
  ⟨⟨logged_th warm_th, logged_gang warm_gang, runs_of (by decide), by decide, by decide⟩, remop_th warm_th _, remop_gang warm_gang _, runs_of (by decide), by decide, by decide⟩

/-- The group instance with a window of one page; and one that spans cores. -/
def instWin : GInst := { inst0 with window := some (Alloc.new .refreshed 0 1 0) }
def instSpan : GInst := { inst0 with span := true }

theorem witness_AddressChecks_more :
    (gang0.scratch.pages = 1 ∧ 0xFF00000000000FFC / 2 ^ 32 = 255 * 2 ^ 24 ∧ 0xFF00000000000FFC / 2 ^ 28 % 16 = 0 ∧ 0xFF00000000000FFC % 2 ^ 28 + 4 ≤ 4096 * 1 ∧
      4096 * 1 < 0xFF00000000000FF8 % 2 ^ 28 + 16 ∧ 4 < 0xFF00000050000000 / 2 ^ 28 % 16 ∧ 0xFF00000050000000 / 2 ^ 32 = 255 * 2 ^ 24) ∧
    (gang0.grp.getD (1 - 1) none = none ∧ 0xFF00000010000000 / 2 ^ 28 % 16 = 1) ∧
    ((grouped instWin).cur = some cur0 ∧ (grouped instWin).gangs.find (gidOf cur0.t) = some ganged ∧ ganged.grp.getD (1 - 1) none = some 0 ∧
      (grouped instWin).insts.find 0 = some instWin ∧ instWin.span = false ∧ instWin.window = some (Alloc.new .refreshed 0 1 0) ∧
      (Alloc.new .refreshed 0 1 0).pages = 1 ∧ (grouped instSpan).insts.find 0 = some instSpan ∧ instSpan.span = true) ∧
    (0xFE00000000000000 / 2 ^ 56 = 254 ∧ 0xFE00000000000000 % 2 ^ 56 + 4 ≤ 128 * gang0.stack.pages ∧ 128 * gang0.stack.pages < 0xFE00000000010000 % 2 ^ 56 + 4 ∧
      0xFE00000000010000 / 2 ^ 56 = 254) := by decide

/-- The state with a landing barrier and an entry in the gang's side log. -/
def xbLog : State := logged (atXb fun y => y)
theorem xl_gang : xbLog.gangs.find 0 = some { gangXb with slog := [entry0] } := logged_gang (xb_gang _)
theorem xl_th : xbLog.threads.find 0 = some th0 := xb_th
theorem xl_read : xbLog.Gives 0 (readRow scrHome 0x300 16 0xFF00000000000300) xb2 := by
  have h := gives_readRow (s := xbLog) (c := cur0) (g := { gangXb with slog := [entry0] }) (al := scrXb) (h := scrHome) (off := 0x300) (n := 16)
    (a := 0xFF00000000000300) rfl xl_gang (by decide) (struck_none _ _ (by decide)) (by decide) (by decide) (by decide) (hard_softAt _ (by decide))
  have e : leNat (readPlaces scrXb (xbLog.tickOf gangXb.ctx) (placesIn scrHome (laneOf cur0.t) 0x300 16)) = xb2 := by decide
  rw [e] at h
  exact h

theorem witness_LandingBarriers_more :
    xbLog.threads.find 0 = some th0 ∧ xbLog.gangs.find (gidOf 0) = some { gangXb with slog := [entry0] } ∧
    xbLog.srcPair 0 22 .loAddr .hiAddr = some (0xFF00000000000300, false, false) ∧ xbLog.reads 0 [(4, .int)] = some ([w4], false, false) ∧
    xbLog.Gives 0 (scratchAt 0xFF00000000000300 16 16) (scrHome, 0x300) ∧ xbLog.Turns xbLog 0 (readRow scrHome 0x300 16 0xFF00000000000300) xb2 false ∧
    xbZero xb2 = true ∧ xbLog.Runs 0 [.r 3, .even 22, .r 4] [] gOn ∧ xbLog.Gives 0 (checkBrk 0xFF00000000000300 16 true true) ⟨⟩ ∧ [entry0] ≠ [] :=
  ⟨xl_th, xl_gang, by decide, by decide, gives_scratchAt (c := cur0) (by decide)
    (gives_checkMem (c := cur0) (p := .scratch 0 0x300) (q := .row scrHome 0x300) rfl (by decide) (by decide) (by rfl)), xl_read, by decide, runs_of (by decide),
    gives_checkBrk (c := cur0) (g := { gangXb with slog := [entry0] }) _ _ _ _ rfl xl_th xl_gang rfl, by decide⟩

theorem cl_gives : (logged (withCd cd0)).Gives 0 (conduitAt 0) (0, cd0) := by
  unfold conduitAt
  refine gives_bind (gives_curT (c := cur0) rfl) (gives_bind (gives_gang (c := cur0) (g := { gang0 with slog := [entry0] }) rfl (logged_gang gang0_is))
    (gives_bind (gives_getKernel (x := cdKernel) (by rfl)) ?_))
  refine turns_get (m := pure (0, cd0)) (fun g _ => ?_) (turns_pure ..)
  have e : (((logged (withCd cd0)).updThread 0 g).conduits.find? fun e => e.2.kern == gang0.kern && e.2.core == coreOf cur0.t && e.2.n == 0 && !e.2.released) =
      some (0, cd0) := by
    show ([(0, cd0)] : List (Nat × Conduit)).find? _ = _
    rw [List.find?_cons_of_pos]
    decide
  simp only [e]

theorem witness_Conduits_more : (logged (withCd cd0)).Gives 0 (conduitAt 0) (0, cd0) ∧ (logged (withCd cd0)).Runs 0 [.r 3, .range 4 1] [] gOn ∧
    (logged (withCd cd0)).reads 0 ((List.range 1).map fun j => (4 + j, .any)) = some ([w4], false, false) ∧
    ∃ g, (logged (withCd cd0)).gangs.find (gidOf 0) = some g ∧ g.slog ≠ [] :=
  ⟨cl_gives, runs_of (by decide), by decide, _, logged_gang gang0_is, by decide⟩

theorem witness_TileSigning_more : (logged (tiled inst0 asIs)).InSlot 0 0 0 inst0 ∧ (∃ g, (logged (tiled inst0 asIs)).gangs.find (gidOf 0) = some g ∧ g.slog ≠ []) ∧
    (logged (tiled inst0 asIs)).Resumes 0 [] [] gOff false .none ∧ (logged (tiled inst0 asIs)).Runs 0 [] [] gOn ∧
    okIf (readsMul 0 4096 0 (logged (tiled inst0 asIs))) (fun e => decide (e = (.desc 0, .desc 0))) = true :=
  ⟨⟨_, logged_gang (g := handled3) rfl, rfl, rfl⟩, ⟨_, logged_gang (g := handled3) rfl, by decide⟩, off_of (by decide), runs_of (by decide), by decide⟩

/-- An instance whose slot 0 has another thread's TCVT before. -/
def instAhead : GInst := { inst0 with slots := [(0, { TileSlot.fresh with ops := [(0, .conv 1 scrHome 512)], next := 1 })] }

theorem witness_TileOutputs_more :
    ((tiledW instAhead).InSlot 0 0 0 instAhead ∧ (instAhead.slot 0).fault = none ∧ (instAhead.slot 0).ops ≠ [] ∧
      (∀ e, e ∈ (instAhead.slot 0).ops → e.2.owner ≠ some 0 ∧ e.1 < (instAhead.slot 0).next) ∧ (tiledW instAhead).Runs 0 [.even 8, .r 4] [] gOn ∧
      (tiledW instAhead).Runs 0 (oneField (.hnd 4) ++ [.r 4]) [] gOn) ∧
    ((tiledW instConv).InSlot 0 0 0 instConv ∧ (instConv.slot 0).ops = (0, .conv 0 scrHome 512) :: [] ∧ (tiledW instConv).Resumes 0 [.even 8, .r 4] [] gOn true .none ∧
      (tiledW instConv).insts.find 0 = some instConv) ∧
    ((tiledW instStore).InSlot 0 0 0 instStore ∧ (instStore.slot 0).ops = (0, .store 0 d4) :: [] ∧
      (tiledW instStore).Resumes 0 (oneField (.hnd 4) ++ [.r 4]) [] gOn true .none ∧
      ∃ B, rowSel 4 (tiledW instStore) = .ok (0, 1) ((tiledW instStore).reading 0 B false false)) := by
  refine ⟨⟨tw_slot _, by decide, by decide, by decide, runs_of (by decide), runs_of (by decide)⟩, ⟨tw_slot _, by decide, resumes_of (by decide), rfl⟩, tw_slot _, by decide,
    resumes_of (by decide), ?_⟩
  obtain ⟨B, e, -⟩ := bits_run (s := tiledW instStore) (B := []) (i := 4) (ts := .int) (w := ⟨0x100, .u32⟩) (tw_cur _) (tw_th _) (State.agrees_nil _ _ _ _) (by decide)
  rw [tw_nil] at e
  refine ⟨B, ?_⟩
  unfold rowSel
  rw [bind_ok (show natSrc 4 (tiledW instStore) = _ from e)]
  rfl

/-- The arrival of thread 0, which waits with a clone to come. -/
def cloned : PopArr := { t := 0, pc := 8, rep := 0, abst := false, w := 0x3F800000, d := 3 }
def crowd : State := { base with threads := (List.range 32).map fun t => (t, th0) }

theorem witness_Resample_more :
    ((([0, 1] : List Nat).Pairwise (· < ·)) ∧ coreOf 0 < 384 ∧ (∀ g, g ∈ [0, 1] → coreOfGid g < 384)) ∧
    (populated.kernels.find 0 = some popKernel ∧ popKernel.pop = some onePop ∧ populated.threads.find cloned.t = some th0 ∧
      populated.freeLane (searchOrder [0] cloned.t) = some 1 ∧ populated.gangs.find (gidOf cloned.t) = some gang0 ∧
      populated.gangs.find (gidOf 1) = some gang0 ∧ 0 < gang0.nregs) ∧ crowd.freeLane [0] = none := by decide

/-- The object at 0x2000 with scope 3. -/
def scopedObj : State := warm.physSet 0 16 0x102000 (setBits hd0 55 53 3)

theorem witness_ObjectUse_more :
    (warm.firstPoison 0x102000 16 0 = none ∧ hdrScope (warm.phys 16 0x102000) ≤ max 0 2) ∧
    (scopedObj.liveHeader 0x102000 = true ∧ scopedObj.firstPoison 0x102000 16 0 = none ∧ hdrScope (scopedObj.phys 16 0x102000) = 3 ∧ max 0 2 < 3 ∧
      scopedObj.otherWalk 0 (scopedObj.phys 16 0x102000) = none) := by decide

theorem witness_ContextCommands_more : (fineRec.ctx 1).st = .defined ∧ fineRec.boot = 10 ∧ fineRec.cxstsRes ≠ 15 ∧
    recordFine (fineRec.phys 128 (fineRec.ctxRec 1)) = true ∧ fineRec.firstPoison (fineRec.ctxRec 1) 128 0 = none := by decide

theorem witness_RegisterWrites_more :
    ((debugAt 1 16).dbgItem = 1 ∧ (Special.ofNum (debugAt 1 16).dbgIndex).isSome = true ∧ Special.ofNum (debugAt 1 999).dbgIndex = none ∧
      (debugAt 1 16).threads.find 0 = some th0 ∧ ((debugAt 1 16).ctx gang0.ctx).st = .halted) ∧ (4 : Nat) ≠ 8 ∧
    (linked.lostDev 1 = false ∧ bit (2 ^ 32) 32 = true ∧ bit 0 32 = false) := by decide

theorem witness_Shootdowns_more : ({ linked with ctxs := linked.ctxs.upd 0 fun x => { x with peers := 0 } } : State).refuses 1 0 = true ∧
    ({ linked with ctxs := linked.ctxs.upd 0 fun x => { x with peers := 0 } } : State).inUse 0 0x1000 65536 = false := by decide

/-- A firmware image, as far as the check of its header goes, and a device with step 2 to fail. -/
theorem witness_Resets_more : (up.isBridge = true ∧ ({ up with hostfn := 1 } : State).isBridge = false ∧ up.boot = 10) ∧
    (bit ({ up with brFail := 2 } : State).brFail 1 = true ∧ bit ({ up with brFail := 12 } : State).brFail 2 = true ∧
      bit ({ up with brFail := 12 } : State).brFail 3 = true) ∧ ({ up with recovery := true } : State).recovery = true ∧
    ((up.setDie 1 { Die.init with st := .flushing }).die 1).st = .flushing ∧ ((up.setDie 1 { Die.init with st := .resetting }).die 1).st = .resetting ∧
    ((up.setDie 1 { Die.init with st := .testing }).die 1).st = .testing := by decide

theorem witness_Health_more : (({ up with bridges := [1] } : State).boot = 10 ∧ ({ up with bridges := [1], boot := 5 } : State).boot ≠ 10 ∧ (1 < 12)) ∧
    (({ up with opLow := true } : State).opLow = true ∧ up.opLow = false ∧ 2400 * 1 < 2401 ∧ 2200 * 1 ≤ 2400 * 1) ∧
    (up.opNext.getD up.opUse = up.opUse) := by decide

theorem witness_Attestation_more : (Transport.doe = .doe → up.isBridge = true) ∧ (Transport.daxlink 3 = .doe → ({ up with hostfn := 1 } : State).isBridge = true) :=
  ⟨fun _ => by decide, nofun⟩

theorem witness_DecodeEncode_more : (inCode (.nop gOn) = true ∧ (Instr.nop gOn).wf = true ∧ inCode .thermalTrip = false) ∧
    (encode (.nop gOn) = some 0 ∧ decodeWord 0 = .ok (.nop gOn)) ∧
    ((1 : Nat) < 7 ∧ 1 ≤ 16 ∧ 4095 < 4096 ∧ 15 < 16 ∧ ((false : Bool) = false → (0 : Nat) = 0)) := by decide

/-- The other shapes of a sweep's iteration. -/
theorem sweep_out (dn : Nat) (uB : Bool) (h1 : 0xFF00000000000100 % dn = 0) (h2 : 0x100 + dn ≤ 4096)
    (h3 : rowWriteStop scr 0 0xFF00000000000100 (placesIn scrHome 0 0x100 dn) (partialPlaces scrHome 0x100 dn (placesIn scrHome 0 0x100 dn)) = none)
    (h4 : (scanPlaces scr 0 (partialPlaces scrHome 0x100 dn (placesIn scrHome 0 0x100 dn)) 0).lapse = false) :
    (swpAt0 base).SweepAt 0 dn false uB 0xFF00000000000100 0xFF00000000000200 0xFF00000000000300 0 sweep1 := by
  refine ⟨rfl, base_has.swp.sweepPlace _ dn 0x100 (by decide) (by decide) h1 h2, base_has.swp.brk .., by decide, struck_none _ _ scr_sound, h3,
    scrHome, 0x200, scrHome, 0x300, false, false, false,
    base_has.swp.sweepPlace _ 32 0x200 (by decide) (by decide) (by decide) (by decide), base_has.swp.brk ..,
    base_has.swp.read 0x200 32 0xFF00000000000200 0 (by decide) (by decide) (by decide) (by decide),
    fun _ => ⟨base_has.swp.sweepPlace _ 32 0x300 (by decide) (by decide) (by decide) (by decide), base_has.swp.brk ..,
      base_has.swp.read 0x300 32 0xFF00000000000300 0 (by decide) (by decide) (by decide) (by decide)⟩, fun _ => rfl, fun h => (by simp at h), fun _ => rfl, ?_⟩
  exact h4.symm

theorem sweep_sum : (swpAt0 base).SweepAt 0 4 true false 0xFF00000000000100 0xFF00000000000200 0 0 sweep1 :=
  ⟨rfl, base_has.swp.sweepPlace _ 4 0x100 (by decide) (by decide) (by decide) (by decide), base_has.swp.brk .., by decide, struck_none _ _ scr_sound, by decide,
    scrHome, 0x200, scrHome, 0x300, false, false, false,
    base_has.swp.sweepPlace _ 32 0x200 (by decide) (by decide) (by decide) (by decide), base_has.swp.brk ..,
    base_has.swp.read 0x200 32 0xFF00000000000200 0 (by decide) (by decide) (by decide) (by decide), fun h => by simp at h, fun _ => rfl,
    fun _ => base_has.swp.read 0x100 4 0xFF00000000000100 0 (by decide) (by decide) (by decide) (by decide), fun h => by simp at h, by decide⟩

theorem witness_Sweeps_more :
    (swpAt0 base).SweepAt 0 32 false true 0xFF00000000000100 0xFF00000000000200 0xFF00000000000300 0 sweep1 ∧
    (swpAt0 base).SweepAt 0 32 false false 0xFF00000000000100 0xFF00000000000200 0xFF00000000000300 0 sweep1 ∧
    (swpAt0 base).SweepAt 0 16 false false 0xFF00000000000100 0xFF00000000000200 0xFF00000000000300 0 sweep1 ∧
    (swpAt0 base).SweepAt 0 4 true false 0xFF00000000000100 0xFF00000000000200 0 0 sweep1 :=
  ⟨sweep_out 32 true (by decide) (by decide) (by decide) (by decide), sweep_out 32 false (by decide) (by decide) (by decide) (by decide),
    sweep_out 16 false (by decide) (by decide) (by decide) (by decide), sweep_sum⟩

end Sys2Proof.Tests
end

section
/-! LAWS. Memory keeps its canonical form (R1, R253; 12_memory): what is preserved, and the rules by which a computation
preserves it. Memory is written only through `State.withBytes`, so one lemma per operation, each from those of the operations
it calls, carries the form up to `step`. A function that only branches between such
operations is left to `grind` with their lemmas. In the other proofs `jp` is what a `do` block goes on with after a condition or a match. -/
namespace Sys2Proof.Machine

/-- The memory of a state is in canonical form. -/
def State.Canon (s : State) : Prop := Memory.wf s.mem = true

/-- An outcome whose next state, if there is one, is canonical. -/
def Canonical (o : Host.Outcome State Fault Refusal) : Prop := ∀ s, o = .next s → s.Canon

/-- The state a computation ends in. -/
def endState {ε α : Type} : EStateM.Result ε State α → State
  | .ok _ s => s
  | .error _ s => s

/-- A computation that leaves a canonical memory canonical, whichever way it ends. -/
structure Keeps {ε α : Type} (x : EStateM ε State α) : Prop where
  run : ∀ s : State, s.Canon → (endState (x s)).Canon

section
variable {ε α β : Type}

theorem State.Canon.of_ok {x : EStateM ε State α} {s s' : State} {a : α} (hx : Keeps x) (hs : s.Canon) (e : x s = .ok a s') : s'.Canon := by
  have := hx.run s hs; rwa [e] at this

theorem State.Canon.of_error {x : EStateM ε State α} {s s' : State} {a : ε} (hx : Keeps x) (hs : s.Canon) (e : x s = .error a s') : s'.Canon := by
  have := hx.run s hs; rwa [e] at this

theorem Keeps.pure (a : α) : Keeps (Pure.pure a : EStateM ε State α) := ⟨fun _ h => h⟩

theorem Keeps.throw (e : ε) : Keeps (throw e : EStateM ε State α) := ⟨fun _ h => h⟩

theorem Keeps.get : Keeps (get : EStateM ε State State) := ⟨fun _ h => h⟩

theorem Keeps.set {s : State} (hs : s.Canon) : Keeps (set s : EStateM ε State PUnit) := ⟨fun _ _ => hs⟩

theorem Keeps.modify {f : State → State} (hf : ∀ s : State, s.Canon → (f s).Canon) : Keeps (modify f : EStateM ε State PUnit) := ⟨hf⟩

theorem Keeps.bind {x : EStateM ε State α} {f : α → EStateM ε State β} (hx : Keeps x) (hf : ∀ a, Keeps (f a)) : Keeps (x >>= f) := by
  refine ⟨fun s hs => ?_⟩
  show (endState (EStateM.bind x f s)).Canon
  unfold EStateM.bind
  split
  · exact (hf _).run _ (.of_ok hx hs ‹_›)
  · exact .of_error hx hs ‹_›

/-- What follows a read of the state may use that the state read is canonical. -/
theorem Keeps.get_bind {f : State → EStateM ε State β} (hf : ∀ s : State, s.Canon → Keeps (f s)) : Keeps (MonadState.get >>= f) :=
  ⟨fun s hs => (hf s hs).run s hs⟩

theorem Keeps.ite {c : Prop} {_ : Decidable c} {x y : EStateM ε State α} (hx : Keeps x) (hy : Keeps y) : Keeps (if c then x else y) := by
  split
  · exact hx
  · exact hy

/-- A computation made under a condition, before the rest. -/
theorem Keeps.when {c : Prop} {_ : Decidable c} {x : EStateM ε State Unit} {k : Unit → EStateM ε State β} (hx : Keeps x)
    (hk : ∀ a, Keeps (k a)) : Keeps (if c then x >>= k else k ()) := .ite (.bind hx hk) (hk ())

end

theorem State.Canon.foldl {α : Type} {f : State → α → State} {l : List α} {s : State} (hs : s.Canon)
    (hf : ∀ s a, s.Canon → (f s a).Canon) : (l.foldl f s).Canon := by
  induction l generalizing s with
  | nil => exact hs
  | cons a l ih => exact ih (hf s a hs)

theorem State.Canon.withBytes {s : State} {n pa v} (hs : s.Canon) : (s.withBytes n pa v).Canon := Memory.wf_setBytes hs

theorem State.Canon.physSet {s : State} {c n pa v} (hs : s.Canon) : (s.physSet c n pa v).Canon := State.physSet_wf hs c n pa v

/-- The state of a pair that is known to be canonical, under the names that a case split gives it. -/
theorem State.Canon.of_eq {α : Type} {p : α × State} {a : α} {s' : State} (hp : p.2.Canon) (e : p = (a, s')) : s'.Canon := by
  rw [e] at hp; exact hp

theorem Canonical.next {s : State} (hs : s.Canon) : Canonical (.next s) := fun _ e => by cases e; exact hs

theorem Canonical.fault (f : Fault) : Canonical (.fault f) := nofun

theorem Canonical.refused (r : Refusal) : Canonical (.refused r) := nofun

theorem State.Canon.ite {c : Prop} {_ : Decidable c} {a b : State} (ha : a.Canon) (hb : b.Canon) : (if c then a else b).Canon := by
  split
  · exact ha
  · exact hb

theorem State.Canon.setCur {s : State} {c} (hs : s.Canon) : ({ s with cur := c } : State).Canon := hs

end Sys2Proof.Machine

end

section
/-! LAWS. Canonical memory: byte memory in canonical form. -/

namespace Sys2Proof.Machine

theorem State.Canon.sendReq {s : State} {dst ctx ty payload} (hs : s.Canon) : (s.sendReq dst ctx ty payload).Canon := hs

theorem State.Canon.mcSend {s : State} {c la mask data win l} (hs : s.Canon) : (s.mcSend c la mask data win l).Canon := by
  fun_induction State.mcSend <;> grind [!State.Canon.sendReq, State.Canon]

theorem State.Canon.multicast {s : State} {c la mask data x} (hs : s.Canon) : (s.multicast c la mask data x).Canon := by
  fun_induction State.multicast <;> grind [!State.Canon.mcSend, State.Canon]

theorem State.Canon.setTagAt {s : State} {pa b} (hs : s.Canon) : (s.setTagAt pa b).Canon := hs

theorem State.Canon.clearTags {s : State} {n k} (hs : s.Canon) : (s.clearTags n k).Canon := by
  fun_induction State.clearTags <;> grind [!State.Canon.setTagAt, State.Canon]

theorem State.Canon.setGranAt {s : State} {pa v} (hs : s.Canon) : (s.setGranAt pa v).Canon := hs

theorem State.Canon.countErr {s : State} {pa} (hs : s.Canon) : (s.countErr pa).Canon := hs

theorem State.Canon.ecount {s : State} {d i k} (hs : s.Canon) : (s.ecount d i k).Canon := hs

theorem State.Canon.putTags {s : State} {w tags n} (hs : s.Canon) : (s.putTags w tags n).Canon := by
  fun_induction State.putTags <;> grind [!State.Canon.setTagAt, State.Canon]

theorem State.Canon.curePoison {s : State} {pa n} (hs : s.Canon) : (s.curePoison pa n).Canon := .ite hs hs

theorem State.Canon.homeWrite {s : State} {c pa n v tags tagged} (hs : s.Canon) : (s.homeWrite c pa n v tags tagged).Canon :=
  .ite (.putTags (.curePoison (.physSet hs))) (.curePoison (.physSet hs))

theorem State.Canon.ecountL2 {s : State} {i ks} (hs : s.Canon) : (s.ecountL2 i ks).Canon := .foldl hs fun _ _ hs => .ecount hs

theorem State.Canon.noteRead {s : State} {pa n} (hs : s.Canon) : (s.noteRead pa n).Canon := .ite hs (.ecountL2 (.ecountL2 (.ecount (.ecount hs))))

end Sys2Proof.Machine

end

section
/-! LAWS. Canonical memory: the shared operations on threads, gangs, contexts and kernels. -/

namespace Sys2Proof.Machine

theorem State.Canon.setCtx {s : State} {c x} (hs : s.Canon) : (s.setCtx c x).Canon := hs

theorem State.Canon.setCore {s : State} {c x} (hs : s.Canon) : (s.setCore c x).Canon := hs

theorem State.Canon.setQueue {s : State} {q x} (hs : s.Canon) : (s.setQueue q x).Canon := hs

theorem State.Canon.setPort {s : State} {p x} (hs : s.Canon) : (s.setPort p x).Canon := hs

theorem State.Canon.setDie {s : State} {d x} (hs : s.Canon) : (s.setDie d x).Canon := hs

theorem State.Canon.updThread {s : State} {t f} (hs : s.Canon) : (s.updThread t f).Canon := hs

theorem State.Canon.updGang {s : State} {g f} (hs : s.Canon) : (s.updGang g f).Canon := hs

theorem State.Canon.updKernel {s : State} {k f} (hs : s.Canon) : (s.updKernel k f).Canon := hs

theorem State.Canon.updInst {s : State} {i f} (hs : s.Canon) : (s.updInst i f).Canon := hs

theorem State.Canon.updCtx {s : State} {c f} (hs : s.Canon) : (s.updCtx c f).Canon := .setCtx hs

theorem State.Canon.updCore {s : State} {c f} (hs : s.Canon) : (s.updCore c f).Canon := .setCore hs

theorem State.Canon.setErrst {s : State} {c bitNo} (hs : s.Canon) : (s.setErrst c bitNo).Canon := .physSet hs

theorem State.Canon.addTagmis {s : State} {c} (hs : s.Canon) : (s.addTagmis c).Canon := .physSet hs

theorem State.Canon.storeQ {s : State} {q} (hs : s.Canon) : (s.storeQ q).Canon := .physSet (.physSet (.physSet hs))

theorem State.Canon.settleQ {s : State} {q} (hs : s.Canon) : (s.settleQ q).Canon := .ite hs (.storeQ (.setQueue hs))

theorem State.Canon.settleQueues {s : State} {c} (hs : s.Canon) : (s.settleQueues c).Canon := .foldl hs fun _ _ hs => .ite (.settleQ hs) hs

theorem State.Canon.commandDone {s : State} (hs : s.Canon) : s.commandDone.Canon := hs

theorem State.Canon.enterCtx {s : State} {c st} (hs : s.Canon) : (s.enterCtx c st).Canon :=
  .settleQueues (.ite (.physSet (.physSet (.ite (.commandDone (.setCtx hs)) (.setCtx hs)))) (.physSet (.ite (.commandDone (.setCtx hs)) (.setCtx
    hs))))

theorem State.Canon.notifyWaits {s : State} (hs : s.Canon) : s.notifyWaits.Canon := hs

theorem State.Canon.notifyMaps {s : State} (hs : s.Canon) : s.notifyMaps.Canon := hs

/-! ## The current thread -/

theorem Keeps.curT : Keeps curT := by
  unfold Machine.curT
  refine .bind .get fun _ => ?_
  split
  · exact .pure _
  · exact .throw _

theorem Keeps.getThread {t} : Keeps (getThread t) := by
  unfold Machine.getThread
  refine .bind .get fun _ => ?_
  split
  · exact .pure _
  · exact .throw _

theorem Keeps.getGang {g} : Keeps (getGang g) := by
  unfold Machine.getGang
  refine .bind .get fun _ => ?_
  split
  · exact .pure _
  · exact .throw _

theorem Keeps.getKernel {k} : Keeps (getKernel k) := by
  unfold Machine.getKernel
  refine .bind .get fun _ => ?_
  split
  · exact .pure _
  · exact .throw _

theorem Keeps.thread : Keeps thread := .bind .curT fun _ => .getThread

theorem Keeps.gang : Keeps gang := .bind .curT fun _ => .getGang

theorem Keeps.modThread {f} : Keeps (modThread f) := .bind .curT fun _ => .modify fun _ hs => .updThread hs

theorem Keeps.trap {α : Type} {c v} : Keeps (trap c v : M α) := .throw _

theorem Keeps.illegal {α : Type} : Keeps (illegal : M α) := .bind .thread fun _ => .trap

theorem Keeps.waitFor {α : Type} {w} : Keeps (waitFor w : M α) := .throw _

theorem Keeps.addFlags {f} : Keeps (addFlags f) := .modThread

theorem Keeps.setLapf : Keeps setLapf := .modThread

theorem Keeps.now : Keeps now := .bind .gang fun _ => .bind .get fun _ => .pure _

theorem Keeps.curCtx : Keeps curCtx := .bind .gang fun _ => .bind .get fun _ => .pure _

/-! ## Registers (R6, R33, R64 to R67, R236) -/

theorem State.Canon.cureReg {s : State} {t i} (hs : s.Canon) : (s.cureReg t i).Canon := .ite (.ecount (.updGang hs)) hs

theorem Keeps.readReg {i ts} : Keeps (readReg i ts) := by
  unfold Machine.readReg
  refine .bind .curT fun _ => .bind .thread fun _ => ?_
  split
  · exact .pure _
  · refine .bind .gang fun _ => .bind .get fun _ => ?_
    split
    · exact .throw _
    · exact .bind .modThread fun _ => .bind (.modify fun _ hs => .cureReg hs) fun _ => .pure _

theorem Keeps.readBits {i ts} : Keeps (readBits i ts) := .bind .readReg fun _ => .pure _

theorem Keeps.readPair {i lo hi} : Keeps (readPair i lo hi) := .ite (.pure _) (.bind .readBits fun _ => .bind .readBits fun _ => .pure _)

theorem Keeps.readAddr {i} : Keeps (readAddr i) := .readPair

theorem Keeps.readL64 {i} : Keeps (readL64 i) := .readPair

theorem State.Canon.writeReg {s : State} {t i w} (hs : s.Canon) : (s.writeReg t i w).Canon := by
  unfold State.writeReg
  split
  · exact hs
  · split
    · exact hs
    · exact .updGang hs

theorem Keeps.writeReg {i v tag} : Keeps (writeReg i v tag) := .bind .curT fun _ => .modify fun _ hs => .writeReg hs

theorem Keeps.writePair {i v lo hi} : Keeps (writePair i v lo hi) := .ite (.pure _) (.bind .writeReg fun _ => .writeReg)

theorem Keeps.writeL64 {i v} : Keeps (writeL64 i v) := .writePair

theorem Keeps.readPred {q} : Keeps (readPred q) := .bind .thread fun _ => .pure _

theorem Keeps.writePred {p b} : Keeps (writePred p b) := .modThread

/-! ## Issue groups and clauses (R30, R31, R156) -/

theorem State.Canon.leaveGroup {s : State} {t} (hs : s.Canon) : (s.leaveGroup t).Canon := by
  grind [State.leaveGroup, !State.Canon.updThread, !State.Canon.setCore, State.Canon]

theorem State.Canon.endClauseAt {s : State} {t pc} (hs : s.Canon) : (s.endClauseAt t pc).Canon := .leaveGroup (.updThread hs)

theorem State.Canon.advance {s : State} {t} (hs : s.Canon) : (s.advance t).Canon := by
  unfold State.advance
  split
  · exact hs
  · split
    · exact .updThread hs
    · exact .ite (.updThread hs) (.ite (.updThread hs) (.endClauseAt hs))

theorem State.Canon.progress {s : State} {t} (hs : s.Canon) : (s.progress t).Canon := by
  unfold State.progress
  split
  · split
    · exact .ite hs (.updKernel hs)
    · exact hs
  · exact hs

theorem State.Canon.commit {s : State} {t} (hs : s.Canon) : (s.commit t).Canon := by
  grind [State.commit, !State.Canon.progress, !State.Canon.updThread, !State.Canon.addTagmis, State.Canon]

theorem State.Canon.complete {s : State} {t} (hs : s.Canon) : (s.complete t).Canon := .advance (.commit hs)

theorem State.Canon.freeHeld {s : State} {t past} (hs : s.Canon) : (s.freeHeld t past).Canon := hs

theorem State.Canon.returnFromTrap {s : State} {t past} (hs : s.Canon) : (s.returnFromTrap t past).Canon := .freeHeld (.leaveGroup (.updThread hs))

theorem State.Canon.again {s : State} {t} (hs : s.Canon) : (s.again t).Canon := by
  grind [State.again, !State.Canon.updCore, !State.Canon.updThread, State.Canon]

theorem State.Canon.retire {s : State} {t f} (hs : s.Canon) : (s.retire t f).Canon := by
  cases f with
  | seq => exact .advance (.commit hs)
  | jump => exact .endClauseAt (.commit hs)
  | endClause =>
    show State.Canon (match (s.commit t).threads.find t with | some _ => _ | none => _)
    split
    · exact .endClauseAt (.commit hs)
    · exact .commit hs
  | again => exact .again hs
  | gone => exact hs
  | ret past => exact .returnFromTrap (.commit hs)

/-! ## Gangs that are parked, and contexts that stop (R86 to R89, R410) -/

theorem State.Canon.parkGang {s : State} {gid} (hs : s.Canon) : (s.parkGang gid).Canon := by
  unfold State.parkGang
  split
  · exact hs
  · exact hs

theorem State.Canon.unpark {s : State} {p} (hs : s.Canon) : (s.unpark p).Canon := .parkGang hs

theorem State.Canon.withGang {s : State} {kern gid f} (hs : s.Canon) (hf : ∀ s, State.Canon s → State.Canon (f s))
    : (s.withGang kern gid f).Canon := by
  grind [State.withGang, !State.Canon.unpark, !State.Canon.parkGang, State.Canon]

theorem State.Canon.updFor {s : State} {kern t f} (hs : s.Canon) : (s.updFor kern t f).Canon := by
  unfold State.updFor
  split
  · exact .ite (.updThread hs) hs
  · exact hs

theorem State.Canon.stepAside {s : State} {t} (hs : s.Canon) : (s.stepAside t).Canon := .updThread (.leaveGroup hs)

theorem State.Canon.parkAll {s : State} {c} (hs : s.Canon) : (s.parkAll c).Canon := hs

theorem State.Canon.stopCtx {s : State} {c st} (hs : s.Canon) : (s.stopCtx c st).Canon := .ite (.updCtx hs) (.enterCtx (.parkAll hs))

theorem State.Canon.finishStop {s : State} {c} (hs : s.Canon) : (s.finishStop c).Canon := by
  unfold State.finishStop
  split
  · exact hs
  · exact hs
  · exact .ite hs (.enterCtx (.parkAll hs))

theorem State.Canon.haltCtx {s : State} {c st} (hs : s.Canon) : (s.haltCtx c st).Canon := .stopCtx (.ite (.parkAll hs) hs)

/-! ## Freeing and failing (R138 to R140) -/

theorem State.Canon.dropInFlight {s : State} {gone} (hs : s.Canon) : (s.dropInFlight gone).Canon := hs

theorem State.Canon.dropThreads {s : State} {p} (hs : s.Canon) : (s.dropThreads p).Canon := hs

theorem State.Canon.settleCtx {s : State} {c} (hs : s.Canon) : (s.settleCtx c).Canon := .ite (.enterCtx hs) hs

theorem State.Canon.repoint {s : State} (hs : s.Canon) : s.repoint.Canon := .ite hs hs

theorem State.Canon.releaseConduits {s : State} {k} (hs : s.Canon) : (s.releaseConduits k).Canon := hs

theorem State.Canon.releaseKernel {s : State} {k} (hs : s.Canon) : (s.releaseKernel k).Canon := by
  grind [State.releaseKernel, !State.Canon.releaseConduits, !State.Canon.dropThreads, !State.Canon.dropInFlight, State.Canon]

theorem State.Canon.failKernel {s : State} {k status} (hs : s.Canon) : (s.failKernel k status).Canon := by
  unfold State.failKernel
  split
  · exact hs
  · split
    · exact hs
    · split
      · split
        · exact .ite (.updKernel hs) hs
        · exact hs
      · exact .repoint (.finishStop (.settleCtx (.updKernel (.releaseKernel hs))))

/-! ## Traps (R92, R93) -/

theorem State.Canon.dropTurns {s : State} {t} (hs : s.Canon) : (s.dropTurns t).Canon := hs

theorem State.Canon.enterHandler {s : State} {t c v lanes tpc} (hs : s.Canon) : (s.enterHandler t c v lanes tpc).Canon :=
  .leaveGroup (.updThread (.dropTurns hs))

theorem State.Canon.undeliverable {s : State} {t c} (hs : s.Canon) : (s.undeliverable t c).Canon := by
  unfold State.undeliverable
  split
  · exact hs
  · split
    · exact .haltCtx (.stepAside (.updThread hs))
    · exact .failKernel (.setErrst hs)
    · exact .ite (.haltCtx (.updKernel (.stepAside (.updThread (.setErrst hs))))) (.failKernel (.setErrst hs))

theorem State.Canon.takeTrapAt {s : State} {t c v lanes tpc} (hs : s.Canon) : (s.takeTrapAt t c v lanes tpc).Canon := by
  unfold State.takeTrapAt
  split
  · exact hs
  · exact .ite (.enterHandler hs) (.undeliverable hs)

theorem State.Canon.takeTrap {s : State} {t c v} (hs : s.Canon) : (s.takeTrap t c v).Canon := by
  unfold State.takeTrap
  split
  · exact hs
  · exact .takeTrapAt hs

/-! ## Waiting, and the stops of an instruction -/

theorem State.Canon.waitOn {s : State} {t w} (hs : s.Canon) : (s.waitOn t w).Canon := .leaveGroup (.updThread hs)

theorem State.Canon.writeDefaults {s : State} {t l} (hs : s.Canon) : (s.writeDefaults t l).Canon := by
  fun_induction State.writeDefaults <;> grind [!State.Canon.updThread, !State.Canon.writeReg, State.Canon]

theorem State.Canon.meetRegs {s : State} {t is} (hs : s.Canon) : (s.meetRegs t is).Canon := .updGang hs

theorem State.Canon.countRows {s : State} {t is} (hs : s.Canon) : (s.countRows t is).Canon := by
  unfold State.countRows
  split
  · exact .ecount hs
  · exact hs

theorem State.Canon.scrubWords {s : State} {t l} (hs : s.Canon) : (s.scrubWords t l).Canon := by
  fun_induction State.scrubWords <;> grind [!State.Canon.ecount, !State.Canon.writeReg, State.Canon]

theorem State.Canon.noteHit {s : State} {t took} (hs : s.Canon) : (s.noteHit t took).Canon := by
  unfold State.noteHit
  split
  · exact .updCore hs
  · exact hs

theorem State.Canon.passMemerr {s : State} {t store dests swp} (hs : s.Canon) : (s.passMemerr t store dests swp).Canon :=
  .ite (.again (.updThread hs)) (.ite (.updThread (.advance (.commit (.writeDefaults hs)))) (.advance (.commit (.writeDefaults hs))))

theorem State.Canon.memerr {s : State} {t v srcs data dests swp} (hs : s.Canon) : (s.memerr t v srcs data dests swp).Canon := by
  grind [State.memerr, !State.Canon.enterHandler, !State.Canon.countRows, !State.Canon.noteHit, !State.Canon.passMemerr, !State.Canon.meetRegs,
    !State.Canon.leaveGroup, !State.Canon.updThread, !State.Canon.scrubWords, !State.Canon.writeDefaults, !State.Canon.dropTurns,
      !State.Canon.setErrst, !State.Canon.foldl, State.Canon]

theorem State.Canon.stopped {s : State} {t srcs data dests swp e} (hs : s.Canon) : (stopped t srcs data dests swp e s).Canon := by
  unfold Machine.stopped
  split
  · exact .takeTrap hs
  · exact .memerr hs
  · exact .waitOn hs
  · split
    · exact .haltCtx (.stepAside (.updThread hs))
    · exact hs
  · exact hs

/-! ## The prologue of a code instruction (R33, R43) -/

theorem Keeps.rangeCheck {i n} : Keeps (rangeCheck i n) := .bind .gang fun _ => .ite .trap (.pure _)

theorem Keeps.rowsFirst {bad m} (hm : Keeps m) : Keeps (rowsFirst bad m) := by
  unfold Machine.rowsFirst
  cases bad with
  | none => exact hm
  | some i =>
    refine ⟨fun s hs => ?_⟩
    show (endState (match m s with
      | .error (Stop.trap c v) s' => .error (Stop.trap c v) s'
      | .error (Stop.memerr v) s' => .error (Stop.memerr v) s'
      | _ => .error (Stop.memerr i) s)).Canon
    split
    · exact .of_error hm hs ‹_›
    · exact .of_error hm hs ‹_›
    · exact hs

theorem Keeps.issueWith {fs g onFalse extra body} (hbody : ∀ a, Keeps (body a)) : Keeps (issueWith fs g onFalse extra body) := by
  unfold Machine.issueWith
  refine .bind .curT fun _ => .bind .thread fun _ => .bind .gang fun _ => .bind .get fun _ => ?_
  extract_lets no
  split
  · exact .trap
  · refine .ite ?_ ?_
    · refine .ite ?_ ?_
      · exact .waitFor
      · split
        · exact .ite (.throw _) .trap
        · exact .rowsFirst (hbody _)
    · exact .ite (.pure _) (.pure _)

theorem Canonical.runWith {s : State} {swp srcs data dests m} (hs : s.Canon) (hm : Keeps m) : Canonical (runWith swp srcs data dests m s) := by
  unfold Machine.runWith
  split
  · exact .next hs
  · split
    · exact .next (.retire (.of_ok hm hs ‹_›))
    · exact .next (.stopped (.of_error hm hs ‹_›))

theorem Canonical.runCode {s : State} {srcs dests m} (hs : s.Canon) (hm : Keeps m) : Canonical (runCode srcs dests m s) := .runWith hs hm

theorem Canonical.code {s : State} {fs g dests body} (hs : s.Canon) (hbody : Keeps body) : Canonical (code fs g dests body s) :=
  .runCode hs (.issueWith fun _ => hbody)

theorem Canonical.codeStore {s : State} {fs data g body} (hs : s.Canon) (hbody : Keeps body) : Canonical (codeStore fs data g body s) :=
  .runWith hs (.issueWith fun _ => hbody)

theorem Canonical.codeSwp {s : State} {fs extra g dests body} (hs : s.Canon) (hbody : Keeps body) : Canonical (codeSwp fs extra g dests body s) :=
  .runWith hs (.issueWith fun _ => hbody)

theorem Canonical.codeEnd {s : State} {fs g dests body} (hs : s.Canon) (hbody : Keeps body) : Canonical (codeEnd fs g dests body s) :=
  .runCode hs (.issueWith fun _ => hbody)

theorem Canonical.codeAny {s : State} {fs extra g dests body} (hs : s.Canon) (hbody : ∀ a, Keeps (body a))
    : Canonical (codeAny fs extra g dests body s) :=
  .runCode hs (.issueWith (fun _ => hbody _))

end Sys2Proof.Machine

end

section
/-! LAWS. Canonical memory: translation (17_page). -/

namespace Sys2Proof.Machine

theorem State.Canon.cacheEntry {s : State} {d c va level ent pte} (hs : s.Canon) : (s.cacheEntry d c va level ent pte).Canon := hs

theorem State.Canon.cacheLeaf {s : State} {d c va pte ent level} (hs : s.Canon) : (s.cacheLeaf d c va pte ent level).Canon := by
  unfold State.cacheLeaf
  split
  · exact hs
  · exact .cacheEntry hs

theorem State.Canon.noteWalk {s : State} {d c va l} (hs : s.Canon) : (s.noteWalk d c va l).Canon := by
  fun_induction State.noteWalk <;> grind [!State.Canon.cacheEntry, !State.Canon.noteRead, State.Canon]

theorem State.Canon.chooseLeaf {s : State} {d c va need} (hs : s.Canon) : (s.chooseLeaf d c va need).2.Canon := by
  grind [State.chooseLeaf, !State.Canon.noteWalk, State.Canon]

theorem State.Canon.admitLeaf {s : State} {c va need pte level dirty} (hs : s.Canon) : (s.admitLeaf c va need pte level dirty).2.Canon := by
  unfold State.admitLeaf
  extract_lets pa t
  have ht : t.Canon := by
    dsimp only [t]
    split
    · exact .ite (.physSet hs) hs
    · exact hs
  split
  · exact hs
  · split
    · exact hs
    · split
      · exact .countErr ht
      · exact ht

theorem State.Canon.xlate {s : State} {d c va need} (hs : s.Canon) : (s.xlate d c va need).2.Canon := by
  grind [State.xlate, !State.Canon.cacheLeaf, !State.Canon.countErr, !State.Canon.chooseLeaf, !State.Canon.admitLeaf, !State.Canon.physSet,
    State.Canon]

/-! ## Fault records (R369) -/

theorem State.Canon.raiseFault {s : State} {c core va kind level} (hs : s.Canon) : (s.raiseFault c core va kind level).2.Canon := by
  grind [State.raiseFault, !State.Canon.setCtx, !State.Canon.curePoison, !State.Canon.physSet, State.Canon]

theorem Keeps.holdFault {α : Type} {fetch va kind level} : Keeps (holdFault fetch va kind level : M α) := by
  unfold Machine.holdFault
  refine .bind .curT fun _ => .bind .gang fun _ => .get_bind fun _ hs => ?_
  split
  · exact .trap
  · exact .waitFor
  · exact .bind (.set (.of_eq (.raiseFault hs) ‹_›)) fun _ => .waitFor

theorem Keeps.xlate {va need} : Keeps (xlate va need) := by
  unfold Machine.xlate
  refine .bind .curT fun _ => .bind .gang fun _ => .get_bind fun _ hs => .bind (.set (.xlate hs)) fun _ => ?_
  split
  · exact .pure _
  · exact .holdFault
  · exact .trap
  · exact .trap
  · exact .throw _

/-! ## Breakpoints (R408, R409) -/

theorem Keeps.brkStop {α : Type} {addr} : Keeps (brkStop addr : M α) := .bind .curCtx fun _ => .ite (.throw _) .trap

theorem Keeps.checkBrk {a n ld st} : Keeps (checkBrk a n ld st) := by
  unfold Machine.checkBrk
  refine .bind .thread fun _ => .bind .curCtx fun _ => .ite ?_ ?_
  · exact .pure _
  · split
    · exact .brkStop
    · exact .pure _

end Sys2Proof.Machine

end

section
/-! LAWS. Canonical memory: the column cache of a core and the L2 level. -/

namespace Sys2Proof.Machine

theorem State.Canon.setLine {s : State} {core line l} (hs : s.Canon) : (s.setLine core line l).Canon := .updCore hs

theorem State.Canon.cleanLine {s : State} {core line} (hs : s.Canon) : (s.cleanLine core line).Canon := by
  grind [State.cleanLine, !State.Canon.putTags, !State.Canon.multicast, !State.Canon.setLine, !State.Canon.withBytes, !State.Canon.foldl, State.Canon]

theorem State.Canon.evict {s : State} {core line} (hs : s.Canon) : (s.evict core line).Canon := .updCore (.cleanLine hs)

theorem State.Canon.makeRoom {s : State} {core line} (hs : s.Canon) : (s.makeRoom core line).Canon := .ite hs (.evict hs)

theorem State.Canon.freshTags {s : State} {core line ws} (hs : s.Canon) : (s.freshTags core line ws).Canon := .ite hs (.updCore hs)

theorem State.Canon.fill {s : State} {core line sects tagged} (hs : s.Canon) : (s.fill core line sects tagged).Canon := by
  unfold State.fill
  exact .ite hs (.freshTags (.setLine (.noteRead (.ite (.evict hs) (.makeRoom hs)))))

theorem State.Canon.cleanLines {s : State} {core l} (hs : s.Canon) : (s.cleanLines core l).Canon := by
  fun_induction State.cleanLines <;> grind [!State.Canon.cleanLine, State.Canon]

theorem State.Canon.cleanRaw {s : State} {core} (hs : s.Canon) : (s.cleanRaw core).Canon := .cleanLines hs

theorem State.Canon.cleanAll {s : State} {core} (hs : s.Canon) : (s.cleanAll core).Canon := .cleanLines hs

theorem State.Canon.dropBytes {s : State} {core line mask} (hs : s.Canon) : (s.dropBytes core line mask).Canon := by
  unfold State.dropBytes
  split
  · exact hs
  · exact .setLine hs

theorem State.Canon.acquire {s : State} {core} (hs : s.Canon) : (s.acquire core).Canon := .setCore hs

theorem State.Canon.countColumn {s : State} {core line sects} (hs : s.Canon) : (s.countColumn core line sects).Canon :=
  .ite hs (.ecount (.ecount (.setLine hs)))

theorem State.Canon.plainRead {s : State} {core pa n tagged} (hs : s.Canon) : (s.plainRead core pa n tagged).2.Canon := .countColumn (.fill hs)

theorem State.Canon.settleTags {s : State} {core w k} (hs : s.Canon) : (s.settleTags core w k).Canon := .ite hs (.updCore hs)

theorem State.Canon.plainWrite {s : State} {core c pa n v tags tagged} (hs : s.Canon) : (s.plainWrite core c pa n v tags tagged).Canon :=
  .settleTags (.setLine (.fill hs))

theorem State.Canon.sharedRead {s : State} {core pa n} (hs : s.Canon) : (s.sharedRead core pa n).2.Canon := .dropBytes (.noteRead (.cleanLine hs))

theorem State.Canon.sharedWrite {s : State} {core c pa n v tags tagged} (hs : s.Canon) : (s.sharedWrite core c pa n v tags tagged).Canon :=
  .dropBytes (.homeWrite (.cleanLine hs))

end Sys2Proof.Machine

end

section
/-! LAWS. Canonical memory: accesses by a thread at a generic address. -/

namespace Sys2Proof.Machine

theorem State.Canon.setAllocAt {s : State} {h a} (hs : s.Canon) : (s.setAllocAt h a).Canon := by
  unfold State.setAllocAt
  split
  · exact .updGang hs
  · exact .updGang hs
  · exact .updInst hs

theorem Keeps.checkMem {a n al} : Keeps (checkMem a n al) := by
  unfold Machine.checkMem
  refine .bind .curT fun _ => ?_
  split
  · exact .trap
  · refine .ite ?_ ?_
    · exact .trap
    · refine .bind .get fun _ => ?_
      split
      · exact .pure _
      · exact .trap

/-! ## Scratch and stack bytes -/

theorem Keeps.rowError {α : Type} {v} : Keeps (rowError v : M α) := .bind .curT fun _ => .bind (.modify fun _ hs => .ecount hs) fun _ => .throw _

theorem Keeps.meetAt {h al ps f} : Keeps (meetAt h al ps f) := by
  unfold Machine.meetAt
  refine .bind .get fun _ => ?_
  extract_lets no
  split
  · exact .bind (.modify fun _ hs => .setAllocAt hs) fun _ => .rowError
  · exact .pure _

theorem Keeps.meetRows {h al ps a} : Keeps (meetRows h al ps a) := .meetAt

theorem State.Canon.cureRows {s : State} {core h ms} (hs : s.Canon) : (s.cureRows core h ms).Canon := by
  unfold State.cureRows
  split
  · exact .ite (.ecount (.setAllocAt hs)) hs
  · exact hs

theorem Keeps.readRow {h off n a} : Keeps (readRow h off n a) := by
  unfold Machine.readRow
  refine .bind .curT fun _ => .bind .now fun _ => .bind .get fun _ => ?_
  split
  · exact .trap
  · refine .bind .meetRows fun _ => ?_
    extract_lets sc
    split
    · exact .trap
    · split
      · exact .rowError
      · exact .when .setLapf fun _ => .bind (.modify fun _ hs => .cureRows hs) fun _ => .pure _

theorem Keeps.writeRow {h off n a v} : Keeps (writeRow h off n a v) := by
  unfold Machine.writeRow
  refine .bind .curT fun _ => .bind .now fun _ => .bind .get fun _ => ?_
  split
  · exact .trap
  · refine .bind .meetRows fun _ => ?_
    split
    · exact .rowError
    · exact .throw _
    · exact .when .setLapf fun _ => .modify fun _ hs => .setAllocAt hs

/-! ## The side log (R372, R375) -/

theorem Keeps.enterLog {op va n data tags seq fail brk} : Keeps (enterLog op va n data tags seq fail brk) :=
  .bind .curT fun _ => .bind .gang fun _ => .bind .thread fun _ => .bind .get fun _ => .ite (.modify fun _ hs => .updGang hs)
    (.ite .waitFor (.modify fun _ hs => .updGang hs))

theorem Keeps.logBrk {need a n ld st} : Keeps (logBrk need a n ld st) := by
  unfold Machine.logBrk
  refine .bind .curT fun _ => .bind .gang fun _ => .bind .get fun _ => ?_
  split
  · exact .bind .checkBrk fun _ => .pure _
  · exact .pure _

theorem Keeps.faultLog {op va n data tags k l} : Keeps (faultLog op va n data tags k l) := by
  unfold Machine.faultLog
  refine .bind .curT fun _ => .bind .gang fun _ => .get_bind fun _ hs => ?_
  split
  · exact .bind (.set (.of_eq (.raiseFault hs) ‹_›)) fun _ => .enterLog
  · exact .bind (.set (.of_eq (.raiseFault hs) ‹_›)) fun _ => .enterLog
  · exact .enterLog

theorem Keeps.logLoad {va n fwd} : Keeps (logLoad va n fwd) := by
  unfold Machine.logLoad
  refine .bind .gang fun _ => .ite ?_ ?_
  · exact .pure _
  · extract_lets plainOnly
    split
    · exact .ite (.pure _) .waitFor
    · exact .waitFor

/-! ## Acquire and release (R261) -/

theorem Keeps.acquireAt {sc} : Keeps (acquireAt sc) := .ite (.bind .curT fun _ => .modify fun _ hs => .acquire hs) (.pure _)

theorem Keeps.raise {α : Type} {c v} : Keeps (raise c v : M α) := .ite (.throw _) .trap

theorem Keeps.reportFail : Keeps reportFail := by
  unfold Machine.reportFail
  refine .bind .thread fun _ => ?_
  split
  · exact .bind .modThread fun _ => .raise
  · exact .pure _

theorem Keeps.reportLog {sc} : Keeps (reportLog sc) := by
  unfold Machine.reportLog
  refine .ite ?_ ?_
  · refine .bind .thread fun _ => ?_
    split
    · exact .pure _
    · exact .reportFail
  · exact .pure _

theorem Keeps.releaseWait {w} : Keeps (releaseWait w) := .bind .modThread fun _ => .waitFor

theorem Keeps.releaseAt {sc} : Keeps (releaseAt sc) := by
  unfold Machine.releaseAt
  refine .ite ?_ ?_
  · exact .bind .curT fun _ => .bind .gang fun _ => .when .releaseWait fun _ => .bind .get fun _ => .when .releaseWait fun _ =>
    .ite (.modify fun _ hs => .cleanRaw hs) (.pure _)
  · exact .pure _

/-! ## Remote memory (R270, R387, R395) -/

theorem State.Canon.askPeer {s : State} {dev ty r payload} (hs : s.Canon) : (s.askPeer dev ty r payload).Canon := .sendReq hs

theorem Keeps.remoteAskAt {no word dev ty va tagged payload} : Keeps (remoteAskAt no word dev ty va tagged payload) := by
  unfold Machine.remoteAskAt
  refine .bind .curT fun _ => .bind .thread fun _ => .bind .gang fun _ => ?_
  split
  · exact .pure _
  · exact .trap
  · exact .raise
  · exact .get_bind fun _ hs => .ite .trap (.bind (.set (.askPeer hs)) fun _ => .waitFor)

theorem Keeps.remoteAsk {dev ty va tagged payload} : Keeps (remoteAsk dev ty va tagged payload) := .remoteAskAt

theorem State.Canon.remoteWrite {s : State} {t kern c pa pte va n v tags} (hs : s.Canon) : (s.remoteWrite t kern c pa pte va n v tags).Canon :=
  .ite (.updKernel hs) (.askPeer hs)

theorem Keeps.remoteRead {dev pa va n tagged} : Keeps (remoteRead dev pa va n tagged) := .bind .remoteAsk fun _ => .pure _

theorem Keeps.answered : Keeps answered := by
  unfold Machine.answered
  refine .bind .thread fun _ => ?_
  split
  · exact .pure _
  · exact .pure _

theorem Keeps.hostCheck {va} : Keeps (hostCheck va) := .bind .get fun _ => .ite (.pure _) .trap

theorem State.Canon.joinAtomic {s : State} {id t op opnd cmpv r} (hs : s.Canon) : (s.joinAtomic id t op opnd cmpv r).Canon := hs

theorem Keeps.askAtomic {pte pa va op ord opnd cmpv} : Keeps (askAtomic pte pa va op ord opnd cmpv) := by
  unfold Machine.askAtomic
  refine .bind .curT fun _ => .bind .thread fun _ => .bind .get fun _ => ?_
  split
  · exact .when .trap fun _ => .bind (.modify fun _ hs => .joinAtomic hs) fun _ => .waitFor
  · exact .remoteAskAt

theorem State.Canon.askRed {s : State} {no t kern c pa pte va op ord v} (hs : s.Canon) : (s.askRed no t kern c pa pte va op ord v).Canon := by
  unfold State.askRed
  split
  · exact .joinAtomic hs
  · exact .askPeer hs

/-! ## References (R285, R298) -/

theorem Keeps.validateRef {r need} : Keeps (validateRef r need) := by
  unfold Machine.validateRef
  refine .ite ?_ ?_
  · exact .trap
  · refine .bind .xlate fun _ => .get_bind fun _ hs => .ite ?_ ?_
    · exact .trap
    · refine .ite ?_ ?_
      · exact .trap
      · refine .bind (.set (.noteRead hs)) fun _ => ?_
        split
        · exact .throw _
        · exact .ite (.pure _) .trap

theorem State.Canon.queueWalk {s : State} {t c r sc hdr ser log} (hs : s.Canon) : (s.queueWalk t c r sc hdr ser log).Canon := .setCore hs

theorem State.Canon.queueJob {s : State} {t c r j} (hs : s.Canon) : (s.queueJob t c r j).Canon := .setCore hs

theorem Keeps.askWalk {α : Type} {r sc hdr} : Keeps (askWalk r sc hdr : M α) :=
  .bind .curT fun _ => .bind .thread fun _ => .bind .gang fun _ => .bind .get fun _ => .bind (.modify fun _ hs => .queueWalk hs) fun _ => .waitFor

theorem Keeps.escapeWord {walk resumed pa v a} (hwalk : ∀ a b c, Keeps (walk a b c)) : Keeps (escapeWord walk resumed pa v a) :=
  .bind .get fun _ => .ite (.bind .validateRef fun _ => .bind .curCtx fun _ => .ite (.ite (hwalk _ _ _) .trap) (.pure _)) (.pure _)

theorem Keeps.escapeCheck {walk resumed pa v tags a n} (hwalk : ∀ a b c, Keeps (walk a b c)) : Keeps (escapeCheck walk resumed pa v tags a n) := by
  induction n generalizing pa v tags a with
  | zero => exact .pure _
  | succ k ih => exact .when (.escapeWord hwalk) fun _ => ih

theorem Keeps.objectCheckWith {walk resumed plain pa pte a n v tags} (hwalk : ∀ a b c, Keeps (walk a b c))
    : Keeps (objectCheckWith walk resumed plain pa pte a n v tags) := by
  unfold Machine.objectCheckWith
  refine .bind .curT fun _ => .ite ?_ ?_
  · refine .bind .get fun _ => ?_
    split
    · exact .trap
    · exact .ite (.pure _) (.escapeCheck (fun _ _ _ => hwalk _ _ _))
  · exact .pure _

theorem Keeps.objectCheck {plain pa pte a n v tags} : Keeps (objectCheck plain pa pte a n v tags) :=
  .bind .curT fun _ => .bind .thread fun _ => .bind .get fun _ => .objectCheckWith (fun _ _ _ => .askWalk)

/-! ## Loads -/

theorem State.Canon.readClass {s : State} {core cls pa pte n} (hs : s.Canon) : (s.readClass core cls pa pte n).2.Canon := by
  grind [State.readClass, !State.Canon.sharedRead, !State.Canon.plainRead, State.Canon]

theorem Keeps.readGlobal {cls pa pte va n} : Keeps (readGlobal cls pa pte va n) := by
  unfold Machine.readGlobal
  refine .bind .curT fun _ => .ite ?_ ?_
  · refine .get_bind fun _ hs => .bind (.set (.readClass hs)) fun _ => ?_
    split
    · exact .throw _
    · exact .pure _
  · exact .ite .remoteRead (.bind .hostCheck fun _ => .bind .get fun _ => .pure _)

theorem Keeps.loadMem {a n fwd acq sc cls} : Keeps (loadMem a n fwd acq sc cls) := by
  unfold Machine.loadMem
  refine .bind .checkMem fun _ => ?_
  split
  · exact .bind .checkBrk fun _ => .when .acquireAt fun _ => .bind .readRow fun _ => .pure _
  · refine .bind .answered fun _ => .ite ?_ ?_
    · exact .bind .remoteRead fun _ => .when .acquireAt fun _ => .pure _
    · refine .bind .logLoad fun _ => ?_
      split
      · exact .bind .logBrk fun _ => .when .acquireAt fun _ => .pure _
      · exact .bind .xlate fun _ => .bind .checkBrk fun _ => .when .trap fun _ => .when .acquireAt fun _ => .bind .readGlobal fun _ => .pure _

/-! ## Stores -/

theorem State.Canon.writeClass {s : State} {core c cls pa pte n v tags} (hs : s.Canon) : (s.writeClass core c cls pa pte n v tags).Canon :=
  .ite (.plainWrite hs) (.sharedWrite hs)

theorem Keeps.storeMem {a n v tags rel sc cls} : Keeps (storeMem a n v tags rel sc cls) := by
  unfold Machine.storeMem
  refine .when .reportLog fun _ => .bind .checkMem fun _ => .bind .curT fun _ => ?_
  split
  · exact .bind .checkBrk fun _ => .when .releaseAt fun _ => .writeRow
  · refine .bind .gang fun _ => .ite ?_ ?_
    · exact .bind .logBrk fun _ => .enterLog
    · refine .get_bind fun _ hs => .bind (.set (.xlate hs)) fun _ => ?_
      split
      · exact .trap
      · exact .throw _
      · exact .enterLog
      · exact .faultLog
      · exact .bind .checkBrk fun _ => .when .trap fun _ => .when .objectCheck fun _ => .when .hostCheck fun _ => .when .releaseAt fun _ =>
        .ite (.modify fun _ hs => .writeClass hs) (.ite (.modify fun _ hs => .remoteWrite hs) (.modify fun _ hs => .physSet hs))

/-! ## Atomics -/

theorem State.Canon.atomLocal {s : State} {core c sc pa pte n f} (hs : s.Canon) : (s.atomLocal core c sc pa pte n f).2.Canon := by
  grind [State.atomLocal, !State.Canon.sharedWrite, !State.Canon.sharedRead, !State.Canon.plainRead, !State.Canon.plainWrite, State.Canon]

theorem Keeps.atomMem {a n sc acq rel f v tag host ask} (hask : ∀ a b, Keeps (ask a b)) : Keeps (atomMem a n sc acq rel f v tag host ask) := by
  unfold Machine.atomMem
  refine .when .reportLog fun _ => .bind .checkMem fun _ => .bind .curT fun _ => ?_
  split
  · refine .bind .checkBrk fun _ => .when .releaseAt fun _ => .when .acquireAt fun _ => .bind .readRow fun _ => ?_
    extract_lets jp
    have hjp : ∀ x, Keeps (jp x) := fun _ => .pure _
    split
    · exact .bind .writeRow fun _ => hjp ()
    · exact hjp ()
  · refine .bind .answered fun _ => .ite ?_ ?_
    · exact .bind (hask _ _) fun _ => .when .acquireAt fun _ => .pure _
    · refine .bind .logLoad fun _ => .bind .gang fun _ => .bind .xlate fun _ => .bind .checkBrk fun _ => ?_
      extract_lets update acquire release
      have hupdate : ∀ x, Keeps (update x) := by
        refine fun _ => .ite (.get_bind fun _ hs => ?_) (.ite (.bind (hask _ _) fun _ => .pure _) (.bind .get fun _ => ?_))
        · split
          refine .bind (.set (.of_eq (.atomLocal hs) ‹_›)) fun _ => ?_
          split
          · exact .throw _
          · exact .pure _
        · extract_lets old jp
          have hjp : ∀ x, Keeps (jp x) := fun _ => .pure _
          split
          · exact .bind (.modify fun _ hs => .physSet hs) hjp
          · exact hjp ()
      have hrelease : ∀ x, Keeps (release x) := fun _ => .when .releaseAt fun _ => .when .acquireAt hupdate
      exact .ite (.bind .objectCheck hrelease) (.ite (.bind .hostCheck fun _ => .bind .get fun _ => .when .trap hrelease) (hrelease ()))

theorem Keeps.redMem {op a v sc rel} : Keeps (redMem op a v sc rel) := by
  unfold Machine.redMem
  refine .when .reportLog fun _ => .bind .checkMem fun _ => .bind .curT fun _ => ?_
  extract_lets f
  split
  · exact .bind .checkBrk fun _ => .when .releaseAt fun _ => .bind .readRow fun _ => .writeRow
  refine .bind .answered fun _ => .ite (.bind .askAtomic fun _ => .pure _) (.bind .gang fun _ => .ite (.bind .logBrk fun _ => .enterLog)
    (.get_bind fun _ hs => ?_))
  split
  refine .bind (.set (.of_eq (.xlate hs) ‹_›)) fun _ => ?_
  split
  · exact .trap
  · exact .throw _
  · exact .enterLog
  · exact .faultLog
  · refine .bind .checkBrk fun _ => ?_
    extract_lets update release
    have hupdate : ∀ x, Keeps (update x) := by
      refine fun _ => .ite (.get_bind fun _ hs => ?_) (.ite (.bind .askAtomic fun _ => .pure _) (.modify fun _ hs => .physSet hs))
      split
      refine .bind (.set (.of_eq (.atomLocal hs) ‹_›)) fun _ => ?_
      split
      · exact .throw _
      · exact .pure _
    have hrelease : ∀ x, Keeps (release x) := fun _ => .when .releaseAt hupdate
    exact .ite (.bind .objectCheck hrelease) (.ite (.bind .hostCheck fun _ => .bind .get fun _ => .when .trap hrelease) (hrelease ()))

end Sys2Proof.Machine

end

section
/-! LAWS. Canonical memory: fetching, clauses and issue. -/

namespace Sys2Proof.Machine

theorem Keeps.execBrk {pc} : Keeps (execBrk pc) := by
  unfold Machine.execBrk
  refine .bind .thread fun _ => .bind .curCtx fun _ => .ite ?_ ?_
  · exact .pure _
  · split
    · exact .brkStop
    · exact .pure _

theorem Keeps.fetchRemote {α : Type} {dev pa va pc pte} : Keeps (fetchRemote dev pa va pc pte : M α) :=
  .bind .curT fun _ => .bind .gang fun _ => .get_bind fun _ hs => .ite .trap (.bind (.set (.askPeer hs)) fun _ => .waitFor)

theorem State.Canon.codeWord {s : State} {k pa} (hs : s.Canon) : (s.codeWord k pa).2.Canon := by
  unfold State.codeWord
  split
  · split
    · exact hs
    · exact hs
  · exact hs

theorem Keeps.fetchWord {pc} : Keeps (fetchWord pc) := by
  unfold Machine.fetchWord
  refine .bind .thread fun _ => ?_
  split
  · exact .pure _
  · refine .bind .gang fun _ => .bind .getKernel fun _ => .ite ?_ ?_
    · exact .trap
    · extract_lets va jp
      have hjp : ∀ x, Keeps (jp x) := fun _ => by
        refine .bind .xlate fun _ => .ite ?_ ?_
        · exact .fetchRemote
        · refine .ite ?_ ?_
          · exact .bind .hostCheck fun _ => .bind .get fun _ => .pure _
          · refine .bind (.modify fun _ hs => .noteRead hs) fun _ => .get_bind fun _ hs => ?_
            split
            · exact .throw _
            · exact .bind (.set (.codeWord hs)) fun _ => .pure _
      split
      · exact .ite (.bind .raise fun _ => hjp ()) (hjp ())
      · exact hjp ()

theorem Keeps.latchHeader {pc} : Keeps (latchHeader pc) := by
  unfold Machine.latchHeader
  refine .bind .execBrk fun _ => .bind .fetchWord fun _ => .ite ?_ ?_
  · exact .trap
  · split
    · exact .trap
    · exact .bind .gang fun _ => .ite .trap (.ite (.bind .curT fun _ => .bind (.modify fun _ hs => .endClauseAt (.updThread hs)) fun _ => .pure _)
      (.bind .modThread fun _ => .pure _))

theorem Keeps.findHeader {pc n m} : Keeps (findHeader pc n m) := by
  induction n generalizing m with
  | zero => exact .trap
  | succ k ih =>
    refine .ite .trap (.bind .fetchWord fun _ => .ite ?_ ih)
    split
    · exact .pure _
    · exact .trap

theorem Keeps.resumeClause {pc} : Keeps (resumeClause pc) := .bind .findHeader fun _ => .bind .thread fun _ => .ite .trap (.ite .trap .modThread)

theorem Keeps.enterClause : Keeps enterClause := by
  unfold Machine.enterClause
  refine .bind .thread fun _ => ?_
  split
  · exact .pure _
  · exact .latchHeader
  · exact .bind .fetchWord fun _ => .ite (.bind .resumeClause fun _ => .pure _) (.ite .trap .latchHeader)

theorem Keeps.passInstr : Keeps passInstr := by
  unfold Machine.passInstr
  refine .bind .thread fun _ => .bind .fetchWord fun _ => .ite ?_ ?_
  · exact .trap
  · exact .bind .resumeClause fun _ => .when .modThread fun _ => .bind .curT fun _ => .bind (.modify fun _ hs => .advance (.updThread hs)) fun _ =>
    .pure _

/-! ## Readiness and formation (R155 to R158) -/

theorem State.Canon.fetchFor {s : State} {core slot t m} (hs : s.Canon) (hm : Keeps m) : (s.fetchFor core slot t m).Canon := by
  have hm' : (match m { s with cur := some ⟨core, slot, t⟩ } with
      | .ok _ s => s
      | .error e s => Machine.stopped t [] [] [] false e s).Canon := by
    split
    · exact .of_ok hm hs.setCur ‹_›
    · exact .stopped (.of_error hm hs.setCur ‹_›)
  exact hm'

theorem State.Canon.joinClause {s : State} {core slot t} (hs : s.Canon) : (s.joinClause core slot t).Canon := .fetchFor hs .enterClause

theorem State.Canon.passAll {s : State} {core slot} (hs : s.Canon) : (s.passAll core slot).Canon :=
  .foldl hs fun _ _ hs => .ite (.fetchFor (.updThread hs) .passInstr) hs

theorem State.Canon.liftBars {s : State} {core slot} (hs : s.Canon) : (s.liftBars core slot).Canon := hs

theorem State.Canon.formGroup {s : State} {core slot} (hs : s.Canon) : (s.formGroup core slot).Canon := by
  grind [State.formGroup, !State.Canon.updCore, !State.Canon.passAll, !State.Canon.liftBars, !State.Canon.joinClause, !State.Canon.foldl, State.Canon]

theorem Canonical.execIssueGroupFormation {s : State} {core slot} (hs : s.Canon) : Canonical (execIssueGroupFormation core slot s) := by
  unfold Machine.execIssueGroupFormation
  split
  · exact .next hs
  · exact .next (.foldl hs fun _ _ hs => .formGroup hs)

/-! ## Issue of one instruction (R29, R30, R43) -/

theorem Keeps.fetchInstr : Keeps fetchInstr := by
  unfold Machine.fetchInstr
  refine .bind .thread fun _ => ?_
  split
  · exact .throw _
  · refine .bind .execBrk fun _ => .bind .fetchWord fun _ => .ite ?_ ?_
    · exact .trap
    · split
      · exact .trap
      · exact .ite .trap (.ite .trap (.pure _))

theorem State.Canon.afterIssue {s : State} {c core slot t} (hs : s.Canon) : (s.afterIssue c core slot t).Canon :=
  .finishStop (.ite (.stepAside hs) hs)

theorem Canonical.issueThread {s : State} {ex core slot t} (hs : s.Canon) (hex : ∀ a s, State.Canon s → Canonical (ex a s))
    : Canonical (s.issueThread ex core slot t) := by
  have hr : Canonical (match fetchInstr { s with cur := some ⟨core, slot, t⟩ } with
      | .ok i s => ex i s
      | .error e s => .next (stopped t [] [] [] false e s)) := by
    split
    · exact hex _ _ (.of_ok .fetchInstr hs.setCur ‹_›)
    · exact .next (.stopped (.of_error .fetchInstr hs.setCur ‹_›))
  unfold State.issueThread
  dsimp only
  split
  · exact .next (.afterIssue (hr _ ‹_›))
  · exact .fault _
  · exact .refused _

theorem Canonical.issue {s : State} {ex core slot} (hs : s.Canon) (hex : ∀ a s, State.Canon s → Canonical (ex a s))
    : Canonical (s.issue ex core slot) := by
  grind [State.issue, !State.Canon.updCore, !Canonical.issueThread, State.Canon, Canonical]

end Sys2Proof.Machine

end

section
/-! LAWS. Canonical memory: operand forms (R40, R179, R183, R197, Table 12.5). -/

namespace Sys2Proof.Machine

theorem Keeps.intSrc {sg i} : Keeps (intSrc sg i) := .bind .readBits fun _ => .pure _

theorem Keeps.natSrc {i} : Keeps (natSrc i) := .readBits

theorem Keeps.amtValue {x} : Keeps (amtValue x) := by
  unfold Machine.amtValue
  split
  · exact .natSrc
  · exact .pure _

theorem Keeps.effAddr {base idx off} : Keeps (effAddr base idx off) := .bind .readAddr fun _ => .bind .intSrc fun _ => .pure _

theorem Keeps.effAddr0 {base off} : Keeps (effAddr0 base off) := .bind .readAddr fun _ => .pure _

theorem Keeps.putWord {d v tag} : Keeps (putWord d v tag) := .bind .writeReg fun _ => .pure _

theorem Keeps.putL64 {d v} : Keeps (putL64 d v) := .bind .writeL64 fun _ => .pure _

end Sys2Proof.Machine

end

section
/-! LAWS. Canonical memory: the memory family but for the copies (12_memory R271 to R278). -/

namespace Sys2Proof.Machine

theorem Keeps.writeWords {l} : Keeps (writeWords l) := by
  induction l with
  | nil => exact .pure _
  | cons w ws ih => exact .bind .writeReg fun _ => ih

theorem Keeps.deliver {ws global} : Keeps (deliver ws global) := by
  unfold Machine.deliver
  extract_lets jp
  have hjp : ∀ x, Keeps (jp x) := fun _ => .pure _
  exact .ite (.bind .modThread fun _ => hjp ()) (.bind .writeWords fun _ => hjp ())

theorem Canonical.execLd {s : State} {g d base idx off w acq sc cls} (hs : s.Canon) : Canonical (execLd g d base idx off w acq sc cls s) :=
  .code hs (.bind .effAddr fun _ => .bind .loadMem fun _ => .deliver)

theorem Keeps.readWords {i k} : Keeps (readWords i k) := by
  induction k generalizing i with
  | zero => exact .pure _
  | succ n ih => exact .bind .readReg fun _ => .bind ih fun _ => .pure _

theorem Keeps.pairAny {i} : Keeps (pairAny i) := .ite (.pure _) (.bind .readWords fun _ => .pure _)

theorem Keeps.storeData {d n} : Keeps (storeData d n) := .ite (.bind .readWords fun _ => .pure _) (.ite .pairAny (.bind .readReg fun _ => .pure _))

theorem Canonical.execSt {s : State} {g d base idx off w rel sc cls} (hs : s.Canon) : Canonical (execSt g d base idx off w rel sc cls s) :=
  .codeStore hs (.bind .effAddr fun _ => .bind .storeData fun _ => .bind .storeMem fun _ => .pure _)

theorem Keeps.atomOperand {op i} : Keeps (atomOperand op i) := by
  unfold Machine.atomOperand
  split
  · exact .bind .readL64 fun _ => .pure _
  · exact .pairAny
  · exact .bind .readBits fun _ => .pure _
  · exact .bind .readBits fun _ => .pure _
  · exact .bind .readBits fun _ => .pure _

theorem Canonical.execAtom {s : State} {g d base idx off op ord sc} (hs : s.Canon) : Canonical (execAtom g d base idx off op ord sc s) :=
  .code hs (.bind .effAddr0 fun _ => .bind .atomOperand fun _ => .bind (.atomMem fun _ _ => .askAtomic) fun _ => .deliver)

theorem Keeps.casOperands {w64 i} : Keeps (casOperands w64 i) :=
  .ite (.bind .pairAny fun _ => .bind (.bind .readWords fun _ => .pure _) fun _ => .pure _) (.bind .readBits fun _ => .bind .readBits fun _ =>
    .pure _)

theorem Canonical.execCas {s : State} {g d base idx off w64 ord sc} (hs : s.Canon) : Canonical (execCas g d base idx off w64 ord sc s) :=
  .code hs (.bind .effAddr0 fun _ => .bind .casOperands fun _ => .bind (.atomMem fun _ _ => .askAtomic) fun _ => .deliver)

theorem Canonical.execRed {s : State} {g d base idx off op rel sc} (hs : s.Canon) : Canonical (execRed g d base idx off op rel sc s) :=
  .code hs (.bind .effAddr fun _ => .bind .atomOperand fun _ => .bind .redMem fun _ => .pure _)

theorem Keeps.reportCopies : Keeps reportCopies := by
  unfold Machine.reportCopies
  refine .bind .thread fun _ => ?_
  split
  · exact .pure _
  · exact .bind .modThread fun _ => .raise

theorem Keeps.reportAll : Keeps reportAll := .bind .reportCopies fun _ => .reportFail

theorem Canonical.execFence {s : State} {g ord sc} (hs : s.Canon) : Canonical (execFence g ord sc s) :=
  .code hs (.bind .reportAll fun _ => .when .releaseAt fun _ => .when .acquireAt fun _ => .pure _)

theorem Keeps.lineFor {a} : Keeps (lineFor a) := by
  unfold Machine.lineFor
  split
  · refine .bind .curT fun _ => .bind .gang fun _ => .get_bind fun _ hs => .bind (.set (.xlate hs)) fun _ => ?_
    split
    · exact .pure _
    · exact .pure _
  · exact .trap

theorem Canonical.execCinv {s : State} {g all base idx off} (hs : s.Canon) : Canonical (execCinv g all base idx off s) := by
  unfold Machine.execCinv
  refine .code hs ?_
  refine .bind .curT fun _ => ?_
  extract_lets jp
  have hjp : ∀ x, Keeps (jp x) := fun _ => .pure _
  refine .ite ?_ ?_
  · exact .bind (.modify fun _ hs => .updCore (.cleanAll hs)) fun _ => hjp ()
  · refine .bind .effAddr fun _ => .bind .lineFor fun _ => ?_
    split
    · exact .bind (.modify fun _ hs => .evict hs) fun _ => hjp ()
    · exact hjp ()

theorem Canonical.execCclean {s : State} {g all base idx off} (hs : s.Canon) : Canonical (execCclean g all base idx off s) := by
  unfold Machine.execCclean
  refine .code hs ?_
  refine .bind .curT fun _ => ?_
  extract_lets jp
  have hjp : ∀ x, Keeps (jp x) := fun _ => .pure _
  refine .ite ?_ ?_
  · exact .bind (.modify fun _ hs => .cleanAll hs) fun _ => hjp ()
  · refine .bind .effAddr fun _ => .bind .lineFor fun _ => ?_
    split
    · exact .bind (.modify fun _ hs => .cleanLine hs) fun _ => hjp ()
    · exact hjp ()

end Sys2Proof.Machine

end

section
/-! LAWS. Canonical memory: conduits (05_queue R115 to R124). -/

namespace Sys2Proof.Machine

/-! ## The device's accesses (R121) -/

theorem State.Canon.devXlate {s : State} {core c va need} (hs : s.Canon) : (s.devXlate core c va need).2.Canon := by
  grind [State.devXlate, !State.Canon.raiseFault, !State.Canon.xlate, State.Canon]

theorem State.Canon.cdCopy {s : State} {c} (hs : s.Canon) : (s.cdCopy c).Canon := by
  grind [State.cdCopy, !State.Canon.curePoison, !State.Canon.setErrst, !State.Canon.xlate, !State.Canon.physSet, State.Canon]

theorem State.Canon.cdPut {s : State} {id c} (hs : s.Canon) : (s.cdPut id c).Canon := .cdCopy hs

/-! ## What the device does of itself (R116 to R118) -/

theorem State.Canon.wake {s : State} {kern t c} (hs : s.Canon) : (s.wake kern t c).Canon := .updFor hs

theorem State.Canon.cdRefill {s : State} {s' : State} {id c} (hs : s.Canon) (e : s.cdRefill id c = some s') : s'.Canon := by
  grind [State.cdRefill, !State.Canon.devXlate, !State.Canon.cdPut, !State.Canon.noteRead, State.Canon]

theorem State.Canon.cdServe {s : State} {s' : State} {id c} (hs : s.Canon) (e : s.cdServe id c = some s') : s'.Canon := by
  grind [State.cdServe, !State.Canon.wake, State.Canon]

theorem State.Canon.cdAccept {s : State} {s' : State} {id c} (hs : s.Canon) (e : s.cdAccept id c = some s') : s'.Canon := by
  unfold State.cdAccept at e
  dsimp only at e
  split at e
  · nomatch e
  · split at e
    · nomatch e
    · split at e
      · cases e
        exact .wake (.ite hs (.cdPut hs))
      · split at e
        · cases e
          exact .wake hs
        · split at e
          · cases e
            exact .wake (.cdPut hs)
          · split at e
            · nomatch e
            · have ht {a t} : s.devXlate c.core (s.cdCtx c) (s.cdSlot c c.tail) .store = (a, t) → t.Canon := .of_eq (.devXlate hs)
              split at e
              · cases e
                exact .wake (.cdPut (.curePoison (.physSet (ht ‹_›))))
              · have hq := ht ‹_›
                cases e
                exact .wake hq
              · have hq := ht ‹_›
                cases e
                exact hq
              · nomatch e

theorem State.Canon.cdAnswer {s : State} {s' : State} {id} (hs : s.Canon) (e : s.cdAnswer id = some s') : s'.Canon := by
  grind [State.cdAnswer, !State.Canon.cdAccept, !State.Canon.cdServe, State.Canon]

theorem State.Canon.cdMove {s : State} {s' : State} {id} (hs : s.Canon) (e : s.cdMove id = some s') : s'.Canon := by
  grind [State.cdMove, !State.Canon.cdAnswer, !State.Canon.cdRefill, State.Canon]

theorem State.Canon.cdPump {s : State} {id n} (hs : s.Canon) : (s.cdPump id n).Canon := by
  fun_induction State.cdPump <;> grind [!State.Canon.cdMove, State.Canon]

theorem State.Canon.cdSettle {s : State} {id n} (hs : s.Canon) : (s.cdSettle id n).Canon := by
  fun_induction State.cdSettle <;> grind [!State.Canon.cdAnswer, State.Canon]

theorem Canonical.execConduitRefill {s : State} {cid} (hs : s.Canon) : Canonical (execConduitRefill cid s) := by
  unfold Machine.execConduitRefill
  split
  · exact .next hs
  · split
    · exact .next (.cdPump hs)
    · exact .next hs

/-! ## Instructions -/

theorem Keeps.conduitAt {cd} : Keeps (conduitAt cd) := by
  unfold Machine.conduitAt
  refine .bind .curT fun _ => .bind .gang fun _ => .bind .getKernel fun _ => .when .illegal fun _ => .bind .get fun _ => ?_
  split
  · exact .pure _
  · exact .illegal

theorem Keeps.conduitWait {cd w rel f} : Keeps (conduitWait cd w rel f) := by
  unfold Machine.conduitWait
  refine .bind .thread fun _ => .ite ?_ ?_
  · exact .pure _
  · refine .bind .conduitAt fun _ => .bind .curT fun _ => .when .releaseAt fun _ => .bind .modThread fun _ => .bind (.modify fun _ hs =>
    .cdSettle hs) fun _ => .bind .thread fun _ => ?_
    split
    · exact .waitFor
    · exact .ite (.throw _) .trap
    · exact .pure _

theorem Canonical.execCdsend {s : State} {g d a cd n k} (hs : s.Canon) : Canonical (execCdsend g d a cd n k s) :=
  .code hs (.bind .conduitAt fun _ => .bind .readWords fun _ => .bind .conduitWait fun _ => .putWord)

theorem Keeps.cdWrite {d l} : Keeps (cdWrite d l) := by
  induction l generalizing d with
  | nil => exact .pure _
  | cons w ws ih => exact .bind .writeReg fun _ => ih

theorem Canonical.execCdrecv {s : State} {g d a cd k} (hs : s.Canon) : Canonical (execCdrecv g d a cd k s) := by
  unfold Machine.execCdrecv
  refine .code hs ?_
  refine .bind .conduitWait fun _ => ?_
  split
  · exact .bind .cdWrite fun _ => .putWord
  · exact .putWord

theorem Canonical.execCdpeek {s : State} {g d a cd k} (hs : s.Canon) : Canonical (execCdpeek g d a cd k s) := by
  unfold Machine.execCdpeek
  refine .code hs ?_
  refine .bind .conduitAt fun _ => ?_
  split
  split
  · extract_lets jp
    have hjp : ∀ x, Keeps (jp x) := fun _ => .bind .cdWrite fun _ => .putWord
    split
    · exact .bind (.throw _) fun _ => hjp ()
    · exact hjp ()
  · exact .putWord

theorem Canonical.execCdclose {s : State} {g d cd k} (hs : s.Canon) : Canonical (execCdclose g d cd k s) :=
  .code hs (.bind .conduitWait fun _ => .putWord)

end Sys2Proof.Machine

end

section
/-! LAWS. Canonical memory: the Brass walker (13_object R293 to R297). -/

namespace Sys2Proof.Machine

/-! ## Failures of the side log -/

theorem State.Canon.logDropped {s : State} {c} (hs : s.Canon) : (s.logDropped c).Canon := .setErrst (.updCtx hs)

theorem State.Canon.failHeld {s : State} {kern gid id c} (hs : s.Canon) : (s.failHeld kern gid id c).Canon := hs

theorem State.Canon.logFail {s : State} {gid c v fault} (hs : s.Canon) : (s.logFail gid c v fault).Canon := by
  have hf {es k id} {b : Bool} : ((if b then (s.updGang gid fun x => { x with slog := es }).failHeld k gid id c
      else s.updGang gid fun x => { x with slog := es }) : State).Canon := .ite (.failHeld (.updGang hs)) (.updGang hs)
  unfold State.logFail
  split
  · exact hs
  · split
    · exact hs
    · dsimp only
      split
      · exact .logDropped hf
      · split
        · exact .logDropped hf
        · exact .ite (.logDropped hf) (.updThread hf)

/-! ## Ranges -/

theorem State.Canon.setGrans {s : State} {v l} (hs : s.Canon) : (s.setGrans v l).Canon := by
  induction l generalizing s with
  | nil => exact hs
  | cons p ps ih => exact ih (.foldl hs fun _ _ hs => .setGranAt hs)

theorem State.Canon.refreshLines {s : State} {core rs} (hs : s.Canon) : (s.refreshLines core rs).Canon := .updCore hs

/-! ## The walk -/

theorem Keeps.wXlate {core w va need} : Keeps (wXlate core w va need) := by
  unfold Machine.wXlate
  refine .get_bind fun _ hs => .bind (.set (.xlate hs)) fun _ => ?_
  split
  · exact .pure _
  · exact .throw _
  · exact .throw _
  · exact .throw _
  · split
    · exact .throw _
    · exact .throw _
    · exact .bind (.set (.of_eq (.raiseFault (.xlate hs)) ‹_›)) fun _ => .throw _

theorem Keeps.wSpans {core w need l} : Keeps (wSpans core w need l) := by
  induction l with
  | nil => exact .pure _
  | cons q qs ih => exact .bind .wXlate fun _ => .ite (.throw _) (.bind ih fun _ => .pure _)

theorem Keeps.wHeader {core w va} : Keeps (wHeader core w va) := by
  unfold Machine.wHeader
  refine .ite ?_ ?_
  · exact .throw _
  · refine .bind .wXlate fun _ => .get_bind fun _ hs => .ite ?_ ?_
    · exact .throw _
    · refine .ite ?_ ?_
      · exact .throw _
      · refine .bind (.set (.noteRead hs)) fun _ => ?_
        split
        · exact .throw _
        · exact .ite (.pure _) (.throw _)

theorem Keeps.wClaim {core w va pa h} : Keeps (wClaim core w va pa h) :=
  .bind .wSpans fun _ => .bind .wXlate fun _ => .bind .get fun _ => .bind (.modify fun _ hs => .physSet hs) fun _ => .bind .get fun _ =>
    .ite (.throw _) (.bind (.modify fun _ hs => .refreshLines (.setGrans hs)) fun _ => .pure _)

theorem State.Canon.publishBody {s : State} {core scope rs} (hs : s.Canon) : (s.publishBody core scope rs).Canon :=
  .refreshLines (.setGrans (.cleanLines hs))

theorem Keeps.wVisit {core w va} : Keeps (wVisit core w va) := by
  unfold Machine.wVisit
  refine .bind .wHeader fun _ => .bind .get fun _ => ?_
  split
  · exact .throw _
  · exact .ite .wClaim (.ite (.bind .wXlate fun _ => .bind (.modify fun _ hs => .physSet hs) fun _ => .pure _) (.pure _))

theorem Keeps.wLoop {core w} : Keeps (wLoop core w) := by
  unfold Machine.wLoop
  refine .ite ?_ ?_
  · exact .bind .wVisit fun _ => .pure _
  · split
    · exact .ite (.pure _) (.ite (.throw _) (.pure _))
    · refine .bind .wHeader fun _ => .ite ?_ ?_
      · exact .bind .wXlate fun _ => .bind (.modify fun _ hs => .physSet hs) fun _ => .pure _
      · refine .bind .wXlate fun _ => .ite ?_ ?_
        · refine .bind (.throw _) fun _ => .get_bind fun _ hs => ?_
          split
          · exact .pure _
          · split
            · exact .bind (.set (.noteRead hs)) fun _ => .throw _
            · exact .bind .wVisit fun _ => .pure _
        · refine .get_bind fun _ hs => ?_
          split
          · exact .pure _
          · split
            · exact .bind (.set (.noteRead hs)) fun _ => .throw _
            · exact .bind .wVisit fun _ => .pure _

/-! ## Operations over an object's range (R299, R300, R305) -/

theorem State.Canon.clearRanges {s : State} {l} (hs : s.Canon) : (s.clearRanges l).Canon := by
  fun_induction State.clearRanges <;> grind [!State.Canon.putTags, State.Canon]

theorem State.Canon.ownRanges {s : State} {me rs} (hs : s.Canon) : (s.ownRanges me rs).Canon := .foldl hs fun _ _ hs => hs

theorem State.Canon.evictRanges {s : State} {core rs} (hs : s.Canon) : (s.evictRanges core rs).Canon := .foldl hs fun _ _ hs => .evict hs

theorem State.Canon.formatObject {s : State} {core c len rs} (hs : s.Canon) : (s.formatObject core c len rs).Canon := by
  unfold State.formatObject
  split
  · exact .ownRanges (.setGrans (.evictRanges hs))
  · exact .clearRanges (.setGranAt (.physSet (.ownRanges (.setGrans (.evictRanges hs)))))

theorem State.Canon.endObject {s : State} {core c pa h rs} (hs : s.Canon) : (s.endObject core c pa h rs).Canon := by
  have hranges {t : State} (ht : t.Canon) : (match rs with
      | (a, n) :: qs => t.clearRanges ((a + 16, n - 16) :: qs)
      | [] => t).Canon := by
    split
    · exact .clearRanges ht
    · exact ht
  exact .ite (hranges (.setGrans (.physSet (.evictRanges hs)))) (hranges (.setGrans (.physSet (.evictRanges hs))))

theorem Keeps.wJob {core w y} : Keeps (wJob core w y) := by
  unfold Machine.wJob
  split
  · exact .bind .get fun _ => .ite (.bind .wSpans fun _ => .bind (.modify fun _ hs => .formatObject hs) fun _ => .pure _) (.pure _)
  · refine .get_bind fun _ hs => .bind (.set (.noteRead hs)) fun _ => ?_
    extract_lets h finish other foreign live
    have hfinish : ∀ x, Keeps (finish x) := fun _ => .ite (.pure _) (.bind (.modify fun _ hs => .endObject hs) fun _ => .pure _)
    have hother : ∀ x, Keeps (other x) := by
      intro _
      dsimp only [other]
      split
      · exact .bind (.throw _) hfinish
      · exact hfinish ()
    have hlive : ∀ x, Keeps (live x) := fun _ => .when (.throw _) fun _ => .when (.throw _) hother
    split
    · exact .bind (.throw _) hlive
    · exact hlive ()

theorem Keeps.wStep {core w} : Keeps (wStep core w) := by
  unfold Machine.wStep
  split
  · exact .bind .wJob fun _ => .pure _
  · exact .bind (.modify fun _ hs => .publishBody hs) fun _ => .pure _
  · refine .bind .wLoop fun _ => ?_
    split
    · exact .pure _
    · exact .pure _

theorem State.Canon.setWalk {s : State} {core w} (hs : s.Canon) : (s.setWalk core w).Canon := .updCore hs

theorem State.Canon.updWaiter {s : State} {w f} (hs : s.Canon) : (s.updWaiter w f).Canon := .updFor hs

theorem State.Canon.walkDone {s : State} {core w} (hs : s.Canon) : (s.walkDone core w).Canon :=
  .finishStop (.ite (.setWalk hs) (.ite (.updWaiter (.setWalk hs)) (.updWaiter (.setWalk hs))))

theorem State.Canon.walkFail {s : State} {core w c v fault} (hs : s.Canon) : (s.walkFail core w c v fault).Canon :=
  .finishStop (.ite (.withGang (.setWalk hs) (fun _ hs => .logFail hs)) (.ite (.updWaiter (.setWalk hs)) (.updWaiter (.setWalk hs))))

theorem State.Canon.walkStep {s : State} {core} (hs : s.Canon) : (s.walkStep core).Canon := by
  unfold State.walkStep
  split
  · exact hs
  · split
    · exact hs
    · split
      · exact .walkFail hs
      · exact hs
      · split
        · exact .walkDone (.of_ok .wStep hs ‹_›)
        · exact .setWalk (.of_ok .wStep hs ‹_›)
        · exact .walkFail (.of_error .wStep hs ‹_›)
        · exact .setWalk (.of_error .wStep hs ‹_›)
        · exact .of_error .wStep hs ‹_›
        · exact .ite (.walkFail (.setWalk (.of_error .wStep hs ‹_›))) (.setWalk (.of_error .wStep hs ‹_›))

theorem Canonical.execBrassWalk {s : State} {core} (hs : s.Canon) : Canonical (execBrassWalk core s) := .next (.walkStep hs)

end Sys2Proof.Machine

end

section
/-! LAWS. Canonical memory: the object family (13_object R285, R299 to R305). -/

namespace Sys2Proof.Machine

theorem Keeps.xlateSpans {need l} : Keeps (xlateSpans need l) := by
  induction l with
  | nil => exact .pure _
  | cons q qs ih => exact .bind .xlate fun _ => .ite .trap (.bind ih fun _ => .pure _)

theorem Keeps.askJob {α : Type} {r j} : Keeps (askJob r j : M α) :=
  .bind .curT fun _ => .bind .gang fun _ => .bind .get fun _ => .bind (.modify fun _ hs => .queueJob hs) fun _ => .waitFor

theorem Keeps.jobStatus : Keeps jobStatus := by
  unfold Machine.jobStatus
  refine .bind .thread fun _ => ?_
  split
  · exact .pure _
  · exact .pure _

theorem Canonical.execObjinit {s : State} {g d a b k} (hs : s.Canon) : Canonical (execObjinit g d a b k s) := by
  unfold Machine.execObjinit
  refine .code hs ?_
  refine .bind .readAddr fun _ => .bind .natSrc fun _ => .bind .thread fun _ => .when .trap fun _ => .when .trap fun _ => .bind .jobStatus fun _ => ?_
  split
  · exact .putWord
  · exact .bind .xlateSpans fun _ => .bind .checkBrk fun _ => .askJob

theorem Keeps.readRef {i} : Keeps (readRef i) := .readPair

theorem Keeps.walkTo {r sc} : Keeps (walkTo r sc) := by
  unfold Machine.walkTo
  refine .bind .thread fun _ => ?_
  split
  · exact .pure _
  · exact .bind .validateRef fun _ => .askWalk

theorem Keeps.allPerformed : Keeps allPerformed := .bind .gang fun _ => .when .waitFor fun _ => .bind .get fun _ => .ite .waitFor (.pure _)

theorem Canonical.execPublish {s : State} {g d a k sc} (hs : s.Canon) : Canonical (execPublish g d a k sc s) := by
  unfold Machine.execPublish
  refine .codeSwp hs ?_
  refine .bind .readRef fun _ => .bind .thread fun _ => ?_
  extract_lets jp
  have hjp : ∀ x, Keeps (jp x) := fun _ => .bind .walkTo fun _ => .putWord
  exact .ite (.bind .validateRef fun _ => .bind .allPerformed fun _ => hjp ()) (hjp ())

theorem Keeps.holdStore {a v tags cls rel} (hrel : Keeps rel) : Keeps (holdStore a v tags cls rel) := by
  unfold Machine.holdStore
  refine .bind .checkMem fun _ => .bind .curT fun _ => ?_
  split
  · exact .bind .checkBrk fun _ => .bind hrel fun _ => .writeRow
  · exact .bind .gang fun _ => .when .waitFor fun _ => .bind .xlate fun _ => .bind .checkBrk fun _ => .when .objectCheck fun _ =>
    .when .hostCheck fun _ => .bind hrel fun _ => .ite (.modify fun _ hs => .writeClass hs) (.ite (.modify fun _ hs => .remoteWrite hs)
      (.modify fun _ hs => .physSet hs))

theorem Keeps.firstWalk {r sc} : Keeps (firstWalk r sc) := by
  unfold Machine.firstWalk
  refine .bind .thread fun _ => ?_
  split
  · exact .pure _
  · exact .pure _
  · exact .bind .modThread fun _ => .walkTo

theorem Canonical.execPubst {s : State} {g d a b k sc} (hs : s.Canon) : Canonical (execPubst g d a b k sc s) := by
  unfold Machine.execPubst
  refine .codeSwp hs (.bind .readAddr fun _ => .bind .readRef fun _ => .bind .thread fun _ => ?_)
  extract_lets walk order
  have hwalk : ∀ x, Keeps (walk x) := fun _ => .bind .firstWalk fun _ => .bind .modThread fun _ => .bind (.holdStore .releaseAt) fun _ =>
    .bind .modThread fun _ => .putWord
  have horder : ∀ x, Keeps (order x) := fun _ => .bind .allPerformed fun _ => .bind .reportLog hwalk
  refine .ite (.bind .validateRef fun _ => .bind .checkMem fun _ => ?_) (hwalk ())
  split
  · exact .bind .xlate fun _ => horder ()
  · exact horder ()

theorem Canonical.execRefmk {s : State} {g d a k} (hs : s.Canon) : Canonical (execRefmk g d a k s) :=
  .code hs (.bind .readAddr fun _ => .bind .validateRef fun _ => .bind .writePair fun _ => .pure _)

theorem Canonical.execObjst {s : State} {g d a b k} (hs : s.Canon) : Canonical (execObjst g d a b k s) :=
  .code hs (.bind .readRef fun _ => .bind .natSrc fun _ => .bind .pairAny fun _ => .bind .validateRef fun _ => .when .trap fun _ =>
    .bind (.holdStore (.pure _)) fun _ => .pure _)

theorem Canonical.execReclaim {s : State} {g a k} (hs : s.Canon) : Canonical (execReclaim g a k s) := by
  unfold Machine.execReclaim
  refine .code hs ?_
  refine .bind .readRef fun _ => .bind .jobStatus fun _ => ?_
  split
  · exact .pure _
  · refine .when .modThread fun _ => .bind .validateRef fun _ => .bind .curT fun _ => .bind .get fun _ => .when .trap fun _ => ?_
    extract_lets jp
    have hjp : ∀ x, Keeps (jp x) := fun _ => .bind .xlateSpans fun _ => .bind .reportLog fun _ => .bind .releaseAt fun _ => .askJob
    split
    · exact .bind .waitFor fun _ => hjp ()
    · exact hjp ()

end Sys2Proof.Machine

end

section
/-! LAWS. Canonical memory: the replay of a gang's side log (17_page R373, R374). -/

namespace Sys2Proof.Machine

theorem Keeps.logWalk {r sc h} : Keeps (logWalk r sc h) :=
  .bind .curT fun _ => .bind .gang fun _ => .bind .get fun _ => .bind (.modify fun _ hs => .queueWalk hs) fun _ => .waitFor

theorem Keeps.replayChecks {op pa0 pte l} : Keeps (replayChecks op pa0 pte l) := by
  induction l with
  | nil => exact .pure _
  | cons x xs ih =>
    unfold Machine.replayChecks
    extract_lets pa next op'
    have hop : ∀ u, Keeps (op' u) := by
      intro u
      dsimp only [op']
      split
      · exact .when .trap fun _ => ih
      · exact .ite (.bind .get fun _ => .when .trap fun _ => ih) ih
      · exact .when .trap fun _ => ih
    exact .ite (.bind (.objectCheckWith fun _ _ _ => .logWalk) hop) (hop ())

theorem Keeps.replayRelease {op} : Keeps (replayRelease op) :=
  .ite (.bind .curT fun _ => .bind .get fun _ => .when .waitFor fun _ => .modify fun _ hs => .cleanRaw hs) (.pure _)

theorem State.Canon.orHome {s : State} {core c pa pte mask} (hs : s.Canon) : (s.orHome core c pa pte mask).2.Canon := .atomLocal hs

theorem Keeps.replayOne {no op pa0 pte x} : Keeps (replayOne no op pa0 pte x) := by
  unfold Machine.replayOne
  refine .bind .curT fun _ => .bind .gang fun _ => ?_
  extract_lets core pa link
  split
  · exact .ite (.modify fun _ hs => .writeClass hs) (.ite (.modify fun _ hs => .remoteWrite hs) (.modify fun _ hs => .physSet hs))
  · refine .ite (.get_bind fun _ hs => ?_) (.ite (.bind .get fun _ => .when .trap fun _ => .modify fun _ hs => .askRed hs)
      (.modify fun _ hs => .physSet hs))
    split
    refine .bind (.set (.of_eq (.atomLocal hs) ‹_›)) fun _ => ?_
    split
    · exact .throw _
    · exact .pure _
  · refine .get_bind fun _ hs => ?_
    split
    refine .bind (.set (.of_eq (.orHome hs) ‹_›)) fun _ => ?_
    split
    · exact .throw _
    · exact .modify fun _ hs => .notifyMaps hs

theorem Keeps.replayAll {no op pa0 pte l} : Keeps (replayAll no op pa0 pte l) := by
  induction l with
  | nil => exact .pure _
  | cons x xs ih => exact .bind .replayOne fun _ => ih

theorem Keeps.replayBrk {e} : Keeps (replayBrk e) := by
  unfold Machine.replayBrk
  refine .bind .curCtx fun _ => .ite ?_ ?_
  · exact .pure _
  · split
    · exact .brkStop
    · exact .pure _

theorem Keeps.replayEntry {no e} : Keeps (replayEntry no e) := by
  unfold Machine.replayEntry
  split
  · exact .pure _
  · exact .bind .xlate fun _ => .bind .replayBrk fun _ => .when .hostCheck fun _ => .bind .replayChecks fun _ => .bind .replayRelease fun _ =>
    .bind .replayAll fun _ => .pure _

theorem State.Canon.updHead {s : State} {gid f} (hs : s.Canon) : (s.updHead gid f).Canon := .updGang hs

theorem State.Canon.replayHead {s : State} {gid e} (hs : s.Canon) : (s.replayHead gid e).Canon := by
  unfold State.replayHead
  dsimp only
  split
  · exact .logFail hs
  · split
    · exact .updGang hs
    · split
      · exact .updHead (.setCur (.of_ok .replayEntry hs.setCur ‹_›))
      · exact .updGang (.setCur (.of_ok .replayEntry hs.setCur ‹_›))
      · exact .logFail (.setCur (.of_error .replayEntry hs.setCur ‹_›))
      · exact .logFail (.setCur (.of_error .replayEntry hs.setCur ‹_›))
      · split
        · exact .haltCtx (.updHead (.setCur (.of_error .replayEntry hs.setCur ‹_›)))
        · exact .updHead (.setCur (.of_error .replayEntry hs.setCur ‹_›))
      · exact .updHead (.setCur (.of_error .replayEntry hs.setCur ‹_›))
      · exact .setCur (.of_error .replayEntry hs.setCur ‹_›)

theorem State.Canon.replay {s : State} {gid} (hs : s.Canon) : (s.replay gid).Canon := by
  unfold State.replay
  split
  · exact .withGang hs (fun _ hs => .replayHead hs)
  · exact hs

theorem Canonical.execSideLogReplay {s : State} {gid} (hs : s.Canon) : Canonical (execSideLogReplay gid s) := .next (.replay hs)

end Sys2Proof.Machine

end

section
/-! LAWS. Canonical memory: queue and kernel instructions. -/

namespace Sys2Proof.Machine

/-! ## The packet processor's accesses -/

theorem State.Canon.ppXlate {s : State} {d c va need} (hs : s.Canon) : (s.ppXlate d c va need).2.Canon := by
  unfold State.ppXlate
  split
  · exact hs
  · split
    · exact .of_eq (.xlate hs) ‹_›
    · exact .of_eq (.xlate hs) ‹_›

theorem State.Canon.appendPacket {s : State} {q p} (hs : s.Canon) : (s.appendPacket q p).Canon := by
  grind [State.appendPacket, !State.Canon.settleQ, !State.Canon.setQueue, !State.Canon.remoteWrite, !State.Canon.ppXlate, !State.Canon.curePoison,
    !State.Canon.physSet, State.Canon]

theorem Canonical.execLaunch {s : State} {g d a b k} (hs : s.Canon) : Canonical (execLaunch g d a b k s) :=
  .code hs (.bind .natSrc fun _ => .bind .readWords fun _ => .bind .gang fun _ => .bind .get fun _ => .ite .putWord (.bind .reportLog fun _ =>
    .bind .releaseAt fun _ => .ite .putWord (.bind (.modify fun _ hs => .appendPacket hs) fun _ => .putWord)))

theorem Canonical.execQsig {s : State} {g d a b k} (hs : s.Canon) : Canonical (execQsig g d a b k s) := by
  unfold Machine.execQsig
  refine .code hs (.bind .readAddr fun _ => .bind .intSrc fun _ => .when .trap fun _ => .bind .checkMem fun _ => .bind .reportLog fun _ =>
    .bind .logLoad fun _ => .bind .xlate fun _ => .bind .checkBrk fun _ => .when .trap fun _ => .bind .objectCheck fun _ =>
    .bind .releaseAt fun _ => .bind .curT fun _ => .bind .gang fun _ => .get_bind fun _ hs => ?_)
  split
  refine .bind (.set (.of_eq (.atomLocal hs) ‹_›)) fun _ => ?_
  split
  · exact .throw _
  · exact .bind (.modify fun _ hs => .notifyWaits hs) fun _ => .putWord

theorem Keeps.cbsetMem {a mask} : Keeps (cbsetMem a mask) := by
  unfold Machine.cbsetMem
  refine .when .trap fun _ => .bind .checkMem fun _ => .bind .reportLog fun _ => .bind .curT fun _ => .bind .gang fun _ => .ite ?_ ?_
  · exact .bind .logBrk fun _ => .enterLog
  · refine .get_bind fun _ hs => .bind (.set (.xlate hs)) fun _ => ?_
    split
    · exact .trap
    · exact .enterLog
    · exact .throw _
    · exact .faultLog
    · refine .bind .checkBrk fun _ => .when .trap fun _ => .bind .objectCheck fun _ => .bind .releaseAt fun _ => .get_bind fun _ hs =>
      .bind (.set (.orHome hs)) fun _ => ?_
      split
      · exact .throw _
      · exact .modify fun _ hs => .notifyMaps hs

theorem Canonical.execCbset {s : State} {g a b k} (hs : s.Canon) : Canonical (execCbset g a b k s) :=
  .code hs (.bind .readAddr fun _ => .bind .natSrc fun _ => .bind .cbsetMem fun _ => .pure _)

/-! ## GRPQ (R150) -/

theorem Canonical.execGrpq {s : State} {g d slot item} (hs : s.Canon) : Canonical (execGrpq g d slot item s) :=
  .code hs (.bind .gang fun _ => .bind .get fun _ => .putWord)

end Sys2Proof.Machine

end

section
/-! LAWS. Canonical memory: rounding modes and float flags. -/

namespace Sys2Proof.Machine

theorem Keeps.putFloat {d r tag} : Keeps (putFloat d r tag) := .bind .addFlags fun _ => .bind .writeReg fun _ => .pure _

theorem Keeps.putFlagged {p r} : Keeps (putFlagged p r) := .bind .addFlags fun _ => .bind .writePred fun _ => .pure _

theorem Keeps.f32Src {i} : Keeps (f32Src i) := .readBits

theorem Keeps.modSrcs {a b m} : Keeps (modSrcs a b m) := .bind .thread fun _ => .bind .f32Src fun _ => .bind .f32Src fun _ => .pure _

end Sys2Proof.Machine

end

section
/-! LAWS. Canonical memory: the sweeps (10_float R223 to R229). -/

namespace Sys2Proof.Machine

theorem Keeps.sweepPlace {a n} : Keeps (sweepPlace a n) := by
  unfold Machine.sweepPlace
  refine .ite ?_ ?_
  · exact .trap
  · refine .bind .checkMem fun _ => ?_
    split
    · exact .pure _
    · exact .trap

theorem Keeps.sweepBody {op d a b cnt sd sa sb} : Keeps (sweepBody op d a b cnt sd sa sb) := by
  unfold Machine.sweepBody
  refine .bind .thread fun th => ?_
  extract_lets i
  refine .ite (.bind .modThread fun _ => .pure _) (.ite .trap (.bind .readAddr fun _ => .bind .readAddr fun _ => ?_))
  extract_lets da aa places
  have hplaces : ∀ x, Keeps (places x) := by
    refine fun bb => .bind .modThread fun _ => .bind .sweepPlace fun (dh, doff) => .bind .sweepPlace fun (ah, aoff) => ?_
    dsimp -zeta only
    extract_lets rows
    have hrows : ∀ x, Keeps (rows x) := by
      refine fun (bh, boff) => .bind .checkBrk fun _ => .bind .checkBrk fun _ => .when .checkBrk fun _ => .bind .readRow fun x => ?_
      extract_lets second
      have hsecond : ∀ y, Keeps (second y) := by
        intro y
        dsimp -zeta only [second]
        extract_lets third
        have hthird : ∀ z, Keeps (third z) := fun _ => .bind .writeRow fun _ => .bind .addFlags fun _ =>
          .ite (.bind .modThread fun _ => .pure _) (.bind .modThread fun _ => .pure _)
        exact .ite (.bind .readRow hthird) (.bind (.pure _) hthird)
      exact .ite (.bind .readRow hsecond) (.bind (.pure _) hsecond)
    exact .ite (.bind .sweepPlace hrows) (.bind (.pure _) hrows)
  exact .ite (.bind .readAddr hplaces) (.bind (.pure _) hplaces)

theorem Canonical.execSwadd {s : State} {g d a b cnt sd sa sb} (hs : s.Canon) : Canonical (execSwadd g d a b cnt sd sa sb s) := .codeSwp hs .sweepBody

theorem Canonical.execSwmul {s : State} {g d a b cnt sd sa sb} (hs : s.Canon) : Canonical (execSwmul g d a b cnt sd sa sb s) := .codeSwp hs .sweepBody

theorem Canonical.execSwfma {s : State} {g d a b cnt sd sa sb} (hs : s.Canon) : Canonical (execSwfma g d a b cnt sd sa sb s) := .codeSwp hs .sweepBody

theorem Canonical.execSwmax {s : State} {g d a b cnt sd sa sb} (hs : s.Canon) : Canonical (execSwmax g d a b cnt sd sa sb s) := .codeSwp hs .sweepBody

theorem Canonical.execSwcvt {s : State} {g d a cnt sd sa} (hs : s.Canon) : Canonical (execSwcvt g d a cnt sd sa s) := .codeSwp hs .sweepBody

theorem Canonical.execSwcopy {s : State} {g d a cnt sd sa} (hs : s.Canon) : Canonical (execSwcopy g d a cnt sd sa s) := .codeSwp hs .sweepBody

theorem Canonical.execSwsum {s : State} {g d a cnt sa} (hs : s.Canon) : Canonical (execSwsum g d a cnt sa s) := .codeSwp hs .sweepBody

theorem Canonical.execSwex2 {s : State} {g d a cnt sd sa} (hs : s.Canon) : Canonical (execSwex2 g d a cnt sd sa s) := .codeSwp hs .sweepBody

end Sys2Proof.Machine

end

section
/-! LAWS. Canonical memory: the copies (12_memory R279 to R282) and what lands later. -/

namespace Sys2Proof.Machine

/-! ## The landing barrier word (Table 14.2) -/

theorem State.Canon.releaseLanding {s : State} {h off} (hs : s.Canon) : (s.releaseLanding h off).Canon := hs

theorem State.Canon.putBarrier {s : State} {h off tick w} (hs : s.Canon) : (s.putBarrier h off tick w).Canon := by
  unfold State.putBarrier
  split
  · exact hs
  · exact .ite (.releaseLanding (.setAllocAt hs)) (.setAllocAt hs)

/-! ## The instructions -/

theorem Keeps.scratchAt {a n al} : Keeps (scratchAt a n al) := by
  unfold Machine.scratchAt
  refine .ite ?_ ?_
  · exact .trap
  · refine .bind .checkMem fun _ => ?_
    split
    · exact .pure _
    · exact .trap

theorem Keeps.copyCheck {va n} : Keeps (copyCheck va n) := .bind .logLoad fun _ => .bind .xlate fun _ => .when .hostCheck fun _ => .pure _

theorem Keeps.copySource {pa pte va n} : Keeps (copySource pa pte va n) :=
  .ite (.pure _) (.ite (.pure _) (.bind .curT fun _ => .bind .gang fun _ => .get_bind fun _ hs => .ite .trap (.bind (.set (.askPeer hs)) fun _ =>
    .pure _)))

theorem Keeps.copyRow {h off n a} : Keeps (copyRow h off n a) := by
  unfold Machine.copyRow
  refine .bind .curT fun _ => .bind .now fun _ => .bind .get fun _ => .bind .get fun _ => ?_
  split
  · exact .trap
  · extract_lets ps sc
    split
    · exact .bind (.modify fun _ hs => .ecount (.setAllocAt hs)) fun _ => .pure _
    · exact .trap
    · exact .bind (.modify fun _ hs => .ecount hs) fun _ => .pure _
    · exact .when .setLapf fun _ => .bind (.modify fun _ hs => .cureRows hs) fun _ => .pure _

theorem Keeps.cpaSource {a vb n} : Keeps (cpaSource a vb n) := by
  unfold Machine.cpaSource
  refine .ite ?_ ?_
  · exact .pure _
  · refine .bind .checkMem fun _ => ?_
    split
    · exact .bind .copyRow fun _ => .pure _
    · exact .bind .copyCheck fun _ => .pure _

theorem Keeps.launchCopy {l} : Keeps (launchCopy l) := .bind .curT fun _ => .modify fun _ hs => .updCore hs

theorem Canonical.execCpa {s : State} {g d base idx off lgw bt cls} (hs : s.Canon) : Canonical (execCpa g d base idx off lgw bt cls s) := by
  unfold Machine.execCpa
  refine .code hs ?_
  refine .bind .effAddr0 fun _ => .bind .natSrc fun _ => .bind .readAddr fun _ => .bind .scratchAt fun _ => .bind .modThread fun _ =>
    .bind .cpaSource fun _ => .bind .checkBrk fun _ => .when .checkBrk fun _ => .bind .thread fun _ => .when .waitFor fun _ => .bind .curT fun _ =>
      .bind .gang fun _ => .bind .get fun _ => ?_
  extract_lets l jp
  have hjp : ∀ x, Keeps (jp x) := fun _ => .bind .modThread fun _ => .bind .launchCopy fun _ => .pure _
  split
  · exact .bind (.pure _) fun _ => hjp _
  · exact .bind (.pure _) fun _ => hjp _
  · exact .bind .copySource fun _ => .bind (.pure _) fun _ => hjp _

theorem Canonical.execWaitb {s : State} {g bt n} (hs : s.Canon) : Canonical (execWaitb g bt n s) :=
  .code hs (.bind .reportCopies fun _ => .bind .thread fun _ => .ite (.pure _) .waitFor)

theorem Canonical.execCpb {s : State} {g d base idx off cls} (hs : s.Canon) : Canonical (execCpb g d base idx off cls s) := by
  unfold Machine.execCpb
  refine .codeSwp hs ?_
  refine .bind .effAddr0 fun _ => .bind .natSrc fun _ => .bind .readAddr fun _ => .bind (.bind .readBits fun _ => .bind .readBits fun _ =>
    .pure _) fun _ => .bind .thread fun _ => .when .trap fun _ => .when .trap fun _ => .bind .scratchAt fun _ => .bind .scratchAt fun _ => .ite ?_ ?_
  · exact .bind .modThread fun _ => .pure _
  · exact .bind .modThread fun _ => .bind .modThread fun _ => .bind .copyCheck fun _ => .bind .checkBrk fun _ => .bind .checkBrk fun _ =>
    .bind .curT fun _ => .bind .gang fun _ => .bind .copySource fun _ => .bind .get fun _ => .bind .launchCopy fun _ =>
      .ite (.bind .modThread fun _ => .pure _) (.bind .modThread fun _ => .pure _)

/-! ## Landing -/

theorem State.Canon.copyFault {s : State} {l c v} (hs : s.Canon) : (s.copyFault l c v).Canon := .updThread hs

theorem State.Canon.copyLapse {s : State} {l} (hs : s.Canon) : (s.copyLapse l).Canon := .updThread hs

theorem State.Canon.landSource {s : State} {core l} (hs : s.Canon) : (s.landSource core l).2.Canon := by
  grind [State.landSource, !State.Canon.copyFault, !State.Canon.readClass, State.Canon]

theorem State.Canon.landMeet {s : State} {l a ps} (hs : s.Canon) : (s.landMeet l a ps).Canon := .ite (.setAllocAt hs) hs

theorem State.Canon.landRow {s : State} {l tick data row} (hs : s.Canon) : (s.landRow l tick data row).Canon := by
  grind [State.landRow, !State.Canon.copyFault, !State.Canon.ecount, !State.Canon.landMeet, !State.Canon.setAllocAt, !State.Canon.copyLapse,
    State.Canon]

theorem State.Canon.landBytes {s : State} {l data} (hs : s.Canon) : (s.landBytes l data).Canon := .foldl hs fun _ _ hs => .landRow hs

theorem State.Canon.countBatch {s : State} {l} (hs : s.Canon) : (s.countBatch l).Canon := by
  unfold State.countBatch
  split
  · exact hs
  · exact .updThread hs

theorem State.Canon.countPiece {s : State} {l} (hs : s.Canon) : (s.countPiece l).Canon := by
  grind [State.countPiece, !State.Canon.copyFault, !State.Canon.ecount, !State.Canon.landMeet, !State.Canon.copyLapse, !State.Canon.putBarrier,
    State.Canon]

theorem State.Canon.land {s : State} {core n isPiece} (hs : s.Canon) : (s.land core n isPiece).Canon := by
  unfold State.land
  split
  · exact hs
  · split
    · exact hs
    · exact .finishStop (.countPiece (.countBatch (.ite (.landSource (.updCore hs)) (.landBytes (.landSource (.updCore hs))))))

theorem Canonical.execCpaLanding {s : State} {core n} (hs : s.Canon) : Canonical (execCpaLanding core n s) := .next (.land hs)

theorem Canonical.execCpbPieceLanding {s : State} {core n} (hs : s.Canon) : Canonical (execCpbPieceLanding core n s) := .next (.land hs)

/-! ## Loads and lines -/

theorem State.Canon.writeRegs {s : State} {t l} (hs : s.Canon) : (s.writeRegs t l).Canon := by
  fun_induction State.writeRegs <;> grind [!State.Canon.writeReg, State.Canon]

theorem Canonical.execLoadDelivery {s : State} {t n} (hs : s.Canon) : Canonical (execLoadDelivery t n s) := by
  grind [Machine.execLoadDelivery, !State.Canon.finishStop, !State.Canon.updThread, !State.Canon.writeRegs, State.Canon, Canonical]

theorem Canonical.execColumnCacheEviction {s : State} {core line} (hs : s.Canon) : Canonical (execColumnCacheEviction core line s) :=
  .next (.evict hs)

end Sys2Proof.Machine

end

section
/-! LAWS. Canonical memory: the allocation family (11_allocation R244 to R248). -/

namespace Sys2Proof.Machine

theorem State.Canon.savePage {s : State} {core c} (hs : s.Canon) : (s.savePage core c).Canon := by
  unfold State.savePage
  split
  · exact hs
  · exact .updCore (.curePoison (.physSet hs))

theorem State.Canon.saveFrom {s : State} {core n c k} (hs : s.Canon) : (s.saveFrom core n c k).Canon := by
  fun_induction State.saveFrom <;> grind [!State.Canon.savePage, State.Canon]

theorem State.Canon.claimPages {s : State} {c core n} (hs : s.Canon) : (s.claimPages c core n).Canon := .foldl hs fun _ _ hs => .saveFrom hs

theorem State.Canon.updPageOf {s : State} {kern h f} (hs : s.Canon) : (s.updPageOf kern h f).Canon := by
  unfold State.updPageOf
  split
  · exact .updGang hs
  · exact .updGang hs
  · exact .updGang hs
  · exact .updInst hs
  · exact .updInst hs

theorem State.Canon.restorePage {s : State} {p} (hs : s.Canon) : (s.restorePage p).Canon := by
  grind [State.restorePage, !State.Canon.updPageOf, !State.Canon.noteRead, State.Canon]

theorem Canonical.execSpalloc {s : State} {g d a k} (hs : s.Canon) : Canonical (execSpalloc g d a k s) :=
  .code hs (.bind .natSrc fun _ => .bind .curT fun _ => .bind .gang fun _ => .bind .now fun _ => .bind .get fun _ =>
    .ite .putWord (.ite .putWord (.bind (.modify fun _ hs => .updGang (.claimPages hs)) fun _ => .putWord)))

theorem Canonical.execSpfree {s : State} {g d a k} (hs : s.Canon) : Canonical (execSpfree g d a k s) :=
  .code hs (.bind .natSrc fun _ => .bind .curT fun _ => .bind .gang fun _ => .ite .putWord (.bind .get fun _ =>
    .ite .waitFor (.bind (.modify fun _ hs => .updGang hs) fun _ => .putWord)))

theorem Keeps.rowPlace {a n al} : Keeps (rowPlace a n al) := by
  unfold Machine.rowPlace
  refine .bind .checkMem fun _ => ?_
  split
  · exact .pure _
  · exact .trap

theorem Keeps.meetSpan {h al r n va} : Keeps (meetSpan h al r n va) := .bind .curT fun _ => .meetAt

theorem Canonical.execRtouch {s : State} {g d a b _k} (hs : s.Canon) : Canonical (execRtouch g d a b _k s) := by
  unfold Machine.execRtouch
  refine .code hs (.bind .readAddr fun _ => .bind .natSrc fun _ => .when .illegal fun _ => ?_)
  extract_lets step
  refine .when .trap fun _ => .bind .rowPlace fun _ => .bind .now fun _ => .bind .get fun _ => ?_
  split
  · exact .trap
  · extract_lets r k put touch
    refine .bind .meetSpan fun _ => ?_
    have htouch : ∀ x, Keeps (touch x) := fun _ => .bind (.modify fun _ hs => .setAllocAt hs) fun _ => .when .setLapf fun _ => .putWord
    split
    · exact .bind .trap htouch
    · exact htouch ()

theorem Keeps.namedAlloc {a} : Keeps (namedAlloc a) := by
  unfold Machine.namedAlloc
  refine .bind .curT fun _ => .bind .get fun _ => ?_
  split
  · refine .ite ?_ ?_
    · exact .trap
    · split
      · exact .trap
      · split
        · exact .pure _
        · exact .trap
  · refine .ite ?_ ?_
    · exact .trap
    · split
      · exact .ite .trap (.pure _)
      · exact .trap
  · exact .trap

theorem Canonical.execRclass {s : State} {g d a ka cls life} (hs : s.Canon) : Canonical (execRclass g d a ka cls life s) :=
  .code hs (.bind .readAddr fun _ => .bind .gang fun _ => .bind .getKernel fun _ => .bind .now fun _ => .bind .namedAlloc fun _ =>
    .when .illegal fun _ => .bind .meetSpan fun _ => .bind (.modify fun _ hs => .setAllocAt hs) fun _ => .putWord)

theorem Canonical.execRage {s : State} {g d a k} (hs : s.Canon) : Canonical (execRage g d a k s) := by
  unfold Machine.execRage
  refine .code hs ?_
  refine .bind .readAddr fun _ => .when .trap fun _ => .bind .rowPlace fun _ => .bind .now fun _ => .bind .get fun _ => ?_
  split
  · exact .trap
  · exact .bind .meetSpan fun _ => .putWord

end Sys2Proof.Machine

end

section
/-! LAWS. Canonical memory: the gang collectives. -/

namespace Sys2Proof.Machine

/-! ## Completion (R170 to R175) -/

theorem State.Canon.putResult {s : State} {t d r tag} (hs : s.Canon) : (s.putResult t d r tag).Canon := .writeReg (.updThread hs)

theorem State.Canon.collWrite {s : State} {t c ws m} (hs : s.Canon) : (s.collWrite t c ws m).Canon := by
  unfold State.collWrite
  split
  · exact .writeReg hs
  · split
    · exact .updThread hs
    · exact .writeReg hs
  · exact .putResult hs
  · exact .putResult hs

theorem State.Canon.collDeliver {s : State} {gid ws m c} (hs : s.Canon) : (s.collDeliver gid ws m c).Canon := .complete (.ite hs (.collWrite hs))

theorem State.Canon.judgeColl {s : State} {gid} (hs : s.Canon) : (s.judgeColl gid).Canon := by
  grind [State.judgeColl, !State.Canon.collDeliver, !State.Canon.updGang, !State.Canon.foldl, State.Canon]

/-! ## The instructions -/

theorem Keeps.collective {guard arr op0} (harr : Keeps arr) : Keeps (collective guard arr op0) := by
  unfold Machine.collective
  refine .bind .curT fun _ => .bind .thread fun _ => ?_
  extract_lets jp
  have hjp : ∀ x, Keeps (jp x) := fun _ =>
    .bind (.modify fun _ hs => .judgeColl (.updGang hs)) fun _ => .bind .gang fun _ => .ite .waitFor (.pure _)
  exact .ite (.bind harr fun _ => hjp _) (.bind (.pure _) fun _ => hjp _)

theorem Canonical.execLxch {s : State} {g d a b k mode kp} (hs : s.Canon) : Canonical (execLxch g d a b k mode kp s) := by
  unfold Machine.execLxch
  refine .codeAny hs (fun _ => ?_)
  refine .collective ?_
  refine .bind .readReg fun _ => ?_
  extract_lets jp
  have hjp : ∀ x, Keeps (jp x) := fun _ => .pure _
  exact .ite (.bind (.pure _) fun _ => hjp _) (.bind .natSrc fun _ => hjp _)

theorem Canonical.execPagr {s : State} {g d q k kind} (hs : s.Canon) : Canonical (execPagr g d q k kind s) :=
  .codeAny hs (fun _ => .collective (.bind .readPred fun _ => .pure _))

theorem Canonical.execRedg {s : State} {g d a k op} (hs : s.Canon) : Canonical (execRedg g d a k op s) :=
  .codeAny hs (fun _ => .collective (.bind .readReg fun _ => .pure _))

theorem Canonical.execScang {s : State} {g d a k op excl} (hs : s.Canon) : Canonical (execScang g d a k op excl s) :=
  .codeAny hs (fun _ => .collective (.bind .readReg fun _ => .pure _))

end Sys2Proof.Machine

end

section
/-! LAWS. Canonical memory: the barrier family (14_barrier R306 to R317). -/

namespace Sys2Proof.Machine

/-! ## Group barriers -/

theorem State.Canon.releaseBarrier {s : State} {i b} (hs : s.Canon) : (s.releaseBarrier i b).Canon := hs

theorem State.Canon.judgeBarrier {s : State} {i b} (hs : s.Canon) : (s.judgeBarrier i b).Canon := by
  unfold State.judgeBarrier
  split
  · exact hs
  · exact .ite (.releaseBarrier (.updInst hs)) hs

theorem Keeps.barrierAt {gs b} : Keeps (barrierAt gs b) := by
  unfold Machine.barrierAt
  refine .bind .gang fun _ => ?_
  split
  · exact .trap
  · refine .bind .get fun _ => ?_
    split
    · exact .trap
    · exact .ite .trap (.pure _)

theorem Keeps.arrive {gs b} : Keeps (arrive gs b) :=
  .bind .barrierAt fun _ => .bind .curT fun _ => .when .trap fun _ => .bind .reportLog fun _ => .bind .releaseAt fun _ => .bind (.modify fun _ hs =>
    .judgeBarrier (.updInst hs)) fun _ => .pure _

theorem Keeps.awaitPhase {gs b tok} : Keeps (awaitPhase gs b tok) :=
  .bind .barrierAt fun _ => .bind .thread fun _ => .ite (.bind .acquireAt fun _ => .pure _) .waitFor

theorem Keeps.arriveAndWait {gs bn} : Keeps (arriveAndWait gs bn) := .bind .arrive fun _ => .bind .modThread fun _ => .awaitPhase

theorem Canonical.execBar {s : State} {g bn gs k} (hs : s.Canon) : Canonical (execBar g bn gs k s) := by
  unfold Machine.execBar
  refine .code hs ?_
  refine .bind .thread fun _ => ?_
  split
  · exact .awaitPhase
  · exact .awaitPhase
  · exact .arriveAndWait

theorem Canonical.execBara {s : State} {g d bn gs k} (hs : s.Canon) : Canonical (execBara g d bn gs k s) := .code hs (.bind .arrive fun _ => .putWord)

theorem Canonical.execBarw {s : State} {g a bn gs k} (hs : s.Canon) : Canonical (execBarw g a bn gs k s) :=
  .code hs (.bind .barrierAt fun _ => .bind .natSrc fun _ => .awaitPhase)

/-! ## Landing barriers -/

theorem Keeps.barrierWord {a} : Keeps (barrierWord a) := .bind .scratchAt fun _ => .bind .readRow fun _ => .pure _

theorem Keeps.checkWord {w} : Keeps (checkWord w) := .ite .illegal (.pure _)

theorem Canonical.execXbinit {s : State} {g a b k} (hs : s.Canon) : Canonical (execXbinit g a b k s) :=
  .code hs (.bind .readAddr fun _ => .bind .natSrc fun _ => .bind .scratchAt fun _ => .when .illegal fun _ => .bind .checkBrk fun _ =>
    .bind .writeRow fun _ => .pure _)

theorem Canonical.execXbarr {s : State} {g d a b k} (hs : s.Canon) : Canonical (execXbarr g d a b k s) :=
  .code hs (.bind .readAddr fun _ => .bind .natSrc fun _ => .bind .barrierWord fun _ => .bind .checkBrk fun _ => .bind .checkWord fun _ =>
    .bind .releaseAt fun _ => .when .trap fun _ => .when .trap fun _ => .bind .now fun _ => .bind (.modify fun _ hs => .putBarrier hs) fun _ =>
      .putWord)

theorem Canonical.execXbwait {s : State} {g a b k} (hs : s.Canon) : Canonical (execXbwait g a b k s) :=
  .code hs (.bind .readAddr fun _ => .bind .natSrc fun _ => .bind .thread fun _ => .bind .reportCopies fun _ => .ite (.pure _)
    (.bind .barrierWord fun _ => .bind .checkBrk fun _ => .bind .checkWord fun _ => .ite (.pure _) .waitFor))

theorem Canonical.execXbtry {s : State} {g p a b k} (hs : s.Canon) : Canonical (execXbtry g p a b k s) :=
  .code hs (.bind .readAddr fun _ => .bind .natSrc fun _ => .bind .reportCopies fun _ => .bind .barrierWord fun _ => .bind .checkBrk fun _ =>
    .bind .checkWord fun _ => .bind .writePred fun _ => .pure _)

end Sys2Proof.Machine

end

section
/-! LAWS. Canonical memory: the matrix unit (15_tile R321 to R337). -/

namespace Sys2Proof.Machine

/-! ## Slots (R322 to R324) -/

theorem State.Canon.setSlot {s : State} {i k y} (hs : s.Canon) : (s.setSlot i k y).Canon := .updInst hs

theorem State.Canon.issueTile {s : State} {i k op} (hs : s.Canon) : (s.issueTile i k op).Canon := by
  unfold State.issueTile
  split
  · exact hs
  · exact .setSlot hs

/-! ## Reading rows -/

theorem State.Canon.cureTile {s : State} {i ms} (hs : s.Canon) : (s.cureTile i ms).Canon := by
  unfold State.cureTile
  split
  · split
    · exact .ite (.ecount (.updInst hs)) hs
    · exact hs
  · exact hs

theorem State.Canon.putSlotRows {s : State} {i k tick ws} (hs : s.Canon) : (s.putSlotRows i k tick ws).Canon := .updInst hs

/-! ## The tile fetcher (R327, R328) -/

theorem Keeps.tSpans {core c need l} : Keeps (tSpans core c need l) := by
  induction l with
  | nil => exact .pure _
  | cons q qs ih =>
    unfold Machine.tSpans
    refine .when (.throw _) fun _ => .get_bind fun s hs => .bind (.set (.xlate hs)) fun _ => ?_
    split
    · exact .bind ih fun _ => .pure _
    · exact .throw _
    · exact .throw _
    · exact .throw _
    · split
      · exact .throw _
      · exact .throw _
      · exact .bind (.set (.of_eq (.raiseFault (.xlate hs)) ‹_›)) fun _ => .throw _

theorem Keeps.tPhys {core va pa n} : Keeps (tPhys core va pa n) := by
  unfold Machine.tPhys
  refine .bind (.modify fun _ hs => .noteRead (.foldl hs fun _ _ hs => .cleanLine hs)) fun _ => .bind .get fun _ => ?_
  split
  · exact .throw _
  · exact .pure _

theorem Keeps.tRead {core l} : Keeps (tRead core l) := by
  induction l with
  | nil => exact .pure _
  | cons q qs ih =>
    unfold Machine.tRead
    exact .when (.throw _) fun _ => .bind .tPhys fun _ => .bind ih fun _ => .pure _

theorem Keeps.tBytes {core c t va n} : Keeps (tBytes core c t va n) := by
  unfold Machine.tBytes
  refine .bind .get fun _ => ?_
  extract_lets x
  split
  · exact .ite (.bind (.throw _) fun _ => .bind .tSpans fun _ => .tRead) (.bind .tSpans fun _ => .tRead)
  · exact .bind .tSpans fun _ => .tRead

/-! ## Descriptors (Table 15.3) -/

theorem Keeps.tRow {core c t d r n} : Keeps (tRow core c t d r n) := .ite (.bind (.pure _) fun _ => .pure _) (.bind .tBytes fun _ => .pure _)

theorem Keeps.tRows {core c t d n m j} : Keeps (tRows core c t d n m j) := by
  induction j generalizing m with
  | zero => exact .pure _
  | succ k ih => exact .bind .tRow fun _ => .bind ih fun _ => .pure _

theorem Keeps.tMatrix {core c t d p q} : Keeps (tMatrix core c t d p q) := .ite (.bind .tRows fun _ => .pure _) .tRows

/-! ## Operands (R325 to R329) -/

theorem State.Canon.countFail {s : State} {core x} (hs : s.Canon) : (s.countFail core x).Canon := by
  unfold State.countFail
  split
  · exact .ecount hs
  · exact hs

theorem Keeps.tScratchWords {core h a ms x} : Keeps (tScratchWords core h a ms x) := by
  unfold Machine.tScratchWords
  split
  · exact .bind (.modify fun _ hs => .cureRows hs) fun _ => .pure _
  · exact .bind (.modify fun _ hs => .countFail (.setAllocAt hs)) fun _ => .throw _

theorem Keeps.tScratch {core tick h off addr} : Keeps (tScratch core tick h off addr) := by
  unfold Machine.tScratch
  refine .bind .get fun _ => ?_
  split
  · exact .throw _
  · exact .tScratchWords

theorem Keeps.tScratchOffsets {core tick h off addr m} : Keeps (tScratchOffsets core tick h off addr m) := by
  unfold Machine.tScratchOffsets
  refine .bind .get fun _ => ?_
  split
  · exact .throw _
  · exact .tScratchWords

theorem Keeps.tVectors {core c t tick e kk isB x} : Keeps (tVectors core c t tick e kk isB x) := by
  unfold Machine.tVectors
  split
  · exact .bind .tScratch fun _ => .pure _
  · exact .ite (.bind .tMatrix fun _ => .pure _) (.bind .tMatrix fun _ => .pure _)

theorem Keeps.tCached {core key v} : Keeps (tCached core key v) := by
  unfold Machine.tCached
  refine .get_bind fun _ hs => ?_
  split
  · exact .ite (.pure _) (.bind (.set (.updCore hs)) fun _ => .pure _)
  · exact .bind (.set (.updCore hs)) fun _ => .pure _

theorem Keeps.tOffset {core c t d isB l m} : Keeps (tOffset core c t d isB l m) := .ite (.bind .tBytes fun _ => .tCached) (.pure _)

theorem Keeps.tOffsets {core c t d isB l} : Keeps (tOffsets core c t d isB l) := by
  induction l with
  | nil => exact .pure _
  | cons p ps ih => exact .bind .tOffset fun _ => .bind ih fun _ => .pure _

theorem Keeps.tScales {core c t tick kk isB x} : Keeps (tScales core c t tick kk isB x) := by
  unfold Machine.tScales
  split
  · exact .bind .tScratchOffsets fun _ => .pure _
  · exact .bind .tOffsets fun _ => .pure _

/-! ## Applying one operation -/

theorem Keeps.tElems {i x k tick tag} : Keeps (tElems i x k tick tag) := by
  unfold Machine.tElems
  split
  · exact .bind (.modify fun _ hs => .cureTile hs) fun _ => .pure _
  · exact .bind (.modify fun _ hs => .countFail (.updInst hs)) fun _ => .throw _

theorem Keeps.tMma {i x k tick y z t} : Keeps (tMma i x k tick y z t) :=
  .bind .tVectors fun _ => .bind .tVectors fun _ => .bind .tElems fun _ => .pure _

theorem Keeps.tMmq {i x k tick y z t} : Keeps (tMmq i x k tick y z t) :=
  .bind .tVectors fun _ => .bind .tScales fun _ => .bind .tVectors fun _ => .bind .tScales fun _ => .bind .tElems fun _ => .pure _

theorem Keeps.tLoad {x tick y d t} : Keeps (tLoad x tick y d t) := .bind .tMatrix fun _ => .ite (.pure _) (.pure _)

theorem Keeps.tBase {core c t x} : Keeps (tBase core c t x) := by
  unfold Machine.tBase
  split
  · exact .pure _
  · exact .ite (.pure _) (.bind .tBytes fun _ => .bind .tCached fun _ => .pure _)

theorem Keeps.tRun {i x k tick y z} : Keeps (tRun i x k tick y z) := by
  unfold Machine.tRun
  split
  · exact .ite (.ite (.throw _) .tMmq) (.ite (.throw _) .tMma)
  · exact .pure _
  · exact .tLoad
  · exact .bind .tBase fun _ => .bind .tBase fun _ => .pure _
  · exact .pure _
  · exact .pure _

theorem State.Canon.applyTile {s : State} {i k} (hs : s.Canon) : (s.applyTile i k).Canon := by
  unfold State.applyTile
  dsimp only
  split
  · exact hs
  · split
    · exact hs
    · split
      · exact hs
      · split
        · exact .finishStop (.setSlot hs)
        · split
          · exact .finishStop (.setSlot (.putSlotRows (.of_ok .tRun hs ‹_›)))
          · exact .finishStop (.setSlot (.of_error .tRun hs ‹_›))
          · exact .finishStop (.setSlot (.of_error .tRun hs ‹_›))
          · exact .finishStop (.setSlot (.of_error .tRun hs ‹_›))
          · exact .of_error .tRun hs ‹_›

theorem Canonical.execTileOpApply {s : State} {iid acc} (hs : s.Canon) : Canonical (execTileOpApply iid acc s) := .next (.applyTile hs)

end Sys2Proof.Machine

end

section
/-! LAWS. Canonical memory: the tile family. -/

namespace Sys2Proof.Machine

/-! ## Common checks (R338, R333) -/

theorem Keeps.slotAt {gs acc} : Keeps (slotAt gs acc) := by
  unfold Machine.slotAt
  refine .bind .gang fun _ => ?_
  split
  · exact .illegal
  · refine .bind .get fun _ => ?_
    split
    · exact .illegal
    · exact .ite .illegal (.pure _)

theorem Keeps.reportSlot {i acc} : Keeps (reportSlot i acc) := by
  unfold Machine.reportSlot
  refine .bind .get fun _ => ?_
  split
  · exact .pure _
  · split
    · exact .pure _
    · exact .bind (.modify fun _ hs => .setSlot hs) fun _ => .ite (.throw _) .trap

theorem Keeps.slotReport {gs acc} : Keeps (slotReport gs acc) := .bind .slotAt fun _ => .bind .reportSlot fun _ => .pure _

theorem Keeps.issueSlot {i acc op} : Keeps (issueSlot i acc op) := .bind .curT fun _ => .modify fun _ hs => .issueTile hs

theorem Keeps.handleDesc {n} : Keeps (handleDesc n) := by
  unfold Machine.handleDesc
  refine .bind .gang fun _ => ?_
  split
  · exact .pure _
  · exact .illegal

theorem Keeps.wordHandle {i w} : Keeps (wordHandle i w) := .ite .trap .handleDesc

theorem Keeps.lapsedReg {i} : Keeps (lapsedReg i) := .bind .curT fun _ => .bind .gang fun _ => .bind .now fun _ => .pure _

theorem Keeps.requireTag {i ts w} : Keeps (requireTag i ts w) :=
  .bind .curCtx fun _ => .bind .lapsedReg fun _ => .ite (.pure _) (.ite .modThread .trap)

theorem Keeps.pairOpnd {x} : Keeps (pairOpnd x) := by
  unfold Machine.pairOpnd
  split
  · exact .bind .handleDesc fun _ => .pure _
  · exact .bind .readReg fun _ => .ite (.bind .wordHandle fun _ => .pure _) (.ite (.pure _) (.bind .requireTag fun _ => .bind .readBits fun _ =>
    .pure _))

theorem Keeps.handleOpnd {x} : Keeps (handleOpnd x) := by
  unfold Machine.handleOpnd
  split
  · exact .handleDesc
  · exact .bind .readBits fun _ => .wordHandle

/-! ## THDL (R339) -/

theorem Canonical.execThdl {s : State} {g hn a} (hs : s.Canon) : Canonical (execThdl g hn a s) :=
  .code hs (.bind .readAddr fun _ => .when .trap fun _ => .bind .loadMem fun _ => .when .trap fun _ => .bind .curT fun _ =>
    .bind (.modify fun _ hs => .updGang hs) fun _ => .pure _)

/-! ## Signing (R318 to R320, R340) -/

theorem State.Canon.settleTiles {s : State} {key op} (hs : s.Canon) : (s.settleTiles key op).Canon := hs

theorem State.Canon.judgeCv {s : State} {i k} (hs : s.Canon) : (s.judgeCv i k).Canon := by
  grind [State.judgeCv, !State.Canon.settleTiles, !State.Canon.updInst, !State.Canon.issueTile, State.Canon]

theorem State.Canon.sign {s : State} {i k r} (hs : s.Canon) : (s.sign i k r).Canon := .judgeCv (.updInst hs)

theorem Keeps.mulOpnd {fmt bytes x} : Keeps (mulOpnd fmt bytes x) := by
  unfold Machine.mulOpnd
  split
  · exact .ite (.pure _) .illegal
  · exact .bind .scratchAt fun _ => .bind .checkBrk fun _ => .pure _

theorem Keeps.signMul {on q m gs cv acc A B} : Keeps (signMul on q m gs cv acc A B) := by
  unfold Machine.signMul
  refine .bind .slotAt fun _ => .when .illegal fun _ => .bind .reportSlot fun _ => .bind .curT fun _ => .when .waitFor fun _ => .ite ?_ ?_
  · refine .when .illegal fun _ => .bind .pairOpnd fun _ => .bind .mulOpnd fun _ => .bind .pairOpnd fun _ => .bind .mulOpnd fun _ => ?_
    extract_lets z jp
    have hjp : ∀ x, Keeps (jp x) := fun _ => .bind .releaseAt fun _ => .bind (.modify fun _ hs => .sign hs) fun _ => .pure _
    split
    · exact .ite (.bind .trap fun _ => hjp ()) (hjp ())
    · exact hjp ()
  · exact .bind .releaseAt fun _ => .bind (.modify fun _ hs => .sign hs) fun _ => .pure _

theorem Canonical.execTmma {s : State} {g gs cv acc A B f16} (hs : s.Canon) : Canonical (execTmma g gs cv acc A B f16 s) :=
  .codeAny hs (fun _ => .signMul)

theorem Canonical.execTmmq {s : State} {g gs cv acc A B n4} (hs : s.Canon) : Canonical (execTmmq g gs cv acc A B n4 s) :=
  .codeAny hs (fun _ => .signMul)

/-! ## TZERO, TSCALE (R341, R342) -/

theorem Canonical.execTzero {s : State} {g gs acc src} (hs : s.Canon) : Canonical (execTzero g gs acc src s) := by
  unfold Machine.execTzero
  refine .code hs ?_
  refine .bind .slotReport fun _ => ?_
  split
  split
  · exact .bind .issueSlot fun _ => .pure _
  · exact .bind .handleOpnd fun _ => .when .illegal fun _ => .bind .issueSlot fun _ => .pure _

theorem Keeps.baseOpnd {x} : Keeps (baseOpnd x) := by
  unfold Machine.baseOpnd
  split
  · exact .bind .handleDesc fun _ => .pure _
  · exact .bind .readReg fun _ => .ite (.bind .wordHandle fun _ => .pure _) (.bind .requireTag fun _ => .pure _)

theorem Canonical.execTscale {s : State} {g gs acc A B} (hs : s.Canon) : Canonical (execTscale g gs acc A B s) :=
  .code hs (.bind .slotReport fun _ => .bind .baseOpnd fun _ => .bind .baseOpnd fun _ => .bind .issueSlot fun _ => .pure _)

/-! ## TWAIT, TFLAG (R345) -/

theorem Keeps.awaitSlot {gs acc} : Keeps (awaitSlot gs acc) := by
  unfold Machine.awaitSlot
  refine .bind .slotAt fun _ => .bind .thread fun _ => .bind .curT fun _ => ?_
  extract_lets jp
  have hjp : ∀ x, Keeps (jp x) := fun _ => .bind .reportSlot fun _ => .pure _
  exact .ite (.bind .get fun _ => .bind .modThread fun _ => .ite (.bind .waitFor fun _ => hjp ()) (hjp ())) (hjp ())

theorem Canonical.execTflag {s : State} {g gs acc} (hs : s.Canon) : Canonical (execTflag g gs acc s) :=
  .code hs (.bind .awaitSlot fun _ => .bind .addFlags fun _ => .when .setLapf fun _ => .pure _)

theorem Canonical.execTwait {s : State} {g gs acc} (hs : s.Canon) : Canonical (execTwait g gs acc s) := .code hs (.bind .awaitSlot fun _ => .pure _)

/-! ## TCVT, TSTORE (R343, R344) -/

theorem Keeps.takeTurn {i acc op} : Keeps (takeTurn i acc op) := by
  unfold Machine.takeTurn
  refine .bind .curT fun _ => .bind .get fun _ => ?_
  split
  · exact .illegal
  · refine .bind ?_ fun _ => ?_
    · split
      · exact .pure _
      · exact .bind (.modify fun _ hs => .issueTile hs) fun _ => .pure _
    · exact .when .waitFor fun _ => .bind .reportSlot fun _ => .pure _

theorem Keeps.endTurn {i acc} : Keeps (endTurn i acc) := by
  refine .bind .curT fun _ => .bind .gang fun _ => .modify fun s hs => .finishStop ?_
  split
  · exact .setSlot hs
  · exact hs

theorem Keeps.rowSel {b} : Keeps (rowSel b) := .bind .natSrc fun _ => .ite .illegal (.pure _)

theorem Keeps.tileStop {α : Type} {x} : Keeps (tileStop x : M α) := by
  unfold Machine.tileStop
  split
  · exact .ite (.throw _) .trap
  · exact .illegal

theorem Keeps.readElems {n x k tick f l} : Keeps (readElems n x k tick f l) := by
  induction l with
  | nil => exact .pure _
  | cons e es ih =>
    unfold Machine.readElems
    refine .bind .get fun _ => ?_
    dsimp only
    split
    · exact .bind (.modify fun _ hs => .countFail (.updInst hs)) fun _ => .tileStop
    · exact .when .setLapf fun _ => .bind (.modify fun _ hs => .cureTile hs) fun _ => .bind ih fun _ => .pure _

theorem Keeps.instNow {i} : Keeps (instNow i) := by
  unfold Machine.instNow
  refine .bind .get fun _ => ?_
  split
  · exact .pure _
  · exact .illegal

theorem Canonical.execTcvt {s : State} {g gs acc a b bf} (hs : s.Canon) : Canonical (execTcvt g gs acc a b bf s) :=
  .code hs (.bind .slotAt fun _ => .bind .rowSel fun _ => .bind .readAddr fun _ => .bind .scratchAt fun _ => .bind .checkBrk fun _ =>
    .bind .curT fun _ => .bind .takeTurn fun _ => .bind .instNow fun _ => .bind .now fun _ => .bind .readElems fun _ => .bind .writeRow fun _ =>
      .bind .addFlags fun _ => .bind .endTurn fun _ => .pure _)

theorem Keeps.storeSpans {l} : Keeps (storeSpans l) := by
  induction l with
  | nil => exact .pure _
  | cons q qs ih =>
    unfold Machine.storeSpans
    exact .when .trap fun _ => .bind .gang fun _ => .when .waitFor fun _ => .bind .xlate fun _ => .bind ih fun _ => .pure _

theorem Keeps.checkSpans {l} : Keeps (checkSpans l) := by
  induction l with
  | nil => exact .pure _
  | cons q qs ih => exact .bind .checkBrk fun _ => .when .objectCheck fun _ => .when .hostCheck fun _ => ih

theorem Keeps.writePiece {va pa pte n v} : Keeps (writePiece va pa pte n v) :=
  .bind .curT fun _ => .bind .gang fun _ => .ite (.modify fun _ hs => .writeClass hs) (.ite (.modify fun _ hs => .remoteWrite hs)
    (.modify fun _ hs => .physSet hs))

theorem Keeps.writePieces {va0 pa0 pte v l} : Keeps (writePieces va0 pa0 pte v l) := by
  induction l with
  | nil => exact .pure _
  | cons q qs ih => exact .bind .writePiece fun _ => ih

theorem Keeps.writeSpans {v l} : Keeps (writeSpans v l) := by
  induction l generalizing v with
  | nil => exact .pure _
  | cons q qs ih => exact .bind .writePieces fun _ => ih

theorem Keeps.noteQsat {i acc fl} : Keeps (noteQsat i acc fl) := by
  unfold Machine.noteQsat
  refine .modify fun _ hs => ?_
  split
  · exact .ite (.setSlot hs) hs
  · exact hs

theorem Keeps.storeLine {i acc d l} : Keeps (storeLine i acc d l) :=
  .bind .storeSpans fun _ => .bind .checkSpans fun _ => .bind .instNow fun _ => .bind .now fun _ => .bind .readElems fun _ =>
    .bind .writeSpans fun _ => .noteQsat

theorem Keeps.storeDesc {x acc H} : Keeps (storeDesc x acc H) := by
  unfold Machine.storeDesc
  refine .bind .curT fun _ => ?_
  split
  · exact .pure _
  · exact .bind .handleOpnd fun _ => .when .illegal fun _ => .pure _

theorem Canonical.execTstore {s : State} {g gs acc H b} (hs : s.Canon) : Canonical (execTstore g gs acc H b s) := by
  unfold Machine.execTstore
  refine .codeSwp hs ?_
  refine .bind .slotAt fun _ => .bind .storeDesc fun _ => .bind .rowSel fun _ => .bind .curT fun _ => .bind .takeTurn fun _ =>
    .bind .instNow fun _ => .when .illegal fun _ => .bind .thread fun _ => ?_
  extract_lets k
  split
  · exact .bind .modThread fun _ => .bind .endTurn fun _ => .pure _
  · exact .bind .modThread fun _ => .bind .storeLine fun _ => .ite (.bind .modThread fun _ => .pure _) (.bind .modThread fun _ =>
    .bind .endTurn fun _ => .pure _)

end Sys2Proof.Machine

end

section
/-! LAWS. Canonical memory: populations (16_population R346 to R352, R358, R360). -/

namespace Sys2Proof.Machine

theorem State.Canon.updPop {s : State} {kern f} (hs : s.Canon) : (s.updPop kern f).Canon := .updKernel hs

theorem State.Canon.judgePop {s : State} {kern} (hs : s.Canon) : (s.judgePop kern).Canon := by
  unfold State.judgePop
  split
  · exact hs
  · split
    · exact hs
    · split
      · split
        · split
          · exact .foldl (.updPop hs) fun _ _ hs => .takeTrap hs
          · exact .updPop hs
        · exact hs
      · exact hs

theorem State.Canon.popLeave {s : State} {kern t} (hs : s.Canon) : (s.popLeave kern t).Canon := .ite (.updPop (.updPop hs)) (.judgePop (.updPop hs))

theorem Keeps.memberCheck : Keeps memberCheck :=
  .bind .thread fun _ => .bind .gang fun _ => .bind .getKernel fun _ => .when .trap fun _ => .ite .trap (.pure _)

theorem Keeps.popArrive {kern a ops} : Keeps (popArrive kern a ops) := by
  unfold Machine.popArrive
  refine .bind .getKernel fun _ => ?_
  split
  · exact .trap
  · extract_lets r join
    have hjoin : ∀ x, Keeps (join x) := fun _ => .modify fun _ hs => .judgePop (.updPop hs)
    split
    · exact .when .trap hjoin
    · exact hjoin ()

theorem Keeps.resampleOps {a b c opnd} : Keeps (resampleOps a b c opnd) := by
  unfold Machine.resampleOps
  refine .bind .f32Src fun _ => .bind .natSrc fun _ => ?_
  extract_lets jp
  have hjp : ∀ x, Keeps (jp x) := fun _ => .when .trap fun _ => .pure _
  exact .ite (.bind .natSrc fun _ => hjp _) (.bind (.pure _) fun _ => hjp _)

theorem Canonical.execResample {s : State} {g d a b c k opnd} (hs : s.Canon) : Canonical (execResample g d a b c k opnd s) := by
  unfold Machine.execResample
  refine .codeAny hs (fun _ => ?_)
  refine .bind .thread fun _ => .bind .memberCheck fun _ => ?_
  extract_lets jp
  have hjp : ∀ x, Keeps (jp x) := fun _ => .when .waitFor fun _ => .bind .reportLog fun _ => .bind .releaseAt fun _ => .bind .curT fun _ =>
    .bind .gang fun _ => .bind .popArrive fun _ => .bind .get fun _ => .ite .waitFor (.pure _)
  exact .ite (.bind (.bind .resampleOps fun _ => .pure _) fun _ => hjp _) (.bind (.pure _) fun _ => hjp _)

theorem Canonical.execPcount {s : State} {g d item k} (hs : s.Canon) : Canonical (execPcount g d item k s) := by
  unfold Machine.execPcount
  refine .code hs ?_
  refine .bind .gang fun _ => .bind .getKernel fun _ => .bind .get fun _ => ?_
  split
  · exact .trap
  · exact .putWord

end Sys2Proof.Machine

end

section
/-! LAWS. Canonical memory: how threads and gangs end. -/

namespace Sys2Proof.Machine

/-! ## Gangs (R140) -/

theorem State.Canon.freeGang {s : State} {gid} (hs : s.Canon) : (s.freeGang gid).Canon := by
  unfold State.freeGang
  split
  · exact hs
  · exact .settleCtx hs

theorem State.Canon.sweepGangs {s : State} (hs : s.Canon) : s.sweepGangs.Canon := .foldl hs fun _ _ hs => .ite hs (.freeGang hs)

/-! ## Kernels (R138) -/

theorem State.Canon.settleKernel {s : State} {kern} (hs : s.Canon) : (s.settleKernel kern).Canon := by
  unfold State.settleKernel
  split
  · exact hs
  · exact .ite (.repoint (.updKernel hs)) hs

/-! ## Threads -/

theorem State.Canon.judgeInsts {s : State} {is} (hs : s.Canon) : (s.judgeInsts is).Canon := by
  grind [State.judgeInsts, !State.Canon.judgeBarrier, !State.Canon.judgeCv, !State.Canon.foldl, State.Canon]

theorem State.Canon.judgeGang {s : State} {gid g} (hs : s.Canon) : (s.judgeGang gid g).Canon := .judgeInsts (.judgeColl hs)

theorem State.Canon.removeThread {s : State} {t} (hs : s.Canon) : (s.removeThread t).Canon := by
  grind [State.removeThread, !State.Canon.leaveGroup, !State.Canon.freeHeld, !State.Canon.updGang, !State.Canon.dropTurns, !State.Canon.logDropped,
    State.Canon]

theorem State.Canon.exitThread {s : State} {t} (hs : s.Canon) : (s.exitThread t).Canon := by
  grind [State.exitThread, !State.Canon.popLeave, !State.Canon.progress, !State.Canon.sweepGangs, !State.Canon.judgeGang, !State.Canon.settleKernel,
    !State.Canon.removeThread, State.Canon]

theorem Keeps.exitBody : Keeps exitBody :=
  .bind .reportAll fun _ => .bind .thread fun _ => .when .waitFor fun _ => .bind .curT fun _ => .bind (.modify fun _ hs => .exitThread hs) fun _ =>
    .pure _

theorem Canonical.execExit {s : State} {g} (hs : s.Canon) : Canonical (execExit g s) := .codeEnd hs .exitBody

theorem Canonical.execPkill {s : State} {g k} (hs : s.Canon) : Canonical (execPkill g k s) := .code hs (.bind .memberCheck fun _ => .exitBody)

/-! ## Waits given up -/

theorem State.Canon.abandon {s : State} {t} (hs : s.Canon) : (s.abandon t).Canon := by
  grind [State.abandon, !State.Canon.updPop, !State.Canon.updGang, State.Canon]

end Sys2Proof.Machine

end

section
/-! LAWS. Canonical memory: kernels. -/

namespace Sys2Proof.Machine

/-! ## Reading what a packet names -/

theorem State.Canon.ppAsk {s : State} {d c dev pa va} (hs : s.Canon) : (s.ppAsk d c dev pa va).Canon := .ite hs (.askPeer hs)

theorem State.Canon.ppPeer {s : State} {d c dev pa va n} (hs : s.Canon) : (s.ppPeer d c dev pa va n).2.Canon := by
  grind [State.ppPeer, !State.Canon.ppAsk, !State.Canon.foldl, State.Canon]

theorem State.Canon.ppRead {s : State} {d c va n} (hs : s.Canon) : (s.ppRead d c va n).2.Canon := by
  unfold State.ppRead
  split
  · split
    · exact .noteRead (.of_eq (.ppXlate hs) ‹_›)
    · split
      · exact .ppPeer (.of_eq (.ppXlate hs) ‹_›)
      · split
        · exact .of_eq (.ppXlate hs) ‹_›
        · exact .of_eq (.ppXlate hs) ‹_›
  · exact .of_eq (.ppXlate hs) ‹_›

theorem State.Canon.ppDone {s : State} {d} (hs : s.Canon) : (s.ppDone d).Canon := hs

theorem State.Canon.ppTable {s : State} {d c va b n} (hs : s.Canon) : (s.ppTable d c va b n).2.Canon := by
  fun_induction State.ppTable <;> grind [!State.Canon.ppRead, State.Canon]

theorem State.Canon.readKernel {s : State} {d c va} (hs : s.Canon) : (s.readKernel d c va).2.Canon := by
  unfold State.readKernel
  split
  · exact hs
  · split
    · exact .of_eq (.ppRead hs) ‹_›
    · exact .of_eq (.ppRead hs) ‹_›
    · split
      · exact .of_eq (.ppRead hs) ‹_›
      · split
        · exact .of_eq (.ppTable (.of_eq (.ppRead hs) ‹_›)) ‹_›
        · exact .of_eq (.ppTable (.of_eq (.ppRead hs) ‹_›)) ‹_›
        · split
          · exact .of_eq (.ppTable (.of_eq (.ppTable (.of_eq (.ppRead hs) ‹_›)) ‹_›)) ‹_›
          · exact .of_eq (.ppTable (.of_eq (.ppTable (.of_eq (.ppRead hs) ‹_›)) ‹_›)) ‹_›
          · split
            · exact .of_eq (.ppTable (.of_eq (.ppTable (.of_eq (.ppRead hs) ‹_›)) ‹_›)) ‹_›
            · exact .of_eq (.ppTable (.of_eq (.ppTable (.of_eq (.ppRead hs) ‹_›)) ‹_›)) ‹_›

/-! ## The completion record (R103) -/

theorem State.Canon.ppWrite {s : State} {d c va n v} (hs : s.Canon) : (s.ppWrite d c va n v).2.Canon := by
  unfold State.ppWrite
  split
  · exact .of_eq (.ppXlate hs) ‹_›
  · split
    · exact .physSet (.of_eq (.ppXlate hs) ‹_›)
    · split
      · split
        · exact .physSet (.of_eq (.ppXlate hs) ‹_›)
        · exact .of_eq (.ppXlate hs) ‹_›
      · split
        · exact .of_eq (.ppXlate hs) ‹_›
        · exact .remoteWrite (.of_eq (.ppXlate hs) ‹_›)

theorem State.Canon.writeRecord {s : State} {d c cpl w done} (hs : s.Canon) : (s.writeRecord d c cpl w done).Canon := by
  unfold State.writeRecord
  split
  · exact hs
  · split
    · exact .setErrst hs
    · split
      · exact .setErrst (.of_eq (.ppWrite hs) ‹_›)
      · split
        · exact .notifyWaits (.of_eq (.ppWrite (.of_eq (.ppWrite hs) ‹_›)) ‹_›)
        · exact .setErrst (.of_eq (.ppWrite (.of_eq (.ppWrite hs) ‹_›)) ‹_›)

theorem State.Canon.packetDone {s : State} {q w} (hs : s.Canon) : (s.packetDone q w).Canon := .settleQ (.setQueue hs)

end Sys2Proof.Machine

end

section
/-! LAWS. Canonical memory: which port carries a flit, and what a port leaves behind when it stops carrying any (18_link R383 to R388, R392, R398). -/

namespace Sys2Proof.Machine

theorem State.Canon.addRefused {s : State} {c} (hs : s.Canon) : (s.addRefused c).Canon := .updCtx hs

theorem State.Canon.countDropped {s : State} {fs} (hs : s.Canon) : (s.countDropped fs).Canon := .foldl hs fun _ _ hs => .addRefused hs

theorem State.Canon.portLeaves {s : State} {p f} (hs : s.Canon) : (s.portLeaves p f).Canon := .setPort (.countDropped hs)

theorem State.Canon.retrain {s : State} {p} (hs : s.Canon) : (s.retrain p).Canon := .ite hs (.portLeaves hs)

theorem State.Canon.retrainQuiet {s : State} (hs : s.Canon) : s.retrainQuiet.Canon := .foldl hs fun _ _ hs => .ite (.retrain hs) hs

end Sys2Proof.Machine

end

section
/-! LAWS. Canonical memory: the special registers and the rest of the system family. -/

namespace Sys2Proof.Machine

theorem State.Canon.readCyc {s : State} {t} (hs : s.Canon) : (s.readCyc t).Canon := .setDie hs

theorem Canonical.execMfs {s : State} {g d sp} (hs : s.Canon) : Canonical (execMfs g d sp s) :=
  .code hs (.bind .curT fun _ => .bind .thread fun _ => .bind .gang fun _ => .bind .get fun _ => .when (.modify fun _ hs => .readCyc hs) fun _ =>
    .ite .putL64 .putWord)

theorem Canonical.execMts {s : State} {g a ka sp} (hs : s.Canon) : Canonical (execMts g a ka sp s) := by
  unfold Machine.execMts
  refine .code hs ?_
  refine .bind .thread fun _ => ?_
  extract_lets jp
  have hjp : ∀ x, Keeps (jp x) := fun _ => .ite (.bind .modThread fun _ => .pure _) .illegal
  exact .ite (.bind .readL64 fun _ => hjp _) (.bind .natSrc fun _ => hjp _)

theorem Canonical.execRnd {s : State} {g d w64} (hs : s.Canon) : Canonical (execRnd g d w64 s) :=
  .code hs (.bind .thread fun _ => .bind .gang fun _ => .bind .getKernel fun _ => .bind .modThread fun _ => .ite .putL64 .putWord)

/-! ## The trace ring (R412, R413) -/

theorem State.Canon.traceRecord {s : State} {die c v} (hs : s.Canon) : (s.traceRecord die c v).Canon :=
  .ite hs (.ite (.setDie hs) (.setDie (.curePoison (.physSet hs))))

theorem Canonical.execTrace {s : State} {g a b k} (hs : s.Canon) : Canonical (execTrace g a b k s) :=
  .code hs (.bind .readBits fun _ => .bind .readBits fun _ => .bind .curT fun _ => .bind .thread fun _ => .bind .gang fun _ => .get_bind fun _ hs =>
    .bind (.set (.traceRecord hs)) fun _ => .pure _)

end Sys2Proof.Machine

end

section
/-! LAWS. Canonical memory: which agent moves next (log entry 3). -/

namespace Sys2Proof.Machine

theorem State.Canon.atEdge {s : State} (hs : s.Canon) : s.atEdge.Canon := hs

theorem State.Canon.elapse {s : State} {n} (hs : s.Canon) : (s.elapse n).Canon := .atEdge (.retrainQuiet hs)

end Sys2Proof.Machine

end

section
/-! LAWS. Canonical memory: placing one instruction where the next step fetches (log entry 1). -/

namespace Sys2Proof.Machine

end Sys2Proof.Machine

end

section
/-! LAWS. Canonical memory: admission. -/

namespace Sys2Proof.Machine

/-! ## Claims (R87, R120, R121) -/

theorem State.Canon.saveRecords {s : State} {c n l} (hs : s.Canon) : (s.saveRecords c n l).2.Canon := by
  fun_induction State.saveRecords <;> grind [!State.Canon.devXlate, !State.Canon.curePoison, !State.Canon.physSet, State.Canon]

theorem State.Canon.saveConduit {s : State} {id c} (hs : s.Canon) : (s.saveConduit id c).Canon := .saveRecords hs

theorem State.Canon.claimConduits {s : State} {core n} (hs : s.Canon) : (s.claimConduits core n).Canon :=
  .foldl hs fun _ _ hs => .ite hs (.saveConduit hs)

/-! ## Admission (R134) -/

theorem State.Canon.makeInst {s : State} {kern core k tick e j} (hs : s.Canon) : (s.makeInst kern core k tick e j).2.Canon := by
  unfold State.makeInst
  split
  · exact hs
  · exact hs

theorem State.Canon.groupSlots {s : State} {kern core k tick l} (hs : s.Canon) : (s.groupSlots kern core k tick l).2.Canon := by
  fun_induction State.groupSlots <;> grind [!State.Canon.makeInst, State.Canon]

theorem State.Canon.startLanes {s : State} {k gid gidx n} (hs : s.Canon) : (s.startLanes k gid gidx n).Canon := by
  fun_induction State.startLanes <;> grind [!State.Canon.writeRegs, State.Canon]

theorem State.Canon.makeConduits {s : State} {kern core n} (hs : s.Canon) : (s.makeConduits kern core n).Canon := by
  fun_induction State.makeConduits <;> grind [!State.Canon.cdPut, State.Canon]

theorem State.Canon.admitGang {s : State} {kern core g} (hs : s.Canon) : (s.admitGang kern core g).Canon := by
  unfold State.admitGang
  split
  · exact hs
  · split
    · exact hs
    · exact .acquire (.startLanes (.updKernel (.groupSlots (.ite (.parkGang hs) (.makeConduits (.parkGang hs))))))

theorem State.Canon.admitUnit {s : State} {kern k p} (hs : s.Canon) : (s.admitUnit kern k p).Canon :=
  .ite (.foldl hs fun _ _ hs => .ite (.claimConduits hs) hs) (.ite (.updCtx (.enterCtx (.updKernel (.foldl (.foldl (.foldl hs fun _ _ hs =>
    .ite (.claimConduits hs) hs) fun _ _ hs => .claimPages hs) fun _ _ hs => .admitGang hs)))) (.updKernel (.foldl (.foldl (.foldl hs fun _ _ hs =>
      .ite (.claimConduits hs) hs) fun _ _ hs => .claimPages hs) fun _ _ hs => .admitGang hs)))

theorem State.Canon.notePlace {s : State} {c} (hs : s.Canon) : (s.notePlace c).Canon := .ite (.ite (.updCtx hs) hs) (.ite (.updCtx hs) hs)

theorem Canonical.execUnitAdmission {s : State} {kern} (hs : s.Canon) : Canonical (execUnitAdmission kern s) := by
  grind [Machine.execUnitAdmission, !State.Canon.admitUnit, !State.Canon.sweepGangs, !State.Canon.updCtx, !State.Canon.notePlace, State.Canon,
    Canonical]

end Sys2Proof.Machine

end

section
/-! LAWS. Canonical memory: the packet processors (05_queue R97 to R113). -/

namespace Sys2Proof.Machine

/-! ## The next packet (R109, R110) -/

theorem State.Canon.headPacket {s : State} {q} (hs : s.Canon) : (s.headPacket q).2.Canon := .ppRead hs

theorem State.Canon.awaitHead {s : State} {s' : State} {q} (hs : s.Canon) (e : s.awaitHead q = some s') : s'.Canon := by
  grind [State.awaitHead, !State.Canon.headPacket, State.Canon]

theorem State.Canon.addBad {s : State} {q} (hs : s.Canon) : (s.addBad q).Canon := .physSet hs

theorem State.Canon.takePacket {s : State} {q binds} (hs : s.Canon) : (s.takePacket q binds).Canon :=
  .settleQ (.setQueue (.setDie (.ppDone (.ite (.addBad hs) hs))))

theorem State.Canon.badPacket {s : State} {q} (hs : s.Canon) : (s.badPacket q).Canon := .addBad (.takePacket hs)

theorem State.Canon.packetWaits {s : State} {q idx w} (hs : s.Canon) : (s.packetWaits q idx w).Canon := .settleQ (.setQueue hs)

theorem Canonical.packetOf {s : State} {ty q f} (hs : s.Canon) (hf : ∀ a b s, State.Canon s → State.Canon (f a b s))
    : Canonical (packetOf ty q f s) := by
  unfold Machine.packetOf
  split
  · exact .next (.awaitHead hs ‹_›)
  · split
    · exact .next hs
    · split
      · split
        · exact .next (.of_eq (.headPacket hs) ‹_›)
        · split
          · exact .next (hf _ _ _ (.of_eq (.headPacket hs) ‹_›))
          · exact .next (.badPacket (.of_eq (.headPacket hs) ‹_›))
      · exact .next hs

theorem Canonical.execPacketNop {s : State} {q} (hs : s.Canon) : Canonical (execPacketNop q s) := by
  unfold Machine.execPacketNop
  split
  · exact .next (.awaitHead hs ‹_›)
  · split
    · exact .next hs
    · split
      · split
        · exact .next (.takePacket (.of_eq (.headPacket hs) ‹_›))
        · split
          · exact .next (.badPacket (.of_eq (.headPacket hs) ‹_›))
          · exact .next (.of_eq (.headPacket hs) ‹_›)
      · exact .next (.badPacket (.of_eq (.headPacket hs) ‹_›))

/-! ## KERNEL (R103, R111) -/

theorem State.Canon.addKernel {s : State} {k} (hs : s.Canon) : (s.addKernel k).Canon := .ite (.updKernel (.repoint hs)) (.repoint hs)

theorem State.Canon.startKernel {s : State} {q p idx} (hs : s.Canon) : (startKernel q p idx s).Canon := by
  grind [Machine.startKernel, !State.Canon.readKernel, !State.Canon.addKernel, !State.Canon.writeRecord, !State.Canon.packetWaits,
    !State.Canon.takePacket, State.Canon]

theorem Canonical.execPacketKernel {s : State} {q} (hs : s.Canon) : Canonical (execPacketKernel q s) := .packetOf hs (fun _ _ _ hs => .startKernel hs)

/-! ## SIGNAL (R104) -/

theorem State.Canon.remoteSignal {s : State} {q c dev pa va p idx} (hs : s.Canon) : (s.remoteSignal q c dev pa va p idx).Canon :=
  .ite (.setErrst hs) (.packetWaits (.askPeer hs))

theorem State.Canon.startSignal {s : State} {q p idx} (hs : s.Canon) : (startSignal q p idx s).Canon := by
  grind [Machine.startSignal, !State.Canon.notifyWaits, !State.Canon.ppXlate, !State.Canon.remoteSignal, !State.Canon.setErrst,
    !State.Canon.takePacket, !State.Canon.physSet, State.Canon]

theorem Canonical.execPacketSignal {s : State} {q} (hs : s.Canon) : Canonical (execPacketSignal q s) := .packetOf hs (fun _ _ _ hs => .startSignal hs)

/-! ## WAIT (R105) -/

theorem State.Canon.waitTest {s : State} {q va value cond} (hs : s.Canon) : (s.waitTest q va value cond).2.Canon := by
  grind [State.waitTest, !State.Canon.ppDone, !State.Canon.ppRead, State.Canon]

theorem State.Canon.startWait {s : State} {q p idx} (hs : s.Canon) : (startWait q p idx s).Canon := by
  grind [Machine.startWait, !State.Canon.waitTest, !State.Canon.packetWaits, !State.Canon.takePacket, State.Canon]

theorem Canonical.execPacketWait {s : State} {q} (hs : s.Canon) : Canonical (execPacketWait q s) := .packetOf hs (fun _ _ _ hs => .startWait hs)

theorem Canonical.execWaitRecheck {s : State} {q} (hs : s.Canon) : Canonical (execWaitRecheck q s) := by
  grind [Machine.execWaitRecheck, !State.Canon.waitTest, !State.Canon.packetDone, State.Canon, Canonical]

/-! ## DEPMAP (R106, R135, R136) -/

theorem Canonical.execPacketDepmap {s : State} {q} (hs : s.Canon) : Canonical (execPacketDepmap q s) :=
  .packetOf hs (fun _ _ _ hs => .settleQ (.setQueue (.takePacket hs)))

theorem State.Canon.readMap {s : State} {d c va n} (hs : s.Canon) : (s.readMap d c va n).2.Canon := by
  fun_induction State.readMap <;> grind [!State.Canon.ppRead, State.Canon]

theorem Canonical.execDepmapRecheck {s : State} {kern} (hs : s.Canon) : Canonical (execDepmapRecheck kern s) := by
  grind [Machine.execDepmapRecheck, !State.Canon.ppDone, !State.Canon.failKernel, !State.Canon.readMap, !State.Canon.updKernel, !State.Canon.foldl,
    State.Canon, Canonical]

/-! ## Completion (R103, R138, R139) -/

theorem State.Canon.dropConduits {s : State} {kern} (hs : s.Canon) : (s.dropConduits kern).Canon :=
  .foldl (.releaseConduits hs) fun _ _ hs => .ite (.cdCopy hs) hs

theorem State.Canon.kernRelease {s : State} {k} (hs : s.Canon) : (s.kernRelease k).Canon := .ite hs (.foldl hs fun _ _ hs => .cleanRaw hs)

theorem State.Canon.finishKernel {s : State} {kern k status} (hs : s.Canon) : (s.finishKernel kern k status).Canon :=
  .repoint (.packetDone (.writeRecord (.kernRelease (.dropConduits hs))))

theorem Canonical.execKernelCompletion {s : State} {kern} (hs : s.Canon) : Canonical (execKernelCompletion kern s) := by
  grind [Machine.execKernelCompletion, !State.Canon.sweepGangs, !State.Canon.finishKernel, !State.Canon.settleKernel, !State.Canon.setErrst,
    State.Canon, Canonical]

end Sys2Proof.Machine

end

section
/-! LAWS. Canonical memory: what the driver and the scheduler do to contexts (04_context R77 to R89). -/

namespace Sys2Proof.Machine

theorem State.Canon.answer {s : State} {c r} (hs : s.Canon) : (s.answer c r).Canon := hs

theorem Canonical.command {s : State} {i c f} (hs : s.Canon) (hf : ∀ s, State.Canon s → State.Canon (f s)) : Canonical (command i c f s) := by
  unfold Machine.command
  split
  · exact .next hs
  · split
    · exact .next hs
    · exact .next (hf _ hs)

/-! ## DEFINE and READY (R77, R78, R82) -/

theorem State.Canon.define {s : State} {c} (hs : s.Canon) : (s.define c).Canon := .ite (.answer hs) (.answer (.enterCtx (.physSet (.setCtx hs))))

theorem State.Canon.makeReady {s : State} {c} (hs : s.Canon) : (s.makeReady c).Canon :=
  .ite (.answer hs) (.ite (.answer (.enterCtx (.updCtx (.noteRead hs)))) (.answer (.noteRead hs)))

/-! ## HALT and DESCHED (R84, R86, R88, R89) -/

theorem State.Canon.stopBy {s : State} {c st} (hs : s.Canon) : (s.stopBy c st).Canon := .answer (.haltCtx hs)

theorem State.Canon.halt {s : State} {c} (hs : s.Canon) : (s.halt c).Canon := by
  unfold State.halt
  split
  · exact .ite (.answer hs) (.stopBy hs)
  · exact .answer (.enterCtx hs)
  · exact .answer (.enterCtx hs)
  · exact .answer hs

theorem State.Canon.desched {s : State} {c} (hs : s.Canon) : (s.desched c).Canon := .ite (.answer hs) (.ite (.answer hs) (.stopBy hs))

/-! ## The return of a context (R82, R85, R87, R120) -/

theorem State.Canon.restorePages {s : State} {c core} (hs : s.Canon) : (s.restorePages c core).Canon := by
  grind [State.restorePages, !State.Canon.updCore, !State.Canon.claimPages, !State.Canon.restorePage, !State.Canon.foldl, State.Canon]

theorem State.Canon.claimForReturn {s : State} {c} (hs : s.Canon) : (s.claimForReturn c).Canon := .foldl hs fun _ _ hs => .ite hs (.claimConduits hs)

theorem State.Canon.restoreConduits {s : State} {c} (hs : s.Canon) : (s.restoreConduits c).Canon := hs

theorem State.Canon.returnCtx {s : State} {c} (hs : s.Canon) : (s.returnCtx c).Canon :=
  .ite (.enterCtx hs) (.updCtx (.enterCtx (.foldl (.restoreConduits (.foldl hs fun _ _ hs => .unpark hs)) fun _ _ hs => .restorePages hs)))

theorem State.Canon.tryReturn {s : State} {c back wait} (hs : s.Canon) (hback : ∀ s, State.Canon s → State.Canon (back s)) (hwait
    : ∀ s, State.Canon s → State.Canon (wait s)) : (s.tryReturn c back wait).Canon :=
  .ite (hback _ (.returnCtx hs)) (.ite (.ite (hback _ (.returnCtx (.claimForReturn hs))) (hwait _ (.claimForReturn hs))) (hwait _ (.notePlace hs)))

theorem State.Canon.failMarked {s : State} {c} (hs : s.Canon) : (s.failMarked c).Canon := by
  grind [State.failMarked, !State.Canon.finishKernel, !State.Canon.failKernel, !State.Canon.foldl, State.Canon]

theorem State.Canon.resume {s : State} {c} (hs : s.Canon) : (s.resume c).Canon :=
  .ite (.answer hs) (.tryReturn (.failMarked hs) (fun _ hs => .answer hs) (fun _ hs => .answer (.updCtx hs)))

theorem Canonical.execContextReturn {s : State} {c} (hs : s.Canon) : Canonical (execContextReturn c s) := by
  grind [Machine.execContextReturn, !State.Canon.tryReturn, State.Canon, Canonical]

/-! ## KILL (R83) -/

theorem State.Canon.disableQueue {s : State} {q} (hs : s.Canon) : (s.disableQueue q).Canon := .ite hs (.storeQ (.setQueue hs))

theorem State.Canon.finishKernels {s : State} {c} (hs : s.Canon) : (s.finishKernels c).Canon := by
  grind [State.finishKernels, !State.Canon.finishKernel, !State.Canon.foldl, State.Canon]

theorem State.Canon.clearCtx {s : State} {c} (hs : s.Canon) : (s.clearCtx c).Canon := .updCtx hs

theorem State.Canon.kill {s : State} {c} (hs : s.Canon) : (s.kill c).Canon :=
  .ite (.answer hs) (.answer (.enterCtx (.clearCtx (.foldl (.finishKernels (.foldl hs fun _ _ hs => .ite (.failKernel hs) hs)) fun _ _ hs =>
    .ite (.disableQueue hs) hs))))

/-! ## The commands as steps (R81) -/

theorem Canonical.execDefine {s : State} {c} (hs : s.Canon) : Canonical (execDefine c s) := .command hs (fun _ hs => .define hs)

theorem Canonical.execReady {s : State} {c} (hs : s.Canon) : Canonical (execReady c s) := .command hs (fun _ hs => .makeReady hs)

theorem Canonical.execHalt {s : State} {c} (hs : s.Canon) : Canonical (execHalt c s) := .command hs (fun _ hs => .halt hs)

theorem Canonical.execResume {s : State} {c} (hs : s.Canon) : Canonical (execResume c s) := .command hs (fun _ hs => .resume hs)

theorem Canonical.execDesched {s : State} {c} (hs : s.Canon) : Canonical (execDesched c s) := .command hs (fun _ hs => .desched hs)

theorem Canonical.execKill {s : State} {c} (hs : s.Canon) : Canonical (execKill c s) := .command hs (fun _ hs => .kill hs)

/-! ## Slices (R84) -/

theorem Canonical.execSliceEnd {s : State} {c} (hs : s.Canon) : Canonical (execSliceEnd c s) := by
  grind [Machine.execSliceEnd, !State.Canon.haltCtx, !State.Canon.setCtx, !State.Canon.updCtx, State.Canon, Canonical]

/-! ## Time (R18, R166) -/

theorem Canonical.execTick {s : State} {c} (hs : s.Canon) : Canonical (execTick c s) := by
  grind [Machine.execTick, !State.Canon.setCtx, State.Canon, Canonical]

theorem Canonical.execSleepWake {s : State} {t} (hs : s.Canon) : Canonical (execSleepWake t s) := by
  unfold Machine.execSleepWake
  split
  · split
    · split
      · exact .next (.updThread hs)
      · exact .next hs
    · exact .next hs
  · exact .next hs

end Sys2Proof.Machine

end

section
/-! LAWS. Canonical memory: the driver's answer to a fault record. -/

namespace Sys2Proof.Machine

theorem State.Canon.answerSpill {s : State} {v seq id c} (hs : s.Canon) : (s.answerSpill v seq id c).Canon := by
  unfold State.answerSpill
  split
  · exact .ite hs (.wake hs)
  · exact .ite hs hs
  · exact hs

theorem State.Canon.answerConduits {s : State} {c v seq} (hs : s.Canon) : (s.answerConduits c v seq).Canon :=
  .foldl hs fun _ _ hs => .ite hs (.ite (.cdPump (.answerSpill hs)) (.answerSpill hs))

theorem State.Canon.answerFault {s : State} {c seq v} (hs : s.Canon) : (s.answerFault c seq v).Canon := .answerConduits (.updCtx hs)

theorem Canonical.execFaultRetry {s : State} {c seq} (hs : s.Canon) : Canonical (execFaultRetry c seq s) := by
  unfold Machine.execFaultRetry
  split
  · exact .next hs
  · split
    · exact .next hs
    · exact .next (.answerFault hs)

theorem Canonical.execFaultFail {s : State} {c seq} (hs : s.Canon) : Canonical (execFaultFail c seq s) := by
  unfold Machine.execFaultFail
  split
  · exact .next hs
  · split
    · exact .next hs
    · exact .next (.answerFault hs)

end Sys2Proof.Machine

end

section
/-! LAWS. Canonical memory: the resample (16_population R353 to R356). -/

namespace Sys2Proof.Machine

/-! ## The image of a clone (R356) -/

theorem State.Canon.copyImage {s : State} {p t} (hs : s.Canon) : (s.copyImage p t).Canon := by
  unfold State.copyImage
  split
  · exact hs
  · exact .updGang hs

theorem State.Canon.pastResample {s : State} {t} (hs : s.Canon) : (s.pastResample t).Canon := .updThread (.advance hs)

theorem State.Canon.placeClone {s : State} {kern gen gangs a k} (hs : s.Canon) : (s.placeClone kern gen gangs a k).Canon := by
  unfold State.placeClone
  split
  · split
    · exact hs
    · exact .acquire (.writeReg (.pastResample (.copyImage (.updPop hs))))
  · exact hs

theorem State.Canon.placeClones {s : State} {kern gen gangs a n} (hs : s.Canon) : (s.placeClones kern gen gangs a n).Canon :=
  .foldl hs fun _ _ hs => .placeClone hs

/-! ## The resample -/

theorem State.Canon.survive {s : State} {gen a} (hs : s.Canon) : (s.survive gen a).Canon := .complete (.writeReg (.acquire (.updThread hs)))

theorem State.Canon.continueAll {s : State} {kern gen as} (hs : s.Canon) : (s.continueAll kern gen as).Canon :=
  .updPop (.foldl hs fun _ _ hs => .survive hs)

theorem State.Canon.resample {s : State} {kern k p nreq off opnd} (hs : s.Canon) : (s.resample kern k p nreq off opnd).Canon := by
  grind [State.resample, !State.Canon.placeClones, !State.Canon.continueAll, !State.Canon.sweepGangs, !State.Canon.updPop, !State.Canon.settleKernel,
    !State.Canon.removeThread, !State.Canon.judgeInsts, !State.Canon.foldl, State.Canon]

theorem State.Canon.identity {s : State} {kern p} (hs : s.Canon) : (s.identity kern p).Canon := .updPop (.continueAll hs)

theorem State.Canon.finishResample {s : State} {kern} (hs : s.Canon) : (s.finishResample kern).Canon := by
  unfold State.finishResample
  split
  · exact hs
  · split
    · exact hs
    · split
      · exact hs
      · split
        · exact .finishStop (.identity hs)
        · exact .finishStop (.resample hs)

theorem Canonical.execResampleComplete {s : State} {kern} (hs : s.Canon) : Canonical (execResampleComplete kern s) := .next (.finishResample hs)

end Sys2Proof.Machine

end

section
/-! LAWS. Canonical memory: watching over the machine. -/

namespace Sys2Proof.Machine

/-! ## The watchdog (R404 to R406) -/

theorem State.Canon.dumpThread {s : State} {c e} (hs : s.Canon) : (s.dumpThread c e).Canon := .traceRecord hs

theorem State.Canon.terminate {s : State} {kern c} (hs : s.Canon) : (s.terminate kern c).Canon := .failKernel (.foldl hs fun _ _ hs => .dumpThread hs)

theorem State.Canon.unseal {s : State} {kern} (hs : s.Canon) : (s.unseal kern).Canon := by
  unfold State.unseal
  split
  · exact .ite (.finishResample hs) hs
  · exact hs

theorem State.Canon.barkAt {s : State} {t v} (hs : s.Canon) : (s.barkAt t v).Canon := .takeTrap (.updThread (.abandon hs))

theorem State.Canon.bark {s : State} {kern c v} (hs : s.Canon) : (s.bark kern c v).Canon := by
  grind [State.bark, !State.Canon.barkAt, !State.Canon.unseal, !State.Canon.setErrst, !State.Canon.terminate, State.Canon]

theorem Canonical.execWatchdogFire {s : State} {kern} (hs : s.Canon) : Canonical (execWatchdogFire kern s) := by
  grind [Machine.execWatchdogFire, !State.Canon.bark, !State.Canon.updKernel, !State.Canon.terminate, State.Canon, Canonical]

theorem Canonical.execBudgetFire {s : State} {kern} (hs : s.Canon) : Canonical (execBudgetFire kern s) := by
  grind [Machine.execBudgetFire, !State.Canon.bark, !State.Canon.updKernel, !State.Canon.terminate, State.Canon, Canonical]

/-! ## Trace samples (R412, R413) -/

theorem State.Canon.sample {s : State} {core} (hs : s.Canon) : (s.sample core).Canon := .updCore (.traceRecord hs)

theorem Canonical.execTraceSample {s : State} {d} (hs : s.Canon) : Canonical (execTraceSample d s) := by
  grind [Machine.execTraceSample, !State.Canon.sample, !State.Canon.setDie, !State.Canon.foldl, State.Canon, Canonical]

/-! ## Rows (R233, R239) -/

theorem State.Canon.mapAllocs {s : State} {core f} (hs : s.Canon) : (s.mapAllocs core f).Canon := hs

theorem Canonical.execRefreshPass {s : State} {core} (hs : s.Canon) : Canonical (execRefreshPass core s) := .next (.ecount (.ecount (.mapAllocs hs)))

theorem Canonical.execRowExpiry {s : State} {gid n} (hs : s.Canon) : Canonical (execRowExpiry gid n s) := by
  grind [Machine.execRowExpiry, !State.Canon.updGang, State.Canon, Canonical]

/-! ## The management core (R239 to R241) -/

theorem Canonical.execHeartbeat {s : State} {d} (hs : s.Canon) : Canonical (execHeartbeat d s) := by
  unfold Machine.execHeartbeat
  split
  · exact .next hs
  · exact .next (.setDie hs)

theorem Canonical.execFailsafeEntry {s : State} {d} (hs : s.Canon) : Canonical (execFailsafeEntry d s) := by
  grind [Machine.execFailsafeEntry, !State.Canon.setDie, State.Canon, Canonical]

/-! ## Errors (R400, R401) -/

theorem Canonical.execSoftError {s : State} {site unc} (hs : s.Canon) : Canonical (execSoftError site unc s) := by
  unfold Machine.execSoftError
  split
  · exact .next (.updGang hs)
  · exact .next (.updGang hs)
  · exact .next (.updInst hs)
  · exact .next (.updGang hs)
  · exact .next (.updGang hs)
  · exact .next (.updGang hs)
  · exact .next (.updGang hs)
  · exact .next (.updInst hs)
  · exact .next (.updInst hs)
  · exact .next (.updInst hs)
  · exact .next (.updCore hs)
  · split
    · exact .next hs
    · exact .next (.ite hs hs)
  · exact .next (.ite hs hs)

theorem Canonical.execScrubbing {s : State} {d} (hs : s.Canon) : Canonical (execScrubbing d s) := .next (.ecountL2 (.ecountL2 (.ecount (.ecount hs))))

end Sys2Proof.Machine

end

section
/-! LAWS. Canonical memory: the warm reset of one die. -/

namespace Sys2Proof.Machine

theorem State.Canon.loseGangs {s : State} {d} (hs : s.Canon) : (s.loseGangs d).Canon := .foldl hs fun _ _ hs => .ite (.failKernel (.setErrst hs)) hs

theorem State.Canon.dieStep {s : State} {d st} (hs : s.Canon) : (s.dieStep d st).Canon := .setDie hs

theorem State.Canon.startReset {s : State} {d} (hs : s.Canon) : (s.startReset d).Canon := .ite hs (.loseGangs (.dieStep hs))

theorem Canonical.execWarmReset {s : State} {d} (hs : s.Canon) : Canonical (execWarmReset d s) := by
  unfold Machine.execWarmReset
  split
  · exact .next hs
  · exact .next (.startReset hs)

theorem State.Canon.flushFor {s : State} {d} (hs : s.Canon) : (s.flushFor d).Canon := .foldl hs fun _ _ hs => .ite (.cleanAll hs) (.cleanLines hs)

theorem Canonical.resetStep {s : State} {d from' f} (hs : s.Canon) (hf : ∀ s, State.Canon s → State.Canon (f s))
    : Canonical (resetStep d from' f s) := by
  unfold Machine.resetStep
  split
  · exact .next (hf _ hs)
  · exact .next hs

theorem Canonical.execDieFlushing {s : State} {d} (hs : s.Canon) : Canonical (execDieFlushing d s) :=
  .resetStep hs (fun _ hs => .dieStep (.flushFor hs))

theorem State.Canon.clearDie {s : State} {d} (hs : s.Canon) : (s.clearDie d).Canon := by
  grind [State.clearDie, !State.Canon.ppDone, State.Canon]

theorem Canonical.execDieResetting {s : State} {d} (hs : s.Canon) : Canonical (execDieResetting d s) :=
  .resetStep hs (fun _ hs => .setDie (.clearDie hs))

theorem Canonical.execDieTesting {s : State} {d} (hs : s.Canon) : Canonical (execDieTesting d s) := .resetStep hs (fun _ hs => .setDie hs)

theorem State.Canon.trainPorts {s : State} {d} (hs : s.Canon) : (s.trainPorts d).Canon := .foldl hs fun _ _ hs => .ite (.portLeaves hs) hs

theorem Canonical.execDieRetraining {s : State} {d} (hs : s.Canon) : Canonical (execDieRetraining d s) :=
  .resetStep hs (fun _ hs => .dieStep (.trainPorts hs))

theorem Canonical.execDieUp {s : State} {d} (hs : s.Canon) : Canonical (execDieUp d s) := by
  grind [Machine.execDieUp, !Canonical.resetStep, !State.Canon.dieStep, State.Canon, Canonical]

end Sys2Proof.Machine

end

section
/-! LAWS. Canonical memory: operating points, temperature and the loss of a bridge. -/

namespace Sys2Proof.Machine

theorem Canonical.execOperatingPointStable {s : State} (hs : s.Canon) : Canonical (execOperatingPointStable s) := .next hs

theorem Canonical.execPowerMeasurement {s : State} {watts} (hs : s.Canon) : Canonical (execPowerMeasurement watts s) := by
  unfold Machine.execPowerMeasurement
  split
  · exact .next hs
  · exact .next (.repoint hs)

theorem Canonical.execThermalChange {s : State} {d band} (hs : s.Canon) : Canonical (execThermalChange d band s) := by
  unfold Machine.execThermalChange
  split
  · exact .next hs
  · exact .next (.repoint (.setDie hs))

theorem Canonical.execThermalTrip {s : State} (hs : s.Canon) : Canonical (execThermalTrip s) := .next hs

theorem State.Canon.loseKernels {s : State} (hs : s.Canon) : s.loseKernels.Canon := .foldl hs fun _ _ hs => .ite (.failKernel (.setErrst hs)) hs

theorem State.Canon.packageDown {s : State} (hs : s.Canon) : s.packageDown.Canon := .foldl (.loseKernels hs) fun _ _ hs => .ite hs (.enterCtx hs)

theorem State.Canon.countModules {s : State} {b n} (hs : s.Canon) : (s.countModules b n).Canon := .setDie (.setDie hs)

theorem Canonical.execBridgeModuleLoss {s : State} {b} (hs : s.Canon) : Canonical (execBridgeModuleLoss b s) := by
  grind [Machine.execBridgeModuleLoss, !State.Canon.countModules, !State.Canon.packageDown, State.Canon, Canonical]

end Sys2Proof.Machine

end

section
/-! LAWS. Canonical memory: what a peer's answer gives to the request that waits for it. -/

namespace Sys2Proof.Machine

theorem State.Canon.landAnswer {s : State} {id x} (hs : s.Canon) : (s.landAnswer id x).Canon := by
  grind [State.landAnswer, !State.Canon.updCore, !State.Canon.copyFault, !State.Canon.foldl, State.Canon]

theorem State.Canon.logAnswer {s : State} {r x} (hs : s.Canon) : (s.logAnswer r x).Canon := by
  unfold State.logAnswer
  split
  · exact hs
  · exact .withGang hs (fun _ hs => .updGang hs)

theorem State.Canon.ppAnswer {s : State} {id r x} (hs : s.Canon) : (s.ppAnswer id r x).Canon :=
  .ite (.notifyMaps (.notifyWaits hs)) (.ite (.notifyWaits (.foldl hs fun _ _ hs => .ite (.packetDone hs) hs)) (.setErrst (.foldl hs fun _ _ hs =>
    .ite (.packetDone hs) hs)))

theorem State.Canon.hostDone {s : State} {d} (hs : s.Canon) : (s.hostDone d).Canon := hs

theorem State.Canon.hostAnswer {s : State} {r x} (hs : s.Canon) : (s.hostAnswer r x).Canon := .hostDone hs

theorem State.Canon.threadAnswer {s : State} {id r x} (hs : s.Canon) : (s.threadAnswer id r x).Canon :=
  .ite (.updFor hs) (.landAnswer (.foldl hs fun _ _ hs => .updFor hs))

theorem State.Canon.answerOp {s : State} {id r x} (hs : s.Canon) : (s.answerOp id r x).Canon :=
  .finishStop (.ite (.ite hs (.setErrst hs)) (.ite (.hostAnswer hs) (.ite (.logAnswer hs) (.ite (.ppAnswer hs) (.threadAnswer hs)))))

theorem State.Canon.loseOp {s : State} {id r} (hs : s.Canon) : (s.loseOp id r).Canon := .ite (.updKernel hs) (.answerOp hs)

end Sys2Proof.Machine

end

section
/-! LAWS. Canonical memory: shoot-downs. -/

namespace Sys2Proof.Machine

theorem State.Canon.dropOutside {s : State} {dies c va n} (hs : s.Canon) : (s.dropOutside dies c va n).Canon := hs

theorem State.Canon.answerInval {s : State} {dies c va n} (hs : s.Canon) : (s.answerInval dies c va n).Canon := .foldl hs fun _ _ hs => .cleanAll hs

theorem State.Canon.askPeers {s : State} {c va n l} (hs : s.Canon) : (s.askPeers c va n l).2.Canon := by
  fun_induction State.askPeers <;> grind [!State.Canon.sendReq, State.Canon]

theorem State.Canon.startInval {s : State} {q p idx} (hs : s.Canon) : (startInval q p idx s).Canon :=
  .packetWaits (.askPeers (.dropOutside (.takePacket hs)))

theorem Canonical.execPacketInval {s : State} {q} (hs : s.Canon) : Canonical (execPacketInval q s) := .packetOf hs (fun _ _ _ hs => .startInval hs)

theorem Canonical.execInvalCompletion {s : State} {n} (hs : s.Canon) : Canonical (execInvalCompletion n s) := by
  unfold Machine.execInvalCompletion
  split
  · exact .next hs
  · split
    · exact .next hs
    · exact .next (.packetDone (.writeRecord (.answerInval hs)))

theorem Canonical.execPeerFence {s : State} {n p} (hs : s.Canon) : Canonical (execPeerFence n p s) := by
  unfold Machine.execPeerFence
  split
  · exact .next hs
  · split
    · exact .next hs
    · exact .next (.updCtx hs)

/-! ## A peer's requests -/

theorem State.Canon.sendOther {s : State} {dst c ty vl payload} (hs : s.Canon) : (s.sendOther dst c ty vl payload).Canon := hs

theorem State.Canon.performed {s : State} {src} (hs : s.Canon) : (s.performed src).Canon := hs

theorem State.Canon.sendAck {s : State} {src c} (hs : s.Canon) : (s.sendAck src c).Canon := hs

theorem State.Canon.replyAck {s : State} {src c tag status cause} (hs : s.Canon) : (s.replyAck src c tag status cause).Canon := by
  grind [State.replyAck, !State.Canon.performed, State.Canon]

theorem State.Canon.peerInval {s : State} {src c va n} (hs : s.Canon) : (s.peerInval src c va n).Canon :=
  .ite (.replyAck (.addRefused hs)) (.replyAck (.answerInval (.dropOutside hs)))

end Sys2Proof.Machine

end

section
/-! LAWS. Canonical memory: the management register block (20_bringup R420 to R422) and the steps that its registers start. -/

namespace Sys2Proof.Machine

theorem Canonical.whenUp {s : State} {f} (hs : s.Canon) (hf : ∀ s, State.Canon s → State.Canon (f s)) : Canonical (whenUp f s) := by
  unfold Machine.whenUp
  split
  · exact .next (hf _ hs)
  · exact .next hs

/-! ## Queues (R98, R99) -/

theorem State.Canon.enableQueue {s : State} {q} (hs : s.Canon) : (s.enableQueue q).Canon :=
  .ite hs (.ite (.noteRead hs) (.settleQ (.setQueue (.noteRead hs))))

theorem State.Canon.qctlDisable {s : State} {q} (hs : s.Canon) : (s.qctlDisable q).Canon := .ite hs (.disableQueue hs)

theorem Canonical.execQueueEnable {s : State} {q} (hs : s.Canon) : Canonical (execQueueEnable q s) := .whenUp hs (fun _ hs => .enableQueue hs)

theorem Canonical.execQueueDisable {s : State} {q} (hs : s.Canon) : Canonical (execQueueDisable q s) := .whenUp hs (fun _ hs => .qctlDisable hs)

theorem State.Canon.writeQctl {s : State} {w} (hs : s.Canon) : (s.writeQctl w).Canon := .ite hs (.ite (.enableQueue hs) (.ite (.qctlDisable hs) hs))

theorem State.Canon.notify {s : State} {q w} (hs : s.Canon) : (s.notify q w).Canon := .ite (.settleQ (.setQueue hs)) (.physSet hs)

theorem State.Canon.writeBar2 {s : State} {off n w} (hs : s.Canon) : (s.writeBar2 off n w).Canon := .ite (.notify hs) hs

theorem Canonical.execNotify {s : State} {q w} (hs : s.Canon) : Canonical (execNotify q w s) := .whenUp hs (fun _ hs => .notify hs)

/-! ## CXCMD (Table 4.2) -/

theorem State.Canon.writeCxcmd {s : State} {w} (hs : s.Canon) : (s.writeCxcmd w).Canon := by
  unfold State.writeCxcmd
  split
  · exact hs
  · split
    · exact .answer hs
    · split
      · exact .define hs
      · exact .makeReady hs
      · exact .halt hs
      · exact .resume hs
      · exact .desched hs
      · exact .kill hs
      · exact .answer hs

theorem State.Canon.writeFres {s : State} {w} (hs : s.Canon) : (s.writeFres w).Canon := by
  grind [State.writeFres, !State.Canon.answerFault, State.Canon]

theorem State.Canon.writeDrst {s : State} {w} (hs : s.Canon) : (s.writeDrst w).Canon := .ite hs (.startReset hs)

/-! ## TAGWR and LMBASE -/

theorem State.Canon.tellCopies {s : State} {pa b} (hs : s.Canon) : (s.tellCopies pa b).Canon := hs

theorem State.Canon.writeTagwr {s : State} {w} (hs : s.Canon) : (s.writeTagwr w).Canon := .ite hs (.tellCopies (.setTagAt hs))

theorem Canonical.execTagwrWrite {s : State} {w} (hs : s.Canon) : Canonical (execTagwrWrite w s) := .whenUp hs (fun _ hs => .writeTagwr hs)

theorem State.Canon.writeLmbase {s : State} {w} (hs : s.Canon) : (s.writeLmbase w).Canon := .ite hs hs

theorem Canonical.execLmbaseWrite {s : State} {w} (hs : s.Canon) : Canonical (execLmbaseWrite w s) := .whenUp hs (fun _ hs => .writeLmbase hs)

/-! ## Breakpoints and windows -/

theorem State.Canon.writeBrk {s : State} {c n w} (hs : s.Canon) : (s.writeBrk c n w).Canon := .updCtx hs

theorem Canonical.execBreakpointSet {s : State} {c n w} (hs : s.Canon) : Canonical (execBreakpointSet c n w s) :=
  .whenUp hs (fun _ hs => .writeBrk hs)

theorem State.Canon.writeWindow {s : State} {n w} (hs : s.Canon) : (s.writeWindow n w).Canon := hs

theorem Canonical.execMcwinWrite {s : State} {n w} (hs : s.Canon) : Canonical (execMcwinWrite n w s) := .whenUp hs (fun _ hs => .writeWindow hs)

/-! ## Ports and routes (R385, R388, R392) -/

theorem State.Canon.enablePort {s : State} {p pmd} (hs : s.Canon) : (s.enablePort p pmd).Canon :=
  .ite (.portLeaves hs) (.ite (.setPort hs) (.setPort hs))

theorem State.Canon.disablePort {s : State} {p} (hs : s.Canon) : (s.disablePort p).Canon := .ite (.setPort hs) (.portLeaves hs)

theorem Canonical.execPortEnable {s : State} {p pmd} (hs : s.Canon) : Canonical (execPortEnable p pmd s) := .whenUp hs (fun _ hs => .enablePort hs)

theorem Canonical.execPortDisable {s : State} {p} (hs : s.Canon) : Canonical (execPortDisable p s) := .whenUp hs (fun _ hs => .disablePort hs)

theorem State.Canon.writePort {s : State} {p w} (hs : s.Canon) : (s.writePort p w).Canon :=
  .ite hs (.ite (.enablePort (.setPort hs)) (.disablePort (.setPort hs)))

theorem State.Canon.loseDevice {s : State} {p} (hs : s.Canon) : (s.loseDevice p).Canon :=
  .foldl (.foldl (.countDropped hs) fun _ _ hs => .ite (.loseOp hs) hs) fun _ _ hs => .ite (.hostDone hs) hs

theorem State.Canon.writeRoute {s : State} {p w} (hs : s.Canon) : (s.writeRoute p w).Canon := .ite hs (.ite (.loseDevice hs) hs)

theorem Canonical.execRouteWrite {s : State} {p w} (hs : s.Canon) : Canonical (execRouteWrite p w s) := .whenUp hs (fun _ hs => .writeRoute hs)

theorem Canonical.execDeviceLost {s : State} {p} (hs : s.Canon) : Canonical (execDeviceLost p s) := by
  unfold Machine.execDeviceLost
  split
  · exact .next (.loseDevice hs)
  · exact .next hs

/-! ## Debug (R411) -/

theorem State.Canon.dbgMove {s : State} {t v} (hs : s.Canon) : (s.dbgMove t v).Canon := .updThread (.abandon hs)

theorem State.Canon.dbgWrite {s : State} {w} (hs : s.Canon) : (s.dbgWrite w).Canon := by
  grind [State.dbgWrite, !State.Canon.updThread, !State.Canon.dbgMove, !State.Canon.writeReg, State.Canon]

theorem Canonical.execDebugWrite {s : State} {w} (hs : s.Canon) : Canonical (execDebugWrite w s) := .whenUp hs (fun _ hs => .dbgWrite hs)

theorem Canonical.execDebugRead {s : State} (hs : s.Canon) : Canonical (execDebugRead s) := .whenUp hs (fun _ hs => hs)

/-! ## The other registers -/

theorem State.Canon.writeBstat {s : State} {d w} (hs : s.Canon) : (s.writeBstat d w).Canon := .setDie hs

theorem State.Canon.writeDstat {s : State} {d w} (hs : s.Canon) : (s.writeDstat d w).Canon := .setDie hs

theorem State.Canon.writeEcnt {s : State} {d n w} (hs : s.Canon) : (s.writeEcnt d n w).Canon := .setDie hs

theorem State.Canon.writeTrctl {s : State} {d n w} (hs : s.Canon) : (s.writeTrctl d n w).Canon := by
  unfold State.writeTrctl
  split
  · exact .ite hs (.setDie hs)
  · exact hs
  · exact .setDie hs
  · exact hs

theorem State.Canon.writePgctx {s : State} {c n w} (hs : s.Canon) : (s.writePgctx c n w).Canon := .updCtx hs

theorem State.Canon.writeBlock {s : State} {off n w} (hs : s.Canon) : (s.writeBlock off n w).Canon :=
  .ite hs (.ite (.writeCxcmd hs) (.ite (.writeQctl hs) (.ite (.writeFres hs) (.ite (.writeTagwr hs) (.ite (.writeDrst hs) (.ite (.writeLmbase hs)
    (.ite hs (.ite (.dbgWrite hs) (.ite (.writeBstat hs) (.ite (.writeDstat hs) (.ite (.writeEcnt hs) (.ite (.writeTrctl hs) (.ite (.writePort hs)
      (.ite (.writeRoute hs) (.ite (.writeWindow hs) (.ite (.writePgctx hs) (.ite (.writeBrk hs) hs)))))))))))))))))

theorem Canonical.execRegisterWrite {s : State} {acc w} (hs : s.Canon) : Canonical (execRegisterWrite acc w s) :=
  .whenUp hs (fun _ hs => .writeBlock hs)

end Sys2Proof.Machine

end

section
/-! LAWS. Canonical memory: the SPDM responder (20_bringup R419). -/

namespace Sys2Proof.Machine

theorem State.Canon.respond {s : State} {tr kind body} (hs : s.Canon) : (s.respond tr kind body).Canon := by
  unfold State.respond
  split
  · exact hs
  · exact .sendOther hs

theorem Canonical.served {s : State} {tr f} (hs : s.Canon) (hf : ∀ s, State.Canon s → State.Canon (f s)) : Canonical (served tr f s) := by
  unfold Machine.served
  split
  · exact .next hs
  · exact .next (hf _ hs)

theorem Canonical.execGetVersion {s : State} {tr} (hs : s.Canon) : Canonical (execGetVersion tr s) := .served hs (fun _ hs => .respond hs)

theorem Canonical.execGetCapabilities {s : State} {tr} (hs : s.Canon) : Canonical (execGetCapabilities tr s) := .served hs (fun _ hs => .respond hs)

theorem Canonical.execNegotiateAlgorithms {s : State} {tr} (hs : s.Canon) : Canonical (execNegotiateAlgorithms tr s) :=
  .served hs (fun _ hs => .respond hs)

theorem Canonical.execGetDigests {s : State} {tr} (hs : s.Canon) : Canonical (execGetDigests tr s) := .served hs (fun _ hs => .respond hs)

theorem State.Canon.certificate {s : State} {tr slot} (hs : s.Canon) : (s.certificate tr slot).Canon := .ite (.respond hs) (.respond hs)

theorem Canonical.execGetCertificate {s : State} {tr slot} (hs : s.Canon) : Canonical (execGetCertificate tr slot s) :=
  .served hs (fun _ hs => .certificate hs)

theorem State.Canon.signed {s : State} {tr kind body} (hs : s.Canon) : (s.signed tr kind body).Canon := .respond hs

theorem Canonical.execChallenge {s : State} {tr nonce} (hs : s.Canon) : Canonical (execChallenge tr nonce s) := .served hs (fun _ hs => .signed hs)

theorem State.Canon.measurements {s : State} {tr n} (hs : s.Canon) : (s.measurements tr n).Canon := by
  unfold State.measurements
  split
  · exact .signed hs
  · split
    · exact .signed hs
    · split
      · exact .signed hs
      · exact .respond hs

theorem Canonical.execGetMeasurements {s : State} {tr n} (hs : s.Canon) : Canonical (execGetMeasurements tr n s) :=
  .served hs (fun _ hs => .measurements hs)

theorem Canonical.execUnsupportedRequest {s : State} {tr req} (hs : s.Canon) : Canonical (execUnsupportedRequest tr req s) :=
  .served hs (fun _ hs => .respond hs)

theorem State.Canon.spdmRequest {s : State} {src req v} (hs : s.Canon) : (s.spdmRequest src req v).Canon := by
  unfold State.spdmRequest
  split
  · exact .respond hs
  · exact .respond hs
  · exact .respond hs
  · exact .respond hs
  · exact .certificate hs
  · exact .signed hs
  · exact .measurements hs
  · exact .respond hs

end Sys2Proof.Machine

end

section
/-! LAWS. Canonical memory: cold reset and firmware (20_bringup R415 to R418). -/

namespace Sys2Proof.Machine

theorem State.Canon.afterReset {s : State} (_ : s.Canon) : s.afterReset.Canon := rfl

theorem State.Canon.trained {s : State} {mods dead} (hs : s.Canon) : (s.trained mods dead).Canon :=
  .ite (.ite (.foldl hs fun _ _ hs => .countModules hs) hs) (.ite (.foldl hs fun _ _ hs => .countModules hs) hs)

theorem State.Canon.recover {s : State} {last fail} (hs : s.Canon) : (s.recover last fail).Canon := hs

theorem State.Canon.boots {s : State} {bad alt mods dead n} (hs : s.Canon) : (s.boots bad alt mods dead n).Canon := by
  fun_induction State.boots <;> grind [!State.Canon.recover, !State.Canon.trained, State.Canon]

theorem Canonical.execColdReset {s : State} {fails alt} (hs : s.Canon) : Canonical (execColdReset fails alt s) := .next (.boots (.afterReset hs))

theorem State.Canon.update {s : State} {image cut} (hs : s.Canon) : (s.update image cut).Canon := .ite hs hs

theorem Canonical.execFirmwareUpdate {s : State} {image cut} (hs : s.Canon) : Canonical (execFirmwareUpdate image cut s) := by
  unfold Machine.execFirmwareUpdate
  split
  · exact .next (.update hs)
  · exact .next hs

end Sys2Proof.Machine

end

section
/-! LAWS. Canonical memory: the control family. -/

namespace Sys2Proof.Machine

theorem Keeps.checkTarget {target} : Keeps (checkTarget target) := .ite .trap (.bind .fetchWord fun _ => .ite (.pure _) .trap)

theorem Keeps.regTarget {a} : Keeps (regTarget a) := .bind .readBits fun _ => .checkTarget

theorem Canonical.execNop {s : State} {g} (hs : s.Canon) : Canonical (execNop g s) := .code hs (.pure _)

theorem Canonical.execBra {s : State} {g off} (hs : s.Canon) : Canonical (execBra g off s) :=
  .codeEnd hs (.bind .thread fun _ => .bind .checkTarget fun _ => .pure _)

theorem Canonical.execJmp {s : State} {g a} (hs : s.Canon) : Canonical (execJmp g a s) := .codeEnd hs (.bind .regTarget fun _ => .pure _)

theorem Keeps.callTo {d n} : Keeps (callTo d n) := .bind .thread fun _ => .ite .trap (.bind .writeReg fun _ => .bind .modThread fun _ => .pure _)

theorem Canonical.execCall {s : State} {g d off} (hs : s.Canon) : Canonical (execCall g d off s) :=
  .codeEnd hs (.bind .thread fun _ => .bind .checkTarget fun _ => .callTo)

theorem Canonical.execCalli {s : State} {g d a} (hs : s.Canon) : Canonical (execCalli g d a s) := .codeEnd hs (.bind .regTarget fun _ => .callTo)

theorem Canonical.execRet {s : State} {g a} (hs : s.Canon) : Canonical (execRet g a s) :=
  .codeEnd hs (.bind .thread fun _ => .ite .trap (.bind .regTarget fun _ => .bind .modThread fun _ => .pure _))

theorem Keeps.yieldThread : Keeps yieldThread := .bind .gang fun _ => .bind .modThread fun _ => .pure _

theorem Canonical.execYield {s : State} {g} (hs : s.Canon) : Canonical (execYield g s) := .codeEnd hs .yieldThread

theorem Canonical.execSleep {s : State} {g n} (hs : s.Canon) : Canonical (execSleep g n s) := by
  unfold Machine.execSleep
  refine .codeEnd hs ?_
  refine .bind .thread fun _ => .bind .now fun _ => .ite ?_ ?_
  · exact .yieldThread
  · split
    · exact .ite (.pure _) .waitFor
    · exact .bind .modThread fun _ => .waitFor

theorem Canonical.execBeat {s : State} {g} (hs : s.Canon) : Canonical (execBeat g s) :=
  .code hs (.bind .gang fun _ => .bind .now fun _ => .bind (.modify fun _ hs => .updKernel hs) fun _ => .pure _)

theorem Canonical.execTrap {s : State} {g imm} (hs : s.Canon) : Canonical (execTrap g imm s) := .code hs .trap

theorem Canonical.execRtt {s : State} {g past} (hs : s.Canon) : Canonical (execRtt g past s) :=
  .codeEnd hs (.bind .thread fun _ => .ite (.pure _) .trap)

theorem Canonical.execBkpt {s : State} {g imm} (hs : s.Canon) : Canonical (execBkpt g imm s) :=
  .code hs (.bind .thread fun _ => .bind .curCtx fun _ => .ite (.pure _) (.ite (.throw _) .trap))

end Sys2Proof.Machine

end

section
/-! LAWS. Canonical memory: the floating-point, conversion and tag family (10_float R203 to R222). -/

namespace Sys2Proof.Machine

theorem Canonical.execFadd {s : State} {g d a b k rm mods} (hs : s.Canon) : Canonical (execFadd g d a b k rm mods s) :=
  .code hs (.bind .thread fun _ => .bind .modSrcs fun _ => .putFloat)

theorem Canonical.execFmul {s : State} {g d a b k rm mods} (hs : s.Canon) : Canonical (execFmul g d a b k rm mods s) :=
  .code hs (.bind .thread fun _ => .bind .modSrcs fun _ => .putFloat)

theorem Canonical.execFfma {s : State} {g d a b c k rm mods nc} (hs : s.Canon) : Canonical (execFfma g d a b c k rm mods nc s) :=
  .code hs (.bind .thread fun _ => .bind .modSrcs fun _ => .bind .f32Src fun _ => .putFloat)

theorem Canonical.execFmin {s : State} {g d a b k mods} (hs : s.Canon) : Canonical (execFmin g d a b k mods s) :=
  .code hs (.bind .modSrcs fun _ => .putFloat)

theorem Canonical.execFmax {s : State} {g d a b k mods} (hs : s.Canon) : Canonical (execFmax g d a b k mods s) :=
  .code hs (.bind .modSrcs fun _ => .putFloat)

theorem Canonical.execFsetp {s : State} {g p a b k mods cnd} (hs : s.Canon) : Canonical (execFsetp g p a b k mods cnd s) :=
  .code hs (.bind .modSrcs fun _ => .putFlagged)

theorem Canonical.floatUnary {s : State} {g d a tag f} (hs : s.Canon) : Canonical (floatUnary g d a tag f s) :=
  .code hs (.bind .thread fun _ => .bind .f32Src fun _ => .putFloat)

theorem Canonical.execFrnd {s : State} {g d a k rm} (hs : s.Canon) : Canonical (execFrnd g d a k rm s) := .floatUnary hs

theorem Canonical.execFrcp {s : State} {g d a k} (hs : s.Canon) : Canonical (execFrcp g d a k s) := .floatUnary hs

theorem Canonical.execFrsq {s : State} {g d a k} (hs : s.Canon) : Canonical (execFrsq g d a k s) := .floatUnary hs

theorem Canonical.execFsqrt {s : State} {g d a k rm} (hs : s.Canon) : Canonical (execFsqrt g d a k rm s) := .floatUnary hs

theorem Canonical.execFex2 {s : State} {g d a k} (hs : s.Canon) : Canonical (execFex2 g d a k s) := .floatUnary hs

theorem Canonical.execFlg2 {s : State} {g d a k} (hs : s.Canon) : Canonical (execFlg2 g d a k s) := .floatUnary hs

theorem Canonical.execFsin {s : State} {g d a k} (hs : s.Canon) : Canonical (execFsin g d a k s) := .floatUnary hs

theorem Canonical.execFcos {s : State} {g d a k} (hs : s.Canon) : Canonical (execFcos g d a k s) := .floatUnary hs

theorem Canonical.execFclass {s : State} {g d a k} (hs : s.Canon) : Canonical (execFclass g d a k s) := .floatUnary hs

theorem Canonical.execHadd2 {s : State} {g d a b k rm h} (hs : s.Canon) : Canonical (execHadd2 g d a b k rm h s) :=
  .code hs (.bind .thread fun _ => .bind .readBits fun _ => .bind .readBits fun _ => .putFloat)

theorem Canonical.execHmul2 {s : State} {g d a b k rm h} (hs : s.Canon) : Canonical (execHmul2 g d a b k rm h s) :=
  .code hs (.bind .thread fun _ => .bind .readBits fun _ => .bind .readBits fun _ => .putFloat)

theorem Canonical.execHfma2 {s : State} {g d a b c k rm h} (hs : s.Canon) : Canonical (execHfma2 g d a b c k rm h s) :=
  .code hs (.bind .thread fun _ => .bind .readBits fun _ => .bind .readBits fun _ => .bind .readBits fun _ => .putFloat)

theorem Canonical.execDot2 {s : State} {g d a b c k rm h} (hs : s.Canon) : Canonical (execDot2 g d a b c k rm h s) :=
  .code hs (.bind .thread fun _ => .bind .readBits fun _ => .bind .readBits fun _ => .bind .f32Src fun _ => .putFloat)

/-! ## CVT (R216, R217) -/

theorem Keeps.cvtBody {d b dt mode ftz sat x} : Keeps (cvtBody d b dt mode ftz sat x) := by
  unfold Machine.cvtBody
  split
  · exact .ite (.ite .illegal .putFloat) (.bind .readReg fun _ => .putFloat)
  · exact .ite (.ite .illegal .putFloat) (.bind .readReg fun _ => .putFloat)
  · exact .ite (.ite .trap (.when .rangeCheck fun _ => .bind .addFlags fun _ => .bind .writePair fun _ => .pure _)) .putFloat
  · exact .ite (.ite .trap (.when .rangeCheck fun _ => .bind .addFlags fun _ => .bind .writePair fun _ => .pure _)) .putFloat
  · exact .ite (.ite .trap (.when .rangeCheck fun _ => .bind .addFlags fun _ => .bind .writePair fun _ => .pure _)) .putFloat
  · exact .putFloat

theorem Canonical.execCvt {s : State} {g d a b k dt rm sat} (hs : s.Canon) : Canonical (execCvt g d a b k dt rm sat s) :=
  .runCode hs (.issueWith (fun _ => .bind .thread fun _ => .bind .readReg fun _ => .cvtBody))

/-! ## Narrow integers (R218 to R220) -/

theorem Keeps.readRun {a k} : Keeps (readRun a k) := by
  induction k generalizing a with
  | zero => exact .pure _
  | succ n ih => exact .bind .f32Src fun _ => .bind ih fun _ => .pure _

theorem Canonical.execQpack {s : State} {g d a b c k rm n4} (hs : s.Canon) : Canonical (execQpack g d a b c k rm n4 s) :=
  .code hs (.bind .thread fun _ => .bind .f32Src fun _ => .bind .natSrc fun _ => .bind .readRun fun _ => .ite .putFloat .putFloat)

theorem Keeps.writeRun {d l} : Keeps (writeRun d l) := by
  induction l generalizing d with
  | nil => exact .pure _
  | cons r rs ih => exact .bind .addFlags fun _ => .bind .writeReg fun _ => ih

theorem Canonical.execQunpk {s : State} {g d a b c k n4} (hs : s.Canon) : Canonical (execQunpk g d a b c k n4 s) :=
  .code hs (.bind .readBits fun _ => .bind .f32Src fun _ => .bind .natSrc fun _ => .bind .writeRun fun _ => .pure _)

theorem Canonical.execTagq {s : State} {g d a k} (hs : s.Canon) : Canonical (execTagq g d a k s) := .code hs (.bind .readReg fun _ => .putWord)

theorem Canonical.execTags {s : State} {g d a k tag} (hs : s.Canon) : Canonical (execTags g d a k tag s) :=
  .code hs (.bind .readReg fun _ => .putWord)

end Sys2Proof.Machine

end

section
/-! LAWS. Canonical memory: DaxLink (18_link R381 to R392). -/

namespace Sys2Proof.Machine

/-! ## Receiving (R383, R384) -/

theorem Canonical.inbound {s : State} {p f ty here g} (hs : s.Canon) (hg : ∀ s, State.Canon s → State.Canon (g s))
    : Canonical (inbound p f ty here g s) := by
  unfold Machine.inbound
  split
  · exact .next hs
  · split
    · exact .next (.setPort hs)
    · exact .next (.ite (hg _ (.setPort hs)) (.setPort hs))

/-! ## Requests of peers (R382, R386, R387) -/

theorem State.Canon.inRefuse {s : State} {s' : State} {src c pa n} (hs : s.Canon) (e : s.inRefuse src c pa n = some s') : s'.Canon := by
  grind [State.inRefuse, !State.Canon.countErr, !State.Canon.addRefused, State.Canon]

theorem State.Canon.addBadacc {s : State} (hs : s.Canon) : s.addBadacc.Canon := hs

theorem State.Canon.reqPlace {s : State} {src c a n r} (hs : s.Canon) (e : s.reqPlace src c a n = .error r) : r.2.Canon := by
  unfold State.reqPlace at e
  split at e
  · nomatch e
  · split at e
    · split at e
      · nomatch e
      · cases e
        exact .addBadacc hs
      · cases e
        exact .countErr hs
    · split at e
      · cases e
        exact .inRefuse hs ‹_›
      · nomatch e

theorem State.Canon.performRead {s : State} {f} (hs : s.Canon) : (s.performRead f).2.Canon := by
  unfold State.performRead
  dsimp only
  split
  · exact hs
  · split
    · exact .reqPlace hs ‹_›
    · split
      · exact .noteRead hs
      · exact .noteRead hs

theorem State.Canon.inEscape {s : State} {c pa v} (hs : s.Canon) : (s.inEscape c pa v).2.Canon := by
  grind [State.inEscape, !State.Canon.noteRead, !State.Canon.xlate, State.Canon]

theorem State.Canon.inEscapes {s : State} {c la tags data l} (hs : s.Canon) : (s.inEscapes c la tags data l).2.Canon := by
  fun_induction State.inEscapes <;> grind [!State.Canon.inEscape, State.Canon]

theorem State.Canon.lineWrite {s : State} {c la mask data tags} (hs : s.Canon) : (s.lineWrite c la mask data tags).Canon := by
  grind [State.lineWrite, !State.Canon.putTags, !State.Canon.multicast, !State.Canon.withBytes, State.Canon]

theorem State.Canon.performWrite {s : State} {f} (hs : s.Canon) : (s.performWrite f).2.Canon := by
  unfold State.performWrite
  dsimp only
  split
  · exact .reqPlace hs ‹_›
  · split
    · exact .lineWrite hs
    · split
      · exact hs
      · split
        · exact .of_eq (.inEscapes hs) ‹_›
        · exact .lineWrite (.of_eq (.inEscapes hs) ‹_›)

theorem State.Canon.lanes {s : State} {c pa op n pl i k} (hs : s.Canon) : (s.lanes c pa op n pl i k).2.Canon := by
  fun_induction State.lanes <;> grind [!State.Canon.setTagAt, !State.Canon.physSet, State.Canon]

theorem State.Canon.performAtomic {s : State} {f} (hs : s.Canon) : (s.performAtomic f).2.Canon := by
  unfold State.performAtomic
  dsimp only
  split
  · exact hs
  · split
    · exact .reqPlace hs ‹_›
    · split
      · exact hs
      · exact .noteRead hs
      · split
        · exact .lanes hs
        · exact .lanes hs

theorem State.Canon.reply {s : State} {f tag r} (hs : s.Canon) : (s.reply f tag r).Canon := hs

theorem State.Canon.performMulticast {s : State} {f} (hs : s.Canon) : (s.performMulticast f).2.Canon := by
  grind [State.performMulticast, !State.Canon.lineWrite, !State.Canon.inRefuse, State.Canon]

theorem State.Canon.perform {s : State} {f} (hs : s.Canon) : (s.perform f).Canon := by
  unfold State.perform
  split
  · exact .performed (.reply (.performRead hs))
  · exact .performed (.reply (.performAtomic hs))
  · exact .replyAck (.performWrite hs)
  · exact .replyAck (.performMulticast hs)

theorem State.Canon.catchUp {s : State} {src n} (hs : s.Canon) : (s.catchUp src n).Canon := by
  fun_induction State.catchUp <;> grind [!State.Canon.perform, State.Canon]

theorem State.Canon.inOrder {s : State} {f} (hs : s.Canon) : (s.inOrder f).Canon := by
  grind [State.inOrder, !State.Canon.sendAck, !State.Canon.perform, !State.Canon.catchUp, State.Canon]

theorem Canonical.execFlitRead {s : State} {port f} (hs : s.Canon) : Canonical (execFlitRead port f s) := .inbound hs (fun _ hs => .inOrder hs)

theorem Canonical.execFlitWrite {s : State} {port f} (hs : s.Canon) : Canonical (execFlitWrite port f s) := .inbound hs (fun _ hs => .inOrder hs)

theorem Canonical.execFlitAtomic {s : State} {port f} (hs : s.Canon) : Canonical (execFlitAtomic port f s) := .inbound hs (fun _ hs => .inOrder hs)

theorem Canonical.execMulticastWrite {s : State} {port f} (hs : s.Canon) : Canonical (execMulticastWrite port f s) :=
  .inbound hs (fun _ hs => .inOrder hs)

theorem Canonical.execInboundInval {s : State} {src c va n} (hs : s.Canon) : Canonical (execInboundInval src c va n s) := by
  unfold Machine.execInboundInval
  split
  · exact .next hs
  · exact .next (.catchUp (.peerInval hs))

/-! ## Answers (R270, R387) -/

theorem State.Canon.response {s : State} {f} (hs : s.Canon) : (s.response f).Canon := by
  unfold State.response
  split
  · exact hs
  · exact .answerOp hs

theorem Canonical.execFlitResponse {s : State} {port f} (hs : s.Canon) : Canonical (execFlitResponse port f s) :=
  .inbound hs (fun _ hs => .response hs)

theorem State.Canon.acknowledged {s : State} {f} (hs : s.Canon) : (s.acknowledged f).Canon := .sweepGangs hs

theorem Canonical.execEndToEndAcknowledgement {s : State} {port f} (hs : s.Canon) : Canonical (execEndToEndAcknowledgement port f s) :=
  .inbound hs (fun _ hs => .acknowledged hs)

/-! ## Launch frames and management frames (R112, R389, R419) -/

theorem State.Canon.launch {s : State} {port f} (hs : s.Canon) : (s.launch port f).Canon := by
  unfold State.launch
  split
  · exact .setPort hs
  · exact .ite (.physSet hs) (.appendPacket hs)

theorem Canonical.execLaunchFrame {s : State} {port f} (hs : s.Canon) : Canonical (execLaunchFrame port f s) := .inbound hs (fun _ hs => .launch hs)

theorem State.Canon.hostGot {s : State} {src tag v} (hs : s.Canon) : (s.hostGot src tag v).Canon := by
  unfold State.hostGot
  split
  · exact .ite (.hostDone hs) hs
  · exact hs

theorem State.Canon.managed {s : State} {src c x} (hs : s.Canon) : (s.managed src c x).Canon := by
  unfold State.managed
  split
  · exact .sendOther hs
  · exact .hostGot hs
  · exact .ite hs (.ite (.writeBar2 hs) (.writeBlock hs))
  · exact .ite (.spdmRequest hs) hs
  · exact hs
  · exact .ite (.update hs) hs

theorem State.Canon.manage {s : State} {f} (hs : s.Canon) : (s.manage f).Canon := .managed hs

theorem Canonical.execManagementFrame {s : State} {port f} (hs : s.Canon) : Canonical (execManagementFrame port f s) :=
  .inbound hs (fun _ hs => .manage hs)

theorem Canonical.execFlitForward {s : State} {port f} (hs : s.Canon) : Canonical (execFlitForward port f s) := by
  unfold Machine.execFlitForward
  split
  · exact .next (.ite (.setPort hs) hs)
  · split
    · exact .next hs
    · exact .inbound hs (fun _ hs => hs)

/-! ## Link control (R383, R384) -/

theorem Canonical.execNak {s : State} {port f} (hs : s.Canon) : Canonical (execNak port f s) := by
  unfold Machine.execNak
  split
  · exact .next hs
  · exact .inbound hs (fun _ hs => .setPort hs)

theorem Canonical.execCredits {s : State} {port f} (hs : s.Canon) : Canonical (execCredits port f s) := by
  unfold Machine.execCredits
  split
  · exact .next hs
  · exact .inbound hs (fun _ hs => .setPort hs)

theorem Canonical.execIdleFlit {s : State} {port lack} (hs : s.Canon) : Canonical (execIdleFlit port lack s) := by
  unfold Machine.execIdleFlit
  split
  · exact .next (.setPort hs)
  · exact .next hs

theorem Canonical.execFlitCrcFailure {s : State} {port} (hs : s.Canon) : Canonical (execFlitCrcFailure port s) := by
  unfold Machine.execFlitCrcFailure
  split
  · exact .next (.setPort hs)
  · exact .next hs

/-! ## Sending (R383 to R385) -/

theorem State.Canon.sendAgain {s : State} {p mgmt f rest} (hs : s.Canon) : (s.sendAgain p mgmt f rest).Canon :=
  .ite (.retrain (.setPort hs)) (.setPort hs)

theorem State.Canon.sendNext {s : State} {p mgmt f} (hs : s.Canon) : (s.sendNext p mgmt f).Canon := .setPort hs

theorem State.Canon.transmit {s : State} {p} (hs : s.Canon) : (s.transmit p).Canon := by
  grind [State.transmit, !State.Canon.setPort, !State.Canon.sendAgain, !State.Canon.sendNext, State.Canon]

theorem Canonical.execFlitTransmit {s : State} {port} (hs : s.Canon) : Canonical (execFlitTransmit port s) := by
  unfold Machine.execFlitTransmit
  split
  · exact .next (.transmit hs)
  · exact .next hs

/-! ## Port states (Table 18.8) -/

theorem Canonical.execPortTrained {s : State} {p far} (hs : s.Canon) : Canonical (execPortTrained p far s) := by
  grind [Machine.execPortTrained, !State.Canon.setPort, State.Canon, Canonical]

theorem Canonical.execPortRetrain {s : State} {p} (hs : s.Canon) : Canonical (execPortRetrain p s) := .next (.retrain hs)

theorem Canonical.execPortTimeout {s : State} {p} (hs : s.Canon) : Canonical (execPortTimeout p s) := by
  grind [Machine.execPortTimeout, !State.Canon.setPort, State.Canon, Canonical]

theorem Canonical.execPhyRestored {s : State} {p} (hs : s.Canon) : Canonical (execPhyRestored p s) := by
  unfold Machine.execPhyRestored
  split
  · exact .next hs
  · exact .next (.setPort hs)

end Sys2Proof.Machine

end

section
/-! LAWS. Canonical memory: the host's accesses through the BARs of the bridge device's functions (18_link R393, R394, R399). -/

namespace Sys2Proof.Machine

theorem State.Canon.atFn {s : State} {fn bar0 here there gone} (hs : s.Canon) (hhere : ∀ s, State.Canon s → State.Canon (here s))
    (hthere : ∀ a s, State.Canon s → State.Canon (there a s)) (hgone : ∀ s, State.Canon s → State.Canon (gone s)) :
    (s.atFn fn bar0 here there gone).Canon := by
  unfold State.atFn
  split
  · exact hs
  · split
    · exact .ite (hhere _ hs) (hgone _ hs)
    · split
      · exact .ite (hthere _ _ hs) (hgone _ hs)
      · exact hgone _ hs

theorem State.Canon.sendOn {s : State} {dev ty off at0 n posted payload} (hs : s.Canon) : (s.sendOn dev ty off at0 n posted payload).Canon :=
  .askPeer hs

/-! ## BAR4 (R394) -/

theorem State.Canon.hostRead {s : State} {off n} (hs : s.Canon) : (s.hostRead off n).Canon := by
  grind [State.hostRead, !State.Canon.countErr, !State.Canon.hostDone, !State.Canon.addBadacc, !State.Canon.noteRead, State.Canon]

theorem State.Canon.readThere {s : State} {dev off n} (hs : s.Canon) : (s.readThere dev off n).Canon := .sendOn hs

theorem Canonical.execHostBar4Read {s : State} {a n} (hs : s.Canon) : Canonical (execHostBar4Read a n s) :=
  .next (.ite (.hostDone hs) (.atFn hs (fun _ hs => .hostRead hs) (fun _ _ hs => .readThere hs) (fun _ hs => .hostDone hs)))

theorem State.Canon.hostStore {s : State} {pa n v} (hs : s.Canon) : (s.hostStore pa n v).Canon := .clearTags (.curePoison (.physSet hs))

theorem State.Canon.hostWrite {s : State} {off data} (hs : s.Canon) : (s.hostWrite off data).Canon := by
  unfold State.hostWrite
  split
  · exact .addBadacc hs
  · exact .countErr hs
  · exact .hostStore hs

theorem State.Canon.lineThere {s : State} {dev off n v} (hs : s.Canon) : (s.lineThere dev off n v).Canon := .sendOn hs

theorem State.Canon.writeThere {s : State} {dev off data} (hs : s.Canon) : (s.writeThere dev off data).Canon :=
  .ite (.lineThere (.lineThere hs)) (.lineThere hs)

theorem Canonical.execHostBar4Write {s : State} {a data} (hs : s.Canon) : Canonical (execHostBar4Write a data s) := by
  grind [Machine.execHostBar4Write, !State.Canon.atFn, !State.Canon.hostWrite, !State.Canon.writeThere, State.Canon, Canonical]

theorem State.Canon.hostAtom {s : State} {off op n v cmpv} (hs : s.Canon) : (s.hostAtom off op n v cmpv).Canon := by
  grind [State.hostAtom, !State.Canon.countErr, !State.Canon.hostDone, !State.Canon.addBadacc, !State.Canon.hostStore, !State.Canon.noteRead,
    State.Canon]

theorem State.Canon.atomThere {s : State} {dev off code n v cmpv} (hs : s.Canon) : (s.atomThere dev off code n v cmpv).Canon := .sendOn hs

theorem Canonical.execHostAtomicop {s : State} {a op w64 v cmpv} (hs : s.Canon) : Canonical (execHostAtomicop a op w64 v cmpv s) :=
  .next (.ite (.hostDone hs) (.atFn hs (fun _ hs => .hostAtom hs) (fun _ _ hs => .atomThere hs) (fun _ hs => .hostDone hs)))

/-! ## BAR0 and BAR2 (R99, R393, R420) -/

theorem State.Canon.hostRegRead {s : State} {fn bar2 off n} (hs : s.Canon) : (s.hostRegRead fn bar2 off n).Canon :=
  .atFn hs (fun _ hs => .hostDone hs) (fun _ _ hs => .sendOther hs) (fun _ hs => .hostDone hs)

theorem State.Canon.hostRegWrite {s : State} {fn bar2 off n w} (hs : s.Canon) : (s.hostRegWrite fn bar2 off n w).Canon := by
  grind [State.hostRegWrite, !State.Canon.atFn, !State.Canon.writeBar2, !State.Canon.sendOther, !State.Canon.writeBlock, State.Canon]

theorem State.Canon.hostReg {s : State} {fn bar2 off n x} (hs : s.Canon) : (s.hostReg fn bar2 off n x).Canon := by
  unfold State.hostReg
  split
  · exact .hostRegRead hs
  · exact .hostRegWrite hs

end Sys2Proof.Machine

end

section
/-! LAWS. Canonical memory: the integer and logic family (09_integer R179 to R202). -/

namespace Sys2Proof.Machine

theorem Canonical.execMov {s : State} {g d a k} (hs : s.Canon) : Canonical (execMov g d a k s) :=
  .code hs (.bind .readReg fun _ => .bind .writeReg fun _ => .pure _)

theorem Canonical.execMovi {s : State} {g d tag imm} (hs : s.Canon) : Canonical (execMovi g d tag imm s) := .code hs .putWord

theorem Keeps.arith {d a b sg sat f} : Keeps (arith d a b sg sat f) := .bind .intSrc fun _ => .bind .intSrc fun _ => .putWord

theorem Canonical.execIadd {s : State} {g d a b k sg sat} (hs : s.Canon) : Canonical (execIadd g d a b k sg sat s) := .code hs .arith

theorem Canonical.execIaddi {s : State} {g d a ka sg sat imm} (hs : s.Canon) : Canonical (execIaddi g d a ka sg sat imm s) :=
  .code hs (.bind .intSrc fun _ => .putWord)

theorem Canonical.execIsub {s : State} {g d a b k sg sat} (hs : s.Canon) : Canonical (execIsub g d a b k sg sat s) := .code hs .arith

theorem Canonical.execImul {s : State} {g d a b k sg} (hs : s.Canon) : Canonical (execImul g d a b k sg s) := .code hs .arith

theorem Canonical.execImulh {s : State} {g d a b k sg} (hs : s.Canon) : Canonical (execImulh g d a b k sg s) := .code hs .arith

theorem Canonical.execImad {s : State} {g d a b c k sg sat} (hs : s.Canon) : Canonical (execImad g d a b c k sg sat s) :=
  .code hs (.bind .intSrc fun _ => .bind .intSrc fun _ => .bind .intSrc fun _ => .putWord)

theorem Canonical.execImadw {s : State} {g d a b c k sg} (hs : s.Canon) : Canonical (execImadw g d a b c k sg s) :=
  .code hs (.bind .intSrc fun _ => .bind .intSrc fun _ => .bind .readL64 fun _ => .putL64)

theorem Canonical.execIadd64 {s : State} {g d a b k sub} (hs : s.Canon) : Canonical (execIadd64 g d a b k sub s) :=
  .code hs (.bind .readL64 fun _ => .bind .readL64 fun _ => .putL64)

theorem Canonical.execLea {s : State} {g d a b k sh} (hs : s.Canon) : Canonical (execLea g d a b k sh s) :=
  .code hs (.bind .readAddr fun _ => .bind .intSrc fun _ => .putL64)

theorem Canonical.execImin {s : State} {g d a b k sg} (hs : s.Canon) : Canonical (execImin g d a b k sg s) := .code hs .arith

theorem Canonical.execImax {s : State} {g d a b k sg} (hs : s.Canon) : Canonical (execImax g d a b k sg s) := .code hs .arith

theorem Canonical.execIabs {s : State} {g d a k sg} (hs : s.Canon) : Canonical (execIabs g d a k sg s) := .code hs (.bind .intSrc fun _ => .putWord)

theorem Canonical.execIsetp {s : State} {g p a b q k cmp sg comb} (hs : s.Canon) : Canonical (execIsetp g p a b q k cmp sg comb s) :=
  .code hs (.bind .intSrc fun _ => .bind .intSrc fun _ => .bind .readPred fun _ => .bind .writePred fun _ => .pure _)

theorem Canonical.execSel {s : State} {g d a b q k} (hs : s.Canon) : Canonical (execSel g d a b q k s) :=
  .code hs (.bind .readReg fun _ => .bind .readReg fun _ => .bind .readPred fun _ => .bind .writeReg fun _ => .pure _)

theorem Canonical.shift {s : State} {g d a amt tag f} (hs : s.Canon) : Canonical (shift g d a amt tag f s) :=
  .code hs (.bind .natSrc fun _ => .bind .amtValue fun _ => .putWord)

theorem Canonical.execShl {s : State} {g d a amt k} (hs : s.Canon) : Canonical (execShl g d a amt k s) := .shift hs

theorem Canonical.execShr {s : State} {g d a amt k} (hs : s.Canon) : Canonical (execShr g d a amt k s) := .shift hs

theorem Canonical.execSar {s : State} {g d a amt k} (hs : s.Canon) : Canonical (execSar g d a amt k s) := .shift hs

theorem Canonical.execRol {s : State} {g d a amt k} (hs : s.Canon) : Canonical (execRol g d a amt k s) := .shift hs

theorem Canonical.logic {s : State} {g d a b f} (hs : s.Canon) : Canonical (logic g d a b f s) :=
  .code hs (.bind .natSrc fun _ => .bind .natSrc fun _ => .putWord)

theorem Canonical.execAnd {s : State} {g d a b k} (hs : s.Canon) : Canonical (execAnd g d a b k s) := .logic hs

theorem Canonical.execOr {s : State} {g d a b k} (hs : s.Canon) : Canonical (execOr g d a b k s) := .logic hs

theorem Canonical.execXor {s : State} {g d a b k} (hs : s.Canon) : Canonical (execXor g d a b k s) := .logic hs

theorem Canonical.execBitf {s : State} {g d a b c k fn} (hs : s.Canon) : Canonical (execBitf g d a b c k fn s) :=
  .code hs (.bind .natSrc fun _ => .bind .natSrc fun _ => .bind .natSrc fun _ => .putWord)

theorem Canonical.unary {s : State} {g d a tag f} (hs : s.Canon) : Canonical (unary g d a tag f s) := .code hs (.bind .natSrc fun _ => .putWord)

theorem Canonical.execPopc {s : State} {g d a k} (hs : s.Canon) : Canonical (execPopc g d a k s) := .unary hs

theorem Canonical.execClz {s : State} {g d a k} (hs : s.Canon) : Canonical (execClz g d a k s) := .unary hs

theorem Canonical.execBrev {s : State} {g d a k} (hs : s.Canon) : Canonical (execBrev g d a k s) := .unary hs

theorem Canonical.execBfe {s : State} {g d a b k sg} (hs : s.Canon) : Canonical (execBfe g d a b k sg s) :=
  .code hs (.bind .natSrc fun _ => .bind .natSrc fun _ => .putWord)

theorem Canonical.execBfi {s : State} {g d a b c k} (hs : s.Canon) : Canonical (execBfi g d a b c k s) :=
  .code hs (.bind .natSrc fun _ => .bind .natSrc fun _ => .bind .natSrc fun _ => .putWord)

theorem Canonical.execBsel {s : State} {g d a b c k sx} (hs : s.Canon) : Canonical (execBsel g d a b c k sx s) :=
  .code hs (.bind .natSrc fun _ => .bind .natSrc fun _ => .bind .natSrc fun _ => .putWord)

theorem Canonical.execPbitf {s : State} {g p q0 q1 q2 k fn} (hs : s.Canon) : Canonical (execPbitf g p q0 q1 q2 k fn s) :=
  .code hs (.bind .readPred fun _ => .bind .readPred fun _ => .bind .readPred fun _ => .bind .writePred fun _ => .pure _)

theorem Canonical.execP2v {s : State} {g d k} (hs : s.Canon) : Canonical (execP2v g d k s) := .code hs (.bind .thread fun _ => .putWord)

theorem Canonical.execV2p {s : State} {g a k} (hs : s.Canon) : Canonical (execV2p g a k s) :=
  .code hs (.bind .natSrc fun _ => .bind .modThread fun _ => .pure _)

end Sys2Proof.Machine

end

section
/-! LAWS. Canonical memory: the meaning of every instruction of the opcode table, one arm per constructor. -/

namespace Sys2Proof.Machine

theorem Canonical.exec {s : State} {i} (hs : s.Canon) : Canonical (exec i s) := by
  unfold Machine.exec
  split
  · exact .execNop hs
  · exact .execBra hs
  · exact .execJmp hs
  · exact .execCall hs
  · exact .execCalli hs
  · exact .execRet hs
  · exact .execExit hs
  · exact .execYield hs
  · exact .execSleep hs
  · exact .execBeat hs
  · exact .execTrap hs
  · exact .execRtt hs
  · exact .execBkpt hs
  · exact .execMov hs
  · exact .execMovi hs
  · exact .execIadd hs
  · exact .execIaddi hs
  · exact .execIsub hs
  · exact .execImul hs
  · exact .execImulh hs
  · exact .execImad hs
  · exact .execImadw hs
  · exact .execIadd64 hs
  · exact .execLea hs
  · exact .execImin hs
  · exact .execImax hs
  · exact .execIabs hs
  · exact .execIsetp hs
  · exact .execSel hs
  · exact .execShl hs
  · exact .execShr hs
  · exact .execSar hs
  · exact .execRol hs
  · exact .execAnd hs
  · exact .execOr hs
  · exact .execXor hs
  · exact .execBitf hs
  · exact .execPopc hs
  · exact .execClz hs
  · exact .execBrev hs
  · exact .execBfe hs
  · exact .execBfi hs
  · exact .execBsel hs
  · exact .execPbitf hs
  · exact .execP2v hs
  · exact .execV2p hs
  · exact .execFadd hs
  · exact .execFmul hs
  · exact .execFfma hs
  · exact .execFmin hs
  · exact .execFmax hs
  · exact .execFsetp hs
  · exact .execFrnd hs
  · exact .execFrcp hs
  · exact .execFrsq hs
  · exact .execFsqrt hs
  · exact .execFex2 hs
  · exact .execFlg2 hs
  · exact .execFsin hs
  · exact .execFcos hs
  · exact .execFclass hs
  · exact .execHadd2 hs
  · exact .execHmul2 hs
  · exact .execHfma2 hs
  · exact .execDot2 hs
  · exact .execCvt hs
  · exact .execQpack hs
  · exact .execQunpk hs
  · exact .execTagq hs
  · exact .execTags hs
  · exact .execSwadd hs
  · exact .execSwmul hs
  · exact .execSwfma hs
  · exact .execSwmax hs
  · exact .execSwcvt hs
  · exact .execSwcopy hs
  · exact .execSwsum hs
  · exact .execSwex2 hs
  · exact .execLd hs
  · exact .execSt hs
  · exact .execAtom hs
  · exact .execCas hs
  · exact .execRed hs
  · exact .execFence hs
  · exact .execCinv hs
  · exact .execCclean hs
  · exact .execCpa hs
  · exact .execWaitb hs
  · exact .execCpb hs
  · exact .execObjinit hs
  · exact .execPublish hs
  · exact .execPubst hs
  · exact .execRefmk hs
  · exact .execObjst hs
  · exact .execReclaim hs
  · exact .execBar hs
  · exact .execBara hs
  · exact .execBarw hs
  · exact .execXbinit hs
  · exact .execXbarr hs
  · exact .execXbwait hs
  · exact .execXbtry hs
  · exact .execLxch hs
  · exact .execPagr hs
  · exact .execRedg hs
  · exact .execScang hs
  · exact .execCdsend hs
  · exact .execCdrecv hs
  · exact .execCdpeek hs
  · exact .execCdclose hs
  · exact .execLaunch hs
  · exact .execQsig hs
  · exact .execCbset hs
  · exact .execResample hs
  · exact .execPkill hs
  · exact .execPcount hs
  · exact .execGrpq hs
  · exact .execThdl hs
  · exact .execTmma hs
  · exact .execTmmq hs
  · exact .execTzero hs
  · exact .execTcvt hs
  · exact .execTstore hs
  · exact .execTscale hs
  · exact .execTflag hs
  · exact .execTwait hs
  · exact .execMfs hs
  · exact .execMts hs
  · exact .execRnd hs
  · exact .execSpalloc hs
  · exact .execSpfree hs
  · exact .execRtouch hs
  · exact .execRclass hs
  · exact .execRage hs
  · exact .execTrace hs
  · exact .execIssueGroupFormation hs
  · exact .execLoadDelivery hs
  · exact .execResampleComplete hs
  · exact .execConduitRefill hs
  · exact .execCpaLanding hs
  · exact .execCpbPieceLanding hs
  · exact .execTileOpApply hs
  · exact .execBrassWalk hs
  · exact .execSideLogReplay hs
  · exact .execColumnCacheEviction hs
  · exact .execUnitAdmission hs
  · exact .execKernelCompletion hs
  · exact .execPacketNop hs
  · exact .execPacketKernel hs
  · exact .execPacketSignal hs
  · exact .execPacketWait hs
  · exact .execWaitRecheck hs
  · exact .execPacketDepmap hs
  · exact .execDepmapRecheck hs
  · exact .execPacketInval hs
  · exact .execInvalCompletion hs
  · exact .execPeerFence hs
  · exact .execLaunchFrame hs
  · exact .execDefine hs
  · exact .execReady hs
  · exact .execHalt hs
  · exact .execResume hs
  · exact .execDesched hs
  · exact .execKill hs
  · exact .execQueueEnable hs
  · exact .execQueueDisable hs
  · exact .execNotify hs
  · exact .execFaultRetry hs
  · exact .execFaultFail hs
  · exact .execTagwrWrite hs
  · exact .execWarmReset hs
  · exact .execDieFlushing hs
  · exact .execDieResetting hs
  · exact .execDieTesting hs
  · exact .execDieRetraining hs
  · exact .execDieUp hs
  · exact .execLmbaseWrite hs
  · exact .execDebugWrite hs
  · exact .execDebugRead hs
  · exact .execBreakpointSet hs
  · exact .execMcwinWrite hs
  · exact .execPortEnable hs
  · exact .execPortDisable hs
  · exact .execRouteWrite hs
  · exact .execRegisterWrite hs
  · exact .execTick hs
  · exact .execRowExpiry hs
  · exact .execSleepWake hs
  · exact .execSliceEnd hs
  · exact .execContextReturn hs
  · exact .execWatchdogFire hs
  · exact .execBudgetFire hs
  · exact .execTraceSample hs
  · exact .execRefreshPass hs
  · exact .execHeartbeat hs
  · exact .execFailsafeEntry hs
  · exact .execPowerMeasurement hs
  · exact .execOperatingPointStable hs
  · exact .execThermalChange hs
  · exact .execThermalTrip hs
  · exact .execBridgeModuleLoss hs
  · exact .execColdReset hs
  · exact .execFirmwareUpdate hs
  · exact .execGetVersion hs
  · exact .execGetCapabilities hs
  · exact .execNegotiateAlgorithms hs
  · exact .execGetDigests hs
  · exact .execGetCertificate hs
  · exact .execChallenge hs
  · exact .execGetMeasurements hs
  · exact .execUnsupportedRequest hs
  · exact .execFlitTransmit hs
  · exact .execFlitRead hs
  · exact .execFlitWrite hs
  · exact .execFlitAtomic hs
  · exact .execFlitResponse hs
  · exact .execMulticastWrite hs
  · exact .execManagementFrame hs
  · exact .execNak hs
  · exact .execCredits hs
  · exact .execEndToEndAcknowledgement hs
  · exact .execPortTrained hs
  · exact .execPortRetrain hs
  · exact .execPortTimeout hs
  · exact .execDeviceLost hs
  · exact .execHostBar4Read hs
  · exact .execHostBar4Write hs
  · exact .execFlitForward hs
  · exact .execIdleFlit hs
  · exact .execFlitCrcFailure hs
  · exact .execPhyRestored hs
  · exact .execInboundInval hs
  · exact .execHostAtomicop hs
  · exact .execSoftError hs
  · exact .execScrubbing hs

end Sys2Proof.Machine

end

section
/-! LAWS. Canonical memory: one move of an agent, given what instructions and events do (log entry 3). -/

namespace Sys2Proof.Machine

theorem Canonical.move {s : State} {ex a} (hs : s.Canon) (hex : ∀ a s, State.Canon s → Canonical (ex a s)) : Canonical (s.move ex a) := by
  unfold State.move
  split
  · exact hex _ _ hs
  · exact .issue hs (fun _ _ hs => hex _ _ hs)
  · exact .next (.elapse hs)
  · exact .next (.hostReg hs)

theorem Canonical.stepWith {s : State} {ex} (hs : s.Canon) (hex : ∀ a s, State.Canon s → Canonical (ex a s)) : Canonical (s.stepWith ex) := by
  unfold State.stepWith
  split
  · split
    · exact .fault _
    · exact .move hs (fun _ _ hs => hex _ _ hs)
  · split
    · exact .fault _
    · exact .move hs (fun _ _ hs => hex _ _ hs)

end Sys2Proof.Machine

end

section
/-! LAWS. Canonical memory: one step of the machine, and the placing of a table word where the next step fetches it. -/

namespace Sys2Proof.Machine

theorem Canonical.step {s : State} (hs : s.Canon) : Canonical (step s) := .stepWith hs (fun _ _ hs => .exec hs)

end Sys2Proof.Machine

end

section
/-! LAWS. The obligation on canonical memory. -/
namespace Sys2Proof.Machine

/-- Settles O59: `Machine.step` is built from operations that each keep the memory canonical. -/
theorem memoryStaysCanonical : Obligations.MemoryStaysCanonical := fun _ s' hs e => Canonical.step hs s' e

end Sys2Proof.Machine

end

section
/-! LAWS. The obligation on registers: a write keeps an error of the row's metadata that nothing has met (R242, log entry 110). -/
namespace Sys2Proof.Machine

/-- The metadata of a row stays in error over a write of one of its words. -/
theorem Alloc.writeWord_badMeta (a : Alloc) (n k tick : Nat) (w : TWord) : ((a.writeWord n k tick w).row n).badMeta = (a.row n).badMeta := by
  simp [Alloc.writeWord, Alloc.setRow, Alloc.row]

/-- A register whose row's metadata is in error gives no word. -/
theorem State.src_of_badMeta {s : State} {t i : Nat} {g : Gang} (ts : TagSet) (hg : s.gangs.find (gidOf t) = some g) (hi : i ≠ 0)
    (hb : (g.regs.row (i - 1)).badMeta = true) : s.src t i ts = none := by
  simp [State.src, hg, Gang.struck, Row.struck, hi, hb]

/-- A write to a register whose row's metadata is in error is not read back: the read meets the error. -/
theorem State.src_writeReg_of_badMeta {s : State} {t i : Nat} {g : Gang} (w : TWord) (ts : TagSet) (hg : s.gangs.find (gidOf t) = some g)
    (hi : i ≠ 0) (hb : (g.regs.row (i - 1)).badMeta = true) : (s.writeReg t i w).src t i ts = none := by
  refine State.src_of_badMeta (g := { g with regs := g.regs.writeWord (i - 1) (laneOf t) (s.tickOf g.ctx) w }) ts ?_ hi ?_
  · simp [State.writeReg, hi, hg, State.updGang]
  · rw [Alloc.writeWord_badMeta, hb]

/-- A gang of one register row, whose metadata holds an uncorrectable error that nothing has met (R242). -/
def struckGang : Gang :=
  { placedGang with nregs := 1, regs := (Alloc.new .refreshed 0 1 0).setRow 0 { Row.fresh 0 with badMeta := true } }

/-- A machine with that gang alone. -/
def struckState : State := { State.reset with gangs := [(0, struckGang)] }

/-- Refutes O15: a word written to v1, in a row whose metadata holds an error that nothing has met, is not read back: the write leaves
the error to the next access (R242, log entry 110), and the statement does not exclude such a row. -/
theorem not_registers : ¬ Obligations.Registers := by
  unfold Obligations.Registers
  rintro ⟨-, hwrite, -⟩
  have hg : struckState.gangs.find (gidOf 0) = some struckGang := rfl
  have hread : (struckState.writeReg 0 1 TWord.zero).src 0 1 .any = some (TWord.zero, false, false) :=
    (hwrite struckState 0 1 TWord.zero struckGang hg (by decide) (by decide)).1 (by decide)
  rw [State.src_writeReg_of_badMeta TWord.zero .any hg (by decide) (by decide)] at hread
  nomatch hread

end Sys2Proof.Machine

end

section
/-! LAWS. The frame of the register families: what noting, writing registers and completing leave (R5, R6, R69, R181). -/
namespace Sys2Proof.Machine

/-! ## The stored words -/

/-- A write of one word of a row leaves the stored words of the other rows and lanes. -/
theorem Alloc.word_writeWord {a : Alloc} {n k tick n' k' : Nat} {w : TWord} (h : ¬(n' = n ∧ k' = k)) :
    ((a.writeWord n k tick w).row n').word k' = (a.row n').word k' := by
  by_cases hn : n' = n
  · have hk : k' ≠ k := fun e => h ⟨hn, e⟩
    subst hn
    simp [Alloc.writeWord, Alloc.setRow, Alloc.row, Row.word, hk]
  · simp [Alloc.writeWord, Alloc.setRow, Alloc.row, hn]

/-- Two threads of one gang in one lane are the same. -/
theorem thread_of_gid_lane {t u : Nat} (hg : gidOf u = gidOf t) (hl : laneOf u = laneOf t) : u = t := by
  simp only [gidOf, laneOf] at hg hl; omega

theorem State.storedWord_writeReg {s : State} {t i u j : Nat} {w : TWord} (h : ¬(u = t ∧ j = i)) :
    (s.writeReg t i w).storedWord u j = s.storedWord u j := by
  unfold State.writeReg
  split
  · rfl
  · split
    · rfl
    · rename_i hi _ g hg
      have hi : i ≠ 0 := by simpa using hi
      by_cases hu : gidOf u = gidOf t
      · have hw : j ≠ 0 → ¬(j - 1 = i - 1 ∧ laneOf u = laneOf t) := fun hj e =>
          h ⟨thread_of_gid_lane hu e.2, by have := e.1; omega⟩
        by_cases hj : j = 0
        · simp [State.storedWord, State.updGang, hu, hg, hj]
        · simp [State.storedWord, State.updGang, hu, hg, hj, Alloc.word_writeWord (hw hj)]
      · simp [State.storedWord, State.updGang, hu]

/-! ## Before completion -/

/-- A thread whose running instruction has met a lapse `z`, a mismatch `m` and float flags `f`; its predicates may differ. -/
def Thread.Noted (x y : Thread) (z m : Bool) (f : Nat) : Prop :=
  x.SameSpecials y ∧ y.fst = x.fst ∧ y.lapf = x.lapf ∧ y.loads = x.loads ∧ y.pendFst = orf x.pendFst f ∧
    y.pendLapf = (x.pendLapf || z) ∧ y.pendMis = (x.pendMis || m)

/-- `x` is `s` with the running instruction of `t` noted and at most registers `rs` of `t` written. -/
structure State.Wrote (s x : State) (t : Nat) (rs : List Nat) (z m : Bool) (f : Nat) : Prop where
  words : ∀ u i, ¬(u = t ∧ i ∈ rs) → x.storedWord u i = s.storedWord u i
  others : ∀ u, u ≠ t → x.threads.find u = s.threads.find u
  none : s.threads.find t = none → x.threads.find t = none
  own : ∀ th, s.threads.find t = some th → ∃ y, x.threads.find t = some y ∧ th.Noted y z m f
  gangs : ∀ g a, s.gangs.find g = some a → ∃ b, x.gangs.find g = some b ∧ b.scratch = a.scratch ∧ b.stack = a.stack ∧
    b.handles = a.handles ∧ b.slog = a.slog
  mem : x.mem = s.mem

section
variable {s x : State} {t : Nat} {rs : List Nat} {z m : Bool} {f : Nat}

theorem State.Wrote.refl (s : State) (t : Nat) : s.Wrote s t [] false false 0 where
  words _ _ _ := rfl
  others _ _ := rfl
  none h := h
  own th h := ⟨th, h, by simp [Thread.Noted, Thread.SameSpecials, orf]⟩
  gangs g a h := ⟨a, h, rfl, rfl, rfl, rfl⟩
  mem := rfl

theorem State.Wrote.noted (s : State) (t : Nat) (rs : List Nat) (z m : Bool) (f : Nat) : s.Wrote (s.noted t z m f) t rs z m f where
  words _ _ _ := rfl
  others u hu := by simp [State.noted, State.updThread, hu]
  none h := by simp [State.noted, State.updThread, h]
  own th h := ⟨_, by simp [State.noted, State.updThread, h]; rfl, by simp [Thread.Noted, Thread.SameSpecials]⟩
  gangs g a h := ⟨a, h, rfl, rfl, rfl, rfl⟩
  mem := rfl

/-- The gang of a register write keeps everything but its register rows. -/
theorem State.writeReg_gang (x : State) (t i g : Nat) (w : TWord) {a : Gang} (h : x.gangs.find g = some a) :
    ∃ r, (x.writeReg t i w).gangs.find g = some { a with regs := r } := by
  unfold State.writeReg
  split
  · exact ⟨a.regs, h⟩
  · split
    · exact ⟨a.regs, h⟩
    · by_cases hg : g = gidOf t
      · subst hg
        exact ⟨_, by simp only [State.updGang, AMap.find_upd, if_pos, h]; rfl⟩
      · exact ⟨a.regs, by simp [State.updGang, hg, h]⟩

theorem State.Wrote.writeReg (h : s.Wrote x t rs z m f) {i : Nat} (hi : i ∈ rs) (w : TWord) : s.Wrote (x.writeReg t i w) t rs z m f where
  words u j hj := by
    have hne : ¬(u = t ∧ j = i) := fun e => hj ⟨e.1, e.2 ▸ hi⟩
    rw [State.storedWord_writeReg hne]
    exact h.words u j hj
  others u hu := by rw [State.writeReg_threads]; exact h.others u hu
  none := by rw [State.writeReg_threads]; exact h.none
  own := by rw [State.writeReg_threads]; exact h.own
  gangs g a ha := by
    obtain ⟨b, hb, keep⟩ := h.gangs g a ha
    obtain ⟨r, hr⟩ := x.writeReg_gang t i g w hb
    exact ⟨_, hr, keep⟩
  mem := by rw [State.writeReg_mem]; exact h.mem

theorem State.Wrote.setPreds (h : s.Wrote x t rs z m f) (pf : Nat → Nat) :
    s.Wrote (x.updThread t fun th => { th with preds := pf th.preds }) t rs z m f where
  words := h.words
  others u hu := by simpa [State.updThread, hu] using h.others u hu
  none hn := by simp [State.updThread, h.none hn]
  own th ht := by
    obtain ⟨y, hy, hn⟩ := h.own th ht
    exact ⟨{ y with preds := pf y.preds }, by simp [State.updThread, hy], hn⟩
  gangs := h.gangs
  mem := h.mem

/-! ## Completion -/

/-- Committing and moving on leave a thread's special registers, and make the noted flags its own. -/
theorem Thread.Noted.moved {th y v : Thread} (h : th.Noted y z m f) (hv : y.committed.Moved v) :
    th.SameSpecials v ∧ v.fst = orf th.fst (orf th.pendFst f) ∧ v.lapf = (th.lapf || (th.pendLapf || z)) ∧ v.loads = th.loads := by
  obtain ⟨hsame, hfst, hlapf, hloads, hpf, hpl, -⟩ := h
  obtain ⟨_, _, _, _, _, _, _, rfl⟩ := hv
  refine ⟨hsame, ?_, ?_, hloads⟩
  · simp only [Thread.committed, hfst, hpf]
  · simp only [Thread.committed, hlapf, hpl]

theorem State.Wrote.frame_done (h : s.Wrote x t rs z m f) : s.Frame (x.done t) t rs z m f := by
  obtain ⟨k, M, q, c, o, e, ks, cs, hk, hd, hmem⟩ := x.done_shape t
  have hth : (x.done t).threads = x.threads.upd t k := by rw [hd]; rfl
  have hgs : (x.done t).gangs = x.gangs := State.done_gangs x t
  refine ⟨fun u i hi => ?_, fun u hu => ?_, fun th ht => ?_, ?_, fun hm a => ?_⟩
  · rw [← h.words u i hi]
    simp only [State.storedWord, hgs]
  · rw [hth, AMap.find_upd, if_neg hu, h.others u hu]
  · obtain ⟨y, hy, hn⟩ := h.own th ht
    exact ⟨k y, by simp [hth, hy], hn.moved (hk y)⟩
  · rw [hgs]
    exact h.gangs
  · have hp : ∀ y, x.threads.find t = some y → y.pendMis = false := by
      intro y hy
      cases ht : s.threads.find t with
      | none => simp [h.none ht] at hy
      | some th =>
        obtain ⟨y', hy', -, -, -, -, -, -, hpm⟩ := h.own th ht
        obtain rfl : y' = y := by simpa [hy'] using hy
        rw [hpm, hm th ht]
    rw [hd]
    show Memory.get M a = _
    rw [(hmem hp).1, h.mem]

end

/-- A result in the pair of `d` writes at most that pair, and nothing when `d` is v0. -/
theorem State.frame_resultPair (s : State) (t d : Nat) (l h : TWord) (z m : Bool) (f : Nat) :
    s.Frame (s.resultPair t d l h z m f) t (if d = 0 then [] else [d, d + 1]) z m f := by
  unfold State.resultPair
  split
  · exact (State.Wrote.noted s t _ z m f).frame_done
  · exact (((State.Wrote.noted s t _ z m f).writeReg (by simp) l).writeReg (by simp) h).frame_done

/-- A thread keeps its predicates over what completing does to it. -/
theorem Thread.Moved.preds {x y : Thread} (h : x.Moved y) : y.preds = x.preds := by
  obtain ⟨_, _, _, _, _, _, _, rfl⟩ := h
  rfl

theorem State.result_preds {s : State} {t d : Nat} {w : TWord} {z m : Bool} {f : Nat} {th : Thread} (ht : s.threads.find t = some th) :
    ∃ y, (s.result t d w z m f).threads.find t = some y ∧ y.preds = th.preds := by
  obtain ⟨k, hk, hd⟩ := ((s.noted t z m f).writeReg t d w).done_threads t
  refine ⟨k { th with pendLapf := th.pendLapf || z, pendMis := th.pendMis || m, pendFst := orf th.pendFst f }, ?_, (hk _).preds⟩
  rw [State.result, hd]
  simp [State.updThread, State.noted, ht]

/-- Settles O16: each completion notes, writes the destination registers and completes (`State.Wrote.frame_done`). -/
theorem registerFrame : Obligations.RegisterFrame := by
  unfold Obligations.RegisterFrame
  intro s t d w l h r z m f pf
  refine ⟨?_, s.frame_resultPair t d l h z m f, s.frame_resultPair t d _ _ z m f, ?_, ?_, fun th ht => State.result_preds ht⟩
  · exact ((State.Wrote.noted s t _ z m f).writeReg (by simp) w).frame_done
  · exact ((State.Wrote.noted s t _ z m f).setPreds pf).frame_done
  · exact (State.Wrote.refl s t).frame_done

end Sys2Proof.Machine

end

section
/-! LAWS. Stores at the home L2 and through a column cache: bytes of words and lines, lines that go home, and what a core reads
(R1, R15, R253 to R256, R284). -/
namespace Sys2Proof.Machine

/-! ## Bits and bytes of numbers -/

theorem bit_eq_testBit (x i : Nat) : bit x i = x.testBit i := by
  rw [bit, Nat.testBit_eq_decide_div_mod_eq]
  exact beq_eq_decide _ _

theorem ones_shifted_testBit (n o j : Nat) : (ones n * 2 ^ o).testBit j = (decide (o ≤ j) && decide (j < o + n)) := by
  rw [Nat.testBit_mul_two_pow, ones, Nat.testBit_two_pow_sub_one]
  by_cases h : o ≤ j
  · simp [h, show j - o < n ↔ j < o + n by omega]
  · simp [h]

theorem ones_testBit (n j : Nat) : (ones n).testBit j = decide (j < n) := by rw [ones, Nat.testBit_two_pow_sub_one]

theorem mergeBits_testBit (n m a b j : Nat) :
    (mergeBits n m a b).testBit j = (decide (j < n) && if m.testBit j then b.testBit j else a.testBit j) := by
  induction n generalizing m a b j with
  | zero => simp [mergeBits]
  | succ n ih =>
    have hlow : ∀ x y : Nat, ((if m % 2 == 1 then x % 2 else y % 2) + 2 * mergeBits n (m / 2) (a / 2) (b / 2)) / 2 =
        mergeBits n (m / 2) (a / 2) (b / 2) := fun x y => by split <;> omega
    cases j with
    | zero =>
      rw [mergeBits, Nat.testBit_zero, Nat.testBit_zero, Nat.testBit_zero, Nat.testBit_zero]
      by_cases hm : m % 2 = 1
      · simp [hm]
      · simp [hm]
    | succ j =>
      rw [mergeBits, Nat.testBit_succ, hlow, ih]
      simp only [Nat.testBit_succ, Nat.add_lt_add_iff_right]

theorem byte_succ (x j : Nat) : x / 256 ^ (j + 1) = x / 256 / 256 ^ j := by rw [Nat.pow_succ', Nat.div_div_eq_div_mul]

theorem mergeBytes_byte {n j : Nat} (h : j < n) (m a b : Nat) :
    mergeBytes n m a b / 256 ^ j % 256 = if m.testBit j then b / 256 ^ j % 256 else a / 256 ^ j % 256 := by
  induction n generalizing m a b j with
  | zero => omega
  | succ n ih =>
    have hlow : ∀ x y : Nat, ((if m % 2 == 1 then x % 256 else y % 256) + 256 * mergeBytes n (m / 2) (a / 256) (b / 256)) / 256 =
        mergeBytes n (m / 2) (a / 256) (b / 256) := fun x y => by split <;> omega
    cases j with
    | zero =>
      rw [mergeBytes, Nat.testBit_zero]
      by_cases hm : m % 2 = 1
      · simp [hm]
      · simp [hm]
    | succ j =>
      rw [mergeBytes, byte_succ, hlow, ih (by omega), Nat.testBit_succ, ← byte_succ, ← byte_succ]

theorem byte_shifted (v o i : Nat) : v * 2 ^ (8 * o) / 256 ^ (o + i) = v / 256 ^ i := by
  rw [Nat.pow_mul, Nat.pow_add, show (2 : Nat) ^ 8 = 256 from rfl, Nat.mul_comm v]
  exact Nat.mul_div_mul_left _ _ (Nat.pow_pos (by decide))

/-! ## Bytes of memory -/

theorem getLE_byte {m : List Host.Cell} {n i a : Nat} (h : i < n) :
    Memory.getLE m n a / 256 ^ i % 256 = (Memory.get m (a + i)).toNat := by
  induction n generalizing i a with
  | zero => omega
  | succ n ih =>
    have hb : (Memory.get m a).toNat < 256 := (Memory.get m a).isLt
    cases i with
    | zero => simp only [Memory.getLE, Nat.pow_zero, Nat.div_one, Nat.add_zero]; omega
    | succ i =>
      rw [Memory.getLE, byte_succ, show ((Memory.get m a).toNat + 256 * Memory.getLE m n (a + 1)) / 256 = Memory.getLE m n (a + 1) by omega,
        ih (by omega), show a + 1 + i = a + (i + 1) by omega]

theorem leBytes_getElem {n x i : Nat} (h : i < (leBytes n x).length) : (leBytes n x)[i] = BitVec.ofNat 8 (x / 256 ^ i) := by
  induction n generalizing x i with
  | zero => simp [leBytes] at h
  | succ n ih =>
    cases i with
    | zero => simp [leBytes]
    | succ i => simp only [leBytes, List.getElem_cons_succ, ih, byte_succ]

/-- A byte of memory after the write of a number (R1). -/
theorem get_setBytes {m : List Host.Cell} {a n x : Nat} (hm : Memory.wf m = true) (b : Nat) :
    Memory.get (Memory.setBytes m a (leBytes n x)) b = if a ≤ b ∧ b < a + n then BitVec.ofNat 8 (x / 256 ^ (b - a)) else Memory.get m b := by
  split
  · next h =>
    obtain ⟨i, rfl⟩ := Nat.exists_eq_add_of_le h.1
    rw [Memory.get_setBytes_in hm (by rw [leBytes_length]; omega), leBytes_getElem, Nat.add_sub_cancel_left]
  · next h => exact Memory.get_setBytes_out (by rw [leBytes_length]; omega)

theorem State.phys_one (s : State) (a : Nat) : s.phys 1 a = (Memory.get s.mem a).toNat := by
  simp [State.phys, Memory.getLE]

theorem State.get_eq_phys (s : State) (a : Nat) : Memory.get s.mem a = BitVec.ofNat 8 (s.phys 1 a) := by
  simp [State.phys_one]

theorem State.phys_byte {s : State} {n i pa : Nat} (h : i < n) : s.phys n pa / 256 ^ i % 256 = s.phys 1 (pa + i) := by
  rw [State.phys, getLE_byte h, State.phys_one]

/-- A byte at home after bytes of memory are replaced. -/
theorem State.phys_of_setBytes {s x : State} {pa n v : Nat} (hm : Memory.wf s.mem = true) (hx : x.mem = Memory.setBytes s.mem pa (leBytes n v))
    (a : Nat) : x.phys 1 a = if pa ≤ a ∧ a < pa + n then v / 256 ^ (a - pa) % 256 else s.phys 1 a := by
  rw [State.phys_one, hx, get_setBytes hm]
  split
  · simp
  · rw [State.phys_one]

/-! ## Sorted maps -/

/-- The keys of a map rise strictly. -/
def SortedKeys {α : Type} (m : AMap α) : Prop := m.Pairwise fun x y => x.1 < y.1

theorem SortedKeys.find_none {α : Type} {m : AMap α} {k : Nat} (h : ∀ e ∈ m, k < e.1) : m.find k = none := by
  induction m with
  | nil => rfl
  | cons e m ih =>
    have hk := h e (by simp)
    rw [AMap.find, if_neg (by omega)]
    exact ih fun e he => h e (by simp [he])

theorem SortedKeys.find_del {α : Type} {m : AMap α} (h : SortedKeys m) (i k : Nat) : (m.del k).find i = if i = k then none else m.find i := by
  split
  · next e =>
    subst e
    induction m with
    | nil => rfl
    | cons e m ih =>
      obtain ⟨hlt, hm⟩ := List.pairwise_cons.mp h
      rw [AMap.del]
      split
      · next he => exact find_none fun y hy => he ▸ hlt y hy
      · next he => rw [AMap.find, if_neg he]; exact ih hm
  · next e => exact AMap.find_del_ne e m

theorem mem_put {α : Type} {k : Nat} {v : α} {m : AMap α} {e : Nat × α} (h : e ∈ m.put k v) : e = (k, v) ∨ e ∈ m := by
  induction m with
  | nil => simpa [AMap.put] using h
  | cons y m ih =>
    rw [AMap.put] at h
    split at h
    · simpa using h
    · split at h
      · rcases List.mem_cons.mp h with h | h
        · exact .inl h
        · exact .inr (by simp [h])
      · rcases List.mem_cons.mp h with h | h
        · exact .inr (by simp [h])
        · exact (ih h).imp_right fun h => by simp [h]

theorem mem_del {α : Type} {k : Nat} {m : AMap α} {e : Nat × α} (h : e ∈ m.del k) : e ∈ m := by
  induction m with
  | nil => exact h
  | cons y m ih =>
    rw [AMap.del] at h
    split at h
    · simp [h]
    · rcases List.mem_cons.mp h with h | h
      · simp [h]
      · simp [ih h]

theorem SortedKeys.put {α : Type} {m : AMap α} (h : SortedKeys m) (k : Nat) (v : α) : SortedKeys (m.put k v) := by
  induction m with
  | nil => exact List.pairwise_singleton _ _
  | cons y m ih =>
    obtain ⟨hlt, hm⟩ := List.pairwise_cons.mp h
    rw [AMap.put]
    split
    · next hk =>
      refine List.pairwise_cons.mpr ⟨fun e he => ?_, h⟩
      rcases List.mem_cons.mp he with rfl | he
      · exact hk
      · exact Nat.lt_trans hk (hlt e he)
    · split
      · next hy => exact List.pairwise_cons.mpr ⟨fun e he => hy ▸ hlt e he, hm⟩
      · next hk hy =>
        refine List.pairwise_cons.mpr ⟨fun e he => ?_, ih hm⟩
        rcases mem_put he with rfl | he
        · show y.1 < k; omega
        · exact hlt e he

theorem SortedKeys.del {α : Type} {m : AMap α} (h : SortedKeys m) (k : Nat) : SortedKeys (m.del k) := by
  induction m with
  | nil => exact h
  | cons y m ih =>
    obtain ⟨hlt, hm⟩ := List.pairwise_cons.mp h
    rw [AMap.del]
    split
    · exact hm
    · exact List.pairwise_cons.mpr ⟨fun e he => hlt e (mem_del he), ih hm⟩

end Sys2Proof.Machine

end

section
/-! LAWS. What the operations on a column cache leave of what a core reads and of what home holds (R254, R256, R15). -/
namespace Sys2Proof.Machine

/-! ## Changes that concern neither memory nor the lines of a core -/

/-- `x` has the memory of `s`, the lines of core `core` and every other core as in `s`, and its threads and gangs. -/
structure State.Alike (core : Nat) (s x : State) : Prop where
  mem : x.mem = s.mem
  cache : (x.core core).cache = (s.core core).cache
  others : ∀ k, k ≠ core → x.core k = s.core k
  threads : x.threads = s.threads
  gangs : x.gangs = s.gangs

theorem State.Alike.refl (core : Nat) (s : State) : s.Alike core s := ⟨rfl, rfl, fun _ _ => rfl, rfl, rfl⟩

theorem State.Alike.trans {core : Nat} {s x y : State} (h : s.Alike core x) (h' : x.Alike core y) : s.Alike core y :=
  ⟨h'.mem.trans h.mem, h'.cache.trans h.cache, fun k hk => (h'.others k hk).trans (h.others k hk), h'.threads.trans h.threads,
    h'.gangs.trans h.gangs⟩

theorem State.Alike.setPoison (core : Nat) (s : State) (p : List Nat) : s.Alike core { s with poison := p } :=
  ⟨rfl, rfl, fun _ _ => rfl, rfl, rfl⟩

theorem State.core_setCore (s : State) (c k : Nat) (x : Core) : (s.setCore c x).core k = if k = c then x else s.core k := by
  simp only [State.core, State.setCore, AMap.find_put]
  split
  · rfl
  · rfl

/-- A change of a core that leaves its lines. -/
theorem State.Alike.updCore {core : Nat} {s : State} {f : Core → Core} (h : (f (s.core core)).cache = (s.core core).cache) :
    s.Alike core (s.updCore core f) where
  mem := rfl
  cache := by rw [State.updCore, State.core_setCore, if_pos rfl, h]
  others k hk := by rw [State.updCore, State.core_setCore, if_neg hk]
  threads := rfl
  gangs := rfl

theorem State.ecountL2_shape (i : Nat) (ks : List Nat) : ∀ s : State, ∃ d, s.ecountL2 i ks = { s with dies := d } := by
  induction ks with
  | nil => exact fun s => ⟨s.dies, rfl⟩
  | cons k ks ih =>
    intro s
    obtain ⟨d, h⟩ := ih (s.ecount (l2Die k) i 1)
    exact ⟨d, h⟩

theorem State.noteRead_shape (s : State) (pa n : Nat) : ∃ e l d, s.noteRead pa n = { s with softErrs := e, softL2 := l, dies := d } := by
  unfold State.noteRead
  dsimp only
  split
  · exact ⟨s.softErrs, s.softL2, s.dies, rfl⟩
  · generalize hx : State.ecount _ _ 7 _ = x
    obtain ⟨d, h⟩ := State.ecountL2_shape 4 (s.softL2.filter _) x
    obtain ⟨d', h'⟩ := State.ecountL2_shape 5 (s.poisonL2.filter _) { x with dies := d }
    rw [h, h', ← hx]
    exact ⟨_, _, d', rfl⟩

theorem State.Alike.noteRead (core : Nat) (s : State) (pa n : Nat) : s.Alike core (s.noteRead pa n) := by
  obtain ⟨e, l, d, h⟩ := s.noteRead_shape pa n
  rw [h]
  exact ⟨rfl, rfl, fun _ _ => rfl, rfl, rfl⟩

theorem State.putTags_shape (w tags k : Nat) : ∀ s : State, ∃ b o, s.putTags w tags k = { s with tagBits := b, codeOld := o } := by
  induction k with
  | zero => exact fun s => ⟨s.tagBits, s.codeOld, rfl⟩
  | succ k ih =>
    intro s
    obtain ⟨b, o, h⟩ := ih (s.setTagAt (8 * (w + k)) (bit tags k))
    exact ⟨b, o, h⟩

theorem State.Alike.putTags (core : Nat) (s : State) (w tags k : Nat) : s.Alike core (s.putTags w tags k) := by
  obtain ⟨b, o, h⟩ := State.putTags_shape w tags k s
  rw [h]
  exact ⟨rfl, rfl, fun _ _ => rfl, rfl, rfl⟩

theorem State.Alike.multicast (core : Nat) (s : State) (c la mask data : Nat) (ws : AMap Nat) :
    s.Alike core (s.multicast c la mask data ws) := by
  obtain ⟨x, o, e, h⟩ := State.multicast_shape c la mask data ws s
  rw [h]
  exact ⟨rfl, rfl, fun _ _ => rfl, rfl, rfl⟩

/-- The rest of a line's way home: the tags of its words and what the multicast windows send. -/
theorem State.Alike.sent (core : Nat) (s : State) (w tags k c la mask data : Nat) :
    s.Alike core ((s.putTags w tags k).multicast c la mask data (s.putTags w tags k).mcwins) :=
  (State.Alike.putTags core s w tags k).trans (.multicast core _ c la mask data _)

theorem State.Alike.freshTags (core : Nat) (s : State) (line : Nat) (ws : List Nat) : s.Alike core (s.freshTags core line ws) := by
  unfold State.freshTags
  split
  · exact .refl core s
  · exact .updCore rfl

theorem State.Alike.settleTags (core : Nat) (s : State) (w k : Nat) : s.Alike core (s.settleTags core w k) := by
  unfold State.settleTags
  split
  · exact .refl core s
  · exact .updCore rfl

/-! ## What a core reads -/

/-- Byte `j` of a line as its core reads it, home holding `h` there. -/
def CLine.byteAt (l : CLine) (j h : Nat) : Nat := if bit l.valid j then l.data / 256 ^ j % 256 else h

/-- A line of which no byte is valid reads as home. -/
theorem CLine.byteAt_invalid {l : CLine} (hv : l.valid = 0) (j h : Nat) : l.byteAt j h = h := by simp [CLine.byteAt, bit, hv]

theorem State.viewByte_eq (s : State) (core a : Nat) : s.viewByte core a = (s.line core (a / 128)).byteAt (a % 128) (s.phys 1 a) := by
  unfold State.viewByte State.line
  cases (s.core core).cache.find (a / 128) with
  | some l => rfl
  | none => exact (CLine.byteAt_invalid rfl ..).symm

section
variable {core : Nat} {s x : State}

theorem State.Alike.phys (h : s.Alike core x) (n a : Nat) : x.phys n a = s.phys n a := by simp only [State.phys, h.mem]

theorem State.Alike.line (h : s.Alike core x) (k : Nat) : x.line core k = s.line core k := by simp only [State.line, h.cache]

theorem State.Alike.viewByte (h : s.Alike core x) (a : Nat) : x.viewByte core a = s.viewByte core a := by
  rw [State.viewByte_eq, State.viewByte_eq, h.line, h.phys]

/-- Canonical memory, and the lines of a core as the model keeps them: keys rising, dirty bytes valid. -/
structure State.Tidy (core : Nat) (s : State) : Prop where
  wf : Memory.wf s.mem = true
  sorted : SortedKeys (s.core core).cache
  dirty : ∀ j l, (s.core core).cache.find j = some l → ∀ i, i < 128 → bit l.dirty i = true → bit l.valid i = true

theorem State.Tidy.alike (hs : s.Tidy core) (h : s.Alike core x) : x.Tidy core :=
  ⟨h.mem ▸ hs.wf, h.cache ▸ hs.sorted, h.cache ▸ hs.dirty⟩

theorem State.Tidy.line_dirty (hs : s.Tidy core) (k : Nat) {i : Nat} (hi : i < 128) (h : bit (s.line core k).dirty i = true) :
    bit (s.line core k).valid i = true := by
  unfold State.line at h ⊢
  cases hf : (s.core core).cache.find k with
  | some l =>
    rw [hf] at h
    exact hs.dirty k l hf i hi h
  | none => simp [hf, CLine.empty, bit] at h

/-- `x` after lines of core `core` went home or were filled from there: each byte the core reads is as it read it or as home held it, and
each byte at home is as it was or as the core read it; the other cores, threads and gangs stand. -/
structure State.Settles (core : Nat) (s x : State) : Prop where
  tidy : x.Tidy core
  view : ∀ a, x.viewByte core a = s.viewByte core a ∨ x.viewByte core a = s.phys 1 a
  home : ∀ a, x.phys 1 a = s.phys 1 a ∨ x.phys 1 a = s.viewByte core a
  others : ∀ k, k ≠ core → x.core k = s.core k
  threads : x.threads = s.threads
  gangs : x.gangs = s.gangs

theorem State.Settles.refl (hs : s.Tidy core) : s.Settles core s :=
  ⟨hs, fun _ => .inl rfl, fun _ => .inl rfl, fun _ _ => rfl, rfl, rfl⟩

theorem State.Settles.trans {y : State} (h : s.Settles core x) (h' : x.Settles core y) : s.Settles core y where
  tidy := h'.tidy
  view a := by
    rcases h'.view a with e | e
    · rw [e]; exact h.view a
    · rw [e]; exact (h.home a).symm
  home a := by
    rcases h'.home a with e | e
    · rw [e]; exact h.home a
    · rw [e]; exact (h.view a).symm
  others k hk := (h'.others k hk).trans (h.others k hk)
  threads := h'.threads.trans h.threads
  gangs := h'.gangs.trans h.gangs

theorem State.Settles.of_alike (hs : s.Tidy core) (h : s.Alike core x) : s.Settles core x :=
  ⟨hs.alike h, fun a => .inl (h.viewByte a), fun a => .inl (h.phys 1 a), h.others, h.threads, h.gangs⟩

theorem State.Settles.alike {y : State} (h : s.Settles core x) (h' : x.Alike core y) : s.Settles core y := h.trans (.of_alike h.tidy h')

/-! ## Replacing a line -/

theorem State.find_setLine (hs : s.Tidy core) (line k : Nat) (l : CLine) :
    ((s.setLine core line l).core core).cache.find k =
      if k = line then (if l.valid = 0 then none else some l) else (s.core core).cache.find k := by
  rw [State.setLine, State.updCore, State.core_setCore, if_pos rfl]
  by_cases hv : l.valid = 0
  · simp [hv, hs.sorted.find_del]
  · simp [hv]

/-- What a core reads after one of its lines is replaced. -/
theorem State.viewByte_setLine (hs : s.Tidy core) (line : Nat) (l : CLine) (a : Nat) :
    (s.setLine core line l).viewByte core a = if a / 128 = line then l.byteAt (a % 128) (s.phys 1 a) else s.viewByte core a := by
  have hp : (s.setLine core line l).phys 1 a = s.phys 1 a := rfl
  rw [State.viewByte_eq, hp, State.line, State.find_setLine hs]
  split
  · split
    · next hv => rw [CLine.byteAt_invalid hv]; exact CLine.byteAt_invalid rfl ..
    · rfl
  · rw [State.viewByte_eq, State.line]

theorem State.Tidy.setLine (hs : s.Tidy core) (line : Nat) {l : CLine} (hl : ∀ i, i < 128 → bit l.dirty i = true → bit l.valid i = true) :
    (s.setLine core line l).Tidy core where
  wf := hs.wf
  sorted := by
    rw [State.setLine, State.updCore, State.core_setCore, if_pos rfl]
    dsimp only
    split
    · exact hs.sorted.del line
    · exact hs.sorted.put line l
  dirty j y hy := by
    rw [State.find_setLine hs] at hy
    split at hy
    · split at hy
      · nomatch hy
      · cases hy
        exact hl
    · exact hs.dirty j y hy

/-- A line replaced by one whose valid bytes each stand or come from home. -/
theorem State.Settles.setLine (hs : s.Tidy core) (line : Nat) {l : CLine} (hl : ∀ i, i < 128 → bit l.dirty i = true → bit l.valid i = true)
    (hb : ∀ i, i < 128 → bit l.valid i = true → l.data / 256 ^ i % 256 = s.phys 1 (128 * line + i) ∨
      bit (s.line core line).valid i = true ∧ l.data / 256 ^ i % 256 = (s.line core line).data / 256 ^ i % 256) :
    s.Settles core (s.setLine core line l) where
  tidy := hs.setLine line hl
  view a := by
    rw [State.viewByte_setLine hs]
    split
    · next ha =>
      have hi : a % 128 < 128 := Nat.mod_lt _ (by decide)
      have hadr : 128 * line + a % 128 = a := by omega
      by_cases hv : bit l.valid (a % 128) = true
      · rcases hb _ hi hv with e | ⟨hold, e⟩
        · exact .inr (by rw [CLine.byteAt, if_pos hv, e, hadr])
        · exact .inl (by rw [State.viewByte_eq, ha, CLine.byteAt, CLine.byteAt, if_pos hv, if_pos hold, e])
      · exact .inr (by rw [CLine.byteAt, if_neg hv])
    · exact .inl rfl
  home _ := .inl rfl
  others k hk := by rw [State.setLine, State.updCore, State.core_setCore, if_neg hk]
  threads := rfl
  gangs := rfl

/-! ## Lines that go home -/

theorem State.withBytes_mem (s : State) (n pa v : Nat) : (s.withBytes n pa v).mem = Memory.setBytes s.mem pa (leBytes n v) := rfl

theorem State.Tidy.withBytes (hs : s.Tidy core) (n pa v : Nat) : (s.withBytes n pa v).Tidy core :=
  ⟨Memory.wf_setBytes hs.wf, hs.sorted, hs.dirty⟩

theorem State.core_withBytes (s : State) (n pa v k : Nat) : (s.withBytes n pa v).core k = s.core k := rfl
theorem State.withBytes_threads (s : State) (n pa v : Nat) : (s.withBytes n pa v).threads = s.threads := rfl
theorem State.withBytes_gangs (s : State) (n pa v : Nat) : (s.withBytes n pa v).gangs = s.gangs := rfl
theorem State.line_withBytes (s : State) (core n pa v k : Nat) : (s.withBytes n pa v).line core k = s.line core k := rfl

/-- Bytes of a line replaced at home, each by what it was or by the core's valid copy of it. -/
theorem State.Settles.withBytes (hs : s.Tidy core) (line data : Nat)
    (hb : ∀ i, i < 128 → data / 256 ^ i % 256 = s.phys 1 (128 * line + i) ∨
      bit (s.line core line).valid i = true ∧ data / 256 ^ i % 256 = (s.line core line).data / 256 ^ i % 256) :
    s.Settles core (s.withBytes 128 (128 * line) data) := by
  have hmem : (s.withBytes 128 (128 * line) data).mem = Memory.setBytes s.mem (128 * line) (leBytes 128 data) := State.withBytes_mem ..
  have hphys := State.phys_of_setBytes hs.wf hmem
  have hbyte : ∀ a, (s.withBytes 128 (128 * line) data).phys 1 a = s.phys 1 a ∨
      bit (s.line core (a / 128)).valid (a % 128) = true ∧ (s.withBytes 128 (128 * line) data).phys 1 a = s.viewByte core a := by
    intro a
    rw [hphys]
    split
    · next ha =>
      have hline : a / 128 = line := by omega
      have hoff : a - 128 * line = a % 128 := by omega
      have hadr : 128 * line + a % 128 = a := by omega
      rcases hb (a % 128) (by omega) with e | ⟨hv, e⟩
      · exact .inl (by rw [hoff, e, hadr])
      · exact .inr ⟨hline ▸ hv, by rw [hoff, e, State.viewByte_eq, hline, CLine.byteAt, if_pos hv]⟩
    · exact .inl rfl
  refine ⟨hs.withBytes .., fun a => .inl ?_, fun a => (hbyte a).imp_right And.right, fun k _ => State.core_withBytes ..,
    State.withBytes_threads .., State.withBytes_gangs ..⟩
  rw [State.viewByte_eq, State.viewByte_eq, State.line_withBytes]
  rcases hbyte a with e | ⟨hv, -⟩
  · rw [e]
  · rw [CLine.byteAt, CLine.byteAt, if_pos hv, if_pos hv]

/-- The bytes that home holds of a line once its core's dirty bytes are there. -/
def State.homeMerge (s : State) (core line : Nat) : Nat :=
  mergeBytes 128 (s.line core line).dirty (s.phys 128 (128 * line)) (s.line core line).data

theorem State.Tidy.homeMerge_byte (hs : s.Tidy core) (line : Nat) {i : Nat} (hi : i < 128) :
    s.homeMerge core line / 256 ^ i % 256 = s.phys 1 (128 * line + i) ∨
      bit (s.line core line).valid i = true ∧ s.homeMerge core line / 256 ^ i % 256 = (s.line core line).data / 256 ^ i % 256 := by
  rw [State.homeMerge, mergeBytes_byte hi, ← bit_eq_testBit]
  split
  · next hd => exact .inr ⟨hs.line_dirty line hi hd, rfl⟩
  · exact .inl (State.phys_byte hi)

theorem State.Settles.cleanLine (hs : s.Tidy core) (line : Nat) : s.Settles core (s.cleanLine core line) := by
  have hhome := State.Settles.withBytes hs line _ fun i => hs.homeMerge_byte line
  have hline := State.line_withBytes s core 128 (128 * line) (s.homeMerge core line) line
  unfold State.homeMerge at hhome hline
  unfold State.cleanLine
  dsimp only
  generalize s.withBytes 128 (128 * line) _ = y at hhome hline ⊢
  split
  · exact .refl hs
  · have hsent {p w tags k c la m d} : y.Alike core ((({ y with poison := p } : State).putTags w tags k).multicast c la m d
        (({ y with poison := p } : State).putTags w tags k).mcwins) := (State.Alike.setPoison core y p).trans (.sent ..)
    refine (hhome.alike hsent).trans (.setLine (hhome.alike hsent).tidy line (fun i _ hd => ?_) fun i _ hv => .inr ?_)
    · simp [bit] at hd
    · rw [hsent.line, hline]
      exact ⟨hv, rfl⟩

theorem State.Settles.evict (hs : s.Tidy core) (line : Nat) : s.Settles core (s.evict core line) := by
  have h := State.Settles.cleanLine hs line
  have hd : (s.evict core line) = (s.cleanLine core line).setLine core line CLine.empty := rfl
  rw [hd]
  refine h.trans (.setLine h.tidy line (fun i _ hd => ?_) fun i _ hv => ?_)
  · simp [CLine.empty, bit] at hd
  · simp [CLine.empty, bit] at hv

theorem State.Settles.makeRoom (hs : s.Tidy core) (line : Nat) : s.Settles core (s.makeRoom core line) := by
  unfold State.makeRoom
  extract_lets c
  split
  · exact .refl hs
  · exact (State.Settles.evict hs _).alike ⟨rfl, rfl, fun _ _ => rfl, rfl, rfl⟩

theorem State.Settles.fill (hs : s.Tidy core) (line sects : Nat) (tagged : Bool) : s.Settles core (s.fill core line sects tagged) := by
  unfold State.fill
  extract_lets l0 want s1 l ws bytes words touched all pub pz s2
  split
  · exact .refl hs
  · have h1 : s.Settles core s1 := by
      dsimp only [s1]
      split
      · exact .evict hs line
      · exact .makeRoom hs line
    have ha : s1.Alike core s2 := .noteRead core s1 ..
    have h2 : s.Settles core s2 := h1.alike ha
    have hline : s2.line core line = l := ha.line line
    refine (h2.trans (.setLine h2.tidy line (fun i hi hd => ?_) fun i hi hv => ?_)).alike (.freshTags ..)
    · have hv : bit l.valid i = true := h1.tidy.line_dirty line hi hd
      rw [bit_eq_testBit] at hv ⊢
      rw [mergeBits_testBit, ones_testBit, hv]
      simp [hi]
    · rw [hline]
      rw [bit_eq_testBit, mergeBits_testBit] at hv
      rw [mergeBytes_byte hi]
      by_cases hm : bytes.testBit i = true
      · exact .inl (by rw [if_pos hm, State.phys_byte hi])
      · exact .inr ⟨by simpa [hm, hi, bit_eq_testBit] using hv, by rw [if_neg hm]⟩

end

end Sys2Proof.Machine

end

section
/-! LAWS. The obligation on stores (R1, R253 to R256, R284). -/
namespace Sys2Proof.Machine

/-! ## Stores at the home L2 -/

/-- What a store at home changes: the bytes of memory, and nothing of cores, threads, gangs and kernels. -/
theorem State.homeWrite_keeps (s : State) (c pa n v tags : Nat) (tagged : Bool) :
    (s.homeWrite c pa n v tags tagged).mem = Memory.setBytes s.mem pa (leBytes n v) ∧
    (s.homeWrite c pa n v tags tagged).cores = s.cores ∧ (s.homeWrite c pa n v tags tagged).threads = s.threads ∧
    (s.homeWrite c pa n v tags tagged).gangs = s.gangs ∧ (s.homeWrite c pa n v tags tagged).kernels = s.kernels ∧
    (tagged = false → (s.homeWrite c pa n v tags tagged).tagBits = s.tagBits) := by
  have hcure : ∃ p l, (s.physSet c n pa v).curePoison pa n = { s.physSet c n pa v with poison := p, poisonL2 := l } := by
    unfold State.curePoison
    split
    · exact ⟨_, _, rfl⟩
    · exact ⟨_, _, rfl⟩
  obtain ⟨x, o, e, k, hset⟩ := s.physSet_shape c n pa v
  obtain ⟨p, l, hcure⟩ := hcure
  unfold State.homeWrite
  rw [hcure, hset]
  cases tagged with
  | false => exact ⟨rfl, rfl, rfl, rfl, rfl, fun _ => rfl⟩
  | true =>
    obtain ⟨b, q, htags⟩ := State.putTags_shape (pa / 8) tags (wordsOf pa n)
      { s with mem := Memory.setBytes s.mem pa (leBytes n v), codeOld := k, ctxs := x, outq := o, esend := e, poison := p, poisonL2 := l }
    rw [if_pos rfl, htags]
    exact ⟨rfl, rfl, rfl, rfl, rfl, nofun⟩

theorem State.homeWrite_frame {s : State} (hm : Memory.wf s.mem = true) (c pa n v tags : Nat) (tagged : Bool) :
    let s' := s.homeWrite c pa n v tags tagged
    s'.phys n pa = v % 256 ^ n ∧ (∀ i, i < n → Memory.get s'.mem (pa + i) = BitVec.ofNat 8 (v / 256 ^ i)) ∧
    (∀ a, a < pa ∨ pa + n ≤ a → Memory.get s'.mem a = Memory.get s.mem a) ∧ Memory.wf s'.mem = true ∧
    s'.threads = s.threads ∧ s'.gangs = s.gangs ∧ s'.kernels = s.kernels ∧ (tagged = false → s'.tagBits = s.tagBits) := by
  obtain ⟨hmem, -, hthreads, hgangs, hkernels, htags⟩ := s.homeWrite_keeps c pa n v tags tagged
  refine ⟨?_, fun i hi => ?_, fun a ha => ?_, ?_, hthreads, hgangs, hkernels, htags⟩
  · rw [State.phys, hmem, Memory.getLE_setBytes hm]
  · rw [hmem, get_setBytes hm, if_pos (by omega), Nat.add_sub_cancel_left]
  · rw [hmem, get_setBytes hm, if_neg (by omega)]
  · rw [hmem]; exact Memory.wf_setBytes hm

/-! ## Stores by a core -/

section
variable {core : Nat} {s : State}

/-- The bytes stored within a line, as its number and their places in it. -/
theorem line_of_within {pa n i : Nat} (hn : pa % 128 + n ≤ 128) (hi : i < n) :
    (pa + i) / 128 = pa / 128 ∧ (pa + i) % 128 = pa % 128 + i := by omega

/-- A byte of the line of a store that the store does not touch lies outside its mask. -/
theorem mask_out {pa n a : Nat} (hline : a / 128 = pa / 128) (ha : a < pa ∨ pa + n ≤ a) :
    (ones n * 2 ^ (pa % 128)).testBit (a % 128) = false := by
  rw [ones_shifted_testBit, Bool.and_eq_false_iff, decide_eq_false_iff_not, decide_eq_false_iff_not]
  omega

theorem mask_in {pa n i : Nat} (hi : i < n) : (ones n * 2 ^ (pa % 128)).testBit (pa % 128 + i) = true := by
  rw [ones_shifted_testBit, Bool.and_eq_true, decide_eq_true_eq, decide_eq_true_eq]
  omega

/-- A store of the core itself: it reads what it stored, and else as or from home before; the other cores, threads and gangs stand. -/
structure State.Stored (core pa n v : Nat) (s x : State) : Prop where
  own : ∀ i, i < n → x.viewByte core (pa + i) = v / 256 ^ i % 256
  view : ∀ a, a < pa ∨ pa + n ≤ a → x.viewByte core a = s.viewByte core a ∨ x.viewByte core a = s.phys 1 a
  others : ∀ k, k ≠ core → x.core k = s.core k
  threads : x.threads = s.threads
  gangs : x.gangs = s.gangs

/-- The line of a plain store with its bytes in it. -/
def CLine.stored (l : CLine) (c o n v tags : Nat) (ws : Nat) (tagged : Bool) : CLine :=
  { l with valid := mergeBits 128 (ones n * 2 ^ o) l.valid (ones 128), dirty := mergeBits 128 (ones n * 2 ^ o) l.dirty (ones 128),
           data := mergeBytes 128 (ones n * 2 ^ o) l.data (v * 2 ^ (8 * o)),
           tags := if tagged then mergeBits 16 ws l.tags (tags * 2 ^ (o / 8)) else l.tags, ctx := c }

theorem State.plainWrite_eq (s : State) (core c pa n v tags : Nat) (tagged : Bool) : s.plainWrite core c pa n v tags tagged =
    ((s.fill core (pa / 128) (sectorsOf (pa % 128) n) tagged).setLine core (pa / 128)
      (((s.fill core (pa / 128) (sectorsOf (pa % 128) n) tagged).line core (pa / 128)).stored c (pa % 128) n v tags
        (ones (wordsOf pa n) * 2 ^ (pa % 128 / 8)) tagged)).settleTags core (pa / 8) (wordsOf pa n) := rfl

theorem CLine.stored_byteAt (l : CLine) (c o n v tags ws : Nat) (tagged : Bool) {j : Nat} (hj : j < 128) (h : Nat) :
    (l.stored c o n v tags ws tagged).byteAt j h =
      if (ones n * 2 ^ o).testBit j then v * 2 ^ (8 * o) / 256 ^ j % 256 else l.byteAt j h := by
  rw [CLine.byteAt, CLine.byteAt, bit_eq_testBit, bit_eq_testBit, CLine.stored, mergeBits_testBit, mergeBytes_byte hj, ones_testBit]
  split
  · next hm => simp [hj]
  · next hm => simp [hj]

theorem State.Stored.plainWrite (hs : s.Tidy core) {pa n : Nat} (hn : pa % 128 + n ≤ 128) (c v tags : Nat) (tagged : Bool) :
    s.Stored core pa n v (s.plainWrite core c pa n v tags tagged) := by
  have hfill := State.Settles.fill hs (pa / 128) (sectorsOf (pa % 128) n) tagged
  rw [State.plainWrite_eq]
  generalize s.fill core (pa / 128) (sectorsOf (pa % 128) n) tagged = y at hfill
  generalize ones (wordsOf pa n) * 2 ^ (pa % 128 / 8) = ws
  have hset := State.Alike.settleTags core
    (y.setLine core (pa / 128) ((y.line core (pa / 128)).stored c (pa % 128) n v tags ws tagged)) (pa / 8) (wordsOf pa n)
  have hview : ∀ a, State.viewByte _ core a = _ := fun a => (hset.viewByte a).trans (State.viewByte_setLine hfill.tidy _ _ a)
  refine ⟨fun i hi => ?_, fun a ha => ?_, fun k hk => ?_, hset.threads.trans hfill.threads, hset.gangs.trans hfill.gangs⟩
  · obtain ⟨hline, hoff⟩ := line_of_within hn hi
    rw [hview, hline, if_pos rfl, hoff, CLine.stored_byteAt _ _ _ _ _ _ _ _ (by omega), if_pos (mask_in hi), byte_shifted]
  · rw [hview]
    split
    · next hline =>
      rw [CLine.stored_byteAt _ _ _ _ _ _ _ _ (Nat.mod_lt _ (by decide)), if_neg (by rw [mask_out hline ha]; decide), ← hline,
        ← State.viewByte_eq]
      exact hfill.view a
    · exact hfill.view a
  · rw [hset.others k hk, State.setLine, State.updCore, State.core_setCore, if_neg hk]
    exact hfill.others k hk

theorem State.setLine_mem (s : State) (core line : Nat) (l : CLine) : (s.setLine core line l).mem = s.mem := rfl

/-- A plain store changes home by its fill only. -/
theorem State.plainWrite_mem_fill (s : State) (core c pa n v tags : Nat) (tagged : Bool) :
    (s.plainWrite core c pa n v tags tagged).mem = (s.fill core (pa / 128) (sectorsOf (pa % 128) n) tagged).mem := by
  rw [State.plainWrite_eq]
  exact (State.Alike.settleTags core _ _ _).mem.trans (State.setLine_mem _ core _ _)

/-- A plain store leaves each byte at home as it was or as the core read it. -/
theorem State.plainWrite_home (hs : s.Tidy core) (c pa n v tags : Nat) (tagged : Bool) (a : Nat) :
    (s.plainWrite core c pa n v tags tagged).phys 1 a = s.phys 1 a ∨
      (s.plainWrite core c pa n v tags tagged).phys 1 a = s.viewByte core a := by
  have hp : (s.plainWrite core c pa n v tags tagged).phys 1 a = (s.fill core (pa / 128) (sectorsOf (pa % 128) n) tagged).phys 1 a := by
    simp only [State.phys, State.plainWrite_mem_fill]
  rw [hp]
  exact (State.Settles.fill hs (pa / 128) (sectorsOf (pa % 128) n) tagged).home a

/-- A fill for which no line has to go leaves home alone. -/
theorem State.fill_mem {line : Nat} (hroom : (s.core core).cache.length < cacheLines)
    (hnew : ∀ l, (s.core core).cache.find line = some l → s.outdated l = false) (sects : Nat) (tagged : Bool) :
    (s.fill core line sects tagged).mem = s.mem := by
  have hold : s.outdated (s.line core line) = false := by
    unfold State.line
    cases hf : (s.core core).cache.find line with
    | some l => exact hnew l hf
    | none => rfl
  have hstay : s.makeRoom core line = s := by
    unfold State.makeRoom
    exact if_pos (by simp [hroom])
  unfold State.fill
  dsimp only
  rw [hold, hstay]
  split
  · rfl
  · rw [if_neg (by decide), (State.Alike.freshTags core ..).mem]
    exact (State.Alike.noteRead core s ..).mem

theorem State.plainWrite_mem {pa : Nat} (hroom : (s.core core).cache.length < cacheLines)
    (hnew : ∀ l, (s.core core).cache.find (pa / 128) = some l → s.outdated l = false) (c n v tags : Nat) (tagged : Bool) :
    (s.plainWrite core c pa n v tags tagged).mem = s.mem := by
  rw [State.plainWrite_mem_fill]
  exact State.fill_mem hroom hnew ..

/-- What a core reads once it has dropped bytes of a line: those from home, the rest as before. -/
theorem State.viewByte_dropBytes (hs : s.Tidy core) (line mask a : Nat) : (s.dropBytes core line mask).viewByte core a =
    if a / 128 = line ∧ mask.testBit (a % 128) = true then s.phys 1 a else s.viewByte core a := by
  have hj : a % 128 < 128 := Nat.mod_lt _ (by decide)
  unfold State.dropBytes
  split
  · next hf =>
    split
    · next h => rw [State.viewByte_eq, State.line, h.1, hf]; exact CLine.byteAt_invalid rfl ..
    · rfl
  · next l hf =>
    have hl : s.line core line = l := by rw [State.line, hf]; rfl
    rw [State.viewByte_setLine hs, State.viewByte_eq]
    by_cases hline : a / 128 = line
    · rw [if_pos hline, hline, hl, CLine.byteAt, CLine.byteAt, bit_eq_testBit, bit_eq_testBit, mergeBits_testBit]
      by_cases hm : mask.testBit (a % 128) = true
      · simp [hm]
      · simp [hm, hj]
    · simp [hline]

theorem State.dropBytes_keeps (s : State) (core line mask : Nat) : (∀ k, k ≠ core → (s.dropBytes core line mask).core k = s.core k) ∧
    (s.dropBytes core line mask).threads = s.threads ∧ (s.dropBytes core line mask).gangs = s.gangs := by
  unfold State.dropBytes
  split
  · exact ⟨fun _ _ => rfl, rfl, rfl⟩
  · exact ⟨fun k hk => by rw [State.setLine, State.updCore, State.core_setCore, if_neg hk], rfl, rfl⟩

theorem State.Stored.sharedWrite (hs : s.Tidy core) {pa n : Nat} (hn : pa % 128 + n ≤ 128) (c v tags : Nat) (tagged : Bool) :
    s.Stored core pa n v (s.sharedWrite core c pa n v tags tagged) := by
  have hclean := State.Settles.cleanLine hs (pa / 128)
  unfold State.sharedWrite
  generalize s.cleanLine core (pa / 128) = y at hclean
  obtain ⟨hmem, hcores, hthreads, hgangs, -, -⟩ := y.homeWrite_keeps c pa n v tags tagged
  have hcore : ∀ k, (y.homeWrite c pa n v tags tagged).core k = y.core k := fun k => by rw [State.core, hcores]; rfl
  generalize y.homeWrite c pa n v tags tagged = z at hmem hcores hthreads hgangs hcore
  have hz : z.Tidy core := ⟨hmem ▸ Memory.wf_setBytes hclean.tidy.wf, hcore core ▸ hclean.tidy.sorted, hcore core ▸ hclean.tidy.dirty⟩
  have hphys := State.phys_of_setBytes hclean.tidy.wf hmem
  obtain ⟨hdcore, hdthreads, hdgangs⟩ := z.dropBytes_keeps core (pa / 128) (ones n * 2 ^ (pa % 128))
  refine ⟨fun i hi => ?_, fun a ha => ?_, fun k hk => ?_, ?_, ?_⟩
  · obtain ⟨hline, hoff⟩ := line_of_within hn hi
    rw [State.viewByte_dropBytes hz, if_pos ⟨hline, by rw [hoff]; exact mask_in hi⟩, hphys, if_pos (by omega), Nat.add_sub_cancel_left]
  · have hline : z.line core (a / 128) = y.line core (a / 128) := by rw [State.line, hcore]; rfl
    have hout : ¬(a / 128 = pa / 128 ∧ (ones n * 2 ^ (pa % 128)).testBit (a % 128) = true) := fun h => by
      simp [mask_out h.1 ha] at h
    rw [State.viewByte_dropBytes hz, if_neg hout, State.viewByte_eq, hline, hphys, if_neg (by omega), ← State.viewByte_eq]
    exact hclean.view a
  · rw [hdcore k hk, hcore]
    exact hclean.others k hk
  · rw [hdthreads, hthreads, hclean.threads]
  · rw [hdgangs, hgangs, hclean.gangs]

theorem State.Stored.writeClass (hs : s.Tidy core) {pa n : Nat} (hn : pa % 128 + n ≤ 128) (c : Nat) (cls : AccClass) (pte v tags : Nat) :
    s.Stored core pa n v (s.writeClass core c cls pa pte n v tags) := by
  unfold State.writeClass
  split
  · exact .plainWrite hs hn c v tags (bit pte 55)
  · exact .sharedWrite hs hn c v tags (bit pte 55)

theorem State.writeClass_plain (s : State) (core c pa pte n v tags : Nat) :
    s.writeClass core c .plain pa pte n v tags = s.plainWrite core c pa n v tags (bit pte 55) := if_pos (by decide)

end

/-- Settles O21: a store at home replaces its bytes (`State.homeWrite_frame`); a store by a core first brings lines home or fills them
(`State.Settles`), then places its bytes (`State.Stored`). -/
theorem homeStores : Obligations.HomeStores := by
  unfold Obligations.HomeStores
  refine ⟨fun s c pa n v tags tagged hm => State.homeWrite_frame hm c pa n v tags tagged, ?_⟩
  intro s core c pa pte n v tags cls hm _ hn hsorted hdirty
  have hs : s.Tidy core := ⟨hm, hsorted, hdirty⟩
  have hst := State.Stored.writeClass hs hn c cls pte v tags
  refine ⟨hst.own, hst.view, ?_, ?_, hst.others, hst.threads, hst.gangs⟩
  · rintro rfl a
    rw [State.writeClass_plain, State.get_eq_phys, State.get_eq_phys]
    exact (State.plainWrite_home hs c pa n v tags (bit pte 55) a).imp (congrArg _) (congrArg _)
  · rintro rfl hroom hnew
    rw [State.writeClass_plain]
    exact State.plainWrite_mem hroom hnew c n v tags (bit pte 55)

end Sys2Proof.Machine

end

section
/-! LAWS. Bits, signed fields and the codes of the operand fields, both ways (02_instruction_word, Tables 2.13 to 2.18). -/
namespace Sys2Proof

@[simp] theorem b2n_false : b2n false = 0 := rfl

@[simp] theorem b2n_true : b2n true = 1 := rfl

@[simp] theorem trunc_zero (n : Nat) : trunc 0 n = 0 := by simp [trunc]

/-- A field lies below the power of two of its length. -/
theorem bits_lt {x hi lo n : Nat} (h : 2 ^ (hi + 1 - lo) = n := by rfl) : bits x hi lo < n := h ▸ Nat.mod_lt _ (Nat.two_pow_pos _)

theorem b2n_bit (x i : Nat) : b2n (bit x i) = x / 2 ^ i % 2 := by
  have := Nat.mod_two_eq_zero_or_one (x / 2 ^ i)
  rcases this with h | h <;> simp [bit, b2n, h]

/-- A field above the bits below it. -/
theorem bits_add_mod (w hi lo n : Nat) (hn : hi + 1 = n := by rfl) (h : lo ≤ n := by decide) :
    bits w hi lo * 2 ^ lo + w % 2 ^ lo = w % 2 ^ n := by
  subst hn
  obtain ⟨k, hk⟩ := Nat.exists_eq_add_of_le h
  rw [bits, hk, Nat.add_sub_cancel_left, pow_add, Nat.mod_mul, add_comm, mul_comm]

theorem bits_zero_eq_mod (w hi n : Nat) (hn : hi + 1 = n := by rfl) : bits w hi 0 = w % 2 ^ n := by
  simp [bits, hn]

theorem b2n_bit_add_mod (w i n : Nat) (hn : i + 1 = n := by rfl) : b2n (bit w i) * 2 ^ i + w % 2 ^ i = w % 2 ^ n := by
  rw [b2n_bit, ← hn, pow_succ, Nat.mod_mul, add_comm, mul_comm]

theorem bit_eq_iff {x i : Nat} {b : Bool} : bit x i = b ↔ x / 2 ^ i % 2 = b2n b := by
  rw [← b2n_bit]
  cases bit x i <;> cases b <;> decide

@[simp] theorem Tag.ofCode_eq_some {n : Nat} {t : Tag} : Tag.ofCode n = some t ↔ t.code = n :=
  ⟨by fun_cases Tag.ofCode n <;> rintro ⟨⟩ <;> rfl, by rintro rfl; cases t <;> rfl⟩

@[simp] theorem Tag.ofName_eq_some {n : Nat} {t : Tag} : Tag.ofName n = some t ↔ t.nameable = true ∧ t.code = n := by
  rw [← Tag.ofCode_eq_some, Tag.ofName]
  rcases Tag.ofCode n with _ | x
  · simp
  · cases x <;> cases t <;> decide

@[simp] theorem Special.ofNum_eq_some {n : Nat} {x : Special} : Special.ofNum n = some x ↔ x.num = n :=
  ⟨by fun_cases Special.ofNum n <;> rintro ⟨⟩ <;> rfl, by rintro rfl; cases x <;> rfl⟩

@[simp] theorem Rm.ofCode_eq_some {n : Nat} {r : Rm} : Rm.ofCode n = some r ↔ r.code = n :=
  ⟨by fun_cases Rm.ofCode n <;> rintro ⟨⟩ <;> rfl, by rintro rfl; cases r <;> rfl⟩

@[simp] theorem Cmp.ofCode_eq_some {n : Nat} {c : Cmp} : Cmp.ofCode n = some c ↔ c.code = n :=
  ⟨by fun_cases Cmp.ofCode n <;> rintro ⟨⟩ <;> rfl, by rintro rfl; cases c <;> rfl⟩

@[simp] theorem LdWidth.ofCode_eq_some {n : Nat} {x : LdWidth} : LdWidth.ofCode n = some x ↔ x.code = n :=
  ⟨by fun_cases LdWidth.ofCode n <;> rintro ⟨⟩ <;> rfl, by rintro rfl; cases x <;> rfl⟩

@[simp] theorem StWidth.ofCode_eq_some {n : Nat} {x : StWidth} : StWidth.ofCode n = some x ↔ x.code = n :=
  ⟨by fun_cases StWidth.ofCode n <;> rintro ⟨⟩ <;> rfl, by rintro rfl; cases x <;> rfl⟩

@[simp] theorem AccClass.ofCode_eq_some {n : Nat} {x : AccClass} : AccClass.ofCode n = some x ↔ x.code = n :=
  ⟨by fun_cases AccClass.ofCode n <;> rintro ⟨⟩ <;> rfl, by rintro rfl; cases x <;> rfl⟩

@[simp] theorem AtomOp.ofCode_eq_some {n : Nat} {x : AtomOp} : AtomOp.ofCode n = some x ↔ x.code = n :=
  ⟨by fun_cases AtomOp.ofCode n <;> rintro ⟨⟩ <;> rfl, by rintro rfl; cases x <;> rfl⟩

@[simp] theorem PagrKind.ofCode_eq_some {n : Nat} {x : PagrKind} : PagrKind.ofCode n = some x ↔ x.code = n :=
  ⟨by fun_cases PagrKind.ofCode n <;> rintro ⟨⟩ <;> rfl, by rintro rfl; cases x <;> rfl⟩

@[simp] theorem RedOp.ofCode_eq_some {n : Nat} {x : RedOp} : RedOp.ofCode n = some x ↔ x.code = n :=
  ⟨by fun_cases RedOp.ofCode n <;> rintro ⟨⟩ <;> rfl, by rintro rfl; cases x <;> rfl⟩

@[simp] theorem LifeClass.ofCode_eq_some {n : Nat} {x : LifeClass} : LifeClass.ofCode n = some x ↔ x.code = n :=
  ⟨by fun_cases LifeClass.ofCode n <;> rintro ⟨⟩ <;> rfl, by rintro rfl; cases x <;> rfl⟩

theorem Comb.ofCode_eq {n : Nat} {x : Comb} (h : n < 4) : Comb.ofCode n = x ↔ x.code = n :=
  ⟨by rintro rfl; revert n; decide, by rintro rfl; cases x <;> rfl⟩

theorem FCond.ofCode_eq {n : Nat} {x : FCond} (h : n < 8) : FCond.ofCode n = x ↔ x.code = n :=
  ⟨by rintro rfl; revert n; decide, by rintro rfl; cases x <;> rfl⟩

theorem Order.ofCode_eq {n : Nat} {x : Order} (h : n < 4) : Order.ofCode n = x ↔ x.code = n :=
  ⟨by rintro rfl; revert n; decide, by rintro rfl; cases x <;> rfl⟩

theorem FenceOrd.ofCode_eq {n : Nat} {x : FenceOrd} (h : n < 4) : FenceOrd.ofCode n = x ↔ x.code = n :=
  ⟨by rintro rfl; revert n; decide, by rintro rfl; cases x <;> rfl⟩

theorem LxMode.ofCode_eq {n : Nat} {x : LxMode} (h : n < 4) : LxMode.ofCode n = x ↔ x.code = n :=
  ⟨by rintro rfl; revert n; decide, by rintro rfl; cases x <;> rfl⟩

theorem FMods.ofCode_eq {n : Nat} {x : FMods} (h : n < 16) : FMods.ofCode n = x ↔ x.code = n :=
  ⟨by rintro rfl; revert n; decide, by rintro rfl; obtain ⟨p, q, r, s⟩ := x; revert p q r s; decide⟩

@[simp] theorem PredSrc.ofField_eq_some {n : Nat} {q : PredSrc} : PredSrc.ofField n = some q ↔ q.wf = true ∧ q.code = n := by
  refine ⟨?_, fun ⟨h, e⟩ => e ▸ PredSrc.ofField_code h⟩
  unfold PredSrc.ofField
  split
  · rintro ⟨⟩
    simp only [PredSrc.wf, PredSrc.code, b2n_bit, decide_eq_true_eq]
    omega
  · rintro ⟨⟩

theorem PredSrc.code_eq_zero {q : PredSrc} : q.code = 0 ↔ q.p = 0 ∧ q.neg = false := by
  cases h : q.neg <;> simp [PredSrc.code, h]

theorem TOpnd.ofField_eq_some {h : Bool} {n : Nat} {x : TOpnd} (hn : n < 512) :
    TOpnd.ofField h n = some x ↔ x.wf = true ∧ x.isHnd = h ∧ x.field = n := by
  cases h <;> cases x <;> simp [TOpnd.ofField, TOpnd.wf, TOpnd.isHnd, TOpnd.field] <;> grind

theorem Guard.wf_ofCode (n : Nat) : (Guard.ofCode n).wf = true :=
  decide_eq_true (Nat.mod_lt n (by decide))

theorem Guard.code_ofCode {n : Nat} (h : n < 16) : (Guard.ofCode n).code = n := by
  simp only [Guard.code, Guard.ofCode, b2n_bit]
  omega

theorem trunc_sext {x n : Nat} (h : x < 2 ^ n) : trunc (sext x n) n = x := by
  have hx : ((x : Int) % 2 ^ n).toNat = x := by
    rw [Int.emod_eq_of_lt (by positivity) (by exact_mod_cast h), Int.toNat_natCast]
  unfold trunc sext
  rw [Nat.mod_eq_of_lt h]
  split
  · exact hx
  · rw [Int.sub_emod_right, hx]

theorem sext_range {x n : Nat} (hn : 0 < n) : -(2 ^ (n - 1) : Int) ≤ sext x n ∧ sext x n < 2 ^ (n - 1) := by
  obtain ⟨k, rfl⟩ : ∃ k, n = k + 1 := ⟨n - 1, by omega⟩
  have hlt := Nat.mod_lt x (Nat.two_pow_pos (k + 1))
  have e : ((2 ^ k : Nat) : Int) = 2 ^ k := by push_cast; rfl
  unfold sext
  rw [pow_succ] at *
  rw [pow_succ]
  simp only [Nat.add_sub_cancel]
  split <;> omega

theorem TOpnd.field_lt {x : TOpnd} (h : x.wf = true) : x.field < 512 := by
  cases x <;> simp [TOpnd.wf, TOpnd.field] at * <;> omega

theorem TOpnd.ofField_field {x : TOpnd} (h : x.wf = true) : TOpnd.ofField x.isHnd x.field = some x :=
  (TOpnd.ofField_eq_some (TOpnd.field_lt h)).2 ⟨h, rfl, rfl⟩

theorem ShAmt.field_code_lt {amt : ShAmt} (h : amt.wf = true) : amt.field < 512 ∧ amt.code < 64 := by
  cases amt <;> simp [ShAmt.wf, ShAmt.field, ShAmt.code] at * <;> omega

theorem sext_trunc_of_off24 {i : Int} (h : off24 i = true) : sext (trunc i 24) 24 = i := by
  simp [off24] at h
  exact sext_trunc (by decide) (by omega) (by omega)

theorem sext_trunc_of_off12 {i : Int} (h : off12 i = true) : sext (trunc i 12) 12 = i := by
  simp [off12] at h
  exact sext_trunc (by decide) (by omega) (by omega)

theorem off24_sext (x : Nat) : off24 (sext x 24) = true := by
  simpa [off24] using sext_range (x := x) (n := 24) (by decide)

theorem off12_sext (x : Nat) : off12 (sext x 12) = true := by
  simpa [off12] using sext_range (x := x) (n := 12) (by decide)

theorem Rm.code_lt (r : Rm) : r.code < 5 := by cases r <;> decide

theorem Tag.code_lt (t : Tag) : t.code < 14 := by cases t <;> decide

theorem Cmp.code_lt (c : Cmp) : c.code < 6 := by cases c <;> decide

theorem Comb.code_lt (c : Comb) : c.code < 4 := by cases c <;> decide

theorem FMods.code_lt (x : FMods) : x.code < 16 := by obtain ⟨p, q, r, s⟩ := x; revert p q r s; decide

theorem FCond.code_lt (c : FCond) : c.code < 8 := by cases c <;> decide

theorem LdWidth.code_lt (x : LdWidth) : x.code < 7 := by cases x <;> decide

theorem StWidth.code_lt (x : StWidth) : x.code < 7 := by cases x <;> decide

theorem AccClass.code_lt (x : AccClass) : x.code < 3 := by cases x <;> decide

theorem AtomOp.code_lt (x : AtomOp) : x.code < 12 := by cases x <;> decide

theorem Order.code_lt (x : Order) : x.code < 4 := by cases x <;> decide

theorem FenceOrd.code_lt (x : FenceOrd) : x.code < 4 := by cases x <;> decide

theorem LxMode.code_lt (x : LxMode) : x.code < 4 := by cases x <;> decide

theorem PagrKind.code_lt (x : PagrKind) : x.code < 5 := by cases x <;> decide

theorem RedOp.code_lt (x : RedOp) : x.code < 7 := by cases x <;> decide

theorem LifeClass.code_lt (x : LifeClass) : x.code < 3 := by cases x <;> decide

theorem Special.num_lt (x : Special) : x.num < 65 := by cases x <;> decide

end Sys2Proof

end

section
/-! LAWS. What the decoder reads is well formed, and its word is the one read: one lemma per decoder of an opcode's top digit, by its
branches. -/
namespace Sys2Proof

/-! The long proofs below are checked one after another: side by side they wait for the same equation lemmas of `encode` and `Instr.wf`,
and each that waits holds a thread with a stack of its own. -/
set_option Elab.async false

@[simp] theorem need_eq_ok {c : Bool} {i j : Instr} : need c i = .ok j ↔ c = true ∧ i = j := by
  cases c <;> simp [need]

@[simp] theorem opt_eq_ok {α : Type} {o : Option α} {f : α → Decoded} {j : Instr} : opt o f = .ok j ↔ ∃ x, o = some x ∧ f x = .ok j := by
  cases o <;> simp [opt]

/-- Every instruction that a decoder's answer holds is well formed, and `w` is its word. -/
def Spells (w : Nat) (r : Decoded) : Prop := ∀ i, r = .ok i → i.wf = true ∧ encode i = some w

section
variable {w : Nat}

theorem Spells.error (e : DecodeError) : Spells w (.error e) := fun _ h => by cases h

theorem Spells.ok {i : Instr} (h : i.wf = true ∧ encode i = some w) : Spells w (.ok i) := by
  rintro _ ⟨⟩; exact h

theorem Spells.need {c : Bool} {i : Instr} (h : c = true → i.wf = true ∧ encode i = some w) : Spells w (need c i) := by
  intro j e
  obtain ⟨hc, rfl⟩ := need_eq_ok.1 e
  exact h hc

theorem Spells.opt {α : Type} {o : Option α} {f : α → Decoded} (h : ∀ x, o = some x → Spells w (f x)) : Spells w (opt o f) := by
  intro j e
  obtain ⟨x, hx, hj⟩ := opt_eq_ok.1 e
  exact h x hx j hj

/-- Opcode and guard are the sixteen bits above the operand fields. -/
theorem encTop_eq (hw : w < 2 ^ 64) : encTop (256 * bits w 63 60 + bits w 59 52) (Guard.ofCode (bits w 51 48)) = w / 2 ^ 48 * 2 ^ 48 := by
  rw [encTop, Guard.code_ofCode (by simp only [bits]; omega)]
  simp only [bits]
  omega

/-- The word by the fields of form A (Table 2.5). -/
theorem eq_formA (hw : w < 2 ^ 64) :
    encTop (256 * bits w 63 60 + bits w 59 52) (Guard.ofCode (bits w 51 48)) + (fieldsA w).d * 2 ^ 39 + (fieldsA w).a * 2 ^ 30 +
      (fieldsA w).b * 2 ^ 21 + (fieldsA w).c * 2 ^ 12 + (fieldsA w).k * 2 ^ 10 + (fieldsA w).m = w := by
  simp only [fieldsA]
  rw [encTop_eq hw, bits_zero_eq_mod w 9 10]
  simp only [add_assoc, bits_add_mod w 47 39 48, bits_add_mod w 38 30 39,
    bits_add_mod w 29 21 30, bits_add_mod w 20 12 21, bits_add_mod w 11 10 12, Nat.div_add_mod']

theorem fieldsA_lt (w : Nat) : (fieldsA w).d < 512 ∧ (fieldsA w).a < 512 ∧ (fieldsA w).b < 512 ∧ (fieldsA w).c < 512 ∧ (fieldsA w).k < 4 ∧
    (fieldsA w).m < 1024 := ⟨bits_lt, bits_lt, bits_lt, bits_lt, bits_lt, bits_lt⟩

/-- The word by the fields of form C (Table 2.10). -/
theorem eq_formC (hw : w < 2 ^ 64) :
    encTop (256 * bits w 63 60 + bits w 59 52) (Guard.ofCode (bits w 51 48)) + bits w 47 39 * 2 ^ 39 + bits w 38 30 * 2 ^ 30 +
      bits w 29 24 * 2 ^ 24 + bits w 23 0 = w := by
  rw [encTop_eq hw, bits_zero_eq_mod w 23 24]
  simp only [add_assoc, bits_add_mod w 47 39 48, bits_add_mod w 38 30 39, bits_add_mod w 29 24 30, Nat.div_add_mod']

/-- The word of TRAP and BKPT: form W with nothing but an immediate (Table 2.7). -/
theorem eq_formW (hw : w < 2 ^ 64) :
    encTop (256 * bits w 63 60 + bits w 59 52) (Guard.ofCode (bits w 51 48)) + bits w 47 32 * 2 ^ 32 + bits w 31 0 = w := by
  rw [encTop_eq hw, bits_zero_eq_mod w 31 32]
  simp only [add_assoc, bits_add_mod w 47 32 48, Nat.div_add_mod']

theorem decodeControl_spells (hw : w < 2 ^ 64) (hm : bits w 63 60 = 0) :
    Spells w (decodeControl (Guard.ofCode (bits w 51 48)) (bits w 59 52) w) := by
  have hC := eq_formC hw
  have hW := eq_formW hw
  have hg := Guard.wf_ofCode (bits w 51 48)
  have hd : bits w 47 39 < 512 := bits_lt
  have ha : bits w 38 30 < 512 := bits_lt
  have hoff : bits w 23 0 < 16777216 := bits_lt
  have himm : bits w 31 0 < 4294967296 := bits_lt
  have hs := trunc_sext (n := 24) hoff
  rw [hm] at hC hW
  unfold decodeControl
  generalize Guard.ofCode (bits w 51 48) = g at *
  split
  all_goals rename_i hop
  case h_14 => exact .error _
  all_goals
    simp only [hop, Nat.reduceMul, Nat.reduceAdd] at hC hW
    refine .need fun h => ?_
    simp [encode, Instr.wf, reg, encC, encI, encW, b2n_bit, hg, off24_sext, hs] at h ⊢
    omega

/-- The word of MOVI: form W with a tag in the low bits of its selector (Table 2.7). -/
theorem eq_movi (hw : w < 2 ^ 64) :
    encTop (256 * bits w 63 60 + bits w 59 52) (Guard.ofCode (bits w 51 48)) + (fieldsA w).d * 2 ^ 39 + bits w 38 36 * 2 ^ 36 +
      bits w 35 32 * 2 ^ 32 + bits w 31 0 = w := by
  simp only [fieldsA]
  rw [encTop_eq hw, bits_zero_eq_mod w 31 32]
  simp only [add_assoc, bits_add_mod w 47 39 48, bits_add_mod w 38 36 39, bits_add_mod w 35 32 36, Nat.div_add_mod']

/-- The word by the fields of form I (Table 2.6). -/
theorem eq_formI (hw : w < 2 ^ 64) :
    encTop (256 * bits w 63 60 + bits w 59 52) (Guard.ofCode (bits w 51 48)) + (fieldsA w).d * 2 ^ 39 + (fieldsA w).a * 2 ^ 30 +
      b2n (bit w 29) * 2 ^ 29 + bits w 28 24 * 2 ^ 24 + bits w 23 0 = w := by
  simp only [fieldsA]
  rw [encTop_eq hw, bits_zero_eq_mod w 23 24]
  simp only [add_assoc, bits_add_mod w 47 39 48, bits_add_mod w 38 30 39,
    b2n_bit_add_mod w 29 30, bits_add_mod w 28 24 29, Nat.div_add_mod']

theorem decodeShift_spells {f : FieldsA} {i : ShAmt → Instr}
    (h : ∀ amt : ShAmt, amt.wf = true → f.c = 0 → f.b = amt.field → f.m = amt.code → (i amt).wf = true ∧ encode (i amt) = some w)
    (hb : f.b < 512) : Spells w (decodeShift f i) := by
  unfold decodeShift
  split
  case isTrue hm =>
    rw [bit_eq_iff] at hm
    refine .need fun hc => ?_
    simp only [Bool.and_eq_true, beq_iff_eq, decide_eq_true_eq, b2n_true] at hc hm
    refine h (.imm _) ?_ hc.1.2 hc.1.1 ?_
    · simp [ShAmt.wf, bits]; omega
    · simp [ShAmt.code, bits]; omega
  case isFalse hm =>
    refine .need fun hc => ?_
    simp only [Bool.and_eq_true, beq_iff_eq] at hc
    exact h (.reg f.b) (by simpa [ShAmt.wf] using hb) hc.1 rfl hc.2

theorem decodeInteger_spells (hw : w < 2 ^ 64) (hmaj : bits w 63 60 = 1) :
    Spells w (decodeInteger (Guard.ofCode (bits w 51 48)) (bits w 59 52) w) := by
  have hA := eq_formA hw
  have hI := eq_formI hw
  have hW := eq_movi hw
  have hg := Guard.wf_ofCode (bits w 51 48)
  obtain ⟨hd, ha, hb, hc, hk, hm⟩ := fieldsA_lt w
  have hoff : bits w 23 0 < 16777216 := bits_lt
  have himm : bits w 31 0 < 4294967296 := bits_lt
  have hs := trunc_sext (n := 24) hoff
  rw [hmaj] at hA hI hW
  rw [b2n_bit] at hI
  unfold decodeInteger
  generalize Guard.ofCode (bits w 51 48) = g at *
  generalize fieldsA w = f at *
  split
  all_goals rename_i hop
  case h_34 => exact .error _
  all_goals simp only [hop, Nat.reduceMul, Nat.reduceAdd] at hA hI hW
  case h_2 =>
    refine .opt fun t ht => .need fun h => ?_
    obtain ⟨hn, ht⟩ := Tag.ofName_eq_some.1 ht
    simp [encode, Instr.wf, reg, encW, hg, hn, ht] at h ⊢
    omega
  case h_15 =>
    refine .opt fun cmp hcmp => .opt fun q hq => .need fun h => ?_
    obtain ⟨hq, hqc⟩ := PredSrc.ofField_eq_some.1 hq
    have hcmp := Cmp.ofCode_eq_some.1 hcmp
    generalize hcomb : Comb.ofCode (bits f.m 5 4) = comb at h
    rw [Comb.ofCode_eq bits_lt] at hcomb
    simp [encode, Instr.wf, reg, encA, b2n_bit, hg, hq, hqc, bits] at h hcmp hcomb ⊢
    have hp : f.c = 0 → q.p = 0 ∧ q.neg = false := fun h0 => PredSrc.code_eq_zero.1 (hqc.trans h0)
    refine ⟨⟨by omega, h.2.imp_right hp⟩, by omega⟩
  case h_16 =>
    refine .opt fun q hq => .need fun h => ?_
    obtain ⟨hq, hqc⟩ := PredSrc.ofField_eq_some.1 hq
    simp [encode, Instr.wf, reg, encA, hg, hq, hqc] at h ⊢
    omega
  case h_17 | h_18 | h_19 | h_20 =>
    refine decodeShift_spells (fun amt hamt h0 h1 h2 => ?_) hb
    simp [encode, Instr.wf, reg, encA, hg, hamt]
    omega
  case h_31 =>
    refine .opt fun x hx => .opt fun y hy => .opt fun z hz => .need fun h => ?_
    obtain ⟨hx, hxc⟩ := PredSrc.ofField_eq_some.1 hx
    obtain ⟨hy, hyc⟩ := PredSrc.ofField_eq_some.1 hy
    obtain ⟨hz, hzc⟩ := PredSrc.ofField_eq_some.1 hz
    simp [encode, Instr.wf, encA, hg, hx, hxc, hy, hyc, hz, hzc] at h ⊢
    omega
  all_goals
    refine .need fun h => ?_
    simp [encode, Instr.wf, reg, encA, encI, b2n_bit, hg, off24_sext, hs] at h ⊢
    omega

theorem decodeSweep_spells (hw : w < 2 ^ 64) (hmaj : bits w 63 60 = 3) :
    Spells w (decodeSweep (Guard.ofCode (bits w 51 48)) (bits w 59 52) w) := by
  have hV : encTop (256 * bits w 63 60 + bits w 59 52) (Guard.ofCode (bits w 51 48)) + bits w 47 39 * 2 ^ 39 + bits w 38 30 * 2 ^ 30 +
      bits w 29 21 * 2 ^ 21 + bits w 20 9 * 2 ^ 9 + bits w 8 6 * 2 ^ 6 + bits w 5 3 * 2 ^ 3 + bits w 2 0 = w := by
    rw [encTop_eq hw, bits_zero_eq_mod w 2 3]
    simp only [add_assoc, bits_add_mod w 47 39 48, bits_add_mod w 38 30 39, bits_add_mod w 29 21 30,
      bits_add_mod w 20 9 21, bits_add_mod w 8 6 9, bits_add_mod w 5 3 6, Nat.div_add_mod']
  have hg := Guard.wf_ofCode (bits w 51 48)
  have hd : bits w 47 39 < 512 := bits_lt
  have ha : bits w 38 30 < 512 := bits_lt
  have hb : bits w 29 21 < 512 := bits_lt
  have hn : bits w 20 9 < 4096 := bits_lt
  have hsd : bits w 8 6 < 8 := bits_lt
  have hsa : bits w 5 3 < 8 := bits_lt
  have hsb : bits w 2 0 < 8 := bits_lt
  rw [hmaj] at hV
  unfold decodeSweep
  generalize Guard.ofCode (bits w 51 48) = g at *
  split
  all_goals rename_i hop
  case h_9 => exact .error _
  all_goals simp only [hop, Nat.reduceMul, Nat.reduceAdd] at hV
  case h_1 | h_2 | h_3 | h_4 =>
    refine .ok ?_
    simp [encode, Instr.wf, reg, encV, hg]
    omega
  all_goals
    refine .need fun h => ?_
    simp [encode, Instr.wf, reg, encV, hg] at h ⊢
    omega

theorem decodeObject_spells (hw : w < 2 ^ 64) (hmaj : bits w 63 60 = 5) :
    Spells w (decodeObject (Guard.ofCode (bits w 51 48)) (bits w 59 52) w) := by
  have hA := eq_formA hw
  have hg := Guard.wf_ofCode (bits w 51 48)
  obtain ⟨hd, ha, hb, hc, hk, hm⟩ := fieldsA_lt w
  rw [hmaj] at hA
  unfold decodeObject
  generalize Guard.ofCode (bits w 51 48) = g at *
  generalize fieldsA w = f at *
  split
  all_goals rename_i hop
  case h_7 => exact .error _
  all_goals
    simp only [hop, Nat.reduceMul, Nat.reduceAdd] at hA
    refine .need fun h => ?_
    simp [encode, Instr.wf, reg, encA, hg] at h ⊢
    omega

theorem decodeFloat_spells (hw : w < 2 ^ 64) (hmaj : bits w 63 60 = 2) :
    Spells w (decodeFloat (Guard.ofCode (bits w 51 48)) (bits w 59 52) w) := by
  have hA := eq_formA hw
  have hg := Guard.wf_ofCode (bits w 51 48)
  obtain ⟨hd, ha, hb, hc, hk, hm⟩ := fieldsA_lt w
  rw [hmaj] at hA
  unfold decodeFloat
  generalize Guard.ofCode (bits w 51 48) = g at *
  generalize fieldsA w = f at *
  have hmods := (FMods.ofCode_eq (bits_lt (x := f.m) (hi := 6) (lo := 3))).1 rfl
  simp only [bits, Nat.reducePow, Nat.reduceAdd, Nat.reduceSub] at hmods
  split
  all_goals rename_i hop
  case h_25 => exact .error _
  all_goals simp only [hop, Nat.reduceMul, Nat.reduceAdd] at hA
  case h_6 =>
    refine .need fun h => ?_
    generalize hcnd : FCond.ofCode (bits f.m 9 7) = cnd at h
    rw [FCond.ofCode_eq bits_lt] at hcnd
    simp [encode, Instr.wf, reg, encA, hg, bits] at h hcnd ⊢
    omega
  case h_20 =>
    refine .opt fun r hr => .opt fun t ht => .need fun h => ?_
    rw [Rm.ofCode_eq_some] at hr
    rw [Tag.ofName_eq_some] at ht
    simp [encode, Instr.wf, reg, encA, b2n_bit, hg, ht.1, bits, cvtShape] at h hr ht ⊢
    obtain ⟨⟨⟨hz, hround⟩, hcopy⟩, hsat⟩ := h
    exact ⟨⟨by omega, ⟨hround, hcopy⟩, or_assoc.2 hsat⟩, by omega⟩
  case h_24 =>
    refine .opt fun t ht => .need fun h => ?_
    rw [Tag.ofName_eq_some] at ht
    simp [encode, Instr.wf, reg, encA, hg, ht.1, bits] at h ht ⊢
    omega
  case h_4 | h_5 | h_8 | h_9 | h_11 | h_12 | h_13 | h_14 | h_15 | h_22 | h_23 =>
    refine .need fun h => ?_
    simp [encode, Instr.wf, reg, encA, b2n_bit, hg, bits] at h ⊢
    omega
  all_goals
    refine .opt fun r hr => .need fun h => ?_
    rw [Rm.ofCode_eq_some] at hr
    simp [encode, Instr.wf, reg, encA, b2n_bit, hg, bits] at h hr ⊢
    omega

theorem decodeMemory_spells (hw : w < 2 ^ 64) (hmaj : bits w 63 60 = 4) :
    Spells w (decodeMemory (Guard.ofCode (bits w 51 48)) (bits w 59 52) w) := by
  have hM : encTop (256 * bits w 63 60 + bits w 59 52) (Guard.ofCode (bits w 51 48)) + bits w 47 39 * 2 ^ 39 + bits w 38 30 * 2 ^ 30 +
      bits w 29 21 * 2 ^ 21 + bits w 20 9 * 2 ^ 9 + bits w 8 6 * 2 ^ 6 + bits w 5 4 * 2 ^ 4 + bits w 3 0 = w := by
    rw [encTop_eq hw, bits_zero_eq_mod w 3 4]
    simp only [add_assoc, bits_add_mod w 47 39 48, bits_add_mod w 38 30 39, bits_add_mod w 29 21 30,
      bits_add_mod w 20 9 21, bits_add_mod w 8 6 9, bits_add_mod w 5 4 6, Nat.div_add_mod']
  have hI : encTop (256 * bits w 63 60 + bits w 59 52) (Guard.ofCode (bits w 51 48)) + bits w 47 39 * 2 ^ 39 + bits w 38 30 * 2 ^ 30 +
      bits w 29 26 * 2 ^ 26 + bits w 25 24 * 2 ^ 24 + bits w 23 0 = w := by
    rw [encTop_eq hw, bits_zero_eq_mod w 23 24]
    simp only [add_assoc, bits_add_mod w 47 39 48, bits_add_mod w 38 30 39,
      bits_add_mod w 29 26 30, bits_add_mod w 25 24 26, Nat.div_add_mod']
  have hg := Guard.wf_ofCode (bits w 51 48)
  have hd : bits w 47 39 < 512 := bits_lt
  have hb : bits w 38 30 < 512 := bits_lt
  have hi : bits w 29 21 < 512 := bits_lt
  have hoff : bits w 20 9 < 4096 := bits_lt
  have hs := trunc_sext (n := 12) hoff
  have hwd : bits w 3 0 < 16 := bits_lt
  have hcl : bits w 5 4 < 4 := bits_lt
  have hbt : bits w 25 24 < 4 := bits_lt
  have hn : bits w 23 0 < 16777216 := bits_lt
  have hso := off12_sext (bits w 20 9)
  rw [hmaj] at hM hI
  unfold decodeMemory
  generalize Guard.ofCode (bits w 51 48) = g at *
  generalize bits w 47 39 = d at *
  generalize bits w 38 30 = base at *
  generalize bits w 29 21 = idx at *
  generalize bits w 8 6 = sc at *
  generalize bits w 5 4 = cl at *
  generalize bits w 3 0 = wd at *
  rw [← hs] at hM
  generalize sext (bits w 20 9) 12 = off at *
  split
  all_goals rename_i hop
  case h_12 => exact .error _
  all_goals simp only [hop, Nat.reduceMul, Nat.reduceAdd] at hM hI
  case h_1 | h_2 =>
    refine .opt fun x hx => .opt fun c hc => .need fun h => ?_
    simp only [LdWidth.ofCode_eq_some, StWidth.ofCode_eq_some] at hx
    rw [AccClass.ofCode_eq_some] at hc
    simp [encode, Instr.wf, reg, encM, b2n_bit, bit_eq_iff, hg, hso, hc, bits] at h hx ⊢
    omega
  case h_3 =>
    refine .opt fun x hx => .need fun h => ?_
    rw [AtomOp.ofCode_eq_some] at hx
    generalize hord : Order.ofCode cl = ord
    rw [Order.ofCode_eq hcl] at hord
    simp [encode, Instr.wf, reg, encM, hg, hso, hx, hord] at h ⊢
    omega
  case h_4 =>
    refine .need fun h => ?_
    generalize hord : Order.ofCode cl = ord
    rw [Order.ofCode_eq hcl] at hord
    simp [encode, Instr.wf, reg, encM, b2n_bit, hg, hso, hord] at h ⊢
    omega
  case h_5 =>
    refine .opt fun x hx => .need fun h => ?_
    rw [AtomOp.ofCode_eq_some] at hx
    simp [encode, Instr.wf, reg, encM, hg, hso, hx] at h ⊢
    obtain ⟨⟨⟨⟨hexch, hexch64⟩, rfl | rfl⟩, hsc⟩, hsc'⟩ := h
    · simp [hexch, hexch64]
      omega
    · simp [hexch, hexch64]
      omega
  case h_6 =>
    refine .need fun h => ?_
    generalize hord : FenceOrd.ofCode wd = ord
    simp at h
    obtain ⟨⟨⟨⟨⟨⟨hwd, rfl⟩, hsc⟩, rfl⟩, rfl⟩, rfl⟩, rfl⟩ := h
    rw [FenceOrd.ofCode_eq hwd] at hord
    simp [encode, Instr.wf, encM, hg, hord] at hM ⊢
    omega
  case h_7 | h_8 =>
    refine .need fun h => ?_
    simp [encode, Instr.wf, reg, encM, b2n_bit, bit_eq_iff, hg, hso] at h ⊢
    omega
  case h_10 =>
    refine .need fun h => ?_
    simp [encode, Instr.wf, encI, hg] at h ⊢
    omega
  case h_9 =>
    refine .opt fun c hc => .need fun h => ?_
    rw [AccClass.ofCode_eq_some] at hc
    simp [encode, Instr.wf, reg, encM, hg, hso, hc] at h ⊢
    simp only [bits]
    omega
  case h_11 =>
    refine .opt fun c hc => .need fun h => ?_
    rw [AccClass.ofCode_eq_some] at hc
    simp [encode, Instr.wf, reg, encM, hg, hso, hc] at h ⊢
    omega

theorem decodeSync_spells (hw : w < 2 ^ 64) (hmaj : bits w 63 60 = 6) :
    Spells w (decodeSync (Guard.ofCode (bits w 51 48)) (bits w 59 52) w) := by
  have hA := eq_formA hw
  have hg := Guard.wf_ofCode (bits w 51 48)
  obtain ⟨hd, ha, hb, hc, hk, hm⟩ := fieldsA_lt w
  rw [hmaj] at hA
  unfold decodeSync
  generalize Guard.ofCode (bits w 51 48) = g at *
  generalize fieldsA w = f at *
  split
  all_goals rename_i hop
  case h_23 => exact .error _
  all_goals simp only [hop, Nat.reduceMul, Nat.reduceAdd] at hA
  case h_1 | h_2 | h_3 =>
    refine .need fun h => ?_
    simp [encode, Instr.wf, reg, encA, hg] at h ⊢
    simp only [bits]
    omega
  case h_8 =>
    refine .need fun h => ?_
    generalize hmode : LxMode.ofCode (bits f.m 1 0) = mode at h
    rw [LxMode.ofCode_eq bits_lt] at hmode
    simp [encode, Instr.wf, reg, encA, b2n_bit, hg, bits] at h hmode ⊢
    exact ⟨⟨by omega, h.2⟩, by omega⟩
  case h_9 =>
    refine .opt fun kind hkind => .opt fun q hq => .need fun h => ?_
    rw [PagrKind.ofCode_eq_some] at hkind
    obtain ⟨hq, hqc⟩ := PredSrc.ofField_eq_some.1 hq
    simp [encode, Instr.wf, reg, encA, hg, hq, hqc, bits] at h hkind ⊢
    exact ⟨⟨by omega, h.2⟩, by omega⟩
  case h_10 | h_11 =>
    refine .opt fun x hx => .need fun h => ?_
    rw [RedOp.ofCode_eq_some] at hx
    simp [encode, Instr.wf, reg, encA, b2n_bit, hg, bits] at h hx ⊢
    omega
  all_goals
    refine .need fun h => ?_
    simp [encode, Instr.wf, reg, encA, b2n_bit, bit_eq_iff, hg] at h ⊢
    omega

theorem decodeTile_spells (hw : w < 2 ^ 64) (hmaj : bits w 63 60 = 7) :
    Spells w (decodeTile (Guard.ofCode (bits w 51 48)) (bits w 59 52) w) := by
  have hT : encTop (256 * bits w 63 60 + bits w 59 52) (Guard.ofCode (bits w 51 48)) + bits w 47 46 * 2 ^ 46 + bits w 45 42 * 2 ^ 42 +
      bits w 41 38 * 2 ^ 38 + bits w 37 29 * 2 ^ 29 + bits w 28 20 * 2 ^ 20 + bits w 19 18 * 2 ^ 18 + b2n (bit w 17) * 2 ^ 17 +
      b2n (bit w 16) * 2 ^ 16 + bits w 15 0 = w := by
    rw [encTop_eq hw, bits_zero_eq_mod w 15 16]
    simp only [add_assoc, bits_add_mod w 47 46 48, bits_add_mod w 45 42 46, bits_add_mod w 41 38 42, bits_add_mod w 37 29 38,
      bits_add_mod w 28 20 29, bits_add_mod w 19 18 20, b2n_bit_add_mod w 17 18, b2n_bit_add_mod w 16 17, Nat.div_add_mod']
  have hg := Guard.wf_ofCode (bits w 51 48)
  have hgs : bits w 47 46 < 4 := bits_lt
  have hcv : bits w 45 42 < 16 := bits_lt
  have hacc : bits w 41 38 < 16 := bits_lt
  have ha : bits w 37 29 < 512 := bits_lt
  have hb : bits w 28 20 < 512 := bits_lt
  rw [hmaj] at hT
  unfold decodeTile
  generalize Guard.ofCode (bits w 51 48) = g at *
  generalize bits w 37 29 = a at *
  generalize bits w 28 20 = b at *
  generalize bits w 15 0 = m at *
  generalize bit w 16 = sa at *
  generalize bit w 17 = sb at *
  split
  all_goals rename_i hop
  case h_10 => exact .error _
  all_goals simp only [hop, Nat.reduceMul, Nat.reduceAdd] at hT
  case h_2 | h_3 =>
    refine .opt fun x hx => .opt fun y hy => .need fun h => ?_
    obtain ⟨hxw, rfl, rfl⟩ := (TOpnd.ofField_eq_some ha).1 hx
    obtain ⟨hyw, rfl, rfl⟩ := (TOpnd.ofField_eq_some hb).1 hy
    simp [encode, Instr.wf, encT, b2n_bit, hg, hxw, hyw] at h ⊢
    omega
  case h_4 =>
    refine .opt fun x hx => .need fun h => ?_
    obtain ⟨hxw, rfl, rfl⟩ := (TOpnd.ofField_eq_some ha).1 hx
    by_cases h0 : x = .reg 0
    · subst h0
      simp [encode, Instr.wf, tzeroSrc, encT, TOpnd.field, TOpnd.isHnd, hg] at h hT ⊢
      simp [h] at hT
      omega
    · simp [encode, Instr.wf, tzeroSrc, encT, hg, hxw, h0] at h ⊢
      simp [h] at hT
      omega
  case h_6 =>
    refine .opt fun x hx => .need fun h => ?_
    obtain ⟨hxw, rfl, rfl⟩ := (TOpnd.ofField_eq_some ha).1 hx
    simp [encode, Instr.wf, reg, encT, hg, hxw] at h ⊢
    simp [h] at hT
    omega
  case h_7 =>
    refine .opt fun x hx => .opt fun y hy => .need fun h => ?_
    obtain ⟨hxw, rfl, rfl⟩ := (TOpnd.ofField_eq_some ha).1 hx
    obtain ⟨hyw, rfl, rfl⟩ := (TOpnd.ofField_eq_some hb).1 hy
    simp [encode, Instr.wf, encT, hg, hxw, hyw] at h ⊢
    omega
  all_goals
    refine .need fun h => ?_
    simp [encode, Instr.wf, reg, encT, b2n_bit, hg] at h ⊢
    simp [h] at hT
    omega

theorem decodeSystem_spells (hw : w < 2 ^ 64) (hmaj : bits w 63 60 = 8) :
    Spells w (decodeSystem (Guard.ofCode (bits w 51 48)) (bits w 59 52) w) := by
  have hA := eq_formA hw
  have hI := eq_formI hw
  have hI' : bits w 29 24 = w / 2 ^ 29 % 2 * 32 + bits w 28 24 := by simp only [bits]; omega
  have hg := Guard.wf_ofCode (bits w 51 48)
  obtain ⟨hd, ha, hb, hc, hk, hm⟩ := fieldsA_lt w
  have hmi : bits w 28 24 < 32 := bits_lt
  rw [hmaj] at hA hI
  rw [b2n_bit] at hI
  unfold decodeSystem
  generalize Guard.ofCode (bits w 51 48) = g at *
  generalize fieldsA w = f at *
  generalize bits w 28 24 = mi at *
  generalize bits w 23 0 = imm at *
  split
  all_goals rename_i hop
  case h_10 => exact .error _
  all_goals simp only [hop, Nat.reduceMul, Nat.reduceAdd] at hA hI
  case h_1 | h_2 =>
    refine .opt fun x hx => .need fun h => ?_
    rw [Special.ofNum_eq_some] at hx
    simp [encode, Instr.wf, reg, encI, b2n_bit, hg] at h ⊢
    omega
  case h_7 =>
    refine .opt fun c hc => .need fun h => ?_
    rw [LifeClass.ofCode_eq_some] at hc
    simp [encode, Instr.wf, reg, encI, b2n_bit, hg, bits] at h hc ⊢
    have hc : c.code = mi := by omega
    exact ⟨⟨by omega, h.2⟩, by simpa [hc] using hI⟩
  all_goals
    refine .need fun h => ?_
    simp [encode, Instr.wf, reg, encA, b2n_bit, hg] at h ⊢
    omega

/-- What the decoder reads from a word is well formed, and the word is its encoding. -/
theorem decodeWord_spells (hw : w < 2 ^ 64) : Spells w (decodeWord w) := by
  unfold decodeWord
  split
  case h_1 h => exact decodeControl_spells hw h
  case h_2 h => exact decodeInteger_spells hw h
  case h_3 h => exact decodeFloat_spells hw h
  case h_4 h => exact decodeSweep_spells hw h
  case h_5 h => exact decodeMemory_spells hw h
  case h_6 h => exact decodeObject_spells hw h
  case h_7 h => exact decodeSync_spells hw h
  case h_8 h => exact decodeTile_spells hw h
  case h_9 h => exact decodeSystem_spells hw h
  case h_10 => exact .error _

end

end Sys2Proof

end

section
/-! LAWS. The decoder reads a well-formed instruction back from its word: one lemma per form, then one per top digit of the opcode, by its
instructions. -/
namespace Sys2Proof

/-! The long proofs below are checked one after another: side by side they wait for the same equation lemmas of `encode` and `Instr.wf`,
and each that waits holds a thread with a stack of its own. -/
set_option Elab.async false

/-- The top digit of an instruction's opcode (Table 2.12); a step of the device has none. -/
def Instr.major : Instr → Option Nat
  | .nop .. | .bra .. | .jmp .. | .call .. | .calli .. | .ret .. | .exit .. | .yield .. | .sleep .. | .beat .. | .trap .. | .rtt ..
  | .bkpt .. => some 0
  | .mov .. | .movi .. | .iadd .. | .iaddi .. | .isub .. | .imul .. | .imulh .. | .imad .. | .imadw .. | .iadd64 .. | .lea .. | .imin ..
  | .imax .. | .iabs .. | .isetp .. | .sel .. | .shl .. | .shr .. | .sar .. | .rol .. | .and .. | .or .. | .xor .. | .bitf .. | .popc ..
  | .clz .. | .brev .. | .bfe .. | .bfi .. | .bsel .. | .pbitf .. | .p2v .. | .v2p .. => some 1
  | .fadd .. | .fmul .. | .ffma .. | .fmin .. | .fmax .. | .fsetp .. | .frnd .. | .frcp .. | .frsq .. | .fsqrt .. | .fex2 .. | .flg2 ..
  | .fsin .. | .fcos .. | .fclass .. | .hadd2 .. | .hmul2 .. | .hfma2 .. | .dot2 .. | .cvt .. | .qpack .. | .qunpk .. | .tagq ..
  | .tags .. => some 2
  | .swadd .. | .swmul .. | .swfma .. | .swmax .. | .swcvt .. | .swcopy .. | .swsum .. | .swex2 .. => some 3
  | .ld .. | .st .. | .atom .. | .cas .. | .red .. | .fence .. | .cinv .. | .cclean .. | .cpa .. | .waitb .. | .cpb .. => some 4
  | .objinit .. | .publish .. | .pubst .. | .refmk .. | .objst .. | .reclaim .. => some 5
  | .bar .. | .bara .. | .barw .. | .xbinit .. | .xbarr .. | .xbwait .. | .xbtry .. | .lxch .. | .pagr .. | .redg .. | .scang ..
  | .cdsend .. | .cdrecv .. | .cdpeek .. | .cdclose .. | .launch .. | .qsig .. | .cbset .. | .resample .. | .pkill .. | .pcount ..
  | .grpq .. => some 6
  | .thdl .. | .tmma .. | .tmmq .. | .tzero .. | .tcvt .. | .tstore .. | .tscale .. | .tflag .. | .twait .. => some 7
  | .mfs .. | .mts .. | .rnd .. | .spalloc .. | .spfree .. | .rtouch .. | .rclass .. | .rage .. | .trace .. => some 8
  | _ => none

/-- `w` is a word of 64 bits from which the decoder reads `i`. -/
def Decodes (i : Instr) (w : Nat) : Prop := w < 2 ^ 64 ∧ decodeWord w = .ok i

/-- The decoder of the opcodes whose top digit is `n`. -/
def decodeMajor (n : Nat) (g : Guard) (op w : Nat) : Decoded :=
  match n with
  | 0 => decodeControl g op w
  | 1 => decodeInteger g op w
  | 2 => decodeFloat g op w
  | 3 => decodeSweep g op w
  | 4 => decodeMemory g op w
  | 5 => decodeObject g op w
  | 6 => decodeSync g op w
  | 7 => decodeTile g op w
  | 8 => decodeSystem g op w
  | _ => .error .unassignedOpcode

theorem decodeWord_eq (w : Nat) : decodeWord w = decodeMajor (bits w 63 60) (Guard.ofCode (bits w 51 48)) (bits w 59 52) w := rfl

section
variable {op : Nat} {g : Guard} {i : Instr}

theorem Decodes.formA {d a b c k m : Nat} (ho : op < 4096) (hg : g.wf = true)
    (h : d < 512 ∧ a < 512 ∧ b < 512 ∧ c < 512 ∧ k < 4 ∧ m < 1024)
    (hr : ∀ w, fieldsA w = ⟨d, a, b, c, k, m⟩ → decodeMajor (op / 256) g (op % 256) w = .ok i) : Decodes i (encA op g d a b c k m) := by
  obtain ⟨hd, ha, hb, hc, hk, hm⟩ := h
  obtain ⟨hmaj, hop, hgd, h1, h2, h3, h4, h5, h6, hlt⟩ := encA_fields ho hg hd ha hb hc hk hm
  refine ⟨hlt, ?_⟩
  rw [decodeWord_eq, hmaj, hop, hgd, Guard.ofCode_code hg]
  exact hr _ (by rw [fieldsA, h1, h2, h3, h4, h5, h6])

theorem Decodes.formC {d a m : Nat} {off : Int} (ho : op < 4096) (hg : g.wf = true) (h : d < 512 ∧ a < 512 ∧ m < 64)
    (hr : ∀ w, bits w 47 39 = d → bits w 38 30 = a → bits w 29 24 = m → bits w 23 0 = trunc off 24 →
      decodeMajor (op / 256) g (op % 256) w = .ok i) : Decodes i (encC op g d a m off) := by
  obtain ⟨hd, ha, hm⟩ := h
  obtain ⟨hmaj, hop, hgd, h1, h2, h3, h4, hlt⟩ := encC_fields (off := off) ho hg hd ha hm
  refine ⟨hlt, ?_⟩
  rw [decodeWord_eq, hmaj, hop, hgd, Guard.ofCode_code hg]
  exact hr _ h1 h2 h3 h4

theorem Decodes.formW {d m imm : Nat} (ho : op < 4096) (hg : g.wf = true) (h : d < 512 ∧ m < 128 ∧ imm < 4294967296)
    (hr : ∀ w, bits w 47 39 = d → bits w 47 32 = 128 * d + m → bits w 38 36 = m / 16 → bits w 35 32 = m % 16 → bits w 31 0 = imm →
      decodeMajor (op / 256) g (op % 256) w = .ok i) : Decodes i (encW op g d m imm) := by
  obtain ⟨hd, hm, himm⟩ := h
  obtain ⟨hmaj, hop, hgd, h1, h2, h3, hlt⟩ := encW_fields ho hg hd hm himm
  refine ⟨hlt, ?_⟩
  rw [decodeWord_eq, hmaj, hop, hgd, Guard.ofCode_code hg]
  refine hr _ h1 ?_ ?_ ?_ h3 <;> simp only [bits] at h1 h2 ⊢ <;> omega

theorem Decodes.formI {d a m imm : Nat} {ka : Bool} (ho : op < 4096) (hg : g.wf = true) (h : d < 512 ∧ a < 512 ∧ m < 32 ∧ imm < 16777216)
    (hr : ∀ w, bits w 47 39 = d → bits w 38 30 = a → bit w 29 = ka → bits w 28 24 = m → bits w 23 0 = imm →
      bits w 29 24 = 32 * b2n ka + m → bits w 29 26 = 8 * b2n ka + m / 4 → bits w 25 24 = m % 4 →
      decodeMajor (op / 256) g (op % 256) w = .ok i) : Decodes i (encI op g d a ka m imm) := by
  obtain ⟨hd, ha, hm, himm⟩ := h
  obtain ⟨hmaj, hop, hgd, h1, h2, h3, h4, h5, hlt⟩ := encI_fields (ka := ka) ho hg hd ha hm himm
  refine ⟨hlt, ?_⟩
  rw [decodeWord_eq, hmaj, hop, hgd, Guard.ofCode_code hg]
  refine hr _ h1 h2 (bit_eq_iff.2 h3) h4 h5 ?_ ?_ ?_ <;> simp only [bits] at h3 h4 ⊢ <;> omega

theorem Decodes.formM {d base idx sc cl wd : Nat} {off : Int} (ho : op < 4096) (hg : g.wf = true)
    (h : d < 512 ∧ base < 512 ∧ idx < 512 ∧ sc < 8 ∧ cl < 4 ∧ wd < 16)
    (hr : ∀ w, bits w 47 39 = d → bits w 38 30 = base → bits w 29 21 = idx → bits w 20 9 = trunc off 12 → bits w 8 6 = sc →
      bits w 5 4 = cl → bits w 3 0 = wd → decodeMajor (op / 256) g (op % 256) w = .ok i) : Decodes i (encM op g d base idx off sc cl wd) := by
  obtain ⟨hd, hb, hi, hs, hc, hw⟩ := h
  obtain ⟨hmaj, hop, hgd, h1, h2, h3, h4, h5, h6, h7, hlt⟩ := encM_fields (off := off) ho hg hd hb hi hs hc hw
  refine ⟨hlt, ?_⟩
  rw [decodeWord_eq, hmaj, hop, hgd, Guard.ofCode_code hg]
  exact hr _ h1 h2 h3 h4 h5 h6 h7

theorem Decodes.formV {d a b n sd sa sb : Nat} (ho : op < 4096) (hg : g.wf = true)
    (h : d < 512 ∧ a < 512 ∧ b < 512 ∧ n < 4096 ∧ sd < 8 ∧ sa < 8 ∧ sb < 8)
    (hr : ∀ w, bits w 47 39 = d → bits w 38 30 = a → bits w 29 21 = b → bits w 20 9 = n → bits w 8 6 = sd → bits w 5 3 = sa →
      bits w 2 0 = sb → decodeMajor (op / 256) g (op % 256) w = .ok i) : Decodes i (encV op g d a b n sd sa sb) := by
  obtain ⟨hd, ha, hb, hn, hsd, hsa, hsb⟩ := h
  obtain ⟨hmaj, hop, hgd, h1, h2, h3, h4, h5, h6, h7, hlt⟩ := encV_fields ho hg hd ha hb hn hsd hsa hsb
  refine ⟨hlt, ?_⟩
  rw [decodeWord_eq, hmaj, hop, hgd, Guard.ofCode_code hg]
  exact hr _ h1 h2 h3 h4 h5 h6 h7

theorem Decodes.formT {gs cv acc a b m : Nat} (sa sb : Bool) (ho : op < 4096) (hg : g.wf = true)
    (h : gs < 4 ∧ cv < 16 ∧ acc < 16 ∧ a < 512 ∧ b < 512 ∧ m < 65536)
    (hr : ∀ w, bits w 47 46 = gs → bits w 45 42 = cv → bits w 41 38 = acc → bits w 37 29 = a → bits w 28 20 = b → bits w 19 18 = 0 →
      bit w 17 = sb → bit w 16 = sa → bits w 15 0 = m → decodeMajor (op / 256) g (op % 256) w = .ok i) :
    Decodes i (encT op g gs cv acc a b (b2n sa + 2 * b2n sb) m) := by
  obtain ⟨hgs, hcv, hacc, ha, hb, hm⟩ := h
  have hsa := b2n_lt sa
  have hsb := b2n_lt sb
  obtain ⟨hmaj, hop, hgd, h1, h2, h3, h4, h5, h6, h7, hlt⟩ :=
    encT_fields (src := b2n sa + 2 * b2n sb) ho hg hgs hcv hacc ha hb (by omega) hm
  refine ⟨hlt, ?_⟩
  rw [decodeWord_eq, hmaj, hop, hgd, Guard.ofCode_code hg]
  refine hr _ h1 h2 h3 h4 h5 ?_ (bit_eq_iff.2 ?_) (bit_eq_iff.2 ?_) h7 <;> simp only [bits] at h6 ⊢ <;> omega

end

theorem decodeShift_field_code {amt : ShAmt} (h : amt.wf = true) {d a k : Nat} {i : ShAmt → Instr} :
    decodeShift ⟨d, a, amt.field, 0, k, amt.code⟩ i = .ok (i amt) := by
  cases amt with
  | reg b => simp [decodeShift, ShAmt.field, ShAmt.code, bit]
  | imm n =>
    have hn : n < 32 := by simpa [ShAmt.wf] using h
    have hf : bits (1 + 2 * n) 5 1 = n := by simp only [bits]; omega
    have hl : bit (1 + 2 * n) 0 = true := bit_eq_iff.2 (by simp)
    have hc : 1 + 2 * n < 64 := by omega
    simp [decodeShift, ShAmt.field, ShAmt.code, hl, hc, hf]

theorem decodes_encode_control {i : Instr} {w : Nat} (hmaj : i.major = some 0) (hwf : i.wf = true) (he : encode i = some w) :
    Decodes i w := by
  cases i
  case bra g off | call g d off =>
    cases he
    simp [Instr.wf, reg] at hwf
    have hs := sext_trunc_of_off24 hwf.2
    refine .formC (by decide) (by simp [hwf]) (by omega) fun w hd ha hm hoff => ?_
    simp [decodeMajor, decodeControl, hd, ha, hm, hoff, hs]
  case rtt g past =>
    cases he
    have hp := b2n_lt past
    refine .formC (by decide) (by simpa [Instr.wf] using hwf) (by omega) fun w hd ha hm hoff => ?_
    simp [decodeMajor, decodeControl, hd, ha, hm, hoff, bit_eq_iff]
    omega
  case sleep g n =>
    cases he
    simp [Instr.wf] at hwf
    refine .formI (by decide) (by simp [hwf]) (by omega) fun w hd ha _ _ hn hm _ _ => ?_
    simp [decodeMajor, decodeControl, hd, ha, hm, hn]
  case trap g imm | bkpt g imm =>
    cases he
    simp [Instr.wf] at hwf
    refine .formW (by decide) (by simp [hwf]) (by omega) fun w _ hd _ _ himm => ?_
    simp [decodeMajor, decodeControl, hd, himm]
  case nop | jmp | calli | ret | exit | yield | beat =>
    cases he
    simp [Instr.wf, reg] at hwf
    refine .formC (by decide) (by simp [hwf]) (by simp [hwf]) fun w hd ha hm hoff => ?_
    simp [decodeMajor, decodeControl, hd, ha, hm, hoff]
  all_goals cases hmaj

theorem decodes_encode_integer {i : Instr} {w : Nat} (hmaj : i.major = some 1) (hwf : i.wf = true) (he : encode i = some w) :
    Decodes i w := by
  cases i
  case movi g d tag imm =>
    cases he
    simp [Instr.wf, reg] at hwf
    obtain ⟨⟨⟨hg, hd⟩, hn⟩, himm⟩ := hwf
    have ht := tag.code_lt
    refine .formW (by decide) hg (by omega) fun w hd _ hz htag himm => ?_
    simp [decodeMajor, decodeInteger, fieldsA, hd, hz, htag, himm, Tag.ofName_eq_some, hn]
    omega
  case iaddi g d a ka sg sat imm =>
    cases he
    simp [Instr.wf, reg] at hwf
    have hs := sext_trunc_of_off24 hwf.2
    have h1 := b2n_lt sg
    have h2 := b2n_lt sat
    have himm := trunc_lt imm 24
    refine .formI (by decide) (by simp [hwf]) (by omega) fun w hd ha hk hm himm _ _ _ => ?_
    simp [decodeMajor, decodeInteger, fieldsA, hd, ha, hk, hm, himm, hs, bit_eq_iff]
    omega
  case isetp g p a b q k cmp sg comb =>
    cases he
    simp [Instr.wf, reg] at hwf
    obtain ⟨⟨⟨⟨⟨⟨hg, hp⟩, ha⟩, hb⟩, hq⟩, hk⟩, hcq⟩ := hwf
    have hl := PredSrc.code_lt hq
    have h1 := cmp.code_lt
    have h2 := b2n_lt sg
    have h3 := comb.code_lt
    have hcq : comb = .none → q.code = 0 := fun h => PredSrc.code_eq_zero.2 (hcq.resolve_left (· h))
    generalize hm : cmp.code + 8 * b2n sg + 16 * comb.code = m
    have hcmp : Cmp.ofCode (bits m 2 0) = some cmp := Cmp.ofCode_eq_some.2 (by simp only [bits]; omega)
    have hcomb : Comb.ofCode (bits m 5 4) = comb := (Comb.ofCode_eq bits_lt).2 (by simp only [bits]; omega)
    have hsg : bit m 3 = sg := bit_eq_iff.2 (by omega)
    refine .formA (by decide) hg (by omega) fun w hw => ?_
    simp [decodeMajor, decodeInteger, hw, PredSrc.ofField_code hq, hcmp, hcomb, hsg, hp]
    exact ⟨by omega, or_iff_not_imp_left.2 fun h => hcq (not_not.1 h)⟩
  case sel g d a b q k =>
    cases he
    simp [Instr.wf, reg] at hwf
    have hq := PredSrc.ofField_code hwf.1.2
    have hl := PredSrc.code_lt hwf.1.2
    refine .formA (by decide) (by simp [hwf]) (by omega) fun w hw => ?_
    simp [decodeMajor, decodeInteger, hw, hq]
  case pbitf g p x y z k fn =>
    cases he
    simp [Instr.wf] at hwf
    obtain ⟨⟨⟨⟨⟨⟨hg, hp⟩, hx⟩, hy⟩, hz⟩, hk⟩, hfn⟩ := hwf
    have hxl := PredSrc.code_lt hx
    have hyl := PredSrc.code_lt hy
    have hzl := PredSrc.code_lt hz
    refine .formA (by decide) hg (by omega) fun w hw => ?_
    simp [decodeMajor, decodeInteger, hw, PredSrc.ofField_code hx, PredSrc.ofField_code hy, PredSrc.ofField_code hz, hp, hfn]
  case shl g d a amt k | shr g d a amt k | sar g d a amt k | rol g d a amt k =>
    cases he
    simp [Instr.wf, reg] at hwf
    obtain ⟨⟨⟨⟨hg, hd⟩, ha⟩, hamt⟩, hk⟩ := hwf
    obtain ⟨hb, hm⟩ := amt.field_code_lt hamt
    refine .formA (by decide) hg (by omega) fun w hw => ?_
    simp [decodeMajor, decodeInteger, hw, decodeShift_field_code hamt]
  case iadd g d a b k sg sat | isub g d a b k sg sat | imad g d a b c k sg sat =>
    cases he
    simp [Instr.wf, reg] at hwf
    have h1 := b2n_lt sg
    have h2 := b2n_lt sat
    refine .formA (by decide) (by simp [hwf]) (by omega) fun w hw => ?_
    simp [decodeMajor, decodeInteger, hw, bit_eq_iff]
    omega
  case imul g d a b k sg | imulh g d a b k sg | imadw g d a b c k sg | iadd64 g d a b k sg | imin g d a b k sg | imax g d a b k sg
      | iabs g d a k sg | bfe g d a b k sg | bsel g d a b c k sg =>
    cases he
    simp [Instr.wf, reg] at hwf
    have h1 := b2n_lt sg
    refine .formA (by decide) (by simp [hwf]) (by omega) fun w hw => ?_
    simp [decodeMajor, decodeInteger, hw, bit_eq_iff]
    omega
  case mov | lea | and | or | xor | bitf | popc | clz | brev | bfi | p2v | v2p =>
    cases he
    simp [Instr.wf, reg] at hwf
    refine .formA (by decide) (by simp [hwf]) (by omega) fun w hw => ?_
    simp [decodeMajor, decodeInteger, hw, hwf]
  all_goals cases hmaj

theorem decodes_encode_float {i : Instr} {w : Nat} (hmaj : i.major = some 2) (hwf : i.wf = true) (he : encode i = some w) :
    Decodes i w := by
  cases i
  case fadd g d a b k rm mods | fmul g d a b k rm mods =>
    cases he
    simp [Instr.wf, reg] at hwf
    have h1 := rm.code_lt
    have h2 := mods.code_lt
    generalize hm : rm.code + 8 * mods.code = m
    have hrm : Rm.ofCode (bits m 2 0) = some rm := Rm.ofCode_eq_some.2 (by simp only [bits]; omega)
    have hmods : FMods.ofCode (bits m 6 3) = mods := (FMods.ofCode_eq bits_lt).2 (by simp only [bits]; omega)
    refine .formA (by decide) (by simp [hwf]) (by omega) fun w hw => ?_
    simp [decodeMajor, decodeFloat, hw, hrm, hmods]
    omega
  case ffma g d a b c k rm mods nc =>
    cases he
    simp [Instr.wf, reg] at hwf
    have h1 := rm.code_lt
    have h2 := mods.code_lt
    have h3 := b2n_lt nc
    generalize hm : rm.code + 8 * mods.code + 128 * b2n nc = m
    have hrm : Rm.ofCode (bits m 2 0) = some rm := Rm.ofCode_eq_some.2 (by simp only [bits]; omega)
    have hmods : FMods.ofCode (bits m 6 3) = mods := (FMods.ofCode_eq bits_lt).2 (by simp only [bits]; omega)
    refine .formA (by decide) (by simp [hwf]) (by omega) fun w hw => ?_
    simp [decodeMajor, decodeFloat, hw, hrm, hmods, bit_eq_iff]
    omega
  case fmin g d a b k mods | fmax g d a b k mods =>
    cases he
    simp [Instr.wf, reg] at hwf
    have h2 := mods.code_lt
    generalize hm : 8 * mods.code = m
    have hmods : FMods.ofCode (bits m 6 3) = mods := (FMods.ofCode_eq bits_lt).2 (by simp only [bits]; omega)
    have hz : bits m 2 0 = 0 := by simp only [bits]; omega
    refine .formA (by decide) (by simp [hwf]) (by omega) fun w hw => ?_
    simp [decodeMajor, decodeFloat, hw, hmods, hz]
    omega
  case fsetp g p a b k mods cnd =>
    cases he
    simp [Instr.wf, reg] at hwf
    have h1 := cnd.code_lt
    have h2 := mods.code_lt
    generalize hm : 8 * mods.code + 128 * cnd.code = m
    have hmods : FMods.ofCode (bits m 6 3) = mods := (FMods.ofCode_eq bits_lt).2 (by simp only [bits]; omega)
    have hcnd : FCond.ofCode (bits m 9 7) = cnd := (FCond.ofCode_eq bits_lt).2 (by simp only [bits]; omega)
    have hz : bits m 2 0 = 0 := by simp only [bits]; omega
    refine .formA (by decide) (by simp [hwf]) (by omega) fun w hw => ?_
    simp [decodeMajor, decodeFloat, hw, hmods, hcnd, hz, hwf]
  case frnd g d a k rm | fsqrt g d a k rm =>
    cases he
    simp [Instr.wf, reg] at hwf
    have h1 := rm.code_lt
    have hrm : Rm.ofCode (bits rm.code 2 0) = some rm := Rm.ofCode_eq_some.2 (by simp only [bits]; omega)
    refine .formA (by decide) (by simp [hwf]) (by omega) fun w hw => ?_
    simp [decodeMajor, decodeFloat, hw, hrm]
    omega
  case hadd2 g d a b k rm h | hmul2 g d a b k rm h | hfma2 g d a b c k rm h | dot2 g d a b c k rm h =>
    cases he
    simp [Instr.wf, reg] at hwf
    have h1 := rm.code_lt
    have h2 := b2n_lt h
    generalize hm : rm.code + 128 * b2n h = m
    have hrm : Rm.ofCode (bits m 2 0) = some rm := Rm.ofCode_eq_some.2 (by simp only [bits]; omega)
    have hz : bits m 6 3 = 0 := by simp only [bits]; omega
    refine .formA (by decide) (by simp [hwf]) (by omega) fun w hw => ?_
    simp [decodeMajor, decodeFloat, hw, hrm, hz, bit_eq_iff]
    omega
  case cvt g d a b k dt rm sat =>
    cases he
    simp [Instr.wf, reg, cvtShape] at hwf
    obtain ⟨⟨⟨⟨⟨⟨hg, hd⟩, ha⟩, hb⟩, hk⟩, hn⟩, ⟨hround, hcopy⟩, hsat⟩ := hwf
    have h1 := rm.code_lt
    have h2 := dt.code_lt
    have h3 := b2n_lt sat
    generalize hm : rm.code + 8 * dt.code + 128 * b2n sat = m
    have hrm : Rm.ofCode (bits m 2 0) = some rm := Rm.ofCode_eq_some.2 (by simp only [bits]; omega)
    have htag : Tag.ofName (bits m 6 3) = some dt := Tag.ofName_eq_some.2 ⟨hn, by simp only [bits]; omega⟩
    have hbit : bit m 7 = sat := bit_eq_iff.2 (by omega)
    refine .formA (by decide) hg (by omega) fun w hw => ?_
    simp [decodeMajor, decodeFloat, hw, hrm, htag, hbit]
    exact ⟨⟨⟨by omega, hround⟩, hcopy⟩, or_assoc.1 hsat⟩
  case qpack g d a b c k rm n4 =>
    cases he
    simp [Instr.wf, reg] at hwf
    have h1 := rm.code_lt
    have h2 := b2n_lt n4
    generalize hm : rm.code + 8 * b2n n4 = m
    have hrm : Rm.ofCode (bits m 2 0) = some rm := Rm.ofCode_eq_some.2 (by simp only [bits]; omega)
    refine .formA (by decide) (by simp [hwf]) (by omega) fun w hw => ?_
    simp [decodeMajor, decodeFloat, hw, hrm, bit_eq_iff]
    omega
  case qunpk g d a b c k n4 =>
    cases he
    simp [Instr.wf, reg] at hwf
    have h2 := b2n_lt n4
    refine .formA (by decide) (by simp [hwf]) (by omega) fun w hw => ?_
    simp [decodeMajor, decodeFloat, hw, bit_eq_iff]
    omega
  case tags g d a k tag =>
    cases he
    simp [Instr.wf, reg] at hwf
    obtain ⟨⟨⟨⟨hg, hd⟩, ha⟩, hk⟩, hn⟩ := hwf
    have h1 := tag.code_lt
    have htag : Tag.ofName (bits tag.code 3 0) = some tag := Tag.ofName_eq_some.2 ⟨hn, by simp only [bits]; omega⟩
    refine .formA (by decide) hg (by omega) fun w hw => ?_
    simp [decodeMajor, decodeFloat, hw, htag]
    omega
  case frcp | frsq | fex2 | flg2 | fsin | fcos | fclass | tagq =>
    cases he
    simp [Instr.wf, reg] at hwf
    refine .formA (by decide) (by simp [hwf]) (by omega) fun w hw => ?_
    simp [decodeMajor, decodeFloat, hw]
  all_goals cases hmaj

theorem decodes_encode_sweep {i : Instr} {w : Nat} (hmaj : i.major = some 3) (hwf : i.wf = true) (he : encode i = some w) :
    Decodes i w := by
  cases i
  case swadd | swmul | swfma | swmax | swcvt | swcopy | swsum | swex2 =>
    cases he
    simp [Instr.wf, reg] at hwf
    refine .formV (by decide) (by simp [hwf]) (by omega) fun w hd ha hb hn hsd hsa hsb => ?_
    simp [decodeMajor, decodeSweep, hd, ha, hb, hn, hsd, hsa, hsb]
  all_goals cases hmaj

theorem decodes_encode_memory {i : Instr} {w : Nat} (hmaj : i.major = some 4) (hwf : i.wf = true) (he : encode i = some w) :
    Decodes i w := by
  cases i
  case ld g d base idx off x o sc c | st g d base idx off x o sc c =>
    cases he
    simp [Instr.wf, reg] at hwf
    obtain ⟨⟨⟨⟨⟨⟨hg, hd⟩, hb⟩, hi⟩, hoff⟩, hsc⟩, ho⟩ := hwf
    have h1 := x.code_lt
    have h2 := c.code_lt
    have h3 := b2n_lt o
    generalize hm : x.code + 8 * b2n o = m
    have hx : x.code = bits m 2 0 := by simp only [bits]; omega
    have hob : bit m 3 = o := bit_eq_iff.2 (by omega)
    refine .formM (by decide) hg (by omega) fun w hd hb hi hoffw hs hc hw => ?_
    simp [decodeMajor, decodeMemory, hd, hb, hi, hoffw, hs, hc, hw, sext_trunc_of_off12 hoff, hx, hob, hsc, ho]
  case atom g d base idx off x ord sc =>
    cases he
    simp [Instr.wf, reg] at hwf
    obtain ⟨⟨⟨⟨⟨⟨hg, hd⟩, hb⟩, hi⟩, hoff⟩, hsc⟩, hsc'⟩ := hwf
    have h1 := x.code_lt
    have h2 := ord.code_lt
    refine .formM (by decide) hg (by omega) fun w hd hb hi hoffw hs hc hw => ?_
    simp [decodeMajor, decodeMemory, hd, hb, hi, hoffw, hs, hc, hw,
      (Order.ofCode_eq h2).2 rfl, sext_trunc_of_off12 hoff, hsc, hsc']
  case cas g d base idx off w64 ord sc =>
    cases he
    simp [Instr.wf, reg] at hwf
    obtain ⟨⟨⟨⟨⟨⟨hg, hd⟩, hb⟩, hi⟩, hoff⟩, hsc⟩, hsc'⟩ := hwf
    have h1 := b2n_lt w64
    have h2 := ord.code_lt
    refine .formM (by decide) hg (by omega) fun w hd hb hi hoffw hs hc hw => ?_
    simp [decodeMajor, decodeMemory, hd, hb, hi, hoffw, hs, hc, hw, (Order.ofCode_eq h2).2 rfl, bit_eq_iff,
      sext_trunc_of_off12 hoff, hsc, hsc']
    omega
  case red g d base idx off x rel sc =>
    cases he
    simp [Instr.wf, reg] at hwf
    obtain ⟨⟨⟨⟨⟨⟨⟨⟨hg, hd⟩, hb⟩, hi⟩, hoff⟩, hsc⟩, hsc'⟩, hexch⟩, hexch64⟩ := hwf
    have h1 := x.code_lt
    have h2 := b2n_lt rel
    refine .formM (by decide) hg (by omega) fun w hd hb hi hoffw hs hc hw => ?_
    cases rel <;> simp [decodeMajor, decodeMemory, hd, hb, hi, hoffw, hs, hc, hw,
      sext_trunc_of_off12 hoff, hsc, hsc', hexch, hexch64]
  case fence g ord sc =>
    cases he
    simp [Instr.wf] at hwf
    have h1 := ord.code_lt
    refine .formM (by decide) hwf.1 (by omega) fun w hd hb hi hoffw hs hc hw => ?_
    simp [decodeMajor, decodeMemory, hd, hb, hi, hoffw, hs, hc, hw, (FenceOrd.ofCode_eq h1).2 rfl, hwf, h1, sext]
  case cinv g all base idx off | cclean g all base idx off =>
    cases he
    simp [Instr.wf, reg] at hwf
    obtain ⟨⟨⟨⟨hg, hb⟩, hi⟩, hoff⟩, hall⟩ := hwf
    have h1 := b2n_lt all
    refine .formM (by decide) hg (by omega) fun w hd hb hi hoffw hs hc hw => ?_
    cases all <;> simp [decodeMajor, decodeMemory, hd, hb, hi, hoffw, hs, hc, hw, bit, sext_trunc_of_off12 hoff] at hall ⊢
    exact hall
  case cpa g d base idx off lgw bt c =>
    cases he
    simp [Instr.wf, reg] at hwf
    obtain ⟨⟨⟨⟨⟨⟨hg, hd⟩, hb⟩, hi⟩, hlgw⟩, hbt⟩, hoff⟩ := hwf
    have h1 := c.code_lt
    refine .formM (by decide) hg (by omega) fun w hd hb hi hoffw hs hc hw => ?_
    simp [decodeMajor, decodeMemory, hd, hb, hi, hoffw, hs, hc, hw,
      sext_trunc_of_off12 hoff]
    simp only [bits]
    omega
  case cpb g d base idx off c =>
    cases he
    simp [Instr.wf, reg] at hwf
    obtain ⟨⟨⟨⟨hg, hd⟩, hb⟩, hi⟩, hoff⟩ := hwf
    have h1 := c.code_lt
    refine .formM (by decide) hg (by omega) fun w hd hb hi hoffw hs hc hw => ?_
    simp [decodeMajor, decodeMemory, hd, hb, hi, hoffw, hs, hc, hw,
      sext_trunc_of_off12 hoff]
  case waitb g bt n =>
    cases he
    simp [Instr.wf] at hwf
    refine .formI (by decide) (by simp [hwf]) (by omega) fun w hd ha _ _ hn _ hz hbt => ?_
    simp [decodeMajor, decodeMemory, hd, ha, hn, hz, hbt]
    omega
  all_goals cases hmaj

theorem decodes_encode_object {i : Instr} {w : Nat} (hmaj : i.major = some 5) (hwf : i.wf = true) (he : encode i = some w) :
    Decodes i w := by
  cases i
  case objinit | publish | pubst | refmk | objst | reclaim =>
    cases he
    simp [Instr.wf, reg] at hwf
    refine .formA (by decide) (by simp [hwf]) (by omega) fun w hw => ?_
    simp [decodeMajor, decodeObject, hw, hwf]
  all_goals cases hmaj

theorem decodes_encode_sync {i : Instr} {w : Nat} (hmaj : i.major = some 6) (hwf : i.wf = true) (he : encode i = some w) :
    Decodes i w := by
  cases i
  case bar g bn gs k | bara g d bn gs k | barw g a bn gs k =>
    cases he
    simp [Instr.wf, reg] at hwf
    refine .formA (by decide) (by simp [hwf]) (by omega) fun w hw => ?_
    simp [decodeMajor, decodeSync, hw]
    simp only [bits]
    omega
  case lxch g d a b k mode kp =>
    cases he
    simp [Instr.wf, reg] at hwf
    obtain ⟨⟨⟨⟨⟨hg, hd⟩, ha⟩, hb⟩, hk⟩, hlow⟩ := hwf
    have h1 := mode.code_lt
    have h2 := b2n_lt kp
    generalize hm : mode.code + 4 * b2n kp = m
    have hmode : LxMode.ofCode (bits m 1 0) = mode := (LxMode.ofCode_eq bits_lt).2 (by simp only [bits]; omega)
    have hkp : bit m 2 = kp := bit_eq_iff.2 (by omega)
    refine .formA (by decide) hg (by omega) fun w hw => ?_
    simp [decodeMajor, decodeSync, hw, hmode, hkp, hlow]
    omega
  case pagr g d q k kind =>
    cases he
    simp [Instr.wf, reg] at hwf
    obtain ⟨⟨⟨⟨hg, hd⟩, hq⟩, hk⟩, hkind⟩ := hwf
    have h1 := kind.code_lt
    have hl := PredSrc.code_lt hq
    have hkd : PagrKind.ofCode (bits kind.code 2 0) = some kind := PagrKind.ofCode_eq_some.2 (by simp only [bits]; omega)
    refine .formA (by decide) hg (by omega) fun w hw => ?_
    simp [decodeMajor, decodeSync, hw, hkd, PredSrc.ofField_code hq, hkind]
    omega
  case redg g d a k op =>
    cases he
    simp [Instr.wf, reg] at hwf
    have h1 := op.code_lt
    refine .formA (by decide) (by simp [hwf]) (by omega) fun w hw => ?_
    simp [decodeMajor, decodeSync, hw]
  case scang g d a k op excl =>
    cases he
    simp [Instr.wf, reg] at hwf
    have h1 := op.code_lt
    have h2 := b2n_lt excl
    generalize hm : op.code + 8 * b2n excl = m
    have hop : RedOp.ofCode (bits m 2 0) = some op := RedOp.ofCode_eq_some.2 (by simp only [bits]; omega)
    refine .formA (by decide) (by simp [hwf]) (by omega) fun w hw => ?_
    simp [decodeMajor, decodeSync, hw, hop, bit_eq_iff]
    omega
  case cdsend g d a cd n k =>
    cases he
    simp [Instr.wf, reg] at hwf
    refine .formA (by decide) (by simp [hwf]) (by omega) fun w hw => ?_
    simp [decodeMajor, decodeSync, hw]
    omega
  case resample g d a b c k opnd =>
    cases he
    simp [Instr.wf, reg] at hwf
    have h1 := b2n_lt opnd
    refine .formA (by decide) (by simp [hwf]) (by omega) fun w hw => ?_
    cases opnd <;> simp [decodeMajor, decodeSync, hw, bit] at hwf ⊢
    exact hwf.2
  case xbinit | xbarr | xbwait | xbtry | cdrecv | cdpeek | cdclose | launch | qsig | cbset | pkill | pcount | grpq =>
    cases he
    simp [Instr.wf, reg] at hwf
    refine .formA (by decide) (by simp [hwf]) (by omega) fun w hw => ?_
    simp [decodeMajor, decodeSync, hw, hwf]
  all_goals cases hmaj

theorem decodes_encode_tile {i : Instr} {w : Nat} (hmaj : i.major = some 7) (hwf : i.wf = true) (he : encode i = some w) :
    Decodes i w := by
  cases i
  case thdl g hn a =>
    cases he
    simp [Instr.wf, reg] at hwf
    refine .formT false true (by decide) (by simp [hwf]) (by omega) fun w hgs hcv hacc ha hb hz hsb hsa hm => ?_
    simp [decodeMajor, decodeTile, hgs, hcv, hacc, ha, hb, hz, hsb, hsa, hm, hwf]
  case tmma g gs cv acc A B f | tmmq g gs cv acc A B f =>
    cases he
    simp [Instr.wf] at hwf
    obtain ⟨⟨⟨⟨⟨hg, hgs⟩, hcv⟩, hacc⟩, hA⟩, hB⟩ := hwf
    have h1 := TOpnd.field_lt hA
    have h2 := TOpnd.field_lt hB
    have h3 := b2n_lt f
    refine .formT _ _ (by decide) hg (by omega) fun w hgs hcv hacc ha hb hz hsb hsa hm => ?_
    simp [decodeMajor, decodeTile, hgs, hcv, hacc, ha, hb, hz, hsb, hsa, hm, TOpnd.ofField_field hA,
      TOpnd.ofField_field hB, bit_eq_iff]
    omega
  case tzero g gs acc src =>
    cases src with
    | none =>
      cases he
      simp [Instr.wf, tzeroSrc] at hwf
      refine .formT false false (by decide) (by simp [hwf]) (by omega) fun w hgs hcv hacc ha hb hz hsb hsa hm => ?_
      simp [decodeMajor, decodeTile, hgs, hcv, hacc, ha, hb, hz, hsb, hsa, hm, TOpnd.ofField]
    | some H =>
      cases he
      simp [Instr.wf, tzeroSrc] at hwf
      obtain ⟨⟨⟨hg, hgs⟩, hacc⟩, hH, h0⟩ := hwf
      have h1 := TOpnd.field_lt hH
      refine .formT H.isHnd false (by decide) hg (by omega) fun w hgs hcv hacc ha hb hz hsb hsa hm => ?_
      simp [decodeMajor, decodeTile, hgs, hcv, hacc, ha, hb, hz, hsb, hsa, hm, TOpnd.ofField_field hH, h0]
  case tcvt g gs acc a b bf =>
    cases he
    simp [Instr.wf, reg] at hwf
    have h3 := b2n_lt bf
    refine .formT false false (by decide) (by simp [hwf]) (by omega) fun w hgs hcv hacc ha hb hz hsb hsa hm => ?_
    simp [decodeMajor, decodeTile, hgs, hcv, hacc, ha, hb, hz, hsb, hsa, hm, bit_eq_iff]
    omega
  case tstore g gs acc H b =>
    cases he
    simp [Instr.wf, reg] at hwf
    obtain ⟨⟨⟨⟨hg, hgs⟩, hacc⟩, hH⟩, hb⟩ := hwf
    have h1 := TOpnd.field_lt hH
    refine .formT H.isHnd false (by decide) hg (by omega) fun w hgs hcv hacc ha hb hz hsb hsa hm => ?_
    simp [decodeMajor, decodeTile, hgs, hcv, hacc, ha, hb, hz, hsb, hsa, hm, TOpnd.ofField_field hH]
  case tscale g gs acc A B =>
    cases he
    simp [Instr.wf] at hwf
    obtain ⟨⟨⟨⟨hg, hgs⟩, hacc⟩, hA⟩, hB⟩ := hwf
    have h1 := TOpnd.field_lt hA
    have h2 := TOpnd.field_lt hB
    refine .formT _ _ (by decide) hg (by omega) fun w hgs hcv hacc ha hb hz hsb hsa hm => ?_
    simp [decodeMajor, decodeTile, hgs, hcv, hacc, ha, hb, hz, hsb, hsa, hm, TOpnd.ofField_field hA,
      TOpnd.ofField_field hB]
  case tflag | twait =>
    cases he
    simp [Instr.wf] at hwf
    refine .formT false false (by decide) (by simp [hwf]) (by omega) fun w hgs hcv hacc ha hb hz hsb hsa hm => ?_
    simp [decodeMajor, decodeTile, hgs, hcv, hacc, ha, hb, hz, hsb, hsa, hm]
  all_goals cases hmaj

theorem decodes_encode_system {i : Instr} {w : Nat} (hmaj : i.major = some 8) (hwf : i.wf = true) (he : encode i = some w) :
    Decodes i w := by
  cases i
  case mfs g d sp =>
    cases he
    simp [Instr.wf, reg] at hwf
    have h1 := sp.num_lt
    refine .formI (by decide) (by simp [hwf]) (by omega) fun w hd ha _ _ himm hz _ _ => ?_
    simp [decodeMajor, decodeSystem, fieldsA, hd, ha, himm, hz]
  case mts g a ka sp =>
    cases he
    simp [Instr.wf, reg] at hwf
    have h1 := sp.num_lt
    refine .formI (by decide) (by simp [hwf]) (by omega) fun w hd ha hka hm himm _ _ _ => ?_
    simp [decodeMajor, decodeSystem, fieldsA, hd, ha, hka, hm, himm]
  case rnd g d w64 =>
    cases he
    simp [Instr.wf, reg] at hwf
    have h1 := b2n_lt w64
    refine .formA (by decide) (by simp [hwf]) (by omega) fun w hw => ?_
    simp [decodeMajor, decodeSystem, hw, bit_eq_iff]
    omega
  case rclass g d a ka cls life =>
    cases he
    simp [Instr.wf, reg] at hwf
    obtain ⟨⟨⟨⟨hg, hd⟩, ha⟩, hlife⟩, hcls⟩ := hwf
    have h1 := cls.code_lt
    have hc : LifeClass.ofCode (bits cls.code 1 0) = some cls := LifeClass.ofCode_eq_some.2 (by simp only [bits]; omega)
    refine .formI (by decide) hg (by omega) fun w hd ha hka hm himm _ _ _ => ?_
    simp [decodeMajor, decodeSystem, fieldsA, hd, ha, hka, hm, himm, hc, hlife, hcls]
    omega
  case spalloc | spfree | rtouch | rage | trace =>
    cases he
    simp [Instr.wf, reg] at hwf
    refine .formA (by decide) (by simp [hwf]) (by omega) fun w hw => ?_
    simp [decodeMajor, decodeSystem, hw]
  all_goals cases hmaj

end Sys2Proof

end

section
/-! LAWS. Which instructions have a word, and clause headers both ways (Table 2.1). -/
namespace Sys2Proof

theorem isSome_encode (i : Instr) : (encode i).isSome = i.major.isSome := by
  cases i
  case tzero g gs acc src => cases src <;> simp [encode, Instr.major]
  all_goals simp [encode, Instr.major]

theorem inCode_eq_isSome_encode (i : Instr) : Machine.inCode i = (encode i).isSome := by
  rw [isSome_encode]
  cases i <;> rfl

/-- The decoder reads a well-formed instruction back from its word. -/
theorem decodes_encode {i : Instr} {w : Nat} (hwf : i.wf = true) (he : encode i = some w) : Decodes i w := by
  match hmaj : i.major with
  | some 0 => exact decodes_encode_control hmaj hwf he
  | some 1 => exact decodes_encode_integer hmaj hwf he
  | some 2 => exact decodes_encode_float hmaj hwf he
  | some 3 => exact decodes_encode_sweep hmaj hwf he
  | some 4 => exact decodes_encode_memory hmaj hwf he
  | some 5 => exact decodes_encode_object hmaj hwf he
  | some 6 => exact decodes_encode_sync hmaj hwf he
  | some 7 => exact decodes_encode_tile hmaj hwf he
  | some 8 => exact decodes_encode_system hmaj hwf he
  | some (_ + 9) => cases i <;> cases hmaj
  | none =>
    have h := isSome_encode i
    rw [he, hmaj] at h
    cases h

theorem encodeHeader_of_decodeHeader {h : Header} {w : Nat} (hw : w < 2 ^ 64) (e : decodeHeader w = some h) :
    h.cls < 7 ∧ 1 ≤ h.count ∧ h.count ≤ 16 ∧ encodeHeader h = w := by
  simp only [decodeHeader] at e
  split at e
  · cases e
  next hc =>
    cases e
    simp at hc
    obtain ⟨⟨hcls, hz⟩, -⟩ := hc
    have hcount : bits w 59 56 < 16 := bits_lt
    have htop : bits w 63 60 * 2 ^ 60 + w % 2 ^ 60 = w := (bits_add_mod w 63 60 64).trans (Nat.mod_eq_of_lt hw)
    refine ⟨hcls, Nat.le_add_left .., hcount, ?_⟩
    have hlow : bits w 30 27 * 2 ^ 27 = w % 2 ^ 31 := by
      rw [← bits_add_mod w 30 27 31, ← bits_zero_eq_mod w 26 27, hz, Nat.add_zero]
    simp only [encodeHeader, Nat.add_sub_cancel, add_assoc, hlow, bits_add_mod w 59 56 60, b2n_bit_add_mod w 55 56, bits_add_mod w 54 43 55,
      bits_add_mod w 42 39 43, bits_add_mod w 38 35 39, bits_add_mod w 34 31 35, htop]

theorem decodeHeader_encodeHeader {h : Header} (hcls : h.cls < 7) (h1 : 1 ≤ h.count) (h16 : h.count ≤ 16) (hreps : h.reps < 4096)
    (hsd : h.sd < 16) (hsa : h.sa < 16) (hsb : h.sb < 16) (hsc : h.sc < 16)
    (hrep : h.rep = false → h.reps = 0 ∧ h.sd = 0 ∧ h.sa = 0 ∧ h.sb = 0 ∧ h.sc = 0) :
    encodeHeader h < 2 ^ 64 ∧ decodeHeader (encodeHeader h) = some h := by
  obtain ⟨cls, count, rep, reps, sd, sa, sb, sc⟩ := h
  simp only at *
  have hr := b2n_lt rep
  generalize hw : encodeHeader ⟨cls, count, rep, reps, sd, sa, sb, sc⟩ = w
  simp only [encodeHeader] at hw
  have f1 : bits w 63 60 = cls := by simp only [bits]; omega
  have f2 : bits w 59 56 + 1 = count := by simp only [bits]; omega
  have f3 : bit w 55 = rep := bit_eq_iff.2 (by omega)
  have f4 : bits w 54 43 = reps := by simp only [bits]; omega
  have f5 : bits w 42 39 = sd := by simp only [bits]; omega
  have f6 : bits w 38 35 = sa := by simp only [bits]; omega
  have f7 : bits w 34 31 = sb := by simp only [bits]; omega
  have f8 : bits w 30 27 = sc := by simp only [bits]; omega
  have f9 : bits w 26 0 = 0 := by simp only [bits]; omega
  refine ⟨by omega, ?_⟩
  simp only [decodeHeader, f1, f2, f3, f4, f5, f6, f7, f8, f9]
  rw [if_neg]
  simpa [and_assoc] using ⟨hcls, hrep⟩

end Sys2Proof

end

section
/-! LAWS. The obligation on decoding and encoding. -/
namespace Sys2Proof.Machine

/-- Settles O56: `decodes_encode` one way, `decodeWord_spells` the other, and the same for headers. -/
theorem decodeEncode : Obligations.DecodeEncode := by
  refine ⟨fun i _ => ?_, fun _ _ => decodes_encode, fun i w hw => decodeWord_spells hw i, fun _ _ => encodeHeader_of_decodeHeader,
    fun _ => decodeHeader_encodeHeader⟩
  rw [inCode_eq_isSome_encode, Option.isSome_iff_exists]

end Sys2Proof.Machine

end

section
/-! LAWS. The words of the spec's examples (02_instruction_word, Table 2.20 and the chapters of the families). -/

namespace Sys2Proof

/-- Settles O57: each word is closed, so the decoder evaluates it. -/
theorem decodeWords : Obligations.DecodeWords := by
  unfold Obligations.DecodeWords
  decide

end Sys2Proof

end

section
/-! LAWS. Where a thread goes on (R30, R32, R34). -/

namespace Sys2Proof.Machine

open Sys2Proof

/-- A thread reads as updated. -/
theorem State.find_updThread_self {s : State} {t : Nat} {th : Thread} (h : s.threads.find t = some th) (f : Thread → Thread) :
    (s.updThread t f).threads.find t = some (f th) := by
  simp [h]

/-- A thread that leaves its issue group differs in being in none. -/
theorem State.find_leaveGroup_self {s : State} {t : Nat} {th : Thread} (h : s.threads.find t = some th) :
    (s.leaveGroup t).threads.find t = some { th with group := none } := by
  unfold State.leaveGroup
  simp only [h]
  cases hg : th.group with
  | none => exact h.trans (by rw [← hg])
  | some sl =>
    simp only []
    cases (State.core _ _).groups.find sl with
    | none => exact State.find_updThread_self h _
    | some g => exact State.find_updThread_self h _

/-- A thread that ends its clause stands at `pc`, in no clause and no issue group. -/
theorem State.find_endClauseAt_self {s : State} {t : Nat} {th : Thread} (h : s.threads.find t = some th) (pc : Nat) :
    (s.endClauseAt t pc).threads.find t = some { th.endRpt with pc := pc, clause := none, res := .start, group := none } :=
  State.find_leaveGroup_self (State.find_updThread_self h _)

/-- The end of a clause changes at most `rpt` (R34, R36). -/
theorem Thread.endRpt_of_clause {th : Thread} {c : Clause} (h : th.clause = some c) :
    th.endRpt = if c.rep = true then { th with rptAct := false, rptRep := 0, rptInst := 0 } else th := by
  simp only [Thread.endRpt, h]

section
variable {s : State} {t : Nat} {th : Thread} {c : Clause} (h : s.threads.find t = some th) (hc : th.clause = some c)
include h hc

/-- R32: inside a body the thread goes on at the next word. -/
theorem State.advance_inside (hi : c.index th.pc + 1 < c.count) :
    s.advance t = s.updThread t fun x => { x with pc := x.pc + 8, rptInst := if c.rep then c.index th.pc + 1 else x.rptInst } := by
  simp only [State.advance, h, hc, if_pos hi]

/-- R34: at the end of a body with repetitions left the thread goes on at the body's first word. -/
theorem State.advance_repeats (hi : c.count ≤ c.index th.pc + 1) (hr : c.rep = true) (hn : th.rptRep + 1 < c.reps) :
    s.advance t = s.updThread t fun x => { x with pc := c.addr + 8, rptInst := 0, rptRep := x.rptRep + 1 } := by
  simp only [State.advance, h, hc, if_neg (Nat.not_lt.2 hi), hr, hn, decide_true, Bool.and_true, if_true]

/-- R30: at the end of a clause the thread goes on at the header after it. -/
theorem State.advance_ends (hi : c.count ≤ c.index th.pc + 1) (hr : c.rep = false ∨ c.reps ≤ th.rptRep + 1) :
    s.advance t = s.endClauseAt t c.next := by
  have hn : ¬ ((c.rep && decide (th.rptRep + 1 < c.reps)) = true) := by
    simp only [Bool.and_eq_true, decide_eq_true_eq, not_and_or, Bool.not_eq_true, Nat.not_lt]
    exact hr
  simp only [State.advance, h, hc, if_neg (Nat.not_lt.2 hi), if_neg hn]

end

/-- Settles O11: the three places a thread can go on at are the three branches of `State.advance`, told apart by the index of the
instruction in its body and the repetitions left. -/
theorem executionOrder : Obligations.ExecutionOrder := by
  unfold Obligations.ExecutionOrder
  intro s t th c h hc i
  by_cases hi : i + 1 < c.count
  · rw [State.advance_inside h hc hi]
    refine ⟨_, State.find_updThread_self h _, rfl, rfl, fun _ => ⟨rfl, hc, rfl, rfl⟩, ?_, ?_⟩
    · intro hi'; omega
    · intro hi'; omega
  have hi' : c.count ≤ i + 1 := Nat.not_lt.1 hi
  by_cases hr : c.rep = true ∧ th.rptRep + 1 < c.reps
  · obtain ⟨hrep, hn⟩ := hr
    rw [State.advance_repeats h hc hi' hrep hn]
    refine ⟨_, State.find_updThread_self h _, rfl, rfl, fun hlt => absurd hlt hi, fun _ _ _ => ⟨rfl, hc, rfl, rfl⟩, ?_⟩
    rintro - (hr | hr)
    · simp [hrep] at hr
    · omega
  · have hr' : c.rep = false ∨ c.reps ≤ th.rptRep + 1 := by
      rwa [not_and_or, Bool.not_eq_true, Nat.not_lt] at hr
    rw [State.advance_ends h hc hi' hr']
    obtain ⟨hpreds, hcdep⟩ : th.endRpt.preds = th.preds ∧ th.endRpt.cdep = th.cdep := by
      rw [Thread.endRpt_of_clause hc]; split <;> exact ⟨rfl, rfl⟩
    refine ⟨_, State.find_endClauseAt_self h _, hpreds, hcdep, fun hlt => absurd hlt hi, fun _ hrep hn => absurd ⟨hrep, hn⟩ hr,
      fun _ _ => ⟨rfl, rfl, rfl, rfl, fun hrep => ?_⟩⟩
    rw [Thread.endRpt_of_clause hc, if_pos hrep]
    exact ⟨rfl, rfl, rfl⟩

end Sys2Proof.Machine

end

section
/-! LAWS. The checks of an instruction's register fields (R33, R43, R180), and what the prologue does when one fails or the guard is
false. -/

namespace Sys2Proof.Machine

open Sys2Proof

/-! ## One field after another -/

/-- The check of one field. -/
def Field.check (n : Nat) (f : Field) : Option (Cause × Nat) := checkFields n [f]

/-- Fields are checked one after another: the first that fails decides. -/
theorem checkFields_cons (n : Nat) (f : Field) (fs : List Field) : checkFields n (f :: fs) = (f.check n).or (checkFields n fs) := by
  cases f with
  | r i => simp only [Field.check, checkFields]; split <;> rfl
  | even i =>
    simp only [Field.check, checkFields]
    split
    · rfl
    · split
      · rfl
      · split <;> rfl
  | quad i =>
    simp only [Field.check, checkFields]
    split
    · rfl
    · split
      · rfl
      · split <;> rfl
  | range i k => simp only [Field.check, checkFields]; split <;> rfl

theorem checkFields_append (n : Nat) (pre post : List Field) :
    checkFields n (pre ++ post) = (checkFields n pre).or (checkFields n post) := by
  induction pre with
  | nil => rfl
  | cons f pre ih => rw [List.cons_append, checkFields_cons, ih, checkFields_cons, Option.or_assoc]

/-- After fields that are good, a field that fails decides. -/
theorem checkFields_of_bad {n : Nat} {pre post : List Field} {f : Field} {e : Cause × Nat} (hp : checkFields n pre = none)
    (hf : f.check n = some e) : checkFields n (pre ++ f :: post) = some e := by
  rw [checkFields_append, hp, Option.none_or, checkFields_cons, hf, Option.some_or]

/-- After fields that are good, a good field leaves the decision to those after it. -/
theorem checkFields_of_good {n : Nat} {pre post : List Field} {f : Field} (hp : checkFields n pre = none) (hf : f.check n = none) :
    checkFields n (pre ++ f :: post) = checkFields n post := by
  rw [checkFields_append, hp, Option.none_or, checkFields_cons, hf, Option.none_or]

/-! ## One field, in an allotment of at most 511 registers (R127) -/

section
variable {n : Nat} (hn : n ≤ 511) (i : Nat)
include hn

/-- Registers above 511 are above the allotment. -/
theorem lt_or_511_lt_iff : (decide (n < i) || decide (511 < i)) = true ↔ n < i := by
  simp only [Bool.or_eq_true, decide_eq_true_eq]
  omega

theorem Field.check_r : (Field.r i).check n = if n < i then some (.regbound, i) else none := by
  simp only [Field.check, checkFields, lt_or_511_lt_iff hn]

theorem Field.check_even : (Field.even i).check n =
    if n < i then some (.regbound, i) else if i % 2 = 1 then some (.illegal, i) else if n < i + 1 then some (.regbound, i + 1)
    else none := by
  simp only [Field.check, checkFields, lt_or_511_lt_iff hn, beq_iff_eq]

theorem Field.check_quad : (Field.quad i).check n =
    if n < i then some (.regbound, i) else if i % 4 ≠ 0 then some (.illegal, i) else if n < i + 3 then some (.regbound, n + 1)
    else none := by
  simp only [Field.check, checkFields, lt_or_511_lt_iff hn, bne_iff_ne, Nat.min_eq_left hn]

theorem Field.check_range (k : Nat) : (Field.range i k).check n =
    if n < i + (k - 1) then some (.regbound, max i (n + 1)) else none := by
  simp only [Field.check, checkFields, Nat.min_eq_left hn]

end

/-! ## The check of a list of fields -/

section
variable {n i : Nat} {pre : List Field} (hn : n ≤ 511) (hp : checkFields n pre = none)
include hn hp

/-- A field above the allotment, of whichever kind. -/
theorem checkFields_above (hi : n < i) (k : Nat) (post : List Field) :
    checkFields n (pre ++ .r i :: post) = some (.regbound, i) ∧ checkFields n (pre ++ .even i :: post) = some (.regbound, i) ∧
      checkFields n (pre ++ .quad i :: post) = some (.regbound, i) ∧ checkFields n (pre ++ .range i k :: post) = some (.regbound, i) := by
  refine ⟨checkFields_of_bad hp ?_, checkFields_of_bad hp ?_, checkFields_of_bad hp ?_, checkFields_of_bad hp ?_⟩
  · rw [Field.check_r hn, if_pos hi]
  · rw [Field.check_even hn, if_pos hi]
  · rw [Field.check_quad hn, if_pos hi]
  · rw [Field.check_range hn, if_pos (Nat.lt_add_right _ hi), Nat.max_eq_left hi]

/-- A pair whose first register is in the allotment. -/
theorem checkFields_even (hi : i ≤ n) (post : List Field) :
    (i % 2 = 1 → checkFields n (pre ++ .even i :: post) = some (.illegal, i)) ∧
    (i % 2 = 0 → i = n → checkFields n (pre ++ .even i :: post) = some (.regbound, i + 1)) ∧
    (i % 2 = 0 → i < n → checkFields n (pre ++ .even i :: post) = checkFields n post) := by
  refine ⟨fun hodd => checkFields_of_bad hp ?_, fun heven hlast => checkFields_of_bad hp ?_, fun heven hlt => checkFields_of_good hp ?_⟩
  · rw [Field.check_even hn, if_neg (by omega), if_pos hodd]
  · rw [Field.check_even hn, if_neg (by omega), if_neg (by omega), if_pos (by omega)]
  · rw [Field.check_even hn, if_neg (by omega), if_neg (by omega), if_neg (by omega)]

/-- Four registers of which the first is in the allotment. -/
theorem checkFields_quad (hi : i ≤ n) (post : List Field) :
    (i % 4 ≠ 0 → checkFields n (pre ++ .quad i :: post) = some (.illegal, i)) ∧
    (i % 4 = 0 → n < i + 3 → checkFields n (pre ++ .quad i :: post) = some (.regbound, n + 1)) ∧
    (i % 4 = 0 → i + 3 ≤ n → checkFields n (pre ++ .quad i :: post) = checkFields n post) := by
  refine ⟨fun hodd => checkFields_of_bad hp ?_, fun hfour hlast => checkFields_of_bad hp ?_, fun hfour hle => checkFields_of_good hp ?_⟩
  · rw [Field.check_quad hn, if_neg (by omega), if_pos hodd]
  · rw [Field.check_quad hn, if_neg (by omega), if_neg (by omega), if_pos hlast]
  · rw [Field.check_quad hn, if_neg (by omega), if_neg (by omega), if_neg (by omega)]

/-- A range whose first register is in the allotment. -/
theorem checkFields_range (hi : i ≤ n) (k : Nat) (post : List Field) :
    (n < i + (k - 1) → checkFields n (pre ++ .range i k :: post) = some (.regbound, n + 1)) ∧
    (i + (k - 1) ≤ n → checkFields n (pre ++ .range i k :: post) = checkFields n post) := by
  refine ⟨fun hlast => checkFields_of_bad hp ?_, fun hle => checkFields_of_good hp ?_⟩
  · rw [Field.check_range hn, if_pos hlast, Nat.max_eq_right (by omega)]
  · rw [Field.check_range hn, if_neg (by omega)]

end

/-! ## The prologue where the body does not run -/

/-- A failing field traps, whatever the guard and the body. -/
theorem issueWith_bad_field {s : State} {c : Cur} {th : Thread} {g : Gang} {fs : List Field} {x : Cause} {v : Nat} (hc : s.cur = some c)
    (ht : s.threads.find c.t = some th) (hg : s.gangs.find (gidOf c.t) = some g) (hf : checkFields g.nregs fs = some (x, v)) (gd : Guard)
    (o : OnFalse) (ex : List Nat) (body : Bool → M Flow) : issueWith fs gd o ex body s = .error (.trap x v) s := by
  simp only [issueWith, bind_run, curT_run hc, thread_run hc ht, gang_run hc hg, get_run, hf, trap, throw_run]

/-- With good fields and a false guard, an instruction that gives it no meaning of its own only goes on. -/
theorem issueWith_false_guard {s : State} {c : Cur} {th : Thread} {g : Gang} {fs : List Field} {gd : Guard} (hc : s.cur = some c)
    (ht : s.threads.find c.t = some th) (hg : s.gangs.find (gidOf c.t) = some g) (hf : checkFields g.nregs fs = none)
    (hgd : guardHolds th gd = false) (ex : List Nat) (body : Bool → M Flow) :
    issueWith fs gd .skip ex body s = .ok .seq s ∧ issueWith fs gd .endClause ex body s = .ok .endClause s := by
  constructor
  · simp [issueWith, bind_run, curT_run hc, thread_run hc ht, gang_run hc hg, hf, hgd, pure_run]
  · simp [issueWith, bind_run, curT_run hc, thread_run hc ht, gang_run hc hg, hf, hgd, pure_run]

/-- An instruction that raises a trap takes it. -/
theorem runWith_trap {s : State} {c : Cur} (hc : s.cur = some c) {m : M Flow} {x : Cause} {v : Nat} (h : m s = .error (.trap x v) s)
    (swp : Bool) (srcs data : List Nat) (dests : List Dest) : runWith swp srcs data dests m s = .next (s.takeTrap c.t x v) := by
  simp only [runWith, hc, h, stopped]

/-- The thread whose instruction commits reads as committed. -/
theorem State.find_commit_self {s : State} {t : Nat} {th : Thread} (h : s.threads.find t = some th) :
    (s.commit t).threads.find t = some th.committed := by
  obtain ⟨m, q, x, o, e, ks, hs, -⟩ := s.commit_shape t
  simp [hs, h]

/-- Completion that ends the clause (R30, R41). -/
theorem State.retire_endClause {s : State} {t : Nat} {th : Thread} (h : s.threads.find t = some th) :
    s.retire t .endClause = s.ended t th := by
  simp only [State.retire, State.find_commit_self h]
  rfl

section
variable {s : State} {c : Cur} {th : Thread} {g : Gang} {fs : List Field} (hc : s.cur = some c) (ht : s.threads.find c.t = some th)
  (hg : s.gangs.find (gidOf c.t) = some g)
include hc ht hg

/-- A failing field traps in every form of code instruction. -/
theorem code_bad_field {x : Cause} {v : Nat} (hf : checkFields g.nregs fs = some (x, v)) (gd : Guard) (ex data : List Nat)
    (ds : List Dest) (body : M Flow) (body' : Bool → M Flow) :
    let r : Host.Outcome State Fault Refusal := .next (s.takeTrap c.t x v)
    code fs gd ds body s = r ∧ codeStore fs data gd body s = r ∧ codeX fs ex gd ds body s = r ∧ codeSwp fs ex gd ds body s = r ∧
      codeEnd fs gd ds body s = r ∧ codeAny fs ex gd ds body' s = r := by
  have hi := issueWith_bad_field hc ht hg hf gd
  exact ⟨runWith_trap hc (hi ..) .., runWith_trap hc (hi ..) .., runWith_trap hc (hi ..) .., runWith_trap hc (hi ..) ..,
    runWith_trap hc (hi ..) .., runWith_trap hc (hi ..) ..⟩

/-- A false guard skips, in every form of code instruction that gives it no other meaning; it ends the clause in a clause-ending one. -/
theorem code_false_guard {gd : Guard} (hf : checkFields g.nregs fs = none) (hgd : guardHolds th gd = false) (ex data : List Nat)
    (ds : List Dest) (body : M Flow) :
    let r : Host.Outcome State Fault Refusal := .next (s.done c.t)
    code fs gd ds body s = r ∧ codeStore fs data gd body s = r ∧ codeX fs ex gd ds body s = r ∧ codeSwp fs ex gd ds body s = r ∧
      codeEnd fs gd ds body s = .next (s.ended c.t th) := by
  have hi := fun ex body => issueWith_false_guard hc ht hg hf hgd ex body
  refine ⟨runWith_next hc (hi ..).1, runWith_next hc (hi ..).1, runWith_next hc (hi ..).1, runWith_next hc (hi ..).1, ?_⟩
  rw [← State.retire_endClause ht]
  exact runWith_next hc (hi ..).2

end

/-! ## The statement -/

/-- Settles O14: fields by `checkFields_append` and one lemma for each kind of field, the prologue by `code_bad_field` and
`code_false_guard`, and the named instructions by their field lists. -/
theorem fieldsBeforeGuard : Obligations.FieldsBeforeGuard := by
  unfold Obligations.FieldsBeforeGuard
  refine ⟨?fields, ?prologue, ?named⟩
  case fields =>
    intro n i k pre post hn
    refine ⟨fun e he => ?_, rfl, fun hp => ⟨fun hi => checkFields_above hn hp hi k post, fun hi => ?_⟩⟩
    · rw [checkFields_append, he, Option.some_or]
    · obtain ⟨evenOdd, evenLast, evenIn⟩ := checkFields_even hn hp hi post
      obtain ⟨quadOdd, quadLast, quadIn⟩ := checkFields_quad hn hp hi post
      obtain ⟨rangeLast, rangeIn⟩ := checkFields_range hn hp hi k post
      have hr : (Field.r i).check n = none := by rw [Field.check_r hn, if_neg (Nat.not_lt.2 hi)]
      exact ⟨checkFields_of_good hp hr, evenOdd, evenLast, evenIn, quadOdd, quadLast, quadIn, rangeLast, rangeIn⟩
  case prologue =>
    intro s c th g gd fs ex data ds body body' hc ht hg
    exact ⟨fun x v hf => code_bad_field hc ht hg hf gd ex data ds body body',
      fun hf hgd => code_false_guard hc ht hg hf hgd ex data ds body⟩
  case named =>
    rintro s cu g gd d a b c k sg sat sub x v hc ⟨th, ht⟩ hg r
    have bad : ∀ {fs}, checkFields g.nregs fs = some (x, v) → ∀ ds body, code fs gd ds body s = r := fun hf ds body =>
      (code_bad_field hc ht hg hf gd [] [] ds body fun _ => body).1
    exact ⟨fun hf => bad hf _ _, fun hf => bad hf _ _, fun hf => bad hf _ _, fun hf => bad hf _ _⟩

end Sys2Proof.Machine

end

section
/-! LAWS. What one step of the machine does: the head of its agenda, or its own move (R29, R42, R119, R265, log entry 3). -/

namespace Sys2Proof.Machine

open Sys2Proof

/-! ## The agenda -/

/-- With a move at the head of its agenda a machine that is on makes it. -/
theorem step_of_head {s : State} {a : Agenda} {rest : List Agenda} (hoff : s.off = false) (h : s.agenda = a :: rest) :
    step s = { s with agenda := rest }.move exec a := by
  simp only [step, State.stepWith, h, hoff, Bool.false_and, Bool.false_eq_true, if_false]

/-- With an empty agenda it makes its own move. -/
theorem step_of_empty {s : State} (hoff : s.off = false) (h : s.agenda = []) : step s = s.move exec s.ownMove := by
  simp only [step, State.stepWith, h, hoff, Bool.false_eq_true, if_false]

theorem State.ownMove_of_refill {s : State} {id : Nat} (h : s.cdDue = some id) : s.ownMove = .event (.conduitRefill id) := by
  simp only [State.ownMove, h]

theorem State.ownMove_of_busy {s : State} {core slot : Nat} (hcd : s.cdDue = none) (h : s.busySlot = some (core, slot)) :
    s.ownMove = .issue core slot := by
  simp only [State.ownMove, hcd, h]

/-! ## An issue -/

/-- The group after its next member has been taken for an issue, of number `no` if it begins a new instruction. -/
def Group.taken (g : Group) (ts : List Nat) (no : Nat) : Group :=
  if g.todo == [] then { g with todo := ts, hit := [], no := no } else { g with todo := ts }

/-- The machine after `slot` has taken its group's next member. -/
def State.noteIssue (s : State) (core slot : Nat) (g : Group) (ts : List Nat) : State :=
  let new : Bool := g.todo == []
  { s with issueNo := if new then s.issueNo + 1 else s.issueNo }.updCore core fun k =>
    { k with groups := k.groups.put slot (g.taken ts s.issueNo),
             genIssues := if slot < 4 && new then satAdd k.genIssues 1 32 else k.genIssues,
             accIssues := if slot == 4 && new then satAdd k.accIssues 1 32 else k.accIssues }

/-- R265: a slot issues for the next member of its group. -/
theorem State.issue_of_next {s : State} {core slot t : Nat} {ts : List Nat} {g : Group} (hg : (s.core core).groups.find slot = some g)
    (ht : g.todo = t :: ts ∨ g.todo = [] ∧ g.members = t :: ts) (ex : Instr → State → Host.Outcome State Fault Refusal) :
    s.issue ex core slot = (s.noteIssue core slot g ts).issueThread ex core slot t := by
  rcases ht with h | ⟨h, hm⟩
  · simp [State.issue, State.noteIssue, Group.taken, hg, h]
  · simp [State.issue, State.noteIssue, Group.taken, hg, h, hm]

/-! ## The fetch -/

section
variable {s s' : State} {cu : Cur} {th : Thread} {c : Clause} {w : Nat} (hc : s.cur = some cu) (ht : s.threads.find cu.t = some th)
  (hcl : th.clause = some c) (hb : execBrk th.pc s = .ok ⟨⟩ s) (hw : fetchWord th.pc s = .ok (w, false) s')
include hc ht hcl hb hw

/-- R29: a word that decodes and is admitted in the clause, which it ends only where it may, is what the thread issues. -/
theorem fetchInstr_of_decode {i : Instr} (hd : decodeWord w = .ok i) (ha : (admitted (w / 2 ^ 52)).contains c.cls = true)
    (he : endsClause i = true → c.rep = false ∧ c.index th.pc + 1 = c.count) :
    fetchInstr s = .ok (if c.rep then strided c.header th.rptRep i else i) s' := by
  have hend : (endsClause i && (c.rep || c.index th.pc + 1 != c.count)) = false := by
    cases h : endsClause i with
    | false => rfl
    | true => obtain ⟨hrep, hlast⟩ := he h; simp [hrep, hlast]
  simp only [fetchInstr, bind_run, thread_run hc ht, hcl, hb, hw, Bool.false_eq_true, if_false, hd, ha, Bool.not_true, hend, pure_run]

/-- R42: a word that does not decode raises ILLEGAL. -/
theorem fetchInstr_of_undecoded {e : DecodeError} (hd : decodeWord w = .error e) :
    fetchInstr s = .error (.trap .illegal th.pc) s' := by
  simp only [fetchInstr, bind_run, thread_run hc ht, hcl, hb, hw, Bool.false_eq_true, if_false, hd, trap, throw_run]

end

/-! ## After an issue -/

theorem State.stopsHere_of_no_pend {s : State} (h : ∀ b, (s.ctx b).pend = none) (t : Nat) (again : Bool) : s.stopsHere t again = false := by
  simp only [State.stopsHere]
  cases s.gangs.find (gidOf t) with
  | none => rfl
  | some g =>
    cases s.threads.find t with
    | none => rfl
    | some th => simp only [h]; rfl

theorem State.finishStop_of_no_pend {s : State} {c : Nat} (h : (s.ctx c).pend = none) : s.finishStop c = s := by
  simp only [State.finishStop, h]

/-- R410: where no context is about to stop, an issue only clears the issuing thread. -/
theorem State.afterIssue_of_no_pend {s : State} (h : ∀ b, (s.ctx b).pend = none) (c core slot t : Nat) :
    s.afterIssue c core slot t = { s with cur := none } := by
  have h' : ∀ b, (State.ctx { s with cur := none } b).pend = none := h
  simp only [State.afterIssue, State.stopsHere_of_no_pend h', Bool.false_eq_true, if_false, State.finishStop_of_no_pend (h' c)]

/-- The step of a slot whose thread's next instruction is `i`. -/
theorem State.issueThread_of_fetch {s s' : State} {core slot t : Nat} {i : Instr}
    (h : fetchInstr { s with cur := some ⟨core, slot, t⟩ } = .ok i s')
    (ex : Instr → State → Host.Outcome State Fault Refusal) :
    s.issueThread ex core slot t = match ex i s' with
      | .next T => .next (T.afterIssue (s.ctxOf t) core slot t)
      | .fault f => .fault f
      | .refused r => .refused r := by
  cases hr : ex i s' with
  | next T => simp only [State.issueThread, h, hr]
  | fault f => simp only [State.issueThread, h, hr]
  | refused r => simp only [State.issueThread, h, hr]

/-! ## The statement -/

/-- Settles O58: the head of the agenda by `step_of_head`, an issue by `State.issue_of_next` and the two lemmas of the fetch. -/
theorem stepRunsDecoded : Obligations.StepRunsDecoded := by
  unfold Obligations.StepRunsDecoded
  intro s core slot t ts rest g i hoff
  refine ⟨?event, ?busy, ?refill, ?issue, ?after⟩
  case event =>
    intro h
    exact step_of_head hoff h
  case busy =>
    intro h hcd hb
    have hs : { s with agenda := [] } = s := by rw [← h]
    calc step s = s.move exec (.issue core slot) := by rw [step_of_empty hoff h, State.ownMove_of_busy hcd hb]
      _ = { s with agenda := [] }.move exec (.issue core slot) := by rw [hs]
      _ = step { s with agenda := [.issue core slot] } := (step_of_head (s := { s with agenda := [.issue core slot] }) hoff rfl).symm
  case refill =>
    intro h id hcd
    rw [step_of_empty hoff h, State.ownMove_of_refill hcd]
    rfl
  case issue =>
    intro h hg hnext new g' X th c w S ht hcl hb hw
    have hc : X.cur = some ⟨core, slot, t⟩ := rfl
    have hg' : (State.core { s with agenda := rest } core).groups.find slot = some g := hg
    have hX : X.threads.find t = some th := ht
    refine ⟨fun hd ha he => ?_, fun e hd => fetchInstr_of_undecoded hc hX hcl hb hw hd⟩
    have hf := fetchInstr_of_decode hc hX hcl hb hw hd ha he
    calc step s = { s with agenda := rest }.issue exec core slot := step_of_head hoff h
      _ = ({ s with agenda := rest }.noteIssue core slot g ts).issueThread exec core slot t := State.issue_of_next hg' hnext exec
      _ = _ := State.issueThread_of_fetch hf exec
  case after =>
    intro c h
    exact State.afterIssue_of_no_pend h c core slot t

end Sys2Proof.Machine

end

section
/-! LAWS. A sum of floating-point terms does not depend on their order, a product on that of its factors (R70, R71, R208). -/

namespace Sys2Proof.Machine

/-! ## The exact sum of terms -/

/-- The signed multiple of `2 ^ e` that a term of exponent `e` or above stands for. -/
def termAt (e : Int) (t : Bool × Nat × Int) : Int :=
  if t.1 then -((t.2.1 * 2 ^ (t.2.2 - e).toNat : Nat) : Int) else ((t.2.1 * 2 ^ (t.2.2 - e).toNat : Nat) : Int)

theorem le_foldl_min {c a : Int} {ts : List (Bool × Nat × Int)} :
    c ≤ ts.foldl (fun a t => min a t.2.2) a ↔ c ≤ a ∧ ∀ t ∈ ts, c ≤ t.2.2 := by
  induction ts generalizing a with
  | nil => simp
  | cons t ts ih => simp [ih, and_assoc]

/-- The exponent at which terms are summed is the least one among them. -/
theorem le_sumTerms_exp {c : Int} {ts : List (Bool × Nat × Int)} (h : ts ≠ []) : c ≤ (sumTerms ts).2 ↔ ∀ t ∈ ts, c ≤ t.2.2 := by
  obtain ⟨t, ts, rfl⟩ := List.exists_cons_of_ne_nil h
  exact le_foldl_min.trans ⟨fun h => h.2, fun h => ⟨h t (List.mem_cons_self ..), h⟩⟩

theorem sumTerms_val (ts : List (Bool × Nat × Int)) : (sumTerms ts).1 = (ts.map (termAt (sumTerms ts).2)).sum := by
  rw [List.sum_eq_foldl, List.foldl_map]
  refine congrArg (fun g => ts.foldl g 0) (funext₂ fun a t => ?_)
  cases ht : t.1
  · simp [termAt, ht, sumTerms]
  · simp [termAt, ht, sumTerms, Int.sub_eq_add_neg]

theorem sumTerms_perm {ts us : List (Bool × Nat × Int)} (h : ts.Perm us) : sumTerms ts = sumTerms us := by
  rcases eq_or_ne ts [] with rfl | hts
  · rw [h.nil_eq]
  have hus : us ≠ [] := fun hus => hts (h.trans (.of_eq hus)).eq_nil
  have hexp : (sumTerms ts).2 = (sumTerms us).2 :=
    eq_of_forall_le_iff fun c => by simp only [le_sumTerms_exp hts, le_sumTerms_exp hus, h.mem_iff]
  refine Prod.ext ?_ hexp
  rw [sumTerms_val, sumTerms_val, hexp]
  exact (h.map _).sum_eq

/-! ## The rounded sum -/

theorem zeroSign_perm (mode : Mode) {ts us : List (Bool × Nat × Int)} (h : ts.Perm us) : zeroSign mode ts = zeroSign mode us := by
  simp only [zeroSign, h.all_eq]

theorem roundSum_perm (f : Fmt) (mode : Mode) (ftz : Bool) {ts us : List (Bool × Nat × Int)} (h : ts.Perm us) :
    roundSum f mode ftz ts = roundSum f mode ftz us := by
  simp only [roundSum, sumTerms_perm h, zeroSign_perm mode h]

/-- The term that a finite value is. -/
def FP.term? : FP → Option (Bool × Nat × Int)
  | .fin n m e => some (n, m, e)
  | _ => none

theorem finTerms_eq_filterMap (xs : List FP) : finTerms xs = xs.filterMap FP.term? := by
  induction xs with
  | nil => rfl
  | cons x xs ih => cases x <;> simp [finTerms, FP.term?, List.filterMap_cons, ih]

theorem finTerms_perm {xs ys : List FP} (h : xs.Perm ys) : (finTerms xs).Perm (finTerms ys) := by
  simpa only [finTerms_eq_filterMap] using h.filterMap _

/-- R73: an exact sum rounded once depends neither on the order of its operands nor on that of its terms. -/
theorem fsum_perm (f : Fmt) (mode : Mode) (ftz : Bool) {ins ins' : List FP} {terms terms' : List (Option FP)}
    (hi : ins.Perm ins') (ht : terms.Perm terms') : fsum f mode ftz ins terms = fsum f mode ftz ins' terms' := by
  have hx : (terms.filterMap id).Perm (terms'.filterMap id) := ht.filterMap id
  simp only [fsum, hi.any_eq, ht.any_eq, hx.any_eq, roundSum_perm f mode ftz (finTerms_perm hx)]

/-! ## Products -/

/-- R70, R71: a product takes its factors in either order. -/
theorem mulFP_comm : ∀ x y : FP, mulFP x y = mulFP y x
  | .nan s, .nan t => congrArg (fun b => some (FP.nan b)) (Bool.or_comm s t)
  | .nan _, .inf _ | .nan _, .fin .. | .inf _, .nan _ | .fin .., .nan _ => rfl
  | .inf a, .inf b => congrArg (fun n => some (FP.inf n)) bne_comm
  | .inf a, .fin b m _ | .fin a m _, .inf b => by simp only [mulFP, bne_comm]
  | .fin a m e, .fin b n g => by simp only [mulFP, bne_comm, Nat.mul_comm, Int.add_comm]

/-- A product with a NaN is a NaN. -/
theorem mulFP_nan {x : FP} (y : FP) (h : x.isNan = true) : ∃ s, mulFP x y = some (.nan s) := by
  cases x with
  | nan s => cases y <;> exact ⟨_, rfl⟩
  | inf n => cases h
  | fin n m e => cases h

/-! ## NaN operands -/

/-- R71: with a NaN among its terms and no infinity times zero, a sum is the canonical NaN, invalid exactly when an operand signals. -/
theorem fsum_nan (f : Fmt) (mode : Mode) (ftz : Bool) (ins : List FP) {xs : List FP} (h : xs.any FP.isNan = true) :
    fsum f mode ftz ins (xs.map some) = (f.nan, if ins.any FP.isSnan then fInvalid else 0) := by
  have hbad : (xs.map some).any (· == none) = false := by simp
  have hts : (xs.map some).filterMap id = xs := by simp
  simp only [fsum, hbad, hts, h, Bool.or_false, if_true]
  cases ins.any FP.isSnan <;> rfl

/-! ## FADD and FMUL -/

theorem fadd_comm (f : Fmt) (mode : Mode) (ftz : Bool) (x y : Nat) : fadd f mode ftz x y = fadd f mode ftz y x :=
  fsum_perm f mode ftz (.swap ..) (.swap ..)

theorem fmul_comm (f : Fmt) (mode : Mode) (ftz : Bool) (x y : Nat) : fmul f mode ftz x y = fmul f mode ftz y x := by
  simp only [fmul]
  rw [mulFP_comm]
  exact fsum_perm f mode ftz (.swap ..) (.refl _)

theorem fadd_nan (f : Fmt) (mode : Mode) (ftz : Bool) (x y : Nat) (h : (f.decode (f.flush ftz x)).isNan = true) :
    fadd f mode ftz x y =
      (f.nan, if (f.decode (f.flush ftz x)).isSnan || (f.decode (f.flush ftz y)).isSnan then fInvalid else 0) := by
  have hsum := fsum_nan f mode ftz [f.decode (f.flush ftz x), f.decode (f.flush ftz y)]
    (xs := [f.decode (f.flush ftz x), f.decode (f.flush ftz y)]) (by simp [h])
  simpa [fadd] using hsum

theorem fmul_nan (f : Fmt) (mode : Mode) (ftz : Bool) (x y : Nat) (h : (f.decode (f.flush ftz x)).isNan = true) :
    fmul f mode ftz x y =
      (f.nan, if (f.decode (f.flush ftz x)).isSnan || (f.decode (f.flush ftz y)).isSnan then fInvalid else 0) := by
  obtain ⟨s, hs⟩ := mulFP_nan (f.decode (f.flush ftz y)) h
  have hsum := fsum_nan f mode ftz [f.decode (f.flush ftz x), f.decode (f.flush ftz y)] (xs := [.nan s]) rfl
  simpa [fmul, hs] using hsum

/-- Settles O8: `fsum_perm` and `mulFP_comm` for the exchange, `fsum_nan` for the NaNs. -/
theorem floatCommutes : Obligations.FloatCommutes := by
  unfold Obligations.FloatCommutes
  intro f md ftz x y
  refine ⟨fadd_comm f md ftz x y, fmul_comm f md ftz x y, fun hnan => ?_⟩
  rw [fadd_nan f md ftz x y hnan, fmul_nan f md ftz x y hnan]
  exact ⟨rfl, rfl, rfl, rfl⟩

end Sys2Proof.Machine

end

section
/-! LAWS. The residue accumulator: reconstruction of an integer in range, and addition in every channel (R58 to R63, R336). -/

namespace Sys2Proof.Machine

/-! ## Residues -/

theorem imod_cast (x : Int) {m : Nat} (h : 0 < m) : (imod x m : Int) = x % m :=
  Int.toNat_of_nonneg (Int.emod_nonneg x (by omega))

theorem imod_lt (x : Int) {m : Nat} (h : 0 < m) : imod x m < m := by
  have := Int.emod_lt_of_pos x (Int.natCast_pos.mpr h)
  have := imod_cast x h
  omega

/-- A residue may stand for its integer in a sum. -/
theorem imod_add_imod (x y : Int) {m : Nat} (h : 0 < m) : imod (imod x m + y) m = imod (x + y) m := by
  rw [imod, imod_cast x h, Int.emod_add_emod]; rfl

theorem m1_pos : 0 < m1 := by decide
theorem m2_pos : 0 < m2 := by decide
theorem m3_pos : 0 < m3 := by decide

/-! ## Reconstruction -/

/-- R63: the mixed-radix digits that reconstruction takes from the residues are those of the integer itself. Modulo `m2`, `m1` is -1;
modulo `m3`, `m1` is -2 and `m2` is -1, so the inverses of R63 leave just the next digit. -/
theorem mixedRadix_digits {y : Int} (h0 : 0 ≤ y) (h1 : y < mAll) :
    ((y % m2 - y % m1) * (m2 - 1 : Nat)) % m2 = y / m1 % m2 ∧
    (((y % m3 - y % m1) * 2 ^ 41 - y / m1 % m2) * 2 ^ 42) % m3 = y / m1 / m2 := by
  simp only [m1, m2, m3, mAll, Nat.reducePow, Nat.reduceMul, Nat.reduceAdd, Nat.reduceSub, Nat.cast_ofNat, Int.reducePow] at *
  constructor <;> omega

/-- An integer is the sum of its mixed-radix digits. -/
theorem mixedRadix_sum (y : Int) : y % m1 + m1 * (y / m1 % m2) + m1 * m2 * (y / m1 / m2) = y := by
  calc y % m1 + m1 * (y / m1 % m2) + m1 * m2 * (y / m1 / m2)
      = y % m1 + m1 * (y / m1 % m2 + m2 * (y / m1 / m2)) := by ring
    _ = y := by rw [Int.emod_add_mul_ediv, Int.emod_add_mul_ediv]

/-- R63: what the element of an integer between 0 and `mAll` reconstructs to. -/
theorem Racc.value_raccOf_of_lt {y : Int} (h0 : 0 ≤ y) (h1 : y < mAll) :
    (raccOf y).value = if y < 2 ^ 124 then .int y else if (mAll : Int) - 2 ^ 124 ≤ y then .int (y - mAll)
      else .sat (decide ((mAll : Int) ≤ 2 * y)) := by
  obtain ⟨ht2, ht3⟩ := mixedRadix_digits h0 h1
  have hc1 : (imod y m1 == m1) = false := beq_false_of_ne (imod_lt y m1_pos).ne
  have hc3 : ¬ m3 ≤ imod y m3 := (imod_lt y m3_pos).not_ge
  simp only [Racc.value, raccOf, hc1, hc3, imod_cast _ m1_pos, imod_cast _ m2_pos, imod_cast _ m3_pos, ht2, ht3, mixedRadix_sum,
    decide_false, Bool.or_false, Bool.false_eq_true, if_false]

/-- The element of an integer depends only on its residue modulo the product of the moduli. -/
theorem raccOf_emod (x : Int) : raccOf (x % mAll) = raccOf x := by
  have h1 : (m1 : Int) ∣ mAll := by decide
  have h2 : (m2 : Int) ∣ mAll := by decide
  have h3 : (m3 : Int) ∣ mAll := by decide
  simp only [raccOf, imod, Int.emod_emod_of_dvd x h1, Int.emod_emod_of_dvd x h2, Int.emod_emod_of_dvd x h3]

/-- R61, R63: an integer in range is reconstructed from its element. -/
theorem Racc.value_raccOf {x : Int} (hlo : -(2 ^ 124) ≤ x) (hhi : x < 2 ^ 124) : (raccOf x).value = .int x := by
  have hM : (mAll : Int) = 2 ^ 126 - 2 ^ 42 := by decide
  rw [← raccOf_emod, value_raccOf_of_lt (Int.emod_nonneg x (by decide)) (Int.emod_lt_of_pos x (by decide))]
  rcases lt_or_ge x 0 with hneg | hpos
  · have hy : x % mAll = x + mAll := by rw [← Int.add_emod_right, Int.emod_eq_of_lt (by omega) (by omega)]
    rw [hy, if_neg (by omega), if_pos (by omega), Int.add_sub_cancel]
  · have hy : x % mAll = x := Int.emod_eq_of_lt hpos (by omega)
    rw [hy, if_pos hhi]

/-! ## Table 3.2 -/

/-- An element whose channels fit their fields is read back from its image. -/
theorem Racc.ofNat_toNat {r : Racc} (h1 : r.c1 < 2 ^ 42) (h2 : r.c2 < 2 ^ 42) (h3 : r.c3 < 2 ^ 43) : Racc.ofNat r.toNat = r := by
  obtain ⟨sat, c1, c2, c3⟩ := r
  simp only at h1 h2 h3
  have hb := b2n_lt sat
  have hsat : (c1 + 2 ^ 42 * c2 + 2 ^ 84 * c3 + 2 ^ 127 * b2n sat) / 2 ^ 127 % 2 = b2n sat := by omega
  simp only [Racc.ofNat, Racc.toNat, bits, Racc.mk.injEq]
  exact ⟨bit_eq_iff.mpr hsat, by omega, by omega, by omega⟩

theorem Racc.ofNat_toNat_raccOf (x : Int) : Racc.ofNat (raccOf x).toNat = raccOf x :=
  Racc.ofNat_toNat ((imod_lt x m1_pos).trans (by decide)) (imod_lt x m2_pos) ((imod_lt x m3_pos).trans (by decide))

/-! ## Addition -/

/-- R336: a block's shifted dot product is added in every channel. -/
theorem Racc.add_raccOf (x d : Int) (k : Nat) : (raccOf x).add d k = raccOf (x + d * 2 ^ k) := by
  simp only [Racc.add, raccOf, imod_add_imod _ _ m1_pos, imod_add_imod _ _ m2_pos, imod_add_imod _ _ m3_pos]

/-- A run of additions adds the sum of what each adds. -/
theorem Racc.foldl_add_raccOf {α : Type} (x : Int) (d : α → Int) (k : α → Nat) (l : List α) :
    l.foldl (fun r a => r.add (d a) (k a)) (raccOf x) = raccOf (x + (l.map fun a => d a * 2 ^ k a).sum) := by
  induction l generalizing x with
  | nil => simp
  | cons a l ih => rw [List.foldl_cons, Racc.add_raccOf, ih, List.map_cons, List.sum_cons, Int.add_assoc]

/-! ## The blocks of a TMMQ -/

/-- A stretch of a list, element by element. -/
theorem take_drop_eq_map_getD {α : Type} {l : List α} {i n : Nat} (z : α) (h : i + n ≤ l.length) :
    (l.drop i).take n = (List.range n).map fun q => l.getD (i + q) z := by
  refine List.ext_getElem (by simp; omega) fun q hq hq' => ?_
  have hi : i + q < l.length := by simp at hq; omega
  simp [hi]

theorem blocks32_eq_map {α : Type} (n : Nat) (l : List α) :
    blocks32 n l = (List.range n).map fun j => (l.drop (32 * j)).take 32 := by
  induction n generalizing l with
  | zero => rfl
  | succ n ih => simp [blocks32, ih, List.range_succ_eq_map, List.drop_drop, Nat.mul_succ, Nat.add_comm, Function.comp_def]

theorem dotInt_map {α : Type} (l : List α) (f g : α → Int) : dotInt (l.map f) (l.map g) = (l.map fun a => f a * g a).sum := by
  rw [dotInt, List.zipWith_map, List.zipWith_self, List.sum_eq_foldl]

/-- R336: the dot product of block `j`. -/
def blockDot (as bs : List Int) (j : Nat) : Int :=
  ((List.range 32).map fun q => as.getD (32 * j + q) 0 * bs.getD (32 * j + q) 0).sum

theorem zipWith_dotInt_blocks32 {as bs : List Int} {n : Nat} (ha : as.length = 32 * n) (hb : bs.length = 32 * n) :
    List.zipWith dotInt (blocks32 n as) (blocks32 n bs) = (List.range n).map (blockDot as bs) := by
  rw [blocks32_eq_map, blocks32_eq_map, List.zipWith_map, List.zipWith_self]
  refine List.map_congr_left fun j hj => ?_
  have hj : j < n := List.mem_range.mp hj
  rw [take_drop_eq_map_getD 0 (by omega), take_drop_eq_map_getD 0 (by omega), dotInt_map, blockDot]

/-- R336: TMMQ adds each block's dot product, shifted by the block's two offsets. -/
theorem tmmqElem_raccOf (x : Int) {as bs : List Int} {es : List (Nat × Nat)} (ha : as.length = 32 * es.length)
    (hb : bs.length = as.length) :
    tmmqElem (raccOf x) as bs es = raccOf (x + ((List.range es.length).map fun j =>
      blockDot as bs j * 2 ^ ((es.getD j (0, 0)).1 + (es.getD j (0, 0)).2)).sum) := by
  have hes : es = (List.range es.length).map fun j => es.getD j (0, 0) := by
    simpa using take_drop_eq_map_getD (l := es) (i := 0) (n := es.length) (0, 0) (by omega)
  have hzip : ((List.range es.length).map (blockDot as bs)).zip es =
      (List.range es.length).map fun j => (blockDot as bs j, es.getD j (0, 0)) :=
    (congrArg (List.zip _) hes).trans (List.zip_map' ..)
  simp only [tmmqElem]
  rw [zipWith_dotInt_blocks32 ha (hb.trans ha), hzip, List.foldl_map]
  exact Racc.foldl_add_raccOf x (blockDot as bs) _ _

/-- Settles O40: reconstruction by `Racc.value_raccOf`, additions by `Racc.foldl_add_raccOf`, TMMQ's blocks by `tmmqElem_raccOf`. -/
theorem exactAccumulation : Obligations.ExactAccumulation := by
  unfold Obligations.ExactAccumulation
  refine ⟨fun x hlo hhi => ⟨Racc.value_raccOf hlo hhi, Racc.ofNat_toNat_raccOf x⟩, Racc.add_raccOf, ?_,
    fun x as bs es ha hb => tmmqElem_raccOf x ha hb⟩
  intro x ds es hperm hlo hhi
  have hsum : (ds.map fun p => p.1 * 2 ^ p.2).sum = (es.map fun p => p.1 * 2 ^ p.2).sum := (hperm.map _).sum_eq
  rw [hsum] at hlo hhi ⊢
  rw [Racc.foldl_add_raccOf x Prod.fst Prod.snd, Racc.value_raccOf hlo hhi]

end Sys2Proof.Machine

end

section
/-! LAWS. What a stop or a state change of a context, the end of an issue and the failure of a kernel do to the threads, gangs, kernels
and contexts (R77, R92, R93, R139). -/

namespace Sys2Proof

/-- An entry of which the filter never holds is gone. -/
theorem AMap.find_keep_none {α : Type} {k : Nat} {p : Nat → α → Bool} (h : ∀ x, p k x = false) (m : AMap α) : (m.keep p).find k = none := by
  induction m with
  | nil => rfl
  | cons e m ih =>
    obtain ⟨j, x⟩ := e
    by_cases hj : j = k
    · subst hj; simp [AMap.keep, h, ih]
    · by_cases hp : p j x = true
      · simp [AMap.keep, AMap.find, hp, hj, ih]
      · simp [AMap.keep, hp, ih]

end Sys2Proof

namespace Sys2Proof.Machine

open Sys2Proof

/-! ## Folds -/

/-- What each step of a fold leaves, the fold leaves. -/
theorem foldl_leaves {α β σ : Type} (p : σ → β) {f : σ → α → σ} (hf : ∀ s a, p (f s a) = p s) (l : List α) (s : σ) : p (l.foldl f s) = p s := by
  induction l generalizing s with
  | nil => rfl
  | cons a l ih => rw [List.foldl_cons, ih, hf]

/-! ## Issue groups -/

@[simp] theorem State.leaveGroup_gangs (s : State) (t : Nat) : (s.leaveGroup t).gangs = s.gangs := by
  obtain ⟨f, cs, -, h⟩ := s.leaveGroup_shape t; rw [h]; rfl

@[simp] theorem State.leaveGroup_mem (s : State) (t : Nat) : (s.leaveGroup t).mem = s.mem := by
  obtain ⟨f, cs, -, h⟩ := s.leaveGroup_shape t; rw [h]; rfl

theorem State.find_updThread_ne {t u : Nat} (h : u ≠ t) (s : State) (f : Thread → Thread) :
    (s.updThread t f).threads.find u = s.threads.find u := by
  simp [h]

theorem State.find_leaveGroup_ne {t u : Nat} (h : u ≠ t) (s : State) : (s.leaveGroup t).threads.find u = s.threads.find u := by
  obtain ⟨f, cs, -, hs⟩ := s.leaveGroup_shape t
  rw [hs]; exact State.find_updThread_ne h s f

/-! ## Contexts -/

/-- A state whose contexts are those of another but for the counts of refused accesses. -/
def State.CtxsBut (s s' : State) : Prop := ∀ d, ∃ r, s'.ctx d = { s.ctx d with refused := r }

theorem State.CtxsBut.refl (s : State) : s.CtxsBut s := fun d => ⟨(s.ctx d).refused, rfl⟩

theorem State.CtxsBut.trans {a b c : State} (h : a.CtxsBut b) (h' : b.CtxsBut c) : a.CtxsBut c := fun d => by
  obtain ⟨r, hr⟩ := h d
  obtain ⟨r', hr'⟩ := h' d
  exact ⟨r', by rw [hr', hr]⟩

theorem State.ctx_setCtx (s : State) (c d : Nat) (x : Ctx) : (s.setCtx c x).ctx d = if d = c then x else s.ctx d := by
  simp only [State.ctx, State.setCtx, AMap.find_put]
  split <;> rfl

/-- A refused access counts in its context. -/
theorem State.ctxsBut_refuse (s : State) (c r : Nat) : s.CtxsBut (s.setCtx c { s.ctx c with refused := r }) := fun d => by
  rw [State.ctx_setCtx]
  split
  · subst_vars; exact ⟨r, rfl⟩
  · exact ⟨_, rfl⟩

theorem State.ctxsBut_mcSend (c la mask data win : Nat) (ps : List Nat) (s : State) : s.CtxsBut (s.mcSend c la mask data win ps) := by
  induction ps generalizing s with
  | nil => exact .refl s
  | cons p ps ih =>
    simp only [State.mcSend]
    split
    · exact ih s
    · split
      · exact (s.ctxsBut_refuse c _).trans (ih _)
      · exact ih (s.sendReq p c 6 _)

theorem State.ctxsBut_multicast (c la mask data : Nat) (ws : AMap Nat) (s : State) : s.CtxsBut (s.multicast c la mask data ws) := by
  induction ws generalizing s with
  | nil => exact .refl s
  | cons w ws ih =>
    simp only [State.multicast]
    split
    · exact (s.ctxsBut_mcSend c la mask data w.1 _).trans (ih _)
    · exact ih s

theorem State.ctxsBut_multicastRange (c pa v : Nat) (qs : List (Nat × Nat)) (s : State) : s.CtxsBut (s.multicastRange c pa v qs) := by
  induction qs generalizing s with
  | nil => exact .refl s
  | cons q qs ih => exact (s.ctxsBut_multicast c _ _ _ _).trans (ih _)

/-- A physical write changes of the contexts at most a count of refused accesses, where a window's member refuses it (R390). -/
theorem State.ctxsBut_physSet (s : State) (c n pa v : Nat) : s.CtxsBut (s.physSet c n pa v) := by
  simp only [State.physSet]
  split
  · exact .refl s
  · exact State.ctxsBut_multicastRange c pa v _ (s.withBytes n pa v)

/-! ## A context's change of state -/

section
variable {β : Type} {p : State → β}

/-- What physical writes and changes of queues leave, a change of a queue's state leaves. -/
theorem State.settleQ_leaves (hw : ∀ (s : State) c n pa v, p (s.physSet c n pa v) = p s) (hq : ∀ (s : State) q x, p (s.setQueue q x) = p s)
    (s : State) (q : Nat) : p (s.settleQ q) = p s := by
  simp only [State.settleQ]
  split
  · rfl
  · simp only [State.storeQ, hw, hq]

theorem State.settleQueues_leaves (hw : ∀ (s : State) c n pa v, p (s.physSet c n pa v) = p s)
    (hq : ∀ (s : State) q x, p (s.setQueue q x) = p s) (s : State) (c : Nat) : p (s.settleQueues c) = p s := by
  refine foldl_leaves p (fun s e => ?_) s.queues s
  split
  · exact State.settleQ_leaves hw hq s e.1
  · rfl

/-- What physical writes, changes of queues and contexts and the end of a command leave, a context's change of state leaves. -/
theorem State.enterCtx_leaves (hw : ∀ (s : State) c n pa v, p (s.physSet c n pa v) = p s) (hq : ∀ (s : State) q x, p (s.setQueue q x) = p s)
    (hc : ∀ (s : State) c x, p (s.setCtx c x) = p s) (hd : ∀ s : State, p s.commandDone = p s) (s : State) (c : Nat) (st : CtxState) :
    p (s.enterCtx c st) = p s := by
  simp only [State.enterCtx, State.settleQueues_leaves hw hq]
  split <;> split <;> simp only [hw, hc, hd]

end

@[simp] theorem State.enterCtx_kernels (s : State) (c : Nat) (st : CtxState) : (s.enterCtx c st).kernels = s.kernels :=
  State.enterCtx_leaves State.physSet_kernels (fun _ _ _ => rfl) (fun _ _ _ => rfl) (fun _ => rfl) s c st

@[simp] theorem State.enterCtx_threads (s : State) (c : Nat) (st : CtxState) : (s.enterCtx c st).threads = s.threads :=
  State.enterCtx_leaves State.physSet_threads (fun _ _ _ => rfl) (fun _ _ _ => rfl) (fun _ => rfl) s c st

@[simp] theorem State.settleCtx_kernels (s : State) (c : Nat) : (s.settleCtx c).kernels = s.kernels := by
  unfold State.settleCtx
  split
  · exact s.enterCtx_kernels c _
  · rfl

@[simp] theorem State.settleCtx_threads (s : State) (c : Nat) : (s.settleCtx c).threads = s.threads := by
  unfold State.settleCtx
  split
  · exact s.enterCtx_threads c _
  · rfl

@[simp] theorem State.finishStop_kernels (s : State) (c : Nat) : (s.finishStop c).kernels = s.kernels := by
  unfold State.finishStop
  split
  · rfl
  · rfl
  · split
    · rfl
    · exact (s.parkAll c).enterCtx_kernels c _

/-- A context that stops takes threads off their slots and makes none. -/
theorem State.find_finishStop_none {s : State} {u : Nat} (h : s.threads.find u = none) (c : Nat) : (s.finishStop c).threads.find u = none := by
  unfold State.finishStop
  split
  · exact h
  · exact h
  · split
    · exact h
    · simp [State.parkAll, h]

@[simp] theorem State.repoint_kernels (s : State) : s.repoint.kernels = s.kernels := by
  simp only [State.repoint]; split <;> rfl

@[simp] theorem State.repoint_threads (s : State) : s.repoint.threads = s.threads := by
  simp only [State.repoint]; split <;> rfl

/-! ## The failure of a kernel -/

@[simp] theorem State.releaseKernel_kernels (s : State) (k : Nat) : (s.releaseKernel k).kernels = s.kernels := by
  simp only [State.releaseKernel, State.releaseConduits, State.dropThreads, State.dropInFlight]

/-- R139: the threads of a kernel that fails stop. -/
theorem State.find_releaseKernel_thread {s : State} {u : Nat} {g : Gang} (hg : s.gangs.find (gidOf u) = some g) :
    (s.releaseKernel g.kern).threads.find u = none := by
  simp only [State.releaseKernel, State.releaseConduits, State.dropThreads, State.dropInFlight]
  exact AMap.find_keep_none (fun _ => by simp [hg]) s.threads

section
variable {s : State} {k : Nat} {x : Kernel} (hk : s.kernels.find k = some x) (hc : x.st ≠ .complete) (hf : x.st ≠ .failed) (status : Nat)
include hk hc hf

/-- R139: a kernel that is not over gives up what it holds and fails. -/
theorem State.failKernel_of_live : s.failKernel k status =
    ((((s.releaseKernel k).updKernel k fun y => y.fail status s.refCycle).settleCtx x.ctx).finishStop x.ctx).repoint := by
  simp [State.failKernel, hk, hc, hf]

theorem State.find_failKernel : (s.failKernel k status).kernels.find k = some (x.fail status s.refCycle) := by
  rw [State.failKernel_of_live hk hc hf, State.repoint_kernels, State.finishStop_kernels, State.settleCtx_kernels]
  simp only [State.updKernel_kernels, State.releaseKernel_kernels, AMap.find_upd, hk, if_true, Option.map_some]

/-- Every thread of a kernel that fails is gone. -/
theorem State.find_failKernel_thread {u : Nat} {g : Gang} (hg : s.gangs.find (gidOf u) = some g) (hgk : g.kern = k) :
    (s.failKernel k status).threads.find u = none := by
  subst hgk
  rw [State.failKernel_of_live hk hc hf, State.repoint_threads]
  refine State.find_finishStop_none ?_ _
  rw [State.settleCtx_threads, State.updKernel_threads]
  exact State.find_releaseKernel_thread hg

end

end Sys2Proof.Machine

end

section
/-! LAWS. The obligations on taking a trap and returning from one (R92, R93, R96). -/

namespace Sys2Proof.Machine

open Sys2Proof

/-! ## Taking a trap -/

theorem State.takeTrap_of_find {s : State} {t v : Nat} {c : Cause} {th : Thread} (h : s.threads.find t = some th) :
    s.takeTrap t c v = if th.canTrap then s.enterHandler t c v (2 ^ laneOf t) th.pc else s.undeliverable t c := by
  simp only [State.takeTrap, State.takeTrapAt, h]

/-- R92: a thread as it enters its handler. -/
def Thread.trapped (th : Thread) (c : Cause) (v lanes tpc : Nat) : Thread :=
  { th.clean with inh := true, wdh := c == .watchdog, tcode := c.code, tpc := tpc, tval := v % 2 ^ 64, tmask := lanes, pc := th.tvec,
                  clause := none, res := .start, passBrk := false, group := none }

section
variable (s : State) (t : Nat) (c : Cause) (v lanes tpc : Nat)

theorem State.find_enterHandler_self {th : Thread} (h : s.threads.find t = some th) :
    (s.enterHandler t c v lanes tpc).threads.find t = some (th.trapped c v lanes tpc) :=
  State.find_leaveGroup_self (State.find_updThread_self (s := s.dropTurns t) h _)

theorem State.find_enterHandler_ne {u : Nat} (h : u ≠ t) : (s.enterHandler t c v lanes tpc).threads.find u = s.threads.find u :=
  (State.find_leaveGroup_ne h _).trans (State.find_updThread_ne h (s.dropTurns t) _)

@[simp] theorem State.enterHandler_gangs : (s.enterHandler t c v lanes tpc).gangs = s.gangs := State.leaveGroup_gangs _ t

@[simp] theorem State.enterHandler_mem : (s.enterHandler t c v lanes tpc).mem = s.mem := State.leaveGroup_mem _ t

end

/-- R93: the kernel of a thread that cannot receive its trap fails, where the context does not stop instead. -/
theorem State.undeliverable_fails {s : State} {t : Nat} {c : Cause} {g : Gang} (hg : s.gangs.find (gidOf t) = some g) (hb : c ≠ .brk)
    (hw : c ≠ .watchdog) (hf : (s.ctx g.ctx).fstop = false) : s.undeliverable t c = (s.setErrst g.ctx 3).failKernel g.kern 2 := by
  have hf' : ((s.setErrst g.ctx 3).ctx g.ctx).fstop = false := by
    obtain ⟨r, hr⟩ := s.ctxsBut_physSet g.ctx 4 (s.ctxRec g.ctx + 40) (setBit (s.phys 4 (s.ctxRec g.ctx + 40)) 3 true) g.ctx
    rw [State.setErrst, hr]
    exact hf
  cases c with
  | brk => exact absurd rfl hb
  | watchdog => exact absurd rfl hw
  | _ => simp only [State.undeliverable, hg, hf', Bool.false_eq_true, if_false]

/-- Settles O12: entry by `State.find_enterHandler_self`, the failure of the kernel by `State.undeliverable_fails`. -/
theorem trapEntry : Obligations.TrapEntry := by
  unfold Obligations.TrapEntry
  refine ⟨fun s t v c th h hinh hvec => ?_, fun s t v c th g k h hg hk hcan hbrk hwd _ hstop hst _ => ?_⟩
  · have hcan : th.canTrap = true := by simp [Thread.canTrap, hinh, hvec]
    rw [State.takeTrap_of_find h, if_pos hcan]
    exact ⟨_, State.find_enterHandler_self s t c v _ _ h, rfl, rfl, rfl, rfl, rfl, rfl, rfl, rfl, rfl, rfl, rfl, rfl, rfl, rfl, rfl, rfl, rfl,
      rfl, rfl, fun u hu => State.find_enterHandler_ne s t c v _ _ hu, State.enterHandler_gangs .., fun a => by rw [State.enterHandler_mem]⟩
  · rw [State.takeTrap_of_find h, hcan, if_neg Bool.false_ne_true, State.undeliverable_fails hg hbrk hwd hstop]
    have hk' : (s.setErrst g.ctx 3).kernels.find g.kern = some k := by rw [State.setErrst, State.physSet_kernels]; exact hk
    have hc : k.st ≠ .complete := by simp [hst]
    have hf : k.st ≠ .failed := by simp [hst]
    refine ⟨⟨_, State.find_failKernel hk' hc hf 2, rfl, rfl⟩, fun u y hy hyk => State.find_failKernel_thread hk' hc hf 2 ?_ hyk⟩
    rw [State.setErrst, State.physSet_gangs]; exact hy

/-! ## The return -/

/-- R92, R96: the threads held for a trap resume where they stand, and no other moves. -/
theorem State.find_freeHeld (s : State) (t u : Nat) (past : Bool) : (s.freeHeld t past).threads.find u =
    (s.threads.find u).map fun th => if th.held == some t then th.resumeAt th.pc past else th :=
  AMap.find_mapv u _ s.threads

theorem State.find_returnFromTrap_self {s : State} {t : Nat} {th : Thread} (h : s.threads.find t = some th) (past : Bool) :
    (s.returnFromTrap t past).threads.find t =
      some { { th with inh := false, wdh := false }.resumeAt th.tpc past with group := none } := by
  rw [State.returnFromTrap, State.find_freeHeld, State.find_leaveGroup_self (State.find_updThread_self h _)]
  rfl

theorem State.find_returnFromTrap_ne {t u : Nat} (h : u ≠ t) (s : State) (past : Bool) : (s.returnFromTrap t past).threads.find u =
    (s.threads.find u).map fun th => if th.held == some t then th.resumeAt th.pc past else th := by
  rw [State.returnFromTrap, State.find_freeHeld, State.find_leaveGroup_ne h, State.find_updThread_ne h]

/-- Settles O13: the thread itself by `State.find_returnFromTrap_self`, each other by `State.find_returnFromTrap_ne`. -/
theorem trapReturn : Obligations.TrapReturn := by
  unfold Obligations.TrapReturn
  intro s t past th h _
  refine ⟨⟨_, State.find_returnFromTrap_self h past, rfl, rfl, rfl, rfl, rfl, rfl, rfl, rfl⟩, fun u y hu hy hheld => ?_, fun u y hu hy hheld => ?_,
    State.leaveGroup_mem _ t, State.leaveGroup_gangs _ t⟩
  · have hfree : (s.returnFromTrap t past).threads.find u = some (y.resumeAt y.pc past) := by
      rw [State.find_returnFromTrap_ne hu, hy]; simp [hheld]
    exact ⟨_, hfree, rfl, rfl, rfl⟩
  · rw [State.find_returnFromTrap_ne hu, hy]; simp [hheld]

end Sys2Proof.Machine

end

section
/-! LAWS. The obligation on the state after reset. -/

namespace Sys2Proof.Machine

open Sys2Proof

/-- No die but the four is listed, and each is as a cold reset leaves it. -/
theorem State.reset_die (d : Nat) : State.reset.die d = Die.init := by
  show (AMap.find d [(0, Die.init), (1, Die.init), (2, Die.init), (3, Die.init)]).getD Die.init = Die.init
  simp only [AMap.find]
  split_ifs <;> rfl

theorem Die.init_ecnt (i : Nat) : Die.init.ecnt.getD i 0 = 0 := by
  show (List.replicate 8 0).getD i 0 = 0
  rw [List.getD_eq_getElem?_getD, List.getElem?_replicate]
  split <;> rfl

/-- R415: before the device is ready every register but BOOTREC reads 0. -/
theorem State.readReg_of_not_up {s : State} (hb : s.boot ≠ 10) (hd : s.down = false) {off : Nat} (h : off ≠ 0x30) (n : Nat) :
    s.readReg off n = 0 := by
  simp [State.readReg, hb, hd, h]

/-- R415: before the device is ready a write of a register is ignored. -/
theorem exec_registerWrite_of_not_up {s : State} (h : s.boot ≠ 10) (acc : RegAccess) (w : Nat) : exec (.registerWrite acc w) s = .next s := by
  show execRegisterWrite acc w s = _
  simp [execRegisterWrite, whenUp, h]

/-- Settles O60: the maps are empty, so each context, queue, port and route reads as its reset value. -/
theorem atReset : Obligations.AtReset := by
  unfold Obligations.AtReset
  refine ⟨Memory.wf_nil, Memory.get_nil, rfl, rfl, fun c => ⟨rfl, rfl, rfl, rfl, rfl⟩, fun q => rfl, fun p => ⟨rfl, rfl⟩, fun p => rfl, rfl, rfl, rfl,
    fun d => ?_, fun off h => State.readReg_of_not_up (by decide) rfl h 8, fun off n w => exec_registerWrite_of_not_up (by decide) ⟨off, n⟩ w⟩
  rw [State.reset_die]
  exact ⟨rfl, rfl, rfl, rfl, Die.init_ecnt⟩

end Sys2Proof.Machine

end

section
/-! LAWS. The obligation on the commands of a context, where a queue is listed twice. -/

namespace Sys2Proof.Machine

open Sys2Proof

/-- A device with queue 0 listed twice, of context 1 first and then of context 2, and its record in a window whose one member, device 1, is
fenced for context 1 (R390). -/
def queueTwice : State :=
  { State.reset with
    boot := 10, qBase := 0, mcwins := [(0, 2 ^ 63 + 2 ^ 65)], ctxs := [(1, { Ctx.init with fenced := 2 })],
    queues := [(0, { Queue.init with st := .idle, ctx := 1 }), (0, { Queue.init with st := .idle, ctx := 2 })] }

theorem queueTwice_define : exec (.define 2) queueTwice = .next (queueTwice.define 2) := rfl

/-- DEFINE of context 2 writes the record of queue 0, which the list gives to context 1: the window's member refuses those writes. -/
theorem queueTwice_refused : ((queueTwice.define 2).ctx 1).refused = 3 := by decide

/-- Refutes O48: DEFINE of context 2 counts refused writes in context 1 where the list of queues holds one number twice, of context 1 first:
`State.settleQueues` picks the entry of context 2, and `State.settleQ` writes the record of the first entry of that number. `AMap.put`
makes no such list from one whose numbers rise, but the statement takes any state, and asks for rising numbers of the kernels alone. -/
theorem not_contextCommands : ¬ Obligations.ContextCommands := by
  unfold Obligations.ContextCommands
  rintro ⟨-, h⟩
  obtain ⟨hdefine, -⟩ := h queueTwice 2 rfl (by decide) (by decide)
  obtain ⟨S, hS, -, -, -, halone, -⟩ := hdefine rfl
  rw [queueTwice_define] at hS
  obtain rfl : queueTwice.define 2 = S := Host.Outcome.next.inj hS
  have hsame : ((queueTwice.define 2).ctx 1).refused = (queueTwice.ctx 1).refused := congrArg Ctx.refused (halone 1 (by decide))
  rw [queueTwice_refused] at hsame
  exact absurd hsame (by decide)

end Sys2Proof.Machine

end
section
/-! LAWS. Reads of several registers by one instruction (R6, R179, R190), and how a body that has read them ends. -/

namespace Sys2Proof.Machine

open Sys2Proof

/-! ## Sequences of register reads -/

/-- An operation of an instruction of `t` that only reads registers: whatever has been read before, it answers `r`, having met lapse `z` and
mismatch `m`. -/
def State.Reads {α : Type} (s : State) (t : Nat) (op : M α) (r : α) (z m : Bool) : Prop :=
  ∀ B z₀ m₀, s.Agrees t B z₀ m₀ → ∃ B', op (s.reading t B z₀ m₀) = .ok r (s.reading t B' (z₀ || z) (m₀ || m)) ∧
    s.Agrees t B' (z₀ || z) (m₀ || m)

theorem State.Reads.pure {α : Type} (s : State) (t : Nat) (r : α) : s.Reads t (pure r) r false false := fun B z₀ m₀ hb =>
  ⟨B, by simp [pure_run], by simpa using hb⟩

theorem State.Reads.bind {α β : Type} {s : State} {t : Nat} {op : M α} {k : α → M β} {a : α} {r : β} {z m z' m' : Bool}
    (h : s.Reads t op a z m) (h' : s.Reads t (k a) r z' m') : s.Reads t (op >>= k) r (z || z') (m || m') := fun B z₀ m₀ hb => by
  obtain ⟨B₁, e₁, hb₁⟩ := h B z₀ m₀ hb
  obtain ⟨B₂, e₂, hb₂⟩ := h' B₁ _ _ hb₁
  simp only [Bool.or_assoc] at e₂ hb₂
  exact ⟨B₂, by rw [bind_ok e₁, e₂], hb₂⟩

/-- A read whose answer is passed on changed. -/
theorem State.Reads.map {α β : Type} {s : State} {t : Nat} {op : M α} {a : α} {z m : Bool} (h : s.Reads t op a z m) (f : α → β) :
    s.Reads t (op >>= fun x => Pure.pure (f x)) (f a) z m := by
  simpa using h.bind (k := fun x => Pure.pure (f x)) (.pure s t (f a))

/-- Reads at the start of an instruction that runs. -/
theorem State.Reads.start {α : Type} {s : State} {t : Nat} {op : M α} {r : α} {z m : Bool} (h : s.Reads t op r z m) :
    ∃ B, op (s.reading t [] false false) = .ok r (s.reading t B z m) := by
  obtain ⟨B, e, -⟩ := h [] false false (s.agrees_nil t false false)
  exact ⟨B, by simpa using e⟩

/-- What the reads of several registers give, register by register. -/
theorem State.reads_cons {s : State} {t i : Nat} {ts : TagSet} {rs : List (Nat × TagSet)} {ws : List TWord} {z m : Bool}
    (h : s.reads t ((i, ts) :: rs) = some (ws, z, m)) : ∃ w z₁ m₁ vs z₂ m₂, s.src t i ts = some (w, z₁, m₁) ∧
      s.reads t rs = some (vs, z₂, m₂) ∧ ws = w :: vs ∧ z = (z₁ || z₂) ∧ m = (m₁ || m₂) := by
  rw [State.reads] at h
  split at h
  · next w z₁ m₁ vs z₂ m₂ h₁ h₂ =>
    simp only [Option.some.injEq, Prod.mk.injEq] at h
    obtain ⟨rfl, rfl, rfl⟩ := h
    exact ⟨w, z₁, m₁, vs, z₂, m₂, h₁, h₂, rfl, rfl, rfl⟩
  · nomatch h

theorem State.reads_nil {s : State} {t : Nat} {ws : List TWord} {z m : Bool} (h : s.reads t [] = some (ws, z, m)) :
    ws = [] ∧ z = false ∧ m = false := by
  simpa [State.reads, eq_comm] using h

theorem State.reads_one {s : State} {t i : Nat} {ts : TagSet} {w : TWord} {z m : Bool} (h : s.reads t [(i, ts)] = some ([w], z, m)) :
    s.src t i ts = some (w, z, m) := by
  obtain ⟨w', z₁, m₁, vs, z₂, m₂, h₁, h₂, hw, rfl, rfl⟩ := State.reads_cons h
  obtain ⟨rfl, rfl, rfl⟩ := State.reads_nil h₂
  obtain rfl : w = w' := by simpa using hw
  simpa using h₁

theorem pairOf_toNat (l h : Word) : (pairOf l h).toNat = l.toNat + 2 ^ 32 * h.toNat := by
  have hl : l.toNat < 2 ^ 32 := l.isLt
  rw [pairOf, BitVec.toNat_append, ← Nat.shiftLeft_add_eq_or_of_lt hl, Nat.shiftLeft_eq]
  omega

/-- R190: a word taken as signed is its two's-complement value. -/
theorem asInt_signed (w : Word) : asInt true w.toNat = w.toInt := by
  have hw : w.toNat < 2 ^ 32 := w.isLt
  simp only [asInt, sext, BitVec.toInt, if_true, Nat.mod_eq_of_lt hw]
  split <;> split <;> omega

section
variable {s : State} {c : Cur} {th : Thread} (hc : s.cur = some c) (ht : s.threads.find c.t = some th)
include hc ht

theorem reads_readReg {i : Nat} {ts : TagSet} {w : TWord} {z m : Bool} (h : s.src c.t i ts = some (w, z, m)) :
    s.Reads c.t (readReg i ts) w z m := fun _ _ _ hb => readReg_reading hc ht hb h

theorem reads_readBits {i : Nat} {ts : TagSet} {w : TWord} {z m : Bool} (h : s.src c.t i ts = some (w, z, m)) :
    s.Reads c.t (readBits i ts) w.bits.toNat z m := (reads_readReg hc ht h).map fun w => w.bits.toNat

/-- A register read as a signed integer. -/
theorem reads_intSrc {i : Nat} {w : TWord} {z m : Bool} (h : s.src c.t i .int = some (w, z, m)) :
    s.Reads c.t (intSrc true i) w.bits.toInt z m := by
  rw [← asInt_signed]
  exact (reads_readBits hc ht h).map (asInt true)

/-- A run of registers read word by word. -/
theorem reads_readWords {i n : Nat} {ws : List TWord} {z m : Bool}
    (h : s.reads c.t ((List.range n).map fun j => (i + j, .any)) = some (ws, z, m)) : s.Reads c.t (readWords i n) ws z m := by
  induction n generalizing i ws z m with
  | zero =>
    obtain ⟨rfl, rfl, rfl⟩ := State.reads_nil h
    exact .pure s c.t []
  | succ n ih =>
    have hrest : ((fun j => (i + j, TagSet.any)) ∘ Nat.succ) = fun j => (i + 1 + j, TagSet.any) := by
      funext j
      simp only [Function.comp_apply, Nat.succ_eq_add_one, Nat.add_comm j 1, Nat.add_assoc]
    rw [List.range_succ_eq_map, List.map_cons, List.map_map, hrest] at h
    obtain ⟨w, z₁, m₁, vs, z₂, m₂, h₁, h₂, rfl, rfl, rfl⟩ := State.reads_cons h
    exact (reads_readReg hc ht h₁).bind ((ih h₂).map (w :: ·))

/-- A pair of registers, the low word first; pair v0 reads zero (R179). -/
theorem reads_readPair {i : Nat} {lo hi : TagSet} {A : DWord} {z m : Bool} (h : s.srcPair c.t i lo hi = some (A, z, m)) :
    s.Reads c.t (readPair i lo hi) A.toNat z m := by
  unfold State.srcPair at h
  unfold readPair
  split at h
  · next h0 =>
    simp only [Option.some.injEq, Prod.mk.injEq] at h
    obtain ⟨rfl, rfl, rfl⟩ := h
    subst h0
    exact .pure s c.t 0
  · next h0 =>
    split at h
    · next l w z' m' hr =>
      simp only [Option.some.injEq, Prod.mk.injEq] at h
      obtain ⟨rfl, rfl, rfl⟩ := h
      obtain ⟨v, z₁, m₁, vs, z₂, m₂, h₁, h₂, hv, rfl, rfl⟩ := State.reads_cons hr
      obtain ⟨rfl, rfl⟩ : l = v ∧ [w] = vs := by simpa using hv
      rw [if_neg (by simpa using h0), pairOf_toNat]
      exact (reads_readBits hc ht h₁).bind ((reads_readBits hc ht (State.reads_one h₂)).map fun h => l.bits.toNat + 2 ^ 32 * h)
    · nomatch h

end

/-! ## Running under what has been read -/

/-- What gives its answer under every note gives it once registers have been read. -/
theorem State.Turns.run {α : Type} {s S : State} {t : Nat} {op : M α} {r : α} (h : s.Turns S t op r false) (B : AMap TWord) (z m : Bool) :
    op (s.reading t B z m) = .ok r (S.reading t B z m) := h.2.2 _ (noting_reading B z m)

/-- The same with nothing read. -/
theorem State.Turns.run_unread {α : Type} {s S : State} {t : Nat} {op : M α} {r : α} (h : s.Turns S t op r false) : op s = .ok r S := by
  have hid : ∀ x : State, x.updThread t (fun y => y) = x := fun x => by
    have : x.threads.upd t (fun y => y) = x.threads := by
      cases hf : x.threads.find t with
      | none => exact AMap.upd_none hf
      | some th => exact AMap.upd_same hf rfl
    simp only [State.updThread, this]
  have := h.2.2 _ noting_id
  simpa [hid] using this

/-! ## How a body ends -/

theorem putWord_run {s : State} {c : Cur} (hc : s.cur = some c) (d v : Nat) (tag : Tag) :
    putWord d v tag s = .ok .seq (s.writeReg c.t d ⟨BitVec.ofNat 32 v, tag⟩) := by
  have hv : BitVec.ofNat 32 (trunc v 32) = BitVec.ofNat 32 v := by
    apply BitVec.eq_of_toNat_eq
    simp only [trunc, BitVec.toNat_ofNat]
    omega
  simp only [putWord, writeReg, bind_run, curT_run hc, modify_run, pure_run, hv]

/-- Nothing noted is no change. -/
theorem State.noted_nothing {s : State} {t : Nat} {th : Thread} (h : s.threads.find t = some th) : s.noted t false false 0 = s := by
  have e : s.threads.upd t (fun y => { y with pendLapf := y.pendLapf || false, pendMis := y.pendMis || false, pendFst := orf y.pendFst 0 }) =
      s.threads := AMap.upd_same h (by simp [orf])
  simp only [State.noted, State.updThread, e]

/-- A word written, and completion, after registers have been read. -/
theorem State.done_reading_writeReg {s : State} {t : Nat} {th : Thread} (h : s.threads.find t = some th) (B : AMap TWord) (z m : Bool)
    (d : Nat) (w : TWord) : ((s.reading t B z m).writeReg t d w).done t = s.result t d w z m 0 := by
  rw [State.result, State.writeReg_reading, State.writeReg_noted, State.done, State.done,
    State.commit_reading (s := s.writeReg t d w) (by rw [State.writeReg_threads]; exact h)]

/-- A word written, and completion, with nothing noted by this issue. -/
theorem State.done_writeReg {s : State} {t : Nat} {th : Thread} (h : s.threads.find t = some th) (d : Nat) (w : TWord) :
    (s.writeReg t d w).done t = s.result t d w false false 0 := by
  rw [State.result, State.noted_nothing h]

/-- An instruction that runs for the first time: its body decides. -/
theorem State.Runs.code_eq {s : State} {t : Nat} {fs : List Field} {gd : Guard} (h : s.Runs t fs [] gd) (ds : List Dest) (body : M Flow) :
    code fs gd ds body s = runCode (sourceRegs (fs.flatMap Field.regs) ds) ds body s := by
  simp only [code, runCode, runWith, issueWith_runs h]

/-- An instruction that issues again with its guard holding, and was given anything but a failure: its body decides. -/
theorem State.Resumes.code_eq {s : State} {t : Nat} {fs : List Field} {gd : Guard} {k : Cont} (h : s.Resumes t fs [] gd true k)
    (hk : ∀ x v, k ≠ .fail x v) (ds : List Dest) (body : M Flow) :
    code fs gd ds body s = runCode (sourceRegs (fs.flatMap Field.regs) ds) ds body s := by
  obtain ⟨c, th, g, hc, rfl, ht, hg, hf, hgd, hon, rfl⟩ := h
  obtain ⟨hp, hb⟩ := hon rfl
  have hi : issueWith fs gd .skip [] (fun _ => body) s = body s := by
    simp only [issueWith, bind_run, curT_run hc, thread_run hc ht, gang_run hc hg, get_run, hf, hgd, hp, hb, Bool.true_or, Bool.true_and,
      if_true]
    cases hcont : th.cont with
    | fail x v => exact absurd hcont (hk x v)
    | _ => simp
  simp only [code, runCode, runWith, hi]

/-- A body that waits. -/
theorem runCode_wait {s S : State} {c : Cur} (hc : s.cur = some c) {srcs : List Nat} {ds : List Dest} {body : M Flow} {w : Wait}
    (h : body s = .error (.wait w) S) : runCode srcs ds body s = .next (S.waitOn c.t w) := by
  simp only [runCode, runWith, hc, h, stopped]

/-- A body that writes one word at its end, after registers have been read. -/
theorem runCode_putWord {s S : State} {c : Cur} {th : Thread} (hc : s.cur = some c) (hS : S.cur = s.cur) (ht : S.threads.find c.t = some th)
    {srcs : List Nat} {ds : List Dest} {body : M Flow} {d v : Nat} {tag : Tag} {B : AMap TWord} {z m : Bool}
    (h : body s = putWord d v tag (S.reading c.t B z m)) :
    runCode srcs ds body s = .next (S.result c.t d ⟨BitVec.ofNat 32 v, tag⟩ z m 0) := by
  rw [← State.done_reading_writeReg ht B]
  exact runCode_next hc (h.trans (putWord_run (s := S.reading c.t B z m) (hS.trans hc) d v tag))

/-- The same with nothing read by this issue. -/
theorem runCode_putWord_unread {s S : State} {c : Cur} {th : Thread} (hc : s.cur = some c) (hS : S.cur = s.cur)
    (ht : S.threads.find c.t = some th) {srcs : List Nat} {ds : List Dest} {body : M Flow} {d v : Nat} {tag : Tag}
    (h : body s = putWord d v tag S) : runCode srcs ds body s = .next (S.result c.t d ⟨BitVec.ofNat 32 v, tag⟩ false false 0) := by
  rw [← State.done_writeReg ht]
  exact runCode_next hc (h.trans (putWord_run (hS.trans hc) d v tag))

end Sys2Proof.Machine

end
section
/-! LAWS. What an access of memory leaves alone, by a core, a device or a packet processor: the thread at issue, threads, gangs and conduits
(R102, R121, R269, R365 to R369). -/

namespace Sys2Proof.Machine

open Sys2Proof

/-- `x` has the thread at issue, the threads, the gangs and the conduits of `s`. -/
structure State.SameUnits (s x : State) : Prop where
  cur : x.cur = s.cur
  threads : x.threads = s.threads
  gangs : x.gangs = s.gangs
  conduits : x.conduits = s.conduits

namespace State.SameUnits

variable {s x : State}

theorem refl (s : State) : s.SameUnits s := ⟨rfl, rfl, rfl, rfl⟩

theorem trans {y : State} (h : s.SameUnits x) (h' : x.SameUnits y) : s.SameUnits y :=
  ⟨h'.cur.trans h.cur, h'.threads.trans h.threads, h'.gangs.trans h.gangs, h'.conduits.trans h.conduits⟩

theorem ite {y : State} {p : Prop} [Decidable p] (h : s.SameUnits x) (h' : s.SameUnits y) : s.SameUnits (if p then x else y) := by
  split
  · exact h
  · exact h'

/-! ## Memory at home -/

theorem physSet (h : s.SameUnits x) (c n pa v : Nat) : s.SameUnits (x.physSet c n pa v) :=
  h.trans ⟨physSet_cur .., physSet_threads .., physSet_gangs .., physSet_conduits ..⟩

theorem curePoison (h : s.SameUnits x) (pa n : Nat) : s.SameUnits (x.curePoison pa n) := by
  unfold State.curePoison
  exact .ite h (h.trans ⟨rfl, rfl, rfl, rfl⟩)

theorem noteRead (h : s.SameUnits x) (pa n : Nat) : s.SameUnits (x.noteRead pa n) := by
  obtain ⟨e, l, d, hx⟩ := x.noteRead_shape pa n
  rw [hx]
  exact h.trans ⟨rfl, rfl, rfl, rfl⟩

theorem putTags (h : s.SameUnits x) (w tags k : Nat) : s.SameUnits (x.putTags w tags k) := by
  obtain ⟨b, o, hx⟩ := State.putTags_shape w tags k x
  rw [hx]
  exact h.trans ⟨rfl, rfl, rfl, rfl⟩

theorem multicast (h : s.SameUnits x) (c la mask data : Nat) (ws : AMap Nat) : s.SameUnits (x.multicast c la mask data ws) := by
  obtain ⟨a, o, e, hx⟩ := State.multicast_shape c la mask data ws x
  rw [hx]
  exact h.trans ⟨rfl, rfl, rfl, rfl⟩

theorem homeWrite (h : s.SameUnits x) (c pa n v tags : Nat) (tagged : Bool) : s.SameUnits (x.homeWrite c pa n v tags tagged) := by
  unfold State.homeWrite
  exact .ite (((h.physSet c n pa v).curePoison pa n).putTags ..) ((h.physSet c n pa v).curePoison pa n)

theorem withBytes (h : s.SameUnits x) (n pa v : Nat) : s.SameUnits (x.withBytes n pa v) := h.trans ⟨rfl, rfl, rfl, rfl⟩

theorem setPoison (h : s.SameUnits x) (p : List Nat) : s.SameUnits { x with poison := p } := h.trans ⟨rfl, rfl, rfl, rfl⟩

theorem setErrst (h : s.SameUnits x) (c b : Nat) : s.SameUnits (x.setErrst c b) := h.physSet ..

/-! ## Shared-class accesses of a core -/

theorem setLine (h : s.SameUnits x) (core line : Nat) (l : CLine) : s.SameUnits (x.setLine core line l) := h.trans ⟨rfl, rfl, rfl, rfl⟩

theorem cleanLine (h : s.SameUnits x) (core line : Nat) : s.SameUnits (x.cleanLine core line) := by
  have hb := h.withBytes 128 (128 * line) (mergeBytes 128 (x.line core line).dirty (x.phys 128 (128 * line)) (x.line core line).data)
  unfold State.cleanLine
  dsimp only
  generalize x.withBytes 128 (128 * line) _ = y at hb
  split
  · exact h
  · exact ((hb.setPoison _).putTags ..).multicast .. |>.setLine ..

theorem dropBytes (h : s.SameUnits x) (core line mask : Nat) : s.SameUnits (x.dropBytes core line mask) := by
  unfold State.dropBytes
  split
  · exact h
  · exact h.setLine ..

theorem sharedRead (h : s.SameUnits x) (core pa n : Nat) : s.SameUnits (x.sharedRead core pa n).2 :=
  ((h.cleanLine ..).noteRead ..).dropBytes ..

theorem sharedWrite (h : s.SameUnits x) (core c pa n v tags : Nat) (tagged : Bool) :
    s.SameUnits (x.sharedWrite core c pa n v tags tagged) := ((h.cleanLine ..).homeWrite ..).dropBytes ..

/-- An update at device scope or wider (R269). -/
theorem atomLocal (h : s.SameUnits x) {sc : Nat} (hsc : ¬ sc ≤ 2) (core c pa pte n : Nat) (f : Nat → Option (Nat × Nat)) :
    s.SameUnits (x.atomLocal core c sc pa pte n f).2 := by
  have hr := h.sharedRead core pa n
  unfold State.atomLocal
  rw [if_neg hsc]
  dsimp only
  split
  · exact hr.sharedWrite ..
  · exact hr

/-! ## Translation and fault records -/

theorem noteWalk (d c va : Nat) (es : List (Nat × Nat × Nat)) {x : State} (h : s.SameUnits x) : s.SameUnits (x.noteWalk d c va es) := by
  induction es generalizing x with
  | nil => exact h
  | cons e es ih =>
    obtain ⟨level, e, pte⟩ := e
    refine ih (.ite ?_ (h.noteRead e 16))
    exact (h.noteRead e 16).trans ⟨rfl, rfl, rfl, rfl⟩

theorem chooseLeaf (h : s.SameUnits x) (d c va : Nat) (need : Need) : s.SameUnits (x.chooseLeaf d c va need).2 := by
  have hw := h.noteWalk d c va
  unfold State.chooseLeaf
  generalize x.walkVia d c va 4 0 (x.rootOf c) = r
  obtain ⟨w, path⟩ := r
  extract_lets next
  have hn {y : State} (hy : s.SameUnits y) : s.SameUnits (next y) := .ite (hy.trans ⟨rfl, rfl, rfl, rfl⟩) hy
  dsimp only
  split
  · exact hn (hw path)
  · split
    · exact hn h
    · split
      · exact hn (hw path)
      · split
        · exact h.trans ⟨rfl, rfl, rfl, rfl⟩
        · exact (hw path).trans ⟨rfl, rfl, rfl, rfl⟩

theorem cacheLeaf (h : s.SameUnits x) (d c va pte ent level : Nat) : s.SameUnits (x.cacheLeaf d c va pte ent level) := by
  unfold State.cacheLeaf
  split
  · exact h
  · exact h.trans ⟨rfl, rfl, rfl, rfl⟩

theorem admitLeaf (h : s.SameUnits x) (c va : Nat) (need : Need) (pte level : Nat) (dirty : Option Nat) :
    s.SameUnits (x.admitLeaf c va need pte level dirty).2 := by
  unfold State.admitLeaf
  extract_lets pa y
  have hy : s.SameUnits y := by
    dsimp only [y]
    split
    · exact .ite (h.physSet ..) h
    · exact h
  split
  · exact h
  · split
    · exact h
    · split
      · exact hy.trans ⟨rfl, rfl, rfl, rfl⟩
      · exact hy

theorem xlate (h : s.SameUnits x) (d c va : Nat) (need : Need) : s.SameUnits (x.xlate d c va need).2 := by
  have hl := h.chooseLeaf d c va need
  unfold State.xlate
  generalize x.chooseLeaf d c va need = r at hl
  obtain ⟨w, y⟩ := r
  cases w with
  | bad k l => exact hl
  | refused pa => exact hl.trans ⟨rfl, rfl, rfl, rfl⟩
  | poison => exact hl
  | held pte level => exact hl.admitLeaf ..
  | leaf pte ent level => exact ((hl.cacheLeaf ..).physSet ..).admitLeaf ..

theorem raiseFault (h : s.SameUnits x) (c core va kind level : Nat) : s.SameUnits (x.raiseFault c core va kind level).2 := by
  unfold State.raiseFault
  extract_lets y n word z u
  have hz : s.SameUnits z := (h.physSet ..).curePoison ..
  split
  · exact h
  · split
    · exact h
    · split
      · exact h
      · exact hz.trans ⟨rfl, rfl, rfl, rfl⟩

/-- An access of the packet processor (R102). -/
theorem ppXlate (h : s.SameUnits x) (d c va : Nat) (need : Need) : s.SameUnits (x.ppXlate d c va need).2 := by
  have hx := h.xlate d c va need
  unfold State.ppXlate
  split
  · exact h
  · split
    · next e => rw [e] at hx; exact hx
    · next e => rw [e] at hx; exact hx

/-- An access that the device makes for a context (R121). -/
theorem devXlate (h : s.SameUnits x) (core c va : Nat) (need : Need) : s.SameUnits (x.devXlate core c va need).2 := by
  have hx := h.xlate (dieOfCore core) c va need
  unfold State.devXlate
  split
  · exact h
  · generalize x.xlate (dieOfCore core) c va need = r at hx
    obtain ⟨a, y⟩ := r
    cases a with
    | fault k l =>
      have hf := SameUnits.raiseFault hx c core va k l
      dsimp only
      split
      all_goals
        next e => rw [e] at hf; exact hf
    | _ => exact hx

/-! ## Requests to peers, and the records of queues -/

theorem remoteWrite (h : s.SameUnits x) (t kern c pa pte va n v tags : Nat) : s.SameUnits (x.remoteWrite t kern c pa pte va n v tags) := by
  unfold State.remoteWrite
  split
  · exact h.trans ⟨rfl, rfl, rfl, rfl⟩
  · exact h.trans ⟨rfl, rfl, rfl, rfl⟩

theorem setQueue (h : s.SameUnits x) (q : Nat) (y : Queue) : s.SameUnits (x.setQueue q y) := h.trans ⟨rfl, rfl, rfl, rfl⟩

theorem storeQ (h : s.SameUnits x) (q : Nat) : s.SameUnits (x.storeQ q) := ((h.physSet ..).physSet ..).physSet ..

theorem settleQ (h : s.SameUnits x) (q : Nat) : s.SameUnits (x.settleQ q) := by
  unfold State.settleQ
  dsimp only
  split
  · exact h
  · exact (h.setQueue ..).storeQ q

end State.SameUnits

end Sys2Proof.Machine

end
section
/-! LAWS. Conduits (05_queue R116 to R119, R121, R124): what they give a thread that waits, what their moves leave alone, and the
obligation on their order. -/

namespace Sys2Proof.Machine

open Sys2Proof

/-! ## What a move of a conduit changes -/

/-- The copy of a control block is an access of memory, made or dropped (R121). -/
theorem State.SameUnits.cdCopy {s x : State} (h : s.SameUnits x) (c : Conduit) : s.SameUnits (x.cdCopy c) := by
  have hx := h.xlate (dieOfCore c.core) (x.cdCtx c) (x.cdBase c) .store
  unfold State.cdCopy
  dsimp only
  split
  · exact h.setErrst ..
  · split
    · exact .ite (hx.setErrst ..) ((hx.physSet ..).curePoison ..)
    · exact hx.setErrst ..

/-- A changed conduit is listed, and its control block copied. -/
theorem State.sameUnits_cdPut (s : State) (id : Nat) (c : Conduit) : { s with conduits := s.conduits.put id c }.SameUnits (s.cdPut id c) :=
  (State.SameUnits.refl _).cdCopy c

theorem State.cdPut_conduits (s : State) (id : Nat) (c : Conduit) : (s.cdPut id c).conduits = s.conduits.put id c :=
  (s.sameUnits_cdPut id c).conduits

theorem State.cdPut_cur (s : State) (id : Nat) (c : Conduit) : (s.cdPut id c).cur = s.cur := (s.sameUnits_cdPut id c).cur

theorem State.cdPut_threads (s : State) (id : Nat) (c : Conduit) : (s.cdPut id c).threads = s.threads := (s.sameUnits_cdPut id c).threads

theorem State.cdPut_gangs (s : State) (id : Nat) (c : Conduit) : (s.cdPut id c).gangs = s.gangs := (s.sameUnits_cdPut id c).gangs

/-! ## Waking a thread -/

theorem State.updFor_keeps (s : State) (kern t : Nat) (f : Thread → Thread) :
    (s.updFor kern t f).cur = s.cur ∧ (s.updFor kern t f).conduits = s.conduits := by
  unfold State.updFor
  split
  · split
    · exact ⟨rfl, rfl⟩
    · exact ⟨rfl, rfl⟩
  · exact ⟨rfl, rfl⟩

theorem State.wake_cur (s : State) (kern t : Nat) (k : Cont) : (s.wake kern t k).cur = s.cur := (s.updFor_keeps kern t _).1

theorem State.wake_conduits (s : State) (kern t : Nat) (k : Cont) : (s.wake kern t k).conduits = s.conduits := (s.updFor_keeps kern t _).2

/-- A thread whose gang is in its slot goes on with what it was given (R9). -/
theorem State.find_wake {s : State} {t : Nat} {th : Thread} {g : Gang} (ht : s.threads.find t = some th)
    (hg : s.gangs.find (gidOf t) = some g) (k : Cont) : (s.wake g.kern t k).threads.find t = some { th with cont := k } := by
  simp [State.wake, State.updFor, hg, ht]

/-! ## The moves of a conduit leave the thread at issue -/

theorem State.cdServe_cur {s S : State} {id : Nat} {c : Conduit} (h : s.cdServe id c = some S) : S.cur = s.cur := by
  unfold State.cdServe at h
  split at h
  · nomatch h
  · cases h
    exact State.wake_cur ..
  · split at h
    · cases h
      exact State.wake_cur ..
    · split at h
      · cases h
        exact State.wake_cur ..
      · nomatch h

theorem State.cdAccept_cur {s S : State} {id : Nat} {c : Conduit} (h : s.cdAccept id c = some S) : S.cur = s.cur := by
  unfold State.cdAccept at h
  split at h
  · nomatch h
  · split at h
    · nomatch h
    · split at h
      · cases h
        rw [State.wake_cur]
        split
        · rfl
        · exact State.cdPut_cur ..
      · split at h
        · cases h
          exact State.wake_cur ..
        · split at h
          · cases h
            rw [State.wake_cur]
            exact State.cdPut_cur ..
          · split at h
            · nomatch h
            · have hx := (State.SameUnits.refl s).devXlate c.core (s.cdCtx c) (s.cdSlot c c.tail) .store
              dsimp only at h
              split at h
              · next e =>
                rw [e] at hx
                cases h
                rw [State.wake_cur, State.cdPut_cur]
                exact ((hx.physSet ..).curePoison ..).cur
              · next e =>
                rw [e] at hx
                cases h
                rw [State.wake_cur]
                exact hx.cur
              · next e =>
                rw [e] at hx
                cases h
                exact hx.cur
              · nomatch h

theorem State.cdAnswer_cur {s S : State} {id : Nat} (h : s.cdAnswer id = some S) : S.cur = s.cur := by
  unfold State.cdAnswer at h
  split at h
  · nomatch h
  · split at h
    · nomatch h
    · split at h
      · next e =>
        cases h
        exact State.cdServe_cur e
      · exact State.cdAccept_cur h

/-- However far a conduit goes on, the same thread issues. -/
theorem State.cdSettle_cur (id n : Nat) : ∀ s : State, (s.cdSettle id n).cur = s.cur := by
  induction n with
  | zero => exact fun _ => rfl
  | succ n ih =>
    intro s
    unfold State.cdSettle
    split
    · next h => rw [ih, State.cdAnswer_cur h]
    · rfl

/-! ## The order of a conduit -/

section
variable {s : State} {id t : Nat} {c : Conduit} {r : CdRec} {rest : List (Nat × Option CdRec)} (hh : c.hold = none)
include hh

/-- R116: a record goes to the buffer's end where the buffer has room and the ring holds none. -/
theorem State.cdAccept_room (hs : c.senders = (t, some r) :: rest) (hc : c.closed = false) (hb : c.buf.length < 32) (hr : c.ring = 0) :
    s.cdAccept id c = some ((s.cdPut id ({ c with buf := c.buf ++ [r] }.accept rest)).wake c.kern t (.tok 0)) := by
  simp [State.cdAccept, hs, hh, hc, hb, hr]

/-- R118: a record for a closed conduit is not taken. -/
theorem State.cdAccept_closed (hs : c.senders = (t, some r) :: rest) (hc : c.closed = true) :
    s.cdAccept id c = some (({ s with conduits := s.conduits.put id { c with senders := rest } } : State).wake c.kern t (.tok 1)) := by
  simp [State.cdAccept, hs, hh, hc]

/-- R124: CDCLOSE closes an open conduit. -/
theorem State.cdAccept_close (hs : c.senders = (t, none) :: rest) (hc : c.closed = false) :
    s.cdAccept id c = some ((s.cdPut id { c with senders := rest, closed := true }).wake c.kern t (.tok 0)) := by
  simp [State.cdAccept, hs, hh, hc, b2n]

end

/-- R117: the first receiver is given the first record of the buffer. -/
theorem State.cdServe_record {s : State} {id t : Nat} {c : Conduit} {us : List Nat} {r : CdRec} {rs : List CdRec} (hu : c.recvs = t :: us)
    (hb : c.buf = r :: rs) (hr : r.bad = none) : s.cdServe id c =
      some (({ s with conduits := s.conduits.put id { c with buf := rs, recvs := us } } : State).wake c.kern t (.words r.ws r.ws.length)) := by
  simp [State.cdServe, hu, hb, hr]

/-- A state that lists conduit `c'` under `id` and then wakes a thread in its slot. -/
theorem State.woken {s x : State} {id t : Nat} {th : Thread} {g : Gang} {c' : Conduit} (ht : s.threads.find t = some th)
    (hg : s.gangs.find (gidOf t) = some g) (hxt : x.threads = s.threads) (hxg : x.gangs = s.gangs)
    (hx : x.conduits = s.conduits.put id c') (k : Cont) : (x.wake g.kern t k).conduits.find id = some c' ∧
      ∃ u, (x.wake g.kern t k).threads.find t = some u ∧ u.cont = k :=
  ⟨by rw [State.wake_conduits, hx, AMap.find_put_self], _, State.find_wake (hxt ▸ ht) (hxg ▸ hg) k, rfl⟩

/-- Settles O33: each move is one case of `State.cdAccept` or `State.cdServe`, and the thread that it concerns is woken in its slot. -/
theorem conduitOrder : Obligations.ConduitOrder := by
  unfold Obligations.ConduitOrder
  rintro s id t c r rest rs us th g ht hg hk - hh
  have copied (c' : Conduit) := State.woken ht hg (s.cdPut_threads id c') (s.cdPut_gangs id c') (s.cdPut_conduits id c')
  have listed (c' : Conduit) := State.woken (x := { s with conduits := s.conduits.put id c' }) ht hg rfl rfl rfl
  rw [hk] at copied listed
  refine ⟨fun hs hc hb hr => ?room, fun hs hc => ?closed, fun hs hc => ?close, fun hu hb hr => ?served⟩
  case room =>
    obtain ⟨hfind, hu⟩ := copied ({ c with buf := c.buf ++ [r] }.accept rest) (.tok 0)
    exact ⟨_, _, State.cdAccept_room hh hs hc hb hr, hfind, rfl, rfl, rfl, hu⟩
  case closed =>
    obtain ⟨hfind, hu⟩ := listed { c with senders := rest } (.tok 1)
    exact ⟨_, _, State.cdAccept_closed hh hs hc, hfind, rfl, rfl, hu⟩
  case close =>
    obtain ⟨hfind, hu⟩ := copied { c with senders := rest, closed := true } (.tok 0)
    exact ⟨_, _, State.cdAccept_close hh hs hc, hfind, rfl, rfl, hu⟩
  case served =>
    obtain ⟨hfind, hw⟩ := listed { c with buf := rs, recvs := us } (.words r.ws r.ws.length)
    exact ⟨_, _, State.cdServe_record hu hb hr, hfind, rfl, rfl, hw⟩

end Sys2Proof.Machine

end
section
/-! LAWS. CDSEND, CDRECV, CDPEEK and CDCLOSE (05_queue R117, R122 to R124): joining a conduit, what it answers, and the obligation. -/

namespace Sys2Proof.Machine

open Sys2Proof

/-- A part that stops ends the whole. -/
theorem bind_error {α β : Type} {m : M α} {s s' : State} {e : Stop} (h : m s = .error e s') (f : α → M β) : (m >>= f) s = .error e s' := by
  rw [bind_run, h]

/-! ## The release that a record asks for (R117) -/

section
variable {s : State} {k : Cur} {g : Gang} (hk : s.cur = some k) (hg : s.gangs.find (gidOf k.t) = some g)
include hk hg

/-- A release at core scope passes once the gang's side log is empty. -/
theorem releaseAt_core_passes (hl : g.slog = []) : releaseAt 2 s = .ok ⟨⟩ s := by
  simp [releaseAt, bind_run, curT_run hk, gang_run hk hg, hl, pure_run]

/-- A release at core scope waits for the gang's side log. -/
theorem releaseAt_core_waits {th : Thread} (ht : s.threads.find k.t = some th) (hc : th.cont = .none) (hl : g.slog ≠ []) :
    releaseAt 2 s = .error (.wait .slogEmpty) (s.updThread k.t fun y => { y with cont := .drained }) := by
  unfold releaseAt
  rw [if_pos (by decide), bind_ok (curT_run hk), bind_ok (gang_run hk hg)]
  dsimp only
  rw [if_pos (by simpa using hl)]
  simp only [releaseWait, bind_run, modThread_run hk, waitFor, throw_run]
  exact congrArg _ (State.updThread_congr ht (by rw [hc]))

end

/-! ## Joining a conduit -/

/-- What stands once a thread has joined conduit `id`, `c` as it found it: its place in a queue, and the moves that this sets going. -/
def State.joinedBy (s : State) (id : Nat) (c : Conduit) : State := { s with conduits := s.conduits.put id c }.cdSettle id cdFuel

theorem State.joinedBy_cur (s : State) (id : Nat) (c : Conduit) : (s.joinedBy id c).cur = s.cur := State.cdSettle_cur id cdFuel _

section
variable {s : State} {k : Cur} {th : Thread} (hk : s.cur = some k) (ht : s.threads.find k.t = some th)
include hk ht

/-- After a wait, the instruction takes what the conduit gave. -/
theorem conduitWait_given (hn : th.cont ≠ .none) (hd : th.cont ≠ .drained) (cd : Nat) (w : Nat → Wait) (rel : Bool)
    (f : Nat → Conduit → Conduit) : conduitWait cd w rel f s = .ok th.cont s := by
  unfold conduitWait
  rw [bind_ok (thread_run hk ht), if_pos (by simp [hn, hd]), pure_run]

variable {id cd : Nat} {c : Conduit} (hn : th.cont = .none) (hat : conduitAt cd s = .ok (id, c) s)
include hn hat

/-- The release comes before the thread joins. -/
theorem conduitWait_released {e : Stop} {S : State} (h : releaseAt 2 s = .error e S) (w : Nat → Wait) (f : Nat → Conduit → Conduit) :
    conduitWait cd w true f s = .error e S := by
  unfold conduitWait
  rw [bind_ok (thread_run hk ht), if_neg (by simp [hn]), bind_ok hat]
  dsimp only
  rw [bind_ok (curT_run hk), if_pos rfl, bind_error h]

variable {rel : Bool} (hrel : rel = true → releaseAt 2 s = .ok ⟨⟩ s) {f : Nat → Conduit → Conduit} {u : Thread}
  (hu : (s.joinedBy id (f k.t c)).threads.find k.t = some u)
include hrel hu

/-- A thread that joins goes on with what it has been given by then, or waits. -/
theorem conduitWait_joins (w : Nat → Wait) : conduitWait cd w rel f s =
    (match u.cont with
      | .none => waitFor (w id)
      | .fail x v => if x == Cause.memerr then throw (Stop.memerr v) else trap x v
      | c => pure c) (s.joinedBy id (f k.t c)) := by
  have hsame : s.updThread k.t (fun th => { th with cont := .none }) = s := by
    have : s.threads.upd k.t (fun th => { th with cont := .none }) = s.threads := AMap.upd_same ht (by rw [← hn])
    simp only [State.updThread, this]
  have hcur : (s.joinedBy id (f k.t c)).cur = some k := (s.joinedBy_cur id _).trans hk
  unfold conduitWait
  rw [bind_ok (thread_run hk ht), if_neg (by simp [hn]), bind_ok hat]
  dsimp only
  rw [bind_ok (curT_run hk)]
  cases rel with
  | true =>
    rw [if_pos rfl, bind_ok (hrel rfl), bind_ok (modThread_run hk _), hsame, bind_ok (modify_run _ s)]
    exact bind_ok (thread_run hcur hu)
  | false =>
    rw [if_neg (by decide), bind_ok (modThread_run hk _), hsame, bind_ok (modify_run _ s)]
    exact bind_ok (thread_run hcur hu)

theorem conduitWait_waits (hc : u.cont = .none) (w : Nat → Wait) :
    conduitWait cd w rel f s = .error (.wait (w id)) (s.joinedBy id (f k.t c)) := by
  rw [conduitWait_joins hk ht hn hat hrel hu, hc]
  rfl

theorem conduitWait_status {v : Nat} (hc : u.cont = .tok v) (w : Nat → Wait) :
    conduitWait cd w rel f s = .ok (.tok v) (s.joinedBy id (f k.t c)) := by
  rw [conduitWait_joins hk ht hn hat hrel hu, hc]
  rfl

theorem conduitWait_record {vs : List TWord} {v : Nat} (hc : u.cont = .words vs v) (w : Nat → Wait) :
    conduitWait cd w rel f s = .ok (.words vs v) (s.joinedBy id (f k.t c)) := by
  rw [conduitWait_joins hk ht hn hat hrel hu, hc]
  rfl

end

end Sys2Proof.Machine

end
section
/-! LAWS. What CDSEND, CDCLOSE, CDRECV and CDPEEK do at first issue and after a wait (R117, R122 to R124), and the obligation. -/

namespace Sys2Proof.Machine

open Sys2Proof

/-! ## A record written to registers (R123) -/

theorem State.writeRun_cur (s : State) (t d : Nat) (ws : List TWord) : (s.writeRun t d ws).cur = s.cur := by
  induction ws generalizing s d with
  | nil => rfl
  | cons w ws ih => rw [State.writeRun, ih, State.writeReg_cur]

theorem cdWrite_run {s : State} {k : Cur} (hk : s.cur = some k) (d : Nat) (ws : List TWord) :
    cdWrite d ws s = .ok ⟨⟩ (s.writeRun k.t d ws) := by
  induction ws generalizing s d with
  | nil => rfl
  | cons w ws ih =>
    have hw : writeReg d w.bits.toNat w.tag s = .ok ⟨⟩ (s.writeReg k.t d w) := by
      simp [writeReg, bind_run, curT_run hk, modify_run]
    rw [cdWrite, bind_ok hw, ih (by rw [State.writeReg_cur]; exact hk)]
    rfl

/-- A body that writes a record and then a word, and completes. -/
theorem runCode_record {s S : State} {k : Cur} (hk : s.cur = some k) (hS : S.cur = s.cur) {srcs : List Nat} {ds : List Dest}
    {body : M Flow} {d a v : Nat} {tag : Tag} {ws : List TWord} (h : body s = (cdWrite d ws >>= fun _ => putWord a v tag) S) :
    runCode srcs ds body s = .next (((S.writeRun k.t d ws).writeReg k.t a ⟨BitVec.ofNat 32 v, tag⟩).done k.t) := by
  have hput := putWord_run ((State.writeRun_cur S k.t d ws).trans (hS.trans hk)) a v tag
  exact runCode_next hk (h.trans ((bind_ok (cdWrite_run (hS.trans hk) d ws)).trans hput))

/-! ## First issue -/

section
variable {s x : State} {k : Cur} {th : Thread} (hk : s.cur = some k) (hx : x.cur = s.cur) (ht : x.threads.find k.t = some th)
  (hn : th.cont = .none) {id cd : Nat} {c : Conduit} (hat : conduitAt cd x = .ok (id, c) x) {rel : Bool}
  (hrel : rel = true → releaseAt 2 x = .ok ⟨⟩ x) {f : Nat → Conduit → Conduit} {w : Nat → Wait} {rest : Cont → M Flow} {body : M Flow}
  (hbody : body s = (conduitWait cd w rel f >>= rest) x) {u : Thread} (hu : (x.joinedBy id (f k.t c)).threads.find k.t = some u)
  {srcs : List Nat} {ds : List Dest}
include hk hx ht hn hat hrel hbody hu

/-- A thread that joins and is given nothing waits. -/
theorem runCode_joins_waits (hc : u.cont = .none) : runCode srcs ds body s = .next ((x.joinedBy id (f k.t c)).waitOn k.t (w id)) :=
  runCode_wait hk (hbody.trans (bind_error (conduitWait_waits (hx.trans hk) ht hn hat hrel hu hc w) rest))

/-- A thread that joins and is given a status completes with it. -/
theorem runCode_joins_status {v d : Nat} (hc : u.cont = .tok v) (hrest : rest (.tok v) = putWord d v .u32) :
    runCode srcs ds body s = .next ((x.joinedBy id (f k.t c)).result k.t d ⟨BitVec.ofNat 32 v, .u32⟩ false false 0) := by
  refine runCode_putWord_unread hk ((x.joinedBy_cur id _).trans hx) hu (hbody.trans ?_)
  rw [bind_ok (conduitWait_status (hx.trans hk) ht hn hat hrel hu hc w), hrest]

/-- A thread that joins and is given a record completes with it. -/
theorem runCode_joins_record {v d a : Nat} {vs : List TWord} (hc : u.cont = .words vs v)
    (hrest : rest (.words vs v) = cdWrite d vs >>= fun _ => putWord a v .u32) : runCode srcs ds body s =
      .next ((((x.joinedBy id (f k.t c)).writeRun k.t d vs).writeReg k.t a ⟨BitVec.ofNat 32 v, .u32⟩).done k.t) := by
  refine runCode_record hk ((x.joinedBy_cur id _).trans hx) (hbody.trans ?_)
  rw [bind_ok (conduitWait_record (hx.trans hk) ht hn hat hrel hu hc w), hrest]

end

/-- What a thread that has read registers stands with. -/
theorem State.find_reading {s : State} {t : Nat} {th : Thread} (ht : s.threads.find t = some th) (B : AMap TWord) (z m : Bool) :
    (s.reading t B z m).threads.find t =
      some { th with opbuf := B, pendLapf := th.pendLapf || z, pendMis := th.pendMis || m } := by
  simp [State.reading, State.updThread, ht]


/-! ## The four instructions -/

/-- A thread that runs an instruction for the first time is the one at issue, in a gang, and has been given nothing. -/
theorem State.Runs.fresh {s : State} {t : Nat} {fs : List Field} {ex : List Nat} {gd : Guard} (h : s.Runs t fs ex gd) :
    ∃ k th g, s.cur = some k ∧ k.t = t ∧ s.threads.find t = some th ∧ s.gangs.find (gidOf t) = some g ∧ th.cont = .none := by
  obtain ⟨k, th, g, hk, hkt, ht, hg, -, -, -, -, hn, -⟩ := h
  exact ⟨k, th, g, hk, hkt, ht, hg, hn⟩

/-- A thread that issues an instruction again is the one at issue, and has been given what it goes on with. -/
theorem State.Resumes.given {s : State} {t : Nat} {fs : List Field} {ex : List Nat} {gd : Guard} {on : Bool} {x : Cont}
    (h : s.Resumes t fs ex gd on x) : ∃ k th, s.cur = some k ∧ k.t = t ∧ s.threads.find t = some th ∧ th.cont = x := by
  obtain ⟨k, th, -, hk, hkt, ht, -, -, -, -, hx⟩ := h
  exact ⟨k, th, hk, hkt, ht, hx⟩

/-- The conduit as a sender that brings a record has joined it. -/
def sendTo (ws : List TWord) (t : Nat) (c : Conduit) : Conduit := { c with senders := c.senders ++ [(t, some ⟨ws.map cdWord, none⟩)] }

/-- The conduit as a thread that closes it has joined its senders. -/
def closeBy (t : Nat) (c : Conduit) : Conduit := { c with senders := c.senders ++ [(t, none)] }

/-- The conduit as a receiver has joined it. -/
def recvFrom (t : Nat) (c : Conduit) : Conduit :=
  { c with recvs := c.recvs ++ [t], fill := match c.fill with | .rest => .ready | x => x }

/-- Instruction `i` of `t`, having joined and left `S`, waits for `w` where it has been given nothing by then. -/
def State.JoinWaits (s S : State) (t : Nat) (w : Wait) (i : Instr) : Prop :=
  ∀ u, S.threads.find t = some u → u.cont = .none → exec i s = .next (S.waitOn t w)

/-- Instruction `i` of `t`, having joined and left `S`, completes with the status that it has been given by then. -/
def State.JoinEnds (s S : State) (t : Nat) (i : Instr) (d : Nat) : Prop :=
  ∀ u v, S.threads.find t = some u → u.cont = .tok v → exec i s = .next (S.result t d ⟨BitVec.ofNat 32 v, .u32⟩ false false 0)

/-- The body of CDSEND. -/
def cdsendBody (d a cd n : Nat) : M Flow := do
  let _ ← conduitAt cd
  let ws ← readWords a n
  let c ← conduitWait cd .send true (sendTo ws)
  putWord d c.status .u32

/-- How CDRECV ends with what it was given. -/
def recvRest (d a : Nat) : Cont → M Flow
  | .words ws n => do
    cdWrite d ws
    putWord a n .u32
  | c => putWord a c.status .u32

theorem exec_cdsend (gd : Guard) (d a cd n k : Nat) :
    exec (.cdsend gd d a cd n k) = code [.r d, .range a n] gd [.reg d .u32] (cdsendBody d a cd n) := rfl

theorem exec_cdclose (gd : Guard) (d cd k : Nat) : exec (.cdclose gd d cd k) =
    code [.r d] gd [.reg d .u32] (conduitWait cd .send false closeBy >>= fun c => putWord d c.status .u32) := rfl

theorem exec_cdrecv (gd : Guard) (d a cd k : Nat) : exec (.cdrecv gd d a cd k) =
    code [.range d 8, .r a] gd (cdDests d a) (conduitWait cd .recv false recvFrom >>= recvRest d a) := by
  have hrest : recvRest d a = fun x => match x with
      | .words ws n => do
        cdWrite d ws
        putWord a n .u32
      | c => putWord a c.status .u32 := by
    funext x
    cases x <;> rfl
  rw [hrest]
  rfl

/-- CDSEND reads its record before it waits. -/
theorem cdsendBody_reads {s x : State} {d a cd n id : Nat} {c : Conduit} {ws : List TWord} (hat : conduitAt cd s = .ok (id, c) s)
    (hrd : readWords a n s = .ok ws x) :
    cdsendBody d a cd n s = (conduitWait cd .send true (sendTo ws) >>= fun c => putWord d c.status .u32) x := by
  rw [cdsendBody, bind_ok hat, bind_ok hrd]

section
variable {s : State} {t : Nat} {gd : Guard} {d a cd n k id : Nat} {c : Conduit} (hat : s.Gives t (conduitAt cd) (id, c))
include hat

/-- R122: CDSEND reads its record, waits for the side log of its gang, and joins the senders. -/
theorem cdsend_joins {ws : List TWord} {z m : Bool} (hr : s.Runs t [.r d, .range a n] [] gd)
    (hws : s.reads t ((List.range n).map fun j => (a + j, .any)) = some (ws, z, m)) : ∃ B,
    ((∃ g, s.gangs.find (gidOf t) = some g ∧ g.slog ≠ []) → exec (.cdsend gd d a cd n k) s =
      .next (((s.reading t B z m).updThread t fun y => { y with cont := .drained }).waitOn t .slogEmpty)) ∧
    ((∃ g, s.gangs.find (gidOf t) = some g ∧ g.slog = []) →
      s.JoinWaits ((s.reading t B z m).joinedBy id (sendTo ws t c)) t (.send id) (.cdsend gd d a cd n k) ∧
      s.JoinEnds ((s.reading t B z m).joinedBy id (sendTo ws t c)) t (.cdsend gd d a cd n k) d) := by
  obtain ⟨q, th, -, hq, rfl, ht, -, hn⟩ := hr.fresh
  obtain ⟨B, hrd⟩ := (reads_readWords hq ht hws).start
  obtain ⟨-, -, -, -, -, -, hs⟩ := hr.start
  rw [hs] at hrd
  have hbody := cdsendBody_reads (d := d) hat.run_unread hrd
  have hatB := hat.run B z m
  have htB := State.find_reading ht B z m
  refine ⟨B, fun ⟨g, hg, hl⟩ => ?logged, fun ⟨g, hg, hl⟩ => ⟨fun u hu hc => ?waits, fun u v hu hc => ?ends⟩⟩ <;>
    rw [exec_cdsend, hr.code_eq]
  case logged =>
    have hrel := releaseAt_core_waits (s := s.reading q.t B z m) hq hg htB hn hl
    exact runCode_wait hq (hbody.trans (bind_error (conduitWait_released (s := s.reading q.t B z m) hq htB hn hatB hrel _ _) _))
  case waits => exact runCode_joins_waits (x := s.reading q.t B z m) hq rfl htB hn hatB (fun _ => releaseAt_core_passes hq hg hl) hbody hu hc
  case ends => exact runCode_joins_status (x := s.reading q.t B z m) hq rfl htB hn hatB (fun _ => releaseAt_core_passes hq hg hl) hbody hu hc rfl

/-- R124: CDCLOSE joins the senders. -/
theorem cdclose_joins (hr : s.Runs t [.r d] [] gd) :
    s.JoinWaits (s.joinedBy id (closeBy t c)) t (.send id) (.cdclose gd d cd k) ∧
    s.JoinEnds (s.joinedBy id (closeBy t c)) t (.cdclose gd d cd k) d := by
  obtain ⟨q, th, -, hq, rfl, ht, -, hn⟩ := hr.fresh
  refine ⟨fun u hu hc => ?_, fun u v hu hc => ?_⟩ <;> rw [exec_cdclose, hr.code_eq]
  · exact runCode_joins_waits hq rfl ht hn hat.run_unread (rel := false) nofun rfl hu hc
  · exact runCode_joins_status hq rfl ht hn hat.run_unread (rel := false) nofun rfl hu hc rfl

/-- R123: CDRECV joins the receivers. -/
theorem cdrecv_joins (hr : s.Runs t [.range d 8, .r a] [] gd) :
    s.JoinWaits (s.joinedBy id (recvFrom t c)) t (.recv id) (.cdrecv gd d a cd k) ∧
    s.JoinEnds (s.joinedBy id (recvFrom t c)) t (.cdrecv gd d a cd k) a ∧
    ∀ u vs v, (s.joinedBy id (recvFrom t c)).threads.find t = some u → u.cont = .words vs v → exec (.cdrecv gd d a cd k) s =
      .next ((((s.joinedBy id (recvFrom t c)).writeRun t d vs).writeReg t a ⟨BitVec.ofNat 32 v, .u32⟩).done t) := by
  obtain ⟨q, th, -, hq, rfl, ht, -, hn⟩ := hr.fresh
  refine ⟨fun u hu hc => ?_, fun u v hu hc => ?_, fun u vs v hu hc => ?_⟩ <;> rw [exec_cdrecv, hr.code_eq]
  · exact runCode_joins_waits hq rfl ht hn hat.run_unread (rel := false) nofun rfl hu hc
  · exact runCode_joins_status hq rfl ht hn hat.run_unread (rel := false) nofun rfl hu hc rfl
  · exact runCode_joins_record hq rfl ht hn hat.run_unread (rel := false) nofun rfl hu hc rfl

/-- R124: CDPEEK shows the first record that the buffer holds. -/
theorem cdpeek_record {r : CdRec} {rs : List CdRec} (hr : s.Runs t [.range d 8, .r a] [] gd) (hb : c.buf = r :: rs) (hbad : r.bad = none) :
    exec (.cdpeek gd d a cd k) s = .next (((s.writeRun t d r.ws).writeReg t a ⟨BitVec.ofNat 32 r.ws.length, .u32⟩).done t) := by
  obtain ⟨q, -, -, hq, rfl, -⟩ := hr.fresh
  show code _ _ _ _ s = _
  rw [hr.code_eq]
  refine runCode_record hq rfl ?_
  rw [bind_ok hat.run_unread]
  dsimp only
  rw [hb]
  dsimp only
  rw [hbad]

/-- R124: CDPEEK of an empty buffer tells whether the conduit is drained. -/
theorem cdpeek_empty (hr : s.Runs t [.range d 8, .r a] [] gd) (hb : c.buf = []) : exec (.cdpeek gd d a cd k) s =
    .next (s.result t a ⟨if c.drained then 256 else 0, .u32⟩ false false 0) := by
  obtain ⟨q, th, -, hq, rfl, ht, -⟩ := hr.fresh
  have hv : (if c.drained then 256 else 0 : Word) = BitVec.ofNat 32 (if c.drained then 256 else 0 : Nat) := by split <;> rfl
  show code _ _ _ _ s = _
  rw [hr.code_eq, hv]
  refine runCode_putWord_unread hq rfl ht ?_
  rw [bind_ok hat.run_unread]
  dsimp only
  rw [hb]
  cases c.drained <;> rfl

/-! ## After a wait -/

/-- CDSEND completes with the status that it was given while it waited. -/
theorem cdsend_resumes {v : Nat} {ws : List TWord} {B : AMap TWord} {z m : Bool} (hr : s.Resumes t [.r d, .range a n] [] gd true (.tok v))
    (hrd : readWords a n s = .ok ws (s.reading t B z m)) :
    exec (.cdsend gd d a cd n k) s = .next (s.result t d ⟨BitVec.ofNat 32 v, .u32⟩ z m 0) := by
  obtain ⟨q, th, hq, rfl, ht, hc⟩ := hr.given
  rw [exec_cdsend, hr.code_eq nofun]
  refine runCode_putWord (B := B) hq rfl ht ((cdsendBody_reads hat.run_unread hrd).trans ?_)
  have hgiven := conduitWait_given (s := s.reading q.t B z m) hq (State.find_reading ht B z m) (by simp [hc]) (by simp [hc])
  rw [bind_ok (hgiven cd .send true _)]
  dsimp only
  rw [hc]
  rfl

end

section
variable {s : State} {t : Nat} {gd : Guard} {d a cd v k : Nat}

/-- CDCLOSE completes with the status that it was given while it waited. -/
theorem cdclose_resumes (hr : s.Resumes t [.r d] [] gd true (.tok v)) :
    exec (.cdclose gd d cd k) s = .next (s.result t d ⟨BitVec.ofNat 32 v, .u32⟩ false false 0) := by
  obtain ⟨q, th, hq, rfl, ht, hc⟩ := hr.given
  have hgiven := conduitWait_given hq ht (by simp [hc]) (by simp [hc]) cd .send false closeBy
  rw [exec_cdclose, hr.code_eq nofun]
  exact runCode_putWord_unread hq rfl ht (by rw [bind_ok hgiven, hc]; rfl)

/-- CDRECV completes with the status, or the record, that it was given while it waited. -/
theorem cdrecv_resumes_status (hr : s.Resumes t [.range d 8, .r a] [] gd true (.tok v)) :
    exec (.cdrecv gd d a cd k) s = .next (s.result t a ⟨BitVec.ofNat 32 v, .u32⟩ false false 0) := by
  obtain ⟨q, th, hq, rfl, ht, hc⟩ := hr.given
  have hgiven := conduitWait_given hq ht (by simp [hc]) (by simp [hc]) cd .recv false recvFrom
  rw [exec_cdrecv, hr.code_eq nofun]
  exact runCode_putWord_unread hq rfl ht (by rw [bind_ok hgiven, hc]; rfl)

theorem cdrecv_resumes_record {vs : List TWord} (hr : s.Resumes t [.range d 8, .r a] [] gd true (.words vs v)) :
    exec (.cdrecv gd d a cd k) s = .next (((s.writeRun t d vs).writeReg t a ⟨BitVec.ofNat 32 v, .u32⟩).done t) := by
  obtain ⟨q, th, hq, rfl, ht, hc⟩ := hr.given
  have hgiven := conduitWait_given hq ht (by simp [hc]) (by simp [hc]) cd .recv false recvFrom
  rw [exec_cdrecv, hr.code_eq nofun]
  exact runCode_record hq rfl (by rw [bind_ok hgiven, hc]; rfl)

end

/-- Settles O32: each instruction by what it does at first issue, and by what it completes with after a wait. -/
theorem conduits : Obligations.Conduits := by
  unfold Obligations.Conduits
  refine ⟨?first, ?again⟩
  case first =>
    rintro s t gd d a cd n k id c ws z m hat pumped waits ends
    have hpumped (hs : s.reading t [] false false = s) (hz : z = false) (hm : m = false) (f : Conduit → Conduit) :
        pumped [] f = s.joinedBy id (f c) := by
      simp only [pumped, hz, hm, hs]
      rfl
    refine ⟨fun hr hws => cdsend_joins hat hr hws, fun hr hz hm => ?close, fun hr hz hm => ⟨?recv, ?record, ?empty⟩⟩
    all_goals obtain ⟨-, -, -, -, -, -, hs⟩ := hr.start
    case close =>
      intro S
      have hS : S = s.joinedBy id (closeBy t c) := hpumped hs hz hm (closeBy t)
      rw [hS]
      exact cdclose_joins hat hr
    case recv =>
      intro S
      have hS : S = s.joinedBy id (recvFrom t c) := hpumped hs hz hm (recvFrom t)
      rw [hS]
      exact cdrecv_joins hat hr
    case record => exact fun r rs => cdpeek_record hat hr
    case empty => exact cdpeek_empty hat hr
  case again =>
    rintro s t gd d a cd n v k id c ws vs B z m hat
    exact ⟨fun hr hrd => cdsend_resumes hat hr hrd, cdclose_resumes, cdrecv_resumes_status, cdrecv_resumes_record⟩

end Sys2Proof.Machine

end
section
/-! LAWS. LAUNCH, QSIG and CBSET (05_queue R125, R126, R137), and the obligation. -/

namespace Sys2Proof.Machine

open Sys2Proof

/-- An instruction that reads two operands and goes on with them. -/
theorem State.Reads.both {α β γ : Type} {s : State} {t : Nat} {op : M α} {op' : M β} {a : α} {b : β} {z m z' m' : Bool}
    (h : s.Reads t op a z m) (h' : s.Reads t op' b z' m') (hs : s.reading t [] false false = s) :
    ∃ B, ∀ k : α → β → M γ, (op >>= fun a => op' >>= fun b => k a b) s = k a b (s.reading t B (z || z') (m || m')) := by
  obtain ⟨B₁, e₁, hb₁⟩ := h [] false false (s.agrees_nil t false false)
  obtain ⟨B, e, -⟩ := h' B₁ _ _ hb₁
  rw [hs, Bool.false_or, Bool.false_or] at e₁
  rw [Bool.false_or, Bool.false_or] at e
  exact ⟨B, fun k => by rw [bind_ok e₁, bind_ok e]⟩

/-- A packet appended by the device leaves threads and gangs alone. -/
theorem State.SameUnits.appendPacket {s x : State} (h : s.SameUnits x) (q p : Nat) : s.SameUnits (x.appendPacket q p) := by
  have hx := h.ppXlate (x.queue q).home (x.queue q).ctx ((x.queue q).slotVa (x.queue q).wridx) .store
  unfold State.appendPacket
  dsimp only
  refine (SameUnits.setQueue ?_ _ _).settleQ q
  split
  · next e =>
    rw [e] at hx
    exact .ite ((hx.physSet ..).curePoison ..) (.ite (hx.remoteWrite ..) (.ite (hx.physSet ..) hx))
  · next e =>
    rw [e] at hx
    exact hx

@[simp] theorem State.reading_queue (s : State) (t : Nat) (B : AMap TWord) (z m : Bool) (q : Nat) :
    (s.reading t B z m).queue q = s.queue q := rfl

/-! ## LAUNCH -/

/-- What LAUNCH does once it has the number of its queue and the words of its packet. -/
def launchRest (d q : Nat) (ws : List TWord) : M Flow := do
  let gg ← gang
  let x := (← get).queue q
  if 1023 < q || x.st == .disabled || x.mode != 1 || x.ctx != gg.ctx then putWord d 2 .u32
  else do
    reportLog 3
    releaseAt 3
    if x.untaken == 2 ^ (x.lg + 4) then putWord d 1 .u32
    else do
      modify fun s => s.appendPacket q (wordsNat ws)
      putWord d 0 .u32

theorem exec_launch (gd : Guard) (d a b k : Nat) : exec (.launch gd d a b k) =
    code [.r d, .range a 16, .r b] gd [.reg d .u32] (natSrc b >>= fun q => readWords a 16 >>= fun ws => launchRest d q ws) := rfl

section
variable {s : State} {c : Cur} {g : Gang} (hc : s.cur = some c) (hg : s.gangs.find (gidOf c.t) = some g) {d q : Nat} {ws : List TWord}
include hc hg

theorem launchRest_refused
    (hq : 1023 < q ∨ (s.queue q).st = .disabled ∨ (s.queue q).mode ≠ 1 ∨ (s.queue q).ctx ≠ g.ctx) :
    launchRest d q ws s = putWord d 2 .u32 s := by
  unfold launchRest
  rw [bind_ok (gang_run hc hg), bind_ok (get_run s)]
  rw [if_pos (by simpa [or_assoc] using hq)]

theorem launchRest_allowed (hn : q ≤ 1023) (hst : (s.queue q).st ≠ .disabled) (hm : (s.queue q).mode = 1) (hx : (s.queue q).ctx = g.ctx)
    {S S' : State} (hlog : reportLog 3 s = .ok ⟨⟩ S) (hrel : releaseAt 3 S = .ok ⟨⟩ S') :
    launchRest d q ws s = (if (s.queue q).untaken = 2 ^ ((s.queue q).lg + 4) then putWord d 1 .u32
      else modify (fun s => s.appendPacket q (wordsNat ws)) >>= fun _ => putWord d 0 .u32) S' := by
  unfold launchRest
  rw [bind_ok (gang_run hc hg), bind_ok (get_run s)]
  rw [if_neg (by simp [hn, hst, hm, hx]), bind_ok hlog, bind_ok hrel]
  simp only [beq_iff_eq]

end

section
variable {s S : State} {t : Nat} {gd : Guard} {d a b k : Nat} {y : TWord} {ws : List TWord} {z1 z2 m1 m2 : Bool} {g : Gang}
  (hg : s.gangs.find (gidOf t) = some g) (hr : s.Runs t [.r d, .range a 16, .r b] [] gd)
  (hy : s.reads t [(b, .int)] = some ([y], z1, m1))
  (hws : s.reads t ((List.range 16).map fun j => (a + j, .any)) = some (ws, z2, m2))
include hg hr hy hws

/-- R125: LAUNCH of a queue that the caller may not use, or that is not in launch mode, gives 2. -/
theorem launch_refused (hq : 1023 < y.bits.toNat ∨ (s.queue y.bits.toNat).st = .disabled ∨ (s.queue y.bits.toNat).mode ≠ 1 ∨
    (s.queue y.bits.toNat).ctx ≠ g.ctx) :
    exec (.launch gd d a b k) s = .next (s.result t d ⟨2, .u32⟩ (z1 || z2) (m1 || m2) 0) := by
  obtain ⟨c, th, hc, rfl, ht, -, hs⟩ := hr.start
  obtain ⟨B, hread⟩ := (reads_readBits hc ht (State.reads_one hy)).both (reads_readWords hc ht hws) hs
  rw [exec_launch, hr.code_eq]
  exact runCode_putWord (v := 2) hc rfl ht ((hread _).trans (launchRest_refused (s := s.reading c.t B _ _) hc hg hq))

variable (hn : y.bits.toNat ≤ 1023) (hst : (s.queue y.bits.toNat).st ≠ .disabled) (hm : (s.queue y.bits.toNat).mode = 1)
  (hx : (s.queue y.bits.toNat).ctx = g.ctx) (hlog : s.Gives t (reportLog 3) ⟨⟩) (hrel : s.Turns S t (releaseAt 3) ⟨⟩ false)
include hn hst hm hx hlog hrel

/-- R125: LAUNCH of a full queue gives 1. -/
theorem launch_full (hfull : (s.queue y.bits.toNat).untaken = 2 ^ ((s.queue y.bits.toNat).lg + 4)) :
    exec (.launch gd d a b k) s = .next (S.result t d ⟨1, .u32⟩ (z1 || z2) (m1 || m2) 0) := by
  obtain ⟨c, th, hc, rfl, ht, -, hs⟩ := hr.start
  obtain ⟨B, hread⟩ := (reads_readBits hc ht (State.reads_one hy)).both (reads_readWords hc ht hws) hs
  obtain ⟨hcur, hthreads, -⟩ := id hrel
  have hrest := launchRest_allowed (s := s.reading c.t B (z1 || z2) (m1 || m2)) (d := d) (ws := ws) hc hg hn hst hm hx
    (hlog.run ..) (hrel.run ..)
  rw [exec_launch, hr.code_eq]
  exact runCode_putWord (v := 1) hc hcur (hthreads ▸ ht) ((hread _).trans (hrest.trans (congrFun (if_pos hfull) _)))

/-- R125: LAUNCH of a queue with room appends its words as a packet and gives 0. -/
theorem launch_appends (hroom : (s.queue y.bits.toNat).untaken ≠ 2 ^ ((s.queue y.bits.toNat).lg + 4)) :
    ∃ B, exec (.launch gd d a b k) s = .next ((((S.reading t B (z1 || z2) (m1 || m2)).appendPacket y.bits.toNat (wordsNat ws)).writeReg t d
      ⟨0, .u32⟩).done t) := by
  obtain ⟨c, th, hc, rfl, ht, -, hs⟩ := hr.start
  obtain ⟨B, hread⟩ := (reads_readBits hc ht (State.reads_one hy)).both (reads_readWords hc ht hws) hs
  obtain ⟨hcur, -, -⟩ := id hrel
  have hrest := launchRest_allowed (s := s.reading c.t B (z1 || z2) (m1 || m2)) (d := d) (ws := ws) hc hg hn hst hm hx
    (hlog.run ..) (hrel.run ..)
  have happ := (State.SameUnits.refl (S.reading c.t B (z1 || z2) (m1 || m2))).appendPacket y.bits.toNat (wordsNat ws)
  have hput := putWord_run (happ.cur.trans (hcur.trans hc)) d 0 .u32
  rw [exec_launch, hr.code_eq]
  rw [State.reading_queue, if_neg hroom, bind_ok (modify_run ..)] at hrest
  exact ⟨B, runCode_next hc ((hread _).trans (hrest.trans hput))⟩

end

/-! ## QSIG -/

/-- What QSIG does once it has its address and its operand. -/
def qsigRest (d va : Nat) (n : Int) : M Flow := do
  if va / 2 ^ 56 != 0 then trap .addr va
  let _ ← checkMem va 8 8
  reportLog 3
  let _ ← logLoad va 8 false
  let (pa, pte) ← xlate va .rmw
  checkBrk va 8 true true
  if pteLink pte != 0 then trap .access va
  objectCheck false pa pte va 8 0 0
  releaseAt 3
  let t ← curT
  let gg ← gang
  let (o, s) := (← get).atomLocal (coreOf t) gg.ctx 3 pa pte 8 fun old => some (trunc ((old : Int) + n) 64, 0)
  set s
  match o.poison with
  | some i => throw (.memerr (va + i))
  | none => do
    modify State.notifyWaits
    putWord d (o.v % 2 ^ 32) .u32

theorem exec_qsig (gd : Guard) (d a b k : Nat) : exec (.qsig gd d a b k) =
    code [.r d, .even a, .r b] gd [.reg d .u32] (readAddr a >>= fun va => intSrc true b >>= fun n => qsigRest d va n) := rfl

theorem qsigRest_run {s S S' S'' : State} {t d va pa pte v tg : Nat} {n : Int} {c : Cur} {g : Gang} {T : State} {B : AMap TWord} {z m : Bool}
    (hc : s.cur = some c) (hct : c.t = t) (hg : s.gangs.find (gidOf t) = some g)
    (hva : va < 2 ^ 56) (hmem : s.Gives t (checkMem va 8 8) (.glob va)) (hlog : s.Gives t (reportLog 3) ⟨⟩)
    (hload : s.Gives t (logLoad va 8 false) none) (hx : s.Turns S t (xlate va .rmw) (pa, pte) false)
    (hbrk : S.Gives t (checkBrk va 8 true true) ⟨⟩) (hlink : pteLink pte = 0)
    (hobj : S.Turns S' t (objectCheck false pa pte va 8 0 0) ⟨⟩ false) (hrel : S'.Turns S'' t (releaseAt 3) ⟨⟩ false)
    (hgs : S''.gangs = s.gangs)
    (hat : (S''.reading t B z m).atomLocal (coreOf t) g.ctx 3 pa pte 8 (fun old => some (trunc ((old : Int) + n) 64, 0)) =
      (⟨v, tg, none⟩, T.reading t B z m)) :
    qsigRest d va n (s.reading t B z m) = putWord d (v % 2 ^ 32 : Nat) .u32 (T.notifyWaits.reading t B z m) := by
  have hc'' : (S''.reading t B z m).cur = some c := by simp [hrel.1, hobj.1, hx.1, hc]
  have hg'' : (S''.reading t B z m).gangs.find (gidOf c.t) = some g := by rw [hct]; simpa [hgs] using hg
  unfold qsigRest
  rw [if_neg (by simpa using hva)]
  beta_reduce
  rw [bind_ok (hmem.run ..), bind_ok (hlog.run ..), bind_ok (hload.run ..), bind_ok (hx.run ..)]
  dsimp only
  rw [bind_ok (hbrk.run ..), if_neg (by simp [hlink]), bind_ok (hobj.run ..), bind_ok (hrel.run ..), bind_ok (curT_run hc''),
    bind_ok (gang_run hc'' hg''), bind_ok (get_run _), hct, hat]
  rfl

/-- R126: QSIG gives the low word of what it found. -/
theorem qsig_adds {s S S' S'' : State} {t : Nat} {gd : Guard} {d a b k pa pte : Nat} {A : DWord} {y : TWord} {z1 z2 m1 m2 : Bool} {g : Gang}
    (hg : s.gangs.find (gidOf t) = some g) (hr : s.Runs t [.r d, .even a, .r b] [] gd)
    (hA : s.srcPair t a .loAddr .hiAddr = some (A, z1, m1)) (hy : s.reads t [(b, .int)] = some ([y], z2, m2))
    (hva : A.toNat < 2 ^ 56) (hmem : s.Gives t (checkMem A.toNat 8 8) (.glob A.toNat)) (hlog : s.Gives t (reportLog 3) ⟨⟩)
    (hload : s.Gives t (logLoad A.toNat 8 false) none) (hx : s.Turns S t (xlate A.toNat .rmw) (pa, pte) false)
    (hbrk : S.Gives t (checkBrk A.toNat 8 true true) ⟨⟩) (hlink : pteLink pte = 0)
    (hobj : S.Turns S' t (objectCheck false pa pte A.toNat 8 0 0) ⟨⟩ false) (hrel : S'.Turns S'' t (releaseAt 3) ⟨⟩ false)
    (hgs : S''.gangs = s.gangs) {v tg : Nat} {T : State} (hat : ∀ B,
      (S''.reading t B (z1 || z2) (m1 || m2)).atomLocal (coreOf t) g.ctx 3 pa pte 8
        (fun old => some (trunc ((old : Int) + y.bits.toInt) 64, 0)) = (⟨v, tg, none⟩, T.reading t B (z1 || z2) (m1 || m2)))
    (hT : T.threads = s.threads) : exec (.qsig gd d a b k) s =
      .next (T.notifyWaits.result t d ⟨BitVec.ofNat 32 v, .u32⟩ (z1 || z2) (m1 || m2) 0) := by
  obtain ⟨c, th, hc, rfl, ht, -, hs⟩ := hr.start
  obtain ⟨B, hread⟩ := (reads_readPair hc ht hA).both (reads_intSrc hc ht (State.reads_one hy)) hs
  have hsame : T.notifyWaits.cur = s.cur := by
    have hU := (State.SameUnits.refl (S''.reading c.t B (z1 || z2) (m1 || m2))).atomLocal (sc := 3) (by decide) (coreOf c.t) g.ctx pa pte 8
      (fun old => some (trunc ((old : Int) + y.bits.toInt) 64, 0))
    rw [hat B] at hU
    exact hU.cur.trans (hrel.1.trans (hobj.1.trans hx.1))
  have hlow : BitVec.ofNat 32 v = BitVec.ofNat 32 (v % 2 ^ 32) := by
    apply BitVec.eq_of_toNat_eq
    simp
  have hrest := qsigRest_run (d := d) hc rfl hg hva hmem hlog hload hx hbrk hlink hobj hrel hgs (hat B)
  rw [exec_qsig, hr.code_eq, hlow]
  exact runCode_putWord hc hsame (hT ▸ ht) ((hread _).trans hrest)

/-! ## CBSET -/

/-- R137: CBSET sets its bit by the update that `cbsetMem` makes. -/
theorem cbset_sets {s S : State} {t : Nat} {gd : Guard} {a b k : Nat} {A : DWord} {y : TWord} {z1 z2 m1 m2 : Bool}
    (hr : s.Runs t [.even a, .r b] [] gd) (hA : s.srcPair t a .loAddr .hiAddr = some (A, z1, m1))
    (hy : s.reads t [(b, .int)] = some ([y], z2, m2))
    (hset : s.Turns S t (cbsetMem ((A.toNat + 8 * (y.bits.toNat / 64)) % 2 ^ 64) (2 ^ (y.bits.toNat % 64))) ⟨⟩ false) :
    exec (.cbset gd a b k) s = .next ((S.noted t (z1 || z2) (m1 || m2) 0).done t) := by
  obtain ⟨c, th, hc, rfl, ht, -, hs⟩ := hr.start
  obtain ⟨B, hread⟩ := (reads_readPair hc ht hA).both (reads_readBits hc ht (State.reads_one hy)) hs
  have htS : S.threads.find c.t = some th := by rw [hset.2.1]; exact ht
  rw [State.done, ← State.commit_reading htS B]
  show code _ _ _ _ s = _
  rw [hr.code_eq]
  refine runCode_next (f := .seq) hc ((hread _).trans ?_)
  rw [bind_ok (hset.run B _ _)]
  rfl

/-- Settles O34: each clause is one way through an instruction's body, once its operands are read. -/
theorem queueInstructions : Obligations.QueueInstructions := by
  unfold Obligations.QueueInstructions
  rintro s S S' S'' t gd d a b k pa pte A y ws z1 z2 m1 m2 g hg
  refine ⟨fun hr hy hws => ⟨launch_refused hg hr hy hws, fun hn hst hm hx hlog hrel _ => ⟨?full, ?room⟩⟩, ?qsig, ?cbset⟩
  case full => exact launch_full hg hr hy hws hn hst hm hx hlog hrel
  case room => exact launch_appends hg hr hy hws hn hst hm hx hlog hrel
  case qsig =>
    rintro hr hA hy va hva hmem hlog hload hx hbrk hlink hobj hrel hgs v tg T hat hT
    exact qsig_adds hg hr hA hy hva hmem hlog hload hx hbrk hlink hobj hrel hgs hat hT
  case cbset => exact cbset_sets

end Sys2Proof.Machine

end
section
/-! LAWS. Packets of a queue (05_queue R102 to R106, R108 to R110; 06_kernel R136): which body runs for the packet at the head, what each
type does, and the obligation. -/

namespace Sys2Proof.Machine

open Sys2Proof

/-! ## The packet at the head -/

/-- A DEPMAP packet starts (R106). -/
def startDepmap (q p idx : Nat) (s : State) : State :=
  let s := s.takePacket q false
  (s.setQueue q { s.queue q with depmap := some (p, idx) }).settleQ q

/-- A packet that has been read is not awaited. -/
theorem State.awaitHead_of_read {s S : State} {q p : Nat} (h : s.headPacket q = (.ok p, S)) : s.awaitHead q = none := by
  unfold State.awaitHead
  split
  · rfl
  · rw [h]

section
variable {s S : State} {q p : Nat} (hs : s.serves q = true) (hp : s.headPacket q = (.ok p, S))
include hs hp

/-- A good packet starts as its type says. -/
theorem packetOf_good {ty : Nat} (hty : pktType p = ty) (hgood : (S.queue q).good p = true) (f : Nat → Nat → State → State) :
    packetOf ty q f s = .next (f p (s.queue q).rdidx S) := by
  simp [packetOf, State.awaitHead_of_read hp, hs, hp, hty, hgood]

/-- R102: a bad packet is taken and counted. -/
theorem packetOf_bad {ty : Nat} (hty : pktType p = ty) (hbad : (S.queue q).good p = false) (f : Nat → Nat → State → State) :
    packetOf ty q f s = .next (S.badPacket q) := by
  simp [packetOf, State.awaitHead_of_read hp, hs, hp, hty, hbad]

/-- R108: a good NOP is taken. -/
theorem packetNop_good (hty : pktType p = 0) (hgood : (S.queue q).good p = true) :
    exec (.packetNop q) s = .next (S.takePacket q false) := by
  show execPacketNop q s = _
  simp [execPacketNop, State.awaitHead_of_read hp, hs, hp, hty, hgood]

/-- R102: a bad NOP, or a packet of no type, is taken and counted. -/
theorem packetNop_bad (hty : pktType p = 0 ∨ 6 ≤ pktType p) (hbad : (S.queue q).good p = false) :
    exec (.packetNop q) s = .next (S.badPacket q) := by
  show execPacketNop q s = _
  simp [execPacketNop, State.awaitHead_of_read hp, hs, hp, hty, hbad]

/-- R102: a bad packet is taken and counted, whichever its type. -/
theorem packet_bad {i : Instr} {ty : Nat} (hi : (i, ty) ∈ [(Instr.packetNop q, 0), (.packetKernel q, 1), (.packetSignal q, 2),
      (.packetWait q, 3), (.packetDepmap q, 4), (.packetInval q, 5)]) (hty : pktType p = ty) (hbad : (S.queue q).good p = false) :
    exec i s = .next (S.badPacket q) := by
  have hof (f : Nat → Nat → State → State) := packetOf_bad hs hp hty hbad f
  simp only [List.mem_cons, List.not_mem_nil, or_false, Prod.mk.injEq] at hi
  rcases hi with ⟨rfl, rfl⟩ | ⟨rfl, rfl⟩ | ⟨rfl, rfl⟩ | ⟨rfl, rfl⟩ | ⟨rfl, rfl⟩ | ⟨rfl, rfl⟩
  · exact packetNop_bad hs hp (.inl hty) hbad
  · exact hof (startKernel q)
  · exact hof (startSignal q)
  · exact hof (startWait q)
  · exact hof (startDepmap q)
  · exact hof (startInval q)

end

/-! ## Where a queue stands -/

/-- A queue put in the state that Table 5.3 gives it keeps its read index. -/
theorem State.settleQ_rdidx (s : State) (q : Nat) : ((s.settleQ q).queue q).rdidx = (s.queue q).rdidx := by
  unfold State.settleQ
  dsimp only
  split
  · rfl
  · simp [State.storeQ, State.queue, State.setQueue]

/-- A packet taken moves the read index on (R102). -/
theorem State.takePacket_rdidx (s : State) (q : Nat) (binds : Bool) :
    ((s.takePacket q binds).queue q).rdidx = ((s.queue q).rdidx + 1) % 2 ^ 32 := by
  unfold State.takePacket
  rw [State.settleQ_rdidx]
  simp [State.queue, State.setQueue]

/-! ## What each type does -/

/-- R103: a kernel whose descriptor cannot be read has its record written with status 7. -/
theorem startKernel_bad {S T : State} {q p : Nat}
    (h : S.readKernel (S.queue q).home (S.queue q).ctx (bits p 127 64) = (.bad, T)) (idx : Nat) : startKernel q p idx S =
      (T.takePacket q true).writeRecord (S.queue q).home (S.queue q).ctx (bits p 191 128) (recordWord 7 0) (bits p 255 192) := by
  simp only [startKernel, h]

/-- R103: a kernel whose descriptor is read starts. -/
theorem startKernel_ok {S T : State} {q p : Nat} {d : Desc} {es : List GEntry} {cds : List CEntry}
    (h : S.readKernel (S.queue q).home (S.queue q).ctx (bits p 127 64) = (.ok (d, es, cds), T)) (idx : Nat) :
    ∃ y, startKernel q p idx S = ((T.takePacket q true).addKernel y).packetWaits q idx (.kern (T.takePacket q true).kernNext) ∧
      y.st = .admitting ∧ y.desc = d ∧ y.ctx = (S.queue q).ctx ∧ y.q = q ∧ y.prio = pktPrio p ∧ y.cpl = bits p 191 128 ∧
      y.done = bits p 255 192 := by
  simp only [startKernel, h]
  exact ⟨_, rfl, rfl, rfl, rfl, rfl, rfl, rfl, rfl⟩

/-- R104: a SIGNAL needs an aligned address. -/
theorem startSignal_unaligned {S : State} {q p : Nat} (h : bits p 127 64 % 8 ≠ 0) (idx : Nat) :
    startSignal q p idx S = (S.takePacket q false).setErrst (S.queue q).ctx 3 := by
  simp only [startSignal]
  rw [if_pos (by simpa using h)]

/-- An address with no link is not of host memory. -/
theorem isHost_local {pte : Nat} (h : pteLink pte = 0) (pa : Nat) : isHost pte pa = false := by
  simp [isHost, h]

/-- R104: a SIGNAL stores to a word of local memory, or adds to it. -/
theorem startSignal_local {S T : State} {q p pa pte : Nat} (hva : bits p 127 64 % 8 = 0)
    (hx : (S.takePacket q false).ppXlate (S.queue q).home (S.queue q).ctx (bits p 127 64) .store = (some (pa, pte), T))
    (hlink : pteLink pte = 0) (idx : Nat) :
    startSignal q p idx S = (T.physSet (S.queue q).ctx 8 pa (signalValue p (T.phys 8 pa))).notifyWaits := by
  simp [startSignal, hva, hx, isHost_local hlink, hlink]

/-- R105: a WAIT whose comparison holds is done. -/
theorem startWait_holds {S T : State} {q p : Nat}
    (h : S.waitTest q (bits p 127 64) (bits p 191 128) (bits p 193 192) = (some true, T)) (idx : Nat) :
    startWait q p idx S = T.takePacket q false := by
  simp only [startWait, h]

/-- R105: a WAIT whose comparison does not hold waits. -/
theorem startWait_waits {S T : State} {q p : Nat}
    (h : S.waitTest q (bits p 127 64) (bits p 191 128) (bits p 193 192) = (some false, T)) (idx : Nat) :
    startWait q p idx S =
      (T.takePacket q false).packetWaits q idx (.wait (bits p 127 64) (bits p 191 128) (bits p 193 192) (pktAcq p)) := by
  simp only [startWait, h]

/-- R105: a WAIT that waits is compared again. -/
theorem waitRecheck_holds {s T : State} {q j v y cond a : Nat} (hst : (s.queue q).st = .busy) (hup : (s.die (s.queue q).home).st = .up)
    (hfind : (s.queue q).pend.find? (fun e => e.2.isWait) = some (j, .wait v y cond a)) (h : s.waitTest q v y cond = (some true, T)) :
    exec (.waitRecheck q) s = .next (T.packetDone q (.wait v y cond a)) := by
  show execWaitRecheck q s = _
  simp [execWaitRecheck, hst, hup, hfind, h]

/-! ## Dependences of a kernel (R136) -/

theorem setHas_setAdd (j k : Nat) (m : List Nat) : setHas j (setAdd k m) = (setHas j m || decide (j = k)) := by
  by_cases h : j = k
  · subst h
    simp [setHas_setAdd_self]
  · simp [setHas_setAdd_ne h, h]

/-- A set with every member of a list. -/
theorem setHas_foldl_setAdd (j : Nat) (js m : List Nat) : setHas j (js.foldl (fun r j => setAdd j r) m) = (setHas j m || js.contains j) := by
  induction js generalizing m with
  | nil => simp
  | cons k js ih =>
    rw [List.foldl_cons, ih, setHas_setAdd, List.contains_cons, Bool.or_assoc]
    rfl

/-- The dependence with the producers that a reading of the bitmap shows. -/
def Dep.observe (d : Dep) (js : List Nat) : Dep := { d with seen := (js.filter (· < d.nprod)).foldl (fun r j => setAdd j r) d.seen }

theorem Dep.observe_seen (d : Dep) (js : List Nat) (j : Nat) :
    setHas j (d.observe js).seen = (setHas j d.seen || (js.contains j && decide (j < d.nprod))) := by
  rw [Dep.observe, setHas_foldl_setAdd]
  congr 1
  rw [Bool.eq_iff_iff]
  simp

/-- R136: the bits that a bitmap shows are observed. -/
theorem depmapRecheck_observes {s T : State} {kern : Nat} {k : Kernel} {dep : Dep} {js : List Nat} (hk : s.kernels.find kern = some k)
    (hdep : k.dep = some dep) (hst : k.st = .admitting) (hdue : k.due = none) (ha : dep.bmap % 8 = 0)
    (h : s.readMap (s.queue k.q).home k.ctx dep.bmap ((dep.nprod + 63) / 64) = (.ok js, T)) : exec (.depmapRecheck kern) s =
      .next ((T.ppDone (s.queue k.q).home).updKernel kern fun z => { z with dep := some (dep.observe js) }) := by
  show execDepmapRecheck kern s = _
  simp [execDepmapRecheck, hk, hdep, hst, hdue, ha, h, Dep.observe]

/-- Settles O46: the packet at the head has been read, so the body of its type runs, and each clause is one case of that body. -/
theorem packets : Obligations.Packets := by
  unfold Obligations.Packets
  rintro s S q p pa pte kern k dep hs hp x i T va
  refine ⟨fun hgood => ⟨?nop, ?kernel, ?signal, ?wait, ?depmap⟩, fun hbad => ⟨?bad, ?untyped⟩, ?unread, ?taken, ?recheck, ?observed⟩
  case nop => exact fun hty => packetNop_good hs hp hty hgood
  case kernel =>
    rintro hty T'
    have hrun : exec (.packetKernel q) s = .next (startKernel q p i S) := packetOf_good hs hp hty hgood _
    rw [hrun]
    refine ⟨fun h => by rw [startKernel_bad h], fun d es cds h => ?_⟩
    obtain ⟨y, hy, hfields⟩ := startKernel_ok h i
    exact ⟨y, by rw [hy], hfields⟩
  case signal =>
    intro hty
    have hrun : exec (.packetSignal q) s = .next (startSignal q p i S) := packetOf_good hs hp hty hgood _
    rw [hrun]
    exact ⟨fun h => by rw [startSignal_unaligned h], fun T' hva hx hlink => by rw [startSignal_local hva hx hlink]; rfl⟩
  case wait =>
    rintro hty T'
    have hrun : exec (.packetWait q) s = .next (startWait q p i S) := packetOf_good hs hp hty hgood _
    rw [hrun]
    exact ⟨fun h => by rw [startWait_holds h], fun h => by rw [startWait_waits h]⟩
  case depmap => exact fun hty => packetOf_good hs hp hty hgood (startDepmap q)
  case bad => exact fun i ty hi hty => packet_bad hs hp hi hty hbad
  case untyped => exact fun hty => packetNop_bad hs hp (.inr hty) hbad
  case unread =>
    intro X hX
    rw [hp] at hX
    nomatch hX
  case taken => exact State.takePacket_rdidx S q false
  case recheck => exact fun j v y cond a T' => waitRecheck_holds
  case observed => exact fun hk hdep hst hdue ha js T' h => ⟨_, depmapRecheck_observes hk hdep hst hdue ha h, dep.observe_seen js⟩

end Sys2Proof.Machine

end
section
/-! LAWS. The life of a kernel (06_kernel R133, R138, R139; 16_population R353; 19_health R404 to R406): admission, completion, resamples and the
two checks, and the obligation. -/

namespace Sys2Proof.Machine

open Sys2Proof

/-! ## Admission and completion (R133, R138, R139) -/

section
variable {s : State} {kern : Nat} {k : Kernel} (hk : s.kernels.find kern = some k)
include hk

/-- R133: in a resident context a kernel that no other is served before gets its planned unit placed. -/
theorem unitAdmission_places {p : Plan} (hsweep : s.sweepGangs = s) (hplan : s.nextPlan kern k = some p)
    (hover : s.overtaken kern k = false) (hst : (s.ctx k.ctx).st = .resident) :
    exec (.unitAdmission kern) s = .next (s.admitUnit kern k p) := by
  show execUnitAdmission kern s = _
  simp [execUnitAdmission, hsweep, hk, hst, hplan, hover]

/-- Only a running kernel can begin to drain (Table 6.4). -/
theorem State.settleKernel_of_not_running (hst : k.st ≠ .running) : s.settleKernel kern = s := by
  simp [State.settleKernel, hk, hst]

/-- R138: with nothing outstanding a draining kernel completes, with status 5 and an error bit when it lost a write. -/
theorem kernelCompletion_drained (hsweep : s.sweepGangs = s) (hst : k.st = .draining) (hdue : k.due = none) (hbusy : s.kernBusy kern = false) :
    exec (.kernelCompletion kern) s =
      .next ((if k.lost then s.setErrst k.ctx 1 else s).finishKernel kern k (if k.lost then 5 else 1)) := by
  show execKernelCompletion kern s = _
  simp [execKernelCompletion, hsweep, State.settleKernel_of_not_running hk (by simp [hst]), hk, hst, hdue, hbusy]

/-- R139: a failed kernel completes with the status it failed with. -/
theorem kernelCompletion_failed {d : Nat} (hsweep : s.sweepGangs = s) (hst : k.st = .failed) (hdue : k.due = some d) :
    exec (.kernelCompletion kern) s = .next (s.finishKernel kern k d) := by
  show execKernelCompletion kern s = _
  simp [execKernelCompletion, hsweep, State.settleKernel_of_not_running hk (by simp [hst]), hk, hst, hdue]

/-! ## Resamples (R353) -/

/-- R353: a sealed resample without a record, every thread having abstained, is the identity. -/
theorem resampleComplete_identity {q : Pop} (hpop : k.pop = some q) (hst : q.st = .sealed) (hrec : q.record = none) :
    exec (.resampleComplete kern) s = .next ((s.identity kern q).finishStop k.ctx) := by
  show Host.Outcome.next (s.finishResample kern) = _
  simp [State.finishResample, hk, hpop, hst, hrec]

/-- R353: a sealed resample with a record goes by the target, the offset and the mode recorded. -/
theorem resampleComplete_recorded {q : Pop} {n u : Nat} {o : Bool} (hpop : k.pop = some q) (hst : q.st = .sealed)
    (hrec : q.record = some (n, u, o)) :
    exec (.resampleComplete kern) s = .next ((s.resample kern k q n u o).finishStop k.ctx) := by
  show Host.Outcome.next (s.finishResample kern) = _
  simp [State.finishResample, hk, hpop, hst, hrec]

end

/-- A thread stands in a generation and waits for nothing. -/
def Thread.Continues (gen : Nat) (y : Thread) : Prop := y.gen = gen ∧ y.wait = none

/-- A committed thread that has moved on keeps its generation and lineage and waits for nothing. -/
theorem Thread.Moved.continues {x y : Thread} (h : x.committed.Moved y) : y.Continues x.gen ∧ y.lin = x.lin := by
  obtain ⟨_, _, _, _, _, _, _, rfl⟩ := h
  exact ⟨⟨rfl, rfl⟩, rfl⟩

@[simp] theorem State.acquire_threads (s : State) (core : Nat) : (s.acquire core).threads = s.threads := rfl

/-- What an arrival that continues does to the threads: its own enters the generation and completes its RESAMPLE. -/
theorem State.survive_threads (s : State) (gen : Nat) (a : PopArr) :
    ∃ f, (∀ th, (f th).Continues gen ∧ (f th).lin = th.lin) ∧ (s.survive gen a).threads = s.threads.upd a.t f := by
  obtain ⟨f, hf, hd⟩ :=
    (((s.updThread a.t fun th => { th with gen := gen }).acquire (coreOf a.t)).writeReg a.t a.d ⟨0, .u32⟩).done_threads a.t
  refine ⟨fun th => f { th with gen := gen }, fun th => (hf _).continues, ?_⟩
  rw [← AMap.upd_upd]
  exact hd.trans (by rw [State.writeReg_threads, State.acquire_threads, State.updThread_threads])

/-- A thread after an arrival has continued: its own, and one that had continued before, stand in the new generation. -/
theorem State.find_survive {s : State} {t : Nat} {th : Thread} (h : s.threads.find t = some th) (gen : Nat) (a : PopArr) :
    ∃ y, (s.survive gen a).threads.find t = some y ∧ y.lin = th.lin ∧ (t = a.t ∨ th.Continues gen → y.Continues gen) := by
  obtain ⟨f, hf, hs⟩ := s.survive_threads gen a
  rw [hs, AMap.find_upd, h]
  by_cases ht : t = a.t
  · exact ⟨f th, if_pos ht, (hf th).2, fun _ => (hf th).1⟩
  · exact ⟨th, if_neg ht, rfl, fun hc => hc.resolve_left ht⟩

/-- R353, step 10: after all arrivals have continued each one's thread stands in the new generation, of the lineage it had. -/
theorem State.find_survivors {s : State} {t : Nat} {th : Thread} (h : s.threads.find t = some th) (gen : Nat) (as : List PopArr) :
    ∃ y, (as.foldl (fun s a => s.survive gen a) s).threads.find t = some y ∧ y.lin = th.lin ∧
      ((∃ a ∈ as, t = a.t) ∨ th.Continues gen → y.Continues gen) := by
  induction as generalizing s th with
  | nil => exact ⟨th, h, rfl, by simp⟩
  | cons a as ih =>
    obtain ⟨x, hx, hlin, hcont⟩ := State.find_survive h gen a
    obtain ⟨y, hy, hlin', hcont'⟩ := ih hx
    refine ⟨y, hy, hlin'.trans hlin, fun hc => hcont' ?_⟩
    simp only [List.mem_cons, exists_eq_or_imp] at hc
    obtain (ht | hin) | hth := hc
    · exact .inr (hcont (.inl ht))
    · exact .inl hin
    · exact .inr (hcont (.inr hth))

/-- R353: where every thread abstained, each arrival goes on in the next generation with its lineage. -/
theorem State.identity_continues {s : State} {kern : Nat} {q : Pop} {a : PopArr} {th : Thread} (ha : a ∈ q.arrs)
    (h : s.threads.find a.t = some th) :
    ∃ y, (s.identity kern q).threads.find a.t = some y ∧ y.gen = (q.gen + 1) % 65536 ∧ y.wait = none ∧ y.lin = th.lin := by
  obtain ⟨y, hy, hlin, hcont⟩ := State.find_survivors h ((q.gen + 1) % 65536) q.arrs
  obtain ⟨hgen, hwait⟩ := hcont (.inl ⟨a, ha, rfl⟩)
  exact ⟨y, hy, hgen, hwait, hlin⟩

/-! ## The watchdog and the budget (R404 to R406) -/

/-- R405: the first firing traps the kernel's first thread, where that can take a trap. -/
theorem State.bark_traps {s : State} {kern t : Nat} {th : Thread} {ts : List (Nat × Thread)}
    (hth : (s.unseal kern).kernThreads kern = (t, th) :: ts) (htrap : th.canTrap = true) (c v : Nat) :
    s.bark kern c v = (s.unseal kern).barkAt t v := by
  simp only [State.bark, hth, htrap, if_true]

section
variable {s X : State} {kern t tick : Nat} {k : Kernel} {th : Thread} {ts : List (Nat × Thread)}
  (hk : s.kernels.find kern = some k) (hw : s.watched k = true) (htick : s.tickOf k.ctx = tick)
include hk hw htick

section
variable {w : Nat} (hwin : orOf k.desc.wdwin (s.ctx k.ctx).wdwin = w) (hw0 : w ≠ 0) (hpast : k.prog + w < tick)
include hwin hw0 hpast

/-- R405: a window that passes in the second stage terminates the kernel. -/
theorem watchdogFire_terminates (h2 : k.stage2 = true) : exec (.watchdogFire kern) s = .next (s.terminate kern k.ctx) := by
  show execWatchdogFire kern s = _
  simp [execWatchdogFire, Kernel.windowDue, hk, hw, htick, hwin, hw0, Nat.succ_le_of_lt hpast, h2]

/-- R405: a window that passes in the first stage begins the second, and the kernel's first thread takes WATCHDOG. -/
theorem watchdogFire_traps (hX : (s.updKernel kern fun y => { y with stage2 := true, prog := tick }).unseal kern = X)
    (h2 : k.stage2 = false) (hth : X.kernThreads kern = (t, th) :: ts) (htrap : th.canTrap = true) :
    exec (.watchdogFire kern) s = .next (X.barkAt t w) := by
  subst hX
  show execWatchdogFire kern s = _
  simp [execWatchdogFire, Kernel.windowDue, hk, hw, htick, hwin, hw0, Nat.succ_le_of_lt hpast, h2, State.bark_traps hth htrap]

end

section
variable {b run : Nat} (hbud : orOf k.desc.budget (s.ctx k.ctx).budget = b) (hb0 : b ≠ 0) (hrun : tick - k.admTick.getD tick = run)
include hbud hb0 hrun

/-- R405: run ticks at twice the budget terminate the kernel. -/
theorem budgetFire_terminates (hover : 2 * b ≤ run) : exec (.budgetFire kern) s = .next (s.terminate kern k.ctx) := by
  have hat : b ≤ run := by omega
  show execBudgetFire kern s = _
  simp [execBudgetFire, Kernel.budgetDue, hk, hw, htick, hbud, hb0, hrun, hat, hover]

/-- R405: run ticks at the budget begin the second stage once, and the kernel's first thread takes WATCHDOG. -/
theorem budgetFire_traps (hX : (s.updKernel kern fun y => { y with budFired := true, stage2 := true, prog := tick }).unseal kern = X)
    (hat : b ≤ run) (hbelow : run < 2 * b) (hfired : k.budFired = false) (h2 : k.stage2 = false)
    (hth : X.kernThreads kern = (t, th) :: ts) (htrap : th.canTrap = true) :
    exec (.budgetFire kern) s = .next (X.barkAt t b) := by
  subst hX
  show execBudgetFire kern s = _
  simp [execBudgetFire, Kernel.budgetDue, hk, hw, htick, hbud, hb0, hrun, hat, Nat.not_le.2 hbelow, hfired, h2, State.bark_traps hth htrap]

end

end

/-- Settles O44: each clause is one branch of the event it names; that the threads of an identity resample go on is an induction over the
arrivals (`State.find_survivors`). -/
theorem kernelLife : Obligations.KernelLife := by
  unfold Obligations.KernelLife
  refine ⟨fun s kern d k p q hk => ⟨?admits, fun hsweep => ⟨?drained, ?failed⟩, fun hpop hsealed => ⟨?identity, ?resamples⟩⟩,
    fun s kern t k th ts hk hw => ⟨fun hwin hpast => ⟨?dies, ?barks⟩, fun hbud => ⟨?overspent, ?spent⟩⟩⟩
  case admits => exact unitAdmission_places hk
  case drained =>
    intro hst hdue hbusy
    have hrun := kernelCompletion_drained hk hsweep hst hdue hbusy
    exact ⟨fun hlost => by simpa [hlost] using hrun, fun hlost => by simpa [hlost] using hrun⟩
  case failed => exact kernelCompletion_failed hk hsweep
  case identity =>
    exact fun hrec => ⟨resampleComplete_identity hk hpop hsealed hrec, fun a th => State.identity_continues⟩
  case resamples => exact fun n u o => resampleComplete_recorded hk hpop hsealed
  case dies => exact watchdogFire_terminates hk hw rfl rfl hwin hpast
  case barks => exact watchdogFire_traps hk hw rfl rfl hwin hpast rfl
  case overspent => exact budgetFire_terminates hk hw rfl rfl hbud rfl
  case spent => exact budgetFire_traps hk hw rfl rfl hbud rfl rfl

end Sys2Proof.Machine

end

section
/-! LAWS. Branches, jumps, calls and returns (08_gang R161 to R163; 02_instruction_word R41), and the obligation. -/

namespace Sys2Proof.Machine

open Sys2Proof

/-! ## Bodies that trap, and bodies that end a clause -/

/-- A body that raises a trap, whatever it has read. -/
theorem runCode_trap {s S : State} {c : Cur} (hc : s.cur = some c) {srcs : List Nat} {ds : List Dest} {body : M Flow} {x : Cause} {v : Nat}
    (h : body s = .error (.trap x v) S) : runCode srcs ds body s = .next (S.takeTrap c.t x v) := by
  simp only [runCode, runWith, hc, h, stopped]

section
variable {s S : State} {t : Nat} {fs : List Field} {gd : Guard} (h : s.Runs t fs [] gd) {ds : List Dest} {body : M Flow}
include h

/-- Nothing has been read when an instruction runs for the first time. -/
theorem State.Runs.unread : s.reading t [] false false = s := by
  obtain ⟨-, -, -, -, -, -, hs⟩ := h.start
  exact hs

theorem code_trap {x : Cause} {v : Nat} (hb : body s = .error (.trap x v) S) : code fs gd ds body s = .next (S.takeTrap t x v) := by
  obtain ⟨c, th, hc, rfl, -⟩ := h.start
  exact runCode_trap hc ((issueWith_runs h).trans hb)

theorem codeEnd_trap {x : Cause} {v : Nat} (hb : body s = .error (.trap x v) S) : codeEnd fs gd ds body s = .next (S.takeTrap t x v) := by
  obtain ⟨c, th, hc, rfl, -⟩ := h.start
  exact runCode_trap hc ((issueWith_runs h).trans hb)

end

/-- A change of the thread that leaves alone what its running instruction has read and noted commits as it does after noting. -/
theorem State.commit_reading_change {s : State} {t : Nat} {th : Thread} (h : s.threads.find t = some th) (B : AMap TWord) (z m : Bool)
    {f : Thread → Thread}
    (hf : ∀ y B a b, f { y with opbuf := B, pendLapf := a, pendMis := b } = { f y with opbuf := B, pendLapf := a, pendMis := b }) :
    ((s.reading t B z m).updThread t f).commit t = ((s.noted t z m 0).updThread t f).commit t := by
  have hnoted : s.noted t z m 0 = s.updThread t fun y => { y with opbuf := y.opbuf, pendLapf := y.pendLapf || z, pendMis := y.pendMis || m } := by
    simp only [State.noted, orf, Nat.or_zero]
  rw [hnoted, State.reading, State.updThread_updThread, State.updThread_updThread]
  have hread := hf th B (th.pendLapf || z) (th.pendMis || m)
  have hkept := hf th th.opbuf (th.pendLapf || z) (th.pendMis || m)
  refine State.commit_congr h ?_ ?_
  · simp only [hread, hkept]
  · simp only [hread, hkept, Thread.clean]

/-! ## The checks of a target (R41) -/

/-- A target that is a code offset is named as it is in a trap. -/
theorem trunc_offset {n : Nat} (h : n ≤ 4294967288) : trunc (n : Int) 64 = n := by
  simp only [trunc]
  omega

/-- A target with a header passes. -/
theorem checkTarget_header {s : State} {t n : Nat} (h : s.headerAt t n) {T : Int} (hT : (n : Int) = T) (B : AMap TWord) (z m : Bool) :
    checkTarget T (s.reading t B z m) = .ok n (s.reading t B z m) := by
  obtain ⟨hle, hal, hfetch⟩ := h
  obtain ⟨w, hw⟩ := hfetch B z m
  subst hT
  unfold checkTarget
  simp only [trunc_offset hle]
  rw [if_neg (by simp; omega), bind_ok hw]
  rfl

/-- A target at or above the code's length is not fetched (R25). -/
theorem fetchWord_beyond {s : State} {c : Cur} {th : Thread} {g : Gang} {k : Kernel} {pc : Nat} (hc : s.cur = some c)
    (ht : s.threads.find c.t = some th) (hg : s.gangs.find (gidOf c.t) = some g) (hk : s.kernels.find g.kern = some k)
    (hf : th.fbuf.find pc = none) (hlen : k.desc.clen ≤ pc) : fetchWord pc s = .error (.trap .clause pc) s := by
  have hker : getKernel g.kern s = .ok k s := by simp only [getKernel, bind_run, get_run, hk, pure_run]
  unfold fetchWord
  rw [bind_ok (thread_run hc ht)]
  simp only [hf]
  rw [bind_ok (gang_run hc hg), bind_ok hker, if_pos (by simp [hlen])]
  rfl

/-- A target that fails a check raises CLAUSE with the target. -/
theorem checkTarget_fails {s : State} {c : Cur} (hc : s.cur = some c) {T : Int} (h : s.noHeaderAt c.t T) (B : AMap TWord) (z m : Bool) :
    checkTarget T (s.reading c.t B z m) = .error (.trap .clause (T % 18446744073709551616).toNat) (s.reading c.t B z m) := by
  unfold checkTarget
  by_cases hbad : T < 0 ∨ 4294967288 < T ∨ T % 8 ≠ 0
  · rw [if_pos (by simpa [or_assoc] using hbad)]
    rfl
  · rw [if_neg (by simpa [or_assoc] using hbad)]
    obtain h | h | h | ⟨n, rfl, h⟩ := h
    · exact absurd (.inl h) hbad
    · exact absurd (.inr (.inl h)) hbad
    · exact absurd (.inr (.inr h)) hbad
    have hle : n ≤ 4294967288 := by omega
    have hv : ((n : Int) % 18446744073709551616).toNat = n := by omega
    rw [trunc_offset hle, hv]
    obtain ⟨th, g, k, ht, hg, hk, hf, hlen⟩ | h := h
    · exact bind_error (fetchWord_beyond (s := s.reading c.t B z m) hc (State.find_reading ht B z m) hg hk hf hlen) _
    · obtain ⟨w, hw⟩ := h B z m
      rw [bind_ok hw]
      rfl

/-- The target in a register is checked as it was read. -/
theorem regTarget_reads {s : State} {c : Cur} {th : Thread} (hc : s.cur = some c) (ht : s.threads.find c.t = some th)
    (hs : s.reading c.t [] false false = s) {a : Nat} {x : TWord} {z m : Bool} (h : s.reads c.t [(a, .int)] = some ([x], z, m)) :
    ∃ B, regTarget a s = checkTarget (x.bits.toNat : Int) (s.reading c.t B z m) := by
  obtain ⟨B, hread⟩ := (reads_readBits hc ht (State.reads_one h)).start
  rw [hs] at hread
  exact ⟨B, bind_ok hread⟩

/-! ## The instructions -/

/-- How RET goes on once it has its thread. -/
def retTo (a : Nat) (th : Thread) : M Flow :=
  if th.cdep == 0 then trap .ret 0
  else do
    let n ← regTarget a
    modThread fun th => { th with cdep := th.cdep - 1 }
    pure (.jump n)

theorem exec_bra (gd : Guard) (off : Int) : exec (.bra gd off) =
    codeEnd [] gd [] (thread >>= fun th => checkTarget ((th.pc : Int) + 8 * off) >>= fun n => pure (.jump n)) := rfl

theorem exec_jmp (gd : Guard) (a : Nat) : exec (.jmp gd a) = codeEnd [.r a] gd [] (regTarget a >>= fun n => pure (.jump n)) := rfl

theorem exec_call (gd : Guard) (d : Nat) (off : Int) : exec (.call gd d off) =
    codeEnd [.r d] gd [.reg d .u32] (thread >>= fun th => checkTarget ((th.pc : Int) + 8 * off) >>= fun n => callTo d n) := rfl

theorem exec_calli (gd : Guard) (d a : Nat) : exec (.calli gd d a) =
    codeEnd [.r d, .r a] gd [.reg d .u32] (regTarget a >>= fun n => callTo d n) := rfl

theorem exec_ret (gd : Guard) (a : Nat) : exec (.ret gd a) = codeEnd [.r a] gd [] (thread >>= retTo a) := rfl

section
variable {s : State} {c : Cur} {th : Thread} (hc : s.cur = some c) (ht : s.threads.find c.t = some th) (d n : Nat)
include hc ht

/-- R162: the link and the depth. -/
theorem callTo_run (hd : th.cdep ≠ 4294967295) : callTo d n s = .ok (.jump n)
    ((s.writeReg c.t d ⟨BitVec.ofNat 32 (th.pc + 8), .u32⟩).updThread c.t fun y => { y with cdep := y.cdep + 1 }) := by
  have hw : writeReg d (th.pc + 8) .u32 s = .ok ⟨⟩ (s.writeReg c.t d ⟨BitVec.ofNat 32 (th.pc + 8), .u32⟩) := by
    simp only [writeReg, bind_run, curT_run hc, modify_run]
  unfold callTo
  rw [bind_ok (thread_run hc ht), if_neg (by simpa using hd), bind_ok hw, bind_ok (modThread_run ((State.writeReg_cur ..).trans hc) _)]
  rfl

/-- R162: a call that the depth does not allow. -/
theorem callTo_full (hd : th.cdep = 4294967295) : callTo d n s = .error (.trap .ret 0) s := by
  unfold callTo
  rw [bind_ok (thread_run hc ht), if_pos (by simpa using hd)]
  rfl

end

section
variable {s : State} {t : Nat} {gd : Guard} {d a n : Nat} {off : Int} {x : TWord} {z m : Bool} {th : Thread}
  (ht : s.threads.find t = some th)
include ht

section
variable (hn : s.headerAt t n)
include hn

/-- R161: BRA to a header. -/
theorem bra_jumps (hT : (n : Int) = th.pc + 8 * off) (h : s.Runs t [] [] gd) : exec (.bra gd off) s = .next (s.jumped t n) := by
  obtain ⟨c, -, -, hc, rfl, -⟩ := h.fresh
  have htgt := checkTarget_header hn hT [] false false
  rw [h.unread] at htgt
  rw [exec_bra]
  exact codeEnd_next (f := .jump n) h (by rw [bind_ok (thread_run hc ht), bind_ok htgt, pure_run])

/-- R161: JMP to a header. -/
theorem jmp_jumps (h : s.Runs t [.r a] [] gd) (hr : s.reads t [(a, .int)] = some ([x], z, m)) (hx : x.bits.toNat = n) :
    exec (.jmp gd a) s = .next ((s.noted t z m 0).jumped t n) := by
  obtain ⟨c, -, -, hc, rfl, -⟩ := h.fresh
  obtain ⟨B, htgt⟩ := regTarget_reads hc ht h.unread hr
  rw [hx, checkTarget_header hn rfl] at htgt
  rw [exec_jmp, State.jumped, ← State.commit_reading ht B]
  exact codeEnd_next (f := .jump n) h (by rw [bind_ok htgt, pure_run])

/-- R163: RET to a header counts the depth down. -/
theorem ret_jumps (h : s.Runs t [.r a] [] gd) (hr : s.reads t [(a, .int)] = some ([x], z, m)) (hx : x.bits.toNat = n) (hd : th.cdep ≠ 0) :
    exec (.ret gd a) s = .next (((s.noted t z m 0).updThread t fun y => { y with cdep := y.cdep - 1 }).jumped t n) := by
  obtain ⟨c, -, -, hc, rfl, -⟩ := h.fresh
  obtain ⟨B, htgt⟩ := regTarget_reads hc ht h.unread hr
  rw [hx, checkTarget_header hn rfl] at htgt
  rw [exec_ret, State.jumped, ← State.commit_reading_change ht B z m fun _ _ _ _ => rfl]
  refine codeEnd_next (f := .jump n) h ?_
  rw [bind_ok (thread_run hc ht), retTo, if_neg (by simpa using hd), bind_ok htgt, bind_ok (modThread_run (s := s.reading c.t B z m) hc _), pure_run]

/-- R162: CALL to a header links and counts the depth up. -/
theorem call_jumps (hd : th.cdep ≠ 4294967295) (hT : (n : Int) = th.pc + 8 * off) (h : s.Runs t [.r d] [] gd) :
    exec (.call gd d off) s =
      .next (((s.writeReg t d ⟨BitVec.ofNat 32 (th.pc + 8), .u32⟩).updThread t fun y => { y with cdep := y.cdep + 1 }).jumped t n) := by
  obtain ⟨c, -, -, hc, rfl, -⟩ := h.fresh
  have htgt := checkTarget_header hn hT [] false false
  rw [h.unread] at htgt
  rw [exec_call]
  exact codeEnd_next (f := .jump n) h (by rw [bind_ok (thread_run hc ht), bind_ok htgt, callTo_run hc ht d n hd])

/-- R162: CALLI to a header. -/
theorem calli_jumps (hd : th.cdep ≠ 4294967295) (h : s.Runs t [.r d, .r a] [] gd) (hr : s.reads t [(a, .int)] = some ([x], z, m))
    (hx : x.bits.toNat = n) : exec (.calli gd d a) s =
      .next ((((s.noted t z m 0).writeReg t d ⟨BitVec.ofNat 32 (th.pc + 8), .u32⟩).updThread t
        fun y => { y with cdep := y.cdep + 1 }).jumped t n) := by
  obtain ⟨c, -, -, hc, rfl, -⟩ := h.fresh
  obtain ⟨B, htgt⟩ := regTarget_reads hc ht h.unread hr
  rw [hx, checkTarget_header hn rfl] at htgt
  have hcall := callTo_run (s := s.reading c.t B z m) hc (State.find_reading ht B z m) d n hd
  have ht' : (s.writeReg c.t d ⟨BitVec.ofNat 32 (th.pc + 8), .u32⟩).threads.find c.t = some th := by rw [State.writeReg_threads]; exact ht
  rw [exec_calli, State.jumped, State.writeReg_noted, ← State.commit_reading_change ht' B z m fun _ _ _ _ => rfl, ← State.writeReg_reading]
  exact codeEnd_next (f := .jump n) h (by rw [bind_ok htgt, hcall])

/-- R162: CALL at the greatest depth. -/
theorem call_at_limit (hd : th.cdep = 4294967295) (hT : (n : Int) = th.pc + 8 * off) (h : s.Runs t [.r d] [] gd) :
    exec (.call gd d off) s = .next (s.takeTrap t .ret 0) := by
  obtain ⟨c, -, -, hc, rfl, -⟩ := h.fresh
  have htgt := checkTarget_header hn hT [] false false
  rw [h.unread] at htgt
  rw [exec_call]
  exact codeEnd_trap h (by rw [bind_ok (thread_run hc ht), bind_ok htgt, callTo_full hc ht d n hd])

/-- R162: CALLI at the greatest depth. -/
theorem calli_at_limit (hd : th.cdep = 4294967295) (h : s.Runs t [.r d, .r a] [] gd) (hr : s.reads t [(a, .int)] = some ([x], z, m))
    (hx : x.bits.toNat = n) : ∃ B, exec (.calli gd d a) s = .next ((s.reading t B z m).takeTrap t .ret 0) := by
  obtain ⟨c, -, -, hc, rfl, -⟩ := h.fresh
  obtain ⟨B, htgt⟩ := regTarget_reads hc ht h.unread hr
  rw [hx, checkTarget_header hn rfl] at htgt
  have hcall := callTo_full (s := s.reading c.t B z m) hc (State.find_reading ht B z m) d n hd
  rw [exec_calli]
  exact ⟨B, codeEnd_trap h (by rw [bind_ok htgt, hcall])⟩

end

/-- R163: RET at depth 0. -/
theorem ret_at_zero (hd : th.cdep = 0) (h : s.Runs t [.r a] [] gd) : exec (.ret gd a) s = .next (s.takeTrap t .ret 0) := by
  obtain ⟨c, -, -, hc, rfl, -⟩ := h.fresh
  rw [exec_ret]
  refine codeEnd_trap h ?_
  rw [bind_ok (thread_run hc ht), retTo, if_pos (by simpa using hd)]
  rfl

section
variable (hT : s.noHeaderAt t (th.pc + 8 * off))
include hT

theorem bra_bad_target (h : s.Runs t [] [] gd) :
    exec (.bra gd off) s = .next (s.takeTrap t .clause (((th.pc : Int) + 8 * off) % 18446744073709551616).toNat) := by
  obtain ⟨c, -, -, hc, rfl, -⟩ := h.fresh
  have htgt := checkTarget_fails hc hT [] false false
  rw [h.unread] at htgt
  rw [exec_bra]
  exact codeEnd_trap h (by rw [bind_ok (thread_run hc ht), bind_error htgt])

theorem call_bad_target (h : s.Runs t [.r d] [] gd) :
    exec (.call gd d off) s = .next (s.takeTrap t .clause (((th.pc : Int) + 8 * off) % 18446744073709551616).toNat) := by
  obtain ⟨c, -, -, hc, rfl, -⟩ := h.fresh
  have htgt := checkTarget_fails hc hT [] false false
  rw [h.unread] at htgt
  rw [exec_call]
  exact codeEnd_trap h (by rw [bind_ok (thread_run hc ht), bind_error htgt])

end

/-- A bad target in a register. -/
theorem regTarget_fails {c : Cur} (hc : s.cur = some c) (hct : c.t = t) (hs : s.reading t [] false false = s)
    (hr : s.reads t [(a, .int)] = some ([x], z, m)) (hT : s.noHeaderAt t x.bits.toNat) :
    ∃ B, regTarget a s = .error (.trap .clause x.bits.toNat) (s.reading t B z m) := by
  subst hct
  obtain ⟨B, htgt⟩ := regTarget_reads hc ht hs hr
  have hx : x.bits.toNat < 2 ^ 32 := x.bits.isLt
  have hv : ((x.bits.toNat : Int) % 18446744073709551616).toNat = x.bits.toNat := by omega
  rw [checkTarget_fails hc hT, hv] at htgt
  exact ⟨B, htgt⟩

section
variable (hr : s.reads t [(a, .int)] = some ([x], z, m)) (hT : s.noHeaderAt t x.bits.toNat)
include hr hT

theorem jmp_bad_target (h : s.Runs t [.r a] [] gd) :
    ∃ B, exec (.jmp gd a) s = .next ((s.reading t B z m).takeTrap t .clause x.bits.toNat) := by
  obtain ⟨c, -, -, hc, hct, -⟩ := h.fresh
  obtain ⟨B, htgt⟩ := regTarget_fails ht hc hct h.unread hr hT
  exact ⟨B, codeEnd_trap h (bind_error htgt _)⟩

theorem ret_bad_target (hd : th.cdep ≠ 0) (h : s.Runs t [.r a] [] gd) :
    ∃ B, exec (.ret gd a) s = .next ((s.reading t B z m).takeTrap t .clause x.bits.toNat) := by
  obtain ⟨c, -, -, hc, hct, -⟩ := h.fresh
  obtain ⟨B, htgt⟩ := regTarget_fails ht hc hct h.unread hr hT
  subst hct
  rw [exec_ret]
  refine ⟨B, codeEnd_trap h ?_⟩
  rw [bind_ok (thread_run hc ht), retTo, if_neg (by simpa using hd), bind_error htgt]

theorem calli_bad_target (h : s.Runs t [.r d, .r a] [] gd) :
    ∃ B, exec (.calli gd d a) s = .next ((s.reading t B z m).takeTrap t .clause x.bits.toNat) := by
  obtain ⟨c, -, -, hc, hct, -⟩ := h.fresh
  obtain ⟨B, htgt⟩ := regTarget_fails ht hc hct h.unread hr hT
  exact ⟨B, codeEnd_trap h (bind_error htgt _)⟩

end

end

/-- Settles O9: each transfer by what its target's checks answer (`checkTarget_header`, `checkTarget_fails`) and by its depth. -/
theorem transfers : Obligations.Transfers := by
  unfold Obligations.Transfers
  refine ⟨?passes, ?limits, ?calliLimit, ?fails⟩
  case passes =>
    rintro s t gd d a n off x z m th ht hn
    refine ⟨bra_jumps ht hn, fun h hr hx => ⟨jmp_jumps ht hn h hr hx, ret_jumps ht hn h hr hx⟩, fun hd => ⟨call_jumps ht hn hd, ?_⟩⟩
    exact calli_jumps ht hn hd
  case limits =>
    rintro s t gd d a n off th ht
    exact ⟨fun h hd => ret_at_zero ht hd h, fun hn hT h hd => call_at_limit ht hn hd hT h⟩
  case calliLimit =>
    rintro s t gd d a n x z m th ht hn hr hx h hd
    exact calli_at_limit ht hn hd h hr hx
  case fails =>
    rintro s t gd d a off x z m th ht
    refine ⟨fun hT => ⟨bra_bad_target ht hT, call_bad_target ht hT⟩, fun hr hT => ⟨fun h => ⟨?_, ?_⟩, ?_⟩⟩
    · exact jmp_bad_target ht hr hT h
    · exact fun hd => ret_bad_target ht hr hT hd h
    · exact calli_bad_target ht hr hT

end Sys2Proof.Machine

end

section
/-! LAWS. What no exit, trap or judgement does: put a thread where none stands (R92, R93, R139, R164, R170, R306, R320, R350). -/

namespace Sys2Proof

/-- An entry that is not there is not kept. -/
theorem AMap.find_keep_of_none {α : Type} {k : Nat} {m : AMap α} (h : m.find k = none) (p : Nat → α → Bool) : (m.keep p).find k = none := by
  induction m with
  | nil => rfl
  | cons e m ih =>
    obtain ⟨j, x⟩ := e
    obtain ⟨hj, hm⟩ : j ≠ k ∧ AMap.find k m = none := by
      simp only [AMap.find] at h
      split at h
      · nomatch h
      · exact ⟨‹_›, h⟩
    simp only [AMap.keep]
    split
    · simp only [AMap.find, if_neg hj, ih hm]
    · exact ih hm

/-- A deleted entry's change goes with it. -/
theorem AMap.del_upd {α : Type} (k : Nat) (f : α → α) (m : AMap α) : (m.upd k f).del k = m.del k := by
  induction m with
  | nil => rfl
  | cons e m ih =>
    obtain ⟨j, x⟩ := e
    by_cases hj : j = k
    · simp [AMap.upd, AMap.del, hj]
    · simp [AMap.upd, AMap.del, hj, ih]

theorem AMap.del_mapv {α : Type} (k : Nat) (f : Nat → α → α) (m : AMap α) : (m.mapv f).del k = (m.del k).mapv f := by
  induction m with
  | nil => rfl
  | cons e m ih =>
    obtain ⟨j, x⟩ := e
    by_cases hj : j = k
    · simp [AMap.mapv, AMap.del, hj]
    · simp [AMap.mapv, AMap.del, hj, ih]

end Sys2Proof

namespace Sys2Proof.Machine

open Sys2Proof

/-- No thread stands in `x` where none stands in `s`. -/
def State.NoNew (s x : State) : Prop := ∀ u, s.threads.find u = none → x.threads.find u = none

namespace State.NoNew

variable {s x : State}

theorem refl (s : State) : s.NoNew s := fun _ h => h

theorem ite {y : State} {p : Prop} [Decidable p] (h : s.NoNew x) (h' : s.NoNew y) : s.NoNew (if p then x else y) := by
  split
  · exact h
  · exact h'

/-- A change of anything but the threads. -/
theorem same (h : s.NoNew x) {y : State} (e : y.threads = x.threads) : s.NoNew y := fun u hu => by rw [e]; exact h u hu

/-- A change of the threads, each on its own. -/
theorem mapped (h : s.NoNew x) {y : State} {f : Nat → Thread → Thread} (e : y.threads = x.threads.mapv f) : s.NoNew y := fun u hu => by
  rw [e, AMap.find_mapv, h u hu]
  rfl

theorem kept (h : s.NoNew x) {y : State} {p : Nat → Thread → Bool} (e : y.threads = x.threads.keep p) : s.NoNew y := fun u hu => by
  rw [e]
  exact AMap.find_keep_of_none (h u hu) p

theorem updThread (h : s.NoNew x) (t : Nat) (f : Thread → Thread) : s.NoNew (x.updThread t f) := fun u hu => by simp [h u hu]

theorem foldl {α : Type} {f : State → α → State} (hf : ∀ x a, s.NoNew x → s.NoNew (f x a)) (l : List α) {x : State} (h : s.NoNew x) :
    s.NoNew (l.foldl f x) := by
  induction l generalizing x with
  | nil => exact h
  | cons a l ih => exact ih (hf x a h)

theorem leaveGroup (h : s.NoNew x) (t : Nat) : s.NoNew (x.leaveGroup t) := by
  obtain ⟨f, cs, -, e⟩ := x.leaveGroup_shape t
  rw [e]
  exact (h.updThread t f).same rfl

theorem done (h : s.NoNew x) (t : Nat) : s.NoNew (x.done t) := by
  obtain ⟨f, m, q, c, o, e, ks, cs, -, hd, -⟩ := x.done_shape t
  rw [hd]
  exact (h.updThread t f).same rfl

/-! ## Traps and failures -/

theorem failKernel (h : s.NoNew x) (k status : Nat) : s.NoNew (x.failKernel k status) := by
  unfold State.failKernel
  split
  · exact h
  · next y _ =>
    have hrel : s.NoNew (x.releaseKernel k) := h.kept rfl
    refine .ite h (.ite ?_ fun u hu => ?_)
    · split
      · exact .ite (h.same rfl) h
      · exact h
    · rw [State.repoint_threads]
      refine State.find_finishStop_none ?_ _
      rw [State.settleCtx_threads]
      exact hrel u hu

theorem stopCtx (h : s.NoNew x) (c : Nat) (st : CtxState) : s.NoNew (x.stopCtx c st) := by
  have hpark : s.NoNew (x.parkAll c) := h.mapped rfl
  exact .ite (h.same rfl) (hpark.same (State.enterCtx_threads ..))

theorem haltCtx (h : s.NoNew x) (c : Nat) (st : CtxState) : s.NoNew (x.haltCtx c st) := by
  have hpark : s.NoNew (x.parkAll c) := h.mapped rfl
  exact stopCtx (.ite hpark h) c st

theorem stepAside (h : s.NoNew x) (t : Nat) : s.NoNew (x.stepAside t) := (h.leaveGroup t).updThread t _

theorem updKernel (h : s.NoNew x) (k : Nat) (f : Kernel → Kernel) : s.NoNew (x.updKernel k f) := h.same rfl

theorem setErrst (h : s.NoNew x) (c b : Nat) : s.NoNew (x.setErrst c b) := h.same (State.physSet_threads ..)

theorem undeliverable (h : s.NoNew x) (t : Nat) (c : Cause) : s.NoNew (x.undeliverable t c) := by
  unfold State.undeliverable
  split
  · exact h
  · split
    · exact ((h.updThread t _).stepAside t).haltCtx _ _
    · exact (h.setErrst _ _).failKernel _ _
    · refine .ite (haltCtx ?_ _ _) ((h.setErrst _ _).failKernel _ _)
      exact (((h.setErrst _ _).updThread t _).stepAside t).updKernel _ _

theorem enterHandler (h : s.NoNew x) (t : Nat) (c : Cause) (v lanes tpc : Nat) : s.NoNew (x.enterHandler t c v lanes tpc) := by
  have hdrop : s.NoNew (x.dropTurns t) := h.same rfl
  exact (hdrop.updThread t _).leaveGroup t

theorem takeTrap (h : s.NoNew x) (t : Nat) (c : Cause) (v : Nat) : s.NoNew (x.takeTrap t c v) := by
  cases ht : x.threads.find t with
  | none => simp only [State.takeTrap, ht]; exact h
  | some th =>
    rw [State.takeTrap_of_find ht]
    exact .ite (h.enterHandler t c v _ _) (h.undeliverable t c)

/-! ## What is judged -/

theorem writeReg (h : s.NoNew x) (t i : Nat) (w : TWord) : s.NoNew (x.writeReg t i w) := h.same (State.writeReg_threads ..)

theorem collWrite (h : s.NoNew x) (t : Nat) (c : CollArr) (ws : List TWord) (m : Nat) : s.NoNew (x.collWrite t c ws m) := by
  unfold State.collWrite
  split
  · exact h.writeReg _ _ _
  · split
    · exact h.updThread t _
    · exact h.writeReg _ _ _
  · exact (h.updThread t _).writeReg _ _ _
  · exact (h.updThread t _).writeReg _ _ _

theorem judgeColl (h : s.NoNew x) (gid : Nat) : s.NoNew (x.judgeColl gid) := by
  unfold State.judgeColl
  split
  · exact h
  · dsimp only
    split
    · exact h
    · exact foldl (fun x c hx => done (.ite hx (hx.collWrite _ c _ _)) _) _ (h.same rfl)

theorem judgeBarrier (h : s.NoNew x) (i b : Nat) : s.NoNew (x.judgeBarrier i b) := by
  unfold State.judgeBarrier
  split
  · exact h
  · exact .ite (h.mapped rfl) h

theorem issueTile (h : s.NoNew x) (i k : Nat) (op : TileOp) : s.NoNew (x.issueTile i k op) := by
  unfold State.issueTile
  split
  · exact h
  · exact h.same rfl

theorem updInst (h : s.NoNew x) (i : Nat) (f : GInst → GInst) : s.NoNew (x.updInst i f) := h.same rfl

theorem judgeCv (h : s.NoNew x) (i k : Nat) : s.NoNew (x.judgeCv i k) := by
  unfold State.judgeCv
  split
  · exact h
  · dsimp only
    refine .ite h ?_
    split
    · exact (h.updInst i _).mapped rfl
    · exact ((h.updInst i _).issueTile _ _ _).mapped rfl

theorem judgeInsts (h : s.NoNew x) (is : List Nat) : s.NoNew (x.judgeInsts is) := by
  refine foldl (fun x i hx => ?_) _ h
  split
  · exact hx
  · exact foldl (fun x k hx => hx.judgeCv i k) _ (foldl (fun x b hx => hx.judgeBarrier i b) _ hx)

theorem updPop (h : s.NoNew x) (kern : Nat) (f : Pop → Pop) : s.NoNew (x.updPop kern f) := h.same rfl

theorem judgePop (h : s.NoNew x) (kern : Nat) : s.NoNew (x.judgePop kern) := by
  unfold State.judgePop
  split
  · exact h
  · split
    · exact h
    · split
      · refine .ite ?_ h
        split
        · exact foldl (fun x a hx => hx.takeTrap _ _ _) _ (h.updPop kern _)
        · exact h.updPop kern _
      · exact h

theorem popLeave (h : s.NoNew x) (kern t : Nat) : s.NoNew (x.popLeave kern t) :=
  .ite ((h.updPop kern _).updPop kern _) ((h.updPop kern _).judgePop kern)

/-! ## What is freed -/

theorem freeGang (h : s.NoNew x) (gid : Nat) : s.NoNew (x.freeGang gid) := by
  unfold State.freeGang
  split
  · exact h
  · exact h.same (State.settleCtx_threads _ _)

theorem sweepGangs (h : s.NoNew x) : s.NoNew x.sweepGangs := foldl (fun _ e hx => .ite hx (hx.freeGang e.1)) _ h

theorem settleKernel (h : s.NoNew x) (kern : Nat) : s.NoNew (x.settleKernel kern) := by
  unfold State.settleKernel
  split
  · exact h
  · exact .ite (h.same (State.repoint_threads _)) h

end State.NoNew

/-! ## The end of a thread (R164) -/

/-- A thread that is listed once is gone once it has been removed. -/
theorem State.find_removeThread {s : State} {t : Nat} {th : Thread} (ht : s.threads.find t = some th) (h1 : (s.threads.del t).find t = none) :
    (s.removeThread t).threads.find t = none := by
  have hdel (x : State) (hx : (x.threads.del t).find t = none) : (((x.dropTurns t).leaveGroup t).threads.del t).find t = none := by
    obtain ⟨f, cs, -, h⟩ := (x.dropTurns t).leaveGroup_shape t
    rw [h]
    show ((x.threads.upd t f).del t).find t = none
    rw [AMap.del_upd, hx]
  have hfree : ((s.freeHeld t false).threads.del t).find t = none := by
    simp only [State.freeHeld, AMap.del_mapv, AMap.find_mapv, h1, Option.map_none]
  have hlog (x : State) (c : Nat) : (x.logDropped c).threads = x.threads := State.physSet_threads ..
  simp only [State.removeThread, ht, State.updGang_threads]
  refine hdel _ ?_
  split <;> split <;> simp only [hlog, hfree, h1]

/-- What its exit decides puts no thread in its place. -/
theorem State.find_exitThread {s : State} {t : Nat} {th : Thread} {g : Gang} (ht : s.threads.find t = some th)
    (hg : s.gangs.find (gidOf t) = some g) (h1 : (s.threads.del t).find t = none) : (s.exitThread t).threads.find t = none := by
  obtain ⟨ks, hp⟩ := s.progress_shape t
  have hp' : (s.progress t).threads = s.threads := by rw [hp]
  have hgone : ((s.progress t).removeThread t).threads.find t = none := State.find_removeThread (by rw [hp']; exact ht) (by rw [hp']; exact h1)
  have hjudged := ((State.NoNew.refl ((s.progress t).removeThread t)).judgeColl (gidOf t)).judgeInsts (g.grp.filterMap id)
  simp only [State.exitThread, hg]
  refine ((State.NoNew.sweepGangs ?_).settleKernel g.kern) t hgone
  split
  · exact .ite (hjudged.popLeave g.kern t) hjudged
  · exact hjudged

end Sys2Proof.Machine

end

section
/-! LAWS. NOP, YIELD, SLEEP, BEAT, TRAP, RTT, BKPT, EXIT and PKILL (08_gang R164 to R168; 04_context R94 to R96; 16_population R359), and the
obligation. -/

namespace Sys2Proof.Machine

open Sys2Proof

/-- A body that stops the context (R95). -/
theorem code_halt {s : State} {t : Nat} {fs : List Field} {gd : Guard} {ds : List Dest} {body : M Flow} {g : Gang} (h : s.Runs t fs [] gd)
    (hg : s.gangs.find (gidOf t) = some g) (hb : body s = .error .halt s) : code fs gd ds body s =
      .next (((s.updThread t fun y => { y.clean with passBrk := true }).stepAside t).haltCtx g.ctx .halted) := by
  obtain ⟨c, th, hc, rfl, -⟩ := h.start
  simp only [code, runCode, runWith, hc, issueWith_runs h, hb, stopped, hg]

/-- A body that waits, of an instruction that would end its clause. -/
theorem codeEnd_wait {s S : State} {t : Nat} {fs : List Field} {gd : Guard} {ds : List Dest} {body : M Flow} {w : Wait} (h : s.Runs t fs [] gd)
    (hb : body s = .error (.wait w) S) : codeEnd fs gd ds body s = .next (S.waitOn t w) := by
  obtain ⟨c, th, hc, rfl, -⟩ := h.start
  exact runCode_wait hc ((issueWith_runs h).trans hb)

theorem now_run {s : State} {c : Cur} {g : Gang} (hc : s.cur = some c) (hg : s.gangs.find (gidOf c.t) = some g) :
    now s = .ok (s.tickOf g.ctx) s := by
  simp only [now, bind_run, gang_run hc hg, get_run, pure_run]

theorem curCtx_run {s : State} {c : Cur} {g : Gang} (hc : s.cur = some c) (hg : s.gangs.find (gidOf c.t) = some g) :
    curCtx s = .ok (s.ctx g.ctx) s := by
  simp only [curCtx, bind_run, gang_run hc hg, get_run, pure_run]

/-- R157: a thread that yields. -/
def Gang.yields (g : Gang) (y : Thread) : Thread := { y with age := 0, bars := if g.access then [4] else [0, 1, 2, 3] }

theorem yieldThread_run {s : State} {c : Cur} {g : Gang} (hc : s.cur = some c) (hg : s.gangs.find (gidOf c.t) = some g) :
    yieldThread s = .ok .endClause (s.updThread c.t g.yields) := by
  unfold yieldThread
  rw [bind_ok (gang_run hc hg), bind_ok (modThread_run hc _)]
  rfl

/-- The body of SLEEP. -/
def sleepBody (n : Nat) : M Flow := do
  let th ← thread
  let k ← now
  if n == 0 then yieldThread
  else
    match th.cont with
    | .tok t => if t ≤ k then pure .endClause else waitFor (.sleep t)
    | _ => do
      modThread fun th => { th with cont := .tok (k + n) }
      waitFor (.sleep (k + n))

theorem exec_sleep (gd : Guard) (n : Nat) : exec (.sleep gd n) = codeEnd [] gd [] (sleepBody n) := rfl

/-- The body of BKPT. -/
def bkptBody (imm : Nat) : M Flow := do
  let th ← thread
  let x ← curCtx
  if th.passBrk then pure .seq
  else if x.dbg then throw .halt
  else trap .brk imm

theorem exec_bkpt (gd : Guard) (imm : Nat) : exec (.bkpt gd imm) = code [] gd [] (bkptBody imm) := rfl

section
variable {s : State} {t : Nat} {gd : Guard} {th : Thread} {g : Gang} (ht : s.threads.find t = some th)
  (hg : s.gangs.find (gidOf t) = some g) (h : s.Runs t [] [] gd)
include ht hg h

/-- The end of the clause of a thread that yields. -/
theorem codeEnd_yields {ds : List Dest} {body : M Flow} (hb : ∀ c, s.cur = some c → c.t = t → body s = yieldThread s) :
    codeEnd [] gd ds body s = .next ((s.updThread t g.yields).ended t th) := by
  obtain ⟨c, -, -, hc, rfl, -⟩ := h.fresh
  have hy : (s.updThread c.t g.yields).threads.find c.t = some (g.yields th) := State.find_updThread_self ht _
  rw [codeEnd_next h ((hb c hc rfl).trans (yieldThread_run hc hg)), State.retire_endClause hy]
  rfl

/-- R165: YIELD. -/
theorem yield_ends : exec (.yield gd) s = .next ((s.updThread t g.yields).ended t th) := codeEnd_yields ht hg h fun _ _ _ => rfl

/-- R166: SLEEP of 0. -/
theorem sleep_zero : exec (.sleep gd 0) s = .next ((s.updThread t g.yields).ended t th) := by
  refine codeEnd_yields ht hg h fun c hc hct => ?_
  subst hct
  show sleepBody 0 s = _
  unfold sleepBody
  rw [bind_ok (thread_run hc ht), bind_ok (now_run hc hg)]
  rfl

/-- R166: SLEEP fixes the tick to wake at, and waits for it. -/
theorem sleep_waits {n : Nat} (hn : 0 < n) : exec (.sleep gd n) s =
    .next ((s.updThread t fun y => { y with cont := .tok (s.tickOf g.ctx + n) }).waitOn t (.sleep (s.tickOf g.ctx + n))) := by
  obtain ⟨c, th', -, hc, rfl, ht', -, hcont⟩ := h.fresh
  obtain rfl : th = th' := by simpa [ht] using ht'
  rw [exec_sleep]
  refine codeEnd_wait h ?_
  unfold sleepBody
  rw [bind_ok (thread_run hc ht), bind_ok (now_run hc hg), if_neg (by simp; omega), hcont]
  dsimp only
  rw [bind_ok (modThread_run hc _)]
  rfl

/-- R167: BEAT. -/
theorem beat_progresses : exec (.beat gd) s = .next ((s.updKernel g.kern fun k =>
    if k.desc.persist then { k with prog := s.tickOf g.ctx, stage2 := false } else k).done t) := by
  obtain ⟨c, -, -, hc, rfl, -⟩ := h.fresh
  refine code_next (f := .seq) h ?_
  rw [bind_ok (gang_run hc hg), bind_ok (now_run hc hg)]
  rfl

/-- R96: RTT returns in a handler. -/
theorem rtt_returns (past : Bool) (hin : th.inh = true) : exec (.rtt gd past) s = .next ((s.commit t).returnFromTrap t past) := by
  obtain ⟨c, -, -, hc, rfl, -⟩ := h.fresh
  refine codeEnd_next (f := .ret past) h ?_
  rw [bind_ok (thread_run hc ht), if_pos hin, pure_run]

/-- R96: RTT outside a handler. -/
theorem rtt_outside (past : Bool) (hin : th.inh = false) : exec (.rtt gd past) s = .next (s.takeTrap t .illegal th.pc) := by
  obtain ⟨c, -, -, hc, rfl, -⟩ := h.fresh
  refine codeEnd_trap h ?_
  rw [bind_ok (thread_run hc ht), if_neg (by simp [hin])]
  rfl

/-- R95: BKPT past a halt that it made. -/
theorem bkpt_passes (imm : Nat) (hp : th.passBrk = true) : exec (.bkpt gd imm) s = .next (s.done t) := by
  obtain ⟨c, -, -, hc, rfl, -⟩ := h.fresh
  refine code_next (f := .seq) h ?_
  rw [bind_ok (thread_run hc ht), bind_ok (curCtx_run hc hg), if_pos hp, pure_run]

/-- R95: BKPT halts a context under debug. -/
theorem bkpt_halts (imm : Nat) (hp : th.passBrk = false) (hd : (s.ctx g.ctx).dbg = true) : exec (.bkpt gd imm) s =
    .next (((s.updThread t fun y => { y.clean with passBrk := true }).stepAside t).haltCtx g.ctx .halted) := by
  obtain ⟨c, -, -, hc, rfl, -⟩ := h.fresh
  refine code_halt h hg ?_
  rw [bind_ok (thread_run hc ht), bind_ok (curCtx_run hc hg), if_neg (by simp [hp]), if_pos hd]
  rfl

/-- R95: BKPT raises BREAKPOINT elsewhere. -/
theorem bkpt_traps (imm : Nat) (hp : th.passBrk = false) (hd : (s.ctx g.ctx).dbg = false) :
    exec (.bkpt gd imm) s = .next (s.takeTrap t .brk imm) := by
  obtain ⟨c, -, -, hc, rfl, -⟩ := h.fresh
  refine code_trap h ?_
  rw [bind_ok (thread_run hc ht), bind_ok (curCtx_run hc hg), if_neg (by simp [hp]), if_neg (by simp [hd])]
  rfl

end

/-- The prologue of an instruction that issues again with its guard holding, and was given anything but a failure: its body is what happens. -/
theorem issueWith_resumes {s : State} {t : Nat} {fs : List Field} {ex : List Nat} {gd : Guard} {k : Cont} (h : s.Resumes t fs ex gd true k)
    (hk : ∀ x v, k ≠ .fail x v) (o : OnFalse) (body : Bool → M Flow) : issueWith fs gd o ex body s = body true s := by
  obtain ⟨c, th, g, hc, rfl, ht, hg, hf, hgd, hon, rfl⟩ := h
  obtain ⟨hp, hb⟩ := hon rfl
  simp only [issueWith, bind_run, curT_run hc, thread_run hc ht, gang_run hc hg, get_run, hf, hgd, hp, hb, Bool.true_or, Bool.true_and,
    if_true]
  cases hcont : th.cont with
  | fail x v => exact absurd hcont (hk x v)
  | _ => simp

/-- A thread that would run its instruction but for what it was given issues it again. -/
theorem State.Runs.resumes {s : State} {t : Nat} {fs : List Field} {ex : List Nat} {gd : Guard} {th : Thread} (ht : s.threads.find t = some th)
    (h : (s.updThread t fun y => { y with cont := .none }).Runs t fs ex gd) : s.Resumes t fs ex gd true th.cont := by
  obtain ⟨c, th', g, hc, hct, ht', hg, hf, hgd, hp, hb, -, -⟩ := h
  rw [State.find_updThread_self ht] at ht'
  obtain rfl := Option.some.inj ht'
  exact ⟨c, th, g, hc, hct, ht, hg, hf, hgd, fun _ => ⟨hp, hb⟩, rfl⟩

/-- R166: SLEEP ends its clause when its tick has come. -/
theorem sleep_wakes {s : State} {t n w : Nat} {gd : Guard} {th : Thread} {g : Gang} (ht : s.threads.find t = some th)
    (hg : s.gangs.find (gidOf t) = some g) (hw : w ≤ s.tickOf g.ctx) (hn : 0 < n)
    (h : (s.updThread t fun y => { y with cont := .none }).Runs t [] [] gd) (hcont : th.cont = .tok w) :
    exec (.sleep gd n) s = .next (s.ended t th) := by
  have hr := h.resumes ht
  obtain ⟨c, -, hc, rfl, -⟩ := hr.given
  rw [← State.retire_endClause ht, exec_sleep]
  refine runCode_next hc ((issueWith_resumes hr (by simp [hcont]) _ _).trans ?_)
  unfold sleepBody
  rw [bind_ok (thread_run hc ht), bind_ok (now_run hc hg), if_neg (by simp; omega), hcont]
  dsimp only
  rw [if_pos hw, pure_run]

/-! ## The end of a thread (R164, R359) -/

section
variable {s : State} {t : Nat} {th : Thread} {c : Cur} (hc : s.cur = some c) (hct : c.t = t) (ht : s.threads.find t = some th)
  (hq : th.Quiet)
include hc hct ht hq

/-- A quiet thread has nothing to report. -/
theorem reportAll_quiet : reportAll s = .ok ⟨⟩ s := by
  obtain ⟨-, -, hcopy, hfail⟩ := hq
  subst hct
  have hcopies : reportCopies s = .ok ⟨⟩ s := by
    unfold reportCopies
    rw [bind_ok (thread_run hc ht), hcopy]
    rfl
  have hlog : reportFail s = .ok ⟨⟩ s := by
    unfold reportFail
    rw [bind_ok (thread_run hc ht), hfail]
    rfl
  rw [reportAll, bind_ok hcopies, hlog]

/-- R164: a quiet thread ends. -/
theorem exitBody_quiet : exitBody s = .ok .gone (s.exitThread t) := by
  have hreport := reportAll_quiet hc hct ht hq
  obtain ⟨hbt, hloads, -, -⟩ := hq
  subst hct
  have hidle : (th.bt.all (· == 0) && th.loads == []) = true := by simpa [hloads] using hbt
  unfold exitBody
  rw [bind_ok hreport, bind_ok (thread_run hc ht), if_neg (by rw [hidle]; decide)]
  beta_reduce
  rw [bind_ok (curT_run hc), bind_ok (modify_run _ _), pure_run]

end

/-- The checks of PKILL pass for a member outside a handler. -/
theorem memberCheck_passes {s : State} {c : Cur} {th : Thread} {g : Gang} {k : Kernel} (hc : s.cur = some c) (ht : s.threads.find c.t = some th)
    (hg : s.gangs.find (gidOf c.t) = some g) (hk : s.kernels.find g.kern = some k) (hm : k.isMember g.gidx = true) (hin : th.inh = false) :
    memberCheck s = .ok ⟨⟩ s := by
  have hker : getKernel g.kern s = .ok k s := by simp only [getKernel, bind_run, get_run, hk, pure_run]
  unfold memberCheck
  rw [bind_ok (thread_run hc ht), bind_ok (gang_run hc hg), bind_ok hker, if_neg (by simp [hm])]
  beta_reduce
  rw [if_neg (by simp [hin]), pure_run]

/-- Settles O10: each instruction by its body; that a thread which ends is gone by `State.NoNew`, nothing that its exit decides puts a thread
anywhere. -/
theorem controlAndTraps : Obligations.ControlAndTraps := by
  unfold Obligations.ControlAndTraps
  refine ⟨?control, ?ends⟩
  case control =>
    intro s t gd n imm past th g ht hg yielded tick
    refine ⟨fun h => ⟨code_next (f := .seq) h rfl, yield_ends ht hg h, sleep_zero ht hg h, sleep_waits ht hg h, beat_progresses ht hg h,
      code_trap h rfl, rtt_returns ht hg h past, rtt_outside ht hg h past, bkpt_passes ht hg h imm, bkpt_halts ht hg h imm,
      bkpt_traps ht hg h imm⟩, fun w => sleep_wakes ht hg⟩
  case ends =>
    intro s t k gd th g kk ht hq hg hk h
    obtain ⟨c, -, -, hc, hct, -⟩ := h.fresh
    have hexit := exitBody_quiet hc hct ht hq
    refine ⟨codeEnd_next (f := .gone) h hexit, fun hm hin => ?_, fun h1 => ⟨State.find_removeThread ht h1, State.find_exitThread ht hg h1⟩⟩
    have hcheck := memberCheck_passes hc (hct ▸ ht) (hct ▸ hg) hk hm hin
    exact code_next (f := .gone) h ((bind_ok hcheck).trans hexit)

end Sys2Proof.Machine

end

section
/-! LAWS. MFS, MTS, RND, PCOUNT, GRPQ and TRACE (08_gang R176 to R178; 16_population R360; 07_group R150; 19_health R414), and the
obligation. -/

namespace Sys2Proof.Machine

open Sys2Proof

/-! ## Results -/

/-- A body that writes one word, and has read nothing. -/
theorem code_putWord {s S : State} {t : Nat} {th : Thread} {fs : List Field} {gd : Guard} {ds : List Dest} {body : M Flow} {d v : Nat} {tag : Tag}
    (h : s.Runs t fs [] gd) (hS : S.cur = s.cur) (ht : S.threads.find t = some th) (hb : body s = putWord d v tag S) :
    code fs gd ds body s = .next (S.result t d ⟨BitVec.ofNat 32 v, tag⟩ false false 0) := by
  obtain ⟨c, -, -, hc, rfl, -⟩ := h.fresh
  rw [h.code_eq]
  exact runCode_putWord_unread hc hS ht hb

/-- A 64-bit result, in its pair unless that is v0 (R180). -/
def State.putPair (s : State) (t d : Nat) (r : DWord) : State :=
  if d = 0 then s else (s.writeReg t d (loWord r .w64l)).writeReg t (d + 1) (hiWord r .w64h)

theorem putL64_run {s : State} {c : Cur} (hc : s.cur = some c) (d v : Nat) : putL64 d v s = .ok .seq (s.putPair c.t d (BitVec.ofNat 64 v)) := by
  have hw (x : State) (hx : x.cur = some c) (i n : Nat) (tag : Tag) : writeReg i n tag x = .ok ⟨⟩ (x.writeReg c.t i ⟨BitVec.ofNat 32 n, tag⟩) := by
    simp only [writeReg, bind_run, curT_run hx, modify_run]
  have hlo : loWord (BitVec.ofNat 64 v) .w64l = ⟨BitVec.ofNat 32 (trunc v 64), .w64l⟩ := rfl
  have hhi : hiWord (BitVec.ofNat 64 v) .w64h = ⟨BitVec.ofNat 32 (trunc v 64 / 2 ^ 32), .w64h⟩ := by
    rw [hiWord]
    congr 1
    apply BitVec.eq_of_toNat_eq
    simp only [trunc, BitVec.toNat_setWidth, BitVec.toNat_ushiftRight, BitVec.toNat_ofNat, Nat.shiftRight_eq_div_pow]
    omega
  unfold putL64 writeL64 writePair State.putPair
  by_cases hd : d = 0
  · rw [if_pos hd, if_pos (by simpa using hd)]
    rfl
  · rw [if_neg hd, if_neg (by simpa using hd), hlo, hhi, bind_run, bind_ok (hw s hc _ _ _),
      hw _ ((State.writeReg_cur ..).trans hc)]
    rfl

/-- A body that writes a pair, and has read nothing. -/
theorem code_putL64 {s S : State} {t : Nat} {th : Thread} {fs : List Field} {gd : Guard} {ds : List Dest} {body : M Flow} {d v : Nat}
    (h : s.Runs t fs [] gd) (hS : S.cur = s.cur) (ht : S.threads.find t = some th) (hb : body s = putL64 d v S) :
    code fs gd ds body s = .next (S.resultL64 t d (BitVec.ofNat 64 v) false false 0) := by
  obtain ⟨c, -, -, hc, rfl, -⟩ := h.fresh
  rw [State.resultL64, State.resultPair, State.noted_nothing ht]
  exact code_next (f := .seq) h (hb.trans (putL64_run (hS.trans hc) d v))

/-! ## MFS (R176) -/

/-- The body of MFS. -/
def mfsBody (d : Nat) (sp : Special) : M Flow := do
  let t ← curT
  let th ← thread
  let gg ← gang
  let v := (← get).special t th gg sp
  if sp == .cyc then modify fun s => s.readCyc t
  if sp.wide then putL64 d v else putWord d v .u32

theorem exec_mfs (gd : Guard) (d : Nat) (sp : Special) : exec (.mfs gd d sp) =
    code [specialField sp d] gd (if sp.wide then [.reg d .w64l, .reg (d + 1) .w64h] else [.reg d .u32]) (mfsBody d sp) := rfl

section
variable {s : State} {t d : Nat} {gd : Guard} {sp : Special} {th : Thread} {g : Gang} (ht : s.threads.find t = some th)
  (hg : s.gangs.find (gidOf t) = some g)
include ht hg

theorem mfsBody_run {c : Cur} (hc : s.cur = some c) (hct : c.t = t) : mfsBody d sp s =
    (if sp.wide then putL64 d (s.special t th g sp) else putWord d (s.special t th g sp) .u32) (if sp = .cyc then s.readCyc t else s) := by
  subst hct
  unfold mfsBody
  rw [bind_ok (curT_run hc), bind_ok (thread_run hc ht), bind_ok (gang_run hc hg), bind_ok (get_run s)]
  by_cases hcyc : sp = .cyc
  · rw [if_pos (by simpa using hcyc), if_pos hcyc]
    rfl
  · rw [if_neg (by simpa using hcyc), if_neg hcyc]

/-- A special of one word. -/
theorem mfs_word (hw : sp.wide = false) (h : s.Runs t [.r d] [] gd) :
    exec (.mfs gd d sp) s = .next (s.result t d ⟨BitVec.ofNat 32 (s.special t th g sp), .u32⟩ false false 0) := by
  obtain ⟨c, -, -, hc, hct, -⟩ := h.fresh
  have hcyc : sp ≠ .cyc := by rintro rfl; nomatch hw
  have hbody := mfsBody_run (d := d) (sp := sp) ht hg hc hct
  rw [if_neg hcyc, if_neg (by simp [hw])] at hbody
  rw [exec_mfs, specialField, if_neg (by simp [hw])]
  exact code_putWord h rfl ht hbody

/-- A special of two words. -/
theorem mfs_pair (hw : sp.wide = true) (hcyc : sp ≠ .cyc) (h : s.Runs t [.even d] [] gd) :
    exec (.mfs gd d sp) s = .next (s.resultL64 t d (BitVec.ofNat 64 (s.special t th g sp)) false false 0) := by
  obtain ⟨c, -, -, hc, hct, -⟩ := h.fresh
  have hbody := mfsBody_run (d := d) (sp := sp) ht hg hc hct
  rw [if_neg hcyc, if_pos hw] at hbody
  rw [exec_mfs, specialField, if_pos hw]
  exact code_putL64 h rfl ht hbody

/-- The cycle count, whose read is noted (R18). -/
theorem mfs_cyc (h : s.Runs t [.even d] [] gd) :
    exec (.mfs gd d .cyc) s = .next ((s.readCyc t).resultL64 t d (BitVec.ofNat 64 (s.cycles t)) false false 0) := by
  obtain ⟨c, -, -, hc, hct, -⟩ := h.fresh
  exact code_putL64 h rfl (S := s.readCyc t) ht (mfsBody_run (sp := .cyc) ht hg hc hct)

end

/-- No later read in a reference cycle is below an earlier one. -/
theorem State.sub_readCyc (s : State) (t : Nat) :
    (s.die (dieOfCore (coreOf t))).sub ≤ ((s.readCyc t).die (dieOfCore (coreOf t))).sub := by
  simp only [State.readCyc, State.die, State.setDie, AMap.find_put, if_true, Option.getD_some]
  exact Nat.le_add_right _ _

/-! ## MTS (R177) -/

/-- The operand of MTS. -/
def mtsOpnd (a : Nat) (sp : Special) : M Nat := if sp.wide then readL64 a else natSrc a

/-- What MTS does with its operand. -/
def mtsRest (sp : Special) (inh : Bool) (v : Nat) : M Flow :=
  if mtsAllowed inh sp && mtsFits sp v then do
    modThread fun th => th.setSpecial sp v
    pure .seq
  else illegal

theorem exec_mts (gd : Guard) (a : Nat) (ka : Bool) (sp : Special) : exec (.mts gd a ka sp) =
    code [specialField sp a] gd [] (thread >>= fun th => mtsOpnd a sp >>= mtsRest sp th.inh) := by
  cases sp <;> rfl

/-- A special written leaves alone what the running instruction has read and noted. -/
theorem Thread.setSpecial_reading (sp : Special) (v : Nat) (y : Thread) (B : AMap TWord) (a b : Bool) :
    { y with opbuf := B, pendLapf := a, pendMis := b }.setSpecial sp v = { y.setSpecial sp v with opbuf := B, pendLapf := a, pendMis := b } := by
  cases sp <;> rfl

section
variable {s : State} {t a v : Nat} {gd : Guard} {sp : Special} {B : AMap TWord} {z m : Bool} {th : Thread} (ht : s.threads.find t = some th)
  (h : s.Runs t [specialField sp a] [] gd) (hv : mtsOpnd a sp s = .ok v (s.reading t B z m))
include ht h hv

/-- A write that Table 8.1 allows of a value that fits. -/
theorem mts_writes (ka : Bool) (hok : mtsAllowed th.inh sp = true) (hfit : mtsFits sp v = true) :
    exec (.mts gd a ka sp) s = .next (((s.noted t z m 0).updThread t fun y => y.setSpecial sp v).done t) := by
  obtain ⟨c, -, -, hc, rfl, -⟩ := h.fresh
  rw [exec_mts, State.done, ← State.commit_reading_change ht B z m (Thread.setSpecial_reading sp v)]
  refine code_next (f := .seq) h ?_
  rw [bind_ok (thread_run hc ht), bind_ok hv, mtsRest, if_pos (by simp [hok, hfit]), bind_ok (modThread_run (s := s.reading c.t B z m) hc _), pure_run]

/-- Any other write. -/
theorem mts_refused (ka : Bool) (hbad : mtsAllowed th.inh sp = false ∨ mtsFits sp v = false) :
    exec (.mts gd a ka sp) s = .next ((s.reading t B z m).takeTrap t .illegal th.pc) := by
  obtain ⟨c, -, -, hc, rfl, -⟩ := h.fresh
  have hbad' : ¬(mtsAllowed th.inh sp && mtsFits sp v) = true := by
    obtain hb | hb := hbad
    · simp [hb]
    · simp [hb]
  rw [exec_mts]
  refine code_trap h ?_
  rw [bind_ok (thread_run hc ht), bind_ok hv, mtsRest, if_neg hbad', illegal, bind_ok (thread_reading hc ht B z m)]
  rfl

end

section
variable {s : State} {c : Cur} {th : Thread} {a : Nat} {sp : Special} {z m : Bool} (hc : s.cur = some c)
  (ht : s.threads.find c.t = some th) (hs : s.reading c.t [] false false = s)
include hc ht hs

/-- The operand of MTS, one word. -/
theorem mts_reads_word {x : TWord} (hw : sp.wide = false) (hr : s.reads c.t [(a, .int)] = some ([x], z, m)) :
    ∃ B, mtsOpnd a sp s = .ok x.bits.toNat (s.reading c.t B z m) := by
  obtain ⟨B, hread⟩ := (reads_readBits hc ht (State.reads_one hr)).start
  rw [hs] at hread
  exact ⟨B, by rw [mtsOpnd, if_neg (by simp [hw]), natSrc, hread]⟩

/-- The operand of MTS, a pair. -/
theorem mts_reads_pair {A : DWord} (hw : sp.wide = true) (hr : s.srcPair c.t a .lo64 .hi64 = some (A, z, m)) :
    ∃ B, mtsOpnd a sp s = .ok A.toNat (s.reading c.t B z m) := by
  obtain ⟨B, hread⟩ := (reads_readPair hc ht hr).start
  rw [hs] at hread
  exact ⟨B, by rw [mtsOpnd, if_pos hw, readL64, hread]⟩

end

/-! ## RND (R178) -/

/-- The body of RND. -/
def rndBody (d : Nat) (w64 : Bool) : M Flow := do
  let th ← thread
  let gg ← gang
  let k ← getKernel gg.kern
  let x := mix (Nat.xor k.desc.pseed th.lin) th.rndc
  modThread fun th => { th with rndc := (th.rndc + 1) % 2 ^ 32 }
  if w64 then putL64 d x else putWord d (x % 2 ^ 32) .u32

theorem exec_rnd (gd : Guard) (d : Nat) (w64 : Bool) : exec (.rnd gd d w64) =
    code [if w64 then .even d else .r d] gd (if w64 then [.reg d .w64l, .reg (d + 1) .w64h] else [.reg d .u32]) (rndBody d w64) := rfl

theorem getKernel_run {s : State} {i : Nat} {k : Kernel} (hk : s.kernels.find i = some k) : getKernel i s = .ok k s := by
  simp only [getKernel, bind_run, get_run, hk, pure_run]

section
variable {s : State} {t d : Nat} {gd : Guard} {th : Thread} {g : Gang} {k : Kernel} (ht : s.threads.find t = some th)
  (hg : s.gangs.find (gidOf t) = some g) (hk : s.kernels.find g.kern = some k)
include ht hg hk

theorem rndBody_run {c : Cur} (hc : s.cur = some c) (hct : c.t = t) (w64 : Bool) : rndBody d w64 s =
    (if w64 then putL64 d (mix (k.desc.pseed ^^^ th.lin) th.rndc) else putWord d (mix (k.desc.pseed ^^^ th.lin) th.rndc % 2 ^ 32 : Nat) .u32)
      (s.updThread t fun y => { y with rndc := (y.rndc + 1) % 4294967296 }) := by
  subst hct
  unfold rndBody
  rw [bind_ok (thread_run hc ht), bind_ok (gang_run hc hg), bind_ok (getKernel_run hk), bind_ok (modThread_run hc _)]
  rfl

theorem rnd_word (h : s.Runs t [.r d] [] gd) : exec (.rnd gd d false) s =
    .next ((s.updThread t fun y => { y with rndc := (y.rndc + 1) % 4294967296 }).result t d
      ⟨BitVec.ofNat 32 (mix (k.desc.pseed ^^^ th.lin) th.rndc), .u32⟩ false false 0) := by
  obtain ⟨c, -, -, hc, hct, -⟩ := h.fresh
  have hlow : BitVec.ofNat 32 (mix (k.desc.pseed ^^^ th.lin) th.rndc) = BitVec.ofNat 32 (mix (k.desc.pseed ^^^ th.lin) th.rndc % 2 ^ 32) := by
    apply BitVec.eq_of_toNat_eq
    simp
  rw [exec_rnd, hlow]
  exact code_putWord h rfl (State.find_updThread_self ht _) (rndBody_run ht hg hk hc hct false)

theorem rnd_pair (h : s.Runs t [.even d] [] gd) : exec (.rnd gd d true) s =
    .next ((s.updThread t fun y => { y with rndc := (y.rndc + 1) % 4294967296 }).resultL64 t d
      (BitVec.ofNat 64 (mix (k.desc.pseed ^^^ th.lin) th.rndc)) false false 0) := by
  obtain ⟨c, -, -, hc, hct, -⟩ := h.fresh
  rw [exec_rnd]
  exact code_putL64 h rfl (State.find_updThread_self ht _) (rndBody_run ht hg hk hc hct true)

/-! ## PCOUNT (R360) -/

theorem pcount_item (h : s.Runs t [.r d] [] gd) {p : Pop} (hp : k.pop = some p) (item n : Nat) :
    exec (.pcount gd d item n) s = .next (s.result t d ⟨BitVec.ofNat 32 (s.popItem g.kern k p item), .u32⟩ false false 0) := by
  obtain ⟨c, -, -, hc, rfl, -⟩ := h.fresh
  refine code_putWord h rfl ht ?_
  rw [bind_ok (gang_run hc hg), bind_ok (getKernel_run hk), bind_ok (get_run s), hp]

omit ht in
theorem pcount_none (h : s.Runs t [.r d] [] gd) (hp : k.pop = none) (item n : Nat) :
    exec (.pcount gd d item n) s = .next (s.takeTrap t .population 21474836480) := by
  obtain ⟨c, -, -, hc, rfl, -⟩ := h.fresh
  refine code_trap h ?_
  rw [bind_ok (gang_run hc hg), bind_ok (getKernel_run hk), bind_ok (get_run s), hp]
  rfl

end

/-! ## GRPQ (R150) -/

section
variable {s : State} {t d slot item : Nat} {gd : Guard} {th : Thread} {g : Gang} (ht : s.threads.find t = some th)
  (hg : s.gangs.find (gidOf t) = some g) (h : s.Runs t [.r d] [] gd)
include ht hg h

theorem grpq_empty (hs : g.grp.getD slot none = none) :
    exec (.grpq gd d slot item) s = .next (s.result t d ⟨4294967295, .u32⟩ false false 0) := by
  obtain ⟨c, -, -, hc, rfl, -⟩ := h.fresh
  refine code_putWord (v := 4294967295) h rfl ht ?_
  rw [bind_ok (gang_run hc hg), bind_ok (get_run s), hs]
  rfl

theorem grpq_item {i : Nat} {w : GInst} (hs : g.grp.getD slot none = some i) (hi : s.insts.find i = some w) :
    exec (.grpq gd d slot item) s = .next (s.result t d ⟨BitVec.ofNat 32 (s.grpItem g i w item), .u32⟩ false false 0) := by
  obtain ⟨c, -, -, hc, rfl, -⟩ := h.fresh
  refine code_putWord h rfl ht ?_
  rw [bind_ok (gang_run hc hg), bind_ok (get_run s), hs]
  simp only [hi]

end

/-! ## TRACE (R414) -/

/-- A record in the ring and a change of a thread commute. -/
theorem State.traceRecord_updThread (s : State) (t : Nat) (f : Thread → Thread) (die c v : Nat) :
    (s.updThread t f).traceRecord die c v = (s.traceRecord die c v).updThread t f := by
  have hdie : (s.updThread t f).die die = s.die die := rfl
  have hpoison (x : State) (pa n : Nat) : (x.updThread t f).curePoison pa n = (x.curePoison pa n).updThread t f := by
    unfold State.curePoison
    dsimp only
    split <;> rfl
  unfold State.traceRecord
  simp only [hdie, State.physSet_updThread, hpoison]
  split
  · rfl
  · split <;> rfl

theorem State.SameUnits.traceRecord (s : State) (die c v : Nat) : s.SameUnits (s.traceRecord die c v) := by
  have hset {x : State} (hx : s.SameUnits x) (d : Nat) (y : Die) : s.SameUnits (x.setDie d y) := hx.trans ⟨rfl, rfl, rfl, rfl⟩
  have h := State.SameUnits.refl s
  unfold State.traceRecord
  exact .ite h (.ite (hset h _ _) (hset ((h.physSet _ _ _ _).curePoison _ _) _ _))

/-- TRACE writes its operands to the ring of its die. -/
theorem trace_records {s : State} {t a b k : Nat} {gd : Guard} {x y : TWord} {z m : Bool} {th : Thread} {g : Gang}
    (ht : s.threads.find t = some th) (hg : s.gangs.find (gidOf t) = some g) (h : s.Runs t [.r a, .r b] [] gd)
    (hr : s.reads t [(a, .any), (b, .any)] = some ([x, y], z, m)) : exec (.trace gd a b k) s =
      .next (((s.noted t z m 0).traceRecord (dieOfCore (coreOf t)) g.ctx
        (traceHead 2 g.ctx (coreOf t) (gslotOf t) (laneOf t) s.refCycle + 2 ^ 128 * th.lin + 2 ^ 192 * x.bits.toNat +
          2 ^ 224 * y.bits.toNat)).done t) := by
  obtain ⟨c, -, -, hc, rfl, -⟩ := h.fresh
  obtain ⟨x', z₁, m₁, vs, z₂, m₂, hx, hrest, hxy, rfl, rfl⟩ := State.reads_cons hr
  obtain ⟨rfl, rfl⟩ : x = x' ∧ [y] = vs := by simpa using hxy
  obtain ⟨B, hread⟩ := (reads_readBits hc ht hx).both (reads_readBits hc ht (State.reads_one hrest)) h.unread
  have hrec (v : Nat) : ((s.reading c.t B (z₁ || z₂) (m₁ || m₂)).traceRecord (dieOfCore (coreOf c.t)) g.ctx v).commit c.t =
      ((s.noted c.t (z₁ || z₂) (m₁ || m₂) 0).traceRecord (dieOfCore (coreOf c.t)) g.ctx v).commit c.t := by
    rw [State.reading, State.noted, State.traceRecord_updThread, State.traceRecord_updThread]
    exact State.commit_reading (by rw [(State.SameUnits.traceRecord s _ _ _).threads]; exact ht) B _ _
  rw [State.done, ← hrec]
  refine code_next (f := .seq) h ((hread _).trans ?_)
  rw [bind_ok (curT_run (s := s.reading c.t B _ _) hc), bind_ok (thread_reading hc ht B _ _), bind_ok (gang_run (s := s.reading c.t B _ _) hc hg),
    bind_ok (get_run _), bind_ok (set_run _ _)]
  rfl

/-- Settles O17: each instruction by what its body gives, one word or a pair. -/
theorem systemInstructions : Obligations.SystemInstructions := by
  unfold Obligations.SystemInstructions
  refine ⟨?specials, ?others⟩
  case specials =>
    intro s t d a gd sp ka x A z m th g ht hg
    refine ⟨mfs_word ht hg, mfs_pair ht hg, fun h => ⟨mfs_cyc ht hg h, s.sub_readCyc t⟩, fun hw h hr => ?word, fun hw h hr hno => ?pair, fun h hr hin => ?tval⟩
    all_goals obtain ⟨c, -, -, hc, rfl, -⟩ := h.fresh
    case word =>
      obtain ⟨B, hv⟩ := mts_reads_word hc ht h.unread hw hr
      have h' : s.Runs c.t [specialField sp a] [] gd := by rw [specialField, if_neg (by simp [hw])]; exact h
      exact ⟨mts_writes ht h' hv ka, fun hbad => ⟨B, mts_refused ht h' hv ka hbad⟩⟩
    case pair =>
      obtain ⟨B, hv⟩ := mts_reads_pair hc ht h.unread hw hr
      have h' : s.Runs c.t [specialField sp a] [] gd := by rw [specialField, if_pos hw]; exact h
      exact ⟨B, mts_refused ht h' hv ka (.inl hno)⟩
    case tval =>
      obtain ⟨B, hv⟩ := mts_reads_pair (sp := .tval) hc ht h.unread rfl hr
      exact mts_writes (sp := .tval) ht h hv ka hin rfl
  case others =>
    intro s t d a b k slot item gd x y z m th g kk ht hg hk draw drawn
    refine ⟨fun h => ⟨rnd_word ht hg hk h, fun p hp => pcount_item ht hg hk h hp item k, fun hp => pcount_none hg hk h hp item k,
      grpq_empty ht hg h, fun i w => grpq_item ht hg h⟩, rnd_pair ht hg hk, fun h hr => trace_records ht hg h hr⟩

end Sys2Proof.Machine

end

section
/-! LAWS. Gang collectives (08_gang R170 to R175): how a lane arrives, and what a completed collective gives it. -/

namespace Sys2Proof.Machine

open Sys2Proof

/-! ## What a delivery changes -/

/-- `x` is `s` after an instruction of `t` that waited was completed: that thread waits no more and holds nothing of the instruction, the
other threads stand, gangs differ in registers, and memory differs only where a mismatch is counted. -/
structure State.Delivers (s x : State) (t : Nat) : Prop where
  cur : x.cur = s.cur
  threads : ∃ f : Thread → Thread, x.threads = s.threads.upd t f ∧
    ∀ th, (f th).wait = none ∧ (f th).cont = .none ∧ (f th).opbuf = [] ∧ (f th).pendMis = false
  gangs : ∀ i a, s.gangs.find i = some a → ∃ r, x.gangs.find i = some { a with regs := r }
  mem : (∀ th, s.threads.find t = some th → th.pendMis = false) → x.mem = s.mem

/-- A thread changed into itself. -/
theorem State.updThread_id (s : State) (t : Nat) : s.updThread t (fun th => th) = s := by
  have h : s.threads.upd t (fun th => th) = s.threads := by
    cases ht : s.threads.find t with
    | none => exact AMap.upd_none ht
    | some th => exact AMap.upd_same ht rfl
  simp only [State.updThread, h]

/-- A collective's result changes its thread's predicates and flags, and registers. -/
theorem State.collWrite_shape (s : State) (t : Nat) (c : CollArr) (ws : List TWord) (m : Nat) :
    ∃ f gs, (∀ th : Thread, ∃ p q, f th = { th with preds := p, pendFst := q }) ∧
      s.collWrite t c ws m = { s.updThread t f with gangs := gs } ∧
      ∀ i a, s.gangs.find i = some a → ∃ r, gs.find i = some { a with regs := r } := by
  have hreg : ∀ (f : Thread → Thread) (d : Nat) (w : TWord), ∃ gs, (s.updThread t f).writeReg t d w = { s.updThread t f with gangs := gs } ∧
      ∀ i a, s.gangs.find i = some a → ∃ r, gs.find i = some { a with regs := r } := fun f d w => by
    obtain ⟨gs, h⟩ := (s.updThread t f).writeReg_shape t d w
    refine ⟨gs, h, fun i a ha => ?_⟩
    obtain ⟨r, hr⟩ := State.writeReg_gang (s.updThread t f) t d i w ha
    exact ⟨r, by rwa [h] at hr⟩
  have hid : s.updThread t (fun th => th) = s := State.updThread_id s t
  unfold State.collWrite
  split
  · obtain ⟨gs, h⟩ := hreg (fun th => th) _ _
    exact ⟨_, gs, fun th => ⟨th.preds, th.pendFst, rfl⟩, by simpa only [hid] using h⟩
  · split
    · refine ⟨_, s.gangs, fun th => ?_, rfl, fun i a ha => ⟨a.regs, ha⟩⟩
      split
      · exact ⟨th.preds, th.pendFst, rfl⟩
      · exact ⟨_, th.pendFst, rfl⟩
    · obtain ⟨gs, h⟩ := hreg (fun th => th) _ _
      exact ⟨_, gs, fun th => ⟨th.preds, th.pendFst, rfl⟩, by simpa only [hid] using h⟩
  · obtain ⟨gs, h⟩ := hreg (fun th => { th with pendFst := _ }) _ _
    exact ⟨_, gs, fun th => ⟨th.preds, _, rfl⟩, h⟩
  · obtain ⟨gs, h⟩ := hreg (fun th => { th with pendFst := _ }) _ _
    exact ⟨_, gs, fun th => ⟨th.preds, _, rfl⟩, h⟩

/-- What a delivery to a lane changes. -/
theorem State.delivers_collDeliver (s : State) (gid : Nat) (ws : List TWord) (m : Nat) (c : CollArr) :
    s.Delivers (s.collDeliver gid ws m c) (32 * gid + c.lane) := by
  obtain ⟨f, gs, hf, hx, hgs⟩ : ∃ f gs, (∀ th : Thread, ∃ p q, f th = { th with preds := p, pendFst := q }) ∧
      (if c.abst then s else s.collWrite (32 * gid + c.lane) c ws m) = { s.updThread (32 * gid + c.lane) f with gangs := gs } ∧
      ∀ i a, s.gangs.find i = some a → ∃ r, gs.find i = some { a with regs := r } := by
    split
    · exact ⟨_, s.gangs, fun th => ⟨th.preds, th.pendFst, rfl⟩, (State.updThread_id s _).symm, fun i a ha => ⟨a.regs, ha⟩⟩
    · exact s.collWrite_shape ..
  obtain ⟨g, m', q, x, o, e, ks, cs, hg, hd, hm⟩ :=
    State.done_shape { s.updThread (32 * gid + c.lane) f with gangs := gs } (32 * gid + c.lane)
  have hS : s.collDeliver gid ws m c = _ := (congrArg (State.done · (32 * gid + c.lane)) hx).trans hd
  rw [hS]
  refine ⟨rfl, ⟨fun th => g (f th), AMap.upd_upd .., fun th => ?_⟩, hgs, fun hp => (hm fun th ht => ?_).1⟩
  · obtain ⟨p, c', r, g', a, b, i, h⟩ := hg (f th)
    dsimp only
    rw [h]
    exact ⟨rfl, rfl, rfl, rfl⟩
  · obtain ⟨th₀, h₀, rfl⟩ : ∃ th₀, s.threads.find (32 * gid + c.lane) = some th₀ ∧ f th₀ = th := by simpa using ht
    obtain ⟨p, q', h⟩ := hf th₀
    rw [h]
    exact hp th₀ h₀

/-- What judging a gang's collective leaves of the state: the thread at issue, and the gangs. -/
theorem State.judgeColl_keeps (s : State) (gid : Nat) : (s.judgeColl gid).cur = s.cur ∧
    ∀ i, (∃ a, s.gangs.find i = some a) → ∃ a, (s.judgeColl gid).gangs.find i = some a := by
  have hfold : ∀ (ws : List TWord) (m : Nat) (cs : List CollArr) (x : State),
      (cs.foldl (fun x c => x.collDeliver gid ws m c) x).cur = x.cur ∧ ∀ i, (∃ a, x.gangs.find i = some a) →
        ∃ a, (cs.foldl (fun x c => x.collDeliver gid ws m c) x).gangs.find i = some a := fun ws m cs => by
    induction cs with
    | nil => exact fun x => ⟨rfl, fun _ h => h⟩
    | cons c cs ih =>
      intro x
      have hd := x.delivers_collDeliver gid ws m c
      obtain ⟨hcur, hgs⟩ := ih (x.collDeliver gid ws m c)
      refine ⟨hcur.trans hd.cur, fun i ⟨a, ha⟩ => hgs i ?_⟩
      obtain ⟨r, hr⟩ := hd.gangs i a ha
      exact ⟨_, hr⟩
  unfold State.judgeColl
  split
  · exact ⟨rfl, fun _ h => h⟩
  · dsimp only
    split
    · exact ⟨rfl, fun _ h => h⟩
    · refine ⟨(hfold ..).1, fun i ⟨a, ha⟩ => (hfold ..).2 i ?_⟩
      simp only [State.updGang, AMap.find_upd, ha]
      split
      · exact ⟨_, rfl⟩
      · exact ⟨a, rfl⟩

/-! ## Arrival (R170, R171) -/

/-- The state in which the lane of `t`, whose thread is `th`, has arrived in its gang's collective with `x` for `o`, or abstained; and the
collective has completed if that completes it. -/
def State.collArrival (s : State) (t : Nat) (th : Thread) (abst : Bool) (x : TWord) (o : CollOp) : State :=
  (s.updGang (gidOf t) fun u => { u with coll := u.coll.filter (fun c => c.lane != laneOf t) ++
    [{ lane := laneOf t, pc := th.pc, rep := th.repNo, abst := abst, a := x, op := o }] }).judgeColl (gidOf t)

/-- How instruction `i` of `t` goes on when its arrival has left `S`: it waits if the arrival still stands, and has completed otherwise. -/
def State.ArrivesIn (s : State) (t : Nat) (i : Instr) (S : State) : Prop :=
  ∃ u, S.gangs.find (gidOf t) = some u ∧ exec i s = .next (if u.coll.any (fun c => c.lane == laneOf t) then S.waitOn t .coll else S)

/-- The outcome of a collective instruction whose operand is read. -/
theorem runCode_collective {s x : State} {c : Cur} {th : Thread} {g : Gang} (hc : s.cur = some c) (ht : s.threads.find c.t = some th)
    (hxc : x.cur = s.cur) (hg : x.gangs.find (gidOf c.t) = some g) {guard : Bool} {arr : M (TWord × CollOp)} {op0 o : CollOp} {w : TWord}
    (harr : (if guard then arr else pure (⟨0, .raw⟩, op0)) s = .ok (w, o) x) {m : M Flow} (hm : m s = collective guard arr op0 s)
    (srcs : List Nat) (ds : List Dest) : ∃ u, (x.collArrival c.t th (!guard) w o).gangs.find (gidOf c.t) = some u ∧
      runCode srcs ds m s = .next (if u.coll.any (fun e => e.lane == laneOf c.t) then (x.collArrival c.t th (!guard) w o).waitOn c.t .coll
        else x.collArrival c.t th (!guard) w o) := by
  obtain ⟨hcur, hgs⟩ := State.judgeColl_keeps (x.updGang (gidOf c.t) fun u =>
    { u with coll := u.coll.filter (fun e => e.lane != laneOf c.t) ++
      [{ lane := laneOf c.t, pc := th.pc, rep := th.repNo, abst := !guard, a := w, op := o }] }) (gidOf c.t)
  obtain ⟨u, hu⟩ := hgs (gidOf c.t) ⟨_, by simp [State.updGang, hg]; rfl⟩
  refine ⟨u, hu, ?_⟩
  have hrun : m s = (if u.coll.any (fun e => e.lane == laneOf c.t) then waitFor .coll else pure .gone)
      (x.collArrival c.t th (!guard) w o) := by
    have hend := bind_ok (f := fun u : Gang => if u.coll.any (fun e => e.lane == laneOf c.t) then (waitFor .coll : M Flow) else pure .gone)
      (gang_run (hcur.trans (hxc.trans hc)) hu)
    rw [hm, collective, bind_ok (curT_run hc), bind_ok (thread_run hc ht)]
    cases guard with
    | true =>
      rw [if_pos rfl] at harr ⊢
      rw [bind_ok harr]
      exact hend
    | false =>
      rw [if_neg (by decide)] at harr ⊢
      rw [bind_ok harr]
      exact hend
  split at hrun
  · rw [if_pos ‹_›]
    exact runCode_wait hc hrun
  · rw [if_neg ‹_›]
    exact runCode_next hc hrun

/-! ## The instructions -/

/-- R172: the word LXCH arrives with, and its operand. -/
def lxOperands (d a b : Nat) (mode : LxMode) (kp : Bool) : M (TWord × CollOp) := do
  let x ← readReg a .any
  let n ← if mode == .low then pure 0 else natSrc b
  pure (x, .lxch mode kp d n)

/-- The registers that LXCH names. -/
def lxFields (d a b : Nat) (mode : LxMode) : List Field := [.r d, .r a] ++ if mode = .low then [] else [.r b]

theorem exec_lxch (gd : Guard) (d a b k : Nat) (mode : LxMode) (kp : Bool) : exec (.lxch gd d a b k mode kp) =
    codeAny (lxFields d a b mode) [] gd [.reg d .raw] fun on => collective on (lxOperands d a b mode kp) (.lxch mode kp d 0) := by
  cases mode <;> rfl

/-- R173: the predicate PAGR arrives with. -/
def pagrOperand (d : Nat) (ps : PredSrc) (kind : PagrKind) : M (TWord × CollOp) := do
  let v ← readPred ps
  pure (⟨BitVec.ofNat 32 (b2n v), .raw⟩, .pagr kind d)

/-- The register that PAGR names. -/
def pagrFields (d : Nat) (kind : PagrKind) : List Field := if kind = .mask ∨ kind = .count then [.r d] else []

theorem exec_pagr (gd : Guard) (d : Nat) (ps : PredSrc) (k : Nat) (kind : PagrKind) : exec (.pagr gd d ps k kind) =
    codeAny (pagrFields d kind) [] gd [if kind == .mask || kind == .count then .reg d .u32 else .pred (d % 8)]
      fun on => collective on (pagrOperand d ps kind) (.pagr kind d) := by
  cases kind <;> rfl

/-- The operand REDG and SCANG arrive with. -/
def redOperand (a : Nat) (op : RedOp) (o : CollOp) : M (TWord × CollOp) := do pure (← readReg a (redKind op), o)

theorem exec_redg (gd : Guard) (d a k : Nat) (op : RedOp) : exec (.redg gd d a k op) =
    codeAny [.r d, .r a] [] gd [.reg d (redTag op)] fun on => collective on (redOperand a op (.redg op d)) (.redg op d) := rfl

theorem exec_scang (gd : Guard) (d a k : Nat) (op : RedOp) (excl : Bool) : exec (.scang gd d a k op excl) =
    codeAny [.r d, .r a] [] gd [.reg d (redTag op)] fun on =>
      collective on (redOperand a op (.scang op excl d)) (.scang op excl d) := rfl

/-- The prologue of an instruction that gives a false guard a meaning of its own, when its guard is false: its body is what happens. -/
theorem issueWith_unguarded {s : State} {t : Nat} {fs : List Field} {ex : List Nat} {gd : Guard} (h : s.Resumes t fs ex gd false .none)
    (body : Bool → M Flow) : issueWith fs gd .run ex body s = body false s := by
  obtain ⟨c, th, g, hc, rfl, ht, hg, hf, hgd, -, hcont⟩ := h
  simp only [issueWith, bind_run, curT_run hc, thread_run hc ht, gang_run hc hg, get_run, hf, hgd, hcont]
  simp

section
variable {s : State} {t : Nat} {th : Thread} {g : Gang} {fs : List Field} {gd : Guard}

/-- A collective instruction whose guard holds arrives with what it reads. -/
theorem codeAny_arrives (ht : s.threads.find t = some th) (hg : s.gangs.find (gidOf t) = some g) (h : s.Runs t fs [] gd)
    {arr : M (TWord × CollOp)} {op0 o : CollOp} {w : TWord} {B : AMap TWord} {z m : Bool} {ds : List Dest} {i : Instr}
    (hi : exec i = codeAny fs [] gd ds fun on => collective on arr op0) (harr : arr s = .ok (w, o) (s.reading t B z m)) :
    s.ArrivesIn t i ((s.reading t B z m).collArrival t th false w o) := by
  obtain ⟨c, -, hc, rfl, -⟩ := h.start
  obtain ⟨u, hu, hrun⟩ := runCode_collective (guard := true) (x := s.reading c.t B z m) hc ht rfl hg harr
    (issueWith_runs (o := .run) (body := fun on => collective on arr op0) h) (sourceRegs (fs.flatMap Field.regs ++ []) ds) ds
  exact ⟨u, hu, by rw [hi]; exact hrun⟩

/-- A collective instruction whose guard is false abstains. -/
theorem codeAny_abstains (ht : s.threads.find t = some th) (hg : s.gangs.find (gidOf t) = some g) (h : s.Resumes t fs [] gd false .none)
    {arr : M (TWord × CollOp)} {op0 : CollOp} {ds : List Dest} {i : Instr}
    (hi : exec i = codeAny fs [] gd ds fun on => collective on arr op0) : s.ArrivesIn t i (s.collArrival t th true ⟨0, .raw⟩ op0) := by
  obtain ⟨c, -, hc, rfl, -⟩ := h.given
  obtain ⟨u, hu, hrun⟩ := runCode_collective (guard := false) hc ht rfl hg rfl
    (issueWith_unguarded h fun on => collective on arr op0) (sourceRegs (fs.flatMap Field.regs ++ []) ds) ds
  exact ⟨u, hu, by rw [hi]; exact hrun⟩

end

/-! ## The instructions of a lane (R172 to R175) -/

section
variable {s : State} {t : Nat} {th : Thread} {g : Gang} {gd : Guard} (ht : s.threads.find t = some th)
  (hg : s.gangs.find (gidOf t) = some g) (d a b k : Nat) (op : RedOp) (excl kp : Bool) (mode : LxMode) (kind : PagrKind)
include ht hg

/-- R174, R175: REDG and SCANG arrive with the operand they read. -/
theorem redCollective_arrives {x : TWord} {z m : Bool} (h : s.Runs t [.r d, .r a] [] gd)
    (hr : s.reads t [(a, redKind op)] = some ([x], z, m)) : ∃ B,
      s.ArrivesIn t (.redg gd d a k op) ((s.reading t B z m).collArrival t th false x (.redg op d)) ∧
      s.ArrivesIn t (.scang gd d a k op excl) ((s.reading t B z m).collArrival t th false x (.scang op excl d)) := by
  obtain ⟨c, th', hc, rfl, ht', -, hs⟩ := h.start
  obtain ⟨B, hB⟩ := (reads_readReg hc ht (State.reads_one hr)).start
  rw [hs] at hB
  exact ⟨B, codeAny_arrives ht hg h (exec_redg gd d a k op) (bind_ok hB), codeAny_arrives ht hg h (exec_scang gd d a k op excl) (bind_ok hB)⟩

/-- R173: PAGR arrives with its predicate. -/
theorem pagr_arrives (ps : PredSrc) (h : s.Runs t (pagrFields d kind) [] gd) : s.ArrivesIn t (.pagr gd d ps k kind)
    (s.collArrival t th false ⟨BitVec.ofNat 32 (b2n (predBit th.preds ps.p != ps.neg)), .raw⟩ (.pagr kind d)) := by
  obtain ⟨c, -, hc, rfl, -, -, hs⟩ := h.start
  have hp : readPred ps s = .ok (predBit th.preds ps.p != ps.neg) (s.reading c.t [] false false) := by
    rw [hs]
    exact bind_ok (thread_run hc ht)
  rw [← congrArg (State.collArrival · c.t th false _ _) hs]
  exact codeAny_arrives ht hg h (exec_pagr gd d ps k kind) (bind_ok hp)

/-- R172: LXCH's lowest-lane form arrives with its word. -/
theorem lxch_low_arrives {x : TWord} {z m : Bool} (h : s.Runs t (lxFields d a b .low) [] gd)
    (hr : s.reads t [(a, .any)] = some ([x], z, m)) :
    ∃ B, s.ArrivesIn t (.lxch gd d a b k .low kp) ((s.reading t B z m).collArrival t th false x (.lxch .low kp d 0)) := by
  obtain ⟨c, -, hc, rfl, -, -, hs⟩ := h.start
  obtain ⟨B, hB⟩ := (reads_readReg hc ht (State.reads_one hr)).start
  rw [hs] at hB
  exact ⟨B, codeAny_arrives ht hg h (exec_lxch gd d a b k .low kp) (bind_ok hB)⟩

/-- R172: LXCH's other forms arrive with their word and their operand. -/
theorem lxch_arrives (hmode : mode ≠ .low) {x y : TWord} {z m : Bool} (h : s.Runs t (lxFields d a b mode) [] gd)
    (hr : s.reads t [(a, .any), (b, .int)] = some ([x, y], z, m)) :
    ∃ B, s.ArrivesIn t (.lxch gd d a b k mode kp) ((s.reading t B z m).collArrival t th false x (.lxch mode kp d y.bits.toNat)) := by
  obtain ⟨c, -, hc, rfl, -, -, hs⟩ := h.start
  obtain ⟨w, z₁, m₁, vs, z₂, m₂, hx, hr, hw, rfl, rfl⟩ := State.reads_cons hr
  obtain ⟨rfl, rfl⟩ : x = w ∧ [y] = vs := by simpa using hw
  obtain ⟨B, hB⟩ := (reads_readReg hc ht hx).both (reads_readBits hc ht (State.reads_one hr)) hs
  have hlow : (mode == .low) = false := by simpa using hmode
  refine ⟨B, codeAny_arrives ht hg h (exec_lxch gd d a b k mode kp) ?_⟩
  rw [lxOperands, hlow]
  exact hB fun x n => pure (x, CollOp.lxch mode kp d n)

/-- R170: a lane whose guard is false abstains in REDG and SCANG. -/
theorem redCollective_abstains (h : s.Resumes t [.r d, .r a] [] gd false .none) :
    s.ArrivesIn t (.redg gd d a k op) (s.collArrival t th true ⟨0, .raw⟩ (.redg op d)) ∧
    s.ArrivesIn t (.scang gd d a k op excl) (s.collArrival t th true ⟨0, .raw⟩ (.scang op excl d)) :=
  ⟨codeAny_abstains ht hg h (exec_redg gd d a k op), codeAny_abstains ht hg h (exec_scang gd d a k op excl)⟩

end

/-! ## What a lane is given (R172 to R175) -/

/-- Nothing noted is no change, whether or not the thread lives. -/
theorem State.noted_zero (s : State) (t : Nat) : s.noted t false false 0 = s := by
  simp only [State.noted, Bool.or_false, orf, Nat.or_zero]
  exact State.updThread_id s t

/-- A lane given a word and flags. -/
theorem State.putResult_done (s : State) (t d : Nat) (r : FRes) (tag : Tag) :
    (s.putResult t d r tag).done t = s.result t d ⟨BitVec.ofNat 32 r.1, tag⟩ false false r.2 := by
  simp only [State.putResult, State.result, State.noted, Bool.or_false]

/-- A lane given a word. -/
theorem State.writeReg_done (s : State) (t d : Nat) (w : TWord) : (s.writeReg t d w).done t = s.result t d w false false 0 := by
  rw [State.result, State.noted_zero]

/-- A lane given a truth value; p0 discards it. -/
theorem State.writeFlag_done (s : State) (t d : Nat) (b : Bool) :
    (s.updThread t fun th => if d % 8 == 0 then th else { th with preds := setBit th.preds (d % 8) b }).done t =
      s.resultPreds t (predWrite (d % 8) b) false false 0 := by
  have h : (fun th : Thread => if d % 8 == 0 then th else { th with preds := setBit th.preds (d % 8) b }) =
      fun th => { th with preds := predWrite (d % 8) b th.preds } := by
    funext th
    by_cases hd : d % 8 = 0 <;> simp [predWrite, hd]
  rw [State.resultPreds, State.noted_zero, h]

/-- A lane that abstained is given nothing. -/
theorem collDeliver_abstained {s : State} {gid q : Nat} {ws : List TWord} {c : CollArr} (hab : c.abst = true) :
    s.collDeliver gid ws q c = s.done (32 * gid + c.lane) := by
  rw [State.collDeliver, if_pos hab]
  rfl

section
variable {s : State} {gid q d : Nat} {ws : List TWord} {c : CollArr} (hab : c.abst = false)
include hab

/-- A contributor is given what its collective writes. -/
theorem collDeliver_contributed : s.collDeliver gid ws q c = (s.collWrite (32 * gid + c.lane) c ws q).done (32 * gid + c.lane) := by
  rw [State.collDeliver, if_neg (by simp [hab])]
  rfl

/-- R174: a reduction gives every lane the root of the whole tree. -/
theorem collDeliver_redg {op : RedOp} (ho : c.op = .redg op d) : s.collDeliver gid ws q c = s.result (32 * gid + c.lane) d
    ⟨BitVec.ofNat 32 ((tree32 op ws q 32).1.getD (redEmpty op)), redTag op⟩ false false (tree32 op ws q 32).2 := by
  rw [collDeliver_contributed hab, State.collWrite, ho]
  exact State.putResult_done ..

/-- R175: a scan gives a lane the root of the tree of the lanes before it, and the flags of every lane's. -/
theorem collDeliver_scang {op : RedOp} {excl : Bool} (ho : c.op = .scang op excl d) : s.collDeliver gid ws q c =
    s.result (32 * gid + c.lane) d
      ⟨BitVec.ofNat 32 ((tree32 op ws q (if excl then c.lane else c.lane + 1)).1.getD (redEmpty op)), redTag op⟩ false false
      (scanFlags op ws q excl) := by
  rw [collDeliver_contributed hab, State.collWrite, ho]
  exact State.putResult_done ..

/-- R173: a kind of PAGR that finds a word. -/
theorem collDeliver_pagr_word {kind : PagrKind} {v : Nat} (ho : c.op = .pagr kind d) (hv : pagrValue kind ws q = .inr v) :
    s.collDeliver gid ws q c = s.result (32 * gid + c.lane) d ⟨BitVec.ofNat 32 v, .u32⟩ false false 0 := by
  simp only [collDeliver_contributed hab, State.collWrite, ho, hv]
  exact State.writeReg_done ..

/-- R173: a kind of PAGR that finds a truth value. -/
theorem collDeliver_pagr_flag {kind : PagrKind} {b : Bool} (ho : c.op = .pagr kind d) (hv : pagrValue kind ws q = .inl b) :
    s.collDeliver gid ws q c = s.resultPreds (32 * gid + c.lane) (predWrite (d % 8) b) false false 0 := by
  simp only [collDeliver_contributed hab, State.collWrite, ho, hv]
  exact State.writeFlag_done ..

/-- R172: LXCH gives a lane the word of the lane it takes from. -/
theorem collDeliver_lxch {mode : LxMode} {kp : Bool} {k : Nat} (ho : c.op = .lxch mode kp d k) : s.collDeliver gid ws q c =
    s.result (32 * gid + c.lane) d (lxWord mode kp c.lane k c.a ws q) false false 0 := by
  simp only [collDeliver_contributed hab, State.collWrite, ho]
  exact State.writeReg_done ..

end

/-- Settles O30: how each of the four instructions arrives or abstains, and what each gives a lane. -/
theorem collectives : Obligations.Collectives := by
  unfold Obligations.Collectives
  refine ⟨?arrival, ?delivery⟩
  case arrival =>
    rintro s t gd d a b k kp excl mode kind op ps x y z m th g ht hg
    refine ⟨fun h hr => redCollective_arrives ht hg d a k op excl h hr, fun h => pagr_arrives ht hg d k kind ps h, fun h hmode hr => ?_,
      fun h hmode hr => lxch_arrives ht hg d a b k kp mode hmode h hr, fun h => redCollective_abstains ht hg d a k op excl h,
      fun h => codeAny_abstains ht hg h (exec_pagr gd d ps k kind), fun h => codeAny_abstains ht hg h (exec_lxch gd d a b k mode kp)⟩
    subst hmode
    exact lxch_low_arrives ht hg d a b k kp h hr
  case delivery =>
    rintro s gid d k q kp excl mode kind op ws c
    refine ⟨collDeliver_abstained, fun hab => ⟨collDeliver_redg hab, collDeliver_scang hab, fun ho => ⟨?_, ?_, ?_, ?_, ?_⟩, fun ho => ?_⟩⟩
    · rintro rfl
      exact collDeliver_pagr_word hab ho rfl
    · rintro rfl
      exact collDeliver_pagr_word hab ho rfl
    · rintro rfl
      exact collDeliver_pagr_flag hab ho rfl
    · rintro rfl
      exact collDeliver_pagr_flag hab ho rfl
    · rintro rfl
      exact collDeliver_pagr_flag hab ho rfl
    · rw [collDeliver_lxch hab ho, lxWord]
      cases mode <;> rfl

end Sys2Proof.Machine

end

section
/-! LAWS. The results of gang collectives (R75, R170, R171, R174): the contributors' mask and words, reduction trees, and completion. -/

namespace Sys2Proof.Machine

open Sys2Proof

/-! ## The contributors (R170) -/

/-- A bit that is set joins those that were. -/
theorem bit_setBit (x i k : Nat) : bit (setBit x i true) k = (bit x k || k == i) := by
  have hx : x = 2 ^ i * (2 * (x / 2 ^ i / 2) + x / 2 ^ i % 2) + x % 2 ^ i := by
    rw [Nat.div_add_mod, Nat.div_add_mod]
  have hs : setBit x i true = 2 ^ i * (2 * (x / 2 ^ i / 2) + 1) + x % 2 ^ i := by
    have hle : x / 2 ^ i % 2 * 2 ^ i ≤ 2 ^ i * (2 * (x / 2 ^ i / 2) + x / 2 ^ i % 2) := by
      rw [Nat.mul_add, Nat.mul_comm]
      omega
    simp only [setBit, setBits, bits, b2n, if_true, Nat.add_sub_cancel_left, pow_one]
    rw [Nat.mul_add] at hx hle ⊢
    rw [Nat.mul_comm (x / 2 ^ i % 2)] at hle ⊢
    omega
  have hlt : x % 2 ^ i < 2 ^ i := Nat.mod_lt _ (Nat.two_pow_pos i)
  rw [bit_eq_testBit, bit_eq_testBit, hs]
  conv_rhs => rw [hx]
  rw [Nat.testBit_two_pow_mul_add _ hlt, Nat.testBit_two_pow_mul_add _ hlt]
  rcases Nat.lt_trichotomy k i with h | h | h
  · simp [h, Nat.ne_of_lt h]
  · simp [h]
  · obtain ⟨j, hj⟩ : ∃ j, k - i = j + 1 := ⟨k - i - 1, by omega⟩
    have hodd : (2 * (x / 2 ^ i / 2) + 1) / 2 = x / 2 ^ i / 2 := by omega
    have hsame : (2 * (x / 2 ^ i / 2) + x / 2 ^ i % 2) / 2 = x / 2 ^ i / 2 := by omega
    simp [Nat.not_lt.mpr (Nat.le_of_lt h), hj, Nat.testBit_succ, hodd, hsame, Nat.ne_of_gt h]

/-- The mask of a list of arrivals: the lanes that contribute. -/
theorem bit_contributions (cs : List CollArr) (k : Nat) : bit (contributions cs).2 k = cs.any fun c => c.lane == k && !c.abst := by
  have h : ∀ m, bit (cs.foldl (fun m c => if c.abst then m else setBit m c.lane true) m) k =
      (bit m k || cs.any fun c => c.lane == k && !c.abst) := by
    induction cs with
    | nil => simp
    | cons c cs ih =>
      intro m
      rw [List.foldl_cons, ih, List.any_cons]
      cases hab : c.abst
      · rw [if_neg (by simp), bit_setBit, Bool.beq_comm, Bool.or_assoc]
        simp
      · simp
  exact (h 0).trans (by simp [bit])

/-- The word that arrivals bring at a lane. -/
theorem wordAt_contributions (cs : List CollArr) {k : Nat} (hk : k < 32) {c : CollArr} (hc : (cs.find? fun c => c.lane == k && !c.abst) = some c) :
    wordAt (contributions cs).1 k = c.a := by
  have hk' : (contributions cs).1[k]? = some c.a := by simp [contributions, hk, hc]
  rw [wordAt, List.getD_eq_getElem?_getD, hk', Option.getD_some]

/-- Where lanes arrive once each, a lane's bit and word are its own arrival's. -/
theorem contributions_own {cs : List CollArr} (hnd : (cs.map (·.lane)).Nodup) {e : CollArr} (he : e ∈ cs) (hlt : e.lane < 32) :
    bit (contributions cs).2 e.lane = !e.abst ∧ (e.abst = false → wordAt (contributions cs).1 e.lane = e.a) := by
  have hown : ∀ c, c ∈ cs → c.lane = e.lane → c = e := fun c hc h => List.inj_on_of_nodup_map hnd hc he h
  refine ⟨?_, fun hab => ?_⟩
  · rw [bit_contributions, Bool.eq_iff_iff, List.any_eq_true]
    constructor
    · rintro ⟨c, hc, h⟩
      obtain ⟨hl, hab⟩ : c.lane = e.lane ∧ c.abst = false := by simpa using h
      obtain rfl := hown c hc hl
      simp [hab]
    · exact fun hab => ⟨e, he, by simpa using hab⟩
  · obtain ⟨c, hc⟩ : ∃ c, (cs.find? fun c => c.lane == e.lane && !c.abst) = some c := by
      rw [← Option.isSome_iff_exists, List.find?_isSome]
      exact ⟨e, he, by simp [hab]⟩
    obtain ⟨hl, -⟩ : c.lane = e.lane ∧ c.abst = false := by simpa using List.find?_some hc
    rw [wordAt_contributions cs hlt hc, hown c (List.mem_of_find?_eq_some hc) hl]

/-! ## Completion (R170, R171) -/

/-- What deliveries to arrivals of a gang keep of a state `x`, leaving `y`. -/
structure State.DeliversAll (x y : State) (gid : Nat) (cs : List CollArr) : Prop where
  threads : ∀ t th, x.threads.find t = some th →
    (∃ c, c ∈ cs ∧ 32 * gid + c.lane = t) ∨ (th.wait = none ∧ th.cont = .none ∧ th.opbuf = []) →
      ∃ u, y.threads.find t = some u ∧ u.wait = none ∧ u.cont = .none ∧ u.opbuf = []
  gangs : ∀ i a, x.gangs.find i = some a → ∃ r, y.gangs.find i = some { a with regs := r }
  mem : (∀ c th, c ∈ cs → x.threads.find (32 * gid + c.lane) = some th → th.pendMis = false) → y.mem = x.mem

theorem State.deliversAll_foldl (gid q : Nat) (ws : List TWord) (cs : List CollArr) (x : State) :
    x.DeliversAll (cs.foldl (fun S c => S.collDeliver gid ws q c) x) gid cs := by
  induction cs generalizing x with
  | nil => exact ⟨fun t th ht h => ⟨th, ht, by simpa using h⟩, fun i a ha => ⟨a.regs, ha⟩, fun _ => rfl⟩
  | cons c cs ih =>
    obtain ⟨-, ⟨f, hf, hq⟩, hgs, hm⟩ := x.delivers_collDeliver gid ws q c
    obtain ⟨iht, ihg, ihm⟩ := ih (x.collDeliver gid ws q c)
    have hfind : ∀ t th, x.threads.find t = some th → (x.collDeliver gid ws q c).threads.find t =
        some (if t = 32 * gid + c.lane then f th else th) := fun t th ht => by
      rw [hf, AMap.find_upd, ht]
      split <;> rfl
    refine ⟨fun t th ht h => iht t _ (hfind t th ht) ?_, fun i a ha => ?_, fun hp => ?_⟩
    · split
      · obtain ⟨hw, hc, ho, -⟩ := hq th
        exact .inr ⟨hw, hc, ho⟩
      · next hne =>
        rcases h with ⟨e, he, rfl⟩ | h
        · rcases List.mem_cons.mp he with rfl | he
          · exact absurd rfl hne
          · exact .inl ⟨e, he, rfl⟩
        · exact .inr h
    · obtain ⟨r, hr⟩ := hgs i a ha
      obtain ⟨r', hr'⟩ := ihg i _ hr
      exact ⟨r', hr'⟩
    · rw [List.foldl_cons, ihm, hm fun th ht => hp c th (by simp) ht]
      intro e th he ht
      rw [hf, AMap.find_upd] at ht
      split at ht
      · obtain ⟨u, -, rfl⟩ : ∃ u, x.threads.find (32 * gid + e.lane) = some u ∧ f u = th := by simpa using ht
        exact (hq u).2.2.2
      · exact hp e th (List.mem_cons_of_mem _ he) ht

/-- A live thread of a gang stands among the threads, in that gang. -/
theorem State.find_of_lanesOf {s : State} {gid t : Nat} (h : t ∈ s.lanesOf gid) : gidOf t = gid ∧ ∃ th, s.threads.find t = some th := by
  have hkey : ∀ (m : AMap Thread) (e : Nat × Thread), e ∈ m → ∃ th, m.find e.1 = some th := fun m => by
    induction m with
    | nil => exact fun e he => nomatch he
    | cons a m ih =>
      intro e he
      by_cases ha : a.1 = e.1
      · exact ⟨a.2, by simp [AMap.find, ha]⟩
      · obtain ⟨th, hth⟩ := ih e ((List.mem_cons.mp he).resolve_left fun h => ha (h ▸ rfl))
        exact ⟨th, by simp [AMap.find, ha, hth]⟩
  simp only [State.lanesOf, List.mem_map, List.mem_filter, beq_iff_eq] at h
  obtain ⟨e, ⟨he, hg⟩, rfl⟩ := h
  exact ⟨hg, hkey s.threads e he⟩

section
variable {s : State} {gid pc rep : Nat} {g : Gang} (hg : s.gangs.find gid = some g) (hne : g.coll ≠ [])
  (hall : ∀ c, c ∈ g.coll → c.pc = pc ∧ c.rep = rep ∧ 32 * gid + c.lane ∈ s.lanesOf gid ∧ c.lane < 32)
  (hlive : ∀ t, t ∈ s.lanesOf gid → ∃ c, c ∈ g.coll ∧ c.lane = laneOf t)
include hg hne hall hlive

/-- R170: where every live thread has arrived at one PC in one repetition, all are delivered what all contributed. -/
theorem State.judgeColl_completes : s.judgeColl gid =
    g.coll.foldl (fun S c => S.collDeliver gid (contributions g.coll).1 (contributions g.coll).2 c)
      (s.updGang gid fun u => { u with coll := [] }) := by
  have hpl : ∀ c, c ∈ g.coll → ((s.lanesOf gid).all fun t => (arrivalAt g.coll (laneOf t) c.pc c.rep).isSome) = true := fun c hc => by
    obtain ⟨hpc, hrep, -⟩ := hall c hc
    rw [List.all_eq_true]
    intro t ht
    obtain ⟨e, he, hl⟩ := hlive t ht
    obtain ⟨hpc', hrep', -⟩ := hall e he
    rw [arrivalAt, List.find?_isSome]
    exact ⟨e, he, by simp [hl, hpc, hrep, hpc', hrep']⟩
  obtain ⟨c, hc⟩ : ∃ c, (g.coll.find? fun c => (s.lanesOf gid).all fun t => (arrivalAt g.coll (laneOf t) c.pc c.rep).isSome) = some c := by
    obtain ⟨c, cs, hcs⟩ := List.exists_cons_of_ne_nil hne
    rw [← Option.isSome_iff_exists, List.find?_isSome]
    exact ⟨c, by simp [hcs], hpl c (by simp [hcs])⟩
  obtain ⟨hpc, hrep, -⟩ := hall c (List.mem_of_find?_eq_some hc)
  have hcs : (g.coll.filter fun x => x.pc == c.pc && x.rep == c.rep && (s.lanesOf gid).contains (32 * gid + x.lane)) = g.coll := by
    rw [List.filter_eq_self]
    intro x hx
    obtain ⟨hxpc, hxrep, hxl, -⟩ := hall x hx
    simp [hpc, hrep, hxpc, hxrep, hxl]
  simp only [State.judgeColl, hg, hc, hcs]

end

/-! ## Trees (R75) -/

/-- The terms of a level that are there. -/
def present (xs : List (Option Nat)) : List Nat := xs.filterMap id

/-- What holds of a level's terms, and stays when two neighbours are combined, holds of the next level's. -/
theorem present_treeLevel {f : Nat → Nat → FRes} {P : List Nat → Prop}
    (hP : ∀ pre a b suf, P (pre ++ a :: b :: suf) → P (pre ++ (f a b).1 :: suf)) :
    ∀ (xs : List (Option Nat)) (pre : List Nat), P (pre ++ present xs) → P (pre ++ present (treeLevel f xs).1)
  | [], _, h => h
  | [_], _, h => h
  | some a :: some b :: r, pre, h => by
    have ih := present_treeLevel hP r (pre ++ [(f a b).1]) (by simpa [present] using hP pre a b _ h)
    simpa [present, treeLevel] using ih
  | some a :: none :: r, pre, h => by
    have ih := present_treeLevel hP r (pre ++ [a]) (by simpa [present] using h)
    simpa [present, treeLevel] using ih
  | none :: some b :: r, pre, h => by
    have ih := present_treeLevel hP r (pre ++ [b]) (by simpa [present] using h)
    simpa [present, treeLevel] using ih
  | none :: none :: r, pre, h => by
    have ih := present_treeLevel hP r pre (by simpa [present] using h)
    simpa [present, treeLevel] using ih

theorem length_treeLevel (f : Nat → Nat → FRes) : ∀ (n : Nat) (xs : List (Option Nat)), xs.length = 2 * n → (treeLevel f xs).1.length = n
  | 0, xs, h => by
    obtain rfl := List.eq_nil_of_length_eq_zero h
    rfl
  | n + 1, x :: y :: r, h => by
    have ih := length_treeLevel f n r (by simp at h; omega)
    cases x <;> cases y <;> simp [treeLevel, ih]
  | n + 1, [x], h => by simp at h; omega

/-- What holds of the terms and stays when two neighbours are combined holds of the root, or of no term where there is none. -/
theorem present_treeRun {f : Nat → Nat → FRes} {P : List Nat → Prop}
    (hP : ∀ pre a b suf, P (pre ++ a :: b :: suf) → P (pre ++ (f a b).1 :: suf)) (n : Nat) (xs : List (Option Nat)) (hl : xs.length = 2 ^ n)
    (h : P (present xs)) : P (treeRun f n xs).1.toList := by
  induction n generalizing xs with
  | zero =>
    obtain ⟨x, rfl⟩ := List.length_eq_one_iff.mp hl
    cases x <;> exact h
  | succ n ih => exact ih _ (length_treeLevel f _ xs (by rw [hl]; ring)) (present_treeLevel hP xs [] h)

theorem flags_treeLevel {f : Nat → Nat → FRes} (hf : ∀ a b, (f a b).2 = 0) : ∀ xs, (treeLevel f xs).2 = 0
  | [] => rfl
  | [_] => rfl
  | x :: y :: r => by
    have ih := flags_treeLevel hf r
    cases x <;> cases y <;> simp [treeLevel, ih, hf, orf]

/-- Nodes without flags make a tree without flags. -/
theorem flags_treeRun {f : Nat → Nat → FRes} (hf : ∀ a b, (f a b).2 = 0) (n : Nat) (xs : List (Option Nat)) : (treeRun f n xs).2 = 0 := by
  induction n generalizing xs with
  | zero => rfl
  | succ n ih => simp [treeRun, flags_treeLevel hf, ih, orf]

/-- The words of the contributors at lanes below a limit. -/
def wordsBelow (ws : List TWord) (q lim : Nat) : List TWord := ((List.range lim).filter (bit q)).map fun k => wordAt ws k

/-- The leaves of a tree over the contributors at lanes below `lim`. -/
def treeLeaves (ws : List TWord) (q lim : Nat) : List (Option Nat) :=
  (List.range 32).map fun k => if bit q k && decide (k < lim) then some (wordAt ws k).bits.toNat else none

theorem present_map_ite (p : Nat → Bool) (f : Nat → Nat) (l : List Nat) :
    present (l.map fun k => if p k then some (f k) else none) = (l.filter p).map f := by
  induction l with
  | nil => rfl
  | cons k l ih => cases hk : p k <;> simp_all [present]

theorem present_treeLeaves (ws : List TWord) (q : Nat) {lim : Nat} (hlim : lim ≤ 32) :
    present (treeLeaves ws q lim) = (wordsBelow ws q lim).map fun x => x.bits.toNat := by
  have hlow : (List.range 32).filter (fun k => bit q k && decide (k < lim)) = (List.range lim).filter (bit q) := by
    obtain ⟨n, hn⟩ : ∃ n, 32 = lim + n := ⟨32 - lim, by omega⟩
    rw [hn, List.range_add, List.filter_append, List.filter_map]
    have hout : (List.range n).filter ((fun k => bit q k && decide (k < lim)) ∘ (lim + ·)) = [] := by simp
    rw [hout, List.map_nil, List.append_nil]
    exact List.filter_congr fun k hk => by simp [List.mem_range.mp hk]
  rw [wordsBelow, ← hlow, treeLeaves, present_map_ite, List.map_map]
  rfl

/-- The root of a tree, from what holds of the contributors' words and stays when two terms are combined. -/
theorem tree32_root {op : RedOp} {ws : List TWord} {q lim : Nat} (hlim : lim ≤ 32) {P : List Nat → Prop}
    (hP : ∀ pre a b suf, P (pre ++ a :: b :: suf) → P (pre ++ (redNode op a b).1 :: suf))
    (h : P ((wordsBelow ws q lim).map fun x => x.bits.toNat)) : P (tree32 op ws q lim).1.toList :=
  present_treeRun hP 5 (treeLeaves ws q lim) (by simp [treeLeaves]) (by rwa [present_treeLeaves ws q hlim])

/-- R75, R174: the integer sum of a reduction is the sum of the contributors' words modulo 2^32. -/
theorem tree32_zadd (ws : List TWord) (q : Nat) {lim : Nat} (hlim : lim ≤ 32) :
    (tree32 .zadd ws q lim).1.getD 0 = ((wordsBelow ws q lim).map fun x => x.bits.toNat).sum % 4294967296 := by
  have h := tree32_root (op := .zadd) (ws := ws) (q := q) hlim
    (P := fun l => (∀ x, x ∈ l → x < 4294967296) ∧
      l.sum % 4294967296 = ((wordsBelow ws q lim).map fun x => x.bits.toNat).sum % 4294967296)
    (fun pre a b suf ⟨hlt, hs⟩ => ⟨fun x hx => ?_, ?_⟩) ⟨fun x hx => ?_, rfl⟩
  · obtain ⟨hlt, hs⟩ := h
    rw [← hs]
    cases hr : (tree32 .zadd ws q lim).1 with
    | none => rfl
    | some r =>
      rw [hr] at hlt
      simpa using (Nat.mod_eq_of_lt (hlt r (by simp))).symm
  · simp only [List.mem_append, List.mem_cons] at hx
    rcases hx with hx | rfl | hx
    · exact hlt x (by simp [hx])
    · exact Nat.mod_lt _ (by decide)
    · exact hlt x (by simp [hx])
  · rw [← hs]
    simp only [redNode, List.sum_append, List.sum_cons]
    omega
  · obtain ⟨w, -, rfl⟩ := List.mem_map.mp hx
    exact w.bits.isLt

/-- A tree has a root where there is a contributor. -/
theorem tree32_eq_none_iff (op : RedOp) (ws : List TWord) (q : Nat) {lim : Nat} (hlim : lim ≤ 32) :
    (tree32 op ws q lim).1 = none ↔ wordsBelow ws q lim = [] := by
  have h := tree32_root (op := op) (ws := ws) (q := q) hlim (P := fun l => l = [] ↔ wordsBelow ws q lim = [])
    (fun pre a b suf h => by simpa using h) (by simp)
  rw [← h]
  cases (tree32 op ws q lim).1 <;> simp

/-- R75, R174: a maximum is one of the contributors' words, and none of them is greater. -/
theorem tree32_smax {ws : List TWord} {q lim r : Nat} (hlim : lim ≤ 32) (hr : (tree32 .smax ws q lim).1 = some r) :
    (∃ x, x ∈ wordsBelow ws q lim ∧ x.bits.toNat = r) ∧ ∀ x, x ∈ wordsBelow ws q lim → sext x.bits.toNat 32 ≤ sext r 32 := by
  have h := tree32_root (op := .smax) (ws := ws) (q := q) hlim
    (P := fun l => (∀ v, v ∈ l → ∃ x, x ∈ wordsBelow ws q lim ∧ x.bits.toNat = v) ∧
      ∀ x, x ∈ wordsBelow ws q lim → ∃ v, v ∈ l ∧ sext x.bits.toNat 32 ≤ sext v 32)
    (fun pre a b suf ⟨hmem, hle⟩ => ?_) ⟨fun v hv => List.mem_map.mp hv, fun x hx => ⟨_, List.mem_map.mpr ⟨x, hx, rfl⟩, le_rfl⟩⟩
  · obtain ⟨hmem, hle⟩ := h
    rw [hr] at hmem hle
    refine ⟨hmem r (by simp), fun x hx => ?_⟩
    obtain ⟨v, hv, hxv⟩ := hle x hx
    obtain rfl : v = r := by simpa using hv
    exact hxv
  · have hmax : ((redNode .smax a b).1 = a ∨ (redNode .smax a b).1 = b) ∧ sext a 32 ≤ sext (redNode .smax a b).1 32 ∧
        sext b 32 ≤ sext (redNode .smax a b).1 32 := by
      simp only [redNode]
      split
      · exact ⟨.inr rfl, ‹_›, le_rfl⟩
      · exact ⟨.inl rfl, le_rfl, by omega⟩
    obtain ⟨hone, ha, hb⟩ := hmax
    refine ⟨fun v hv => hmem v ?_, fun x hx => ?_⟩
    · simp only [List.mem_append, List.mem_cons] at hv ⊢
      rcases hv with hv | rfl | hv
      · exact .inl hv
      · exact .inr (hone.elim .inl fun h => .inr (.inl h))
      · exact .inr (.inr (.inr hv))
    · obtain ⟨v, hv, hxv⟩ := hle x hx
      simp only [List.mem_append, List.mem_cons] at hv ⊢
      rcases hv with hv | rfl | rfl | hv
      · exact ⟨v, .inl hv, hxv⟩
      · exact ⟨_, .inr (.inl rfl), hxv.trans ha⟩
      · exact ⟨_, .inr (.inl rfl), hxv.trans hb⟩
      · exact ⟨v, .inr (.inr hv), hxv⟩

/-- Settles O31: all arrivals are delivered what all contributed; and the roots of the trees, from what the leaves hold. -/
theorem collectiveResults : Obligations.CollectiveResults := by
  unfold Obligations.CollectiveResults
  refine ⟨?completion, ?trees⟩
  case completion =>
    rintro s gid pc rep g hg hne hall hnd hlive S
    have hS : S = _ := State.judgeColl_completes hg hne hall hlive
    obtain ⟨hth, hgs, hm⟩ := State.deliversAll_foldl gid (contributions g.coll).2 (contributions g.coll).1 g.coll
      (s.updGang gid fun u => { u with coll := [] })
    refine ⟨⟨_, _, fun e he => contributions_own hnd he (hall e he).2.2.2, hS⟩, fun t ht => ?_, ?_, fun hp => ?_⟩
    · obtain ⟨rfl, th, hf⟩ := State.find_of_lanesOf ht
      obtain ⟨c, hc, hl⟩ := hlive t ht
      rw [hS]
      exact hth t th hf (.inl ⟨c, hc, by rw [hl]; exact Nat.div_add_mod t 32⟩)
    · obtain ⟨r, hr⟩ := hgs gid { g with coll := [] } (by simp [State.updGang, hg])
      rw [hS]
      exact ⟨_, hr, rfl⟩
    · rw [hS, hm fun c th hc hf => hp _ th hf ?_]
      · rfl
      · obtain ⟨-, -, -, hlt⟩ := hall c hc
        rw [gidOf]
        omega
  case trees =>
    rintro ws q lim hlim xs
    exact ⟨tree32_zadd ws q hlim, flags_treeRun (fun _ _ => rfl) 5 _, tree32_eq_none_iff .zadd ws q hlim, fun r hr => tree32_smax hlim hr⟩

end Sys2Proof.Machine

end

section
/-! LAWS. Scheduling (08_gang R154 to R158): the order in which a slot's ready threads come. -/

namespace Sys2Proof.Machine

open Sys2Proof

/-! ## The order of R157 -/

/-- What R157 compares of a thread, most significant first; the lesser comes first. -/
def State.rank (s : State) (x : Nat × Thread) : List Int :=
  [if 32768 ≤ x.2.age then -(x.2.age : Int) else 0, -(s.prioOf x.1 : Int), -(ageBucket x.2.age : Int), x.2.pc, gslotOf x.1, laneOf x.1]

/-- A level of R157's order on which the lesser comes first, and one on which the greater does. -/
theorem ite_lesser_iff (a b : Nat) (r : Bool) : (if a != b then decide (a < b) else r) = true ↔ (a : Int) < b ∨ (a : Int) = b ∧ r = true := by
  by_cases h : a = b <;> simp [h]

theorem ite_greater_iff (a b : Nat) (r : Bool) :
    (if a != b then decide (b < a) else r) = true ↔ -(a : Int) < -(b : Int) ∨ -(a : Int) = -(b : Int) ∧ r = true := by
  by_cases h : a = b <;> simp [h]

/-- The first level of R157's order: old threads come first, the oldest of them before the rest. -/
theorem ite_older_iff (a b : Nat) (r : Bool) :
    (if decide (32768 ≤ a) != decide (32768 ≤ b) then decide (32768 ≤ a)
      else if decide (32768 ≤ a) && a != b then decide (b < a) else r) = true ↔
    (if 32768 ≤ a then -(a : Int) else 0) < (if 32768 ≤ b then -(b : Int) else 0) ∨
      (if 32768 ≤ a then -(a : Int) else 0) = (if 32768 ≤ b then -(b : Int) else 0) ∧ r = true := by
  by_cases ha : 32768 ≤ a <;> by_cases hb : 32768 ≤ b <;> simp only [ha, hb, decide_true, decide_false]
  · simpa using ite_greater_iff a b r
  · simp
    omega
  · simp
    omega
  · simp

/-- The order of R157 is the lexicographic order of ranks. -/
theorem State.before_iff (s : State) (x y : Nat × Thread) : s.before x y = true ↔ s.rank x < s.rank y := by
  have hnil : ¬([] : List Int) < [] := lt_irrefl _
  simp only [State.before, State.rank, List.cons_lt_cons_iff, ite_older_iff, ite_greater_iff, ite_lesser_iff, hnil, decide_eq_true_eq,
    Nat.cast_lt, and_false, or_false]

theorem State.before_eq_false_iff (s : State) (x y : Nat × Thread) : s.before x y = false ↔ s.rank y ≤ s.rank x := by
  rw [Bool.eq_false_iff, Ne, s.before_iff, not_lt]

/-- The first of a list is in it, and none of it comes before. -/
theorem State.first_spec {s : State} {cand : List (Nat × Thread)} {e : Nat × Thread} (h : s.first cand = some e) :
    e ∈ cand ∧ ∀ x, x ∈ cand → s.before x e = false := by
  induction cand generalizing e with
  | nil => nomatch h
  | cons x xs ih =>
    rw [State.first] at h
    split at h
    · next hn =>
      obtain rfl := Option.some.inj h
      have hxs : xs = [] := by
        cases xs with
        | nil => rfl
        | cons y ys =>
          rw [State.first] at hn
          split at hn <;> nomatch hn
      subst hxs
      refine ⟨by simp, fun y hy => ?_⟩
      obtain rfl : y = x := by simpa using hy
      exact (s.before_eq_false_iff y y).mpr le_rfl
    · next y hy =>
      obtain ⟨hmem, hmin⟩ := ih hy
      simp only [State.before_eq_false_iff] at hmin ⊢
      split at h
      · next hlt =>
        obtain rfl := Option.some.inj h
        refine ⟨List.mem_cons_of_mem _ hmem, fun z hz => ?_⟩
        rcases List.mem_cons.mp hz with rfl | hz
        · exact le_of_lt ((s.before_iff ..).mp hlt)
        · exact hmin z hz
      · next hle =>
        obtain rfl := Option.some.inj h
        refine ⟨List.mem_cons_self, fun z hz => ?_⟩
        rcases List.mem_cons.mp hz with rfl | hz
        · exact le_rfl
        · exact ((s.before_eq_false_iff ..).mp (by simpa using hle)).trans (hmin z hz)

/-- The members of a group are candidates: its leader, or threads that may join it. -/
theorem State.mem_pick {s : State} {cand : List (Nat × Thread)} {e : Nat × Thread} (h : s.first cand = some e) {u : Nat}
    (hu : u ∈ s.pick cand) : ∃ x, x ∈ cand ∧ x.1 = u ∧ (x.1 = e.1 ∨ s.joins e x = true) := by
  simp only [State.pick, h, List.mem_filterMap] at hu
  obtain ⟨k, -, hk⟩ := hu
  split at hk
  · obtain rfl := Option.some.inj hk
    exact ⟨e, (State.first_spec h).1, rfl, .inl rfl⟩
  · obtain ⟨x, hx, rfl⟩ := Option.map_eq_some_iff.mp hk
    obtain ⟨hx, hj⟩ := List.mem_filter.mp (State.first_spec hx).1
    exact ⟨x, hx, rfl, .inr (Bool.and_eq_true_iff.mp hj).2⟩

/-- The members of a group stand by ascending lane. -/
theorem State.lanes_pick (s : State) (cand : List (Nat × Thread)) : ((s.pick cand).map laneOf).Pairwise (· < ·) := by
  unfold State.pick
  split
  · exact .nil
  · next l _ =>
    have hlane : ∀ k u, (if k == laneOf l.1 then some l.1
        else (s.first (cand.filter fun x => laneOf x.1 == k && s.joins l x)).map (·.1)) = some u → laneOf u = k := fun k u hu => by
      split at hu
      · next hk =>
        obtain rfl := Option.some.inj hu
        exact (beq_iff_eq.mp hk).symm
      · obtain ⟨x, hx, rfl⟩ := Option.map_eq_some_iff.mp hu
        obtain ⟨-, hj⟩ := List.mem_filter.mp (State.first_spec hx).1
        exact beq_iff_eq.mp (Bool.and_eq_true_iff.mp hj).1
    rw [List.pairwise_map]
    refine List.Pairwise.filterMap _ (fun a a' haa b hb b' hb' => ?_) List.pairwise_lt_range
    rw [hlane a b hb, hlane a' b' hb']
    exact haa

/-! ## The formation of a group (R156, R157) -/

/-- A slot that holds a group forms none. -/
theorem State.formGroup_held {s : State} {core k : Nat} (h : ((s.core core).groups.find k).isSome = true) : s.formGroup core k = s := by
  rw [State.formGroup, if_pos (by simp [h])]

/-- Steps that change nothing. -/
theorem foldl_unchanged {α β : Type} {f : α → β → α} {a : α} {l : List β} (h : ∀ b, b ∈ l → f a b = a) : l.foldl f a = a := by
  induction l with
  | nil => rfl
  | cons b l ih => rw [List.foldl_cons, h b (by simp), ih fun b hb => h b (by simp [hb])]

/-- R156: where the slots below hold groups, an event of a slot forms that slot's group. -/
theorem issueGroupFormation_forms {s : State} {core slot : Nat} (hlt : slot < 5)
    (h : ∀ k, k < slot → ((s.core core).groups.find k).isSome = true) :
    exec (.issueGroupFormation core slot) s = .next (s.formGroup core slot) := by
  have hlow : (List.range slot).foldl (fun s k => s.formGroup core k) s = s :=
    foldl_unchanged fun k hk => State.formGroup_held (h k (List.mem_range.mp hk))
  show execIssueGroupFormation core slot s = _
  rw [execIssueGroupFormation, if_neg (by omega), List.range_succ, List.foldl_append, hlow]
  rfl

theorem enterClause_started {s : State} {c : Cur} {y : Thread} (hc : s.cur = some c) (ht : s.threads.find c.t = some y) (hcl : y.clause ≠ none)
    (hres : y.res = .start) : enterClause s = .ok true s := by
  obtain ⟨k, hk⟩ := Option.ne_none_iff_exists'.mp hcl
  rw [enterClause, bind_ok (thread_run hc ht), hres, hk]
  rfl

/-- A thread that stands in a clause joins its group without a fetch. -/
theorem State.joinClause_started {s : State} {core slot t : Nat} {y : Thread} (ht : s.threads.find t = some y) (hcl : y.clause ≠ none)
    (hres : y.res = .start) : s.joinClause core slot t = { s with cur := none } := by
  have he := enterClause_started (s := { s with cur := some ⟨core, slot, t⟩ }) rfl ht hcl hres
  simp only [State.joinClause, State.fetchFor, he]

/-- Threads that all stand in clauses join. -/
theorem State.foldl_joinClause (core slot : Nat) (ts : List Nat) (s : State)
    (h : ∀ u, u ∈ ts → ∃ y, s.threads.find u = some y ∧ y.clause ≠ none ∧ y.res = .start) :
    ∃ c, ts.foldl (fun s t => s.joinClause core slot t) s = { s with cur := c } := by
  induction ts generalizing s with
  | nil => exact ⟨s.cur, rfl⟩
  | cons t ts ih =>
    obtain ⟨y, ht, hcl, hres⟩ := h t (by simp)
    rw [List.foldl_cons, State.joinClause_started ht hcl hres]
    exact ih _ fun u hu => h u (List.mem_cons_of_mem _ hu)

/-- Where no ready thread resumes past an instruction, none moves before a group is formed. -/
theorem State.passAll_none {s : State} {core slot : Nat} (h : ∀ e, e ∈ s.readyFor core slot → e.2.res ≠ .past) : s.passAll core slot = s :=
  foldl_unchanged fun e he => if_neg (by simpa using h e he)

/-- A thread as the formation of a group leaves it: chosen, ready and left out, or neither. -/
def Thread.grouped (slot : Nat) (chosen : List Nat) (ready : List (Nat × Thread)) (t : Nat) (th : Thread) : Thread :=
  if chosen.contains t then { th with age := 0, wait := none, group := some slot }
  else if ready.any fun e => e.1 == t then { th with age := th.age + 1 }
  else th

/-- A thread of the core, as the lifting of a slot's bars leaves it. -/
def Thread.lifted (core slot t : Nat) (th : Thread) : Thread := if coreOf t == core then { th with bars := setDel slot th.bars } else th

/-- The threads that a slot chooses. -/
def State.chosenFor (s : State) (core slot : Nat) : List Nat := s.pick ((s.readyFor core slot).filter fun e => !e.2.bars.contains slot)

/-- The threads as the formation of a slot's group leaves them. -/
def State.withGrouped (s : State) (core slot : Nat) : State :=
  { s with threads := s.threads.mapv (Thread.grouped slot (s.chosenFor core slot) (s.readyFor core slot)) }.liftBars core slot

/-- The group that a slot forms, of the kernel of thread `m`. -/
def State.newGroup (s : State) (core slot m : Nat) : Group :=
  { kern := (s.withGrouped core slot).kernOf m, no := s.issueNo, members := s.chosenFor core slot, todo := [], hit := [] }

/-- The state in which a slot has put the threads it chooses into that group. -/
def State.withGroup (s : State) (core slot m : Nat) : State :=
  { (s.withGrouped core slot).updCore core fun c => { c with groups := c.groups.put slot (s.newGroup core slot m) } with
    issueNo := s.issueNo + 1 }

/-- A thread where a slot has formed a group. -/
theorem State.find_withGroup {s : State} {u : Nat} {y : Thread} (h : s.threads.find u = some y) (core slot m : Nat) :
    (s.withGroup core slot m).threads.find u =
      some ((Thread.grouped slot (s.chosenFor core slot) (s.readyFor core slot) u y).lifted core slot u) := by
  show ((s.threads.mapv (Thread.grouped slot (s.chosenFor core slot) (s.readyFor core slot))).mapv (Thread.lifted core slot)).find u = _
  rw [AMap.find_mapv, AMap.find_mapv, h]
  rfl

/-- R156, R157: a slot that holds no group forms one of the threads it chooses, when all of them stand in clauses. -/
theorem State.formGroup_chosen {s : State} {core slot : Nat} (hlt : slot < 5) (hidle : (s.core core).groups.find slot = none)
    (hpast : ∀ e, e ∈ s.readyFor core slot → e.2.res ≠ .past)
    (hcl : ∀ u, u ∈ s.chosenFor core slot → ∃ y, s.threads.find u = some y ∧ y.clause ≠ none ∧ y.res = .start)
    (hne : s.chosenFor core slot ≠ []) : ∃ m c, s.formGroup core slot = { s.withGroup core slot m with cur := c } := by
  rw [State.formGroup, if_neg (by simp [hlt, hidle])]
  dsimp only
  rw [State.passAll_none hpast]
  split
  · next h => exact absurd h hne
  · next m ms h =>
    obtain ⟨c, hc⟩ := State.foldl_joinClause core slot (s.chosenFor core slot) (s.withGroup core slot m) fun u hu => by
      obtain ⟨y, hy, hy', hres⟩ := hcl u hu
      refine ⟨_, State.find_withGroup hy core slot m, ?_⟩
      unfold Thread.lifted Thread.grouped
      split_ifs <;> exact ⟨hy', hres⟩
    exact ⟨m, c, hc⟩

/-! ## Loads, sleep and time (R18, R84, R155, R166) -/

/-- Words written to registers of a thread leave contexts, and of each gang all but its registers. -/
theorem State.writeRegs_shape (s : State) (t : Nat) (ws : List (Nat × TWord)) : ∃ gs, s.writeRegs t ws = { s with gangs := gs } ∧
    ∀ i a, s.gangs.find i = some a → ∃ r, gs.find i = some { a with regs := r } := by
  induction ws generalizing s with
  | nil => exact ⟨s.gangs, rfl, fun i a ha => ⟨a.regs, ha⟩⟩
  | cons w ws ih =>
    obtain ⟨gs, hgs⟩ := s.writeReg_shape t w.1 w.2
    obtain ⟨gs', hs, hf⟩ := ih (s.writeReg t w.1 w.2)
    refine ⟨gs', hs.trans (by rw [hgs]), fun i a ha => ?_⟩
    obtain ⟨r, hr⟩ := State.writeReg_gang s t w.1 i w.2 ha
    obtain ⟨r', hr'⟩ := hf i _ hr
    exact ⟨r', hr'⟩

section
variable {s : State} {t : Nat} {th : Thread} {g : Gang} (ht : s.threads.find t = some th) (hg : s.gangs.find (gidOf t) = some g)
include ht hg

/-- R155: a delivered load leaves its thread's loads, its words in its registers. -/
theorem loadDelivery_delivers {n : Nat} {l : PLoad} (hl : th.loads[n]? = some l) (hp : (s.ctx g.ctx).pend = none) :
    exec (.loadDelivery t n) s = .next ((s.updThread t fun y => { y with loads := y.loads.eraseIdx n }).writeRegs t l.dsts) := by
  obtain ⟨gs, hs, hf⟩ := (s.updThread t fun y => { y with loads := y.loads.eraseIdx n }).writeRegs_shape t l.dsts
  obtain ⟨r, hr⟩ := hf (gidOf t) g hg
  show execLoadDelivery t n s = _
  simp only [execLoadDelivery, ht, hl, hs, hr]
  rw [State.finishStop_of_no_pend]
  exact hp

/-- R166: a sleeper whose tick has come waits no more. -/
theorem sleepWake_wakes {k : Nat} (hw : th.wait = some (.sleep k)) (hk : k ≤ s.tickOf g.ctx) :
    exec (.sleepWake t) s = .next (s.updThread t fun y => { y with wait := none }) := by
  show execSleepWake t s = _
  have hover : s.waitOver t th (.sleep k) = true := by simp [State.waitOver, hg, hk]
  simp only [execSleepWake, ht, hw, hover, if_true]

end

/-- Counting a boundary leaves the state of a context and its slice, and a slice's count no lower. -/
theorem Ctx.settleTick_slice (x : Ctx) : x.settleTick.st = x.st ∧ x.settleTick.pend = x.pend ∧ x.settleTick.slice = x.slice ∧
    x.sliceCnt ≤ x.settleTick.sliceCnt := by
  unfold Ctx.settleTick
  split
  · exact ⟨rfl, rfl, rfl, Nat.le_succ _⟩
  · exact ⟨rfl, rfl, rfl, le_rfl⟩

section
variable {s : State} {c : Nat} (hst : (s.ctx c).st = .resident) (hp : (s.ctx c).pend = none)
include hst hp

/-- R18, R404: a boundary that is due counts, and the checks that are due come first. -/
theorem tick_counts (hph : 100 ≤ (s.ctx c).phase) : exec (.tick c) s =
    .next { s.setCtx c { s.ctx c with phase := 0, ticks := ((s.ctx c).ticks + 1) % 2 ^ 64, sliceCnt := (s.ctx c).sliceCnt + 1 } with
      agenda := (s.kernels.flatMap fun e => if e.2.ctx = c then e.2.fires e.1 (s.ctx c) (((s.ctx c).ticks + 1) % 2 ^ 64) else []) ++
        s.agenda } := by
  have hdue : (s.ctx c).tickDue = true := by simp [Ctx.tickDue, Ctx.runs, hst, hp, hph]
  show execTick c s = _
  simp only [execTick, hdue, Ctx.settleTick, Ctx.tickNow, if_true, beq_iff_eq]

/-- R84: a slice that has ended. -/
theorem sliceEnd_ends (hne : (s.ctx c).slice ≠ 0) (hle : (s.ctx c).slice ≤ (s.ctx c).sliceCnt) : exec (.sliceEnd c) s =
    .next (if s.contested c then s.haltCtx c .descheduled else s.setCtx c { (s.ctx c).settleTick with sliceCnt := 0 }) := by
  obtain ⟨hst', hp', hsl, hcnt⟩ := (s.ctx c).settleTick_slice
  show execSliceEnd c s = _
  rw [execSliceEnd]
  dsimp only
  rw [if_neg (by simp [Ctx.runs, hst', hp', hsl, hst, hp, hne]; omega)]
  split <;> rfl

end

/-! ## Expiry (R233) -/

/-- A row of an allocation past its life at a tick. -/
def Alloc.PastLife (a : Alloc) (k tick : Nat) : Prop := a.cls ≠ .refreshed ∧ k < 32 * a.pages ∧ (a.row k).stamp + a.life < tick

theorem Alloc.markExpired_pastLife {a : Alloc} {k tick : Nat} (h : a.PastLife k tick) :
    a.markExpired k tick = a.setRow k { a.row k with expMark := true } := by
  obtain ⟨hcls, hk, hlife⟩ := h
  rw [Alloc.markExpired]
  exact if_pos (by simp [hcls, hk]; omega)

/-- A gang's change is what it makes of that gang. -/
theorem State.updGang_congr {s : State} {i : Nat} {a : Gang} (h : s.gangs.find i = some a) {f f' : Gang → Gang} (e : f a = f' a) :
    s.updGang i f = s.updGang i f' := by
  rw [State.updGang, State.updGang, AMap.upd_congr h e]

section
variable {s : State} {gid n : Nat} {g : Gang} (hg : s.gangs.find gid = some g)
include hg

/-- Where the rows of a gang are counted: registers, then scratch, then stack. -/
theorem rowExpiry_place (n : Nat) : exec (.rowExpiry gid n) s = .next (
    if n < 32 * g.regs.pages then s.updGang gid fun y => { y with regs := y.regs.markExpired n (s.tickOf g.ctx) }
    else if n < 32 * g.regs.pages + 32 * g.scratch.pages then
      s.updGang gid fun y => { y with scratch := y.scratch.markExpired (n - 32 * g.regs.pages) (s.tickOf g.ctx) }
    else s.updGang gid fun y =>
      { y with stack := y.stack.markExpired (n - 32 * g.regs.pages - 32 * g.scratch.pages) (s.tickOf g.ctx) }) := by
  show execRowExpiry gid n s = _
  simp only [execRowExpiry, hg]
  split_ifs <;> rfl

theorem rowExpiry_regs (h : g.regs.PastLife n (s.tickOf g.ctx)) : exec (.rowExpiry gid n) s =
    .next (s.updGang gid fun y => { y with regs := g.regs.setRow n { g.regs.row n with expMark := true } }) := by
  rw [rowExpiry_place hg, if_pos h.2.1, State.updGang_congr hg]
  rw [Alloc.markExpired_pastLife h]

theorem rowExpiry_scratch (h : g.scratch.PastLife n (s.tickOf g.ctx)) : exec (.rowExpiry gid (32 * g.regs.pages + n)) s =
    .next (s.updGang gid fun y => { y with scratch := g.scratch.setRow n { g.scratch.row n with expMark := true } }) := by
  obtain ⟨-, hn, -⟩ := id h
  rw [rowExpiry_place hg, if_neg (by omega), if_pos (by omega), Nat.add_sub_cancel_left, State.updGang_congr hg]
  rw [Alloc.markExpired_pastLife h]

theorem rowExpiry_stack (h : g.stack.PastLife n (s.tickOf g.ctx)) :
    exec (.rowExpiry gid (32 * g.regs.pages + 32 * g.scratch.pages + n)) s =
      .next (s.updGang gid fun y => { y with stack := g.stack.setRow n { g.stack.row n with expMark := true } }) := by
  have hk : 32 * g.regs.pages + 32 * g.scratch.pages + n - 32 * g.regs.pages - 32 * g.scratch.pages = n := by omega
  rw [rowExpiry_place hg, if_neg (by omega), if_neg (by omega), hk, State.updGang_congr hg]
  rw [Alloc.markExpired_pastLife h]

end

/-! ## The obligation -/

/-- Lifting a slot's bars changes a thread's bars. -/
theorem Thread.lifted_eq (core slot u : Nat) (y : Thread) :
    y.lifted core slot u = { y with bars := if coreOf u = core then setDel slot y.bars else y.bars } := by
  by_cases hc : coreOf u = core
  · rw [Thread.lifted, if_pos (by simpa using hc), if_pos hc]
  · rw [Thread.lifted, if_neg (by simpa using hc), if_neg hc]

/-- What the formation of a group leaves of each thread (R156, R157): a member, or one left out. -/
theorem Thread.grouped_lifted (core slot : Nat) (chosen : List Nat) (ready : List (Nat × Thread)) (u : Nat) (y : Thread) :
    let y' := (Thread.grouped slot chosen ready u y).lifted core slot u
    y'.pc = y.pc ∧ y'.bars = (if coreOf u = core then setDel slot y.bars else y.bars) ∧
      (u ∈ chosen → y'.age = 0 ∧ y'.group = some slot ∧ y'.wait = none) ∧
      (u ∉ chosen → y'.group = y.group ∧ y'.wait = y.wait ∧ y'.age = if ready.any fun e => e.1 == u then y.age + 1 else y.age) := by
  intro y'
  have hy' : y' = _ := Thread.lifted_eq core slot u (Thread.grouped slot chosen ready u y)
  rw [hy']
  by_cases hu : u ∈ chosen
  · rw [Thread.grouped, if_pos (by simpa using hu)]
    exact ⟨rfl, rfl, fun _ => ⟨rfl, rfl, rfl⟩, fun h => absurd hu h⟩
  · rw [Thread.grouped, if_neg (by simpa using hu)]
    cases ready.any fun e => e.1 == u
    · exact ⟨rfl, rfl, fun h => absurd h hu, fun _ => ⟨rfl, rfl, rfl⟩⟩
    · exact ⟨rfl, rfl, fun h => absurd h hu, fun _ => ⟨rfl, rfl, rfl⟩⟩

/-- Settles O41: the order of R157 is that of ranks; a group's formation moves its members and ages the rest; the timed events, one by one. -/
theorem scheduling : Obligations.Scheduling := by
  unfold Obligations.Scheduling
  rintro s core slot t n c gid th g l
  refine ⟨fun cand e he => ?order, issueGroupFormation_forms, fun hlt hidle => ?group, fun ht hg => ⟨loadDelivery_delivers ht hg, fun k =>
    sleepWake_wakes ht hg⟩, fun hst hp => ⟨tick_counts hst hp, fun hne hle => ?slice⟩, fun hg => ⟨rowExpiry_regs hg, rowExpiry_scratch hg,
    rowExpiry_stack hg⟩⟩
  case order =>
    obtain ⟨hmem, hmin⟩ := State.first_spec he
    exact ⟨hmem, hmin, fun u hu => State.mem_pick he hu, s.lanes_pick cand⟩
  case group =>
    rintro ready chosen S hpast hcl hne
    obtain ⟨m, cur, hS⟩ := State.formGroup_chosen hlt hidle hpast hcl hne
    have hS : S = { s.withGroup core slot m with cur := cur } := hS
    refine ⟨s.newGroup core slot m, ?_, rfl, rfl, ?_, ?_, fun u y hy => ?_⟩
    · rw [hS]
      show ((State.setCore _ core _).core core).groups.find slot = _
      rw [State.core_setCore, if_pos rfl]
      simp
    · rw [hS]
      rfl
    · rw [hS]
      rfl
    · rw [hS]
      exact ⟨_, State.find_withGroup hy core slot m, Thread.grouped_lifted core slot chosen ready u y⟩
  case slice =>
    rw [sliceEnd_ends hst hp hne hle]
    exact ⟨fun h => by rw [if_pos h], fun h => by rw [if_neg (by simp [h])]⟩

end Sys2Proof.Machine

end

section
/-! LAWS. Integer arithmetic, moves and predicates (09_integer R186 to R196): bodies that read their operands and then write one result,
and the obligations. -/

namespace Sys2Proof.Machine

open Sys2Proof

/-! ## Bodies that read operands -/

/-- A body that reads operands, noting lapse `z` and mismatch `m`, and then goes on as `rest`. -/
def State.Comes (s : State) (t : Nat) (body rest : M Flow) (z m : Bool) : Prop :=
  ∀ B z₀ m₀, s.Agrees t B z₀ m₀ → ∃ B', body (s.reading t B z₀ m₀) = rest (s.reading t B' (z₀ || z) (m₀ || m))

theorem State.Comes.refl {s : State} {t : Nat} {rest : M Flow} : s.Comes t rest rest false false := fun B z₀ m₀ _ =>
  ⟨B, by rw [Bool.or_false, Bool.or_false]⟩

theorem State.Comes.read {α : Type} {s : State} {t : Nat} {op : M α} {a : α} {f : α → M Flow} {rest : M Flow} {z m z' m' : Bool}
    (h : s.Reads t op a z m) (h' : s.Comes t (f a) rest z' m') : s.Comes t (op >>= f) rest (z || z') (m || m') := fun B z₀ m₀ hb => by
  obtain ⟨B₁, e₁, hb₁⟩ := h B z₀ m₀ hb
  obtain ⟨B₂, e₂⟩ := h' B₁ _ _ hb₁
  exact ⟨B₂, by rw [bind_ok e₁, e₂, Bool.or_assoc, Bool.or_assoc]⟩

/-- The last read that notes anything. -/
theorem State.Comes.last {α : Type} {s : State} {t : Nat} {op : M α} {a : α} {f : α → M Flow} {rest : M Flow} {z m : Bool}
    (h : s.Reads t op a z m) (h' : s.Comes t (f a) rest false false) : s.Comes t (op >>= f) rest z m := by
  simpa using State.Comes.read h h'

/-- What two register reads give. -/
theorem State.reads_two {s : State} {t i j : Nat} {ts us : TagSet} {x y : TWord} {z m : Bool}
    (h : s.reads t [(i, ts), (j, us)] = some ([x, y], z, m)) : ∃ z₁ m₁ z₂ m₂, s.src t i ts = some (x, z₁, m₁) ∧
      s.src t j us = some (y, z₂, m₂) ∧ z = (z₁ || z₂) ∧ m = (m₁ || m₂) := by
  obtain ⟨v, z₁, m₁, vs, z₂, m₂, hx, hr, hv, hz, hm⟩ := State.reads_cons h
  obtain ⟨rfl, rfl⟩ : x = v ∧ [y] = vs := by simpa using hv
  exact ⟨z₁, m₁, z₂, m₂, hx, State.reads_one hr, hz, hm⟩

/-- What three register reads give. -/
theorem State.reads_three {s : State} {t i j k : Nat} {ts us vs : TagSet} {x y w : TWord} {z m : Bool}
    (h : s.reads t [(i, ts), (j, us), (k, vs)] = some ([x, y, w], z, m)) : ∃ z₁ m₁ z₂ m₂ z₃ m₃, s.src t i ts = some (x, z₁, m₁) ∧
      s.src t j us = some (y, z₂, m₂) ∧ s.src t k vs = some (w, z₃, m₃) ∧ z = (z₁ || (z₂ || z₃)) ∧ m = (m₁ || (m₂ || m₃)) := by
  obtain ⟨v, z₁, m₁, rest, z', m', hx, hr, hv, hz, hm⟩ := State.reads_cons h
  obtain ⟨rfl, rfl⟩ : x = v ∧ [y, w] = rest := by simpa using hv
  obtain ⟨z₂, m₂, z₃, m₃, hy, hw, rfl, rfl⟩ := State.reads_two hr
  exact ⟨z₁, m₁, z₂, m₂, z₃, m₃, hx, hy, hw, hz, hm⟩

/-- R190: a word read signed or unsigned. -/
theorem asInt_word (sg : Bool) (w : Word) : asInt sg w.toNat = intOf sg w := by
  cases sg with
  | true => exact asInt_signed w
  | false => simp [asInt, intOf, Nat.mod_eq_of_lt w.isLt]

/-! ## Operands and completion of an instruction that runs -/

section
variable {s : State} {t : Nat} {fs : List Field} {gd : Guard} (h : s.Runs t fs [] gd)
include h

theorem State.Runs.reg_read {i : Nat} {ts : TagSet} {x : TWord} {z m : Bool} (hx : s.src t i ts = some (x, z, m)) :
    s.Reads t (Machine.readReg i ts) x z m := by
  obtain ⟨c, th, hc, rfl, ht, -⟩ := h.start
  exact reads_readReg hc ht hx

theorem State.Runs.nat_read {i : Nat} {x : TWord} {z m : Bool} (hx : s.src t i .int = some (x, z, m)) :
    s.Reads t (natSrc i) x.bits.toNat z m := (h.reg_read hx).map fun w => w.bits.toNat

theorem State.Runs.int_read (sg : Bool) {i : Nat} {x : TWord} {z m : Bool} (hx : s.src t i .int = some (x, z, m)) :
    s.Reads t (intSrc sg i) (intOf sg x.bits) z m := by
  rw [← asInt_word]
  exact (h.nat_read hx).map (asInt sg)

theorem State.Runs.pair_read {i : Nat} {lo hi : TagSet} {A : DWord} {z m : Bool} (hA : s.srcPair t i lo hi = some (A, z, m)) :
    s.Reads t (readPair i lo hi) A.toNat z m := by
  obtain ⟨c, th, hc, rfl, ht, -⟩ := h.start
  exact reads_readPair hc ht hA

/-- A predicate source notes nothing (R183). -/
theorem State.Runs.pred_read {th : Thread} (ht : s.threads.find t = some th) (q : PredSrc) :
    s.Reads t (readPred q) (predBit th.preds q.p != q.neg) false false := by
  obtain ⟨c, -, hc, rfl, -⟩ := h.start
  intro B z₀ m₀ hb
  refine ⟨B, ?_, by simpa using hb⟩
  rw [Bool.or_false, Bool.or_false]
  rw [readPred, bind_ok (thread_reading hc ht B z₀ m₀)]
  rfl

variable {ds : List Dest} {body : M Flow} {z m : Bool}

/-- A body that completes after its reads. -/
theorem code_comes {rest : M Flow} {S : State} (hb : s.Comes t body rest z m)
    (hrest : ∀ B, ∃ T, rest (s.reading t B z m) = .ok .seq T ∧ T.done t = S) : code fs gd ds body s = .next S := by
  obtain ⟨B, e⟩ := hb [] false false (s.agrees_nil t false false)
  obtain ⟨T, hT, rfl⟩ := hrest B
  rw [h.unread, Bool.false_or, Bool.false_or] at e
  exact code_next (f := .seq) h (e.trans hT)

/-- A body that writes a word with a tag. -/
theorem code_writes_reg {d : Nat} {w : TWord} (hb : s.Comes t body (writeReg d w.bits.toNat w.tag >>= fun _ => pure .seq) z m) :
    code fs gd ds body s = .next (s.result t d w z m 0) := by
  obtain ⟨c, th, hc, rfl, ht, -⟩ := h.start
  refine code_comes h hb fun B => ⟨(s.reading c.t B z m).writeReg c.t d w, ?_, State.done_reading_writeReg ht B z m d w⟩
  simp only [writeReg, bind_run, curT_run (s := s.reading c.t B z m) hc, modify_run, pure_run, BitVec.ofNat_toNat, BitVec.setWidth_eq]

/-- A body that writes the low 32 bits of an integer. -/
theorem code_writes_word {d : Nat} {v : Int} {tag : Tag} {w : Word} (hb : s.Comes t body (putWord d v tag) z m)
    (hw : BitVec.ofInt 32 v = w) : code fs gd ds body s = .next (s.result t d ⟨w, tag⟩ z m 0) := by
  refine code_writes_reg h ?_
  have hv : trunc v 32 = w.toNat := by rw [← hw, BitVec.toNat_ofInt]; rfl
  rwa [putWord, hv] at hb

/-- A body that writes the low 64 bits of an integer to a pair. -/
theorem code_writes_pair {d : Nat} {v : Int} {r : DWord} (hb : s.Comes t body (putL64 d v) z m) (hr : BitVec.ofInt 64 v = r) :
    code fs gd ds body s = .next (s.resultL64 t d r z m 0) := by
  obtain ⟨c, th, hc, rfl, ht, -⟩ := h.start
  have hv : trunc v 64 = r.toNat := by rw [← hr, BitVec.toNat_ofInt]; rfl
  have hput : putL64 d v = putL64 d (r.toNat : Int) := by
    rw [putL64, putL64, hv]
    congr 2
    simp only [trunc]
    omega
  refine code_comes h hb fun B => ⟨(s.reading c.t B z m).putPair c.t d r, ?_, ?_⟩
  · rw [hput, putL64_run (s := s.reading c.t B z m) hc, BitVec.ofNat_toNat, BitVec.setWidth_eq]
  · rw [State.resultL64, State.resultPair, State.putPair]
    split
    · rw [State.done, State.commit_reading ht, State.done]
    · simp only [State.writeReg_reading, State.writeReg_noted, State.done]
      rw [State.commit_reading (by simpa using ht)]

/-- A body that changes predicates. -/
theorem code_writes_preds {g : Nat → Nat}
    (hb : s.Comes t body (modThread (fun th => { th with preds := g th.preds }) >>= fun _ => pure .seq) z m) :
    code fs gd ds body s = .next (s.resultPreds t g z m 0) := by
  obtain ⟨c, th, hc, rfl, ht, -⟩ := h.start
  refine code_comes h hb fun B => ⟨_, bind_ok (modThread_run (s := s.reading c.t B z m) hc _), ?_⟩
  rw [State.done, State.commit_reading_change ht B z m fun _ _ _ _ => rfl]
  rfl

end

/-- A predicate written; p0 discards it (R183). -/
theorem writePred_eq (p : Nat) (b : Bool) : writePred p b = modThread fun th => { th with preds := predWrite p b th.preds } := by
  rw [writePred]
  congr 1
  funext th
  by_cases hp : p = 0 <;> simp [predWrite, hp]

/-! ## Fitting a result (R190) -/

theorem ofInt_intOf (sg : Bool) (x : Word) : BitVec.ofInt 32 (intOf sg x) = x := by
  cases sg with
  | true => exact BitVec.ofInt_toInt
  | false => simp [intOf]

theorem ofInt_fit (sg sat : Bool) (r : Int) : BitVec.ofInt 32 (fit sg sat r) = fitted sg sat r := by
  rw [fit, fitted]
  congr 1
  split
  · split
    · omega
    · omega
  · rfl

/-- The lesser and the greater of two words are their own fittings. -/
theorem fitted_min (sg : Bool) (x y : Word) :
    fitted sg false (min (intOf sg x) (intOf sg y)) = if intOf sg x ≤ intOf sg y then x else y := by
  rw [fitted, if_neg Bool.false_ne_true, min_def]
  split
  · exact ofInt_intOf sg x
  · exact ofInt_intOf sg y

theorem fitted_max (sg : Bool) (x y : Word) :
    fitted sg false (max (intOf sg x) (intOf sg y)) = if intOf sg x ≤ intOf sg y then y else x := by
  rw [fitted, if_neg Bool.false_ne_true, max_def]
  split
  · exact ofInt_intOf sg y
  · exact ofInt_intOf sg x

/-- R194: IABS saturates in its signed form only, where its result is never negative. -/
theorem ofInt_abs (sg : Bool) (r : Int) :
    BitVec.ofInt 32 (if sg then min (max r (-r)) (2 ^ 31 - 1) else max r (-r)) = fitted sg sg (max r (-r)) := by
  rw [fitted]
  congr 1
  cases sg with
  | true => simp only [if_true]; omega
  | false => rfl

/-! ## Integer arithmetic (R190, R194) -/

/-- Two-source arithmetic writes its exact result, fitted. -/
theorem arith_writes {s : State} {t d a b : Nat} {fs : List Field} {gd : Guard} {ds : List Dest} {x y : TWord} {z m : Bool}
    (h : s.Runs t fs [] gd) (hr : s.reads t [(a, .int), (b, .int)] = some ([x, y], z, m)) (sg sat : Bool) (f : Int → Int → Int) :
    code fs gd ds (arith d a b sg sat f) s =
      .next (s.result t d ⟨fitted sg sat (f (intOf sg x.bits) (intOf sg y.bits)), sgTag sg⟩ z m 0) := by
  obtain ⟨z₁, m₁, z₂, m₂, hx, hy, rfl, rfl⟩ := State.reads_two hr
  exact code_writes_word h (.read (h.int_read sg hx) (.last (h.int_read sg hy) .refl)) (ofInt_fit sg sat _)

/-- Settles O1: two-source arithmetic by `arith_writes`, the others by their reads and `ofInt_fit`. -/
theorem integerArithmetic : Obligations.IntegerArithmetic := by
  unfold Obligations.IntegerArithmetic
  intro s t gd d a b c k sg sat ka imm x y w z m
  refine ⟨fun h hr => ?two, fun h hr => ?one, fun h hr => ?three⟩
  case two =>
    refine ⟨arith_writes h hr sg sat (· + ·), arith_writes h hr sg sat (· - ·), arith_writes h hr sg false (· * ·),
      arith_writes h hr sg false (fun x y => x * y / 2 ^ 32), ?_, ?_⟩
    · rw [← fitted_min]
      exact arith_writes h hr sg false min
    · rw [← fitted_max]
      exact arith_writes h hr sg false max
  case one =>
    have hx := State.reads_one hr
    exact ⟨code_writes_word h (.last (h.int_read sg hx) .refl) (ofInt_fit sg sat _),
      code_writes_word h (.last (h.int_read true hx) .refl) (ofInt_abs sg _)⟩
  case three =>
    obtain ⟨z₁, m₁, z₂, m₂, z₃, m₃, hx, hy, hw, rfl, rfl⟩ := State.reads_three hr
    exact code_writes_word h (.read (h.int_read sg hx) (.read (h.int_read sg hy) (.last (h.int_read sg hw) .refl))) (ofInt_fit sg sat _)

/-! ## 64-bit results (R191 to R193) -/

/-- Addition and subtraction of pairs wrap (R192). -/
theorem ofInt_sum (sub : Bool) (A B : DWord) :
    BitVec.ofInt 64 (if sub then (A.toNat : Int) - B.toNat else A.toNat + B.toNat) = if sub then A - B else A + B := by
  cases sub with
  | true => simp [sub_eq_add_neg, BitVec.ofInt_add, BitVec.ofInt_neg]
  | false => simp [BitVec.ofInt_add]

/-- Settles O2: each reads its words and its pairs, and writes one pair. -/
theorem wideArithmetic : Obligations.WideArithmetic := by
  unfold Obligations.WideArithmetic
  intro s t gd d a b c k sh sg sub x y A B z m z' m'
  refine ⟨fun h hr hA => ?imadw, fun h hA hB => ?iadd64, fun h hA hr => ?lea⟩
  case imadw =>
    obtain ⟨z₁, m₁, z₂, m₂, hx, hy, rfl, rfl⟩ := State.reads_two hr
    rw [Bool.or_assoc, Bool.or_assoc]
    exact code_writes_pair h (.read (h.int_read sg hx) (.read (h.int_read sg hy) (.last (h.pair_read hA) .refl))) rfl
  case iadd64 => exact code_writes_pair h (.read (h.pair_read hA) (.last (h.pair_read hB) .refl)) (ofInt_sum sub A B)
  case lea => exact code_writes_pair h (.read (h.pair_read hA) (.last (h.int_read true (State.reads_one hr)) .refl)) rfl

/-! ## Moves and predicates (R186 to R189, R195, R196) -/

/-- The comparisons of R195 decide the relations that they name. -/
theorem cmpInt_eq_decide (cmp : Cmp) (X Y : Int) : cmpInt cmp X Y = match cmp with
    | .eq => decide (X = Y) | .ne => decide (X ≠ Y) | .lt => decide (X < Y) | .le => decide (X ≤ Y) | .gt => decide (X > Y) | .ge => decide (X ≥ Y) := by
  cases cmp with
  | eq => exact beq_eq_decide X Y
  | ne => simp [cmpInt, bne, beq_eq_decide]
  | lt | le | gt | ge => rfl

section
variable {s : State} {t d : Nat} {gd : Guard} {th : Thread} (ht : s.threads.find t = some th)
include ht

/-- R187: MOVI writes its immediate. -/
theorem movi_writes (h : s.Runs t [.r d] [] gd) (tag : Tag) (imm : Nat) :
    exec (.movi gd d tag imm) s = .next (s.result t d ⟨BitVec.ofNat 32 imm, tag⟩ false false 0) := code_putWord h rfl ht rfl

/-- R189: P2V writes the predicates, p0 as true. -/
theorem p2v_writes (h : s.Runs t [.r d] [] gd) (k : Nat) :
    exec (.p2v gd d k) s = .next (s.result t d ⟨BitVec.ofNat 32 (th.preds % 256 / 2 * 2 + 1), .u32⟩ false false 0) := by
  obtain ⟨c, -, hc, rfl, -⟩ := h.start
  exact code_putWord h rfl ht (bind_ok (thread_run hc ht))

/-- R188: SEL reads both words, and writes the one that its predicate names. -/
theorem sel_writes {a b : Nat} {x y : TWord} {z m : Bool} (h : s.Runs t [.r d, .r a, .r b] [] gd)
    (hr : s.reads t [(a, .any), (b, .any)] = some ([x, y], z, m)) (q : PredSrc) (k : Nat) :
    exec (.sel gd d a b q k) s = .next (s.result t d (if predBit th.preds q.p != q.neg then x else y) z m 0) := by
  obtain ⟨z₁, m₁, z₂, m₂, hx, hy, rfl, rfl⟩ := State.reads_two hr
  exact code_writes_reg h (.read (h.reg_read hx) (.last (h.reg_read hy) (.last (h.pred_read ht q) .refl)))

/-- R195: ISETP writes the combination of its comparison and its predicate source. -/
theorem isetp_writes {a b : Nat} {x y : TWord} {z m : Bool} (h : s.Runs t [.r a, .r b] [] gd)
    (hr : s.reads t [(a, .int), (b, .int)] = some ([x, y], z, m)) (p k : Nat) (q : PredSrc) (cmp : Cmp) (sg : Bool) (comb : Comb) :
    exec (.isetp gd p a b q k cmp sg comb) s = .next (s.resultPreds t (predWrite p
      (combine comb (cmpInt cmp (intOf sg x.bits) (intOf sg y.bits)) (predBit th.preds q.p != q.neg))) z m 0) := by
  obtain ⟨z₁, m₁, z₂, m₂, hx, hy, rfl, rfl⟩ := State.reads_two hr
  refine code_writes_preds h (.read (h.int_read sg hx) (.last (h.int_read sg hy) (.last (h.pred_read ht q) ?_)))
  rw [writePred_eq]
  exact .refl

/-- R196: PBITF writes the bit of its table that three predicates name. -/
theorem pbitf_writes (h : s.Runs t [] [] gd) (p k fn : Nat) (q q1 q2 : PredSrc) : exec (.pbitf gd p q q1 q2 k fn) s =
    .next (s.resultPreds t (predWrite p (bit fn (b2n (predBit th.preds q.p != q.neg) + 2 * b2n (predBit th.preds q1.p != q1.neg) +
      4 * b2n (predBit th.preds q2.p != q2.neg)))) false false 0) := by
  refine code_writes_preds h (.last (h.pred_read ht q) (.last (h.pred_read ht q1) (.last (h.pred_read ht q2) ?_)))
  rw [writePred_eq]
  exact .refl

end

/-- Settles O4: each instruction by what it reads and the one result that it writes. -/
theorem movesAndPredicates : Obligations.MovesAndPredicates := by
  unfold Obligations.MovesAndPredicates
  intro s t gd d a b p k fn q q1 q2 cmp sg comb tag imm x y z m th ht
  refine ⟨fun h hr => ?mov, fun h _ => ⟨movi_writes ht h tag imm, p2v_writes ht h k⟩, fun h hr => sel_writes ht h hr q k, fun h hr => ?isetp,
    fun h => pbitf_writes ht h p k fn q q1 q2, fun h hr => ?v2p⟩
  case mov => exact code_writes_reg h (.last (h.reg_read (State.reads_one hr)) .refl)
  case isetp =>
    have hw := isetp_writes ht h hr p k q cmp sg comb
    rw [cmpInt_eq_decide] at hw
    exact hw
  case v2p => exact code_writes_preds h (.last (h.nat_read (State.reads_one hr)) .refl)

end Sys2Proof.Machine

end

section
/-! LAWS. Shifts, logic, bit counts and bit fields (09_integer R197 to R201): the words that the model's loops over bits and bytes give,
and the obligation. -/

namespace Sys2Proof.Machine

open Sys2Proof

/-! ## Shifts (R197) -/

theorem ofInt_shl (x : Word) (n : Nat) : BitVec.ofInt 32 (if 32 ≤ n then 0 else ((x.toNat * 2 ^ n : Nat) : Int)) = x <<< n := by
  split
  · next hn => rw [BitVec.shiftLeft_eq_zero hn]; rfl
  · rw [BitVec.ofInt_natCast]
    apply BitVec.eq_of_toNat_eq
    simp [Nat.shiftLeft_eq]

theorem ofInt_shr (x : Word) (n : Nat) : BitVec.ofInt 32 (if 32 ≤ n then 0 else ((x.toNat / 2 ^ n : Nat) : Int)) = x >>> n := by
  split
  · next hn => rw [BitVec.ushiftRight_eq_zero hn]; rfl
  · rw [BitVec.ofInt_natCast]
    apply BitVec.eq_of_toNat_eq
    rw [BitVec.toNat_ofNat, BitVec.toNat_ushiftRight, Nat.shiftRight_eq_div_pow,
      Nat.mod_eq_of_lt (Nat.lt_of_le_of_lt (Nat.div_le_self ..) x.isLt)]

/-- An arithmetic shift by 31 or more leaves the sign alone. -/
theorem ofInt_sar (x : Word) (n : Nat) : BitVec.ofInt 32 (sext x.toNat 32 / 2 ^ min n 31) = x.sshiftRight n := by
  have hs : sext x.toNat 32 = x.toInt := asInt_signed x
  rw [hs, BitVec.sshiftRight, Int.shiftRight_eq_div_pow, Nat.cast_pow, Nat.cast_ofNat]
  congr 1
  rcases Nat.le_total n 31 with hn | hn
  · rw [Nat.min_eq_left hn]
  · have hlo : -2 ^ 31 ≤ x.toInt := BitVec.le_toInt x
    have hhi : x.toInt < 2 ^ 31 := BitVec.toInt_lt
    have hpow : (2 : Int) ^ 31 ≤ 2 ^ n := pow_le_pow_right₀ (by decide) hn
    rw [Nat.min_eq_right hn]
    rcases lt_or_ge x.toInt 0 with hneg | hpos
    · rw [Int.ediv_eq_neg_one_of_neg_of_le hneg (by omega), Int.ediv_eq_neg_one_of_neg_of_le hneg (by omega)]
    · rw [Int.ediv_eq_zero_of_lt hpos hhi, Int.ediv_eq_zero_of_lt hpos (hhi.trans_le hpow)]

/-- The two parts of a rotated word do not overlap. -/
theorem ofInt_rol (x : Word) (n : Nat) :
    BitVec.ofInt 32 ((x.toNat * 2 ^ (n % 32) % 2 ^ 32 + x.toNat / 2 ^ (32 - n % 32) : Nat) : Int) = x.rotateLeft n := by
  have hr : n % 32 ≤ 32 := (Nat.mod_lt n (by decide)).le
  generalize hk : n % 32 = r at hr
  have hsplit : (2 : Nat) ^ 32 = 2 ^ (32 - r) * 2 ^ r := by rw [← pow_add, Nat.sub_add_cancel hr]
  have hhigh : x.toNat * 2 ^ r % 2 ^ 32 = (x.toNat % 2 ^ (32 - r)) <<< r := by
    rw [hsplit, Nat.mul_mod_mul_right, Nat.shiftLeft_eq]
  have hlow : x.toNat / 2 ^ (32 - r) < 2 ^ r := Nat.div_lt_of_lt_mul (hsplit ▸ x.isLt)
  apply BitVec.eq_of_toNat_eq
  rw [BitVec.ofInt_natCast, BitVec.toNat_rotateLeft, hk, Nat.shiftLeft_eq, hhigh, Nat.shiftRight_eq_div_pow,
    ← Nat.shiftLeft_add_eq_or_of_lt hlow, ← hhigh, BitVec.toNat_ofNat, Nat.mod_eq_of_lt]
  have hmod := Nat.mod_lt x.toNat (Nat.two_pow_pos (32 - r))
  rw [hhigh, Nat.shiftLeft_eq, hsplit]
  calc x.toNat % 2 ^ (32 - r) * 2 ^ r + x.toNat / 2 ^ (32 - r) < (x.toNat % 2 ^ (32 - r) + 1) * 2 ^ r := by
        rw [Nat.add_mul, Nat.one_mul]; omega
    _ ≤ 2 ^ (32 - r) * 2 ^ r := Nat.mul_le_mul_right _ hmod

/-! ## Words bit by bit (R198, R199) -/

/-- A bit above a number that lies below it. -/
theorem testBit_topped {low n : Nat} (h : low < 2 ^ n) (b : Bool) (i : Nat) :
    (low + 2 ^ n * b2n b).testBit i = if i = n then b else low.testBit i := by
  rw [Nat.add_comm, Nat.testBit_two_pow_mul_add _ h]
  rcases Nat.lt_trichotomy i n with hi | rfl | hi
  · rw [if_pos hi, if_neg hi.ne]
  · rw [if_neg (lt_irrefl _), if_pos rfl, Nat.sub_self]
    cases b <;> rfl
  · rw [if_neg hi.not_gt, if_neg hi.ne', Nat.testBit_eq_false_of_lt (h.trans (Nat.pow_lt_pow_right (by decide) hi)),
      Nat.testBit_eq_false_of_lt]
    cases b with
    | true => exact Nat.one_lt_two_pow (Nat.sub_ne_zero_of_lt hi)
    | false => exact Nat.two_pow_pos _

/-- A number below `2 ^ n` with one bit more lies below `2 ^ (n + 1)`. -/
theorem topped_lt {low n : Nat} (h : low < 2 ^ n) (b : Bool) : low + 2 ^ n * b2n b < 2 ^ (n + 1) := by
  rw [pow_succ]
  cases b with
  | true => rw [b2n_true]; omega
  | false => rw [show b2n false = 0 from rfl]; omega

theorem tableBits_lt (fn x y z n : Nat) : tableBits fn x y z n < 2 ^ n := by
  induction n with
  | zero => exact Nat.one_pos
  | succ n ih => exact topped_lt ih _

theorem b2n_eq_toNat (b : Bool) : b2n b = b.toNat := by cases b <;> rfl

/-- R198: bit `i` of BITF is the bit of its table that bits `i` of the operands name. -/
theorem tableBits_testBit (fn x y z : Nat) {n i : Nat} (h : i < n) :
    (tableBits fn x y z n).testBit i = fn.testBit ((x.testBit i).toNat + 2 * (y.testBit i).toNat + 4 * (z.testBit i).toNat) := by
  induction n with
  | zero => nomatch h
  | succ n ih =>
    rw [tableBits, testBit_topped (tableBits_lt ..)]
    split
    · next hi => simp only [hi, bit_eq_testBit, b2n_eq_toNat]
    · exact ih (by omega)

/-- R199: POPC counts the bits that are 1. -/
theorem popcount_eq_countP (n x : Nat) : popcount n x = (List.range n).countP fun i => x.testBit i := by
  induction n generalizing x with
  | zero => rfl
  | succ n ih =>
    have htail : ((fun i => x.testBit i) ∘ Nat.succ) = fun i => (x / 2).testBit i := funext fun i => Nat.testBit_succ x i
    rw [popcount, ih, List.range_succ_eq_map, List.countP_cons, List.countP_map, htail, Nat.testBit_zero, Nat.add_comm]
    rcases Nat.mod_two_eq_zero_or_one x with h | h <;> simp [h]

/-- R199: CLZ counts the bits above the highest that is 1, and no more than there are. -/
theorem leadingZeros_le (n x : Nat) : leadingZeros n x ≤ n := by
  induction n with
  | zero => exact Nat.le_refl 0
  | succ n ih =>
    rw [leadingZeros]
    split
    · exact Nat.zero_le _
    · omega

theorem testBit_leading {n x i : Nat} (h : n ≤ i + leadingZeros n x) (hi : i < n) : x.testBit i = false := by
  induction n with
  | zero => nomatch hi
  | succ n ih =>
    rw [leadingZeros] at h
    split at h
    · omega
    · next hn =>
      rcases Nat.lt_succ_iff_lt_or_eq.mp hi with hi | rfl
      · exact ih (by omega) hi
      · simpa [bit_eq_testBit] using hn

theorem testBit_leadingOne {n x : Nat} (h : leadingZeros n x < n) : x.testBit (n - 1 - leadingZeros n x) = true := by
  induction n with
  | zero => nomatch h
  | succ n ih =>
    rw [leadingZeros] at h ⊢
    split
    · next hn => exact bit_eq_testBit x n ▸ hn
    · next hn =>
      rw [if_neg hn] at h
      rw [show n + 1 - 1 - (1 + leadingZeros n x) = n - 1 - leadingZeros n x by omega]
      exact ih (by omega)

theorem reverseBits_succ (n x : Nat) : reverseBits (n + 1) x = reverseBits n (x / 2) + 2 ^ n * b2n (x.testBit 0) := by
  rw [reverseBits, Nat.add_comm, Nat.mul_comm, ← bit_eq_testBit, b2n_bit, pow_zero, Nat.div_one]

theorem reverseBits_lt (n x : Nat) : reverseBits n x < 2 ^ n := by
  induction n generalizing x with
  | zero => exact Nat.one_pos
  | succ n ih =>
    rw [reverseBits_succ]
    exact topped_lt (ih _) _

/-- R199: BREV puts bit `n - 1 - i` in place of bit `i`. -/
theorem reverseBits_testBit (x : Nat) {n i : Nat} (h : i < n) : (reverseBits n x).testBit i = x.testBit (n - 1 - i) := by
  induction n generalizing x with
  | zero => nomatch h
  | succ n ih =>
    rw [reverseBits_succ, testBit_topped (reverseBits_lt ..)]
    split
    · next hi => rw [hi, Nat.add_sub_cancel, Nat.sub_self]
    · rw [ih _ (by omega), ← Nat.testBit_succ]
      congr 1
      omega

theorem ofNat_reverseBits (x : Word) : BitVec.ofNat 32 (reverseBits 32 x.toNat) = x.reverse := by
  apply BitVec.eq_of_getLsbD_eq
  intro i hi
  rw [BitVec.getLsbD_reverse, BitVec.getMsbD_eq_getLsbD, BitVec.getLsbD_ofNat, reverseBits_testBit _ hi, BitVec.testBit_toNat]

/-! ## Bit fields (R200) -/

/-- The sign extension of a field, bit by bit. -/
theorem getLsbD_ofInt_sext {f n : Nat} (hn : 0 < n) (hf : f < 2 ^ n) {i : Nat} (hi : i < 32) :
    (BitVec.ofInt 32 (sext f n)).getLsbD i = if i < n then f.testBit i else f.testBit (n - 1) := by
  have hsext : sext f n = (BitVec.ofNat n f).toInt := by
    obtain ⟨k, rfl⟩ : ∃ k, n = k + 1 := ⟨n - 1, by omega⟩
    rw [BitVec.toInt_eq_toNat_cond, BitVec.toNat_ofNat, sext, Nat.mod_eq_of_lt hf, Nat.add_sub_cancel, pow_succ]
    push_cast
    split <;> split <;> omega
  have hext : BitVec.ofInt 32 (sext f n) = (BitVec.ofNat n f).signExtend 32 := congrArg (BitVec.ofInt 32) hsext
  rw [hext, BitVec.getLsbD_signExtend, BitVec.msb_eq_getLsbD_last, BitVec.getLsbD_ofNat, BitVec.getLsbD_ofNat, decide_eq_true hi,
    decide_eq_true (show n - 1 < n by omega)]
  split
  · next hin => simp [hin]
  · simp

/-- A field as BFE extends it, bit by bit. -/
theorem getLsbD_field {f n : Nat} (hn : 0 < n) (hf : f < 2 ^ n) (sg : Bool) {i : Nat} (hi : i < 32) :
    (BitVec.ofInt 32 (if sg then sext f n else (f : Int))).getLsbD i = if i < n then f.testBit i else sg && f.testBit (n - 1) := by
  cases sg with
  | true => exact getLsbD_ofInt_sext hn hf hi
  | false =>
    rw [if_neg Bool.false_ne_true, BitVec.ofInt_natCast, BitVec.getLsbD_ofNat, decide_eq_true hi, Bool.true_and, Bool.false_and]
    split
    · rfl
    · next hin => exact Nat.testBit_eq_false_of_lt (hf.trans_le (Nat.pow_le_pow_right (by decide) (Nat.not_lt.mp hin)))

/-- A bit of a field cut from a number. -/
theorem testBit_cut (x pos n i : Nat) : (x / 2 ^ pos % 2 ^ n).testBit i = (decide (i < n) && x.testBit (pos + i)) := by
  rw [Nat.testBit_mod_two_pow, Nat.testBit_div_two_pow, Nat.add_comm]

/-- The field of R200 is empty where it starts beyond the word or has no length. -/
theorem fieldOf_empty {b : Nat} (h : 32 ≤ b % 256 ∨ b / 256 % 256 = 0) : fieldOf b = (0, 0) := by
  simp only [fieldOf]
  rw [if_pos (by simpa using h)]

theorem fieldOf_cut {b : Nat} (h : ¬(32 ≤ b % 256 ∨ b / 256 % 256 = 0)) :
    fieldOf b = (b % 256, min (b % 256 + b / 256 % 256) 32 - b % 256) := by
  simp only [fieldOf]
  rw [if_neg (by simpa using h)]

/-- What BFE writes. -/
def bfeValue (sg : Bool) (x y : Nat) : Int :=
  let f := x / 2 ^ (fieldOf y).1 % 2 ^ (fieldOf y).2
  if (fieldOf y).2 == 0 then 0 else if sg then sext f (fieldOf y).2 else f

/-- R200: BFE's word, bit by bit. -/
theorem getLsbD_bfeValue (sg : Bool) (x y : Nat) {i : Nat} (hi : i < 32) : (BitVec.ofInt 32 (bfeValue sg x y)).getLsbD i =
    (let pos := y % 256
     let len := y / 256 % 256
     let n := min (pos + len) 32 - pos
     if 32 ≤ pos ∨ len = 0 then false
     else if i < n then x.testBit (pos + i) else (sg && x.testBit (pos + n - 1))) := by
  dsimp only
  by_cases he : 32 ≤ y % 256 ∨ y / 256 % 256 = 0
  · rw [if_pos he, bfeValue, fieldOf_empty he]
    exact BitVec.getLsbD_zero
  · have hn : 0 < min (y % 256 + y / 256 % 256) 32 - y % 256 := by omega
    rw [if_neg he, bfeValue, fieldOf_cut he, if_neg (by simpa using hn.ne'), getLsbD_field hn (Nat.mod_lt _ (Nat.two_pow_pos _)) sg hi]
    simp only [testBit_cut]
    split
    · next hin => simp [hin]
    · rw [decide_eq_true (Nat.sub_lt hn Nat.one_pos), Bool.true_and, Nat.add_sub_assoc hn]

/-- A field replaced in a number, between the bits above it and those below. -/
theorem setBits_eq (x v lo : Nat) {n : Nat} (hn : 0 < n) :
    setBits x (lo + n - 1) lo v = 2 ^ lo * (2 ^ n * (x / 2 ^ lo / 2 ^ n) + v % 2 ^ n) + x % 2 ^ lo := by
  have hx : 2 ^ lo * (2 ^ n * (x / 2 ^ lo / 2 ^ n) + x / 2 ^ lo % 2 ^ n) + x % 2 ^ lo = x := by rw [Nat.div_add_mod, Nat.div_add_mod]
  rw [setBits, bits, show lo + n - 1 + 1 - lo = n by omega, Nat.mul_comm _ (2 ^ lo), Nat.mul_comm _ (2 ^ lo)]
  rw [Nat.mul_add] at hx ⊢
  omega

theorem testBit_setBits (x v lo i : Nat) {n : Nat} (hn : 0 < n) :
    (setBits x (lo + n - 1) lo v).testBit i = if lo ≤ i ∧ i < lo + n then v.testBit (i - lo) else x.testBit i := by
  rw [setBits_eq x v lo hn, Nat.testBit_two_pow_mul_add _ (Nat.mod_lt _ (Nat.two_pow_pos lo)),
    Nat.testBit_two_pow_mul_add _ (Nat.mod_lt _ (Nat.two_pow_pos n)), Nat.testBit_mod_two_pow, Nat.testBit_mod_two_pow,
    Nat.testBit_div_two_pow, Nat.testBit_div_two_pow]
  rcases Nat.lt_or_ge i lo with hlo | hlo
  · simp [hlo, hlo.not_ge]
  · rcases Nat.lt_or_ge i (lo + n) with hhi | hhi
    · simp [hlo, hlo.not_gt, hhi, show i - lo < n by omega]
    · rw [if_neg hlo.not_gt, if_neg (by omega), if_neg (by omega)]
      congr 1
      omega

/-- What BFI writes. -/
def bfiValue (x y z : Nat) : Int :=
  if (fieldOf y).2 == 0 then z else setBits z ((fieldOf y).1 + (fieldOf y).2 - 1) (fieldOf y).1 x

/-- R200: BFI's word, bit by bit. -/
theorem getLsbD_bfiValue (x y z : Nat) {i : Nat} (hi : i < 32) : (BitVec.ofInt 32 (bfiValue x y z)).getLsbD i =
    (let pos := y % 256
     let len := y / 256 % 256
     if pos ≤ i ∧ i < pos + len then x.testBit (i - pos) else z.testBit i) := by
  dsimp only
  by_cases he : 32 ≤ y % 256 ∨ y / 256 % 256 = 0
  · rw [if_neg (by omega), bfiValue, fieldOf_empty he, if_pos (by rfl), BitVec.ofInt_natCast, BitVec.getLsbD_ofNat, decide_eq_true hi,
      Bool.true_and]
  · have hn : 0 < min (y % 256 + y / 256 % 256) 32 - y % 256 := by omega
    have hin : y % 256 ≤ i ∧ i < y % 256 + (min (y % 256 + y / 256 % 256) 32 - y % 256) ↔
        y % 256 ≤ i ∧ i < y % 256 + y / 256 % 256 := by omega
    rw [bfiValue, fieldOf_cut he, if_neg (by simpa using hn.ne'), BitVec.ofInt_natCast, BitVec.getLsbD_ofNat, decide_eq_true hi,
      Bool.true_and, testBit_setBits z x _ i hn]
    simp only [hin]

/-! ## Byte selection (R201) -/

/-- Byte `k` of a selection, `prev` the byte below. -/
def selectByte (src sel : Nat) (sx : Bool) (prev k : Nat) : Nat :=
  if sel / 16 ^ k % 16 < 8 then src / 256 ^ (sel / 16 ^ k % 16) % 256 else if sx && 128 ≤ prev then 255 else 0

theorem selectBytes_succ (src sel : Nat) (sx : Bool) (prev n k : Nat) : selectBytes src sel sx prev (n + 1) k =
    selectByte src sel sx prev k * 256 ^ k + selectBytes src sel sx (selectByte src sel sx prev k) n (k + 1) := rfl

theorem selectByte_lt (src sel : Nat) (sx : Bool) (prev k : Nat) : selectByte src sel sx prev k < 256 := by
  rw [selectByte]
  split
  · exact Nat.mod_lt _ (by decide)
  · split
    · decide
    · decide

/-- The bytes of a selection that come from byte `k` on. -/
theorem selectBytes_byte (src sel : Nat) (sx : Bool) (prev n k : Nat) : ∃ q, selectBytes src sel sx prev n k = 256 ^ k * q ∧ q < 256 ^ n ∧
    ∀ j, j < n → q / 256 ^ j % 256 = selectByte src sel sx (if j = 0 then prev else q / 256 ^ (j - 1) % 256) (k + j) := by
  induction n generalizing prev k with
  | zero => exact ⟨0, rfl, Nat.one_pos, fun j hj => nomatch hj⟩
  | succ n ih =>
    have hb := selectByte_lt src sel sx prev k
    obtain ⟨q, hq, hlt, hbytes⟩ := ih (selectByte src sel sx prev k) (k + 1)
    rw [selectBytes_succ, hq]
    generalize hbv : selectByte src sel sx prev k = b at *
    refine ⟨b + 256 * q, by ring, by rw [pow_succ]; omega, fun j hj => ?_⟩
    have htail (i : Nat) : (b + 256 * q) / 256 ^ (i + 1) = q / 256 ^ i := by
      rw [pow_succ', ← Nat.div_div_eq_div_mul, show (b + 256 * q) / 256 = q by omega]
    cases j with
    | zero =>
      rw [pow_zero, Nat.div_one, if_pos rfl, Nat.add_zero, hbv]
      omega
    | succ j =>
      rw [htail, hbytes j (by omega), if_neg (Nat.succ_ne_zero j), Nat.add_sub_cancel, Nat.add_right_comm, Nat.add_assoc k]
      congr 1
      cases j with
      | zero =>
        rw [if_pos rfl, pow_zero, Nat.div_one]
        omega
      | succ j => rw [if_neg (Nat.succ_ne_zero j), htail, Nat.add_sub_cancel]

/-- R201: BSEL's word, byte by byte. -/
theorem selectBytes_spec (src sel : Nat) (sx : Bool) : selectBytes src sel sx 0 4 0 < 2 ^ 32 ∧ ∀ j, j < 4 →
    selectBytes src sel sx 0 4 0 / 256 ^ j % 256 =
      (let code := sel / 16 ^ j % 16
       if code < 8 then src / 256 ^ code % 256
       else if sx = true ∧ 0 < j ∧ 128 ≤ selectBytes src sel sx 0 4 0 / 256 ^ (j - 1) % 256 then 255 else 0) := by
  obtain ⟨q, hq, hlt, hbytes⟩ := selectBytes_byte src sel sx 0 4 0
  rw [pow_zero, Nat.one_mul] at hq
  rw [hq]
  refine ⟨hlt, fun j hj => ?_⟩
  rw [hbytes j hj, selectByte, Nat.zero_add]
  dsimp only
  cases j with
  | zero => simp
  | succ j => simp

/-! ## The instructions -/

section
variable {s : State} {t d a : Nat} {gd : Guard} {x : TWord} {z m : Bool}

/-- A shift by an immediate. -/
theorem shift_imm_writes (h : s.Runs t [.r d, .r a] [] gd) (hr : s.reads t [(a, .int)] = some ([x], z, m)) {f : Nat → Nat → Int} (n : Nat)
    (tag : Tag) {w : Word} (hw : BitVec.ofInt 32 (f x.bits.toNat n) = w) :
    shift gd d a (.imm n) tag f s = .next (s.result t d ⟨w, tag⟩ z m 0) :=
  code_writes_word h (.last (h.nat_read (State.reads_one hr)) (.last (.pure s t n) .refl)) hw

/-- One word in, one word out. -/
theorem unary_writes (h : s.Runs t [.r d, .r a] [] gd) (hr : s.reads t [(a, .int)] = some ([x], z, m)) (tag : Tag) (f : Nat → Nat) :
    unary gd d a tag f s = .next (s.result t d ⟨BitVec.ofNat 32 (f x.bits.toNat), tag⟩ z m 0) :=
  code_writes_word h (.last (h.nat_read (State.reads_one hr)) .refl) (BitVec.ofInt_natCast ..)

variable {b : Nat} {y : TWord} (h : s.Runs t [.r d, .r a, .r b] [] gd) (hr : s.reads t [(a, .int), (b, .int)] = some ([x, y], z, m))
include h hr

/-- A shift by the word in a register. -/
theorem shift_reg_writes {f : Nat → Nat → Int} (tag : Tag) {w : Word} (hw : BitVec.ofInt 32 (f x.bits.toNat y.bits.toNat) = w) :
    shift gd d a (.reg b) tag f s = .next (s.result t d ⟨w, tag⟩ z m 0) := by
  obtain ⟨z₁, m₁, z₂, m₂, hx, hy, rfl, rfl⟩ := State.reads_two hr
  exact code_writes_word h (.read (h.nat_read hx) (.last (h.nat_read hy) .refl)) hw

/-- Two words in, one word out. -/
theorem logic_writes {f : Nat → Nat → Nat} {w : Word} (hw : w.toNat = f x.bits.toNat y.bits.toNat) :
    logic gd d a b f s = .next (s.result t d ⟨w, .raw⟩ z m 0) := by
  obtain ⟨z₁, m₁, z₂, m₂, hx, hy, rfl, rfl⟩ := State.reads_two hr
  refine code_writes_word h (.read (h.nat_read hx) (.last (h.nat_read hy) .refl)) ?_
  rw [← hw, BitVec.ofInt_natCast, BitVec.ofNat_toNat, BitVec.setWidth_eq]

/-- R200: BFE. -/
theorem bfe_writes (k : Nat) (sg : Bool) : exec (.bfe gd d a b k sg) s =
    .next (s.result t d ⟨BitVec.ofInt 32 (bfeValue sg x.bits.toNat y.bits.toNat), sgTag sg⟩ z m 0) := by
  obtain ⟨z₁, m₁, z₂, m₂, hx, hy, rfl, rfl⟩ := State.reads_two hr
  exact code_writes_word (v := bfeValue sg x.bits.toNat y.bits.toNat) h (.read (h.nat_read hx) (.last (h.nat_read hy) .refl)) rfl

end

/-- Three words in, one word out. -/
theorem ternary_writes {s : State} {t d a b c : Nat} {gd : Guard} {x y w : TWord} {z m : Bool}
    (h : s.Runs t [.r d, .r a, .r b, .r c] [] gd) (hr : s.reads t [(a, .int), (b, .int), (c, .int)] = some ([x, y, w], z, m))
    (ds : List Dest) (tag : Tag) (f : Nat → Nat → Nat → Int) :
    code [.r d, .r a, .r b, .r c] gd ds (natSrc a >>= fun x => natSrc b >>= fun y => natSrc c >>= fun w => putWord d (f x y w) tag) s =
      .next (s.result t d ⟨BitVec.ofInt 32 (f x.bits.toNat y.bits.toNat w.bits.toNat), tag⟩ z m 0) := by
  obtain ⟨z₁, m₁, z₂, m₂, z₃, m₃, hx, hy, hw, rfl, rfl⟩ := State.reads_three hr
  exact code_writes_word h (.read (h.nat_read hx) (.read (h.nat_read hy) (.last (h.nat_read hw) .refl))) rfl

/-- Settles O3: each instruction by the words that it reads and the one that it writes, and that word by its bits or bytes. -/
theorem logicAndBitFields : Obligations.LogicAndBitFields := by
  unfold Obligations.LogicAndBitFields
  refine ⟨?logic, ?fields⟩
  case logic =>
    intro s t gd d a b c k n fn x y w z m
    refine ⟨fun h hr => ⟨shift_imm_writes h hr n _ (ofInt_shl ..), shift_imm_writes h hr n _ (ofInt_shr ..),
      shift_imm_writes h hr n _ (ofInt_sar ..), shift_imm_writes h hr n _ (ofInt_rol ..)⟩,
      fun h hr => ⟨shift_reg_writes h hr _ (ofInt_shl ..), shift_reg_writes h hr _ (ofInt_shr ..), shift_reg_writes h hr _ (ofInt_sar ..),
        shift_reg_writes h hr _ (ofInt_rol ..), logic_writes h hr (BitVec.toNat_and ..), logic_writes h hr (BitVec.toNat_or ..),
        logic_writes h hr (BitVec.toNat_xor ..)⟩,
      fun h hr => ⟨_, ternary_writes h hr [.reg d .raw] .raw fun x y w => tableBits fn x y w 32, fun i hi => ?_⟩⟩
    rw [BitVec.ofInt_natCast, BitVec.getLsbD_ofNat, decide_eq_true hi, Bool.true_and]
    exact tableBits_testBit fn _ _ _ hi
  case fields =>
    intro s t gd d a b c k sg sx x y w z m
    refine ⟨fun h hr => ⟨?popc, ?clz, ?brev⟩,
      fun h hr => ⟨_, bfe_writes h hr k sg, fun i hi => getLsbD_bfeValue sg _ _ hi⟩,
      fun h hr => ⟨⟨_, ternary_writes h hr [.reg d .raw] .raw bfiValue, fun i hi => getLsbD_bfiValue _ _ _ hi⟩, ?bsel⟩⟩
    case popc =>
      rw [show ((List.range 32).countP fun i => x.bits.getLsbD i) = popcount 32 x.bits.toNat from (popcount_eq_countP 32 _).symm]
      exact unary_writes h hr .u32 (popcount 32)
    case clz =>
      exact ⟨leadingZeros 32 x.bits.toNat, leadingZeros_le .., unary_writes h hr .u32 (leadingZeros 32), fun i hn hi => testBit_leading hn hi,
        testBit_leadingOne⟩
    case brev =>
      rw [← ofNat_reverseBits]
      exact unary_writes h hr .raw (reverseBits 32)
    case bsel =>
      obtain ⟨hlt, hbytes⟩ := selectBytes_spec (x.bits.toNat + 2 ^ 32 * y.bits.toNat) w.bits.toNat sx
      refine ⟨_, ternary_writes h hr [.reg d .raw] .raw fun x y w => selectBytes (x + 2 ^ 32 * y) w sx 0 4 0, ?_⟩
      rw [BitVec.ofInt_natCast, BitVec.toNat_ofNat, Nat.mod_eq_of_lt hlt]
      exact hbytes

end Sys2Proof.Machine

end

section
/-! LAWS. Floating-point arithmetic (10_float R203 to R215): bodies that read their operands and the rounding mode and then write one result
with its flags, and the obligations. -/

namespace Sys2Proof.Machine

open Sys2Proof

/-! ## The float mode, and results with flags -/

section
variable {s : State} {t : Nat} {fs : List Field} {ex : List Nat} {gd : Guard} {th : Thread} {z m : Bool} (h : s.Runs t fs ex gd)
  (ht : s.threads.find t = some th)
include h ht

/-- A body that looks at its thread goes on with what the thread has beside the reads noted in it. -/
theorem State.Comes.thread {k : Thread → M Flow} {rest : M Flow}
    (hk : ∀ B a b, s.Comes t (k { th with opbuf := B, pendLapf := a, pendMis := b }) rest z m) : s.Comes t (Machine.thread >>= k) rest z m := by
  obtain ⟨c, -, hc, rfl, -⟩ := h.start
  intro B z₀ m₀ hb
  rw [bind_ok (thread_reading hc ht B z₀ m₀)]
  exact hk _ _ _ B z₀ m₀ hb

/-- The same for an operation that reads registers. -/
theorem State.Reads.thread {α : Type} {k : Thread → M α} {r : α}
    (hk : ∀ B a b, s.Reads t (k { th with opbuf := B, pendLapf := a, pendMis := b }) r z m) : s.Reads t (Machine.thread >>= k) r z m := by
  obtain ⟨c, -, hc, rfl, -⟩ := h.start
  intro B z₀ m₀ hb
  rw [bind_ok (thread_reading hc ht B z₀ m₀)]
  exact hk _ _ _ B z₀ m₀ hb

/-- R205: two operands with their modifiers. -/
theorem State.Runs.mod_read {a b : Nat} {x y : TWord} (hr : s.reads t [(a, .f32), (b, .f32)] = some ([x, y], z, m)) (mods : FMods) :
    s.Reads t (modSrcs a b mods) (fmods mods.aa mods.na th.ftz x.bits.toNat, fmods mods.ab mods.nb th.ftz y.bits.toNat) z m := by
  obtain ⟨c, -, hc, rfl, -⟩ := h.start
  obtain ⟨z₁, m₁, z₂, m₂, hx, hy, rfl, rfl⟩ := State.reads_two hr
  exact .thread h ht fun _ _ _ => (reads_readBits hc ht hx).bind ((reads_readBits hc ht hy).map fun y =>
    (fmods mods.aa mods.na th.ftz x.bits.toNat, fmods mods.ab mods.nb th.ftz y))

end

/-- A float result written with its flags, once registers have been read (R69). -/
theorem putFloat_done {s : State} {c : Cur} {th : Thread} (hc : s.cur = some c) (ht : s.threads.find c.t = some th) (B : AMap TWord) (z m : Bool)
    (d : Nat) (r : FRes) (tag : Tag) :
    ∃ T, putFloat d r tag (s.reading c.t B z m) = .ok .seq T ∧ T.done c.t = s.result c.t d (floatWord r tag) z m r.2 := by
  refine ⟨((s.reading c.t B z m).updThread c.t fun y => { y with pendFst := orf y.pendFst r.2 }).writeReg c.t d (floatWord r tag), ?_, ?_⟩
  · rw [putFloat, addFlags, bind_ok (modThread_run (s := s.reading c.t B z m) hc _)]
    simp only [writeReg, bind_run, curT_run (s := (s.reading c.t B z m).updThread c.t _) hc, modify_run, pure_run, floatWord]
  · rw [State.writeReg_updThread, State.writeReg_reading, State.done, State.commit_reading_flags (by simpa using ht), State.result, State.writeReg_noted,
      State.done]

section
variable {s : State} {t : Nat} {fs : List Field} {gd : Guard} (h : s.Runs t fs [] gd) {ds : List Dest} {body : M Flow} {z m : Bool}
include h

/-- A body that writes a float result. -/
theorem code_writes_float {d : Nat} {r : FRes} {tag : Tag} (hb : s.Comes t body (putFloat d r tag) z m) :
    code fs gd ds body s = .next (s.result t d (floatWord r tag) z m r.2) := by
  obtain ⟨c, th, hc, rfl, ht, -⟩ := h.start
  exact code_comes h hb fun B => putFloat_done hc ht B z m d r tag

/-- A body that writes the outcome of a comparison (R210). -/
theorem code_writes_flagged {p : Nat} {r : Bool × Nat} (hb : s.Comes t body (putFlagged p r) z m) :
    code fs gd ds body s = .next (s.resultPreds t (predWrite p r.1) z m r.2) := by
  obtain ⟨c, th, hc, rfl, ht, -⟩ := h.start
  refine code_comes h hb fun B => ⟨_, ?_, congrArg (·.advance c.t) (State.commit_reading_pred ht B z m r.2 (predWrite p r.1))⟩
  rw [putFlagged, addFlags, bind_ok (modThread_run (s := s.reading c.t B z m) hc _), writePred_eq,
    bind_ok (modThread_run (s := (s.reading c.t B z m).updThread c.t _) hc _), State.updThread_updThread]
  rfl

/-- A packed word read (R214). -/
theorem State.Runs.bits_read {i : Nat} {ts : TagSet} {x : TWord} (hx : s.src t i ts = some (x, z, m)) :
    s.Reads t (readBits i ts) x.bits.toNat z m := (h.reg_read hx).map fun w => w.bits.toNat

end

/-! ## Scalar arithmetic (R205 to R213) -/

section
variable {s : State} {t d a : Nat} {gd : Guard} {th : Thread} {x : TWord} {z m : Bool} (ht : s.threads.find t = some th)
include ht

/-- One F32 operand: the result is the operation's, in the thread's float mode. -/
theorem floatUnary_writes (h : s.Runs t [.r d, .r a] [] gd) (hr : s.reads t [(a, .f32)] = some ([x], z, m)) (tag : Tag)
    {f : Thread → Nat → FRes} (hf : ∀ B l k, f { th with opbuf := B, pendLapf := l, pendMis := k } = f th) :
    floatUnary gd d a tag f s = .next (s.result t d (floatWord (f th x.bits.toNat) tag) z m (f th x.bits.toNat).2) := by
  refine code_writes_float h (.thread h ht fun B l k => ?_)
  rw [hf]
  exact .last (h.bits_read (State.reads_one hr)) .refl

variable {b : Nat} {y : TWord} {mods : FMods}

/-- R208: FFMA rounds its product and sum once. -/
theorem ffma_writes {c : Nat} {w : TWord} (h : s.Runs t [.r d, .r a, .r b, .r c] [] gd)
    (hr : s.reads t [(a, .f32), (b, .f32), (c, .f32)] = some ([x, y, w], z, m)) (k : Nat) (rm : Rm) (nc : Bool) :
    ∃ r, r = ffma .f32 (rmMode th rm) th.ftz (fmods mods.aa mods.na th.ftz x.bits.toNat) (fmods mods.ab mods.nb th.ftz y.bits.toNat)
        (fmods false nc th.ftz w.bits.toNat) ∧
      exec (.ffma gd d a b c k rm mods nc) s = .next (s.result t d (floatWord r .f32) z m r.2) := by
  obtain ⟨z₁, m₁, z₂, m₂, z₃, m₃, hx, hy, hw, rfl, rfl⟩ := State.reads_three hr
  have hxy : s.reads t [(a, .f32), (b, .f32)] = some ([x, y], z₁ || z₂, m₁ || m₂) := by simp [State.reads, hx, hy]
  rw [← Bool.or_assoc, ← Bool.or_assoc]
  exact ⟨_, rfl, code_writes_float h (.thread h ht fun _ _ _ => .read (h.mod_read ht hxy mods) (.last (h.bits_read hw) .refl))⟩

end

/-- Settles O5: each instruction by its operands, the mode it rounds in, and the one result with flags that it writes. -/
theorem floatArithmetic : Obligations.FloatArithmetic := by
  unfold Obligations.FloatArithmetic
  refine ⟨?arith, ?unary⟩
  case arith =>
    intro s t gd d a b c p k rm mods nc cnd x y w z m th ht
    refine ⟨fun h hr => ?two, fun h hr => ffma_writes ht h hr k rm nc,
      fun h hr => ⟨_, rfl, code_writes_flagged h (.last (h.mod_read ht hr mods) .refl)⟩⟩
    have hxy := h.mod_read ht hr mods
    exact ⟨⟨_, rfl, code_writes_float h (.thread h ht fun _ _ _ => .last hxy .refl)⟩,
      ⟨_, rfl, code_writes_float h (.thread h ht fun _ _ _ => .last hxy .refl)⟩,
      ⟨_, rfl, code_writes_float h (.last hxy .refl)⟩, ⟨_, rfl, code_writes_float h (.last hxy .refl)⟩⟩
  case unary =>
    intro s t gd d a k rm x z m th ht h hr
    have hwrites (tag) {f : Thread → Nat → FRes} := floatUnary_writes (f := f) ht h hr tag
    exact ⟨hwrites .f32 fun _ _ _ => rfl, hwrites .f32 fun _ _ _ => rfl, hwrites .f32 fun _ _ _ => rfl, hwrites .f32 fun _ _ _ => rfl,
      hwrites .f32 fun _ _ _ => rfl, hwrites .f32 fun _ _ _ => rfl, hwrites .f32 fun _ _ _ => rfl, hwrites .f32 fun _ _ _ => rfl,
      hwrites .u32 fun _ _ _ => rfl⟩

/-! ## Packed operations (R214, R215) -/

/-- R214: a packed result has the operation's result on each element. -/
theorem packed_elements (f : Nat → Nat → FRes) (x y : Nat) : packed f x y =
    ((f (x / 65536 ^ 1 % 65536) (y / 65536 ^ 1 % 65536)).1 * 65536 + (f (x / 65536 ^ 0 % 65536) (y / 65536 ^ 0 % 65536)).1,
      orf (f (x / 65536 ^ 0 % 65536) (y / 65536 ^ 0 % 65536)).2 (f (x / 65536 ^ 1 % 65536) (y / 65536 ^ 1 % 65536)).2) := by
  simp [packed]

/-- The same with three operands. -/
theorem packed3_elements (f : Nat → Nat → Nat → FRes) (x y w : Nat) : packed3 f x y w =
    ((f (x / 65536 ^ 1 % 65536) (y / 65536 ^ 1 % 65536) (w / 65536 ^ 1 % 65536)).1 * 65536 +
        (f (x / 65536 ^ 0 % 65536) (y / 65536 ^ 0 % 65536) (w / 65536 ^ 0 % 65536)).1,
      orf (f (x / 65536 ^ 0 % 65536) (y / 65536 ^ 0 % 65536) (w / 65536 ^ 0 % 65536)).2
        (f (x / 65536 ^ 1 % 65536) (y / 65536 ^ 1 % 65536) (w / 65536 ^ 1 % 65536)).2) := by
  simp [packed3]

section
variable {s : State} {t d a b : Nat} {gd : Guard} {th : Thread} {x y : TWord} {z m hf : Bool} (ht : s.threads.find t = some th)
include ht

/-- HADD2 and HMUL2: an operation in a rounding mode on each element. -/
theorem packed_writes (h : s.Runs t [.r d, .r a, .r b] [] gd) (hr : s.reads t [(a, pSet hf), (b, pSet hf)] = some ([x, y], z, m))
    (rm : Rm) (f : Mode → Bool → Nat → Nat → FRes) :
    code [.r d, .r a, .r b] gd [.reg d (pTag hf)] (thread >>= fun th => readBits a (pSet hf) >>= fun x => readBits b (pSet hf) >>= fun y =>
        putFloat d (packed (f (rmMode th rm) th.ftz) x y) (pTag hf)) s =
      .next (s.result t d (floatWord (packed (f (rmMode th rm) th.ftz) x.bits.toNat y.bits.toNat) (pTag hf)) z m
        (packed (f (rmMode th rm) th.ftz) x.bits.toNat y.bits.toNat).2) := by
  obtain ⟨z₁, m₁, z₂, m₂, hx, hy, rfl, rfl⟩ := State.reads_two hr
  exact code_writes_float h (.thread h ht fun _ _ _ => .read (h.bits_read hx) (.last (h.bits_read hy) .refl))

variable {c : Nat} {w : TWord} (h : s.Runs t [.r d, .r a, .r b, .r c] [] gd) (k : Nat) (rm : Rm)
include h

/-- HFMA2: the fused operation on each element. -/
theorem hfma2_writes (hr : s.reads t [(a, pSet hf), (b, pSet hf), (c, pSet hf)] = some ([x, y, w], z, m)) :
    exec (.hfma2 gd d a b c k rm hf) s = .next (s.result t d
      (floatWord (packed3 (ffma (pFmt hf) (rmMode th rm) th.ftz) x.bits.toNat y.bits.toNat w.bits.toNat) (pTag hf)) z m
      (packed3 (ffma (pFmt hf) (rmMode th rm) th.ftz) x.bits.toNat y.bits.toNat w.bits.toNat).2) := by
  obtain ⟨z₁, m₁, z₂, m₂, z₃, m₃, hx, hy, hw, rfl, rfl⟩ := State.reads_three hr
  exact code_writes_float h (.thread h ht fun _ _ _ => .read (h.bits_read hx) (.read (h.bits_read hy) (.last (h.bits_read hw) .refl)))

/-- DOT2: both products and the third operand in one sum. -/
theorem dot2_writes (hr : s.reads t [(a, pSet hf), (b, pSet hf), (c, .f32)] = some ([x, y, w], z, m)) :
    exec (.dot2 gd d a b c k rm hf) s = .next (s.result t d
      (floatWord (dot2 (pFmt hf) (rmMode th rm) th.ftz x.bits.toNat y.bits.toNat w.bits.toNat) .f32) z m
      (dot2 (pFmt hf) (rmMode th rm) th.ftz x.bits.toNat y.bits.toNat w.bits.toNat).2) := by
  obtain ⟨z₁, m₁, z₂, m₂, z₃, m₃, hx, hy, hw, rfl, rfl⟩ := State.reads_three hr
  exact code_writes_float h (.thread h ht fun _ _ _ => .read (h.bits_read hx) (.read (h.bits_read hy) (.last (h.bits_read hw) .refl)))

end

/-- Settles O6: each instruction by the words it reads and the result that it writes, and a packed result by its elements. -/
theorem packedFloat : Obligations.PackedFloat := by
  unfold Obligations.PackedFloat
  intro s t gd d a b c k rm hf x y w z m th ht
  refine ⟨fun h hr => ⟨?add, ?mul⟩, fun h hr => ?fma, fun h hr => ⟨_, rfl, dot2_writes ht h k rm hr⟩⟩
  case add =>
    have hw := packed_writes ht h hr rm (fadd (pFmt hf))
    rw [packed_elements] at hw
    exact hw
  case mul =>
    have hw := packed_writes ht h hr rm (fmul (pFmt hf))
    rw [packed_elements] at hw
    exact hw
  case fma =>
    have hw := hfma2_writes ht h k rm hr
    rw [packed3_elements] at hw
    exact hw

end Sys2Proof.Machine

end

section
/-! LAWS. The sweeps (10_float R223 to R226): one iteration in its parts, what each part does, and the obligation. -/

namespace Sys2Proof.Machine

open Sys2Proof

/-! ## The parts of an iteration -/

/-- The bases of an iteration; B's only where the sweep has one. -/
def sweepBases (uB : Bool) (d a b : Nat) : M (Nat × Nat × Nat) := do
  let db ← readAddr d
  let ab ← readAddr a
  let bb ← (if uB then readAddr b else pure 0)
  pure (db, ab, bb)

/-- The blocks of an iteration, read at A, B and D, and the result written to D; the flags are left to be noted. -/
def sweepBlocks (op : SweepOp) (md : Mode) (ftz : Bool) (da aa ba : Nat) : M Nat := do
  let pd ← sweepPlace da op.dn
  let pa ← sweepPlace aa 32
  let pb ← (if op.usesB then sweepPlace ba 32 else pure pa)
  checkBrk da op.dn op.readsD true
  checkBrk aa 32 true false
  (if op.usesB then checkBrk ba 32 true false else pure ⟨⟩)
  let x ← readRow pa.1 pa.2 32 aa
  let y ← (if op.usesB then readRow pb.1 pb.2 32 ba else pure 0)
  let w ← (if op.readsD then readRow pd.1 pd.2 op.dn da else pure 0)
  writeRow pd.1 pd.2 op.dn da (op.f md ftz w x y).1
  pure (op.f md ftz w x y).2

/-- Where a sweep goes after iteration `i` of `cnt` (R226). -/
def sweepNext (i cnt : Nat) : M Flow := do
  modThread fun th => { th with swpAct := decide (i + 1 < cnt), swpIter := if i + 1 < cnt then i + 1 else 0 }
  pure (if i + 1 < cnt then .again else .seq)

/-- A sweep whose count is above its iteration does that iteration's parts in turn. -/
theorem sweepBody_iteration {s : State} {th : Thread} (hth : thread s = .ok th s) (op : SweepOp) {d a b cnt sd sa sb : Nat}
    (hi : th.sweepStart < cnt) : sweepBody op d a b cnt sd sa sb s = (do
      let p ← sweepBases op.usesB d a b
      modThread fun y => { y with swpAct := true, swpIter := th.sweepStart }
      let f ← sweepBlocks op th.rm th.ftz ((p.1 + th.sweepStart * stepBytes sd) % 2 ^ 64) ((p.2.1 + th.sweepStart * stepBytes sa) % 2 ^ 64)
        ((p.2.2 + th.sweepStart * stepBytes sb) % 2 ^ 64)
      addFlags f
      sweepNext th.sweepStart cnt : M Flow) s := by
  unfold sweepBody
  rw [bind_ok hth]
  dsimp only
  rw [if_neg (by simp; omega), if_neg (by omega)]
  have hnext (i : Nat) : sweepNext i cnt =
      if i + 1 < cnt then modThread (fun y => { y with swpAct := true, swpIter := i + 1 }) >>= fun _ => pure .again
      else modThread (fun y => { y with swpAct := false, swpIter := 0 }) >>= fun _ => pure .seq := by
    unfold sweepNext
    split <;> simp [*]
  obtain ⟨dn, rD, uB, f⟩ := op
  rw [hnext]
  unfold sweepBases sweepBlocks
  cases uB <;> cases rD <;> simp only [bind_assoc, pure_bind, if_true, if_false, Bool.false_eq_true]

/-! ## The bases -/

/-- The bases that the address pairs of a sweep give (R225); B's pair is read only where the sweep has one. -/
theorem State.Runs.bases_read {s : State} {t : Nat} {fs : List Field} {gd : Guard} (h : s.Runs t fs [] gd) {d a b : Nat} {D A B : DWord}
    {z₁ m₁ z₂ m₂ z₃ m₃ : Bool} (hD : s.srcPair t d .loAddr .hiAddr = some (D, z₁, m₁)) (hA : s.srcPair t a .loAddr .hiAddr = some (A, z₂, m₂))
    (hB : s.srcPair t b .loAddr .hiAddr = some (B, z₃, m₃)) :
    s.Reads t (sweepBases true d a b) (D.toNat, A.toNat, B.toNat) (z₁ || z₂ || z₃) (m₁ || m₂ || m₃) := by
  rw [Bool.or_assoc, Bool.or_assoc]
  exact (h.pair_read hD).bind ((h.pair_read hA).bind ((h.pair_read hB).map fun bb => (D.toNat, A.toNat, bb)))

theorem State.Runs.bases_read_two {s : State} {t : Nat} {fs : List Field} {gd : Guard} (h : s.Runs t fs [] gd) {d a b : Nat} {D A : DWord}
    {z₁ m₁ z₂ m₂ : Bool} (hD : s.srcPair t d .loAddr .hiAddr = some (D, z₁, m₁)) (hA : s.srcPair t a .loAddr .hiAddr = some (A, z₂, m₂)) :
    s.Reads t (sweepBases false d a b) (D.toNat, A.toNat, 0) (z₁ || z₂) (m₁ || m₂) :=
  (h.pair_read hD).bind ((h.pair_read hA).map fun ab => (D.toNat, ab, 0))

/-! ## The blocks -/

theorem turns_setLapf {s : State} {c : Cur} (hc : s.cur = some c) : s.Turns s c.t setLapf ⟨⟩ true :=
  ⟨rfl, rfl, fun f _ => by
    rw [setLapf, modThread_run (s := s.updThread c.t f) hc, State.updThread_updThread]
    rfl⟩

/-- A step that only some have. -/
theorem turns_ite {α : Type} {s : State} {t : Nat} {b z : Bool} {op : M α} {r r₀ : α} (h : b = true → s.Turns s t op r z)
    (hz : b = false → z = false) : s.Turns s t (if b then op else pure r₀) (if b then r else r₀) z := by
  cases b with
  | true => exact h rfl
  | false =>
    rw [hz rfl]
    exact turns_pure ..

@[simp] theorem State.allocAt_updThread (s : State) (t : Nat) (f : Thread → Thread) (h : Home) : (s.updThread t f).allocAt h = s.allocAt h := by
  cases h <;> rfl

@[simp] theorem State.setAllocAt_updThread (s : State) (t : Nat) (f : Thread → Thread) (h : Home) (al : Alloc) :
    (s.updThread t f).setAllocAt h al = (s.setAllocAt h al).updThread t f := by
  cases h <;> rfl

theorem State.setAllocAt_keeps (s : State) (h : Home) (al : Alloc) : (s.setAllocAt h al).cur = s.cur ∧ (s.setAllocAt h al).threads = s.threads := by
  cases h <;> exact ⟨rfl, rfl⟩

theorem gives_then {α β : Type} {s S : State} {t : Nat} {m : M α} {op : M β} {a : α} {r : β} {z : Bool} (h : s.Gives t m a)
    (h' : s.Turns S t op r z) : s.Turns S t (m >>= fun _ => op) r z := gives_bind h h'

/-- An allocation replaced, and a lapse noted if there is one. -/
theorem turns_lapse_setAllocAt {s : State} {c : Cur} (hc : s.cur = some c) (h : Home) (al : Alloc) (l : Bool) :
    s.Turns (s.setAllocAt h al) c.t ((if l then setLapf else pure ⟨⟩) >>= fun _ => modify fun x => x.setAllocAt h al) ⟨⟩ l := by
  obtain ⟨hcur, hth⟩ := s.setAllocAt_keeps h al
  have hset : s.Turns (s.setAllocAt h al) c.t (modify fun x => x.setAllocAt h al) ⟨⟩ false :=
    turns_modify (g := fun x => x.setAllocAt h al) hcur hth fun f => s.setAllocAt_updThread c.t f h al
  cases l with
  | true => exact turns_bind (turns_setLapf hc) hset
  | false => exact turns_bind (turns_pure ..) hset

/-- A write that passes its checks; a lapsed row that it writes in part is noted (R235). -/
theorem turns_writeRow_lapse {s : State} {c : Cur} {g : Gang} {al : Alloc} {h : Home} {off n a v : Nat} (hc : s.cur = some c)
    (hg : s.gangs.find (gidOf c.t) = some g) (ha : s.allocAt h = some al)
    (hz : al.struckAt s.curNo (placesIn h (laneOf c.t) off n) = none)
    (hs : rowWriteStop al (s.tickOf g.ctx) a (placesIn h (laneOf c.t) off n) (partialPlaces h off n (placesIn h (laneOf c.t) off n)) = none) :
    s.Turns (s.setAllocAt h (writePlaces al (s.tickOf g.ctx) (placesIn h (laneOf c.t) off n) (leBytes n v) [])) c.t (writeRow h off n a v) ⟨⟩
      (scanPlaces al (s.tickOf g.ctx) (partialPlaces h off n (placesIn h (laneOf c.t) off n)) 0).lapse := by
  refine gives_bind (gives_curT hc) (gives_bind (gives_now hc hg) (turns_get (fun f _ => ?_) (gives_then (gives_meetRows (h := h) c.t a hz)
    (turns_lapse_setAllocAt hc h _ _))))
  simp only [State.allocAt_updThread, ha, hs]
  split <;> rfl

/-- The blocks of an iteration (R225, R226): read as `q` says, the result in D, and lapses noted. -/
theorem State.SweepAt.turns {w : State} {c : Cur} {g : Gang} {op : SweepOp} {da aa ba : Nat} {q : SweepStep} (hc : w.cur = some c)
    (hg : w.gangs.find (gidOf c.t) = some g) (hq : w.SweepAt c.t op.dn op.readsD op.usesB da aa ba (w.tickOf g.ctx) q) (md : Mode) (ftz : Bool)
    {r : FRes} (hr : op.f md ftz (if op.readsD then q.w else 0) q.x (if op.usesB then q.y else 0) = r) :
    w.Turns (w.setAllocAt q.h (writePlaces q.al (w.tickOf g.ctx) (placesIn q.h (laneOf c.t) q.off op.dn) (leBytes op.dn r.1) [])) c.t
      (sweepBlocks op md ftz da aa ba) r.2 q.z := by
  obtain ⟨-, hD, hDbrk, hal, hstruck, hstop, ah, ao, bh, bo, zx, zy, zw, hA, hAbrk, hx, hB, hzy, hw, hzw, hz⟩ := hq
  subst hr
  have hz' : q.z = (zx || (zy || (zw || ((scanPlaces q.al (w.tickOf g.ctx) (partialPlaces q.h q.off op.dn
      (placesIn q.h (laneOf c.t) q.off op.dn)) 0).lapse || false)))) := by
    rw [hz, Bool.or_false, Bool.or_assoc, Bool.or_assoc]
  rw [hz']
  have hBplace : op.usesB = true → w.Gives c.t (sweepPlace ba 32) (bh, bo) := fun h => (hB h).1
  have hBbrk : op.usesB = true → w.Gives c.t (checkBrk ba 32 true false) ⟨⟩ := fun h => (hB h).2.1
  have hy : op.usesB = true → w.Turns w c.t (readRow bh bo 32 ba) q.y zy := fun h => (hB h).2.2
  refine gives_bind hD <| gives_bind hA <| gives_bind (turns_ite hBplace fun _ => rfl) <| gives_bind hDbrk <| gives_bind hAbrk <|
    gives_bind (turns_ite hBbrk fun _ => rfl) <| turns_bind hx <| turns_bind (turns_ite (fun h => ?_) hzy) <| turns_bind (turns_ite hw hzw) <|
    turns_bind (turns_writeRow_lapse hc hg hal hstruck hstop) (turns_pure ..)
  rw [if_pos h]
  exact hy h

/-! ## One issue of a sweep (R226) -/

/-- What an operation answers it answers once registers have been read, and its lapse is noted with theirs. -/
theorem State.Turns.run_lapse {α : Type} {s S : State} {t : Nat} {op : M α} {r : α} {z : Bool} (h : s.Turns S t op r z) (B : AMap TWord)
    (z₀ m : Bool) : op (s.reading t B z₀ m) = .ok r (S.reading t B (z₀ || z) m) := by
  rw [State.reading, h.2.2 _ (noting_reading B z₀ m), State.reading]
  cases z <;> simp

/-- A sweep of no iterations (R226). -/
theorem codeSwp_empty {s : State} {t : Nat} {fs : List Field} {gd : Guard} (h : s.Runs t fs [] gd) (ds : List Dest) (op : SweepOp)
    (d a b sd sa sb : Nat) : codeSwp fs [] gd ds (sweepBody op d a b 0 sd sa sb) s =
      .next ((s.updThread t fun y => { y with swpAct := false, swpIter := 0 }).done t) := by
  obtain ⟨c, th, hc, rfl, ht, -⟩ := h.start
  refine codeSwp_next (f := .seq) h ?_
  rw [sweepBody, bind_ok (thread_run hc ht)]
  dsimp only
  rw [if_pos (beq_self_eq_true 0), bind_ok (modThread_run hc _)]
  rfl

/-- The end of an iteration: its flags are noted, and `swp` is at the next one or inactive. -/
theorem sweepNext_run {s : State} {c : Cur} (hc : s.cur = some c) (f i cnt : Nat) : (addFlags f >>= fun _ => sweepNext i cnt) s =
    .ok (if i + 1 < cnt then .again else .seq) (s.updThread c.t fun y =>
      { y with pendFst := orf y.pendFst f, swpAct := decide (i + 1 < cnt), swpIter := if i + 1 < cnt then i + 1 else 0 }) := by
  rw [addFlags, bind_ok (modThread_run hc _), sweepNext, bind_ok (modThread_run (s := s.updThread c.t _) hc _), State.updThread_updThread]
  rfl

/-- Thread `t` is at iteration `i` of a sweep. -/
def State.atIteration (s : State) (t i : Nat) : State := s.updThread t fun y => { y with swpAct := true, swpIter := i }

/-- An iteration with bases `D`, `A` and `Bb`, its operands read into `O`, writes D, and issues again or completes. -/
theorem codeSwp_swept {s : State} {t : Nat} {fs : List Field} {gd : Guard} {th : Thread} {g : Gang} (h : s.Runs t fs [] gd)
    (ht : s.threads.find t = some th) (hg : s.gangs.find (gidOf t) = some g) {op : SweepOp} {d a b cnt sd sa sb D A Bb : Nat} {O : AMap TWord}
    {z m : Bool} {q : SweepStep} {r : FRes} (hi : th.sweepStart < cnt)
    (hO : sweepBases op.usesB d a b s = .ok (D, A, Bb) (s.reading t O z m))
    (hq : (s.atIteration t th.sweepStart).SweepAt t op.dn op.readsD op.usesB ((D + th.sweepStart * stepBytes sd) % 2 ^ 64)
      ((A + th.sweepStart * stepBytes sa) % 2 ^ 64) ((Bb + th.sweepStart * stepBytes sb) % 2 ^ 64) (s.tickOf g.ctx) q)
    (hr : op.f th.rm th.ftz (if op.readsD then q.w else 0) q.x (if op.usesB then q.y else 0) = r) (ds : List Dest) :
    codeSwp fs [] gd ds (sweepBody op d a b cnt sd sa sb) s = .next (s.swept t op.dn (s.tickOf g.ctx) th.sweepStart cnt O z m q r) := by
  obtain ⟨c, -, hc, rfl, -⟩ := h.start
  have hstart : (s.reading c.t O z m).updThread c.t (fun y => { y with swpAct := true, swpIter := th.sweepStart }) =
      (s.atIteration c.t th.sweepStart).reading c.t O z m := by
    simp only [State.atIteration, State.reading, State.updThread_updThread]
  have hblocks := (hq.turns (w := s.atIteration c.t th.sweepStart) hc hg th.rm th.ftz hr).run_lapse O z m
  have hcur (al : Alloc) : (((s.atIteration c.t th.sweepStart).setAllocAt q.h al).reading c.t O (z || q.z) m).cur = some c :=
    (State.setAllocAt_keeps ..).1.trans hc
  have hbody := sweepBody_iteration (thread_run hc ht) op (d := d) (a := a) (b := b) (sd := sd) (sa := sa) (sb := sb) hi
  rw [bind_ok hO, bind_ok (modThread_run (s := s.reading c.t O z m) hc _), hstart, bind_ok hblocks, sweepNext_run (hcur _)] at hbody
  rw [codeSwp_next h hbody, State.swept]
  simp only [State.atIteration, State.reading, State.setAllocAt_updThread, State.updThread_updThread]
  by_cases hgo : th.sweepStart + 1 < cnt
  · simp only [hgo]
    rfl
  · simp only [hgo]
    rfl

/-! ## The obligation -/

/-- The words of a block by their places. -/
theorem blockWords_eq_map (n v : Nat) : blockWords n v = (List.range n).map fun k => v / 4294967296 ^ k % 4294967296 := by
  induction n generalizing v with
  | zero => rfl
  | succ n ih =>
    rw [blockWords, ih, List.range_succ_eq_map, List.map_cons, List.map_map, pow_zero, Nat.div_one]
    congr 2
    funext k
    rw [Function.comp_apply, Nat.succ_eq_add_one, pow_succ' 4294967296 k, Nat.div_div_eq_div_mul, show 2 ^ 32 = 4294967296 from rfl]

/-- Settles O24: a count of 0 by `codeSwp_empty`; otherwise the bases are read, and one issue is `codeSwp_swept`. -/
theorem sweeps : Obligations.Sweeps := by
  unfold Obligations.Sweeps
  intro s t gd d a b cnt sd sa sb D A B z1 z2 z3 m1 m2 m3 th g ht hg
  refine ⟨⟨fun h => ?none3, fun h => ?none2⟩, fun h hi hD hA hB => ?three, fun h hi hD hA => ?two⟩
  case none3 => exact ⟨codeSwp_empty h .., codeSwp_empty h .., codeSwp_empty h .., codeSwp_empty h ..⟩
  case none2 => exact ⟨codeSwp_empty h .., codeSwp_empty h .., codeSwp_empty h .., codeSwp_empty h ..⟩
  case three =>
    obtain ⟨O, hO⟩ := (h.bases_read hD hA hB).start
    rw [h.unread] at hO
    refine ⟨fun q hq => ⟨O, ?_, ?_, ?_⟩, fun q hq => ⟨O, ?_⟩⟩
    all_goals exact codeSwp_swept h ht hg hi (by exact hO) (by exact hq) rfl _
  case two =>
    obtain ⟨O, hO⟩ := (h.bases_read_two (b := 0) hD hA).start
    rw [h.unread] at hO
    have hplace : (0 + th.sweepStart * stepBytes 0) % 2 ^ 64 = 0 := by simp [stepBytes]
    refine ⟨fun q hq => ⟨O, ?_⟩, fun q hq => ⟨O, ?_, ?_⟩, fun q hq => ⟨O, ?sum⟩⟩
    case sum =>
      refine ⟨_, codeSwp_swept h ht hg hi (by exact hO) (by rw [hplace]; exact hq) rfl _, ?_⟩
      simp only [if_true, blockWords_eq_map, List.foldl_map]
    all_goals exact codeSwp_swept h ht hg hi (by exact hO) (by rw [hplace]; exact hq) rfl _

end Sys2Proof.Machine

end

section
/-! LAWS. Conversions, narrow integers and tags (10_float R216 to R222): what CVT does for each shape of its source and result, runs of
registers, and the obligation. -/

namespace Sys2Proof.Machine

open Sys2Proof

/-! ## CVT by shape (R216, R217) -/

section
variable {d b : Nat} {md : Mode} {ftz sat : Bool} {tag : Tag} {x : TWord}

theorem cvtBody_copy (h₁ : tag ≠ .bf2) (h₂ : tag ≠ .h2) (h₃ : tag ≠ .u32) (h₄ : tag ≠ .s32) (h₅ : tag ≠ .f32) :
    cvtBody d b tag md ftz sat x = putFloat d (x.bits.toNat, 0) tag := by
  unfold cvtBody
  split
  · exact absurd rfl h₁
  · exact absurd rfl h₂
  · exact absurd rfl h₃
  · exact absurd rfl h₄
  · exact absurd rfl h₅
  · rfl

theorem cvtBody_scalar (htag : tag = .u32 ∨ tag = .s32 ∨ tag = .f32) (hx : isPacked x = false) :
    cvtBody d b tag md ftz sat x = putFloat d (cvtOne (cvtClass x) (dstFmt tag) (tag == .s32) md ftz sat x.bits.toNat) tag := by
  rcases htag with rfl | rfl | rfl <;> simp [cvtBody, hx]

/-- A packed source gives a pair, at an even register that lies with its neighbour in the allotment. -/
theorem cvtBody_split (htag : tag = .u32 ∨ tag = .s32 ∨ tag = .f32) (hx : isPacked x = true) (hd : d % 2 = 0) {r₀ r₁ : FRes}
    (h₀ : r₀ = cvtOne (cvtClass x) (dstFmt tag) (tag == .s32) md ftz sat (cvtElem x 0))
    (h₁ : r₁ = cvtOne (cvtClass x) (dstFmt tag) (tag == .s32) md ftz sat (cvtElem x 1)) :
    cvtBody d b tag md ftz sat x = (do
      (if d != 0 then rangeCheck d 2 else pure ⟨⟩)
      addFlags (orf r₀.2 r₁.2)
      writePair d (r₀.1 + 4294967296 * r₁.1) tag tag
      pure .seq) := by
  subst h₀ h₁
  rcases htag with rfl | rfl | rfl <;> by_cases h0 : d = 0 <;> simp [cvtBody, hx, hd, h0]

theorem cvtBody_elements (htag : tag = .bf2 ∨ tag = .h2) (hx : isPacked x = true) {r₀ r₁ : FRes}
    (h₀ : r₀ = cvtOne (cvtClass x) (dstFmt tag) false md ftz false (cvtElem x 0))
    (h₁ : r₁ = cvtOne (cvtClass x) (dstFmt tag) false md ftz false (cvtElem x 1)) :
    cvtBody d 0 tag md ftz sat x = putFloat d (r₁.1 * 65536 + r₀.1, orf r₀.2 r₁.2) tag := by
  subst h₀ h₁
  rcases htag with rfl | rfl <;> simp [cvtBody, hx]

theorem cvtBody_pack (htag : tag = .bf2 ∨ tag = .h2) (hx : isPacked x = false) {r₀ : FRes} {r₁ : TWord → FRes}
    (h₀ : r₀ = cvtOne (cvtClass x) (dstFmt tag) false md ftz false (cvtElem x 0))
    (h₁ : r₁ = fun y => cvtOne (cvtClass y) (dstFmt tag) false md ftz false (cvtElem y 0)) :
    cvtBody d b tag md ftz sat x = readReg b .any >>= fun y => putFloat d ((r₁ y).1 * 65536 + r₀.1, orf r₀.2 (r₁ y).2) tag := by
  subst h₀ h₁
  rcases htag with rfl | rfl <;> simp [cvtBody, hx]

end

/-! ## Runs of registers (R219, R220) -/

theorem State.writeRun_updThread (s : State) (u : Nat) (f : Thread → Thread) (t i : Nat) (ws : List TWord) :
    (s.updThread u f).writeRun t i ws = (s.writeRun t i ws).updThread u f := by
  induction ws generalizing s i with
  | nil => rfl
  | cons w ws ih => rw [State.writeRun, State.writeReg_updThread, ih, State.writeRun]

theorem State.writeRun_threads (s : State) (t i : Nat) (ws : List TWord) : (s.writeRun t i ws).threads = s.threads := by
  induction ws generalizing s i with
  | nil => rfl
  | cons w ws ih => rw [State.writeRun, ih, State.writeReg_threads]

theorem foldl_orf (rs : List FRes) (p : Nat) : rs.foldl (fun f r => orf f r.2) p = orf p (rs.foldl (fun f r => orf f r.2) 0) := by
  induction rs generalizing p with
  | nil => simp [orf]
  | cons r rs ih =>
    rw [List.foldl_cons, List.foldl_cons, ih, ih (orf 0 r.2)]
    simp [orf, Nat.or_assoc]

theorem writeReg_run {s : State} {c : Cur} (hc : s.cur = some c) (i v : Nat) (tag : Tag) :
    writeReg i v tag s = .ok ⟨⟩ (s.writeReg c.t i ⟨BitVec.ofNat 32 v, tag⟩) := by
  simp only [writeReg, bind_run, curT_run hc, modify_run]

/-- Results written to consecutive registers, and their flags. -/
theorem writeRun_run {s : State} {c : Cur} (hc : s.cur = some c) (d : Nat) (rs : List FRes) : writeRun d rs s =
    .ok ⟨⟩ ((s.writeRun c.t d (rs.map fun r => floatWord r .f32)).updThread c.t fun y =>
      { y with pendFst := rs.foldl (fun f r => orf f r.2) y.pendFst }) := by
  induction rs generalizing s d with
  | nil => exact congrArg (EStateM.Result.ok PUnit.unit) (State.updThread_id s c.t).symm
  | cons r rs ih =>
    have hcur : ((s.updThread c.t fun y => { y with pendFst := orf y.pendFst r.2 }).writeReg c.t d (floatWord r .f32)).cur = some c :=
      (State.writeReg_cur ..).trans hc
    rw [writeRun, addFlags, bind_ok (modThread_run hc _), bind_ok (writeReg_run (s := s.updThread c.t _) hc _ _ _)]
    refine (ih hcur (d + 1)).trans ?_
    rw [State.writeReg_updThread, State.writeRun_updThread, State.updThread_updThread]
    rfl

section
variable {s : State} {c : Cur} {th : Thread} (hc : s.cur = some c) (ht : s.threads.find c.t = some th)
include hc ht

/-- A run of F32 registers read (R219). -/
theorem reads_readRun {i n : Nat} {ws : List TWord} {z m : Bool}
    (h : s.reads c.t ((List.range' i n).map fun j => (j, .f32)) = some (ws, z, m)) :
    s.Reads c.t (readRun i n) (ws.map fun w => w.bits.toNat) z m := by
  induction n generalizing i ws z m with
  | zero =>
    obtain ⟨rfl, rfl, rfl⟩ := State.reads_nil h
    exact .pure s c.t []
  | succ n ih =>
    rw [List.range'_succ, List.map_cons] at h
    obtain ⟨w, z₁, m₁, vs, z₂, m₂, h₁, h₂, rfl, rfl, rfl⟩ := State.reads_cons h
    exact (reads_readBits hc ht h₁).bind ((ih h₂).map (w.bits.toNat :: ·))

/-- A run of results written, once registers have been read. -/
theorem writeRun_done (B : AMap TWord) (z m : Bool) (d : Nat) (rs : List FRes) :
    ∃ T, (writeRun d rs >>= fun _ => (pure .seq : M Flow)) (s.reading c.t B z m) = .ok .seq T ∧
      T.done c.t = s.resultRun c.t d (rs.map fun r => floatWord r .f32) z m (rs.foldl (fun f r => orf f r.2) 0) := by
  refine ⟨_, bind_ok (writeRun_run (s := s.reading c.t B z m) hc d rs), ?_⟩
  have hflags : (fun y : Thread => { y with pendFst := rs.foldl (fun f (r : FRes) => orf f r.2) y.pendFst }) =
      fun y => { y with pendFst := orf y.pendFst (rs.foldl (fun f (r : FRes) => orf f r.2) 0) } := by
    funext y
    rw [foldl_orf rs y.pendFst]
  rw [hflags, State.reading, State.writeRun_updThread, State.resultRun, State.noted, State.writeRun_updThread, State.done]
  exact congrArg (·.advance c.t) (State.commit_reading_flags (s := s.writeRun c.t d (rs.map fun r => floatWord r .f32))
    (by rw [State.writeRun_threads]; exact ht) B z m _)

end

/-! ## CVT -/

/-- A CVT that reads what its body needs goes on as the body does. -/
theorem cvt_completes {s S : State} {t d a b k : Nat} {fs : List Field} {ex : List Nat} {gd : Guard} {tag : Tag} {rm : Rm} {sat : Bool}
    {th : Thread} {x : TWord} {z z₁ m m₁ : Bool} {rest : M Flow} (h : s.Runs t fs ex gd) (ht : s.threads.find t = some th)
    (hx : s.src t a .any = some (x, z₁, m₁)) (hfs : fs = [.r d, .r a] ++ if tag == .bf2 || tag == .h2 then [.r b] else [])
    (hex : ex = if d != 0 && d % 2 == 0 && (tag == .u32 || tag == .s32 || tag == .f32) && isPacked x then [d + 1] else [])
    (hb : s.Comes t (readReg a .any >>= cvtBody d b tag (rmMode th rm) th.ftz sat) rest z m)
    (hrest : ∀ B, ∃ T, rest (s.reading t B z m) = .ok .seq T ∧ T.done t = S) : exec (.cvt gd d a b k tag rm sat) s = .next S := by
  obtain ⟨c, -, hc, rfl, -, -, hs⟩ := h.start
  have hread : ∃ S', readReg a .any s = .ok x S' := by
    obtain ⟨B, e⟩ := (reads_readReg hc ht hx).start
    rw [hs] at e
    exact ⟨_, e⟩
  obtain ⟨S', hread⟩ := hread
  have hsplits : (if s.cvtSplits d a tag then [d + 1] else []) = ex := by
    rw [hex, State.cvtSplits, hread]
  have hthread : s.Comes c.t (thread >>= fun th => readReg a .any >>= fun x => cvtBody d b tag (rmMode th rm) th.ftz sat x) rest z m :=
    .thread h ht fun _ _ _ => hb
  obtain ⟨B, e⟩ := hthread [] false false (s.agrees_nil c.t false false)
  obtain ⟨T, hT, rfl⟩ := hrest B
  rw [hs, Bool.false_or, Bool.false_or] at e
  show execCvt gd d a b k tag rm sat s = _
  unfold execCvt
  dsimp only
  rw [hsplits, ← hfs]
  exact runCode_next (f := .seq) hc ((issueWith_runs h).trans (e.trans hT))

/-- A CVT that writes one word. -/
theorem cvt_writes_float {s : State} {t d a b k : Nat} {fs : List Field} {gd : Guard} {tag : Tag} {rm : Rm} {sat : Bool} {th : Thread}
    {x : TWord} {z z₁ m m₁ : Bool} {r : FRes} (h : s.Runs t fs [] gd) (ht : s.threads.find t = some th)
    (hx : s.src t a .any = some (x, z₁, m₁)) (hfs : fs = [.r d, .r a] ++ if tag == .bf2 || tag == .h2 then [.r b] else [])
    (hone : ((tag == .u32 || tag == .s32 || tag == .f32) && isPacked x) = false)
    (hb : s.Comes t (readReg a .any >>= cvtBody d b tag (rmMode th rm) th.ftz sat) (putFloat d r tag) z m) :
    exec (.cvt gd d a b k tag rm sat) s = .next (s.result t d (floatWord r tag) z m r.2) := by
  obtain ⟨c, -, hc, rfl, -⟩ := h.start
  refine cvt_completes h ht hx hfs ?_ hb fun B => putFloat_done hc ht B z m d r tag
  rw [Bool.and_assoc, hone, Bool.and_false]
  rfl

/-- The check of a pair that only the source's tag tells (R216). -/
theorem rangeCheck_run {s : State} {c : Cur} (hc : s.cur = some c) {i n : Nat} (hr : s.inRange c.t i n) : rangeCheck i n s = .ok ⟨⟩ s := by
  obtain ⟨g, hg, hlim⟩ := hr
  rw [rangeCheck, bind_ok (gang_run hc hg), if_neg (by omega)]
  rfl

/-- A pair of results written with its flags, once registers have been read; pair v0 discards both words (R180). -/
theorem putSplit_done {s : State} {c : Cur} {th : Thread} (hc : s.cur = some c) (ht : s.threads.find c.t = some th) {d : Nat}
    (hd : d ≠ 0 → s.inRange c.t d 2) (B : AMap TWord) (z m : Bool) (f v : Nat) (tag : Tag) :
    ∃ T, ((if d != 0 then rangeCheck d 2 else pure ⟨⟩) >>= fun _ => addFlags f >>= fun _ => writePair d v tag tag >>= fun _ =>
        (pure .seq : M Flow)) (s.reading c.t B z m) = .ok .seq T ∧
      T.done c.t = s.resultPair c.t d ⟨BitVec.ofNat 32 v, tag⟩ ⟨BitVec.ofNat 32 (v / 4294967296), tag⟩ z m f := by
  have hcur (g : Thread → Thread) : ((s.reading c.t B z m).updThread c.t g).cur = some c := hc
  have hcur' (g : Thread → Thread) (w : TWord) : (((s.reading c.t B z m).updThread c.t g).writeReg c.t d w).cur = some c :=
    (State.writeReg_cur ..).trans hc
  by_cases h0 : d = 0
  · subst h0
    refine ⟨_, bind_ok (modThread_run (s := s.reading c.t B z m) hc _), ?_⟩
    exact congrArg (·.advance c.t) (State.commit_reading_flags ht B z m f)
  · rw [if_pos (by simpa using h0), bind_ok (rangeCheck_run (s := s.reading c.t B z m) hc (hd h0)), addFlags,
      bind_ok (modThread_run (s := s.reading c.t B z m) hc _), writePair, if_neg (by simpa using h0)]
    refine ⟨_, bind_ok ((bind_ok (writeReg_run (hcur _) d v tag)).trans (writeReg_run (hcur' _ _) (d + 1) (v / 4294967296) tag)), ?_⟩
    rw [State.resultPair, if_neg h0]
    simp only [State.writeReg_updThread, State.writeReg_reading, State.writeReg_noted]
    exact congrArg (·.advance c.t) (State.commit_reading_flags
      (s := (s.writeReg c.t d ⟨BitVec.ofNat 32 v, tag⟩).writeReg c.t (d + 1) ⟨BitVec.ofNat 32 (v / 4294967296), tag⟩) (by simpa using ht) B z m f)

section
variable {s : State} {t d a b : Nat} {gd : Guard} {th : Thread} {x : TWord} {z m sat : Bool} {tag : Tag} (ht : s.threads.find t = some th)
include ht

/-- R216: a source of no number format, and a scalar of one, give one word. -/
theorem cvt_copies (h : s.Runs t [.r d, .r a] [] gd) (hx : s.src t a .any = some (x, z, m)) (k : Nat) (rm : Rm)
    (h₁ : tag ≠ .bf2) (h₂ : tag ≠ .h2) (h₃ : tag ≠ .u32) (h₄ : tag ≠ .s32) (h₅ : tag ≠ .f32) :
    exec (.cvt gd d a b k tag rm sat) s = .next (s.result t d ⟨x.bits, tag⟩ z m 0) := by
  have hw : exec (.cvt gd d a b k tag rm sat) s = .next (s.result t d (floatWord (x.bits.toNat, 0) tag) z m 0) :=
    cvt_writes_float (r := (x.bits.toNat, 0)) h ht hx (by simp [h₁, h₂]) (by simp [h₃, h₄, h₅])
      (.last (h.reg_read hx) (by rw [cvtBody_copy h₁ h₂ h₃ h₄ h₅]; exact .refl))
  rwa [floatWord, BitVec.ofNat_toNat, BitVec.setWidth_eq] at hw

theorem cvt_scalar (h : s.Runs t [.r d, .r a] [] gd) (hx : s.src t a .any = some (x, z, m)) (k : Nat) (rm : Rm)
    (htag : tag = .u32 ∨ tag = .s32 ∨ tag = .f32) (hp : isPacked x = false) :
    ∃ r, r = cvtOne (cvtClass x) (dstFmt tag) (tag == .s32) (rmMode th rm) th.ftz sat x.bits.toNat ∧
      exec (.cvt gd d a b k tag rm sat) s = .next (s.result t d (floatWord r tag) z m r.2) :=
  ⟨_, rfl, cvt_writes_float h ht hx (by rcases htag with rfl | rfl | rfl <;> rfl) (by rw [hp, Bool.and_false])
    (.last (h.reg_read hx) (by rw [cvtBody_scalar htag hp]; exact .refl))⟩

/-- R216: a packed source gives a pair of words. -/
theorem cvt_splits (h : s.Runs t [.r d, .r a] (if d = 0 then [] else [d + 1]) gd) (hx : s.src t a .any = some (x, z, m)) (k : Nat) (rm : Rm)
    (htag : tag = .u32 ∨ tag = .s32 ∨ tag = .f32) (hp : isPacked x = true) (hd : d % 2 = 0) (hr : d ≠ 0 → s.inRange t d 2) :
    ∃ r₀ r₁, r₀ = cvtOne (cvtClass x) (dstFmt tag) (tag == .s32) (rmMode th rm) th.ftz sat (cvtElem x 0) ∧
      r₁ = cvtOne (cvtClass x) (dstFmt tag) (tag == .s32) (rmMode th rm) th.ftz sat (cvtElem x 1) ∧
      exec (.cvt gd d a b k tag rm sat) s = .next (s.resultPair t d ⟨BitVec.ofNat 32 (r₀.1 + 4294967296 * r₁.1), tag⟩
        ⟨BitVec.ofNat 32 ((r₀.1 + 4294967296 * r₁.1) / 4294967296), tag⟩ z m (orf r₀.2 r₁.2)) := by
  obtain ⟨c, -, hc, rfl, -⟩ := h.start
  refine ⟨_, _, rfl, rfl, cvt_completes h ht hx ?_ ?_ (.last (reads_readReg hc ht hx) ?_) fun B => putSplit_done hc ht hr B z m _ _ tag⟩
  · rcases htag with rfl | rfl | rfl <;> rfl
  · rcases htag with rfl | rfl | rfl <;> by_cases h0 : d = 0 <;> simp [h0, hd, hp]
  · rw [cvtBody_split htag hp hd rfl rfl]
    exact .refl

/-- R216: a packed result, of a packed source element by element. -/
theorem cvt_elements (h : s.Runs t [.r d, .r a, .r 0] [] gd) (hx : s.src t a .any = some (x, z, m)) (k : Nat) (rm : Rm)
    (htag : tag = .bf2 ∨ tag = .h2) (hp : isPacked x = true) :
    ∃ r₀ r₁, r₀ = cvtOne (cvtClass x) (dstFmt tag) false (rmMode th rm) th.ftz false (cvtElem x 0) ∧
      r₁ = cvtOne (cvtClass x) (dstFmt tag) false (rmMode th rm) th.ftz false (cvtElem x 1) ∧
      exec (.cvt gd d a 0 k tag rm sat) s = .next (s.result t d ⟨BitVec.ofNat 32 (r₁.1 * 65536 + r₀.1), tag⟩ z m (orf r₀.2 r₁.2)) :=
  ⟨_, _, rfl, rfl, cvt_writes_float (r := (_, _)) h ht hx (by rcases htag with rfl | rfl <;> rfl) (by rcases htag with rfl | rfl <;> rfl)
    (.last (h.reg_read hx) (by rw [cvtBody_elements htag hp rfl rfl]; exact .refl))⟩

/-- R216: a packed result, of two sources. -/
theorem cvt_packs {y : TWord} (h : s.Runs t [.r d, .r a, .r b] [] gd) (hr : s.reads t [(a, .any), (b, .any)] = some ([x, y], z, m)) (k : Nat)
    (rm : Rm) (htag : tag = .bf2 ∨ tag = .h2) (hp : isPacked x = false) :
    ∃ r₀ r₁, r₀ = cvtOne (cvtClass x) (dstFmt tag) false (rmMode th rm) th.ftz false (cvtElem x 0) ∧
      r₁ = cvtOne (cvtClass y) (dstFmt tag) false (rmMode th rm) th.ftz false (cvtElem y 0) ∧
      exec (.cvt gd d a b k tag rm sat) s = .next (s.result t d ⟨BitVec.ofNat 32 (r₁.1 * 65536 + r₀.1), tag⟩ z m (orf r₀.2 r₁.2)) := by
  obtain ⟨z₁, m₁, z₂, m₂, hx, hy, rfl, rfl⟩ := State.reads_two hr
  exact ⟨_, _, rfl, rfl, cvt_writes_float (r := (_, _)) h ht hx (by rcases htag with rfl | rfl <;> rfl) (by rcases htag with rfl | rfl <;> rfl)
    (.read (h.reg_read hx) (by rw [cvtBody_pack htag hp rfl rfl]; exact .last (h.reg_read hy) .refl))⟩

end

/-! ## Narrow integers (R218 to R220) -/

section
variable {s : State} {t d a b c : Nat} {gd : Guard} {th : Thread} {sc e : TWord} {z m n4 : Bool}

/-- R219: QPACK reads its base, its exponent and its run, and packs the run, or nothing where the base is no base. -/
theorem qpack_writes {xs : List TWord} (ht : s.threads.find t = some th) (h : s.Runs t [.r d, .range a (narrowCount n4), .r b, .r c] [] gd)
    (hr : s.reads t ([(b, .f32), (c, .int)] ++ (List.range' a (narrowCount n4)).map fun i => (i, .f32)) = some (sc :: e :: xs, z, m))
    (k : Nat) (rm : Rm) : exec (.qpack gd d a b c k rm n4) s =
      (let tg : Tag := if n4 then .q4 else .q8
       if validBase sc.bits.toNat then
         let rs := xs.map fun v => qpackOne (rmMode th rm) th.ftz (if n4 then -8 else -128) (if n4 then 7 else 127) sc.bits.toNat
           (e.bits.toNat % 16) v.bits.toNat
         .next (s.result t d ⟨BitVec.ofNat 32 (packNarrow n4 (rs.map (·.1))), tg⟩ z m (rs.foldl (fun f r => orf f r.2) 0))
       else .next (s.result t d ⟨0, tg⟩ z m fInvalid)) := by
  obtain ⟨sc', z₁, m₁, ws, z', m', hsc, hrest, hws, rfl, rfl⟩ := State.reads_cons hr
  obtain ⟨rfl, rfl⟩ := List.cons.inj hws
  obtain ⟨e', z₂, m₂, ws, z₃, m₃, he, hrun, hws, rfl, rfl⟩ := State.reads_cons hrest
  obtain ⟨rfl, rfl⟩ := List.cons.inj hws
  obtain ⟨cur, -, hc, rfl, -⟩ := h.start
  have hxs := reads_readRun hc ht hrun
  by_cases hv : validBase sc.bits.toNat = true
  · dsimp only
    rw [if_pos hv]
    refine code_writes_float (r := (_, _)) h (.thread h ht fun _ _ _ => .read (h.bits_read hsc) (.read (h.nat_read he) (.last hxs ?_)))
    dsimp only
    rw [if_pos hv]
    cases n4 <;> simp only [List.map_map] <;> exact .refl
  · dsimp only
    rw [if_neg hv]
    refine code_writes_float (r := (0, fInvalid)) h (.thread h ht fun _ _ _ => .read (h.bits_read hsc) (.read (h.nat_read he) (.last hxs ?_)))
    dsimp only
    rw [if_neg hv]
    exact .refl

/-- R220: QUNPK writes each element scaled, or NaNs where the base is no base. -/
theorem qunpk_writes {x : TWord} (h : s.Runs t [.range d (narrowCount n4), .r a, .r b, .r c] [] gd)
    (hr : s.reads t [(a, if n4 then .q4 else .q8), (b, .f32), (c, .int)] = some ([x, sc, e], z, m)) (k : Nat) :
    ∃ rs : List FRes, rs = ((List.range (narrowCount n4)).map fun i =>
        if validBase sc.bits.toNat then qunpkOne sc.bits.toNat (e.bits.toNat % 16) (narrowElem n4 x.bits.toNat i) else (Fmt.f32.nan, fInvalid)) ∧
      exec (.qunpk gd d a b c k n4) s =
        .next (s.resultRun t d (rs.map fun r => floatWord r .f32) z m (rs.foldl (fun f r => orf f r.2) 0)) := by
  obtain ⟨z₁, m₁, z₂, m₂, z₃, m₃, hx, hsc, he, rfl, rfl⟩ := State.reads_three hr
  obtain ⟨cur, th, hc, rfl, ht, -⟩ := h.start
  exact ⟨_, rfl, code_comes h (.read (h.bits_read hx) (.read (h.bits_read hsc) (.last (h.nat_read he) .refl))) fun B => writeRun_done hc ht B _ _ d _⟩

end

/-- Settles O7: CVT by the shapes of its source and result, QPACK and QUNPK by their runs, the tags by one read and one write. -/
theorem conversions : Obligations.Conversions := by
  unfold Obligations.Conversions
  intro s t gd d a b c k rm tag sat n4 x y sc e xs z m th ht
  refine ⟨fun h hr => ⟨fun h₁ h₂ h₃ h₄ h₅ => cvt_copies ht h (State.reads_one hr) k rm h₁ h₂ h₃ h₄ h₅,
      fun htag hp => cvt_scalar ht h (State.reads_one hr) k rm htag hp⟩,
    fun h hr htag hp hd hin => cvt_splits ht h (State.reads_one hr) k rm htag hp hd hin, ?elements,
    fun h hr htag hp => cvt_packs ht h hr k rm htag hp, fun h hr => qpack_writes ht h hr k rm, fun h hr => qunpk_writes h hr k,
    fun h hr => ⟨?tagq, ?tags⟩⟩
  case elements =>
    rintro h hr htag hp rfl
    exact cvt_elements ht h (State.reads_one hr) k rm htag hp
  case tagq => exact code_writes_word h (.last (h.reg_read (State.reads_one hr)) .refl) (BitVec.ofInt_natCast ..)
  case tags =>
    refine code_writes_word h (.last (h.reg_read (State.reads_one hr)) .refl) ?_
    rw [BitVec.ofInt_natCast, BitVec.ofNat_toNat, BitVec.setWidth_eq]

end Sys2Proof.Machine

end

section
/-! LAWS. The obligation on health, where an error counter holds more than its 16 bits. -/

namespace Sys2Proof.Machine

open Sys2Proof

/-- A device whose die 0 has counted 65,536 errors in counter 4 of ECNT, one more than its 16 bits hold, and whose L2 has no error. -/
def counterPast : State :=
  { State.reset with dies := [(0, { Die.init with ecnt := [0, 0, 0, 0, 65536, 0, 0, 0] })] }

/-- A scrub counts no error of an L2 that has none: the counter stands as it is, not cut to its width. -/
theorem counterPast_scrubbed : ∃ S, exec (.scrubbing 0) counterPast = .next S ∧ (S.die 0).ecnt.getD 4 0 = 65536 := ⟨_, rfl, by decide⟩

/-- Refutes O52: a scrub of a die without a correctable error in its L2 performs no count in counter 4 of ECNT (`State.ecountL2` counts error
by error), so that a counter above 65,535 stays there, where the statement cuts it to 65,535. `State.ecount` leaves no counter above
65,535, but the statement takes any state, and asks for eight counters alone. -/
theorem not_health : ¬ Obligations.Health := by
  unfold Obligations.Health
  intro h
  obtain ⟨-, -, -, -, -, -, -, -, -, -, -, -, S, hS, -, -, -, hcounts⟩ :=
    h counterPast 0 0 0 0 0 0 0 0 .normal _ placedGang false rfl (by decide)
  obtain ⟨T, hT, hcount⟩ := counterPast_scrubbed
  obtain rfl : T = S := Host.Outcome.next.inj (hT.symm.trans hS)
  obtain ⟨-, -, hcut, -⟩ := hcounts rfl
  rw [hcount] at hcut
  exact absurd hcut (by decide)

end Sys2Proof.Machine

end

section
/-! LAWS. Rows of the operand store (11_allocation R230 to R236, R242; 19_health R401): the bytes of a row, what a write of bytes leaves at
each place, what a read does, and the obligation. -/

namespace Sys2Proof.Machine

open Sys2Proof

/-! ## The bytes of a row -/

/-- A bit of a byte of a row is a bit of its word. -/
theorem Row.getLsbD_byte (r : Row) (o : Nat) {j : Nat} (hj : j < 8) :
    (r.byte o).getLsbD j = (r.word (o / 4)).bits.getLsbD (8 * (o % 4) + j) := by
  rw [Row.byte, BitVec.getLsbD_ofNat, decide_eq_true hj, Bool.true_and, Nat.testBit_div_two_pow, Nat.add_comm]
  rfl

theorem Row.word_setByte (r : Row) (o k : Nat) (b : Byte) : (r.setByte o b).word k = if k = o / 4 then
    ⟨BitVec.ofNat 32 (setBits (r.word (o / 4)).bits.toNat (8 * (o % 4) + 7) (8 * (o % 4)) b.toNat), .raw⟩ else r.word k := by
  rw [Row.setByte, Row.word, AMap.find_put]
  split
  · rfl
  · rfl

/-- A byte written is read back, and the others of the row stand. -/
theorem Row.byte_setByte (r : Row) (o o' : Nat) (b : Byte) : (r.setByte o b).byte o' = if o' = o then b else r.byte o' := by
  apply BitVec.eq_of_getLsbD_eq
  intro j hj
  rw [Row.getLsbD_byte _ _ hj, Row.word_setByte]
  by_cases hw : o' / 4 = o / 4
  · have hfield : 8 * (o % 4) + 7 = 8 * (o % 4) + 8 - 1 := rfl
    have hbit : decide (8 * (o' % 4) + j < 32) = true := decide_eq_true (by omega)
    rw [if_pos hw, BitVec.getLsbD_ofNat, hbit, Bool.true_and, hfield, testBit_setBits _ _ _ _ (by decide)]
    by_cases ho : o' = o
    · subst ho
      rw [if_pos (by omega), if_pos rfl, Nat.add_sub_cancel_left]
      rfl
    · rw [if_neg (by omega), if_neg ho, Row.getLsbD_byte _ _ hj, hw]
      rfl
  · rw [if_neg hw, if_neg (fun h => hw (congrArg (· / 4) h)), Row.getLsbD_byte _ _ hj]

/-! ## One byte of a write (R235) -/

@[simp] theorem Alloc.row_setRow (a : Alloc) (n m : Nat) (r : Row) : (a.setRow n r).row m = if m = n then r else a.row m := by
  rw [Alloc.setRow, Alloc.row, AMap.find_put]
  split
  · rfl
  · rfl

/-- The row that a write finds; one that it has not written to yet is cleared if it has expired or its metadata is bad. -/
def Alloc.rowFound (a : Alloc) (tick n : Nat) (seen : List Nat) : Row :=
  if n ∈ seen then a.row n else if a.expired (a.row n) tick || (a.row n).badMeta then Row.fresh tick else a.row n

/-- The row with byte `o` written in a tick. -/
def Row.stampByte (r : Row) (tick o : Nat) (b : Byte) : Row :=
  { r.setByte o b with
    stamp := tick, expMark := false, bad := setBit (r.setByte o b).bad (o / 4) false, soft := setBit (r.setByte o b).soft (o / 4) false }

theorem writePlaces_cons (a : Alloc) (tick n o : Nat) (ps : List (Nat × Nat)) (b : Byte) (bs : List Byte) (seen : List Nat) :
    writePlaces a tick ((n, o) :: ps) (b :: bs) seen =
      writePlaces (a.setRow n ((a.rowFound tick n seen).stampByte tick o b)) tick ps bs (n :: seen) := rfl

theorem Row.byte_stampByte (r : Row) (tick o o' : Nat) (b : Byte) : (r.stampByte tick o b).byte o' = if o' = o then b else r.byte o' :=
  r.byte_setByte o o' b

/-- A row just written has not expired. -/
theorem Alloc.expired_stampByte (a : Alloc) (r : Row) (tick o : Nat) (b : Byte) : a.expired (r.stampByte tick o b) tick = false := by
  simp [Alloc.expired, Row.stampByte]

/-! ## A write at places -/

/-- A read at place `p` gives byte `b`, of a row that has not expired. -/
def Alloc.Holds (a : Alloc) (tick : Nat) (p : Nat × Nat) (b : Byte) : Prop := a.expired (a.row p.1) tick = false ∧ (a.row p.1).byte p.2 = b

/-- A byte stands through a write elsewhere, in its row or in others, once its row has been written to. -/
theorem Alloc.Holds.writePlaces {a : Alloc} {tick : Nat} {p : Nat × Nat} {b : Byte} (h : a.Holds tick p b) {seen : List Nat} (hp : p.1 ∈ seen)
    {ps : List (Nat × Nat)} (hps : p ∉ ps) (bs : List Byte) : (Machine.writePlaces a tick ps bs seen).Holds tick p b := by
  induction ps generalizing a bs seen with
  | nil => exact h
  | cons q ps ih =>
    cases bs with
    | nil => exact h
    | cons c bs =>
      obtain ⟨n, o⟩ := q
      obtain ⟨hne, hps⟩ := not_or.mp (List.mem_cons.not.mp hps)
      obtain ⟨hex, hb⟩ := h
      rw [writePlaces_cons]
      refine ih ?_ (List.mem_cons_of_mem n hp) hps bs
      by_cases hn : p.1 = n
      · have ho : p.2 ≠ o := fun ho => hne (Prod.ext hn ho)
        have hfound : a.rowFound tick n seen = a.row p.1 := by rw [Alloc.rowFound, if_pos (hn ▸ hp), hn]
        rw [Alloc.Holds, Alloc.row_setRow, if_pos hn, hfound, Row.byte_stampByte, if_neg ho]
        exact ⟨Alloc.expired_stampByte .., hb⟩
      · rw [Alloc.Holds, Alloc.row_setRow, if_neg hn]
        exact ⟨hex, hb⟩

/-- R235: the bytes written at places that differ are read back. -/
theorem readPlaces_writePlaces {ps : List (Nat × Nat)} (hps : ps.Nodup) {bs : List Byte} (hlen : ps.length = bs.length) (a : Alloc) (tick : Nat)
    (seen : List Nat) : readPlaces (writePlaces a tick ps bs seen) tick ps = bs := by
  induction ps generalizing a bs seen with
  | nil => exact (List.eq_nil_of_length_eq_zero hlen.symm).symm
  | cons p ps ih =>
    cases bs with
    | nil => simp at hlen
    | cons b bs =>
      obtain ⟨n, o⟩ := p
      obtain ⟨hp, hps⟩ := List.nodup_cons.mp hps
      have hhold : (a.setRow n ((a.rowFound tick n seen).stampByte tick o b)).Holds tick (n, o) b := by
        rw [Alloc.Holds, Alloc.row_setRow, if_pos rfl, Row.byte_stampByte, if_pos rfl]
        exact ⟨Alloc.expired_stampByte .., rfl⟩
      obtain ⟨hex, hb⟩ := hhold.writePlaces (seen := n :: seen) List.mem_cons_self hp bs
      rw [writePlaces_cons, readPlaces, List.map_cons]
      congr 1
      · exact (if_neg (by simp [hex])).trans hb
      · exact ih hps (by simpa using hlen) _ _

/-- A write keeps the class, the lifetime and the pages of its allocation, and the rows that it has no place in. -/
theorem writePlaces_keeps (a : Alloc) (tick : Nat) (ps : List (Nat × Nat)) (bs : List Byte) (seen : List Nat) :
    let a' := writePlaces a tick ps bs seen
    (∀ r, (∀ p ∈ ps, p.1 ≠ r) → a'.row r = a.row r) ∧ a'.cls = a.cls ∧ a'.life = a.life ∧ a'.pages = a.pages := by
  induction ps generalizing a bs seen with
  | nil => exact ⟨fun _ _ => rfl, rfl, rfl, rfl⟩
  | cons p ps ih =>
    cases bs with
    | nil => exact ⟨fun _ _ => rfl, rfl, rfl, rfl⟩
    | cons b bs =>
      obtain ⟨n, o⟩ := p
      rw [writePlaces_cons]
      obtain ⟨hrow, hcls, hlife, hpages⟩ := ih (a.setRow n ((a.rowFound tick n seen).stampByte tick o b)) bs (n :: seen)
      refine ⟨fun r hr => ?_, hcls, hlife, hpages⟩
      rw [hrow r fun p hp => hr p (List.mem_cons_of_mem _ hp), Alloc.row_setRow, if_neg (hr (n, o) List.mem_cons_self).symm]

/-! ## The places of a range (Table 11.1) -/

theorem placesIn_length (h : Home) (lane off n : Nat) : (placesIn h lane off n).length = n := by
  cases h <;> simp [placesIn, places]

/-- The bytes of a range lie at different places. -/
theorem placesIn_nodup (h : Home) (lane off n : Nat) : (placesIn h lane off n).Nodup := by
  have hscratch : (places false lane off n).Nodup := List.Nodup.map (fun i j hij => by
    obtain ⟨hrow, hoff⟩ := Prod.mk.inj hij
    omega) List.nodup_range
  have hstack : (places true lane off n).Nodup := List.Nodup.map (fun i j hij => by
    obtain ⟨hrow, hoff⟩ := Prod.mk.inj hij
    omega) List.nodup_range
  cases h with
  | stack g => exact hstack
  | scratch g => exact hscratch
  | window i => exact hscratch

/-- The row of a byte of a range. -/
theorem row_of_mem_placesIn {h : Home} {lane off n : Nat} {p : Nat × Nat} (hp : p ∈ placesIn h lane off n) :
    ∃ i, i < n ∧ p.1 = (off + i) / rowStep h := by
  cases h with
  | stack _ | scratch _ | window _ =>
    obtain ⟨i, hi, rfl⟩ := List.mem_map.mp hp
    exact ⟨i, List.mem_range.mp hi, rfl⟩

/-- A row below or above a range has no byte of it. -/
theorem row_ne_of_mem_placesIn {h : Home} {lane off n r : Nat} (hr : r < off / rowStep h ∨ (off + n + rowStep h - 1) / rowStep h ≤ r)
    {p : Nat × Nat} (hp : p ∈ placesIn h lane off n) : p.1 ≠ r := by
  obtain ⟨i, hi, he⟩ := row_of_mem_placesIn hp
  rw [he]
  cases h <;> simp only [rowStep] at hr ⊢ <;> omega

/-! ## Correctable errors (R401) -/

/-- The bits of a number without those of a mask. -/
theorem testBit_sub_and (x y i : Nat) : (x - (x &&& y)).testBit i = (x.testBit i && !y.testBit i) := by
  induction i generalizing x y with
  | zero =>
    have hle : x &&& y ≤ x := Nat.and_le_left
    have hlow := Nat.and_mod_two_eq_one (a := x) (b := y)
    rw [Bool.eq_iff_iff]
    simp only [Nat.testBit_zero, decide_eq_true_eq, Bool.and_eq_true, Bool.not_eq_true', decide_eq_false_iff_not]
    omega
  | succ i ih =>
    have hle : x / 2 &&& y / 2 ≤ x / 2 := Nat.and_le_left
    have hhalf : (x - (x &&& y)) / 2 = x / 2 - (x / 2 &&& y / 2) := by
      have hdiv := Nat.and_div_two (a := x) (b := y)
      have hlow := Nat.and_mod_two_eq_one (a := x) (b := y)
      omega
    rw [Nat.testBit_succ, hhalf, ih, ← Nat.testBit_succ, ← Nat.testBit_succ]

/-- The allocation with some words of one row corrected. -/
def Alloc.cureWords (a : Alloc) (m : Nat × Nat) : Alloc := a.cure [m]

theorem Alloc.cure_cons (a : Alloc) (m : Nat × Nat) (ms : List (Nat × Nat)) : a.cure (m :: ms) = (a.cureWords m).cure ms := rfl

/-- Correcting words of a row takes their marks out of it. -/
theorem Alloc.row_cureWords (a : Alloc) (m : Nat × Nat) (r : Nat) :
    (a.cureWords m).row r = if r = m.1 then { a.row r with soft := (a.row r).soft - Nat.land (a.row r).soft m.2 } else a.row r := by
  obtain ⟨n, k⟩ := m
  by_cases hnone : Nat.land (a.row n).soft k = 0
  · have hsame : a.cureWords (n, k) = a := if_pos (by simpa using hnone)
    rw [hsame]
    split
    · next hr => rw [hr, hnone, Nat.sub_zero]
    · rfl
  · have hset : a.cureWords (n, k) = a.setRow n { a.row n with soft := (a.row n).soft - Nat.land (a.row n).soft k } :=
      if_neg (by simpa using hnone)
    rw [hset, Alloc.row_setRow]
    split
    · next hr => rw [hr]
    · rfl

/-- Correcting words changes no allocation but in the marks of its rows. -/
theorem Alloc.cure_keeps (a : Alloc) (ms : List (Nat × Nat)) :
    (a.cure ms).cls = a.cls ∧ ∀ r, (a.cure ms).row r = { a.row r with soft := ((a.cure ms).row r).soft } := by
  induction ms generalizing a with
  | nil => exact ⟨rfl, fun _ => rfl⟩
  | cons m ms ih =>
    obtain ⟨hcls, hrow⟩ := ih (a.cureWords m)
    have hone : (a.cureWords m).cls = a.cls := by
      unfold Alloc.cureWords Alloc.cure Alloc.cure
      split <;> rfl
    refine ⟨hcls.trans hone, fun r => ?_⟩
    rw [Alloc.cure_cons, hrow, Alloc.row_cureWords]
    split <;> rfl

/-- The words still marked are those marked before that no mask names. -/
theorem Alloc.soft_cure (a : Alloc) (ms : List (Nat × Nat)) (r i : Nat) :
    ((a.cure ms).row r).soft.testBit i = ((a.row r).soft.testBit i && !ms.any fun m => r == m.1 && m.2.testBit i) := by
  induction ms generalizing a with
  | nil => simp [Alloc.cure]
  | cons m ms ih =>
    rw [Alloc.cure_cons, ih, Alloc.row_cureWords, List.any_cons, Bool.not_or, ← Bool.and_assoc]
    by_cases hr : r = m.1
    · have hbit : ((a.row r).soft - Nat.land (a.row r).soft m.2).testBit i = _ := testBit_sub_and _ _ i
      rw [if_pos hr, hbit, beq_iff_eq.mpr hr, Bool.true_and]
    · rw [if_neg hr, beq_eq_false_iff_ne.mpr hr, Bool.false_and, Bool.not_false, Bool.and_true]

/-- Corrected words hold no correctable error. -/
theorem Alloc.softAt_cure (a : Alloc) (ms : List (Nat × Nat)) : (a.cure ms).softAt ms = false := by
  rw [Alloc.softAt, List.any_eq_false]
  intro m hm
  have hnone : ((a.cure ms).row m.1).soft &&& m.2 = 0 := by
    refine Nat.eq_of_testBit_eq fun i => ?_
    rw [Nat.testBit_and, Alloc.soft_cure, Nat.zero_testBit]
    cases hi : m.2.testBit i with
    | false => rw [Bool.and_false]
    | true =>
      have hany : (ms.any fun k => m.1 == k.1 && k.2.testBit i) = true := List.any_eq_true.mpr ⟨m, hm, by simp [hi]⟩
      rw [hany, Bool.not_true, Bool.and_false, Bool.false_and]
  simpa using hnone

theorem State.setAllocAt_dies (s : State) (h : Home) (al : Alloc) : (s.setAllocAt h al).dies = s.dies := by
  cases h <;> rfl

/-- An allocation that has been replaced. -/
theorem State.allocAt_setAllocAt {s : State} {h : Home} {al : Alloc} (ha : s.allocAt h = some al) (al' : Alloc) :
    (s.setAllocAt h al').allocAt h = some al' := by
  cases h with
  | scratch g | stack g =>
    obtain ⟨x, hx, -⟩ := Option.map_eq_some_iff.mp ha
    simp [State.setAllocAt, State.allocAt, hx]
  | window i =>
    obtain ⟨x, hx, -⟩ := Option.bind_eq_some_iff.mp ha
    simp [State.setAllocAt, State.allocAt, hx]

/-- R401: a counter of a die after errors are counted in it. -/
theorem State.ecount_counts {s : State} {d i : Nat} {x : Die} (hx : s.dies.find d = some x) (hi : i < x.ecnt.length) (k : Nat) :
    ((s.ecount d i k).die d).ecnt.getD i 0 = min (x.ecnt.getD i 0 + k) 65535 := by
  have hdie : (s.ecount d i k).die d = { x with ecnt := x.ecnt.set i (satAdd (x.ecnt.getD i 0) k 16) } := by
    simp [State.die, State.ecount, hx]
  rw [hdie]
  simp [satAdd, hi]

section
variable {s : State} {h : Home} {al : Alloc} {ms : List (Nat × Nat)} (ha : s.allocAt h = some al)
include ha

theorem State.cureRows_hard (core : Nat) (hq : al.softAt ms = false) : s.cureRows core h ms = s := by
  simp [State.cureRows, ha, hq]

theorem State.cureRows_soft (core : Nat) (hq : al.softAt ms = true) : s.cureRows core h ms =
    (s.setAllocAt h (al.cure ms)).ecount (dieOfCore core) 0 (al.softCount - (al.cure ms).softCount) := by
  simp [State.cureRows, ha, hq]

theorem State.allocAt_cureRows (core : Nat) (hq : al.softAt ms = true) : (s.cureRows core h ms).allocAt h = some (al.cure ms) := by
  rw [State.cureRows_soft ha core hq, ← State.allocAt_setAllocAt ha (al.cure ms)]
  cases h <;> rfl

/-- R401: what a read corrects is counted in its core's die. -/
theorem State.cureRows_counts {core : Nat} {x : Die} (hq : al.softAt ms = true) (hx : s.dies.find (dieOfCore core) = some x)
    (hlen : x.ecnt.length = 8) : ((s.cureRows core h ms).die (dieOfCore core)).ecnt.getD 0 0 =
      min (x.ecnt.getD 0 0 + (al.softCount - (al.cure ms).softCount)) 65535 := by
  rw [State.cureRows_soft ha core hq]
  exact State.ecount_counts (by rw [State.setAllocAt_dies, hx]) (by omega) _

end

/-! ## Reads and writes of bytes (R232, R234, R235, R242) -/

theorem State.cureRows_keeps (s : State) (core : Nat) (h : Home) (ms : List (Nat × Nat)) :
    (s.cureRows core h ms).cur = s.cur ∧ (s.cureRows core h ms).threads = s.threads := by
  unfold State.cureRows
  split
  · split
    · exact s.setAllocAt_keeps h _
    · exact ⟨rfl, rfl⟩
  · exact ⟨rfl, rfl⟩

theorem State.cureRows_updThread (s : State) (t : Nat) (f : Thread → Thread) (core : Nat) (h : Home) (ms : List (Nat × Nat)) :
    (s.updThread t f).cureRows core h ms = (s.cureRows core h ms).updThread t f := by
  simp only [State.cureRows, State.allocAt_updThread, State.setAllocAt_updThread]
  split
  · split <;> rfl
  · rfl

/-- One operation after another that answers nothing of use. -/
theorem turns_then {α β : Type} {s S S' : State} {t : Nat} {m : M α} {op : M β} {a : α} {r : β} {z z' : Bool} (h : s.Turns S t m a z)
    (h' : S.Turns S' t op r z') : s.Turns S' t (m >>= fun _ => op) r (z || z') := turns_bind h h'

/-- What a read of bytes does once no row's metadata is found bad. -/
def readBytes (h : Home) (al : Alloc) (tick core a : Nat) (ps : List (Nat × Nat)) : M Nat :=
  let sc := scanPlaces al tick ps 0
  match sc.expired with
  | some i => trap .expired (a + i)
  | none =>
    match sc.memerr with
    | some i => rowError (a + i)
    | none => do
      if sc.lapse then setLapf
      modify fun s => s.cureRows core h (wordsAt ps)
      pure (leNat (readPlaces al tick ps))

theorem readBytes_expired {h : Home} {al : Alloc} {tick core a i : Nat} {ps : List (Nat × Nat)} (hs : (scanPlaces al tick ps 0).expired = some i) :
    readBytes h al tick core a ps = trap .expired (a + i) := by
  simp only [readBytes, hs]

theorem readBytes_memerr {h : Home} {al : Alloc} {tick core a i : Nat} {ps : List (Nat × Nat)} (hs : (scanPlaces al tick ps 0).expired = none)
    (he : (scanPlaces al tick ps 0).memerr = some i) : readBytes h al tick core a ps = rowError (a + i) := by
  simp only [readBytes, hs, he]

section
variable {s : State} {c : Cur} (hc : s.cur = some c)
include hc

/-- R401, R402: an uncorrectable error is counted, and MEMERR raised. -/
theorem rowError_run {α : Type} (v : Nat) : (rowError v : M α) s = .error (.memerr v) (s.ecount (dieOfCore (coreOf c.t)) 1 1) := by
  rw [rowError, bind_ok (curT_run hc), bind_ok (modify_run _ s), throw_run]

/-- R242: an access that meets a row with bad metadata. -/
theorem meetAt_struck {h : Home} {al : Alloc} {ps : List (Nat × Nat)} {i : Nat} (hi : al.struckAt s.curNo ps = some i) (f : Nat → Nat) :
    meetAt h al ps f s = .error (.memerr (f i)) ((s.setAllocAt h (al.meet s.curNo ps)).ecount (dieOfCore (coreOf c.t)) 1 1) := by
  simp only [meetAt, bind_run, get_run, hi, modify_run]
  exact rowError_run ((s.setAllocAt_keeps h _).1.trans hc) (f i)

/-- The read goes through where no row is expired and trapping, and no word is uncorrectable. -/
theorem turns_readBytes (h : Home) {al : Alloc} {tick : Nat} (core a : Nat) {ps : List (Nat × Nat)} (hs : (scanPlaces al tick ps 0).expired = none)
    (he : (scanPlaces al tick ps 0).memerr = none) : s.Turns (s.cureRows core h (wordsAt ps)) c.t (readBytes h al tick core a ps)
      (leNat (readPlaces al tick ps)) (scanPlaces al tick ps 0).lapse := by
  obtain ⟨hcur, hth⟩ := s.cureRows_keeps core h (wordsAt ps)
  have hcure := turns_modify (g := fun s => s.cureRows core h (wordsAt ps)) hcur hth fun f => s.cureRows_updThread c.t f core h (wordsAt ps)
  have hread := turns_then hcure (turns_pure _ c.t (leNat (readPlaces al tick ps)))
  rw [readBytes]
  simp only [hs, he]
  split
  · next hl =>
    rw [hl]
    exact turns_then (turns_setLapf hc) hread
  · next hl =>
    rw [Bool.eq_false_of_not_eq_true hl]
    exact hread

variable {g : Gang} (hg : s.gangs.find (gidOf c.t) = some g) {h : Home} {al : Alloc} (ha : s.allocAt h = some al) (off n a : Nat)
include hg ha

theorem readRow_eq : readRow h off n a s = (meetRows h al (placesIn h (laneOf c.t) off n) a >>= fun _ =>
    readBytes h al (s.tickOf g.ctx) (coreOf c.t) a (placesIn h (laneOf c.t) off n)) s := by
  rw [readRow, bind_ok (curT_run hc), bind_ok (gives_now hc hg).run_unread, bind_ok (get_run s), ha]
  rfl

/-- A read of rows whose metadata is good. -/
theorem readRow_met (hz : al.struckAt s.curNo (placesIn h (laneOf c.t) off n) = none) : readRow h off n a s =
    readBytes h al (s.tickOf g.ctx) (coreOf c.t) a (placesIn h (laneOf c.t) off n) s := by
  rw [readRow_eq hc hg ha, bind_ok (gives_meetRows (h := h) c.t a hz).run_unread]

/-- R232, R401: a read of bytes whose rows have no failure answers them, notes a lapse and corrects what it reads. -/
theorem turns_readRow (hz : al.struckAt s.curNo (placesIn h (laneOf c.t) off n) = none)
    (hs : (scanPlaces al (s.tickOf g.ctx) (placesIn h (laneOf c.t) off n) 0).expired = none)
    (he : (scanPlaces al (s.tickOf g.ctx) (placesIn h (laneOf c.t) off n) 0).memerr = none) :
    s.Turns (s.cureRows (coreOf c.t) h (wordsAt (placesIn h (laneOf c.t) off n))) c.t (readRow h off n a)
      (leNat (readPlaces al (s.tickOf g.ctx) (placesIn h (laneOf c.t) off n)))
      (scanPlaces al (s.tickOf g.ctx) (placesIn h (laneOf c.t) off n) 0).lapse := by
  have hbytes := turns_readBytes hc h (coreOf c.t) a hs he
  obtain ⟨hcur, hth, hrun⟩ := id hbytes
  refine ⟨hcur, hth, fun f hf => ?_⟩
  rw [readRow_met (s := s.updThread c.t f) hc hg (by rw [State.allocAt_updThread, ha]) off n a hz]
  exact hrun f hf

end

/-- Settles O22: bytes by the places they lie in, reads by what `readBytes` meets first, corrections by `Alloc.cure`. -/
theorem rowAccesses : Obligations.RowAccesses := by
  unfold Obligations.RowAccesses
  refine ⟨?bytes, ?accesses, ?errors⟩
  case bytes =>
    intro al tick off n v lane h
    obtain ⟨hrow, hkept⟩ := writePlaces_keeps al tick (placesIn h lane off n) (leBytes n v) []
    refine ⟨readPlaces_writePlaces (placesIn_nodup h lane off n) (by rw [placesIn_length, leBytes_length]) al tick [], fun r hr => ?_, hkept⟩
    exact hrow r fun p hp => row_ne_of_mem_placesIn hr hp
  case accesses =>
    intro s c th g h off n a v al hc ht hg ha tick ps part sc hit
    refine ⟨fun i hi => ?_, fun i hi hs he => ?_, turns_readRow hc hg ha off n a, fun i hi hs => ?_, turns_writeRow_lapse hc hg ha⟩
    · rw [readRow_eq hc hg ha, bind_run, meetRows, meetAt_struck hc hi]
    · rw [readRow_met hc hg ha off n a hi, readBytes_memerr hs he]
      exact rowError_run hc (a + i)
    · rw [readRow_met hc hg ha off n a hi, readBytes_expired hs]
      rfl
  case errors =>
    intro s core h al ms x ha
    refine ⟨State.cureRows_hard ha core, fun hq hx hlen => ⟨State.cureRows_counts ha hq hx hlen, al.cure ms, State.allocAt_cureRows ha core hq,
      al.softAt_cure ms, (al.cure_keeps ms).1, fun n => ?_⟩⟩
    rw [(al.cure_keeps ms).2 n]
    exact ⟨rfl, rfl, rfl⟩

end Sys2Proof.Machine

end

section
/-! LAWS. The allocation family (11_allocation R245 to R248): claims of pages, operations on the rows of an allocation that end in one
result word, and the obligation. -/

namespace Sys2Proof.Machine

open Sys2Proof

/-! ## Bodies that end in one result word -/

/-- What is left of an instruction of `t` once it has read its registers: it leaves `S`, notes a lapse if `z`, and writes `v` to register `d`. -/
def State.Puts (s S : State) (t : Nat) (rest : M Flow) (d v : Nat) (tag : Tag) (z : Bool) : Prop :=
  S.cur = s.cur ∧ S.threads = s.threads ∧
    ∀ B z₀ m, rest (s.reading t B z₀ m) = putWord d v tag (S.reading t B (z₀ || z) m)

section
variable {s S S' : State} {t d v : Nat} {tag : Tag} {z z' : Bool}

theorem State.Puts.word : s.Puts s t (putWord d v tag) d v tag false := ⟨rfl, rfl, fun B z₀ m => by rw [Bool.or_false]⟩

theorem State.Puts.turn {α : Type} {op : M α} {a : α} {k : α → M Flow} (h : s.Turns S' t op a z) (h' : S'.Puts S t (k a) d v tag z') :
    s.Puts S t (op >>= k) d v tag (z || z') := by
  obtain ⟨hcur, hth, hrest⟩ := h'
  refine ⟨hcur.trans h.1, hth.trans h.2.1, fun B z₀ m => ?_⟩
  rw [bind_ok (h.run_lapse B z₀ m), hrest, Bool.or_assoc]

/-- An operation that changes nothing, whatever has been read. -/
theorem State.Puts.check {α : Type} {op : M α} {a : α} {k : α → M Flow}
    (h : ∀ B z₀ m, op (s.reading t B z₀ m) = .ok a (s.reading t B z₀ m)) (h' : s.Puts S t (k a) d v tag z) : s.Puts S t (op >>= k) d v tag z :=
  ⟨h'.1, h'.2.1, fun B z₀ m => by rw [bind_ok (h B z₀ m), h'.2.2]⟩

/-- An operation that meets no lapse. -/
theorem State.Puts.step {α : Type} {op : M α} {a : α} {k : α → M Flow} (h : s.Turns S' t op a false) (h' : S'.Puts S t (k a) d v tag z) :
    s.Puts S t (op >>= k) d v tag z := by
  simpa using State.Puts.turn h h'

theorem State.Puts.gives {α : Type} {op : M α} {a : α} {k : α → M Flow} (h : s.Gives t op a) (h' : s.Puts S t (k a) d v tag z) :
    s.Puts S t (op >>= k) d v tag z := .step h h'

/-- A look at the state, at something that register reads leave alone. -/
theorem State.Puts.get {k : State → M Flow} {rest : M Flow} (hk : ∀ B z₀ m, k (s.reading t B z₀ m) = rest) (h : s.Puts S t rest d v tag z) :
    s.Puts S t (MonadState.get >>= k) d v tag z :=
  ⟨h.1, h.2.1, fun B z₀ m => by rw [bind_ok (get_run _), hk, h.2.2]⟩

end

/-- An instruction that reads its operands, does its work and writes its one result. -/
theorem code_puts {s S : State} {t : Nat} {fs : List Field} {gd : Guard} {ds : List Dest} {body rest : M Flow} {d v : Nat} {tag : Tag} {z z' m : Bool}
    (h : s.Runs t fs [] gd) (hb : s.Comes t body rest z m) (hrest : s.Puts S t rest d v tag z') :
    code fs gd ds body s = .next (S.result t d ⟨BitVec.ofNat 32 v, tag⟩ (z || z') m 0) := by
  obtain ⟨c, th, hc, rfl, ht, -⟩ := h.start
  obtain ⟨hcur, hth, hrun⟩ := hrest
  refine code_comes h hb fun B => ⟨(S.reading c.t B (z || z') m).writeReg c.t d ⟨BitVec.ofNat 32 v, tag⟩, ?_,
    State.done_reading_writeReg (by rw [hth, ht]) B _ m d _⟩
  rw [hrun, putWord_run (s := S.reading c.t B (z || z') m) (hcur.trans hc)]

/-- The same where its work meets no lapse. -/
theorem code_puts_only {s S : State} {t : Nat} {fs : List Field} {gd : Guard} {ds : List Dest} {body rest : M Flow} {d v : Nat} {tag : Tag} {z m : Bool}
    (h : s.Runs t fs [] gd) (hb : s.Comes t body rest z m) (hrest : s.Puts S t rest d v tag false) :
    code fs gd ds body s = .next (S.result t d ⟨BitVec.ofNat 32 v, tag⟩ z m 0) := by
  simpa using code_puts (ds := ds) h hb hrest

/-! ## Claims of pages (R87) -/

theorem State.curePoison_updThread (s : State) (t : Nat) (f : Thread → Thread) (pa n : Nat) :
    (s.updThread t f).curePoison pa n = (s.curePoison pa n).updThread t f := by
  unfold State.curePoison
  dsimp only
  split <;> rfl

/-- A page saved to slot `k` of a context's backing area (R79). -/
def State.saved (s : State) (core c k : Nat) (p : Nat × PageOf × Nat) : State :=
  ((({ s with free := s.free + 1 } : State).physSet c 5120 ((s.ctx c).bkbase + 5120 * k) (Config.freePage s.free)).curePoison
    ((s.ctx c).bkbase + 5120 * k) 5120).updCore core fun x =>
      { x with saved := x.saved ++ [{ ctx := c, slot := k, kern := p.1, home := p.2.1, page := p.2.2 }] }

/-- The next page of a context to be saved from a core. -/
def State.unsaved (s : State) (core c : Nat) : Option (Nat × PageOf × Nat) :=
  (s.pagesIn core c).find? fun p => !(s.core core).saved.any fun q => q.kern == p.1 && q.home == p.2.1 && q.page == p.2.2

theorem State.savePage_none {s : State} {core c : Nat} (h : s.unsaved core c = none) : s.savePage core c = s := by
  unfold State.savePage
  rw [State.unsaved] at h
  rw [h]

theorem State.savePage_some {s : State} {core c : Nat} {p : Nat × PageOf × Nat} (h : s.unsaved core c = some p) :
    s.savePage core c = s.saved core c (s.freeSlot c) p := by
  unfold State.savePage
  rw [State.unsaved] at h
  rw [h]
  rfl

theorem State.saved_updThread (s : State) (t : Nat) (f : Thread → Thread) (core c k : Nat) (p : Nat × PageOf × Nat) :
    (s.updThread t f).saved core c k p = (s.saved core c k p).updThread t f := by
  have hfree : ({ s.updThread t f with free := s.free + 1 } : State) = ({ s with free := s.free + 1 } : State).updThread t f := rfl
  have hctx : (s.updThread t f).ctx c = s.ctx c := rfl
  rw [State.saved, State.updThread_free, hctx, hfree, State.physSet_updThread, State.curePoison_updThread]
  rfl

theorem State.savePage_updThread (s : State) (t : Nat) (f : Thread → Thread) (core c : Nat) :
    (s.updThread t f).savePage core c = (s.savePage core c).updThread t f := by
  have hnext : (s.updThread t f).unsaved core c = s.unsaved core c := rfl
  cases hp : s.unsaved core c with
  | none => rw [State.savePage_none hp, State.savePage_none (hnext.trans hp)]
  | some p =>
    rw [State.savePage_some hp, State.savePage_some (hnext.trans hp)]
    exact State.saved_updThread ..

theorem State.saveFrom_updThread (s : State) (t : Nat) (f : Thread → Thread) (core n c k : Nat) :
    (s.updThread t f).saveFrom core n c k = (s.saveFrom core n c k).updThread t f := by
  induction k generalizing s with
  | zero => rfl
  | succ k ih =>
    have hblank : (s.updThread t f).blankPages core = s.blankPages core := rfl
    have hheld : (s.updThread t f).ctxCorePages c core = s.ctxCorePages c core := rfl
    have hsaved : (s.updThread t f).savedOn core c = s.savedOn core c := rfl
    rw [State.saveFrom, State.saveFrom, hblank, hheld, hsaved, State.savePage_updThread, ih]
    split <;> rfl

/-- A claim of pages and a change of a thread commute. -/
theorem State.claimPages_updThread (s : State) (t : Nat) (f : Thread → Thread) (c core n : Nat) :
    (s.updThread t f).claimPages c core n = (s.claimPages c core n).updThread t f :=
  List.foldl_hom (fun s : State => s.updThread t f) fun x o => x.saveFrom_updThread t f core n o corePages

namespace State.SameUnits

variable {s x : State}

theorem savePage (h : s.SameUnits x) (core c : Nat) : s.SameUnits (x.savePage core c) := by
  cases hp : x.unsaved core c with
  | none => rwa [State.savePage_none hp]
  | some p =>
    have hfree : s.SameUnits { x with free := x.free + 1 } := h.trans ⟨rfl, rfl, rfl, rfl⟩
    rw [State.savePage_some hp]
    exact ((hfree.physSet ..).curePoison ..).trans ⟨rfl, rfl, rfl, rfl⟩

theorem saveFrom (h : s.SameUnits x) (core n c k : Nat) : s.SameUnits (x.saveFrom core n c k) := by
  induction k generalizing x with
  | zero => exact h
  | succ k ih => exact .ite h (ih (h.savePage core c))

theorem claimPages (s : State) (c core n : Nat) : s.SameUnits (s.claimPages c core n) :=
  List.foldlRecOn _ _ (refl s) fun _ hx o _ => hx.saveFrom core n o corePages

end State.SameUnits

/-! ## SPALLOC and SPFREE (R245) -/

/-- A change of a gang that no thread concerns. -/
theorem turns_updGang (s : State) (t gid : Nat) (f : Gang → Gang) : s.Turns (s.updGang gid f) t (modify fun x => x.updGang gid f) ⟨⟩ false :=
  turns_modify (g := fun x => x.updGang gid f) rfl rfl fun _ => rfl

theorem turns_claimPages (s : State) (t c core n gid : Nat) (f : Gang → Gang) : s.Turns ((s.claimPages c core n).updGang gid f) t
    (modify fun x => (x.claimPages c core n).updGang gid f) ⟨⟩ false := by
  have hkept := State.SameUnits.claimPages s c core n
  exact turns_modify (g := fun x => (x.claimPages c core n).updGang gid f) hkept.cur hkept.threads fun u => by rw [s.claimPages_updThread]; rfl

/-- A change of an entry that a test does not see. -/
theorem AMap.any_upd {α : Type} {p : Nat × α → Bool} {f : α → α} (h : ∀ j x, p (j, f x) = p (j, x)) (k : Nat) (m : AMap α) :
    (m.upd k f).any p = m.any p := by
  induction m with
  | nil => rfl
  | cons e m ih =>
    obtain ⟨j, x⟩ := e
    rw [AMap.upd]
    split
    · rw [List.any_cons, List.any_cons, h]
    · rw [List.any_cons, List.any_cons, ih]

/-- Whether an operation reaches into a window does not hang on what a thread has read. -/
theorem State.windowBusy_reading (s : State) (t : Nat) (B : AMap TWord) (z m : Bool) (gid off : Nat) :
    (s.reading t B z m).windowBusy gid off = s.windowBusy gid off := by
  unfold State.windowBusy
  refine congrArg (_ || ·) (AMap.any_upd (fun j y => ?_) t s.threads)
  rfl

section
variable {s : State} {t d a p q : Nat} {gd : Guard} {x : TWord} {z m : Bool} {g : Gang} (hg : s.gangs.find (gidOf t) = some g)
  (hp : g.scratch.pages = p) (h : s.Runs t [.r d, .r a] [] gd) (hr : s.reads t [(a, .int)] = some ([x], z, m)) (hq : pagesOf x.bits.toNat = q) (k : Nat)
include hg hp h hr hq

/-- R245: SPALLOC of no more pages than the gang holds answers those. -/
theorem spalloc_held (hle : q ≤ p) : exec (.spalloc gd d a k) s = .next (s.result t d ⟨BitVec.ofNat 32 (4096 * p), .u32⟩ z m 0) := by
  obtain ⟨c, th, hc, rfl, ht, -⟩ := h.start
  subst hp hq
  exact code_puts_only h (.last (h.nat_read (State.reads_one hr)) .refl) (.gives (gives_curT hc) (.gives (gives_gang hc hg)
    (.gives (gives_now hc hg) (.get (fun B z₀ m => if_pos hle) .word))))

/-- R245: SPALLOC of pages that the core or the context does not have answers all ones. -/
theorem spalloc_refused (hlt : p < q)
    (hno : corePages < s.usedPages (coreOf t) + (q - p) ∨ (s.ctx g.ctx).bkpages < s.ctxPages g.ctx + (q - p)) :
    exec (.spalloc gd d a k) s = .next (s.result t d ⟨4294967295, .u32⟩ z m 0) := by
  obtain ⟨c, th, hc, rfl, ht, -⟩ := h.start
  subst hp hq
  rw [← decide_eq_true_eq (p := corePages < _), ← decide_eq_true_eq (p := (s.ctx g.ctx).bkpages < _), ← Bool.or_eq_true] at hno
  exact code_puts_only (v := 4294967295) h (.last (h.nat_read (State.reads_one hr)) .refl) (.gives (gives_curT hc) (.gives (gives_gang hc hg)
    (.gives (gives_now hc hg) (.get (fun B z₀ m => (if_neg hlt.not_ge).trans (if_pos hno)) .word))))

/-- R245: SPALLOC that is granted claims the pages that it adds, and creates their rows. -/
theorem spalloc_granted (hlt : p < q) (hcore : s.usedPages (coreOf t) + (q - p) ≤ corePages)
    (hctx : s.ctxPages g.ctx + (q - p) ≤ (s.ctx g.ctx).bkpages) :
    exec (.spalloc gd d a k) s = .next (((s.claimPages g.ctx (coreOf t) (q - p)).updGang (gidOf t) fun y =>
      { y with scratch := y.scratch.freshRows (s.tickOf g.ctx) p q }).result t d ⟨BitVec.ofNat 32 (4096 * q), .u32⟩ z m 0) := by
  obtain ⟨c, th, hc, rfl, ht, -⟩ := h.start
  subst hp hq
  have hroom := not_or.mpr ⟨hcore.not_gt, hctx.not_gt⟩
  rw [← decide_eq_true_eq (p := corePages < _), ← decide_eq_true_eq (p := (s.ctx g.ctx).bkpages < _), ← Bool.or_eq_true] at hroom
  exact code_puts_only h (.last (h.nat_read (State.reads_one hr)) .refl) (.gives (gives_curT hc) (.gives (gives_gang hc hg)
    (.gives (gives_now hc hg) (.get (fun B z₀ m => (if_neg hlt.not_ge).trans (if_neg hroom)) (.step (turns_claimPages ..) .word)))))

/-- R245: SPFREE down to no fewer pages than the gang holds changes nothing. -/
theorem spfree_kept (hle : p ≤ q) : exec (.spfree gd d a k) s = .next (s.result t d ⟨BitVec.ofNat 32 (4096 * p), .u32⟩ z m 0) := by
  obtain ⟨c, th, hc, rfl, ht, -⟩ := h.start
  subst hp hq
  refine code_puts_only h (.last (h.nat_read (State.reads_one hr)) .refl) (.gives (gives_curT hc) (.gives (gives_gang hc hg) ?_))
  rw [if_pos hle]
  exact .word

/-- R245: SPFREE gives up the pages above, where nothing outstanding reaches into them. -/
theorem spfree_frees (hlt : q < p) (hbusy : s.windowBusy (gidOf t) (4096 * q) = false) :
    exec (.spfree gd d a k) s = .next ((s.updGang (gidOf t) fun y => { y with scratch := y.scratch.cutRows q }).result t d
      ⟨BitVec.ofNat 32 (4096 * q), .u32⟩ z m 0) := by
  obtain ⟨c, th, hc, rfl, ht, -⟩ := h.start
  subst hp hq
  refine code_puts_only h (.last (h.nat_read (State.reads_one hr)) .refl) (.gives (gives_curT hc) (.gives (gives_gang hc hg) ?_))
  rw [if_neg hlt.not_ge]
  exact .get (fun B z₀ m => if_neg (by rw [State.windowBusy_reading, hbusy]; exact Bool.false_ne_true)) (.step (turns_updGang ..) .word)

end

/-! ## RTOUCH, RCLASS and RAGE (R246 to R248) -/

/-- An operation on rows whose metadata is good. -/
theorem gives_meetSpan {s : State} {c : Cur} (hc : s.cur = some c) (h : Home) {al : Alloc} {r n : Nat} (va : Nat)
    (hz : ∀ i, i < n → (al.row (r + i)).struck s.curNo (laneOf c.t) = false) : s.Gives c.t (meetSpan h al r n va) ⟨⟩ := by
  have hnone : al.struckAt s.curNo ((List.range n).map fun i => (r + i, 4 * laneOf c.t)) = none := by
    rw [Alloc.struckAt, List.findIdx?_eq_none_iff]
    intro p hp
    obtain ⟨i, hi, rfl⟩ := List.mem_map.mp hp
    rw [Nat.mul_div_cancel_left _ (by decide)]
    exact hz i (List.mem_range.mp hi)
  refine gives_bind (gives_curT hc) (turns_get (m := pure ⟨⟩) (fun f _ => ?_) (turns_pure ..))
  have hno : (s.updThread c.t f).curNo = s.curNo := rfl
  simp only [hno, hnone]

theorem firstRow_none {a : Alloc} {r n i : Nat} {p : Row → Bool} (h : ∀ j, j < n → p (a.row (r + (i + j))) = false) :
    firstRow a r p n i = none := by
  induction n generalizing i with
  | zero => rfl
  | succ n ih =>
    have h0 : p (a.row (r + i)) = false := h 0 (Nat.succ_pos n)
    rw [firstRow, h0, if_neg Bool.false_ne_true]
    refine ih fun j hj => ?_
    rw [Nat.add_assoc i 1 j, Nat.add_comm 1 j]
    exact h (j + 1) (Nat.succ_lt_succ hj)

theorem turns_setAllocAt (s : State) (t : Nat) (h : Home) (al : Alloc) :
    s.Turns (s.setAllocAt h al) t (modify fun x => x.setAllocAt h al) ⟨⟩ false := by
  obtain ⟨hcur, hth⟩ := s.setAllocAt_keeps h al
  exact turns_modify (g := fun x => x.setAllocAt h al) hcur hth fun f => s.setAllocAt_updThread t f h al

/-- What register reads leave alone of an allocation. -/
theorem State.allocAt_reading (s : State) (t : Nat) (B : AMap TWord) (z m : Bool) (h : Home) : (s.reading t B z m).allocAt h = s.allocAt h :=
  s.allocAt_updThread t _ h

/-- An address in the scratch or the stack aperture passes the check of its aperture. -/
theorem row_aperture {a : Nat} (h : a = 254 ∨ a = 255) : ¬(a != 254 && a != 255) = true := by
  rcases h with rfl | rfl
  · decide
  · decide

/-- R248: RAGE answers the class, the expiry, the lifetime and the age of a row. -/
theorem rage_ages {s : State} {t d a va off : Nat} {gd : Guard} {A : DWord} {z m : Bool} {h : Home} {al : Alloc} {g : Gang}
    (hg : s.gangs.find (gidOf t) = some g) (hrun : s.Runs t [.r d, .even a] [] gd) (hA : s.srcPair t a .loAddr .hiAddr = some (A, z, m))
    (hva : A.toNat = va) (hap : va / 2 ^ 56 = 254 ∨ va / 2 ^ 56 = 255) (hrow : s.rowAt t va 1 1 h off) (hal : s.allocAt h = some al)
    (hz : (al.row (rowOf h off)).struck s.curNo (laneOf t) = false) (k : Nat) : exec (.rage gd d a k) s = .next (s.result t d
      ⟨BitVec.ofNat 32 (classCode al.cls * 2 ^ 30 + b2n (al.expired (al.row (rowOf h off)) (s.tickOf g.ctx)) * 2 ^ 29 +
        (if al.cls = .refreshed then 0 else al.life) * 512 + min (s.tickOf g.ctx - (al.row (rowOf h off)).stamp) 511), .u32⟩ z m 0) := by
  obtain ⟨c, th, hc, rfl, ht, -⟩ := hrun.start
  subst hva
  have hmet : ∀ i, i < 1 → (al.row (rowOf h off + i)).struck s.curNo (laneOf c.t) = false := fun i hi => by
    rw [Nat.lt_one_iff.mp hi]
    exact hz
  have hlife : (if al.cls = .refreshed then 0 else al.life) = if (al.cls == .refreshed) = true then 0 else al.life := by simp
  rw [hlife]
  refine code_puts_only hrun (.last (hrun.pair_read hA) .refl) ?_
  rw [if_neg (row_aperture hap)]
  refine .check hrow (.gives (gives_now hc hg) (.get (fun B z₀ m => by rw [State.allocAt_reading, hal]) ?_))
  exact .gives (gives_meetSpan hc h _ hmet) .word

/-- R246: RTOUCH restamps rows, clears the expired ones, and answers how many those were. -/
theorem rtouch_touches {s : State} {t d a b va n off : Nat} {gd : Guard} {A : DWord} {x : TWord} {z m z' m' : Bool} {h : Home} {al : Alloc} {g : Gang}
    (hg : s.gangs.find (gidOf t) = some g) (hrun : s.Runs t [.r d, .even a, .r b] [] gd)
    (hA : s.srcPair t a .loAddr .hiAddr = some (A, z, m)) (hx : s.reads t [(b, .int)] = some ([x], z', m')) (hva : A.toNat = va)
    (hn : x.bits.toNat = n) (hpos : 0 < n) (hle : n ≤ 256) (hap : va / 2 ^ 56 = 254 ∨ va / 2 ^ 56 = 255)
    (hrow : s.rowAt t va ((if va / 2 ^ 56 = 254 then 4 else 128) * n) (if va / 2 ^ 56 = 254 then 4 else 128) h off) (hal : s.allocAt h = some al)
    (hz : ∀ i, i < n → (al.row (rowOf h off + i)).struck s.curNo (laneOf t) = false)
    (hlive : ∀ i, i < n → al.lapses (al.row (rowOf h off + i)) = true ∨ al.expired (al.row (rowOf h off + i)) (s.tickOf g.ctx) = false) (k : Nat) :
    exec (.rtouch gd d a b k) s = .next ((s.setAllocAt h (al.touch (s.tickOf g.ctx) (rowOf h off) n)).result t d
      ⟨BitVec.ofNat 32 (al.countExpired (s.tickOf g.ctx) (rowOf h off) n), .u32⟩
      ((z || z') || al.countExpired (s.tickOf g.ctx) (rowOf h off) n != 0) (m || m') 0) := by
  obtain ⟨c, th, hc, rfl, ht, -⟩ := hrun.start
  subst hva
  subst hn
  have hstep : (if A.toNat / 2 ^ 56 = 254 then 4 else 128) = if (A.toNat / 2 ^ 56 == 254) = true then 4 else 128 := by simp
  rw [hstep] at hrow
  have hfirst : firstRow al (rowOf h off) (fun y => !al.lapses y && al.expired y (s.tickOf g.ctx)) x.bits.toNat 0 = none := by
    refine firstRow_none fun i hi => ?_
    rw [Nat.zero_add]
    rcases hlive i hi with e | e
    · rw [e, Bool.not_true, Bool.false_and]
    · rw [e, Bool.and_false]
  refine code_puts hrun (.read (hrun.pair_read hA) (.last (hrun.nat_read (State.reads_one hx)) .refl)) ?_
  rw [if_neg (by simp only [Bool.or_eq_true, beq_iff_eq, decide_eq_true_eq]; omega), if_neg (row_aperture hap)]
  refine .check hrow (.gives (gives_now hc hg) (.get (fun B z₀ m => by rw [State.allocAt_reading, hal]) ?_))
  · refine .gives (gives_meetSpan hc h _ hz) ?_
    rw [hfirst]
    refine .step (turns_setAllocAt s c.t h _) ?_
    split
    · next hexp =>
      rw [hexp]
      exact .turn (turns_setLapf ((s.setAllocAt_keeps h _).1.trans hc)) .word
    · next hexp =>
      rw [Bool.eq_false_of_not_eq_true hexp]
      exact .word

/-- R247: RCLASS puts an allocation under a new class, and answers what it was and how many of its rows had expired. -/
theorem rclass_reclasses {s : State} {t d a va life : Nat} {gd : Guard} {A : DWord} {z m : Bool} {h : Home} {al : Alloc} {g : Gang} {kk : Kernel}
    {cls : LifeClass} (hg : s.gangs.find (gidOf t) = some g) (hkk : s.kernels.find g.kern = some kk) (hrun : s.Runs t [.r d, .even a] [] gd)
    (hA : s.srcPair t a .loAddr .hiAddr = some (A, z, m)) (hva : A.toNat = va)
    (hname : ∀ B w v, namedAlloc va (s.reading t B w v) = .ok (h, al) (s.reading t B w v))
    (hz : ∀ i, i < 32 * al.pages → (al.row i).struck s.curNo (laneOf t) = false)
    (hmay : cls = .refreshed ∨ (∀ u, h ≠ .stack u) ∨ kk.isMember g.gidx = false) (ka : Bool) :
    exec (.rclass gd d a ka cls life) s = .next ((s.setAllocAt h (al.reclass (s.tickOf g.ctx) cls life)).result t d
      ⟨BitVec.ofNat 32 (al.countExpired (s.tickOf g.ctx) 0 (32 * al.pages) * 65536 + classCode al.cls * 256 + al.life), .u32⟩ z m 0) := by
  obtain ⟨c, th, hc, rfl, ht, -⟩ := hrun.start
  subst hva
  refine code_puts_only hrun (.last (hrun.pair_read hA) .refl) (.gives (gives_gang hc hg) (.gives (gives_getKernel hkk) (.gives (gives_now hc hg)
    (.check hname ?_))))
  have hz' : ∀ i, i < 32 * al.pages → (al.row (0 + i)).struck s.curNo (laneOf c.t) = false := fun i hi => by
    rw [Nat.zero_add]
    exact hz i hi
  have hlegal : ∀ isStack : Bool, (isStack = true → ∃ u, h = .stack u) → ¬(cls != .refreshed && isStack && kk.isMember g.gidx) = true := by
    rintro isStack hstack hill
    simp only [Bool.and_eq_true, bne_iff_ne] at hill
    obtain ⟨⟨hcls, hs⟩, hmember⟩ := hill
    obtain ⟨u, hu⟩ := hstack hs
    rcases hmay with e | e | e
    · exact hcls e
    · exact e u hu
    · simp [e] at hmember
  dsimp only
  rw [if_neg (hlegal _ (by cases h <;> simp))]
  exact .gives (gives_meetSpan hc h _ hz') (.step (turns_setAllocAt s c.t h _) .word)

/-- Settles O18: each instruction reads its operands, and its work ends in one result word (`State.Puts`). -/
theorem allocation : Obligations.Allocation := by
  unfold Obligations.Allocation
  intro s t d a b k va n life off gd ka cls x A z m z' m' h al th g kk ht hg hkk p q tick row step
  refine ⟨fun hrun hr => ?_, fun hrun hA hx hva hn hpos hle hap hrow hal hz hlive => ?_, fun hrun hA hva => ?_⟩
  · exact ⟨spalloc_held hg rfl hrun hr rfl k, spalloc_refused hg rfl hrun hr rfl k, spalloc_granted hg rfl hrun hr rfl k,
      spfree_kept hg rfl hrun hr rfl k, spfree_frees hg rfl hrun hr rfl k⟩
  · exact rtouch_touches hg hrun hA hx hva hn hpos hle hap hrow hal hz hlive k
  · exact ⟨fun hname hz hmay => rclass_reclasses hg hkk hrun hA hva hname hz hmay ka, fun hap hrow hal hz =>
      rage_ages hg hrun hA hva hap hrow hal hz k⟩

end Sys2Proof.Machine

end
section
/-! LAWS. The checks of an address: aperture, alignment and bound (12_memory R249 to R251; 00_scope R7), and the obligation. -/

namespace Sys2Proof.Machine

open Sys2Proof

/-! ## Apertures (R249) -/

theorem aperture_hole {a : Nat} (h : 0 < a / 2 ^ 56) (h' : a / 2 ^ 56 < 254) : aperture a = none := by
  simp only [aperture, beq_iff_eq]
  rw [if_neg (by omega), if_neg (by omega), if_neg (by omega)]

theorem aperture_scratch_beyond {a : Nat} (h : a / 2 ^ 56 = 255) (h' : a / 2 ^ 32 % 2 ^ 24 ≠ 0) : aperture a = none := by
  have hmid : (bits a 55 32 != 0) = true := by simpa [bits] using h'
  simp only [aperture, beq_iff_eq]
  rw [if_neg (by omega), if_neg (by omega), if_pos h, if_pos hmid]

theorem aperture_scratch {a : Nat} (h : a / 2 ^ 32 = 255 * 2 ^ 24) : aperture a = some (.scratch (a / 2 ^ 28 % 16) (a % 2 ^ 28)) := by
  have hmid : ¬(bits a 55 32 != 0) = true := by
    simp only [bits, bne_iff_ne]
    omega
  simp only [aperture, beq_iff_eq]
  rw [if_neg (by omega), if_neg (by omega), if_pos (by omega), if_neg hmid]
  simp [bits]

theorem aperture_stack {a : Nat} (h : a / 2 ^ 56 = 254) : aperture a = some (.stack (a % 2 ^ 56)) := by
  simp only [aperture, beq_iff_eq]
  rw [if_neg (by omega), if_pos h]

/-! ## What `checkMem` answers -/

section
variable {s : State} {c : Cur} (hc : s.cur = some c) {a n al : Nat}
include hc

theorem checkMem_no_aperture (h : aperture a = none) : checkMem a n al s = .error (.trap .addr a) s := by
  rw [checkMem, bind_ok (curT_run hc), h]
  rfl

theorem checkMem_unaligned (h : a % al ≠ 0) : checkMem a n al s = .error (.trap .addr a) s := by
  cases hap : aperture a with
  | none => exact checkMem_no_aperture hc hap
  | some p =>
    rw [checkMem, bind_ok (curT_run hc), hap]
    dsimp only
    rw [if_pos (by simpa using h)]
    rfl

variable {p : Ap} (hap : aperture a = some p) (hal : a % al = 0)
include hap hal

theorem checkMem_within {q : Place} (h : s.bound (gidOf c.t) p n = .ok q) : checkMem a n al s = .ok q s :=
  (gives_checkMem hc hap hal h).run_unread

theorem checkMem_beyond {e : Cause} (h : s.bound (gidOf c.t) p n = .error e) : checkMem a n al s = .error (.trap e a) s := by
  rw [checkMem, bind_ok (curT_run hc), hap]
  dsimp only
  rw [if_neg (by simpa using hal), bind_ok (get_run s), h]
  rfl

end

/-! ## Bounds (R249, R250) -/

section
variable {s : State} {gid n : Nat}

theorem State.bound_stack {g : Gang} (hg : s.gangs.find gid = some g) (off : Nat) : s.bound gid (.stack off) n =
    if off + n ≤ 128 * g.stack.pages then .ok (.row (.stack gid) off) else .error .stkbound := by
  simp [State.bound, State.homeSize, State.allocAt, hg]

variable {w off : Nat}

theorem State.bound_unmapped (h : s.windowHome gid w = none) : s.bound gid (.scratch w off) n = .error .spbound := by
  simp only [State.bound, h]

theorem State.bound_mapped {h : Home} (hw : s.windowHome gid w = some h) : s.bound gid (.scratch w off) n =
    if off + n ≤ s.homeSize h then .ok (.row h off) else .error .spbound := by
  simp only [State.bound, hw]

variable {g : Gang} (hg : s.gangs.find gid = some g)
include hg

/-- The gang's own window is bounded by its pages; with none it is unmapped. -/
theorem State.bound_own (hn : 0 < n) : s.bound gid (.scratch 0 off) n =
    if off + n ≤ 4096 * g.scratch.pages then .ok (.row (.scratch gid) off) else .error .spbound := by
  have hsize : s.homeSize (.scratch gid) = 4096 * g.scratch.pages := by simp [State.homeSize, State.allocAt, hg]
  by_cases hp : g.scratch.pages = 0
  · rw [State.bound_unmapped (by simp [State.windowHome, hg, hp]), if_neg (by omega)]
  · rw [State.bound_mapped (h := .scratch gid) (by simp [State.windowHome, hg, hp]), hsize]

theorem State.windowHome_above (hw : 4 < w) : s.windowHome gid w = none := by
  have h0 : w ≠ 0 := by omega
  simp [State.windowHome, hg, h0, hw]

variable (hpos : 0 < w) (hle : w ≤ 4)
include hpos hle

theorem State.windowHome_no_group (h : g.grp.getD (w - 1) none = none) : s.windowHome gid w = none := by
  have h0 : w ≠ 0 := by omega
  have h4 : ¬4 < w := by omega
  simp only [State.windowHome, hg, h, beq_iff_eq]
  rw [if_neg h0, if_neg h4]

theorem State.windowHome_group {i : Nat} {x : GInst} (hi : g.grp.getD (w - 1) none = some i) (hx : s.insts.find i = some x) :
    s.windowHome gid w = if x.span then none else x.window.map fun _ => .window i := by
  have h0 : w ≠ 0 := by omega
  have h4 : ¬4 < w := by omega
  simp only [State.windowHome, hg, hi, hx, beq_iff_eq]
  rw [if_neg h0, if_neg h4]

end

/-- Settles O23: the apertures by `aperture`, the bounds by the home that a window names and the bytes it has. -/
theorem addressChecks : Obligations.AddressChecks := by
  unfold Obligations.AddressChecks
  intro s c a n hc
  refine ⟨checkMem_no_aperture hc, checkMem_unaligned hc, fun h h' => checkMem_no_aperture hc (aperture_hole h h'),
    fun h h' => checkMem_no_aperture hc (aperture_scratch_beyond h h'), fun g hg hal hn => ⟨?scratch, ?stack⟩⟩
  case scratch =>
    intro ha w off
    have hap : aperture a = some (.scratch w off) := aperture_scratch ha
    refine ⟨fun hw hlt => ?_, fun hw hle => ?_, fun hw => ?_, fun hpos hle h => ?_, fun i x hpos hle hi hx => ?_⟩
    · rw [hw] at hap
      exact checkMem_beyond hc hap hal (by rw [State.bound_own hg hn, if_neg (by omega)])
    · rw [hw] at hap
      exact checkMem_within hc hap hal (by rw [State.bound_own hg hn, if_pos hle])
    · exact checkMem_beyond hc hap hal (State.bound_unmapped (State.windowHome_above hg hw))
    · exact checkMem_beyond hc hap hal (State.bound_unmapped (State.windowHome_no_group hg hpos hle h))
    · have hhome := State.windowHome_group hg hpos hle hi hx
      refine ⟨fun hno => checkMem_beyond hc hap hal (State.bound_unmapped ?_), fun al hspan hwin => ?_⟩
      · rw [hhome]
        rcases hno with e | e
        · rw [if_pos e]
        · rw [e, Option.map_none, ite_self]
      · have hmapped : s.windowHome (gidOf c.t) w = some (.window i) := by simp [hhome, hspan, hwin]
        have hbound := State.bound_mapped (off := off) (n := n) hmapped
        have hsize : s.homeSize (.window i) = 4096 * al.pages := by simp [State.homeSize, State.allocAt, hx, hwin]
        rw [hsize] at hbound
        exact ⟨fun hlt => checkMem_beyond hc hap hal (by rw [hbound, if_neg (by omega)]),
          fun hle => checkMem_within hc hap hal (by rw [hbound, if_pos hle])⟩
  case stack =>
    intro ha off
    have hap : aperture a = some (.stack off) := aperture_stack ha
    have hbound := State.bound_stack (n := n) hg off
    exact ⟨fun hlt => checkMem_beyond hc hap hal (by rw [hbound, if_neg (by omega)]),
      fun hle => checkMem_within hc hap hal (by rw [hbound, if_pos hle])⟩

end Sys2Proof.Machine

end
section
/-! LAWS. What lands later and lines that are evicted (12_memory R254, R279, R282; 14_barrier R312), and the obligation. -/

namespace Sys2Proof.Machine

open Sys2Proof

/-! ## The bytes of a landing (R235, R237) -/

section
variable {l : Landing} (hrow : l.off % 128 + l.len ≤ 128)
include hrow

/-- A landing within a row has that row alone. -/
theorem Landing.rows_within (hpos : 0 < l.len) : l.rows = [l.off / 128] := by
  have hfirst : 128 * (l.off / 128) < l.off + l.len := by omega
  have hrest : ∀ k ∈ List.range (l.len / 128 + 1),
      (if 128 * (l.off / 128 + (k + 1)) < l.off + l.len then some (l.off / 128 + (k + 1)) else none) = none :=
    fun k _ => if_neg (by omega)
  rw [Landing.rows, List.range_succ_eq_map, List.filterMap_cons, List.filterMap_map]
  simp only [Nat.add_zero, if_pos hfirst]
  exact congrArg _ (List.filterMap_eq_nil_iff.mpr hrest)

theorem Landing.row_of_place {p : Nat × Nat} (hp : p ∈ places false 0 l.off l.len) : p.1 = l.off / 128 := by
  obtain ⟨i, hi, rfl⟩ := List.mem_map.mp hp
  have hi := List.mem_range.mp hi
  show (l.off + i) / 128 = l.off / 128
  omega

/-- The bytes of a landing within a row whose metadata and words let it. -/
theorem State.landRow_within {s : State} {a : Alloc} (ha : s.allocAt l.home = some a) {tick : Nat}
    (hexp : (scanPlaces a tick (places false 0 l.off l.len) 0).expired = none)
    (herr : (scanPlaces a tick (places false 0 l.off l.len) 0).memerr = none)
    (hlapse : (scanPlaces a tick (places false 0 l.off l.len) 0).lapse = false) (data : Nat) : s.landRow l tick data (l.off / 128) =
      s.setAllocAt l.home (writePlaces a tick (places false 0 l.off l.len) (leBytes l.len data) []) := by
  have hplaces : (places false 0 l.off l.len).filter (fun p => p.1 == l.off / 128) = places false 0 l.off l.len :=
    List.filter_eq_self.mpr fun p hp => by simp [Landing.row_of_place hrow hp]
  have hbytes : (((places false 0 l.off l.len).zip (leBytes l.len data)).filter fun p => p.1.1 == l.off / 128).map (·.2) =
      leBytes l.len data := by
    have hall : ∀ p ∈ (places false 0 l.off l.len).zip (leBytes l.len data), (p.1.1 == l.off / 128) = true := fun p hp => by
      simp [Landing.row_of_place hrow (List.of_mem_zip hp).1]
    rw [List.filter_eq_self.mpr hall]
    exact List.map_snd_zip (by simp [places])
  unfold State.landRow
  simp only [ha, hplaces, hbytes, hexp, herr, hlapse, Bool.false_eq_true, if_false]

theorem State.landBytes_within (hpos : 0 < l.len) {s : State} {a : Alloc} (ha : s.allocAt l.home = some a)
    (hexp : (scanPlaces a (s.tickOf l.ctx) (places false 0 l.off l.len) 0).expired = none)
    (herr : (scanPlaces a (s.tickOf l.ctx) (places false 0 l.off l.len) 0).memerr = none)
    (hlapse : (scanPlaces a (s.tickOf l.ctx) (places false 0 l.off l.len) 0).lapse = false) (data : Nat) : s.landBytes l data =
      s.setAllocAt l.home (writePlaces a (s.tickOf l.ctx) (places false 0 l.off l.len) (leBytes l.len data) []) := by
  rw [State.landBytes, Landing.rows_within hrow hpos]
  exact State.landRow_within hrow ha hexp herr hlapse data

end

/-! ## A copy lands (R279, R312) -/

section
variable {s S : State} {core n v : Nat} {l : Landing} {gt : Got}

theorem State.landSource_got (h : l.got = some (v, false)) : s.landSource core l = ((v, false), s) := by simp [State.landSource, h]

theorem State.landSource_reads (hgot : l.got = none) (hpa : l.pa < hostKey 0) (hread : s.readClass core l.cls l.pa (2 ^ 55) l.vb = (gt, S))
    (hgood : gt.poison = none) : s.landSource core l = ((gt.v, false), S) := by
  simp only [State.landSource, hgot]
  rw [if_neg (by omega), hread]
  simp only [hgood]

/-- A core without its `n`-th copy in flight. -/
def State.unlanded (s : State) (core n : Nat) : State := s.updCore core fun c => { c with landings := c.landings.eraseIdx n }

/-- A copy whose data is there, or is read now, lands and counts off. -/
theorem State.land_lands (hl : (s.core core).landings[n]? = some l) (hdue : l.rem = none ∨ l.got ≠ none)
    (hsrc : (s.unlanded core n).landSource core l = ((v, false), S)) :
    s.land core n l.bar.isSome = (((S.landBytes l v).countBatch l).countPiece l).finishStop l.ctx := by
  have hready : ¬(l.bar.isSome != l.bar.isSome || (l.rem.isSome && l.got == none)) = true := by
    rcases hdue with h | h
    · simp [h]
    · simp [h]
  rw [State.unlanded] at hsrc
  simp only [State.land, hl]
  rw [if_neg hready, hsrc]
  rfl

variable (hl : (s.core core).landings[n]? = some l) (hdue : l.rem = none ∨ l.got ≠ none)
  (hsrc : (s.unlanded core n).landSource core l = ((v, false), S))
include hl hdue hsrc

/-- R279: a copy under a batch tag. -/
theorem cpaLanding_lands (hbar : l.bar = none) :
    exec (.cpaLanding core n) s = .next (((S.landBytes l v).countBatch l).finishStop l.ctx) := by
  have h := State.land_lands hl hdue hsrc
  rw [hbar] at h
  show Host.Outcome.next (s.land core n false) = _
  rw [show s.land core n false = _ from h, State.countPiece, hbar]

/-- R312: a piece with a barrier. -/
theorem cpbPieceLanding_lands (hbar : l.bar ≠ none) (hbt : l.bt = none) :
    exec (.cpbPieceLanding core n) s = .next (((S.landBytes l v).countPiece l).finishStop l.ctx) := by
  have h := State.land_lands hl hdue hsrc
  rw [Option.isSome_iff_ne_none.mpr hbar] at h
  show Host.Outcome.next (s.land core n true) = _
  rw [h, State.countBatch, hbt]

end

/-- R279: a landing counts off at the tag of the thread that issued it. -/
theorem State.countBatch_counts {s : State} {l : Landing} {th : Thread} {k : Nat} (ht : s.threads.find l.t = some th) (hlin : th.lin = l.lin)
    (hbt : l.bt = some k) (hk : k < th.bt.length) :
    ∃ y, (s.countBatch l).threads.find l.t = some y ∧ y.bt.getD k 0 = th.bt.getD k 0 - 1 := by
  refine ⟨{ th with bt := th.bt.set k (th.bt.getD k 0 - 1) }, ?_, ?_⟩
  · simp [State.countBatch, hbt, ht, hlin]
  · simp [List.getD_eq_getElem?_getD, hk]

/-! ## Evictions (R254) -/

theorem State.cleanLine_mem (s : State) (core line : Nat) : (s.cleanLine core line).mem =
    if (s.line core line).dirty = 0 then s.mem else Memory.setBytes s.mem (128 * line) (leBytes 128 (s.homeMerge core line)) := by
  have hhome := s.withBytes_mem 128 (128 * line) (s.homeMerge core line)
  unfold State.homeMerge at hhome ⊢
  unfold State.cleanLine
  dsimp only
  generalize s.withBytes 128 (128 * line) _ = y at hhome ⊢
  by_cases h : (s.line core line).dirty = 0
  · rw [if_pos (by simpa using h), if_pos h]
  · rw [if_neg (by simpa using h), if_neg h, State.setLine_mem, ← hhome]
    exact (State.Alike.sent core _ ..).mem

/-- The bytes at home once a line has gone there: those of the line that were dirty, the others as they stood. -/
theorem State.phys_cleanLine {s : State} (hm : Memory.wf s.mem = true) (core line a : Nat) : (s.cleanLine core line).phys 1 a =
    if a / 128 = line ∧ bit (s.line core line).dirty (a % 128) = true then (s.line core line).data / 256 ^ (a % 128) % 256 else s.phys 1 a := by
  have hmem := s.cleanLine_mem core line
  by_cases h : (s.line core line).dirty = 0
  · rw [if_pos h] at hmem
    rw [if_neg (by simp [h, bit]), State.phys, hmem, State.phys]
  · rw [if_neg h] at hmem
    rw [State.phys_of_setBytes hm hmem]
    by_cases hline : a / 128 = line
    · have hoff : a - 128 * line = a % 128 := by omega
      have hadr : 128 * line + a % 128 = a := by omega
      rw [if_pos (by omega), hoff, State.homeMerge, mergeBytes_byte (by omega), ← bit_eq_testBit, State.phys_byte (by omega), hadr]
      simp only [hline, true_and]
    · rw [if_neg (by omega), if_neg (fun e => hline e.1)]

theorem State.phys_evict (s : State) (core line n a : Nat) : (s.evict core line).phys n a = (s.cleanLine core line).phys n a := rfl

/-- Settles O42: a copy lands by `State.land_lands`, within one row by `State.landBytes_within`; an eviction by the bytes that home then holds. -/
theorem landings : Obligations.Landings := by
  unfold Obligations.Landings
  intro s S core n v line l gt
  refine ⟨fun hl => ⟨fun hgot => ?there, fun hgot hrem hpa hread hgood => ?read⟩, fun a ha hpos hrow hexp herr hlapse =>
    State.landBytes_within hrow hpos ha hexp herr hlapse v, fun th k ht hlin hbt hk => State.countBatch_counts ht hlin hbt hk, fun hm => ?evicted⟩
  case there =>
    have hdue : l.rem = none ∨ l.got ≠ none := .inr (by simp [hgot])
    exact ⟨cpaLanding_lands hl hdue (State.landSource_got hgot), cpbPieceLanding_lands hl hdue (State.landSource_got hgot)⟩
  case read =>
    have hsrc := State.landSource_reads hgot hpa hread hgood
    exact ⟨cpaLanding_lands hl (.inl hrem) hsrc, cpbPieceLanding_lands hl (.inl hrem) hsrc⟩
  case evicted =>
    refine ⟨s.evict core line, rfl, (evict_keeps s core line).1, (State.SameUnits.refl s).cleanLine core line |>.gangs, fun i hi hd => ?_,
      fun a ha => ?_⟩
    · have hline : (128 * line + i) / 128 = line := by omega
      have hoff : (128 * line + i) % 128 = i := by omega
      rw [State.phys_evict, State.phys_cleanLine hm, hline, hoff, if_pos ⟨rfl, hd⟩]
    · rw [State.get_eq_phys, State.get_eq_phys, State.phys_evict, State.phys_cleanLine hm, if_neg]
      rintro ⟨hline, hd⟩
      exact ha (a % 128) (by omega) hd (by omega)

end Sys2Proof.Machine

end
section
/-! LAWS. The obligation on updates at home, where a core's column cache lists a line twice (R254, R269). -/

namespace Sys2Proof.Machine

open Sys2Proof

/-- The second entry of line 0: byte 1 is dirty and holds 1. -/
def dirtyLine : CLine := { CLine.empty with valid := 2, dirty := 2, data := 256 }

/-- A device whose core 0 lists line 0 in its column cache as `ls` has it. -/
def withLines (ls : List CLine) : State :=
  { State.reset with mem := [], cores := [(0, { Core.init with cache := ls.map fun l => (0, l) })] }

/-- The core lists the line twice, first as a line of which nothing is valid. -/
def lineTwice : State := withLines [CLine.empty, dirtyLine]

theorem mergeBits_zero (n m : Nat) : mergeBits n m 0 0 = 0 := by
  induction n generalizing m with
  | zero => rfl
  | succ n ih => simp [mergeBits, ih]

/-- To drop bytes of the line drops its first entry, and the second one stands for the line. -/
theorem lineTwice_dropBytes (mask : Nat) : lineTwice.dropBytes 0 0 mask = withLines [dirtyLine] := by
  have hfirst : (lineTwice.core 0).cache.find 0 = some CLine.empty := rfl
  have hdrop : mergeBits 128 mask CLine.empty.valid 0 = 0 := mergeBits_zero 128 mask
  unfold State.dropBytes
  rw [hfirst]
  dsimp only
  rw [hdrop]
  rfl

theorem lineTwice_sharedRead : lineTwice.sharedRead 0 0 1 = (⟨0, 0, none⟩, withLines [dirtyLine]) := by
  have hclean : lineTwice.cleanLine 0 0 = lineTwice := rfl
  have hnote : lineTwice.noteRead 0 1 = lineTwice := noteRead_clean 0 1 rfl rfl rfl rfl
  unfold State.sharedRead
  rw [hclean, hnote, lineTwice_dropBytes]
  rfl

/-- A shared write of the line takes the dirty bytes of the entry that the core finds home first. -/
theorem withDirtyLine_sharedWrite (tagged : Bool) :
    Memory.get ((withLines [dirtyLine]).sharedWrite 0 0 0 1 0 0 tagged).mem 1 = 1 := by
  have hm : Memory.wf (withLines [dirtyLine]).mem = true := rfl
  have hfirst : ((withLines [dirtyLine]).cleanLine 0 0).phys 1 1 = 1 := by rw [State.phys_cleanLine hm]; decide
  have hdrop (x : State) (mask : Nat) : (x.dropBytes 0 0 mask).mem = x.mem := by
    unfold State.dropBytes
    split
    · rfl
    · rfl
  have hclean : Memory.wf ((withLines [dirtyLine]).cleanLine 0 0).mem = true := by
    rw [State.cleanLine_mem]
    split
    · exact hm
    · exact Memory.wf_setBytes hm
  obtain ⟨-, -, hkept, -⟩ := State.homeWrite_frame hclean 0 0 1 0 0 tagged
  unfold State.sharedWrite
  rw [hdrop, hkept 1 (.inr (by decide)), State.get_eq_phys, hfirst]
  rfl

/-- Refutes O35: an update of byte 0 changes byte 1 at home where the core's column cache lists line 0 twice, clean at first: the read drops
the first entry, and the write takes the second one's dirty byte home. `AMap.put` makes no such list from one whose keys rise, but the statement
takes any state, and asks for no rising keys (as O21 does). -/
theorem not_updatesAtHome : ¬ Obligations.UpdatesAtHome := by
  unfold Obligations.UpdatesAtHome
  intro h
  obtain ⟨-, -, -, -, -, hframe⟩ := h lineTwice 0 0 3 0 0 1 0 (fun _ => some (0, 0)) rfl (by decide) rfl rfl rfl
  have hsame := hframe 1 (.inr (by decide))
  have hupdate : (lineTwice.atomLocal 0 0 3 0 0 1 fun _ => some (0, 0)).2 = (withLines [dirtyLine]).sharedWrite 0 0 0 1 0 0 false := by
    unfold State.atomLocal
    rw [if_neg (by decide), lineTwice_sharedRead]
    rfl
  rw [hupdate, withDirtyLine_sharedWrite] at hsame
  exact absurd hsame (by decide)

end Sys2Proof.Machine

end
section
/-! LAWS. Addresses that form M computes (12_memory Table 12.5), fences and the operations on the column cache (R277, R278), and the
obligation. -/

namespace Sys2Proof.Machine

open Sys2Proof

/-! ## Effective addresses (Table 12.5) -/

section
variable {s : State} {t : Nat} {fs : List Field} {gd : Guard} (h : s.Runs t fs [] gd)
include h

/-- The thread of an instruction that runs. -/
theorem State.Runs.curT_read : s.Reads t curT t false false := by
  obtain ⟨c, th, hc, rfl, -⟩ := h.start
  intro B z₀ m₀ hb
  rw [Bool.or_false, Bool.or_false]
  exact ⟨B, curT_run (s := s.reading c.t B z₀ m₀) hc, hb⟩

variable {base idx : Nat} {A : DWord} {x : TWord} {z m z' m' : Bool} (hA : s.srcPair t base .loAddr .hiAddr = some (A, z, m)) (off : Int)
include hA

theorem State.Runs.address_read (hx : s.reads t [(idx, .int)] = some ([x], z', m')) :
    s.Reads t (effAddr base idx off) (addressOf A x.bits off) (z || z') (m || m') :=
  (h.pair_read hA).bind ((h.int_read true (State.reads_one hx)).map fun i => trunc (A.toNat + i + off) 64)

theorem State.Runs.plain_address_read : s.Reads t (effAddr0 base off) (addressOf A 0 off) z m := by
  have hzero : addressOf A 0 off = trunc (A.toNat + off) 64 := by simp [addressOf, trunc]
  rw [hzero]
  exact (h.pair_read hA).map fun b => trunc (b + off) 64

end

/-! ## Bodies that act on what an operation answered -/

theorem State.Answers.bind_run {α β : Type} {s S : State} {t : Nat} {z m : Bool} {op : M α} {r : α} (h : s.Answers S t z m op r) (k : α → M β)
    (B : AMap TWord) : (op >>= k) (s.reading t B z m) = k r (S.reading t B z m) := bind_ok (h.2.2 B)

/-- What has been read does not matter to what completes. -/
theorem State.done_reading {s : State} {t : Nat} {th : Thread} (h : s.threads.find t = some th) (B : AMap TWord) (z m : Bool) :
    (s.reading t B z m).done t = (s.noted t z m 0).done t := congrArg (·.advance t) (State.commit_reading h B z m)

/-! ## Releases and reports (R261, R281, R374) -/

section
variable {s : State} {c : Cur} {th : Thread} (hc : s.cur = some c) (ht : s.threads.find c.t = some th)
include hc ht

theorem reportCopies_none (hcopy : th.copyFaults = []) : reportCopies s = .ok ⟨⟩ s := by
  rw [reportCopies, bind_ok (thread_run hc ht), hcopy]
  rfl

theorem reportAll_none (hcopy : th.copyFaults = []) (hlog : th.slFail = none) : reportAll s = .ok ⟨⟩ s := by
  rw [reportAll, bind_ok (reportCopies_none hc ht hcopy), (gives_reportFail hc ht hlog).run_unread]

theorem releaseWait_run (hcont : th.cont = .none) (w : Wait) :
    releaseWait w s = .error (.wait w) (s.updThread c.t fun y => { y with cont := .drained }) := by
  rw [releaseWait, bind_ok (modThread_run hc _), waitFor, throw_run]
  exact congrArg _ (State.updThread_congr ht (by rw [hcont]))

variable {g : Gang} (hg : s.gangs.find (gidOf c.t) = some g) {sc : Nat}
include hg

theorem releaseAt_waits_log (hcont : th.cont = .none) (hsc : 1 ≤ sc) (hlog : g.slog ≠ []) :
    releaseAt sc s = .error (.wait .slogEmpty) (s.updThread c.t fun y => { y with cont := .drained }) := by
  rw [releaseAt, if_pos hsc, bind_ok (curT_run hc), bind_ok (gang_run hc hg), if_pos (by simpa using hlog),
    bind_error (releaseWait_run hc ht hcont _)]

theorem releaseAt_waits_posted (hcont : th.cont = .none) (hsc : 1 ≤ sc) (hlog : g.slog = []) (h4 : sc = 4) (hack : s.unacked = true) :
    releaseAt sc s = .error (.wait .posted) (s.updThread c.t fun y => { y with cont := .drained }) := by
  rw [releaseAt, if_pos hsc, bind_ok (curT_run hc), bind_ok (gang_run hc hg), hlog, if_neg (by decide)]
  beta_reduce
  rw [bind_ok (get_run s), if_pos (by simp [h4, hack]), bind_error (releaseWait_run hc ht hcont _)]

omit ht

theorem releaseAt_passes (h : 1 ≤ sc → g.slog = [] ∧ (sc = 4 → s.unacked = false)) :
    releaseAt sc s = .ok ⟨⟩ (if 3 ≤ sc then s.cleanRaw (coreOf c.t) else s) := by
  by_cases hsc : 1 ≤ sc
  · obtain ⟨hlog, hack⟩ := h hsc
    have hposted : ¬(sc == 4 && s.unacked) = true := by
      by_cases h4 : sc = 4
      · simp [hack h4]
      · simp [h4]
    rw [releaseAt, if_pos hsc, bind_ok (curT_run hc), bind_ok (gang_run hc hg), hlog, if_neg (by decide)]
    beta_reduce
    rw [bind_ok (get_run s), if_neg hposted]
    split
    · rfl
    · rfl
  · rw [releaseAt, if_neg hsc, if_neg (by omega), pure_run]

end

theorem acquireAt_run {s : State} {c : Cur} (hc : s.cur = some c) (sc : Nat) :
    acquireAt sc s = .ok ⟨⟩ (if 3 ≤ sc then s.acquire (coreOf c.t) else s) := by
  unfold acquireAt
  split
  · rw [bind_ok (curT_run hc), modify_run]
  · rfl

/-! ## FENCE (R277) -/

theorem State.SameUnits.cleanLines {s x : State} (h : s.SameUnits x) (core : Nat) (ls : List Nat) : s.SameUnits (x.cleanLines core ls) := by
  induction ls generalizing x with
  | nil => exact h
  | cons l ls ih => exact ih (h.cleanLine core l)

theorem exec_fence (gd : Guard) (ord : FenceOrd) (sc : Nat) : exec (.fence gd ord sc) = code [] gd [] (do
    reportAll
    if fenceRel ord then releaseAt sc
    if fenceAcq ord then acquireAt sc
    pure .seq) := rfl

section
variable {s : State} {t : Nat} {gd : Guard} {th : Thread} {g : Gang} (ht : s.threads.find t = some th) (hg : s.gangs.find (gidOf t) = some g)
  (h : s.Runs t [] [] gd) (hcopy : th.copyFaults = []) (hlog : th.slFail = none) {ord : FenceOrd} {sc : Nat}
include ht hg h hcopy hlog

theorem fence_completes (hpass : fenceRel ord = true → 1 ≤ sc → g.slog = [] ∧ (sc = 4 → s.unacked = false)) {r : State}
    (hr : r = if fenceRel ord && decide (3 ≤ sc) then s.cleanRaw (coreOf t) else s) :
    exec (.fence gd ord sc) s = .next ((if fenceAcq ord && decide (3 ≤ sc) then r.acquire (coreOf t) else r).done t) := by
  obtain ⟨c, -, hc, rfl, -⟩ := h.start
  have hcur : r.cur = some c := by
    rw [hr]
    exact (State.SameUnits.ite ((State.SameUnits.refl s).cleanLines (coreOf c.t) _) (.refl s)).cur.trans hc
  have hacq : (do if fenceAcq ord then acquireAt sc
                  pure Flow.seq : M Flow) r = .ok .seq (if fenceAcq ord && decide (3 ≤ sc) then r.acquire (coreOf c.t) else r) := by
    cases fenceAcq ord with
    | true =>
      rw [if_pos rfl, bind_ok (acquireAt_run hcur sc)]
      simp only [Bool.true_and, decide_eq_true_eq]
      rfl
    | false => rfl
  rw [exec_fence]
  refine code_next (f := .seq) h ?_
  rw [bind_ok (reportAll_none hc ht hcopy hlog), ← hacq]
  cases hord : fenceRel ord with
  | true =>
    rw [if_pos rfl, bind_ok (releaseAt_passes hc hg (hpass hord)), hr, hord]
    simp
  | false =>
    rw [hr, hord]
    rfl

/-- A fence whose release waits. -/
theorem fence_waits (hord : fenceRel ord = true) {w : Wait} {S : State} (hw : releaseAt sc s = .error (.wait w) S) :
    exec (.fence gd ord sc) s = .next (S.waitOn t w) := by
  obtain ⟨c, -, hc, rfl, -⟩ := h.start
  rw [exec_fence, h.code_eq]
  refine runCode_wait hc ?_
  rw [bind_ok (reportAll_none hc ht hcopy hlog), if_pos hord, bind_error hw]

end

/-! ## CINV and CCLEAN (R278) -/

/-- CINV and CCLEAN of the line that an address names, with what they do to a line of a core. -/
def lineBody (f : State → Nat → Nat → State) (base idx : Nat) (off : Int) : M Flow := do
  let t ← curT
  let a ← effAddr base idx off
  match ← lineFor a with
  | some l => modify fun s => f s (coreOf t) l
  | none => pure ()
  pure .seq

theorem exec_cinv_line (gd : Guard) (base idx : Nat) (off : Int) :
    exec (.cinv gd false base idx off) = code [.even base, .r idx] gd [] (lineBody State.evict base idx off) := rfl

theorem exec_cclean_line (gd : Guard) (base idx : Nat) (off : Int) :
    exec (.cclean gd false base idx off) = code [.even base, .r idx] gd [] (lineBody State.cleanLine base idx off) := rfl

theorem lineBody_completes {s S : State} {t : Nat} {gd : Guard} {base idx l : Nat} {off : Int} {A : DWord} {x : TWord} {z m z' m' : Bool}
    (h : s.Runs t [.even base, .r idx] [] gd) (hA : s.srcPair t base .loAddr .hiAddr = some (A, z, m))
    (hx : s.reads t [(idx, .int)] = some ([x], z', m')) (hl : s.Answers S t (z || z') (m || m') (lineFor (addressOf A x.bits off)) (some l))
    {f : State → Nat → Nat → State} (hnote : ∀ y t u core line, f (State.updThread y t u) core line = (f y core line).updThread t u)
    (hkeep : ∀ y core line, (f y core line).threads = y.threads) :
    code [.even base, .r idx] gd [] (lineBody f base idx off) s = .next ((f (S.noted t (z || z') (m || m') 0) (coreOf t) l).done t) := by
  obtain ⟨c, th, hc, rfl, ht, -⟩ := h.start
  have hS : (f S (coreOf c.t) l).threads.find c.t = some th := by rw [hkeep, hl.2.1, ht]
  refine code_comes h (.read h.curT_read (.last (h.address_read hA off hx) .refl)) fun B => ⟨_, hl.bind_run _ B, ?_⟩
  beta_reduce
  rw [State.reading, hnote, ← State.reading, State.noted, hnote, ← State.noted]
  exact State.done_reading hS ..

theorem cache_wide {s : State} {t : Nat} {gd : Guard} (h : s.Runs t [] [] gd) (f : State → Nat → State) :
    code [] gd [] (curT >>= fun t => modify (fun s => f s (coreOf t)) >>= fun _ => pure .seq) s = .next ((f s (coreOf t)).done t) := by
  obtain ⟨c, th, hc, rfl, -⟩ := h.start
  exact code_next (f := .seq) h (by rw [bind_ok (curT_run hc)]; rfl)

/-- Settles O20: FENCE by its release and its acquire, CINV and CCLEAN by what they do to a line or to all of them. -/
theorem fenceAndCache : Obligations.FenceAndCache := by
  unfold Obligations.FenceAndCache
  intro s S t gd ord sc base idx l off A x z m z' m' th g ht hg
  refine ⟨fun h hcopy hlog => ⟨fun hpass => fence_completes ht hg h hcopy hlog hpass rfl, fun hord hsc => ?waits⟩,
    fun h => ⟨cache_wide h fun s core => (s.cleanAll core).updCore core fun c => { c with cache := [] }, cache_wide h State.cleanAll⟩,
    fun h hA hx hl => ⟨?cinv, ?cclean⟩⟩
  case waits =>
    obtain ⟨c, th', -, hc, rfl, ht', -, hcont⟩ := h.fresh
    obtain rfl : th' = th := by simpa [ht'] using ht
    exact ⟨fun hne => fence_waits ht hg h hcopy hlog hord (releaseAt_waits_log hc ht hg hcont hsc hne), fun hempty h4 hack =>
      fence_waits ht hg h hcopy hlog hord (releaseAt_waits_posted hc ht hg hcont hsc hempty h4 hack)⟩
  case cinv => exact lineBody_completes h hA hx hl evict_note fun y core line => (evict_keeps y core line).1
  case cclean => exact lineBody_completes h hA hx hl cleanLine_note fun y core line => (cleanLine_keeps y core line).1

end Sys2Proof.Machine

end
section
/-! LAWS. LD, ST, ATOM, CAS and RED (12_memory R271 to R275; 08_gang R155): the data that they read, what they leave, and the obligation. -/

namespace Sys2Proof.Machine

open Sys2Proof

/-! ## Register data (R273) -/

theorem State.reads_length {s : State} {t : Nat} {rs : List (Nat × TagSet)} {ws : List TWord} {z m : Bool}
    (h : s.reads t rs = some (ws, z, m)) : ws.length = rs.length := by
  induction rs generalizing ws z m with
  | nil =>
    obtain ⟨rfl, -, -⟩ := State.reads_nil h
    rfl
  | cons r rs ih =>
    obtain ⟨w, z₁, m₁, vs, z₂, m₂, -, hrest, rfl, -, -⟩ := State.reads_cons h
    rw [List.length_cons, List.length_cons, ih hrest]

theorem wordsNat_lt (ws : List TWord) : wordsNat ws < 2 ^ (32 * ws.length) := by
  induction ws with
  | nil => decide
  | cons w ws ih =>
    have hw : w.bits.toNat < 2 ^ 32 := w.bits.isLt
    rw [wordsNat, List.length_cons, Nat.mul_succ, Nat.pow_add]
    omega

theorem wordsNat_lt_bytes {ws : List TWord} {n : Nat} (h : 4 * ws.length ≤ n) : wordsNat ws < 256 ^ n := by
  refine (wordsNat_lt ws).trans_le ?_
  rw [show 256 = 2 ^ 8 from rfl, ← Nat.pow_mul]
  exact Nat.pow_le_pow_right (by decide) (by omega)

theorem wordsNat_pair (l h : TWord) : wordsNat [l, h] = (pairOf l.bits h.bits).toNat := by
  rw [pairOf_toNat]
  rfl

section
variable {s : State} {t : Nat} {fs : List Field} {gd : Guard} (h : s.Runs t fs [] gd) {i d : Nat} {ws cs : List TWord} {z m z' m' : Bool}
include h

theorem State.Runs.words_read {n : Nat} (hr : s.reads t ((List.range n).map fun j => (i + j, .any)) = some (ws, z, m)) :
    s.Reads t (readWords i n) ws z m := by
  obtain ⟨c, th, hc, rfl, ht, -⟩ := h.start
  exact reads_readWords hc ht hr

/-- One register of data. -/
theorem State.Runs.one_read {ts : TagSet} (hr : s.reads t [(i, ts)] = some (ws, z, m)) : s.Reads t (readBits i ts) (wordsNat ws) z m := by
  obtain ⟨w, rfl⟩ := List.length_eq_one_iff.mp (State.reads_length hr)
  exact h.bits_read (State.reads_one hr)

/-- A pair of data; v0 stands for zero in both words (R179). -/
theorem State.Runs.pairAny_read (hr : s.reads t (dataRegs i 8) = some (ws, z, m)) : s.Reads t (pairAny i) (wordsNat ws, pairBits ws) z m := by
  by_cases h0 : i = 0
  · subst h0
    obtain ⟨rfl, rfl, rfl⟩ := State.reads_nil hr
    exact .pure s t (0, 0)
  · simp only [dataRegs, if_neg h0] at hr
    have hpair : pairAny i = readWords i 2 >>= fun ws => pure (wordsNat ws, pairBits ws) := if_neg (by simpa using h0)
    rw [hpair]
    exact (h.words_read (n := 2) hr).map fun ws => (wordsNat ws, pairBits ws)

/-- Data of fewer than 8 bytes, from one register. -/
theorem State.Runs.storeData_word {n : Nat} (hn : n < 8) (hr : s.reads t (dataRegs d n) = some (ws, z, m)) :
    s.Reads t (storeData d n) (wordsNat ws % 256 ^ n, 0) z m := by
  have hregs : dataRegs d n = [(d, .any)] := by rw [dataRegs, if_neg (by omega), if_neg (by omega)]
  have hdata : storeData d n = Machine.readReg d .any >>= fun w : TWord => pure (w.bits.toNat % 256 ^ n, 0) := by
    simp only [storeData, beq_iff_eq]
    rw [if_neg (by omega), if_neg (by omega), Nat.pow_mul]
  rw [hregs] at hr
  obtain ⟨w, rfl⟩ := List.length_eq_one_iff.mp (State.reads_length hr)
  rw [hdata]
  exact (h.reg_read (State.reads_one hr)).map fun w => (w.bits.toNat % 256 ^ n, 0)

theorem State.Runs.storeData_read (w : StWidth) (hr : s.reads t (dataRegs d (stSize w)) = some (ws, z, m)) :
    s.Reads t (storeData d (stSize w)) (wordsNat ws % 256 ^ stSize w, if stSize w < 8 then 0 else pairBits ws) z m := by
  cases w with
  | b128 =>
    have hlen : ws.length = 4 := State.reads_length hr
    show s.Reads t (storeData d 16) (wordsNat ws % 256 ^ 16, pairBits ws) z m
    rw [Nat.mod_eq_of_lt (wordsNat_lt_bytes (by omega))]
    exact (h.words_read (n := 4) hr).map fun ws => (wordsNat ws, pairBits ws)
  | b64 =>
    have hlen : ws.length ≤ 2 := by
      rw [State.reads_length hr]
      show (if d = 0 then [] else [(d, TagSet.any), (d + 1, .any)]).length ≤ 2
      split
      · exact Nat.zero_le 2
      · exact le_rfl
    show s.Reads t (pairAny d) (wordsNat ws % 256 ^ 8, pairBits ws) z m
    rw [Nat.mod_eq_of_lt (wordsNat_lt_bytes (by omega))]
    exact h.pairAny_read hr
  | _ => exact h.storeData_word (by decide) hr

/-- The operand of an atomic (Table 12.6). -/
theorem State.Runs.atomOperand_read (op : AtomOp) (hr : s.reads t (atomRegs op i) = some (ws, z, m)) :
    s.Reads t (atomOperand op i) (wordsNat ws, if op = .exch64 then pairBits ws else 0) z m := by
  cases op with
  | add64 =>
    refine State.Reads.map (a := wordsNat ws) ?_ fun v => (v, 0)
    by_cases h0 : i = 0
    · subst h0
      obtain ⟨rfl, rfl, rfl⟩ := State.reads_nil hr
      exact .pure s t 0
    · simp only [atomRegs, if_neg h0] at hr
      obtain ⟨l, v, rfl⟩ := List.length_eq_two.mp (State.reads_length hr)
      rw [wordsNat_pair]
      exact h.pair_read (by rw [State.srcPair, if_neg h0, hr])
  | exch64 => exact h.pairAny_read hr
  | _ => exact (h.one_read hr).map fun v => (v, 0)

/-- The comparand and the new value of CAS (R275). -/
theorem State.Runs.casOperands_read (w64 : Bool) (hc : s.reads t (if w64 then dataRegs i 8 else [(i, .any)]) = some (cs, z, m))
    (hv : s.reads t (if w64 then [(i + 2, .any), (i + 3, .any)] else [(i + 1, .any)]) = some (ws, z', m')) :
    s.Reads t (casOperands w64 i) (wordsNat cs, wordsNat ws, if w64 then pairBits ws else 0) (z || z') (m || m') := by
  cases w64 with
  | true =>
    have hnew := (h.words_read (n := 2) (i := i + 2) hv).map fun ws => (wordsNat ws, pairBits ws)
    exact (h.pairAny_read hc).bind (hnew.map fun p => (wordsNat cs, p.1, p.2))
  | false => exact (h.one_read hc).bind ((h.one_read hv).map fun v => (wordsNat cs, v, 0))

end

/-! ## What a load leaves (R155) -/

theorem writeWords_run {s : State} {c : Cur} (hc : s.cur = some c) (ws : List (Nat × TWord)) :
    writeWords ws s = .ok ⟨⟩ (s.writeRegs c.t ws) := by
  induction ws generalizing s with
  | nil => rfl
  | cons w ws ih =>
    obtain ⟨i, w⟩ := w
    have hword : writeReg i w.bits.toNat w.tag s = .ok ⟨⟩ (s.writeReg c.t i w) := by
      simp only [writeReg, bind_run, curT_run hc, modify_run, BitVec.ofNat_toNat, BitVec.setWidth_eq]
    rw [writeWords, bind_ok hword, ih (by rw [State.writeReg_cur, hc]), State.writeRegs]

theorem State.writeRegs_updThread (s : State) (u : Nat) (f : Thread → Thread) (t : Nat) (ws : List (Nat × TWord)) :
    (s.updThread u f).writeRegs t ws = (s.writeRegs t ws).updThread u f := by
  induction ws generalizing s with
  | nil => rfl
  | cons w ws ih => rw [State.writeRegs, State.writeRegs, State.writeReg_updThread, ih]

theorem State.writeRegs_threads (s : State) (t : Nat) (ws : List (Nat × TWord)) : (s.writeRegs t ws).threads = s.threads := by
  obtain ⟨gs, hgs, -⟩ := s.writeRegs_shape t ws
  rw [hgs]

/-- A thread to which the words of a load are to be delivered. -/
def Thread.awaiting (ws : List (Nat × TWord)) (th : Thread) : Thread := { th with loads := th.loads ++ [⟨ws.filter fun e => e.1 != 0⟩] }

/-- Words delivered, and completion, once registers have been read. -/
theorem deliver_done {s : State} {c : Cur} {th : Thread} (hc : s.cur = some c) (ht : s.threads.find c.t = some th) (ws : List (Nat × TWord))
    (gl : Bool) (B : AMap TWord) (z m : Bool) : ∃ T, deliver ws gl (s.reading c.t B z m) = .ok .seq T ∧ T.done c.t = s.loaded c.t ws gl z m := by
  cases gl with
  | true =>
    refine ⟨_, bind_ok (modThread_run (s := s.reading c.t B z m) hc _), ?_⟩
    exact congrArg (·.advance c.t) (State.commit_reading_change (f := Thread.awaiting ws) ht B z m fun _ _ _ _ => rfl)
  | false =>
    refine ⟨_, bind_ok (writeWords_run (s := s.reading c.t B z m) hc ws), ?_⟩
    have ht' : (s.writeRegs c.t ws).threads.find c.t = some th := by rw [State.writeRegs_threads, ht]
    rw [State.reading, State.writeRegs_updThread, ← State.reading, State.done_reading ht', State.loaded, State.noted, State.noted,
      State.writeRegs_updThread]
    rfl

/-! ## Instructions that end in an access -/

section
variable {s S : State} {t : Nat} {fs : List Field} {gd : Guard} (h : s.Runs t fs [] gd) {body : M Flow} {z m : Bool}
include h

theorem State.Runs.answered {α : Type} {op : M α} {r : α} (hop : s.Answers S t z m op r) :
    ∃ c th, S.cur = some c ∧ c.t = t ∧ S.threads.find t = some th := by
  obtain ⟨c, th, hc, hct, ht, -⟩ := h.start
  exact ⟨c, th, hop.1.trans hc, hct, hop.2.1.trans ht⟩

/-- A body that reads operands, accesses memory, and delivers what it got. -/
theorem code_delivers {op : M (Got × Bool)} {got : Got} {gl : Bool} {k : Got × Bool → M Flow} {ws : List (Nat × TWord)}
    (hb : s.Comes t body (op >>= k) z m) (hop : s.Answers S t z m op (got, gl)) (hk : k (got, gl) = deliver ws gl) (ds : List Dest) :
    code fs gd ds body s = .next (S.loaded t ws gl z m) := by
  obtain ⟨c, th, hc, rfl, ht⟩ := h.answered hop
  refine code_comes h hb fun B => ?_
  obtain ⟨T, hT, hdone⟩ := deliver_done hc ht ws gl B z m
  exact ⟨T, by rw [hop.bind_run, hk, hT], hdone⟩

/-- A body that reads operands, accesses memory, and gets nothing. -/
theorem code_accesses {op : M Unit} (hb : s.Comes t body (op >>= fun _ => pure .seq) z m) (hop : s.Answers S t z m op ⟨⟩) (ds : List Dest) :
    code fs gd ds body s = .next ((S.noted t z m 0).done t) := by
  obtain ⟨c, th, -, rfl, ht⟩ := h.answered hop
  exact code_comes h hb fun B => ⟨_, hop.bind_run _ B, State.done_reading ht ..⟩

/-- The same for a store. -/
theorem codeStore_accesses {op : M Unit} (hb : s.Comes t body (op >>= fun _ => pure .seq) z m) (hop : s.Answers S t z m op ⟨⟩)
    (data : List Nat) : codeStore fs data gd body s = .next ((S.noted t z m 0).done t) := by
  obtain ⟨c, th, -, rfl, ht⟩ := h.answered hop
  obtain ⟨B, e⟩ := hb [] false false (s.agrees_nil c.t false false)
  rw [h.unread, Bool.false_or, Bool.false_or, hop.bind_run] at e
  rw [codeStore_next (f := .seq) h e, ← State.done_reading ht B]
  rfl

end

/-- Settles O19: each instruction reads its address and its data, makes its access, and delivers what that got or completes. -/
theorem memoryInstructions : Obligations.MemoryInstructions := by
  unfold Obligations.MemoryInstructions
  intro s S t gd d base idx sc off lw sw acq rel w64 gl cls op ord A x ws cs got z m z' m' z'' m'' z3 m3 hA
  refine ⟨fun h hx hop => ?ld, fun h hx hws hop => ?st, fun h hws hop => ?atom, fun h hcs hws hop => ?cas, fun h hx hws hop => ?red⟩
  case ld => exact code_delivers h (.last (h.address_read hA off hx) .refl) hop rfl _
  case st => exact codeStore_accesses h (.read (h.address_read hA off hx) (.last (h.storeData_read sw hws) .refl)) hop _
  case atom => exact code_delivers h (.read (h.plain_address_read hA off) (.last (h.atomOperand_read op hws) .refl)) hop rfl _
  case cas =>
    rw [Bool.or_assoc, Bool.or_assoc] at hop ⊢
    simp only [← beq_iff_eq (a := _) (b := wordsNat cs)] at hop
    exact code_delivers h (.read (h.plain_address_read hA off) (.last (h.casOperands_read w64 hcs hws) .refl)) hop rfl _
  case red => exact code_accesses h (.read (h.address_read hA off hx) (.last (h.atomOperand_read op hws) .refl)) hop _

end Sys2Proof.Machine

end
section
/-! LAWS. Copies into scratch (12_memory R279 to R282): CPA, WAITB and CPB, and the obligation. -/

namespace Sys2Proof.Machine

open Sys2Proof

/-! ## A copy is issued -/

/-- A copy of a thread is in flight; the next one takes the next number (R281). -/
def State.launched (s : State) (t : Nat) (l : Landing) : State :=
  { s with issueNo := s.issueNo + 1 }.updCore (coreOf t) fun c => { c with landings := c.landings ++ [l] }

theorem launchCopy_run {s : State} {c : Cur} (hc : s.cur = some c) (l : Landing) : launchCopy l s = .ok ⟨⟩ (s.launched c.t l) := by
  rw [launchCopy, bind_ok (curT_run hc), modify_run]
  rfl

/-- What an instruction holds of windows and stacks does not hang on what it has read. -/
theorem State.reading_setRanges (s : State) (t : Nat) (B : AMap TWord) (z m : Bool) (rs : List (Home × Nat)) :
    (s.reading t B z m).updThread t (fun y => { y with ranges := rs }) = (s.updThread t fun y => { y with ranges := rs }).reading t B z m := by
  rw [State.reading, State.reading, State.updThread_updThread, State.updThread_updThread]

/-! ## CPA (R279) -/

/-- The copy that CPA issues, by its source. -/
def cpaLand (vb : Nat) (l : Landing) : CpaSrc → M Landing
  | .zero => pure { l with got := some (0, false) }
  | .row v => pure { l with got := some (v.getD 0, v.isNone) }
  | .glob pa pte va => do
    let (pa, r) ← copySource pa pte va vb
    pure { l with pa := pa, rem := r }

/-- One more copy under a batch tag. -/
def Thread.countUp (bt : Nat) (th : Thread) : Thread := { th with bt := th.bt.set bt (th.bt.getD bt 0 + 1) }

/-- The end of CPA, once its source is checked. -/
def cpaIssue (bt : Nat) (cls : AccClass) (a vb n dst : Nat) (h : Home) (o : Nat) (src : CpaSrc) : M Flow := do
  let th ← thread
  if 63 ≤ th.bt.getD bt 0 then waitFor (.batch bt 62)
  let t ← curT
  let gg ← gang
  let l : Landing := { t := t, lin := th.lin, ctx := gg.ctx, bt := some bt, home := h, off := o, len := n, vb := vb, dst := dst, src := a,
                       pa := 0, cls := cls, got := none, rem := none, no := (← get).issueNo, bar := none }
  let l ← match src with
    | .zero => pure { l with got := some (0, false) }
    | .row v => pure { l with got := some (v.getD 0, v.isNone) }
    | .glob pa pte va => do
      let (pa, r) ← copySource pa pte va vb
      pure { l with pa := pa, rem := r }
  modThread fun th => { th with bt := th.bt.set bt (th.bt.getD bt 0 + 1) }
  launchCopy l
  pure .seq

/-- CPA once its operands are read. -/
def cpaRest (bt : Nat) (cls : AccClass) (a vb n dst : Nat) : M Flow := do
  let (h, o) ← scratchAt dst n n
  modThread fun th => { th with ranges := [(h, o + n)] }
  let src ← cpaSource a vb n
  checkBrk dst n false true
  if vb != 0 then checkBrk a vb true false
  cpaIssue bt cls a vb n dst h o src

/-- CPA of `n` bytes. -/
def cpaBody (bt : Nat) (cls : AccClass) (base idx : Nat) (off : Int) (n d : Nat) : M Flow :=
  effAddr0 base off >>= fun a => natSrc idx >>= fun x => readAddr d >>= fun dst => cpaRest bt cls a (min x n) n dst

theorem exec_cpa (gd : Guard) (d base idx : Nat) (off : Int) (lgw bt : Nat) (cls : AccClass) :
    exec (.cpa gd d base idx off lgw bt cls) = code [.even d, .even base, .r idx] gd [] (cpaBody bt cls base idx off (4 * 2 ^ lgw) d) := rfl

/-- A copy of CPA before its source is known. -/
def cpaLanding (t lin ctx bt : Nat) (h : Home) (o n vb dst a : Nat) (cls : AccClass) (no : Nat) : Landing where
  t := t
  lin := lin
  ctx := ctx
  bt := some bt
  home := h
  off := o
  len := n
  vb := vb
  dst := dst
  src := a
  pa := 0
  cls := cls
  got := none
  rem := none
  no := no
  bar := none

theorem cpaIssue_eq (bt : Nat) (cls : AccClass) (a vb n dst : Nat) (h : Home) (o : Nat) (src : CpaSrc) : cpaIssue bt cls a vb n dst h o src = (do
    let th ← thread
    if 63 ≤ th.bt.getD bt 0 then waitFor (.batch bt 62)
    let t ← curT
    let gg ← gang
    let s ← get
    let l ← cpaLand vb (cpaLanding t th.lin gg.ctx bt h o n vb dst a cls s.issueNo) src
    modThread (Thread.countUp bt)
    launchCopy l
    pure .seq) := by
  cases src with
  | zero => rfl
  | row v => rfl
  | glob pa pte va =>
    simp only [cpaIssue, cpaLand, bind_assoc]
    rfl

section
variable {s S S' : State} {c : Cur} {u : Thread} {g : Gang} {bt : Nat} {cls : AccClass} {a vb n dst o : Nat} {h : Home} {src : CpaSrc}
  {l : Landing}

/-- A copy that goes: its tag counts up, and it is in flight. -/
theorem cpaIssue_run (hc : S.cur = some c) (hu : S.threads.find c.t = some u) (hg : S.gangs.find (gidOf c.t) = some g)
    (hroom : u.bt.getD bt 0 < 63)
    (hland : S.Turns S' c.t (cpaLand vb (cpaLanding c.t u.lin g.ctx bt h o n vb dst a cls S.issueNo) src) l false) (B : AMap TWord)
    (z m : Bool) : cpaIssue bt cls a vb n dst h o src (S.reading c.t B z m) =
      .ok .seq (((S'.launched c.t l).reading c.t B z m).updThread c.t (Thread.countUp bt)) := by
  have hcur : (S'.reading c.t B z m).cur = some c := hland.1.trans hc
  have hno : (S.reading c.t B z m).issueNo = S.issueNo := rfl
  rw [cpaIssue_eq, bind_ok (thread_reading hc hu B z m)]
  dsimp only
  rw [if_neg (by omega), bind_ok (curT_run (s := S.reading c.t B z m) hc), bind_ok (gang_run (s := S.reading c.t B z m) hc hg),
    bind_ok (get_run _), hno, bind_ok (hland.run B z m), bind_ok (modThread_run hcur _),
    bind_ok (launchCopy_run (s := (S'.reading c.t B z m).updThread c.t _) hcur l)]
  rfl

/-- The checks of CPA pass, and the copy goes. -/
theorem cpaRest_run (hc : s.cur = some c) (hat : s.Gives c.t (scratchAt dst n n) (h, o)) {zr : Bool}
    (hsrc : (s.updThread c.t fun y => { y with ranges := [(h, o + n)] }).Turns S c.t (cpaSource a vb n) src zr)
    (hbrk : S.Gives c.t (checkBrk dst n false true) ⟨⟩) (hload : vb ≠ 0 → S.Gives c.t (checkBrk a vb true false) ⟨⟩) (B : AMap TWord)
    (z m : Bool) : cpaRest bt cls a vb n dst (s.reading c.t B z m) = cpaIssue bt cls a vb n dst h o src (S.reading c.t B (z || zr) m) := by
  rw [cpaRest, bind_ok (hat.run B z m)]
  dsimp only
  rw [bind_ok (modThread_run (s := s.reading c.t B z m) hc _), State.reading_setRanges, bind_ok (hsrc.run_lapse B z m),
    bind_ok (hbrk.run B _ m)]
  by_cases hvb : vb = 0
  · rw [if_neg (by simpa using hvb)]
  · rw [if_pos (by simpa using hvb), bind_ok ((hload hvb).run B _ m)]

end

/-- An instruction's body after its reads. -/
theorem State.Runs.body_comes {s : State} {t : Nat} {fs : List Field} {gd : Guard} (h : s.Runs t fs [] gd) {body rest : M Flow} {z m : Bool}
    (hb : s.Comes t body rest z m) : ∃ B, body s = rest (s.reading t B z m) := by
  obtain ⟨B, e⟩ := hb [] false false (s.agrees_nil t false false)
  rw [h.unread, Bool.false_or, Bool.false_or] at e
  exact ⟨B, e⟩

section
variable {s S S' : State} {t : Nat} {gd : Guard} {d base idx lgw bt o vb : Nat} {off : Int} {cls : AccClass} {A D : DWord} {x : TWord}
  {h : Home} {z1 z2 z3 m1 m2 m3 zr : Bool} {th : Thread} {g : Gang} {src : CpaSrc} {l : Landing}

/-- CPA whose checks pass and whose batch tag has room issues its copy and completes. -/
theorem cpa_issues (ht : s.threads.find t = some th)
    (hrun : s.Runs t [.even d, .even base, .r idx] [] gd) (hA : s.srcPair t base .loAddr .hiAddr = some (A, z1, m1))
    (hx : s.reads t [(idx, .int)] = some ([x], z2, m2)) (hD : s.srcPair t d .loAddr .hiAddr = some (D, z3, m3))
    (hat : s.Gives t (scratchAt D.toNat (4 * 2 ^ lgw) (4 * 2 ^ lgw)) (h, o)) (hroom : th.bt.getD bt 0 < 63)
    (hvb : min x.bits.toNat (4 * 2 ^ lgw) = vb)
    (hsrc : (s.updThread t fun y => { y with ranges := [(h, o + 4 * 2 ^ lgw)] }).Turns S t (cpaSource (addressOf A 0 off) vb (4 * 2 ^ lgw)) src zr)
    (hbrk : S.Gives t (checkBrk D.toNat (4 * 2 ^ lgw) false true) ⟨⟩) (hload : vb ≠ 0 → S.Gives t (checkBrk (addressOf A 0 off) vb true false) ⟨⟩)
    (hg : ∃ g', S.gangs.find (gidOf t) = some g' ∧ g'.ctx = g.ctx)
    (hland : S.Turns S' t (cpaLand vb (cpaLanding t th.lin g.ctx bt h o (4 * 2 ^ lgw) vb D.toNat (addressOf A 0 off) cls S.issueNo) src) l false) :
    exec (.cpa gd d base idx off lgw bt cls) s =
      .next ((((S'.noted t (z1 || z2 || z3 || zr) (m1 || m2 || m3) 0).updThread t (Thread.countUp bt)).launched t l).done t) := by
  obtain ⟨c, -, hc, rfl, -⟩ := hrun.start
  obtain ⟨g', hg', hctx⟩ := hg
  rw [← hctx] at hland
  subst hvb
  have hu : S.threads.find c.t = some { th with ranges := [(h, o + 4 * 2 ^ lgw)] } := by simp [hsrc.2.1, ht]
  have hu' : (S'.launched c.t l).threads.find c.t = some { th with ranges := [(h, o + 4 * 2 ^ lgw)] } := by
    rw [← hu, ← hland.2.1]
    rfl
  have hreads : s.Comes c.t (cpaBody bt cls base idx off (4 * 2 ^ lgw) d)
      (cpaRest bt cls (addressOf A 0 off) (min x.bits.toNat (4 * 2 ^ lgw)) (4 * 2 ^ lgw) D.toNat) (z1 || (z2 || z3)) (m1 || (m2 || m3)) :=
    .read (hrun.plain_address_read hA off) (.read (hrun.nat_read (State.reads_one hx)) (.last (hrun.pair_read hD) .refl))
  obtain ⟨B, hB⟩ := hrun.body_comes hreads
  rw [cpaRest_run hc hat hsrc hbrk hload, cpaIssue_run (hsrc.1.trans hc) hu hg' hroom hland, ← Bool.or_assoc, ← Bool.or_assoc] at hB
  rw [exec_cpa, code_next hrun hB]
  exact congrArg (fun s => Host.Outcome.next (s.advance c.t)) (State.commit_reading_change (f := Thread.countUp bt) hu' B _ _ fun _ _ _ _ => rfl)

end

/-! ### Sources (R279) -/

theorem cpaSource_zero {s : State} {t a vb n : Nat} (hvb : vb = 0) : s.Gives t (cpaSource a vb n) .zero := by
  subst hvb
  exact turns_pure ..

section
variable {s S : State} {t a vb n : Nat} (hvb : vb ≠ 0)
include hvb

theorem cpaSource_of_pos : cpaSource a vb n = (do
    match ← checkMem a vb n with
    | .row h off => pure (.row (← copyRow h off vb a))
    | .glob va => do
      let (pa, pte) ← copyCheck va vb
      pure (.glob pa pte va)) := if_neg (by simpa using hvb)

theorem cpaSource_row {h : Home} {off : Nat} {v : Option Nat} {z : Bool} (hm : s.Gives t (checkMem a vb n) (.row h off))
    (hr : s.Turns S t (copyRow h off vb a) v z) : s.Turns S t (cpaSource a vb n) (.row v) z := by
  rw [cpaSource_of_pos hvb, ← Bool.or_false z]
  exact gives_bind hm (turns_bind hr (turns_pure ..))

theorem cpaSource_glob {pa pte va : Nat} (hm : s.Gives t (checkMem a vb n) (.glob va))
    (hr : s.Turns S t (copyCheck va vb) (pa, pte) false) : s.Turns S t (cpaSource a vb n) (.glob pa pte va) false := by
  rw [cpaSource_of_pos hvb]
  exact gives_bind hm (turns_bind hr (turns_pure ..))

end

/-! ## WAITB (R280) -/

theorem exec_waitb (gd : Guard) (bt n : Nat) : exec (.waitb gd bt n) = code [] gd [] (do
    reportCopies
    let th ← thread
    if th.bt.getD bt 0 ≤ n then pure .seq else waitFor (.batch bt n)) := rfl

section
variable {s : State} {t bt n : Nat} {gd : Guard} {th : Thread} (ht : s.threads.find t = some th) (h : s.Runs t [] [] gd)
  (hcopy : th.copyFaults = [])
include ht h hcopy

theorem waitb_completes (hn : th.bt.getD bt 0 ≤ n) : exec (.waitb gd bt n) s = .next (s.done t) := by
  obtain ⟨c, -, hc, rfl, -⟩ := h.start
  rw [exec_waitb]
  refine code_next (f := .seq) h ?_
  rw [bind_ok (reportCopies_none hc ht hcopy), bind_ok (thread_run hc ht), if_pos hn, pure_run]

theorem waitb_waits (hn : n < th.bt.getD bt 0) : exec (.waitb gd bt n) s = .next (s.waitOn t (.batch bt n)) := by
  obtain ⟨c, -, hc, rfl, -⟩ := h.start
  rw [exec_waitb, h.code_eq]
  refine runCode_wait hc ?_
  rw [bind_ok (reportCopies_none hc ht hcopy), bind_ok (thread_run hc ht), if_neg (by omega), waitFor, throw_run]

end

/-! ## CPB (R282) -/

/-- The copy of CPB's piece `p`. -/
def cpbLanding (t lin ctx : Nat) (h : Home) (o dst : Nat) (p : Nat × Nat) (pa : Nat) (cls : AccClass) (r : Option Nat) (no : Nat)
    (bar : Home × Nat × Nat) : Landing where
  t := t
  lin := lin
  ctx := ctx
  bt := none
  home := h
  off := o
  len := p.2
  vb := p.2
  dst := dst
  src := p.1
  pa := pa
  cls := cls
  got := none
  rem := r
  no := no
  bar := some bar

/-- `swp` at iteration `i`, or inactive. -/
def Thread.atSweep (go : Bool) (i : Nat) (th : Thread) : Thread := { th with swpAct := go, swpIter := i }

/-- CPB after a piece: the next one for another issue, or its end. -/
def cpbNext (k count : Nat) : M Flow :=
  if k + 1 < count then do
    modThread fun th => { th with swpAct := true, swpIter := k + 1 }
    pure .again
  else do
    modThread fun th => { th with swpAct := false, swpIter := 0 }
    pure .seq

/-- Piece `k` of CPB is checked and goes. -/
def cpbPiece (lin : Nat) (cls : AccClass) (a n dst k : Nat) (h : Home) (o : Nat) (bh : Home) (bo bar : Nat) : M Flow := do
  modThread fun th => { th with swpAct := true, swpIter := k }
  modThread fun th => { th with ranges := [(h, o + n), (bh, bo + 16)] }
  let (pp, pte) ← copyCheck (piece a n k).1 (piece a n k).2
  checkBrk (piece a n k).1 (piece a n k).2 true false
  checkBrk (dst + ((piece a n k).1 - a)) (piece a n k).2 false true
  let t ← curT
  let gg ← gang
  let (phys, r) ← copySource pp pte (piece a n k).1 (piece a n k).2
  let s ← get
  launchCopy (cpbLanding t lin gg.ctx h (o + ((piece a n k).1 - a)) (dst + ((piece a n k).1 - a)) (piece a n k) phys cls r s.issueNo
    (bh, bo, bar))
  cpbNext k (pieceCount a n)

/-- CPB once its operands are read. -/
def cpbRest (cls : AccClass) (a n dst bar : Nat) : M Flow := do
  let th ← thread
  if n == 0 || n % 32 != 0 || 65536 < n then trap .illegal th.pc
  if a / 2 ^ 56 != 0 || 2 ^ 56 < a + n || a % 32 != 0 then trap .addr a
  let (h, o) ← scratchAt dst n 32
  let (bh, bo) ← scratchAt bar 16 16
  if pieceCount a n ≤ th.sweepStart then do
    modThread fun th => { th with swpAct := false, swpIter := 0 }
    pure .seq
  else cpbPiece th.lin cls a n dst th.sweepStart h o bh bo bar

/-- The address of CPB's barrier. -/
def cpbBar (d : Nat) : M Nat := do
  let lo ← readBits (d + 2) .loAddr
  let hi ← readBits (d + 3) .hiAddr
  pure (lo + 2 ^ 32 * hi)

/-- CPB. -/
def cpbBody (cls : AccClass) (base idx : Nat) (off : Int) (d : Nat) : M Flow :=
  effAddr0 base off >>= fun a => natSrc idx >>= fun n => readAddr d >>= fun dst => cpbBar d >>= fun bar => cpbRest cls a n dst bar

theorem exec_cpb (gd : Guard) (d base idx : Nat) (off : Int) (cls : AccClass) :
    exec (.cpb gd d base idx off cls) = codeSwp [.even d, .range (d + 2) 2, .even base, .r idx] [] gd [] (cpbBody cls base idx off d) := rfl

theorem cpbNext_run {s : State} {c : Cur} (hc : s.cur = some c) (k count : Nat) : cpbNext k count s =
    .ok (if k + 1 < count then .again else .seq) (s.updThread c.t (Thread.atSweep (k + 1 < count) (if k + 1 < count then k + 1 else 0))) := by
  unfold cpbNext
  split
  · rw [bind_ok (modThread_run hc _), pure_run]
    simp only [*, decide_true]
    rfl
  · rw [bind_ok (modThread_run hc _), pure_run]
    simp only [*, decide_false]
    rfl

/-- The thread of CPB, at piece `k`, with the ranges that it names. -/
def Thread.atPiece (k : Nat) (rs : List (Home × Nat)) (th : Thread) : Thread := { th with swpAct := true, swpIter := k, ranges := rs }

theorem State.reading_atPiece (s : State) (t : Nat) (B : AMap TWord) (z m : Bool) (k : Nat) (rs : List (Home × Nat)) :
    ((s.reading t B z m).updThread t fun y => { y with swpAct := true, swpIter := k }).updThread t (fun y => { y with ranges := rs }) =
      (s.updThread t (Thread.atPiece k rs)).reading t B z m := by
  simp only [State.reading, State.updThread_updThread]
  rfl

section
variable {s S S' : State} {c : Cur} {g : Gang} {cls : AccClass} {a n dst bar k pp pte pa o bo lin : Nat} {h bh : Home} {r : Option Nat}

/-- The checks of a piece pass, and the piece goes. -/
theorem cpbPiece_run (hc : s.cur = some c)
    (hcheck : (s.updThread c.t (Thread.atPiece k [(h, o + n), (bh, bo + 16)])).Turns S c.t (copyCheck (piece a n k).1 (piece a n k).2)
      (pp, pte) false)
    (hg : ∃ g', S.gangs.find (gidOf c.t) = some g' ∧ g'.ctx = g.ctx)
    (hload : S.Gives c.t (checkBrk (piece a n k).1 (piece a n k).2 true false) ⟨⟩)
    (hstore : S.Gives c.t (checkBrk (dst + ((piece a n k).1 - a)) (piece a n k).2 false true) ⟨⟩)
    (hsrc : S.Turns S' c.t (copySource pp pte (piece a n k).1 (piece a n k).2) (pa, r) false) (B : AMap TWord) (z m : Bool) :
    cpbPiece lin cls a n dst k h o bh bo bar (s.reading c.t B z m) =
      .ok (if k + 1 < pieceCount a n then .again else .seq) (((S'.launched c.t (cpbLanding c.t lin g.ctx h (o + ((piece a n k).1 - a))
        (dst + ((piece a n k).1 - a)) (piece a n k) pa cls r S'.issueNo (bh, bo, bar))).reading c.t B z m).updThread c.t
          (Thread.atSweep (k + 1 < pieceCount a n) (if k + 1 < pieceCount a n then k + 1 else 0))) := by
  obtain ⟨g', hg', hctx⟩ := hg
  have hcS : (S.reading c.t B z m).cur = some c := hcheck.1.trans hc
  have hcS' : (S'.reading c.t B z m).cur = some c := hsrc.1.trans hcS
  have hno : (S'.reading c.t B z m).issueNo = S'.issueNo := rfl
  rw [cpbPiece, bind_ok (modThread_run (s := s.reading c.t B z m) hc _), bind_ok (modThread_run (s := (s.reading c.t B z m).updThread c.t _) hc _),
    State.reading_atPiece, bind_ok (hcheck.run B z m)]
  dsimp only
  rw [bind_ok (hload.run B z m), bind_ok (hstore.run B z m), bind_ok (curT_run hcS),
    bind_ok (gang_run (s := S.reading c.t B z m) hcS hg'), bind_ok (hsrc.run B z m)]
  dsimp only
  rw [bind_ok (get_run _), hno, hctx, bind_ok (launchCopy_run hcS' _), cpbNext_run (s := (S'.reading c.t B z m).launched c.t _) hcS']
  rfl

/-- The operands of CPB pass their checks, and a piece is left. -/
theorem cpbRest_run {th : Thread} (hc : s.cur = some c) (ht : s.threads.find c.t = some th) (hpos : 0 < n) (hmul : n % 32 = 0)
    (hmax : n ≤ 65536) (hal : a % 32 = 0) (htop : a + n ≤ 2 ^ 56) (hat : s.Gives c.t (scratchAt dst n 32) (h, o))
    (hbar : s.Gives c.t (scratchAt bar 16 16) (bh, bo)) (hk : th.sweepStart < pieceCount a n) (B : AMap TWord) (z m : Bool) :
    cpbRest cls a n dst bar (s.reading c.t B z m) = cpbPiece th.lin cls a n dst th.sweepStart h o bh bo bar (s.reading c.t B z m) := by
  have hlen : ¬(n == 0 || n % 32 != 0 || decide (65536 < n)) = true := by simp; omega
  have haddr : ¬(a / 2 ^ 56 != 0 || decide (2 ^ 56 < a + n) || a % 32 != 0) = true := by
    have hdiv : a / 2 ^ 56 = 0 := Nat.div_eq_of_lt (by omega)
    simp only [hdiv, hal, bne_self_eq_false, Bool.false_or, Bool.or_false, decide_eq_true_eq]
    omega
  rw [cpbRest, bind_ok (thread_reading hc ht B z m)]
  dsimp only
  rw [if_neg hlen, if_neg haddr, bind_ok (hat.run B z m)]
  dsimp only
  rw [bind_ok (hbar.run B z m)]
  exact congrFun (if_neg (by exact Nat.not_le.mpr hk)) _

end

/-- The address of CPB's barrier, from two registers. -/
theorem State.Runs.cpbBar_read {s : State} {t d : Nat} {fs : List Field} {gd : Guard} (h : s.Runs t fs [] gd) {lo hi : TWord} {z m : Bool}
    (hr : s.reads t [(d + 2, .loAddr), (d + 3, .hiAddr)] = some ([lo, hi], z, m)) :
    s.Reads t (cpbBar d) (lo.bits.toNat + 4294967296 * hi.bits.toNat) z m := by
  obtain ⟨z₁, m₁, z₂, m₂, hlo, hhi, rfl, rfl⟩ := State.reads_two hr
  exact (h.bits_read hlo).bind ((h.bits_read hhi).map fun v => lo.bits.toNat + 2 ^ 32 * v)

section
variable {s S S' : State} {t : Nat} {gd : Guard} {d base idx pp pte pa o bo n bar : Nat} {off : Int} {cls : AccClass} {A D : DWord}
  {x lo hi : TWord} {h bh : Home} {r : Option Nat} {z1 z2 z3 z4 m1 m2 m3 m4 : Bool} {th : Thread}

/-- CPB comes to its piece once its operands are read and pass their checks. -/
theorem cpb_comes (ht : s.threads.find t = some th) (hrun : s.Runs t [.even d, .range (d + 2) 2, .even base, .r idx] [] gd)
    (hA : s.srcPair t base .loAddr .hiAddr = some (A, z1, m1)) (hx : s.reads t [(idx, .int)] = some ([x], z2, m2))
    (hD : s.srcPair t d .loAddr .hiAddr = some (D, z3, m3))
    (hb : s.reads t [(d + 2, .loAddr), (d + 3, .hiAddr)] = some ([lo, hi], z4, m4)) (hn : x.bits.toNat = n)
    (hbar : lo.bits.toNat + 4294967296 * hi.bits.toNat = bar) (hpos : 0 < n) (hmul : n % 32 = 0)
    (hmax : n ≤ 65536) (hal : addressOf A 0 off % 32 = 0) (htop : addressOf A 0 off + n ≤ 2 ^ 56)
    (hat : s.Gives t (scratchAt D.toNat n 32) (h, o)) (hbat : s.Gives t (scratchAt bar 16 16) (bh, bo))
    (hk : th.sweepStart < pieceCount (addressOf A 0 off) n) :
    ∃ B, cpbBody cls base idx off d s = cpbPiece th.lin cls (addressOf A 0 off) n D.toNat th.sweepStart h o bh bo bar
      (s.reading t B (z1 || z2 || z3 || z4) (m1 || m2 || m3 || m4)) := by
  obtain ⟨c, -, hc, rfl, -⟩ := hrun.start
  subst hn hbar
  have hreads : s.Comes c.t (cpbBody cls base idx off d)
      (cpbRest cls (addressOf A 0 off) x.bits.toNat D.toNat (lo.bits.toNat + 4294967296 * hi.bits.toNat)) (z1 || (z2 || (z3 || z4)))
      (m1 || (m2 || (m3 || m4))) :=
    .read (hrun.plain_address_read hA off) (.read (hrun.nat_read (State.reads_one hx)) (.read (hrun.pair_read hD)
      (.last (hrun.cpbBar_read hb) .refl)))
  obtain ⟨B, hB⟩ := hrun.body_comes hreads
  rw [cpbRest_run hc ht hpos hmul hmax hal htop hat hbat hk, ← Bool.or_assoc, ← Bool.or_assoc, ← Bool.or_assoc, ← Bool.or_assoc] at hB
  exact ⟨B, hB⟩

end

/-- A piece in flight, and `swp` moved: the rest of the thread stands. -/
theorem State.launched_atSweep {s : State} {t : Nat} {u : Thread} (hu : s.threads.find t = some u) (B : AMap TWord) (z m : Bool) (l : Landing)
    (go : Bool) (i : Nat) : ((s.launched t l).reading t B z m).updThread t (Thread.atSweep go i) =
      ((s.reading t B z m).updThread t fun y => { y with cont := u.cont, swpAct := go, swpIter := i }).launched t l := by
  have hr : (s.reading t B z m).threads.find t =
      some { u with opbuf := B, pendLapf := u.pendLapf || z, pendMis := u.pendMis || m } := by simp [State.reading, hu]
  have hmoved : (s.reading t B z m).updThread t (Thread.atSweep go i) =
      (s.reading t B z m).updThread t fun y => { y with cont := u.cont, swpAct := go, swpIter := i } := State.updThread_congr hr rfl
  exact congrArg (·.launched t l) hmoved

/-! ### Pieces (R282) -/

section
variable {a n k : Nat}

theorem piece_zero (a n : Nat) : (piece a n 0).1 = a := by
  dsimp only [piece]
  omega

/-- A piece follows the one before it. -/
theorem piece_next (hnext : k + 1 < pieceCount a n) : (piece a n (k + 1)).1 = (piece a n k).1 + (piece a n k).2 := by
  dsimp only [piece, pieceCount] at *
  omega

variable (hn : 0 < n) (hk : k < pieceCount a n)
include hn hk

theorem piece_pos : 0 < (piece a n k).2 := by
  dsimp only [piece, pieceCount] at *
  omega

/-- A piece lies in one 128-byte line. -/
theorem piece_line : (piece a n k).1 / 128 = ((piece a n k).1 + (piece a n k).2 - 1) / 128 := by
  dsimp only [piece, pieceCount] at *
  omega

/-- The last piece ends the range. -/
theorem piece_last (hlast : ¬k + 1 < pieceCount a n) : (piece a n k).1 + (piece a n k).2 = a + n := by
  dsimp only [piece, pieceCount] at *
  omega

end

/-- Settles O25: CPA for each kind of source by `cpa_issues`, WAITB by its two cases, one issue of CPB by `cpb_comes` and `cpbPiece_run`,
and the pieces by arithmetic. -/
theorem copies : Obligations.Copies := by
  unfold Obligations.Copies
  refine ⟨?cpaWaitb, ?cpb, fun a n k hn hk => ⟨piece_zero a n, piece_pos hn hk, piece_line hn hk, ?ends⟩⟩
  case ends =>
    split
    case isTrue hnext => exact piece_next hnext
    case isFalse hlast => exact piece_last hn hk hlast
  case cpaWaitb =>
    intro s S S' t gd d base idx lgw bt n pp pte pa o so off cls A D x h sh r v z1 z2 z3 m1 m2 m3 zr th g ht hg len va vb l w out
    refine ⟨fun hrun hA hx hD hat hroom => ⟨fun hvb hbrk => ?zero, fun hvb hgS hbrk hload => ⟨fun hm hrow => ?row, fun hm hchk hsrc => ?glob⟩⟩,
      fun hrun hcopy => ⟨waitb_completes ht hrun hcopy, waitb_waits ht hrun hcopy⟩⟩
    case zero => exact cpa_issues ht hrun hA hx hD hat hroom rfl (cpaSource_zero hvb) hbrk (fun h => absurd hvb h) ⟨g, hg, rfl⟩ (turns_pure ..)
    case row => exact cpa_issues ht hrun hA hx hD hat hroom rfl (cpaSource_row hvb hm hrow) hbrk (fun _ => hload) hgS (turns_pure ..)
    case glob =>
      exact cpa_issues ht hrun hA hx hD hat hroom rfl (cpaSource_glob hvb hm hchk) hbrk (fun _ => hload) hgS (turns_bind hsrc (turns_pure ..))
  case cpb =>
    intro s S S' t gd d base idx pp pte pa o bo off cls A D x lo hi h bh r z1 z2 z3 z4 m1 m2 m3 m4 th g ht hg va n bar k w p dst l hrun hA hx hD
      hb hpos hmul hmax hal htop hat hbat hk hcheck hgS hload hstore hsrc
    obtain ⟨c, -, hc, rfl, -⟩ := hrun.start
    obtain ⟨B, hB⟩ := cpb_comes (cls := cls) ht hrun hA hx hD hb rfl rfl hpos hmul hmax hal htop hat hbat hk
    rw [cpbPiece_run hc hcheck hgS hload hstore hsrc] at hB
    have hu : S'.threads.find c.t = some (th.atPiece k [(h, o + n), (bh, bo + 16)]) := by
      rw [hsrc.2.1, hcheck.2.1]
      simp [w, ht, Thread.atPiece]
    refine ⟨B, th.cont, ?_⟩
    rw [exec_cpb, codeSwp_next hrun hB, State.launched_atSweep hu]
    by_cases hgo : k + 1 < pieceCount va n
    · simp only [hgo, decide_true, if_true]
      rfl
    · simp only [hgo, decide_false, if_false]
      rfl

end Sys2Proof.Machine

end

section
/-! LAWS. The SPDM responder (20_bringup R419): what a served request is answered, and the obligation. -/

namespace Sys2Proof.Machine

open Sys2Proof

/-- R419: over DOE nothing is served but on a bridge device with its PCIe port. -/
theorem served_doe {s : State} (h : s.isBridge = false) (f : State → State) : served .doe f s = .next s := by
  simp [served, h]

/-- R419: a request is served once the device is up, and over DOE where there is a PCIe port. -/
theorem served_up {s : State} {tr : Transport} (hup : s.boot = 10) (htr : tr = .doe → s.isBridge = true) (f : State → State) :
    served tr f s = .next (f s) := by
  cases tr with
  | doe => simp [served, hup, htr rfl]
  | daxlink src => simp [served, hup]

/-- The flit that carries an answer, if its transport needs one. -/
def State.answerFlits (s : State) (tr : Transport) (kind : Nat) (body : List Nat) : List Flit :=
  match tr with
  | .doe => []
  | .daxlink src => [s.otherFlit src 0 7 2 (Config.framed (.spdmAnswer kind body))]

/-- R419: an answer is given on the transport that brought its request, over DaxLink as a management frame. -/
theorem State.respond_eq (s : State) (tr : Transport) (kind : Nat) (body : List Nat) :
    s.respond tr kind body = { s with spdm := s.spdm ++ [{ tr := tr, kind := kind, body := body }],
                                      outq := s.outq ++ s.answerFlits tr kind body } := by
  cases tr with
  | doe => simp [State.respond, State.answerFlits]
  | daxlink src => rfl

/-- The chain is in slot 0 alone. -/
theorem State.certificate_other (s : State) (tr : Transport) {slot : Nat} (h : slot ≠ 0) :
    s.certificate tr slot = s.respond tr 8 [Config.spdmBody (16 + slot)] := by
  simp [State.certificate, h]

/-- Measurements other than 1 and 2, their number and all of them are not there (log entry 69). -/
theorem State.measurements_other (s : State) (tr : Transport) {n : Nat} (h : 2 < n) (h' : n ≠ 255) :
    s.measurements tr n = s.respond tr 8 [Config.spdmBody (256 + n)] := by
  have h0 : n ≠ 0 := by omega
  have h1 : n ≠ 1 := by omega
  have h2 : n ≠ 2 := by omega
  simp [State.measurements, State.measurement, h0, h1, h2, h']

/-- Settles O53: a request that is served (`served_up`) gets the answer of its kind (`State.respond_eq`). -/
theorem attestation : Obligations.Attestation := by
  unfold Obligations.Attestation
  intro s tr slot nonce req n hup
  refine ⟨fun hb i hi => ?unserved, fun htr => ?_⟩
  case unserved =>
    simp only [List.mem_cons, List.not_mem_nil, or_false] at hi
    rcases hi with rfl | rfl | rfl | rfl | rfl | rfl | rfl | rfl
    exacts [served_doe hb (·.respond .doe 1 spdmVersion), served_doe hb (·.respond .doe 2 spdmCapabilities),
      served_doe hb (·.respond .doe 3 spdmAlgorithms), served_doe hb (·.respond .doe 4 [Config.sha384 [Config.certChain]]),
      served_doe hb (·.certificate .doe slot), served_doe hb (·.signed .doe 6 [nonce, Config.sha384 [Config.certChain]]),
      served_doe hb (·.measurements .doe n), served_doe hb (·.respond .doe 0 [req])]
  have answer (f : State → State) {kind : Nat} {body : List Nat} (h : f s = s.respond tr kind body) :
      served tr f s = .next { s with spdm := s.spdm ++ [{ tr := tr, kind := kind, body := body }],
                                     outq := s.outq ++ s.answerFlits tr kind body } := by
    rw [served_up hup htr, h, State.respond_eq]
  have measured (k : Nat) {body : List Nat} (h : s.measurements tr k = s.signed tr 7 body) := answer (·.measurements tr k) h
  exact ⟨answer (·.respond tr 1 spdmVersion) rfl, answer (·.respond tr 2 spdmCapabilities) rfl, answer (·.respond tr 3 spdmAlgorithms) rfl,
    answer (·.respond tr 4 [Config.sha384 [Config.certChain]]) rfl, answer (·.certificate tr 0) rfl,
    fun h => answer (·.certificate tr slot) (s.certificate_other tr h),
    answer (·.signed tr 6 [nonce, Config.sha384 [Config.certChain]]) rfl, measured 0 rfl, measured 1 rfl, measured 2 rfl, measured 255 rfl,
    fun h h' => answer (·.measurements tr n) (s.measurements_other tr h h'), answer (·.respond tr 0 [req]) rfl⟩

end Sys2Proof.Machine

end

section
/-! LAWS. The copy counts of a resample (16_population R353, R354): differences of rounded-down running totals, and the obligation. -/

namespace Sys2Proof.Machine

open Sys2Proof

/-- Step 5: the copies that the threads before the running weight `c` have in all. -/
def copiesBefore (n u W c : Nat) : Nat := (c * n * 2 ^ 32 + u * W) / (W * 2 ^ 32)

theorem copyCounts_cons (n u W c w : Nat) (ws : List Nat) :
    copyCounts n u W c (w :: ws) = (copiesBefore n u W (c + w) - copiesBefore n u W c) :: copyCounts n u W (c + w) ws := rfl

theorem length_copyCounts (n u W c : Nat) (ws : List Nat) : (copyCounts n u W c ws).length = ws.length := by
  induction ws generalizing c with
  | nil => rfl
  | cons w ws ih => rw [copyCounts_cons, List.length_cons, List.length_cons, ih]

theorem copiesBefore_mono (n u W : Nat) {c d : Nat} (h : c ≤ d) : copiesBefore n u W c ≤ copiesBefore n u W d := by
  unfold copiesBefore
  gcongr

/-- No copy is made before the first thread. -/
theorem copiesBefore_zero (n : Nat) {u W : Nat} (hW : 0 < W) (hu : u < 2 ^ 32) : copiesBefore n u W 0 = 0 := by
  rw [copiesBefore, Nat.zero_mul, Nat.zero_mul, Nat.zero_add, Nat.mul_comm W, Nat.mul_div_mul_right _ _ hW, Nat.div_eq_of_lt hu]

/-- All are made once the whole weight has passed. -/
theorem copiesBefore_all (n : Nat) {u W : Nat} (hW : 0 < W) (hu : u < 2 ^ 32) : copiesBefore n u W W = n := by
  have e : W * n * 2 ^ 32 + u * W = (u + n * 2 ^ 32) * W := by ring
  rw [copiesBefore, e, Nat.mul_comm W, Nat.mul_div_mul_right _ _ hW, Nat.add_mul_div_right _ _ (by decide), Nat.div_eq_of_lt hu,
    Nat.zero_add]

/-- The counts add up to the copies made between the first weight and the last. -/
theorem sum_copyCounts (n u W c : Nat) (ws : List Nat) :
    (copyCounts n u W c ws).sum = copiesBefore n u W (c + ws.sum) - copiesBefore n u W c := by
  induction ws generalizing c with
  | nil => simp [copyCounts]
  | cons w ws ih =>
    have h₁ := copiesBefore_mono n u W (Nat.le_add_right c w)
    have h₂ := copiesBefore_mono n u W (Nat.le_add_right (c + w) ws.sum)
    rw [copyCounts_cons, List.sum_cons, List.sum_cons, ih, ← Nat.add_assoc c w]
    omega

/-- Two rounded quotients differ by the quotient of the difference, to within one. -/
theorem div_sub_div_bounds (A b : Nat) {W M : Nat} (hW : 0 < W) (hM : 0 < M) :
    ((A + b * M) / (W * M) - A / (W * M)) * W < b + W ∧ b < ((A + b * M) / (W * M) - A / (W * M) + 1) * W := by
  have hD : 0 < W * M := Nat.mul_pos hW hM
  obtain ⟨k, hk⟩ := Nat.exists_eq_add_of_le (Nat.div_le_div_right (c := W * M) (Nat.le_add_right A (b * M)))
  have hlo := Nat.div_mul_le_self A (W * M)
  have hlo' := Nat.lt_mul_div_succ A hD
  have hhi := Nat.div_mul_le_self (A + b * M) (W * M)
  have hhi' := Nat.lt_mul_div_succ (A + b * M) hD
  rw [hk] at hhi hhi' ⊢
  generalize A / (W * M) = q at *
  rw [Nat.add_sub_cancel_left]
  exact ⟨Nat.lt_of_mul_lt_mul_right (a := M) (by linarith), Nat.lt_of_mul_lt_mul_right (a := M) (by linarith)⟩

/-- R354: the copies of a thread of weight `w` lie within one of its share `w * n / W`. -/
theorem copiesBefore_share (n u c w : Nat) {W : Nat} (hW : 0 < W) :
    (copiesBefore n u W (c + w) - copiesBefore n u W c) * W < w * n + W ∧
      w * n < (copiesBefore n u W (c + w) - copiesBefore n u W c + 1) * W := by
  have e : (c + w) * n * 2 ^ 32 + u * W = c * n * 2 ^ 32 + u * W + w * n * 2 ^ 32 := by ring
  rw [copiesBefore, copiesBefore, e]
  exact div_sub_div_bounds _ _ hW (by decide)

theorem copyCounts_share (n u c : Nat) {W : Nat} (hW : 0 < W) (ws : List Nat) (i : Nat) (hi : i < ws.length) :
    (copyCounts n u W c ws).getD i 0 * W < ws.getD i 0 * n + W ∧ ws.getD i 0 * n < ((copyCounts n u W c ws).getD i 0 + 1) * W := by
  induction ws generalizing c i with
  | nil => simp at hi
  | cons w ws ih =>
    rw [copyCounts_cons]
    cases i with
    | zero =>
      rw [List.getD_cons_zero, List.getD_cons_zero]
      exact copiesBefore_share n u c w hW
    | succ i =>
      rw [List.getD_cons_succ, List.getD_cons_succ]
      exact ih (c + w) i (by simpa using hi)

/-- Settles O45: the counts telescope (`sum_copyCounts`), and each is a difference of two rounded totals (`copiesBefore_share`). -/
theorem resampleCounts : Obligations.ResampleCounts := by
  unfold Obligations.ResampleCounts
  intro n u W ws hsum hW hu
  have hws : ws.sum = W := by rw [List.sum_eq_foldl, hsum]
  refine ⟨length_copyCounts n u W 0 ws, ?_, copyCounts_share n u 0 hW ws⟩
  rw [sum_copyCounts, Nat.zero_add, hws, copiesBefore_all n hW hu, copiesBefore_zero n hW hu, Nat.sub_zero]

end Sys2Proof.Machine

end

section
/-! LAWS. Code instructions that issue for the first time and again: how their bodies end (R9, R33, R37). -/

namespace Sys2Proof.Machine

open Sys2Proof

section
variable {s S : State} {t : Nat} {fs : List Field} {gd : Guard} {ds : List Dest} {body : M Flow}

/-- An instruction whose body waits. -/
theorem code_waits (h : s.Runs t fs [] gd) {w : Wait} (hb : body s = .error (.wait w) S) : code fs gd ds body s = .next (S.waitOn t w) := by
  obtain ⟨c, th, hc, rfl, -⟩ := h.start
  exact runCode_wait hc ((issueWith_runs h).trans hb)

variable {k : Cont} (h : s.Resumes t fs [] gd true k) (hk : ∀ x v, k ≠ .fail x v)
include h hk

/-- An instruction that issues again and completes. -/
theorem State.Resumes.completes (hb : body s = .ok .seq S) : code fs gd ds body s = .next (S.done t) := by
  obtain ⟨c, th, hc, rfl, -⟩ := h.given
  rw [h.code_eq hk]
  exact runCode_next hc hb

/-- An instruction that issues again and waits again. -/
theorem State.Resumes.waits {w : Wait} (hb : body s = .error (.wait w) S) : code fs gd ds body s = .next (S.waitOn t w) := by
  obtain ⟨c, th, hc, rfl, -⟩ := h.given
  rw [h.code_eq hk]
  exact runCode_wait hc hb

end

/-- An instruction that runs is one that was given nothing. -/
theorem State.Runs.ungiven {s : State} {t : Nat} {fs : List Field} {ex : List Nat} {gd : Guard} (h : s.Runs t fs ex gd) :
    s.Resumes t fs ex gd true .none := by
  obtain ⟨c, th, g, hc, hct, ht, hg, hf, hgd, hp, hb, hk, -⟩ := h
  exact ⟨c, th, g, hc, hct, ht, hg, hf, hgd, fun _ => ⟨hp, hb⟩, hk⟩

/-- What an instruction's body does decides what the instruction does. -/
theorem runCode_congr {s S : State} {c : Cur} (hc : s.cur = some c) (hcur : S.cur = s.cur) {srcs : List Nat} {ds : List Dest} {m m' : M Flow}
    (h : m s = m' S) : runCode srcs ds m s = runCode srcs ds m' S := by
  simp only [runCode, runWith, hcur, hc, h]

/-- Two operations whose answers are known together, and what follows them. -/
theorem bind_pair {α β γ : Type} {p : M α} {q : α → M β} {s S : State} {u : α} {v : β}
    (h : (p >>= fun x => q x >>= fun y => pure (x, y)) s = .ok (u, v) S) (k : α → β → M γ) : (p >>= fun x => q x >>= k x) s = k u v S := by
  have e : (p >>= fun x => q x >>= k x) = (p >>= fun x => q x >>= fun y => pure (x, y)) >>= fun r => k r.1 r.2 := by
    simp only [bind_assoc, pure_bind]
  rw [e, bind_ok h]

section
variable {s S : State} {t : Nat} {fs : List Field} {gd : Guard} {ds : List Dest} {body : M Flow} {k : Cont}

/-- An instruction whose progress `swp` holds, as it issues for the first time or again. -/
theorem State.Resumes.swp_next (h : s.Resumes t fs [] gd true k) (hk : ∀ x v, k ≠ .fail x v) {f : Flow} (hb : body s = .ok f S) :
    codeSwp fs [] gd ds body s = .next (S.retire t f) := by
  obtain ⟨c, th, hc, rfl, -⟩ := h.given
  exact runWith_next hc ((issueWith_resumes h hk _ _).trans hb)

theorem State.Resumes.swp_waits (h : s.Resumes t fs [] gd true k) (hk : ∀ x v, k ≠ .fail x v) {w : Wait} (hb : body s = .error (.wait w) S) :
    codeSwp fs [] gd ds body s = .next (S.waitOn t w) := by
  obtain ⟨c, th, hc, rfl, -⟩ := h.given
  simp only [codeSwp, runWith, hc, issueWith_resumes h hk, hb]
  rfl

end

/-- What each of two operations answers, when their answers are known together. -/
theorem answers_of_pair {α β : Type} {p : M α} {q : M β} {s S : State} {u : α} {v : β}
    (h : (p >>= fun x => q >>= fun y => pure (x, y)) s = .ok (u, v) S) : ∃ S₁, p s = .ok u S₁ ∧ q S₁ = .ok v S := by
  rw [bind_run] at h
  cases hp : p s with
  | error e S₁ => simp [hp] at h
  | ok x S₁ =>
    simp only [hp, bind_run] at h
    cases hq : q S₁ with
    | error e S₂ => simp [hq] at h
    | ok y S₂ =>
      simp only [hq, pure_run] at h
      injection h with e₁ e₂
      injection e₁ with e₃ e₄
      subst e₂ e₃ e₄
      exact ⟨S₁, rfl, hq⟩

end Sys2Proof.Machine

end

section
/-! LAWS. Group barriers (14_barrier R306 to R309): arrival, waiting for a phase, the judgement, and the obligation. -/

namespace Sys2Proof.Machine

open Sys2Proof

/-! ## The judgement (R306) -/

/-- What the completion of barrier `b` of instance `i` does to a thread: one that waits there goes on. -/
def Thread.passBarrier (th : Thread) (i b : Nat) : Thread :=
  match th.wait with
  | some (.barrier j c _) => if j == i && c == b then { th with wait := none, cont := .skip } else th
  | _ => th

theorem Thread.passBarrier_preds (th : Thread) (i b : Nat) : (th.passBarrier i b).preds = th.preds := by
  unfold Thread.passBarrier
  split
  · split <;> rfl
  · rfl

theorem State.find_releaseBarrier (s : State) (i b t : Nat) :
    (s.releaseBarrier i b).threads.find t = (s.threads.find t).map fun th => th.passBarrier i b := by
  simp only [State.releaseBarrier, AMap.find_mapv]
  rfl

/-- A barrier of an instance completes its phase. -/
def State.endPhase (s : State) (i b : Nat) (y : Barrier) : State :=
  (s.updInst i fun x => { x with bars := x.bars.put b { phase := (y.phase + 1) % 2 ^ 32, arrived := [] } }).releaseBarrier i b

section
variable {s : State} {i b : Nat} {x : GInst} (hx : s.insts.find i = some x)
include hx

theorem State.judgeBarrier_completes (hall : ∀ t, t ∈ s.liveOf i → t ∈ (x.bar b).arrived) : s.judgeBarrier i b = s.endPhase i b (x.bar b) := by
  have h : ((s.liveOf i).all fun t => (x.bar b).arrived.contains t) = true := by simpa using hall
  simp only [State.judgeBarrier, hx, h, if_true, State.endPhase]

theorem State.judgeBarrier_pending (hone : ∃ t, t ∈ s.liveOf i ∧ t ∉ (x.bar b).arrived) : s.judgeBarrier i b = s := by
  have h : ((s.liveOf i).all fun t => (x.bar b).arrived.contains t) = false := by simpa using hone
  simp only [State.judgeBarrier, hx, h]
  rfl

end

theorem State.judgeBarrier_cur (s : State) (i b : Nat) : (s.judgeBarrier i b).cur = s.cur := by
  unfold State.judgeBarrier
  split
  · rfl
  · dsimp only
    split <;> rfl

theorem State.judgeBarrier_gangs (s : State) (i b : Nat) : (s.judgeBarrier i b).gangs = s.gangs := by
  unfold State.judgeBarrier
  split
  · rfl
  · dsimp only
    split <;> rfl

/-- A judgement leaves each thread there, its predicates as they were. -/
theorem State.find_judgeBarrier {s : State} {t : Nat} {th : Thread} (ht : s.threads.find t = some th) (i b : Nat) :
    ∃ y, (s.judgeBarrier i b).threads.find t = some y ∧ y.preds = th.preds := by
  unfold State.judgeBarrier
  split
  · exact ⟨th, ht, rfl⟩
  · dsimp only
    split
    · exact ⟨th.passBarrier i b, by rw [State.find_releaseBarrier, State.updInst_threads, ht, Option.map_some], th.passBarrier_preds i b⟩
    · exact ⟨th, ht, rfl⟩

/-! ## Arrival and waiting (R309) -/

/-- Thread `t` marked as arrived at barrier `b` of instance `i`, which is then judged. -/
def State.marked (s : State) (t i b : Nat) (r : Barrier) : State :=
  (s.updInst i fun u => { u with bars := u.bars.put b { r with arrived := r.arrived ++ [t] } }).judgeBarrier i b

section
variable {s : State} {c : Cur} {gs i b : Nat} {x : GInst} (hc : s.cur = some c) (hin : s.InSlot c.t gs i x)
include hc hin

theorem barrierAt_run (hb : b < x.nbar) : barrierAt gs b s = .ok (i, x) s := by
  obtain ⟨g, hg, hgs, hx⟩ := hin
  rw [barrierAt, bind_ok (gang_run hc hg), hgs]
  dsimp only
  rw [bind_ok (get_run s), hx]
  dsimp only
  rw [if_neg (by omega), pure_run]

theorem barrierAt_traps (hb : x.nbar ≤ b) : barrierAt gs b s = .error (.trap .barrier b) s := by
  obtain ⟨g, hg, hgs, hx⟩ := hin
  rw [barrierAt, bind_ok (gang_run hc hg), hgs]
  dsimp only
  rw [bind_ok (get_run s), hx]
  dsimp only
  rw [if_pos hb]
  rfl

/-- R309: a thread that has not arrived releases and is marked; it gets the phase. -/
theorem arrive_run {S : State} (hb : b < x.nbar) (hnew : (x.bar b).arrived.contains c.t = false) (hlog : s.Gives c.t (reportLog (barScope x)) ⟨⟩)
    (hrel : s.Turns S c.t (releaseAt (barScope x)) ⟨⟩ false) : arrive gs b s = .ok (x.bar b).phase (S.marked c.t i b (x.bar b)) := by
  rw [arrive, bind_ok (barrierAt_run hc hin hb)]
  dsimp only
  rw [bind_ok (curT_run hc), hnew]
  simp only [Bool.false_eq_true, if_false]
  rw [bind_ok hlog.run_unread, bind_ok hrel.run_unread]
  rfl

/-- R309: a barrier that the slot does not have, and a second arrival in a phase. -/
theorem arrive_traps (hbad : x.nbar ≤ b ∨ (x.bar b).arrived.contains c.t = true) : arrive gs b s = .error (.trap .barrier b) s := by
  by_cases hb : x.nbar ≤ b
  · rw [arrive, bind_error (barrierAt_traps hc hin hb)]
  · rw [arrive, bind_ok (barrierAt_run hc hin (by omega))]
    dsimp only
    rw [bind_ok (curT_run hc), hbad.resolve_left hb]
    simp only [if_true]
    rfl

variable {th : Thread} (ht : s.threads.find c.t = some th) {tok : Nat}
include ht

/-- The acquire of a barrier of the instance (R308). -/
theorem awaitPhase_passes (hb : b < x.nbar) (hpass : th.cont = .skip ∨ (x.bar b).phase ≠ tok) :
    awaitPhase gs b tok s = .ok .seq (if x.span then s.acquire (coreOf c.t) else s) := by
  have hacq : acquireAt (barScope x) s = .ok ⟨⟩ (if x.span then s.acquire (coreOf c.t) else s) := by
    rw [acquireAt_run hc]
    cases hs : x.span <;> simp [barScope, hs]
  rw [awaitPhase, bind_ok (barrierAt_run hc hin hb)]
  dsimp only
  rw [bind_ok (thread_run hc ht), if_pos (by simpa using hpass), bind_ok hacq, pure_run]

theorem awaitPhase_waits (hb : b < x.nbar) (hcont : th.cont ≠ .skip) (hphase : (x.bar b).phase = tok) :
    awaitPhase gs b tok s = .error (.wait (.barrier i b tok)) s := by
  rw [awaitPhase, bind_ok (barrierAt_run hc hin hb)]
  dsimp only
  rw [bind_ok (thread_run hc ht), if_neg (by simp [hcont, hphase])]
  rfl

end

/-! ## The instructions -/

/-- What BAR does, by what its thread was given. -/
def barBody (bn gs : Nat) : M Flow := do
  let th ← thread
  match th.cont with
  | .tok tok => awaitPhase gs bn tok
  | .skip => awaitPhase gs bn 0
  | _ => arriveAndWait gs bn

theorem exec_bar (gd : Guard) (bn gs k : Nat) : exec (.bar gd bn gs k) = code [] gd [] (barBody bn gs) := rfl

theorem exec_bara (gd : Guard) (d bn gs k : Nat) :
    exec (.bara gd d bn gs k) = code [.r d] gd [.reg d .u32] (arrive gs bn >>= fun tok => putWord d tok .u32) := rfl

theorem exec_barw (gd : Guard) (a bn gs k : Nat) : exec (.barw gd a bn gs k) =
    code [.r a] gd [] (barrierAt gs bn >>= fun _ => natSrc a >>= fun tok => awaitPhase gs bn tok) := rfl

section
variable {s S : State} {t i gs bn : Nat} {gd : Guard} {x : GInst} (hin : s.InSlot t gs i x)
include hin

section
variable (hb : bn < x.nbar) (hnew : (x.bar bn).arrived.contains t = false) (hlog : s.Gives t (reportLog (barScope x)) ⟨⟩)
  (hrel : s.Turns S t (releaseAt (barScope x)) ⟨⟩ false)
include hb hnew hlog hrel

theorem bara_arrives {d : Nat} (k : Nat) (h : s.Runs t [.r d] [] gd) : exec (.bara gd d bn gs k) s =
    .next ((S.marked t i bn (x.bar bn)).result t d ⟨BitVec.ofNat 32 (x.bar bn).phase, .u32⟩ false false 0) := by
  obtain ⟨c, th, hc, rfl, ht, -⟩ := h.start
  obtain ⟨y, hy, -⟩ := State.find_judgeBarrier (s := S.updInst i _) (hrel.2.1 ▸ ht) i bn
  exact code_putWord h ((State.judgeBarrier_cur ..).trans hrel.1) hy (bind_ok (f := fun tok : Nat => putWord d tok .u32) (arrive_run hc hin hb hnew hlog hrel))

/-- R309: BAR arrives, and then issues as one that was given its token. -/
theorem bar_arrives (k : Nat) (h : s.Runs t [] [] gd) (hgangs : S.gangs = s.gangs) : exec (.bar gd bn gs k) s =
    exec (.bar gd bn gs k) ((S.marked t i bn (x.bar bn)).updThread t fun u => { u with cont := .tok (x.bar bn).phase }) := by
  have hrun := h
  obtain ⟨c, th, g, hc, rfl, ht, hg, hf, hgd, -, -, hcont, -⟩ := hrun
  let M := S.marked c.t i bn (x.bar bn)
  let Q := M.updThread c.t fun u => { u with cont := .tok (x.bar bn).phase }
  obtain ⟨y, hy, hpreds⟩ : ∃ y, M.threads.find c.t = some y ∧ y.preds = th.preds := State.find_judgeBarrier (s := S.updInst i _) (hrel.2.1 ▸ ht) i bn
  have hMcur : M.cur = some c := (State.judgeBarrier_cur ..).trans (hrel.1.trans hc)
  have hQ : Q.threads.find c.t = some { y with cont := .tok (x.bar bn).phase } := State.find_updThread_self hy _
  have hagain : Q.Resumes c.t [] [] gd true (.tok (x.bar bn).phase) := by
    refine ⟨c, _, g, hMcur, rfl, hQ, ?_, hf, ?_, fun _ => ⟨?_, ?_⟩, rfl⟩
    · rw [show Q.gangs = s.gangs from (State.judgeBarrier_gangs ..).trans hgangs, hg]
    · simpa only [guardHolds, hpreds] using hgd
    · simp [Thread.pendingOn]
    · simp [Gang.badRow]
  have hfirst : barBody bn gs s = awaitPhase gs bn (x.bar bn).phase Q := by
    rw [barBody, bind_ok (thread_run hc ht), hcont]
    dsimp only
    rw [arriveAndWait, bind_ok (arrive_run hc hin hb hnew hlog hrel), bind_ok (modThread_run hMcur _)]
  have hnext : barBody bn gs Q = awaitPhase gs bn (x.bar bn).phase Q := by
    rw [barBody, bind_ok (thread_run (s := Q) hMcur hQ)]
  rw [exec_bar, h.code_eq]
  refine (runCode_congr (S := Q) hc (hMcur.trans hc.symm) (hfirst.trans hnext.symm)).trans ?_
  rw [hagain.code_eq nofun]

end

theorem bara_traps {d : Nat} (k : Nat) (h : s.Runs t [.r d] [] gd) (hbad : x.nbar ≤ bn ∨ (x.bar bn).arrived.contains t = true) :
    exec (.bara gd d bn gs k) s = .next (s.takeTrap t .barrier bn) := by
  obtain ⟨c, th, hc, rfl, -⟩ := h.start
  exact code_trap h (bind_error (arrive_traps hc hin hbad) fun tok : Nat => putWord d tok .u32)

variable (hb : bn < x.nbar)
include hb

/-- R309: BAR goes on, or waits again, by what it was given: its token, or that its phase is over. -/
theorem bar_passes (k : Nat) {tok : Nat} {u : Cont} (h : s.Resumes t [] [] gd true u)
    (hu : u = .skip ∨ (u = .tok tok ∧ (x.bar bn).phase ≠ tok)) :
    exec (.bar gd bn gs k) s = .next ((if x.span then s.acquire (coreOf t) else s).done t) := by
  obtain ⟨c, th, hc, rfl, ht, hcont⟩ := h.given
  rcases hu with rfl | ⟨rfl, hphase⟩
  · refine h.completes nofun ?_
    rw [bind_ok (thread_run hc ht), hcont]
    exact awaitPhase_passes hc hin ht hb (.inl hcont)
  · refine h.completes nofun ?_
    rw [bind_ok (thread_run hc ht), hcont]
    exact awaitPhase_passes hc hin ht hb (.inr hphase)

theorem bar_waits (k : Nat) {tok : Nat} (h : s.Resumes t [] [] gd true (.tok tok)) (hphase : (x.bar bn).phase = tok) :
    exec (.bar gd bn gs k) s = .next (s.waitOn t (.barrier i bn tok)) := by
  obtain ⟨c, th, hc, rfl, ht, hcont⟩ := h.given
  refine h.waits nofun ?_
  rw [bind_ok (thread_run hc ht), hcont]
  exact awaitPhase_waits hc hin ht hb (by rw [hcont]; nofun) hphase

section
variable {a : Nat} (h : s.Runs t [.r a] [] gd) {y : TWord} {z m : Bool} (hy : s.reads t [(a, .int)] = some ([y], z, m))
include h hy

/-- BARW reads its token and then looks at the phase. -/
theorem barw_reads : ∃ B, (barrierAt gs bn >>= fun _ => natSrc a >>= fun tok => awaitPhase gs bn tok) s =
    awaitPhase gs bn y.bits.toNat (s.reading t B z m) := by
  obtain ⟨c, th, hc, rfl, ht, -⟩ := h.start
  obtain ⟨B, hB⟩ := h.body_comes (.last (h.nat_read (State.reads_one hy)) .refl)
  exact ⟨B, (bind_ok (barrierAt_run hc hin hb)).trans hB⟩

theorem barw_passes (k : Nat) (hphase : (x.bar bn).phase ≠ y.bits.toNat) :
    exec (.barw gd a bn gs k) s = .next (((if x.span then s.acquire (coreOf t) else s).noted t z m 0).done t) := by
  obtain ⟨c, th, hc, rfl, ht, -⟩ := h.start
  obtain ⟨B, hB⟩ := barw_reads hin hb h hy
  have hacq : ∀ p : Bool, (if p then (s.reading c.t B z m).acquire (coreOf c.t) else s.reading c.t B z m) =
      (if p then s.acquire (coreOf c.t) else s).reading c.t B z m := fun p => by cases p <;> rfl
  have hkept : (if x.span then s.acquire (coreOf c.t) else s).threads.find c.t = some th := by split <;> exact ht
  rw [← State.done_reading hkept B, ← hacq]
  exact code_next (f := .seq) h (hB.trans (awaitPhase_passes (s := s.reading c.t B z m) hc hin (State.find_reading ht B z m) hb (.inr hphase)))

theorem barw_waits (k : Nat) (hphase : (x.bar bn).phase = y.bits.toNat) :
    ∃ B, exec (.barw gd a bn gs k) s = .next ((s.reading t B z m).waitOn t (.barrier i bn (x.bar bn).phase)) := by
  obtain ⟨c, th, -, hc, rfl, ht, -, hcont⟩ := h.fresh
  obtain ⟨B, hB⟩ := barw_reads hin hb h hy
  refine ⟨B, code_waits h (hB.trans ?_)⟩
  rw [hphase]
  exact awaitPhase_waits (s := s.reading c.t B z m) hc hin (State.find_reading ht B z m) hb (by rw [hcont]; nofun) hphase

end

end

/-- Settles O28: the instructions by what `arrive` and `awaitPhase` do, the judgement by its two cases. -/
theorem groupBarriers : Obligations.GroupBarriers := by
  unfold Obligations.GroupBarriers
  refine ⟨fun s S t i gd d a bn gs k x y z m hin => ⟨fun hb hnew _ hgangs hlog hrel => ⟨fun h => ?bara, fun h _ => ?bar⟩,
    fun hb h hy => ⟨fun hp => ?pass, fun hp => ?wait⟩, fun hb p h => ⟨fun hp => ?on, fun hp => ?again⟩, fun hb h => ?released, fun h hbad => ?trap⟩,
    fun s i b x y hx hy => ⟨fun hone => ?pending, fun hall => ?_⟩⟩
  case bara => exact bara_arrives hin hb hnew hlog hrel k h
  case bar => exact bar_arrives hin hb hnew hlog hrel k h hgangs
  case pass => exact barw_passes hin hb h hy k hp
  case wait => exact barw_waits hin hb h hy k hp
  case on => exact bar_passes hin hb k h (.inr ⟨rfl, hp⟩)
  case again => exact bar_waits hin hb k h hp
  case released => exact bar_passes (tok := 0) hin hb k h (.inl rfl)
  case trap => exact bara_traps hin k h hbad
  case pending =>
    subst hy
    exact State.judgeBarrier_pending hx hone
  subst hy
  have hwait (t : Nat) {th : Thread} (ht : s.threads.find t = some th) :
      (s.endPhase i b (x.bar b)).threads.find t = some (th.passBarrier i b) := by
    rw [State.endPhase, State.find_releaseBarrier, State.updInst_threads, ht, Option.map_some]
  rw [State.judgeBarrier_completes hx hall]
  refine ⟨⟨{ x with bars := x.bars.put b { phase := ((x.bar b).phase + 1) % 2 ^ 32, arrived := [] } }, ?_, AMap.find_put_self ..⟩, fun t th p ht hw => ⟨_, hwait t ht, ?_⟩, fun t th ht hw => ?_, rfl, rfl⟩
  · show (s.updInst i _).insts.find i = _
    rw [State.updInst_insts, AMap.find_upd, if_pos rfl, hx, Option.map_some]
  · simp [Thread.passBarrier, hw]
  · rw [hwait t ht, Thread.passBarrier, hw]

end Sys2Proof.Machine

end

section
/-! LAWS. Fields of a number: what a field replaced reads as, and which others stand (00_scope R4). -/

namespace Sys2Proof

theorem testBit_bits (x hi lo i : Nat) : (bits x hi lo).testBit i = (decide (i < hi + 1 - lo) && x.testBit (lo + i)) := by
  rw [bits, Nat.testBit_mod_two_pow, Nat.testBit_div_two_pow, Nat.add_comm lo i]

theorem testBit_replaced (x v i : Nat) {hi lo : Nat} (h : lo ≤ hi) :
    (setBits x hi lo v).testBit i = if lo ≤ i ∧ i ≤ hi then v.testBit (i - lo) else x.testBit i := by
  have e := Machine.testBit_setBits x v lo i (n := hi + 1 - lo) (by omega)
  rw [show lo + (hi + 1 - lo) - 1 = hi by omega] at e
  rw [e]
  exact if_congr (by omega) rfl rfl

/-- A field replaced reads as what it was given. -/
theorem bits_setBits_same (x v : Nat) {hi lo : Nat} (h : lo ≤ hi) : bits (setBits x hi lo v) hi lo = v % 2 ^ (hi + 1 - lo) := by
  refine Nat.eq_of_testBit_eq fun i => ?_
  rw [testBit_bits, testBit_replaced _ _ _ h, Nat.testBit_mod_two_pow]
  by_cases hi' : i < hi + 1 - lo
  · rw [if_pos (by omega), Nat.add_sub_cancel_left]
  · simp [hi']

/-- A field that shares no bit with the one replaced stands. -/
theorem bits_setBits_apart (x v : Nat) {hi lo hi' lo' : Nat} (h : lo ≤ hi) (hne : hi' < lo ∨ hi < lo') :
    bits (setBits x hi lo v) hi' lo' = bits x hi' lo' := by
  refine Nat.eq_of_testBit_eq fun i => ?_
  rw [testBit_bits, testBit_bits, testBit_replaced _ _ _ h]
  by_cases hi'' : i < hi' + 1 - lo'
  · rw [if_neg (by omega)]
  · simp [hi'']

end Sys2Proof

end

section
/-! LAWS. Landing barriers (14_barrier R311 to R317): the phase rule, the four instructions, and the obligation. -/

namespace Sys2Proof.Machine

open Sys2Proof

/-! ## The phase rule (R312) -/

theorem xbPhase_eq_bits (w : Nat) : xbPhase w = bits w 3 0 := by simp [xbPhase, bits]

theorem xbJudge_completes {w : Nat} (ha : xbArrivals w = 0) (hp : xbPieces w = 0) :
    xbJudge w = (setBits (setBits w 3 0 (xbPhase w + 1)) 31 8 (xbReload w), true) := by
  simp [xbJudge, ha, hp]

theorem xbJudge_stands {w : Nat} (h : ¬(xbArrivals w = 0 ∧ xbPieces w = 0)) : xbJudge w = (w, false) := by
  simpa [xbJudge] using h

/-- A field that the phase rule does not write stands. -/
theorem bits_reloaded (w p r : Nat) {hi lo : Nat} (h : 31 < lo ∨ (3 < lo ∧ hi < 8)) :
    bits (setBits (setBits w 3 0 p) 31 8 r) hi lo = bits w hi lo := by
  rw [bits_setBits_apart _ _ (by decide) (by omega), bits_setBits_apart _ _ (by decide) (by omega)]

/-- R312: the next phase, the arrivals reloaded, and the other fields as they stood. -/
theorem xbJudge_fields {w : Nat} (ha : xbArrivals w = 0) (hp : xbPieces w = 0) :
    (xbJudge w).2 = true ∧ xbPhase (xbJudge w).1 = (xbPhase w + 1) % 16 ∧ xbArrivals (xbJudge w).1 = xbReload w ∧
      xbPieces (xbJudge w).1 = 0 ∧ xbReload (xbJudge w).1 = xbReload w ∧ xbZero (xbJudge w).1 = xbZero w := by
  rw [xbJudge_completes ha hp]
  refine ⟨rfl, ?_, ?_, ?_, ?_, ?_⟩
  · rw [xbPhase_eq_bits, bits_setBits_apart _ _ (by decide) (by decide), bits_setBits_same _ _ (by decide)]
    rfl
  · rw [xbArrivals, bits_setBits_same _ _ (by decide)]
    exact Nat.mod_eq_of_lt (bits_lt (x := w) (hi := 87) (lo := 64))
  · rw [xbPieces, bits_reloaded _ _ _ (by decide)]
    exact hp
  · rw [xbReload, bits_reloaded _ _ _ (by decide)]
    rfl
  · rw [xbZero, bits_reloaded _ _ _ (by decide), bits_reloaded _ _ _ (by decide)]
    rfl

/-! ## The word in scratch (R314, R315) -/

theorem checkWord_run {w : Nat} (h : xbZero w = true) (s : State) : checkWord w s = .ok ⟨⟩ s := by
  simp [checkWord, h, pure_run]

theorem turns_barrierWord {s : State} {t va off w : Nat} {h : Home} {zr : Bool} (hat : s.Gives t (scratchAt va 16 16) (h, off))
    (hrow : s.Turns s t (readRow h off 16 va) w zr) : s.Turns s t (barrierWord va) (h, off, w) zr := by
  have := turns_bind hrow (k := fun w => pure (h, off, w)) (turns_pure s t (h, off, w))
  exact gives_bind hat (by simpa using this)

theorem State.putBarrier_cur (s : State) (h : Home) (off tick w : Nat) : (s.putBarrier h off tick w).cur = s.cur := by
  unfold State.putBarrier
  split
  · rfl
  · dsimp only
    split
    · exact (State.setAllocAt_keeps ..).1
    · exact (State.setAllocAt_keeps ..).1

/-! ## The instructions (R316, R317) -/

/-- A word found in scratch and checked, and what is done with it. -/
def atBarrier (va : Nat) (st : Bool) (rest : Home × Nat × Nat → M Flow) : M Flow := do
  let p ← barrierWord va
  checkBrk va 16 true st
  checkWord p.2.2
  rest p

/-- XBINIT with its operands. -/
def xbinitRest (va n : Nat) : M Flow := do
  let (h, off) ← scratchAt va 16 16
  if n == 0 || 2 ^ 24 ≤ n then illegal
  checkBrk va 16 false true
  writeRow h off 16 va (256 * n + 18446744073709551616 * n)
  pure .seq

/-- XBARR with its operands. -/
def xbarrRest (d va n : Nat) : M Flow := atBarrier va true fun p => do
  releaseAt 2
  if xbArrivals p.2.2 == 0 then trap .barrier va
  if sext (xbPieces p.2.2) 32 + n > 2 ^ 31 - 1 then trap .barrier va
  let tick ← now
  modify fun s => s.putBarrier p.1 p.2.1 tick (setBits (setBits p.2.2 31 8 (xbArrivals p.2.2 - 1)) 63 32 (xbPieces p.2.2 + n))
  putWord d (xbPhase p.2.2) .u32

/-- XBTRY with its operands. -/
def xbtryRest (p va tok : Nat) : M Flow := do
  reportCopies
  atBarrier va false fun q => do
    writePred p (xbPhase q.2.2 != tok % 16)
    pure .seq

/-- XBWAIT with its operands. -/
def xbwaitRest (va tok : Nat) : M Flow := do
  let th ← thread
  reportCopies
  if th.cont == .skip then pure .seq
  else atBarrier va false fun q => if xbPhase q.2.2 != tok % 16 then pure .seq else waitFor (.landing q.1 q.2.1 (tok % 16))

theorem exec_xbinit (gd : Guard) (a b k : Nat) : exec (.xbinit gd a b k) =
    code [.even a, .r b] gd [] (readAddr a >>= fun va => natSrc b >>= xbinitRest va) := rfl

theorem exec_xbarr (gd : Guard) (d a b k : Nat) : exec (.xbarr gd d a b k) =
    code [.r d, .even a, .r b] gd [.reg d .u32] (readAddr a >>= fun va => natSrc b >>= xbarrRest d va) := rfl

theorem exec_xbtry (gd : Guard) (p a b k : Nat) : exec (.xbtry gd p a b k) =
    code [.even a, .r b] gd [.pred p] (readAddr a >>= fun va => natSrc b >>= xbtryRest p va) := rfl

theorem exec_xbwait (gd : Guard) (a b k : Nat) : exec (.xbwait gd a b k) =
    code [.even a, .r b] gd [] (readAddr a >>= fun va => natSrc b >>= xbwaitRest va) := rfl

section
variable {s S : State} {t a b off w : Nat} {gd : Guard} {h : Home} {A : DWord} {y : TWord} {z1 z2 m1 m2 zr : Bool} {th : Thread} {g : Gang}
  (ht : s.threads.find t = some th) (hg : s.gangs.find (gidOf t) = some g)
  (hA : s.srcPair t a .loAddr .hiAddr = some (A, z1, m1)) (hy : s.reads t [(b, .int)] = some ([y], z2, m2))

include hA hy in
/-- The operands of the four instructions: an address pair and a number. -/
theorem barrierOperands {fs : List Field} (hrun : s.Runs t fs [] gd) (rest : Nat → Nat → M Flow) :
    ∃ B, (readAddr a >>= fun va => natSrc b >>= rest va) s = rest A.toNat y.bits.toNat (s.reading t B (z1 || z2) (m1 || m2)) :=
  hrun.body_comes (.read (hrun.pair_read hA) (.last (hrun.nat_read (State.reads_one hy)) .refl))

include ht hA hy in
/-- R316: XBINIT writes its word. -/
theorem xbinit_writes (k : Nat) (hrun : s.Runs t [.even a, .r b] [] gd) (hpos : 0 < y.bits.toNat) (hmax : y.bits.toNat < 16777216)
    (hat : s.Gives t (scratchAt A.toNat 16 16) (h, off)) (hbrk : s.Gives t (checkBrk A.toNat 16 false true) ⟨⟩)
    (hrow : s.Turns S t (writeRow h off 16 A.toNat (256 * y.bits.toNat + 18446744073709551616 * y.bits.toNat)) ⟨⟩ zr) :
    exec (.xbinit gd a b k) s = .next ((S.noted t (z1 || z2 || zr) (m1 || m2) 0).done t) := by
  obtain ⟨B, hB⟩ := barrierOperands hA hy hrun xbinitRest
  rw [← State.done_reading (hrow.2.1 ▸ ht) B, exec_xbinit]
  refine code_next (f := .seq) hrun (hB.trans ?_)
  rw [xbinitRest, bind_ok (hat.run B _ _)]
  dsimp only
  rw [if_neg (by simp; omega), bind_ok (hbrk.run B _ _), bind_ok (hrow.run_lapse B _ _), pure_run]

variable (hat : s.Gives t (scratchAt A.toNat 16 16) (h, off)) (hrow : s.Turns s t (readRow h off 16 A.toNat) w zr) (hzero : xbZero w = true)
include hat hrow hzero

theorem atBarrier_run {st : Bool} (hbrk : s.Gives t (checkBrk A.toNat 16 true st) ⟨⟩) (B : AMap TWord) (z m : Bool)
    (rest : Home × Nat × Nat → M Flow) : atBarrier A.toNat st rest (s.reading t B z m) = rest (h, off, w) (s.reading t B (z || zr) m) := by
  rw [atBarrier, bind_ok ((turns_barrierWord hat hrow).run_lapse B z m), bind_ok (hbrk.run B _ _), bind_ok (checkWord_run hzero _)]

include ht hA hy

section
variable (hbrk : s.Gives t (checkBrk A.toNat 16 true true) ⟨⟩)
include hg hbrk

/-- R316: XBARR counts an arrival off and pieces up. -/
theorem xbarr_arrives (d k : Nat) (hrun : s.Runs t [.r d, .even a, .r b] [] gd) (hlog : g.slog = []) (harr : xbArrivals w ≠ 0)
    (hpieces : sext (xbPieces w) 32 + y.bits.toNat ≤ 2147483647) : ∃ B, exec (.xbarr gd d a b k) s =
      .next ((((s.reading t B (z1 || z2 || zr) (m1 || m2)).putBarrier h off (s.tickOf g.ctx)
        (setBits (setBits w 31 8 (xbArrivals w - 1)) 63 32 (xbPieces w + y.bits.toNat))).writeReg t d ⟨BitVec.ofNat 32 (xbPhase w), .u32⟩).done t) := by
  obtain ⟨c, -, hc, rfl, -⟩ := hrun.start
  obtain ⟨B, hB⟩ := barrierOperands hA hy hrun (xbarrRest d)
  refine ⟨B, code_next (f := .seq) hrun (hB.trans ?_)⟩
  rw [xbarrRest, atBarrier_run hat hrow hzero hbrk]
  dsimp only
  rw [bind_ok (releaseAt_core_passes (s := s.reading c.t B _ _) hc hg hlog), if_neg (by simpa using harr), if_neg (by omega),
    bind_ok ((gives_now hc hg).run B _ _), bind_ok (modify_run _ _), putWord_run ((State.putBarrier_cur (s.reading c.t B _ _) ..).trans hc)]

/-- Log entry 108: XBARR's release waits for the gang's side log. -/
theorem xbarr_waits (d k : Nat) (hrun : s.Runs t [.r d, .even a, .r b] [] gd) (hlog : g.slog ≠ []) : ∃ B, exec (.xbarr gd d a b k) s =
    .next (((s.reading t B (z1 || z2 || zr) (m1 || m2)).updThread t fun y => { y with cont := .drained }).waitOn t .slogEmpty) := by
  obtain ⟨c, th', -, hc, rfl, ht', -, hcont⟩ := hrun.fresh
  obtain ⟨B, hB⟩ := barrierOperands hA hy hrun (xbarrRest d)
  refine ⟨B, code_waits hrun (hB.trans ?_)⟩
  rw [xbarrRest, atBarrier_run hat hrow hzero hbrk,
    bind_error (releaseAt_core_waits (s := s.reading c.t B _ _) hc hg (State.find_reading ht' B _ _) hcont hlog)]

end

variable (hrun : s.Runs t [.even a, .r b] [] gd) (hbrk : s.Gives t (checkBrk A.toNat 16 true false) ⟨⟩) (hcopy : th.copyFaults = [])
include hrun hbrk hcopy

/-- R317: XBTRY reports whether the phase has moved on. -/
theorem xbtry_reports (p k : Nat) : exec (.xbtry gd p a b k) s =
    .next (s.resultPreds t (predWrite p (xbPhase w != y.bits.toNat % 16)) (z1 || z2 || zr) (m1 || m2) 0) := by
  obtain ⟨c, -, hc, rfl, -⟩ := hrun.start
  obtain ⟨B, hB⟩ := barrierOperands hA hy hrun (xbtryRest p)
  have hdone := State.commit_reading_change ht B (z1 || z2 || zr) (m1 || m2)
    (f := fun th => { th with preds := predWrite p (xbPhase w != y.bits.toNat % 16) th.preds }) fun _ _ _ _ => rfl
  rw [State.resultPreds, State.done, ← hdone]
  refine code_next (f := .seq) hrun (hB.trans ?_)
  rw [xbtryRest, bind_ok (reportCopies_none (s := s.reading c.t B _ _) hc (State.find_reading ht B _ _) hcopy),
    atBarrier_run hat hrow hzero hbrk, writePred_eq, bind_ok (modThread_run (s := s.reading c.t B _ _) hc _), pure_run]

/-- XBWAIT at first issue: it looks at the phase. -/
theorem xbwait_looks : ∃ B, (readAddr a >>= fun va => natSrc b >>= xbwaitRest va) s =
    (if xbPhase w != y.bits.toNat % 16 then pure .seq else waitFor (.landing h off (y.bits.toNat % 16)) : M Flow)
      (s.reading t B (z1 || z2 || zr) (m1 || m2)) := by
  obtain ⟨c, th', -, hc, rfl, ht', -, hcont⟩ := hrun.fresh
  obtain rfl : th' = th := Option.some.inj (ht'.symm.trans ht)
  obtain ⟨B, hB⟩ := barrierOperands hA hy hrun xbwaitRest
  refine ⟨B, hB.trans ?_⟩
  have hread := State.find_reading ht B (z1 || z2) (m1 || m2)
  rw [xbwaitRest, bind_ok (thread_run (s := s.reading c.t B _ _) hc hread), bind_ok (reportCopies_none (s := s.reading c.t B _ _) hc hread hcopy),
    if_neg (by simp [hcont]), atBarrier_run hat hrow hzero hbrk]

theorem xbwait_passes (k : Nat) (hphase : xbPhase w ≠ y.bits.toNat % 16) :
    exec (.xbwait gd a b k) s = .next ((s.noted t (z1 || z2 || zr) (m1 || m2) 0).done t) := by
  obtain ⟨B, hB⟩ := xbwait_looks ht hA hy hat hrow hzero hrun hbrk hcopy
  rw [if_pos (by simpa using hphase), pure_run] at hB
  rw [← State.done_reading ht B, exec_xbwait]
  exact code_next (f := .seq) hrun hB

theorem xbwait_waits (k : Nat) (hphase : xbPhase w = y.bits.toNat % 16) : ∃ B, exec (.xbwait gd a b k) s =
    .next ((s.reading t B (z1 || z2 || zr) (m1 || m2)).waitOn t (.landing h off (y.bits.toNat % 16))) := by
  obtain ⟨B, hB⟩ := xbwait_looks ht hA hy hat hrow hzero hrun hbrk hcopy
  rw [if_neg (by simpa using hphase), waitFor, throw_run] at hB
  exact ⟨B, code_waits hrun hB⟩

end

/-- R312: XBWAIT whose word's phase has released it completes. -/
theorem xbwait_released {s : State} {t a b va n : Nat} (k : Nat) {gd : Guard} {th : Thread} {B : AMap TWord} {z m : Bool}
    (ht : s.threads.find t = some th) (h : s.Resumes t [.even a, .r b] [] gd true .skip) (hcopy : th.copyFaults = [])
    (hread : (readAddr a >>= fun x => natSrc b >>= fun y => pure (x, y)) s = .ok (va, n) (s.reading t B z m)) :
    exec (.xbwait gd a b k) s = .next ((s.noted t z m 0).done t) := by
  obtain ⟨c, th', hc, rfl, ht', hcont⟩ := h.given
  obtain rfl : th' = th := Option.some.inj (ht'.symm.trans ht)
  have hkept := State.find_reading ht B z m
  rw [← State.done_reading ht B, exec_xbwait]
  refine h.completes nofun ((bind_pair hread xbwaitRest).trans ?_)
  rw [xbwaitRest, bind_ok (thread_run (s := s.reading c.t B _ _) hc hkept), bind_ok (reportCopies_none (s := s.reading c.t B _ _) hc hkept hcopy),
    if_pos (by simp [hcont]), pure_run]

/-- Settles O29: each instruction by what it does with its word, the judgement by the fields that it leaves. -/
theorem landingBarriers : Obligations.LandingBarriers := by
  unfold Obligations.LandingBarriers
  refine ⟨fun s S t gd d a b p k off w h A y z1 z2 m1 m2 zr th g ht hg => ⟨fun hres hcopy B hread => ?released, fun hA hy hat =>
    ⟨fun hrun hpos hmax hbrk hrow => ?init, fun hrow hzero => ⟨fun hrun hbrk => ⟨fun hlog harr hpieces => ?arrives, fun hlog => ?logged⟩,
      fun hrun hbrk hcopy => ⟨?tries, fun hp => ?passes, fun hp => ?waits⟩⟩⟩⟩,
    fun w _ => ⟨fun ⟨harr, hpieces⟩ => xbJudge_fields harr hpieces, xbJudge_stands⟩⟩
  case released => exact xbwait_released k ht hres hcopy hread
  case init => exact xbinit_writes ht hA hy k hrun hpos hmax hat hbrk hrow
  case arrives => exact xbarr_arrives ht hg hA hy hat hrow hzero hbrk d k hrun hlog harr hpieces
  case logged => exact xbarr_waits ht hg hA hy hat hrow hzero hbrk d k hrun hlog
  case tries => exact xbtry_reports ht hA hy hat hrow hzero hrun hbrk hcopy p k
  case passes => exact xbwait_passes ht hA hy hat hrow hzero hrun hbrk hcopy k hp
  case waits => exact xbwait_waits ht hA hy hat hrow hzero hrun hbrk hcopy k hp

end Sys2Proof.Machine

end

section
/-! LAWS. What the tile instructions share (15_tile R331, R333, R338): the slot found and reported, an operation issued to it, and
instructions that give a false guard a meaning. -/

namespace Sys2Proof.Machine

open Sys2Proof

/-! ## Instructions that give a false guard a meaning (R37) -/

section
variable {s S : State} {t : Nat} {fs : List Field} {gd : Guard} {ds : List Dest} {body : Bool → M Flow}

theorem codeAny_waits (h : s.Runs t fs [] gd) {w : Wait} (hb : body true s = .error (.wait w) S) :
    codeAny fs [] gd ds body s = .next (S.waitOn t w) := by
  obtain ⟨c, th, hc, rfl, -⟩ := h.start
  exact runCode_wait hc ((issueWith_runs h).trans hb)

theorem codeAny_trap (h : s.Runs t fs [] gd) {x : Cause} {v : Nat} (hb : body true s = .error (.trap x v) S) :
    codeAny fs [] gd ds body s = .next (S.takeTrap t x v) := by
  obtain ⟨c, th, hc, rfl, -⟩ := h.start
  exact runCode_trap hc ((issueWith_runs h).trans hb)

variable (h : s.Resumes t fs [] gd false .none)
include h

theorem codeAny_unguarded_next (hb : body false s = .ok .seq S) : codeAny fs [] gd ds body s = .next (S.done t) := by
  obtain ⟨c, th, hc, rfl, -⟩ := h.given
  exact runCode_next hc ((issueWith_unguarded h body).trans hb)

theorem codeAny_unguarded_waits {w : Wait} (hb : body false s = .error (.wait w) S) :
    codeAny fs [] gd ds body s = .next (S.waitOn t w) := by
  obtain ⟨c, th, hc, rfl, -⟩ := h.given
  exact runCode_wait hc ((issueWith_unguarded h body).trans hb)

end

/-! ## Slots -/

section
variable {s : State} {c : Cur} {gs i acc : Nat} {x : GInst} (hc : s.cur = some c) (hin : s.InSlot c.t gs i x)
include hc hin

/-- R338: the slot of a member. -/
theorem slotAt_run (hacc : acc < x.nslots) : slotAt gs acc s = .ok (i, x) s := by
  obtain ⟨g, hg, hgs, hx⟩ := hin
  rw [slotAt, bind_ok (gang_run hc hg), hgs]
  dsimp only
  rw [bind_ok (get_run s), hx]
  dsimp only
  rw [if_neg (by omega), pure_run]

omit hc
/-- R333: a slot without a fault has nothing to report. -/
theorem reportSlot_run (hfault : (x.slot acc).fault = none) : reportSlot i acc s = .ok ⟨⟩ s := by
  obtain ⟨g, -, -, hx⟩ := hin
  rw [reportSlot, bind_ok (get_run s), hx]
  dsimp only
  rw [hfault]
  rfl

include hc
theorem slotReport_run (hacc : acc < x.nslots) (hfault : (x.slot acc).fault = none) : slotReport gs acc s = .ok (i, x) s := by
  rw [slotReport, bind_ok (slotAt_run hc hin hacc)]
  dsimp only
  rw [bind_ok (reportSlot_run hin hfault), pure_run]

end

theorem issueSlot_run {s : State} {c : Cur} (hc : s.cur = some c) (i acc : Nat) (op : Nat → TileOp) :
    issueSlot i acc op s = .ok ⟨⟩ (s.issueTile i acc (op c.t)) := by
  rw [issueSlot, bind_ok (curT_run hc), modify_run]

theorem State.issueTile_cur (s : State) (i k : Nat) (op : TileOp) : (s.issueTile i k op).cur = s.cur := by
  unfold State.issueTile
  split <;> rfl

theorem State.issueTile_threads (s : State) (i k : Nat) (op : TileOp) : (s.issueTile i k op).threads = s.threads := by
  unfold State.issueTile
  split <;> rfl

theorem State.issueTile_gangs (s : State) (i k : Nat) (op : TileOp) : (s.issueTile i k op).gangs = s.gangs := by
  unfold State.issueTile
  split <;> rfl

theorem State.issueTile_mem (s : State) (i k : Nat) (op : TileOp) : (s.issueTile i k op).mem = s.mem := by
  unfold State.issueTile
  split <;> rfl

theorem State.issueTile_updThread (s : State) (t : Nat) (f : Thread → Thread) (i k : Nat) (op : TileOp) :
    (s.updThread t f).issueTile i k op = (s.issueTile i k op).updThread t f := by
  unfold State.issueTile
  simp only [State.updThread_insts]
  split <;> rfl

/-- A slot with one operation more (R331). -/
def TileSlot.joined (y : TileSlot) (op : TileOp) : TileSlot := { y with ops := y.ops ++ [(y.next, op)], next := y.next + 1 }

/-- An instance with a slot replaced. -/
def GInst.withSlot (x : GInst) (k : Nat) (y : TileSlot) : GInst := { x with slots := x.slots.put k y }

@[simp] theorem GInst.slot_withSlot (x : GInst) (k : Nat) (y : TileSlot) : (x.withSlot k y).slot k = y := by
  simp [GInst.slot, GInst.withSlot]

/-- R331: an operation issued to a slot without a fault joins it. -/
theorem State.issueTile_joins {s : State} {i k : Nat} {x : GInst} (hx : s.insts.find i = some x) (hfault : (x.slot k).fault = none)
    (op : TileOp) : s.issueTile i k op = s.setSlot i k ((x.slot k).joined op) := by
  have hkept : ((x.slot k).joined op).fault = none := hfault
  simp only [State.issueTile, hx, hfault, TileSlot.joined]
  simp

theorem State.find_setSlot {s : State} {i k : Nat} {x : GInst} (hx : s.insts.find i = some x) (y : TileSlot) :
    (s.setSlot i k y).insts.find i = some (x.withSlot k y) := by
  rw [State.setSlot, State.updInst_insts, AMap.find_upd, if_pos rfl, hx]
  rfl

end Sys2Proof.Machine

end

section
/-! LAWS. Convergence registers (14_barrier R318 to R320; 15_tile R340): a signature, a mismatch, an abstention, the end of a phase, and the
obligation. -/

namespace Sys2Proof.Machine

open Sys2Proof

/-! ## The end of a phase (R320) -/

/-- Convergence register `k` of an instance, `r` before, in its next phase. -/
def State.endCv (s : State) (i k : Nat) (r : CvReg) : State :=
  s.updInst i fun x => { x with cvs := x.cvs.put k { phase := !r.phase, signers := [], snap := none } }

section
variable {s : State} {i k : Nat} {x : GInst} (hx : s.insts.find i = some x)
include hx

theorem State.judgeCv_pending (hone : ∃ t, t ∈ s.liveOf i ∧ ∀ e, e ∈ (x.cv k).signers → e.1 ≠ t) : s.judgeCv i k = s := by
  have h : ((s.liveOf i).all fun t => (x.cv k).signers.any fun g => g.1 == t) = false := by
    obtain ⟨t, ht, hnone⟩ := hone
    exact List.all_eq_false.2 ⟨t, ht, by
      rw [Bool.not_eq_true, List.any_eq_false]
      exact fun e he => by simpa using hnone e he⟩
  simp only [State.judgeCv, hx, h]
  simp

/-- The multiply that the phase held is issued to its slot. -/
theorem State.judgeCv_issues {z : Snap} (hne : (x.cv k).signers ≠ [])
    (hall : ∀ t, t ∈ s.liveOf i → ∃ e, e ∈ (x.cv k).signers ∧ e.1 = t) (hz : (x.cv k).snap = some z) :
    s.judgeCv i k = ((s.endCv i k (x.cv k)).issueTile i z.acc (.mma z k ((x.cv k).signers.getLastD (0, false)).1)).settleTiles (16 * i + k)
      (some (i, z.acc, (x.slot z.acc).next)) := by
  have h : ((s.liveOf i).all fun t => (x.cv k).signers.any fun g => g.1 == t) = true := by simpa using hall
  have hsome : ((x.cv k).signers == []) = false := by simpa using hne
  simp only [State.judgeCv, hx, h, hz, hsome]
  rfl

end

/-! ## A signature (R319, R320, R340) -/

/-- What a signature leaves that waits for its gang's side log (log entry 108). -/
def State.drains (s : State) (t : Nat) : State := s.updThread t fun y => { y with cont := .drained }

/-- What has been read for two operands, and what follows. -/
theorem mulSources_then {q md : Bool} {P Q : TOpnd} {s S : State} {a b : TSrc}
    (h : (do let u ← mulOpnd (if q then 2 + b2n md else b2n md) (if q then 4224 else 4096) (← pairOpnd P)
             let v ← mulOpnd (if q then 2 + b2n md else b2n md) (if q then 4224 else 4096) (← pairOpnd Q)
             pure (u, v) : M (TSrc × TSrc)) s = .ok (a, b) S) (k : TSrc → TSrc → M Flow) :
    (do let u ← mulOpnd (if q then 2 + b2n md else b2n md) (if q then 4224 else 4096) (← pairOpnd P)
        let v ← mulOpnd (if q then 2 + b2n md else b2n md) (if q then 4224 else 4096) (← pairOpnd Q)
        k u v : M Flow) s = k a b S := by
  have e := bind_pair (p := pairOpnd P >>= mulOpnd (if q then 2 + b2n md else b2n md) (if q then 4224 else 4096))
    (q := fun _ => pairOpnd Q >>= mulOpnd (if q then 2 + b2n md else b2n md) (if q then 4224 else 4096))
    (by simpa only [bind_assoc] using h) k
  simpa only [bind_assoc] using e

/-- A signature, a release at core scope (R320). -/
def signAs (i cv : Nat) (r : CvReg) : M Flow := do
  releaseAt 2
  modify fun s => s.sign i cv r
  pure .seq

/-- The signature of thread `t` with snapshot `z` in a phase that stands at `r` (R319, R340). -/
def signSnap (t i gs cv : Nat) (r : CvReg) (z : Snap) : M Flow := do
  match r.snap with
  | some z0 => if z0.norm != z.norm then trap .cvmismatch (16 * gs + cv)
  | none => pure ()
  signAs i cv { r with signers := r.signers ++ [(t, false)], snap := some (r.snap.getD z) }

/-- What a signer gives its phase. -/
def snapOf (q md : Bool) (gs acc : Nat) (P Q : TOpnd) (a b : TSrc) : Snap :=
  { q := q, m := md, acc := acc, src := b2n P.isHnd + 2 * b2n Q.isHnd, a := a, b := b, gs := gs }

/-- TMMA or TMMQ. -/
def mulInstr (q : Bool) (gd : Guard) (gs cv acc : Nat) (P Q : TOpnd) (md : Bool) : Instr :=
  if q then .tmmq gd gs cv acc P Q md else .tmma gd gs cv acc P Q md

theorem exec_mulInstr (q : Bool) (gd : Guard) (gs cv acc : Nat) (P Q : TOpnd) (md : Bool) :
    exec (mulInstr q gd gs cv acc P Q md) = codeAny (pairField P ++ pairField Q) [] gd [] fun on => signMul on q md gs cv acc P Q := by
  cases q <;> rfl

theorem signAs_run {s : State} {c : Cur} {g : Gang} (hc : s.cur = some c) (hg : s.gangs.find (gidOf c.t) = some g) (hlog : g.slog = [])
    (i cv : Nat) (r : CvReg) : signAs i cv r s = .ok .seq (s.sign i cv r) := by
  rw [signAs, bind_ok (releaseAt_core_passes hc hg hlog), bind_ok (modify_run _ _), pure_run]

theorem signAs_waits {s : State} {c : Cur} {th : Thread} {g : Gang} (hc : s.cur = some c) (ht : s.threads.find c.t = some th)
    (hg : s.gangs.find (gidOf c.t) = some g) (hcont : th.cont = .none) (hlog : g.slog ≠ []) (i cv : Nat) (r : CvReg) :
    signAs i cv r s = .error (.wait .slogEmpty) (s.drains c.t) := by
  rw [signAs, bind_error (releaseAt_core_waits hc hg ht hcont hlog)]
  rfl

theorem signSnap_matches {r : CvReg} {z : Snap} (h : r.snap = none ∨ ∃ w, r.snap = some w ∧ w.norm = z.norm) (t i gs cv : Nat) :
    signSnap t i gs cv r z = signAs i cv { r with signers := r.signers ++ [(t, false)], snap := some (r.snap.getD z) } := by
  rw [signSnap]
  rcases h with h | ⟨w, h, hw⟩
  · rw [h]
  · rw [h]
    simp only [hw, bne_self_eq_false]
    rfl

theorem signSnap_traps {r : CvReg} {z w : Snap} (h : r.snap = some w) (hw : w.norm ≠ z.norm) (t i gs cv : Nat) (s : State) :
    signSnap t i gs cv r z s = .error (.trap .cvmismatch (16 * gs + cv)) s := by
  rw [signSnap, h]
  simp only [bne_iff_ne, ne_eq, hw, not_false_eq_true, if_true]
  rfl

section
variable {s : State} {t i : Nat} {gd : Guard} {gs cv acc : Nat} {P Q : TOpnd} {md q : Bool} {x : GInst} (hin : s.InSlot t gs i x)
  (hacc : acc < x.nslots) (hcv : cv < x.ncv) (hfault : (x.slot acc).fault = none) (hnew : ∀ e, e ∈ (x.cv cv).signers → e.1 ≠ t)
include hin hacc hcv hfault hnew

/-- The slot and the convergence register of a signer are found. -/
theorem signMul_found {c : Cur} (hc : s.cur = some c) (hct : c.t = t) (on : Bool) :
    signMul on q md gs cv acc P Q s = (if on then do
      if q && x.stride != 65536 then illegal
      let a ← mulOpnd (if q then 2 + b2n md else b2n md) (if q then 4224 else 4096) (← pairOpnd P)
      let b ← mulOpnd (if q then 2 + b2n md else b2n md) (if q then 4224 else 4096) (← pairOpnd Q)
      signSnap t i gs cv (x.cv cv) (snapOf q md gs acc P Q a b)
    else signAs i cv { x.cv cv with signers := (x.cv cv).signers ++ [(t, true)] } : M Flow) s := by
  subst hct
  have hany : ((x.cv cv).signers.any fun g => g.1 == c.t) = false := by simpa using fun a b hab => hnew (a, b) hab
  rw [signMul, bind_ok (slotAt_run hc hin hacc)]
  dsimp only
  rw [if_neg (by omega), bind_ok (reportSlot_run hin hfault), bind_ok (curT_run hc), hany]
  rfl

/-- A signer that has read its operands. -/
theorem signMul_signs {c : Cur} (hc : s.cur = some c) (hct : c.t = t) (hq : q = false ∨ x.stride = 65536) {S : State} {a b : TSrc}
    (hread : (do let u ← mulOpnd (if q then 2 + b2n md else b2n md) (if q then 4224 else 4096) (← pairOpnd P)
                 let v ← mulOpnd (if q then 2 + b2n md else b2n md) (if q then 4224 else 4096) (← pairOpnd Q)
                 pure (u, v) : M (TSrc × TSrc)) s = .ok (a, b) S) :
    signMul true q md gs cv acc P Q s = signSnap t i gs cv (x.cv cv) (snapOf q md gs acc P Q a b) S := by
  have hstride : ¬(q && x.stride != 65536) = true := by rcases hq with rfl | h <;> simp [*]
  rw [signMul_found hin hacc hcv hfault hnew hc hct, if_pos rfl, if_neg hstride]
  exact mulSources_then hread _

end

/-- Settles O38: signatures by `signMul_signs`, abstentions by `signMul_found`, the end of a phase by `State.judgeCv_issues`. -/
theorem tileSigning : Obligations.TileSigning := by
  unfold Obligations.TileSigning
  refine ⟨?_, fun s i k x z hx hne => ⟨State.judgeCv_pending hx, fun hall hz hfault => ?ends⟩⟩
  case ends =>
    have hx' : (s.endCv i k (x.cv k)).insts.find i =
        some { x with cvs := x.cvs.put k { phase := !(x.cv k).phase, signers := [], snap := none } } := by
      rw [State.endCv, State.updInst_insts, AMap.find_upd, if_pos rfl, hx, Option.map_some]
    rw [State.judgeCv_issues hx hne hall hz, State.issueTile_joins hx' hfault]
    refine ⟨_, State.find_setSlot hx' _, ?_, ⟨((x.cv k).signers.getLastD (0, false)).1, ?_⟩, ?_, rfl, rfl⟩
    · simp [GInst.cv, GInst.withSlot]
    · rw [GInst.slot_withSlot]
      rfl
    · rw [GInst.slot_withSlot]
      rfl
  intro s t i gd gs cv acc P Q md q x a b B z m hin hacc hcv hfault r fmt bytes fs i1 snap logged waits hnew
  have hfound {c : Cur} (hc : s.cur = some c) (hct : c.t = t) := signMul_found (q := q) (md := md) (P := P) (Q := Q) hin hacc hcv hfault hnew hc hct
  refine ⟨fun hrun hq hread => ?signs, fun hres => ?abstains⟩
  case signs =>
    obtain ⟨c, th, g, hc, hct, ht, hg, hcont⟩ := hrun.fresh
    have hbody := signMul_signs hin hacc hcv hfault hnew hc hct hq hread
    subst hct
    have hsnap (h : r.snap = none ∨ ∃ w, r.snap = some w ∧ w.norm = snap.norm) := congrFun (signSnap_matches h c.t i gs cv) (s.reading c.t B z m)
    refine ⟨fun hmatch => ⟨fun ⟨g', hg', hlog⟩ => ?_, fun hempty => ?_⟩, fun w hw hdiff => ?_⟩
    · exact (congrFun (exec_mulInstr ..) s).trans (codeAny_waits hrun ((hbody.trans (hsnap hmatch)).trans
        (signAs_waits (s := s.reading c.t B z m) hc (State.find_reading ht B z m) hg' hcont hlog i cv _)))
    · have hlog : g.slog = [] := by_contra fun h => hempty ⟨g, hg, h⟩
      exact (congrFun (exec_mulInstr ..) s).trans (codeAny_next (f := .seq) hrun ((hbody.trans (hsnap hmatch)).trans
        (signAs_run (s := s.reading c.t B z m) hc hg hlog i cv _)))
    · exact (congrFun (exec_mulInstr ..) s).trans (codeAny_trap hrun (hbody.trans (signSnap_traps hw hdiff c.t i gs cv _)))
  case abstains =>
    obtain ⟨c, th, hc, hct, ht, hcont⟩ := hres.given
    have hbody := hfound hc hct false
    subst hct
    obtain ⟨g, hg, -⟩ := hin
    refine ⟨fun ⟨g', hg', hlog⟩ => ?_, fun hempty => ?_⟩
    · exact (congrFun (exec_mulInstr ..) s).trans (codeAny_unguarded_waits hres (hbody.trans (signAs_waits hc ht hg' hcont hlog i cv _)))
    · have hlog : g.slog = [] := by_contra fun h => hempty ⟨g, hg, h⟩
      exact (congrFun (exec_mulInstr ..) s).trans (codeAny_unguarded_next hres (hbody.trans (signAs_run hc hg hlog i cv _)))

end Sys2Proof.Machine

end

section
/-! LAWS. Tile slots, handles and scales (15_tile R338, R339, R341, R342, R345), and the obligation. -/

namespace Sys2Proof.Machine

open Sys2Proof

/-! ## THDL (R339) -/

theorem exec_thdl (gd : Guard) (hn a : Nat) : exec (.thdl gd hn a) = code [.even a] gd [] (readAddr a >>= fun va => do
    if va / 2 ^ 56 == 0xFE then trap .addr va
    let (x, _) ← loadMem va 32 false false 0 .plain
    if badDesc x.v then trap .illegal va
    let t ← curT
    modify fun s => s.updGang (gidOf t) fun g => { g with handles := g.handles.put hn x.v }
    pure .seq) := rfl

theorem thdl_loads {s S : State} {t a : Nat} {gd : Guard} {A : DWord} {got : Got} {gl z m zr : Bool} {th : Thread}
    (ht : s.threads.find t = some th) (hrun : s.Runs t [.even a] [] gd) (hA : s.srcPair t a .loAddr .hiAddr = some (A, z, m))
    (hap : A.toNat / 2 ^ 56 ≠ 254) (hload : s.Turns S t (loadMem A.toNat 32 false false 0 .plain) (got, gl) zr) (hok : badDesc got.v = false)
    (hn : Nat) : exec (.thdl gd hn a) s =
      .next (((S.noted t (z || zr) m 0).updGang (gidOf t) fun e => { e with handles := e.handles.put hn got.v }).done t) := by
  obtain ⟨c, -, hc, rfl, -⟩ := hrun.start
  rw [exec_thdl]
  obtain ⟨B, hB⟩ := hrun.body_comes (.last (hrun.pair_read hA) .refl)
  refine (code_next (f := .seq) hrun (hB.trans ?_)).trans (congrArg _ (State.done_reading (s := S.updGang (gidOf c.t) _) (hload.2.1 ▸ ht) B (z || zr) m))
  rw [if_neg (by simpa using hap)]
  dsimp only
  rw [bind_ok (hload.run_lapse B z m)]
  dsimp only
  rw [hok]
  simp only [Bool.false_eq_true, if_false]
  rw [bind_ok (curT_run (s := S.reading c.t B _ _) (hload.1.trans hc)), bind_ok (modify_run _ _)]
  rfl

/-! ## TWAIT and TFLAG (R345) -/

theorem exec_twait (gd : Guard) (gs acc : Nat) : exec (.twait gd gs acc) = code [] gd [] (awaitSlot gs acc >>= fun _ => pure .seq) := rfl

theorem exec_tflag (gd : Guard) (gs acc : Nat) : exec (.tflag gd gs acc) = code [] gd [] (awaitSlot gs acc >>= fun y => do
    addFlags (fFovf * b2n y.fovf + fQsat * b2n y.qsat)
    if y.lapse then setLapf
    pure .seq) := rfl

/-- What a thread waits for that awaits a slot (R345). -/
def State.slotWait (s : State) (t i acc : Nat) (y : TileSlot) : Wait := .tiles i acc y.next (s.signedBy t i acc)

/-- What awaits a slot keeps that its wait is fixed. -/
def State.awaiting (s : State) (t : Nat) : State := s.updThread t fun e => { e with cont := .tok 0 }

section
variable {s : State} {c : Cur} {gs i acc : Nat} {x : GInst} {th : Thread} (hc : s.cur = some c) (hin : s.InSlot c.t gs i x)
  (hacc : acc < x.nslots) (hfault : (x.slot acc).fault = none) (ht : s.threads.find c.t = some th)
include hc hin hacc ht

theorem awaitSlot_waits (hcont : th.cont = .none) (hw : s.waitOver c.t th (s.slotWait c.t i acc (x.slot acc)) = false) :
    awaitSlot gs acc s = .error (.wait (s.slotWait c.t i acc (x.slot acc))) (s.awaiting c.t) := by
  rw [awaitSlot, bind_ok (slotAt_run hc hin hacc)]
  dsimp only
  rw [bind_ok (thread_run hc ht), bind_ok (curT_run hc), if_pos (by simp [hcont]), bind_ok (get_run s), bind_ok (modThread_run hc _)]
  rw [State.slotWait] at hw
  simp only [hw, Bool.not_false, if_true]
  rfl

include hfault

theorem awaitSlot_passes (hcont : th.cont = .none) (hw : s.waitOver c.t th (s.slotWait c.t i acc (x.slot acc)) = true) :
    awaitSlot gs acc s = .ok (x.slot acc) (s.awaiting c.t) := by
  rw [awaitSlot, bind_ok (slotAt_run hc hin hacc)]
  dsimp only
  rw [bind_ok (thread_run hc ht), bind_ok (curT_run hc), if_pos (by simp [hcont]), bind_ok (get_run s), bind_ok (modThread_run hc _)]
  rw [State.slotWait] at hw
  simp only [hw, Bool.not_true, Bool.false_eq_true, if_false]
  exact bind_ok (reportSlot_run (s := s.awaiting c.t) hin hfault)

theorem awaitSlot_again (hcont : th.cont = .tok 0) : awaitSlot gs acc s = .ok (x.slot acc) s := by
  rw [awaitSlot, bind_ok (slotAt_run hc hin hacc)]
  dsimp only
  rw [bind_ok (thread_run hc ht), bind_ok (curT_run hc), if_neg (by simp [hcont]), bind_ok (reportSlot_run hin hfault), pure_run]

end

/-- What a wait left in the thread does not matter to what completes. -/
theorem State.done_awaiting {s : State} {t : Nat} {th : Thread} (ht : s.threads.find t = some th) : (s.awaiting t).done t = s.done t := by
  have h := State.commit_congr (s := s) (f := fun e => { e with cont := .tok 0 }) (g := fun e => e) ht rfl rfl
  rw [State.updThread_id] at h
  exact congrArg (·.advance t) h

/-- R345: what TFLAG does once it has awaited its slot. -/
def flagRest (y : TileSlot) : M Flow := do
  addFlags (fFovf * b2n y.fovf + fQsat * b2n y.qsat)
  if y.lapse then setLapf
  pure .seq

theorem flagRest_run {s S : State} {c : Cur} {th : Thread} (hc : S.cur = some c) (ht : s.threads.find c.t = some th)
    (hS : S = s ∨ S = s.awaiting c.t) (y : TileSlot) :
    ∃ T, flagRest y S = .ok .seq T ∧ T.done c.t = (s.noted c.t y.lapse false (fFovf * b2n y.fovf + fQsat * b2n y.qsat)).done c.t := by
  refine ⟨S.updThread c.t fun e => { e with pendFst := orf e.pendFst (fFovf * b2n y.fovf + fQsat * b2n y.qsat), pendLapf := e.pendLapf || y.lapse }, ?_, ?_⟩
  · rw [flagRest, addFlags, bind_ok (modThread_run hc _)]
    cases y.lapse with
    | true =>
      rw [if_pos rfl, setLapf, bind_ok (modThread_run (s := S.updThread c.t _) hc _), State.updThread_updThread]
      simp only [Bool.or_true]
      rfl
    | false =>
      simp only [Bool.false_eq_true, if_false, Bool.or_false]
      rfl
  · rcases hS with rfl | rfl
    · refine congrArg (·.advance c.t) (State.commit_congr ht ?_ ?_)
      · exact (Bool.or_false _).symm
      · rfl
    · rw [State.awaiting, State.updThread_updThread]
      refine congrArg (·.advance c.t) (State.commit_congr ht ?_ ?_)
      · exact (Bool.or_false _).symm
      · rfl

section
variable {s : State} {t gs i acc : Nat} {gd : Guard} {x : GInst} {th : Thread} (hin : s.InSlot t gs i x) (hacc : acc < x.nslots)
  (hfault : (x.slot acc).fault = none) (ht : s.threads.find t = some th)
include hin hacc ht

theorem twait_waits (h : s.Runs t [] [] gd) (hw : s.waitOver t th (s.slotWait t i acc (x.slot acc)) = false) :
    exec (.twait gd gs acc) s = .next ((s.awaiting t).waitOn t (s.slotWait t i acc (x.slot acc))) := by
  obtain ⟨c, th', -, hc, rfl, ht', -, hcont⟩ := h.fresh
  obtain rfl : th' = th := Option.some.inj (ht'.symm.trans ht)
  rw [exec_twait]
  exact code_waits h (bind_error (awaitSlot_waits hc hin hacc ht hcont hw) _)

theorem tflag_waits (h : s.Runs t [] [] gd) (hw : s.waitOver t th (s.slotWait t i acc (x.slot acc)) = false) :
    exec (.tflag gd gs acc) s = .next ((s.awaiting t).waitOn t (s.slotWait t i acc (x.slot acc))) := by
  obtain ⟨c, th', -, hc, rfl, ht', -, hcont⟩ := h.fresh
  obtain rfl : th' = th := Option.some.inj (ht'.symm.trans ht)
  rw [exec_tflag]
  exact code_waits h (bind_error (awaitSlot_waits hc hin hacc ht hcont hw) _)

include hfault

theorem twait_passes (h : s.Runs t [] [] gd) (hw : s.waitOver t th (s.slotWait t i acc (x.slot acc)) = true) :
    exec (.twait gd gs acc) s = .next (s.done t) := by
  obtain ⟨c, th', -, hc, rfl, ht', -, hcont⟩ := h.fresh
  obtain rfl : th' = th := Option.some.inj (ht'.symm.trans ht)
  rw [exec_twait, ← State.done_awaiting ht]
  exact code_next (f := .seq) h (bind_ok (awaitSlot_passes hc hin hacc hfault ht hcont hw))

theorem tflag_passes (h : s.Runs t [] [] gd) (hw : s.waitOver t th (s.slotWait t i acc (x.slot acc)) = true) :
    exec (.tflag gd gs acc) s =
      .next ((s.noted t (x.slot acc).lapse false (fFovf * b2n (x.slot acc).fovf + fQsat * b2n (x.slot acc).qsat)).done t) := by
  obtain ⟨c, th', -, hc, rfl, ht', -, hcont⟩ := h.fresh
  obtain rfl : th' = th := Option.some.inj (ht'.symm.trans ht)
  obtain ⟨T, hT, hdone⟩ := flagRest_run (S := s.awaiting c.t) hc ht (.inr rfl) (x.slot acc)
  rw [exec_tflag, ← hdone]
  exact code_next (f := .seq) h ((bind_ok (awaitSlot_passes hc hin hacc hfault ht hcont hw)).trans hT)

variable (h : s.Resumes t [] [] gd true (.tok 0))
include h

theorem twait_again : exec (.twait gd gs acc) s = .next (s.done t) := by
  obtain ⟨c, th', hc, rfl, ht', hcont⟩ := h.given
  rw [exec_twait]
  exact h.completes nofun (bind_ok (awaitSlot_again hc hin hacc hfault ht' hcont))

theorem tflag_again : exec (.tflag gd gs acc) s =
    .next ((s.noted t (x.slot acc).lapse false (fFovf * b2n (x.slot acc).fovf + fQsat * b2n (x.slot acc).qsat)).done t) := by
  obtain ⟨c, th', hc, rfl, ht', hcont⟩ := h.given
  obtain ⟨T, hT, hdone⟩ := flagRest_run (S := s) hc ht (.inl rfl) (x.slot acc)
  rw [exec_tflag, ← hdone]
  exact h.completes nofun ((bind_ok (awaitSlot_again hc hin hacc hfault ht' hcont)).trans hT)

end

/-! ## TZERO and TSCALE (R341, R342) -/

section
variable {s : State} {t gs i acc desc : Nat} {gd : Guard} {x : GInst} {B : AMap TWord} {z m : Bool} (hin : s.InSlot t gs i x)
  (hacc : acc < x.nslots) (hfault : (x.slot acc).fault = none)
include hin hacc hfault

theorem tzero_clears (h : s.Runs t [] [] gd) : exec (.tzero gd gs acc none) s = .next ((s.issueTile i acc (.clear t)).done t) := by
  obtain ⟨c, -, hc, rfl, -⟩ := h.start
  exact code_next (f := .seq) h ((bind_ok (slotReport_run hc hin hacc hfault)).trans (bind_ok (issueSlot_run hc i acc .clear)))

theorem tzero_loads {src : TOpnd} (h : s.Runs t (oneField src) [] gd) (hread : handleOpnd src s = .ok desc (s.reading t B z m))
    (hfmt : dFmt desc = 4 ∨ (dFmt desc = 5 ∧ x.stride = 65536)) :
    exec (.tzero gd gs acc (some src)) s = .next (((s.reading t B z m).issueTile i acc (.load desc t)).done t) := by
  obtain ⟨c, -, hc, rfl, -⟩ := h.start
  have hok : ¬(dFmt desc != 4 && (dFmt desc != 5 || x.stride != 65536)) = true := by rcases hfmt with h | ⟨h, h'⟩ <;> simp [*]
  refine code_next (f := .seq) h ((bind_ok (slotReport_run hc hin hacc hfault)).trans ((bind_ok hread).trans ?_))
  rw [if_neg hok]
  exact bind_ok (issueSlot_run (s := s.reading c.t B z m) hc i acc (.load desc))

theorem tscale_issues {X Y : TOpnd} {u v : TBase} (h : s.Runs t (oneField X ++ oneField Y) [] gd)
    (hread : (baseOpnd X >>= fun p => baseOpnd Y >>= fun q => pure (p, q)) s = .ok (u, v) (s.reading t B z m)) :
    exec (.tscale gd gs acc X Y) s = .next (((s.reading t B z m).issueTile i acc (.scale u v t)).done t) := by
  obtain ⟨c, -, hc, rfl, -⟩ := h.start
  refine code_next (f := .seq) h ((bind_ok (slotReport_run hc hin hacc hfault)).trans ?_)
  exact (bind_pair hread fun a b => issueSlot i acc (.scale a b) >>= fun _ => (pure .seq : M Flow)).trans
    (bind_ok (issueSlot_run (s := s.reading c.t B z m) hc i acc (.scale u v)))

end

/-- Settles O37: each instruction by what it finds in its slot and what it issues to it. -/
theorem tileSlots : Obligations.TileSlots := by
  unfold Obligations.TileSlots
  intro s S t i gd hn a gs acc desc src X Y A x got gl z m zr u v B th ht y flags w
  refine ⟨fun hrun hA hap hload hok => thdl_loads ht hrun hA hap hload hok hn, fun hin hacc hfault => ⟨fun hrun => ⟨?clear, fun hw => ?passes, fun hw => ?waits⟩,
    fun hres => ?again, fun hrun hread hfmt => ?load, fun hrun hread => ?scale⟩⟩
  case clear => exact tzero_clears hin hacc hfault hrun
  case passes => exact ⟨twait_passes hin hacc hfault ht hrun hw, tflag_passes hin hacc hfault ht hrun hw⟩
  case waits => exact ⟨twait_waits hin hacc ht hrun hw, tflag_waits hin hacc ht hrun hw⟩
  case again => exact ⟨twait_again hin hacc hfault ht hres, tflag_again hin hacc hfault ht hres⟩
  case load => exact tzero_loads hin hacc hfault hrun hread hfmt
  case scale => exact tscale_issues hin hacc hfault hrun hread

end Sys2Proof.Machine

end

section
/-! LAWS. TCVT and TSTORE (15_tile R331, R343, R344): turns on a slot, the rows converted, the lines stored, and the obligation. -/

namespace Sys2Proof.Machine

open Sys2Proof

/-! ## Turns (R331) -/

section
variable {s : State} {c : Cur} {gs i acc : Nat} {x : GInst} (hc : s.cur = some c) (hin : s.InSlot c.t gs i x)
  (hfault : (x.slot acc).fault = none)
include hc hin hfault

/-- A thread without an operation in a slot issues one; what is left of its turn. -/
theorem takeTurn_issues (op : TileOp) (hnone : ∀ e, e ∈ (x.slot acc).ops → e.2.owner ≠ some c.t) :
    takeTurn i acc op s = (if (x.slot acc).ops.any fun p => decide (p.1 < (x.slot acc).next) then waitFor (.turn i acc (x.slot acc).next)
      else pure op : M TileOp) (s.issueTile i acc op) := by
  obtain ⟨g, hg, hgs, hx⟩ := hin
  have hfind : ((x.slot acc).ops.find? fun o => o.2.owner == some c.t) = none := by
    rw [List.find?_eq_none]
    exact fun e he => by simpa using hnone e he
  have hx' := State.find_setSlot (k := acc) hx ((x.slot acc).joined op)
  rw [← State.issueTile_joins hx hfault] at hx'
  rw [takeTurn, bind_ok (curT_run hc), bind_ok (get_run s), hx]
  dsimp only
  rw [hfind]
  dsimp only
  rw [bind_assoc, bind_ok (modify_run _ _), pure_bind]
  dsimp only
  split
  · rfl
  · rw [bind_ok (reportSlot_run (s := s.issueTile i acc op) (c := c) (gs := gs) (x := x.withSlot acc ((x.slot acc).joined op))
      ⟨g, by rw [State.issueTile_gangs, hg], hgs, hx'⟩ (by rw [GInst.slot_withSlot]; exact hfault))]

/-- With no operation before it, it is the thread's turn at once. -/
theorem takeTurn_first (op : TileOp) (hops : (x.slot acc).ops = []) : takeTurn i acc op s = .ok op (s.issueTile i acc op) := by
  rw [takeTurn_issues hc hin hfault op (by simp [hops]), hops]
  rfl

theorem takeTurn_waits (op : TileOp) (hne : (x.slot acc).ops ≠ [])
    (hops : ∀ e, e ∈ (x.slot acc).ops → e.2.owner ≠ some c.t ∧ e.1 < (x.slot acc).next) :
    takeTurn i acc op s = .error (.wait (.turn i acc (x.slot acc).next)) (s.issueTile i acc op) := by
  obtain ⟨e, he⟩ := List.exists_mem_of_ne_nil _ hne
  rw [takeTurn_issues hc hin hfault op fun e he => (hops e he).1, if_pos (List.any_eq_true.2 ⟨e, he, by simpa using (hops e he).2⟩)]
  rfl

/-- As it issues again, it is the thread's turn once every other operation there is later. -/
theorem takeTurn_again (op : TileOp) {no : Nat} {own : TileOp} {rest : List (Nat × TileOp)} (hown : own.owner = some c.t)
    (hops : (x.slot acc).ops = (no, own) :: rest) (hlater : ∀ e, e ∈ rest → no ≤ e.1) : takeTurn i acc op s = .ok own s := by
  have hx := hin
  obtain ⟨g, hg, hgs, hx⟩ := hx
  have hfind : ((x.slot acc).ops.find? fun o => o.2.owner == some c.t) = some (no, own) := by
    rw [hops, List.find?_cons_of_pos (by simpa using hown)]
  have hany : ((x.slot acc).ops.any fun p => decide (p.1 < no)) = false := by
    rw [hops, List.any_eq_false]
    intro e he
    rcases List.mem_cons.1 he with rfl | he
    · simp
    · simpa using hlater e he
  rw [takeTurn, bind_ok (curT_run hc), bind_ok (get_run s), hx]
  dsimp only
  rw [hfind]
  dsimp only
  rw [pure_bind]
  dsimp only
  rw [hany]
  simp only [Bool.false_eq_true, if_false]
  rw [bind_ok (reportSlot_run hin hfault), pure_run]

end

/-! ## TCVT (R343) -/

/-- What TCVT does at its turn. -/
def convertRows (i acc r0 n dst : Nat) (h : Home) (o : Nat) (bf : Bool) : M Flow := do
  let x ← instNow i
  let tick ← now
  let (rs, fl) ← readElems i x acc tick (convElem (if bf then Fmt.bf16 else Fmt.f32) (x.slot acc))
    ((List.range n).flatMap fun r => (List.range 64).map fun j => (r0 + r, j))
  writeRow h o (64 * (if bf then 2 else 4) * n) dst (wordsBlock (8 * (if bf then 2 else 4)) rs)
  addFlags fl
  endTurn i acc
  pure .seq

/-- TCVT, its operands read: its place in scratch, its turn, and its rows. -/
def tcvtRest (i acc : Nat) (bf : Bool) (sel : Nat × Nat) (dst : Nat) : M Flow := do
  let (h, o) ← scratchAt dst (64 * (if bf then 2 else 4) * sel.2) 128
  checkBrk dst (64 * (if bf then 2 else 4) * sel.2) false true
  let t ← curT
  let _ ← takeTurn i acc (.conv t h (o + 64 * (if bf then 2 else 4) * sel.2))
  convertRows i acc sel.1 sel.2 dst h o bf

theorem exec_tcvt (gd : Guard) (gs acc a b : Nat) (bf : Bool) : exec (.tcvt gd gs acc a b bf) =
    code [.even a, .r b] gd [] (slotAt gs acc >>= fun p => rowSel b >>= fun sel => readAddr a >>= fun dst => tcvtRest p.1 acc bf sel dst) := rfl

theorem State.issueTile_tickOf (s : State) (i k : Nat) (op : TileOp) (n : Nat) : (s.issueTile i k op).tickOf n = s.tickOf n := by
  unfold State.issueTile
  split <;> rfl

theorem State.issueTile_reading (s : State) (i k : Nat) (op : TileOp) (t : Nat) (B : AMap TWord) (z m : Bool) :
    (s.reading t B z m).issueTile i k op = (s.issueTile i k op).reading t B z m := s.issueTile_updThread ..

theorem instNow_run {s : State} {i : Nat} {x : GInst} (h : s.insts.find i = some x) : instNow i s = .ok x s := by
  rw [instNow, bind_ok (get_run s), h]
  rfl

/-- Reading registers and then setting float flags is noting. -/
theorem noting_reading_flags (B : AMap TWord) (z m : Bool) (fl : Nat) : Noting fun th =>
    { th with opbuf := B, pendLapf := th.pendLapf || z, pendMis := th.pendMis || m, pendFst := orf th.pendFst fl } :=
  fun y => ⟨B, y.cont, y.pendLapf || z, y.pendMis || m, orf y.pendFst fl, rfl, fun _ _ h => h⟩

/-- At its turn TCVT converts its rows, writes them and leaves the slot. -/
theorem convertRows_run {W S S' S'' : State} {c : Cur} {g : Gang} {w : GInst} {i acc r0 n dst o : Nat} {h : Home} {bf zr zw : Bool}
    {rs : List Nat} {fl : Nat} (hc : W.cur = some c) (hg : W.gangs.find (gidOf c.t) = some g) (hw : W.insts.find i = some w)
    (hr : W.Turns S c.t (readElems i w acc (W.tickOf g.ctx) (convElem (if bf then Fmt.bf16 else Fmt.f32) (w.slot acc))
      ((List.range n).flatMap fun r => (List.range 64).map fun j => (r0 + r, j))) (rs, fl) zr)
    (hwrite : S.Turns S' c.t (writeRow h o (64 * (if bf then 2 else 4) * n) dst (wordsBlock (8 * (if bf then 2 else 4)) rs)) ⟨⟩ zw)
    (hend : S'.Turns S'' c.t (endTurn i acc) ⟨⟩ false) (B : AMap TWord) (z m : Bool) :
    convertRows i acc r0 n dst h o bf (W.reading c.t B z m) = .ok .seq
      ((S''.reading c.t B (z || zr || zw) m).updThread c.t fun y => { y with pendFst := orf y.pendFst fl }) := by
  have hcS' : (S'.reading c.t B (z || zr || zw) m).cur = some c := hwrite.1.trans (hr.1.trans hc)
  have hleave := hend.2.2 _ (noting_reading_flags B (z || zr || zw) m fl)
  rw [convertRows, bind_ok (instNow_run (s := W.reading c.t B z m) hw), bind_ok (now_run (s := W.reading c.t B z m) hc hg),
    show (W.reading c.t B z m).tickOf g.ctx = W.tickOf g.ctx from rfl, bind_ok (hr.run_lapse B z m)]
  dsimp only
  rw [bind_ok (hwrite.run_lapse B _ m), addFlags, bind_ok (modThread_run hcS' _), State.reading, State.updThread_updThread, bind_ok hleave,
    State.reading, State.updThread_updThread]
  rfl

section
variable {s : State} {c : Cur} {g : Gang} {gs i acc a b r0 n dst o : Nat} {x : GInst} {gd : Guard} {bf : Bool} {h : Home} {B : AMap TWord}
  {z m : Bool} (hc : s.cur = some c) (hin : s.InSlot c.t gs i x) (hacc : acc < x.nslots)
  (hread : (do let p ← rowSel b
               let q ← readAddr a
               pure (p, q) : M ((Nat × Nat) × Nat)) s = .ok ((r0, n), dst) (s.reading c.t B z m))
  (hat : s.Gives c.t (scratchAt dst (64 * (if bf then 2 else 4) * n) 128) (h, o))
  (hbrk : s.Gives c.t (checkBrk dst (64 * (if bf then 2 else 4) * n) false true) ⟨⟩)
include hc hin hacc hread hat hbrk

/-- TCVT up to its turn. -/
theorem tcvt_to_turn : (slotAt gs acc >>= fun p => rowSel b >>= fun sel => readAddr a >>= fun dst => tcvtRest p.1 acc bf sel dst) s =
    (takeTurn i acc (.conv c.t h (o + 64 * (if bf then 2 else 4) * n)) >>= fun _ => convertRows i acc r0 n dst h o bf)
      (s.reading c.t B z m) := by
  rw [bind_ok (slotAt_run hc hin hacc), bind_pair hread, tcvtRest, bind_ok (hat.run B z m)]
  dsimp only
  rw [bind_ok (hbrk.run B z m), bind_ok (curT_run (s := s.reading c.t B z m) hc)]

end

/-! ## TSTORE (R344) -/

/-- What TSTORE does at its turn in one issue. -/
def storeTurn (i acc d r0 n : Nat) : M Flow := do
  let y := (← instNow i).slot acc
  if dFmt d == 5 && y.tag == .f32acc then illegal
  let ls := storeLines d r0 n
  let k := (← thread).sweepStart
  match ls[k]? with
  | none => do
    modThread fun th => { th with swpAct := false, swpIter := 0 }
    endTurn i acc
    pure .seq
  | some l => do
    modThread fun th => { th with swpAct := true, swpIter := k }
    storeLine i acc d l
    if k + 1 < ls.length then do
      modThread fun th => { th with swpAct := true, swpIter := k + 1 }
      pure .again
    else do
      modThread fun th => { th with swpAct := false, swpIter := 0 }
      endTurn i acc
      pure .seq

/-- TSTORE, its descriptor and rows known: its turn and one line. -/
def storeRest (i acc d : Nat) (sel : Nat × Nat) : M Flow :=
  curT >>= fun t => takeTurn i acc (.store t d) >>= fun _ => storeTurn i acc d sel.1 sel.2

theorem exec_tstore (gd : Guard) (gs acc : Nat) (H : TOpnd) (b : Nat) : exec (.tstore gd gs acc H b) =
    codeSwp (oneField H ++ [.r b]) [] gd [] (slotAt gs acc >>= fun p => storeDesc p.2 acc H >>= fun d => rowSel b >>= storeRest p.1 acc d) := rfl

/-- The state with `swp` of a thread at line `n`, or inactive. -/
def State.atLine (s : State) (t : Nat) (on : Bool) (n : Nat) : State := s.updThread t fun e => { e with swpAct := on, swpIter := n }

theorem State.reading_atLine (s : State) (t : Nat) (B : AMap TWord) (z m on : Bool) (n : Nat) :
    ((s.reading t B z m).updThread t fun e => { e with swpAct := on, swpIter := n }) = (s.atLine t on n).reading t B z m := by
  simp only [State.atLine, State.reading, State.updThread_updThread]

section
variable {s W S S' : State} {c : Cur} {th : Thread} {w : GInst} {i acc d r0 n : Nat} {l : Nat × Nat × Nat} {zr : Bool}
  (hc : W.cur = some c) (ht : W.threads.find c.t = some th) (hw : W.insts.find i = some w)
  (hfmt : ¬(dFmt d == 5 && (w.slot acc).tag == .f32acc) = true) (B : AMap TWord) (z m : Bool)
include hc ht hw hfmt

/-- With no line left, the operation leaves the slot. -/
theorem storeTurn_ends (hk : (storeLines d r0 n).length ≤ th.sweepStart)
    (hend : (W.atLine c.t false 0).Turns S' c.t (endTurn i acc) ⟨⟩ false) :
    storeTurn i acc d r0 n (W.reading c.t B z m) = .ok .seq (S'.reading c.t B z m) := by
  have hnone : (storeLines d r0 n)[({ th with opbuf := B, pendLapf := th.pendLapf || z, pendMis := th.pendMis || m } : Thread).sweepStart]? =
      none := List.getElem?_eq_none hk
  rw [storeTurn, bind_ok (instNow_run (s := W.reading c.t B z m) hw)]
  dsimp only
  rw [if_neg hfmt, bind_ok (thread_run (s := W.reading c.t B z m) hc (State.find_reading ht B z m)), hnone]
  dsimp only
  rw [bind_ok (modThread_run (s := W.reading c.t B z m) hc _), State.reading_atLine, bind_ok (hend.run B z m), pure_run]

/-- One line. -/
theorem storeTurn_line (hl : (storeLines d r0 n)[th.sweepStart]? = some l)
    (hline : (W.atLine c.t true th.sweepStart).Turns S c.t (storeLine i acc d l) ⟨⟩ zr) :
    (th.sweepStart + 1 < (storeLines d r0 n).length → storeTurn i acc d r0 n (W.reading c.t B z m) =
      .ok .again ((S.reading c.t B (z || zr) m).atLine c.t true (th.sweepStart + 1))) ∧
    (th.sweepStart + 1 = (storeLines d r0 n).length → (S.atLine c.t false 0).Turns S' c.t (endTurn i acc) ⟨⟩ false →
      storeTurn i acc d r0 n (W.reading c.t B z m) = .ok .seq (S'.reading c.t B (z || zr) m)) := by
  have hsome : (storeLines d r0 n)[({ th with opbuf := B, pendLapf := th.pendLapf || z, pendMis := th.pendMis || m } : Thread).sweepStart]? =
      some l := hl
  have hcS : (S.reading c.t B (z || zr) m).cur = some c := hline.1.trans hc
  rw [storeTurn, bind_ok (instNow_run (s := W.reading c.t B z m) hw)]
  dsimp only
  rw [if_neg hfmt, bind_ok (thread_run (s := W.reading c.t B z m) hc (State.find_reading ht B z m)), hsome]
  dsimp only
  rw [bind_ok (modThread_run (s := W.reading c.t B z m) hc _), State.reading_atLine,
    show ({ th with opbuf := B, pendLapf := th.pendLapf || z, pendMis := th.pendMis || m } : Thread).sweepStart = th.sweepStart from rfl,
    bind_ok (hline.run_lapse B z m)]
  refine ⟨fun hmore => ?_, fun hlast hend => ?_⟩
  · rw [if_pos hmore, bind_ok (modThread_run hcS _)]
    rfl
  · rw [if_neg (by omega), bind_ok (modThread_run hcS _), State.reading_atLine, bind_ok (hend.run B _ m), pure_run]

end

/-- The descriptor that an operation of thread `t` in a slot holds. -/
def storedDesc (t : Nat) (o : Nat × TileOp) : Option Nat := match o.2 with | .store u d => if u == t then some d else none | _ => none

/-- The descriptor of a TSTORE that first issues. -/
def firstDesc (H : TOpnd) : M Nat := do
  let d ← handleOpnd H
  if dFmt d != 0 && dFmt d != 4 && dFmt d != 5 then illegal
  pure d

theorem storeDesc_eq (x : GInst) (acc : Nat) (H : TOpnd) : storeDesc x acc H =
    curT >>= fun t => match (x.slot acc).ops.findSome? (storedDesc t) with | some d => pure d | none => firstDesc H := rfl

section
variable {s S : State} {c : Cur} {x : GInst} {acc desc : Nat} {H : TOpnd} (hc : s.cur = some c)
include hc

/-- R344: the descriptor of a TSTORE that first issues is its handle's. -/
theorem storeDesc_first (hops : ∀ e, e ∈ (x.slot acc).ops → e.2.owner ≠ some c.t) (hd : handleOpnd H s = .ok desc S)
    (hfmt : dFmt desc = 0 ∨ dFmt desc = 4 ∨ dFmt desc = 5) : storeDesc x acc H s = .ok desc S := by
  have hnone : (x.slot acc).ops.findSome? (storedDesc c.t) = none := by
    rw [List.findSome?_eq_none_iff]
    intro e he
    have hown := hops e he
    obtain ⟨k, op⟩ := e
    cases op <;> simp_all [TileOp.owner, storedDesc]
  have hok : ¬(dFmt desc != 0 && dFmt desc != 4 && dFmt desc != 5) = true := by
    rcases hfmt with h | h | h <;> simp [h]
  rw [storeDesc_eq, bind_ok (curT_run hc), hnone]
  dsimp only
  rw [firstDesc, bind_ok hd, if_neg hok]
  rfl

/-- As it issues again, it is that of its operation in the slot. -/
theorem storeDesc_again {no : Nat} {rest : List (Nat × TileOp)} (hops : (x.slot acc).ops = (no, .store c.t desc) :: rest) :
    storeDesc x acc H s = .ok desc s := by
  have hsome : (x.slot acc).ops.findSome? (storedDesc c.t) = some desc := by rw [hops]; simp [storedDesc]
  rw [storeDesc_eq, bind_ok (curT_run hc), hsome]
  rfl

end

/-! ## The obligation -/

theorem State.done_reading_flags {s : State} {t : Nat} {th : Thread} (h : s.threads.find t = some th) (B : AMap TWord) (z m : Bool) (f : Nat) :
    ((s.reading t B z m).updThread t fun th => { th with pendFst := orf th.pendFst f }).done t = (s.noted t z m f).done t :=
  congrArg (·.advance t) (State.commit_reading_flags h B z m f)

/-- What the last of three operations leaves has the threads of what the first found. -/
theorem State.Turns.threads {α β γ : Type} {W S S' S'' : State} {t : Nat} {p : M α} {q : M β} {r : M γ} {u : α} {v : β} {w : γ} {z z' z'' : Bool}
    (h : W.Turns S t p u z) (h' : S.Turns S' t q v z') (h'' : S'.Turns S'' t r w z'') : S''.threads = W.threads :=
  h''.2.1.trans (h'.2.1.trans h.2.1)

section
variable {s W S S' S'' : State} {c : Cur} {th : Thread} {g : Gang} {w : GInst} {gs i acc a b r0 n dst o : Nat} {h : Home} {bf zr zw : Bool}
  {rs : List Nat} {fl : Nat} {gd : Guard} {B : AMap TWord} {z m : Bool} {body : M Flow}
  (hc : W.cur = some c) (ht : W.threads.find c.t = some th) (hg : W.gangs.find (gidOf c.t) = some g) (hw : W.insts.find i = some w)
  (hr : W.Turns S c.t (readElems i w acc (W.tickOf g.ctx) (convElem (if bf then Fmt.bf16 else Fmt.f32) (w.slot acc))
      ((List.range n).flatMap fun r => (List.range 64).map fun j => (r0 + r, j))) (rs, fl) zr)
  (hwrite : S.Turns S' c.t (writeRow h o (64 * (if bf then 2 else 4) * n) dst (wordsBlock (8 * (if bf then 2 else 4)) rs)) ⟨⟩ zw)
  (hend : S'.Turns S'' c.t (endTurn i acc) ⟨⟩ false)
include hc ht hg hw hr hwrite hend

/-- A TCVT whose turn it is completes, as it issues for the first time or again. -/
theorem tcvt_converts (hres : s.Resumes c.t [.even a, .r b] [] gd true .none)
    (hturn : (slotAt gs acc >>= fun p => rowSel b >>= fun sel => readAddr a >>= fun dst => tcvtRest p.1 acc bf sel dst) s =
      convertRows i acc r0 n dst h o bf (W.reading c.t B z m)) :
    exec (.tcvt gd gs acc a b bf) s = .next ((S''.noted c.t (z || zr || zw) m fl).done c.t) := by
  have ht'' : S''.threads.find c.t = some th := by rw [hr.threads hwrite hend, ht]
  rw [exec_tcvt, hres.completes nofun (hturn.trans (convertRows_run hc hg hw hr hwrite hend B z m)),
    State.done_reading_flags ht'']

end

section
variable {s W S S' : State} {c : Cur} {th : Thread} {w : GInst} {gs i acc b d r0 n k : Nat} {l : Nat × Nat × Nat} {zr : Bool} {gd : Guard}
  {H : TOpnd} {B : AMap TWord} {z m : Bool}
  (hc : W.cur = some c) (ht : W.threads.find c.t = some th) (hw : W.insts.find i = some w)
  (hfmt : dFmt d = 0 ∨ dFmt d = 4 ∨ (dFmt d = 5 ∧ (w.slot acc).tag ≠ .f32acc)) (hk : k = th.sweepStart)
  (hres : s.Resumes c.t (oneField H ++ [.r b]) [] gd true .none)
  (hturn : (slotAt gs acc >>= fun p => storeDesc p.2 acc H >>= fun d => rowSel b >>= storeRest p.1 acc d) s =
      storeTurn i acc d r0 n (W.reading c.t B z m))
include hc ht hw hfmt hk hres hturn

/-- A TSTORE whose turn it is stores a line or completes, as it issues for the first time or again. -/
theorem tstore_stores :
    ((storeLines d r0 n).length ≤ k → (W.atLine c.t false 0).Turns S' c.t (endTurn i acc) ⟨⟩ false →
      exec (.tstore gd gs acc H b) s = .next ((S'.noted c.t z m 0).done c.t)) ∧
    ((storeLines d r0 n)[k]? = some l → (W.atLine c.t true k).Turns S c.t (storeLine i acc d l) ⟨⟩ zr →
      (k + 1 < (storeLines d r0 n).length → exec (.tstore gd gs acc H b) s =
        .next (((S.reading c.t B (z || zr) m).atLine c.t true (k + 1)).again c.t)) ∧
      (k + 1 = (storeLines d r0 n).length → (S.atLine c.t false 0).Turns S' c.t (endTurn i acc) ⟨⟩ false →
        exec (.tstore gd gs acc H b) s = .next ((S'.noted c.t (z || zr) m 0).done c.t))) := by
  have hok : ¬(dFmt d == 5 && (w.slot acc).tag == .f32acc) = true := by
    rcases hfmt with h | h | ⟨h, h'⟩ <;> simp [h]
    exact h'
  have hline (S : State) (on : Bool) (n : Nat) (hS : S.threads.find c.t = some th) :
      (S.atLine c.t on n).threads.find c.t = some { th with swpAct := on, swpIter := n } := State.find_updThread_self hS _
  subst hk
  rw [exec_tstore]
  refine ⟨fun hnone hend => ?_, fun hl hstored => ⟨fun hmore => ?_, fun hlast hend => ?_⟩⟩
  · have ht' : S'.threads.find c.t = _ := (congrArg _ hend.2.1).trans (hline W _ _ ht)
    rw [hres.swp_next nofun (hturn.trans (storeTurn_ends hc ht hw hok B z m hnone hend))]
    exact congrArg _ (State.done_reading ht' B z m)
  · rw [hres.swp_next nofun (hturn.trans ((storeTurn_line (S' := S) hc ht hw hok B z m hl hstored).1 hmore))]
    rfl
  · have ht' : ∃ y, S'.threads.find c.t = some y := by
      rw [hend.2.1]
      exact ⟨_, State.find_updThread_self ((congrArg _ hstored.2.1).trans (hline W _ _ ht)) _⟩
    obtain ⟨y, ht'⟩ := ht'
    rw [hres.swp_next nofun (hturn.trans ((storeTurn_line hc ht hw hok B z m hl hstored).2 hlast hend))]
    exact congrArg _ (State.done_reading ht' B _ m)

end

/-- Settles O39: the turn by `takeTurn_first`, `takeTurn_waits` and `takeTurn_again`, and at it `tcvt_converts` and `tstore_stores`. -/
theorem tileOutputs : Obligations.TileOutputs := by
  unfold Obligations.TileOutputs
  intro s S S' S'' t i gd gs acc a b desc r0 n o k bf H x h h' A rs fl hi no l B z m zr zw th g rest ht hg hin hacc hfault
  have hx := hin
  obtain ⟨-, -, -, hx⟩ := hx
  refine ⟨fun hread hat hbrk => ⟨fun hrun hops w hw hr hwrite hend => ?_, fun hrun hne hops => ?_,
    fun hres hops hlater w hw hr hwrite hend => ?_⟩, fun hfmt hk => ⟨fun hrun hnot hread => ?_, fun hres hops hlater hread => ?_⟩⟩
  · obtain ⟨c, -, hc, rfl, -⟩ := hrun.start
    have hturn := takeTurn_first (s := s.reading c.t B z m) hc hin hfault (.conv c.t h (o + 64 * (if bf then 2 else 4) * n)) hops
    rw [State.issueTile_reading] at hturn
    refine tcvt_converts (B := B) (W := s.issueTile i acc _) ((State.issueTile_cur ..).trans hc) (by rw [State.issueTile_threads, ht])
      (by rw [State.issueTile_gangs, hg]) hw (by rw [State.issueTile_tickOf]; exact hr) hwrite hend hrun.ungiven ?_
    rw [tcvt_to_turn hc hin hacc hread hat hbrk, bind_ok hturn]
  · obtain ⟨c, -, hc, rfl, -⟩ := hrun.start
    have hturn := takeTurn_waits (s := s.reading c.t B z m) hc hin hfault (.conv c.t h (o + 64 * (if bf then 2 else 4) * n)) hne hops
    rw [State.issueTile_reading] at hturn
    rw [exec_tcvt, code_waits hrun ((tcvt_to_turn hc hin hacc hread hat hbrk).trans (bind_error hturn _))]
  · obtain ⟨c, -, hc, rfl, -⟩ := hres.given
    have hturn := takeTurn_again (s := s.reading c.t B z m) hc hin hfault (.conv c.t h (o + 64 * (if bf then 2 else 4) * n))
      (own := .conv c.t h' hi) rfl hops hlater
    refine tcvt_converts (B := B) (W := s) hc ht hg hw hr hwrite hend hres ?_
    rw [tcvt_to_turn hc hin hacc hread hat hbrk, bind_ok hturn]
  · obtain ⟨c, -, hc, rfl, -⟩ := hrun.start
    obtain ⟨S₁, hdesc, hsel⟩ := answers_of_pair hread
    have hd := storeDesc_first hc (fun e he => (hnot e he).1) hdesc (by tauto)
    have hbody : (slotAt gs acc >>= fun p => storeDesc p.2 acc H >>= fun d => rowSel b >>= storeRest p.1 acc d) s =
        (takeTurn i acc (.store c.t desc) >>= fun _ => storeTurn i acc desc r0 n) (s.reading c.t B z m) := by
      rw [bind_ok (slotAt_run hc hin hacc), bind_ok hd, bind_ok hsel, storeRest, bind_ok (curT_run (s := s.reading c.t B z m) hc)]
    refine ⟨fun hops => ?_, fun hne => ?_⟩
    · have hturn := takeTurn_first (s := s.reading c.t B z m) hc hin hfault (.store c.t desc) hops
      rw [State.issueTile_reading] at hturn
      have hw := State.find_setSlot (k := acc) hx ((x.slot acc).joined (.store c.t desc))
      rw [← State.issueTile_joins hx hfault] at hw
      exact tstore_stores (W := s.issueTile i acc _) ((State.issueTile_cur ..).trans hc) (by rw [State.issueTile_threads, ht]) hw
        (by rw [GInst.slot_withSlot]; exact hfmt) hk hrun.ungiven (hbody.trans (bind_ok hturn))
    · have hturn := takeTurn_waits (s := s.reading c.t B z m) hc hin hfault (.store c.t desc) hne hnot
      rw [State.issueTile_reading] at hturn
      rw [exec_tstore, hrun.ungiven.swp_waits nofun (hbody.trans (bind_error hturn _))]
  · obtain ⟨c, -, hc, rfl, -⟩ := hres.given
    have hturn := takeTurn_again (s := s.reading c.t B z m) hc hin hfault (.store c.t desc) (own := .store c.t desc) rfl hops hlater
    refine tstore_stores (W := s) hc ht hx hfmt hk hres ?_
    rw [bind_ok (slotAt_run hc hin hacc), bind_ok (storeDesc_again hc hops), bind_ok hread, storeRest,
      bind_ok (curT_run (s := s.reading c.t B z m) hc), bind_ok hturn]

end Sys2Proof.Machine

end

section
/-! LAWS. Creation and use of objects (13_object R299 to R305): the instructions up to the walker, and the two obligations' first parts. -/

namespace Sys2Proof.Machine

open Sys2Proof

/-! ## Reading and asking -/

/-- The status that the walker has given, if it has. -/
def Cont.walkerStatus : Cont → Option Nat
  | .tok n => some n
  | _ => Option.none

theorem jobStatus_run {s : State} {c : Cur} {th : Thread} (hc : s.cur = some c) (ht : s.threads.find c.t = some th) (B : AMap TWord)
    (z m : Bool) : jobStatus (s.reading c.t B z m) = .ok th.cont.walkerStatus (s.reading c.t B z m) := by
  rw [jobStatus, bind_ok (thread_reading hc ht B z m)]
  dsimp only
  cases th.cont <;> rfl

theorem askJob_run {α : Type} {s : State} {c : Cur} {g : Gang} (hc : s.cur = some c) (hg : s.gangs.find (gidOf c.t) = some g) (r : Nat)
    (j : RangeJob) : (askJob r j : M α) s = .error (.wait (.walk s.walkNext)) (s.queueJob c.t g.ctx r j) := by
  rw [askJob, bind_ok (curT_run hc), bind_ok (gang_run hc hg), bind_ok (get_run s), bind_ok (modify_run _ _)]
  rfl

/-- A pair written, unless it is v0 (R180). -/
def State.putWords (s : State) (t d : Nat) (l h : TWord) : State := if d = 0 then s else (s.writeReg t d l).writeReg t (d + 1) h

theorem writePair_run {s : State} {c : Cur} (hc : s.cur = some c) (d : Nat) (A : DWord) (lo hi : Tag) :
    writePair d A.toNat lo hi s = .ok ⟨⟩ (s.putWords c.t d (loWord A lo) (hiWord A hi)) := by
  have hw (x : State) (hx : x.cur = some c) (i n : Nat) (tag : Tag) : writeReg i n tag x = .ok ⟨⟩ (x.writeReg c.t i ⟨BitVec.ofNat 32 n, tag⟩) := by
    rw [writeReg, bind_ok (curT_run hx), modify_run]
  have hlo : loWord A lo = ⟨BitVec.ofNat 32 A.toNat, lo⟩ := rfl
  have hhi : hiWord A hi = ⟨BitVec.ofNat 32 (A.toNat / 2 ^ 32), hi⟩ := by
    rw [hiWord]
    congr 1
    apply BitVec.eq_of_toNat_eq
    simp only [BitVec.toNat_setWidth, BitVec.toNat_ushiftRight, BitVec.toNat_ofNat, Nat.shiftRight_eq_div_pow]
  unfold writePair State.putWords
  by_cases hd : d = 0
  · rw [if_pos hd, if_pos (by simpa using hd)]
    rfl
  · rw [if_neg hd, if_neg (by simpa using hd), hlo, hhi, bind_ok (hw s hc _ _ _), hw _ ((State.writeReg_cur ..).trans hc)]

/-- A pair written, and completion, after registers have been read. -/
theorem State.done_reading_putWords {s : State} {t : Nat} {th : Thread} (h : s.threads.find t = some th) (B : AMap TWord) (z m : Bool)
    (d : Nat) (l r : TWord) : ((s.reading t B z m).putWords t d l r).done t = s.resultPair t d l r z m 0 := by
  unfold State.putWords State.resultPair
  split
  · exact State.done_reading h B z m
  · simp only [State.writeReg_reading, State.writeReg_noted]
    exact State.done_reading (s := (s.writeReg t d l).writeReg t (d + 1) r) (by rw [State.writeReg_threads, State.writeReg_threads, h]) B z m

/-! ## OBJINIT and REFMK (R300, R301) -/

/-- OBJINIT with its operands checked: it asks the walker, or has the status of one. -/
def initGo (d va n : Nat) : Option Nat → M Flow
  | some st => putWord d st .u32
  | none => do
    let pages ← xlateSpans .probe (spansOf va ((n + 15) / 16 * 16))
    checkBrk va n false true
    askJob va (.init n pages)

/-- OBJINIT, its operands read. -/
def initRest (d va n : Nat) : M Flow := do
  let th ← thread
  if n % 8 != 0 || n < 16 || 2 ^ 32 - 8 < n then trap .illegal th.pc
  if va / 2 ^ 56 != 0 || va % 16 != 0 || 2 ^ 56 < va + n then trap .addr va
  jobStatus >>= initGo d va n

theorem exec_objinit (gd : Guard) (d a b k : Nat) : exec (.objinit gd d a b k) =
    code [.r d, .even a, .r b] gd [.reg d .u32] (readAddr a >>= fun va => natSrc b >>= initRest d va) := rfl

theorem exec_refmk (gd : Guard) (d a k : Nat) : exec (.refmk gd d a k) = code [.even d, .even a] gd [.reg d .refl, .reg (d + 1) .refh]
    (readAddr a >>= fun va => validateRef va .load >>= fun _ => writePair d va .refl .refh >>= fun _ => pure .seq) := rfl

section
variable {s : State} {c : Cur} {th : Thread} {va n : Nat} (hc : s.cur = some c) (ht : s.threads.find c.t = some th)
  (h8 : n % 8 = 0) (h16 : 16 ≤ n) (hmax : n ≤ 4294967288) (hal : va % 16 = 0) (htop : va + n ≤ 2 ^ 56)
include hc ht h8 h16 hmax hal htop

/-- A range that OBJINIT accepts: what the walker has given decides. -/
theorem initRest_run (d : Nat) (B : AMap TWord) (z m : Bool) :
    initRest d va n (s.reading c.t B z m) = initGo d va n th.cont.walkerStatus (s.reading c.t B z m) := by
  have hlen : ¬(n % 8 != 0 || decide (n < 16) || decide (2 ^ 32 - 8 < n)) = true := by simp; omega
  have haddr : ¬(va / 2 ^ 56 != 0 || va % 16 != 0 || decide (2 ^ 56 < va + n)) = true := by
    have hdiv : va / 2 ^ 56 = 0 := Nat.div_eq_of_lt (by omega)
    simp only [hdiv, hal, bne_self_eq_false, Bool.false_or, decide_eq_true_eq]
    omega
  rw [initRest, bind_ok (thread_reading hc ht B z m)]
  dsimp only
  rw [if_neg hlen, if_neg haddr, bind_ok (jobStatus_run hc ht B z m)]

theorem initRest_asks {S : State} {g : Gang} (hcont : th.cont = .none) (hg : S.gangs.find (gidOf c.t) = some g)
    {pages : List (Nat × Nat × Nat × Nat)} (hpages : s.Turns S c.t (xlateSpans .probe (spansOf va ((n + 15) / 16 * 16))) pages false)
    (hbrk : S.Gives c.t (checkBrk va n false true) ⟨⟩) (d : Nat) (B : AMap TWord) (z m : Bool) : initRest d va n (s.reading c.t B z m) =
      .error (.wait (.walk S.walkNext)) ((S.reading c.t B z m).queueJob c.t g.ctx va (.init n pages)) := by
  have hcS : (S.reading c.t B z m).cur = some c := hpages.1.trans hc
  have hnone : th.cont.walkerStatus = none := by rw [hcont]; rfl
  rw [initRest_run hc ht h8 h16 hmax hal htop, hnone, initGo, bind_ok (hpages.run B z m), bind_ok (hbrk.run B z m)]
  exact askJob_run hcS hg va _

theorem initRest_given {st : Nat} (hcont : th.cont = .tok st) (d : Nat) (B : AMap TWord) (z m : Bool) :
    initRest d va n (s.reading c.t B z m) = .ok .seq ((s.reading c.t B z m).writeReg c.t d ⟨BitVec.ofNat 32 st, .u32⟩) := by
  rw [initRest_run hc ht h8 h16 hmax hal htop, hcont]
  exact putWord_run (s := s.reading c.t B z m) hc d st .u32

end

/-! ## PUBLISH and PUBST (R302, R303) -/

/-- PUBLISH, its reference read. -/
def publishRest (d sc r : Nat) : M Flow := do
  let th ← thread
  if th.cont == .none then do
    let _ ← validateRef r .load
    allPerformed
  let n ← walkTo r sc
  putWord d (count32 n) .u32

theorem exec_publish (gd : Guard) (d a k sc : Nat) : exec (.publish gd d a k sc) =
    codeSwp [.r d, .even a] [] gd [.reg d .u32] (readRef a >>= publishRest d sc) := rfl

/-- PUBST, its operands read. -/
def pubstRest (d sc va r : Nat) : M Flow := do
  let th ← thread
  if th.cont == .none then do
    let _ ← validateRef r .load
    match ← checkMem va 8 8 with
    | .glob x => do
      let _ ← xlate x .store
    | .row .. => pure ()
    allPerformed
    reportLog sc
  let n ← firstWalk r sc
  modThread fun th => { th with cont := .tok n, wkCnt := if th.inh then th.wkCnt else some (th.pc, n) }
  holdStore va r 1 .shared (releaseAt sc)
  modThread fun th => { th with wkCnt := if th.inh then th.wkCnt else none }
  putWord d (count32 n) .u32

theorem exec_pubst (gd : Guard) (d a b k sc : Nat) : exec (.pubst gd d a b k sc) =
    codeSwp [.r d, .even a, .even b] [] gd [.reg d .u32] (readAddr a >>= fun va => readRef b >>= pubstRest d sc va) := rfl

theorem askWalk_run {α : Type} {s : State} {c : Cur} {th : Thread} {g : Gang} (hc : s.cur = some c) (ht : s.threads.find c.t = some th)
    (hg : s.gangs.find (gidOf c.t) = some g) (r sc hdr : Nat) : (askWalk r sc hdr : M α) s = .error (.wait (.walk s.walkNext))
      (s.queueWalk c.t g.ctx r sc hdr (if th.swpAct then some th.swpIter else none) false) := by
  rw [askWalk, bind_ok (curT_run hc), bind_ok (thread_run hc ht), bind_ok (gang_run hc hg), bind_ok (get_run s), bind_ok (modify_run _ _)]
  rfl

theorem allPerformed_run {s : State} {c : Cur} {g : Gang} (hc : s.cur = some c) (hg : s.gangs.find (gidOf c.t) = some g) (hlog : g.slog = [])
    (hack : s.unacked = false) : allPerformed s = .ok ⟨⟩ s := by
  rw [allPerformed, bind_ok (gang_run hc hg), if_neg (by simp [hlog])]
  dsimp only
  rw [bind_ok (get_run s), if_neg (by simp [hack]), pure_run]

section
variable {s S : State} {c : Cur} {th : Thread} (hc : s.cur = some c) (ht : s.threads.find c.t = some th)
include hc ht

/-- PUBLISH as it first issues. -/
theorem publishRest_asks {g : Gang} {pa hd r : Nat} (hcont : th.cont = .none) (href : s.Turns S c.t (validateRef r .load) (pa, hd) false)
    (hagain : S.Gives c.t (validateRef r .load) (pa, hd)) (hg : S.gangs.find (gidOf c.t) = some g) (hlog : g.slog = [])
    (hack : S.unacked = false) (d sc : Nat) (B : AMap TWord) (z m : Bool) : publishRest d sc r (s.reading c.t B z m) =
      .error (.wait (.walk S.walkNext))
        ((S.reading c.t B z m).queueWalk c.t g.ctx r sc hd (if th.swpAct then some th.swpIter else none) false) := by
  have hcS : (S.reading c.t B z m).cur = some c := href.1.trans hc
  have htS : S.threads.find c.t = some th := by rw [href.2.1, ht]
  have hwalk : (walkTo r sc : M Nat) (S.reading c.t B z m) = .error (.wait (.walk S.walkNext))
      ((S.reading c.t B z m).queueWalk c.t g.ctx r sc hd (if th.swpAct then some th.swpIter else none) false) := by
    rw [walkTo, bind_ok (thread_reading (s := S) hcS htS B z m)]
    dsimp only
    rw [hcont]
    dsimp only
    rw [bind_ok (hagain.run B z m)]
    exact askWalk_run hcS (State.find_reading htS B z m) hg r sc hd
  rw [publishRest, bind_ok (thread_reading hc ht B z m)]
  dsimp only
  rw [if_pos (by simp [hcont]), bind_ok (href.run B z m), bind_ok (allPerformed_run hcS hg hlog hack), bind_error hwalk]

/-- PUBLISH as it is given its walk's count. -/
theorem publishRest_given {n : Nat} (hcont : th.cont = .tok n) (d sc r : Nat) (B : AMap TWord) (z m : Bool) :
    publishRest d sc r (s.reading c.t B z m) = .ok .seq ((s.reading c.t B z m).writeReg c.t d ⟨BitVec.ofNat 32 (min n 4294967295), .u32⟩) := by
  have hwalk : (walkTo r sc : M Nat) (s.reading c.t B z m) = .ok n (s.reading c.t B z m) := by
    rw [walkTo, bind_ok (thread_reading hc ht B z m)]
    dsimp only
    rw [hcont]
    rfl
  rw [publishRest, bind_ok (thread_reading hc ht B z m)]
  dsimp only
  rw [if_neg (by simp [hcont]), bind_ok hwalk]
  exact putWord_run (s := s.reading c.t B z m) hc d _ .u32

end

/-- What PUBST leaves of its walk's count until it is done, for a thread that was `th` as it issued. -/
def Thread.keptCount (th : Thread) (n : Nat) : Option (Nat × Nat) := if th.inh then th.wkCnt else some (th.pc, n)

/-- PUBST as it is given its walk's count: it stores and completes. -/
theorem pubstRest_given {s S' : State} {c : Cur} {th : Thread} {n : Nat} (hc : s.cur = some c) (ht : s.threads.find c.t = some th)
    (hcont : th.cont = .tok n) {B : AMap TWord} {z m : Bool} {va r sc : Nat}
    (hstore : ((s.reading c.t B z m).updThread c.t fun y => { y with cont := .tok n, wkCnt := th.keptCount n }).Turns S' c.t
      (holdStore va r 1 .shared (releaseAt sc)) ⟨⟩ false) (d : Nat) :
    pubstRest d sc va r (s.reading c.t B z m) =
      .ok .seq ((S'.updThread c.t fun y => { y with wkCnt := if th.inh then th.wkCnt else none }).writeReg c.t d
        ⟨BitVec.ofNat 32 (min n 4294967295), .u32⟩) ∧
    ∃ y, (S'.updThread c.t fun y => { y with wkCnt := if th.inh then th.wkCnt else none }).threads.find c.t = some y := by
  have hread := State.find_reading ht B z m
  have hwalk : (firstWalk r sc : M Nat) (s.reading c.t B z m) = .ok n (s.reading c.t B z m) := by
    rw [firstWalk, bind_ok (thread_reading hc ht B z m)]
    dsimp only
    rw [hcont]
    rfl
  have hS' := (congrArg (AMap.find c.t) hstore.2.1).trans (State.find_updThread_self hread _)
  have hcS' : S'.cur = some c := hstore.1.trans hc
  refine ⟨?_, _, State.find_updThread_self hS' _⟩
  rw [pubstRest, bind_ok (thread_reading hc ht B z m)]
  dsimp only
  rw [if_neg (by simp [hcont]), bind_ok hwalk, bind_ok (modThread_run (s := s.reading c.t B z m) hc _),
    State.updThread_congr (g := fun y => { y with cont := .tok n, wkCnt := th.keptCount n }) hread rfl, bind_ok hstore.run_unread,
    bind_ok (modThread_run hcS' _),
    State.updThread_congr (g := fun y => { y with wkCnt := if th.inh then th.wkCnt else none }) hS' (by
      cases hinh : th.inh <;> simp [Thread.keptCount, hinh])]
  exact putWord_run (s := S'.updThread c.t _) hcS' d _ .u32

/-! ## OBJST and RECLAIM (R304, R305) -/

/-- OBJST, its operands read. -/
def objstRest (r o : Nat) (w : Nat × Nat) : M Flow := do
  let (_, h) ← validateRef r .load
  if o % 8 != 0 || o < 16 || hdrLen h < o + 8 then trap .addr ((r + o) % 2 ^ 64)
  holdStore (r + o) w.1 w.2 (if hdrScope h == 0 then .plain else .shared) (pure ())
  pure .seq

theorem exec_objst (gd : Guard) (d a b k : Nat) : exec (.objst gd d a b k) =
    code [.even d, .even a, .r b] gd [] (readRef a >>= fun r => natSrc b >>= fun o => pairAny d >>= objstRest r o) := rfl

/-- RECLAIM of an object that its caller may end. -/
def reclaimAsks (r pa h : Nat) : M Flow := do
  let pages ← xlateSpans .store (spansOf r ((hdrLen h + 15) / 16 * 16))
  reportLog (hdrScope h)
  releaseAt (max (hdrScope h) 2)
  askJob r (.reclaim (hdrScope h) pa (pages.map fun p => (p.2.1, p.2.2.1)))

/-- RECLAIM with what the walker has given. -/
def reclaimGo (r : Nat) : Option Nat → M Flow
  | some 0 => pure .seq
  | st => do
    if st.isSome then modThread fun th => { th with cont := .none }
    let (pa, h) ← validateRef r .load
    let t ← curT
    let s ← get
    if hdrScope h == 0 && hdrOwner h != s.ownerOf (coreOf t) then trap .foreign r
    match s.claimant h with
    | some c => waitFor (.claim c (hdrWalk h / 2 ^ 15))
    | none => pure ()
    reclaimAsks r pa h

theorem exec_reclaim (gd : Guard) (a k : Nat) : exec (.reclaim gd a k) =
    code [.even a] gd [] (readRef a >>= fun r => jobStatus >>= reclaimGo r) := rfl

section
variable {s S S' S'' : State} {c : Cur} (hc : s.cur = some c)
include hc

omit hc in
/-- An offset that OBJST accepts: the pair is stored. -/
theorem objstRest_stores {r o v tag pa hd : Nat} (href : s.Turns S c.t (validateRef r .load) (pa, hd) false) (h8 : o % 8 = 0) (h16 : 16 ≤ o)
    (hlen : o + 8 ≤ hdrLen hd) (hstore : S.Turns S' c.t (holdStore (r + o) v tag (if hdrScope hd = 0 then .plain else .shared) (pure ())) ⟨⟩ false) :
    objstRest r o (v, tag) s = .ok .seq S' := by
  have hok : ¬(o % 8 != 0 || decide (o < 16) || decide (hdrLen hd < o + 8)) = true := by simp; omega
  rw [objstRest, bind_ok href.run_unread]
  dsimp only
  rw [if_neg hok]
  simp only [beq_iff_eq]
  rw [bind_ok hstore.run_unread, pure_run]

/-- RECLAIM as it first issues. -/
theorem reclaimGo_asks {r pa hd : Nat} {g : Gang} {pages : List (Nat × Nat × Nat × Nat)}
    (href : s.Turns S c.t (validateRef r .load) (pa, hd) false) (hown : hdrScope hd ≠ 0 ∨ hdrOwner hd = S.ownerOf (coreOf c.t))
    (hclaim : S.claimant hd = none) (hpages : S.Turns S' c.t (xlateSpans .store (spansOf r ((hdrLen hd + 15) / 16 * 16))) pages false)
    (hreport : S'.Gives c.t (reportLog (hdrScope hd)) ⟨⟩) (hrel : S'.Turns S'' c.t (releaseAt (max (hdrScope hd) 2)) ⟨⟩ false)
    (hg : S''.gangs.find (gidOf c.t) = some g) (B : AMap TWord) (z m : Bool) : reclaimGo r none (s.reading c.t B z m) =
      .error (.wait (.walk S''.walkNext)) ((S''.reading c.t B z m).queueJob c.t g.ctx r
        (.reclaim (hdrScope hd) pa (pages.map fun p => (p.2.1, p.2.2.1)))) := by
  have hcS : (S.reading c.t B z m).cur = some c := href.1.trans hc
  have hcS'' : (S''.reading c.t B z m).cur = some c := hrel.1.trans (hpages.1.trans hcS)
  have hok : ¬(hdrScope hd == 0 && hdrOwner hd != (S.reading c.t B z m).ownerOf (coreOf c.t)) = true := by
    rcases hown with h | h
    · simp [h]
    · simp [h, State.ownerOf, State.reading]
  have hfree : (S.reading c.t B z m).claimant hd = none := hclaim
  have hask : reclaimAsks r pa hd (S.reading c.t B z m) = .error (.wait (.walk S''.walkNext)) ((S''.reading c.t B z m).queueJob c.t g.ctx r
      (.reclaim (hdrScope hd) pa (pages.map fun p => (p.2.1, p.2.2.1)))) := by
    rw [reclaimAsks, bind_ok (hpages.run B z m), bind_ok (hreport.run B z m), bind_ok (hrel.run B z m)]
    exact askJob_run hcS'' hg r _
  rw [reclaimGo, Option.isSome_none, if_neg Bool.false_ne_true]
  swap
  · exact nofun
  dsimp only
  rw [bind_ok (href.run B z m)]
  dsimp only
  rw [bind_ok (curT_run hcS), bind_ok (get_run _)]
  rw [if_neg hok, hfree]
  exact hask

end

/-- Three operations whose answers are known together, and what follows them. -/
theorem bind_triple {α β γ δ : Type} {p : M α} {q : M β} {r : M γ} {s S : State} {u : α} {v : β} {w : γ}
    (h : (p >>= fun x => q >>= fun y => r >>= fun z => pure (x, y, z)) s = .ok (u, v, w) S) (k : α → β → γ → M δ) :
    (p >>= fun x => q >>= fun y => r >>= k x y) s = k u v w S := by
  have e : (p >>= fun x => q >>= fun y => r >>= k x y) =
      (p >>= fun x => q >>= fun y => r >>= fun z => pure (x, y, z)) >>= fun a => k a.1 a.2.1 a.2.2 := by
    simp only [bind_assoc, pure_bind]
  rw [e, bind_ok h]

/-! ## Range operations at their turn (R300, R305) -/

theorem step_ok {ε α β : Type} {m : EStateM ε State α} {f : α → EStateM ε State β} {s s' : State} {a : α} (h : m s = .ok a s') :
    (m >>= f) s = f a s' := by
  change EStateM.bind m f s = _
  rw [EStateM.bind, h]

theorem step_get {ε β : Type} (f : State → EStateM ε State β) (s : State) : ((get : EStateM ε State State) >>= f) s = f s s := rfl

theorem step_set {ε β : Type} (x : State) (f : PUnit → EStateM ε State β) (s : State) : ((set x : EStateM ε State PUnit) >>= f) s = f ⟨⟩ x := rfl

theorem step_modify {ε β : Type} (g : State → State) (f : PUnit → EStateM ε State β) (s : State) :
    ((modify g : EStateM ε State PUnit) >>= f) s = f ⟨⟩ (g s) := rfl

/-- The step of a walker whose head is a range operation that ends. -/
theorem wStep_job {s s' : State} {core st : Nat} {w : Walk} {j : RangeJob} (hj : w.job = some j) (h : wJob core w j s = .ok st s') :
    wStep core w s = .ok ({ w with count := st }, true) s' := by
  rw [wStep, hj]
  exact step_ok h

/-- A range that may not be formatted. -/
theorem wJob_init_refused {s : State} {core len : Nat} {w : Walk} {pages : List (Nat × Nat × Nat × Nat)}
    (hst : s.objStatus (s.ownerOf core) pages ≠ 0) :
    wJob core w (.init len pages) s = .ok (s.objStatus (s.ownerOf core) pages) s := by
  rw [wJob, step_get]
  dsimp only
  rw [if_neg (by simpa using hst)]
  rfl

/-- One that may be. -/
theorem wJob_init_formats {s s' : State} {core len : Nat} {w : Walk} {pages : List (Nat × Nat × Nat × Nat)} {rs : List (Nat × Nat)}
    (hst : s.objStatus (s.ownerOf core) pages = 0) (hrs : wSpans core w .store (pages.map fun p => (p.1, p.2.2.1)) s = .ok rs s') :
    wJob core w (.init len pages) s = .ok 0 (s'.formatObject core w.ctx len rs) := by
  rw [wJob, step_get]
  dsimp only
  rw [if_pos (by simpa using hst), hst, step_ok hrs, step_modify]
  rfl

section
variable {s : State} {core sc pa : Nat} {w : Walk} {rs : List (Nat × Nat)} (hlive : s.liveHeader pa = true)
  (hclean : s.firstPoison pa 16 0 = none) (hown : hdrScope (s.phys 16 pa) ≠ 0 ∨ hdrOwner (s.phys 16 pa) = s.ownerOf core)
  (hfree : s.otherWalk core (s.phys 16 pa) = none)
include hlive hclean hown hfree

/-- RECLAIM at its turn, of an object that its caller may end. -/
theorem wJob_reclaim : wJob core w (.reclaim sc pa rs) s = (if max sc 2 < hdrScope (s.phys 16 pa) then pure 1
      else do
        modify fun s' => s'.endObject core w.ctx pa (s.phys 16 pa) rs
        pure 0 : W Nat) (s.noteRead pa 16) := by
  have hmine : ¬(hdrScope (s.phys 16 pa) == 0 && hdrOwner (s.phys 16 pa) != s.ownerOf core) = true := by
    rcases hown with h | h <;> simp [h]
  rw [wJob, step_get, step_set, hclean]
  dsimp only
  rw [if_neg (by simp [hlive]), if_neg hmine, hfree]

end

/-! ## What formatting leaves (R286, R287) -/

/-- `x` has the granule states, line owners, number and threads of `s`, and canonical memory if `s` does. -/
structure State.SameObjects (s x : State) : Prop where
  gran : x.gran = s.gran
  lineOwner : x.lineOwner = s.lineOwner
  devnum : x.devnum = s.devnum
  threads : x.threads = s.threads
  gangs : x.gangs = s.gangs
  wf : Memory.wf s.mem = true → Memory.wf x.mem = true

namespace State.SameObjects

variable {s x : State}

theorem refl (s : State) : s.SameObjects s := ⟨rfl, rfl, rfl, rfl, rfl, id⟩

theorem trans {y : State} (h : s.SameObjects x) (h' : x.SameObjects y) : s.SameObjects y :=
  ⟨h'.gran.trans h.gran, h'.lineOwner.trans h.lineOwner, h'.devnum.trans h.devnum, h'.threads.trans h.threads, h'.gangs.trans h.gangs,
    fun hm => h'.wf (h.wf hm)⟩

theorem withBytes (s : State) (n pa v : Nat) (p : List Nat) : s.SameObjects { s.withBytes n pa v with poison := p } :=
  ⟨rfl, rfl, rfl, rfl, rfl, Memory.wf_setBytes⟩

theorem putTags (s : State) (w tags k : Nat) : s.SameObjects (s.putTags w tags k) := by
  obtain ⟨b, o, h⟩ := State.putTags_shape w tags k s
  rw [h]
  exact ⟨rfl, rfl, rfl, rfl, rfl, id⟩

theorem multicast (s : State) (c la mask data : Nat) (ws : AMap Nat) : s.SameObjects (s.multicast c la mask data ws) := by
  obtain ⟨a, o, e, h⟩ := State.multicast_shape c la mask data ws s
  rw [h]
  exact ⟨rfl, rfl, rfl, rfl, rfl, id⟩

theorem updCore (s : State) (core : Nat) (f : Core → Core) : s.SameObjects (s.updCore core f) := ⟨rfl, rfl, rfl, rfl, rfl, id⟩

theorem cleanLine (s : State) (core line : Nat) : s.SameObjects (s.cleanLine core line) := by
  unfold State.cleanLine
  dsimp only
  split
  · exact refl s
  · exact (((withBytes ..).trans (putTags ..)).trans (multicast ..)).trans (updCore ..)

theorem evict (s : State) (core line : Nat) : s.SameObjects (s.evict core line) := (cleanLine s core line).trans (updCore ..)

theorem evictRanges (s : State) (core : Nat) (rs : List (Nat × Nat)) : s.SameObjects (s.evictRanges core rs) := by
  unfold State.evictRanges
  generalize s.linesIn core rs = ls
  induction ls generalizing s with
  | nil => exact refl s
  | cons l ls ih => exact (evict s core l).trans (ih (s.evict core l))

theorem clearRanges (rs : List (Nat × Nat)) : ∀ s : State, s.SameObjects (s.clearRanges rs) := by
  induction rs with
  | nil => exact refl
  | cons r rs ih => exact fun s => (putTags ..).trans (ih _)

end State.SameObjects

/-- Granules set one after the other. -/
theorem State.setGranAt_foldl_granAt (v pa q : Nat) (hv : v ≠ 0) (ks : List Nat) : ∀ s : State,
    (ks.foldl (fun s k => s.setGranAt (pa + 16 * k) v) s).granAt q = if ∃ k, k ∈ ks ∧ (pa + 16 * k) / 16 = q / 16 then v else s.granAt q := by
  induction ks with
  | nil => intro s; simp
  | cons k ks ih =>
    intro s
    rw [List.foldl_cons, ih]
    have hone : (s.setGranAt (pa + 16 * k) v).granAt q = if (pa + 16 * k) / 16 = q / 16 then v else s.granAt q := by
      simp only [State.setGranAt, State.granAt, beq_iff_eq, if_neg hv, AMap.find_put]
      split <;> simp_all [eq_comm]
    rw [hone]
    by_cases h : ∃ j, j ∈ ks ∧ (pa + 16 * j) / 16 = q / 16
    · rw [if_pos h, if_pos (by obtain ⟨j, hj, e⟩ := h; exact ⟨j, List.mem_cons_of_mem _ hj, e⟩)]
    · rw [if_neg h]
      simp only [List.mem_cons, exists_eq_or_imp, h, or_false]

/-- Line owners set one after the other. -/
theorem State.ownRanges_ownerAt (me q : Nat) (rs : List (Nat × Nat)) (s : State) :
    (s.ownRanges me rs).ownerAt q = if ∃ a, a ∈ granules rs ∧ a / 128 = q / 128 then me else s.ownerAt q := by
  unfold State.ownRanges
  generalize granules rs = as
  induction as generalizing s with
  | nil => simp
  | cons a as ih =>
    rw [List.foldl_cons, ih]
    have hone : ({ s with lineOwner := s.lineOwner.put (a / 128) me } : State).ownerAt q = if a / 128 = q / 128 then me else s.ownerAt q := by
      simp only [State.ownerAt, AMap.find_put]
      split <;> simp_all [eq_comm]
    rw [hone]
    by_cases h : ∃ b, b ∈ as ∧ b / 128 = q / 128
    · rw [if_pos h, if_pos (by obtain ⟨b, hb, e⟩ := h; exact ⟨b, List.mem_cons_of_mem _ hb, e⟩)]
    · rw [if_neg h]
      simp only [List.mem_cons, exists_eq_or_imp, h, or_false]

theorem State.ownRanges_shape (me : Nat) (rs : List (Nat × Nat)) (s : State) : ∃ o, s.ownRanges me rs = { s with lineOwner := o } := by
  unfold State.ownRanges
  generalize granules rs = as
  induction as generalizing s with
  | nil => exact ⟨_, rfl⟩
  | cons a as ih => exact ih _

theorem State.setGranAt_foldl_shape (v pa : Nat) (ks : List Nat) : ∀ s : State,
    ∃ g, ks.foldl (fun s k => s.setGranAt (pa + 16 * k) v) s = { s with gran := g } := by
  induction ks with
  | nil => exact fun s => ⟨s.gran, rfl⟩
  | cons k ks ih => exact fun s => ih _

/-- The object's range as OBJINIT's walker leaves it before the header is written. -/
def State.emptied (s : State) (core pa n : Nat) : State :=
  ((s.evictRanges core [(pa, n)]).setGrans 1 [(pa, n)]).ownRanges (s.ownerOf core) [(pa, n)]

theorem State.formatObject_eq (s : State) (core c len pa n : Nat) : s.formatObject core c len [(pa, n)] =
    (((s.emptied core pa n).physSet c 16 pa (freshHeader len (s.ownerOf core))).setGranAt pa 7).clearRanges [(pa, n)] := rfl

section
variable (s : State) (core pa n : Nat)

theorem State.emptied_shape : ∃ g o, s.emptied core pa n = { s.evictRanges core [(pa, n)] with gran := g, lineOwner := o } := by
  obtain ⟨g, hg⟩ := State.setGranAt_foldl_shape 1 pa (List.range ((n + 15) / 16)) (s.evictRanges core [(pa, n)])
  obtain ⟨o, ho⟩ := State.ownRanges_shape (s.ownerOf core) [(pa, n)] { s.evictRanges core [(pa, n)] with gran := g }
  exact ⟨g, o, by rw [State.emptied, State.setGrans, State.setGrans, hg, ho]⟩

theorem State.emptied_granAt (q : Nat) : (s.emptied core pa n).granAt q =
    if ∃ k, k < (n + 15) / 16 ∧ (pa + 16 * k) / 16 = q / 16 then 1 else s.granAt q := by
  obtain ⟨o, ho⟩ := State.ownRanges_shape (s.ownerOf core) [(pa, n)] ((s.evictRanges core [(pa, n)]).setGrans 1 [(pa, n)])
  have hkeep : (s.evictRanges core [(pa, n)]).granAt q = s.granAt q := by
    rw [State.granAt, State.granAt, (State.SameObjects.evictRanges s core _).gran]
  rw [State.emptied, ho, State.setGrans, State.setGrans]
  refine (State.setGranAt_foldl_granAt 1 pa q Nat.one_ne_zero _ _).trans ?_
  simp only [List.mem_range, hkeep]

theorem State.emptied_ownerAt {k : Nat} (hk : k < (n + 15) / 16) : (s.emptied core pa n).ownerAt (pa + 16 * k) = s.ownerOf core := by
  have hmem : pa + 16 * k ∈ granules [(pa, n)] := List.mem_append_left _ (List.mem_map.2 ⟨k, List.mem_range.2 hk, rfl⟩)
  rw [State.emptied, State.ownRanges_ownerAt, if_pos ⟨_, hmem, rfl⟩]

end

theorem State.setGranAt_granAt (s : State) (pa v q : Nat) (hv : v ≠ 0) :
    (s.setGranAt pa v).granAt q = if pa / 16 = q / 16 then v else s.granAt q := by
  simp only [State.setGranAt, State.granAt, beq_iff_eq, if_neg hv, AMap.find_put]
  split <;> simp_all [eq_comm]

theorem freshHeader_lt {len owner : Nat} (hlen : len < 2 ^ 32) (howner : owner < 2 ^ 15) : freshHeader len owner < 256 ^ 16 := by
  unfold freshHeader
  omega

section
variable (s : State) (core c len pa n : Nat)

/-- Formatting leaves the granules, but that of the header, as `State.emptied` does. -/
theorem State.formatObject_granAt (q : Nat) : (s.formatObject core c len [(pa, n)]).granAt q =
    if pa / 16 = q / 16 then 7 else (s.emptied core pa n).granAt q := by
  rw [State.formatObject_eq, State.granAt, (State.SameObjects.clearRanges _ _).gran]
  refine (State.setGranAt_granAt _ pa 7 q (by decide)).trans ?_
  simp only [State.granAt, State.physSet_gran]

theorem State.formatObject_ownerAt {k : Nat} (hk : k < (n + 15) / 16) :
    (s.formatObject core c len [(pa, n)]).ownerAt (pa + 16 * k) = s.ownerOf core := by
  rw [← State.emptied_ownerAt s core pa n hk, State.formatObject_eq, State.ownerAt, (State.SameObjects.clearRanges _ _).lineOwner]
  simp only [State.setGranAt, State.physSet_lineOwner, State.ownerAt]

theorem State.formatObject_threads : (s.formatObject core c len [(pa, n)]).threads = s.threads ∧
    (s.formatObject core c len [(pa, n)]).gangs = s.gangs := by
  obtain ⟨g, o, h⟩ := s.emptied_shape core pa n
  have hkept := State.SameObjects.evictRanges s core [(pa, n)]
  rw [State.formatObject_eq, (State.SameObjects.clearRanges _ _).threads, (State.SameObjects.clearRanges _ _).gangs, h]
  simp only [State.setGranAt, State.physSet_threads, State.physSet_gangs]
  exact ⟨hkept.threads, hkept.gangs⟩

theorem State.clearRanges_mem (rs : List (Nat × Nat)) : ∀ s : State, (s.clearRanges rs).mem = s.mem := by
  induction rs with
  | nil => exact fun s => rfl
  | cons r rs ih =>
    intro s
    obtain ⟨b, o, h⟩ := State.putTags_shape (r.1 / 8) 0 ((r.2 + 7) / 8) s
    rw [State.clearRanges, ih, h]

variable {s core len} in
/-- The header of a formatted object. -/
theorem State.formatObject_header (hwf : Memory.wf s.mem = true) (hlen : len < 2 ^ 32) (hcore : core < 512) (hdev : s.devnum < 64) :
    (s.formatObject core c len [(pa, n)]).phys 16 pa = freshHeader len (s.ownerOf core) := by
  obtain ⟨g, o, h⟩ := s.emptied_shape core pa n
  have hmem : (s.formatObject core c len [(pa, n)]).mem =
      Memory.setBytes (s.evictRanges core [(pa, n)]).mem pa (leBytes 16 (freshHeader len (s.ownerOf core))) := by
    rw [State.formatObject_eq, State.clearRanges_mem, h]
    exact State.physSet_mem ..
  rw [State.phys, hmem, Memory.getLE_setBytes ((State.SameObjects.evictRanges s core _).wf hwf),
    Nat.mod_eq_of_lt (freshHeader_lt hlen (by unfold State.ownerOf; omega))]

end

/-! ## The obligations -/

/-- Settles O26: OBJINIT asks by `initRest_asks` and completes by `initRest_given`; the walker formats by `wJob_init_formats`. -/
theorem objectCreation : Obligations.ObjectCreation := by
  unfold Obligations.ObjectCreation
  refine ⟨fun s S t gd d a b k pa hd st A x pages B z m z1 z2 m1 m2 g hg => ⟨fun hrun hA hb h8 h16 hmax hal htop hpages hgs hbrk => ?_,
    fun hres hread h8 h16 hmax hal htop => ?_, fun hrun hA href => ?_⟩,
    fun s s' core len w pages rs hj => ⟨fun hst => wStep_job hj (wJob_init_refused hst), fun hst hrs => wStep_job hj (wJob_init_formats hst hrs)⟩,
    fun s core c len pa n k hwf hn hpa hk hlen hcore hdev => ⟨s.formatObject_header c pa n hwf hlen hcore hdev, ?_, ?_,
      s.formatObject_ownerAt core c len pa n (by omega), (s.formatObject_threads core c len pa n).1, (s.formatObject_threads core c len pa n).2,
      ?_⟩⟩
  · obtain ⟨c, th, g', hc, rfl, ht, -, hcont⟩ := hrun.fresh
    obtain ⟨C, hC⟩ := State.Reads.both (γ := Flow) (hrun.pair_read hA) (hrun.nat_read (State.reads_one hb)) hrun.unread
    exact ⟨C, by rw [exec_objinit, code_waits hrun ((show (readAddr a >>= fun va => natSrc b >>= initRest d va) s = _ from hC _).trans (initRest_asks hc ht h8 h16 hmax hal htop hcont (by rw [hgs, hg]) hpages hbrk
      d C _ _))]⟩
  · obtain ⟨c, th, hc, rfl, ht, hcont⟩ := hres.given
    rw [exec_objinit, hres.completes nofun ((bind_pair hread _).trans (initRest_given hc ht h8 h16 hmax hal htop hcont d B z m)),
      State.done_reading_writeReg ht]
  · obtain ⟨c, th, hc, rfl, ht, -⟩ := hrun.start
    obtain ⟨C, hC⟩ := (hrun.pair_read hA).start
    rw [hrun.unread] at hC
    have htS : S.threads.find c.t = some th := by rw [href.2.1, ht]
    have hbody : (readAddr a >>= fun va => validateRef va .load >>= fun _ => writePair d va .refl .refh >>= fun _ => pure Flow.seq) s =
        .ok .seq ((S.reading c.t C z1 m1).putWords c.t d (loWord A .refl) (hiWord A .refh)) := by
      rw [bind_ok (m := readAddr a) hC, bind_ok (href.run C z1 m1), bind_ok (writePair_run (s := S.reading c.t C z1 m1) (href.1.trans hc) d A _ _)]
      rfl
    rw [exec_refmk, code_next hrun hbody]
    exact congrArg _ (State.done_reading_putWords htS C z1 m1 d _ _)
  · rw [State.formatObject_granAt, if_pos rfl]
  · intro hpos
    rw [State.formatObject_granAt, if_neg (by omega), State.emptied_granAt, if_pos ⟨k, by omega, rfl⟩]
  · intro q hq hout
    rw [State.formatObject_granAt, if_neg (by omega), State.emptied_granAt, if_neg]
    rintro ⟨j, hj, e⟩
    omega

/-- Settles O27: the instructions by what their bodies do, RECLAIM's turn by `wJob_reclaim`. -/
theorem objectUse : Obligations.ObjectUse := by
  unfold Obligations.ObjectUse
  refine ⟨fun s S S' t gd d a b k sc pa hd n R A B z1 z2 m1 m2 th g ht hg => ⟨fun hrun hR href hagain hlog hgs hack => ?_, fun hres hread => ?_,
    fun hres hread hstore => ?_⟩, fun s S S' S'' t gd d a b k pa hd v tag R x pages B z m g hg =>
    ⟨fun hrun hread href h8 h16 hlen hstore => ?_, fun hrun hR href hgs hown hclaim hpages hreport hrel hgs'' => ?_, fun hres hread => ?_⟩,
    fun s core sc pa w rs hj hlive hclean => ?_⟩
  · obtain ⟨c, th', hc, rfl, ht', hcont⟩ := hrun.ungiven.given
    obtain rfl : th' = th := Option.some.inj (ht'.symm.trans ht)
    obtain ⟨C, hC⟩ := (hrun.pair_read hR).start
    rw [hrun.unread] at hC
    exact ⟨C, by rw [exec_publish, hrun.ungiven.swp_waits nofun ((bind_ok (m := readRef a) hC).trans
      (publishRest_asks hc ht hcont href hagain (by rw [hgs, hg]) hlog hack d sc C z1 m1))]⟩
  · obtain ⟨c, th', hc, rfl, ht', hcont⟩ := hres.given
    rw [exec_publish, hres.swp_next nofun ((bind_ok hread).trans (publishRest_given hc ht' hcont d sc _ B z1 m1))]
    exact congrArg _ (State.done_reading_writeReg ht' B z1 m1 d _)
  · obtain ⟨c, th', hc, rfl, ht', hcont⟩ := hres.given
    obtain rfl : th' = th := Option.some.inj (ht'.symm.trans ht)
    obtain ⟨hbody, y, hy⟩ := pubstRest_given hc ht hcont hstore d
    rw [exec_pubst, hres.swp_next nofun ((bind_pair hread _).trans hbody)]
    exact congrArg _ (State.done_writeReg hy d _)
  · obtain ⟨c, -, -, rfl, -⟩ := hrun.start
    rw [exec_objst, code_next hrun ((bind_triple hread objstRest).trans (objstRest_stores href h8 h16 hlen hstore))]
    rfl
  · obtain ⟨c, th, hc, rfl, ht, hcont⟩ := hrun.ungiven.given
    obtain ⟨C, hC⟩ := (hrun.pair_read hR).start
    rw [hrun.unread] at hC
    have hnone : th.cont.walkerStatus = none := by rw [hcont]; rfl
    have hbody : (readRef a >>= fun r => jobStatus >>= reclaimGo r) s = reclaimGo R.toNat none (s.reading c.t C z m) := by
      rw [bind_ok (m := readRef a) hC, bind_ok (jobStatus_run hc ht C z m), hnone]
    exact ⟨C, by rw [exec_reclaim, code_waits hrun (hbody.trans
      (reclaimGo_asks hc href hown hclaim hpages hreport hrel (by rw [hgs'', hg]) C z m))]⟩
  · obtain ⟨c, th, hc, rfl, ht, hcont⟩ := hres.given
    have hgiven : th.cont.walkerStatus = some 0 := by rw [hcont]; rfl
    have hbody : (readRef a >>= fun r => jobStatus >>= reclaimGo r) s = .ok .seq (s.reading c.t B z m) := by
      rw [bind_ok hread, bind_ok (jobStatus_run hc ht B z m), hgiven]
      rfl
    rw [exec_reclaim, hres.completes nofun hbody, State.done_reading ht]
  · dsimp only
    intro hown hfree
    have hjob := wJob_reclaim (sc := sc) (w := w) (rs := rs) hlive hclean hown hfree
    refine ⟨fun hle => wStep_job hj (hjob.trans ?_), fun hlt => wStep_job hj (hjob.trans ?_)⟩
    · rw [if_neg (by omega), step_modify]
      rfl
    · rw [if_pos hlt]
      rfl

end Sys2Proof.Machine

end

section
/-! LAWS. The units that go on of themselves (R116, R293 to R297, R331, R373): side logs, walkers, the matrix unit and refills. -/

namespace Sys2Proof.Machine

open Sys2Proof

/-! ## Side logs (R373) -/

theorem State.withGang_slot {s : State} {gid : Nat} {g : Gang} (hg : s.gangs.find gid = some g) (f : State → State) :
    s.withGang g.kern gid f = f s := by
  simp [State.withGang, hg]

/-- The state in which the head entry of a gang's log is replayed, as its first access's thread. -/
def State.replaying (s : State) (gid : Nat) (e : SlEntry) : State :=
  { s with cur := some ⟨coreOfGid gid, 0, 32 * gid + (e.accs.headD ⟨0, 0, 0, 0, 0, 0⟩).lane⟩ }

section
variable {s S : State} {gid : Nat} {g : Gang} {e : SlEntry} {es : List SlEntry}

/-- A head entry whose replay is due. -/
theorem replay_due (hg : s.gangs.find gid = some g) (hlog : g.slog = e :: es) (hdue : s.replayDue gid g e = true) :
    exec (.sideLogReplay gid) s = .next (s.replayHead gid e) := by
  have h : s.replay gid = s.withGang g.kern gid fun s => s.replayHead gid e := by
    simp only [State.replay, State.gangsOf, hg, List.singleton_append, List.findSome?_cons, hlog, hdue, if_true]
  exact congrArg Host.Outcome.next (h.trans (State.withGang_slot hg _))

variable (hfail : e.fail = none)
include hfail

theorem State.replayHead_answered (h : e.asked = true) : s.replayHead gid e = s.updGang gid fun y => { y with slog := y.slog.drop 1 } := by
  simp only [State.replayHead, hfail, h, if_true]

theorem State.replayHead_done (h : e.asked = false) (hr : replayEntry (e.askNo gid) e (s.replaying gid e) = .ok false S) :
    s.replayHead gid e = { S with cur := s.cur }.updGang gid fun y => { y with slog := y.slog.drop 1 } := by
  rw [State.replaying] at hr
  simp only [State.replayHead, hfail, h, hr, Bool.false_eq_true, if_false]

theorem State.replayHead_asks (h : e.asked = false) (hr : replayEntry (e.askNo gid) e (s.replaying gid e) = .ok true S) :
    s.replayHead gid e = { S with cur := s.cur }.updHead gid fun y => { y with asked := true } := by
  rw [State.replaying] at hr
  simp only [State.replayHead, hfail, h, hr, Bool.false_eq_true, if_false]

end

/-! ## Walkers (R293, R297) -/

section
variable {s S : State} {core : Nat} {w w' : Walk} (hq : (s.core core).walkq.head? = some w) (hruns : s.walkRuns w = true)
  (hfail : w.fail = none) (hheld : w.held = none)
include hq hruns hfail hheld

theorem walk_steps (h : wStep core { w with blk := none } s = .ok (w', false) S) :
    exec (.brassWalk core) s = .next (S.setWalk core (some w')) := by
  obtain ⟨ws, hws⟩ := List.head?_eq_some_iff.1 hq
  rw [hfail, hheld] at h
  exact congrArg Host.Outcome.next (by simp [State.walkStep, hws, hruns, hfail, hheld, h])

theorem walk_ends_with (h : wStep core { w with blk := none } s = .ok (w', true) S) :
    exec (.brassWalk core) s = .next (S.walkDone core w') := by
  obtain ⟨ws, hws⟩ := List.head?_eq_some_iff.1 hq
  rw [hfail, hheld] at h
  exact congrArg Host.Outcome.next (by simp [State.walkStep, hws, hruns, hfail, hheld, h])

end

/-- The thread that waits for a walk of its context's gang is given its count. -/
theorem State.walkDone_gives {s : State} {core : Nat} {w : Walk} {th : Thread} {y : Gang} (ht : s.threads.find w.t = some th)
    (hg : s.gangs.find (gidOf w.t) = some y) (hctx : y.ctx = w.ctx) (hwait : th.wait = some (.walk w.id)) (hcont : th.cont = .none)
    (hlog : w.log = false) (hjob : w.job = none) (hpend : (s.ctx w.ctx).pend = none) :
    (s.walkDone core w).threads.find w.t = some { th with swpAct := false, swpIter := 0, cont := .tok w.count } := by
  have hkern : (s.setWalk core none).kernIn w.ctx (gidOf w.t) = y.kern := by
    have hg' : (s.setWalk core none).gangs.find (gidOf w.t) = some y := hg
    unfold State.kernIn
    rw [hg']
    split <;> simp_all
  have hupd (f : Thread → Thread) : (s.setWalk core none).updWaiter w f =
      (s.setWalk core none).updThread w.t fun th => if th.wait == some (.walk w.id) then f th else th := by
    have hg' : (s.setWalk core none).gangs.find (gidOf w.t) = some y := hg
    simp only [State.updWaiter, hkern, State.updFor, hg', beq_self_eq_true, if_true]
  have ht' : (s.setWalk core none).threads.find w.t = some th := ht
  have hctx' (f : Thread → Thread) : (((s.setWalk core none).updThread w.t f).ctx w.ctx).pend = none := hpend
  unfold State.walkDone
  simp only [hlog, hjob, Option.isSome_none, Bool.false_eq_true, if_false, hupd]
  rw [State.finishStop_of_no_pend (hctx' _), State.find_updThread_self ht']
  simp [hwait, hcont]

/-! ## The matrix unit (R331, R341) -/

/-- The operation at the head of a slot is performed. -/
theorem State.applyTile_performs {s S : State} {iid acc n : Nat} {x : GInst} {op : TileOp} {rest : List (Nat × TileOp)} {o : TOut}
    (hx : s.insts.find iid = some x) (hops : (x.slot acc).ops = (n, op) :: rest) (hunit : op.ofThread = false)
    (hfree : (x.slot acc).stuck = false) (hres : (s.ctx x.ctx).st = .resident) (hfault : (x.slot acc).fault = none)
    (hrun : tRun iid x acc (s.tickOf x.ctx) (x.slot acc) op s = .ok o S) : s.applyTile iid acc =
      ((S.putSlotRows iid acc o.tick o.words).setSlot iid acc { o.slot with ops := rest, held := none }).finishStop x.ctx := by
  simp [State.applyTile, hx, hops, hunit, hfree, hres, hfault, hrun]

theorem AMap.mem_of_find {α : Type} {k : Nat} {v : α} {m : AMap α} (h : m.find k = some v) : (k, v) ∈ m := by
  induction m with
  | nil => cases h
  | cons e m ih =>
    rw [AMap.find] at h
    split at h
    · next he =>
      subst he
      cases h
      exact List.mem_cons_self
    · exact List.mem_cons_of_mem _ (ih h)

/-- A row of zero words. -/
theorem wholeRow_zero {tick : Nat} {ws : List Nat} (h : ∀ w, w ∈ ws → w = 0) (k : Nat) : (wholeRow tick ws).word k = TWord.zero := by
  rw [Row.word]
  cases hf : (wholeRow tick ws).words.find k with
  | none => rfl
  | some v =>
    obtain ⟨p, hp, e⟩ := List.mem_map.1 (AMap.mem_of_find hf)
    have hzero := h p.1 (List.of_mem_zip hp).1
    obtain rfl : _ = v := congrArg Prod.snd e
    rw [Option.getD_some, hzero]
    rfl

theorem Alloc.putRows_below {tick : Nat} (k : Nat) : ∀ (a : Alloc) (n r : Nat) (ws : List Nat), r < n → (a.putRows tick n k ws).row r = a.row r := by
  induction k with
  | zero => exact fun a n r ws _ => rfl
  | succ k ih =>
    intro a n r ws hr
    rw [Alloc.putRows, ih _ _ _ _ (by omega), Alloc.row_setRow, if_neg (by omega)]

theorem Alloc.putRows_zero {tick : Nat} (k : Nat) : ∀ (a : Alloc) (n r j : Nat) (ws : List Nat), (∀ w, w ∈ ws → w = 0) → n ≤ r → r < n + k →
    ((a.putRows tick n k ws).row r).word j = TWord.zero := by
  induction k with
  | zero => exact fun a n r j ws _ h h' => absurd h' (by omega)
  | succ k ih =>
    intro a n r j ws hws hn hr
    rw [Alloc.putRows]
    by_cases heq : r = n
    · rw [Alloc.putRows_below k _ _ _ _ (by omega), Alloc.row_setRow, if_pos heq]
      exact wholeRow_zero (fun w hw => hws w (List.mem_of_mem_take hw)) j
    · exact ih _ _ _ _ _ (fun w hw => hws w (List.mem_of_mem_drop hw)) (by omega) (by omega)

/-- What a clear leaves of a slot. -/
theorem State.applyTile_clears {s : State} {iid acc n u : Nat} {x : GInst} {rest : List (Nat × TileOp)} {a : Alloc}
    (hx : s.insts.find iid = some x) (hops : (x.slot acc).ops = (n, .clear u) :: rest) (hfree : (x.slot acc).stuck = false)
    (hres : (s.ctx x.ctx).st = .resident) (hfault : (x.slot acc).fault = none) (hpend : (s.ctx x.ctx).pend = none) (ha : x.tile = some a) :
    (s.applyTile iid acc).insts.find iid = some ({ x with tile := some (a.putRows (s.tickOf x.ctx) (x.slotRow acc) (x.stride / 128)
      (List.replicate (x.stride / 4) 0)) }.withSlot acc { (x.slot acc).clear with ops := rest, held := none }) ∧
    (s.applyTile iid acc).mem = s.mem := by
  have hrows : x.stride / 4 / 32 = x.stride / 128 := by rw [Nat.div_div_eq_div_mul]
  have hrun : tRun iid x acc (s.tickOf x.ctx) (x.slot acc) (.clear u) s =
      .ok ⟨(x.slot acc).clear, List.replicate (x.stride / 4) 0, s.tickOf x.ctx⟩ s := rfl
  rw [State.applyTile_performs hx hops rfl hfree hres hfault hrun, State.finishStop_of_no_pend (by exact hpend)]
  refine ⟨(State.find_setSlot (x := { x with tile := some (a.putRows (s.tickOf x.ctx) (x.slotRow acc) (x.stride / 128)
      (List.replicate (x.stride / 4) 0)) }) ?_ _), rfl⟩
  simp [State.putSlotRows, hx, ha, hrows]

/-! ## Conduits (R116, R121) -/

/-- A conduit with the record at the head of its ring in its buffer. -/
def Conduit.refilled (c : Conduit) (r : CdRec) : Conduit :=
  { c with buf := c.buf ++ [r], head := (c.head + 1) % 2 ^ 32, refills := c.refills + 1 }

section
variable {s : State} {id : Nat} {c : Conduit} (hc : s.conduits.find id = some c)
include hc

theorem conduitRefill_resident (hres : (s.ctx (s.cdCtx c)).st = .resident) :
    exec (.conduitRefill id) s = .next (s.cdPump id cdFuel) := by
  change execConduitRefill id s = _
  simp [execConduitRefill, hc, hres]

/-- A conduit with room, and a record in its ring, refills from it. -/
theorem State.cdMove_refills {pa : Nat} {T : State} (hlive : c.released = false) (hkept : c.saved = false) (hfill : c.fill = .ready)
    (hroom : c.buf.length < 32) (hring : c.ring ≠ 0)
    (hx : s.devXlate c.core (s.cdCtx c) (s.cdSlot c c.head) .load = (.ok pa, T)) (hclean : T.firstPoison pa 64 0 = none) :
    s.cdMove id = some ((T.noteRead pa 64).cdPut id (c.refilled (CdRec.ofSlot (T.phys 64 pa) none))) := by
  obtain ⟨e, l, d, hnote⟩ := T.noteRead_shape pa 64
  have hphys : (T.noteRead pa 64).phys 64 pa = T.phys 64 pa := by rw [hnote]; rfl
  have hpoison : (T.noteRead pa 64).firstPoison pa 64 0 = none := by rw [hnote]; exact hclean
  have hrefill : s.cdRefill id c = some ((T.noteRead pa 64).cdPut id (c.refilled (CdRec.ofSlot (T.phys 64 pa) none))) := by
    have hgo : ¬(c.fill != .ready || decide (32 ≤ c.buf.length) || c.ring == 0) = true := by simp [hfill, hring]; omega
    rw [State.cdRefill, if_neg hgo]
    simp only [hx, hphys, hpoison, Option.map_none]
    rfl
  simp [State.cdMove, hc, hlive, hkept, hrefill]

end

theorem State.find_cdPut (s : State) (id : Nat) (c : Conduit) : (s.cdPut id c).conduits.find id = some c := by
  rw [State.cdPut, (State.SameUnits.cdCopy (.refl _) c).conduits]
  exact AMap.find_put_self ..

theorem State.cdPump_rests {s : State} {id : Nat} (h : s.cdMove id = none) (f : Nat) : s.cdPump id (f + 1) = s := by
  rw [State.cdPump, h]

theorem State.cdPump_once {s S : State} {id : Nat} (h : s.cdMove id = some S) (h' : S.cdMove id = none) (f : Nat) : s.cdPump id (f + 2) = S := by
  rw [State.cdPump, h]
  exact State.cdPump_rests h' f

/-- Settles O43: side logs by `replay_due`, walkers by `walk_steps` and `State.walkDone_gives`, the matrix unit by
`State.applyTile_performs`, conduits by `State.cdPump_once`. -/
theorem unitsGoOn : Obligations.UnitsGoOn := by
  unfold Obligations.UnitsGoOn
  intro s S gid core iid acc id g e es w w' x n op rest o c a
  refine ⟨fun hg hlog hdue hfail => ⟨fun h hr => ?_, fun h hr => ?_, fun h => ?_⟩,
    fun hq hruns hfail hheld => ⟨walk_steps hq hruns hfail hheld, walk_ends_with hq hruns hfail hheld⟩,
    fun th y ht hg hctx hwait hcont hlog hjob hpend => ⟨_, State.walkDone_gives ht hg hctx hwait hcont hlog hjob hpend, rfl, rfl, rfl⟩,
    fun hx hops hunit hfree hres hfault => ⟨fun hrun => ?_, fun u hop hpend ha => ?_⟩,
    fun hc hres => ⟨fun S' h h' => ?_, fun h => ?_, fun hlive hkept hfill hroom hring pa T hx hclean => ?_⟩⟩
  · rw [replay_due hg hlog hdue, State.replayHead_done hfail h hr]
  · rw [replay_due hg hlog hdue, State.replayHead_asks hfail h hr]
  · rw [replay_due hg hlog hdue, State.replayHead_answered hfail h]
  · exact congrArg _ (State.applyTile_performs hx hops hunit hfree hres hfault hrun)
  · subst hop
    obtain ⟨hfind, hmem⟩ := State.applyTile_clears hx hops hfree hres hfault hpend ha
    refine ⟨_, _, _, rfl, hfind, ?_, ?_, ?_, ?_, rfl, fun r k hr hr' _ => ?_, hmem⟩
    · rw [GInst.slot_withSlot]; rfl
    · rw [GInst.slot_withSlot]; rfl
    · rw [GInst.slot_withSlot]; rfl
    · rw [GInst.slot_withSlot]
    · exact Alloc.putRows_zero _ _ _ _ _ _ (fun w hw => List.eq_of_mem_replicate hw) hr hr'
  · rw [conduitRefill_resident hc hres]
    exact congrArg _ (State.cdPump_once h h' 65534)
  · rw [conduitRefill_resident hc hres]
    exact congrArg _ (State.cdPump_rests h 65535)
  · exact ⟨_, _, State.cdMove_refills hc hlive hkept hfill hroom hring hx hclean, State.find_cdPut .., rfl, rfl, rfl⟩

end Sys2Proof.Machine

end

section
/-! LAWS. RESAMPLE (16_population R351 to R358): arrival, survivors, the search for a lane and the image of a clone. -/

namespace Sys2Proof.Machine

open Sys2Proof

/-! ## Arrival (R351, R352, R358) -/

/-- RESAMPLE once its checks have passed: it releases and arrives. -/
def resampleArrives (d : Nat) (on : Bool) (th : Thread) (ops : Option (Nat × Nat × Nat × Bool)) : M Flow := do
  reportLog 3
  releaseAt 3
  let t ← curT
  let gg ← gang
  popArrive gg.kern { t := t, pc := th.pc, rep := th.repNo, abst := !on, w := match ops with | some o => o.1 | none => 0, d := d }
    (ops.map (·.2))
  if (← get).arrived gg.kern t then waitFor .resample else pure .gone

/-- The body of RESAMPLE. -/
def resampleBody (d a b c : Nat) (opnd on : Bool) : M Flow := do
  let th ← thread
  memberCheck
  let ops ← if on then (do pure (some (← resampleOps a b c opnd)) : M _) else pure none
  if !(th.bt.all (· == 0) && th.loads == []) then waitFor .quiet
  resampleArrives d on th ops

theorem exec_resample (gd : Guard) (d a b c k : Nat) (opnd : Bool) : exec (.resample gd d a b c k opnd) =
    codeAny ([.r d, .r a, .r b] ++ (if opnd then [.r c] else [])) [] gd [.reg d .u32] (resampleBody d a b c opnd) := rfl

/-- A member outside a handler with nothing outstanding arrives, and waits while its arrival stands. -/
theorem resampleBody_arrives {s S S' : State} {c : Cur} {th : Thread} {g : Gang} {kk : Kernel} {d a b e w n u : Nat} {opnd : Bool}
    {B : AMap TWord} {z m : Bool} (hc : s.cur = some c) (ht : s.threads.find c.t = some th) (hg : s.gangs.find (gidOf c.t) = some g)
    (hk : s.kernels.find g.kern = some kk) (hmem : kk.isMember g.gidx = true) (hinh : th.inh = false) (hbt : ∀ e, e ∈ th.bt → e = 0)
    (hloads : th.loads = []) (hops : resampleOps a b e opnd s = .ok (w, n, u, opnd) (s.reading c.t B z m))
    (hreport : s.Gives c.t (reportLog 3) ⟨⟩) (hrel : s.Turns S c.t (releaseAt 3) ⟨⟩ false) (hgs : S.gangs = s.gangs)
    (harr : popArrive g.kern { t := c.t, pc := th.pc, rep := th.repNo, abst := false, w := w, d := d } (some (n, u, opnd)) (S.reading c.t B z m) =
      .ok ⟨⟩ S') :
    resampleBody d a b e opnd true s = (if S'.arrived g.kern c.t then waitFor .resample else pure .gone : M Flow) S' := by
  have hquiet : ¬(!(th.bt.all (· == 0) && th.loads == [])) = true := by
    simp only [hloads, beq_self_eq_true, Bool.and_true, Bool.not_eq_true', Bool.not_eq_false, List.all_eq_true, beq_iff_eq]
    exact hbt
  have hcS : (S.reading c.t B z m).cur = some c := hrel.1.trans hc
  have hgS : (S.reading c.t B z m).gangs.find (gidOf c.t) = some g := by rw [← hg, ← hgs]; rfl
  have hgo : resampleArrives d true th (some (w, n, u, opnd)) (s.reading c.t B z m) =
      (if S'.arrived g.kern c.t then waitFor .resample else pure .gone : M Flow) S' := by
    rw [resampleArrives, bind_ok (hreport.run B z m), bind_ok (hrel.run B z m), bind_ok (curT_run hcS), bind_ok (gang_run hcS hgS)]
    exact (bind_ok harr).trans (bind_ok (get_run S'))
  rw [resampleBody, bind_ok (thread_run hc ht), bind_ok (memberCheck_passes hc ht hg hk hmem hinh), if_pos rfl, bind_assoc, bind_ok hops,
    pure_bind]
  dsimp only
  rw [if_neg hquiet]
  exact hgo

/-! ## Survivors (R353) -/

/-- Whoever completes an instruction has been given nothing for the next. -/
theorem State.done_cont {s : State} {t : Nat} {th : Thread} (h : s.threads.find t = some th) :
    ∃ y, (s.done t).threads.find t = some y ∧ y.gen = th.gen ∧ y.lin = th.lin ∧ y.wait = none ∧ y.cont = .none := by
  obtain ⟨f, m, q, x, o, e, ks, cs, hf, hs, -⟩ := s.done_shape t
  obtain ⟨_, _, _, _, _, _, _, hy⟩ := hf th
  refine ⟨f th, ?_, ?_⟩
  · rw [hs]
    exact State.find_updThread_self h f
  · rw [hy]
    exact ⟨rfl, rfl, rfl, rfl⟩

/-- Completing an instruction leaves the stored words. -/
theorem State.done_storedWord (s : State) (t u i : Nat) : (s.done t).storedWord u i = s.storedWord u i := by
  obtain ⟨f, m, q, x, o, e, ks, cs, -, hs, -⟩ := s.done_shape t
  rw [hs]
  rfl

theorem Alloc.word_writeWord_same (a : Alloc) (n k tick : Nat) (w : TWord) : ((a.writeWord n k tick w).row n).word k = w := by
  simp [Alloc.writeWord, Alloc.setRow, Alloc.row, Row.word]

theorem State.storedWord_writeReg_same {s : State} {t i : Nat} {g : Gang} (hg : s.gangs.find (gidOf t) = some g) (hi : i ≠ 0) (w : TWord) :
    (s.writeReg t i w).storedWord t i = w := by
  have hfind : (s.writeReg t i w).gangs.find (gidOf t) = some { g with regs := g.regs.writeWord (i - 1) (laneOf t) (s.tickOf g.ctx) w } := by
    simp [State.writeReg, hi, hg, State.updGang]
  rw [State.storedWord, hfind]
  dsimp only
  rw [if_neg hi, Alloc.word_writeWord_same]

/-! ## The search for a lane (R355) -/

/-- The gangs of a list on another core that stand `k` dies on from that of thread `p`. -/
def onDie (p : Nat) (gangs : List Nat) (k : Nat) : List Nat :=
  (gangs.filter (· != gidOf p)).filter fun x => dieOfCore (coreOfGid x) == k && coreOfGid x != coreOf p

theorem searchOrder_eq (gangs : List Nat) (p : Nat) : searchOrder gangs p = gidOf p ::
    ((gangs.filter (· != gidOf p)).filter fun x => coreOfGid x == coreOf p) ++ onDie p gangs (dieOfCore (coreOf p)) ++
      onDie p gangs ((dieOfCore (coreOf p) + 1) % 4) ++ onDie p gangs ((dieOfCore (coreOf p) + 2) % 4) ++
        onDie p gangs ((dieOfCore (coreOf p) + 3) % 4) := rfl

theorem mem_onDie {p k x : Nat} {gangs : List Nat} :
    x ∈ onDie p gangs k ↔ x ∈ gangs ∧ x ≠ gidOf p ∧ dieOfCore (coreOfGid x) = k ∧ coreOfGid x ≠ coreOf p := by
  simp only [onDie, List.mem_filter, Bool.and_eq_true, beq_iff_eq, bne_iff_ne]
  tauto

/-- R355: the order of the search. -/
def Before (p u v : Nat) : Prop := searchRank p u < searchRank p v ∨ (searchRank p u = searchRank p v ∧ u < v)

/-- A list of gangs in the order of the search, none past rank `i`. -/
def Ranked (p i : Nat) (l : List Nat) : Prop := (∀ x, x ∈ l → searchRank p x ≤ i) ∧ l.Pairwise (Before p)

/-- The gangs of the next rank, ascending, come after those of the ranks before. -/
theorem Ranked.append {p i : Nat} {l l' : List Nat} (h : Ranked p i l) (hr : ∀ x, x ∈ l' → searchRank p x = i + 1)
    (hl' : l'.Pairwise (· < ·)) : Ranked p (i + 1) (l ++ l') := by
  refine ⟨fun x hx => ?_, List.pairwise_append.2 ⟨h.2, ?_, fun u hu v hv => .inl ?_⟩⟩
  · rcases List.mem_append.1 hx with hx | hx
    · exact (h.1 x hx).trans (Nat.le_succ i)
    · exact (hr x hx).le
  · exact hl'.imp_of_mem fun {u v} hu hv huv => .inr ⟨(hr u hu).trans (hr v hv).symm, huv⟩
  · rw [hr v hv]
    exact Nat.lt_succ_of_le (h.1 u hu)

section
variable {gangs : List Nat} {p : Nat} (hs : gangs.Pairwise (· < ·)) (hp : coreOf p < 384) (hg : ∀ g, g ∈ gangs → coreOfGid g < 384)

include hp in
/-- The rank of a gang `j` dies on. -/
theorem searchRank_onDie {j x : Nat} (hj : j < 4) (hx : x ∈ onDie p gangs ((dieOfCore (coreOf p) + j) % 4)) : searchRank p x = 2 + j := by
  obtain ⟨-, hne, hdie, hcore⟩ := mem_onDie.1 hx
  have hd : dieOfCore (coreOf p) < 4 := by unfold dieOfCore; omega
  rw [searchRank, if_neg hne, if_neg hcore, hdie]
  omega

include hs in
theorem onDie_pairwise (k : Nat) : (onDie p gangs k).Pairwise (· < ·) := (hs.filter _).filter _

include hs hp in
/-- R355: the gangs are searched in the order of their ranks. -/
theorem searchOrder_ranked : Ranked p 5 (searchOrder gangs p) := by
  have hd : dieOfCore (coreOf p) = (dieOfCore (coreOf p) + 0) % 4 := by unfold dieOfCore; omega
  have hown : Ranked p 0 [gidOf p] := ⟨fun x hx => by rw [List.mem_singleton.1 hx, searchRank, if_pos rfl], List.pairwise_singleton ..⟩
  have hcore := hown.append (l' := (gangs.filter (· != gidOf p)).filter fun x => coreOfGid x == coreOf p)
    (fun x hx => by
      obtain ⟨hx', hc⟩ := List.mem_filter.1 hx
      rw [searchRank, if_neg (by simpa using (List.mem_filter.1 hx').2), if_pos (by simpa using hc)])
    ((hs.filter _).filter _)
  have hdies := (((hcore.append (fun x => searchRank_onDie hp (j := 0) (by decide)) (onDie_pairwise hs _)).append
    (fun x => searchRank_onDie hp (j := 1) (by decide)) (onDie_pairwise hs _)).append
    (fun x => searchRank_onDie hp (j := 2) (by decide)) (onDie_pairwise hs _)).append
    (fun x => searchRank_onDie hp (j := 3) (by decide)) (onDie_pairwise hs _)
  rw [← hd] at hdies
  rw [searchOrder_eq]
  exact hdies

include hp hg in
/-- R355: the gangs searched are the parent's and the member gangs. -/
theorem mem_searchOrder (g : Nat) : g ∈ searchOrder gangs p ↔ g = gidOf p ∨ g ∈ gangs := by
  have hd : dieOfCore (coreOf p) < 4 := by unfold dieOfCore; omega
  rw [searchOrder_eq]
  simp only [List.mem_append, List.mem_cons, mem_onDie, List.mem_filter, bne_iff_ne, beq_iff_eq]
  constructor
  · rintro (((((h | h) | h) | h) | h) | h)
    · exact .inl h
    · exact .inr h.1.1
    all_goals exact .inr h.1
  · rintro (h | h)
    · simp [h]
    · by_cases hown : g = gidOf p
      · simp [hown]
      · by_cases hc : coreOfGid g = coreOf p
        · simp [h, hown, hc]
        · have hgd : dieOfCore (coreOfGid g) < 4 := by have := hg g h; unfold dieOfCore; omega
          simp only [h, hown, hc, ne_eq, not_false_eq_true, true_and, and_true, and_false, false_or]
          omega

end

/-- R355: the lane found is the first that is free. -/
theorem State.freeLane_some {s : State} {order : List Nat} {t : Nat} (h : s.freeLane order = some t) : s.threads.find t = none ∧
    (∀ l, l < laneOf t → s.threads.find (32 * gidOf t + l) ≠ none) ∧
    ∃ pre post, order = pre ++ gidOf t :: post ∧ ∀ g, g ∈ pre → ∀ l, l < 32 → s.threads.find (32 * g + l) ≠ none := by
  induction order with
  | nil => cases h
  | cons g gs ih =>
    rw [State.freeLane] at h
    cases hf : (List.range 32).find? fun l => (s.threads.find (32 * g + l)).isNone with
    | some l =>
      rw [hf] at h
      obtain rfl := Option.some.inj h
      have hl : l < 32 := List.mem_range.1 (List.mem_of_find?_eq_some hf)
      have hgid : gidOf (32 * g + l) = g := by unfold gidOf; omega
      have hlane : laneOf (32 * g + l) = l := by unfold laneOf; omega
      rw [hgid, hlane]
      refine ⟨by simpa using List.find?_some hf, fun j hj => ?_, [], gs, rfl, by simp⟩
      have hused := (List.find?_range_eq_some.1 hf).2.2 j hj
      simpa [← Option.isSome_iff_ne_none] using hused
    | none =>
      rw [hf] at h
      obtain ⟨hfree, hbelow, pre, post, rfl, hpre⟩ := ih h
      refine ⟨hfree, hbelow, g :: pre, post, rfl, fun x hx l hl => ?_⟩
      rcases List.mem_cons.1 hx with rfl | hx
      · simpa using List.find?_eq_none.1 hf l (List.mem_range.2 hl)
      · exact hpre x hx l hl

/-- With none free, every lane has a thread. -/
theorem State.freeLane_none {s : State} {order : List Nat} (h : s.freeLane order = none) {g l : Nat} (hg : g ∈ order) (hl : l < 32) :
    s.threads.find (32 * g + l) ≠ none := by
  induction order with
  | nil => cases hg
  | cons x gs ih =>
    rw [State.freeLane] at h
    cases hf : (List.range 32).find? fun l => (s.threads.find (32 * x + l)).isNone with
    | some j =>
      rw [hf] at h
      cases h
    | none =>
      rw [hf] at h
      rcases List.mem_cons.1 hg with rfl | hg
      · simpa using List.find?_eq_none.1 hf l (List.mem_range.2 hl)
      · exact ih h hg

/-! ## The image of a clone (R356) -/

/-- A word copied between lanes. -/
theorem word_copyWord (src dst : Alloc) (tick row f t r k : Nat) : ((copyWord src dst tick row f t).row r).word k =
    if r = row ∧ k = t then (src.row row).word f else (dst.row r).word k := by
  have hsame : ((copyWord src dst tick row f t).row r).word k = ((dst.writeWord row t tick ((src.row row).word f)).row r).word k := by
    unfold copyWord
    dsimp only
    rw [Alloc.row_setRow]
    split
    · next h => rw [h]; rfl
    · rfl
  rw [hsame]
  split
  · next h => rw [h.1, h.2, Alloc.word_writeWord_same]
  · next h => exact Alloc.word_writeWord h

/-- The rows of a lane copied. -/
theorem word_copyLane (src dst : Alloc) (tick f t n r k : Nat) : ((copyLane src dst tick f t n).row r).word k =
    if r < n ∧ k = t then (src.row r).word f else (dst.row r).word k := by
  induction n with
  | zero => rw [copyLane, if_neg (by omega)]
  | succ n ih =>
    rw [copyLane, word_copyWord, ih]
    by_cases hk : k = t
    · by_cases hr : r = n
      · rw [if_pos ⟨hr, hk⟩, if_pos ⟨by omega, hk⟩, hr]
      · rw [if_neg (by tauto)]
        simp only [show r < n + 1 ↔ r < n by omega]
    · rw [if_neg (by tauto), if_neg (by tauto), if_neg (by tauto)]

/-- A thread that has gone on to the next instruction in its execution order (R32, R34), but for its group. -/
def Thread.advanced (th : Thread) : Thread :=
  match th.clause with
  | none => { th with pc := th.pc + 8 }
  | some c =>
    if c.index th.pc + 1 < c.count then { th with pc := th.pc + 8, rptInst := if c.rep then c.index th.pc + 1 else th.rptInst }
    else if c.rep && th.rptRep + 1 < c.reps then { th with pc := c.addr + 8, rptInst := 0, rptRep := th.rptRep + 1 }
    else { th.endRpt with pc := c.next, clause := none, res := .start, group := none }

theorem State.find_advance {s : State} {t : Nat} {th : Thread} (h : s.threads.find t = some th) :
    (s.advance t).threads.find t = some th.advanced := by
  rw [State.advance, h]
  dsimp only
  unfold Thread.advanced
  cases hcl : th.clause with
  | none => exact (State.find_updThread_self h _).trans (by simp only [hcl])
  | some c =>
    dsimp only
    split
    · exact (State.find_updThread_self h _).trans (by simp only [hcl])
    · split
      · exact (State.find_updThread_self h _).trans (by simp only [hcl])
      · exact State.find_leaveGroup_self (State.find_updThread_self h _)

theorem Thread.advanced_moved (th : Thread) : th.Moved th.advanced := by
  unfold Thread.advanced
  split
  · exact ⟨_, _, _, _, _, _, _, rfl⟩
  · split
    · exact ⟨_, _, _, _, _, _, _, rfl⟩
    · split
      · exact ⟨_, _, _, _, _, _, _, rfl⟩
      · exact th.moved_endRpt.trans ⟨_, _, _, _, _, _, _, rfl⟩

/-- A clone goes on where its parent does. -/
theorem Thread.clone_advanced (p : Thread) (gen serial : Nat) : (p.clone gen serial).advanced.pc = p.advanced.pc ∧
    (p.clone gen serial).advanced.rptAct = p.advanced.rptAct ∧ (p.clone gen serial).advanced.rptRep = p.advanced.rptRep ∧
    (p.clone gen serial).advanced.rptInst = p.advanced.rptInst := by
  have hclause : (p.clone gen serial).clause = p.clause := rfl
  unfold Thread.advanced Thread.endRpt
  rw [hclause]
  cases p.clause with
  | none => exact ⟨rfl, rfl, rfl, rfl⟩
  | some c =>
    dsimp only
    by_cases h₁ : c.index p.pc + 1 < c.count
    · rw [if_pos h₁, if_pos (by exact h₁)]
      exact ⟨rfl, rfl, rfl, rfl⟩
    · rw [if_neg h₁, if_neg (by exact h₁)]
      by_cases h₂ : (c.rep && decide (p.rptRep + 1 < c.reps)) = true
      · rw [if_pos h₂, if_pos (by exact h₂)]
        exact ⟨rfl, rfl, rfl, rfl⟩
      · rw [if_neg h₂, if_neg (by exact h₂)]
        cases c.rep <;> exact ⟨rfl, rfl, rfl, rfl⟩

theorem Thread.park_moved (th : Thread) : th.Moved th.park := by
  unfold Thread.park
  split <;> exact ⟨_, _, _, _, _, _, _, rfl⟩

/-- The clone of a thread past its RESAMPLE. -/
def Thread.placed (p : Thread) (gen serial : Nat) : Thread := (p.clone gen serial).advanced.park

/-- R356: what a clone has, and has not, of its parent. -/
theorem Thread.placed_image (p : Thread) (gen serial : Nat) : p.SameImage (p.placed gen serial) ∧ (p.placed gen serial).gen = gen ∧
    (p.placed gen serial).lin = gen * 2 ^ 48 + serial ∧ (p.placed gen serial).par = p.lin ∧ (p.placed gen serial).bt = [0, 0, 0, 0] ∧
    (p.placed gen serial).loads = [] ∧ (p.placed gen serial).pc = p.advanced.pc ∧ (p.placed gen serial).rptAct = p.advanced.rptAct ∧
    (p.placed gen serial).rptRep = p.advanced.rptRep ∧ (p.placed gen serial).rptInst = p.advanced.rptInst ∧
    (p.placed gen serial).group = none ∧ (p.placed gen serial).wait = none := by
  obtain ⟨hpc, hact, hrep, hinst⟩ := p.clone_advanced gen serial
  have hpark (y : Thread) : y.park.pc = y.pc ∧ y.park.rptAct = y.rptAct ∧ y.park.rptRep = y.rptRep ∧ y.park.rptInst = y.rptInst ∧
      y.park.group = none := by
    unfold Thread.park
    split <;> exact ⟨rfl, rfl, rfl, rfl, rfl⟩
  obtain ⟨kpc, kact, krep, kinst, kgroup⟩ := hpark (p.clone gen serial).advanced
  obtain ⟨_, _, _, _, _, _, _, hy⟩ := (p.clone gen serial).advanced_moved.trans (Thread.park_moved _)
  refine ⟨?_, ?_, ?_, ?_, ?_, ?_, kpc.trans hpc, kact.trans hact, krep.trans hrep, kinst.trans hinst, kgroup, ?_⟩
  all_goals rw [Thread.placed, hy]
  exact ⟨rfl, rfl, rfl, rfl, rfl, rfl, rfl, rfl, rfl, rfl, rfl, rfl, rfl, rfl⟩
  all_goals rfl

/-- A clone's registers and thread, before it moves past its RESAMPLE. -/
def State.imaged (s : State) (kern gen t : Nat) (a : PopArr) (p : Thread) (q : Pop) : State :=
  let s := (s.updPop kern fun q => { q with next := (q.next + 1) % 2 ^ 48 }).copyImage a.t t
  { s with threads := s.threads.put t (p.clone gen q.next) }

section
variable {s : State} {kern gen k t : Nat} {gangs : List Nat} {a : PopArr} {x : Kernel} {q : Pop} {p : Thread} {g h : Gang}

theorem State.placeClone_eq (hk : s.kernels.find kern = some x) (hq : x.pop = some q) (hp : s.threads.find a.t = some p)
    (hfree : s.freeLane (searchOrder gangs a.t) = some t) : s.placeClone kern gen gangs a k =
      (((s.imaged kern gen t a p q).pastResample t).writeReg t a.d ⟨BitVec.ofNat 32 k, .u32⟩).acquire (coreOf t) := by
  simp only [State.placeClone, hk, hq, hp, hfree]
  rfl

variable (s kern gen t a p q)

theorem State.copyImage_gangs (hg : s.gangs.find (gidOf a.t) = some g) : (s.imaged kern gen t a p q).gangs =
    s.gangs.upd (gidOf t) fun y => { y with
      regs := copyLane g.regs y.regs (s.tickOf g.ctx) (laneOf a.t) (laneOf t) g.nregs,
      stack := copyLane g.stack y.stack (s.tickOf g.ctx) (laneOf a.t) (laneOf t) (32 * g.stack.pages) } := by
  have hg' : (s.updPop kern fun q => { q with next := (q.next + 1) % 2 ^ 48 }).gangs.find (gidOf a.t) = some g := hg
  simp only [State.imaged, State.copyImage, hg']
  rfl

theorem State.imaged_threads : (s.imaged kern gen t a p q).threads = s.threads.put t (p.clone gen q.next) := by
  unfold State.imaged State.copyImage
  dsimp only
  split <;> rfl

theorem State.imaged_kernels : (s.imaged kern gen t a p q).kernels =
    (s.updPop kern fun q => { q with next := (q.next + 1) % 2 ^ 48 }).kernels := by
  unfold State.imaged State.copyImage
  dsimp only
  split <;> rfl

theorem State.pastResample_keeps : (s.pastResample t).gangs = s.gangs ∧ (s.pastResample t).kernels = s.kernels ∧
    ∀ u, u ≠ t → (s.pastResample t).threads.find u = s.threads.find u := by
  obtain ⟨f, cs, -, hs⟩ := s.advance_shape t
  unfold State.pastResample
  rw [hs]
  exact ⟨rfl, rfl, fun u hu => by rw [State.find_updThread_ne hu]; exact State.find_updThread_ne hu s f⟩

variable {s kern gen t a p q}

/-- The stored word of a register whatever else the state holds. -/
theorem State.storedWord_congr {y : State} (h : y.gangs = s.gangs) (u i : Nat) : y.storedWord u i = s.storedWord u i := by
  rw [State.storedWord, State.storedWord, h]

/-- R356: the registers of a clone, and of everyone else, before its copy index is written. -/
theorem State.imaged_storedWord (hg : s.gangs.find (gidOf a.t) = some g) (hh : s.gangs.find (gidOf t) = some h) (u i : Nat) :
    (s.imaged kern gen t a p q).storedWord u i = if u = t ∧ 0 < i ∧ i ≤ g.nregs then s.storedWord a.t i else s.storedWord u i := by
  unfold State.storedWord
  rw [State.copyImage_gangs s kern gen t a q p hg, AMap.find_upd, hg]
  by_cases hgid : gidOf u = gidOf t
  · rw [if_pos hgid, hgid, hh]
    dsimp only [Option.map_some]
    by_cases hi : i = 0
    · rw [if_pos hi, if_neg (by omega), if_pos hi]
    · rw [if_neg hi, if_neg hi, if_neg hi, word_copyLane]
      by_cases hu : u = t
      · subst hu
        by_cases hn : i - 1 < g.nregs
        · rw [if_pos ⟨hn, rfl⟩, if_pos ⟨rfl, by omega, by omega⟩]
        · rw [if_neg (by tauto), if_neg (by omega)]
      · rw [if_neg fun e => hu (thread_of_gid_lane hgid e.2), if_neg (by tauto)]
  · rw [if_neg hgid, if_neg fun e => hgid (by rw [e.1])]

/-- R356: the stack words of a clone. -/
theorem State.imaged_stack (hg : s.gangs.find (gidOf a.t) = some g) (hh : s.gangs.find (gidOf t) = some h) :
    ∃ y, (s.imaged kern gen t a p q).gangs.find (gidOf t) = some y ∧
      ∀ r, r < 32 * g.stack.pages → (y.stack.row r).word (laneOf t) = (g.stack.row r).word (laneOf a.t) := by
  rw [State.copyImage_gangs s kern gen t a q p hg, AMap.find_upd, if_pos rfl, hh]
  exact ⟨_, rfl, fun r hr => by rw [word_copyLane, if_pos ⟨hr, rfl⟩]⟩

end

/-- Settles O36: arrival by `resampleBody_arrives`, survivors by `State.done_cont`, the search by `searchOrder_ranked` and
`State.freeLane_some`, clones by `State.placeClone_eq` and what their image holds. -/
theorem resample : Obligations.Resample := by
  unfold Obligations.Resample
  refine ⟨fun s S S' t gd d a b c k n w u opnd B z m th g kk ht hg hk => ?_, fun s gen a th g ht hg => ?_,
    fun gangs p hs hp hg => ⟨mem_searchOrder hp hg, (searchOrder_ranked hs hp).2⟩,
    fun s order => ⟨fun t => State.freeLane_some, fun h g hg l hl => State.freeLane_none h hg hl⟩,
    fun s kern gen k t gangs a x q p g h hk hq hp hfree hg hh => ?_⟩
  · intro fs hrun hmem hinh hbt hloads hops hreport hrel hgs harr
    obtain ⟨c', th', hc, rfl, ht', -⟩ := hrun.start
    have hbody := resampleBody_arrives hc ht hg hk hmem hinh hbt hloads hops hreport hrel hgs harr
    rw [exec_resample]
    by_cases harrived : S'.arrived g.kern c'.t = true
    · rw [if_pos harrived] at hbody ⊢
      exact codeAny_waits hrun hbody
    · rw [if_neg harrived] at hbody ⊢
      exact codeAny_next hrun hbody
  · have hgang : ((s.updThread a.t fun th => { th with gen := gen }).acquire (coreOf a.t)).gangs.find (gidOf a.t) = some g := hg
    have hth : (((s.updThread a.t fun th => { th with gen := gen }).acquire (coreOf a.t)).writeReg a.t a.d ⟨0, .u32⟩).threads.find a.t =
        some { th with gen := gen } := by
      rw [State.writeReg_threads, State.acquire_threads]
      exact State.find_updThread_self ht _
    obtain ⟨y, hy, hgen, hlin, hwait, hcont⟩ := State.done_cont hth
    refine ⟨y, hy, hgen, hlin, hwait, hcont, fun hd => ?_⟩
    exact (State.done_storedWord ..).trans (State.storedWord_writeReg_same hgang hd _)
  · have hne : a.t ≠ t := fun e => by
      have hnone := (State.freeLane_some hfree).1
      rw [← e, hp] at hnone
      cases hnone
    obtain ⟨hgs, hks, hothers⟩ := State.pastResample_keeps (s.imaged kern gen t a p q) t
    have hput : (s.imaged kern gen t a p q).threads.find t = some (p.clone gen q.next) := by
      rw [State.imaged_threads, AMap.find_put_self]
    have hclone : ((s.imaged kern gen t a p q).pastResample t).threads.find t = some (p.placed gen q.next) :=
      State.find_updThread_self (State.find_advance hput) _
    have himage := State.imaged_storedWord (kern := kern) (gen := gen) (p := p) (q := q) hg hh
    obtain ⟨y, hy, hstack⟩ := State.imaged_stack (kern := kern) (gen := gen) (p := p) (q := q) hg hh
    rw [State.placeClone_eq hk hq hp hfree]
    have hpast (u i : Nat) := State.storedWord_congr (s := s.imaged kern gen t a p q) hgs u i
    have hwrote (u i : Nat) (hui : ¬(u = t ∧ i = a.d)) : ((((s.imaged kern gen t a p q).pastResample t).writeReg t a.d
        ⟨BitVec.ofNat 32 k, .u32⟩).acquire (coreOf t)).storedWord u i = (s.imaged kern gen t a p q).storedWord u i :=
      (State.storedWord_writeReg hui).trans (hpast u i)
    obtain ⟨r, hr⟩ := State.writeReg_gang ((s.imaged kern gen t a p q).pastResample t) t a.d (gidOf t) ⟨BitVec.ofNat 32 k, .u32⟩
      (by rw [hgs]; exact hy)
    obtain ⟨hsame, hgen, hlin, hpar, hbt, hloads, hpc, hact, hrep, hinst, hgroup, hwait⟩ := p.placed_image gen q.next
    refine ⟨⟨p.placed gen q.next, p.advanced, ?_, State.find_advance hp, hsame, hgen, hlin, hpar, hbt, hloads, hpc, hact, hrep, hinst, hgroup,
      hwait⟩, fun i hpos hi hid => ?_, fun hd => ?_, ⟨_, hr, hstack⟩, fun u hu => ?_, fun u i hu => ?_,
      ⟨{ x with pop := some { q with next := (q.next + 1) % 2 ^ 48 } }, _, ?_, rfl, rfl⟩⟩
    · rw [State.acquire_threads, State.writeReg_threads, hclone]
    · rw [hwrote t i fun e => hid e.2, himage, if_pos ⟨rfl, hpos, hi⟩]
    · exact State.storedWord_writeReg_same (by rw [hgs]; exact hy) hd _
    · rw [State.acquire_threads, State.writeReg_threads, hothers u hu, State.imaged_threads, AMap.find_put_ne hu]
    · rw [hwrote u i fun e => hu e.1, himage, if_neg fun e => hu e.1]
    · have hkept : ((((s.imaged kern gen t a p q).pastResample t).writeReg t a.d ⟨BitVec.ofNat 32 k, .u32⟩).acquire (coreOf t)).kernels =
          (s.updPop kern fun q => { q with next := (q.next + 1) % 2 ^ 48 }).kernels :=
        (State.writeReg_kernels ..).trans (hks.trans (State.imaged_kernels ..))
      rw [hkept, State.updPop, State.updKernel]
      simp [hk, hq]

end Sys2Proof.Machine

end

section
/-! LAWS. What a write of a management register leaves (20_bringup R420): the tag bit and its copies, BAR4's base, a breakpoint's word and a
multicast window's (13_object R284, 18_link R390, R394, 19_health R408). -/

namespace Sys2Proof.Machine

open Sys2Proof

theorem whenUp_ready {s : State} (hb : s.boot = 10) (f : State → State) : whenUp f s = .next (f s) := by simp [whenUp, hb]

/-! ## Tag bits (R283, R284) -/

/-- In a strictly rising list a number stands once, so the set without it does not have it. -/
theorem setHas_of_lt {k : Nat} {m : List Nat} (h : ∀ j ∈ m, k < j) : setHas k m = false := by
  induction m with
  | nil => rfl
  | cons j m ih =>
    have hj : k < j := h j List.mem_cons_self
    rw [setHas, if_neg (by omega)]
    exact ih fun i hi => h i (List.mem_cons_of_mem _ hi)

theorem setHas_setDel_self (k : Nat) {m : List Nat} (h : m.Pairwise (· < ·)) : setHas k (setDel k m) = false := by
  induction m with
  | nil => rfl
  | cons j m ih =>
    obtain ⟨hj, hm⟩ := List.pairwise_cons.mp h
    by_cases e : j = k
    · rw [setDel, if_pos e]
      exact setHas_of_lt fun i hi => e ▸ hj i hi
    · rw [setDel, if_neg e, setHas, if_neg e]
      exact ih hm

theorem State.tagAt_setTagAt_self {s : State} (h : s.tagBits.Pairwise (· < ·)) (pa : Nat) (b : Bool) : (s.setTagAt pa b).tagAt pa = b := by
  cases b with
  | true => exact setHas_setAdd_self _ _
  | false => exact setHas_setDel_self _ h

theorem State.tagAt_setTagAt_ne (s : State) {pa a : Nat} (b : Bool) (h : a / 8 ≠ pa / 8) : (s.setTagAt pa b).tagAt a = s.tagAt a := by
  cases b with
  | true => exact setHas_setAdd_ne h _
  | false => exact setHas_setDel_ne h _

/-- A core that holds a copy of the line takes the word's new tag bit. -/
theorem State.tellCopies_copy {s : State} {k : Nat} {y : Core} (pa : Nat) (b : Bool) (hk : s.cores.find k = some y)
    (hc : (y.cache.find (pa / 128)).isSome = true) :
    (s.tellCopies pa b).cores.find k = some { y with tagwr := y.tagwr.put (pa / 8) (b2n b) } := by
  simp [State.tellCopies, AMap.find_mapv, hk, hc]

theorem State.writeTagwr_bad {s : State} {w : Nat} (h : ¬(bits w 62 56 = 0 ∧ bits w 2 0 = 0 ∧ s.backed (bits w 55 3 * 8) 8 = true)) :
    s.writeTagwr w = s := by
  refine if_pos ?_
  by_cases h1 : bits w 62 56 = 0 <;> by_cases h2 : bits w 2 0 = 0 <;> simp_all

theorem State.writeTagwr_good {s : State} {w : Nat} (h1 : bits w 62 56 = 0) (h2 : bits w 2 0 = 0)
    (h3 : s.backed (bits w 55 3 * 8) 8 = true) :
    s.writeTagwr w = (s.setTagAt (bits w 55 3 * 8) (bit w 63)).tellCopies (bits w 55 3 * 8) (bit w 63) :=
  if_neg (by simp [h1, h2, h3])

/-! ## LMBASE (R394) -/

theorem State.writeLmbase_bad {s : State} {w : Nat} (h : bits w 63 52 ≠ 0) : s.writeLmbase w = s := if_pos (by simpa using h)

theorem State.writeLmbase_good {s : State} {w : Nat} (h : bits w 63 52 = 0) :
    s.writeLmbase w = { s with lmbase := bits w 51 30 * 2 ^ 30, badacc := if bits w 29 16 == 0 then 0 else s.badacc } :=
  if_neg (by simpa using h)

/-! ## A word of a wide register (R390, R408) -/

theorem bits_setWord64_same (x n w : Nat) : bits (setWord64 x n w) (64 * n + 63) (64 * n) = w % 2 ^ 64 := by
  rw [setWord64, bits_setBits_same x w (by omega), show 64 * n + 63 + 1 - 64 * n = 64 by omega]

theorem bits_setWord64_apart (x w : Nat) {n hi lo : Nat} (h : hi < 64 * n ∨ 64 * n + 63 < lo) : bits (setWord64 x n w) hi lo = bits x hi lo :=
  bits_setBits_apart x w (by omega) h

/-- All but the top bit of a word that was written. -/
theorem bits_setWord64_low (x n w : Nat) : bits (setWord64 x n w) (64 * n + 62) (64 * n) = bits w 62 0 := by
  refine Nat.eq_of_testBit_eq fun i => ?_
  rw [testBit_bits, testBit_bits, setWord64, testBit_replaced x w _ (by omega)]
  by_cases hi : i < 63
  · rw [if_pos (by omega)]
    simp [hi]; omega
  · simp [hi]; omega

/-- Bit 63 alone stands above the first word's other bits and below the second word. -/
theorem bits_setBit63 (x : Nat) (b : Bool) {hi lo : Nat} (h : hi < 63 ∨ 63 < lo) : bits (setBit x 63 b) hi lo = bits x hi lo :=
  bits_setBits_apart x _ (by omega) h

theorem bit_setBit63_false (x : Nat) : bit (setBit x 63 false) 63 = false := by
  rw [bit_eq_testBit, setBit, testBit_replaced x _ _ (by omega)]
  simp [b2n]

/-! ## Windows (R390) -/

/-- A window as it stands after a write of one of its words. -/
def State.newWindow (s : State) (n w : Nat) : Nat :=
  let x := setWord64 ((s.mcwins.find (n / 2)).getD 0) (n % 2) w
  if bit x 63 && !s.windowFine (n / 2) x then setBit x 63 false else x

theorem State.writeWindow_eq (s : State) (n w : Nat) : s.writeWindow n w = { s with mcwins := s.mcwins.put (n / 2) (s.newWindow n w) } := rfl

theorem State.newWindow_low (s : State) (n w : Nat) :
    bits (s.newWindow n w) (64 * (n % 2) + 62) (64 * (n % 2)) = bits w 62 0 := by
  simp only [State.newWindow]
  split
  · rw [bits_setBit63 _ _ (by omega), bits_setWord64_low]
  · exact bits_setWord64_low _ _ _

/-- A window that is enabled after a write may be. -/
theorem State.newWindow_fine {s : State} {n w : Nat} (h : bit (s.newWindow n w) 63 = true) : s.windowFine (n / 2) (s.newWindow n w) = true := by
  simp only [State.newWindow] at h ⊢
  split at h
  · rw [bit_setBit63_false] at h; contradiction
  · next hf =>
    rw [if_neg hf]
    simpa [h] using hf

theorem State.windowFine_apart {s : State} {i j w y : Nat} (h : s.windowFine i w = true) (hne : j ≠ i) (hj : s.mcwins.find j = some y)
    (hy : bit y 63 = true) : mcBase y + mcLen y ≤ mcBase w ∨ mcBase w + mcLen w ≤ mcBase y := by
  simp only [State.windowFine, Bool.and_eq_true, List.all_eq_true] at h
  simpa [hne, hy] using h.2 (j, y) (AMap.mem_of_find hj)

theorem State.windowFine_fields {s : State} {i w : Nat} (h : s.windowFine i w = true) :
    bits w 62 52 = 0 ∧ bits w 20 9 = 0 ∧ s.backed (mcBase w) (mcLen w) = true := by
  simp only [State.windowFine, Bool.and_eq_true, beq_iff_eq] at h
  obtain ⟨⟨⟨h1, h2⟩, h3⟩, -⟩ := h
  exact ⟨h1, h2, h3⟩

/-! ## Breakpoints (R408) -/

theorem State.ctx_writeBrk_ne (s : State) {c d : Nat} (n w : Nat) (h : d ≠ c) : (s.writeBrk c n w).ctx d = s.ctx d := by
  rw [State.writeBrk, State.updCtx, State.ctx_setCtx, if_neg h]

theorem State.ctx_writeBrk_self (s : State) (c n w : Nat) :
    (s.writeBrk c n w).ctx c
      = { s.ctx c with brks := (s.ctx c).brks.put (n / 2) (setWord64 (((s.ctx c).brks.find (n / 2)).getD 0) (n % 2) w) } := by
  rw [State.writeBrk, State.updCtx, State.ctx_setCtx, if_pos rfl]

end Sys2Proof.Machine
end

section
/-! LAWS. Ports and routes (18_link R385, R388, R392), the debugger (19_health R411), and the registers of the block (20_bringup R420). -/

namespace Sys2Proof.Machine

open Sys2Proof

/-! ## Ports and routes -/

theorem State.port_setPort_self (s : State) (p : Nat) (x : Port) : (s.setPort p x).port p = x := by
  simp [State.port, State.setPort]

theorem State.addRefused_outq (s : State) (c : Nat) : (s.addRefused c).outq = s.outq := rfl

theorem State.countDropped_outq (s : State) (fs : List Flit) : (s.countDropped fs).outq = s.outq := by
  rw [State.countDropped]
  generalize fs.filter s.isMcWrite = gs
  induction gs generalizing s with
  | nil => rfl
  | cons f gs ih => exact ih (s.addRefused f.ctx)

theorem State.portLeaves_outq (s : State) (p : Nat) (f : Port → Port) :
    (s.portLeaves p f).outq = ((s.port p).unack.filter fun (g : Flit) => g.vl != 3 && !s.lostFlit g) ++ s.outq := by
  rw [State.portLeaves]
  refine (State.countDropped_outq _ _).trans ?_
  simp only [Port.unsent, List.filter_filter]
  exact congrArg (· ++ s.outq) (List.filter_congr fun g _ => Bool.and_comm _ _)

theorem State.portLeaves_port (s : State) (p : Nat) (f : Port → Port) :
    (s.portLeaves p f).port p = { f (s.port p) with txq := [], unack := [], ctl := [], nakd := false, repl := [], quiet := 0 } := by
  rw [State.portLeaves]
  exact State.port_setPort_self _ _ _

theorem State.writeRoute_bad {s : State} {p w : Nat} (h : ¬(bits w 63 33 = 0 ∧ bits w 31 16 = 0)) : s.writeRoute p w = s := by
  refine if_pos ?_
  by_cases h1 : bits w 63 33 = 0 <;> simp_all

theorem State.writeRoute_good {s : State} {p w : Nat} (h : bits w 63 33 = 0 ∧ bits w 31 16 = 0) :
    s.writeRoute p w =
      let x := { s with routes := s.routes.put p (w % 65536 + 2 ^ 32 * b2n (s.lostDev p && !bit w 32)) }
      if bit w 32 && !s.lostDev p then x.loseDevice p else x :=
  if_neg (by simp [h])

theorem b2n_bit (x i : Nat) : b2n (bit x i) = x / 2 ^ i % 2 := by
  simp only [bit, b2n, beq_iff_eq]
  split <;> omega

/-! ## The debugger (R411) -/

theorem State.abandon_shape (s : State) (t : Nat) : (s.abandon t).threads = s.threads ∧ (s.abandon t).mem = s.mem := by
  simp only [State.abandon]
  split <;> exact ⟨rfl, rfl⟩

/-- The predicates that the debugger writes: p0 has no bit, and the word has eight. -/
theorem bit_dbgPreds (w i : Nat) : bit (bits w 31 0 % 256 / 2 * 2) i = (decide (0 < i ∧ i < 8) && bit w i) := by
  have e : bits w 31 0 % 256 / 2 * 2 = (bits w 31 0 % 2 ^ 8) >>> 1 <<< 1 := by
    rw [Nat.shiftRight_eq_div_pow, Nat.shiftLeft_eq]
    rfl
  rw [bit_eq_testBit, bit_eq_testBit, e, Nat.testBit_shiftLeft, Nat.testBit_shiftRight, Nat.testBit_mod_two_pow, testBit_bits]
  by_cases h0 : i = 0
  · simp [h0]
  · by_cases h8 : i < 8
    · have hi : 0 < i := by omega
      have h1 : 1 + (i - 1) = i := by omega
      have h32 : i < 32 := by omega
      simp [h8, hi, h1, h32, Nat.one_le_iff_ne_zero.mpr h0]
    · rw [show 1 + (i - 1) = i by omega]
      simp [h8]

section
variable {s : State} {th : Thread} {g : Gang}

/-- DBGDAT of a halted thread, by its item. -/
def State.dbgItemRead (s : State) (th : Thread) (g : Gang) : Nat :=
  match s.dbgItem with
  | 0 => if s.dbgIndex == 0 || g.nregs < s.dbgIndex then 0 else dbgWord ((g.regs.row (s.dbgIndex - 1)).word (laneOf s.dbgThread))
  | 1 => match Special.ofNum s.dbgIndex with | some sp => s.special s.dbgThread th g sp % 2 ^ 32 | none => 0
  | 2 => th.pc
  | _ => th.preds / 2 * 2 + 1

/-- A write of DBGDAT to a halted thread, by its item. -/
def State.dbgItemWrite (s : State) (w : Nat) (th : Thread) (g : Gang) : State :=
  match s.dbgItem with
  | 0 =>
    match Tag.ofCode (bits w 35 32) with
    | some tag => if g.nregs < s.dbgIndex then s else s.writeReg s.dbgThread s.dbgIndex ⟨BitVec.ofNat 32 (bits w 31 0), tag⟩
    | none => s
  | 1 => match Special.ofNum s.dbgIndex with | some sp => s.updThread s.dbgThread fun th => th.dbgSpecial sp (bits w 31 0) | none => s
  | 2 => if th.pc == bits w 31 0 then s else s.dbgMove s.dbgThread (bits w 31 0)
  | _ => s.updThread s.dbgThread fun th => { th with preds := bits w 31 0 % 256 / 2 * 2 }

theorem State.dbgRead_halted (ht : s.threads.find s.dbgThread = some th) (hg : s.gangs.find (gidOf s.dbgThread) = some g)
    (hh : (s.ctx g.ctx).st = .halted) : s.dbgRead = s.dbgItemRead th g := by
  simp only [State.dbgRead, ht, hg, hh]
  rfl

theorem State.dbgWrite_halted (w : Nat) (ht : s.threads.find s.dbgThread = some th) (hg : s.gangs.find (gidOf s.dbgThread) = some g)
    (hh : (s.ctx g.ctx).st = .halted) : s.dbgWrite w = s.dbgItemWrite w th g := by
  simp only [State.dbgWrite, ht, hg, hh]
  rfl

theorem State.storedWord_dbg (hg : s.gangs.find (gidOf s.dbgThread) = some g) (h0 : s.dbgIndex ≠ 0) :
    s.storedWord s.dbgThread s.dbgIndex = (g.regs.row (s.dbgIndex - 1)).word (laneOf s.dbgThread) := by
  simp [State.storedWord, hg, h0]

theorem State.dbgMove_thread (s : State) (w : Nat) (ht : s.threads.find s.dbgThread = some th) :
    (s.dbgMove s.dbgThread w).threads.find s.dbgThread = some { th.clean with pc := w, res := .here, clause := none, passBrk := false } := by
  obtain ⟨hth, -⟩ := s.abandon_shape s.dbgThread
  rw [State.dbgMove]
  exact State.find_updThread_self (by rw [hth]; exact ht) _

theorem State.dbgUnhalted (h : ∀ g, s.gangs.find (gidOf s.dbgThread) = some g → (s.ctx g.ctx).st ≠ .halted) (w : Nat) :
    s.dbgRead = 0 ∧ s.dbgWrite w = s := by
  simp only [State.dbgRead, State.dbgWrite]
  cases s.threads.find s.dbgThread with
  | none => exact ⟨rfl, rfl⟩
  | some th =>
    cases hg : s.gangs.find (gidOf s.dbgThread) with
    | none => exact ⟨rfl, rfl⟩
    | some g => simp [h g hg]

end

/-! ## The block (R420) -/

theorem State.writeBlock_apart (s : State) {off size : Nat} (w : Nat) (h : off % 8 ≠ 0 ∨ size ≠ 8) : s.writeBlock off size w = s :=
  if_pos (by simpa [or_comm] using h)

theorem State.writeBlock_above (s : State) {off : Nat} (size w : Nat) (h : 0x28000 ≤ off) : s.writeBlock off size w = s := by
  by_cases ha : off % 8 ≠ 0 ∨ size ≠ 8
  · exact s.writeBlock_apart w ha
  · simp only [State.writeBlock, beq_iff_eq, Bool.and_eq_true, decide_eq_true_eq, Bool.or_eq_true, bne_iff_ne]
    iterate 18 rw [if_neg (by omega)]

theorem State.writeBlock_route (s : State) {p : Nat} (w : Nat) (h : p < 64) : s.writeBlock (0x8100 + 8 * p) 8 w = s.writeRoute p w := by
  simp only [State.writeBlock, beq_iff_eq, Bool.and_eq_true, decide_eq_true_eq, Bool.or_eq_true, bne_iff_ne]
  iterate 14 rw [if_neg (by omega)]
  rw [if_pos (by omega), show (0x8100 + 8 * p - 0x8100) / 8 = p by omega]

theorem State.writeBlock_window (s : State) {n : Nat} (w : Nat) (h : n < 32) : s.writeBlock (0x8400 + 8 * n) 8 w = s.writeWindow n w := by
  simp only [State.writeBlock, beq_iff_eq, Bool.and_eq_true, decide_eq_true_eq, Bool.or_eq_true, bne_iff_ne]
  iterate 15 rw [if_neg (by omega)]
  rw [if_pos (by omega), show (0x8400 + 8 * n - 0x8400) / 8 = n by omega]

theorem State.writeBlock_brk (s : State) {c n : Nat} (w : Nat) (hc : c < 256) (h : n < 16) :
    s.writeBlock (0x20000 + 128 * c + 8 * n) 8 w = s.writeBrk c n w := by
  simp only [State.writeBlock, beq_iff_eq, Bool.and_eq_true, decide_eq_true_eq, Bool.or_eq_true, bne_iff_ne]
  iterate 17 rw [if_neg (by omega)]
  rw [if_pos (by omega), show (0x20000 + 128 * c + 8 * n - 0x20000) / 128 = c by omega,
    show (0x20000 + 128 * c + 8 * n) % 128 / 8 = n by omega]

/-- The fields of a command word. -/
theorem bits_cmdWord {k c : Nat} (hk : k < 16) (hc : c < 256) :
    bits (4096 * k + c) 7 0 = c ∧ bits (4096 * k + c) 63 16 = 0 ∧ bits (4096 * k + c) 11 8 = 0 ∧ bits (4096 * k + c) 15 12 = k := by
  simp only [bits]
  omega

theorem command_ready {s : State} {i : Instr} {c : Nat} {f : State → State} (hb : s.boot = 10) (hc : c < 256) (hr : s.cxstsRes ≠ 15) :
    command i c f s = .next (f s) := by
  rw [command, if_neg (by simp [hb, hc]), if_neg (by simpa using hr)]

end Sys2Proof.Machine
end

section
/-! LAWS. Management registers as steps (20_bringup R420). -/

namespace Sys2Proof.Machine

open Sys2Proof

section
variable {s : State} (hb : s.boot = 10)
include hb

/-! ## Each register's write as the state that it leaves -/

theorem exec_tagwrWrite (w : Nat) : exec (.tagwrWrite w) s = .next (s.writeTagwr w) := whenUp_ready hb (·.writeTagwr w)
theorem exec_lmbaseWrite (w : Nat) : exec (.lmbaseWrite w) s = .next (s.writeLmbase w) := whenUp_ready hb (·.writeLmbase w)
theorem exec_breakpointSet (c n w : Nat) : exec (.breakpointSet c n w) s = .next (s.writeBrk c n w) := whenUp_ready hb (·.writeBrk c n w)
theorem exec_mcwinWrite (n w : Nat) : exec (.mcwinWrite n w) s = .next (s.writeWindow n w) := whenUp_ready hb (·.writeWindow n w)
theorem exec_portEnable (p pmd : Nat) : exec (.portEnable p pmd) s = .next (s.enablePort p (pmd % 16)) :=
  whenUp_ready hb (·.enablePort p (pmd % 16))
theorem exec_portDisable (p : Nat) : exec (.portDisable p) s = .next (s.disablePort p) := whenUp_ready hb (·.disablePort p)
theorem exec_routeWrite (p w : Nat) : exec (.routeWrite p w) s = .next (s.writeRoute p w) := whenUp_ready hb (·.writeRoute p w)
theorem exec_debugRead : exec .debugRead s = .next { s with dbgdat := s.dbgRead } :=
  whenUp_ready hb fun s => { s with dbgdat := s.dbgRead }
theorem exec_debugWrite (w : Nat) : exec (.debugWrite w) s = .next (s.dbgWrite w) := whenUp_ready hb (·.dbgWrite w)
theorem exec_registerWrite (off size w : Nat) : exec (.registerWrite ⟨off, size⟩ w) s = .next (s.writeBlock off size w) :=
  whenUp_ready hb (·.writeBlock off size w)

/-! ## What each write leaves -/

theorem tagwrWrite_good (w : Nat)
    (h : bits w 62 56 = 0 ∧ bits w 2 0 = 0 ∧ s.backed (bits w 55 3 * 8) 8 = true) (hp : s.tagBits.Pairwise (· < ·)) :
    ∃ S, exec (.tagwrWrite w) s = .next S ∧ S.mem = s.mem ∧ S.tagAt (bits w 55 3 * 8) = bit w 63 ∧
      (∀ k y, s.cores.find k = some y → (y.cache.find (bits w 55 3 * 8 / 128)).isSome = true →
        ∃ z, S.cores.find k = some z ∧ z.cache = y.cache ∧ z.tagwr.find (bits w 55 3 * 8 / 8) = some (b2n (bit w 63))) ∧
      ∀ a, a / 8 ≠ bits w 55 3 * 8 / 8 → S.tagAt a = s.tagAt a := by
  obtain ⟨h1, h2, h3⟩ := h
  refine ⟨_, (exec_tagwrWrite hb w).trans (congrArg _ (State.writeTagwr_good h1 h2 h3)), rfl, State.tagAt_setTagAt_self hp _ _, ?_,
    fun a ha => s.tagAt_setTagAt_ne _ ha⟩
  intro k y hk hc
  exact ⟨_, State.tellCopies_copy _ _ hk hc, rfl, AMap.find_put_self _ _ _⟩

theorem lmbaseWrite_good (w : Nat) (h : bits w 63 52 = 0) :
    ∃ S, exec (.lmbaseWrite w) s = .next S ∧ S.lmbase = w / 2 ^ 30 % 2 ^ 22 * 2 ^ 30 ∧
      (bits w 29 16 = 0 → S.badacc = 0) ∧ (bits w 29 16 ≠ 0 → S.badacc = s.badacc) ∧ S.mem = s.mem :=
  ⟨_, (exec_lmbaseWrite hb w).trans (congrArg _ (State.writeLmbase_good h)), rfl, fun h => if_pos (beq_iff_eq.mpr h),
    fun h => if_neg (mt beq_iff_eq.mp h), rfl⟩

theorem breakpointSet_word (c n w : Nat) (hw : w < 2 ^ 64) :
    ∃ S, exec (.breakpointSet c n w) s = .next S ∧
      let old := ((s.ctx c).brks.find (n / 2)).getD 0
      let new := ((S.ctx c).brks.find (n / 2)).getD 0
      bits new (64 * (n % 2) + 63) (64 * (n % 2)) = w ∧
      bits new (64 * (1 - n % 2) + 63) (64 * (1 - n % 2)) = bits old (64 * (1 - n % 2) + 63) (64 * (1 - n % 2)) ∧
      (∀ k, k ≠ n / 2 → (S.ctx c).brks.find k = (s.ctx c).brks.find k) ∧ (S.ctx c).brkNow = (s.ctx c).brkNow ∧
      (∀ m, 0 < m → ((S.ctx c).pass m).brkNow = (S.ctx c).brks) ∧ ∀ d, d ≠ c → S.ctx d = s.ctx d := by
  refine ⟨_, exec_breakpointSet hb c n w, ?_⟩
  rw [State.ctx_writeBrk_self]
  simp only [AMap.find_put_self, Option.getD_some]
  refine ⟨?_, bits_setWord64_apart _ _ (by omega), fun k hk => AMap.find_put_ne hk _ _, trivial, ?_, fun d hd => s.ctx_writeBrk_ne n w hd⟩
  · rw [bits_setWord64_same, Nat.mod_eq_of_lt hw]
  · intro m hm
    have : (m == 0) = false := by simp; omega
    simp [Ctx.pass, this]

theorem mcwinWrite_window (n w : Nat) :
    ∃ S x, exec (.mcwinWrite n w) s = .next S ∧ S.mcwins.find (n / 2) = some x ∧
      bits x (64 * (n % 2) + 62) (64 * (n % 2)) = bits w 62 0 ∧
      (bit x 63 = true → bits x 62 52 = 0 ∧ bits x 20 9 = 0 ∧ s.backed (mcBase x) (mcLen x) = true ∧
        ∀ i y, i ≠ n / 2 → S.mcwins.find i = some y → bit y 63 = true → mcBase y + mcLen y ≤ mcBase x ∨ mcBase x + mcLen x ≤ mcBase y) ∧
      (∀ i, i ≠ n / 2 → S.mcwins.find i = s.mcwins.find i) ∧ S.mem = s.mem := by
  refine ⟨_, s.newWindow n w, (exec_mcwinWrite hb n w).trans (congrArg _ (s.writeWindow_eq n w)), AMap.find_put_self _ _ _, s.newWindow_low n w, ?_,
    fun i hi => AMap.find_put_ne hi _ _, rfl⟩
  intro hx
  have hf := State.newWindow_fine hx
  obtain ⟨h1, h2, h3⟩ := State.windowFine_fields hf
  refine ⟨h1, h2, h3, fun i y hi hy hv => State.windowFine_apart hf hi ?_ hv⟩
  exact (AMap.find_put_ne hi _ _).symm.trans hy

theorem portEnable_disabled (p : Nat) {pmd : Nat} (hm : pmd < 4) (hd : (s.port p).st = .disabled) :
    exec (.portEnable p pmd) s = .next (s.setPort p ({ s.port p with en := true, pmd := pmd }.train s.refCycle)) := by
  refine (exec_portEnable hb p pmd).trans (congrArg _ ?_)
  have h16 : pmd % 16 = pmd := Nat.mod_eq_of_lt (by omega)
  rw [State.enablePort, h16, if_neg (by omega), if_pos (by simpa using hd)]

theorem portDisable_enabled (p : Nat) (hd : (s.port p).st ≠ .disabled) :
    ∃ S, exec (.portDisable p) s = .next S ∧ (S.port p).st = .disabled ∧ (S.port p).en = false ∧
      (S.port p).unack = [] ∧ S.outq = ((s.port p).unack.filter fun (f : Flit) => f.vl != 3 && !s.lostFlit f) ++ s.outq := by
  have e : s.disablePort p = s.portLeaves p fun x => { x with en := false, st := .disabled } := if_neg (by simpa using hd)
  refine ⟨_, (exec_portDisable hb p).trans (congrArg _ e), ?_, ?_, ?_, s.portLeaves_outq p _⟩ <;> rw [State.portLeaves_port]

theorem routeWrite_good (p : Nat) {w : Nat} (h : bits w 63 33 = 0 ∧ bits w 31 16 = 0) :
    exec (.routeWrite p w) s = .next (
      let x := { s with routes := s.routes.put p (w % 65536 + 2 ^ 32 * b2n (s.lostDev p && !bit w 32)) }
      if bit w 32 && !s.lostDev p then x.loseDevice p else x) :=
  (exec_routeWrite hb p w).trans (congrArg _ (State.writeRoute_good h))

/-! ## The debugger -/

section
variable {th : Thread} {g : Gang} (ht : s.threads.find s.dbgThread = some th) (hg : s.gangs.find (gidOf s.dbgThread) = some g)
  (hh : (s.ctx g.ctx).st = .halted)
include ht hg hh

theorem debugRead_halted : exec .debugRead s = .next { s with dbgdat := s.dbgItemRead th g } :=
  (exec_debugRead hb).trans (by rw [State.dbgRead_halted ht hg hh])

theorem debugWrite_halted (w : Nat) : exec (.debugWrite w) s = .next (s.dbgItemWrite w th g) :=
  (exec_debugWrite hb w).trans (by rw [State.dbgWrite_halted w ht hg hh])

theorem debug_register (w : Nat) (h0 : s.dbgItem = 0) (hi : s.dbgIndex ≠ 0) (hn : s.dbgIndex ≤ g.nregs) :
    exec .debugRead s = .next { s with
      dbgdat := (s.storedWord s.dbgThread s.dbgIndex).bits.toNat + 2 ^ 32 * (s.storedWord s.dbgThread s.dbgIndex).tag.code } ∧
    ∀ tag, Tag.ofCode (bits w 35 32) = some tag →
      exec (.debugWrite w) s = .next (s.writeReg s.dbgThread s.dbgIndex ⟨BitVec.ofNat 32 (bits w 31 0), tag⟩) := by
  refine ⟨?_, fun tag htag => ?_⟩
  · rw [debugRead_halted hb ht hg hh, State.dbgItemRead, h0, State.storedWord_dbg hg hi]
    simp [hi, Nat.not_lt.mpr hn, dbgWord]
  · rw [debugWrite_halted hb ht hg hh, State.dbgItemWrite, h0, htag]
    simp [Nat.not_lt.mpr hn]

theorem debug_special (w : Nat) (h1 : s.dbgItem = 1) :
    (∀ sp, Special.ofNum s.dbgIndex = some sp →
      exec .debugRead s = .next { s with dbgdat := s.special s.dbgThread th g sp % 2 ^ 32 } ∧
      exec (.debugWrite w) s = .next (s.updThread s.dbgThread fun y => y.dbgSpecial sp (bits w 31 0))) ∧
    (Special.ofNum s.dbgIndex = none → exec (.debugWrite w) s = .next s) := by
  rw [debugRead_halted hb ht hg hh, debugWrite_halted hb ht hg hh, State.dbgItemRead, State.dbgItemWrite, h1]
  exact ⟨fun sp hsp => by simp only [hsp, and_self], fun hsp => by simp only [hsp]⟩

theorem debug_pc (w : Nat) (h2 : s.dbgItem = 2) :
    exec .debugRead s = .next { s with dbgdat := th.pc } ∧
    (bits w 31 0 = th.pc → exec (.debugWrite w) s = .next s) ∧
    (bits w 31 0 ≠ th.pc → ∃ S y, exec (.debugWrite w) s = .next S ∧ S.threads.find s.dbgThread = some y ∧ S.mem = s.mem ∧
      y.pc = bits w 31 0 ∧ y.passBrk = false ∧ y.res = .here ∧ y.clause = none ∧ y.wait = none ∧ y.preds = th.preds ∧ y.rptAct = th.rptAct ∧
      y.rptRep = th.rptRep ∧ y.rptInst = th.rptInst) := by
  rw [debugRead_halted hb ht hg hh, debugWrite_halted hb ht hg hh, State.dbgItemRead, State.dbgItemWrite, h2]
  refine ⟨rfl, fun e => by simp [e], fun e => ⟨s.dbgMove s.dbgThread (bits w 31 0), _, ?_, s.dbgMove_thread _ ht, ?_, rfl, rfl, rfl, rfl, rfl,
    rfl, rfl, rfl, rfl⟩⟩
  · exact congrArg _ (if_neg (by simpa using Ne.symm e))
  · exact (s.abandon_shape _).2

theorem debug_preds (w : Nat) (h3 : s.dbgItem = 3) :
    exec .debugRead s = .next { s with dbgdat := th.preds / 2 * 2 + 1 } ∧
    ∃ S y, exec (.debugWrite w) s = .next S ∧ S.threads.find s.dbgThread = some y ∧
      ∀ i, bit y.preds i = (decide (0 < i ∧ i < 8) && bit w i) := by
  rw [debugRead_halted hb ht hg hh, debugWrite_halted hb ht hg hh, State.dbgItemRead, State.dbgItemWrite, h3]
  exact ⟨rfl, _, _, rfl, State.find_updThread_self ht _, fun i => bit_dbgPreds w i⟩

end

/-! ## The block -/

theorem exec_define {c : Nat} (hc : c < 256) (hr : s.cxstsRes ≠ 15) : exec (.define c) s = .next (s.define c) :=
  command_ready (f := (·.define c)) hb hc hr
theorem exec_halt {c : Nat} (hc : c < 256) (hr : s.cxstsRes ≠ 15) : exec (.halt c) s = .next (s.halt c) :=
  command_ready (f := (·.halt c)) hb hc hr
theorem exec_kill {c : Nat} (hc : c < 256) (hr : s.cxstsRes ≠ 15) : exec (.kill c) s = .next (s.kill c) :=
  command_ready (f := (·.kill c)) hb hc hr

theorem registerWrite_commands {c : Nat} (hc : c < 256) (hr : s.cxstsRes ≠ 15) :
    exec (.registerWrite ⟨0, 8⟩ (4096 * 1 + c)) s = exec (.define c) s ∧
    exec (.registerWrite ⟨0, 8⟩ (4096 * 3 + c)) s = exec (.halt c) s ∧
    exec (.registerWrite ⟨0, 8⟩ (4096 * 6 + c)) s = exec (.kill c) s := by
  rw [exec_define hb hc hr, exec_halt hb hc hr, exec_kill hb hc hr, exec_registerWrite hb, exec_registerWrite hb, exec_registerWrite hb]
  have word (k : Nat) (hk : k < 16) := bits_cmdWord hk hc
  refine ⟨?_, ?_, ?_⟩
  · obtain ⟨hn, hz, hz', ho⟩ := word 1 (by omega)
    simp [State.writeBlock, State.writeCxcmd, hn, hz, hz', ho, hr]
  · obtain ⟨hn, hz, hz', ho⟩ := word 3 (by omega)
    simp [State.writeBlock, State.writeCxcmd, hn, hz, hz', ho, hr]
  · obtain ⟨hn, hz, hz', ho⟩ := word 6 (by omega)
    simp [State.writeBlock, State.writeCxcmd, hn, hz, hz', ho, hr]

end

/-- Settles O50: each register's write is a step of its own, and the block picks it by offset. -/
theorem registerWrites : Obligations.RegisterWrites := by
  unfold Obligations.RegisterWrites
  intro s w n p pmd c off size hb
  refine ⟨⟨fun h hp => tagwrWrite_good hb w h hp, fun h => (exec_tagwrWrite hb w).trans (congrArg _ (State.writeTagwr_bad h))⟩,
    fun h => lmbaseWrite_good hb w h, fun h => (exec_lmbaseWrite hb w).trans (congrArg _ (State.writeLmbase_bad h)),
    fun _ hw => breakpointSet_word hb c n w hw, mcwinWrite_window hb n w,
    ⟨fun hm hd => portEnable_disabled hb p hm hd, fun hd => portDisable_enabled hb p hd⟩, ?_, ?_, ?_, ?_⟩
  · refine ⟨fun h hw => ?_, fun h hw hl => ?_, fun h hw hl => ?_, fun h => (exec_routeWrite hb p w).trans (congrArg _ (State.writeRoute_bad h))⟩
    · rw [routeWrite_good hb p h]
      simp [hw, State.lostDev, b2n_bit, Nat.mul_comm]
    · rw [routeWrite_good hb p h]
      simp [hw, hl, b2n]
    · rw [routeWrite_good hb p h]
      simp [hw, hl, b2n]
  · intro th g ht hg hh
    exact ⟨fun h0 hi hn => debug_register hb ht hg hh w h0 hi hn, fun h1 => debug_special hb ht hg hh w h1,
      fun h2 => debug_pc hb ht hg hh w h2, fun h3 => debug_preds hb ht hg hh w h3⟩
  · intro h
    obtain ⟨hr, hw⟩ := State.dbgUnhalted h w
    exact ⟨(exec_debugRead hb).trans (by rw [hr]), (exec_debugWrite hb w).trans (congrArg _ hw)⟩
  · simp only [exec_registerWrite hb]
    refine ⟨(exec_tagwrWrite hb w).symm, (exec_lmbaseWrite hb w).symm, fun hp => ?_, fun hc hn => ?_, fun hn => ?_, fun hc hr => ?_,
      fun h => congrArg _ (s.writeBlock_apart w h), fun h => congrArg _ (s.writeBlock_above size w h)⟩
    · rw [s.writeBlock_route w hp]; exact (exec_routeWrite hb p w).symm
    · rw [s.writeBlock_brk w hc hn]; exact (exec_breakpointSet hb c n w).symm
    · rw [s.writeBlock_window w hn]; exact (exec_mcwinWrite hb n w).symm
    · simp only [← exec_registerWrite hb]
      exact registerWrite_commands hb hc hr

end Sys2Proof.Machine
end

section
/-! LAWS. A device that is lost while the list of requests names one number twice (18_link R388). -/

namespace Sys2Proof.Machine

open Sys2Proof

/-- A posted write to a device, under the number of the first request. -/
def writeTo (dev : Nat) : RemOp :=
  { dev := dev, t := 0, kern := 0, ctx := 0, posted := true, eseq := 0, va := 0, fetch := false, slog := false, tagged := false, issue := 0,
    word := 0, more := [] }

/-- A device whose requests hold number 0 twice, for device 2 first and for device 1 then, and for which flits to device 1 have waited 10 ms. -/
def numberTwice : State := { State.reset with remops := [(0, writeTo 2), (0, writeTo 1)], waitDev := [(1, 1000000)] }

/-- Once device 1 is lost, the request to it still waits: its number took the request to device 2 away. -/
theorem numberTwice_lost : ∃ S, exec (.deviceLost 1) numberTwice = .next S ∧ S.remops = [(0, writeTo 1)] := ⟨_, rfl, by decide⟩

/-- Refutes O55: a request to a lost device still waits where the list of requests holds one number twice, of another device first:
`State.loseOp` takes the first request of that number away. `AMap.put` makes no such list from one whose numbers rise, but the statement
takes any state, and asks for no rising numbers. -/
theorem not_portsAndHost : ¬ Obligations.PortsAndHost := by
  unfold Obligations.PortsAndHost
  intro h
  obtain ⟨-, ⟨-, -, hlost⟩, -⟩ := h numberTwice 1 0 0 0 0 0 [] .swap false
  obtain ⟨⟨U, hU, hgone⟩, -, -⟩ := hlost (by decide) (by decide) (by decide)
  obtain ⟨S, hS, hleft⟩ := numberTwice_lost
  obtain rfl : S = U := Host.Outcome.next.inj (hS.symm.trans hU)
  exact hgone (0, writeTo 1) (hleft ▸ List.mem_cons_self) rfl

end Sys2Proof.Machine

end

section
/-! LAWS. A port of the link and the flits that it receives (18_link R381, R383, R384). -/

namespace Sys2Proof.Machine

open Sys2Proof

theorem AMap.mem_keep {α : Type} {p : Nat → α → Bool} {m : AMap α} {i : Nat} {x : α} : (i, x) ∈ m.keep p ↔ (i, x) ∈ m ∧ p i x = true := by
  induction m with
  | nil => simp [AMap.keep]
  | cons e m ih =>
    obtain ⟨j, y⟩ := e
    rw [AMap.keep]
    split
    · next h =>
      simp only [List.mem_cons, Prod.mk.injEq, ih]
      constructor
      · rintro (⟨rfl, rfl⟩ | ⟨hm, hp⟩)
        · exact ⟨.inl ⟨rfl, rfl⟩, h⟩
        · exact ⟨.inr hm, hp⟩
      · rintro ⟨hm, hp⟩
        exact hm.imp_right fun hm => ⟨hm, hp⟩
    · next h =>
      simp only [List.mem_cons, Prod.mk.injEq, ih]
      constructor
      · rintro ⟨hm, hp⟩
        exact ⟨.inr hm, hp⟩
      · rintro ⟨⟨rfl, rfl⟩ | hm, hp⟩
        · contradiction
        · exact ⟨hm, hp⟩

/-! ## What a port keeps for sending again (R383) -/

/-- A flit is still unacknowledged when its number is after the acknowledged one. -/
theorem Port.mem_ack_unack {x : Port} {lack : Nat} {y : Flit} :
    y ∈ (x.ack lack).unack ↔ y ∈ x.unack ∧ 2048 ≤ (lack + 4096 - y.lseq) % 4096 := by
  simp [Port.ack, lseqUpTo]

theorem Port.mem_replay_unack {x : Port} {n : Nat} {y : Flit} :
    y ∈ (x.replay n).unack ↔ y ∈ x.unack ∧ 2048 ≤ ((n + 4095) % 4096 + 4096 - y.lseq) % 4096 :=
  Port.mem_ack_unack

theorem Port.take_spec (x : Port) (f : Flit) :
    (x.take f).expL = (x.expL + 1) % 4096 ∧ (x.take f).nakd = false ∧ (f.vl < 3 → (x.take f).ctl = x.ctl ++ [creditPayload f.vl]) ∧
      ∀ y, y ∈ (x.take f).unack ↔ y ∈ x.unack ∧ 2048 ≤ (f.lack + 4096 - y.lseq) % 4096 :=
  ⟨rfl, rfl, fun h => if_pos h, fun _ => Port.mem_ack_unack⟩

theorem Port.discard_spec (x : Port) :
    x.discard.expL = x.expL ∧ x.discard.nakd = true ∧ x.discard.ctl = if x.nakd then x.ctl else x.ctl ++ [1 + 2 ^ 16 * x.expL] := by
  rw [Port.discard]
  split
  · next h => exact ⟨rfl, h, rfl⟩
  · exact ⟨rfl, rfl, rfl⟩

/-! ## A flit that arrives (R383, R418) -/

section
variable {s : State} {p : Nat} {f : Flit} {ty : Nat} {here : Bool} (hup : s.portUp p = true) (hty : f.ty = ty)
  (hdst : here = true → f.dst = s.devnum)
include hup hty hdst

theorem inbound_arrives (g : State → State) :
    inbound p f ty here g s =
      if f.lseq != (s.port p).expL then .next (s.setPort p (s.port p).discard)
      else .next (if s.takes ty then g (s.setPort p ((s.port p).take f)) else s.setPort p ((s.port p).take f)) := by
  have hnot : (!s.portUp p || f.ty != ty || (here && f.dst != s.devnum)) = false := by
    cases here <;> simp_all
  exact if_neg (by simp [hnot])

/-- A flit out of place is discarded. -/
theorem inbound_away (g : State → State) (h : f.lseq ≠ (s.port p).expL) : inbound p f ty here g s = .next (s.setPort p (s.port p).discard) := by
  rw [inbound_arrives hup hty hdst, if_pos (by simpa using h)]

/-- A flit in its place of a type that the device takes. -/
theorem inbound_taken (g : State → State) (h : f.lseq = (s.port p).expL) (ht : s.takes ty = true) :
    inbound p f ty here g s = .next (g (s.setPort p ((s.port p).take f))) := by
  rw [inbound_arrives hup hty hdst, if_neg (by simp [h]), if_pos ht]

/-- A flit in its place of a type that the device does not take in recovery: only the port notes it. -/
theorem inbound_idle (g : State → State) (h : f.lseq = (s.port p).expL) (ht : s.takes ty = false) :
    inbound p f ty here g s = .next (s.setPort p ((s.port p).take f)) := by
  rw [inbound_arrives hup hty hdst, if_neg (by simp [h]), if_neg (by simp [ht])]

end

/-! ## The flit steps as arrivals -/

/-- The requests of a peer, with their types. -/
def requestsOf (p : Nat) (f : Flit) : List (Instr × Nat) := [(.flitRead p f, 1), (.flitWrite p f, 2), (.flitAtomic p f, 3), (.multicastWrite p f, 6)]

/-- The other flits for this device but for management frames. -/
def othersOf (p : Nat) (f : Flit) : List (Instr × Nat) := [(.flitResponse p f, 4), (.launchFrame p f, 5), (.endToEndAcknowledgement p f, 9)]

theorem exec_request {p : Nat} {f : Flit} {i : Instr} {ty : Nat} (h : (i, ty) ∈ requestsOf p f) (s : State) :
    exec i s = inbound p f ty true (·.inOrder f) s := by
  simp only [requestsOf, List.mem_cons, Prod.mk.injEq, List.not_mem_nil, or_false] at h
  obtain ⟨rfl, rfl⟩ | ⟨rfl, rfl⟩ | ⟨rfl, rfl⟩ | ⟨rfl, rfl⟩ := h <;> rfl

theorem exec_other {p : Nat} {f : Flit} {i : Instr} {ty : Nat} (h : (i, ty) ∈ othersOf p f) :
    ∃ g : State → State, ∀ s, exec i s = inbound p f ty true g s := by
  simp only [othersOf, List.mem_cons, Prod.mk.injEq, List.not_mem_nil, or_false] at h
  obtain ⟨rfl, rfl⟩ | ⟨rfl, rfl⟩ | ⟨rfl, rfl⟩ := h
  · exact ⟨(·.response f), fun _ => rfl⟩
  · exact ⟨(·.launch p f), fun _ => rfl⟩
  · exact ⟨(·.acknowledged f), fun _ => rfl⟩

/-- Every flit for this device but link control arrives in one way. -/
theorem exec_inbound {p : Nat} {f : Flit} {i : Instr} {ty : Nat} (h : (i, ty) ∈ requestsOf p f ++ othersOf p f) :
    ∃ g : State → State, ∀ s, exec i s = inbound p f ty true g s := by
  obtain h | h := List.mem_append.mp h
  · exact ⟨_, exec_request h⟩
  · exact exec_other h

/-- The types of what the device does not take in recovery. -/
theorem takes_recovery {s : State} {p : Nat} {f : Flit} {i : Instr} {ty : Nat} (hb : s.boot ≠ 10) (h : (i, ty) ∈ requestsOf p f ++ othersOf p f) :
    s.takes ty = false := by
  simp only [requestsOf, othersOf, List.cons_append, List.nil_append, List.mem_cons, Prod.mk.injEq, List.not_mem_nil, or_false] at h
  have hty : ty ≠ 7 ∧ ty ≠ 8 := by omega
  simp [State.takes, hb, hty]

theorem takes_ready {s : State} (hb : s.boot = 10) (ty : Nat) : s.takes ty = true := by simp [State.takes, hb]

theorem exec_nak (p : Nat) {f : Flit} (h : bits f.payload 7 0 = 1) (s : State) :
    exec (.nak p f) s = inbound p f 8 false (fun s => s.setPort p ((s.port p).replay (bits f.payload 31 16 % 4096))) s :=
  if_neg (by simp [h])

theorem exec_credits (p : Nat) {f : Flit} (h : bits f.payload 7 0 = 2) (s : State) :
    exec (.credits p f) s = inbound p f 8 false (fun s => s.setPort p { s.port p with cred := grant (s.port p).cred f.payload }) s :=
  if_neg (by simp [h])

theorem exec_flitForward (p : Nat) {f : Flit} {s : State} (hd : f.dst ≠ s.devnum) (h0 : f.ty ≠ 0) (h8 : f.ty ≠ 8) (h10 : f.ty < 10) :
    exec (.flitForward p f) s = inbound p f f.ty false (fun s => { s with outq := s.outq ++ [f] }) s :=
  .trans (if_neg (Nat.not_le.mpr h10)) (if_neg (by simp [hd, h0, h8]))

theorem exec_flitForward_invalid {p : Nat} {f : Flit} {s : State} (hup : s.portUp p = true) (h10 : 10 ≤ f.ty) :
    exec (.flitForward p f) s = .next (s.setPort p (s.port p).discard) :=
  .trans (if_pos h10) (by rw [if_pos hup])

theorem exec_flitCrcFailure {p : Nat} {s : State} (hup : s.portUp p = true) :
    exec (.flitCrcFailure p) s = .next (s.setPort p (s.port p).discard) :=
  if_pos hup

theorem exec_idleFlit {p : Nat} {s : State} (hup : s.portUp p = true) (lack : Nat) :
    exec (.idleFlit p lack) s = .next (s.setPort p ((s.port p).ack lack)) :=
  if_pos hup

/-! ## The 256 bytes of a flit (R381) -/

theorem flitFits_iff {f : Flit} : flitFits f = true ↔ f.eseq < 2 ^ 16 ∧ f.dst < 64 ∧ f.src < 64 ∧ f.ctx < 256 ∧ f.ty < 10 ∧ f.vl < 4 ∧
    f.lseq < 4096 ∧ f.lack < 4096 ∧ f.payload < 2 ^ 1856 := by
  simp only [flitFits, Bool.and_eq_true, decide_eq_true_eq, and_assoc]

theorem flitHeader_lt {f : Flit} (h : flitFits f = true) : flitHeader f < 2 ^ 128 := by
  obtain ⟨he, hd, hs, hc, ht, hv, hl, hk, -⟩ := flitFits_iff.mp h
  simp only [flitHeader]
  omega

theorem flitCovered_lt {f : Flit} (h : flitFits f = true) : flitCovered f < 2 ^ 1984 := by
  obtain ⟨-, -, -, -, -, -, -, -, hp⟩ := flitFits_iff.mp h
  have hh := flitHeader_lt h
  calc flitCovered f = flitHeader f + 2 ^ 128 * f.payload := rfl
    _ < 2 ^ 128 * (f.payload + 1) := by omega
    _ ≤ 2 ^ 128 * 2 ^ 1856 := Nat.mul_le_mul_left _ hp
    _ = 2 ^ 1984 := by rw [← Nat.pow_add]

theorem flitImage_mod {f : Flit} (h : flitFits f = true) : flitImage f % 2 ^ 1984 = flitCovered f := by
  rw [flitImage, Nat.add_mul_mod_self_left, Nat.mod_eq_of_lt (flitCovered_lt h)]

theorem flitImage_div {f : Flit} (h : flitFits f = true) : flitImage f / 2 ^ 1984 = flitCrc (flitCovered f) := by
  rw [flitImage, Nat.add_mul_div_left _ _ (Nat.two_pow_pos _), Nat.div_eq_of_lt (flitCovered_lt h), Nat.zero_add]

/-- A field of the header, below the payload. -/
theorem bits_covered {f : Flit} {hi lo : Nat} (h : hi < 128) : bits (flitCovered f) hi lo = bits (flitHeader f) hi lo := by
  refine Nat.eq_of_testBit_eq fun i => ?_
  rw [testBit_bits, testBit_bits]
  by_cases hi' : i < hi + 1 - lo
  · have hlt : lo + i < 128 := by omega
    have e : (flitCovered f % 2 ^ 128).testBit (lo + i) = (flitHeader f % 2 ^ 128).testBit (lo + i) := by
      rw [flitCovered, Nat.add_mul_mod_self_left]
    rw [Nat.testBit_mod_two_pow, Nat.testBit_mod_two_pow] at e
    simpa [hi', hlt] using e
  · simp [hi']

theorem flitHeader_fields {f : Flit} (h : flitFits f = true) :
    bits (flitHeader f) 127 112 = f.eseq ∧ bits (flitHeader f) 111 106 = f.dst ∧ bits (flitHeader f) 105 100 = f.src ∧
    bits (flitHeader f) 99 92 = f.ctx ∧ bits (flitHeader f) 91 88 = f.ty ∧ bits (flitHeader f) 87 86 = f.vl ∧
    bits (flitHeader f) 85 74 = f.lseq ∧ bits (flitHeader f) 73 62 = f.lack := by
  obtain ⟨he, hd, hs, hc, ht, hv, hl, hk, -⟩ := flitFits_iff.mp h
  simp only [bits, flitHeader]
  omega

theorem flitCovered_payload {f : Flit} (h : flitFits f = true) : flitCovered f / 2 ^ 128 = f.payload := by
  rw [flitCovered, Nat.add_mul_div_left _ _ (Nat.two_pow_pos _), Nat.div_eq_of_lt (flitHeader_lt h), Nat.zero_add]

/-- The 256 bytes of a flit hold it. -/
theorem flitOfImage_flitImage {f : Flit} (h : flitFits f = true) : flitOfImage (flitImage f) = some f := by
  obtain ⟨he, hd, hs, hc, ht, hv, hl, hk⟩ := flitHeader_fields h
  obtain ⟨-, -, -, -, h10, -⟩ := flitFits_iff.mp h
  simp only [flitOfImage, flitImage_mod h, flitImage_div h, flitCovered_payload h, bits_covered (f := f) (show 127 < 128 by omega),
    bits_covered (f := f) (show 111 < 128 by omega), bits_covered (f := f) (show 105 < 128 by omega),
    bits_covered (f := f) (show 99 < 128 by omega), bits_covered (f := f) (show 91 < 128 by omega),
    bits_covered (f := f) (show 87 < 128 by omega), bits_covered (f := f) (show 85 < 128 by omega),
    bits_covered (f := f) (show 73 < 128 by omega), he, hd, hs, hc, ht, hv, hl, hk]
  exact if_neg (by simpa using h10)

/-- No flit when the CRC fails. -/
theorem flitOfImage_badCrc {w : Nat} (h : w / 2 ^ 1984 ≠ flitCrc (w % 2 ^ 1984)) : flitOfImage w = none :=
  if_pos (by rw [bne_iff_ne.mpr h, Bool.true_or])

end Sys2Proof.Machine
end

section
/-! LAWS. The requests of a peer, in their order and at home (18_link R382, R386, R387). -/

namespace Sys2Proof.Machine

open Sys2Proof

/-! ## In their order (R386) -/

section
variable {s : State} {f : Flit}

/-- A request whose turn it is, with none kept, is performed. -/
theorem State.inOrder_turn (h : f.eseq = (s.erecv.find f.src).getD 0) (he : s.early = []) :
    s.inOrder f = s.perform f := by
  have hback : ((s.erecv.find f.src).getD 0 + 65536 - f.eseq) % 65536 = 0 := by omega
  simp only [State.inOrder, hback, he]
  rfl

/-- One that has been performed is answered again. -/
theorem State.inOrder_again (h0 : f.eseq < 65536) (hlt : (s.erecv.find f.src).getD 0 < 65536) (h : f.eseq ≠ (s.erecv.find f.src).getD 0)
    (hback : ((s.erecv.find f.src).getD 0 + 65536 - f.eseq) % 65536 ≤ 32768) :
    s.inOrder f = match s.eresp.find (65536 * f.src + f.eseq) with
      | some ys => { s with outq := s.outq ++ ys }
      | none => s.sendAck f.src f.ctx := by
  have hne : ((s.erecv.find f.src).getD 0 + 65536 - f.eseq) % 65536 ≠ 0 := by omega
  simp only [State.inOrder]
  exact (if_neg (by simpa using hne)).trans (if_pos hback)

/-- One that came early is kept. -/
theorem State.inOrder_early (hback : 32768 < ((s.erecv.find f.src).getD 0 + 65536 - f.eseq) % 65536)
    (hnew : ∀ y, y ∈ s.early → y.src = f.src → y.eseq ≠ f.eseq) : s.inOrder f = { s with early := s.early ++ [f] } := by
  simp only [State.inOrder]
  rw [if_neg (by simp; omega), if_neg (by omega), if_neg]
  simpa using hnew

end

/-- What performing a request leaves, with its answer. -/
theorem State.perform_eq (s : State) (f : Flit) :
    s.perform f =
      let acked (r : Reply × State) : State := r.2.replyAck f.src f.ctx (bits f.payload 1359 1344) r.1.status r.1.cause
      match f.ty with
      | 1 => ((s.performRead f).2.reply f (bits f.payload 87 72) (s.performRead f).1).performed f.src
      | 3 => ((s.performAtomic f).2.reply f (bits f.payload 111 96) (s.performAtomic f).1).performed f.src
      | 2 => acked (s.performWrite f)
      | _ => acked (s.performMulticast f) := rfl

/-! ## Answers (R387) -/

/-- The number that an acknowledgement names is that of the request performed last. -/
theorem ackNumber {e : Nat} (h : e < 65536) : ((e + 1) % 65536 + 65535) % 65536 = e := by omega

theorem State.ackFlit_performed (s : State) {src : Nat} (c : Nat) (h : (s.erecv.find src).getD 0 < 65536) :
    (s.performed src).ackFlit src c = s.otherFlit src c 9 1 ((s.erecv.find src).getD 0) := by
  have hnum : ((s.performed src).erecv.find src).getD 0 = ((s.erecv.find src).getD 0 + 1) % 65536 := by simp [State.performed]
  rw [State.ackFlit, hnum, ackNumber h]
  rfl

theorem State.replyAck_eq (s : State) {src : Nat} (c tag status cause : Nat) (h : (s.erecv.find src).getD 0 < 65536) :
    s.replyAck src c tag status cause =
      let fs := (if status == 0 then [] else [s.errorFlit src c tag status cause]) ++ [s.otherFlit src c 9 1 ((s.erecv.find src).getD 0)]
      { s.performed src with outq := s.outq ++ fs, eresp := s.eresp.put (65536 * src + (s.erecv.find src).getD 0) fs } := by
  rw [← s.ackFlit_performed c h]
  rfl

/-- An acknowledgement goes out, after the error reply where there is one, and both are remembered. -/
theorem State.replyAck_spec (s : State) {src : Nat} (c tag st cause : Nat) (h : (s.erecv.find src).getD 0 < 65536) :
    let e := (s.erecv.find src).getD 0
    let S := s.replyAck src c tag st cause
    S.erecv.find src = some ((e + 1) % 65536) ∧ S.mem = s.mem ∧ ∃ y, y.ty = 9 ∧ y.dst = src ∧ y.payload = e ∧
      (st = 0 → S.outq = s.outq ++ [y] ∧ S.eresp.find (65536 * src + e) = some [y]) ∧
      (st ≠ 0 → ∃ z, z.ty = 4 ∧ z.dst = src ∧ z.payload = tag % 65536 + 2 ^ 16 * st + 2 ^ 24 * cause ∧
        S.outq = s.outq ++ [z, y] ∧ S.eresp.find (65536 * src + e) = some [z, y]) := by
  simp only [s.replyAck_eq c tag st cause h, AMap.find_put_self]
  refine ⟨AMap.find_put_self _ _ _, rfl, s.otherFlit src c 9 1 ((s.erecv.find src).getD 0), rfl, rfl, rfl, fun h0 => ?_, fun h0 =>
    ⟨s.errorFlit src c tag st cause, rfl, rfl, rfl, ?_⟩⟩ <;> simp [h0]

theorem State.reply_spec (s : State) (f : Flit) (tag : Nat) (r : Reply) :
    let y : Flit := { eseq := 0, dst := f.src, src := s.devnum, ctx := f.ctx, ty := 4, vl := 1, lseq := 0, lack := 0,
                      payload := respPayload tag r.status r.cause r.data r.tags }
    (s.reply f tag r).outq = s.outq ++ [y] ∧ (s.reply f tag r).eresp.find (65536 * f.src + f.eseq) = some [y] :=
  ⟨rfl, AMap.find_put_self _ _ _⟩

/-! ## A read at home (R387) -/

theorem State.firstPoison_of_poison {s x : State} (h : x.poison = s.poison) (pa n i : Nat) : x.firstPoison pa n i = s.firstPoison pa n i := by
  induction n generalizing i with
  | zero => rfl
  | succ n ih =>
    have hq : x.poisoned (pa + i) = s.poisoned (pa + i) := congrArg (setHas _) h
    rw [State.firstPoison, State.firstPoison, ih, hq]

theorem State.homeTags_of_tagBits {s x : State} (h : x.tagBits = s.tagBits) (pa k : Nat) : x.homeTags pa k = s.homeTags pa k := by
  induction k with
  | zero => rfl
  | succ k ih => simp only [State.homeTags, h, ih]

/-- What a read counts and corrects changes no byte, no tag bit and no poison. -/
theorem State.noteRead_keeps (s : State) (pa n : Nat) :
    (s.noteRead pa n).mem = s.mem ∧ (s.noteRead pa n).tagBits = s.tagBits ∧ (s.noteRead pa n).poison = s.poison := by
  obtain ⟨e, l, d, hnote⟩ := s.noteRead_shape pa n
  rw [hnote]
  exact ⟨rfl, rfl, rfl⟩

/-- Below the marks a request goes home, where it may be refused. -/
theorem State.reqPlace_home (s : State) (src c n : Nat) {a : Nat} (h : a < barMark) :
    s.reqPlace src c a n = match s.inRefuse src c a n with
      | some s => .error (.refused, s)
      | none => .ok a := by
  have hhost : ¬hostMark ≤ a := by simp only [hostMark, barMark] at *; omega
  simp only [State.reqPlace]
  exact (if_neg (by simp [hhost])).trans (if_neg (by simp; omega))

section
variable {s : State} {f : Flit}

/-- A length other than 1 to 4 sectors. -/
theorem State.performRead_length (h : bits f.payload 71 64 = 0 ∨ 4 < bits f.payload 71 64) : s.performRead f = (⟨2, 1, 0, 0⟩, s) :=
  if_pos (by simpa using h)

variable (h1 : 1 ≤ bits f.payload 71 64) (h4 : bits f.payload 71 64 ≤ 4) (hbar : bits f.payload 63 0 / 32 * 32 < barMark)
include h1 h4 hbar

theorem State.performRead_refused
    (h : s.refuses f.src f.ctx = true ∨ s.backed (bits f.payload 63 0 / 32 * 32) (32 * bits f.payload 71 64) = false) :
    s.performRead f = (⟨1, 0, 0, 0⟩, s.addRefused f.ctx) := by
  have hr : s.inRefuse f.src f.ctx (bits f.payload 63 0 / 32 * 32) (32 * bits f.payload 71 64) = some (s.addRefused f.ctx) :=
    if_pos (by simpa using h)
  have hlen : (bits f.payload 71 64 == 0 || decide (4 < bits f.payload 71 64)) = false := by simp; omega
  rw [State.performRead, hlen, State.reqPlace_home _ _ _ _ hbar, hr]
  rfl

theorem State.performRead_home (hr : s.refuses f.src f.ctx = false)
    (hb : s.backed (bits f.payload 63 0 / 32 * 32) (32 * bits f.payload 71 64) = true)
    (hd : s.dieRefuses (bits f.payload 63 0 / 32 * 32) = false)
    (hp : s.firstPoison (bits f.payload 63 0 / 32 * 32) (32 * bits f.payload 71 64) 0 = none) :
    s.performRead f = (⟨0, 0, s.phys (32 * bits f.payload 71 64) (bits f.payload 63 0 / 32 * 32),
        s.homeTags (bits f.payload 63 0 / 32 * 32) (32 * bits f.payload 71 64 / 8)⟩,
      s.noteRead (bits f.payload 63 0 / 32 * 32) (32 * bits f.payload 71 64)) := by
  have hnone : s.inRefuse f.src f.ctx (bits f.payload 63 0 / 32 * 32) (32 * bits f.payload 71 64) = none := by simp [State.inRefuse, hr, hb, hd]
  have hlen : (bits f.payload 71 64 == 0 || decide (4 < bits f.payload 71 64)) = false := by simp; omega
  rw [State.performRead, hlen, State.reqPlace_home _ _ _ _ hbar, hnone]
  obtain ⟨hm, ht, hq⟩ := s.noteRead_keeps (bits f.payload 63 0 / 32 * 32) (32 * bits f.payload 71 64)
  simp only [Bool.false_eq_true, if_false, State.firstPoison_of_poison hq, hp, State.homeTags_of_tagBits ht, State.phys, hm]

end

/-! ## An atomic at home (R382) -/

/-- A refusal bears no data. -/
theorem State.reqPlace_error {s : State} {src c a n : Nat} {r : Reply × State} (h : s.reqPlace src c a n = .error r) : r.1 = .refused := by
  simp only [State.reqPlace] at h
  split at h
  · contradiction
  · split at h
    · split at h
      · contradiction
      · cases h; rfl
      · cases h; rfl
    · split at h
      · cases h; rfl
      · contradiction

/-- A RED is answered by its status only. -/
theorem State.performAtomic_red {s : State} {f : Flit} (h : isRed f.payload = true) :
    (s.performAtomic f).1.data = 0 ∧ (s.performAtomic f).1.tags = 0 := by
  simp only [State.performAtomic, if_pos h]
  split
  · exact ⟨rfl, rfl⟩
  · split
    · next r hr =>
      rw [State.reqPlace_error hr]
      exact ⟨rfl, rfl⟩
    · split
      · exact ⟨rfl, rfl⟩
      · exact ⟨rfl, rfl⟩
      · exact ⟨rfl, rfl⟩

end Sys2Proof.Machine
end

section
/-! LAWS. What a port sends (18_link R383 to R385). -/

namespace Sys2Proof.Machine

open Sys2Proof

/-! ## The flit that is chosen (R384, R385) -/

section
variable {s : State} {p vl : Nat} {y : Flit}

theorem State.candidate_some (h : s.candidate p vl = some y) :
    (s.port p).cred.getD vl 0 ≠ 0 ∧ y.vl = vl ∧ y ∈ s.outq ∧ s.routePort y.dst = some p := by
  rw [State.candidate] at h
  split at h
  · contradiction
  · next hc =>
    have hq := List.find?_some h
    simp only [Bool.and_eq_true, beq_iff_eq] at hq
    obtain ⟨⟨hvl, hroute⟩, -⟩ := hq
    exact ⟨by simpa using hc, hvl, List.mem_of_find?_eq_some h, hroute⟩

/-- Every flit but an atomic goes as soon as its lane has a credit. -/
theorem State.candidate_isSome {z : Flit} (hz : z ∈ s.outq) (hty : z.ty ≠ 3) (hroute : s.routePort z.dst = some p)
    (hc : (s.port p).cred.getD z.vl 0 ≠ 0) : (s.candidate p z.vl).isSome = true := by
  rw [State.candidate, if_neg (by simpa using hc), List.find?_isSome]
  exact ⟨z, hz, by simp [hroute, State.gathering, hty]⟩

/-- The flit chosen is the first of a lane, of lane 1 when that has one. -/
theorem State.choose_candidate (h : s.choose p = some y) : ∃ vl, s.candidate p vl = some y ∧ ((s.candidate p 1).isSome = true → vl = 1) := by
  cases h1 : s.candidate p 1 with
  | some r =>
    refine ⟨1, ?_, fun _ => rfl⟩
    simp only [State.choose, h1] at h
    cases h2 : s.candidate p 2 <;> rw [h2] at h <;> exact h1.trans h
  | none =>
    simp only [State.choose, h1] at h
    cases h2 : s.candidate p 2 with
    | none =>
      rw [h2] at h
      exact ⟨0, h, nofun⟩
    | some m =>
      cases h0 : s.candidate p 0 with
      | none =>
        rw [h2, h0] at h
        exact ⟨2, h2.trans h, nofun⟩
      | some q =>
        simp only [h2, h0] at h
        split at h
        · exact ⟨2, h2.trans h, nofun⟩
        · exact ⟨0, h0.trans h, nofun⟩

end

theorem length_dropFirst {f : Flit} {fs : List Flit} (h : f ∈ fs) : (dropFirst f fs).length + 1 = fs.length := by
  induction fs with
  | nil => contradiction
  | cons g fs ih =>
    rw [dropFirst]
    split
    · rfl
    · next hne =>
      have hmem : f ∈ fs := (List.mem_cons.mp h).resolve_left fun e => hne (by simp [e])
      rw [List.length_cons, List.length_cons, ih hmem]

/-! ## A flit again (R383) -/

section
variable (x : Port) (mgmt : Bool) (y : Flit) (ys : List Flit)

theorem Port.resend_count : (x.resend mgmt y ys).repl.find y.lseq = some ((x.repl.find y.lseq).getD 0 + 1) := AMap.find_put_self _ _ _

theorem Port.resend_lack (z : Flit) (hz : z ∈ (x.resend mgmt y ys).unack) (h : z.lseq = y.lseq) : z.lack = (x.expL + 4095) % 4096 := by
  obtain ⟨g, -, rfl⟩ := List.mem_map.mp hz
  by_cases hg : g.lseq = y.lseq
  · simp [hg, Port.lackNow]
  · simp [hg] at h

theorem Port.resend_others (z : Flit) (h : z.lseq ≠ y.lseq) : z ∈ (x.resend mgmt y ys).unack ↔ z ∈ x.unack := by
  simp only [Port.resend, List.mem_map]
  constructor
  · rintro ⟨g, hg, rfl⟩
    by_cases e : g.lseq = y.lseq
    · simp [e] at h
    · simpa [e] using hg
  · intro hz
    exact ⟨z, hz, by simp [h]⟩

end

/-- Fewer than eight times. -/
theorem State.sendAgain_few {s : State} {p : Nat} (mgmt : Bool) {y : Flit} (ys : List Flit) (h : ((s.port p).repl.find y.lseq).getD 0 + 1 < 8) :
    s.sendAgain p mgmt y ys = s.setPort p ((s.port p).resend mgmt y ys) := by
  rw [State.sendAgain]
  exact if_neg (by rw [Port.resend_count]; simp only [Option.getD_some, replayLimit]; omega)

/-- The eighth time the port retrains. -/
theorem State.sendAgain_eighth {s : State} {p : Nat} (mgmt : Bool) {y : Flit} (ys : List Flit) (hup : s.portUp p = true)
    (h : 8 ≤ ((s.port p).repl.find y.lseq).getD 0 + 1) :
    ((s.sendAgain p mgmt y ys).port p).st = .retraining ∧ ((s.sendAgain p mgmt y ys).port p).unack = [] := by
  have hst : (s.port p).st = .up := by
    simp only [State.portUp, Bool.and_eq_true, beq_iff_eq] at hup
    exact hup.1
  have hagain : s.sendAgain p mgmt y ys = (s.setPort p ((s.port p).resend mgmt y ys)).retrain p := by
    rw [State.sendAgain]
    exact if_pos (by rw [Port.resend_count]; simp only [Option.getD_some, replayLimit]; omega)
  have hport : (s.setPort p ((s.port p).resend mgmt y ys)).port p = (s.port p).resend mgmt y ys := State.port_setPort_self _ _ _
  rw [hagain, State.retrain, hport, if_neg (by simp [Port.resend, hst]), State.portLeaves_port]
  exact ⟨rfl, rfl⟩

/-! ## What is sent, in its order (R383, R384) -/

/-- No management flit goes before the rest. -/
theorem State.noneLate {s : State} {p : Nat} (h : (s.port p).sent < 15 ∨ ¬(s.port p).unack.length < 1024 ∨ s.candidate p 2 = none) :
    (if decide (15 ≤ (s.port p).sent) && !decide (1024 ≤ (s.port p).unack.length) then s.candidate p 2 else none) = none := by
  obtain h | h | h := h
  · exact if_neg (by simp [Nat.not_le.mpr h])
  · exact if_neg (by simp [Nat.not_lt.mp h])
  · rw [h, ite_self]

section
variable {s : State} {p : Nat} (hup : s.portUp p = true)
include hup

theorem exec_flitTransmit : exec (.flitTransmit p) s = .next (s.transmit p) := if_pos hup

/-- The management flit that fifteen others have gone before. -/
theorem flitTransmit_late {y : Flit} (h15 : 15 ≤ (s.port p).sent) (hroom : (s.port p).unack.length < 1024) (hc : s.candidate p 2 = some y) :
    exec (.flitTransmit p) s = .next (s.sendNext p true y) := by
  rw [exec_flitTransmit hup]
  simp [State.transmit, h15, Nat.not_le.mpr hroom, hc]

variable (hlate : (s.port p).sent < 15 ∨ ¬(s.port p).unack.length < 1024 ∨ s.candidate p 2 = none)
include hlate

/-- A flit again comes first. -/
theorem flitTransmit_again {y : Flit} {ys : List Flit} (h : (s.port p).txq = y :: ys) :
    exec (.flitTransmit p) s = .next (s.sendAgain p (s.candidate p 2).isSome y ys) := by
  rw [exec_flitTransmit hup, State.transmit, State.noneLate hlate, h]

variable (hnone : (s.port p).txq = [])
include hnone

theorem flitTransmit_full (hroom : ¬(s.port p).unack.length < 1024) : exec (.flitTransmit p) s = .next s := by
  rw [exec_flitTransmit hup, State.transmit, State.noneLate hlate, hnone]
  simp [Nat.not_lt.mp hroom]

/-- Link control, where there is room. -/
theorem flitTransmit_control {c : Nat} {cs : List Nat} (hroom : (s.port p).unack.length < 1024) (h : (s.port p).ctl = c :: cs) :
    exec (.flitTransmit p) s =
      .next (s.setPort p ({ s.port p with ctl := cs }.sendNew (s.candidate p 2).isSome (s.control p c))) := by
  rw [exec_flitTransmit hup, State.transmit, State.noneLate hlate, hnone]
  simp [Nat.not_le.mpr hroom, h, hnone]

/-- The flit chosen, when no link control waits. -/
theorem flitTransmit_next {y : Flit} (hroom : (s.port p).unack.length < 1024) (h : (s.port p).ctl = []) (hy : s.choose p = some y) :
    exec (.flitTransmit p) s = .next (s.sendNext p (s.candidate p 2).isSome y) := by
  rw [exec_flitTransmit hup, State.transmit, State.noneLate hlate, hnone]
  simp [Nat.not_le.mpr hroom, h, hy]

end

end Sys2Proof.Machine
end

section
/-! LAWS. The link as a whole (18_link R381 to R390; 05_queue R112). -/

namespace Sys2Proof.Machine

open Sys2Proof

section
variable {s : State} {p : Nat} {f : Flit} (hup : s.portUp p = true)
include hup

/-- A flit out of place is discarded, whatever it is. -/
theorem link_away (h : f.lseq ≠ (s.port p).expL) :
    (f.dst = s.devnum → ∀ i ty, (i, ty) ∈ (.managementFrame p f, 7) :: requestsOf p f ++ othersOf p f → f.ty = ty →
      exec i s = .next (s.setPort p (s.port p).discard)) ∧
    (f.ty = 8 ∧ bits f.payload 7 0 = 1 → exec (.nak p f) s = .next (s.setPort p (s.port p).discard)) ∧
    (f.ty = 8 ∧ bits f.payload 7 0 = 2 → exec (.credits p f) s = .next (s.setPort p (s.port p).discard)) ∧
    (f.dst ≠ s.devnum ∧ f.ty ≠ 0 ∧ f.ty ≠ 8 ∧ f.ty < 10 → exec (.flitForward p f) s = .next (s.setPort p (s.port p).discard)) := by
  refine ⟨fun hd i ty hi hty => ?_, fun ⟨hty, hk⟩ => ?_, fun ⟨hty, hk⟩ => ?_, fun ⟨hd, h0, h8, h10⟩ => ?_⟩
  · obtain hm | hi := List.mem_cons.mp hi
    · obtain ⟨rfl, rfl⟩ := Prod.mk.inj hm
      exact inbound_away hup hty (fun _ => hd) (·.manage f) h
    · obtain ⟨g, hg⟩ := exec_inbound hi
      rw [hg, inbound_away hup hty (fun _ => hd) g h]
  · rw [exec_nak p hk, inbound_away (here := false) hup hty nofun _ h]
  · rw [exec_credits p hk, inbound_away (here := false) hup hty nofun _ h]
  · rw [exec_flitForward p hd h0 h8 h10, inbound_away (here := false) hup rfl nofun _ h]

/-- In recovery a flit for this device that is no management frame is taken and does nothing. -/
theorem link_recovery (hb : s.boot ≠ 10) (h : f.lseq = (s.port p).expL) (hd : f.dst = s.devnum) {i : Instr} {ty : Nat}
    (hi : (i, ty) ∈ requestsOf p f ++ othersOf p f) (hty : f.ty = ty) : exec i s = .next (s.setPort p ((s.port p).take f)) := by
  obtain ⟨g, hg⟩ := exec_inbound hi
  rw [hg, inbound_idle hup hty (fun _ => hd) g h (takes_recovery hb hi)]

/-- A request in its place is put in its end-to-end order. -/
theorem link_request (hb : s.boot = 10) (h : f.lseq = (s.port p).expL) (hd : f.dst = s.devnum) {i : Instr} {ty : Nat}
    (hi : (i, ty) ∈ requestsOf p f) (hty : f.ty = ty) : exec i s = .next ((s.setPort p ((s.port p).take f)).inOrder f) := by
  rw [exec_request hi, inbound_taken hup hty (fun _ => hd) _ h (takes_ready hb ty)]

/-! ## Flits in their place (R383, R384, R387, R389, R112) -/

section
variable (h : f.lseq = (s.port p).expL)
include h

theorem link_management (hd : f.dst = s.devnum) (hty : f.ty = 7) :
    exec (.managementFrame p f) s = .next ((s.setPort p ((s.port p).take f)).manage f) :=
  inbound_taken hup hty (fun _ => hd) (·.manage f) h (by simp [State.takes])

theorem link_nak (hty : f.ty = 8) (hk : bits f.payload 7 0 = 1) :
    exec (.nak p f) s = .next ((s.setPort p ((s.port p).take f)).setPort p (((s.port p).take f).replay (bits f.payload 31 16 % 4096))) := by
  rw [exec_nak p hk, inbound_taken (here := false) hup hty nofun _ h (by simp [State.takes]), State.port_setPort_self]

theorem link_credits (hty : f.ty = 8) (hk : bits f.payload 7 0 = 2) :
    exec (.credits p f) s = .next ((s.setPort p ((s.port p).take f)).setPort p
      { (s.port p).take f with cred := grant (s.port p).cred f.payload }) := by
  rw [exec_credits p hk, inbound_taken (here := false) hup hty nofun _ h (by simp [State.takes]), State.port_setPort_self]
  rfl

variable (hb : s.boot = 10)
include hb

theorem link_forward (hd : f.dst ≠ s.devnum) (h0 : f.ty ≠ 0) (h8 : f.ty ≠ 8) (h10 : f.ty < 10) :
    exec (.flitForward p f) s = .next { s.setPort p ((s.port p).take f) with outq := s.outq ++ [f] } := by
  rw [exec_flitForward p hd h0 h8 h10, inbound_taken (here := false) hup rfl nofun _ h (takes_ready hb _)]
  rfl

theorem link_response (hd : f.dst = s.devnum) (hty : f.ty = 4) :
    exec (.flitResponse p f) s = .next ((s.setPort p ((s.port p).take f)).response f) :=
  inbound_taken hup hty (fun _ => hd) (·.response f) h (takes_ready hb _)

theorem link_launch (hd : f.dst = s.devnum) (hty : f.ty = 5) :
    exec (.launchFrame p f) s = .next ((s.setPort p ((s.port p).take f)).launch p f) :=
  inbound_taken hup hty (fun _ => hd) (·.launch p f) h (takes_ready hb _)

/-- Posted writes up to the number that is acknowledged are done. -/
theorem link_acknowledged (hd : f.dst = s.devnum) (hty : f.ty = 9) :
    ∃ S : State, exec (.endToEndAcknowledgement p f) s = .next S.sweepGangs ∧ S.mem = s.mem ∧ S.outq = s.outq ∧
      ∀ i r, (i, r) ∈ S.remops ↔ (i, r) ∈ s.remops ∧
        ¬(r.posted = true ∧ r.dev = f.src ∧ (bits f.payload 15 0 + 65536 - r.eseq) % 65536 < 32768) := by
  refine ⟨_, inbound_taken hup hty (fun _ => hd) (·.acknowledged f) h (takes_ready hb _), rfl, rfl, fun i r => ?_⟩
  refine AMap.mem_keep.trans (and_congr_right fun _ => ?_)
  simp only [eseqUpTo, ← Bool.not_eq_true, Bool.not_eq_true', Bool.and_eq_true, beq_iff_eq, decide_eq_true_eq, and_assoc]

end

/-! ## Sending (R383, R384) -/

theorem link_sendLate {y : Flit} (h15 : 15 ≤ (s.port p).sent) (hroom : (s.port p).unack.length < 1024) (hy : s.candidate p 2 = some y) :
    ∃ S, exec (.flitTransmit p) s = .next S ∧
      ((S.port p).sent = 0 ∧ (S.port p).txq = (s.port p).txq ∧ (S.port p).ctl = (s.port p).ctl) ∧
      (S.port p).nextL = ((s.port p).nextL + 1) % 4096 ∧
      (S.port p).unack = (s.port p).unack ++ [{ y with lseq := (s.port p).nextL, lack := ((s.port p).expL + 4095) % 4096 }] := by
  obtain ⟨-, hvl, -, -⟩ := State.candidate_some hy
  refine ⟨_, flitTransmit_late hup h15 hroom hy, ?_⟩
  rw [State.sendNext, State.port_setPort_self]
  exact ⟨⟨if_pos (by simp [hvl]), rfl, rfl⟩, rfl, rfl⟩

variable (hlate : (s.port p).sent < 15 ∨ ¬(s.port p).unack.length < 1024 ∨ s.candidate p 2 = none)
include hlate

theorem link_sendAgain {y : Flit} {ys : List Flit} (h : (s.port p).txq = y :: ys) :
    (((s.port p).repl.find y.lseq).getD 0 + 1 < 8 →
      ∃ X, exec (.flitTransmit p) s = .next (s.setPort p X) ∧ X.txq = ys ∧ X.replays = min ((s.port p).replays + 1) 65535 ∧
        X.repl.find y.lseq = some (((s.port p).repl.find y.lseq).getD 0 + 1) ∧ X.nextL = (s.port p).nextL ∧
        (∀ z, z ∈ X.unack → z.lseq = y.lseq → z.lack = ((s.port p).expL + 4095) % 4096) ∧
        ∀ z, z.lseq ≠ y.lseq → (z ∈ X.unack ↔ z ∈ (s.port p).unack)) ∧
    (8 ≤ ((s.port p).repl.find y.lseq).getD 0 + 1 →
      ∃ S, exec (.flitTransmit p) s = .next S ∧ (S.port p).st = .retraining ∧ (S.port p).unack = []) := by
  have hagain := flitTransmit_again hup hlate h
  refine ⟨fun hk => ⟨_, hagain.trans (congrArg _ (State.sendAgain_few _ ys hk)), rfl, rfl, Port.resend_count _ _ _ _, rfl,
    Port.resend_lack _ _ _ _, Port.resend_others _ _ _ _⟩, fun hk => ⟨_, hagain, State.sendAgain_eighth _ ys hup hk⟩⟩

variable (hnone : (s.port p).txq = []) (hroom : (s.port p).unack.length < 1024)
include hnone hroom

theorem link_sendControl {c : Nat} {cs : List Nat} (h : (s.port p).ctl = c :: cs) :
    ∃ S, exec (.flitTransmit p) s = .next S ∧ ((S.port p).ctl = cs ∧ S.outq = s.outq) ∧
      (S.port p).nextL = ((s.port p).nextL + 1) % 4096 ∧
      (S.port p).unack = (s.port p).unack ++
        [{ s.control p c with lseq := (s.port p).nextL, lack := ((s.port p).expL + 4095) % 4096 }] := by
  refine ⟨_, flitTransmit_control hup hlate hnone hroom h, ?_⟩
  rw [State.port_setPort_self]
  exact ⟨⟨rfl, rfl⟩, rfl, rfl⟩

theorem link_sendNext {y : Flit} (h : (s.port p).ctl = []) (hy : s.choose p = some y) :
    (s.port p).cred.getD y.vl 0 ≠ 0 ∧ y ∈ s.outq ∧ s.routePort y.dst = some p ∧
    (∀ z, z ∈ s.outq → z.vl = 1 → z.ty ≠ 3 → s.routePort z.dst = some p → (s.port p).cred.getD 1 0 ≠ 0 → y.vl = 1) ∧
    ∃ S, exec (.flitTransmit p) s = .next S ∧ S.outq.length + 1 = s.outq.length ∧
      (S.port p).nextL = ((s.port p).nextL + 1) % 4096 ∧
      (S.port p).unack = (s.port p).unack ++ [{ y with lseq := (s.port p).nextL, lack := ((s.port p).expL + 4095) % 4096 }] := by
  obtain ⟨vl, hc, hfirst⟩ := State.choose_candidate hy
  obtain ⟨hcred, rfl, hmem, hroute⟩ := State.candidate_some hc
  refine ⟨hcred, hmem, hroute, fun z hz hvl hty hzr hz1 => hfirst ?_, _, flitTransmit_next hup hlate hnone hroom h hy, ?_⟩
  · have := State.candidate_isSome hz hty hzr (hvl ▸ hz1)
    rwa [hvl] at this
  · refine ⟨length_dropFirst hmem, ?_⟩
    rw [State.sendNext, State.port_setPort_self]
    exact ⟨rfl, rfl⟩

end

/-- Settles O54: every flit step is an arrival at its port, a request then takes its end-to-end turn, and a port sends in its one order. -/
theorem link : Obligations.Link := by
  unfold Obligations.Link
  intro s p lack f hup x T reqs mine others away ctl on e resp
  refine ⟨Port.take_spec x f, Port.discard_spec x, fun h => link_away hup h, fun hb h hd i ty hi hty => link_recovery hup hb h hd hi hty,
    ⟨flitOfImage_flitImage, fun w => flitOfImage_badCrc⟩, ?_, ?_, ?_, ?_, fun tag r => T.reply_spec f tag r, ?_, State.performAtomic_red, ?_,
    ⟨_, exec_idleFlit hup lack, rfl, fun y => ?_⟩, exec_flitCrcFailure hup, fun h => exec_flitForward_invalid hup h, ?_⟩
  · intro heq _ he hb h hd i ty hi hty
    rw [link_request hup hb h hd hi hty]
    exact congrArg _ ((State.inOrder_turn (s := T) heq he).trans (T.perform_eq f))
  · rintro src c tag st cause hlt rfl
    exact s.replyAck_spec c tag st cause hlt
  · intro h0 hlt hne hback hb h hd i ty hi hty
    rw [link_request hup hb h hd hi hty]
    exact congrArg _ (State.inOrder_again h0 hlt hne hback)
  · intro hback hnew hb h hd i ty hi hty
    rw [link_request hup hb h hd hi hty]
    exact congrArg _ (State.inOrder_early hback hnew)
  · refine ⟨State.performRead_length, fun h1 h4 hbar => ⟨State.performRead_refused h1 h4 hbar, fun hr hb hd hp => ?_⟩⟩
    rw [State.performRead_home h1 h4 hbar hr hb hd hp]
    exact ⟨rfl, (s.noteRead_keeps _ _).1⟩
  · intro h
    exact ⟨link_management hup h, fun hb hd => ⟨link_response hup h hb hd, link_acknowledged hup h hb hd, link_launch hup h hb hd⟩,
      fun hb ⟨hd, h0, h8, h10⟩ => link_forward hup h hb hd h0 h8 h10,
      fun ⟨hty, hk⟩ => ⟨rfl, fun _ => Port.mem_replay_unack, link_nak hup h hty hk⟩, fun ⟨hty, hk⟩ => link_credits hup h hty hk⟩
  · rw [State.port_setPort_self]
    exact Port.mem_ack_unack
  · refine ⟨fun y h15 hroom hy => link_sendLate hup h15 hroom hy, fun hlate => ⟨fun y ys h => link_sendAgain hup hlate h,
      fun hnone hroom => flitTransmit_full hup hlate hnone hroom, fun hnone hroom => ⟨fun c cs h => link_sendControl hup hlate hnone hroom h,
        fun h y hy => link_sendNext hup hlate hnone hroom h hy⟩⟩⟩

end Sys2Proof.Machine
end
